-- ==== Sys2Proof/Word.lean ====
section
/-!
DEFINITION. The widths of the Obquel 96 (R11, R12, R24, R28): a word is 32 bits, a scalar register 64 bits, and a
vector register is 32 lanes of one word each.  Only types and their plainest arithmetic stand here.
-/

namespace Sys2Proof

/-- An instruction word, or one lane of a vector register (R24, R28). -/
abbrev Word := BitVec 32

/-- A scalar register, an address, or a value of the timebase (R24, R29, R183). -/
abbrev DWord := BitVec 64

/-- One byte of any memory space (R6). -/
abbrev Byte := BitVec 8

/-- A register number as an encoding carries it (R51). -/
abbrev RegNo := BitVec 6

/-- The 32 lanes of one vector register; lane i is limb i of a resident number (R21). -/
abbrev Lanes := Vector Word 32

/-- Lane i as a Boolean of a 32-bit lane mask (R13). -/
abbrev LaneMask := BitVec 32

end Sys2Proof
end

