-- ==== Sys2Proof/Syntax.lean ====
section
/-!
DEFINITION. The instructions and events of the Obquel 96: one constructor per row of the opcode table.  An encoded
instruction carries the fields of its encoding (R50); an event carries the identities of what it acts on.
-/

namespace Sys2Proof

/-- The package core number 192d + 48c + k (R19). -/
abbrev CoreId := BitVec 10

/-- A span slot of a core of this package (R19). -/
structure SpanId where
  core : CoreId
  slot : BitVec 6
  deriving DecidableEq, Repr

/-- A bound group of the model: the number its bind gave it. -/
abbrev GroupId := Nat

/-- A die of the package: 0 to 3 are the compute dies, 4 is the IO die (R19). -/
abbrev DieId := Fin 5

/-- A region identifier (Table 12.4): package, core, slot, access path and sequence number. -/
structure RegionId where
  pkg  : BitVec 8
  core : CoreId
  slot : BitVec 6
  path : BitVec 3
  seq  : BitVec 21
  deriving DecidableEq, Repr

/-- An independent memory channel: a pseudo-channel of a compute die or a paddock sub-channel (R81, R83). -/
inductive Channel where
  | hbm (die : Fin 4) (pc : BitVec 7)
  | paddock (sc : BitVec 6)
  deriving DecidableEq, Repr

/-- A data bank of an L2 slice or of an RDC slice of a compute die (R157). -/
structure BankId where
  die   : Fin 4
  rdc   : Bool
  slice : BitVec 6
  bank  : BitVec 3
  deriving DecidableEq, Repr

/-- An ordering domain of the host ordering point (R131). -/
structure OrderDomain where
  port : Bool
  vc   : BitVec 3
  /-- The requester, when ID-based ordering narrows the domain to it. -/
  requester : Option (BitVec 16)
  deriving DecidableEq, Repr

/-- A bind record of the Stable (Table 13.4) without its STATE field. -/
structure BindRecord where
  core     : CoreId
  slot0    : BitVec 6
  nspan    : BitVec 7
  prio     : BitVec 2
  basev    : BitVec 2
  spawned  : Bool
  group    : BitVec 32
  launch   : DWord
  bag      : DWord
  phase    : DWord
  age      : BitVec 96
  deadline : DWord
  deriving DecidableEq, Repr

/-- The fields of a prefix word (R46). -/
structure Pre where
  mask : BitVec 4
  z    : Bool
  rnd  : BitVec 3
  vc   : RegNo
  sub  : BitVec 3
  sat  : Bool
  fill : Bool
  deriving DecidableEq, Repr

/-- The default value of every prefix field (R47). -/
def Pre.default : Pre :=
  { mask := 0, z := false, rnd := 0, vc := 0, sub := 5, sat := false, fill := false }

/-- Every instruction and event of the opcode table.  In classes 2, 3, 4, 5 and 8 the field p is the prefix word
chained before the instruction, if there is one (R46).  The field c is the chain bit (R31). -/
inductive Instr where
  /-- `.clause` (R38) -/
  | clauseStart (l : BitVec 4) (w : BitVec 12) (a : BitVec 4) (b : BitVec 4)
  /-- `add` (R232) -/
  | add (c : Bool) (d : BitVec 6) (a : BitVec 6) (b : BitVec 6) (w : Bool)
  /-- `sub` (R232) -/
  | sub (c : Bool) (d : BitVec 6) (a : BitVec 6) (b : BitVec 6) (w : Bool)
  /-- `addc` (R232) -/
  | addc (c : Bool) (d : BitVec 6) (a : BitVec 6) (b : BitVec 6) (w : Bool)
  /-- `mul` (R232) -/
  | mul (c : Bool) (d : BitVec 6) (a : BitVec 6) (b : BitVec 6) (w : Bool)
  /-- `mulh` (R232) -/
  | mulh (c : Bool) (d : BitVec 6) (a : BitVec 6) (b : BitVec 6) (w : Bool)
  /-- `mulhu` (R232) -/
  | mulhu (c : Bool) (d : BitVec 6) (a : BitVec 6) (b : BitVec 6) (w : Bool)
  /-- `div` (R232) -/
  | div (c : Bool) (d : BitVec 6) (a : BitVec 6) (b : BitVec 6) (w : Bool)
  /-- `divu` (R232) -/
  | divu (c : Bool) (d : BitVec 6) (a : BitVec 6) (b : BitVec 6) (w : Bool)
  /-- `rem` (R232) -/
  | rem (c : Bool) (d : BitVec 6) (a : BitVec 6) (b : BitVec 6) (w : Bool)
  /-- `remu` (R232) -/
  | remu (c : Bool) (d : BitVec 6) (a : BitVec 6) (b : BitVec 6) (w : Bool)
  /-- `and` (R232) -/
  | and (c : Bool) (d : BitVec 6) (a : BitVec 6) (b : BitVec 6) (w : Bool)
  /-- `or` (R232) -/
  | or (c : Bool) (d : BitVec 6) (a : BitVec 6) (b : BitVec 6) (w : Bool)
  /-- `xor` (R232) -/
  | xor (c : Bool) (d : BitVec 6) (a : BitVec 6) (b : BitVec 6) (w : Bool)
  /-- `andn` (R232) -/
  | andn (c : Bool) (d : BitVec 6) (a : BitVec 6) (b : BitVec 6) (w : Bool)
  /-- `shl` (R232) -/
  | shl (c : Bool) (d : BitVec 6) (a : BitVec 6) (b : BitVec 6) (w : Bool)
  /-- `shr` (R232) -/
  | shr (c : Bool) (d : BitVec 6) (a : BitVec 6) (b : BitVec 6) (w : Bool)
  /-- `sar` (R232) -/
  | sar (c : Bool) (d : BitVec 6) (a : BitVec 6) (b : BitVec 6) (w : Bool)
  /-- `rol` (R232) -/
  | rol (c : Bool) (d : BitVec 6) (a : BitVec 6) (b : BitVec 6) (w : Bool)
  /-- `min` (R232) -/
  | min (c : Bool) (d : BitVec 6) (a : BitVec 6) (b : BitVec 6) (w : Bool)
  /-- `max` (R232) -/
  | max (c : Bool) (d : BitVec 6) (a : BitVec 6) (b : BitVec 6) (w : Bool)
  /-- `minu` (R232) -/
  | minu (c : Bool) (d : BitVec 6) (a : BitVec 6) (b : BitVec 6) (w : Bool)
  /-- `maxu` (R232) -/
  | maxu (c : Bool) (d : BitVec 6) (a : BitVec 6) (b : BitVec 6) (w : Bool)
  /-- `cmp.eq` (R232) -/
  | cmpEq (c : Bool) (d : BitVec 6) (a : BitVec 6) (b : BitVec 6) (w : Bool)
  /-- `cmp.ne` (R232) -/
  | cmpNe (c : Bool) (d : BitVec 6) (a : BitVec 6) (b : BitVec 6) (w : Bool)
  /-- `cmp.lt` (R232) -/
  | cmpLt (c : Bool) (d : BitVec 6) (a : BitVec 6) (b : BitVec 6) (w : Bool)
  /-- `cmp.ge` (R232) -/
  | cmpGe (c : Bool) (d : BitVec 6) (a : BitVec 6) (b : BitVec 6) (w : Bool)
  /-- `cmp.ltu` (R232) -/
  | cmpLtu (c : Bool) (d : BitVec 6) (a : BitVec 6) (b : BitVec 6) (w : Bool)
  /-- `cmp.geu` (R232) -/
  | cmpGeu (c : Bool) (d : BitVec 6) (a : BitVec 6) (b : BitVec 6) (w : Bool)
  /-- `sel` (R232) -/
  | sel (c : Bool) (d : BitVec 6) (a : BitVec 6) (b : BitVec 6)
  /-- `clz` (R232) -/
  | clz (c : Bool) (d : BitVec 6) (a : BitVec 6) (w : Bool)
  /-- `ctz` (R232) -/
  | ctz (c : Bool) (d : BitVec 6) (a : BitVec 6) (w : Bool)
  /-- `popc` (R232) -/
  | popc (c : Bool) (d : BitVec 6) (a : BitVec 6) (w : Bool)
  /-- `bext` (R232) -/
  | bext (c : Bool) (d : BitVec 6) (a : BitVec 6) (b : BitVec 6)
  /-- `bins` (R232) -/
  | bins (c : Bool) (d : BitVec 6) (a : BitVec 6) (b : BitVec 6)
  /-- `mov` (R232) -/
  | mov (c : Bool) (d : BitVec 6) (a : BitVec 6) (w : Bool)
  /-- `addi` (R233) -/
  | addi (c : Bool) (d : BitVec 6) (i : BitVec 16)
  /-- `movi` (R233) -/
  | movi (c : Bool) (d : BitVec 6) (i : BitVec 16)
  /-- `movhi` (R233) -/
  | movhi (c : Bool) (d : BitVec 6) (i : BitVec 16)
  /-- `andi` (R233) -/
  | andi (c : Bool) (d : BitVec 6) (i : BitVec 16)
  /-- `ori` (R233) -/
  | ori (c : Bool) (d : BitVec 6) (i : BitVec 16)
  /-- `xori` (R233) -/
  | xori (c : Bool) (d : BitVec 6) (i : BitVec 16)
  /-- `shli` (R233) -/
  | shli (c : Bool) (d : BitVec 6) (i : BitVec 6)
  /-- `shri` (R233) -/
  | shri (c : Bool) (d : BitVec 6) (i : BitVec 6)
  /-- `cmpi.eq` (R233) -/
  | cmpiEq (c : Bool) (d : BitVec 6) (i : BitVec 16)
  /-- `cmpi.ne` (R233) -/
  | cmpiNe (c : Bool) (d : BitVec 6) (i : BitVec 16)
  /-- `cmpi.lt` (R233) -/
  | cmpiLt (c : Bool) (d : BitVec 6) (i : BitVec 16)
  /-- `cmpi.ge` (R233) -/
  | cmpiGe (c : Bool) (d : BitVec 6) (i : BitVec 16)
  /-- `cmpi.ltu` (R233) -/
  | cmpiLtu (c : Bool) (d : BitVec 6) (i : BitVec 16)
  /-- `cmpi.geu` (R233) -/
  | cmpiGeu (c : Bool) (d : BitVec 6) (i : BitVec 16)
  /-- `br` (R234) -/
  | br (c : Bool) (p : BitVec 16)
  /-- `brc` (R234) -/
  | brc (c : Bool) (d : BitVec 6) (p : BitVec 16)
  /-- `brv` (R235) -/
  | brv (c : Bool) (m : BitVec 6) (p : BitVec 16)
  /-- `call` (R234) -/
  | call (c : Bool) (d : BitVec 6) (p : BitVec 16)
  /-- `ret` (R234) -/
  | ret (c : Bool) (d : BitVec 6)
  /-- `jmpr` (R234) -/
  | jmpr (c : Bool) (d : BitVec 6)
  /-- `join` (R236) -/
  | join (c : Bool)
  /-- `regang` (R239) -/
  | regang (c : Bool)
  /-- `REGANG_RELEASE` (R239) -/
  | regangRelease (sp : SpanId)
  /-- `exit` (R237) -/
  | exit (c : Bool)
  /-- `nop` (R239) -/
  | nop (c : Bool)
  /-- `vadd` (R241) -/
  | vadd (p : Option Pre) (c : Bool) (t : BitVec 3) (d : BitVec 6) (a : BitVec 6) (b : BitVec 6)
  /-- `vadd` (R241) -/
  | vaddS (p : Option Pre) (c : Bool) (t : BitVec 3) (d : BitVec 6) (a : BitVec 6) (s : BitVec 6)
  /-- `vadd` (R241) -/
  | vaddI (p : Option Pre) (c : Bool) (t : BitVec 3) (d : BitVec 6) (a : BitVec 6) (i : BitVec 6)
  /-- `vsub` (R241) -/
  | vsub (p : Option Pre) (c : Bool) (t : BitVec 3) (d : BitVec 6) (a : BitVec 6) (b : BitVec 6)
  /-- `vsub` (R241) -/
  | vsubS (p : Option Pre) (c : Bool) (t : BitVec 3) (d : BitVec 6) (a : BitVec 6) (s : BitVec 6)
  /-- `vsub` (R241) -/
  | vsubI (p : Option Pre) (c : Bool) (t : BitVec 3) (d : BitVec 6) (a : BitVec 6) (i : BitVec 6)
  /-- `vmul` (R241) -/
  | vmul (p : Option Pre) (c : Bool) (t : BitVec 3) (d : BitVec 6) (a : BitVec 6) (b : BitVec 6)
  /-- `vmul` (R241) -/
  | vmulS (p : Option Pre) (c : Bool) (t : BitVec 3) (d : BitVec 6) (a : BitVec 6) (s : BitVec 6)
  /-- `vmulh` (R241) -/
  | vmulh (p : Option Pre) (c : Bool) (t : BitVec 3) (d : BitVec 6) (a : BitVec 6) (b : BitVec 6)
  /-- `vmulh` (R241) -/
  | vmulhS (p : Option Pre) (c : Bool) (t : BitVec 3) (d : BitVec 6) (a : BitVec 6) (s : BitVec 6)
  /-- `vmulhu` (R241) -/
  | vmulhu (p : Option Pre) (c : Bool) (d : BitVec 6) (a : BitVec 6) (b : BitVec 6)
  /-- `vmulhu` (R241) -/
  | vmulhuS (p : Option Pre) (c : Bool) (d : BitVec 6) (a : BitVec 6) (s : BitVec 6)
  /-- `vmad` (R241) -/
  | vmad (p : Option Pre) (c : Bool) (t : BitVec 3) (d : BitVec 6) (a : BitVec 6) (b : BitVec 6)
  /-- `vaddc` (R242) -/
  | vaddc (p : Option Pre) (c : Bool) (d : BitVec 6) (a : BitVec 6) (b : BitVec 6)
  /-- `vsubc` (R242) -/
  | vsubc (p : Option Pre) (c : Bool) (d : BitVec 6) (a : BitVec 6) (b : BitVec 6)
  /-- `vmulw` (R243) -/
  | vmulw (p : Option Pre) (c : Bool) (t : BitVec 3) (d : BitVec 6) (a : BitVec 6) (b : BitVec 6)
  /-- `vand` (R241) -/
  | vand (p : Option Pre) (c : Bool) (t : BitVec 3) (d : BitVec 6) (a : BitVec 6) (b : BitVec 6)
  /-- `vand` (R241) -/
  | vandS (p : Option Pre) (c : Bool) (t : BitVec 3) (d : BitVec 6) (a : BitVec 6) (s : BitVec 6)
  /-- `vand` (R241) -/
  | vandI (p : Option Pre) (c : Bool) (t : BitVec 3) (d : BitVec 6) (a : BitVec 6) (i : BitVec 6)
  /-- `vor` (R241) -/
  | vor (p : Option Pre) (c : Bool) (t : BitVec 3) (d : BitVec 6) (a : BitVec 6) (b : BitVec 6)
  /-- `vor` (R241) -/
  | vorS (p : Option Pre) (c : Bool) (t : BitVec 3) (d : BitVec 6) (a : BitVec 6) (s : BitVec 6)
  /-- `vor` (R241) -/
  | vorI (p : Option Pre) (c : Bool) (t : BitVec 3) (d : BitVec 6) (a : BitVec 6) (i : BitVec 6)
  /-- `vxor` (R241) -/
  | vxor (p : Option Pre) (c : Bool) (t : BitVec 3) (d : BitVec 6) (a : BitVec 6) (b : BitVec 6)
  /-- `vxor` (R241) -/
  | vxorS (p : Option Pre) (c : Bool) (t : BitVec 3) (d : BitVec 6) (a : BitVec 6) (s : BitVec 6)
  /-- `vxor` (R241) -/
  | vxorI (p : Option Pre) (c : Bool) (t : BitVec 3) (d : BitVec 6) (a : BitVec 6) (i : BitVec 6)
  /-- `vshl` (R241) -/
  | vshl (p : Option Pre) (c : Bool) (t : BitVec 3) (d : BitVec 6) (a : BitVec 6) (b : BitVec 6)
  /-- `vshl` (R241) -/
  | vshlS (p : Option Pre) (c : Bool) (t : BitVec 3) (d : BitVec 6) (a : BitVec 6) (s : BitVec 6)
  /-- `vshl` (R241) -/
  | vshlI (p : Option Pre) (c : Bool) (t : BitVec 3) (d : BitVec 6) (a : BitVec 6) (i : BitVec 6)
  /-- `vshr` (R241) -/
  | vshr (p : Option Pre) (c : Bool) (t : BitVec 3) (d : BitVec 6) (a : BitVec 6) (b : BitVec 6)
  /-- `vshr` (R241) -/
  | vshrS (p : Option Pre) (c : Bool) (t : BitVec 3) (d : BitVec 6) (a : BitVec 6) (s : BitVec 6)
  /-- `vshr` (R241) -/
  | vshrI (p : Option Pre) (c : Bool) (t : BitVec 3) (d : BitVec 6) (a : BitVec 6) (i : BitVec 6)
  /-- `vsar` (R241) -/
  | vsar (p : Option Pre) (c : Bool) (t : BitVec 3) (d : BitVec 6) (a : BitVec 6) (b : BitVec 6)
  /-- `vsar` (R241) -/
  | vsarS (p : Option Pre) (c : Bool) (t : BitVec 3) (d : BitVec 6) (a : BitVec 6) (s : BitVec 6)
  /-- `vsar` (R241) -/
  | vsarI (p : Option Pre) (c : Bool) (t : BitVec 3) (d : BitVec 6) (a : BitVec 6) (i : BitVec 6)
  /-- `vmin` (R241) -/
  | vmin (p : Option Pre) (c : Bool) (t : BitVec 3) (d : BitVec 6) (a : BitVec 6) (b : BitVec 6)
  /-- `vmin` (R241) -/
  | vminS (p : Option Pre) (c : Bool) (t : BitVec 3) (d : BitVec 6) (a : BitVec 6) (s : BitVec 6)
  /-- `vmax` (R241) -/
  | vmax (p : Option Pre) (c : Bool) (t : BitVec 3) (d : BitVec 6) (a : BitVec 6) (b : BitVec 6)
  /-- `vmax` (R241) -/
  | vmaxS (p : Option Pre) (c : Bool) (t : BitVec 3) (d : BitVec 6) (a : BitVec 6) (s : BitVec 6)
  /-- `vminu` (R241) -/
  | vminu (p : Option Pre) (c : Bool) (d : BitVec 6) (a : BitVec 6) (b : BitVec 6)
  /-- `vminu` (R241) -/
  | vminuS (p : Option Pre) (c : Bool) (d : BitVec 6) (a : BitVec 6) (s : BitVec 6)
  /-- `vmaxu` (R241) -/
  | vmaxu (p : Option Pre) (c : Bool) (d : BitVec 6) (a : BitVec 6) (b : BitVec 6)
  /-- `vmaxu` (R241) -/
  | vmaxuS (p : Option Pre) (c : Bool) (d : BitVec 6) (a : BitVec 6) (s : BitVec 6)
  /-- `vcmp.eq` (R243) -/
  | vcmpEq (p : Option Pre) (c : Bool) (t : BitVec 3) (m : BitVec 6) (a : BitVec 6) (b : BitVec 6)
  /-- `vcmp.eq` (R243) -/
  | vcmpEqS (p : Option Pre) (c : Bool) (t : BitVec 3) (m : BitVec 6) (a : BitVec 6) (s : BitVec 6)
  /-- `vcmp.ne` (R243) -/
  | vcmpNe (p : Option Pre) (c : Bool) (t : BitVec 3) (m : BitVec 6) (a : BitVec 6) (b : BitVec 6)
  /-- `vcmp.ne` (R243) -/
  | vcmpNeS (p : Option Pre) (c : Bool) (t : BitVec 3) (m : BitVec 6) (a : BitVec 6) (s : BitVec 6)
  /-- `vcmp.lt` (R243) -/
  | vcmpLt (p : Option Pre) (c : Bool) (t : BitVec 3) (m : BitVec 6) (a : BitVec 6) (b : BitVec 6)
  /-- `vcmp.lt` (R243) -/
  | vcmpLtS (p : Option Pre) (c : Bool) (t : BitVec 3) (m : BitVec 6) (a : BitVec 6) (s : BitVec 6)
  /-- `vcmp.ge` (R243) -/
  | vcmpGe (p : Option Pre) (c : Bool) (t : BitVec 3) (m : BitVec 6) (a : BitVec 6) (b : BitVec 6)
  /-- `vcmp.ge` (R243) -/
  | vcmpGeS (p : Option Pre) (c : Bool) (t : BitVec 3) (m : BitVec 6) (a : BitVec 6) (s : BitVec 6)
  /-- `vsel` (R243) -/
  | vsel (p : Option Pre) (c : Bool) (t : BitVec 3) (d : BitVec 6) (a : BitVec 6) (b : BitVec 6)
  /-- `vabs` (R241) -/
  | vabs (p : Option Pre) (c : Bool) (t : BitVec 3) (d : BitVec 6) (a : BitVec 6)
  /-- `vpopc` (R241) -/
  | vpopc (p : Option Pre) (c : Bool) (t : BitVec 3) (d : BitVec 6) (a : BitVec 6)
  /-- `vclz` (R241) -/
  | vclz (p : Option Pre) (c : Bool) (t : BitVec 3) (d : BitVec 6) (a : BitVec 6)
  /-- `vbext` (R241) -/
  | vbext (p : Option Pre) (c : Bool) (d : BitVec 6) (a : BitVec 6) (b : BitVec 6)
  /-- `vmov` (R241) -/
  | vmov (p : Option Pre) (c : Bool) (t : BitVec 3) (d : BitVec 6) (a : BitVec 6)
  /-- `vmovs` (R243) -/
  | vmovs (p : Option Pre) (c : Bool) (t : BitVec 3) (d : BitVec 6) (s : BitVec 6)
  /-- `vfadd` (R244) -/
  | vfadd (p : Option Pre) (c : Bool) (t : BitVec 3) (d : BitVec 6) (a : BitVec 6) (b : BitVec 6)
  /-- `vfadd` (R244) -/
  | vfaddS (p : Option Pre) (c : Bool) (t : BitVec 3) (d : BitVec 6) (a : BitVec 6) (s : BitVec 6)
  /-- `vfsub` (R244) -/
  | vfsub (p : Option Pre) (c : Bool) (t : BitVec 3) (d : BitVec 6) (a : BitVec 6) (b : BitVec 6)
  /-- `vfsub` (R244) -/
  | vfsubS (p : Option Pre) (c : Bool) (t : BitVec 3) (d : BitVec 6) (a : BitVec 6) (s : BitVec 6)
  /-- `vfmul` (R244) -/
  | vfmul (p : Option Pre) (c : Bool) (t : BitVec 3) (d : BitVec 6) (a : BitVec 6) (b : BitVec 6)
  /-- `vfmul` (R244) -/
  | vfmulS (p : Option Pre) (c : Bool) (t : BitVec 3) (d : BitVec 6) (a : BitVec 6) (s : BitVec 6)
  /-- `vffma` (R244) -/
  | vffma (p : Option Pre) (c : Bool) (t : BitVec 3) (d : BitVec 6) (a : BitVec 6) (b : BitVec 6)
  /-- `vffma` (R244) -/
  | vffmaS (p : Option Pre) (c : Bool) (t : BitVec 3) (d : BitVec 6) (a : BitVec 6) (s : BitVec 6)
  /-- `vfmin` (R244) -/
  | vfmin (p : Option Pre) (c : Bool) (t : BitVec 3) (d : BitVec 6) (a : BitVec 6) (b : BitVec 6)
  /-- `vfmin` (R244) -/
  | vfminS (p : Option Pre) (c : Bool) (t : BitVec 3) (d : BitVec 6) (a : BitVec 6) (s : BitVec 6)
  /-- `vfmax` (R244) -/
  | vfmax (p : Option Pre) (c : Bool) (t : BitVec 3) (d : BitVec 6) (a : BitVec 6) (b : BitVec 6)
  /-- `vfmax` (R244) -/
  | vfmaxS (p : Option Pre) (c : Bool) (t : BitVec 3) (d : BitVec 6) (a : BitVec 6) (s : BitVec 6)
  /-- `vfabs` (R244) -/
  | vfabs (p : Option Pre) (c : Bool) (t : BitVec 3) (d : BitVec 6) (a : BitVec 6)
  /-- `vfneg` (R244) -/
  | vfneg (p : Option Pre) (c : Bool) (t : BitVec 3) (d : BitVec 6) (a : BitVec 6)
  /-- `vfdiv` (R244) -/
  | vfdiv (p : Option Pre) (c : Bool) (t : BitVec 3) (d : BitVec 6) (a : BitVec 6) (b : BitVec 6)
  /-- `vfscale` (R244) -/
  | vfscale (p : Option Pre) (c : Bool) (t : BitVec 3) (d : BitVec 6) (a : BitVec 6) (b : BitVec 6)
  /-- `vfround` (R244) -/
  | vfround (p : Option Pre) (c : Bool) (t : BitVec 3) (d : BitVec 6) (a : BitVec 6)
  /-- `vfclass` (R245) -/
  | vfclass (p : Option Pre) (c : Bool) (t : BitVec 3) (d : BitVec 6) (a : BitVec 6)
  /-- `vfcmp.eq` (R244) -/
  | vfcmpEq (p : Option Pre) (c : Bool) (t : BitVec 3) (m : BitVec 6) (a : BitVec 6) (b : BitVec 6)
  /-- `vfcmp.ne` (R244) -/
  | vfcmpNe (p : Option Pre) (c : Bool) (t : BitVec 3) (m : BitVec 6) (a : BitVec 6) (b : BitVec 6)
  /-- `vfcmp.lt` (R244) -/
  | vfcmpLt (p : Option Pre) (c : Bool) (t : BitVec 3) (m : BitVec 6) (a : BitVec 6) (b : BitVec 6)
  /-- `vfcmp.le` (R244) -/
  | vfcmpLe (p : Option Pre) (c : Bool) (t : BitVec 3) (m : BitVec 6) (a : BitVec 6) (b : BitVec 6)
  /-- `vfcmp.un` (R244) -/
  | vfcmpUn (p : Option Pre) (c : Bool) (t : BitVec 3) (m : BitVec 6) (a : BitVec 6) (b : BitVec 6)
  /-- `vexp2` (R246) -/
  | vexp2 (p : Option Pre) (c : Bool) (t : BitVec 3) (d : BitVec 6) (a : BitVec 6)
  /-- `vexp` (R246) -/
  | vexp (p : Option Pre) (c : Bool) (t : BitVec 3) (d : BitVec 6) (a : BitVec 6)
  /-- `vlog2` (R246) -/
  | vlog2 (p : Option Pre) (c : Bool) (t : BitVec 3) (d : BitVec 6) (a : BitVec 6)
  /-- `vln` (R246) -/
  | vln (p : Option Pre) (c : Bool) (t : BitVec 3) (d : BitVec 6) (a : BitVec 6)
  /-- `vrcp` (R246) -/
  | vrcp (p : Option Pre) (c : Bool) (t : BitVec 3) (d : BitVec 6) (a : BitVec 6)
  /-- `vrsqrt` (R246) -/
  | vrsqrt (p : Option Pre) (c : Bool) (t : BitVec 3) (d : BitVec 6) (a : BitVec 6)
  /-- `vsqrt` (R246) -/
  | vsqrt (p : Option Pre) (c : Bool) (t : BitVec 3) (d : BitVec 6) (a : BitVec 6)
  /-- `vsin` (R246) -/
  | vsin (p : Option Pre) (c : Bool) (t : BitVec 3) (d : BitVec 6) (a : BitVec 6)
  /-- `vcos` (R246) -/
  | vcos (p : Option Pre) (c : Bool) (t : BitVec 3) (d : BitVec 6) (a : BitVec 6)
  /-- `vtanh` (R246) -/
  | vtanh (p : Option Pre) (c : Bool) (t : BitVec 3) (d : BitVec 6) (a : BitVec 6)
  /-- `vsigm` (R246) -/
  | vsigm (p : Option Pre) (c : Bool) (t : BitVec 3) (d : BitVec 6) (a : BitVec 6)
  /-- `verf` (R246) -/
  | verf (p : Option Pre) (c : Bool) (t : BitVec 3) (d : BitVec 6) (a : BitVec 6)
  /-- `vexp2.acc` (R246) -/
  | vexp2Acc (p : Option Pre) (c : Bool) (t : BitVec 3) (d : BitVec 6) (a : BitVec 6)
  /-- `vexp.acc` (R246) -/
  | vexpAcc (p : Option Pre) (c : Bool) (t : BitVec 3) (d : BitVec 6) (a : BitVec 6)
  /-- `vlog2.acc` (R246) -/
  | vlog2Acc (p : Option Pre) (c : Bool) (t : BitVec 3) (d : BitVec 6) (a : BitVec 6)
  /-- `vln.acc` (R246) -/
  | vlnAcc (p : Option Pre) (c : Bool) (t : BitVec 3) (d : BitVec 6) (a : BitVec 6)
  /-- `vrcp.acc` (R246) -/
  | vrcpAcc (p : Option Pre) (c : Bool) (t : BitVec 3) (d : BitVec 6) (a : BitVec 6)
  /-- `vrsqrt.acc` (R246) -/
  | vrsqrtAcc (p : Option Pre) (c : Bool) (t : BitVec 3) (d : BitVec 6) (a : BitVec 6)
  /-- `vsqrt.acc` (R246) -/
  | vsqrtAcc (p : Option Pre) (c : Bool) (t : BitVec 3) (d : BitVec 6) (a : BitVec 6)
  /-- `vsin.acc` (R246) -/
  | vsinAcc (p : Option Pre) (c : Bool) (t : BitVec 3) (d : BitVec 6) (a : BitVec 6)
  /-- `vcos.acc` (R246) -/
  | vcosAcc (p : Option Pre) (c : Bool) (t : BitVec 3) (d : BitVec 6) (a : BitVec 6)
  /-- `vtanh.acc` (R246) -/
  | vtanhAcc (p : Option Pre) (c : Bool) (t : BitVec 3) (d : BitVec 6) (a : BitVec 6)
  /-- `vsigm.acc` (R246) -/
  | vsigmAcc (p : Option Pre) (c : Bool) (t : BitVec 3) (d : BitVec 6) (a : BitVec 6)
  /-- `verf.acc` (R246) -/
  | verfAcc (p : Option Pre) (c : Bool) (t : BitVec 3) (d : BitVec 6) (a : BitVec 6)
  /-- `vcvt` (R247) -/
  | vcvt (p : Option Pre) (c : Bool) (t : BitVec 3) (d : BitVec 6) (a : BitVec 6) (k : BitVec 3)
  /-- `vqcvt` (R248) -/
  | vqcvt (p : Option Pre) (c : Bool) (g : BitVec 2) (s : Bool) (d : BitVec 6) (a : BitVec 6) (b : BitVec 6)
  /-- `vdqcvt` (R249) -/
  | vdqcvt (p : Option Pre) (c : Bool) (g : BitVec 2) (s : Bool) (d : BitVec 6) (a : BitVec 6) (b : BitVec 6)
  /-- `vpack.bp` (R250) -/
  | vpackBp (p : Option Pre) (c : Bool) (d : BitVec 6) (a : BitVec 6) (i : BitVec 6)
  /-- `vunpack.bp` (R250) -/
  | vunpackBp (p : Option Pre) (c : Bool) (d : BitVec 6) (a : BitVec 6) (i : BitVec 6)
  /-- `shfl` (R252) -/
  | shfl (p : Option Pre) (c : Bool) (t : BitVec 3) (d : BitVec 6) (a : BitVec 6) (b : BitVec 6)
  /-- `shfl.up` (R252) -/
  | shflUp (p : Option Pre) (c : Bool) (t : BitVec 3) (d : BitVec 6) (a : BitVec 6) (i : BitVec 6)
  /-- `shfl.dn` (R252) -/
  | shflDn (p : Option Pre) (c : Bool) (t : BitVec 3) (d : BitVec 6) (a : BitVec 6) (i : BitVec 6)
  /-- `shfl.x` (R252) -/
  | shflX (p : Option Pre) (c : Bool) (t : BitVec 3) (d : BitVec 6) (a : BitVec 6) (i : BitVec 6)
  /-- `shfl.up` (R252) -/
  | shflUpS (p : Option Pre) (c : Bool) (t : BitVec 3) (d : BitVec 6) (a : BitVec 6) (s : BitVec 6)
  /-- `shfl.dn` (R252) -/
  | shflDnS (p : Option Pre) (c : Bool) (t : BitVec 3) (d : BitVec 6) (a : BitVec 6) (s : BitVec 6)
  /-- `shfl.x` (R252) -/
  | shflXS (p : Option Pre) (c : Bool) (t : BitVec 3) (d : BitVec 6) (a : BitVec 6) (s : BitVec 6)
  /-- `vote.any` (R253) -/
  | voteAny (p : Option Pre) (c : Bool) (d : BitVec 6) (a : BitVec 6)
  /-- `vote.all` (R253) -/
  | voteAll (p : Option Pre) (c : Bool) (d : BitVec 6) (a : BitVec 6)
  /-- `ballot` (R253) -/
  | ballot (p : Option Pre) (c : Bool) (d : BitVec 6) (a : BitVec 6)
  /-- `vscan` (R254) -/
  | vscan (p : Option Pre) (c : Bool) (t : BitVec 3) (d : BitVec 6) (a : BitVec 6) (x : Bool) (o : BitVec 3)
  /-- `vred` (R254) -/
  | vred (p : Option Pre) (c : Bool) (t : BitVec 3) (d : BitVec 6) (a : BitVec 6) (o : BitVec 3)
  /-- `vcarry` (R255) -/
  | vcarry (p : Option Pre) (c : Bool) (d : BitVec 6) (a : BitVec 6) (b : BitVec 6)
  /-- `ssi` (R256) -/
  | ssi (p : Option Pre) (c : Bool) (d : BitVec 6) (a : BitVec 6) (b : BitVec 6)
  /-- `vlane` (R257) -/
  | vlane (p : Option Pre) (c : Bool) (d : BitVec 6)
  /-- `badd` (R267) -/
  | badd (c : Bool) (d : BitVec 6) (a : BitVec 6) (b : BitVec 6)
  /-- `bsub` (R267) -/
  | bsub (c : Bool) (d : BitVec 6) (a : BitVec 6) (b : BitVec 6)
  /-- `bneg` (R267) -/
  | bneg (c : Bool) (d : BitVec 6) (a : BitVec 6)
  /-- `babs` (R267) -/
  | babs (c : Bool) (d : BitVec 6) (a : BitVec 6)
  /-- `bcmp` (R267) -/
  | bcmp (c : Bool) (d : BitVec 6) (a : BitVec 6) (b : BitVec 6)
  /-- `bshl` (R267) -/
  | bshl (c : Bool) (d : BitVec 6) (a : BitVec 6) (s : BitVec 6)
  /-- `bshl` (R267) -/
  | bshlI (c : Bool) (d : BitVec 6) (a : BitVec 6) (i : BitVec 6)
  /-- `bshr` (R267) -/
  | bshr (c : Bool) (d : BitVec 6) (a : BitVec 6) (s : BitVec 6)
  /-- `bshr` (R267) -/
  | bshrI (c : Bool) (d : BitVec 6) (a : BitVec 6) (i : BitVec 6)
  /-- `bmult` (R271) -/
  | bmult (c : Bool) (d : BitVec 6) (a : BitVec 6) (b : BitVec 6)
  /-- `bcres` (R272) -/
  | bcres (c : Bool) (d : BitVec 6) (a : BitVec 6)
  /-- `bdiv` (R273) -/
  | bdiv (c : Bool) (d : BitVec 6) (a : BitVec 6) (b : BitVec 6)
  /-- `bmodb` (R274) -/
  | bmodb (c : Bool) (d : BitVec 6) (a : BitVec 6) (b : BitVec 6)
  /-- `bnorm` (R269) -/
  | bnorm (c : Bool) (d : BitVec 6) (a : BitVec 6)
  /-- `blen` (R268) -/
  | blen (c : Bool) (d : BitVec 6) (a : BitVec 6)
  /-- `bspill` (R276) -/
  | bspill (c : Bool) (a : BitVec 6) (b : BitVec 6)
  /-- `bfill` (R276) -/
  | bfill (c : Bool) (d : BitVec 6) (b : BitVec 6)
  /-- `bladd` (R277) -/
  | bladd (c : Bool) (d : BitVec 6) (a : BitVec 6) (b : BitVec 6)
  /-- `blsub` (R277) -/
  | blsub (c : Bool) (d : BitVec 6) (a : BitVec 6) (b : BitVec 6)
  /-- `blmul` (R282) -/
  | blmul (c : Bool) (d : BitVec 6) (a : BitVec 6) (b : BitVec 6)
  /-- `blcmp` (R277) -/
  | blcmp (c : Bool) (d : BitVec 6) (a : BitVec 6) (b : BitVec 6)
  /-- `blshift` (R277) -/
  | blshift (c : Bool) (d : BitVec 6) (a : BitVec 6) (b : BitVec 6)
  /-- `dotx` (R288) -/
  | dotx (c : Bool) (d : BitVec 6) (a : BitVec 6) (b : BitVec 6)
  /-- `xround` (R289) -/
  | xround (c : Bool) (d : BitVec 6) (a : BitVec 6)
  /-- `bcvt` (R290) -/
  | bcvt (c : Bool) (d : BitVec 6) (s : BitVec 6)
  /-- `mma` (R301) -/
  | mma (c : Bool) (a : BitVec 6) (b : BitVec 6) (acc : BitVec 4) (p : BitVec 3) (q : BitVec 4)
  /-- `mmai` (R301) -/
  | mmai (c : Bool) (a : BitVec 6) (b : BitVec 6) (acc : BitVec 4) (q : BitVec 4)
  /-- `tshape` (R293) -/
  | tshape (c : Bool) (a : BitVec 6) (b : BitVec 6)
  /-- `tload` (R295) -/
  | tload (c : Bool) (a : BitVec 6) (b : BitVec 6) (f : BitVec 6) (s : BitVec 3)
  /-- `tstore` (R295) -/
  | tstore (c : Bool) (a : BitVec 6) (b : BitVec 6) (f : BitVec 6) (s : BitVec 3)
  /-- `tzero` (R297) -/
  | tzero (c : Bool) (a : BitVec 6) (k : Bool)
  /-- `mprom` (R302) -/
  | mprom (c : Bool) (a : BitVec 6)
  /-- `tdrain` (R307) -/
  | tdrain (c : Bool) (a : BitVec 6) (b : BitVec 6) (f : BitVec 6) (s : BitVec 3)
  /-- `tdrain.red` (R307) -/
  | tdrainRed (c : Bool) (a : BitVec 6) (b : BitVec 6) (f : BitVec 6) (s : BitVec 3)
  /-- `txpose` (R296) -/
  | txpose (c : Bool) (a : BitVec 6) (b : BitVec 6)
  /-- `tscale` (R293) -/
  | tscale (c : Bool) (a : BitVec 6) (b : BitVec 6)
  /-- `ttask` (R314) -/
  | ttask (c : Bool) (d : BitVec 6) (a : BitVec 6) (s : BitVec 3)
  /-- `spmv` (R322) -/
  | spmv (c : Bool) (d : BitVec 6) (a : BitVec 6) (b : BitVec 6)
  /-- `sptrsv` (R323) -/
  | sptrsv (c : Bool) (d : BitVec 6) (a : BitVec 6) (b : BitVec 6)
  /-- `reins.take` (R310) -/
  | reinsTake (c : Bool)
  /-- `reins.pass` (R311) -/
  | reinsPass (c : Bool) (a : BitVec 6)
  /-- `reins.pass.next` (R311) -/
  | reinsPassNext (c : Bool)
  /-- `reins.query` (R312) -/
  | reinsQuery (c : Bool) (d : BitVec 6)
  /-- `REINS_GRANT` (R310) -/
  | reinsGrant (k : CoreId)
  /-- `ld` (R164) -/
  | ld (p : Option Pre) (c : Bool) (s : BitVec 3) (d : BitVec 6) (a : BitVec 6) (b : BitVec 6) (l : BitVec 2)
  /-- `ld.64` (R164) -/
  | ld64 (p : Option Pre) (c : Bool) (s : BitVec 3) (d : BitVec 6) (a : BitVec 6) (b : BitVec 6) (l : BitVec 2)
  /-- `ld.16` (R164) -/
  | ld16 (p : Option Pre) (c : Bool) (s : BitVec 3) (d : BitVec 6) (a : BitVec 6) (b : BitVec 6) (l : BitVec 2)
  /-- `ld.8` (R164) -/
  | ld8 (p : Option Pre) (c : Bool) (s : BitVec 3) (d : BitVec 6) (a : BitVec 6) (b : BitVec 6) (l : BitVec 2)
  /-- `st` (R164) -/
  | st (p : Option Pre) (c : Bool) (s : BitVec 3) (d : BitVec 6) (a : BitVec 6) (b : BitVec 6) (l : BitVec 2)
  /-- `st.64` (R164) -/
  | st64 (p : Option Pre) (c : Bool) (s : BitVec 3) (d : BitVec 6) (a : BitVec 6) (b : BitVec 6) (l : BitVec 2)
  /-- `st.16` (R164) -/
  | st16 (p : Option Pre) (c : Bool) (s : BitVec 3) (d : BitVec 6) (a : BitVec 6) (b : BitVec 6) (l : BitVec 2)
  /-- `st.8` (R164) -/
  | st8 (p : Option Pre) (c : Bool) (s : BitVec 3) (d : BitVec 6) (a : BitVec 6) (b : BitVec 6) (l : BitVec 2)
  /-- `lds` (R167) -/
  | lds (p : Option Pre) (c : Bool) (s : BitVec 3) (d : BitVec 6) (a : BitVec 6) (b : BitVec 6) (l : BitVec 2)
  /-- `sts` (R167) -/
  | sts (p : Option Pre) (c : Bool) (s : BitVec 3) (d : BitVec 6) (a : BitVec 6) (b : BitVec 6) (l : BitVec 2)
  /-- `ld.nc` (R164) -/
  | ldNc (p : Option Pre) (c : Bool) (s : BitVec 3) (d : BitVec 6) (a : BitVec 6) (b : BitVec 6) (l : BitVec 2)
  /-- `prefetch` (R168) -/
  | prefetch (p : Option Pre) (c : Bool) (s : BitVec 3) (a : BitVec 6) (b : BitVec 6) (l : BitVec 2)
  /-- `hint.norm` (R169) -/
  | hintNorm (p : Option Pre) (c : Bool) (s : BitVec 3) (a : BitVec 6) (b : BitVec 6) (l : BitVec 2)
  /-- `hint.first` (R169) -/
  | hintFirst (p : Option Pre) (c : Bool) (s : BitVec 3) (a : BitVec 6) (b : BitVec 6) (l : BitVec 2)
  /-- `hint.last` (R169) -/
  | hintLast (p : Option Pre) (c : Bool) (s : BitVec 3) (a : BitVec 6) (b : BitVec 6) (l : BitVec 2)
  /-- `hint.low` (R169) -/
  | hintLow (p : Option Pre) (c : Bool) (s : BitVec 3) (a : BitVec 6) (b : BitVec 6) (l : BitVec 2)
  /-- `cinv` (R170) -/
  | cinv (p : Option Pre) (c : Bool) (s : BitVec 3) (a : BitVec 6) (b : BitVec 6) (l : BitVec 2)
  /-- `cflush` (R170) -/
  | cflush (p : Option Pre) (c : Bool) (s : BitVec 3) (a : BitVec 6) (b : BitVec 6) (l : BitVec 2)
  /-- `amo.add` (R330) -/
  | amoAdd (c : Bool) (t : BitVec 3) (p : BitVec 3) (s : BitVec 3) (d : BitVec 6) (b : BitVec 6)
  /-- `amo.min` (R330) -/
  | amoMin (c : Bool) (t : BitVec 3) (p : BitVec 3) (s : BitVec 3) (d : BitVec 6) (b : BitVec 6)
  /-- `amo.max` (R330) -/
  | amoMax (c : Bool) (t : BitVec 3) (p : BitVec 3) (s : BitVec 3) (d : BitVec 6) (b : BitVec 6)
  /-- `amo.and` (R330) -/
  | amoAnd (c : Bool) (t : BitVec 3) (p : BitVec 3) (s : BitVec 3) (d : BitVec 6) (b : BitVec 6)
  /-- `amo.or` (R330) -/
  | amoOr (c : Bool) (t : BitVec 3) (p : BitVec 3) (s : BitVec 3) (d : BitVec 6) (b : BitVec 6)
  /-- `amo.xor` (R330) -/
  | amoXor (c : Bool) (t : BitVec 3) (p : BitVec 3) (s : BitVec 3) (d : BitVec 6) (b : BitVec 6)
  /-- `amo.xchg` (R330) -/
  | amoXchg (c : Bool) (t : BitVec 3) (p : BitVec 3) (s : BitVec 3) (d : BitVec 6) (b : BitVec 6)
  /-- `amo.cas` (R330) -/
  | amoCas (c : Bool) (t : BitVec 3) (p : BitVec 3) (s : BitVec 3) (d : BitVec 6) (b : BitVec 6)
  /-- `red.add` (R333) -/
  | redAdd (c : Bool) (t : BitVec 3) (p : BitVec 3) (s : BitVec 3) (d : BitVec 6) (b : BitVec 6)
  /-- `red.min` (R333) -/
  | redMin (c : Bool) (t : BitVec 3) (p : BitVec 3) (s : BitVec 3) (d : BitVec 6) (b : BitVec 6)
  /-- `red.max` (R333) -/
  | redMax (c : Bool) (t : BitVec 3) (p : BitVec 3) (s : BitVec 3) (d : BitVec 6) (b : BitVec 6)
  /-- `red.and` (R333) -/
  | redAnd (c : Bool) (t : BitVec 3) (p : BitVec 3) (s : BitVec 3) (d : BitVec 6) (b : BitVec 6)
  /-- `red.or` (R333) -/
  | redOr (c : Bool) (t : BitVec 3) (p : BitVec 3) (s : BitVec 3) (d : BitVec 6) (b : BitVec 6)
  /-- `red.xor` (R333) -/
  | redXor (c : Bool) (t : BitVec 3) (p : BitVec 3) (s : BitVec 3) (d : BitVec 6) (b : BitVec 6)
  /-- `waitcmp` (R336) -/
  | waitcmp (c : Bool) (u : BitVec 3) (m : Bool) (p : BitVec 3) (s : BitVec 3) (a : BitVec 6) (b : BitVec 6)
  /-- `bar.init` (R341) -/
  | barInit (c : Bool) (s : BitVec 3) (a : BitVec 6) (b : BitVec 6)
  /-- `bar.arrive` (R341) -/
  | barArrive (c : Bool) (p : BitVec 3) (s : BitVec 3) (a : BitVec 6) (b : BitVec 6)
  /-- `bar.wait` (R343) -/
  | barWait (c : Bool) (p : BitVec 3) (s : BitVec 3) (a : BitVec 6)
  /-- `bar.expect` (R341) -/
  | barExpect (c : Bool) (s : BitVec 3) (a : BitVec 6) (b : BitVec 6)
  /-- `fence` (R367) -/
  | fence (c : Bool) (p : BitVec 3)
  /-- `fence.sc` (R369) -/
  | fenceSc (c : Bool) (p : BitVec 3)
  /-- `xfence` (R368) -/
  | xfence (c : Bool) (p : BitVec 3) (a : BitVec 4) (b : BitVec 4)
  /-- `FENCE_SC_TICK` (R369) -/
  | fenceScTick (sp : SpanId)
  /-- `eqw` (R176) -/
  | eqw (c : Bool) (n : BitVec 2) (a : BitVec 6)
  /-- `eqgo` (R177) -/
  | eqgo (c : Bool) (d : BitVec 6)
  /-- `sleepu` (R186) -/
  | sleepu (c : Bool) (a : BitVec 6)
  /-- `sleepp` (R184) -/
  | sleepp (c : Bool) (a : BitVec 6) (b : BitVec 6)
  /-- `promise.chk` (R185) -/
  | promiseChk (c : Bool) (d : BitVec 6) (b : BitVec 6)
  /-- `time` (R186) -/
  | time (c : Bool) (d : BitVec 6)
  /-- `halloc` (R200) -/
  | halloc (c : Bool) (d : BitVec 6) (a : BitVec 6)
  /-- `hfree` (R201) -/
  | hfree (c : Bool) (a : BitVec 6)
  /-- `SLEEP_WAKE` (R184) -/
  | sleepWake (sp : SpanId)
  /-- `trap` (R418) -/
  | trap (c : Bool) (n : BitVec 12)
  /-- `brk` (R418) -/
  | brk (c : Bool)
  /-- `trace` (R419) -/
  | trace (c : Bool) (a : BitVec 6)
  /-- `sysrd` (R420) -/
  | sysrd (c : Bool) (d : BitVec 6) (r : BitVec 12)
  /-- `syswr` (R420) -/
  | syswr (c : Bool) (d : BitVec 6) (r : BitVec 12)
  /-- `rte` (R416) -/
  | rte (c : Bool)
  /-- `segld` (R421) -/
  | segld (c : Bool) (s : BitVec 6) (a : BitVec 6)
  /-- `tlbinv` (R422) -/
  | tlbinv (c : Bool) (a : BitVec 6) (b : BitVec 6)
  /-- `spawn` (R399) -/
  | spawn (c : Bool) (d : BitVec 6) (a : BitVec 6) (b : BitVec 6)
  /-- `phase.end` (R388) -/
  | phaseEnd (c : Bool)
  /-- `PHASE_COMMIT` (R388) -/
  | phaseCommit (sp : SpanId)
  /-- `acqx` (R395) -/
  | acqx (c : Bool) (d : BitVec 6) (a : BitVec 6)
  /-- `ACQX_GRANT` (R395) -/
  | acqxGrant (k : CoreId)
  /-- `ACQUIRE_TIMEOUT` (R397) -/
  | acquireTimeout (sp : SpanId)
  /-- `relx` (R398) -/
  | relx (c : Bool) (a : BitVec 6)
  /-- `yield` (R400) -/
  | yield (c : Bool)
  /-- `age` (R401) -/
  | age (c : Bool) (d : BitVec 6)
  /-- `lvl` (R402) -/
  | lvl (c : Bool) (d : BitVec 6) (l : BitVec 6)
  /-- `LONG_OPERATION_COMPLETE` (R42) -/
  | longOperationComplete (op : Nat)
  /-- `SPAN_PROMOTION` (R387) -/
  | spanPromotion (sp : SpanId)
  /-- `TRAP_ENTRY` (R413) -/
  | trapEntry (sp : SpanId)
  /-- `REGION_LIMIT` (R357) -/
  | regionLimit (sp : SpanId)
  /-- `ACCESS_AT_HOME` (R362) -/
  | accessAtHome (op : Nat) (sector : Nat)
  /-- `ATOMIC_AT_HOME` (R330) -/
  | atomicAtHome (op : Nat) (lane : Nat)
  /-- `REDUCTION_COMBINE` (R326) -/
  | reductionCombine (op : Nat) (op2 : Nat)
  /-- `BARRIER_DECREMENT` (R192) -/
  | barrierDecrement (sp : SpanId) (token : BitVec 16)
  /-- `SHARER_INVALIDATION` (R152) -/
  | sharerInvalidation (line : Nat) (sharer : Fin 5)
  /-- `INVALIDATION_CONFIRMATION` (R152) -/
  | invalidationConfirmation (line : Nat) (sharer : Fin 5)
  /-- `STORE_ACKNOWLEDGEMENT` (R120) -/
  | storeAcknowledgement (op : Nat) (sector : Nat)
  /-- `REGION_CLOSE` (R358) -/
  | regionClose (r : RegionId)
  /-- `MONITOR_WAKE` (R337) -/
  | monitorWake (sp : SpanId)
  /-- `WAITCMP_TIMEOUT` (R336) -/
  | waitcmpTimeout (sp : SpanId)
  /-- `BAR_WAIT_RETEST` (R343) -/
  | barWaitRetest (sp : SpanId)
  /-- `SADDLE_TOUCH` (R350) -/
  | saddleTouch (sp : SpanId)
  /-- `ROLLBACK_REPLAY` (R353) -/
  | rollbackReplay (g : GroupId)
  /-- `TRANSLATION_WALK` (R161) -/
  | translationWalk (walk : BitVec 16)
  /-- `MSC_SECTOR_WRITE` (R91) -/
  | mscSectorWrite (pa : Nat) (key : BitVec 10)
  /-- `MSC_SECTOR_READ` (R91) -/
  | mscSectorRead (pa : Nat) (key : BitVec 10)
  /-- `MSC_WRITEBACK` (R91) -/
  | mscWriteback (block : Nat)
  /-- `DRAM_BLOCK_READ` (R85) -/
  | dramBlockRead (block : Nat)
  /-- `CORRECTED_WRITEBACK` (R85) -/
  | correctedWriteback (block : Nat)
  /-- `SCRUB_READ` (R88) -/
  | scrubRead (block : Nat)
  /-- `SELF_REFRESH_ENTRY` (R100) -/
  | selfRefreshEntry (ch : Channel)
  /-- `SELF_REFRESH_EXIT` (R100) -/
  | selfRefreshExit (ch : Channel)
  /-- `DROWSY_BANK_DROP` (R157) -/
  | drowsyBankDrop (bank : BankId)
  /-- `CHAIN_DEMOTE` (R94) -/
  | chainDemote (chain : BitVec 12)
  /-- `CHAIN_SWEEP` (R95) -/
  | chainSweep (chain : BitVec 12)
  /-- `KEY_SLOT_LOAD` (R99) -/
  | keySlotLoad (slot : BitVec 10) (keys : Option (BitVec 512))
  /-- `TIMEOUT_DETECTOR_EXPIRY` (R111) -/
  | timeoutDetectorExpiry (packet : Nat)
  /-- `MISROUTE` (R110) -/
  | misroute (packet : Nat)
  /-- `HALTER_CAPTURE` (R112) -/
  | halterCapture (die : DieId)
  /-- `HALTER_REGENERATE` (R115) -/
  | halterRegenerate (die : DieId)
  /-- `BRIDLE_RECEIVE` (R113) -/
  | bridleReceive (packet : Nat)
  /-- `ROUTER_POWER_GATE` (R123) -/
  | routerPowerGate (die : DieId) (router : Nat)
  /-- `ROUTER_WAKE` (R124) -/
  | routerWake (die : DieId) (router : Nat)
  /-- `GIRTH_RETRAIN` (R128) -/
  | girthRetrain (link : Fin 10) (ok : Bool)
  /-- `GIRTH_LINK_DOWN` (R129) -/
  | girthLinkDown (link : Fin 10)
  /-- `HITCH_RETRAIN` (R136) -/
  | hitchRetrain (port : Fin 36)
  /-- `HITCH_TIMEOUT` (R136) -/
  | hitchTimeout (op : Nat)
  /-- `STITCH_RELINK` (R106) -/
  | stitchRelink (die : Fin 4) (clusters : BitVec 4) (code : BitVec 3)
  /-- `HOST_POSTED_WRITE` (R131) -/
  | hostPostedWrite (dom : OrderDomain) (relaxed : Bool) (pa : Nat) (data : List (BitVec 8))
  /-- `ORDERING_POINT_RELEASE` (R131) -/
  | orderingPointRelease (id : Nat)
  /-- `ROUTE_ACKNOWLEDGEMENT` (R131) -/
  | routeAcknowledgement (id : Nat) (die : DieId)
  /-- `HOST_READ_REQUEST` (R131) -/
  | hostReadRequest (dom : OrderDomain) (pa : Nat) (len : Nat)
  /-- `DEVICE_WRITE_TO_HOST` (R132) -/
  | deviceWriteToHost (id : Nat)
  /-- `LAUNCH` (R382) -/
  | launch (port : Bool) (q : BitVec 8)
  /-- `SIGNAL_ONLY` (R434) -/
  | signalOnly (port : Bool) (q : BitVec 8)
  /-- `ABORT_LAUNCH` (R434) -/
  | abortLaunch (port : Bool) (q : BitVec 8)
  /-- `LAUNCH_OUTCOME` (R434) -/
  | launchOutcome (seq : BitVec 64)
  /-- `QTAIL_DOORBELL` (R432) -/
  | qtailDoorbell (port : Bool) (q : BitVec 8) (tail : BitVec 64)
  /-- `DWIN_WRITE` (R459) -/
  | dwinWrite (port : Bool) (v : BitVec 64)
  /-- `FAULTACK` (R435) -/
  | faultack (v : BitVec 64)
  /-- `FQTAIL_WRITE` (R435) -/
  | fqtailWrite (v : BitVec 64)
  /-- `TRTAIL_WRITE` (R438) -/
  | trtailWrite (v : BitVec 64)
  /-- `TRDROP_READ` (R438) -/
  | trdropRead
  /-- `BAR0_REGISTER_WRITE` (R443) -/
  | bar0RegisterWrite (port : Bool) (off : BitVec 20) (v : BitVec 64)
  /-- `ATTESTATION_REQUEST` (R440) -/
  | attestationRequest (nonce : BitVec 512)
  /-- `COLD_RESET` (R9) -/
  | coldReset (image : BitVec 512) (sig : BitVec 2)
  /-- `TIMEBASE_SYNC` (R437) -/
  | timebaseSync (ptm : Bool) (offset : BitVec 32)
  /-- `PTP_SOURCE_LOSS` (R437) -/
  | ptpSourceLoss (ptm : Bool)
  /-- `FARRIER_SNAPSHOT` (R441) -/
  | farrierSnapshot
  /-- `ISLAND_THROTTLE` (R442) -/
  | islandThrottle (island : Fin 24) (mhz : BitVec 16)
  /-- `GROOM_BOX_WRITE` (R384) -/
  | groomBoxWrite (die : Fin 4) (box : BitVec 12) (r : BindRecord)
  /-- `GROOM_BOX_FREE` (R384) -/
  | groomBoxFree (die : Fin 4) (box : BitVec 12)
  /-- `BIND` (R385) -/
  | bind (die : Fin 4) (box : BitVec 12)
  /-- `PREEMPT_DECISION` (R423) -/
  | preemptDecision (die : Fin 4) (box : BitVec 12) (deadline : BitVec 64)
  /-- `PRECISE_STOP` (R424) -/
  | preciseStop (die : Fin 4) (box : BitVec 12)
  /-- `CONTEXT_RESET` (R427) -/
  | contextReset (die : Fin 4) (box : BitVec 12)
  /-- `RESTORE` (R426) -/
  | restore (die : Fin 4) (box : BitVec 12) (k : CoreId) (slot0 : BitVec 6)
  /-- `SWAP_OUT` (R338) -/
  | swapOut (die : Fin 4) (box : BitVec 12)
  /-- `PACKHORSE_COPY` (R191) -/
  | packhorseCopy (sp : SpanId) (token : BitVec 16)
  /-- `PACKHORSE_STRIDED_COPY` (R191) -/
  | packhorseStridedCopy (sp : SpanId) (token : BitVec 16)
  /-- `PACKHORSE_FILL` (R191) -/
  | packhorseFill (sp : SpanId) (token : BitVec 16)
  /-- `PLACE_SCALES` (R191) -/
  | placeScales (sp : SpanId) (token : BitVec 16)
  /-- `TROTTER_GATHER` (R196) -/
  | trotterGather (sp : SpanId) (token : BitVec 16)
  /-- `TROTTER_SCATTER` (R196) -/
  | trotterScatter (sp : SpanId) (token : BitVec 16)
  /-- `COLLECTIVE_BROADCAST` (R198) -/
  | collectiveBroadcast (sp : SpanId) (token : BitVec 16)
  /-- `COLLECTIVE_ALL_GATHER` (R198) -/
  | collectiveAllGather (sp : SpanId) (token : BitVec 16)
  /-- `COLLECTIVE_ALL_REDUCE` (R198) -/
  | collectiveAllReduce (sp : SpanId) (token : BitVec 16)
  /-- `COLLECTIVE_COMPLETE` (R198) -/
  | collectiveComplete (sp : SpanId) (token : BitVec 16)
  /-- `CAROUSEL_FORWARD` (R284) -/
  | carouselForward (sp : SpanId) (token : BitVec 16)
  /-- `CAROUSEL_INVERSE` (R284) -/
  | carouselInverse (sp : SpanId) (token : BitVec 16)
  /-- `CAROUSEL_POINTWISE` (R284) -/
  | carouselPointwise (sp : SpanId) (token : BitVec 16)
  /-- `ENGINE_COMMAND_COMPLETE` (R187) -/
  | engineCommandComplete (sp : SpanId) (token : BitVec 16)
  /-- `HAYLOFT_REQUEST` (R200) -/
  | hayloftRequest (op : Nat)
  /-- `HAYLOFT_FREE` (R201) -/
  | hayloftFree (id : Nat)
  /-- `ENGINE_OPERATION_ACCEPT` (R309) -/
  | engineOperationAccept (op : Nat)
  /-- `MATRIX_OPERATION_COMPLETE` (R304) -/
  | matrixOperationComplete (k : CoreId)
  /-- `TILE_UPDATE_APPLY` (R308) -/
  | tileUpdateApply (op : Nat)
  /-- `STARTER_DISPATCH` (R317) -/
  | starterDispatch (cluster : Fin 16)
  /-- `TASK_COMPLETE` (R318) -/
  | taskComplete (k : CoreId)
  /-- `EARLY_DECREMENT` (R315) -/
  | earlyDecrement (cluster : Fin 16)
  /-- `ILLEGAL_INSTR_WORD` (R54) -/
  | illegalInstrWord (w : BitVec 32)
  /-- `DEVICE_READ_COMPLETION` (R131) -/
  | deviceReadCompletion (dom : OrderDomain) (tag : Nat) (data : List (BitVec 8))
  /-- `ARRIVAL_RESPONSE` (R342) -/
  | arrivalResponse (op : Nat)
  /-- `ORDERLY_SHUTDOWN` (R441) -/
  | orderlyShutdown
  /-- `SRAM_SOFT_ERROR` (R441) -/
  | sramSoftError (die : DieId)
  /-- `UNHANDLED_TRAP_DISCARD` (R415) -/
  | unhandledTrapDiscard (die : Fin 4) (box : BitVec 12)
  /-- `HITCH_DOMAIN_FORM` (R19) -/
  | hitchDomainForm (self : BitVec 8) (members : List (BitVec 8))
  deriving DecidableEq, Repr

end Sys2Proof
end

