-- ==== Sys2Proof/Config.lean ====
section
/-!
DEFINITION. What an implementation fixes and the spec leaves open: the free values, each an opaque constant that no
proof can see into, and the choices that the assumption log names.
-/

namespace Sys2Proof.Config

open Sys2Proof

/-- Free: does a fused multiply-add of infinity, zero and a quiet NaN set NV?  IEEE 754-2019 leaves it to the
implementation (R244; log 5). -/
opaque fmaInvalidWithNaN : Bool

/-- Free: which of the results within the bounds of Table 7.10 a transcendental gives: function code, type code, grade
and operand (R223; log 6). -/
opaque transcChoice : Nat → Nat → Bool → Nat → Nat

/-- Free: the n-th number that the model draws where the spec leaves a value open. -/
opaque fresh : Nat → Nat

/-- Free: the key table of another package of the Hitch domain: package number and slot (R134; log 10). -/
opaque farKey : Nat → BitVec 10 → Option (BitVec 512)

/-- Free: the device's ML-DSA-87 signature over a digest (R440; log 7). -/
opaque mldsaSign : BitVec 512 → List Byte

/-- Free: the digest of the device's ML-DSA-87 identity public key (R440; log 7). -/
opaque identityDigest : BitVec 512

/-- Free: the place that Preic firmware gives the saddlebag of a launch's group, in units of 64 bytes (R390; log 19). -/
opaque saddlebag : DWord → BitVec 32 → Nat

/-- Free: the place that Preic firmware gives the rollback log of a launch's group, in units of 64 bytes (R354; log 106). -/
opaque logRegion : DWord → BitVec 32 → Nat

/-- Free: the place that Preic firmware gives the context area of a launch's group, in units of 4 KiB (R428; log 80). -/
opaque contextArea : DWord → BitVec 32 → Nat

/-- Free: the bin of a power island's voltage, in millivolts, that its farrier histogram counts (R441; log 122). -/
opaque voltageBin : BitVec 16 → Fin 16

end Sys2Proof.Config
end

