-- ==== Sys2Proof/Machine/Bits.lean ====
section
/-!
DEFINITION. Bit fields, signed readings, lane masks, byte strings and list updates, as plain functions that the kernel
evaluates (R4 to R8).
-/

namespace Sys2Proof.Machine

open Sys2Proof

/-- Bit i of a vector. -/
def bitOn {n : Nat} (b : BitVec n) (i : Nat) : Bool := b.getLsbD i

/-- The mask of n bits whose bit i is f i. -/
def maskOf (n : Nat) (f : Nat → Bool) : BitVec n :=
  BitVec.ofNat n ((List.range n).foldl (fun a i => if f i then a + 2 ^ i else a) 0)

/-- The positions below n at which f holds, ascending. -/
def positions (n : Nat) (f : Nat → Bool) : List Nat := (List.range n).filter f

/-- The field of w bits from bit lo. -/
def fld {n : Nat} (x : BitVec n) (lo w : Nat) : Nat := x.toNat / 2 ^ lo % 2 ^ w

/-- x with the field of w bits from bit lo replaced. -/
def setFld {n : Nat} (x : BitVec n) (lo w v : Nat) : BitVec n :=
  BitVec.ofNat n (x.toNat - fld x lo w * 2 ^ lo + v % 2 ^ w * 2 ^ lo)

/-- x with bit i set to b. -/
def setBit {n : Nat} (x : BitVec n) (i : Nat) (b : Bool) : BitVec n := setFld x i 1 (if b then 1 else 0)

/-- sx(x, n): the low n bits read as two's complement (R5). -/
def sx (x n : Nat) : Int :=
  let y := x % 2 ^ n
  if 2 * y < 2 ^ n then (y : Int) else (y : Int) - (2 ^ n : Nat)

/-- An integer mod 2^n (R5). -/
def wrapTo (n : Nat) (x : Int) : Nat := (x % ((2 ^ n : Nat) : Int)).toNat

/-- A vector from a function of the lane number. -/
def lanesOf (f : Nat → Word) : Lanes := Vector.ofFn fun i => f i.val

/-- Lane i of a register. -/
def laneAt (v : Lanes) (i : Nat) : Word := v.toArray.getD i 0

/-- Element i of a vector, or d beyond its end. -/
def vecAt {α : Type} {n : Nat} (v : Vector α n) (i : Nat) (d : α) : α := v.toArray.getD i d

/-- A vector with element i replaced; nothing changes beyond its end. -/
def vecPut {α : Type} {n : Nat} (v : Vector α n) (i : Nat) (x : α) : Vector α n := v.setIfInBounds i x

/-- A vector with every element mapped, with its index. -/
def vecMap {α β : Type} {n : Nat} (v : Vector α n) (f : Nat → α → β) : Vector β n :=
  Vector.ofFn fun i => f i.val v[i]

/-- Element i of a list, or d beyond its end. -/
def listAt {α : Type} (l : List α) (i : Nat) (d : α) : α := l.getD i d

/-- Is any element of a vector accepted? -/
def vecAny {α : Type} {n : Nat} (v : Vector α n) (f : α → Bool) : Bool := v.toArray.toList.any f

/-- Is every element of a vector accepted? -/
def vecAll {α : Type} {n : Nat} (v : Vector α n) (f : α → Bool) : Bool := v.toArray.toList.all f

/-- The little-endian value of a byte string (R6). -/
def leOf (bs : List Byte) : Nat :=
  match bs with
  | [] => 0
  | b :: t => b.toNat + 256 * leOf t

/-- The n low bytes of a value, least significant first (R6). -/
def bytesLE (n x : Nat) : List Byte :=
  match n with
  | 0 => []
  | k + 1 => BitVec.ofNat 8 x :: bytesLE k (x / 256)

/-- Replaces every element that satisfies p by f of it. -/
def mapIf {α : Type} (l : List α) (p : α → Bool) (f : α → α) : List α := l.map fun x => if p x then f x else x

/-- A sum over a list. -/
def sumOf {α : Type} (l : List α) (f : α → Nat) : Nat := l.foldl (fun a x => a + f x) 0

/-- Inserts x before the first element that it precedes. -/
def insertBy {α : Type} (before : α → α → Bool) (x : α) (l : List α) : List α :=
  match l with
  | [] => [x]
  | y :: t => if before x y then x :: y :: t else y :: insertBy before x t

/-- Sorts by insertion; elements that precede neither way keep their order. -/
def sortBy {α : Type} (before : α → α → Bool) (l : List α) : List α :=
  match l with
  | [] => []
  | x :: t => insertBy (fun a b => !before b a) x (sortBy before t)

/-- The elements without repeats, first occurrences kept. -/
def distinct (l : List Nat) : List Nat :=
  match l with
  | [] => []
  | x :: t => x :: (distinct t).filter (fun y => y != x)

/-- Leading zeros of the low n bits of x (Table 8.4). -/
def clzOf (n x : Nat) : Nat :=
  let y := x % 2 ^ n
  if y = 0 then n else n - 1 - Nat.log2 y

/-- Trailing zeros of the low n bits of x. -/
def ctzOf (n x : Nat) : Nat :=
  let y := x % 2 ^ n
  match (List.range n).find? (fun i => y.testBit i) with
  | some i => i
  | none => n

/-- Ones in the low n bits of x. -/
def popcOf (n x : Nat) : Nat := ((List.range n).filter fun i => x.testBit i).length

end Sys2Proof.Machine
end

