-- ==== Sys2Proof/Machine/Crypto.lean ====
section
/-!
DEFINITION. The standards that the spec names without printing them: AES-256 (FIPS 197), its XTS mode (IEEE 1619) for the
blocks of main memory (R96), and SHA3-512 (FIPS 202) for the measurements (R436, R439, R440).  Log 7.
-/

namespace Sys2Proof.Machine

open Sys2Proof

/-! ## AES-256 -/

/-- The S-box. -/
def aesBox : List Nat :=
  [0x63, 0x7c, 0x77, 0x7b, 0xf2, 0x6b, 0x6f, 0xc5, 0x30, 0x1, 0x67, 0x2b, 0xfe, 0xd7, 0xab, 0x76] ++
  [0xca, 0x82, 0xc9, 0x7d, 0xfa, 0x59, 0x47, 0xf0, 0xad, 0xd4, 0xa2, 0xaf, 0x9c, 0xa4, 0x72, 0xc0] ++
  [0xb7, 0xfd, 0x93, 0x26, 0x36, 0x3f, 0xf7, 0xcc, 0x34, 0xa5, 0xe5, 0xf1, 0x71, 0xd8, 0x31, 0x15] ++
  [0x4, 0xc7, 0x23, 0xc3, 0x18, 0x96, 0x5, 0x9a, 0x7, 0x12, 0x80, 0xe2, 0xeb, 0x27, 0xb2, 0x75] ++
  [0x9, 0x83, 0x2c, 0x1a, 0x1b, 0x6e, 0x5a, 0xa0, 0x52, 0x3b, 0xd6, 0xb3, 0x29, 0xe3, 0x2f, 0x84] ++
  [0x53, 0xd1, 0x0, 0xed, 0x20, 0xfc, 0xb1, 0x5b, 0x6a, 0xcb, 0xbe, 0x39, 0x4a, 0x4c, 0x58, 0xcf] ++
  [0xd0, 0xef, 0xaa, 0xfb, 0x43, 0x4d, 0x33, 0x85, 0x45, 0xf9, 0x2, 0x7f, 0x50, 0x3c, 0x9f, 0xa8] ++
  [0x51, 0xa3, 0x40, 0x8f, 0x92, 0x9d, 0x38, 0xf5, 0xbc, 0xb6, 0xda, 0x21, 0x10, 0xff, 0xf3, 0xd2] ++
  [0xcd, 0xc, 0x13, 0xec, 0x5f, 0x97, 0x44, 0x17, 0xc4, 0xa7, 0x7e, 0x3d, 0x64, 0x5d, 0x19, 0x73] ++
  [0x60, 0x81, 0x4f, 0xdc, 0x22, 0x2a, 0x90, 0x88, 0x46, 0xee, 0xb8, 0x14, 0xde, 0x5e, 0xb, 0xdb] ++
  [0xe0, 0x32, 0x3a, 0xa, 0x49, 0x6, 0x24, 0x5c, 0xc2, 0xd3, 0xac, 0x62, 0x91, 0x95, 0xe4, 0x79] ++
  [0xe7, 0xc8, 0x37, 0x6d, 0x8d, 0xd5, 0x4e, 0xa9, 0x6c, 0x56, 0xf4, 0xea, 0x65, 0x7a, 0xae, 0x8] ++
  [0xba, 0x78, 0x25, 0x2e, 0x1c, 0xa6, 0xb4, 0xc6, 0xe8, 0xdd, 0x74, 0x1f, 0x4b, 0xbd, 0x8b, 0x8a] ++
  [0x70, 0x3e, 0xb5, 0x66, 0x48, 0x3, 0xf6, 0xe, 0x61, 0x35, 0x57, 0xb9, 0x86, 0xc1, 0x1d, 0x9e] ++
  [0xe1, 0xf8, 0x98, 0x11, 0x69, 0xd9, 0x8e, 0x94, 0x9b, 0x1e, 0x87, 0xe9, 0xce, 0x55, 0x28, 0xdf] ++
  [0x8c, 0xa1, 0x89, 0xd, 0xbf, 0xe6, 0x42, 0x68, 0x41, 0x99, 0x2d, 0xf, 0xb0, 0x54, 0xbb, 0x16]

/-- One byte through the S-box. -/
def aesSub (x : Nat) : Nat := listAt aesBox x 0

/-- One byte through the inverse S-box. -/
def aesUnsub (x : Nat) : Nat := aesBox.findIdx fun y => y == x

/-- Multiplication by x in GF(2^8). -/
def gfDouble (a : Nat) : Nat := if 128 ≤ a then Nat.xor (2 * a) 0x11B else 2 * a

/-- A product in GF(2^8), the second factor below 16. -/
def gfMul (a b : Nat) : Nat :=
  let bit (i x : Nat) : Nat := if b / 2 ^ i % 2 = 1 then x else 0
  Nat.xor (Nat.xor (bit 0 a) (bit 1 (gfDouble a)))
    (Nat.xor (bit 2 (gfDouble (gfDouble a))) (bit 3 (gfDouble (gfDouble (gfDouble a)))))

/-- Two byte strings combined by exclusive or. -/
def xorBytes (a b : List Nat) : List Nat := (List.range a.length).map fun i => Nat.xor (listAt a i 0) (listAt b i 0)

/-- The next four bytes of a key schedule whose words so far are given, latest first; `i` is the new word's number. -/
def aesNextWord (ws : List (List Nat)) (i : Nat) : List Nat :=
  let t := listAt ws 0 []
  let mixed :=
    if i % 8 = 0 then
      xorBytes (((t.drop 1) ++ t.take 1).map aesSub) [2 ^ (i / 8 - 1), 0, 0, 0]
    else if i % 8 = 4 then t.map aesSub
    else t
  xorBytes (listAt ws 7 []) mixed

/-- The key schedule, latest word first; `n` words follow word 7. -/
def aesSchedule (key : List Nat) (n : Nat) : List (List Nat) :=
  match n with
  | 0 => (List.range 8).reverse.map fun i => (key.drop (4 * i)).take 4
  | k + 1 =>
    let ws := aesSchedule key k
    aesNextWord ws (8 + k) :: ws

/-- The 15 round keys of 16 bytes. -/
def aesRoundKeys (key : List Nat) : List (List Nat) :=
  let bytes := (aesSchedule key 52).reverse.flatMap id
  (List.range 15).map fun i => (bytes.drop (16 * i)).take 16

/-- Row r of column c after the rows have been shifted by a step. -/
def aesShift (st : List Nat) (step : Nat) : List Nat :=
  (List.range 16).map fun i => listAt st (i % 4 + 4 * ((i / 4 + step * (i % 4)) % 4)) 0

/-- Each column multiplied by a circulant matrix. -/
def aesMix (st m : List Nat) : List Nat :=
  (List.range 16).map fun i =>
    (List.range 4).foldl (fun a k => Nat.xor a (gfMul (listAt st (i / 4 * 4 + k) 0) (listAt m ((k + 4 - i % 4) % 4) 0))) 0

/-- One block of 16 bytes encrypted under the round keys. -/
def aesEncrypt (ks : List (List Nat)) (block : List Nat) : List Nat :=
  let round (st : List Nat) (i : Nat) : List Nat :=
    let t := aesShift (st.map aesSub) 1
    xorBytes (if i = 14 then t else aesMix t [2, 3, 1, 1]) (listAt ks i [])
  (List.range 14).foldl (fun st i => round st (i + 1)) (xorBytes block (listAt ks 0 []))

/-- One block of 16 bytes decrypted under the round keys. -/
def aesDecrypt (ks : List (List Nat)) (block : List Nat) : List Nat :=
  let round (st : List Nat) (i : Nat) : List Nat :=
    let t := xorBytes st (listAt ks i [])
    (aesShift (if i = 14 then t else aesMix t [14, 11, 13, 9]) 3).map aesUnsub
  xorBytes ((List.range 14).foldl (fun st i => round st (14 - i)) block) (listAt ks 0 [])

/-! ## XTS over a block of 512 bytes (R96) -/

/-- A tweak multiplied by x in GF(2^128), as 128 bits. -/
def xtsDouble (t : Nat) : Nat := if 2 ^ 127 ≤ t then Nat.xor (2 * t % 2 ^ 128) 0x87 else 2 * t

/-- The bytes of a number. -/
def natBytes (n x : Nat) : List Nat := (bytesLE n x).map fun b => b.toNat

/-- The value of a byte string. -/
def natOf (bs : List Nat) : Nat := leOf (bs.map fun b => BitVec.ofNat 8 b)

/-- The AES blocks of a data unit, each combined with its tweak before and after `f`. -/
def xtsBlocks (f : List Nat → List Nat) (tweak : Nat) (bs : List Nat) (n : Nat) : List Nat :=
  match n with
  | 0 => []
  | k + 1 =>
    let t := natBytes 16 tweak
    xorBytes (f (xorBytes (bs.take 16) t)) t ++ xtsBlocks f (xtsDouble tweak) (bs.drop 16) k

/-- A data unit of 512 bytes under a key pair and its number: the low half of the pair is the data key. -/
def xtsUnit (encrypt : Bool) (pair : BitVec 512) (unit_ : Nat) (data : BitVec 4096) : BitVec 4096 :=
  let k1 := aesRoundKeys (natBytes 32 (pair.toNat % 2 ^ 256))
  let k2 := aesRoundKeys (natBytes 32 (pair.toNat / 2 ^ 256))
  let tweak := natOf (aesEncrypt k2 (natBytes 16 unit_))
  BitVec.ofNat 4096 (natOf (xtsBlocks (if encrypt then aesEncrypt k1 else aesDecrypt k1) tweak
    (natBytes 512 data.toNat) 32))

/-! ## SHA3-512 -/

/-- Rotation distances of the 25 lanes. -/
def keccakRho : List Nat :=
  [0, 1, 62, 28, 27, 36, 44, 6, 55, 20, 3, 10, 43] ++
  [25, 39, 41, 45, 15, 21, 8, 18, 2, 61, 56, 14]

/-- Round constants. -/
def keccakRc : List Nat :=
  [0x1, 0x8082, 0x800000000000808a, 0x8000000080008000] ++
  [0x808b, 0x80000001, 0x8000000080008081, 0x8000000000008009] ++
  [0x8a, 0x88, 0x80008009, 0x8000000a] ++
  [0x8000808b, 0x800000000000008b, 0x8000000000008089, 0x8000000000008003] ++
  [0x8000000000008002, 0x8000000000000080, 0x800a, 0x800000008000000a] ++
  [0x8000000080008081, 0x8000000000008080, 0x80000001, 0x8000000080008008]

/-- A 64-bit rotation to the left. -/
def rotl64 (x n : Nat) : Nat := x * 2 ^ n % 2 ^ 64 + x / 2 ^ (64 - n)

/-- One round of the permutation. -/
def keccakRound (a : List Nat) (rc : Nat) : List Nat :=
  let at_ (l : List Nat) (x y : Nat) : Nat := listAt l (x % 5 + 5 * (y % 5)) 0
  let col := (List.range 5).map fun x =>
    Nat.xor (Nat.xor (at_ a x 0) (at_ a x 1)) (Nat.xor (Nat.xor (at_ a x 2) (at_ a x 3)) (at_ a x 4))
  let d := (List.range 5).map fun x => Nat.xor (listAt col ((x + 4) % 5) 0) (rotl64 (listAt col ((x + 1) % 5) 0) 1)
  let t := (List.range 25).map fun i => rotl64 (Nat.xor (listAt a i 0) (listAt d (i % 5) 0)) (listAt keccakRho i 0)
  -- The lane at (x, y) comes from ((x + 3y) mod 5, x).
  let b := (List.range 25).map fun i => at_ t (i % 5 + 3 * (i / 5)) (i % 5)
  let c := (List.range 25).map fun i =>
    let x := i % 5
    let y := i / 5
    Nat.xor (at_ b x y) (Nat.land (2 ^ 64 - 1 - at_ b (x + 1) y) (at_ b (x + 2) y))
  Nat.xor (listAt c 0 0) rc :: c.drop 1

/-- The permutation. -/
def keccak (a : List Nat) : List Nat := keccakRc.foldl keccakRound a

/-- The message absorbed in blocks of 72 bytes; `n` bounds their number. -/
def sha3Absorb (a : List Nat) (bs : List Byte) (n : Nat) : List Nat :=
  match n with
  | 0 => a
  | k + 1 =>
    if bs.isEmpty then a
    else
      let a1 := (List.range 25).map fun i =>
        Nat.xor (listAt a i 0) (if i < 9 then leOf ((bs.drop (8 * i)).take 8) else 0)
      sha3Absorb (keccak a1) (bs.drop 72) k

/-- SHA3-512. -/
def sha3 (bs : List Byte) : BitVec 512 :=
  let r := 71 - bs.length % 72
  let padded : List Byte :=
    if r = 0 then bs ++ [0x86] else bs ++ [0x06] ++ List.replicate (r - 1) 0 ++ [0x80]
  let a := sha3Absorb (List.replicate 25 0) padded (padded.length / 72)
  BitVec.ofNat 512 (leOf ((a.take 8).flatMap fun x => bytesLE 8 x))

end Sys2Proof.Machine
end

