-- ==== Sys2Proof/Machine/State.lean ====
section
/-!
DEFINITION. The state of the Obquel 96 as plain data: the span that issues and every other span, its group, its core,
the memory spaces, the records at the homes, the engines, the fabric, the host interface and the firmware's tables.
-/

namespace Sys2Proof.Machine

open Sys2Proof

/-! ## Registers of a span (R24, R225, R409 to R412) -/

/-- The tag of a vector register: length and sign; `spilled` reads as length above 32 (R13, R24). -/
structure Tag where
  len  : BitVec 7
  sign : Bool
  deriving DecidableEq, Repr

/-- The register files of one span (Table 1.4). -/
structure Regs where
  /-- v0 to v63. -/
  v   : Vector Lanes 64
  /-- The tag of each vector register. -/
  tag : Vector Tag 64
  /-- s0 to s63. -/
  s   : Vector DWord 64
  /-- m0 to m15 as stored; m0 is read through the accessor, which answers all ones (R13). -/
  m   : Vector LaneMask 16
  /-- STATUS (Table 8.1). -/
  status  : DWord
  /-- MODQ. -/
  modq    : DWord
  /-- QTHRESH. -/
  qthresh : DWord
  /-- NTTLIM. -/
  nttlim  : DWord
  /-- XWIN. -/
  xwin    : DWord
  deriving DecidableEq, Repr

/-- The trap registers of a span (R409 to R412). -/
structure TrapRegs where
  faultpc   : DWord
  faultaddr : DWord
  word0     : DWord
  word1     : DWord
  word2     : DWord
  /-- FAULTINFO's selector SEL. -/
  sel       : BitVec 2
  trapbase  : DWord
  deriving DecidableEq, Repr

/-- One segment register: SEGBASE and SEGLIM (Tables 5.1 and 5.2). -/
structure Seg where
  base : DWord
  lim  : DWord
  deriving DecidableEq, Repr

/-- The kind of a divergence-stack entry (R235). -/
inductive StackKind where
  | rejoin
  | pending
  deriving DecidableEq, Repr

/-- An entry of a slice's divergence stack (R235). -/
structure StackEntry where
  kind : StackKind
  mask : BitVec 4
  pc   : Option DWord
  deriving DecidableEq, Repr

/-- The control transfer a slice makes once every word of its packet has issued (R33). -/
inductive Transfer where
  /-- Go to `next` with lane mask `cur` and stack `stack`. -/
  | go (next : DWord) (cur : BitVec 4) (stack : List StackEntry)
  /-- Wait for the span's other slices, as the `regang` at `slot` asks (R239). -/
  | regang (slot : Nat)
  | exit
  | rte
  deriving DecidableEq, Repr

/-- What a slice waits for without an issue slot; the instruction at its pc and slot is not executed yet. -/
inductive Wait where
  /-- Issue the group again at the next change of the machine's state. -/
  | retry
  /-- A clause header waits for flags (R38). -/
  | flags
  /-- `sleepu`, `sleepp`: the wake time (R184, R186). -/
  | sleep (until_ : DWord)
  /-- The sleep has ended: `sleepp` tests its command (R184). -/
  | woken
  /-- `waitcmp` armed: the monitor's number (R336). -/
  | monitor (id : Nat)
  /-- `waitcmp` woken, with TMO as given, or by a write that poisoned its word (R336). -/
  | monitorDone (tmo poison : Bool)
  /-- `bar.wait`: the barrier's home key and the generation to leave (R343); armed or retested. -/
  | barrier (key : Nat) (gen : BitVec 8) (armed : Bool) (nextTest : DWord)
  /-- `acqx` queued (R395). -/
  | acqx
  /-- `acqx` answered (R395, R396). -/
  | acqxDone (result : DWord)
  /-- `fence.sc`: the completion time k × H + G (R369). -/
  | tick (at_ : DWord)
  /-- `fence.sc` past its tick. -/
  | ticked
  /-- `yield`: the spans that were candidates and have not issued since, and the earliest time (R400). -/
  | yielding (others : List SpanId) (after : DWord)
  /-- `regang` (R239). -/
  | regang
  /-- `exit` waits for commands and loads (R189). -/
  | exiting
  /-- `phase.end` reached (R388). -/
  | phaseEnd
  /-- `reins.take` (R310). -/
  | reins
  /-- A touch waits for a saddle (R350, R351): the granule's anchor key and its sectors. -/
  | saddle (anchor : Nat) (sectors : List Nat)
  /-- Parked on an absent page (R162): the walk and whether the report asked for failure. -/
  | parked (walk : BitVec 16) (va : DWord) (kind : BitVec 2)
  /-- The host failed the walk: take ACCESS_VIOLATION at the access (R435). -/
  | parkFailed (va : DWord)
  deriving DecidableEq, Repr

/-- A clause instance that has started (R36 to R39). -/
structure Clause where
  id     : Nat
  first  : DWord
  /-- Packets of the clause minus 1. -/
  length : BitVec 4
  flagA  : BitVec 4
  flagB  : BitVec 4
  /-- It keeps flag A busy, and flag B. -/
  heldA  : Bool
  heldB  : Bool
  ended  : Bool
  deriving DecidableEq, Repr

/-- The pending bits of a span (R42). -/
structure Pending where
  /-- Per slice, one bit per vector register (the tag shares it). -/
  v     : Vector (BitVec 64) 8
  /-- Per slice, one bit per mask register. -/
  m     : Vector (BitVec 16) 8
  s     : BitVec 64
  tile  : BitVec 64
  acc   : BitVec 16
  shape : BitVec 64
  deriving DecidableEq, Repr

/-- A register that poison or a refusal can mark. -/
inductive RegRef where
  | vec (n : RegNo) (slice : Fin 8)
  | scalar (n : RegNo)
  | tile (n : RegNo)
  deriving DecidableEq, Repr

/-- A trap as the machine delivers it (Tables 14.1 and 14.3). -/
structure TrapInfo where
  code    : BitVec 6
  sub     : BitVec 4
  detail  : BitVec 12
  addr    : DWord
  lanes   : LaneMask
  unreach : Bool
  /-- Deferred or engine: the causing instruction's pc and slot, as word 1 holds them. -/
  cause   : Option DWord
  region  : BitVec 48
  deriving DecidableEq, Repr

/-- What a held fault waits for (R43, R187, R305, R318, Table 12.5). -/
inductive HeldBy where
  /-- The first reader of a register. -/
  | reg (r : RegRef)
  /-- The span's next issue (a refused store or reduction). -/
  | issue
  /-- The next fence or release of domain or system scope (R136). -/
  | farFence
  /-- An engine command, and the barrier it counts into. -/
  | command (token : BitVec 16) (bar : Option Nat)
  /-- An engine operation on an accumulator. -/
  | acc (n : BitVec 4)
  /-- An `spmv` or `sptrsv` with this status register, or a long-number instruction. -/
  | sreg (n : RegNo)
  /-- A task record, and its BAR. -/
  | task (bar : Option Nat)
  deriving DecidableEq, Repr

/-- A held fault of a span. -/
structure Held where
  by_  : HeldBy
  trap : TrapInfo
  /-- The number of the operation, command or record that it comes from. -/
  op   : Nat
  deriving DecidableEq, Repr

/-- What the words of a chain group read, as it stood before the group (R32): the registers, the pending bits, the segment
registers, the held faults, and how many vector registers, tiles and accumulators the group of spans holds. -/
structure View where
  regs  : Regs
  pend  : Pending
  segs  : Vector Seg 8
  held  : List Held
  vregs : Nat
  tiles : Nat
  accs  : Nat
  deriving DecidableEq, Repr

/-- A word that issues again alone after the rest of its chain group: the slot after the group, the later words of the
group that also wait, and what the group read (R32, R40). -/
structure Again where
  next : Nat
  more : List Nat
  view : View
  deriving DecidableEq, Repr

/-- One slice of a span (R21, R235 to R239). -/
structure Slice where
  pc     : DWord
  slot   : Nat
  /-- Current lane mask. -/
  cur    : BitVec 4
  exited : BitVec 4
  stack  : List StackEntry
  /-- The number of the sub-gang the slice belongs to. -/
  gang   : Nat
  /-- The clause instance it runs, if it has started one. -/
  clause : Option Nat
  xfer   : Option Transfer
  wait   : Option Wait
  /-- The word at `slot` issues again alone, because the other words of its group stand (R405). -/
  again  : Option Again
  /-- The packet that control left to enter `pc`, and whether it fell past its clause's end (R41). -/
  left   : DWord
  fell   : Bool
  deriving DecidableEq, Repr

/-- An arrival record (R342): the barrier and its generation, none while the response is owed. -/
structure Arrival where
  key : Nat
  gen : Option (BitVec 8)
  deriving DecidableEq, Repr

/-- Data that a command has read and not yet written (R202): its place in the command and its bytes or elements, the bytes,
and the address of a poisoned read (R86). -/
structure Flight where
  at_   : Nat
  units : Nat
  data  : List Byte
  bad   : Option DWord
  deriving DecidableEq, Repr

/-- A command an engine has accepted (R177, R179). -/
structure Command where
  token   : BitVec 16
  /-- Its place in the order in which commands were accepted. -/
  order   : Nat
  words   : Vector DWord 4
  /-- The segment registers at the `eqgo`. -/
  segs    : Vector Seg 8
  promise : DWord
  /-- The ranges of bytes or elements that have not been read yet, and the reads on their way to their destinations (R193,
  R202). -/
  unread  : List (Nat × Nat)
  flight  : List Flight
  /-- Bytes or elements performed at their destinations. -/
  done    : Nat
  /-- Bytes or elements of the whole command. -/
  total   : Nat
  /-- Bytes landed whose barrier decrement has not been sent. -/
  undecremented : Nat
  /-- The Trotter that accepted it. -/
  trotter : BitVec 3
  /-- The walk it is parked on. -/
  parked  : Option (BitVec 16)
  /-- The address of a walk that the host failed (R435). -/
  failed  : Option DWord
  /-- When it was accepted, and whether its next access to another package has had no response (R136). -/
  since   : DWord
  lost    : Bool
  stopped : Option TrapInfo
  complete : Bool
  /-- A collective's command has joined its collective (R197). -/
  joined  : Bool
  pc      : DWord
  region  : RegionId
  deriving DecidableEq, Repr

/-- A region of a span's closing order (R357, R358). -/
structure Region where
  id      : RegionId
  ended   : Bool
  /-- Sectors on which it has reduced (R362). -/
  reduced : List Nat
  deriving DecidableEq, Repr

/-- The handler frame (R413). -/
structure Frame where
  slices : Vector Slice 8
  s62    : DWord
  s63    : DWord
  /-- Slices of the trapped gang. -/
  gang   : BitVec 8
  /-- FAULTPC at entry (R417). -/
  entry  : DWord
  deriving DecidableEq, Repr

/-- One span and everything it owns. -/
structure Span where
  id      : SpanId
  group   : GroupId
  rank    : Nat
  /-- Its number in the launch (R379). -/
  number  : Nat
  regs    : Regs
  trap    : TrapRegs
  privileged : Bool
  segs    : Vector Seg 8
  /-- The segments as the bind of the phase gave them (R421). -/
  bindSegs : Vector Seg 8
  spillBase : DWord
  spillSlot : DWord
  slices  : Vector Slice 8
  clauses : List Clause
  nextClause : Nat
  /-- Busy bits of f0 to f11. -/
  flags   : BitVec 12
  pend    : Pending
  held    : List Held
  /-- W0 to W3 of the engine window (Table 6.1). -/
  window  : Vector DWord 4
  lastTok : BitVec 16
  cmds    : List Command
  frame   : Option Frame
  /-- A trap that waits for older register-writing operations before its entry (R44, R413): the trap, the trapped
  gang and the resume point. -/
  trapping : Option (TrapInfo × BitVec 8 × DWord)
  /-- At most four, most recently used first. -/
  arrivals : List Arrival
  regions : List Region
  /-- Next region sequence number of each access path. -/
  regSeq  : Vector (BitVec 21) 7
  regStart : DWord
  regSectors : Nat
  /-- The region is to end as `fence.package` does, because the span has parked (Table 12.1). -/
  ending  : Bool
  /-- The FP32 sequences that its own operations leave open when they have been performed: accumulator, M, N, CI and CJ
  (R302). -/
  seqs    : List (BitVec 4 × Nat × Nat × Nat × Nat)
  passOver : Nat
  promoted : Bool
  live    : Bool
  deriving DecidableEq, Repr

/-! ## Groups and tasks (R347, R349, R354, R388, R394) -/

/-- A tile: its 4 KiB and its shape register (Table 10.1). -/
structure Tile where
  data  : BitVec 32768
  shape : DWord
  deriving DecidableEq, Repr

/-- An open FP32 sequence of an accumulator (R302). -/
structure OpenSeq where
  t  : Nat
  m  : Nat
  n  : Nat
  ci : Nat
  cj : Nat
  /-- Per element of the window: the part, and the special state. -/
  parts : List (DWord × Nat)
  deriving DecidableEq, Repr

/-- An accumulator: its 16 KiB, its product state and its open sequence (R271, R302). -/
structure Acc where
  data  : BitVec 131072
  count : BitVec 11
  sign  : Bool
  seq   : Option OpenSeq
  deriving DecidableEq, Repr

/-- An entry of a task's rollback log (Table 11.5). -/
structure LogEntry where
  pa   : Nat
  key  : BitVec 10
  mask : BitVec 32
  seq  : BitVec 32
  old  : BitVec 256
  deriving DecidableEq, Repr

/-- Where a group stands. -/
inductive GroupStatus where
  | running
  /-- Being unseated: its spans issue nothing until the replay (R353). -/
  | unseating
  /-- Stopped by an unhandled trap, with its word 0 and FAULTPC (R415). -/
  | trapped (word0 : DWord) (pc : DWord)
  deriving DecidableEq, Repr

/-- A group bound on a core: one task. -/
structure Group where
  id      : GroupId
  /-- Studbook SEQ of its launch. -/
  launch  : DWord
  /-- Its box of the Stable. -/
  die     : Fin 4
  box     : BitVec 12
  bindRec : BindRecord
  status  : GroupStatus
  /-- DEADLINE was lowered by a pre-emption decision. -/
  preempted : Bool
  /-- Extended registers per span, and the tiles and accumulators held (R394). -/
  xv      : Nat
  tiles   : List Tile
  accs    : List Acc
  saddled : Bool
  /-- Newest first. -/
  log     : List LogEntry
  logSeq  : BitVec 32
  /-- Physical address of the log region that Preic firmware has given the task (R354). -/
  logBase : Nat
  /-- First byte of its scratch and scale allocation on the core. -/
  scratch : Nat
  scale   : Nat
  /-- Spawn pool entry and spawner's span number of a spawned group (R399, R402). -/
  spawnEntry : Option Nat
  spawner : Nat
  deriving DecidableEq, Repr

/-! ## Cores -/

/-- The kind of a valid L1 sector (R145). -/
inductive L1Kind where
  | readOnly
  | region (slot : BitVec 6) (r : RegionId)
  deriving DecidableEq, Repr

/-- A valid 32-byte L1 sector. -/
structure L1Sector where
  sector : Nat
  kind   : L1Kind
  /-- Words whose reads the home has recorded for the sector's region (R146). -/
  words  : BitVec 8
  data   : BitVec 256
  deriving DecidableEq, Repr

/-- A 128-byte line of the L1 with its valid sectors (R145). -/
structure L1Line where
  line : Nat
  secs : List L1Sector
  deriving DecidableEq, Repr

/-- The matrix-engine operations as the engine holds them (R270, R309). -/
inductive EngineKind where
  /-- The scalar quad as read at issue (Table 10.3). -/
  | mma (ta tb : RegNo) (acc : BitVec 4) (p : BitVec 3) (int : Bool) (quad : List DWord)
  | mprom (acc : BitVec 4)
  /-- `logged` as the saddle rules gave it at issue, and the log entries that it has reserved (R354). -/
  | drain (acc : BitVec 4) (red : Bool) (seg : BitVec 3) (base desc : DWord) (logged : Bool) (room : Nat)
  /-- The operands as read at issue: their limbs and the sign of the product. -/
  | bmult (acc : BitVec 4) (a b : List Word) (sign : Bool)
  | bcres (d : RegNo) (acc : BitVec 4)
  /-- The magnitudes and signs of the operands read at issue, the quotient limbs to produce, and the quotient and the running
  remainder that the limbs produced so far leave (R273). -/
  | bdiv (d : RegNo) (a b : Nat) (sa sb : Bool) (limbs q r : Nat)
  /-- The result for the operands read at issue. -/
  | bmodb (d : RegNo) (r : Int)
  /-- The schoolbook limb tiles of a `blmul`, by the number of its long operation (R282). -/
  | limbTiles (slow : Nat)
  | spmv (sd : RegNo) (layout : DWord) (x : DWord)
  | sptrsv (sd : RegNo) (layout : DWord) (x : DWord)
  /-- A tile task, by its order of entry into the gate (R317). -/
  | task (order : Nat)
  deriving DecidableEq, Repr

/-- An operation given to a core's matrix engine (R309). -/
structure EngineOp where
  id     : Nat
  span   : SpanId
  kind   : EngineKind
  accepted : Bool
  /-- MODQ, XWIN and the segment registers as the operation took them at issue. -/
  modq   : DWord
  xwin   : DWord
  segs   : Vector Seg 8
  clause : Option Nat
  pc     : DWord
  region : RegionId
  /-- Steps finished: k-steps, quotient limbs, slices or levels (R320). -/
  progress : Nat
  /-- Slices of the level in progress that are finished, and whether one of its slices has met a fault (R324). -/
  slices : List Nat
  faulted : Bool
  /-- What a window operation has gathered for XWIN (R303). -/
  gathered : Bool × Nat
  /-- The walk it is parked on (R188), and the address of a walk that the host failed (R435). -/
  parked : Option (BitVec 16)
  failed : Option DWord
  /-- When it was given to the engine, and whether its next access to another package has had no response (R136). -/
  since  : DWord
  lost   : Bool
  deriving DecidableEq, Repr

/-- The team pool of one launch on one core (R394). -/
structure Team where
  launch : DWord
  teamv  : Nat
  teamt  : Nat
  teama  : Nat
  deriving DecidableEq, Repr

/-- A queued `acqx` (R395). -/
structure AcqReq where
  span  : SpanId
  gang  : BitVec 8
  age   : BitVec 96
  v     : Nat
  t     : Nat
  a     : Nat
  since : DWord
  deriving DecidableEq, Repr

/-- A quarantined read of a span's command (R202): its destination segment address and its bytes. -/
structure Quarantine where
  span  : SpanId
  token : BitVec 16
  seg   : BitVec 3
  off   : Nat
  /-- The bytes or elements of the command that it stands for. -/
  units : Nat
  data  : List Byte
  /-- The address of a poisoned read (R86). -/
  bad   : Option DWord
  deriving DecidableEq, Repr

/-- The scratch and scale memory that a phase of a launch has left on a core (R391): places and lengths in bytes. -/
structure Remains where
  launch : DWord
  scratch : Nat
  scrLen : Nat
  scale  : Nat
  sclLen : Nat
  deriving DecidableEq, Repr

/-- What one core holds beside its spans. -/
structure Core where
  id     : CoreId
  holder : Option (BitVec 6)
  offer  : Option (BitVec 6)
  /-- Engine operations, accepted ones first in order of acceptance, then arrived ones. -/
  ops    : List EngineOp
  teams  : List Team
  acqs   : List AcqReq
  /-- Spawn entries in use: launch and entry number (R399). -/
  spawns : List (DWord × Nat)
  /-- Lines of the L1, most recently used first. -/
  l1     : List L1Line
  /-- Lines of the instruction cache, most recently used first (R24). -/
  icache : List Nat
  /-- Read data of stopped commands that landed in the quarantine buffer (R202). -/
  quarantine : List Quarantine
  /-- Launch of the last phase bound (R149). -/
  lastLaunch : Option DWord
  /-- What phases that have left the core left in its scratch and scale memory, and nothing else has been placed over. -/
  remains : List Remains
  deriving DecidableEq, Repr

/-! ## Accesses in flight and the records at the homes -/

/-- What an access in flight does at its home. -/
inductive AccessKind where
  | load
  | store
  | red (op : BitVec 3) (typ : BitVec 3)
  | amo (op : BitVec 3) (typ : BitVec 3)
  /-- `cflush`: the line's dirty sectors and its block go to DRAM (R170). -/
  | flush
  /-- `tdrain.red` of an accumulator kind: applied as a whole (R308). -/
  | update (kind : BitVec 3)
  /-- A barrier instruction by its sub code (Table 11.2); `lane` 0, its operand in `data`. -/
  | bar (op : BitVec 3)
  deriving DecidableEq, Repr

/-- What an access does to a sector, for the test of Table 12.3. -/
inductive Touch where
  | load
  | store
  | reduce
  deriving DecidableEq, Repr

/-- Where one lane's access stands. -/
inductive ReqStatus where
  /-- Its sector request waits for the span's next region (Table 12.1). -/
  | queued
  | sent
  /-- A reduction merged into the one of this operation and lane, whose acknowledgement is its own (R326). -/
  | merged (op lane : Nat)
  | performed
  | acked
  | refused (region : BitVec 48)
  | unreachable
  deriving DecidableEq, Repr

/-- One access of an operation in flight: a lane's, or a piece of a tile row or of a number. -/
structure Req where
  /-- The lane; for a tile or a number, the byte offset in it. -/
  lane   : Nat
  /-- Virtual address for translated segments. -/
  va     : DWord
  /-- Memory key of the first byte. -/
  key    : Nat
  bytes  : Nat
  /-- Key slot, chain, and whether the page is uncached or not writable. -/
  slot   : BitVec 10
  chain  : BitVec 12
  uc     : Bool
  ro     : Bool
  data   : BitVec 256
  cmp    : DWord
  /-- The region to which it belongs (R357, R364). -/
  region : RegionId
  status : ReqStatus
  result : BitVec 256
  poison : Bool
  deriving DecidableEq, Repr

/-- Where the result of an operation in flight goes. -/
inductive Dest where
  | none
  | vec (d : RegNo) (wide : Bool)
  | scalar (d : RegNo)
  | tile (t : RegNo)
  /-- A resident number and its sign. -/
  | big (d : RegNo) (neg : Bool)
  deriving DecidableEq, Repr

/-- An operation of a span's load/store or drain path that is in flight (R40, R143). -/
structure MemOp where
  id      : Nat
  span    : SpanId
  group   : GroupId
  kind    : AccessKind
  dest    : Dest
  path    : BitVec 3
  /-- Segment code, and the request hint of Table 5.4. -/
  seg     : BitVec 3
  hint    : BitVec 2
  /-- `ld.nc`. -/
  nc      : Bool
  cpol    : BitVec 2
  checked : Bool
  /-- A saddled task must log its writes (R352). -/
  logged  : Bool
  region  : RegionId
  clause  : Option Nat
  pc      : DWord
  /-- The issuing gang and its lanes. -/
  gang    : BitVec 8
  lanes   : LaneMask
  /-- Its faults are those of the whole gang: a scalar's, a tile's or a number's access. -/
  whole   : Bool
  /-- When it was sent (R136). -/
  since   : DWord
  reqs    : List Req
  deriving DecidableEq, Repr

/-- The access record of a sector (Table 12.2). -/
structure AccessRecord where
  sector : Nat
  wreg   : Option RegionId
  wmask  : BitVec 8
  rreg0  : Option RegionId
  rmask0 : BitVec 8
  rreg1  : Option RegionId
  rmask1 : BitVec 8
  redn   : BitVec 8
  redlast : Option RegionId
  redmask : BitVec 8
  /-- The task with which the record stays until its commit (R375). -/
  task   : Option GroupId
  deriving DecidableEq, Repr

/-- An access that waits at a sector for room in its record (R364, R470): a span's by its operation, an engine's by its
region. -/
structure RoomWait where
  sector : Nat
  touch  : Touch
  region : RegionId
  op     : Option Nat
  deriving DecidableEq, Repr

/-- A saddle record at an anchor (R350). -/
structure Saddle where
  /-- The launch whose set the granule belongs to. -/
  launch : DWord
  /-- Home of the granule's lowest byte. -/
  home   : Nat
  /-- Memory key of the granule's lowest byte. -/
  anchor : Nat
  /-- The 32-byte sectors of the granule. -/
  sectors : List Nat
  holder : GroupId
  age    : BitVec 96
  deriving DecidableEq, Repr

/-- An armed monitor entry (R336); `bar` for the entry of a `bar.wait` (R343). -/
structure Monitor where
  id    : Nat
  span  : SpanId
  gang  : BitVec 8
  home  : Nat
  key   : Nat
  cond  : BitVec 3
  value : DWord
  /-- The segment address that the instruction named (Table 13.6). -/
  addr  : DWord
  bar   : Bool
  deadline : Option DWord
  /-- A satisfying write has been performed, or one that poisoned the word; the wake notice is on its way. -/
  satisfied : Bool
  poison : Bool
  /-- The swapped-out group in whose name it stays armed (R338). -/
  away  : Option GroupId
  deriving DecidableEq, Repr

/-- An open walk of a die (R161). -/
structure Walk where
  id     : BitVec 16
  die    : Fin 4
  asid   : BitVec 10
  va     : DWord
  kind   : BitVec 2
  /-- 1 until it has met V = 0; then the level of the absent entry. -/
  absent : Option Nat
  joined : Nat
  deriving DecidableEq, Repr

/-- A cached leaf translation (R160): the page's size in bits and its leaf entry. -/
structure Trans where
  /-- Its core's TLB, or none for the die's cache. -/
  core  : Option CoreId
  die   : Fin 4
  asid  : BitVec 10
  vpn   : Nat
  bits  : Nat
  entry : DWord
  deriving DecidableEq, Repr

/-- Replacement priorities (R154). -/
inductive Prio where
  | low
  | evictFirst
  | normal
  | evictLast
  deriving DecidableEq, Repr

/-- A line of an L2 slice (`rdc` none) or of the RDC of a die. -/
structure Line where
  line   : Nat
  rdc    : Option (Fin 4)
  prio   : Prio
  chain  : BitVec 12
  /-- Key slot of its last fill or write (R96). -/
  slot   : BitVec 10
  /-- Sectors that hold all of their bytes. -/
  valid  : BitVec 4
  /-- Byte mask of the dirty bytes of its 128 bytes. -/
  dirty  : BitVec 128
  /-- Dirty bytes written since the block was last read poisoned (R87). -/
  since  : BitVec 128
  deriving DecidableEq, Repr

/-- The sharers of a line at its home, and the invalidations not yet confirmed (R152). -/
structure Sharers where
  line    : Nat
  vector  : BitVec 5
  /-- Sent and not yet received. -/
  inval   : BitVec 5
  /-- Received and not yet confirmed. -/
  confirm : BitVec 5
  deriving DecidableEq, Repr

/-- A block of a memory-side cache (Table 3.4). -/
structure MscBlock where
  block   : Nat
  valid   : BitVec 16
  fetched : Bool
  dirty   : Bool
  poison  : Bool
  key     : BitVec 10
  chain   : BitVec 12
  prio    : Prio
  /-- Sectors written since the block was last read poisoned (R87). -/
  rewritten : BitVec 16
  deriving DecidableEq, Repr

/-- What DRAM holds beside a block's bytes: its poison bit, its erroneous bits and the key material of its ciphertext
(R84, R96). -/
structure DramBlock where
  block  : Nat
  poison : Bool
  errors : Nat
  key    : Option (BitVec 512)
  deriving DecidableEq, Repr

/-- A channel's idle timer and self-refresh state (R100). -/
structure ChannelState where
  ch    : Channel
  lastRequest : DWord
  selfRefresh : Bool
  /-- Blocks that the scrub has read in its current pass, and when it read the last one (R88). -/
  scrubbed : Nat
  lastScrub : DWord
  deriving DecidableEq, Repr

/-- The main memory system (files 03 and 05). -/
structure MemSys where
  msc      : List MscBlock
  dram     : List DramBlock
  /-- Blocks waiting in the controllers' scrub queues (R85). -/
  scrubQ   : List (Nat × DWord)
  scrubHours : Nat
  /-- Poisoned 32-byte sectors of scratch and scale memory (R86). -/
  poisonedSectors : List Nat
  channels : List ChannelState
  idleHbm  : Nat
  idlePad  : Nat
  demoted  : List (BitVec 12)
  /-- Chains whose last kernel has retired and that firmware will demote (R93). -/
  retired  : List (BitVec 12)
  keys     : List (BitVec 10 × BitVec 512)
  lines    : List Line
  sharers  : List Sharers
  drowsy   : List BankId
  bankUse  : List (BankId × DWord)
  /-- The drowsy period of each compute die, in fabric cycles (R157). -/
  drowsyPeriod : Vector Nat 4
  /-- Lines that the IO die's host read-prefetch buffer holds (R152). -/
  prefetched : List Nat
  trans    : List Trans
  walks    : List Walk
  nextWalk : BitVec 16
  /-- ASID table base (R158). -/
  asidBase : Nat
  deriving DecidableEq, Repr

/-! ## Fabric and links (file 04) -/

/-- A network interface (R102, R103): its die, its router, and its number there. -/
structure Stop where
  die    : DieId
  router : Nat
  ni     : Nat
  deriving DecidableEq, Repr

/-- What a packet carries (R108). -/
inductive Cargo where
  /-- The requests of an operation to a sector, and the data or acknowledgement that answers them. -/
  | request (op sec : Nat)
  | reply (op sec : Nat)
  /-- The wake notice of a monitor. -/
  | wake (monitor : Nat)
  /-- An engine command or another order to a unit, by its number. -/
  | command (order : Nat)
  /-- A packet of a posted host write: the write, and the packet's offset. -/
  | posted (write off : Nat)
  /-- What a failed link's replay buffer held of a packet that had been delivered (R129). -/
  | copy (of_ : Nat)
  deriving DecidableEq, Repr

/-- Where a packet is. -/
inductive PacketPos where
  /-- In a network interface, before its router. -/
  | ni (stop : Stop)
  /-- At the head of an input of a router. -/
  | input (die : DieId) (router port : Nat)
  /-- On a Girth link, in one of its two directions, with its sequence number (R126). -/
  | girth (link : Fin 10) (way : Fin 2) (seq : BitVec 12)
  /-- On the Lunge ring, at a stop (R125). -/
  | lunge (die : DieId) (router : Nat)
  /-- In a router's Bridle buffer, in a link's reserved Bridle buffer, or in a Bridle receive slot (R113, R114). -/
  | bridle (die : DieId) (router : Nat)
  | reserve (link : Fin 10) (way : Fin 2)
  | slot (stop : Stop)
  /-- Delivered. -/
  | done
  deriving DecidableEq, Repr

/-- A packet: a header flit and up to four data flits (R108). -/
structure Packet where
  id     : Nat
  cargo  : Cargo
  src    : Stop
  dst    : Stop
  flits  : Nat
  /-- A single-flit packet that may travel on the Lunge ring (R125). -/
  light  : Bool
  pos    : PacketPos
  /-- Fabric cycles until it may move again. -/
  wait   : Nat
  misroutes : Nat
  /-- Fabric cycles without progress at the head of its input (R111). -/
  stall  : Nat
  expired : Bool
  /-- The failed link whose replay buffer held it, and its number there (R129). -/
  origin : Option (Fin 10 × Fin 2 × BitVec 12)
  deriving DecidableEq, Repr

/-- The Halter of a die (R112, R115): its stop, none when lost, and how long it has not passed stop (0, 0). -/
structure Halter where
  die    : DieId
  stop   : Option Nat
  unseen : Nat
  deriving DecidableEq, Repr

/-- A flit in a link's replay buffer (R128): the number and place of its packet, which packet, the cycles until the receiver
accepts it, whether it has, and the cycles until its acknowledgement returns. -/
structure LinkFlit where
  seq    : BitVec 12
  index  : Nat
  packet : Nat
  left   : Nat
  accepted : Bool
  ack    : Nat
  deriving DecidableEq, Repr

/-- One direction of a Girth link: the next sequence number, the replay buffer, and the last number that the far gateway has
delivered (R126 to R129). -/
structure GirthWay where
  next   : BitVec 12
  replay : List LinkFlit
  delivered : BitVec 12
  deriving DecidableEq, Repr

/-- The state of a Girth link (R126 to R129): its lanes, the times of the retrains that have failed in a row, and its two
directions, first that from its lower die. -/
structure Girth where
  lanes    : Nat
  failures : List DWord
  ways     : Vector GirthWay 2
  deriving DecidableEq, Repr

/-- A stitched region (R105, R106): the launch and the instance of its stitch level, the die, the clusters and the code. -/
structure Stitching where
  launch : DWord
  inst   : Nat
  die    : Fin 4
  clusters : BitVec 4
  code   : BitVec 3
  deriving DecidableEq, Repr

/-- The fabric, its links and its firmware settings. -/
structure Fabric where
  packets : List Packet
  halters : List Halter
  /-- Threshold of the time-out detectors, per die (R111). -/
  threshold : Vector Nat 5
  /-- Gated routers, and the fabric cycle in which each was gated (R123). -/
  gated   : List (DieId × Nat × Nat)
  /-- Routers that wake, and the cycles that this still takes. -/
  waking  : List (DieId × Nat × Nat)
  /-- The fabric cycle of a router's last flit. -/
  idle    : List (DieId × Nat × Nat)
  girth   : Vector Girth 10
  stitched : List Stitching
  pkg     : BitVec 8
  domain  : List (BitVec 8)
  hitchTimeout : Nat
  /-- Guard G of the domain heartbeat in ns (Table 12.7). -/
  guard   : Nat
  deriving DecidableEq, Repr

/-! ## Engines of clusters and dies -/

/-- An entry of a Starter (R315). -/
structure StarterEntry where
  cluster : Fin 16
  /-- The record's address as a key: its ASID and virtual address, or its key in scratch. -/
  record  : Nat
  /-- The record's address as FAULTADDR reports it. -/
  addr    : DWord
  counter : Int
  /-- The record as read at `ttask`; none for an early decrement's entry. -/
  words   : Option (BitVec 512)
  owner   : SpanId
  ownerGroup : GroupId
  segs    : Vector Seg 8
  modq    : DWord
  xexp    : DWord
  inGate  : Bool
  running : Bool
  complete : Bool
  /-- Order of entry into the gate. -/
  order   : Nat
  issuer  : SpanId
  /-- The `ttask`, as word 1 of a fault names it. -/
  pc      : DWord
  region  : RegionId
  /-- Its successors have been decremented: what is left is the arrival at its barrier. -/
  released : Bool
  /-- Sticky and SPEC gathered for the owner's XWIN. -/
  xout    : DWord
  /-- The walk it is parked on (R188), and the address of a walk that the host failed (R435). -/
  parked : Option (BitVec 16)
  failed : Option DWord
  /-- When it was entered, and whether its next access to another package has had no response (R136). -/
  since  : DWord
  lost   : Bool
  /-- Of an `sptrsv`: the operation, and the slice of an internal task, or none for the level's counter (R324). -/
  inner  : Option (Nat × Option Nat)
  deriving DecidableEq, Repr

/-- A block of the Hayloft arena in use (R199): launch, offset and length. -/
structure HayBlock where
  launch : DWord
  off    : Nat
  len    : Nat
  deriving DecidableEq, Repr

/-- An `hfree` whose span's stores are not all acknowledged (R201). -/
structure HayFree where
  id     : Nat
  span   : SpanId
  launch : DWord
  off    : Nat
  /-- The block's address, and the ASID of segment H. -/
  va     : Nat
  asid   : BitVec 10
  after  : List Nat
  deriving DecidableEq, Repr

/-- How a long-number instruction's product is formed (R282): by the Trotter itself, by the cluster's Carousel with its
butterflies, or by limb tiles that stream through the issuing core's matrix engine. -/
inductive LongVia where
  | trotter
  | carousel (butterflies : Nat)
  | tiles
  deriving DecidableEq, Repr

/-- A long operation that is not an access. -/
inductive SlowKind where
  | halloc (d : RegNo) (bytes : DWord)
  | status (d : RegNo) (v : DWord)
  | pair (d : RegNo) (v0 v1 : DWord)
  /-- `txpose` (R296). -/
  | tile (t : RegNo) (data : BitVec 32768) (shape : DWord)
  /-- `ttask`: the record, and MODQ and XWIN at issue (R314). -/
  | ttask (d : RegNo) (seg : BitVec 3) (off : DWord) (modq xwin : DWord)
  /-- A long-number instruction (its op's low bits), the descriptors or count it read, and whether the result goes to
  storage from the Hayloft (R277, R278), and how it is carried out (R282). -/
  | long (kind : BitVec 3) (d : RegNo) (a b : DWord × DWord) (alloc : Bool) (via : LongVia)
  | nothing
  deriving DecidableEq, Repr

/-- A long operation of a span that is not an access: its result comes with its completion (R42). -/
structure SlowOp where
  id     : Nat
  span   : SpanId
  kind   : SlowKind
  xpipe  : Bool
  clause : Option Nat
  pc     : DWord
  segs   : Vector Seg 8
  region : RegionId
  ready  : Bool
  /-- The walk it is parked on (R188), and the address of a walk that the host failed (R435). -/
  parked : Option (BitVec 16)
  failed : Option DWord
  /-- When it began, and whether its next access to another package has had no response (R136). -/
  since  : DWord
  lost   : Bool
  deriving DecidableEq, Repr

/-! ## Host, firmware and management (files 13, 14, 15) -/

/-- STATE of a box (Table 13.4). -/
structure Box where
  die   : Fin 4
  num   : BitVec 12
  state : BitVec 3
  bindRec : BindRecord
  deriving DecidableEq, Repr

/-- A spawned group that has not ended: its spawn sequence number, its spawner's span number, its pool entry, and what its
first phase starts with (R399, R402). -/
structure Spawned where
  seq     : Nat
  spawner : Nat
  entry   : Nat
  /-- Entry point. -/
  point   : Nat
  /-- s0 to s7. -/
  args    : List DWord
  deriving DecidableEq, Repr

/-- A launch that has been accepted (R377, R436). -/
structure Launch where
  seq     : DWord
  /-- The accepted copy of its record. -/
  record  : BitVec 2048
  /-- The 16 entry PCs of its image. -/
  entries : Vector DWord 16
  /-- Atomic sets, as Table 11.3 lays them out. -/
  asets   : List (BitVec 128)
  trace   : Bool
  /-- Groups whose first phase has been bound, and where (R380). -/
  started : List (BitVec 32 × CoreId)
  /-- Groups not yet ended. -/
  liveGroups : Nat
  nextSpawn : Nat
  spawned : List Spawned
  /-- An abort stops and discards it (R434). -/
  aborting : Bool
  /-- The code of the unhandled trap whose discard failed it (Table 15.4). -/
  failed : Option (BitVec 6)
  deriving DecidableEq, Repr

/-- A studbook record (Table 15.3). -/
structure Stud where
  seq     : DWord
  time    : DWord
  queue   : BitVec 9
  event   : Bool
  outcome : BitVec 8
  code    : BitVec 8
  done    : DWord
  digest  : BitVec 256
  /-- OP and ARG of the command. -/
  op      : BitVec 8
  arg     : DWord
  /-- SIGADDR and SIGVAL of the command. -/
  sig     : DWord × DWord
  /-- The outcome and code that it will have, once they are known (R434). -/
  verdict : Option (BitVec 8 × BitVec 8)
  deriving DecidableEq, Repr

/-- A command queue (Table 15.1). -/
structure Queue where
  port : Bool
  num  : BitVec 8
  base : DWord
  size : DWord
  head : BitVec 16
  tail : BitVec 16
  deriving DecidableEq, Repr

/-- A posted write at the ordering point (R131), or a DWIN write (R459). -/
structure Posted where
  id      : Nat
  dom     : OrderDomain
  relaxed : Bool
  pa      : Nat
  data    : List Byte
  released : Bool
  /-- Home dies that have not sent their route acknowledgement. -/
  routes  : List DieId
  /-- Its packets that are not performed yet: offset and length. -/
  packets : List (Nat × Nat)
  /-- A DWIN write of this value. -/
  dwin    : Option DWord
  deriving DecidableEq, Repr

/-- A host read or device-read completion held behind posted writes (R131). -/
structure HeldRead where
  dom   : OrderDomain
  pa    : Nat
  len   : Nat
  data  : List Byte
  completion : Bool
  behind : List Nat
  deriving DecidableEq, Repr

/-- A device write on its way to host memory (R132). -/
structure DevWrite where
  id   : Nat
  key  : Nat
  data : List Byte
  deriving DecidableEq, Repr

/-- A saved context (R428). -/
structure Context where
  die     : Fin 4
  box     : BitVec 12
  cause   : BitVec 4
  group   : Group
  spans   : List Span
  reinsHolder : Option Nat
  reinsOffer  : Option Nat
  ops     : List EngineOp
  slowOps : List SlowOp
  scratch : List Byte
  scale   : List Byte
  /-- Offsets of the poisoned sectors of S and of X (R86). -/
  badScratch : List Nat
  badScale : List Nat
  /-- Word 0 of an unhandled trap (Table 14.7). -/
  trapWord : DWord
  quarantine : List Quarantine
  stopTime : DWord
  /-- Monitors kept armed for a swapped-out group (R338). -/
  swapped : Bool
  complete : Bool
  /-- The save was not finished and was reset: not restorable (R427). -/
  discarded : Bool
  deriving DecidableEq, Repr

/-- The registers of BAR0 (Table 15.5) that no other structure holds, and the rings' producers. -/
structure Bar0 where
  dwin0   : DWord
  dwin1   : DWord
  fqbase  : DWord
  fqsize  : DWord
  fqhead  : DWord
  fqtail  : DWord
  studbase : DWord
  studsize : DWord
  studtail : DWord
  tbstat  : DWord
  sigstat : DWord
  trbase  : DWord
  trsize  : DWord
  trhead  : DWord
  trtail  : DWord
  trdrop  : DWord
  deriving DecidableEq, Repr

/-- A farrier counter's name (R441). -/
inductive Counter where
  | corrected (stack : Fin 9)
  | uncorrected (stack : Fin 9)
  | sram (die : DieId)
  | drains (die : DieId) (router : Nat)
  | girth (link : Fin 10)
  | hitch (port : Fin 36)
  | unseats
  | throttle (island : Fin 24)
  | temperature (island : Fin 24) (bin : Fin 16)
  | voltage (island : Fin 24) (bin : Fin 16)
  deriving DecidableEq, Repr

/-- An entry of a device error log. -/
inductive ErrorEntry where
  | uncorrectable (block : Nat)
  | reduction (key : Nat)
  | halter (die : DieId)
  | girthDown (link : Fin 10)
  /-- An access without a response: its place, and the Hitch port and the package for one to another package (R136). -/
  | unreachable (key : Nat) (far : Option (Nat × Nat))
  | hfree (off : Nat)
  deriving DecidableEq, Repr

/-- The report word of a power island (R442). -/
structure Island where
  mv : BitVec 16
  mhz : BitVec 16
  mw : BitVec 24
  degC : BitVec 8
  deriving DecidableEq, Repr

/-- What the host, the firmware and the IO die hold. -/
structure HostSide where
  bar0    : Bar0
  queues  : List Queue
  stud    : List Stud
  nextSeq : DWord
  launches : List Launch
  boxes   : List Box
  contexts : List Context
  /-- Bind requests Preic has not yet put into a box. -/
  requests : List (DWord × BindRecord)
  /-- Cores drained by a pre-emption decision (R423). -/
  drained : List CoreId
  posted  : List Posted
  nextPosted : Nat
  heldReads : List HeldRead
  /-- Answers to host reads, newest first. -/
  readData : List (Nat × List Byte)
  devWrites : List DevWrite
  /-- Reports waiting at the Groom core for room in the fault queue. -/
  reports : List (BitVec 512)
  mr      : Vector (BitVec 512) 4
  fuseHash : BitVec 512
  attest  : List (List Byte)
  counters : List (Counter × DWord)
  nvCounters : List (Counter × DWord)
  /-- When the counters were last copied to non-volatile storage (R441). -/
  snapAt  : DWord
  errors  : List ErrorEntry
  islands : Vector Island 24
  tbSource : BitVec 2
  /-- The timebase has been set (R437). -/
  tbSet    : Bool
  /-- Nanoseconds by which TIMEBASE is still ahead of its source, and when it was last corrected by one (R183). -/
  slew     : Int
  slewAt   : DWord
  deriving DecidableEq, Repr

/-- What Preic firmware sets (R9, R88, R100, R111, R136, R157, R371, R435, R436, R439), and disturbances for which the opcode
table has no row. -/
inductive Setting where
  /-- The scrub period in hours. -/
  | scrub (hours : Nat)
  /-- A tier's idle threshold in ns: HBM4E, or the paddock. -/
  | idle (paddock : Bool) (ns : Nat)
  /-- The drowsy period of a compute die, in fabric cycles. -/
  | drowsy (die : Fin 4) (cycles : Nat)
  /-- The time-out threshold of a die's detectors, in fabric cycles. -/
  | detector (die : DieId) (cycles : Nat)
  /-- The Hitch timeout in ns. -/
  | hitch (ns : Nat)
  /-- The guard of the domain heartbeat in ns. -/
  | guard (ns : Nat)
  /-- FQBASE and FQSIZE. -/
  | faultQueue (base size : DWord)
  /-- STUDBASE and STUDSIZE. -/
  | studbook (base size : DWord)
  /-- The base of the ASID table. -/
  | asidTable (base : Nat)
  /-- The report word of a power island. -/
  | island (n : Fin 24) (x : Island)
  /-- A die's Halter is lost: its parity is wrong. -/
  | halterLost (die : DieId)
  /-- A loader extends MR1 with the digest of a later firmware stage (R439). -/
  | firmwareStage (digest : BitVec 512)
  deriving DecidableEq, Repr

/-! ## The machine -/

/-- Where the issuing gang stands: its slices, the word it issues and the state it reads. -/
structure Issue where
  /-- Slices of the issuing gang. -/
  gang : BitVec 8
  pc   : DWord
  slot : Nat
  /-- The slot after the last word of the chain group. -/
  next : Nat
  /-- What the words of the chain group read (R32). -/
  view : Option View
  /-- The word is the packet's second control transfer (R33). -/
  second : Bool
  /-- The word is a header outside slot 0 of a clause's first packet (R41). -/
  stray  : Bool
  /-- A word of the group has waited to issue or trapped: the group takes no effect. -/
  blocked : Bool
  /-- A word of timing class W waits; the other words of its group stand. -/
  waiting : Option Wait
  /-- A trap or breakpoint that is taken after its group (R418). -/
  after : Option TrapInfo
  /-- The later words of the group that wait behind the one that waits. -/
  more : List Nat
  deriving DecidableEq, Repr

/-- The whole machine. -/
structure State where
  /-- The span that issues. -/
  sp     : Span
  /-- Every other resident span. -/
  rest   : List Span
  /-- The group of `sp`. -/
  grp    : Group
  groups : List Group
  /-- The core of `sp`. -/
  core   : Core
  cores  : List Core
  issue  : Issue
  /-- Every memory space, byte by byte, in canonical form. -/
  mem    : List Host.Cell
  memOps : List MemOp
  slowOps : List SlowOp
  records : List AccessRecord
  /-- Accesses that wait for room in a record, in order of arrival. -/
  roomQ  : List RoomWait
  saddles : List Saddle
  monitors : List Monitor
  starter : List StarterEntry
  /-- Decrements waiting for a free Starter entry: cluster and record key. -/
  earlyDecs : List (Fin 16 × Nat)
  hay    : List HayBlock
  hayFrees : List HayFree
  memsys : MemSys
  fabric : Fabric
  host   : HostSide
  /-- The timebase (R183). -/
  now    : DWord
  /-- Nanoseconds one step of the model takes (the model's own field). -/
  tickNs : Nat
  /-- Number of the next free value (the model's own field). -/
  fresh  : Nat
  /-- Number of the next operation, monitor or group (the model's own field). -/
  nextId : Nat
  /-- Events and inputs that are to happen next, in order (the model's own field). -/
  agenda : List Instr
  /-- Firmware settings that take effect next, in order (the model's own field). -/
  settings : List Setting
  deriving DecidableEq, Repr

/-! ## Stops -/

/-- Reasons for which the machine stops: there are none.  Every trap of Table 14.1 is taken as a next state, an access to
an address that does not exist traps or is answered as R10, R135 and R136 say, and while nothing can happen time passes. -/
inductive Fault where
  deriving DecidableEq, Repr

/-- Reasons for which the model has no next state. -/
inductive Refusal where
  /-- Raised by Dispatch for an instruction that has no meaning yet.  Safe. -/
  | notModelled (mnemonic : String)
  deriving DecidableEq, Repr

/-! ## Reset -/

/-- Thirty-two zero lanes. -/
def zeroLanes : Lanes := Vector.replicate 32 0

/-- The empty tag (R391). -/
def zeroTag : Tag := { len := 0, sign := false }

/-- The register files at the first instruction of a phase (R391), before the carry set: QTHRESH and NTTLIM hold the
reset values of Tables 7.8 and 9.6. -/
def Regs.zero : Regs :=
  { v := Vector.replicate 64 zeroLanes, tag := Vector.replicate 64 zeroTag, s := Vector.replicate 64 0,
    m := Vector.replicate 16 0, status := 0, modq := 0, qthresh := 0x7F800000, nttlim := 2048, xwin := 0 }

/-- The trap registers at reset (Tables 14.2 to 14.4). -/
def TrapRegs.zero : TrapRegs :=
  { faultpc := 0, faultaddr := 0, word0 := 0, word1 := 0, word2 := 0, sel := 0, trapbase := 0 }

/-- A segment register that is not valid (Table 5.2). -/
def Seg.invalid : Seg := { base := 0, lim := 0 }

/-- A slice with every lane live, in one gang, at address 0. -/
def Slice.zero : Slice :=
  { pc := 0, slot := 0, cur := 15, exited := 0, stack := [], gang := 0, clause := none, xfer := none, wait := none,
    again := none, left := 0, fell := false }

/-- No pending bit set. -/
def Pending.none : Pending :=
  { v := Vector.replicate 8 0, m := Vector.replicate 8 0, s := 0, tile := 0, acc := 0, shape := 0 }

/-- The span that stands at slot 0 of core 0 while no span is resident. -/
def Span.zero : Span :=
  { id := { core := 0, slot := 0 }, group := 0, rank := 0, number := 0, regs := Regs.zero, trap := TrapRegs.zero,
    privileged := false, segs := Vector.replicate 8 Seg.invalid, bindSegs := Vector.replicate 8 Seg.invalid,
    spillBase := 0, spillSlot := 0, slices := Vector.replicate 8 Slice.zero, clauses := [], nextClause := 0,
    flags := 0, pend := Pending.none, held := [], window := Vector.replicate 4 0, lastTok := 0, cmds := [],
    frame := Option.none, trapping := Option.none, arrivals := [], regions := [], regSeq := Vector.replicate 7 0, regStart := 0,
    regSectors := 0, ending := false, seqs := [], passOver := 0, promoted := false, live := false }

/-- A bind record of zeros. -/
def zeroBind : BindRecord :=
  { core := 0, slot0 := 0, nspan := 1, prio := 0, basev := 3, spawned := false, group := 0, launch := 0, bag := 0,
    phase := 0, age := 0, deadline := BitVec.allOnes 64 }

/-- The group that stands while no group is bound. -/
def Group.zero : Group :=
  { id := 0, launch := 0, die := 0, box := 0, bindRec := zeroBind, status := .running, preempted := false, xv := 0,
    tiles := [], accs := [], saddled := false, log := [], logSeq := 0, logBase := 0, scratch := 0, scale := 0,
    spawnEntry := none, spawner := 0 }

/-- Core 0 with nothing bound. -/
def Core.zero : Core :=
  { id := 0, holder := none, offer := none, ops := [], teams := [], acqs := [], spawns := [], l1 := [], icache := [], quarantine := [],
    lastLaunch := none,
    remains := [] }

/-- No gang issues. -/
def Issue.zero : Issue :=
  { gang := 0xFF, pc := 0, slot := 0, next := 1, view := none, second := false, stray := false, blocked := false,
    waiting := none, after := none, more := [] }

/-- The main memory system after a cold reset: nothing cached, no key loaded, firmware defaults (R88, R100, R157). -/
def MemSys.zero : MemSys :=
  { msc := [], dram := [], scrubQ := [], scrubHours := 24, poisonedSectors := [], channels := [], idleHbm := 2000,
    idlePad := 2000, demoted := [], retired := [], keys := [], lines := [], sharers := [], drowsy := [],
    bankUse := [], drowsyPeriod := Vector.replicate 4 8192, prefetched := [], trans := [], walks := [], nextWalk := 0, asidBase := 0 }

/-- The fabric after a cold reset: no packet, one Halter per die, plain meshes, links up (R111, R115, R126, R136). -/
def Fabric.zero : Fabric :=
  { packets := [],
    halters := [{ die := 0, stop := some 0, unseen := 0 }, { die := 1, stop := some 0, unseen := 0 },
      { die := 2, stop := some 0, unseen := 0 }, { die := 3, stop := some 0, unseen := 0 },
      { die := 4, stop := some 0, unseen := 0 }],
    threshold := Vector.replicate 5 2048, gated := [], waking := [], idle := [],
    girth := Vector.replicate 10
      { lanes := 20, failures := [], ways := Vector.replicate 2 { next := 0, replay := [], delivered := 0xFFF } },
    stitched := [],
    pkg := 0, domain := [0], hitchTimeout := 200000, guard := 250 }

/-- BAR0 after a cold reset (Table 15.5); firmware-loaded registers hold zero until firmware writes them. -/
def Bar0.zero : Bar0 :=
  { dwin0 := 0, dwin1 := 0, fqbase := 0, fqsize := 0, fqhead := 0, fqtail := 0, studbase := 0, studsize := 12,
    studtail := 0, tbstat := 0, sigstat := 0, trbase := 0, trsize := 0, trhead := 0, trtail := 0, trdrop := 0 }

/-- The host side after a cold reset: empty rings, free boxes, measurement registers zero (R432 to R439). -/
def HostSide.zero : HostSide :=
  { bar0 := Bar0.zero, queues := [], stud := [], nextSeq := 0, launches := [], boxes := [], contexts := [],
    requests := [], drained := [], posted := [], nextPosted := 0, heldReads := [], readData := [], devWrites := [],
    reports := [], mr := Vector.replicate 4 0, fuseHash := 0, attest := [], counters := [], nvCounters := [], snapAt := 0,
    errors := [], islands := Vector.replicate 24 { mv := 0, mhz := 0, mw := 0, degC := 0 }, tbSource := 0, tbSet := false, slew := 0,
    slewAt := 0 }

/-- The machine right after a cold reset (R9): no span is resident, memory lists nothing, every register holds its
reset value or the value that the assumption log names. -/
def State.reset : State :=
  { sp := Span.zero, rest := [], grp := Group.zero, groups := [], core := Core.zero, cores := [],
    issue := Issue.zero, mem := [], memOps := [], slowOps := [], records := [], roomQ := [], saddles := [], monitors := [],
    starter := [], earlyDecs := [], hay := [], hayFrees := [], memsys := MemSys.zero, fabric := Fabric.zero,
    host := HostSide.zero, now := 0, tickNs := 1, fresh := 0, nextId := 0, agenda := [], settings := [] }

end Sys2Proof.Machine
end

