-- ==== Sys2Proof/Machine/Memory.lean ====
section
/-!
DEFINITION. Memory as one list of bytes in canonical form, and the keys under which each space stands in it: main
memory and the Hitch domain by physical address (R82, R133), scratch (R139), scale memory and host memory.
-/

namespace Sys2Proof.Machine

open Sys2Proof

/-- Bytes by key, keys strictly rising, no zero byte listed. -/
abbrev Memory := List Host.Cell

/-- What a byte that nothing has written reads as: 0x00 (log 1). -/
def unwritten : Byte := 0

/-- Every listed key is above lo, keys rise, and no listed byte equals the unwritten one. -/
def Memory.wfAbove (m : Memory) (lo : Nat) : Bool :=
  match m with
  | [] => true
  | (k, b) :: t => decide (lo ≤ k) && b != unwritten && Memory.wfAbove t (k + 1)

/-- The canonical form. -/
def Memory.wf (m : Memory) : Bool := Memory.wfAbove m 0

/-- The byte at a key. -/
def Memory.get (m : Memory) (a : Nat) : Byte :=
  match m with
  | [] => unwritten
  | (k, b) :: t => if k = a then b else if a < k then unwritten else Memory.get t a

/-- The memory with one byte written; writing the unwritten byte removes its entry. -/
def Memory.set (m : Memory) (a : Nat) (x : Byte) : Memory :=
  match m with
  | [] => if x = unwritten then [] else [(a, x)]
  | (k, b) :: t =>
    if k < a then (k, b) :: Memory.set t a x
    else if k = a then (if x = unwritten then t else (a, x) :: t)
    else if x = unwritten then (k, b) :: t
    else (a, x) :: (k, b) :: t

/-- n bytes from a key. -/
def Memory.bytes (m : Memory) (a n : Nat) : List Byte := (List.range n).map fun i => Memory.get m (a + i)

/-- A byte string written from a key. -/
def Memory.put (m : Memory) (a : Nat) (bs : List Byte) : Memory :=
  match bs with
  | [] => m
  | b :: t => Memory.put (Memory.set m a b) (a + 1) t

/-- The little-endian value of n bytes. -/
def Memory.load (m : Memory) (a n : Nat) : Nat := leOf (Memory.bytes m a n)

/-- A value of n bytes stored little-endian. -/
def Memory.store (m : Memory) (a n x : Nat) : Memory := Memory.put m a (bytesLE n x)

/-- Key of byte b of a core's scratchpad (R139). -/
def scratchKey (core : CoreId) (b : Nat) : Nat := 2 ^ 50 + core.toNat * 0x80000 + b

/-- Key of byte b of a core's scale memory. -/
def scaleKey (core : CoreId) (b : Nat) : Nat := 2 ^ 51 + core.toNat * 0x8000 + b

/-- Key of a host bus address (R132). -/
def hostKey (a : Nat) : Nat := 2 ^ 63 + a % 2 ^ 63

/-- Does a key name main memory (local or of the domain)? -/
def isMain (k : Nat) : Bool := decide (k < 2 ^ 49)

/-- Does a key name scratch? -/
def isScratch (k : Nat) : Bool := decide (2 ^ 50 ≤ k) && decide (k < 2 ^ 51)

/-- Does a key name scale memory? -/
def isScale (k : Nat) : Bool := decide (2 ^ 51 ≤ k) && decide (k < 2 ^ 52)

/-- The core whose scratchpad holds a key. -/
def scratchCore (k : Nat) : CoreId := BitVec.ofNat 10 ((k - 2 ^ 50) / 0x80000)

/-- The 32-byte sector of a key. -/
def sectorOf (k : Nat) : Nat := k / 32

/-- The 128-byte line of a key. -/
def lineOf (k : Nat) : Nat := k / 128

/-- The 512-byte block of a key. -/
def blockOf (k : Nat) : Nat := k / 512

/-- Is a local physical address backed (Table 3.2)? -/
def localBacked (pa : Nat) : Bool :=
  decide (pa < 0x8000000000) || (decide (0x10000000000 ≤ pa) && decide (pa < 0x20000000000))

/-- The package whose memory an address above the local map names (R133): bits [48:41]. -/
def packageOf (pa : Nat) : Nat := pa / 2 ^ 41

/-- The physical key of a local alias (R133). -/
def State.canonPa (s : State) (pa : Nat) : Nat :=
  if packageOf pa = s.fabric.pkg.toNat + 1 then pa % 2 ^ 41 else pa

/-- Is a physical address backed for this package (R82, R133)? -/
def State.backed (s : State) (pa : Nat) : Bool :=
  let n := packageOf pa
  if n = 0 then localBacked pa
  else n ≤ 192 && s.fabric.domain.contains (BitVec.ofNat 8 (n - 1)) && localBacked (pa % 2 ^ 41)

/-- Does a place lie on another package? -/
def State.remote (s : State) (key : Nat) : Bool := isMain key && packageOf (s.canonPa key) != 0

/-- The die of a core (R19). -/
def dieOf (k : CoreId) : Nat := k.toNat / 192

/-- The cluster of a core, 0 to 15 over the package (R19). -/
def clusterOf (k : CoreId) : Nat := k.toNat / 48

/-- The die that a core's requests come from. -/
def coreDie (k : CoreId) : Option (Fin 4) := some ⟨dieOf k % 4, Nat.mod_lt _ (by decide)⟩

/-- Adds one to a farrier counter; the counters saturate (R441). -/
def State.count (s : State) (c : Counter) : State :=
  let old : DWord :=
    match s.host.counters.find? (fun p => p.1 = c) with
    | some p => p.2
    | none => 0
  let new : DWord := if old == BitVec.allOnes 64 then old else old + 1
  { s with host := { s.host with counters := (c, new) :: s.host.counters.filter fun p => p.1 != c } }

/-- Enters an event in the error log. -/
def State.logError (s : State) (e : ErrorEntry) : State :=
  { s with host := { s.host with errors := e :: s.host.errors } }

/-- Key material of a key slot of this package (R97). -/
def State.keyOf (s : State) (slot : BitVec 10) : Option (BitVec 512) :=
  match s.memsys.keys.find? (fun p => p.1 = slot) with
  | some p => some p.2
  | none => none

/-- Key material that a slot names at the home of a place: this package's table, or the home package's (R134). -/
def State.keyFor (s : State) (slot : BitVec 10) (a : Nat) : Option (BitVec 512) :=
  if s.remote a then Config.farKey (packageOf a - 1) slot else s.keyOf slot

/-- What DRAM holds beside a block's bytes. -/
def State.dramOf (s : State) (block : Nat) : DramBlock :=
  match s.memsys.dram.find? (fun d => d.block = block) with
  | some d => d
  | none => { block := block, poison := false, errors := 0, key := none }

/-- Replaces a block's record; one with nothing to say is not listed. -/
def State.setDram (s : State) (d : DramBlock) : State :=
  let others := s.memsys.dram.filter fun x => x.block != d.block
  let plain := !d.poison && d.errors == 0 && d.key.isNone
  { s with memsys := { s.memsys with dram := if plain then others else d :: others } }

/-- 512 bytes as one value. -/
def packBlock (bs : List Byte) : BitVec 4096 := BitVec.ofNat 4096 (leOf bs)

/-- The bytes of a block as a request under other key material sees them (R96, R98). -/
def recrypt (old new : BitVec 512) (block : Nat) (bs : List Byte) : List Byte :=
  bytesLE 512 (xtsUnit false new block (xtsUnit true old block (packBlock bs))).toNat

/-- Does a request under this material meet a block written under other material (R98)? -/
def State.otherKey (s : State) (key : Option (BitVec 512)) (block : Nat) : Option (BitVec 512 × BitVec 512) :=
  match (s.dramOf block).key, key with
  | some k1, some k2 => if k1 = k2 then none else some (k1, k2)
  | _, _ => none

/-- The 512 bytes of a block under some key material. -/
def State.blockBytes (s : State) (key : Option (BitVec 512)) (block : Nat) : List Byte :=
  let bs := Memory.bytes s.mem (block * 512) 512
  match s.otherKey key block with
  | some (k1, k2) => recrypt k1 k2 block bs
  | none => bs

/-- n bytes at a key of any space, read under a key slot (R96, R98); n bytes never cross a block when the slot
matters. -/
def State.readKey (s : State) (slot : BitVec 10) (a n : Nat) : List Byte :=
  if isMain a && (s.otherKey (s.keyFor slot a) (blockOf a)).isSome then
    ((s.blockBytes (s.keyFor slot a) (blockOf a)).drop (a % 512)).take n
  else Memory.bytes s.mem a n

/-- The state whose block stands under the material of a slot, its bytes converted (R98). -/
def State.rekey (s : State) (slot : BitVec 10) (block : Nat) : State :=
  match s.keyFor slot (block * 512) with
  | none => s
  | some k =>
    let s1 : State := { s with mem := Memory.put s.mem (block * 512) (s.blockBytes (some k) block) }
    let s2 : State := if (s.otherKey (some k) block).isSome then s1 else s
    s2.setDram { s2.dramOf block with key := some k }

/-- A byte string written at a key of any space under a key slot. -/
def State.writeKey (s : State) (slot : BitVec 10) (a : Nat) (bs : List Byte) : State :=
  let s1 := if isMain a then s.rekey slot (blockOf a) else s
  { s1 with mem := Memory.put s1.mem a bs }

end Sys2Proof.Machine
end

