-- ==== Sys2Proof/Machine/Fabric.lean ====
section
/-!
DEFINITION. The dies and their links (file 04): the meshes and what hangs on their routers (R102, R103, R468), stitched links
(R105), the ten Girth links, which dies reach which (R126, R129), and which packets are on their way (R108, R118).
-/

namespace Sys2Proof.Machine

open Sys2Proof

/-- The two dies of a Girth link: links in the order of their pairs of dies. -/
def girthDies (l : Fin 10) : DieId × DieId :=
  match l.val with
  | 0 => (0, 1)
  | 1 => (0, 2)
  | 2 => (0, 3)
  | 3 => (0, 4)
  | 4 => (1, 2)
  | 5 => (1, 3)
  | 6 => (1, 4)
  | 7 => (2, 3)
  | 8 => (2, 4)
  | _ => (3, 4)

/-- The die of a core, as the fabric numbers it. -/
def fabricDie (k : CoreId) : DieId := ⟨dieOf k % 5, Nat.mod_lt _ (by decide)⟩

/-- The die that holds the home of a place (R144): its core's, its HBM4E stack's, or the IO die, through which other packages
are reached too (R103). -/
def State.fabricHome (s : State) (key : Nat) : DieId :=
  if isScratch key then fabricDie (scratchCore key)
  else if isScale key then fabricDie (BitVec.ofNat 10 ((key - 2 ^ 51) / 0x8000))
  else if s.remote key then 4
  else
    let pa := s.canonPa key
    if pa < 0x8000000000 then ⟨pa / 2 ^ 37 % 4 % 5, Nat.mod_lt _ (by decide)⟩ else 4

/-- Has a die no working Girth link left (R129)? -/
def State.cutOff (s : State) (d : DieId) : Bool :=
  (List.finRange 10).all fun l =>
    let e := girthDies l
    (e.1 != d && e.2 != d) || s.fabric.girth[l.val].lanes == 0

/-- Can an agent on a die reach the home of a place: neither die is cut off (R129)? -/
def State.reaches (s : State) (d : DieId) (key : Nat) : Bool :=
  let h := s.fabricHome key
  h == d || (!s.cutOff h && !s.cutOff d)

/-- Is a Girth link up? -/
def State.linkUp (s : State) (l : Fin 10) : Bool := s.fabric.girth[l.val].lanes != 0

/-- The link between two dies. -/
def linkOf (a b : DieId) : Option (Fin 10) := (List.finRange 10).find? fun l => girthDies l == (a, b) || girthDies l == (b, a)

/-- The direction of a link in which a die sends. -/
def wayOf (l : Fin 10) (sender : DieId) : Fin 2 := if (girthDies l).1 == sender then 0 else 1

/-- Are two dies joined by a link that is up? -/
def State.joined (s : State) (a b : DieId) : Bool :=
  match linkOf a b with
  | some l => s.linkUp l
  | none => false

/-- The dies within n links of a die. -/
def State.diesWithin (s : State) (n : Nat) (d : DieId) : List DieId :=
  match n with
  | 0 => [d]
  | k + 1 => (List.finRange 5).filter fun e => (s.diesWithin k d).any fun x => x == e || s.joined x e

/-- The dies to which a packet on a die may go next on a shortest way to another die: that die, or a third one where needed
(R129). -/
def State.nextDies (s : State) (d t : DieId) : List DieId :=
  let steps (n : Nat) : List DieId := (List.finRange 5).filter fun e => s.joined d e && (s.diesWithin n t).contains e
  ((List.range 4).find? fun n => !(steps n).isEmpty).elim [] steps

/-! ## Meshes (R102 to R104, R468) -/

/-- Routers of a die's mesh (R102, R103). -/
def routersOf (d : DieId) : Nat := if d.val = 4 then 16 else 64

/-- Routers in a row. -/
def meshWidth (d : DieId) : Nat := if d.val = 4 then 4 else 8

/-- The router of a compute die's cluster quadrant at coordinates in it. -/
def quadRouter (c x y : Nat) : Nat := (4 * (c / 2) + y) * 8 + 4 * (c % 2) + x

/-- The network interfaces of a compute die's routers by unit, of which each router has some. -/
def niSlice : Nat := 3
/-- The RDC slice's. -/
def niRdc : Nat := 4
/-- The engines' of a cluster. -/
def niEngines : Nat := 5
/-- The HBM4E controller's. -/
def niHbm : Nat := 6
/-- The Girth gateway's. -/
def niGateway : Nat := 7
/-- The Hayloft's. -/
def niHayloft : Nat := 8
/-- The IO die's paddock controller's. -/
def niPaddock : Nat := 0
/-- The host ordering point's, and the front end's. -/
def niHost : Nat := 1
/-- A Hitch port's. -/
def niHitch : Nat := 2

/-- The stop of a core: three to a router of its cluster's quadrant (R102). -/
def coreStop (k : CoreId) : Stop :=
  let i := k.toNat % 48
  { die := fabricDie k, router := quadRouter (clusterOf k % 4) (i / 3 % 4) (i / 12), ni := i % 3 }

/-- The stop of a cluster's Starter, Carousel, Packhorse and Trotters: local index 5 (Table 4.1). -/
def engineStop (k : CoreId) : Stop := { die := fabricDie k, router := quadRouter (clusterOf k % 4) 1 1, ni := niEngines }

/-- The stop of an L2 slice. -/
def sliceStop (d : DieId) (i : Nat) : Stop := { die := d, router := i % 64, ni := niSlice }

/-- The stop of an RDC slice. -/
def rdcStop (d : DieId) (j : Nat) : Stop := { die := d, router := j / 4 % 8 * 8 + 2 * (j % 4) + j / 4 % 2, ni := niRdc }

/-- The stop of the HBM4E controller of a pseudo-channel. -/
def hbmStop (d : DieId) (pc : Nat) : Stop := { die := d, router := 7 * (pc / 64 % 2) * 8 + pc / 8 % 8, ni := niHbm }

/-- The stop of a die's Hayloft. -/
def hayloftStop (d : DieId) : Stop := { die := d, router := 27, ni := niHayloft }

/-- The stop of a paddock controller, by sub-channel. -/
def paddockStop (sc : Nat) : Stop := { die := 4, router := sc / 4 % 16, ni := niPaddock }

/-- The stop of the ordering point; its router is the model's choice (log 118). -/
def orderingStop : Stop := { die := 4, router := 0, ni := niHost }

/-- The stop of a Hitch port; its router is the model's choice (log 118). -/
def hitchStop (port : Nat) : Stop := { die := 4, router := port % 16, ni := niHitch + port / 16 }

/-- The router of a die's gateway to another die (R468). -/
def gatewayRouter (d to_ : DieId) : Nat :=
  if d.val = 4 then 3 * (to_.val / 2) * 4 + 3 * (to_.val % 2)
  else if to_.val = 4 then 24
  else
    match to_.val - (if d.val < to_.val then 1 else 0) with
    | 0 => 31
    | 1 => 32
    | _ => 39

/-! ## Links of a router (R104, R105) -/

/-- Ports: 0 to 3 lead east, west, south and north, the next ones are spare ports, and from 8 on come the interfaces. -/
def niPort (ni : Nat) : Nat := 8 + ni

/-- The first spare port. -/
def sparePort : Nat := 4

/-- The mesh neighbours of a router: each with the input at which it receives. -/
def meshLinks (d : DieId) (r : Nat) : List (Nat × Nat) :=
  let w := meshWidth d
  let h := routersOf d / w
  (if r % w + 1 < w then [(r + 1, 1)] else []) ++ (if r % w ≠ 0 then [(r - 1, 0)] else []) ++
    (if r / w + 1 < h then [(r + w, 3)] else []) ++ (if r / w ≠ 0 then [(r - w, 2)] else [])

/-- The cluster of a compute die's router. -/
def routerCluster (r : Nat) : Nat := 2 * (r / 32 % 2) + r % 8 / 4

/-- The routers of a region, in rows. -/
def regionRouters (m : BitVec 4) : List Nat := (List.range 64).filter fun r => bitOn m (routerCluster r)

/-- The routers of a region as a serpentine runs through them. -/
def serpentine (m : BitVec 4) : List Nat :=
  let rs := regionRouters m
  (List.range 8).flatMap fun y =>
    let row := rs.filter fun r => r / 8 == y
    if y % 2 = 0 then row else row.reverse

/-- Pairs of neighbours in a list. -/
def neighbours (l : List Nat) : List (Nat × Nat) := l.zip (l.drop 1)

/-- Hops between two routers of a mesh. -/
def meshHops (w a b : Nat) : Nat := (a % w - b % w) + (b % w - a % w) + (a / w - b / w) + (b / w - a / w)

/-- The routers of a region in the order in which a binary tree takes them: from the one nearest its centre, rounding to
lower x and then lower y, outwards (Table 4.2); how the tree goes on from its root is the model's choice (log 119). -/
def treeOrder (m : BitVec 4) : List Nat :=
  let rs := regionRouters m
  let xs := rs.map fun r => r % 8
  let ys := rs.map fun r => r / 8
  let mid (l : List Nat) : Nat := (l.foldl min 7 + l.foldl max 0) / 2
  let root := mid ys * 8 + mid xs
  sortBy (fun a b => decide (meshHops 8 root a < meshHops 8 root b) || (meshHops 8 root a == meshHops 8 root b && decide (a < b))) rs

/-- The links that a stitching adds (Table 4.2). -/
def stitchLinks (x : Stitching) : List (Nat × Nat) :=
  let ends (l : List Nat) : List (Nat × Nat) :=
    match l, l.getLast? with
    | a :: _ :: _, some b => [(a, b)]
    | _, _ => []
  let rs := regionRouters x.clusters
  match x.code.toNat with
  | 1 => neighbours (serpentine x.clusters) ++ ends (serpentine x.clusters)
  | 2 =>
    let t := treeOrder x.clusters
    (List.range (t.length - 1)).map fun i => (listAt t (i / 2) 0, listAt t (i + 1) 0)
  | 3 =>
    (List.range 8).flatMap fun i => ends (rs.filter fun r => r / 8 == i) ++ ends (rs.filter fun r => r % 8 == i)
  | _ => []

/-- The stitchings of a die that carry traffic: those of launches that have not retired (R106). -/
def State.stitchesOn (s : State) (d : DieId) : List Stitching :=
  s.fabric.stitched.filter fun x => x.die.val == d.val && s.host.launches.any fun l => l.seq == x.launch

/-- The routers that a router reaches over stitched links. -/
def stitchedTo (xs : List Stitching) (r : Nat) : List Nat :=
  (xs.flatMap stitchLinks).flatMap fun e => if e.1 == r then [e.2] else if e.2 == r then [e.1] else []

/-- The outputs of a router: the router that each leads to, and the input there. -/
def State.outputs (s : State) (d : DieId) (r : Nat) : List (Nat × Nat) :=
  let xs := s.stitchesOn d
  meshLinks d r ++ (stitchedTo xs r).map fun n => (n, sparePort + (stitchedTo xs n).findIdx fun m => m == r)

/-- The routers within n hops of a router. -/
def State.routersWithin (s : State) (d : DieId) (n r : Nat) : List Nat :=
  match n with
  | 0 => [r]
  | k + 1 =>
    let near := s.routersWithin d k r
    distinct (near ++ near.flatMap fun x => (s.outputs d x).map fun o => o.1)

/-- Hops between two routers of a die in the current topology (R107, R109). -/
def State.hops (s : State) (d : DieId) (a b : Nat) : Nat :=
  if (s.stitchesOn d).isEmpty then meshHops (meshWidth d) a b
  else ((List.range 15).find? fun n => (s.routersWithin d n b).contains a).getD 15

/-! ## Packets on their way (R108, R118, R122) -/

/-- Is something still on its way over the fabric?  What no packet carries is not. -/
def State.transiting (s : State) (c : Cargo) : Bool := s.fabric.packets.any fun p => p.cargo == c && p.pos != .done

/-- Is the request of an operation to a sector on its way to its home? -/
def State.onFabric (s : State) (op sec : Nat) : Bool := s.transiting (.request op sec)

/-- Is the answer of an operation's request to a sector on its way, or not sent yet? -/
def State.replying (s : State) (op sec : Nat) : Bool :=
  s.fabric.packets.any fun p => p.cargo == .request op sec || p.cargo == .reply op sec

/-- Is an answer to an operation on its way, or not sent yet? -/
def State.answering (s : State) (o : MemOp) : Bool :=
  s.fabric.packets.any fun p =>
    match p.cargo with
    | .request op _ | .reply op _ => op == o.id
    | _ => false

/-- Fabric cycles that have passed at a time in ns: the fabric clock is 1.88 GHz (R20). -/
def fabricCycles (now : DWord) : Nat := now.toNat * 188 / 100

end Sys2Proof.Machine
end

