-- ==== Sys2Proof/Machine/Float.lean ====
section
/-!
DEFINITION. Floating-point formats and exact rounding (R12, R205 to R210): an operand is decoded to an exact value,
arithmetic is exact, and one function rounds.
-/

namespace Sys2Proof.Machine

open Sys2Proof

/-- A binary format of Table 7.1: exponent and fraction widths, and whether it has an infinity. -/
structure Fmt where
  ebits  : Nat
  fbits  : Nat
  hasInf : Bool
  deriving DecidableEq, Repr

/-- FP64. -/
def Fmt.f64 : Fmt := { ebits := 11, fbits := 52, hasInf := true }
/-- FP32. -/
def Fmt.f32 : Fmt := { ebits := 8, fbits := 23, hasInf := true }
/-- FP19 without its 13 ignored low bits. -/
def Fmt.f19 : Fmt := { ebits := 8, fbits := 10, hasInf := true }
/-- BF16. -/
def Fmt.bf16 : Fmt := { ebits := 8, fbits := 7, hasInf := true }
/-- FP16. -/
def Fmt.f16 : Fmt := { ebits := 5, fbits := 10, hasInf := true }
/-- FP8 E5M2. -/
def Fmt.e5m2 : Fmt := { ebits := 5, fbits := 2, hasInf := true }
/-- FP8 E4M3. -/
def Fmt.e4m3 : Fmt := { ebits := 4, fbits := 3, hasInf := false }

/-- The exponent bias. -/
def Fmt.bias (f : Fmt) : Nat := 2 ^ (f.ebits - 1) - 1

/-- The exponent of the smallest normal. -/
def Fmt.emin (f : Fmt) : Int := 1 - (f.bias : Int)

/-- Bits of an encoding. -/
def Fmt.width (f : Fmt) : Nat := 1 + f.ebits + f.fbits

/-- The sign bit's weight. -/
def Fmt.signBit (f : Fmt) : Nat := 2 ^ (f.ebits + f.fbits)

/-- The canonical NaN (Table 7.1, R206). -/
def Fmt.nan (f : Fmt) : Nat :=
  if f.hasInf then (2 ^ f.ebits - 1) * 2 ^ f.fbits + 2 ^ (f.fbits - 1) else 2 ^ (f.ebits + f.fbits) - 1

/-- Infinity of a sign; a format without infinity gives its canonical NaN (R209). -/
def Fmt.inf (f : Fmt) (neg : Bool) : Nat :=
  if f.hasInf then (if neg then f.signBit else 0) + (2 ^ f.ebits - 1) * 2 ^ f.fbits else f.nan

/-- The largest finite encoding of a sign (Table 7.1). -/
def Fmt.largest (f : Fmt) (neg : Bool) : Nat :=
  (if neg then f.signBit else 0) +
    (if f.hasInf then (2 ^ f.ebits - 1) * 2 ^ f.fbits - 1 else 2 ^ (f.ebits + f.fbits) - 2)

/-- Zero of a sign. -/
def Fmt.zero (f : Fmt) (neg : Bool) : Nat := if neg then f.signBit else 0

/-- Rounding modes (Table 7.2). -/
inductive RMode where
  | rne
  | rtz
  | rdn
  | rup
  | rna
  deriving DecidableEq, Repr

/-- The mode of a code 0 to 4. -/
def RMode.ofCode (n : Nat) : RMode :=
  match n with
  | 1 => .rtz
  | 2 => .rdn
  | 3 => .rup
  | 4 => .rna
  | _ => .rne

/-- The floating-point flags of STATUS (Table 8.1), and SAT. -/
structure FFlags where
  nv  : Bool
  dz  : Bool
  of  : Bool
  uf  : Bool
  nx  : Bool
  sat : Bool
  deriving DecidableEq, Repr

/-- No flag. -/
def FFlags.none : FFlags := { nv := false, dz := false, of := false, uf := false, nx := false, sat := false }

/-- Invalid operation alone. -/
def FFlags.invalid : FFlags := { FFlags.none with nv := true }

/-- Flags of two results together (R226). -/
def FFlags.or (a b : FFlags) : FFlags :=
  { nv := a.nv || b.nv, dz := a.dz || b.dz, of := a.of || b.of, uf := a.uf || b.uf, nx := a.nx || b.nx,
    sat := a.sat || b.sat }

/-- An exact operand value: (−1)^neg × m × 2^e, an infinity, or a NaN. -/
inductive FVal where
  | nan (signalling : Bool)
  | inf (neg : Bool)
  | fin (neg : Bool) (m : Nat) (e : Int)
  deriving DecidableEq, Repr

/-- The value of an encoding (R205). -/
def FVal.ofBits (f : Fmt) (x : Nat) : FVal :=
  let neg := x / f.signBit % 2 == 1
  let ex := x / 2 ^ f.fbits % 2 ^ f.ebits
  let fr := x % 2 ^ f.fbits
  if f.hasInf && ex == 2 ^ f.ebits - 1 then
    if fr = 0 then .inf neg else .nan (fr < 2 ^ (f.fbits - 1))
  else if !f.hasInf && ex == 2 ^ f.ebits - 1 && fr == 2 ^ f.fbits - 1 then .nan false
  else if ex = 0 then .fin neg fr (f.emin - f.fbits)
  else .fin neg (fr + 2 ^ f.fbits) ((ex : Int) - f.bias - f.fbits)

/-- Is it a signalling NaN? -/
def FVal.isSNaN : FVal → Bool
  | .nan s => s
  | _ => false

/-- Is it a NaN? -/
def FVal.isNaN : FVal → Bool
  | .nan _ => true
  | _ => false

/-- The value with its sign inverted. -/
def FVal.neg : FVal → FVal
  | .nan s => .nan s
  | .inf n => .inf (!n)
  | .fin n m e => .fin (!n) m e

/-- floor(log2 (num / den)) for positive num and den. -/
def ratLog2 (num den : Nat) : Int :=
  let l : Int := (Nat.log2 num : Int) - (Nat.log2 den : Int)
  let ge : Bool := if 0 ≤ l then den * 2 ^ l.toNat ≤ num else den ≤ num * 2 ^ (-l).toNat
  if ge then l else l - 1

/-- Does the mode round a magnitude k + r/d away from zero (Table 7.2)? -/
def roundsUp (mode : RMode) (neg : Bool) (k r d : Nat) : Bool :=
  match mode with
  | .rne => 2 * r > d || (2 * r == d && k % 2 == 1)
  | .rtz => false
  | .rdn => neg && r != 0
  | .rup => !neg && r != 0
  | .rna => 2 * r ≥ d && r != 0

/-- The integer that the mode selects for num / den, with the remainder's presence. -/
def roundQuot (mode : RMode) (neg : Bool) (num den : Nat) : Nat × Bool :=
  let k := num / den
  let r := num % den
  (if roundsUp mode neg k r den then k + 1 else k, r != 0)

/-- num / den divided by 2^q, as a numerator and a denominator. -/
def scaleRat (num den : Nat) (q : Int) : Nat × Nat :=
  if 0 ≤ q then (num, den * 2 ^ q.toNat) else (num * 2 ^ (-q).toNat, den)

/-- The result of an overflow (Table 7.3). -/
def overflowBits (f : Fmt) (mode : RMode) (neg : Bool) : Nat :=
  if f.hasInf then
    match mode with
    | .rne | .rna => f.inf neg
    | .rtz => f.largest neg
    | .rdn => if neg then f.inf neg else f.largest neg
    | .rup => if neg then f.largest neg else f.inf neg
  else f.largest neg

/-- round((−1)^neg × num / den, f, mode) for positive num and den, and its flags (R207 to R209): tininess is judged after
rounding to unbounded exponent. -/
def roundRat (f : Fmt) (mode : RMode) (neg : Bool) (num den : Nat) : Nat × FFlags :=
  let e2 := ratLog2 num den
  let qe : Int := max e2 f.emin - f.fbits
  let (n, d) := scaleRat num den qe
  let (k, inexact) := roundQuot mode neg n d
  let (nu, du) := scaleRat num den (e2 - f.fbits)
  let (ku, _) := roundQuot mode neg nu du
  let tiny : Bool := e2 < f.emin && !(e2 + 1 == f.emin && ku == 2 ^ (f.fbits + 1))
  let body : Nat :=
    if k < 2 ^ f.fbits then k else (qe - (f.emin - f.fbits)).toNat * 2 ^ f.fbits + k
  if body > f.largest false then
    (overflowBits f mode neg, { FFlags.none with of := true, nx := true })
  else
    ((if neg then f.signBit else 0) + body, { FFlags.none with uf := tiny && inexact, nx := inexact })

/-- round of a dyadic value (−1)^neg × m × 2^e; a zero keeps its sign. -/
def roundDyadic (f : Fmt) (mode : RMode) (neg : Bool) (m : Nat) (e : Int) : Nat × FFlags :=
  if m = 0 then (f.zero neg, FFlags.none)
  else if 0 ≤ e then roundRat f mode neg (m * 2 ^ e.toNat) 1
  else roundRat f mode neg m (2 ^ (-e).toNat)

/-- round of a signed integer times 2^e; `negZero` is the sign of an exact zero. -/
def roundInt (f : Fmt) (mode : RMode) (x : Int) (e : Int) (negZero : Bool) : Nat × FFlags :=
  if x = 0 then (f.zero negZero, FFlags.none) else roundDyadic f mode (decide (x < 0)) x.natAbs e

/-- A finite value as a signed integer at the exponent q, when q is at most its own. -/
def atExp (neg : Bool) (m : Nat) (e q : Int) : Int :=
  let a : Int := (m * 2 ^ (e - q).toNat : Nat)
  if neg then -a else a

/-- The sign of an exact zero sum of two terms (IEEE 754-2019, 6.3). -/
def zeroSumSign (mode : RMode) (na nb : Bool) : Bool :=
  if na == nb then na else mode == .rdn

/-- NaN result with the invalid flag as given. -/
def nanResult (f : Fmt) (nv : Bool) : Nat × FFlags := (f.nan, { FFlags.none with nv := nv })

/-- round(a + b) (R206 to R209). -/
def fAdd (f : Fmt) (mode : RMode) (a b : FVal) : Nat × FFlags :=
  match a, b with
  | .nan s, y => nanResult f (s || y.isSNaN)
  | x, .nan s => nanResult f (s || x.isSNaN)
  | .inf n, .inf k => if n == k then (f.inf n, FFlags.none) else nanResult f true
  | .inf n, .fin .. => (f.inf n, FFlags.none)
  | .fin .., .inf k => (f.inf k, FFlags.none)
  | .fin na ma ea, .fin nb mb eb =>
    let q := min ea eb
    roundInt f mode (atExp na ma ea q + atExp nb mb eb q) q (zeroSumSign mode na nb)

/-- round(a × b). -/
def fMul (f : Fmt) (mode : RMode) (a b : FVal) : Nat × FFlags :=
  match a, b with
  | .nan s, y => nanResult f (s || y.isSNaN)
  | x, .nan s => nanResult f (s || x.isSNaN)
  | .inf n, .inf k => (f.inf (n != k), FFlags.none)
  | .inf n, .fin k m _ => if m = 0 then nanResult f true else (f.inf (n != k), FFlags.none)
  | .fin n m _, .inf k => if m = 0 then nanResult f true else (f.inf (n != k), FFlags.none)
  | .fin na ma ea, .fin nb mb eb => roundDyadic f mode (na != nb) (ma * mb) (ea + eb)

/-- Is a × b invalid, an infinity times a zero? -/
def fMulInvalid (a b : FVal) : Bool :=
  match a, b with
  | .inf _, .fin _ 0 _ => true
  | .fin _ 0 _, .inf _ => true
  | _, _ => false

/-- round(a × b + c) with one rounding. -/
def fFma (f : Fmt) (mode : RMode) (a b c : FVal) : Nat × FFlags :=
  if a.isNaN || b.isNaN || c.isNaN then
    nanResult f (a.isSNaN || b.isSNaN || c.isSNaN || (fMulInvalid a b && Config.fmaInvalidWithNaN))
  else if fMulInvalid a b then nanResult f true
  else
    match a, b, c with
    | .fin na ma ea, .fin nb mb eb, .fin nc mc ec =>
      let q := min (ea + eb) ec
      roundInt f mode (atExp (na != nb) (ma * mb) (ea + eb) q + atExp nc mc ec q) q
        (zeroSumSign mode (na != nb) nc)
    | .fin .., .fin .., .inf k => (f.inf k, FFlags.none)
    | .inf n, .inf k, .inf j => if (n != k) == j then (f.inf j, FFlags.none) else nanResult f true
    | .inf n, .fin k _ _, .inf j => if (n != k) == j then (f.inf j, FFlags.none) else nanResult f true
    | .fin n _ _, .inf k, .inf j => if (n != k) == j then (f.inf j, FFlags.none) else nanResult f true
    | .inf n, .inf k, _ => (f.inf (n != k), FFlags.none)
    | .inf n, .fin k _ _, _ => (f.inf (n != k), FFlags.none)
    | .fin n _ _, .inf k, _ => (f.inf (n != k), FFlags.none)
    | _, _, _ => nanResult f false

/-- round(a / b) (Table 8.8: division by zero and invalid division). -/
def fDiv (f : Fmt) (mode : RMode) (a b : FVal) : Nat × FFlags :=
  match a, b with
  | .nan s, y => nanResult f (s || y.isSNaN)
  | x, .nan s => nanResult f (s || x.isSNaN)
  | .inf _, .inf _ => nanResult f true
  | .inf n, .fin k _ _ => (f.inf (n != k), FFlags.none)
  | .fin n _ _, .inf k => (f.zero (n != k), FFlags.none)
  | .fin na ma ea, .fin nb mb eb =>
    if mb = 0 then
      if ma = 0 then nanResult f true else (f.inf (na != nb), { FFlags.none with dz := true })
    else if ma = 0 then (f.zero (na != nb), FFlags.none)
    else
      let (n, d) := scaleRat ma mb (eb - ea)
      roundRat f mode (na != nb) n d

/-- The integer square root, bit by bit from bit n − 1: r is the root so far. -/
def isqrtFrom (x : Nat) (n : Nat) (r : Nat) : Nat :=
  match n with
  | 0 => r
  | k + 1 =>
    let c := r + 2 ^ k
    if c * c ≤ x then isqrtFrom x k c else isqrtFrom x k r

/-- The integer square root. -/
def isqrt (x : Nat) : Nat := isqrtFrom x (Nat.log2 x / 2 + 1) 0

/-- round(√a), from the integer square root and a sticky bit. -/
def fSqrt (f : Fmt) (mode : RMode) (a : FVal) : Nat × FFlags :=
  match a with
  | .nan s => nanResult f s
  | .inf n => if n then nanResult f true else (f.inf false, FFlags.none)
  | .fin n m e =>
    if m = 0 then (f.zero n, FFlags.none)
    else if n then nanResult f true
    else
      let (m2, e2) : Nat × Int := if e % 2 = 0 then (m, e) else (2 * m, e - 1)
      let k := 2 * (f.fbits + 4)
      let big := m2 * 2 ^ (2 * k)
      let r := isqrt big
      let sticky := if r * r = big then 0 else 1
      roundDyadic f mode false (2 * r + sticky) (e2 / 2 - (k : Int) - 1)

/-- round(a × 2^n). -/
def fScale (f : Fmt) (mode : RMode) (a : FVal) (n : Int) : Nat × FFlags :=
  match a with
  | .nan s => nanResult f s
  | .inf k => (f.inf k, FFlags.none)
  | .fin k m e =>
    -- Beyond ±2,200 every format has overflowed or underflowed, so the exponent is brought to that bound.
    roundDyadic f mode k m (e + max (-4400) (min 4400 n))

/-- A finite magnitude m × 2^e rounded to an integer by the mode, and whether that was inexact. -/
def roundToNat (mode : RMode) (neg : Bool) (m : Nat) (e : Int) : Nat × Bool :=
  if 0 ≤ e then (m * 2 ^ e.toNat, false) else roundQuot mode neg m (2 ^ (-e).toNat)

/-- `vfround`: a rounded to an integral value; NX is never set (Table 8.8). -/
def fRoundInt (f : Fmt) (mode : RMode) (a : FVal) : Nat × FFlags :=
  match a with
  | .nan s => nanResult f s
  | .inf k => (f.inf k, FFlags.none)
  | .fin k m e =>
    if 0 ≤ e then roundDyadic f mode k m e
    else ((roundDyadic f .rtz k (roundToNat mode k m e).1 0).1, FFlags.none)

/-- The order of two values that are no NaN, as a comparison of exact reals. -/
def FVal.lt (a b : FVal) : Bool :=
  match a, b with
  | .inf n, .inf k => n && !k
  | .inf n, .fin .. => n
  | .fin .., .inf k => !k
  | .fin na ma ea, .fin nb mb eb =>
    let q := min ea eb
    decide (atExp na ma ea q < atExp nb mb eb q)
  | _, _ => false

/-- Equality of two values that are no NaN; zeros of both signs are equal. -/
def FVal.eqv (a b : FVal) : Bool := !a.isNaN && !b.isNaN && !a.lt b && !b.lt a

/-- The sign of a value that is no NaN. -/
def FVal.sign : FVal → Bool
  | .nan _ => false
  | .inf n => n
  | .fin n _ _ => n

/-- `vfmin` and `vfmax` on encodings (Table 8.8): −0 lies below +0; one NaN gives the other operand. -/
def fMinMax (f : Fmt) (wantMax : Bool) (x y : Nat) : Nat × FFlags :=
  let a := FVal.ofBits f x
  let b := FVal.ofBits f y
  let fl := { FFlags.none with nv := a.isSNaN || b.isSNaN }
  let less : Bool := a.lt b || (a.eqv b && a.sign && !b.sign)
  if a.isNaN && b.isNaN then (f.nan, fl)
  else if a.isNaN then (y, fl)
  else if b.isNaN then (x, fl)
  else if wantMax then (if less then y else x, fl)
  else (if less || (a.eqv b && a.sign) then x else y, fl)

/-- The relations of `vfcmp`. -/
inductive FRel where
  | eq
  | ne
  | lt
  | le
  | un
  deriving DecidableEq, Repr

/-- A comparison and whether it is invalid (R244). -/
def fCompare (r : FRel) (a b : FVal) : Bool × FFlags :=
  let un := a.isNaN || b.isNaN
  let sn := a.isSNaN || b.isSNaN
  let v : Bool :=
    match r with
    | .eq => a.eqv b
    | .ne => !a.eqv b
    | .lt => !un && a.lt b
    | .le => !un && !b.lt a
    | .un => un
  let nv : Bool :=
    match r with
    | .lt | .le => un
    | _ => sn
  (v, { FFlags.none with nv := nv })

/-- The class bit of Table 8.9. -/
def fClass (f : Fmt) (x : Nat) : Nat :=
  match FVal.ofBits f x with
  | .nan s => if s then 2 ^ 8 else 2 ^ 9
  | .inf n => if n then 2 ^ 0 else 2 ^ 7
  | .fin n m e =>
    let sub : Bool := e == f.emin - f.fbits && m < 2 ^ f.fbits
    if m = 0 then (if n then 2 ^ 3 else 2 ^ 4)
    else if sub then (if n then 2 ^ 2 else 2 ^ 5)
    else if n then 2 ^ 1 else 2 ^ 6

/-- Conversion between floating-point formats (R206, R207, R209). -/
def fConvert (dst : Fmt) (mode : RMode) (a : FVal) : Nat × FFlags :=
  match a with
  | .nan s => nanResult dst s
  | .inf n => if dst.hasInf then (dst.inf n, FFlags.none) else nanResult dst true
  | .fin n m e => roundDyadic dst mode n m e

/-- Conversion to an integer of the range lo to hi (R210). -/
def fToInt (mode : RMode) (lo hi : Int) (a : FVal) : Int × FFlags :=
  match a with
  | .nan _ => (0, FFlags.invalid)
  | .inf n => (if n then lo else hi, FFlags.invalid)
  | .fin n m e =>
    -- Above 2^64 in magnitude the result is out of every range.
    if m ≠ 0 ∧ (Nat.log2 m : Int) + e > 70 then (if n then lo else hi, FFlags.invalid)
    else
      let (k, inexact) := roundToNat mode n m e
      let x : Int := if n then -(k : Int) else k
      if x < lo then (lo, FFlags.invalid)
      else if hi < x then (hi, FFlags.invalid)
      else (x, { FFlags.none with nx := inexact })

end Sys2Proof.Machine
end

