-- ==== Sys2Proof/Machine/Flags.lean ====
section
/-!
DEFINITION. STATUS (Table 8.1): its fields, the sticky flags (R226), the scalar carry, and the two bits of `waitcmp`.
-/

namespace Sys2Proof.Machine

open Sys2Proof

/-- The rounding mode of STATUS.RM (R225). -/
def statusMode (st : DWord) : RMode := RMode.ofCode (fld st 0 3)

/-- The enables of a STATUS value, as flags (bits [12:8]). -/
def statusEnables (st : DWord) : FFlags :=
  { nv := bitOn st 8, dz := bitOn st 9, of := bitOn st 10, uf := bitOn st 11, nx := bitOn st 12, sat := false }

/-- Flags as the bits NV, DZ, OF, UF, NX from bit 0 (Table 14.1; log 8). -/
def FFlags.bits (f : FFlags) : Nat :=
  (if f.nv then 1 else 0) + (if f.dz then 2 else 0) + (if f.of then 4 else 0) + (if f.uf then 8 else 0) +
    (if f.nx then 16 else 0)

/-- Flags that both hold. -/
def FFlags.and (a b : FFlags) : FFlags :=
  { nv := a.nv && b.nv, dz := a.dz && b.dz, of := a.of && b.of, uf := a.uf && b.uf, nx := a.nx && b.nx,
    sat := a.sat && b.sat }

/-- Does a result set a flag whose enable is 1 (R226)? -/
def FFlags.trapsUnder (f : FFlags) (st : DWord) : Bool := (f.and (statusEnables st)).bits != 0

/-- STATUS with the sticky flags ORed in (R226). -/
def statusOr (st : DWord) (f : FFlags) : DWord :=
  st ||| BitVec.ofNat 64 (f.bits * 8) ||| (if f.sat then 0x10000 else 0)

/-- The scalar carry CY. -/
def statusCY (st : DWord) : Bool := bitOn st 13

/-- STATUS with CY written (R232). -/
def statusSetCY (st : DWord) (b : Bool) : DWord := setBit st 13 b

/-- STATUS with UNARM and TMO written (R336). -/
def statusWait (st : DWord) (unarm tmo : Bool) : DWord := setBit (setBit st 14 unarm) 15 tmo

/-- What a `syswr` to STATUS leaves (R225): RM 5 to 7 keeps RM; UNARM, TMO and the reserved bits are not written. -/
def statusWrite (old new : DWord) : DWord :=
  let rm := if 5 ≤ fld new 0 3 then fld old 0 3 else fld new 0 3
  BitVec.ofNat 64 (rm + fld new 3 11 * 2 ^ 3 + fld old 14 2 * 2 ^ 14 + fld new 16 1 * 2 ^ 16)

/-- The rounding mode a prefix names: codes 0 to 4, and 5 for STATUS.RM (R46). -/
def roundCode (st : DWord) (rnd : Nat) : RMode := if rnd = 5 then statusMode st else RMode.ofCode rnd

end Sys2Proof.Machine
end

