-- ==== Sys2Proof/Machine/Operands.lean ====
section
/-!
DEFINITION. What each instruction names (R31, R40, R42, R51 to R69): the registers it reads and writes, its pipe and
timing class, the prefix fields it reads (Table 8.3, R163), and the codes that make it illegal (R70).
-/

namespace Sys2Proof.Machine

open Sys2Proof

/-- A register with a pending bit (R42). -/
inductive Ref where
  | v (n : Nat)
  | m (n : Nat)
  | s (n : Nat)
  | tile (n : Nat)
  | acc (n : Nat)
  | shape (n : Nat)
  deriving DecidableEq, Repr

/-- The pipes (Table 2.1). -/
inductive Pipe where
  | s
  | v
  | x
  | m
  | none
  deriving DecidableEq, Repr

/-- The timing classes (R40). -/
inductive Timing where
  | short
  | longA
  | longB
  | blocking
  deriving DecidableEq, Repr

/-- The chain bit, class, pipe and timing class of an instruction; an event has class 16. -/
structure Kind where
  chain  : Bool
  cls    : Nat
  pipe   : Pipe
  timing : Timing
  deriving DecidableEq, Repr

/-- Prefix fields that an instruction reads (Table 8.3); `hint` for class 8 (R49), `refused` when no prefix may stand
before it (R163). -/
structure PreUse where
  mask : Bool
  z    : Bool
  rnd  : Bool
  vc   : Bool
  sub  : Bool
  sat  : Bool
  fill : Bool
  hint : Bool
  no   : Bool
  deriving DecidableEq, Repr

/-- No field. -/
def PreUse.nothing : PreUse :=
  { mask := false, z := false, rnd := false, vc := false, sub := false, sat := false, fill := false, hint := false,
    no := false }
/-- No prefix at all. -/
def PreUse.refused : PreUse := { PreUse.nothing with no := true }
/-- mask. -/
def PreUse.maskOnly : PreUse := { PreUse.nothing with mask := true }
/-- mask, Z. -/
def PreUse.maskZ : PreUse := { PreUse.maskOnly with z := true }
/-- mask, Z, sat. -/
def PreUse.satMask : PreUse := { PreUse.maskZ with sat := true }
/-- mask, Z, vc, sat. -/
def PreUse.madUse : PreUse := { PreUse.satMask with vc := true }
/-- mask, Z, rnd. -/
def PreUse.maskZRnd : PreUse := { PreUse.maskZ with rnd := true }
/-- mask, Z, rnd, vc. -/
def PreUse.fmaUse : PreUse := { PreUse.maskZRnd with vc := true }
/-- mask, Z, rnd, and sat for a conversion between integers. -/
def PreUse.cvtUse (ints : Bool) : PreUse := { PreUse.maskZRnd with sat := ints }
/-- rnd, vc. -/
def PreUse.rndVc : PreUse := { PreUse.nothing with rnd := true, vc := true }
/-- mask, Z, vc, sub, fill. -/
def PreUse.shflUse : PreUse := { PreUse.maskZ with vc := true, sub := true, fill := true }
/-- mask, Z, sub. -/
def PreUse.maskZSub : PreUse := { PreUse.maskZ with sub := true }
/-- mask, Z, sub, and rnd for a floating-point type. -/
def PreUse.scanUse (float : Bool) : PreUse := { PreUse.maskZSub with rnd := float }
/-- The hint bits of class 8. -/
def PreUse.hintUse : PreUse := { PreUse.nothing with hint := true }

/-- Is a chained prefix misused (R47, R48, R49, R155): a code that is not defined, or a field at no default that the base
does not read? -/
def preBad (u : PreUse) (p : Option Pre) : Bool :=
  match p with
  | none => false
  | some q =>
    u.no || (!u.mask && q.mask != 0) || (!u.z && q.z) || (!u.vc && q.vc != 0) || (!u.sat && q.sat) ||
    (!u.fill && q.fill) || (if u.sub then 6 ≤ q.sub.toNat else q.sub != 5) ||
    (if u.hint then 4 ≤ q.rnd.toNat else if u.rnd then 6 ≤ q.rnd.toNat else q.rnd != 0)

/-- Is a register number odd, where a pair needs an even one (R51)? -/
def odd (n : RegNo) : Bool := n.toNat % 2 == 1

/-- One vector register. -/
def vr (n : RegNo) : List Ref := [.v n.toNat]
/-- A group of consecutive vector registers. -/
def vg (n : RegNo) (k : Nat) : List Ref := (List.range k).map fun i => .v (n.toNat + i)
/-- A pair. -/
def vp (n : RegNo) : List Ref := vg n 2
/-- A register or, for i64 (code 2), a pair. -/
def vt (t : BitVec 3) (n : RegNo) : List Ref := if t = 2 then vp n else vr n
/-- A register or, for f64 (code 0), a pair. -/
def vf (t : BitVec 3) (n : RegNo) : List Ref := if t = 0 then vp n else vr n
/-- A register or, for i64 and f64 of a scan (codes 2 and 4), a pair. -/
def vw (t : BitVec 3) (n : RegNo) : List Ref := if t = 2 ∨ t = 4 then vp n else vr n
/-- Is a type of class 9 64 bits wide (R65)? -/
def wide (t : BitVec 3) : Bool := t == 2 || t == 3 || t == 5
/-- The data register or pair of an atomic. -/
def va (t : BitVec 3) (n : RegNo) : List Ref := if wide t then vp n else vr n
/-- One scalar register. -/
def sr (n : RegNo) : List Ref := [.s n.toNat]
/-- The partner of a scalar register. -/
def sr1 (n : RegNo) : List Ref := [.s (n.toNat + 1)]
/-- A scalar pair. -/
def sp (n : RegNo) : List Ref := [.s n.toNat, .s (n.toNat + 1)]
/-- A scalar quad s[4q] to s[4q + 3] (R50). -/
def sq (q : BitVec 4) : List Ref := (List.range 4).map fun i => .s (4 * q.toNat + i)
/-- A mask register; m0 is constant. -/
def mr (n : RegNo) : List Ref := if n = 0 then [] else [.m n.toNat]
/-- An accumulator. -/
def ar (n : RegNo) : List Ref := [.acc n.toNat]
/-- A tile. -/
def tr (n : RegNo) : List Ref := [.tile n.toNat]
/-- A shape register. -/
def hr (n : RegNo) : List Ref := [.shape n.toNat]
/-- The mask register that a prefix names. -/
def preMask (p : Option Pre) : List Ref :=
  match p with
  | some q => if q.mask = 0 then [] else [.m q.mask.toNat]
  | none => []
/-- The mask register in a prefix's vc field (R60). -/
def preVcMask (p : Option Pre) : List Ref :=
  match p with
  | some q => if q.vc = 0 then [] else [.m q.vc.toNat]
  | none => []
/-- A scalar that is read only when the prefix's vc names an outlier mask (R249). -/
def preVcScalar (p : Option Pre) (b : RegNo) : List Ref :=
  match p with
  | some q => if q.vc = 0 then [] else sr b
  | none => []
/-- Does a prefix stand and is its vc between lo and hi (R60)? -/
def preVcIn (p : Option Pre) (lo hi : Nat) : Bool :=
  match p with
  | some q => lo ≤ q.vc.toNat && q.vc.toNat ≤ hi
  | none => false
/-- The fill register of a shuffle (R252). -/
def preFill (t : BitVec 3) (p : Option Pre) : List Ref :=
  match p with
  | some q => if q.fill then vt t q.vc else []
  | none => []
/-- Elements per lane of a conversion code (R247). -/
def cvtElems (k : BitVec 3) : Nat :=
  match k.toNat with
  | 2 | 3 | 6 => 2
  | 7 => 4
  | _ => 1
/-- Registers per element group of a conversion code (R247). -/
def cvtWords (k : BitVec 3) : Nat := if k = 0 then 2 else 1
/-- Registers that the codes k occupies when it converts to or from j (R247). -/
def cvtRegs (k j : BitVec 3) : Nat := max (cvtElems k) (cvtElems j) / cvtElems k * cvtWords k
/-- Is a system register number listed (Table 2.3)? -/
def sysRegListed (r : BitVec 12) : Bool :=
  r.toNat ≤ 6 || (0x10 ≤ r.toNat && r.toNat ≤ 0x15) || (0x20 ≤ r.toNat && r.toNat ≤ 0x23) ||
  (0x40 ≤ r.toNat && r.toNat ≤ 0x4F)
/-- Is a flag number of a header not allowed (R37)? -/
def flagBad (n : BitVec 4) : Bool := 12 ≤ n.toNat && n.toNat ≤ 14

/-- The registers an instruction reads (R42). -/
def readsOf (i : Instr) : List Ref :=
  match i with
  | .clauseStart _ _ _ _ => []
  | .add _ _ a b _ => sr a ++ sr b
  | .sub _ _ a b _ => sr a ++ sr b
  | .addc _ _ a b _ => sr a ++ sr b
  | .mul _ _ a b _ => sr a ++ sr b
  | .mulh _ _ a b _ => sr a ++ sr b
  | .mulhu _ _ a b _ => sr a ++ sr b
  | .div _ _ a b _ => sr a ++ sr b
  | .divu _ _ a b _ => sr a ++ sr b
  | .rem _ _ a b _ => sr a ++ sr b
  | .remu _ _ a b _ => sr a ++ sr b
  | .and _ _ a b _ => sr a ++ sr b
  | .or _ _ a b _ => sr a ++ sr b
  | .xor _ _ a b _ => sr a ++ sr b
  | .andn _ _ a b _ => sr a ++ sr b
  | .shl _ _ a b _ => sr a ++ sr b
  | .shr _ _ a b _ => sr a ++ sr b
  | .sar _ _ a b _ => sr a ++ sr b
  | .rol _ _ a b _ => sr a ++ sr b
  | .min _ _ a b _ => sr a ++ sr b
  | .max _ _ a b _ => sr a ++ sr b
  | .minu _ _ a b _ => sr a ++ sr b
  | .maxu _ _ a b _ => sr a ++ sr b
  | .cmpEq _ _ a b _ => sr a ++ sr b
  | .cmpNe _ _ a b _ => sr a ++ sr b
  | .cmpLt _ _ a b _ => sr a ++ sr b
  | .cmpGe _ _ a b _ => sr a ++ sr b
  | .cmpLtu _ _ a b _ => sr a ++ sr b
  | .cmpGeu _ _ a b _ => sr a ++ sr b
  | .sel _ d a b => sr a ++ sr b ++ sr d
  | .clz _ _ a _ => sr a
  | .ctz _ _ a _ => sr a
  | .popc _ _ a _ => sr a
  | .bext _ _ a b => sr a ++ sr b
  | .bins _ d a b => sr a ++ sr b ++ sr d
  | .mov _ _ a _ => sr a
  | .addi _ d _ => sr d
  | .movi _ _ _ => []
  | .movhi _ d _ => sr d
  | .andi _ d _ => sr d
  | .ori _ d _ => sr d
  | .xori _ d _ => sr d
  | .shli _ d _ => sr d
  | .shri _ d _ => sr d
  | .cmpiEq _ d _ => sr d
  | .cmpiNe _ d _ => sr d
  | .cmpiLt _ d _ => sr d
  | .cmpiGe _ d _ => sr d
  | .cmpiLtu _ d _ => sr d
  | .cmpiGeu _ d _ => sr d
  | .br _ _ => []
  | .brc _ d _ => sr d
  | .brv _ m _ => mr m
  | .call _ _ _ => []
  | .ret _ d => sr d
  | .jmpr _ d => sr d
  | .join _ => []
  | .regang _ => []
  | .regangRelease _ => []
  | .exit _ => []
  | .nop _ => []
  | .vadd p _ t _ a b => vt t a ++ vt t b ++ preMask p
  | .vaddS p _ t _ a s => vt t a ++ sr s ++ preMask p
  | .vaddI p _ t _ a _ => vt t a ++ preMask p
  | .vsub p _ t _ a b => vt t a ++ vt t b ++ preMask p
  | .vsubS p _ t _ a s => vt t a ++ sr s ++ preMask p
  | .vsubI p _ t _ a _ => vt t a ++ preMask p
  | .vmul p _ _ _ a b => vr a ++ vr b ++ preMask p
  | .vmulS p _ _ _ a s => vr a ++ sr s ++ preMask p
  | .vmulh p _ _ _ a b => vr a ++ vr b ++ preMask p
  | .vmulhS p _ _ _ a s => vr a ++ sr s ++ preMask p
  | .vmulhu p _ _ a b => vr a ++ vr b ++ preMask p
  | .vmulhuS p _ _ a s => vr a ++ sr s ++ preMask p
  | .vmad p _ _ d a b => vr a ++ vr b ++ (match p with | some q => vr q.vc | none => vr d) ++ preMask p
  | .vaddc p _ _ a b => vr a ++ vr b ++ [.m 15] ++ preMask p
  | .vsubc p _ _ a b => vr a ++ vr b ++ [.m 15] ++ preMask p
  | .vmulw p _ _ _ a b => vr a ++ vr b ++ preMask p
  | .vand p _ t _ a b => vt t a ++ vt t b ++ preMask p
  | .vandS p _ t _ a s => vt t a ++ sr s ++ preMask p
  | .vandI p _ t _ a _ => vt t a ++ preMask p
  | .vor p _ t _ a b => vt t a ++ vt t b ++ preMask p
  | .vorS p _ t _ a s => vt t a ++ sr s ++ preMask p
  | .vorI p _ t _ a _ => vt t a ++ preMask p
  | .vxor p _ t _ a b => vt t a ++ vt t b ++ preMask p
  | .vxorS p _ t _ a s => vt t a ++ sr s ++ preMask p
  | .vxorI p _ t _ a _ => vt t a ++ preMask p
  | .vshl p _ t _ a b => vt t a ++ vt t b ++ preMask p
  | .vshlS p _ t _ a s => vt t a ++ sr s ++ preMask p
  | .vshlI p _ t _ a _ => vt t a ++ preMask p
  | .vshr p _ t _ a b => vt t a ++ vt t b ++ preMask p
  | .vshrS p _ t _ a s => vt t a ++ sr s ++ preMask p
  | .vshrI p _ t _ a _ => vt t a ++ preMask p
  | .vsar p _ t _ a b => vt t a ++ vt t b ++ preMask p
  | .vsarS p _ t _ a s => vt t a ++ sr s ++ preMask p
  | .vsarI p _ t _ a _ => vt t a ++ preMask p
  | .vmin p _ t _ a b => vt t a ++ vt t b ++ preMask p
  | .vminS p _ t _ a s => vt t a ++ sr s ++ preMask p
  | .vmax p _ t _ a b => vt t a ++ vt t b ++ preMask p
  | .vmaxS p _ t _ a s => vt t a ++ sr s ++ preMask p
  | .vminu p _ _ a b => vr a ++ vr b ++ preMask p
  | .vminuS p _ _ a s => vr a ++ sr s ++ preMask p
  | .vmaxu p _ _ a b => vr a ++ vr b ++ preMask p
  | .vmaxuS p _ _ a s => vr a ++ sr s ++ preMask p
  | .vcmpEq p _ t _ a b => vt t a ++ vt t b ++ preMask p
  | .vcmpEqS p _ t _ a s => vt t a ++ sr s ++ preMask p
  | .vcmpNe p _ t _ a b => vt t a ++ vt t b ++ preMask p
  | .vcmpNeS p _ t _ a s => vt t a ++ sr s ++ preMask p
  | .vcmpLt p _ t _ a b => vt t a ++ vt t b ++ preMask p
  | .vcmpLtS p _ t _ a s => vt t a ++ sr s ++ preMask p
  | .vcmpGe p _ t _ a b => vt t a ++ vt t b ++ preMask p
  | .vcmpGeS p _ t _ a s => vt t a ++ sr s ++ preMask p
  | .vsel p _ t _ a b => vt t a ++ vt t b ++ preMask p
  | .vabs p _ t _ a => vt t a ++ preMask p
  | .vpopc p _ t _ a => vt t a ++ preMask p
  | .vclz p _ t _ a => vt t a ++ preMask p
  | .vbext p _ _ a b => vr a ++ vr b ++ preMask p
  | .vmov p _ t _ a => vt t a ++ preMask p
  | .vmovs p _ _ _ s => sr s ++ preMask p
  | .vfadd p _ t _ a b => vf t a ++ vf t b ++ preMask p
  | .vfaddS p _ t _ a s => vf t a ++ sr s ++ preMask p
  | .vfsub p _ t _ a b => vf t a ++ vf t b ++ preMask p
  | .vfsubS p _ t _ a s => vf t a ++ sr s ++ preMask p
  | .vfmul p _ t _ a b => vf t a ++ vf t b ++ preMask p
  | .vfmulS p _ t _ a s => vf t a ++ sr s ++ preMask p
  | .vffma p _ t d a b => vf t a ++ vf t b ++ (match p with | some q => vf t q.vc | none => vf t d) ++ preMask p
  | .vffmaS p _ t d a s => vf t a ++ sr s ++ (match p with | some q => vf t q.vc | none => vf t d) ++ preMask p
  | .vfmin p _ t _ a b => vf t a ++ vf t b ++ preMask p
  | .vfminS p _ t _ a s => vf t a ++ sr s ++ preMask p
  | .vfmax p _ t _ a b => vf t a ++ vf t b ++ preMask p
  | .vfmaxS p _ t _ a s => vf t a ++ sr s ++ preMask p
  | .vfabs p _ t _ a => vf t a ++ preMask p
  | .vfneg p _ t _ a => vf t a ++ preMask p
  | .vfdiv p _ t _ a b => vf t a ++ vf t b ++ preMask p
  | .vfscale p _ t _ a b => vf t a ++ vr b ++ preMask p
  | .vfround p _ t _ a => vf t a ++ preMask p
  | .vfclass p _ t _ a => vf t a ++ preMask p
  | .vfcmpEq p _ t _ a b => vf t a ++ vf t b ++ preMask p
  | .vfcmpNe p _ t _ a b => vf t a ++ vf t b ++ preMask p
  | .vfcmpLt p _ t _ a b => vf t a ++ vf t b ++ preMask p
  | .vfcmpLe p _ t _ a b => vf t a ++ vf t b ++ preMask p
  | .vfcmpUn p _ t _ a b => vf t a ++ vf t b ++ preMask p
  | .vexp2 p _ _ _ a => vr a ++ preMask p
  | .vexp p _ _ _ a => vr a ++ preMask p
  | .vlog2 p _ _ _ a => vr a ++ preMask p
  | .vln p _ _ _ a => vr a ++ preMask p
  | .vrcp p _ _ _ a => vr a ++ preMask p
  | .vrsqrt p _ _ _ a => vr a ++ preMask p
  | .vsqrt p _ _ _ a => vr a ++ preMask p
  | .vsin p _ _ _ a => vr a ++ preMask p
  | .vcos p _ _ _ a => vr a ++ preMask p
  | .vtanh p _ _ _ a => vr a ++ preMask p
  | .vsigm p _ _ _ a => vr a ++ preMask p
  | .verf p _ _ _ a => vr a ++ preMask p
  | .vexp2Acc p _ _ _ a => vr a ++ preMask p
  | .vexpAcc p _ _ _ a => vr a ++ preMask p
  | .vlog2Acc p _ _ _ a => vr a ++ preMask p
  | .vlnAcc p _ _ _ a => vr a ++ preMask p
  | .vrcpAcc p _ _ _ a => vr a ++ preMask p
  | .vrsqrtAcc p _ _ _ a => vr a ++ preMask p
  | .vsqrtAcc p _ _ _ a => vr a ++ preMask p
  | .vsinAcc p _ _ _ a => vr a ++ preMask p
  | .vcosAcc p _ _ _ a => vr a ++ preMask p
  | .vtanhAcc p _ _ _ a => vr a ++ preMask p
  | .vsigmAcc p _ _ _ a => vr a ++ preMask p
  | .verfAcc p _ _ _ a => vr a ++ preMask p
  | .vcvt p _ t _ a k => vg a (cvtRegs t k) ++ preMask p
  | .vqcvt _ _ _ _ _ a b => vr a ++ sr b
  | .vdqcvt p _ _ _ _ a b => vr a ++ preVcMask p ++ preVcScalar p b
  | .vpackBp _ _ _ a _ => vr a
  | .vunpackBp _ _ _ a _ => vr a
  | .shfl p _ t _ a b => vt t a ++ preMask p ++ preFill t p ++ vr b
  | .shflUp p _ t _ a _ => vt t a ++ preMask p ++ preFill t p
  | .shflDn p _ t _ a _ => vt t a ++ preMask p ++ preFill t p
  | .shflX p _ t _ a _ => vt t a ++ preMask p ++ preFill t p
  | .shflUpS p _ t _ a s => vt t a ++ preMask p ++ preFill t p ++ sr s
  | .shflDnS p _ t _ a s => vt t a ++ preMask p ++ preFill t p ++ sr s
  | .shflXS p _ t _ a s => vt t a ++ preMask p ++ preFill t p ++ sr s
  | .voteAny p _ _ a => vr a ++ preMask p
  | .voteAll p _ _ a => vr a ++ preMask p
  | .ballot p _ _ a => vr a ++ preMask p
  | .vscan p _ t _ a _ _ => vw t a ++ preMask p
  | .vred p _ t _ a _ => vw t a ++ preMask p
  | .vcarry p _ _ a b => vr a ++ vr b ++ preMask p
  | .ssi p _ _ a b => vr a ++ vr b ++ preMask p
  | .vlane p _ _ => preMask p
  | .badd _ _ a b => vr a ++ vr b
  | .bsub _ _ a b => vr a ++ vr b
  | .bneg _ _ a => vr a
  | .babs _ _ a => vr a
  | .bcmp _ _ a b => vr a ++ vr b
  | .bshl _ _ a s => vr a ++ sr s
  | .bshlI _ _ a _ => vr a
  | .bshr _ _ a s => vr a ++ sr s
  | .bshrI _ _ a _ => vr a
  | .bmult _ _ a b => vr a ++ vr b
  | .bcres _ _ a => ar a
  | .bdiv _ _ a b => vr a ++ vr b
  | .bmodb _ _ a b => vr a ++ vp b
  | .bnorm _ _ a => vr a
  | .blen _ _ a => vr a
  | .bspill _ a b => vr a ++ sp b
  | .bfill _ _ b => sp b
  | .bladd _ d a b => sp a ++ sp b ++ sp d
  | .blsub _ d a b => sp a ++ sp b ++ sp d
  | .blmul _ d a b => sp a ++ sp b ++ sp d
  | .blcmp _ _ a b => sp a ++ sp b
  | .blshift _ d a b => sp a ++ sr b ++ sp d
  | .dotx _ d a b => vp a ++ vp b ++ vr d
  | .xround _ _ a => vr a
  | .bcvt _ _ s => sr s
  | .mma _ a b acc _ q => tr a ++ hr a ++ tr b ++ hr b ++ sq q ++ ar (acc.setWidth 6)
  | .mmai _ a b acc q => tr a ++ hr a ++ tr b ++ hr b ++ sq q ++ ar (acc.setWidth 6)
  | .tshape _ _ b => sr b
  | .tload _ a b f _ => hr a ++ sr b ++ sr f
  | .tstore _ a b f _ => hr a ++ sr b ++ sr f ++ tr a
  | .tzero _ _ _ => []
  | .mprom _ a => ar a
  | .tdrain _ a b f _ => ar a ++ sr b ++ sr f
  | .tdrainRed _ a b f _ => ar a ++ sr b ++ sr f
  | .txpose _ _ b => tr b ++ hr b
  | .tscale _ _ b => sr b
  | .ttask _ _ a _ => sr a
  | .spmv _ _ a b => sr a ++ sr b
  | .sptrsv _ _ a b => sr a ++ sr b
  | .reinsTake _ => []
  | .reinsPass _ a => sr a
  | .reinsPassNext _ => []
  | .reinsQuery _ _ => []
  | .reinsGrant _ => []
  | .ld _ _ _ _ a b _ => sr a ++ vr b
  | .ld64 _ _ _ _ a b _ => sr a ++ vr b
  | .ld16 _ _ _ _ a b _ => sr a ++ vr b
  | .ld8 _ _ _ _ a b _ => sr a ++ vr b
  | .st _ _ _ d a b _ => sr a ++ vr b ++ vr d
  | .st64 _ _ _ d a b _ => sr a ++ vr b ++ vp d
  | .st16 _ _ _ d a b _ => sr a ++ vr b ++ vr d
  | .st8 _ _ _ d a b _ => sr a ++ vr b ++ vr d
  | .lds _ _ _ _ a b _ => sr a ++ sr b
  | .sts _ _ _ d a b _ => sr a ++ sr b ++ sr d
  | .ldNc _ _ _ _ a b _ => sr a ++ vr b
  | .prefetch _ _ _ a b _ => sr a ++ vr b
  | .hintNorm _ _ _ a b _ => sr a ++ vr b
  | .hintFirst _ _ _ a b _ => sr a ++ vr b
  | .hintLast _ _ _ a b _ => sr a ++ vr b
  | .hintLow _ _ _ a b _ => sr a ++ vr b
  | .cinv _ _ _ a b _ => sr a ++ vr b
  | .cflush _ _ _ a b _ => sr a ++ vr b
  | .amoAdd _ t _ _ d b => vp b ++ va t d
  | .amoMin _ t _ _ d b => vp b ++ va t d
  | .amoMax _ t _ _ d b => vp b ++ va t d
  | .amoAnd _ t _ _ d b => vp b ++ va t d
  | .amoOr _ t _ _ d b => vp b ++ va t d
  | .amoXor _ t _ _ d b => vp b ++ va t d
  | .amoXchg _ t _ _ d b => vp b ++ va t d
  | .amoCas _ t _ _ d b => vp b ++ va t d ++ (if wide t then vg d 4 else vg d 2)
  | .redAdd _ t _ _ d b => vp b ++ va t d
  | .redMin _ t _ _ d b => vp b ++ va t d
  | .redMax _ t _ _ d b => vp b ++ va t d
  | .redAnd _ t _ _ d b => vp b ++ va t d
  | .redOr _ t _ _ d b => vp b ++ va t d
  | .redXor _ t _ _ d b => vp b ++ va t d
  | .waitcmp _ _ m _ _ a b => sr a ++ sr b ++ (if m then sr1 a else [])
  | .barInit _ _ a b => sr a ++ sr b
  | .barArrive _ _ _ a b => sr a ++ sr b
  | .barWait _ _ _ a => sr a
  | .barExpect _ _ a b => sr a ++ sr b
  | .fence _ _ => []
  | .fenceSc _ _ => []
  | .xfence _ _ _ _ => []
  | .fenceScTick _ => []
  | .eqw _ _ a => sr a
  | .eqgo _ _ => []
  | .sleepu _ a => sr a
  | .sleepp _ a b => sr a ++ sr b
  | .promiseChk _ _ b => sr b
  | .time _ _ => []
  | .halloc _ _ a => sr a
  | .hfree _ a => sr a
  | .sleepWake _ => []
  | .trap _ _ => []
  | .brk _ => []
  | .trace _ a => sr a
  | .sysrd _ _ _ => []
  | .syswr _ d _ => sr d
  | .rte _ => []
  | .segld _ _ a => sr a
  | .tlbinv _ a b => sr a ++ sr b
  | .spawn _ _ a b => sr a ++ sr b
  | .phaseEnd _ => []
  | .phaseCommit _ => []
  | .acqx _ _ a => sr a
  | .acqxGrant _ => []
  | .acquireTimeout _ => []
  | .relx _ a => sr a
  | .yield _ => []
  | .age _ _ => []
  | .lvl _ _ _ => []
  | .longOperationComplete _ => []
  | .spanPromotion _ => []
  | .trapEntry _ => []
  | .regionLimit _ => []
  | .accessAtHome _ _ => []
  | .atomicAtHome _ _ => []
  | .reductionCombine _ _ => []
  | .barrierDecrement _ _ => []
  | .sharerInvalidation _ _ => []
  | .invalidationConfirmation _ _ => []
  | .storeAcknowledgement _ _ => []
  | .regionClose _ => []
  | .monitorWake _ => []
  | .waitcmpTimeout _ => []
  | .barWaitRetest _ => []
  | .saddleTouch _ => []
  | .rollbackReplay _ => []
  | .translationWalk _ => []
  | .mscSectorWrite _ _ => []
  | .mscSectorRead _ _ => []
  | .mscWriteback _ => []
  | .dramBlockRead _ => []
  | .correctedWriteback _ => []
  | .scrubRead _ => []
  | .selfRefreshEntry _ => []
  | .selfRefreshExit _ => []
  | .drowsyBankDrop _ => []
  | .chainDemote _ => []
  | .chainSweep _ => []
  | .keySlotLoad _ _ => []
  | .timeoutDetectorExpiry _ => []
  | .misroute _ => []
  | .halterCapture _ => []
  | .halterRegenerate _ => []
  | .bridleReceive _ => []
  | .routerPowerGate _ _ => []
  | .routerWake _ _ => []
  | .girthRetrain _ _ => []
  | .girthLinkDown _ => []
  | .hitchRetrain _ => []
  | .hitchTimeout _ => []
  | .stitchRelink _ _ _ => []
  | .hostPostedWrite _ _ _ _ => []
  | .orderingPointRelease _ => []
  | .routeAcknowledgement _ _ => []
  | .hostReadRequest _ _ _ => []
  | .deviceWriteToHost _ => []
  | .launch _ _ => []
  | .signalOnly _ _ => []
  | .abortLaunch _ _ => []
  | .launchOutcome _ => []
  | .qtailDoorbell _ _ _ => []
  | .dwinWrite _ _ => []
  | .faultack _ => []
  | .fqtailWrite _ => []
  | .trtailWrite _ => []
  | .trdropRead => []
  | .bar0RegisterWrite _ _ _ => []
  | .attestationRequest _ => []
  | .coldReset _ _ => []
  | .timebaseSync _ _ => []
  | .ptpSourceLoss _ => []
  | .farrierSnapshot => []
  | .islandThrottle _ _ => []
  | .groomBoxWrite _ _ _ => []
  | .groomBoxFree _ _ => []
  | .bind _ _ => []
  | .preemptDecision _ _ _ => []
  | .preciseStop _ _ => []
  | .contextReset _ _ => []
  | .restore _ _ _ _ => []
  | .swapOut _ _ => []
  | .packhorseCopy _ _ => []
  | .packhorseStridedCopy _ _ => []
  | .packhorseFill _ _ => []
  | .placeScales _ _ => []
  | .trotterGather _ _ => []
  | .trotterScatter _ _ => []
  | .collectiveBroadcast _ _ => []
  | .collectiveAllGather _ _ => []
  | .collectiveAllReduce _ _ => []
  | .collectiveComplete _ _ => []
  | .carouselForward _ _ => []
  | .carouselInverse _ _ => []
  | .carouselPointwise _ _ => []
  | .engineCommandComplete _ _ => []
  | .hayloftRequest _ => []
  | .hayloftFree _ => []
  | .engineOperationAccept _ => []
  | .matrixOperationComplete _ => []
  | .tileUpdateApply _ => []
  | .starterDispatch _ => []
  | .taskComplete _ => []
  | .earlyDecrement _ => []
  | .illegalInstrWord _ => []
  | .deviceReadCompletion _ _ _ => []
  | .arrivalResponse _ => []
  | .orderlyShutdown => []
  | .sramSoftError _ => []
  | .unhandledTrapDiscard _ _ => []
  | .hitchDomainForm _ _ => []

/-- The registers an instruction writes (R42). -/
def writesOf (i : Instr) : List Ref :=
  match i with
  | .clauseStart _ _ _ _ => []
  | .add _ d _ _ _ => sr d
  | .sub _ d _ _ _ => sr d
  | .addc _ d _ _ _ => sr d
  | .mul _ d _ _ _ => sr d
  | .mulh _ d _ _ _ => sr d
  | .mulhu _ d _ _ _ => sr d
  | .div _ d _ _ _ => sr d
  | .divu _ d _ _ _ => sr d
  | .rem _ d _ _ _ => sr d
  | .remu _ d _ _ _ => sr d
  | .and _ d _ _ _ => sr d
  | .or _ d _ _ _ => sr d
  | .xor _ d _ _ _ => sr d
  | .andn _ d _ _ _ => sr d
  | .shl _ d _ _ _ => sr d
  | .shr _ d _ _ _ => sr d
  | .sar _ d _ _ _ => sr d
  | .rol _ d _ _ _ => sr d
  | .min _ d _ _ _ => sr d
  | .max _ d _ _ _ => sr d
  | .minu _ d _ _ _ => sr d
  | .maxu _ d _ _ _ => sr d
  | .cmpEq _ d _ _ _ => sr d
  | .cmpNe _ d _ _ _ => sr d
  | .cmpLt _ d _ _ _ => sr d
  | .cmpGe _ d _ _ _ => sr d
  | .cmpLtu _ d _ _ _ => sr d
  | .cmpGeu _ d _ _ _ => sr d
  | .sel _ d _ _ => sr d
  | .clz _ d _ _ => sr d
  | .ctz _ d _ _ => sr d
  | .popc _ d _ _ => sr d
  | .bext _ d _ _ => sr d
  | .bins _ d _ _ => sr d
  | .mov _ d _ _ => sr d
  | .addi _ d _ => sr d
  | .movi _ d _ => sr d
  | .movhi _ d _ => sr d
  | .andi _ d _ => sr d
  | .ori _ d _ => sr d
  | .xori _ d _ => sr d
  | .shli _ d _ => sr d
  | .shri _ d _ => sr d
  | .cmpiEq _ d _ => sr d
  | .cmpiNe _ d _ => sr d
  | .cmpiLt _ d _ => sr d
  | .cmpiGe _ d _ => sr d
  | .cmpiLtu _ d _ => sr d
  | .cmpiGeu _ d _ => sr d
  | .br _ _ => []
  | .brc _ _ _ => []
  | .brv _ _ _ => []
  | .call _ d _ => sr d
  | .ret _ _ => []
  | .jmpr _ _ => []
  | .join _ => []
  | .regang _ => []
  | .regangRelease _ => []
  | .exit _ => []
  | .nop _ => []
  | .vadd _ _ t d _ _ => vt t d
  | .vaddS _ _ t d _ _ => vt t d
  | .vaddI _ _ t d _ _ => vt t d
  | .vsub _ _ t d _ _ => vt t d
  | .vsubS _ _ t d _ _ => vt t d
  | .vsubI _ _ t d _ _ => vt t d
  | .vmul _ _ _ d _ _ => vr d
  | .vmulS _ _ _ d _ _ => vr d
  | .vmulh _ _ _ d _ _ => vr d
  | .vmulhS _ _ _ d _ _ => vr d
  | .vmulhu _ _ d _ _ => vr d
  | .vmulhuS _ _ d _ _ => vr d
  | .vmad _ _ _ d _ _ => vr d
  | .vaddc _ _ d _ _ => vr d ++ [.m 15]
  | .vsubc _ _ d _ _ => vr d ++ [.m 15]
  | .vmulw _ _ _ d _ _ => vp d
  | .vand _ _ t d _ _ => vt t d
  | .vandS _ _ t d _ _ => vt t d
  | .vandI _ _ t d _ _ => vt t d
  | .vor _ _ t d _ _ => vt t d
  | .vorS _ _ t d _ _ => vt t d
  | .vorI _ _ t d _ _ => vt t d
  | .vxor _ _ t d _ _ => vt t d
  | .vxorS _ _ t d _ _ => vt t d
  | .vxorI _ _ t d _ _ => vt t d
  | .vshl _ _ t d _ _ => vt t d
  | .vshlS _ _ t d _ _ => vt t d
  | .vshlI _ _ t d _ _ => vt t d
  | .vshr _ _ t d _ _ => vt t d
  | .vshrS _ _ t d _ _ => vt t d
  | .vshrI _ _ t d _ _ => vt t d
  | .vsar _ _ t d _ _ => vt t d
  | .vsarS _ _ t d _ _ => vt t d
  | .vsarI _ _ t d _ _ => vt t d
  | .vmin _ _ t d _ _ => vt t d
  | .vminS _ _ t d _ _ => vt t d
  | .vmax _ _ t d _ _ => vt t d
  | .vmaxS _ _ t d _ _ => vt t d
  | .vminu _ _ d _ _ => vr d
  | .vminuS _ _ d _ _ => vr d
  | .vmaxu _ _ d _ _ => vr d
  | .vmaxuS _ _ d _ _ => vr d
  | .vcmpEq _ _ _ m _ _ => mr m
  | .vcmpEqS _ _ _ m _ _ => mr m
  | .vcmpNe _ _ _ m _ _ => mr m
  | .vcmpNeS _ _ _ m _ _ => mr m
  | .vcmpLt _ _ _ m _ _ => mr m
  | .vcmpLtS _ _ _ m _ _ => mr m
  | .vcmpGe _ _ _ m _ _ => mr m
  | .vcmpGeS _ _ _ m _ _ => mr m
  | .vsel _ _ t d _ _ => vt t d
  | .vabs _ _ t d _ => vt t d
  | .vpopc _ _ t d _ => vt t d
  | .vclz _ _ t d _ => vt t d
  | .vbext _ _ d _ _ => vr d
  | .vmov _ _ t d _ => vt t d
  | .vmovs _ _ t d _ => vt t d
  | .vfadd _ _ t d _ _ => vf t d
  | .vfaddS _ _ t d _ _ => vf t d
  | .vfsub _ _ t d _ _ => vf t d
  | .vfsubS _ _ t d _ _ => vf t d
  | .vfmul _ _ t d _ _ => vf t d
  | .vfmulS _ _ t d _ _ => vf t d
  | .vffma _ _ t d _ _ => vf t d
  | .vffmaS _ _ t d _ _ => vf t d
  | .vfmin _ _ t d _ _ => vf t d
  | .vfminS _ _ t d _ _ => vf t d
  | .vfmax _ _ t d _ _ => vf t d
  | .vfmaxS _ _ t d _ _ => vf t d
  | .vfabs _ _ t d _ => vf t d
  | .vfneg _ _ t d _ => vf t d
  | .vfdiv _ _ t d _ _ => vf t d
  | .vfscale _ _ t d _ _ => vf t d
  | .vfround _ _ t d _ => vf t d
  | .vfclass _ _ _ d _ => vr d
  | .vfcmpEq _ _ _ m _ _ => mr m
  | .vfcmpNe _ _ _ m _ _ => mr m
  | .vfcmpLt _ _ _ m _ _ => mr m
  | .vfcmpLe _ _ _ m _ _ => mr m
  | .vfcmpUn _ _ _ m _ _ => mr m
  | .vexp2 _ _ _ d _ => vr d
  | .vexp _ _ _ d _ => vr d
  | .vlog2 _ _ _ d _ => vr d
  | .vln _ _ _ d _ => vr d
  | .vrcp _ _ _ d _ => vr d
  | .vrsqrt _ _ _ d _ => vr d
  | .vsqrt _ _ _ d _ => vr d
  | .vsin _ _ _ d _ => vr d
  | .vcos _ _ _ d _ => vr d
  | .vtanh _ _ _ d _ => vr d
  | .vsigm _ _ _ d _ => vr d
  | .verf _ _ _ d _ => vr d
  | .vexp2Acc _ _ _ d _ => vr d
  | .vexpAcc _ _ _ d _ => vr d
  | .vlog2Acc _ _ _ d _ => vr d
  | .vlnAcc _ _ _ d _ => vr d
  | .vrcpAcc _ _ _ d _ => vr d
  | .vrsqrtAcc _ _ _ d _ => vr d
  | .vsqrtAcc _ _ _ d _ => vr d
  | .vsinAcc _ _ _ d _ => vr d
  | .vcosAcc _ _ _ d _ => vr d
  | .vtanhAcc _ _ _ d _ => vr d
  | .vsigmAcc _ _ _ d _ => vr d
  | .verfAcc _ _ _ d _ => vr d
  | .vcvt _ _ t d _ k => vg d (cvtRegs k t)
  | .vqcvt p _ _ _ d _ b => vr d ++ sr b ++ preVcMask p
  | .vdqcvt p _ _ _ d _ b => vr d ++ preVcScalar p b
  | .vpackBp _ _ d _ _ => vr d
  | .vunpackBp _ _ d _ _ => vr d
  | .shfl _ _ t d _ _ => vt t d
  | .shflUp _ _ t d _ _ => vt t d
  | .shflDn _ _ t d _ _ => vt t d
  | .shflX _ _ t d _ _ => vt t d
  | .shflUpS _ _ t d _ _ => vt t d
  | .shflDnS _ _ t d _ _ => vt t d
  | .shflXS _ _ t d _ _ => vt t d
  | .voteAny _ _ d _ => sr d
  | .voteAll _ _ d _ => sr d
  | .ballot _ _ d _ => sr d
  | .vscan _ _ t d _ _ _ => vw t d
  | .vred _ _ t d _ _ => vw t d
  | .vcarry _ _ d _ _ => vr d
  | .ssi _ _ d _ _ => vr d
  | .vlane _ _ d => vr d
  | .badd _ d _ _ => vr d
  | .bsub _ d _ _ => vr d
  | .bneg _ d _ => vr d
  | .babs _ d _ => vr d
  | .bcmp _ d _ _ => sr d
  | .bshl _ d _ _ => vr d
  | .bshlI _ d _ _ => vr d
  | .bshr _ d _ _ => vr d
  | .bshrI _ d _ _ => vr d
  | .bmult _ d _ _ => ar d
  | .bcres _ d _ => vr d
  | .bdiv _ d _ _ => vp d
  | .bmodb _ d _ _ => vr d
  | .bnorm _ d _ => vr d
  | .blen _ d _ => sr d
  | .bspill _ _ b => sr1 b
  | .bfill _ d _ => vr d
  | .bladd _ d _ _ => sp d
  | .blsub _ d _ _ => sp d
  | .blmul _ d _ _ => sp d
  | .blcmp _ d _ _ => sr d
  | .blshift _ d _ _ => sp d
  | .dotx _ d _ _ => vr d
  | .xround _ d _ => sr d
  | .bcvt _ d _ => vr d
  | .mma _ _ _ acc _ _ => ar (acc.setWidth 6)
  | .mmai _ _ _ acc _ => ar (acc.setWidth 6)
  | .tshape _ a _ => hr a
  | .tload _ a _ _ _ => tr a
  | .tstore _ _ _ _ _ => []
  | .tzero _ a k => (if k then ar a else tr a)
  | .mprom _ a => ar a
  | .tdrain _ a _ _ _ => ar a
  | .tdrainRed _ a _ _ _ => ar a
  | .txpose _ a _ => tr a ++ hr a
  | .tscale _ a _ => hr a
  | .ttask _ d _ _ => sr d
  | .spmv _ d _ _ => sr d
  | .sptrsv _ d _ _ => sr d
  | .reinsTake _ => []
  | .reinsPass _ _ => []
  | .reinsPassNext _ => []
  | .reinsQuery _ d => sr d
  | .reinsGrant _ => []
  | .ld _ _ _ d _ _ _ => vr d
  | .ld64 _ _ _ d _ _ _ => vp d
  | .ld16 _ _ _ d _ _ _ => vr d
  | .ld8 _ _ _ d _ _ _ => vr d
  | .st _ _ _ _ _ _ _ => []
  | .st64 _ _ _ _ _ _ _ => []
  | .st16 _ _ _ _ _ _ _ => []
  | .st8 _ _ _ _ _ _ _ => []
  | .lds _ _ _ d _ _ _ => sr d
  | .sts _ _ _ _ _ _ _ => []
  | .ldNc _ _ _ d _ _ _ => vr d
  | .prefetch _ _ _ _ _ _ => []
  | .hintNorm _ _ _ _ _ _ => []
  | .hintFirst _ _ _ _ _ _ => []
  | .hintLast _ _ _ _ _ _ => []
  | .hintLow _ _ _ _ _ _ => []
  | .cinv _ _ _ _ _ _ => []
  | .cflush _ _ _ _ _ _ => []
  | .amoAdd _ t _ _ d _ => va t d
  | .amoMin _ t _ _ d _ => va t d
  | .amoMax _ t _ _ d _ => va t d
  | .amoAnd _ t _ _ d _ => va t d
  | .amoOr _ t _ _ d _ => va t d
  | .amoXor _ t _ _ d _ => va t d
  | .amoXchg _ t _ _ d _ => va t d
  | .amoCas _ t _ _ d _ => va t d
  | .redAdd _ _ _ _ _ _ => []
  | .redMin _ _ _ _ _ _ => []
  | .redMax _ _ _ _ _ _ => []
  | .redAnd _ _ _ _ _ _ => []
  | .redOr _ _ _ _ _ _ => []
  | .redXor _ _ _ _ _ _ => []
  | .waitcmp _ _ _ _ _ _ _ => []
  | .barInit _ _ _ _ => []
  | .barArrive _ _ _ _ _ => []
  | .barWait _ _ _ _ => []
  | .barExpect _ _ _ _ => []
  | .fence _ _ => []
  | .fenceSc _ _ => []
  | .xfence _ _ _ _ => []
  | .fenceScTick _ => []
  | .eqw _ _ _ => []
  | .eqgo _ d => sp d
  | .sleepu _ _ => []
  | .sleepp _ _ _ => []
  | .promiseChk _ d _ => sr d
  | .time _ d => sr d
  | .halloc _ d _ => sp d
  | .hfree _ _ => []
  | .sleepWake _ => []
  | .trap _ _ => []
  | .brk _ => []
  | .trace _ _ => []
  | .sysrd _ d _ => sr d
  | .syswr _ _ _ => []
  | .rte _ => []
  | .segld _ _ _ => []
  | .tlbinv _ _ _ => []
  | .spawn _ d _ _ => sr d
  | .phaseEnd _ => []
  | .phaseCommit _ => []
  | .acqx _ d _ => sr d
  | .acqxGrant _ => []
  | .acquireTimeout _ => []
  | .relx _ _ => []
  | .yield _ => []
  | .age _ d => sp d
  | .lvl _ d _ => sr d
  | .longOperationComplete _ => []
  | .spanPromotion _ => []
  | .trapEntry _ => []
  | .regionLimit _ => []
  | .accessAtHome _ _ => []
  | .atomicAtHome _ _ => []
  | .reductionCombine _ _ => []
  | .barrierDecrement _ _ => []
  | .sharerInvalidation _ _ => []
  | .invalidationConfirmation _ _ => []
  | .storeAcknowledgement _ _ => []
  | .regionClose _ => []
  | .monitorWake _ => []
  | .waitcmpTimeout _ => []
  | .barWaitRetest _ => []
  | .saddleTouch _ => []
  | .rollbackReplay _ => []
  | .translationWalk _ => []
  | .mscSectorWrite _ _ => []
  | .mscSectorRead _ _ => []
  | .mscWriteback _ => []
  | .dramBlockRead _ => []
  | .correctedWriteback _ => []
  | .scrubRead _ => []
  | .selfRefreshEntry _ => []
  | .selfRefreshExit _ => []
  | .drowsyBankDrop _ => []
  | .chainDemote _ => []
  | .chainSweep _ => []
  | .keySlotLoad _ _ => []
  | .timeoutDetectorExpiry _ => []
  | .misroute _ => []
  | .halterCapture _ => []
  | .halterRegenerate _ => []
  | .bridleReceive _ => []
  | .routerPowerGate _ _ => []
  | .routerWake _ _ => []
  | .girthRetrain _ _ => []
  | .girthLinkDown _ => []
  | .hitchRetrain _ => []
  | .hitchTimeout _ => []
  | .stitchRelink _ _ _ => []
  | .hostPostedWrite _ _ _ _ => []
  | .orderingPointRelease _ => []
  | .routeAcknowledgement _ _ => []
  | .hostReadRequest _ _ _ => []
  | .deviceWriteToHost _ => []
  | .launch _ _ => []
  | .signalOnly _ _ => []
  | .abortLaunch _ _ => []
  | .launchOutcome _ => []
  | .qtailDoorbell _ _ _ => []
  | .dwinWrite _ _ => []
  | .faultack _ => []
  | .fqtailWrite _ => []
  | .trtailWrite _ => []
  | .trdropRead => []
  | .bar0RegisterWrite _ _ _ => []
  | .attestationRequest _ => []
  | .coldReset _ _ => []
  | .timebaseSync _ _ => []
  | .ptpSourceLoss _ => []
  | .farrierSnapshot => []
  | .islandThrottle _ _ => []
  | .groomBoxWrite _ _ _ => []
  | .groomBoxFree _ _ => []
  | .bind _ _ => []
  | .preemptDecision _ _ _ => []
  | .preciseStop _ _ => []
  | .contextReset _ _ => []
  | .restore _ _ _ _ => []
  | .swapOut _ _ => []
  | .packhorseCopy _ _ => []
  | .packhorseStridedCopy _ _ => []
  | .packhorseFill _ _ => []
  | .placeScales _ _ => []
  | .trotterGather _ _ => []
  | .trotterScatter _ _ => []
  | .collectiveBroadcast _ _ => []
  | .collectiveAllGather _ _ => []
  | .collectiveAllReduce _ _ => []
  | .collectiveComplete _ _ => []
  | .carouselForward _ _ => []
  | .carouselInverse _ _ => []
  | .carouselPointwise _ _ => []
  | .engineCommandComplete _ _ => []
  | .hayloftRequest _ => []
  | .hayloftFree _ => []
  | .engineOperationAccept _ => []
  | .matrixOperationComplete _ => []
  | .tileUpdateApply _ => []
  | .starterDispatch _ => []
  | .taskComplete _ => []
  | .earlyDecrement _ => []
  | .illegalInstrWord _ => []
  | .deviceReadCompletion _ _ _ => []
  | .arrivalResponse _ => []
  | .orderlyShutdown => []
  | .sramSoftError _ => []
  | .unhandledTrapDiscard _ _ => []
  | .hitchDomainForm _ _ => []

/-- The causes for which an instruction is illegal by its own fields, each with its sub-code (R70). -/
def causesOf (i : Instr) : List (Bool × Nat) :=
  match i with
  | .clauseStart _ _ a b => [(flagBad a || flagBad b || (a == b && a != 15), 6)]
  | .add _ _ _ _ _ => []
  | .sub _ _ _ _ _ => []
  | .addc _ _ _ _ _ => []
  | .mul _ _ _ _ _ => []
  | .mulh _ _ _ _ _ => []
  | .mulhu _ _ _ _ _ => []
  | .div _ _ _ _ _ => []
  | .divu _ _ _ _ _ => []
  | .rem _ _ _ _ _ => []
  | .remu _ _ _ _ _ => []
  | .and _ _ _ _ _ => []
  | .or _ _ _ _ _ => []
  | .xor _ _ _ _ _ => []
  | .andn _ _ _ _ _ => []
  | .shl _ _ _ _ _ => []
  | .shr _ _ _ _ _ => []
  | .sar _ _ _ _ _ => []
  | .rol _ _ _ _ _ => []
  | .min _ _ _ _ _ => []
  | .max _ _ _ _ _ => []
  | .minu _ _ _ _ _ => []
  | .maxu _ _ _ _ _ => []
  | .cmpEq _ _ _ _ _ => []
  | .cmpNe _ _ _ _ _ => []
  | .cmpLt _ _ _ _ _ => []
  | .cmpGe _ _ _ _ _ => []
  | .cmpLtu _ _ _ _ _ => []
  | .cmpGeu _ _ _ _ _ => []
  | .sel _ _ _ _ => []
  | .clz _ _ _ _ => []
  | .ctz _ _ _ _ => []
  | .popc _ _ _ _ => []
  | .bext _ _ _ _ => []
  | .bins _ _ _ _ => []
  | .mov _ _ _ _ => []
  | .addi _ _ _ => []
  | .movi _ _ _ => []
  | .movhi _ _ _ => []
  | .andi _ _ _ => []
  | .ori _ _ _ => []
  | .xori _ _ _ => []
  | .shli _ _ _ => []
  | .shri _ _ _ => []
  | .cmpiEq _ _ _ => []
  | .cmpiNe _ _ _ => []
  | .cmpiLt _ _ _ => []
  | .cmpiGe _ _ _ => []
  | .cmpiLtu _ _ _ => []
  | .cmpiGeu _ _ _ => []
  | .br _ _ => []
  | .brc _ _ _ => []
  | .brv _ m _ => [(16 ≤ m.toNat, 4)]
  | .call _ _ _ => []
  | .ret _ _ => []
  | .jmpr _ _ => []
  | .join _ => []
  | .regang _ => []
  | .regangRelease _ => []
  | .exit _ => []
  | .nop _ => []
  | .vadd _ _ t d a b => [(!(t == 0 || t == 1 || t == 2 || t == 3 || t == 4), 3), (t == 2 && odd d, 4), (t == 2 && odd a, 4), (t == 2 && odd b, 4)]
  | .vaddS _ _ t d a _ => [(!(t == 0 || t == 1 || t == 2 || t == 3 || t == 4), 3), (t == 2 && odd d, 4), (t == 2 && odd a, 4)]
  | .vaddI _ _ t d a _ => [(!(t == 0 || t == 1 || t == 2 || t == 3 || t == 4), 3), (t == 2 && odd d, 4), (t == 2 && odd a, 4)]
  | .vsub _ _ t d a b => [(!(t == 0 || t == 1 || t == 2 || t == 3 || t == 4), 3), (t == 2 && odd d, 4), (t == 2 && odd a, 4), (t == 2 && odd b, 4)]
  | .vsubS _ _ t d a _ => [(!(t == 0 || t == 1 || t == 2 || t == 3 || t == 4), 3), (t == 2 && odd d, 4), (t == 2 && odd a, 4)]
  | .vsubI _ _ t d a _ => [(!(t == 0 || t == 1 || t == 2 || t == 3 || t == 4), 3), (t == 2 && odd d, 4), (t == 2 && odd a, 4)]
  | .vmul _ _ t _ _ _ => [(!(t == 0 || t == 1 || t == 3), 3)]
  | .vmulS _ _ t _ _ _ => [(!(t == 0 || t == 1 || t == 3), 3)]
  | .vmulh _ _ t _ _ _ => [(!(t == 0 || t == 3), 3)]
  | .vmulhS _ _ t _ _ _ => [(!(t == 0 || t == 3), 3)]
  | .vmulhu _ _ _ _ _ => []
  | .vmulhuS _ _ _ _ _ => []
  | .vmad _ _ t _ _ _ => [(!(t == 0 || t == 1), 3)]
  | .vaddc _ _ _ _ _ => []
  | .vsubc _ _ _ _ _ => []
  | .vmulw _ _ t d _ _ => [(!(t == 0 || t == 1), 3), (odd d, 4)]
  | .vand _ _ t d a b => [(!(t == 0 || t == 2), 3), (t == 2 && odd d, 4), (t == 2 && odd a, 4), (t == 2 && odd b, 4)]
  | .vandS _ _ t d a _ => [(!(t == 0 || t == 2), 3), (t == 2 && odd d, 4), (t == 2 && odd a, 4)]
  | .vandI _ _ t d a _ => [(!(t == 0 || t == 2), 3), (t == 2 && odd d, 4), (t == 2 && odd a, 4)]
  | .vor _ _ t d a b => [(!(t == 0 || t == 2), 3), (t == 2 && odd d, 4), (t == 2 && odd a, 4), (t == 2 && odd b, 4)]
  | .vorS _ _ t d a _ => [(!(t == 0 || t == 2), 3), (t == 2 && odd d, 4), (t == 2 && odd a, 4)]
  | .vorI _ _ t d a _ => [(!(t == 0 || t == 2), 3), (t == 2 && odd d, 4), (t == 2 && odd a, 4)]
  | .vxor _ _ t d a b => [(!(t == 0 || t == 2), 3), (t == 2 && odd d, 4), (t == 2 && odd a, 4), (t == 2 && odd b, 4)]
  | .vxorS _ _ t d a _ => [(!(t == 0 || t == 2), 3), (t == 2 && odd d, 4), (t == 2 && odd a, 4)]
  | .vxorI _ _ t d a _ => [(!(t == 0 || t == 2), 3), (t == 2 && odd d, 4), (t == 2 && odd a, 4)]
  | .vshl _ _ t d a b => [(!(t == 0 || t == 2 || t == 3 || t == 4), 3), (t == 2 && odd d, 4), (t == 2 && odd a, 4), (t == 2 && odd b, 4)]
  | .vshlS _ _ t d a _ => [(!(t == 0 || t == 2 || t == 3 || t == 4), 3), (t == 2 && odd d, 4), (t == 2 && odd a, 4)]
  | .vshlI _ _ t d a _ => [(!(t == 0 || t == 2 || t == 3 || t == 4), 3), (t == 2 && odd d, 4), (t == 2 && odd a, 4)]
  | .vshr _ _ t d a b => [(!(t == 0 || t == 2 || t == 3 || t == 4), 3), (t == 2 && odd d, 4), (t == 2 && odd a, 4), (t == 2 && odd b, 4)]
  | .vshrS _ _ t d a _ => [(!(t == 0 || t == 2 || t == 3 || t == 4), 3), (t == 2 && odd d, 4), (t == 2 && odd a, 4)]
  | .vshrI _ _ t d a _ => [(!(t == 0 || t == 2 || t == 3 || t == 4), 3), (t == 2 && odd d, 4), (t == 2 && odd a, 4)]
  | .vsar _ _ t d a b => [(!(t == 0 || t == 2 || t == 3 || t == 4), 3), (t == 2 && odd d, 4), (t == 2 && odd a, 4), (t == 2 && odd b, 4)]
  | .vsarS _ _ t d a _ => [(!(t == 0 || t == 2 || t == 3 || t == 4), 3), (t == 2 && odd d, 4), (t == 2 && odd a, 4)]
  | .vsarI _ _ t d a _ => [(!(t == 0 || t == 2 || t == 3 || t == 4), 3), (t == 2 && odd d, 4), (t == 2 && odd a, 4)]
  | .vmin _ _ t d a b => [(!(t == 0 || t == 2 || t == 3 || t == 4), 3), (t == 2 && odd d, 4), (t == 2 && odd a, 4), (t == 2 && odd b, 4)]
  | .vminS _ _ t d a _ => [(!(t == 0 || t == 2 || t == 3 || t == 4), 3), (t == 2 && odd d, 4), (t == 2 && odd a, 4)]
  | .vmax _ _ t d a b => [(!(t == 0 || t == 2 || t == 3 || t == 4), 3), (t == 2 && odd d, 4), (t == 2 && odd a, 4), (t == 2 && odd b, 4)]
  | .vmaxS _ _ t d a _ => [(!(t == 0 || t == 2 || t == 3 || t == 4), 3), (t == 2 && odd d, 4), (t == 2 && odd a, 4)]
  | .vminu _ _ _ _ _ => []
  | .vminuS _ _ _ _ _ => []
  | .vmaxu _ _ _ _ _ => []
  | .vmaxuS _ _ _ _ _ => []
  | .vcmpEq _ _ t m a b => [(!(t == 0 || t == 1 || t == 2 || t == 3 || t == 4), 3), (16 ≤ m.toNat, 4), (t == 2 && odd a, 4), (t == 2 && odd b, 4)]
  | .vcmpEqS _ _ t m a _ => [(!(t == 0 || t == 1 || t == 2 || t == 3 || t == 4), 3), (16 ≤ m.toNat, 4), (t == 2 && odd a, 4)]
  | .vcmpNe _ _ t m a b => [(!(t == 0 || t == 1 || t == 2 || t == 3 || t == 4), 3), (16 ≤ m.toNat, 4), (t == 2 && odd a, 4), (t == 2 && odd b, 4)]
  | .vcmpNeS _ _ t m a _ => [(!(t == 0 || t == 1 || t == 2 || t == 3 || t == 4), 3), (16 ≤ m.toNat, 4), (t == 2 && odd a, 4)]
  | .vcmpLt _ _ t m a b => [(!(t == 0 || t == 1 || t == 2 || t == 3 || t == 4), 3), (16 ≤ m.toNat, 4), (t == 2 && odd a, 4), (t == 2 && odd b, 4)]
  | .vcmpLtS _ _ t m a _ => [(!(t == 0 || t == 1 || t == 2 || t == 3 || t == 4), 3), (16 ≤ m.toNat, 4), (t == 2 && odd a, 4)]
  | .vcmpGe _ _ t m a b => [(!(t == 0 || t == 1 || t == 2 || t == 3 || t == 4), 3), (16 ≤ m.toNat, 4), (t == 2 && odd a, 4), (t == 2 && odd b, 4)]
  | .vcmpGeS _ _ t m a _ => [(!(t == 0 || t == 1 || t == 2 || t == 3 || t == 4), 3), (16 ≤ m.toNat, 4), (t == 2 && odd a, 4)]
  | .vsel _ _ t d a b => [(!(t == 0 || t == 2), 3), (t == 2 && odd d, 4), (t == 2 && odd a, 4), (t == 2 && odd b, 4)]
  | .vabs _ _ t d a => [(!(t == 0 || t == 2 || t == 3 || t == 4), 3), (t == 2 && odd d, 4), (t == 2 && odd a, 4)]
  | .vpopc _ _ t d a => [(!(t == 0 || t == 2), 3), (t == 2 && odd d, 4), (t == 2 && odd a, 4)]
  | .vclz _ _ t d a => [(!(t == 0 || t == 2), 3), (t == 2 && odd d, 4), (t == 2 && odd a, 4)]
  | .vbext _ _ _ _ _ => []
  | .vmov _ _ t d a => [(!(t == 0 || t == 2), 3), (t == 2 && odd d, 4), (t == 2 && odd a, 4)]
  | .vmovs _ _ t d _ => [(!(t == 0 || t == 2), 3), (t == 2 && odd d, 4)]
  | .vfadd _ _ t d a b => [(!(t == 0 || t == 1 || t == 2 || t == 3), 3), (t == 0 && odd d, 4), (t == 0 && odd a, 4), (t == 0 && odd b, 4)]
  | .vfaddS _ _ t d a _ => [(!(t == 0 || t == 1 || t == 2 || t == 3), 3), (t == 0 && odd d, 4), (t == 0 && odd a, 4)]
  | .vfsub _ _ t d a b => [(!(t == 0 || t == 1 || t == 2 || t == 3), 3), (t == 0 && odd d, 4), (t == 0 && odd a, 4), (t == 0 && odd b, 4)]
  | .vfsubS _ _ t d a _ => [(!(t == 0 || t == 1 || t == 2 || t == 3), 3), (t == 0 && odd d, 4), (t == 0 && odd a, 4)]
  | .vfmul _ _ t d a b => [(!(t == 0 || t == 1 || t == 2 || t == 3), 3), (t == 0 && odd d, 4), (t == 0 && odd a, 4), (t == 0 && odd b, 4)]
  | .vfmulS _ _ t d a _ => [(!(t == 0 || t == 1 || t == 2 || t == 3), 3), (t == 0 && odd d, 4), (t == 0 && odd a, 4)]
  | .vffma p _ t d a b => [(!(t == 0 || t == 1 || t == 2 || t == 3), 3), (t == 0 && odd d, 4), (t == 0 && odd a, 4), (t == 0 && odd b, 4), (t == 0 && (match p with | some q => odd q.vc | none => false), 4)]
  | .vffmaS p _ t d a _ => [(!(t == 0 || t == 1 || t == 2 || t == 3), 3), (t == 0 && odd d, 4), (t == 0 && odd a, 4), (t == 0 && (match p with | some q => odd q.vc | none => false), 4)]
  | .vfmin _ _ t d a b => [(!(t == 0 || t == 1 || t == 2 || t == 3), 3), (t == 0 && odd d, 4), (t == 0 && odd a, 4), (t == 0 && odd b, 4)]
  | .vfminS _ _ t d a _ => [(!(t == 0 || t == 1 || t == 2 || t == 3), 3), (t == 0 && odd d, 4), (t == 0 && odd a, 4)]
  | .vfmax _ _ t d a b => [(!(t == 0 || t == 1 || t == 2 || t == 3), 3), (t == 0 && odd d, 4), (t == 0 && odd a, 4), (t == 0 && odd b, 4)]
  | .vfmaxS _ _ t d a _ => [(!(t == 0 || t == 1 || t == 2 || t == 3), 3), (t == 0 && odd d, 4), (t == 0 && odd a, 4)]
  | .vfabs _ _ t d a => [(!(t == 0 || t == 1 || t == 2 || t == 3), 3), (t == 0 && odd d, 4), (t == 0 && odd a, 4)]
  | .vfneg _ _ t d a => [(!(t == 0 || t == 1 || t == 2 || t == 3), 3), (t == 0 && odd d, 4), (t == 0 && odd a, 4)]
  | .vfdiv _ _ t d a b => [(!(t == 0 || t == 1 || t == 2 || t == 3), 3), (t == 0 && odd d, 4), (t == 0 && odd a, 4), (t == 0 && odd b, 4)]
  | .vfscale _ _ t d a _ => [(!(t == 0 || t == 1 || t == 2 || t == 3), 3), (t == 0 && odd d, 4), (t == 0 && odd a, 4)]
  | .vfround _ _ t d a => [(!(t == 0 || t == 1 || t == 2 || t == 3), 3), (t == 0 && odd d, 4), (t == 0 && odd a, 4)]
  | .vfclass _ _ t _ a => [(!(t == 0 || t == 1 || t == 2 || t == 3), 3), (t == 0 && odd a, 4)]
  | .vfcmpEq _ _ t m a b => [(!(t == 0 || t == 1 || t == 2 || t == 3), 3), (16 ≤ m.toNat, 4), (t == 0 && odd a, 4), (t == 0 && odd b, 4)]
  | .vfcmpNe _ _ t m a b => [(!(t == 0 || t == 1 || t == 2 || t == 3), 3), (16 ≤ m.toNat, 4), (t == 0 && odd a, 4), (t == 0 && odd b, 4)]
  | .vfcmpLt _ _ t m a b => [(!(t == 0 || t == 1 || t == 2 || t == 3), 3), (16 ≤ m.toNat, 4), (t == 0 && odd a, 4), (t == 0 && odd b, 4)]
  | .vfcmpLe _ _ t m a b => [(!(t == 0 || t == 1 || t == 2 || t == 3), 3), (16 ≤ m.toNat, 4), (t == 0 && odd a, 4), (t == 0 && odd b, 4)]
  | .vfcmpUn _ _ t m a b => [(!(t == 0 || t == 1 || t == 2 || t == 3), 3), (16 ≤ m.toNat, 4), (t == 0 && odd a, 4), (t == 0 && odd b, 4)]
  | .vexp2 _ _ t _ _ => [(!(t == 1 || t == 2 || t == 3), 3)]
  | .vexp _ _ t _ _ => [(!(t == 1 || t == 2 || t == 3), 3)]
  | .vlog2 _ _ t _ _ => [(!(t == 1 || t == 2 || t == 3), 3)]
  | .vln _ _ t _ _ => [(!(t == 1 || t == 2 || t == 3), 3)]
  | .vrcp _ _ t _ _ => [(!(t == 1 || t == 2 || t == 3), 3)]
  | .vrsqrt _ _ t _ _ => [(!(t == 1 || t == 2 || t == 3), 3)]
  | .vsqrt _ _ t _ _ => [(!(t == 1 || t == 2 || t == 3), 3)]
  | .vsin _ _ t _ _ => [(!(t == 1 || t == 2 || t == 3), 3)]
  | .vcos _ _ t _ _ => [(!(t == 1 || t == 2 || t == 3), 3)]
  | .vtanh _ _ t _ _ => [(!(t == 1 || t == 2 || t == 3), 3)]
  | .vsigm _ _ t _ _ => [(!(t == 1 || t == 2 || t == 3), 3)]
  | .verf _ _ t _ _ => [(!(t == 1 || t == 2 || t == 3), 3)]
  | .vexp2Acc _ _ t _ _ => [(!(t == 1 || t == 2 || t == 3), 3)]
  | .vexpAcc _ _ t _ _ => [(!(t == 1 || t == 2 || t == 3), 3)]
  | .vlog2Acc _ _ t _ _ => [(!(t == 1 || t == 2 || t == 3), 3)]
  | .vlnAcc _ _ t _ _ => [(!(t == 1 || t == 2 || t == 3), 3)]
  | .vrcpAcc _ _ t _ _ => [(!(t == 1 || t == 2 || t == 3), 3)]
  | .vrsqrtAcc _ _ t _ _ => [(!(t == 1 || t == 2 || t == 3), 3)]
  | .vsqrtAcc _ _ t _ _ => [(!(t == 1 || t == 2 || t == 3), 3)]
  | .vsinAcc _ _ t _ _ => [(!(t == 1 || t == 2 || t == 3), 3)]
  | .vcosAcc _ _ t _ _ => [(!(t == 1 || t == 2 || t == 3), 3)]
  | .vtanhAcc _ _ t _ _ => [(!(t == 1 || t == 2 || t == 3), 3)]
  | .vsigmAcc _ _ t _ _ => [(!(t == 1 || t == 2 || t == 3), 3)]
  | .verfAcc _ _ t _ _ => [(!(t == 1 || t == 2 || t == 3), 3)]
  | .vcvt _ _ t d a k => [(t == k, 3), (a.toNat % cvtRegs t k != 0 || 64 < a.toNat + cvtRegs t k, 4), (d.toNat % cvtRegs k t != 0 || 64 < d.toNat + cvtRegs k t, 4)]
  | .vqcvt p _ g _ _ _ _ => [(g == 3, 3), (!preVcIn p 1 15, 5)]
  | .vdqcvt p _ g _ _ _ _ => [(g == 3, 3), (p.isSome && !preVcIn p 0 15, 5)]
  | .vpackBp _ _ _ _ i => [(!(1 ≤ i.toNat && i.toNat ≤ 8), 9)]
  | .vunpackBp _ _ _ _ i => [(!(1 ≤ i.toNat && i.toNat ≤ 8), 9)]
  | .shfl p _ t d a _ => [(!(t == 0 || t == 2), 3), (t == 2 && odd a, 4), (t == 2 && odd d, 4), (t == 2 && (match p with | some q => q.fill && odd q.vc | none => false), 4)]
  | .shflUp p _ t d a i => [(!(t == 0 || t == 2), 3), (t == 2 && odd a, 4), (t == 2 && odd d, 4), (t == 2 && (match p with | some q => q.fill && odd q.vc | none => false), 4), (32 ≤ i.toNat, 9)]
  | .shflDn p _ t d a i => [(!(t == 0 || t == 2), 3), (t == 2 && odd a, 4), (t == 2 && odd d, 4), (t == 2 && (match p with | some q => q.fill && odd q.vc | none => false), 4), (32 ≤ i.toNat, 9)]
  | .shflX p _ t d a i => [(!(t == 0 || t == 2), 3), (t == 2 && odd a, 4), (t == 2 && odd d, 4), (t == 2 && (match p with | some q => q.fill && odd q.vc | none => false), 4), (32 ≤ i.toNat, 9)]
  | .shflUpS p _ t d a _ => [(!(t == 0 || t == 2), 3), (t == 2 && odd a, 4), (t == 2 && odd d, 4), (t == 2 && (match p with | some q => q.fill && odd q.vc | none => false), 4)]
  | .shflDnS p _ t d a _ => [(!(t == 0 || t == 2), 3), (t == 2 && odd a, 4), (t == 2 && odd d, 4), (t == 2 && (match p with | some q => q.fill && odd q.vc | none => false), 4)]
  | .shflXS p _ t d a _ => [(!(t == 0 || t == 2), 3), (t == 2 && odd a, 4), (t == 2 && odd d, 4), (t == 2 && (match p with | some q => q.fill && odd q.vc | none => false), 4)]
  | .voteAny _ _ _ _ => []
  | .voteAll _ _ _ _ => []
  | .ballot _ _ _ _ => []
  | .vscan _ _ t d a _ o => [(5 ≤ t.toNat, 3), (6 ≤ o.toNat, 3), ((t == 3 || t == 4) && 3 ≤ o.toNat, 3), ((t == 2 || t == 4) && odd a, 4), ((t == 2 || t == 4) && odd d, 4)]
  | .vred _ _ t d a o => [(5 ≤ t.toNat, 3), (6 ≤ o.toNat, 3), ((t == 3 || t == 4) && 3 ≤ o.toNat, 3), ((t == 2 || t == 4) && odd a, 4), ((t == 2 || t == 4) && odd d, 4)]
  | .vcarry _ _ _ _ _ => []
  | .ssi _ _ _ _ _ => []
  | .vlane _ _ _ => []
  | .badd _ _ _ _ => []
  | .bsub _ _ _ _ => []
  | .bneg _ _ _ => []
  | .babs _ _ _ => []
  | .bcmp _ _ _ _ => []
  | .bshl _ _ _ _ => []
  | .bshlI _ _ _ _ => []
  | .bshr _ _ _ _ => []
  | .bshrI _ _ _ _ => []
  | .bmult _ d _ _ => [(16 ≤ d.toNat, 4)]
  | .bcres _ _ a => [(16 ≤ a.toNat, 4)]
  | .bdiv _ d _ _ => [(d.toNat == 63, 4)]
  | .bmodb _ _ _ b => [(b.toNat == 63, 4)]
  | .bnorm _ _ _ => []
  | .blen _ _ _ => []
  | .bspill _ _ b => [(odd b, 4)]
  | .bfill _ _ b => [(odd b, 4)]
  | .bladd _ d a b => [(odd d, 4), (odd a, 4), (odd b, 4)]
  | .blsub _ d a b => [(odd d, 4), (odd a, 4), (odd b, 4)]
  | .blmul _ d a b => [(odd d, 4), (odd a, 4), (odd b, 4)]
  | .blcmp _ _ a b => [(odd a, 4), (odd b, 4)]
  | .blshift _ d a _ => [(odd d, 4), (odd a, 4)]
  | .dotx _ _ a b => [(odd a, 4), (odd b, 4)]
  | .xround _ _ _ => []
  | .bcvt _ _ _ => []
  | .mma _ _ _ _ p _ => [(p == 7, 3)]
  | .mmai _ _ _ _ _ => []
  | .tshape _ _ _ => []
  | .tload _ _ _ _ s => [(s == 5 || s == 6, 3)]
  | .tstore _ _ _ _ s => [(s == 5 || s == 6, 3)]
  | .tzero _ a k => [(k && 16 ≤ a.toNat, 4)]
  | .mprom _ a => [(16 ≤ a.toNat, 4)]
  | .tdrain _ a _ _ s => [(s == 5 || s == 6, 3), (16 ≤ a.toNat, 4)]
  | .tdrainRed _ a _ _ s => [(s == 5 || s == 6, 3), (16 ≤ a.toNat, 4)]
  | .txpose _ _ _ => []
  | .tscale _ _ _ => []
  | .ttask _ _ _ s => [(!(s == 0 || s == 2 || s == 3 || s == 4), 3)]
  | .spmv _ _ _ _ => []
  | .sptrsv _ _ _ _ => []
  | .reinsTake _ => []
  | .reinsPass _ _ => []
  | .reinsPassNext _ => []
  | .reinsQuery _ _ => []
  | .reinsGrant _ => []
  | .ld _ _ _ _ _ _ _ => []
  | .ld64 _ _ _ d _ _ _ => [(odd d, 4)]
  | .ld16 _ _ _ _ _ _ _ => []
  | .ld8 _ _ _ _ _ _ _ => []
  | .st _ _ _ _ _ _ _ => []
  | .st64 _ _ _ d _ _ _ => [(odd d, 4)]
  | .st16 _ _ _ _ _ _ _ => []
  | .st8 _ _ _ _ _ _ _ => []
  | .lds _ _ _ _ _ _ _ => []
  | .sts _ _ _ _ _ _ _ => []
  | .ldNc _ _ s _ _ _ _ => [(2 ≤ s.toNat && s != 4 && s != 7, 3)]
  | .prefetch _ _ s _ _ _ => [(2 ≤ s.toNat && s != 4 && s != 7, 3)]
  | .hintNorm _ _ s _ _ _ => [(2 ≤ s.toNat && s != 4 && s != 7, 3)]
  | .hintFirst _ _ s _ _ _ => [(2 ≤ s.toNat && s != 4 && s != 7, 3)]
  | .hintLast _ _ s _ _ _ => [(2 ≤ s.toNat && s != 4 && s != 7, 3)]
  | .hintLow _ _ s _ _ _ => [(2 ≤ s.toNat && s != 4 && s != 7, 3)]
  | .cinv _ _ s _ _ _ => [(2 ≤ s.toNat && s != 4 && s != 7, 3)]
  | .cflush _ _ s _ _ _ => [(2 ≤ s.toNat && s != 4 && s != 7, 3)]
  | .amoAdd _ t p s d b => [(6 ≤ t.toNat, 3), (p == 7, 3), (s == 4 || s == 5 || s == 6, 3), (odd b, 4), (wide t && odd d, 4)]
  | .amoMin _ t p s d b => [(6 ≤ t.toNat, 3), (p == 7, 3), (s == 4 || s == 5 || s == 6, 3), (odd b, 4), (wide t && odd d, 4)]
  | .amoMax _ t p s d b => [(6 ≤ t.toNat, 3), (p == 7, 3), (s == 4 || s == 5 || s == 6, 3), (odd b, 4), (wide t && odd d, 4)]
  | .amoAnd _ t p s d b => [(6 ≤ t.toNat, 3), (p == 7, 3), (s == 4 || s == 5 || s == 6, 3), (odd b, 4), (wide t && odd d, 4), (t == 4 || t == 5, 3)]
  | .amoOr _ t p s d b => [(6 ≤ t.toNat, 3), (p == 7, 3), (s == 4 || s == 5 || s == 6, 3), (odd b, 4), (wide t && odd d, 4), (t == 4 || t == 5, 3)]
  | .amoXor _ t p s d b => [(6 ≤ t.toNat, 3), (p == 7, 3), (s == 4 || s == 5 || s == 6, 3), (odd b, 4), (wide t && odd d, 4), (t == 4 || t == 5, 3)]
  | .amoXchg _ t p s d b => [(6 ≤ t.toNat, 3), (p == 7, 3), (s == 4 || s == 5 || s == 6, 3), (odd b, 4), (wide t && odd d, 4)]
  | .amoCas _ t p s d b => [(6 ≤ t.toNat, 3), (p == 7, 3), (s == 4 || s == 5 || s == 6, 3), (odd b, 4), (wide t && odd d, 4), ((if wide t then 60 else 62) < d.toNat, 4)]
  | .redAdd _ t p s d b => [(6 ≤ t.toNat, 3), (p == 7, 3), (s == 4 || s == 5 || s == 6, 3), (odd b, 4), (wide t && odd d, 4)]
  | .redMin _ t p s d b => [(6 ≤ t.toNat, 3), (p == 7, 3), (s == 4 || s == 5 || s == 6, 3), (odd b, 4), (wide t && odd d, 4)]
  | .redMax _ t p s d b => [(6 ≤ t.toNat, 3), (p == 7, 3), (s == 4 || s == 5 || s == 6, 3), (odd b, 4), (wide t && odd d, 4)]
  | .redAnd _ t p s d b => [(6 ≤ t.toNat, 3), (p == 7, 3), (s == 4 || s == 5 || s == 6, 3), (odd b, 4), (wide t && odd d, 4), (t == 4 || t == 5, 3)]
  | .redOr _ t p s d b => [(6 ≤ t.toNat, 3), (p == 7, 3), (s == 4 || s == 5 || s == 6, 3), (odd b, 4), (wide t && odd d, 4), (t == 4 || t == 5, 3)]
  | .redXor _ t p s d b => [(6 ≤ t.toNat, 3), (p == 7, 3), (s == 4 || s == 5 || s == 6, 3), (odd b, 4), (wide t && odd d, 4), (t == 4 || t == 5, 3)]
  | .waitcmp _ u m p s a _ => [(u == 7, 3), (p == 7, 3), (s == 4 || s == 5 || s == 6, 3), (m && a.toNat == 63, 4)]
  | .barInit _ s _ _ => [(!(s == 0 || s == 2 || s == 3), 3)]
  | .barArrive _ p s _ _ => [(!(s == 0 || s == 2 || s == 3), 3), (p == 7, 3)]
  | .barWait _ p s _ => [(!(s == 0 || s == 2 || s == 3), 3), (p == 7, 3)]
  | .barExpect _ s _ _ => [(!(s == 0 || s == 2 || s == 3), 3)]
  | .fence _ p => [(p == 7, 3)]
  | .fenceSc _ p => [(!(p == 4 || p == 5 || p == 6), 3)]
  | .xfence _ p a b => [(p == 7, 3), (7 ≤ a.toNat, 3), (7 ≤ b.toNat, 3), (a == b, 3)]
  | .fenceScTick _ => []
  | .eqw _ _ _ => []
  | .eqgo _ d => [(d.toNat == 63, 4)]
  | .sleepu _ _ => []
  | .sleepp _ _ _ => []
  | .promiseChk _ _ _ => []
  | .time _ _ => []
  | .halloc _ d _ => [(d.toNat == 63, 4)]
  | .hfree _ _ => []
  | .sleepWake _ => []
  | .trap _ _ => []
  | .brk _ => []
  | .trace _ _ => []
  | .sysrd _ _ r => [(!sysRegListed r, 3)]
  | .syswr _ _ r => [(!sysRegListed r, 3)]
  | .rte _ => []
  | .segld _ s _ => [(8 ≤ s.toNat, 3)]
  | .tlbinv _ _ _ => []
  | .spawn _ _ _ _ => []
  | .phaseEnd _ => []
  | .phaseCommit _ => []
  | .acqx _ _ _ => []
  | .acqxGrant _ => []
  | .acquireTimeout _ => []
  | .relx _ _ => []
  | .yield _ => []
  | .age _ d => [(d.toNat == 63, 4)]
  | .lvl _ _ l => [(8 ≤ l.toNat, 9)]
  | .longOperationComplete _ => []
  | .spanPromotion _ => []
  | .trapEntry _ => []
  | .regionLimit _ => []
  | .accessAtHome _ _ => []
  | .atomicAtHome _ _ => []
  | .reductionCombine _ _ => []
  | .barrierDecrement _ _ => []
  | .sharerInvalidation _ _ => []
  | .invalidationConfirmation _ _ => []
  | .storeAcknowledgement _ _ => []
  | .regionClose _ => []
  | .monitorWake _ => []
  | .waitcmpTimeout _ => []
  | .barWaitRetest _ => []
  | .saddleTouch _ => []
  | .rollbackReplay _ => []
  | .translationWalk _ => []
  | .mscSectorWrite _ _ => []
  | .mscSectorRead _ _ => []
  | .mscWriteback _ => []
  | .dramBlockRead _ => []
  | .correctedWriteback _ => []
  | .scrubRead _ => []
  | .selfRefreshEntry _ => []
  | .selfRefreshExit _ => []
  | .drowsyBankDrop _ => []
  | .chainDemote _ => []
  | .chainSweep _ => []
  | .keySlotLoad _ _ => []
  | .timeoutDetectorExpiry _ => []
  | .misroute _ => []
  | .halterCapture _ => []
  | .halterRegenerate _ => []
  | .bridleReceive _ => []
  | .routerPowerGate _ _ => []
  | .routerWake _ _ => []
  | .girthRetrain _ _ => []
  | .girthLinkDown _ => []
  | .hitchRetrain _ => []
  | .hitchTimeout _ => []
  | .stitchRelink _ _ _ => []
  | .hostPostedWrite _ _ _ _ => []
  | .orderingPointRelease _ => []
  | .routeAcknowledgement _ _ => []
  | .hostReadRequest _ _ _ => []
  | .deviceWriteToHost _ => []
  | .launch _ _ => []
  | .signalOnly _ _ => []
  | .abortLaunch _ _ => []
  | .launchOutcome _ => []
  | .qtailDoorbell _ _ _ => []
  | .dwinWrite _ _ => []
  | .faultack _ => []
  | .fqtailWrite _ => []
  | .trtailWrite _ => []
  | .trdropRead => []
  | .bar0RegisterWrite _ _ _ => []
  | .attestationRequest _ => []
  | .coldReset _ _ => []
  | .timebaseSync _ _ => []
  | .ptpSourceLoss _ => []
  | .farrierSnapshot => []
  | .islandThrottle _ _ => []
  | .groomBoxWrite _ _ _ => []
  | .groomBoxFree _ _ => []
  | .bind _ _ => []
  | .preemptDecision _ _ _ => []
  | .preciseStop _ _ => []
  | .contextReset _ _ => []
  | .restore _ _ _ _ => []
  | .swapOut _ _ => []
  | .packhorseCopy _ _ => []
  | .packhorseStridedCopy _ _ => []
  | .packhorseFill _ _ => []
  | .placeScales _ _ => []
  | .trotterGather _ _ => []
  | .trotterScatter _ _ => []
  | .collectiveBroadcast _ _ => []
  | .collectiveAllGather _ _ => []
  | .collectiveAllReduce _ _ => []
  | .collectiveComplete _ _ => []
  | .carouselForward _ _ => []
  | .carouselInverse _ _ => []
  | .carouselPointwise _ _ => []
  | .engineCommandComplete _ _ => []
  | .hayloftRequest _ => []
  | .hayloftFree _ => []
  | .engineOperationAccept _ => []
  | .matrixOperationComplete _ => []
  | .tileUpdateApply _ => []
  | .starterDispatch _ => []
  | .taskComplete _ => []
  | .earlyDecrement _ => []
  | .illegalInstrWord _ => []
  | .deviceReadCompletion _ _ _ => []
  | .arrivalResponse _ => []
  | .orderlyShutdown => []
  | .sramSoftError _ => []
  | .unhandledTrapDiscard _ _ => []
  | .hitchDomainForm _ _ => []

/-- Is its prefix misused (sub-code 5, at the prefix)? -/
def preIllegal (i : Instr) : Bool :=
  match i with
  | .clauseStart _ _ _ _ => false
  | .add _ _ _ _ _ => false
  | .sub _ _ _ _ _ => false
  | .addc _ _ _ _ _ => false
  | .mul _ _ _ _ _ => false
  | .mulh _ _ _ _ _ => false
  | .mulhu _ _ _ _ _ => false
  | .div _ _ _ _ _ => false
  | .divu _ _ _ _ _ => false
  | .rem _ _ _ _ _ => false
  | .remu _ _ _ _ _ => false
  | .and _ _ _ _ _ => false
  | .or _ _ _ _ _ => false
  | .xor _ _ _ _ _ => false
  | .andn _ _ _ _ _ => false
  | .shl _ _ _ _ _ => false
  | .shr _ _ _ _ _ => false
  | .sar _ _ _ _ _ => false
  | .rol _ _ _ _ _ => false
  | .min _ _ _ _ _ => false
  | .max _ _ _ _ _ => false
  | .minu _ _ _ _ _ => false
  | .maxu _ _ _ _ _ => false
  | .cmpEq _ _ _ _ _ => false
  | .cmpNe _ _ _ _ _ => false
  | .cmpLt _ _ _ _ _ => false
  | .cmpGe _ _ _ _ _ => false
  | .cmpLtu _ _ _ _ _ => false
  | .cmpGeu _ _ _ _ _ => false
  | .sel _ _ _ _ => false
  | .clz _ _ _ _ => false
  | .ctz _ _ _ _ => false
  | .popc _ _ _ _ => false
  | .bext _ _ _ _ => false
  | .bins _ _ _ _ => false
  | .mov _ _ _ _ => false
  | .addi _ _ _ => false
  | .movi _ _ _ => false
  | .movhi _ _ _ => false
  | .andi _ _ _ => false
  | .ori _ _ _ => false
  | .xori _ _ _ => false
  | .shli _ _ _ => false
  | .shri _ _ _ => false
  | .cmpiEq _ _ _ => false
  | .cmpiNe _ _ _ => false
  | .cmpiLt _ _ _ => false
  | .cmpiGe _ _ _ => false
  | .cmpiLtu _ _ _ => false
  | .cmpiGeu _ _ _ => false
  | .br _ _ => false
  | .brc _ _ _ => false
  | .brv _ _ _ => false
  | .call _ _ _ => false
  | .ret _ _ => false
  | .jmpr _ _ => false
  | .join _ => false
  | .regang _ => false
  | .regangRelease _ => false
  | .exit _ => false
  | .nop _ => false
  | .vadd p _ _ _ _ _ => preBad .satMask p
  | .vaddS p _ _ _ _ _ => preBad .satMask p
  | .vaddI p _ _ _ _ _ => preBad .satMask p
  | .vsub p _ _ _ _ _ => preBad .satMask p
  | .vsubS p _ _ _ _ _ => preBad .satMask p
  | .vsubI p _ _ _ _ _ => preBad .satMask p
  | .vmul p _ _ _ _ _ => preBad .satMask p
  | .vmulS p _ _ _ _ _ => preBad .satMask p
  | .vmulh p _ _ _ _ _ => preBad .maskZ p
  | .vmulhS p _ _ _ _ _ => preBad .maskZ p
  | .vmulhu p _ _ _ _ => preBad .maskZ p
  | .vmulhuS p _ _ _ _ => preBad .maskZ p
  | .vmad p _ _ _ _ _ => preBad .madUse p
  | .vaddc p _ _ _ _ => preBad .maskZ p
  | .vsubc p _ _ _ _ => preBad .maskZ p
  | .vmulw p _ _ _ _ _ => preBad .maskZ p
  | .vand p _ _ _ _ _ => preBad .maskZ p
  | .vandS p _ _ _ _ _ => preBad .maskZ p
  | .vandI p _ _ _ _ _ => preBad .maskZ p
  | .vor p _ _ _ _ _ => preBad .maskZ p
  | .vorS p _ _ _ _ _ => preBad .maskZ p
  | .vorI p _ _ _ _ _ => preBad .maskZ p
  | .vxor p _ _ _ _ _ => preBad .maskZ p
  | .vxorS p _ _ _ _ _ => preBad .maskZ p
  | .vxorI p _ _ _ _ _ => preBad .maskZ p
  | .vshl p _ _ _ _ _ => preBad .maskZ p
  | .vshlS p _ _ _ _ _ => preBad .maskZ p
  | .vshlI p _ _ _ _ _ => preBad .maskZ p
  | .vshr p _ _ _ _ _ => preBad .maskZ p
  | .vshrS p _ _ _ _ _ => preBad .maskZ p
  | .vshrI p _ _ _ _ _ => preBad .maskZ p
  | .vsar p _ _ _ _ _ => preBad .maskZ p
  | .vsarS p _ _ _ _ _ => preBad .maskZ p
  | .vsarI p _ _ _ _ _ => preBad .maskZ p
  | .vmin p _ _ _ _ _ => preBad .maskZ p
  | .vminS p _ _ _ _ _ => preBad .maskZ p
  | .vmax p _ _ _ _ _ => preBad .maskZ p
  | .vmaxS p _ _ _ _ _ => preBad .maskZ p
  | .vminu p _ _ _ _ => preBad .maskZ p
  | .vminuS p _ _ _ _ => preBad .maskZ p
  | .vmaxu p _ _ _ _ => preBad .maskZ p
  | .vmaxuS p _ _ _ _ => preBad .maskZ p
  | .vcmpEq p _ _ _ _ _ => preBad .maskZ p
  | .vcmpEqS p _ _ _ _ _ => preBad .maskZ p
  | .vcmpNe p _ _ _ _ _ => preBad .maskZ p
  | .vcmpNeS p _ _ _ _ _ => preBad .maskZ p
  | .vcmpLt p _ _ _ _ _ => preBad .maskZ p
  | .vcmpLtS p _ _ _ _ _ => preBad .maskZ p
  | .vcmpGe p _ _ _ _ _ => preBad .maskZ p
  | .vcmpGeS p _ _ _ _ _ => preBad .maskZ p
  | .vsel p _ _ _ _ _ => preBad .maskOnly p
  | .vabs p _ _ _ _ => preBad .satMask p
  | .vpopc p _ _ _ _ => preBad .maskZ p
  | .vclz p _ _ _ _ => preBad .maskZ p
  | .vbext p _ _ _ _ => preBad .maskZ p
  | .vmov p _ _ _ _ => preBad .maskZ p
  | .vmovs p _ _ _ _ => preBad .maskZ p
  | .vfadd p _ _ _ _ _ => preBad .maskZRnd p
  | .vfaddS p _ _ _ _ _ => preBad .maskZRnd p
  | .vfsub p _ _ _ _ _ => preBad .maskZRnd p
  | .vfsubS p _ _ _ _ _ => preBad .maskZRnd p
  | .vfmul p _ _ _ _ _ => preBad .maskZRnd p
  | .vfmulS p _ _ _ _ _ => preBad .maskZRnd p
  | .vffma p _ _ _ _ _ => preBad .fmaUse p
  | .vffmaS p _ _ _ _ _ => preBad .fmaUse p
  | .vfmin p _ _ _ _ _ => preBad .maskZ p
  | .vfminS p _ _ _ _ _ => preBad .maskZ p
  | .vfmax p _ _ _ _ _ => preBad .maskZ p
  | .vfmaxS p _ _ _ _ _ => preBad .maskZ p
  | .vfabs p _ _ _ _ => preBad .maskZ p
  | .vfneg p _ _ _ _ => preBad .maskZ p
  | .vfdiv p _ _ _ _ _ => preBad .maskZRnd p
  | .vfscale p _ _ _ _ _ => preBad .maskZRnd p
  | .vfround p _ _ _ _ => preBad .maskZRnd p
  | .vfclass p _ _ _ _ => preBad .maskZ p
  | .vfcmpEq p _ _ _ _ _ => preBad .maskZ p
  | .vfcmpNe p _ _ _ _ _ => preBad .maskZ p
  | .vfcmpLt p _ _ _ _ _ => preBad .maskZ p
  | .vfcmpLe p _ _ _ _ _ => preBad .maskZ p
  | .vfcmpUn p _ _ _ _ _ => preBad .maskZ p
  | .vexp2 p _ _ _ _ => preBad .maskZ p
  | .vexp p _ _ _ _ => preBad .maskZ p
  | .vlog2 p _ _ _ _ => preBad .maskZ p
  | .vln p _ _ _ _ => preBad .maskZ p
  | .vrcp p _ _ _ _ => preBad .maskZ p
  | .vrsqrt p _ _ _ _ => preBad .maskZ p
  | .vsqrt p _ _ _ _ => preBad .maskZ p
  | .vsin p _ _ _ _ => preBad .maskZ p
  | .vcos p _ _ _ _ => preBad .maskZ p
  | .vtanh p _ _ _ _ => preBad .maskZ p
  | .vsigm p _ _ _ _ => preBad .maskZ p
  | .verf p _ _ _ _ => preBad .maskZ p
  | .vexp2Acc p _ _ _ _ => preBad .maskZRnd p
  | .vexpAcc p _ _ _ _ => preBad .maskZRnd p
  | .vlog2Acc p _ _ _ _ => preBad .maskZRnd p
  | .vlnAcc p _ _ _ _ => preBad .maskZRnd p
  | .vrcpAcc p _ _ _ _ => preBad .maskZRnd p
  | .vrsqrtAcc p _ _ _ _ => preBad .maskZRnd p
  | .vsqrtAcc p _ _ _ _ => preBad .maskZRnd p
  | .vsinAcc p _ _ _ _ => preBad .maskZRnd p
  | .vcosAcc p _ _ _ _ => preBad .maskZRnd p
  | .vtanhAcc p _ _ _ _ => preBad .maskZRnd p
  | .vsigmAcc p _ _ _ _ => preBad .maskZRnd p
  | .verfAcc p _ _ _ _ => preBad .maskZRnd p
  | .vcvt p _ t _ _ k => preBad (.cvtUse (4 ≤ t.toNat && 4 ≤ k.toNat)) p
  | .vqcvt p _ _ _ _ _ _ => preBad .rndVc p
  | .vdqcvt p _ _ _ _ _ _ => preBad .rndVc p
  | .vpackBp p _ _ _ _ => preBad .nothing p
  | .vunpackBp p _ _ _ _ => preBad .nothing p
  | .shfl p _ _ _ _ _ => preBad .shflUse p
  | .shflUp p _ _ _ _ _ => preBad .shflUse p
  | .shflDn p _ _ _ _ _ => preBad .shflUse p
  | .shflX p _ _ _ _ _ => preBad .shflUse p
  | .shflUpS p _ _ _ _ _ => preBad .shflUse p
  | .shflDnS p _ _ _ _ _ => preBad .shflUse p
  | .shflXS p _ _ _ _ _ => preBad .shflUse p
  | .voteAny p _ _ _ => preBad .maskOnly p
  | .voteAll p _ _ _ => preBad .maskOnly p
  | .ballot p _ _ _ => preBad .maskOnly p
  | .vscan p _ t _ _ _ _ => preBad (.scanUse (t == 3 || t == 4)) p
  | .vred p _ t _ _ _ => preBad (.scanUse (t == 3 || t == 4)) p
  | .vcarry p _ _ _ _ => preBad .maskZSub p
  | .ssi p _ _ _ _ => preBad .maskZSub p
  | .vlane p _ _ => preBad .maskZSub p
  | .badd _ _ _ _ => false
  | .bsub _ _ _ _ => false
  | .bneg _ _ _ => false
  | .babs _ _ _ => false
  | .bcmp _ _ _ _ => false
  | .bshl _ _ _ _ => false
  | .bshlI _ _ _ _ => false
  | .bshr _ _ _ _ => false
  | .bshrI _ _ _ _ => false
  | .bmult _ _ _ _ => false
  | .bcres _ _ _ => false
  | .bdiv _ _ _ _ => false
  | .bmodb _ _ _ _ => false
  | .bnorm _ _ _ => false
  | .blen _ _ _ => false
  | .bspill _ _ _ => false
  | .bfill _ _ _ => false
  | .bladd _ _ _ _ => false
  | .blsub _ _ _ _ => false
  | .blmul _ _ _ _ => false
  | .blcmp _ _ _ _ => false
  | .blshift _ _ _ _ => false
  | .dotx _ _ _ _ => false
  | .xround _ _ _ => false
  | .bcvt _ _ _ => false
  | .mma _ _ _ _ _ _ => false
  | .mmai _ _ _ _ _ => false
  | .tshape _ _ _ => false
  | .tload _ _ _ _ _ => false
  | .tstore _ _ _ _ _ => false
  | .tzero _ _ _ => false
  | .mprom _ _ => false
  | .tdrain _ _ _ _ _ => false
  | .tdrainRed _ _ _ _ _ => false
  | .txpose _ _ _ => false
  | .tscale _ _ _ => false
  | .ttask _ _ _ _ => false
  | .spmv _ _ _ _ => false
  | .sptrsv _ _ _ _ => false
  | .reinsTake _ => false
  | .reinsPass _ _ => false
  | .reinsPassNext _ => false
  | .reinsQuery _ _ => false
  | .reinsGrant _ => false
  | .ld p _ _ _ _ _ _ => preBad .hintUse p
  | .ld64 p _ _ _ _ _ _ => preBad .hintUse p
  | .ld16 p _ _ _ _ _ _ => preBad .hintUse p
  | .ld8 p _ _ _ _ _ _ => preBad .hintUse p
  | .st p _ _ _ _ _ _ => preBad .hintUse p
  | .st64 p _ _ _ _ _ _ => preBad .hintUse p
  | .st16 p _ _ _ _ _ _ => preBad .hintUse p
  | .st8 p _ _ _ _ _ _ => preBad .hintUse p
  | .lds p _ _ _ _ _ _ => preBad .hintUse p
  | .sts p _ _ _ _ _ _ => preBad .hintUse p
  | .ldNc p _ _ _ _ _ _ => preBad .hintUse p
  | .prefetch p _ _ _ _ _ => preBad .hintUse p
  | .hintNorm p _ _ _ _ _ => preBad .refused p
  | .hintFirst p _ _ _ _ _ => preBad .refused p
  | .hintLast p _ _ _ _ _ => preBad .refused p
  | .hintLow p _ _ _ _ _ => preBad .refused p
  | .cinv p _ _ _ _ _ => preBad .refused p
  | .cflush p _ _ _ _ _ => preBad .refused p
  | .amoAdd _ _ _ _ _ _ => false
  | .amoMin _ _ _ _ _ _ => false
  | .amoMax _ _ _ _ _ _ => false
  | .amoAnd _ _ _ _ _ _ => false
  | .amoOr _ _ _ _ _ _ => false
  | .amoXor _ _ _ _ _ _ => false
  | .amoXchg _ _ _ _ _ _ => false
  | .amoCas _ _ _ _ _ _ => false
  | .redAdd _ _ _ _ _ _ => false
  | .redMin _ _ _ _ _ _ => false
  | .redMax _ _ _ _ _ _ => false
  | .redAnd _ _ _ _ _ _ => false
  | .redOr _ _ _ _ _ _ => false
  | .redXor _ _ _ _ _ _ => false
  | .waitcmp _ _ _ _ _ _ _ => false
  | .barInit _ _ _ _ => false
  | .barArrive _ _ _ _ _ => false
  | .barWait _ _ _ _ => false
  | .barExpect _ _ _ _ => false
  | .fence _ _ => false
  | .fenceSc _ _ => false
  | .xfence _ _ _ _ => false
  | .fenceScTick _ => false
  | .eqw _ _ _ => false
  | .eqgo _ _ => false
  | .sleepu _ _ => false
  | .sleepp _ _ _ => false
  | .promiseChk _ _ _ => false
  | .time _ _ => false
  | .halloc _ _ _ => false
  | .hfree _ _ => false
  | .sleepWake _ => false
  | .trap _ _ => false
  | .brk _ => false
  | .trace _ _ => false
  | .sysrd _ _ _ => false
  | .syswr _ _ _ => false
  | .rte _ => false
  | .segld _ _ _ => false
  | .tlbinv _ _ _ => false
  | .spawn _ _ _ _ => false
  | .phaseEnd _ => false
  | .phaseCommit _ => false
  | .acqx _ _ _ => false
  | .acqxGrant _ => false
  | .acquireTimeout _ => false
  | .relx _ _ => false
  | .yield _ => false
  | .age _ _ => false
  | .lvl _ _ _ => false
  | .longOperationComplete _ => false
  | .spanPromotion _ => false
  | .trapEntry _ => false
  | .regionLimit _ => false
  | .accessAtHome _ _ => false
  | .atomicAtHome _ _ => false
  | .reductionCombine _ _ => false
  | .barrierDecrement _ _ => false
  | .sharerInvalidation _ _ => false
  | .invalidationConfirmation _ _ => false
  | .storeAcknowledgement _ _ => false
  | .regionClose _ => false
  | .monitorWake _ => false
  | .waitcmpTimeout _ => false
  | .barWaitRetest _ => false
  | .saddleTouch _ => false
  | .rollbackReplay _ => false
  | .translationWalk _ => false
  | .mscSectorWrite _ _ => false
  | .mscSectorRead _ _ => false
  | .mscWriteback _ => false
  | .dramBlockRead _ => false
  | .correctedWriteback _ => false
  | .scrubRead _ => false
  | .selfRefreshEntry _ => false
  | .selfRefreshExit _ => false
  | .drowsyBankDrop _ => false
  | .chainDemote _ => false
  | .chainSweep _ => false
  | .keySlotLoad _ _ => false
  | .timeoutDetectorExpiry _ => false
  | .misroute _ => false
  | .halterCapture _ => false
  | .halterRegenerate _ => false
  | .bridleReceive _ => false
  | .routerPowerGate _ _ => false
  | .routerWake _ _ => false
  | .girthRetrain _ _ => false
  | .girthLinkDown _ => false
  | .hitchRetrain _ => false
  | .hitchTimeout _ => false
  | .stitchRelink _ _ _ => false
  | .hostPostedWrite _ _ _ _ => false
  | .orderingPointRelease _ => false
  | .routeAcknowledgement _ _ => false
  | .hostReadRequest _ _ _ => false
  | .deviceWriteToHost _ => false
  | .launch _ _ => false
  | .signalOnly _ _ => false
  | .abortLaunch _ _ => false
  | .launchOutcome _ => false
  | .qtailDoorbell _ _ _ => false
  | .dwinWrite _ _ => false
  | .faultack _ => false
  | .fqtailWrite _ => false
  | .trtailWrite _ => false
  | .trdropRead => false
  | .bar0RegisterWrite _ _ _ => false
  | .attestationRequest _ => false
  | .coldReset _ _ => false
  | .timebaseSync _ _ => false
  | .ptpSourceLoss _ => false
  | .farrierSnapshot => false
  | .islandThrottle _ _ => false
  | .groomBoxWrite _ _ _ => false
  | .groomBoxFree _ _ => false
  | .bind _ _ => false
  | .preemptDecision _ _ _ => false
  | .preciseStop _ _ => false
  | .contextReset _ _ => false
  | .restore _ _ _ _ => false
  | .swapOut _ _ => false
  | .packhorseCopy _ _ => false
  | .packhorseStridedCopy _ _ => false
  | .packhorseFill _ _ => false
  | .placeScales _ _ => false
  | .trotterGather _ _ => false
  | .trotterScatter _ _ => false
  | .collectiveBroadcast _ _ => false
  | .collectiveAllGather _ _ => false
  | .collectiveAllReduce _ _ => false
  | .collectiveComplete _ _ => false
  | .carouselForward _ _ => false
  | .carouselInverse _ _ => false
  | .carouselPointwise _ _ => false
  | .engineCommandComplete _ _ => false
  | .hayloftRequest _ => false
  | .hayloftFree _ => false
  | .engineOperationAccept _ => false
  | .matrixOperationComplete _ => false
  | .tileUpdateApply _ => false
  | .starterDispatch _ => false
  | .taskComplete _ => false
  | .earlyDecrement _ => false
  | .illegalInstrWord _ => false
  | .deviceReadCompletion _ _ _ => false
  | .arrivalResponse _ => false
  | .orderlyShutdown => false
  | .sramSoftError _ => false
  | .unhandledTrapDiscard _ _ => false
  | .hitchDomainForm _ _ => false

/-- Chain bit, class, pipe and timing class (Tables 2.1 and 2.4 to 2.16). -/
def kindOf (i : Instr) : Kind :=
  match i with
  | .clauseStart _ _ _ _ => { chain := false, cls := 15, pipe := .none, timing := .short }
  | .add c _ _ _ _ => { chain := c, cls := 0, pipe := .s, timing := .short }
  | .sub c _ _ _ _ => { chain := c, cls := 0, pipe := .s, timing := .short }
  | .addc c _ _ _ _ => { chain := c, cls := 0, pipe := .s, timing := .short }
  | .mul c _ _ _ _ => { chain := c, cls := 0, pipe := .s, timing := .short }
  | .mulh c _ _ _ _ => { chain := c, cls := 0, pipe := .s, timing := .short }
  | .mulhu c _ _ _ _ => { chain := c, cls := 0, pipe := .s, timing := .short }
  | .div c _ _ _ _ => { chain := c, cls := 0, pipe := .s, timing := .short }
  | .divu c _ _ _ _ => { chain := c, cls := 0, pipe := .s, timing := .short }
  | .rem c _ _ _ _ => { chain := c, cls := 0, pipe := .s, timing := .short }
  | .remu c _ _ _ _ => { chain := c, cls := 0, pipe := .s, timing := .short }
  | .and c _ _ _ _ => { chain := c, cls := 0, pipe := .s, timing := .short }
  | .or c _ _ _ _ => { chain := c, cls := 0, pipe := .s, timing := .short }
  | .xor c _ _ _ _ => { chain := c, cls := 0, pipe := .s, timing := .short }
  | .andn c _ _ _ _ => { chain := c, cls := 0, pipe := .s, timing := .short }
  | .shl c _ _ _ _ => { chain := c, cls := 0, pipe := .s, timing := .short }
  | .shr c _ _ _ _ => { chain := c, cls := 0, pipe := .s, timing := .short }
  | .sar c _ _ _ _ => { chain := c, cls := 0, pipe := .s, timing := .short }
  | .rol c _ _ _ _ => { chain := c, cls := 0, pipe := .s, timing := .short }
  | .min c _ _ _ _ => { chain := c, cls := 0, pipe := .s, timing := .short }
  | .max c _ _ _ _ => { chain := c, cls := 0, pipe := .s, timing := .short }
  | .minu c _ _ _ _ => { chain := c, cls := 0, pipe := .s, timing := .short }
  | .maxu c _ _ _ _ => { chain := c, cls := 0, pipe := .s, timing := .short }
  | .cmpEq c _ _ _ _ => { chain := c, cls := 0, pipe := .s, timing := .short }
  | .cmpNe c _ _ _ _ => { chain := c, cls := 0, pipe := .s, timing := .short }
  | .cmpLt c _ _ _ _ => { chain := c, cls := 0, pipe := .s, timing := .short }
  | .cmpGe c _ _ _ _ => { chain := c, cls := 0, pipe := .s, timing := .short }
  | .cmpLtu c _ _ _ _ => { chain := c, cls := 0, pipe := .s, timing := .short }
  | .cmpGeu c _ _ _ _ => { chain := c, cls := 0, pipe := .s, timing := .short }
  | .sel c _ _ _ => { chain := c, cls := 0, pipe := .s, timing := .short }
  | .clz c _ _ _ => { chain := c, cls := 0, pipe := .s, timing := .short }
  | .ctz c _ _ _ => { chain := c, cls := 0, pipe := .s, timing := .short }
  | .popc c _ _ _ => { chain := c, cls := 0, pipe := .s, timing := .short }
  | .bext c _ _ _ => { chain := c, cls := 0, pipe := .s, timing := .short }
  | .bins c _ _ _ => { chain := c, cls := 0, pipe := .s, timing := .short }
  | .mov c _ _ _ => { chain := c, cls := 0, pipe := .s, timing := .short }
  | .addi c _ _ => { chain := c, cls := 1, pipe := .s, timing := .short }
  | .movi c _ _ => { chain := c, cls := 1, pipe := .s, timing := .short }
  | .movhi c _ _ => { chain := c, cls := 1, pipe := .s, timing := .short }
  | .andi c _ _ => { chain := c, cls := 1, pipe := .s, timing := .short }
  | .ori c _ _ => { chain := c, cls := 1, pipe := .s, timing := .short }
  | .xori c _ _ => { chain := c, cls := 1, pipe := .s, timing := .short }
  | .shli c _ _ => { chain := c, cls := 1, pipe := .s, timing := .short }
  | .shri c _ _ => { chain := c, cls := 1, pipe := .s, timing := .short }
  | .cmpiEq c _ _ => { chain := c, cls := 1, pipe := .s, timing := .short }
  | .cmpiNe c _ _ => { chain := c, cls := 1, pipe := .s, timing := .short }
  | .cmpiLt c _ _ => { chain := c, cls := 1, pipe := .s, timing := .short }
  | .cmpiGe c _ _ => { chain := c, cls := 1, pipe := .s, timing := .short }
  | .cmpiLtu c _ _ => { chain := c, cls := 1, pipe := .s, timing := .short }
  | .cmpiGeu c _ _ => { chain := c, cls := 1, pipe := .s, timing := .short }
  | .br c _ => { chain := c, cls := 1, pipe := .s, timing := .short }
  | .brc c _ _ => { chain := c, cls := 1, pipe := .s, timing := .short }
  | .brv c _ _ => { chain := c, cls := 1, pipe := .s, timing := .short }
  | .call c _ _ => { chain := c, cls := 1, pipe := .s, timing := .short }
  | .ret c _ => { chain := c, cls := 1, pipe := .s, timing := .short }
  | .jmpr c _ => { chain := c, cls := 1, pipe := .s, timing := .short }
  | .join c => { chain := c, cls := 1, pipe := .s, timing := .short }
  | .regang c => { chain := c, cls := 1, pipe := .s, timing := .blocking }
  | .regangRelease _ => { chain := false, cls := 16, pipe := .none, timing := .short }
  | .exit c => { chain := c, cls := 1, pipe := .s, timing := .blocking }
  | .nop c => { chain := c, cls := 1, pipe := .s, timing := .short }
  | .vadd _ c _ _ _ _ => { chain := c, cls := 2, pipe := .v, timing := .short }
  | .vaddS _ c _ _ _ _ => { chain := c, cls := 2, pipe := .v, timing := .short }
  | .vaddI _ c _ _ _ _ => { chain := c, cls := 2, pipe := .v, timing := .short }
  | .vsub _ c _ _ _ _ => { chain := c, cls := 2, pipe := .v, timing := .short }
  | .vsubS _ c _ _ _ _ => { chain := c, cls := 2, pipe := .v, timing := .short }
  | .vsubI _ c _ _ _ _ => { chain := c, cls := 2, pipe := .v, timing := .short }
  | .vmul _ c _ _ _ _ => { chain := c, cls := 2, pipe := .v, timing := .short }
  | .vmulS _ c _ _ _ _ => { chain := c, cls := 2, pipe := .v, timing := .short }
  | .vmulh _ c _ _ _ _ => { chain := c, cls := 2, pipe := .v, timing := .short }
  | .vmulhS _ c _ _ _ _ => { chain := c, cls := 2, pipe := .v, timing := .short }
  | .vmulhu _ c _ _ _ => { chain := c, cls := 2, pipe := .v, timing := .short }
  | .vmulhuS _ c _ _ _ => { chain := c, cls := 2, pipe := .v, timing := .short }
  | .vmad _ c _ _ _ _ => { chain := c, cls := 2, pipe := .v, timing := .short }
  | .vaddc _ c _ _ _ => { chain := c, cls := 2, pipe := .v, timing := .short }
  | .vsubc _ c _ _ _ => { chain := c, cls := 2, pipe := .v, timing := .short }
  | .vmulw _ c _ _ _ _ => { chain := c, cls := 2, pipe := .v, timing := .short }
  | .vand _ c _ _ _ _ => { chain := c, cls := 2, pipe := .v, timing := .short }
  | .vandS _ c _ _ _ _ => { chain := c, cls := 2, pipe := .v, timing := .short }
  | .vandI _ c _ _ _ _ => { chain := c, cls := 2, pipe := .v, timing := .short }
  | .vor _ c _ _ _ _ => { chain := c, cls := 2, pipe := .v, timing := .short }
  | .vorS _ c _ _ _ _ => { chain := c, cls := 2, pipe := .v, timing := .short }
  | .vorI _ c _ _ _ _ => { chain := c, cls := 2, pipe := .v, timing := .short }
  | .vxor _ c _ _ _ _ => { chain := c, cls := 2, pipe := .v, timing := .short }
  | .vxorS _ c _ _ _ _ => { chain := c, cls := 2, pipe := .v, timing := .short }
  | .vxorI _ c _ _ _ _ => { chain := c, cls := 2, pipe := .v, timing := .short }
  | .vshl _ c _ _ _ _ => { chain := c, cls := 2, pipe := .v, timing := .short }
  | .vshlS _ c _ _ _ _ => { chain := c, cls := 2, pipe := .v, timing := .short }
  | .vshlI _ c _ _ _ _ => { chain := c, cls := 2, pipe := .v, timing := .short }
  | .vshr _ c _ _ _ _ => { chain := c, cls := 2, pipe := .v, timing := .short }
  | .vshrS _ c _ _ _ _ => { chain := c, cls := 2, pipe := .v, timing := .short }
  | .vshrI _ c _ _ _ _ => { chain := c, cls := 2, pipe := .v, timing := .short }
  | .vsar _ c _ _ _ _ => { chain := c, cls := 2, pipe := .v, timing := .short }
  | .vsarS _ c _ _ _ _ => { chain := c, cls := 2, pipe := .v, timing := .short }
  | .vsarI _ c _ _ _ _ => { chain := c, cls := 2, pipe := .v, timing := .short }
  | .vmin _ c _ _ _ _ => { chain := c, cls := 2, pipe := .v, timing := .short }
  | .vminS _ c _ _ _ _ => { chain := c, cls := 2, pipe := .v, timing := .short }
  | .vmax _ c _ _ _ _ => { chain := c, cls := 2, pipe := .v, timing := .short }
  | .vmaxS _ c _ _ _ _ => { chain := c, cls := 2, pipe := .v, timing := .short }
  | .vminu _ c _ _ _ => { chain := c, cls := 2, pipe := .v, timing := .short }
  | .vminuS _ c _ _ _ => { chain := c, cls := 2, pipe := .v, timing := .short }
  | .vmaxu _ c _ _ _ => { chain := c, cls := 2, pipe := .v, timing := .short }
  | .vmaxuS _ c _ _ _ => { chain := c, cls := 2, pipe := .v, timing := .short }
  | .vcmpEq _ c _ _ _ _ => { chain := c, cls := 2, pipe := .v, timing := .short }
  | .vcmpEqS _ c _ _ _ _ => { chain := c, cls := 2, pipe := .v, timing := .short }
  | .vcmpNe _ c _ _ _ _ => { chain := c, cls := 2, pipe := .v, timing := .short }
  | .vcmpNeS _ c _ _ _ _ => { chain := c, cls := 2, pipe := .v, timing := .short }
  | .vcmpLt _ c _ _ _ _ => { chain := c, cls := 2, pipe := .v, timing := .short }
  | .vcmpLtS _ c _ _ _ _ => { chain := c, cls := 2, pipe := .v, timing := .short }
  | .vcmpGe _ c _ _ _ _ => { chain := c, cls := 2, pipe := .v, timing := .short }
  | .vcmpGeS _ c _ _ _ _ => { chain := c, cls := 2, pipe := .v, timing := .short }
  | .vsel _ c _ _ _ _ => { chain := c, cls := 2, pipe := .v, timing := .short }
  | .vabs _ c _ _ _ => { chain := c, cls := 2, pipe := .v, timing := .short }
  | .vpopc _ c _ _ _ => { chain := c, cls := 2, pipe := .v, timing := .short }
  | .vclz _ c _ _ _ => { chain := c, cls := 2, pipe := .v, timing := .short }
  | .vbext _ c _ _ _ => { chain := c, cls := 2, pipe := .v, timing := .short }
  | .vmov _ c _ _ _ => { chain := c, cls := 2, pipe := .v, timing := .short }
  | .vmovs _ c _ _ _ => { chain := c, cls := 2, pipe := .v, timing := .short }
  | .vfadd _ c _ _ _ _ => { chain := c, cls := 3, pipe := .v, timing := .short }
  | .vfaddS _ c _ _ _ _ => { chain := c, cls := 3, pipe := .v, timing := .short }
  | .vfsub _ c _ _ _ _ => { chain := c, cls := 3, pipe := .v, timing := .short }
  | .vfsubS _ c _ _ _ _ => { chain := c, cls := 3, pipe := .v, timing := .short }
  | .vfmul _ c _ _ _ _ => { chain := c, cls := 3, pipe := .v, timing := .short }
  | .vfmulS _ c _ _ _ _ => { chain := c, cls := 3, pipe := .v, timing := .short }
  | .vffma _ c _ _ _ _ => { chain := c, cls := 3, pipe := .v, timing := .short }
  | .vffmaS _ c _ _ _ _ => { chain := c, cls := 3, pipe := .v, timing := .short }
  | .vfmin _ c _ _ _ _ => { chain := c, cls := 3, pipe := .v, timing := .short }
  | .vfminS _ c _ _ _ _ => { chain := c, cls := 3, pipe := .v, timing := .short }
  | .vfmax _ c _ _ _ _ => { chain := c, cls := 3, pipe := .v, timing := .short }
  | .vfmaxS _ c _ _ _ _ => { chain := c, cls := 3, pipe := .v, timing := .short }
  | .vfabs _ c _ _ _ => { chain := c, cls := 3, pipe := .v, timing := .short }
  | .vfneg _ c _ _ _ => { chain := c, cls := 3, pipe := .v, timing := .short }
  | .vfdiv _ c _ _ _ _ => { chain := c, cls := 3, pipe := .v, timing := .short }
  | .vfscale _ c _ _ _ _ => { chain := c, cls := 3, pipe := .v, timing := .short }
  | .vfround _ c _ _ _ => { chain := c, cls := 3, pipe := .v, timing := .short }
  | .vfclass _ c _ _ _ => { chain := c, cls := 3, pipe := .v, timing := .short }
  | .vfcmpEq _ c _ _ _ _ => { chain := c, cls := 3, pipe := .v, timing := .short }
  | .vfcmpNe _ c _ _ _ _ => { chain := c, cls := 3, pipe := .v, timing := .short }
  | .vfcmpLt _ c _ _ _ _ => { chain := c, cls := 3, pipe := .v, timing := .short }
  | .vfcmpLe _ c _ _ _ _ => { chain := c, cls := 3, pipe := .v, timing := .short }
  | .vfcmpUn _ c _ _ _ _ => { chain := c, cls := 3, pipe := .v, timing := .short }
  | .vexp2 _ c _ _ _ => { chain := c, cls := 4, pipe := .v, timing := .short }
  | .vexp _ c _ _ _ => { chain := c, cls := 4, pipe := .v, timing := .short }
  | .vlog2 _ c _ _ _ => { chain := c, cls := 4, pipe := .v, timing := .short }
  | .vln _ c _ _ _ => { chain := c, cls := 4, pipe := .v, timing := .short }
  | .vrcp _ c _ _ _ => { chain := c, cls := 4, pipe := .v, timing := .short }
  | .vrsqrt _ c _ _ _ => { chain := c, cls := 4, pipe := .v, timing := .short }
  | .vsqrt _ c _ _ _ => { chain := c, cls := 4, pipe := .v, timing := .short }
  | .vsin _ c _ _ _ => { chain := c, cls := 4, pipe := .v, timing := .short }
  | .vcos _ c _ _ _ => { chain := c, cls := 4, pipe := .v, timing := .short }
  | .vtanh _ c _ _ _ => { chain := c, cls := 4, pipe := .v, timing := .short }
  | .vsigm _ c _ _ _ => { chain := c, cls := 4, pipe := .v, timing := .short }
  | .verf _ c _ _ _ => { chain := c, cls := 4, pipe := .v, timing := .short }
  | .vexp2Acc _ c _ _ _ => { chain := c, cls := 4, pipe := .v, timing := .short }
  | .vexpAcc _ c _ _ _ => { chain := c, cls := 4, pipe := .v, timing := .short }
  | .vlog2Acc _ c _ _ _ => { chain := c, cls := 4, pipe := .v, timing := .short }
  | .vlnAcc _ c _ _ _ => { chain := c, cls := 4, pipe := .v, timing := .short }
  | .vrcpAcc _ c _ _ _ => { chain := c, cls := 4, pipe := .v, timing := .short }
  | .vrsqrtAcc _ c _ _ _ => { chain := c, cls := 4, pipe := .v, timing := .short }
  | .vsqrtAcc _ c _ _ _ => { chain := c, cls := 4, pipe := .v, timing := .short }
  | .vsinAcc _ c _ _ _ => { chain := c, cls := 4, pipe := .v, timing := .short }
  | .vcosAcc _ c _ _ _ => { chain := c, cls := 4, pipe := .v, timing := .short }
  | .vtanhAcc _ c _ _ _ => { chain := c, cls := 4, pipe := .v, timing := .short }
  | .vsigmAcc _ c _ _ _ => { chain := c, cls := 4, pipe := .v, timing := .short }
  | .verfAcc _ c _ _ _ => { chain := c, cls := 4, pipe := .v, timing := .short }
  | .vcvt _ c _ _ _ _ => { chain := c, cls := 4, pipe := .v, timing := .short }
  | .vqcvt _ c _ _ _ _ _ => { chain := c, cls := 4, pipe := .v, timing := .short }
  | .vdqcvt _ c _ _ _ _ _ => { chain := c, cls := 4, pipe := .v, timing := .short }
  | .vpackBp _ c _ _ _ => { chain := c, cls := 4, pipe := .v, timing := .short }
  | .vunpackBp _ c _ _ _ => { chain := c, cls := 4, pipe := .v, timing := .short }
  | .shfl _ c _ _ _ _ => { chain := c, cls := 5, pipe := .v, timing := .short }
  | .shflUp _ c _ _ _ _ => { chain := c, cls := 5, pipe := .v, timing := .short }
  | .shflDn _ c _ _ _ _ => { chain := c, cls := 5, pipe := .v, timing := .short }
  | .shflX _ c _ _ _ _ => { chain := c, cls := 5, pipe := .v, timing := .short }
  | .shflUpS _ c _ _ _ _ => { chain := c, cls := 5, pipe := .v, timing := .short }
  | .shflDnS _ c _ _ _ _ => { chain := c, cls := 5, pipe := .v, timing := .short }
  | .shflXS _ c _ _ _ _ => { chain := c, cls := 5, pipe := .v, timing := .short }
  | .voteAny _ c _ _ => { chain := c, cls := 5, pipe := .v, timing := .short }
  | .voteAll _ c _ _ => { chain := c, cls := 5, pipe := .v, timing := .short }
  | .ballot _ c _ _ => { chain := c, cls := 5, pipe := .v, timing := .short }
  | .vscan _ c _ _ _ _ _ => { chain := c, cls := 5, pipe := .v, timing := .short }
  | .vred _ c _ _ _ _ => { chain := c, cls := 5, pipe := .v, timing := .short }
  | .vcarry _ c _ _ _ => { chain := c, cls := 5, pipe := .v, timing := .short }
  | .ssi _ c _ _ _ => { chain := c, cls := 5, pipe := .v, timing := .short }
  | .vlane _ c _ => { chain := c, cls := 5, pipe := .v, timing := .short }
  | .badd c _ _ _ => { chain := c, cls := 6, pipe := .x, timing := .short }
  | .bsub c _ _ _ => { chain := c, cls := 6, pipe := .x, timing := .short }
  | .bneg c _ _ => { chain := c, cls := 6, pipe := .x, timing := .short }
  | .babs c _ _ => { chain := c, cls := 6, pipe := .x, timing := .short }
  | .bcmp c _ _ _ => { chain := c, cls := 6, pipe := .x, timing := .short }
  | .bshl c _ _ _ => { chain := c, cls := 6, pipe := .x, timing := .short }
  | .bshlI c _ _ _ => { chain := c, cls := 6, pipe := .x, timing := .short }
  | .bshr c _ _ _ => { chain := c, cls := 6, pipe := .x, timing := .short }
  | .bshrI c _ _ _ => { chain := c, cls := 6, pipe := .x, timing := .short }
  | .bmult c _ _ _ => { chain := c, cls := 6, pipe := .x, timing := .longB }
  | .bcres c _ _ => { chain := c, cls := 6, pipe := .x, timing := .longB }
  | .bdiv c _ _ _ => { chain := c, cls := 6, pipe := .x, timing := .longB }
  | .bmodb c _ _ _ => { chain := c, cls := 6, pipe := .x, timing := .longB }
  | .bnorm c _ _ => { chain := c, cls := 6, pipe := .x, timing := .short }
  | .blen c _ _ => { chain := c, cls := 6, pipe := .x, timing := .short }
  | .bspill c _ _ => { chain := c, cls := 6, pipe := .x, timing := .longB }
  | .bfill c _ _ => { chain := c, cls := 6, pipe := .x, timing := .longB }
  | .bladd c _ _ _ => { chain := c, cls := 6, pipe := .x, timing := .longB }
  | .blsub c _ _ _ => { chain := c, cls := 6, pipe := .x, timing := .longB }
  | .blmul c _ _ _ => { chain := c, cls := 6, pipe := .x, timing := .longB }
  | .blcmp c _ _ _ => { chain := c, cls := 6, pipe := .x, timing := .longB }
  | .blshift c _ _ _ => { chain := c, cls := 6, pipe := .x, timing := .longB }
  | .dotx c _ _ _ => { chain := c, cls := 6, pipe := .x, timing := .short }
  | .xround c _ _ => { chain := c, cls := 6, pipe := .x, timing := .short }
  | .bcvt c _ _ => { chain := c, cls := 6, pipe := .x, timing := .short }
  | .mma c _ _ _ _ _ => { chain := c, cls := 7, pipe := .x, timing := .longB }
  | .mmai c _ _ _ _ => { chain := c, cls := 7, pipe := .x, timing := .longB }
  | .tshape c _ _ => { chain := c, cls := 7, pipe := .x, timing := .short }
  | .tload c _ _ _ _ => { chain := c, cls := 7, pipe := .x, timing := .longB }
  | .tstore c _ _ _ _ => { chain := c, cls := 7, pipe := .x, timing := .longB }
  | .tzero c _ _ => { chain := c, cls := 7, pipe := .x, timing := .short }
  | .mprom c _ => { chain := c, cls := 7, pipe := .x, timing := .longB }
  | .tdrain c _ _ _ _ => { chain := c, cls := 7, pipe := .x, timing := .longB }
  | .tdrainRed c _ _ _ _ => { chain := c, cls := 7, pipe := .x, timing := .longB }
  | .txpose c _ _ => { chain := c, cls := 7, pipe := .x, timing := .longB }
  | .tscale c _ _ => { chain := c, cls := 7, pipe := .x, timing := .short }
  | .ttask c _ _ _ => { chain := c, cls := 7, pipe := .x, timing := .longB }
  | .spmv c _ _ _ => { chain := c, cls := 7, pipe := .x, timing := .longB }
  | .sptrsv c _ _ _ => { chain := c, cls := 7, pipe := .x, timing := .longB }
  | .reinsTake c => { chain := c, cls := 7, pipe := .x, timing := .blocking }
  | .reinsPass c _ => { chain := c, cls := 7, pipe := .x, timing := .short }
  | .reinsPassNext c => { chain := c, cls := 7, pipe := .x, timing := .short }
  | .reinsQuery c _ => { chain := c, cls := 7, pipe := .x, timing := .short }
  | .reinsGrant _ => { chain := false, cls := 16, pipe := .none, timing := .short }
  | .ld _ c _ _ _ _ _ => { chain := c, cls := 8, pipe := .m, timing := .longA }
  | .ld64 _ c _ _ _ _ _ => { chain := c, cls := 8, pipe := .m, timing := .longA }
  | .ld16 _ c _ _ _ _ _ => { chain := c, cls := 8, pipe := .m, timing := .longA }
  | .ld8 _ c _ _ _ _ _ => { chain := c, cls := 8, pipe := .m, timing := .longA }
  | .st _ c _ _ _ _ _ => { chain := c, cls := 8, pipe := .m, timing := .short }
  | .st64 _ c _ _ _ _ _ => { chain := c, cls := 8, pipe := .m, timing := .short }
  | .st16 _ c _ _ _ _ _ => { chain := c, cls := 8, pipe := .m, timing := .short }
  | .st8 _ c _ _ _ _ _ => { chain := c, cls := 8, pipe := .m, timing := .short }
  | .lds _ c _ _ _ _ _ => { chain := c, cls := 8, pipe := .m, timing := .longA }
  | .sts _ c _ _ _ _ _ => { chain := c, cls := 8, pipe := .m, timing := .short }
  | .ldNc _ c _ _ _ _ _ => { chain := c, cls := 8, pipe := .m, timing := .longA }
  | .prefetch _ c _ _ _ _ => { chain := c, cls := 8, pipe := .m, timing := .short }
  | .hintNorm _ c _ _ _ _ => { chain := c, cls := 8, pipe := .m, timing := .short }
  | .hintFirst _ c _ _ _ _ => { chain := c, cls := 8, pipe := .m, timing := .short }
  | .hintLast _ c _ _ _ _ => { chain := c, cls := 8, pipe := .m, timing := .short }
  | .hintLow _ c _ _ _ _ => { chain := c, cls := 8, pipe := .m, timing := .short }
  | .cinv _ c _ _ _ _ => { chain := c, cls := 8, pipe := .m, timing := .short }
  | .cflush _ c _ _ _ _ => { chain := c, cls := 8, pipe := .m, timing := .short }
  | .amoAdd c _ _ _ _ _ => { chain := c, cls := 9, pipe := .m, timing := .longA }
  | .amoMin c _ _ _ _ _ => { chain := c, cls := 9, pipe := .m, timing := .longA }
  | .amoMax c _ _ _ _ _ => { chain := c, cls := 9, pipe := .m, timing := .longA }
  | .amoAnd c _ _ _ _ _ => { chain := c, cls := 9, pipe := .m, timing := .longA }
  | .amoOr c _ _ _ _ _ => { chain := c, cls := 9, pipe := .m, timing := .longA }
  | .amoXor c _ _ _ _ _ => { chain := c, cls := 9, pipe := .m, timing := .longA }
  | .amoXchg c _ _ _ _ _ => { chain := c, cls := 9, pipe := .m, timing := .longA }
  | .amoCas c _ _ _ _ _ => { chain := c, cls := 9, pipe := .m, timing := .longA }
  | .redAdd c _ _ _ _ _ => { chain := c, cls := 9, pipe := .m, timing := .short }
  | .redMin c _ _ _ _ _ => { chain := c, cls := 9, pipe := .m, timing := .short }
  | .redMax c _ _ _ _ _ => { chain := c, cls := 9, pipe := .m, timing := .short }
  | .redAnd c _ _ _ _ _ => { chain := c, cls := 9, pipe := .m, timing := .short }
  | .redOr c _ _ _ _ _ => { chain := c, cls := 9, pipe := .m, timing := .short }
  | .redXor c _ _ _ _ _ => { chain := c, cls := 9, pipe := .m, timing := .short }
  | .waitcmp c _ _ _ _ _ _ => { chain := c, cls := 9, pipe := .m, timing := .blocking }
  | .barInit c _ _ _ => { chain := c, cls := 9, pipe := .m, timing := .short }
  | .barArrive c _ _ _ _ => { chain := c, cls := 9, pipe := .m, timing := .short }
  | .barWait c _ _ _ => { chain := c, cls := 9, pipe := .m, timing := .blocking }
  | .barExpect c _ _ _ => { chain := c, cls := 9, pipe := .m, timing := .short }
  | .fence c _ => { chain := c, cls := 9, pipe := .m, timing := .blocking }
  | .fenceSc c _ => { chain := c, cls := 9, pipe := .m, timing := .blocking }
  | .xfence c _ _ _ => { chain := c, cls := 9, pipe := .m, timing := .blocking }
  | .fenceScTick _ => { chain := false, cls := 16, pipe := .none, timing := .short }
  | .eqw c _ _ => { chain := c, cls := 10, pipe := .m, timing := .short }
  | .eqgo c _ => { chain := c, cls := 10, pipe := .m, timing := .longA }
  | .sleepu c _ => { chain := c, cls := 10, pipe := .m, timing := .blocking }
  | .sleepp c _ _ => { chain := c, cls := 10, pipe := .m, timing := .blocking }
  | .promiseChk c _ _ => { chain := c, cls := 10, pipe := .m, timing := .longA }
  | .time c _ => { chain := c, cls := 10, pipe := .m, timing := .short }
  | .halloc c _ _ => { chain := c, cls := 10, pipe := .m, timing := .longA }
  | .hfree c _ => { chain := c, cls := 10, pipe := .m, timing := .short }
  | .sleepWake _ => { chain := false, cls := 16, pipe := .none, timing := .short }
  | .trap c _ => { chain := c, cls := 11, pipe := .s, timing := .short }
  | .brk c => { chain := c, cls := 11, pipe := .s, timing := .short }
  | .trace c _ => { chain := c, cls := 11, pipe := .s, timing := .short }
  | .sysrd c _ _ => { chain := c, cls := 11, pipe := .s, timing := .short }
  | .syswr c _ _ => { chain := c, cls := 11, pipe := .s, timing := .short }
  | .rte c => { chain := c, cls := 11, pipe := .s, timing := .short }
  | .segld c _ _ => { chain := c, cls := 11, pipe := .s, timing := .blocking }
  | .tlbinv c _ _ => { chain := c, cls := 11, pipe := .s, timing := .blocking }
  | .spawn c _ _ _ => { chain := c, cls := 12, pipe := .s, timing := .short }
  | .phaseEnd c => { chain := c, cls := 12, pipe := .s, timing := .blocking }
  | .phaseCommit _ => { chain := false, cls := 16, pipe := .none, timing := .short }
  | .acqx c _ _ => { chain := c, cls := 12, pipe := .s, timing := .blocking }
  | .acqxGrant _ => { chain := false, cls := 16, pipe := .none, timing := .short }
  | .acquireTimeout _ => { chain := false, cls := 16, pipe := .none, timing := .short }
  | .relx c _ => { chain := c, cls := 12, pipe := .s, timing := .short }
  | .yield c => { chain := c, cls := 12, pipe := .s, timing := .blocking }
  | .age c _ => { chain := c, cls := 12, pipe := .s, timing := .short }
  | .lvl c _ _ => { chain := c, cls := 12, pipe := .s, timing := .short }
  | .longOperationComplete _ => { chain := false, cls := 16, pipe := .none, timing := .short }
  | .spanPromotion _ => { chain := false, cls := 16, pipe := .none, timing := .short }
  | .trapEntry _ => { chain := false, cls := 16, pipe := .none, timing := .short }
  | .regionLimit _ => { chain := false, cls := 16, pipe := .none, timing := .short }
  | .accessAtHome _ _ => { chain := false, cls := 16, pipe := .none, timing := .short }
  | .atomicAtHome _ _ => { chain := false, cls := 16, pipe := .none, timing := .short }
  | .reductionCombine _ _ => { chain := false, cls := 16, pipe := .none, timing := .short }
  | .barrierDecrement _ _ => { chain := false, cls := 16, pipe := .none, timing := .short }
  | .sharerInvalidation _ _ => { chain := false, cls := 16, pipe := .none, timing := .short }
  | .invalidationConfirmation _ _ => { chain := false, cls := 16, pipe := .none, timing := .short }
  | .storeAcknowledgement _ _ => { chain := false, cls := 16, pipe := .none, timing := .short }
  | .regionClose _ => { chain := false, cls := 16, pipe := .none, timing := .short }
  | .monitorWake _ => { chain := false, cls := 16, pipe := .none, timing := .short }
  | .waitcmpTimeout _ => { chain := false, cls := 16, pipe := .none, timing := .short }
  | .barWaitRetest _ => { chain := false, cls := 16, pipe := .none, timing := .short }
  | .saddleTouch _ => { chain := false, cls := 16, pipe := .none, timing := .short }
  | .rollbackReplay _ => { chain := false, cls := 16, pipe := .none, timing := .short }
  | .translationWalk _ => { chain := false, cls := 16, pipe := .none, timing := .short }
  | .mscSectorWrite _ _ => { chain := false, cls := 16, pipe := .none, timing := .short }
  | .mscSectorRead _ _ => { chain := false, cls := 16, pipe := .none, timing := .short }
  | .mscWriteback _ => { chain := false, cls := 16, pipe := .none, timing := .short }
  | .dramBlockRead _ => { chain := false, cls := 16, pipe := .none, timing := .short }
  | .correctedWriteback _ => { chain := false, cls := 16, pipe := .none, timing := .short }
  | .scrubRead _ => { chain := false, cls := 16, pipe := .none, timing := .short }
  | .selfRefreshEntry _ => { chain := false, cls := 16, pipe := .none, timing := .short }
  | .selfRefreshExit _ => { chain := false, cls := 16, pipe := .none, timing := .short }
  | .drowsyBankDrop _ => { chain := false, cls := 16, pipe := .none, timing := .short }
  | .chainDemote _ => { chain := false, cls := 16, pipe := .none, timing := .short }
  | .chainSweep _ => { chain := false, cls := 16, pipe := .none, timing := .short }
  | .keySlotLoad _ _ => { chain := false, cls := 16, pipe := .none, timing := .short }
  | .timeoutDetectorExpiry _ => { chain := false, cls := 16, pipe := .none, timing := .short }
  | .misroute _ => { chain := false, cls := 16, pipe := .none, timing := .short }
  | .halterCapture _ => { chain := false, cls := 16, pipe := .none, timing := .short }
  | .halterRegenerate _ => { chain := false, cls := 16, pipe := .none, timing := .short }
  | .bridleReceive _ => { chain := false, cls := 16, pipe := .none, timing := .short }
  | .routerPowerGate _ _ => { chain := false, cls := 16, pipe := .none, timing := .short }
  | .routerWake _ _ => { chain := false, cls := 16, pipe := .none, timing := .short }
  | .girthRetrain _ _ => { chain := false, cls := 16, pipe := .none, timing := .short }
  | .girthLinkDown _ => { chain := false, cls := 16, pipe := .none, timing := .short }
  | .hitchRetrain _ => { chain := false, cls := 16, pipe := .none, timing := .short }
  | .hitchTimeout _ => { chain := false, cls := 16, pipe := .none, timing := .short }
  | .stitchRelink _ _ _ => { chain := false, cls := 16, pipe := .none, timing := .short }
  | .hostPostedWrite _ _ _ _ => { chain := false, cls := 16, pipe := .none, timing := .short }
  | .orderingPointRelease _ => { chain := false, cls := 16, pipe := .none, timing := .short }
  | .routeAcknowledgement _ _ => { chain := false, cls := 16, pipe := .none, timing := .short }
  | .hostReadRequest _ _ _ => { chain := false, cls := 16, pipe := .none, timing := .short }
  | .deviceWriteToHost _ => { chain := false, cls := 16, pipe := .none, timing := .short }
  | .launch _ _ => { chain := false, cls := 16, pipe := .none, timing := .short }
  | .signalOnly _ _ => { chain := false, cls := 16, pipe := .none, timing := .short }
  | .abortLaunch _ _ => { chain := false, cls := 16, pipe := .none, timing := .short }
  | .launchOutcome _ => { chain := false, cls := 16, pipe := .none, timing := .short }
  | .qtailDoorbell _ _ _ => { chain := false, cls := 16, pipe := .none, timing := .short }
  | .dwinWrite _ _ => { chain := false, cls := 16, pipe := .none, timing := .short }
  | .faultack _ => { chain := false, cls := 16, pipe := .none, timing := .short }
  | .fqtailWrite _ => { chain := false, cls := 16, pipe := .none, timing := .short }
  | .trtailWrite _ => { chain := false, cls := 16, pipe := .none, timing := .short }
  | .trdropRead => { chain := false, cls := 16, pipe := .none, timing := .short }
  | .bar0RegisterWrite _ _ _ => { chain := false, cls := 16, pipe := .none, timing := .short }
  | .attestationRequest _ => { chain := false, cls := 16, pipe := .none, timing := .short }
  | .coldReset _ _ => { chain := false, cls := 16, pipe := .none, timing := .short }
  | .timebaseSync _ _ => { chain := false, cls := 16, pipe := .none, timing := .short }
  | .ptpSourceLoss _ => { chain := false, cls := 16, pipe := .none, timing := .short }
  | .farrierSnapshot => { chain := false, cls := 16, pipe := .none, timing := .short }
  | .islandThrottle _ _ => { chain := false, cls := 16, pipe := .none, timing := .short }
  | .groomBoxWrite _ _ _ => { chain := false, cls := 16, pipe := .none, timing := .short }
  | .groomBoxFree _ _ => { chain := false, cls := 16, pipe := .none, timing := .short }
  | .bind _ _ => { chain := false, cls := 16, pipe := .none, timing := .short }
  | .preemptDecision _ _ _ => { chain := false, cls := 16, pipe := .none, timing := .short }
  | .preciseStop _ _ => { chain := false, cls := 16, pipe := .none, timing := .short }
  | .contextReset _ _ => { chain := false, cls := 16, pipe := .none, timing := .short }
  | .restore _ _ _ _ => { chain := false, cls := 16, pipe := .none, timing := .short }
  | .swapOut _ _ => { chain := false, cls := 16, pipe := .none, timing := .short }
  | .packhorseCopy _ _ => { chain := false, cls := 16, pipe := .none, timing := .short }
  | .packhorseStridedCopy _ _ => { chain := false, cls := 16, pipe := .none, timing := .short }
  | .packhorseFill _ _ => { chain := false, cls := 16, pipe := .none, timing := .short }
  | .placeScales _ _ => { chain := false, cls := 16, pipe := .none, timing := .short }
  | .trotterGather _ _ => { chain := false, cls := 16, pipe := .none, timing := .short }
  | .trotterScatter _ _ => { chain := false, cls := 16, pipe := .none, timing := .short }
  | .collectiveBroadcast _ _ => { chain := false, cls := 16, pipe := .none, timing := .short }
  | .collectiveAllGather _ _ => { chain := false, cls := 16, pipe := .none, timing := .short }
  | .collectiveAllReduce _ _ => { chain := false, cls := 16, pipe := .none, timing := .short }
  | .collectiveComplete _ _ => { chain := false, cls := 16, pipe := .none, timing := .short }
  | .carouselForward _ _ => { chain := false, cls := 16, pipe := .none, timing := .short }
  | .carouselInverse _ _ => { chain := false, cls := 16, pipe := .none, timing := .short }
  | .carouselPointwise _ _ => { chain := false, cls := 16, pipe := .none, timing := .short }
  | .engineCommandComplete _ _ => { chain := false, cls := 16, pipe := .none, timing := .short }
  | .hayloftRequest _ => { chain := false, cls := 16, pipe := .none, timing := .short }
  | .hayloftFree _ => { chain := false, cls := 16, pipe := .none, timing := .short }
  | .engineOperationAccept _ => { chain := false, cls := 16, pipe := .none, timing := .short }
  | .matrixOperationComplete _ => { chain := false, cls := 16, pipe := .none, timing := .short }
  | .tileUpdateApply _ => { chain := false, cls := 16, pipe := .none, timing := .short }
  | .starterDispatch _ => { chain := false, cls := 16, pipe := .none, timing := .short }
  | .taskComplete _ => { chain := false, cls := 16, pipe := .none, timing := .short }
  | .earlyDecrement _ => { chain := false, cls := 16, pipe := .none, timing := .short }
  | .illegalInstrWord _ => { chain := false, cls := 16, pipe := .none, timing := .short }
  | .deviceReadCompletion _ _ _ => { chain := false, cls := 16, pipe := .none, timing := .short }
  | .arrivalResponse _ => { chain := false, cls := 16, pipe := .none, timing := .short }
  | .orderlyShutdown => { chain := false, cls := 16, pipe := .none, timing := .short }
  | .sramSoftError _ => { chain := false, cls := 16, pipe := .none, timing := .short }
  | .unhandledTrapDiscard _ _ => { chain := false, cls := 16, pipe := .none, timing := .short }
  | .hitchDomainForm _ _ => { chain := false, cls := 16, pipe := .none, timing := .short }

/-- The lowest sub-code among the causes that hold (R70). -/
def lowestCause (cs : List (Bool × Nat)) : Option Nat :=
  match cs with
  | [] => none
  | (b, n) :: t =>
    match lowestCause t with
    | none => if b then some n else none
    | some k => if b && n ≤ k then some n else some k

/-- The ILLEGAL_INSTR sub-code of an instruction by its own fields: a misused prefix stands in the lower slot (R35). -/
def illegalSub (i : Instr) : Option Nat :=
  if preIllegal i then some 5 else lowestCause (causesOf i)

end Sys2Proof.Machine
end

