-- ==== Sys2Proof/Machine/Ops.lean ====
section
/-!
DEFINITION. The named operations over the machine: finding spans, groups and cores; reading and writing registers under
the lane rules of R227; pending bits and flags (R39, R42); traps, handler entry and return (R413, R416); and the checks
of R35 that stand before every instruction.
-/

namespace Sys2Proof.Machine

open Sys2Proof

/-! ## Spans, groups and cores -/

/-- Every resident span, the focused one first. -/
def State.spans (s : State) : List Span := (if s.sp.live then [s.sp] else []) ++ s.rest

/-- A resident span. -/
def State.spanOf (s : State) (id : SpanId) : Option Span := s.spans.find? fun p => p.id = id

/-- Changes one span. -/
def State.updSpan (s : State) (id : SpanId) (f : Span → Span) : State :=
  { s with sp := if s.sp.live && s.sp.id = id then f s.sp else s.sp, rest := mapIf s.rest (fun p => p.id = id) f }

/-- Changes every span. -/
def State.mapSpans (s : State) (f : Span → Span) : State := { s with sp := f s.sp, rest := s.rest.map f }

/-- Every bound group, the focused one first. -/
def State.allGroups (s : State) : List Group := s.grp :: s.groups

/-- A bound group. -/
def State.groupOf (s : State) (g : GroupId) : Option Group := s.allGroups.find? fun x => x.id = g

/-- Changes one group. -/
def State.updGroup (s : State) (g : GroupId) (f : Group → Group) : State :=
  { s with grp := if s.grp.id = g then f s.grp else s.grp, groups := mapIf s.groups (fun x => x.id = g) f }

/-- A core; one that has held nothing yet is empty. -/
def State.coreOf (s : State) (k : CoreId) : Core :=
  if s.core.id = k then s.core
  else
    match s.cores.find? fun c => c.id = k with
    | some c => c
    | none => { Core.zero with id := k }

/-- Changes one core. -/
def State.updCore (s : State) (k : CoreId) (f : Core → Core) : State :=
  if s.core.id = k then { s with core := f s.core }
  else { s with cores := f (s.coreOf k) :: s.cores.filter fun c => c.id != k }

/-- Puts an element in the place of the one that satisfies p, at the end if there is none. -/
def swapIn {α : Type} (l : List α) (p : α → Bool) (x : α) : List α := if l.any p then mapIf l p (fun _ => x) else l ++ [x]

/-- Brings the group of the focused span to the front. -/
def State.focusGroup (s : State) (g : GroupId) : State :=
  if s.grp.id = g then s
  else
    { s with grp := (s.groupOf g).getD Group.zero,
             groups := if s.grp.id = 0 then s.groups.filter fun x => x.id != g else swapIn s.groups (fun x => x.id = g) s.grp }

/-- Brings a core to the front. -/
def State.focusCore (s : State) (k : CoreId) : State :=
  if s.core.id = k then s else { s with core := s.coreOf k, cores := swapIn s.cores (fun x => x.id = k) s.core }

/-- Brings a span, its group and its core to the front of the state, in exchange for those that stood there; nothing else
changes. -/
def State.focus (s : State) (id : SpanId) : State :=
  if s.sp.live && s.sp.id = id then s
  else
    match s.rest.find? fun p => p.id = id with
    | none => s
    | some p =>
      let rest := if s.sp.live then mapIf s.rest (fun q => q.id = id) fun _ => s.sp else s.rest.filter fun q => q.id != id
      (({ s with sp := p, rest := rest } : State).focusGroup p.group).focusCore id.core

/-- A new number for an operation, a monitor or a group. -/
def State.newId (s : State) : Nat × State := (s.nextId + 1, { s with nextId := s.nextId + 1 })

/-- A number that the spec leaves open (log 4): the next free value. -/
def State.draw (s : State) : Nat × State := (Config.fresh s.fresh, { s with fresh := s.fresh + 1 })

/-- One of n choices, free when there is more than one. -/
def State.oneOf (n : Nat) (s : State) : Nat × State :=
  if n ≤ 1 then (0, s)
  else
    let (x, t) := s.draw
    (x % n, t)

/-! ## The issuing gang -/

/-- Is a slice in the issuing gang? -/
def State.inGang (s : State) (j : Nat) : Bool := bitOn s.issue.gang j

/-- Slice j of a span. -/
def Span.slice (p : Span) (j : Nat) : Slice := vecAt p.slices j Slice.zero

/-- Lanes of a set of slices that are in their current masks and have not exited. -/
def Span.present (p : Span) (gang : BitVec 8) : LaneMask :=
  maskOf 32 fun i =>
    bitOn gang (i / 4) && bitOn (p.slice (i / 4)).cur (i % 4) && !bitOn (p.slice (i / 4)).exited (i % 4)

/-- The enabled lanes of the issuing gang (R227). -/
def State.enabled (s : State) : LaneMask := s.sp.present s.issue.gang

/-- The slices of the issuing gang in ascending order. -/
def State.gangSlices (s : State) : List Nat := positions 8 s.inGang

/-- Changes each slice of the issuing gang. -/
def State.mapGang (s : State) (f : Slice → Slice) : State :=
  { s with sp := { s.sp with slices := vecMap s.sp.slices fun j x => if s.inGang j then f x else x } }

/-- What the issuing gang has waited for. -/
def State.gangWait (s : State) : Option Wait :=
  match s.gangSlices with
  | [] => none
  | j :: _ => (s.sp.slice j).wait

/-- The clause instance of the issuing gang. -/
def State.gangClause (s : State) : Option Nat :=
  match s.gangSlices with
  | [] => none
  | j :: _ => (s.sp.slice j).clause

/-- The lanes of the issuing gang in ascending order. -/
def State.lanes (s : State) : List Nat := positions 32 (bitOn s.enabled)

/-- Does the whole span issue as one gang with every lane present (R263)? -/
def State.fullGang (s : State) : Bool := s.enabled == BitVec.allOnes 32

/-! ## Registers -/

/-- The registers that the words of the chain group read (R32). -/
def State.seen (s : State) : Regs :=
  match s.issue.view with
  | some x => x.regs
  | none => s.sp.regs

/-- The pending bits that the words of the chain group meet. -/
def State.seenPend (s : State) : Pending :=
  match s.issue.view with
  | some x => x.pend
  | none => s.sp.pend

/-- The segment registers that the words of the chain group use. -/
def State.seenSegs (s : State) : Vector Seg 8 :=
  match s.issue.view with
  | some x => x.segs
  | none => s.sp.segs

/-- The vector registers that a group holds (R394). -/
def Group.vregs (g : Group) : Nat := 8 * (g.bindRec.basev.toNat + 1) + 8 * g.xv

/-- What a word that issues now would read: the view of its chain group, or the state itself. -/
def State.seenView (s : State) : View :=
  match s.issue.view with
  | some x => x
  | none =>
    { regs := s.sp.regs, pend := s.sp.pend, segs := s.sp.segs, held := s.sp.held, vregs := s.grp.vregs,
      tiles := s.grp.tiles.length, accs := s.grp.accs.length }

/-- S(n). -/
def State.rs (s : State) (n : RegNo) : DWord := s.seen.s[n.toNat]'n.isLt

/-- V(n, ·). -/
def State.rv (s : State) (n : RegNo) : Lanes := s.seen.v[n.toNat]'n.isLt

/-- V(n, lane). -/
def State.rl (s : State) (n : RegNo) (i : Nat) : Word := laneAt (s.rv n) i

/-- The partner of a register number. -/
def next (n : RegNo) : RegNo := n + 1

/-- V(n, lane, 64) as a number. -/
def State.rl64 (s : State) (n : RegNo) (i : Nat) : Nat := (s.rl n i).toNat + (s.rl (next n) i).toNat * 2 ^ 32

/-- M(n): m0 reads all ones (R13). -/
def State.rm (s : State) (n : Nat) : LaneMask := if n = 0 then BitVec.allOnes 32 else vecAt s.seen.m n 0

/-- Tag(n). -/
def State.rtag (s : State) (n : RegNo) : Tag := s.seen.tag[n.toNat]'n.isLt

/-- Removes the poison of a register that has been overwritten (log 9). -/
def Span.cure (p : Span) (r : RegRef) : Span :=
  { p with held := p.held.filter fun h => h.by_ != .reg r }

/-- S(n) := x. -/
def State.ws (s : State) (n : RegNo) (x : DWord) : State :=
  let p := if s.sp.held.isEmpty then s.sp else s.sp.cure (.scalar n)
  { s with sp := { p with regs := { p.regs with s := p.regs.s.set n.toNat x n.isLt } } }

/-- S(n), S(n + 1) := x, y. -/
def State.ws2 (s : State) (n : RegNo) (x y : DWord) : State := (s.ws n x).ws (next n) y

/-- Removes the poison of the slices of a vector register that a write has covered whole. -/
def Span.cureLanes (p : Span) (n : RegNo) (w : LaneMask) : Span :=
  if p.held.isEmpty then p
  else
    { p with held := p.held.filter fun h =>
        match h.by_ with
        | .reg (.vec m j) => !(m == n && (List.range 4).all fun k => bitOn w (4 * j.val + k))
        | _ => true }

/-- Writes V(n, i) := f i in the lanes of w; other lanes keep their values. -/
def State.wv (s : State) (n : RegNo) (w : LaneMask) (f : Nat → Word) : State :=
  let p := s.sp.cureLanes n w
  let old := p.regs.v[n.toNat]'n.isLt
  { s with sp := { p with regs := { p.regs with
      v := p.regs.v.set n.toNat (lanesOf fun i => if bitOn w i then f i else laneAt old i) n.isLt } } }

/-- Tag(n) := t. -/
def State.wtag (s : State) (n : RegNo) (t : Tag) : State :=
  { s with sp := { s.sp with regs := { s.sp.regs with tag := s.sp.regs.tag.set n.toNat t n.isLt } } }

/-- M(n) := x; writes to m0 are discarded (R13). -/
def State.wm (s : State) (n : Nat) (x : LaneMask) : State :=
  if n = 0 then s else { s with sp := { s.sp with regs := { s.sp.regs with m := vecPut s.sp.regs.m n x } } }

/-- STATUS := x. -/
def State.wstatus (s : State) (x : DWord) : State := { s with sp := { s.sp with regs := { s.sp.regs with status := x } } }

/-- The write of R227: f in the selected lanes, zero in enabled lanes that are not selected when z, else kept; the tag
becomes length 0 and sign 0 (R228). -/
def State.putLanes (s : State) (d : RegNo) (sel : LaneMask) (z : Bool) (f : Nat → Word) : State :=
  let w := if z then s.enabled else sel
  (s.wv d w fun i => if bitOn sel i then f i else 0).wtag d zeroTag

/-- The same for a pair: the low and high words of f. -/
def State.putPair (s : State) (d : RegNo) (sel : LaneMask) (z : Bool) (f : Nat → Nat) : State :=
  (s.putLanes d sel z fun i => BitVec.ofNat 32 (f i)).putLanes (next d) sel z fun i => BitVec.ofNat 32 (f i / 2 ^ 32)

/-- The same for a mask register. -/
def State.putMask (s : State) (d : RegNo) (sel : LaneMask) (z : Bool) (f : Nat → Bool) : State :=
  let old := vecAt s.sp.regs.m d.toNat 0
  s.wm d.toNat (maskOf 32 fun i =>
    if bitOn sel i then f i else if z && bitOn s.enabled i then false else bitOn old i)

/-- A prefix, or the default one (R47). -/
def preOf (p : Option Pre) : Pre := p.getD Pre.default

/-- The selected lanes under a prefix (R227). -/
def State.selected (s : State) (p : Option Pre) : LaneMask := s.enabled &&& s.rm (preOf p).mask.toNat

/-- The rounding mode under a prefix (R46, R207). -/
def State.mode (s : State) (p : Option Pre) : RMode := roundCode s.seen.status (preOf p).rnd.toNat

/-! ## Pending bits, flags and clause instances -/

/-- Sets or clears the pending bits of registers, for the slices of a gang (R42). -/
def Pending.put (pd : Pending) (gang : BitVec 8) (rs : List Ref) (b : Bool) : Pending :=
  rs.foldl (fun q r =>
    match r with
    | .v n => { q with v := vecMap q.v fun j x => if bitOn gang j then setBit x n b else x }
    | .m n => { q with m := vecMap q.m fun j x => if bitOn gang j then setBit x n b else x }
    | .s n => { q with s := setBit q.s n b }
    | .tile n => { q with tile := setBit q.tile n b }
    | .acc n => { q with acc := setBit q.acc n b }
    | .shape n => { q with shape := setBit q.shape n b }) pd

/-- Sets the pending bits of the destinations of the instruction that issues. -/
def State.setPending (s : State) (rs : List Ref) : State :=
  { s with sp := { s.sp with pend := s.sp.pend.put s.issue.gang rs true } }

/-- Clears pending bits of the focused span. -/
def State.clearPending (s : State) (gang : BitVec 8) (rs : List Ref) : State :=
  { s with sp := { s.sp with pend := s.sp.pend.put gang rs false } }

/-- Is any pending bit of the span set? -/
def Pending.some_ (pd : Pending) : Bool :=
  vecAny pd.v (fun x => x != 0) || vecAny pd.m (fun x => x != 0) || pd.s != 0 || pd.tile != 0 || pd.acc != 0 ||
    pd.shape != 0

/-- Does an operation in flight write a register through the M pipe (timing class A)? -/
def MemOp.isA (o : MemOp) : Bool :=
  match o.dest with
  | .vec _ _ | .scalar _ => true
  | _ => false

/-- Does it write a tile or a resident number (timing class B)? -/
def MemOp.isB (o : MemOp) : Bool :=
  match o.dest with
  | .tile _ | .big _ _ => true
  | _ => false

/-- Are operations of class A of a clause instance of the focused span in flight (R39)? -/
def State.busyA (s : State) (c : Nat) : Bool :=
  (s.memOps.any fun o => o.span = s.sp.id && o.clause == some c && o.isA) ||
  (s.slowOps.any fun o => o.span = s.sp.id && o.clause == some c && !o.xpipe)

/-- Are operations of class B of a clause instance of the focused span in flight (R39)? -/
def State.busyB (s : State) (c : Nat) : Bool :=
  (s.memOps.any fun o => o.span = s.sp.id && o.clause == some c && o.isB) ||
  (s.slowOps.any fun o => o.span = s.sp.id && o.clause == some c && o.xpipe) ||
  (s.core.ops.any fun o => o.span = s.sp.id && o.clause == some c)

/-- The flags that clause instances keep busy. -/
def busyFlags (cs : List Clause) : BitVec 12 :=
  maskOf 12 fun i => cs.any fun c => (c.heldA && c.flagA.toNat == i) || (c.heldB && c.flagB.toNat == i)

/-- Does any slice, or any slice of the frame, stand in a clause instance? -/
def Span.inClause (p : Span) (c : Nat) : Bool := vecAny p.slices fun x => x.clause == some c

/-- Does a slice of the handler frame stand in a clause instance? -/
def Span.frameClause (p : Span) (c : Nat) : Bool :=
  match p.frame with
  | some f => vecAny f.slices fun x => x.clause == some c
  | none => false

/-- Ends the instances that control has left, and clears the flags of R39, for the focused span. -/
def State.settle (s : State) : State :=
  let cs := s.sp.clauses.map fun c =>
    let ended := !s.sp.inClause c.id
    { c with ended := ended, heldA := c.heldA && !(ended && !s.busyA c.id),
             heldB := c.heldB && !(ended && !s.busyB c.id) }
  let kept := cs.filter fun c => !c.ended || c.heldA || c.heldB || s.sp.frameClause c.id
  { s with sp := { s.sp with clauses := kept, flags := busyFlags kept } }

/-! ## Waiting -/

/-- The whole group waits to issue: it takes no effect, and it issues again after the next change. -/
def State.stall (s : State) : State :=
  let s1 := s.mapGang fun x => { x with wait := some .retry }
  { s1 with issue := { s1.issue with blocked := true } }

/-- How the issuing word issues again alone: with what its group read (R32), before the later words that wait too. -/
def State.againHere (s : State) : Again := { next := s.issue.next, more := s.issue.more, view := s.seenView }

/-- The word waits in its instruction of timing class W (R40); the other words of its group stand (R405). -/
def State.waitIn (s : State) (w : Wait) : State :=
  let s1 := s.mapGang fun x => { x with wait := some w, slot := s.issue.slot, again := some s.againHere }
  { s1 with issue := { s1.issue with waiting := some w } }

/-- The gang leaves its wait: what it waits for from now on. -/
def State.setWait (s : State) (gang : BitVec 8) (w : Option Wait) : State :=
  { s with sp := { s.sp with slices := vecMap s.sp.slices fun j x => if bitOn gang j then { x with wait := w } else x } }

/-- A change of the machine's state lets every stalled group issue again. -/
def State.wakeRetries (s : State) : State :=
  s.mapSpans fun p => { p with slices := vecMap p.slices fun _ x => if x.wait = some .retry then { x with wait := none } else x }

/-! ## Traps -/

/-- A packet address and a slot as FAULTPC and word 1 hold them (Table 14.2). -/
def pcWord (pc : DWord) (slot : Nat) : DWord := BitVec.ofNat 64 (pc.toNat % 2 ^ 48 + slot % 4 * 2 ^ 48)

/-- Where the issuing word stands. -/
def State.here (s : State) : DWord := pcWord s.issue.pc s.issue.slot

/-- FAULTINFO word 0 (Table 14.3). -/
def TrapInfo.word0 (t : TrapInfo) : DWord :=
  BitVec.ofNat 64 (t.code.toNat + (if t.cause.isSome then 64 else 0) + (if t.unreach then 128 else 0) +
    t.sub.toNat * 2 ^ 8 + t.detail.toNat * 2 ^ 12 + t.lanes.toNat * 2 ^ 32)

/-- A precise trap of the issuing gang with its code and sub-code; the lanes are the gang's. -/
def State.trapOf (s : State) (code sub : Nat) : TrapInfo :=
  { code := BitVec.ofNat 6 code, sub := BitVec.ofNat 4 sub, detail := 0, addr := 0, lanes := s.enabled,
    unreach := false, cause := none, region := 0 }

/-- The same with the address of R410. -/
def State.trapAt (s : State) (code : Nat) (addr : DWord) : TrapInfo := { s.trapOf code 0 with addr := addr }

/-- Has every register-writing operation of class A of the focused span completed (R44)? -/
def State.quietA (s : State) : Bool :=
  !(s.memOps.any fun o => o.span = s.sp.id && o.isA) && !(s.slowOps.any fun o => o.span = s.sp.id && !o.xpipe)

/-- The wait that a slice keeps in the frame or in a saved context (R405, R429): sleeps and parks stay. -/
def keptWait (w : Option Wait) : Option Wait :=
  match w with
  | some (.sleep t) => some (.sleep t)
  | some .woken => some .woken
  | some (.parked k va kind) => some (.parked k va kind)
  | some (.parkFailed va) => some (.parkFailed va)
  | _ => none

/-- Withdraws what a span's other waits have placed outside it: monitors, queued `acqx`. -/
def State.withdraw (s : State) (id : SpanId) : State :=
  { (s.updCore id.core fun c => { c with acqs := c.acqs.filter fun a => a.span != id }) with
    monitors := s.monitors.filter fun m => m.span != id || m.away.isSome }

/-- Is a trap unhandled (R415)? -/
def Span.unhandled (p : Span) : Bool := p.privileged || fld p.trap.trapbase 0 48 == 0

/-- Handler entry (R413): the frame is saved, the trap registers and s62, s63 are written, the span becomes privileged
and all its lanes form one gang at TRAPBASE. -/
def State.enterHandler (s : State) (t : TrapInfo) (gang : BitVec 8) (resume : DWord) : State :=
  let p := s.sp
  let frame : Frame :=
    { slices := vecMap p.slices fun _ x => { x with wait := keptWait x.wait }, s62 := p.regs.s[62], s63 := p.regs.s[63],
      gang := gang, entry := resume }
  let tr : TrapRegs :=
    { p.trap with faultpc := resume, faultaddr := t.addr, word0 := t.word0, word1 := t.cause.getD resume,
                  word2 := BitVec.ofNat 64 t.region.toNat, sel := 0 }
  let slices := vecMap p.slices fun _ x =>
    { Slice.zero with pc := BitVec.ofNat 64 (fld p.trap.trapbase 0 48), slot := 0, cur := ~~~x.exited,
                      exited := x.exited, left := BitVec.ofNat 64 (fld resume 0 48) }
  let regs := { p.regs with s := (p.regs.s.set 62 t.word0).set 63 t.addr }
  let s1 := { s with sp := { p with frame := some frame, trap := tr, regs := regs, privileged := true,
                                    slices := slices, trapping := none } }
  (s1.withdraw p.id).settle

/-- Takes a trap: unhandled it stops the group (R415); otherwise the handler is entered once the older operations of
class A have completed (R44, R413). -/
def State.takeTrap (s : State) (t : TrapInfo) (resume : DWord) : State :=
  let s1 := s.mapGang fun x => { x with wait := none }
  if s.sp.unhandled then { s1 with grp := { s1.grp with status := .trapped t.word0 resume } }
  else if s.quietA then s1.enterHandler t s.issue.gang resume
  else { s1 with sp := { s1.sp with trapping := some (t, s.issue.gang, resume) } }

/-- A trap at the issuing word: its group takes no effect (R404). -/
def State.raise (s : State) (t : TrapInfo) : State :=
  let s1 := s.takeTrap t s.here
  { s1 with issue := { s1.issue with blocked := true } }

/-! ## The checks of R35 -/

/-- Does the group of spans not hold a register (R394)? -/
def View.lacks (x : View) (r : Ref) : Bool :=
  match r with
  | .v n => x.vregs ≤ n
  | .tile n => x.tiles ≤ n
  | .shape n => x.tiles ≤ n
  | .acc n => x.accs ≤ n
  | .m _ => false
  | .s _ => false

/-- Instructions that handler state forbids (R414). -/
def handlerForbids (i : Instr) : Bool :=
  match i with
  | .spawn .. | .phaseEnd .. | .acqx .. | .yield .. | .exit .. => true
  | _ => false

/-- The launch of the focused group. -/
def State.launchOf (s : State) : Option Launch := s.host.launches.find? fun l => l.seq = s.grp.launch

/-- A field of the launch record of the focused group; 0 without one. -/
def State.launchField (s : State) (lo w : Nat) : Nat :=
  match s.launchOf with
  | some l => fld l.record lo w
  | none => 0

/-- A level 0 to 7 of `lvl` above NLEV (R402). -/
def State.levelBad (s : State) (i : Instr) : Bool :=
  match i with
  | .lvl _ _ l => decide (l.toNat < 8) && decide (s.launchField 8 3 < l.toNat)
  | _ => false

/-- The tiles and accumulators of an `mma` or `mmai` are checked after PENDING_READ (R300). -/
def heldLate (i : Instr) (r : Ref) : Bool :=
  match i, r with
  | .mma .., .tile _ | .mma .., .shape _ | .mma .., .acc _ | .mmai .., .tile _ | .mmai .., .shape _ | .mmai .., .acc _ => true
  | _, _ => false

/-- The sub-code of ILLEGAL_INSTR that an instruction raises where it stands (R70): the lowest cause. -/
def State.illegal (s : State) (i : Instr) : Option Nat :=
  if preIllegal i then some 5
  else
    lowestCause (causesOf i ++
      [(s.levelBad i, 3), ((readsOf i ++ writesOf i).any fun r => s.seenView.lacks r && !heldLate i r, 4), (s.issue.stray, 6), (s.issue.second, 8),
       (s.sp.privileged && handlerForbids i, 10)])

/-- Is the instruction privileged, or a write of a P register (R53, R67)? -/
def needsPrivilege (i : Instr) : Bool :=
  match i with
  | .rte _ => true
  | .segld .. => true
  | .tlbinv .. => true
  | .syswr _ _ r => 0x20 ≤ r.toNat && r.toNat ≤ 0x23
  | _ => false

/-- Is it of class 6, whose need of the whole span as one gang precedes PENDING_READ (R263)? -/
def gangFirst (i : Instr) : Bool := (kindOf i).cls == 6

/-- Is it an instruction of class 4 that needs the whole span as one gang: a fault of the operation itself (R35, R248 to
R250)? -/
def gangLast (i : Instr) : Bool :=
  match i with
  | .vqcvt .. | .vdqcvt .. | .vpackBp .. | .vunpackBp .. => true
  | _ => false

/-- Does it need the whole span as one gang? -/
def needsGang (i : Instr) : Bool := gangFirst i || gangLast i

/-- Is it a matrix-engine operation that queues behind its accumulator's earlier ones (R42)? -/
def queuesOnAcc (i : Instr) : Bool :=
  match i with
  | .mma .. | .mmai .. | .mprom .. | .tdrain .. | .tdrainRed .. | .bmult .. | .bcres .. => true
  | _ => false

/-- The lanes for which a register is pending: the slices concerned, or the whole gang (R42). -/
def State.pendingLanes (s : State) (r : Ref) : LaneMask :=
  let pd := s.seenPend
  let whole (b : Bool) : LaneMask := if b then s.enabled else 0
  match r with
  | .v n => s.enabled &&& maskOf 32 fun i => bitOn (vecAt pd.v (i / 4) 0) n
  | .m n => s.enabled &&& maskOf 32 fun i => bitOn (vecAt pd.m (i / 4) 0) n
  | .s n => whole (bitOn pd.s n)
  | .tile n => whole (bitOn pd.tile n)
  | .acc n => whole (bitOn pd.acc n)
  | .shape n => whole (bitOn pd.shape n)

/-- The lanes for which any register of a list is pending; a queued operation does not wait for its accumulator. -/
def State.pendingAmong (s : State) (i : Instr) (rs : List Ref) : LaneMask :=
  rs.foldl (fun a r =>
    match r with
    | .acc n => if queuesOnAcc i then a else a ||| s.pendingLanes (.acc n)
    | r => a ||| s.pendingLanes r) 0

/-- Checks 2 to 4 of R35 for one word: the trap, and whether it is reported at the prefix's slot. -/
def State.preCheck (s : State) (i : Instr) : Option TrapInfo :=
  match s.illegal i with
  | some n => some (s.trapOf 0 n)
  | none =>
    if needsPrivilege i && !s.sp.privileged then some (s.trapOf 5 0)
    else if gangFirst i && !s.fullGang then some (s.trapOf 14 0)
    else
      let r := s.pendingAmong i (readsOf i)
      if r != 0 then some { s.trapOf 3 0 with lanes := r }
      else
        let w := s.pendingAmong i (writesOf i)
        if w != 0 then some { s.trapOf 3 1 with lanes := w } else none

/-! ## Held faults (R43, R365, R406) -/

/-- Does an instruction end the span's region (Table 12.1)? -/
def endsRegion (i : Instr) : Bool :=
  match i with
  | .amoAdd .. | .amoMin .. | .amoMax .. | .amoAnd .. | .amoOr .. | .amoXor .. | .amoXchg .. | .amoCas .. => true
  | .barArrive .. => true
  | _ => (kindOf i).timing == .blocking

/-- The scope code of a fence or a release (R136, R346). -/
def farScope (i : Instr) : Bool :=
  let far (p : BitVec 3) : Bool := p == 5 || p == 6
  match i with
  | .fence _ p => far p
  | .fenceSc _ p => far p
  | .xfence _ p _ _ => far p
  | .barArrive _ p _ _ _ => far p
  | .amoAdd _ _ p _ _ _ => far p
  | .amoMin _ _ p _ _ _ => far p
  | .amoMax _ _ p _ _ _ => far p
  | .amoAnd _ _ p _ _ _ => far p
  | .amoOr _ _ p _ _ _ => far p
  | .amoXor _ _ p _ _ _ => far p
  | .amoXchg _ _ p _ _ _ => far p
  | .amoCas _ _ p _ _ _ => far p
  | _ => false

/-- Does an instruction of the issuing gang read a register that a fault is held by? -/
def State.readsHeld (s : State) (i : Instr) (r : RegRef) : Bool :=
  match r with
  | .vec n j => s.inGang j.val && (readsOf i).contains (.v n.toNat)
  | .scalar n => (readsOf i).contains (.s n.toNat)
  | .tile n => (readsOf i).contains (.tile n.toNat)

/-- Does it write that register? -/
def State.writesHeld (s : State) (i : Instr) (r : RegRef) : Bool :=
  match r with
  | .vec n j => s.inGang j.val && (writesOf i).contains (.v n.toNat)
  | .scalar n => (writesOf i).contains (.s n.toNat)
  | .tile n => (writesOf i).contains (.tile n.toNat)

/-- Is a held fault delivered at this instruction (R406)?  Those of sleeps, barriers and exits are delivered by their own
meanings. -/
def State.delivers (s : State) (i : Instr) (h : Held) : Bool :=
  let model : Bool := h.trap.code == 11
  if s.sp.privileged && (model || (match h.by_ with
      | .acc _ | .sreg _ => true
      | _ => false)) then false
  else
    match h.by_ with
    | .reg r => s.readsHeld i r || (model && endsRegion i) || (h.trap.code == 15 && s.writesHeld i r)
    | .issue => true
    | .farFence => farScope i
    | .acc n => (readsOf i ++ writesOf i).contains (.acc n.toNat)
    | .sreg n => (readsOf i ++ writesOf i).contains (.s n.toNat)
    | .command _ _ => false
    | .task _ => false

/-- Is a fault held by a register? -/
def Held.inReg (h : Held) : Bool :=
  match h.by_ with
  | .reg _ => true
  | _ => false

/-- The held faults that a word of the chain group meets: those of registers as they stood before the group (R32), and the
others as they stand.  A refusal that has come since the group began also meets the end of a region. -/
def State.seenHeld (s : State) : List Held :=
  match s.issue.view with
  | none => s.sp.held
  | some x =>
    (s.sp.held.filter fun h => !x.held.contains h && (!h.inReg || h.trap.code == 11)) ++
      x.held.filter fun h => h.inReg || s.sp.held.contains h

/-- The oldest held fault that the instruction delivers; faults are listed newest first. -/
def State.heldFor (s : State) (i : Instr) : Option Held := (s.seenHeld.filter (s.delivers i)).getLast?

/-- Do two held faults come from one fault of one operation? -/
def Held.same (x y : Held) : Bool := x.op == y.op && x.trap.cause == y.trap.cause && x.trap.code == y.trap.code

/-- Removes a held fault, with what else the same fault of its operation has left. -/
def State.dropHeld (s : State) (h : Held) : State :=
  { s with sp := { s.sp with held := s.sp.held.filter fun x => !x.same h } }

/-- A held fault as it is delivered: an engine fault names the delivering gang's lanes (Table 14.3). -/
def State.heldTrap (s : State) (h : Held) : TrapInfo :=
  if h.trap.lanes == 0 then { h.trap with lanes := s.enabled } else h.trap

/-- Where a trap of this instruction is reported: a misused prefix at its own slot (R48). -/
def State.atWord (s : State) (i : Instr) : State :=
  if preIllegal i then { s with issue := { s.issue with slot := s.issue.slot - 1 } } else s

/-- Issues an instruction: the checks of R35, then the held fault it delivers (R406), then its own effect. -/
def State.issued (s : State) (i : Instr) (eff : State → State) : State :=
  match s.preCheck i with
  | some t => (s.atWord i).raise t
  | none =>
    match s.heldFor i with
    | some h => (s.dropHeld h).raise (s.heldTrap h)
    | none => if gangLast i && !s.fullGang then s.raise (s.trapOf 14 0) else eff s

/-- The outcome of an instruction whose effect is `eff`. -/
def State.issue1 (s : State) (i : Instr) (eff : State → State) : Host.Outcome State Fault Refusal :=
  .next (s.issued i eff)

/-- The outcome of an event or input. -/
def happens (t : State) : Host.Outcome State Fault Refusal := .next t

/-- The floating-point end of an instruction (R226): an enabled flag traps, with the lanes that would set it; otherwise
the flags are ORed into STATUS once. -/
def State.withFlags (s : State) (sel : LaneMask) (fl : Nat → FFlags) (eff : State → State) : State :=
  let ls := positions 32 (bitOn sel)
  let all := ls.foldl (fun a i => a.or (fl i)) FFlags.none
  if all.trapsUnder s.seen.status then
    s.raise { s.trapOf 20 0 with detail := BitVec.ofNat 12 all.bits,
                                 lanes := maskOf 32 fun i => bitOn sel i && (fl i).trapsUnder s.seen.status }
  else
    let t := eff s
    t.wstatus (statusOr t.sp.regs.status all)

end Sys2Proof.Machine
end

