-- ==== Sys2Proof/Machine/Home.lean ====
section
/-!
DEFINITION. What stands at the homes (R144): L2, RDC and memory-side cache lines (R89 to R95, R150 to R157), poison
(R84 to R87), monitors (R337), and the one read and the one write through which every agent reaches memory.
-/

namespace Sys2Proof.Machine

open Sys2Proof

/-! ## Homes and reach -/

/-- A field of a physical address. -/
def paBits (pa lo w : Nat) : Nat := pa / 2 ^ lo % 2 ^ w

/-- The pseudo-channel of an HBM4E address (R83). -/
def hbmChannel (pa : Nat) : Nat :=
  Nat.xor (Nat.xor (paBits pa 9 7) (paBits pa 16 7)) (Nat.xor (paBits pa 23 7) (paBits pa 30 7))

/-- The sub-channel of a paddock address (R83). -/
def paddockChannel (pa : Nat) : Nat :=
  Nat.xor (Nat.xor (Nat.xor (paBits pa 9 6) (paBits pa 15 6)) (Nat.xor (paBits pa 21 6) (paBits pa 27 6)))
    (Nat.xor (paBits pa 33 6) (paBits pa 39 1))

/-- Does a local address lie in HBM4E? -/
def inHbm (pa : Nat) : Bool := pa < 0x8000000000

/-- A number for the home of a place (R144): an L2 slice, a paddock sub-channel, a scratch bank (R140), a core's scale
memory, or the same on another package. -/
def homeOf (key : Nat) : Nat :=
  if isScratch key then 2 ^ 20 + (key - 2 ^ 50) / 0x80000 * 32 + key / 32 % 32
  else if isScale key then 2 ^ 21 + (key - 2 ^ 51) / 0x8000
  else
    let n := packageOf key
    let pa := key % 2 ^ 41
    n * 4096 + (if inHbm pa then paBits pa 37 2 * 64 + hbmChannel pa % 64 else 256 + paddockChannel pa)

/-- The channel of a local block, when it is backed. -/
def channelOf (pa : Nat) : Channel :=
  if inHbm pa then .hbm ⟨paBits pa 37 2 % 4, Nat.mod_lt _ (by decide)⟩ (BitVec.ofNat 7 (hbmChannel pa))
  else .paddock (BitVec.ofNat 6 (paddockChannel pa))

/-- The least scope whose reach holds a place, for a span of a core (Table 12.6). -/
def State.reachOf (s : State) (core : CoreId) (key : Nat) : Nat :=
  if isScale key then 1
  else if isScratch key then (if scratchCore key = core then 1 else 2)
  else if s.remote key then 5
  else if inHbm (s.canonPa key) && paBits key 37 2 == dieOf core then 3
  else 4

/-! ## Caches as they are tagged -/

/-- How a request treats the caches (R153 to R155). -/
structure Policy where
  hint   : BitVec 2
  stream : Bool
  uncached : Bool
  chain  : BitVec 12
  deriving DecidableEq, Repr

/-- The policy of a request without a hint, under no chain. -/
def Policy.plain : Policy := { hint := 0, stream := false, uncached := false, chain := 0 }

/-- The priority of a new line (Table 5.4). -/
def Policy.fill (p : Policy) : Prio :=
  match p.hint.toNat with
  | 1 => .evictFirst
  | 2 => .evictLast
  | _ => if p.stream then .evictFirst else .normal

/-- The priority of a line that is hit (Table 5.4). -/
def Policy.hit (p : Policy) (old : Prio) : Prio :=
  match p.hint.toNat with
  | 1 => if old = .normal then .evictFirst else old
  | 2 => .evictLast
  | _ => old

/-- The rank of a priority, lowest first (R154). -/
def Prio.rank (p : Prio) : Nat :=
  match p with
  | .low => 0
  | .evictFirst => 1
  | .normal => 2
  | .evictLast => 3

/-- The priority that counts: a line of a demoted chain is low (R94). -/
def State.prioNow (s : State) (chain : BitVec 12) (p : Prio) : Prio :=
  if s.memsys.demoted.contains chain then .low else p

/-- The channel number that picks a line's slice: pc of R83, or sc for a paddock line (R144). -/
def sliceNumber (pa : Nat) : Nat := if inHbm pa then hbmChannel pa else paddockChannel pa

/-- The slice of a line in its cache: an L2 slice of its home die, or the RDC slice pc[4:0] of a die (R144). -/
def Line.place (l : Line) : Nat × Nat :=
  let pa := l.line * 128
  match l.rdc with
  | none => (paBits pa 37 2, sliceNumber pa % 64)
  | some d => (4 + d.val, sliceNumber pa % 32)

/-- Are two lines in one set of one slice: 1,024 sets of 16 ways, by the line's number (log 12)? -/
def sameSet (a b : Line) : Bool := a.place == b.place && a.line % 1024 == b.line % 1024

/-- The cap of R156: an evict-last line above 12 in its set becomes normal. -/
def State.capped (s : State) (l : Line) (p : Prio) : Prio :=
  if p = .evictLast && 12 ≤ (s.memsys.lines.filter fun x => sameSet x l && x.line != l.line && x.prio == .evictLast).length
  then .normal else p

/-- The victim of a full set (R154): lowest priority, least recently used. -/
def State.victim (s : State) (l : Line) : Option Line :=
  let set := s.memsys.lines.filter fun x => sameSet x l
  if set.length < 16 then none
  else
    let lowest := set.foldl (fun a x => min a (s.prioNow x.chain x.prio).rank) 3
    (set.filter fun x => (s.prioNow x.chain x.prio).rank == lowest).getLast?

/-- The MSC block of a physical block. -/
def State.mscOf (s : State) (block : Nat) : Option MscBlock := s.memsys.msc.find? fun b => b.block = block

/-- Replaces an MSC block's state; most recently used first. -/
def State.setMsc (s : State) (b : MscBlock) : State :=
  { s with memsys := { s.memsys with msc := b :: s.memsys.msc.filter fun x => x.block != b.block } }

/-- The idle threshold of a channel's tier in ns (R100). -/
def State.idleLimit (s : State) (ch : Channel) : Nat :=
  match ch with
  | .hbm _ _ => s.memsys.idleHbm
  | .paddock _ => s.memsys.idlePad

/-- A channel's state; one that has had no request has been idle since the reset (R100). -/
def State.channel (s : State) (ch : Channel) : ChannelState :=
  match s.memsys.channels.find? fun c => c.ch == ch with
  | some c => c
  | none =>
    { ch := ch, lastRequest := 0, selfRefresh := decide (s.idleLimit ch ≤ s.now.toNat), scrubbed := 0, lastScrub := 0 }

/-- Puts a channel's state down. -/
def State.setChannel (s : State) (c : ChannelState) : State :=
  { s with memsys := { s.memsys with channels := c :: s.memsys.channels.filter fun x => x.ch != c.ch } }

/-- A request restarts its channel's idle timer and wakes the channel (R100). -/
def State.useChannel (s : State) (pa : Nat) : State :=
  s.setChannel { s.channel (channelOf pa) with lastRequest := s.now, selfRefresh := false }

/-- Does a copy above DRAM hold a byte of a block: a valid sector of the MSC, or bytes of its home's L2? -/
def State.heldAbove (s : State) (block i : Nat) : Bool :=
  (match s.mscOf block with
   | some b => bitOn b.valid (i / 32)
   | none => false) ||
    s.memsys.lines.any fun l => l.rdc.isNone && l.line == block * 4 + i / 128 &&
      (bitOn l.valid (i % 128 / 32) || bitOn l.dirty (i % 128))

/-- The outcome of a block read from DRAM (Table 3.3). -/
def State.dramRead (s : State) (block : Nat) : State :=
  let d := s.dramOf block
  let pa := block * 512
  let stack : Fin 9 :=
    if inHbm pa then ⟨(2 * paBits pa 37 2 + hbmChannel pa / 64 % 2) % 9, Nat.mod_lt _ (by decide)⟩ else 8
  if d.poison || d.errors = 0 then s
  else
    let corrected (t : State) : State :=
      { (t.count (.corrected stack)) with
        memsys := { t.memsys with scrubQ := t.memsys.scrubQ ++ [(block, t.now)] } }
    let detected (t : State) : State :=
      ((t.setDram { d with poison := true, errors := 0 }).count (.uncorrected stack)).logError (.uncorrectable block)
    if d.errors ≤ 16 then corrected s
    else if d.errors = 17 then detected s
    else
      -- 18 bits or more: corrected, detected or miscorrected (R84), as a free value says.
      let (x, s1) := s.draw
      match x % 3 with
      | 0 => detected s1
      | 1 => corrected s1
      | _ =>
        -- Newer data above DRAM stays (R91).
        let (y, s2) := s1.draw
        let old := Memory.bytes s2.mem pa 512
        let new := (List.range 512).map fun i =>
          if s2.heldAbove block i then listAt old i 0 else BitVec.ofNat 8 (y / 256 ^ i)
        { (s2.setDram { d with errors := 0 }) with mem := Memory.put s2.mem pa new }

/-- Is a place poisoned: its block as the MSC holds it, or in DRAM, or its sector of scratch or scale memory (R86)? -/
def State.poisoned (s : State) (key : Nat) : Bool :=
  if isMain key then
    match s.mscOf (blockOf key) with
    | some b => b.poison
    | none => (s.dramOf (blockOf key)).poison
  else s.memsys.poisonedSectors.contains (sectorOf key)

/-- A block has been read poisoned: what was written to it before counts no more (R87). -/
def State.readPoisoned (s : State) (block : Nat) : State :=
  { s with memsys := { s.memsys with
      msc := mapIf s.memsys.msc (fun b => b.block == block) (fun b => { b with rewritten := 0 }),
      lines := mapIf s.memsys.lines (fun l => l.line / 4 == block) fun l => { l with since := 0 } } }

/-- Writes a dirty MSC block to DRAM as one codeword, fetched first if it is not whole (R91); both stay valid and
clean. -/
def State.mscWriteback (s : State) (block : Nat) : State :=
  match s.mscOf block with
  | none => s
  | some b =>
    if !b.dirty then s
    else
      let whole := b.valid == BitVec.allOnes 16 || b.fetched
      let s1 := if whole then s else s.dramRead block
      let d := s1.dramOf block
      let bad := b.poison || (!whole && d.poison)
      ((s1.setMsc { b with valid := BitVec.allOnes 16, fetched := true, dirty := false, poison := bad }).setDram
        { d with poison := bad, errors := 0 }).useChannel (block * 512)

/-- Takes a block out of its MSC, written back first if it is dirty. -/
def State.mscEvict (s : State) (block : Nat) : State :=
  let s1 := s.mscWriteback block
  { s1 with memsys := { s1.memsys with msc := s1.memsys.msc.filter fun x => x.block != block } }

/-- Are two blocks in one set of one MSC: 16 sets for each HBM4E channel and 32 for each of the paddock (R89; log 12)? -/
def sameMscSet (a b : Nat) : Bool :=
  channelOf (a * 512) == channelOf (b * 512) &&
    (if inHbm (a * 512) then a / 128 % 16 == b / 128 % 16 else a / 64 % 32 == b / 64 % 32)

/-- The victim of a full MSC set: lowest priority, least recently used. -/
def State.mscVictim (s : State) (block : Nat) : Option Nat :=
  let set := s.memsys.msc.filter fun x => sameMscSet x.block block
  if set.length < 16 then none
  else
    let lowest := set.foldl (fun a x => min a (s.prioNow x.chain x.prio).rank) 3
    ((set.filter fun x => (s.prioNow x.chain x.prio).rank == lowest).getLast?).map fun x => x.block

/-- The cap of R156 in an MSC set. -/
def State.cappedMsc (s : State) (block : Nat) (p : Prio) : Prio :=
  if p = .evictLast &&
    12 ≤ (s.memsys.msc.filter fun x => sameMscSet x.block block && x.block != block && x.prio == .evictLast).length
  then .normal else p

/-- The priority of a block after a request that leaves it with a chain: that of a demoted chain is not raised (R94). -/
def State.mscPrio (s : State) (b : MscBlock) (chain : BitVec 12) (p : Policy) : Prio :=
  if s.memsys.demoted.contains chain then b.prio else s.cappedMsc b.block (p.hit b.prio)

/-- Makes an MSC ready for a request to a block under a key: a block held under another key is written back and leaves
(R98), and a block that will be allocated gets the place of a victim (R89). -/
def State.mscReady (s : State) (block : Nat) (slot : BitVec 10) (p : Policy) : State :=
  let s1 :=
    match s.mscOf block with
    | some b => if b.key = slot then s else s.mscEvict block
    | none => s
  if (s1.mscOf block).isSome || p.hint == 3 then s1
  else
    match s1.mscVictim block with
    | some v => s1.mscEvict v
    | none => s1

/-- A block newly allocated by a request (Table 3.4). -/
def State.mscFresh (s : State) (block : Nat) (slot : BitVec 10) (p : Policy) : MscBlock :=
  { block := block, valid := 0, fetched := false, dirty := false, poison := (s.dramOf block).poison, key := slot,
    chain := p.chain, prio := s.cappedMsc block p.fill, rewritten := 0 }

/-- The sector of a block that a place lies in. -/
def sectorIn (key : Nat) : Nat := key / 32 % 16

/-- Fetches the codeword of a block and fills the sectors that are not valid (R91). -/
def State.mscFill (s : State) (b : MscBlock) (p : Policy) : State :=
  let s1 := s.dramRead b.block
  let chain := if s.memsys.demoted.contains b.chain then b.chain else p.chain
  s1.setMsc { b with
    valid := BitVec.allOnes 16, fetched := true, poison := b.poison || (s1.dramOf b.block).poison, chain := chain,
    prio := s.mscPrio b chain p }

/-- A sector read at the MSC (R91): a sector that is not valid fetches the codeword.  A request that may not allocate
passes an absent block by (Table 5.4). -/
def State.mscRead (s : State) (key : Nat) (slot : BitVec 10) (p : Policy) : State :=
  let block := blockOf key
  let s0 := (s.mscReady block slot p).useChannel key
  let s1 :=
    match s0.mscOf block with
    | some b =>
      if bitOn b.valid (sectorIn key) then s0.setMsc { b with prio := s0.mscPrio b b.chain p } else s0.mscFill b p
    | none => if p.hint == 3 then s0.dramRead block else s0.mscFill (s0.mscFresh block slot p) p
  if s1.poisoned key then s1.readPoisoned block else s1

/-- A sector written at the MSC (R91).  A sector that is only partly written is completed by a read first (R150); a whole
one needs no DRAM read.  `counts` says that all its bytes have been written since the block was last read poisoned: 16
such sectors make it clean (R87). -/
def State.mscWrite (s : State) (key : Nat) (slot : BitVec 10) (p : Policy) (whole counts : Bool) : State :=
  let block := blockOf key
  let s0 := if whole then s else s.mscRead key slot p
  let s1 := (s0.mscReady block slot p).useChannel key
  let absent := (s1.mscOf block).isNone
  let b := (s1.mscOf block).getD (s1.mscFresh block slot p)
  let rew := if counts then setBit b.rewritten (sectorIn key) true else b.rewritten
  let s2 := s1.setMsc { b with
    valid := setBit b.valid (sectorIn key) true, dirty := true, chain := p.chain, prio := s1.mscPrio b p.chain p,
    poison := b.poison && rew != BitVec.allOnes 16, rewritten := rew }
  if absent && p.hint == 3 then s2.mscEvict block else s2

/-- The bits of a sector in a byte mask of its line. -/
def sectorBits (m : BitVec 128) (sec : Nat) : Nat := m.toNat / 2 ^ (32 * sec) % 2 ^ 32

/-- Moves the dirty bytes of a line's sector from the L2 to the MSC under the key slot that wrote them (R91, R150). -/
def State.drainSector (s : State) (l : Line) (sec : Nat) : State :=
  let part := sectorBits l.dirty sec
  if part = 0 then s
  else
    let full := 2 ^ 32 - 1
    let s1 := s.mscWrite (l.line * 128 + 32 * sec) l.slot { Policy.plain with chain := l.chain } (part == full)
      (sectorBits l.since sec == full)
    let clean (x : Line) : Line :=
      { x with dirty := setFld x.dirty (32 * sec) 32 0, since := setFld x.since (32 * sec) 32 0,
               valid := setBit x.valid sec true }
    { s1 with memsys := { s1.memsys with
        lines := mapIf s1.memsys.lines (fun x => x.line == l.line && x.rdc.isNone) clean } }

/-- Writes every dirty sector of a line to the MSC. -/
def State.drainLine (s : State) (l : Line) : State := (List.range 4).foldl (fun t i => t.drainSector l i) s

/-- Takes a line out of its cache, its dirty sectors first written to the MSC. -/
def State.evictLine (s : State) (l : Line) : State :=
  let s1 := if l.rdc.isNone then s.drainLine l else s
  { s1 with memsys := { s1.memsys with lines := s1.memsys.lines.filter fun x => !(x.line == l.line && x.rdc == l.rdc) } }

/-- A line of an L2 slice or an RDC. -/
def State.lineAt (s : State) (line : Nat) (rdc : Option (Fin 4)) : Option Line :=
  s.memsys.lines.find? fun x => x.line == line && x.rdc == rdc

/-- A line held under another key slot leaves its cache before a request under this one (R98). -/
def State.lineReady (s : State) (line : Nat) (rdc : Option (Fin 4)) (slot : BitVec 10) : State :=
  match s.lineAt line rdc with
  | some l => if l.slot == slot then s else s.evictLine l
  | none => s

/-- Does a cache hold a sector whole? -/
def State.holdsSector (s : State) (line : Nat) (rdc : Option (Fin 4)) (sec : Nat) : Bool :=
  match s.lineAt line rdc with
  | some l => bitOn l.valid sec || sectorBits l.dirty sec == 2 ^ 32 - 1
  | none => false

/-- A request's use of a line in an L2 slice or an RDC: a hit changes its priority, a miss fills it and evicts a victim
(R150 to R156).  A write in the L2 retags the chain (R94) and marks bytes dirty. -/
def State.touchLine (s : State) (line : Nat) (rdc : Option (Fin 4)) (slot : BitVec 10) (p : Policy) (valid : BitVec 4)
    (dirty : BitVec 128) : State :=
  let s0 := s.lineReady line rdc slot
  let put (t : State) (l : Line) : State :=
    { t with memsys := { t.memsys with lines := l :: t.memsys.lines.filter fun x => !(x.line == line && x.rdc == rdc) } }
  match s0.lineAt line rdc with
  | some l =>
    let chain := if dirty != 0 then p.chain else l.chain
    let prio := if s0.memsys.demoted.contains chain then l.prio else s0.capped l (p.hit l.prio)
    put s0 { l with prio := prio, chain := chain, valid := l.valid ||| valid, dirty := l.dirty ||| dirty,
                    since := l.since ||| dirty }
  | none =>
    if p.hint == 3 || p.uncached then s0
    else
      let l : Line :=
        { line := line, rdc := rdc, prio := .normal, chain := p.chain, slot := slot, valid := valid, dirty := dirty,
          since := dirty }
      let s1 :=
        match s0.victim l with
        | some v => s0.evictLine v
        | none => s0
      put s1 { l with prio := s0.capped l p.fill }

/-- The data bank of a line's slice (R157): which of the 8 a line lies in is the model's choice, its number over 64 modulo
8 (log 12). -/
def bankOf (line : Nat) (rdc : Option (Fin 4)) : BankId :=
  let pa := line * 128
  match rdc with
  | some d => { die := d, rdc := true, slice := BitVec.ofNat 6 (sliceNumber pa % 32), bank := BitVec.ofNat 3 (line / 64) }
  | none =>
    { die := ⟨paBits pa 37 2 % 4, Nat.mod_lt _ (by decide)⟩, rdc := false, slice := BitVec.ofNat 6 (sliceNumber pa % 64),
      bank := BitVec.ofNat 3 (line / 64) }

/-- An access wakes its data bank and restarts its idle count (R157). -/
def State.useBank (s : State) (line : Nat) (rdc : Option (Fin 4)) : State :=
  let b := bankOf line rdc
  { s with memsys := { s.memsys with
      drowsy := s.memsys.drowsy.filter fun x => x != b,
      bankUse := (b, s.now) :: s.memsys.bankUse.filter fun x => x.1 != b } }

/-- The sharers of a line (R152). -/
def State.sharersOf (s : State) (line : Nat) : Sharers :=
  match s.memsys.sharers.find? fun x => x.line == line with
  | some x => x
  | none => { line := line, vector := 0, inval := 0, confirm := 0 }

/-- Replaces a line's sharers; a line with none is not listed. -/
def State.setSharers (s : State) (x : Sharers) : State :=
  let others := s.memsys.sharers.filter fun y => y.line != x.line
  { s with memsys := { s.memsys with
      sharers := if x.vector == 0 && x.inval == 0 && x.confirm == 0 then others else x :: others } }

/-- A new sharer of a line: an RDC by its die, or 4 for the IO die's prefetch buffer. -/
def State.share (s : State) (line n : Nat) : State :=
  let x := s.sharersOf line
  s.setSharers { x with vector := setBit x.vector n true }

/-- Are invalidations of a line outstanding (R152)? -/
def State.invalidating (s : State) (line : Nat) : Bool :=
  let x := s.sharersOf line
  x.inval != 0 || x.confirm != 0

/-- A sector's place in its line. -/
def sectorBit (sec : Nat) : BitVec 4 := BitVec.ofNat 4 (2 ^ sec)

/-- A sector read at its home: the L2 of an HBM4E line, then the MSC for what the L2 does not hold; an uncached access
passes through the MSC (R89, R150, R153). -/
def State.readAtHome (s : State) (pa : Nat) (slot : BitVec 10) (p : Policy) : State :=
  let line := lineOf pa
  let sec := pa / 32 % 4
  if !inHbm pa then s.mscRead pa slot p
  else
    let s1 := s.lineReady line none slot
    let held := s1.holdsSector line none sec
    let s2 := if held && !p.uncached then s1 else s1.mscRead pa slot p
    let s3 := s2.touchLine line none slot p (sectorBit sec) 0
    if (s3.lineAt line none).isSome then s3.useBank line none else s3

/-- The caches' part of a sector's read by an agent on a die: the die's RDC if the line is homed elsewhere, or the home
(R144, R150 to R153).  An RDC that takes the line becomes its sharer (R152). -/
def State.cacheRead (s : State) (die : Option (Fin 4)) (key : Nat) (slot : BitVec 10) (p : Policy) : State :=
  if !isMain key || s.remote key then s
  else
    let pa := s.canonPa key
    let line := lineOf pa
    let sec := pa / 32 % 4
    match die with
    | none => s.readAtHome pa slot p
    | some d =>
      if (inHbm pa && d.val == paBits pa 37 2) || p.uncached then s.readAtHome pa slot p
      else
        let s0 := s.lineReady line (some d) slot
        if s0.holdsSector line (some d) sec then (s0.touchLine line (some d) slot p 0 0).useBank line (some d)
        else
          let s1 := (s0.readAtHome pa slot p).touchLine line (some d) slot p (sectorBit sec) 0
          if (s1.lineAt line (some d)).isSome then (s1.useBank line (some d)).share line d.val else s1

/-- Has a sector of a block been written whole since the block was last read poisoned: at the MSC, or with its bytes still
gathered in the L2 (R87)? -/
def State.rewrittenAt (s : State) (block i : Nat) : Bool :=
  (match s.mscOf block with
   | some b => bitOn b.rewritten i
   | none => false) ||
  (match s.lineAt (4 * block + i / 4) none with
   | some l => sectorBits l.since (i % 4) == 2 ^ 32 - 1
   | none => false)

/-- A poisoned block all of whose sectors have been written since is clean, also while the L2 still holds some of them
(R87; log 123). -/
def State.cleanRewritten (s : State) (block : Nat) : State :=
  if s.poisoned (512 * block) && (List.range 16).all (s.rewrittenAt block) then
    let s1 := s.setDram { s.dramOf block with poison := false }
    { s1 with memsys := { s1.memsys with msc := mapIf s1.memsys.msc (fun b => b.block == block) fun b => { b with poison := false } } }
  else s

/-- A sector written at its home: the L2 of an HBM4E line takes the bytes, or the MSC where none is allocated; an uncached
write to a line that the L2 holds passes through both (R150, R153). -/
def State.writeAtHome (s : State) (pa : Nat) (mask : BitVec 32) (slot : BitVec 10) (p : Policy) : State :=
  let line := lineOf pa
  let sec := pa / 32 % 4
  let whole := mask == BitVec.allOnes 32
  let toMsc (t : State) : State := t.mscWrite pa slot p whole whole
  if !inHbm pa then toMsc s
  else
    let dirty : BitVec 128 := BitVec.ofNat 128 (mask.toNat * 2 ^ (32 * sec))
    let s1 := s.touchLine line none slot p (if whole then sectorBit sec else 0) dirty
    match s1.lineAt line none with
    | none => toMsc s1
    | some l => if p.uncached then (s1.useBank line none).drainSector l sec else s1.useBank line none

/-- The caches' part of a sector's write: at its home, whence every sharer is invalidated (R150 to R153). -/
def State.cacheWrite (s : State) (sec : Nat) (mask : BitVec 32) (slot : BitVec 10) (p : Policy) : State :=
  let key := sec * 32
  if !isMain key || s.remote key then s
  else
    let pa := s.canonPa key
    let s1 := (s.writeAtHome pa mask slot p).cleanRewritten (blockOf pa)
    let x := s1.sharersOf (lineOf pa)
    s1.setSharers { x with vector := 0, inval := x.inval ||| x.vector }

/-! ## Monitors (R335 to R337) -/

/-- Does a `waitcmp` condition hold (R335)? -/
def condHolds (c : BitVec 3) (x v : DWord) : Bool :=
  match c.toNat with
  | 0 => x == v
  | 1 => x != v
  | 2 => decide (v.toNat ≤ x.toNat)
  | 3 => decide (x.toNat < v.toNat)
  | 4 => decide (sx v.toNat 64 ≤ sx x.toNat 64)
  | 5 => decide (sx x.toNat 64 < sx v.toNat 64)
  | _ => decide ((x - v).toNat < 2 ^ 63)

/-- Is a monitor's condition met by memory: its word, or the generation of its barrier? -/
def State.monitorMet (s : State) (m : Monitor) : Bool :=
  if m.bar then (Memory.get s.mem (m.key + 15)).toNat != m.value.toNat
  else condHolds m.cond (BitVec.ofNat 64 (Memory.load s.mem m.key 8)) m.value

/-- Re-evaluates a monitor after a write to its word (R337): an entry that a write has satisfied is not recalled, and a
write that poisons the word wakes too (R336). -/
def State.evalMonitor (s : State) (m : Monitor) : Monitor :=
  if m.satisfied then m
  else if s.poisoned m.key then { m with satisfied := true, poison := true }
  else if s.monitorMet m then { m with satisfied := true }
  else m

/-- Does a write of n bytes touch the word of a monitor?  The S of a swapped-out group is saved: nothing writes it. -/
def Monitor.touched (m : Monitor) (key n : Nat) : Bool :=
  key < m.key + (if m.bar then 16 else 8) && m.key < key + n && !(m.away.isSome && isScratch m.key)

/-- Re-evaluates the monitors on the words that a write of n bytes touched (R337). -/
def State.evalMonitors (s : State) (key n : Nat) : State :=
  if s.monitors.isEmpty then s
  else { s with monitors := mapIf s.monitors (fun m => m.touched key n) s.evalMonitor }

/-! ## The one read and the one write -/

/-- n bytes of one sector read at the home of a place, and whether they are poisoned; a poisoned block starts to be
rewritten anew (R87). -/
def State.homeRead (s : State) (die : Option (Fin 4)) (key n : Nat) (slot : BitVec 10) (p : Policy) :
    List Byte × Bool × State :=
  let s1 := s.cacheRead die key slot p
  let bad := s1.poisoned key
  (s1.readKey slot key n, bad, if bad && isMain key then s1.readPoisoned (blockOf key) else s1)

/-- The sectors that n bytes at a key touch, each with the bytes of it. -/
def sectorMasks (key n : Nat) : List (Nat × BitVec 32) :=
  (List.range ((key % 32 + n + 31) / 32)).map fun i =>
    let sec := key / 32 + i
    (sec, maskOf 32 fun j => decide (key ≤ sec * 32 + j) && decide (sec * 32 + j < key + n))

/-- A sector of scratch or scale memory that is written whole is clean again (R86). -/
def State.cleanSector (s : State) (sec : Nat) (mask : BitVec 32) : State :=
  if isMain (sec * 32) || mask != BitVec.allOnes 32 then s
  else
    { s with memsys := { s.memsys with
        poisonedSectors := s.memsys.poisonedSectors.filter fun x => x != sec } }

/-- The bytes of a mask written in one sector at its home, as one step (R92, R143); `bs` are the sector's 32 bytes
afterwards. -/
def State.homeSector (s : State) (sec : Nat) (mask : BitVec 32) (bs : List Byte) (slot : BitVec 10) (p : Policy) : State :=
  ((s.cacheWrite sec mask slot p).cleanSector sec mask).writeKey slot (sec * 32) bs

/-- A byte string put down at the home of a place, each sector whole (R92); a poisoned block is merged and kept (R87). -/
def State.homePut (s : State) (key : Nat) (bs : List Byte) (slot : BitVec 10) (p : Policy) : State :=
  let s1 := (sectorMasks key bs.length).foldl (fun t x => (t.cacheWrite x.1 x.2 slot p).cleanSector x.1 x.2) s
  s1.writeKey slot key bs

/-- A byte string written at the home of a place by any agent; monitors are re-evaluated (R337). -/
def State.homeWrite (s : State) (key : Nat) (bs : List Byte) (slot : BitVec 10) (p : Policy) : State :=
  (s.homePut key bs slot p).evalMonitors key bs.length

/-- A write of n poisoned bytes by an engine (R86): the block is poisoned where it is held. -/
def State.poisonWrite (s : State) (key n : Nat) : State :=
  let block := blockOf key
  let s1 : State :=
    if isMain key then
      let s0 :=
        match s.mscOf block with
        | some b => s.setMsc { b with poison := true, dirty := true }
        | none => s.setDram { s.dramOf block with poison := true }
      s0.readPoisoned block
    else
      { s with memsys := { s.memsys with
          poisonedSectors := distinct (sectorOf key :: sectorOf (key + n - 1) :: s.memsys.poisonedSectors) } }
  s1.evalMonitors key n

/-- A record or table that the device reads for itself passes through the MSC (R89). -/
def State.readThrough (s : State) (key n : Nat) : State :=
  (sectorMasks key n).foldl (fun t x => t.cacheRead none (x.1 * 32) 0 Policy.plain) s

/-- Enters an unreachable access in the error log; over which of the 36 ports it went is a free value (R136; log 104). -/
def State.logUnreachable (s : State) (key : Nat) : State :=
  if s.remote key then
    let (x, t) := s.draw
    t.logError (.unreachable key (some (x % 36, packageOf (s.canonPa key) - 1)))
  else s.logError (.unreachable key none)

/-! ## The host's reads (R131, R152) -/

/-- The bytes of one line read by the host through the IO die's read-prefetch buffer, which holds every line it has read
until it is invalidated (log 12). -/
def State.hostLine (s : State) (pa n : Nat) : List Byte × State :=
  let line := lineOf pa
  if s.memsys.prefetched.contains line then (s.readKey 0 pa n, s)
  else
    let s1 := (List.range 4).foldl (fun t i => t.cacheRead none (line * 128 + 32 * i) 0 Policy.plain) s
    (s1.readKey 0 pa n, ({ s1 with memsys := { s1.memsys with prefetched := line :: s1.memsys.prefetched } } : State).share line 4)

end Sys2Proof.Machine
end

