-- ==== Sys2Proof/Machine/Records.lean ====
section
/-!
DEFINITION. The device's own records: the farrier counters and error logs, the trace stream (R438), the host fault queue
(R435) and the page-fault and stop reports that go into it.
-/

namespace Sys2Proof.Machine

open Sys2Proof

/-- A ring size of a LOG field (Table 15.1): 4 to 16, other values disable the ring. -/
def ringSize (size : DWord) : Option Nat :=
  let l := fld size 0 5
  if 4 ≤ l ∧ l ≤ 16 then some (2 ^ l) else none

/-- The memory key of an address coded as QBASE (Table 15.1): bit 63 means a host bus address. -/
def codedKey (a : DWord) : Nat := if bitOn a 63 then hostKey a.toNat else a.toNat

/-- A byte string written to an address coded as QBASE: device memory under key slot 0 (log 10), host memory through the
ordering point (R132). -/
def State.writeCoded (s : State) (a : DWord) (off : Nat) (bs : List Byte) : State :=
  if bitOn a 63 then
    let (id, s1) := s.newId
    { s1 with host := { s1.host with devWrites := s1.host.devWrites ++ [{ id := id, key := codedKey a + off, data := bs }] } }
  else s.homeWrite (a.toNat + off) bs 0 Policy.plain

/-- Bytes read at an address coded as QBASE. -/
def State.readCoded (s : State) (a : DWord) (off n : Nat) : List Byte := s.readKey 0 (codedKey a + off) n

/-- Places reports that wait at the Groom core into the fault queue, while it has room (R435). -/
def State.placeReports (s : State) (rs : List (BitVec 512)) : State :=
  match rs with
  | [] => { s with host := { s.host with reports := [] } }
  | r :: t =>
    let b := s.host.bar0
    match ringSize b.fqsize with
    | none => { s with host := { s.host with reports := r :: t } }
    | some n =>
      if (b.fqhead.toNat + 1) % n = b.fqtail.toNat then { s with host := { s.host with reports := r :: t } }
      else
        let s1 := s.writeCoded b.fqbase (64 * b.fqhead.toNat) (bytesLE 64 r.toNat)
        let s2 : State :=
          { s1 with host := { s1.host with bar0 := { s1.host.bar0 with fqhead := BitVec.ofNat 64 ((b.fqhead.toNat + 1) % n) } } }
        s2.placeReports t

/-- Gives the Groom core a report for the host fault queue. -/
def State.report (s : State) (r : BitVec 512) : State := s.placeReports (s.host.reports ++ [r])

/-- A page-fault report (Table 5.8) as a fault-queue entry of kind 1. -/
def pageFaultReport (va : DWord) (asid : BitVec 10) (kind : BitVec 2) (id : SpanId) (walk : BitVec 16) (now : DWord)
    (joined : Nat) : BitVec 512 :=
  let body := va.toNat % 2 ^ 48 + asid.toNat * 2 ^ 48 + kind.toNat * 2 ^ 58 + id.core.toNat * 2 ^ 64 +
    id.slot.toNat * 2 ^ 74 + walk.toNat * 2 ^ 80 + now.toNat * 2 ^ 128 + joined % 2 ^ 32 * 2 ^ 192
  BitVec.ofNat 512 (1 + body * 2 ^ 256)

/-- A stop report as a fault-queue entry of kind 2: the box number, and CAUSE, AGE, TINFO and TPC in bytes 32 to 63 in
the places that log 11 gives. -/
def stopReport (die : Fin 4) (box : BitVec 12) (cause : BitVec 4) (age : BitVec 96) (tinfo tpc : DWord) : BitVec 512 :=
  BitVec.ofNat 512 (2 + (die.val * 4096 + box.toNat) * 2 ^ 8 + (cause.toNat + age.toNat * 2 ^ 32 + tinfo.toNat * 2 ^ 128 +
    tpc.toNat * 2 ^ 192) * 2 ^ 256)

/-- Appends a trace record of a kind with its DATA (R438): a full ring drops it and counts it; without a ring nothing
happens. -/
def State.trace (s : State) (kind : Nat) (data : Nat) : State :=
  let b := s.host.bar0
  match ringSize b.trsize with
  | none => s
  | some n =>
    if (b.trhead.toNat + 1) % n = b.trtail.toNat then
      { s with host := { s.host with bar0 := { b with trdrop := b.trdrop + 1 } } }
    else
      let r := s.now.toNat + kind * 2 ^ 64 + s.fabric.pkg.toNat * 2 ^ 72 + data * 2 ^ 128
      let s1 := s.writeCoded b.trbase (64 * b.trhead.toNat) (bytesLE 64 r)
      { s1 with host := { s1.host with bar0 := { b with trhead := BitVec.ofNat 64 ((b.trhead.toNat + 1) % n) } } }

/-- SPANID of a span (Table 13.9). -/
def State.spanIdWord (s : State) (p : Span) (g : Group) : DWord :=
  BitVec.ofNat 64 (p.id.core.toNat + p.id.slot.toNat * 2 ^ 10 + p.rank % 64 * 2 ^ 16 + g.bindRec.nspan.toNat * 2 ^ 22 +
    s.fabric.pkg.toNat * 2 ^ 32)

/-- Is tracing on for the focused group's launch (R419)? -/
def State.traced (s : State) : Bool :=
  match s.launchOf with
  | some l => l.trace
  | none => false

end Sys2Proof.Machine
end

