-- ==== Sys2Proof/Machine/Access.lean ====
section
/-!
DEFINITION. From a segment and an offset to a place in memory: segments (Tables 5.1 to 5.3), translation (R158 to R161),
backing and keys (R82, R97, R133), the checks of R142 in their order, and parking on an absent page (R162).
-/

namespace Sys2Proof.Machine

open Sys2Proof

/-! ## Segments -/

/-- BASE. -/
def Seg.baseOf (g : Seg) : Nat := fld g.base 0 48
/-- ASID. -/
def Seg.asid (g : Seg) : BitVec 10 := BitVec.ofNat 10 (fld g.base 48 10)
/-- LIMIT. -/
def Seg.limit (g : Seg) : Nat := fld g.lim 0 49
/-- CPOL. -/
def Seg.cpol (g : Seg) : Nat := fld g.lim 51 2
/-- VALID; a segment whose CPOL is 3 behaves as if VALID were 0 (R138). -/
def Seg.valid (g : Seg) : Bool := bitOn g.lim 53 && g.cpol != 3
/-- CHECKED. -/
def Seg.checked (g : Seg) : Bool := bitOn g.lim 50
/-- RDONLY, which segment K always has (R138). -/
def Seg.rdonly (g : Seg) (k : Nat) : Bool := bitOn g.lim 49 || k == 4

/-- Is a segment translated (Table 5.3)? -/
def translated (k : Nat) : Bool := k == 0 || k == 1 || k == 4 || k == 7

/-- The space condition of Table 5.3 for a span of a core. -/
def spaceOk (k : Nat) (core : CoreId) (a : Nat) : Bool :=
  match k with
  | 2 => a < 0x80000
  | 3 => a < 2 ^ 29 && (a / 2 ^ 19) / 48 == clusterOf core && a / 2 ^ 19 < 768
  | 5 => a < 0x8000
  | 6 => a < 0x100
  | _ => a < 2 ^ 48

/-! ## Translation -/

/-- Why a translation gives no place: an absent page, a fault that cannot be recovered, or a walk that has not ended. -/
inductive WalkFault where
  | absent
  | violation
  | walking
  deriving DecidableEq, Repr

/-- How an access uses a page (Table 5.8, KIND). -/
inductive Use where
  | read
  | write
  | fetch
  | atomic
  deriving DecidableEq, Repr

/-- KIND. -/
def Use.kind (u : Use) : BitVec 2 :=
  match u with
  | .read => 0
  | .write => 1
  | .fetch => 2
  | .atomic => 3

/-- Does the use write? -/
def Use.writes (u : Use) : Bool := u == .write || u == .atomic

/-- The levels of the page tables below a table (Table 5.5): the index's low bit and width, and whether a leaf may stand
there. -/
def walkLevels : List (Nat × Nat × Bool) := [(38, 10, false), (29, 9, true), (21, 8, true), (16, 5, true)]

/-- A walk from a table through the remaining levels (R158, R159): the leaf entry and the page's size in bits.  A table
whose address is unbacked is a violation (R82; log 99). -/
def State.walkFrom (s : State) (table va : Nat) (levels : List (Nat × Nat × Bool)) : Except WalkFault (DWord × Nat) :=
  match levels with
  | [] => .error .violation
  | (lo, w, leafOk) :: rest =>
    let e : DWord := BitVec.ofNat 64 (Memory.load s.mem (s.canonPa table + 8 * (va / 2 ^ lo % 2 ^ w)) 8)
    if !s.backed table then .error .violation
    else if !bitOn e 0 then .error .absent
    else if bitOn e 1 then
      if !leafOk || fld e 27 37 * 2 ^ 12 % 2 ^ lo != 0 then .error .violation else .ok (e, lo)
    else s.walkFrom (fld e 27 37 * 2 ^ 12) va rest

/-- The ASID table's entry of an ASID (Table 5.7). -/
def State.asidEntry (s : State) (asid : BitVec 10) : DWord :=
  BitVec.ofNat 64 (Memory.load s.mem (s.canonPa (s.memsys.asidBase + 8 * asid.toNat)) 8)

/-- The walk of a virtual address in an ASID (R158). -/
def State.walk (s : State) (asid : BitVec 10) (va : Nat) : Except WalkFault (DWord × Nat) :=
  let e := s.asidEntry asid
  if !bitOn e 0 then .error .violation else s.walkFrom (fld e 13 36 * 2 ^ 13) va walkLevels

/-- The die of a core as the translation caches number it. -/
def walkDie (core : CoreId) : Fin 4 := ⟨dieOf core % 4, Nat.mod_lt _ (by decide)⟩

/-- A translation in a core's TLB (R160). -/
def State.inTlb (s : State) (core : CoreId) (asid : BitVec 10) (va : Nat) : Option Trans :=
  s.memsys.trans.find? fun t => t.asid = asid && t.vpn == va / 2 ^ t.bits && t.core = some core

/-- A translation in a die's shared cache (R160). -/
def State.inDie (s : State) (die : Fin 4) (asid : BitVec 10) (va : Nat) : Option Trans :=
  s.memsys.trans.find? fun t => t.asid = asid && t.vpn == va / 2 ^ t.bits && t.core.isNone && t.die = die

/-- A cached translation of a core's TLB or of its die. -/
def State.cached (s : State) (core : CoreId) (asid : BitVec 10) (va : Nat) : Option (DWord × Nat) :=
  match s.inTlb core asid va <|> s.inDie (walkDie core) asid va with
  | some t => some (t.entry, t.bits)
  | none => none

/-- Does an open walk resolve the page of an address, or has it met an absent entry that covers it (R161)? -/
def Walk.covers (w : Walk) (die : Fin 4) (asid : BitVec 10) (va : Nat) : Bool :=
  w.die = die && w.asid = asid &&
    (match w.absent with
     | some b => w.va.toNat / 2 ^ b == va / 2 ^ b
     | none => w.va.toNat / 2 ^ 16 == va / 2 ^ 16)

/-- The open walk that a miss joins. -/
def State.openWalk (s : State) (die : Fin 4) (asid : BitVec 10) (va : Nat) : Option Walk :=
  s.memsys.walks.find? fun w => w.covers die asid va

/-- The leaf that a span's access uses: a cached one, or none while its walk has not ended (R161).  A walk that would meet
a violation is not waited for. -/
def State.leafOf (s : State) (core : CoreId) (asid : BitVec 10) (va : Nat) : Except WalkFault (DWord × Nat) :=
  match s.cached core asid va, s.openWalk (walkDie core) asid va with
  | some e, _ => .ok e
  | none, some w => .error (if w.absent.isSome then .absent else .walking)
  | none, none =>
    match s.walk asid va with
    | .error .violation => .error .violation
    | _ => .error .walking

/-- The leaf that other agents use: the walk of an engine, of the Preic and of the dispatch hardware ends in the step that
needs it (log 100). -/
def State.leafNow (s : State) (core : CoreId) (asid : BitVec 10) (va : Nat) : Except WalkFault (DWord × Nat) :=
  match s.cached core asid va, s.openWalk (walkDie core) asid va with
  | some e, _ => .ok e
  | none, some w => if w.absent.isSome then .error .absent else s.walk asid va
  | none, none => s.walk asid va

/-- Where one access lands. -/
structure Place where
  lane : Nat
  off  : Nat
  /-- Virtual address, or the address in the segment's space. -/
  va   : DWord
  /-- Memory key of the first byte. -/
  key  : Nat
  /-- Key slot (R96). -/
  slot : BitVec 10
  chain : BitVec 12
  /-- Uncached by its page (R153). -/
  uc   : Bool
  /-- Its page is not writable (R145). -/
  ro   : Bool
  deriving DecidableEq, Repr

/-- The place of a virtual address under a leaf for a use (R159, R97), or the fault. -/
def State.placeOf (s : State) (leaf : Except WalkFault (DWord × Nat)) (va : Nat) (u : Use) : Except WalkFault Place :=
  if 2 ^ 48 ≤ va then .error .violation
  else
    match leaf with
    | .error f => .error f
    | .ok (e, bits) =>
      let pa := fld e 27 37 * 2 ^ 12 + va % 2 ^ bits
      let slot : BitVec 10 := BitVec.ofNat 10 (fld e 17 10)
      if !s.backed pa || (u.writes && !bitOn e 2) || (u == .fetch && !bitOn e 3) || (s.keyFor slot pa).isNone then
        .error .violation
      else
        .ok { lane := 0, off := 0, va := BitVec.ofNat 64 va, key := s.canonPa pa, slot := slot,
              chain := BitVec.ofNat 12 (fld e 5 12), uc := bitOn e 4, ro := !bitOn e 2 }

/-- The translation of a span's access. -/
def State.translate (s : State) (core : CoreId) (asid : BitVec 10) (va : Nat) (u : Use) : Except WalkFault Place :=
  s.placeOf (s.leafOf core asid va) va u

/-- The translation of another agent's access. -/
def State.translateNow (s : State) (core : CoreId) (asid : BitVec 10) (va : Nat) (u : Use) : Except WalkFault Place :=
  s.placeOf (s.leafNow core asid va) va u

/-- Enters a translation into a core's TLB, or into its die's cache, most recent first (R160). -/
def State.keepTrans (s : State) (t : Trans) : State :=
  let mine (x : Trans) : Bool := x.core == t.core && (t.core.isSome || x.die == t.die)
  let room := if t.core.isSome then 1023 else 16383
  { s with memsys := { s.memsys with
      trans := t :: (s.memsys.trans.filter mine).take room ++ s.memsys.trans.filter fun x => !mine x } }

/-- Reads the entries of a walk's tables through their homes (R89): those of the ASID and of each level reached. -/
def State.readLevels (s : State) (table va : Nat) (levels : List (Nat × Nat × Bool)) : State :=
  match levels with
  | [] => s
  | (lo, w, _) :: rest =>
    let at_ := s.canonPa table + 8 * (va / 2 ^ lo % 2 ^ w)
    let e : DWord := BitVec.ofNat 64 (Memory.load s.mem at_ 8)
    if !s.backed table then s
    else
      let s1 := s.readThrough at_ 8
      if !bitOn e 0 || bitOn e 1 then s1 else s1.readLevels (fld e 27 37 * 2 ^ 12) va rest

/-- Reads what a walk reads. -/
def State.readTables (s : State) (asid : BitVec 10) (va : Nat) : State :=
  let e := s.asidEntry asid
  let s1 := s.readThrough (s.memsys.asidBase + 8 * asid.toNat) 8
  if bitOn e 0 then s1.readLevels (fld e 13 36 * 2 ^ 13) va walkLevels else s1

/-- Enters a translation that was used into the core's TLB, from its die's cache or from a walk that also fills that cache
(R160). -/
def State.fillTrans (s : State) (core : CoreId) (asid : BitVec 10) (va : Nat) : State :=
  match s.inTlb core asid va, s.inDie (walkDie core) asid va with
  | some _, _ => s
  | none, some t => s.keepTrans { t with core := some core }
  | none, none =>
    match s.walk asid va with
    | .ok (e, bits) =>
      let t : Trans := { core := none, die := walkDie core, asid := asid, vpn := va / 2 ^ bits, bits := bits, entry := e }
      ((s.readTables asid va).keepTrans t).keepTrans { t with core := some core }
    | .error _ => s

/-- A miss takes or joins a walk, which waits for a walker in order of arrival (R161). -/
def State.startWalk (s : State) (core : CoreId) (asid : BitVec 10) (va : DWord) (kind : BitVec 2) : State :=
  if (s.openWalk (walkDie core) asid va.toNat).isSome then s
  else
    let w : Walk :=
      { id := s.memsys.nextWalk, die := walkDie core, asid := asid, va := va, kind := kind, absent := none, joined := 0 }
    { s with memsys := { s.memsys with walks := s.memsys.walks ++ [w], nextWalk := s.memsys.nextWalk + 1 } }

/-! ## The checks of R142 -/

/-- The first failing check of one lane. -/
inductive Check where
  | ok (p : Place)
  | misaligned
  | limit
  | violation
  /-- A fault of translation that cannot be recovered (check 4). -/
  | walkViolation
  | absent
  /-- The page's walk has not ended. -/
  | walking
  deriving DecidableEq, Repr

/-- The checks of one access of `size` bytes at an offset of a segment, for a span of a core (R142), under a way to
translate. -/
def Seg.check (g : Seg) (tr : Nat → Use → Except WalkFault Place) (core : CoreId) (k : Nat) (u : Use)
    (lane off size : Nat) : Check :=
  let a := g.baseOf + off
  if a % size != 0 then .misaligned
  else if g.limit < off + size then .limit
  else if !g.valid || !spaceOk k core a || (u.writes && g.rdonly k) then .violation
  else if translated k then
    match tr a u with
    | .ok p => .ok { p with lane := lane, off := off }
    | .error .violation => .walkViolation
    | .error .absent => .absent
    | .error .walking => .walking
  else
    let key :=
      match k with
      | 2 => scratchKey core a
      | 3 => scratchKey (BitVec.ofNat 10 (a / 2 ^ 19)) (a % 2 ^ 19)
      | _ => scaleKey core a
    .ok { lane := lane, off := off, va := BitVec.ofNat 64 a, key := key, slot := 0, chain := 0, uc := false, ro := false }

/-- The checks of a span's access. -/
def State.checkOne (s : State) (core : CoreId) (g : Seg) (k : Nat) (u : Use) (lane off size : Nat) : Check :=
  g.check (s.translate core g.asid) core k u lane off size

/-- The checks of another agent's access. -/
def State.checkNow (s : State) (core : CoreId) (g : Seg) (k : Nat) (u : Use) (lane off size : Nat) : Check :=
  g.check (s.translateNow core g.asid) core k u lane off size

/-- What the checks of an instruction's lanes come to. -/
inductive Checked where
  | ok (ps : List Place)
  | trap (t : TrapInfo)
  /-- Absent pages: the lowest such lane's address. -/
  | absent (va : DWord)
  /-- Addresses whose walks have not ended. -/
  | walking (vas : List Nat)
  deriving DecidableEq, Repr

/-- The lanes of the results that satisfy p. -/
def lanesWhere (rs : List (Nat × Nat × Check)) (p : Check → Bool) : List (Nat × Nat) :=
  (rs.filter fun r => p r.2.2).map fun r => (r.1, r.2.1)

/-- A trap for the lanes that failed one check, with the address of the lowest of them (R142). -/
def State.laneTrap (s : State) (code : Nat) (base : Nat) (whole : Bool) (ls : List (Nat × Nat)) : Option TrapInfo :=
  match ls with
  | [] => none
  | (_, off) :: _ =>
    some { s.trapOf code 0 with
      addr := BitVec.ofNat 64 (base + off),
      lanes := if whole then s.enabled else maskOf 32 fun i => ls.any fun l => l.1 == i }

/-- The earliest-numbered check that fails in any lane decides (R142).  `whole` reports the gang's lanes, for accesses
made once per issue (R167). -/
def State.judge (s : State) (k : Nat) (whole : Bool) (rs : List (Nat × Nat × Check)) : Checked :=
  let g := vecAt s.seenSegs k Seg.invalid
  let failed (code : Nat) (c : Check) : Option TrapInfo :=
    s.laneTrap code g.baseOf whole (lanesWhere rs fun x => x == c)
  match failed 6 .misaligned with
  | some t => .trap t
  | none =>
  match failed 4 .limit with
  | some t => .trap t
  | none =>
  match failed 8 .violation with
  | some t => .trap t
  | none =>
  match lanesWhere rs fun x => x == .walking with
  | w :: ws => .walking ((w :: ws).map fun x => g.baseOf + x.2)
  | [] =>
  match failed 8 .walkViolation with
  | some t => .trap t
  | none =>
  match failed 8 .absent with
  | some t =>
    match s.gangWait with
    | some (.parkFailed _) => .trap t
    | _ => .absent t.addr
  | none => .ok (rs.filterMap fun r =>
      match r.2.2 with
      | .ok p => some p
      | _ => none)

/-- The checks of accesses of one size, one for each lane. -/
def State.checkLanes (s : State) (k : Nat) (u : Use) (size : Nat) (whole : Bool) (ls : List (Nat × Nat)) : Checked :=
  let g := vecAt s.seenSegs k Seg.invalid
  s.judge k whole (ls.map fun l => (l.1, l.2, s.checkOne s.sp.id.core g k u l.1 l.2 size))

/-- Fills the translation caches for the addresses an instruction used. -/
def State.fillFor (s : State) (k : Nat) (ps : List Place) : State :=
  if translated k then
    let g := vecAt s.seenSegs k Seg.invalid
    ps.foldl (fun t p => t.fillTrans t.sp.id.core g.asid p.va.toNat) s
  else s

/-! ## Parking (R161, R162) -/

/-- The size in bits of the range that the absent entry met by a walk covers. -/
def State.absentBits (s : State) (table va : Nat) (levels : List (Nat × Nat × Bool)) : Nat :=
  match levels with
  | [] => 16
  | (lo, w, _) :: rest =>
    let e : DWord := BitVec.ofNat 64 (Memory.load s.mem (s.canonPa table + 8 * (va / 2 ^ lo % 2 ^ w)) 8)
    if !bitOn e 0 then lo else s.absentBits (fld e 27 37 * 2 ^ 12) va rest

/-- The range of the absent entry for an address. -/
def State.absentRange (s : State) (asid : BitVec 10) (va : Nat) : Nat :=
  s.absentBits (fld (s.asidEntry asid) 13 36 * 2 ^ 13) va walkLevels

/-- The open walk that an access to an absent page joins, or a new one (R161); with the joined count. -/
def State.joinWalk (s : State) (core : CoreId) (asid : BitVec 10) (va : DWord) (kind : BitVec 2) :
    BitVec 16 × Nat × State :=
  match s.openWalk (walkDie core) asid va.toNat with
  | some w =>
    (w.id, w.joined + 1,
      { s with memsys := { s.memsys with
          walks := mapIf s.memsys.walks (fun x => x.id = w.id) fun x => { x with joined := x.joined + 1 } } })
  | none =>
    let id := s.memsys.nextWalk
    let w : Walk := { id := id, die := walkDie core, asid := asid, va := va, kind := kind,
                      absent := some (s.absentRange asid va.toNat), joined := 1 }
    (id, 1, { s with memsys := { s.memsys with walks := s.memsys.walks ++ [w], nextWalk := id + 1 } })

/-- Parks the span on an absent page met by the issuing gang and reports it (R162): none of its gangs issues until the
host has answered. -/
def State.park (s : State) (asid : BitVec 10) (va : DWord) (kind : BitVec 2) : State :=
  let (id, joined, s1) := s.joinWalk s.sp.id.core asid va kind
  let s2 := s1.report (pageFaultReport va asid kind s.sp.id id s.now joined)
  let s3 := s2.setWait s.issue.gang (some (.parked id va kind))
  { s3 with issue := { s3.issue with blocked := true } }

/-- Goes on with the places of accesses that passed their checks. -/
def State.whenChecked (s : State) (k : Nat) (u : Use) (c : Checked) (go : List Place → State) : State :=
  match c with
  | .trap t => s.raise t
  | .absent va => s.park (vecAt s.seenSegs k Seg.invalid).asid va u.kind
  | .walking vas =>
    (vas.foldl (fun t va => t.startWalk t.sp.id.core (vecAt s.seenSegs k Seg.invalid).asid (BitVec.ofNat 64 va) u.kind) s).stall
  | .ok ps => go ps

/-- Runs the checks of an instruction's lanes and goes on with the places. -/
def State.withPlaces (s : State) (k : Nat) (u : Use) (size : Nat) (whole : Bool) (ls : List (Nat × Nat))
    (go : List Place → State) : State :=
  s.whenChecked k u (s.checkLanes k u size whole ls) go

/-- A piece of a row: its byte offset in the rows laid end to end, its segment offset, and its length. -/
structure Piece where
  at_ : Nat
  off : Nat
  len : Nat
  deriving DecidableEq, Repr

/-- Cuts n bytes at an address into pieces that lie in one 32-byte sector each; `fuel` bounds their number. -/
def cutSectors (base fuel at_ off n : Nat) : List Piece :=
  match fuel with
  | 0 => []
  | k + 1 =>
    if n = 0 then []
    else
      let m := min n (32 - (base + off) % 32)
      { at_ := at_, off := off, len := m } :: cutSectors base k (at_ + m) (off + m) (n - m)

/-- The pieces of rows of n bytes at the given offsets of a segment. -/
def rowPieces (g : Seg) (n : Nat) (starts : List Nat) : List Piece :=
  (List.range starts.length).flatMap fun r => cutSectors g.baseOf (n / 32 + 2) (r * n) (listAt starts r 0) n

/-- The checks over row ranges: row starts are multiples of 8 (R295, R306). -/
def State.checkRows (s : State) (k : Nat) (u : Use) (n : Nat) (starts : List Nat) : Checked :=
  let g := vecAt s.seenSegs k Seg.invalid
  let bad := starts.filter fun x => (g.baseOf + x) % 8 != 0
  let rs : List (Nat × Nat × Check) := (rowPieces g n starts).map fun p =>
    (p.at_, p.off, if g.limit < p.off + p.len then .limit else s.checkOne s.sp.id.core g k u p.at_ p.off 1)
  s.judge k true (bad.map (fun x => (0, x, Check.misaligned)) ++ rs)

end Sys2Proof.Machine
end

