-- ==== Sys2Proof/Machine/L1.lean ====
section
/-!
DEFINITION. The L1 data cache of a core (R145 to R149, R153, R155): lines of four sectors in 8 ways, hits by kind and
region, fills, stores and invalidations; and the instruction cache (R24).
-/

namespace Sys2Proof.Machine

open Sys2Proof

/-- Sets of the L1: 128 KiB in lines of 128 bytes and 8 ways (R145). -/
def l1Sets : Nat := 128

/-- A valid sector of the L1. -/
def Core.l1Sector (c : Core) (sec : Nat) : Option L1Sector :=
  (c.l1.find? fun l => l.line == sec / 4).bind fun l => l.secs.find? fun x => x.sector == sec

/-- Keeps the sectors that satisfy p; a line without sectors holds no way. -/
def Core.l1Keep (c : Core) (p : L1Sector → Bool) : Core :=
  { c with l1 := (c.l1.map fun l => { l with secs := l.secs.filter p }).filter fun l => !l.secs.isEmpty }

/-- Changes the sectors that satisfy p. -/
def Core.l1Map (c : Core) (p : L1Sector → Bool) (f : L1Sector → L1Sector) : Core :=
  { c with l1 := c.l1.map fun l => { l with secs := mapIf l.secs p f } }

/-- A hit for a load of words of a sector by a span's region (R146): a checked load hits only words that the home has
recorded for the region. -/
def Core.l1Hit (c : Core) (slot : BitVec 6) (r : RegionId) (sec : Nat) (words : BitVec 8) (checked : Bool) :
    Option L1Sector :=
  match c.l1Sector sec with
  | none => none
  | some x =>
    if x.kind == .readOnly || (x.kind == .region slot r && (!checked || words &&& ~~~x.words == 0)) then some x else none

/-- A line that is used becomes the most recent one. -/
def Core.l1Touch (c : Core) (line : Nat) : Core :=
  { c with l1 := (c.l1.filter fun l => l.line == line) ++ c.l1.filter fun l => l.line != line }

/-- A sector joins a line; words recorded for the same region add up. -/
def L1Line.put (l : L1Line) (x : L1Sector) : L1Line :=
  let words :=
    match l.secs.find? fun y => y.sector == x.sector with
    | some y => if y.kind == x.kind then y.words ||| x.words else x.words
    | none => x.words
  { l with secs := { x with words := words } :: l.secs.filter fun y => y.sector != x.sector }

/-- Fills a sector (R145, R146): into its line, or into a new one that takes the place of the least recently used line of
its set.  The set is the line number modulo 128, a choice of the model (log 12); `least` allocates as least recent
(Table 5.4). -/
def Core.l1Fill (c : Core) (x : L1Sector) (least : Bool) : Core :=
  let line := x.sector / 4
  if c.l1.any fun l => l.line == line then { c with l1 := mapIf c.l1 (fun l => l.line == line) fun l => l.put x }
  else
    let set := c.l1.filter fun l => l.line % l1Sets == line % l1Sets
    let victim := if set.length < 8 then none else set.getLast?
    let kept :=
      match victim with
      | some v => c.l1.filter fun l => l.line != v.line
      | none => c.l1
    let l : L1Line := { line := line, secs := [x] }
    { c with l1 := if least then kept ++ [l] else l :: kept }

/-- A store's effect on its core's L1: a copy tagged with its own region takes the bytes, any other copy of the sector
is invalidated (R147). -/
def Core.l1Store (c : Core) (slot : BitVec 6) (r : RegionId) (key : Nat) (bs : List Byte) : Core :=
  let mine (x : L1Sector) : Bool := x.sector == sectorOf key
  let put (x : L1Sector) : L1Sector :=
    let old := bytesLE 32 x.data.toNat
    let at_ := key % 32
    { x with data := BitVec.ofNat 256 (leOf ((List.range 32).map fun i =>
        if at_ ≤ i && i < at_ + bs.length then listAt bs (i - at_) 0 else listAt old i 0)) }
  (c.l1Keep fun x => !mine x || x.kind == .region slot r).l1Map mine put

/-- Lines of 128 bytes that the instruction cache of 64 KiB holds (R24; log 12). -/
def icacheLines : Nat := 512

/-- A fetch uses a line of the instruction cache; a miss brings it in and displaces the least recently used one. -/
def Core.icacheUse (c : Core) (line : Nat) : Core :=
  { c with icache := (line :: c.icache.filter fun x => x != line).take icacheLines }

end Sys2Proof.Machine
end

