-- ==== Sys2Proof/Machine/Regions.lean ====
section
/-!
DEFINITION. Regions and the access records at the homes (R357 to R364, R375, R470): ending and closing a region, and the
test and record of Table 12.3.
-/

namespace Sys2Proof.Machine

open Sys2Proof

/-- A region identifier of a span and path (Table 12.4). -/
def State.regionId (s : State) (p : Span) (path : BitVec 3) (seq : BitVec 21) : RegionId :=
  { pkg := s.fabric.pkg, core := p.id.core, slot := p.id.slot, path := path, seq := seq }

/-- The identifier as a number (Table 12.4). -/
def regionBits (r : RegionId) : BitVec 48 :=
  BitVec.ofNat 48 (r.pkg.toNat + r.core.toNat * 2 ^ 8 + r.slot.toNat * 2 ^ 18 + r.path.toNat * 2 ^ 24 +
    r.seq.toNat * 2 ^ 27)

/-- The current region of the focused span on its own path. -/
def State.region (s : State) : RegionId := s.regionId s.sp 0 (vecAt s.sp.regSeq 0 0)

/-- Enters a region into the span's closing order, if it is not there yet (R358). -/
def Span.note (p : Span) (r : RegionId) : Span :=
  if p.regions.any fun x => x.id = r then p
  else { p with regions := p.regions ++ [{ id := r, ended := false, reduced := [] }] }

/-- The arithmetic cycles of R357's limit, in nanoseconds of the timebase. -/
def regionLimitNs : Nat := 69720

/-- A span's current region ends and its next one begins (R357). -/
def Span.endRegion (p : Span) (r : RegionId) (now : DWord) : Span :=
  { p with regions := mapIf p.regions (fun x => x.id = r) fun x => { x with ended := true }
           regSeq := vecPut p.regSeq 0 (vecAt p.regSeq 0 0 + 1), regStart := now, regSectors := 0, ending := false }

/-- The L1 drops the sectors tagged with a region of a span (R147). -/
def Core.dropRegion (c : Core) (slot : BitVec 6) (r : RegionId) : Core := c.l1Keep fun x => x.kind != .region slot r

/-- Ends the focused span's current region: a new one begins, and the L1 drops the sectors tagged with it (R147, R357). -/
def State.endRegion (s : State) : State :=
  { s with sp := s.sp.endRegion s.region s.now, core := s.core.dropRegion s.sp.id.slot s.region }

/-- The same for any span. -/
def State.endRegionOf (s : State) (id : SpanId) : State :=
  match s.spanOf id with
  | none => s
  | some p =>
    let r := s.regionId p 0 (vecAt p.regSeq 0 0)
    (s.updSpan id fun q => q.endRegion r s.now).updCore id.core fun c => c.dropRegion id.slot r

/-- A new region of an engine path of the focused span, placed after the current one in the closing order (R190, R358). -/
def State.newEngineRegion (s : State) (path : BitVec 3) : RegionId × State :=
  let seq := vecAt s.sp.regSeq path.toNat 0
  let r := s.regionId s.sp path seq
  let p := (s.sp.note s.region).note r
  (r, { s with sp := { p with regSeq := vecPut p.regSeq path.toNat (seq + 1) } })

/-- Ends an engine region of a span: its accesses are all made. -/
def State.endEngineRegion (s : State) (id : SpanId) (r : RegionId) : State :=
  s.updSpan id fun p => { p with regions := mapIf p.regions (fun x => x.id = r) fun x => { x with ended := true } }

/-- The span that owns a region, in this package. -/
def regionOwner (r : RegionId) : SpanId := { core := r.core, slot := r.slot }

/-- The span in whose closing order a region stands: its own, or for a tile task the span that issued the `ttask`
(R319). -/
def State.holderOf (s : State) (r : RegionId) : Option Span := s.spans.find? fun p => p.regions.any fun x => x.id = r

/-- Changes the span in whose closing order a region stands, resident or saved. -/
def State.updHolder (s : State) (r : RegionId) (f : Span → Span) : State :=
  match s.holderOf r with
  | some p => s.updSpan p.id f
  | none =>
    let has (p : Span) : Bool := p.regions.any fun x => x.id = r
    if s.host.contexts.any fun c => c.spans.any has then
      { s with host := { s.host with contexts := s.host.contexts.map fun c => { c with spans := mapIf c.spans has f } } }
    else s.updSpan (regionOwner r) f

/-- Is an access still to be performed? -/
def ReqStatus.onWay (r : ReqStatus) : Bool :=
  match r with
  | .queued | .sent | .merged _ _ => true
  | .performed | .acked | .refused _ | .unreachable => false

/-- Do an operation's accesses belong to regions?  Synchronisation accesses are neither tested nor recorded (R371). -/
def MemOp.inRegion (o : MemOp) : Bool :=
  match o.kind with
  | .amo _ _ | .bar _ => false
  | .load | .store | .red _ _ | .flush | .update _ => true

/-- Are all accesses of a region performed? -/
def State.regionPerformed (s : State) (r : RegionId) : Bool :=
  !(s.memOps.any fun o => o.inRegion && o.reqs.any fun q => q.region = r && q.status.onWay)

/-- May a region close: it has ended, it is the first of its span's closing order, and its accesses are performed
(R358)? -/
def State.closable (s : State) (r : RegionId) : Bool :=
  match s.holderOf r with
  | none => false
  | some p =>
    match p.regions with
    | [] => false
    | x :: _ => x.id = r && x.ended && s.regionPerformed r

/-- Is a record free (R361)? -/
def AccessRecord.free (a : AccessRecord) : Bool :=
  a.wreg.isNone && a.rreg0.isNone && a.rreg1.isNone && a.redn == 0

/-- A record of a sector. -/
def State.recordOf (s : State) (sector : Nat) : AccessRecord :=
  match s.records.find? fun a => a.sector == sector with
  | some a => a
  | none =>
    { sector := sector, wreg := none, wmask := 0, rreg0 := none, rmask0 := 0, rreg1 := none, rmask1 := 0, redn := 0,
      redlast := none, redmask := 0, task := none }

/-- Replaces a record; a free one holds no storage. -/
def State.setRecord (s : State) (a : AccessRecord) : State :=
  let others := s.records.filter fun x => x.sector != a.sector
  { s with records := if a.free then others else a :: others }

/-- Clears a closing region from a record (R362); records of logged writes stay with their task (R375). -/
def AccessRecord.close (a : AccessRecord) (x : RegionId) (reduced : Bool) : AccessRecord :=
  let w := a.wreg = some x && a.task.isNone
  let a1 : AccessRecord :=
    { a with wreg := if w then none else a.wreg, wmask := if w then 0 else a.wmask,
             rreg0 := if a.rreg0 = some x then none else a.rreg0, rmask0 := if a.rreg0 = some x then 0 else a.rmask0,
             rreg1 := if a.rreg1 = some x then none else a.rreg1, rmask1 := if a.rreg1 = some x then 0 else a.rmask1 }
  if !reduced || a.redn == 0 then a1
  else
    let n := a.redn - 1
    { a1 with redn := n, redlast := if n == 0 || a.redlast = some x then none else a.redlast,
              redmask := if n == 0 then 0 else a.redmask }

/-- Closes a region: its records are removed (R362). -/
def State.closeRegion (s : State) (r : RegionId) : State :=
  let red : List Nat :=
    match s.holderOf r with
    | some p => (p.regions.filter fun x => x.id = r).flatMap fun x => x.reduced
    | none => []
  let recs := s.records.map fun a => a.close r (red.contains a.sector)
  let s1 := s.updHolder r fun p => { p with regions := p.regions.filter fun x => x.id != r }
  { s1 with records := recs.filter fun a => !a.free }

/-- Removes the records that stay with a task, at its commit or its rollback (R375). -/
def State.dropTaskRecords (s : State) (g : GroupId) : State :=
  let recs := s.records.map fun a =>
    if a.task = some g then { a with task := none, wreg := none, wmask := 0 } else a
  { s with records := recs.filter fun a => !a.free }

/-- The words of a sector that an access covers (R363). -/
def wordsOf (key n : Nat) : BitVec 8 :=
  maskOf 8 fun i => decide (key % 32 < 4 * i + 4) && decide (4 * i < key % 32 + n)

/-- The answer of the test of Table 12.3. -/
inductive RecordAnswer where
  | fine (a : AccessRecord)
  | conflict (r : RegionId)
  | waits
  deriving DecidableEq, Repr

/-- A region that is not named when the record does not say which one it is (log 13). -/
def unknownRegion : RegionId := { pkg := 0, core := 0, slot := 0, path := 0, seq := 0 }

/-- The other region of a pair of region and mask that meets words. -/
def meets (o : Option RegionId) (x : RegionId) (m w : BitVec 8) : Option RegionId :=
  match o with
  | some y => if y != x && m &&& w != 0 then some y else none
  | none => none

/-- The part of the test that loads and stores share. -/
def AccessRecord.loadTest (a : AccessRecord) (x : RegionId) (w : BitVec 8) : Option RecordAnswer :=
  match meets a.wreg x a.wmask w with
  | some y => some (.conflict y)
  | none =>
    if a.redmask &&& w == 0 then none
    else if 1 < a.redn.toNat then some (.conflict (a.redlast.getD unknownRegion))
    else
      match a.redlast with
      | some y => if y = x then none else some (.conflict y)
      | none => if a.redn == 1 then some .waits else none

/-- A load's test and record. -/
def AccessRecord.load (a : AccessRecord) (x : RegionId) (w : BitVec 8) : RecordAnswer :=
  match a.loadTest x w with
  | some r => r
  | none =>
    if a.rreg0 = some x then .fine { a with rmask0 := a.rmask0 ||| w }
    else if a.rreg1 = some x then .fine { a with rmask1 := a.rmask1 ||| w }
    else if a.rreg0.isNone then .fine { a with rreg0 := some x, rmask0 := w }
    else if a.rreg1.isNone then .fine { a with rreg1 := some x, rmask1 := w }
    else .waits

/-- A store's test and record. -/
def AccessRecord.store (a : AccessRecord) (x : RegionId) (w : BitVec 8) : RecordAnswer :=
  match a.loadTest x w with
  | some r => r
  | none =>
    match meets a.rreg0 x a.rmask0 w, meets a.rreg1 x a.rmask1 w with
    | some y, _ => .conflict y
    | none, some y => .conflict y
    | none, none =>
      if a.wreg.isNone || a.wreg = some x then .fine { a with wreg := some x, wmask := a.wmask ||| w } else .waits

/-- A reduction's test and record; `first` for the region's first reduction to the sector. -/
def AccessRecord.reduce (a : AccessRecord) (x : RegionId) (w : BitVec 8) (first : Bool) : RecordAnswer :=
  match meets a.wreg x a.wmask w, meets a.rreg0 x a.rmask0 w, meets a.rreg1 x a.rmask1 w with
  | some y, _, _ => .conflict y
  | none, some y, _ => .conflict y
  | none, none, some y => .conflict y
  | none, none, none =>
    if first && a.redn == 255 then .waits
    else .fine { a with redn := if first then a.redn + 1 else a.redn, redlast := some x, redmask := a.redmask ||| w }

/-- Does a place lie in a granule that some task has saddled (R375)? -/
def State.saddledPlace (s : State) (key : Nat) : Bool := s.saddles.any fun x => x.sectors.contains (sectorOf key)

/-- What the home answers to an access. -/
inductive Admission where
  | admitted (s : State)
  | refused (r : RegionId)
  | waits (w : RoomWait)

/-- Does an access that waits for room still wait: its request is on its way, or its engine region is not ended? -/
def State.roomAlive (s : State) (w : RoomWait) : Bool :=
  match w.op with
  | some id => s.memOps.any fun o => o.id == id && o.reqs.any fun q => sectorOf q.key == w.sector && q.status == .sent
  | none =>
    match s.holderOf w.region with
    | some p => p.regions.any fun x => x.id = w.region && !x.ended
    | none => false

/-- Are two entries of the line at a sector one access's? -/
def RoomWait.same (a b : RoomWait) : Bool :=
  a.sector == b.sector && a.op == b.op && (a.op.isSome || a.region = b.region)

/-- Enters an access in the line at its sector, unless it waits there already (R364, R470). -/
def State.queueUp (s : State) (w : RoomWait) : State :=
  if s.roomQ.any fun x => x.same w then s else { s with roomQ := s.roomQ.filter s.roomAlive ++ [w] }

/-- Enters an engine's access in the line at its sector, if it waits for room. -/
def State.queueFor (s : State) (w : Option RoomWait) : State :=
  match w with
  | some x => s.queueUp x
  | none => s

/-- Has a region a slot of a record already, so that its access needs no other (Table 12.3)? -/
def AccessRecord.holds (a : AccessRecord) (r : RegionId) (t : Touch) (first : Bool) : Bool :=
  match t with
  | .load => a.rreg0 = some r || a.rreg1 = some r
  | .store => a.wreg = some r
  | .reduce => !first

/-- Does an access that arrived earlier wait at the sector for the same slots (R364)? -/
def State.behindInRoom (s : State) (w : RoomWait) : Bool :=
  (s.roomQ.takeWhile fun x => !x.same w).any fun x => x.sector == w.sector && x.touch == w.touch && s.roomAlive x

/-- Has a region reduced on a sector already? -/
def State.hasReduced (s : State) (r : RegionId) (sector : Nat) : Bool :=
  match s.holderOf r with
  | some p => p.regions.any fun x => x.id = r && x.reduced.contains sector
  | none => false

/-- The regions that hold the slot which an access to words w waits for, and how many there are (R364): the open reducers
where a reduction or REDMASK keeps it waiting, else the writer or the readers. -/
def State.slotHolders (s : State) (a : AccessRecord) (x : RegionId) (t : Touch) (w : BitVec 8) : List RegionId × Nat :=
  let reducers : List RegionId :=
    s.spans.flatMap fun p => (p.regions.filter fun y => y.reduced.contains a.sector).map fun y => y.id
  let kept (l : List (Option RegionId)) : List RegionId × Nat := (l.filterMap id, (l.filterMap id).length)
  match t, a.loadTest x w with
  | .reduce, _ => (reducers, a.redn.toNat)
  | _, some _ => (reducers, a.redn.toNat)
  | .load, none => kept [a.rreg0, a.rreg1]
  | .store, none => kept [a.wreg]

/-- Do all regions that hold the needed slot stand after r in a span's closing order (R470)?  One of them then. -/
def State.heldAfter (s : State) (a : AccessRecord) (r : RegionId) (t : Touch) (w : BitVec 8) : Option RegionId :=
  match s.holderOf r with
  | none => none
  | some p =>
    let later := ((p.regions.map fun x => x.id).dropWhile fun x => x != r).drop 1
    let (hold, n) := s.slotHolders a r t w
    if (hold.filter later.contains).length == n then hold.head? else none

/-- Tests and records an access of region r to n bytes of one sector (R361 to R364, R470), `op` its operation if it is a
span's; an access that is not checked is admitted. -/
def State.tryRecord (s : State) (checked : Bool) (g : GroupId) (r : RegionId) (op : Option Nat) (t : Touch) (key n : Nat)
    (logged : Bool) : Admission :=
  if !checked || isScale key || s.saddledPlace key then .admitted s
  else
    let sec := sectorOf key
    let a0 := s.recordOf sec
    let a := if a0.task = some g then { a0 with wreg := a0.wreg.map fun _ => r } else a0
    let w := wordsOf key n
    let first := !s.hasReduced r sec
    let me : RoomWait := { sector := sec, touch := t, region := r, op := op }
    let ans :=
      match t with
      | .load => a.load r w
      | .store => a.store r w
      | .reduce => a.reduce r w first
    match ans with
    | .conflict y => .refused y
    | .waits =>
      if r.path == 0 then .waits me
      else
        match s.heldAfter a r t w with
        | some y => .refused y
        | none => .waits me
    | .fine b =>
      if !a.holds r t first && s.behindInRoom me then .waits me
      else
      let b1 := if logged && t == .store then { b with task := some g } else b
      let s0 := s.setRecord b1
      let s1 : State := { s0 with roomQ := s0.roomQ.filter fun x => !x.same me }
      if t == .reduce then
        .admitted (s1.updHolder r fun p =>
          { (p.note r) with regions := mapIf (p.note r).regions (fun x => x.id = r) fun x =>
              { x with reduced := distinct (sec :: x.reduced) } })
      else .admitted s1

/-- Sector requests that a region takes (Table 12.1). -/
def regionSectors : Nat := 4096

/-- Must the focused span's region end before its next access: it has reached a limit of R357, or the span has parked
(Table 12.1)? -/
def State.regionFull (s : State) : Bool :=
  regionSectors ≤ s.sp.regSectors || s.sp.ending || regionLimitNs + s.sp.regStart.toNat ≤ s.now.toNat

end Sys2Proof.Machine
end

