-- ==== Sys2Proof/Machine/Saddle.lean ====
section
/-!
DEFINITION. Atomic sets and the tasks that hold them (R347 to R356): which granules an access touches, saddling, waiting
and unseating, the rollback log and SADDLE_ESCAPE.
-/

namespace Sys2Proof.Machine

open Sys2Proof

/-- SEG, log2 of the granule, OFFSET and BYTES of an atomic set entry (Table 11.3). -/
def asetFields (e : BitVec 128) : Nat × Nat × Nat × Nat := (fld e 0 3, fld e 3 5, fld e 16 48, fld e 64 48)

/-- The declared sets of the focused group's launch. -/
def State.asets (s : State) : List (BitVec 128) :=
  match s.launchOf with
  | some l => l.asets
  | none => []

/-- The granules of declared sets that n bytes at an offset of a segment touch: offset of the lowest byte and log2 of
the size (R350). -/
def granulesOf (sets : List (BitVec 128)) (k off n : Nat) : List (Nat × Nat) :=
  sets.flatMap fun e =>
    let (seg, g, o, b) := asetFields e
    if seg != k || off + n ≤ o || o + b ≤ off then []
    else
      let lo := max off o / 2 ^ g
      let hi := (min (off + n) (o + b) - 1) / 2 ^ g
      (List.range (hi + 1 - lo)).map fun i => ((lo + i) * 2 ^ g, g)

/-- Do n bytes lie wholly in declared sets (R352)? -/
def inSets (sets : List (BitVec 128)) (k off n : Nat) : Bool :=
  (List.range n).all fun i =>
    sets.any fun e =>
      let (seg, _, o, b) := asetFields e
      seg == k && o ≤ off + i && off + i < o + b

/-- The memory key of an offset of a segment of the focused span, when it translates. -/
def State.keyAt (s : State) (k off : Nat) : Option Nat :=
  let g := vecAt s.seenSegs k Seg.invalid
  match s.checkNow s.sp.id.core g k .read 0 off 1 with
  | .ok p => some p.key
  | _ => none

/-- The saddle record of a task for a granule. -/
def Group.record (g : Group) (anchor : Nat) (sectors : List Nat) : Saddle :=
  { launch := g.launch, home := homeOf anchor, anchor := anchor, sectors := sectors, holder := g.id, age := g.bindRec.age }

/-- A granule as a saddle record of the focused task. -/
def State.granuleRecord (s : State) (k off g key0 off0 : Nat) : Saddle :=
  let anchor := (s.keyAt k off).getD (key0 - (off0 - off))
  let sectors := (List.range (2 ^ g / 32)).map fun i => sectorOf ((s.keyAt k (off + 32 * i)).getD (anchor + 32 * i))
  s.grp.record anchor sectors

/-- How a touch of a granule goes on (R350, R351). -/
inductive TouchAnswer where
  | proceeds
  | saddles
  | unseats (g : GroupId)
  | waits
  deriving DecidableEq, Repr

/-- Saddle records an anchor's home holds at most (R350). -/
def saddleCapacity : Nat := 2048

/-- The record of a launch at an anchor. -/
def State.saddleAt (s : State) (launch : DWord) (anchor : Nat) : Option Saddle :=
  s.saddles.find? fun x => x.launch == launch && x.anchor == anchor

/-- The records at a home (R350, R351). -/
def State.saddlesAt (s : State) (home : Nat) : List Saddle := s.saddles.filter fun x => x.home == home

/-- The anchor and sectors of the granule that a span waits for. -/
def Span.saddleWait (p : Span) : Option (Nat × List Nat) :=
  (positions 8 fun _ => true).findSome? fun j =>
    match (p.slice j).wait with
    | some (.saddle a ss) => some (a, ss)
    | _ => none

/-- Does a span wait for a saddle with its group running? -/
def State.saddleWaiter (s : State) (p : Span) : Bool :=
  p.saddleWait.isSome &&
    (match s.groupOf p.group with
     | some g => g.status == .running
     | none => false)

/-- The age of a span's task. -/
def State.ageOf (s : State) (p : Span) : Nat :=
  match s.groupOf p.group with
  | some g => g.bindRec.age.toNat
  | none => 0

/-- Does a task of the launch that is older than a group wait for the granule? -/
def State.olderWaits (s : State) (g : Group) (anchor : Nat) : Bool :=
  s.spans.any fun q => s.saddleWaiter q && q.saddleWait.map (fun x => x.1) == some anchor &&
    (s.groupOf q.group).map (fun x => x.launch) == some g.launch && decide (s.ageOf q < g.bindRec.age.toNat)

/-- The youngest task with a record at a home that is younger than a group (R351). -/
def State.youngest (s : State) (g : Group) (home : Nat) : Option GroupId :=
  let younger := (s.saddlesAt home).filter fun x => g.bindRec.age.toNat < x.age.toNat && x.holder != g.id
  ((sortBy (fun a b => decide (b.age.toNat < a.age.toNat)) younger).head?).map fun x => x.holder

/-- The answer to one touch of the focused task. -/
def State.touchAnswer (s : State) (r : Saddle) : TouchAnswer :=
  match s.saddleAt r.launch r.anchor with
  | some x =>
    if x.holder == s.grp.id then .proceeds
    else if s.grp.bindRec.age.toNat < x.age.toNat then .unseats x.holder
    else .waits
  | none =>
    if s.olderWaits s.grp r.anchor then .waits
    else if (s.saddlesAt r.home).length < saddleCapacity then .saddles
    else
      match s.youngest s.grp r.home with
      | none => .waits
      | some g => .unseats g

/-- May a task's touch of an anchor go on: its record is free, its own or a younger task's, and there is room (R350,
R351)? -/
def State.touchFree (s : State) (g : Group) (anchor : Nat) : Bool :=
  match s.saddleAt g.launch anchor with
  | some x => x.holder == g.id || decide (g.bindRec.age.toNat < x.age.toNat)
  | none => decide ((s.saddlesAt (homeOf anchor)).length < saddleCapacity) || (s.youngest g (homeOf anchor)).isSome

/-- Marks a task for unseating: its spans issue nothing more (R353 step 1); its `waitcmp` entries and queued `acqx` go
with the replay. -/
def State.startUnseat (s : State) (g : GroupId) : State :=
  let s1 := s.updGroup g fun x => { x with status := .unseating }
  { s1 with host := { s1.host with contexts := s1.host.contexts.map fun c =>
      if c.group.id == g then { c with group := { c.group with status := .unseating } } else c } }

/-- Makes the record: the task saddles the granule, is saddled from now on, and the touch ends the region (R350, R352,
Table 12.1). -/
def State.saddle (s : State) (r : Saddle) : State :=
  let s1 := s.endRegion
  { s1 with saddles := s1.saddles ++ [r], grp := { s1.grp with saddled := true } }

/-- The touching span waits for the granule without an issue slot (R350). -/
def State.waitSaddle (s : State) (r : Saddle) : State :=
  let s1 := s.setWait s.issue.gang (some (.saddle r.anchor r.sectors))
  { s1 with issue := { s1.issue with blocked := true } }

/-- Touches the granules in ascending order and goes on when the task holds them all (R350). -/
def State.touchAll (s : State) (rs : List Saddle) (go : State → State) : State :=
  match rs with
  | [] => go s
  | r :: t =>
    match s.touchAnswer r with
    | .proceeds => s.touchAll t go
    | .saddles => (s.saddle r).touchAll t go
    | .unseats g => (s.startUnseat g).waitSaddle r
    | .waits => s.waitSaddle r

/-- What an access does under a saddle (R352). -/
inductive SaddleUse where
  | load
  | store
  /-- An atomic, a reduction or `tdrain.red`. -/
  | update
  deriving DecidableEq, Repr

/-- Is a write of a saddled task to a segment logged (R352)? -/
def loggedSeg (k : Nat) : Bool := k == 0 || k == 1 || k == 3

/-- The log entries that an operation in flight has reserved: one for each sector that a write covers, and one for each lane
of an atomic (R354; log 14). -/
def MemOp.logRoom (o : MemOp) : Nat :=
  let open_ := o.reqs.filter fun q => q.status.onWay
  if !o.logged then 0
  else
    match o.kind with
    | .store => (distinct (open_.map fun q => sectorOf q.key)).length
    | _ => open_.length

/-- The log entries that a group's writes in flight have reserved (R354): what is performed, refused or found without
effect holds none. -/
def State.logReserved (s : State) (g : GroupId) : Nat :=
  let drains (c : Core) : Nat := sumOf c.ops fun o =>
    match o.kind with
    | .drain _ _ _ _ _ _ room => if (s.spanOf o.span).map (fun p => p.group) == some g then room else 0
    | _ => 0
  sumOf (s.memOps.filter fun o => o.group == g) MemOp.logRoom + sumOf (s.core :: s.cores) drains

/-- The sectors that accesses cover, for the log's room (R354): each sector of a coalesced write once, and each access of
an atomic on its own (log 14). -/
def logRoom (u : SaddleUse) (ps : List (Place × Nat)) : Nat :=
  let secs := ps.flatMap fun p =>
    (List.range ((p.1.key % 32 + p.2 + 31) / 32)).map fun i => sectorOf p.1.key + i
  if u = .update then secs.length else (distinct secs).length

/-- The saddle rules for the places of one span-path access (R350 to R354): SADDLE_ESCAPE, SADDLE_LOG_FULL, the touches,
and the reserved log entries; `go` learns whether the writes are logged. -/
def State.withSaddles (s : State) (k : Nat) (u : SaddleUse) (ps : List (Place × Nat)) (go : State → Bool → State) :
    State :=
  let sets := s.asets
  let rs := ps.flatMap fun p =>
    (granulesOf sets k p.1.off p.2).map fun (o, g) => s.granuleRecord k o g p.1.key p.1.off
  let sad := s.grp.saddled || !rs.isEmpty
  if !sad then go s false
  else
    let escapes : Bool :=
      (ps.any fun p => s.remote p.1.key) || (k == 7 && u != .load) ||
      (u == .update && loggedSeg k && ps.any fun p => !inSets sets k p.1.off p.2)
    if escapes then s.raise (s.trapOf 12 0)
    else
      let logs := u != .load && loggedSeg k
      let need := if logs then logRoom u ps else 0
      if logs && s.launchField 272 32 < s.grp.log.length + s.logReserved s.grp.id + need then s.raise (s.trapOf 13 0)
      else
        let order := sortBy (fun a b => decide (a.anchor < b.anchor)) rs
        s.touchAll order fun t => go t logs

/-- The 64 bytes of a log entry (Table 11.5). -/
def LogEntry.bytes (e : LogEntry) : List Byte :=
  bytesLE 64 (e.pa % 2 ^ 49 + e.key.toNat * 2 ^ 49 + e.mask.toNat * 2 ^ 64 + e.seq.toNat * 2 ^ 96 + e.old.toNat * 2 ^ 128)

/-- Enters the old bytes of a sector, of which a logged write has written those of a mask, in a task's log, newest first
(R354, Table 11.5), and in the log's memory.  A sector that the write leaves unchanged takes no entry. -/
def State.logSector (s : State) (g : GroupId) (base : Nat) (slot : BitVec 10) (mask : BitVec 32) (old new : List Byte) :
    State :=
  match s.groupOf g with
  | none => s
  | some x =>
    if old == new then s
    else
      let e : LogEntry := { pa := base, key := slot, mask := mask, seq := x.logSeq, old := BitVec.ofNat 256 (leOf old) }
      (s.updGroup g fun x => { x with logSeq := x.logSeq + 1, log := e :: x.log }).homeWrite
        (x.logBase + 64 * x.logSeq.toNat) e.bytes 0 Policy.plain

/-- SADDLE_ESCAPE for the instructions that a saddled task may not use (R352). -/
def State.unlessSaddled (s : State) (go : State → State) : State :=
  if s.grp.saddled then s.raise (s.trapOf 12 0) else go s

/-- Undoes one log entry under its mask (R353). -/
def State.replayEntry (s : State) (e : LogEntry) : State :=
  let now := s.readKey e.key e.pa 32
  let bs := (List.range 32).map fun i =>
    if bitOn e.mask i then BitVec.ofNat 8 (e.old.toNat / 256 ^ i) else listAt now i 0
  s.homeWrite e.pa bs e.key Policy.plain

/-- Replays a log, newest entry first. -/
def State.replayLog (s : State) (es : List LogEntry) : State := es.foldl State.replayEntry s

/-- The span no longer waits for a granule. -/
def Span.endSaddleWait (p : Span) (anchor : Nat) : Span :=
  { p with slices := vecMap p.slices fun _ x =>
      match x.wait with
      | some (.saddle a _) => if a == anchor then { x with wait := none } else x
      | _ => x }

/-- Can a task take a granule that it waits for: it holds it, or its record can be made? -/
def State.grantable (s : State) (g : Group) (r : Saddle) : Bool :=
  match s.saddleAt r.launch r.anchor with
  | some x => x.holder == g.id
  | none => decide ((s.saddlesAt r.home).length < saddleCapacity)

/-- Gives a granule to a span that waits for it: its task saddles it, unless it holds it already, and the span's region ends
(R350, R352, Table 12.1). -/
def State.giveSaddle (s : State) (id : SpanId) (g : Group) (r : Saddle) : State :=
  let s1 := s.updSpan id fun p => p.endSaddleWait r.anchor
  if (s1.saddleAt r.launch r.anchor).isSome then s1
  else
    let t := s1.endRegionOf id
    ({ t with saddles := t.saddles ++ [r] } : State).updGroup g.id fun x => { x with saddled := true }

/-- Serves the spans that wait for saddles, those of the oldest task first (R350, R351). -/
def State.serveWaiters (s : State) : State :=
  let ws := sortBy (fun a b => decide (s.ageOf a < s.ageOf b)) (s.spans.filter s.saddleWaiter)
  ws.foldl (fun t p =>
    match p.saddleWait, t.groupOf p.group with
    | some (anchor, sectors), some g =>
      let r := g.record anchor sectors
      if t.grantable g r then t.giveSaddle p.id g r else t
    | _, _ => t) s

/-- Releases every saddle of a task, whose log is discarded; waiters are then served (R350, R355). -/
def State.releaseSaddles (s : State) (g : GroupId) : State :=
  let s1 := (({ s with saddles := s.saddles.filter fun x => x.holder != g } : State).dropTaskRecords g).updGroup g fun x =>
    { x with saddled := false, log := [], logSeq := 0 }
  s1.serveWaiters

end Sys2Proof.Machine
end

