-- ==== Sys2Proof/Machine/Barrier.lean ====
section
/-!
DEFINITION. Barriers as 16 bytes of memory (R339 to R344): their fields, and the indivisible steps of the drain unit.
-/

namespace Sys2Proof.Machine

open Sys2Proof

/-- A barrier (Table 11.1). -/
structure Barrier where
  arrived : Nat
  expect  : Nat
  pend    : Nat
  gen     : Nat
  deriving DecidableEq, Repr

/-- The barrier that 16 bytes hold. -/
def Barrier.ofBytes (bs : List Byte) : Barrier :=
  let x : BitVec 128 := BitVec.ofNat 128 (leOf bs)
  { arrived := fld x 0 32, expect := fld x 32 32, pend := fld x 64 56, gen := fld x 120 8 }

/-- The 16 bytes of a barrier. -/
def Barrier.toBytes (b : Barrier) : List Byte :=
  bytesLE 16 (b.arrived + b.expect * 2 ^ 32 + b.pend * 2 ^ 64 + b.gen * 2 ^ 120)

/-- The test of completion (R340). -/
def Barrier.test (b : Barrier) : Barrier :=
  if b.expect ≤ b.arrived && b.pend == 0 then { b with gen := (b.gen + 1) % 256, arrived := 0 } else b

/-- `bar.init` (Table 11.2). -/
def Barrier.init (b : Barrier) (n : DWord) : Barrier := { b with expect := fld n 0 32, arrived := 0, pend := 0 }

/-- `bar.arrive` (Table 11.2). -/
def Barrier.arrive (b : Barrier) (n : DWord) : Barrier :=
  ({ b with arrived := min (b.arrived + fld n 0 32) (2 ^ 32 - 1) } : Barrier).test

/-- `bar.expect` (Table 11.2). -/
def Barrier.wants (b : Barrier) (n : DWord) : Barrier := { b with pend := min (b.pend + fld n 0 56) (2 ^ 56 - 1) }

/-- A decrement of PEND (R192, R340, R344). -/
def Barrier.landed (b : Barrier) (n : Nat) : Barrier := ({ b with pend := b.pend - n } : Barrier).test

/-- The barrier at a memory key. -/
def State.barrierAt (s : State) (slot : BitVec 10) (key : Nat) : Barrier := Barrier.ofBytes (s.readKey slot key 16)

/-- A barrier replaced at its home, in one step; the changed bytes wake its waiters (R340, R337). -/
def State.putBarrier (s : State) (slot : BitVec 10) (key : Nat) (b : Barrier) : State :=
  s.homeWrite key b.toBytes slot Policy.plain

/-- A barrier operation at the home: one in a poisoned block is not applied and is entered in the error log, as R86
gives for reductions. -/
def State.barrierStep (s : State) (slot : BitVec 10) (key : Nat) (f : Barrier → Barrier) : State :=
  if s.poisoned key then s.logError (.reduction key) else s.putBarrier slot key (f (s.barrierAt slot key))

/-- The step of a barrier instruction by its sub code (Table 11.2). -/
def Barrier.apply (op : BitVec 3) (n : DWord) (b : Barrier) : Barrier :=
  match op.toNat with
  | 0 => b.init n
  | 1 => b.arrive n
  | _ => b.wants n

end Sys2Proof.Machine
end

