-- ==== Sys2Proof/Machine/Pipeline.lean ====
section
/-!
DEFINITION. Accesses in flight: sending them (R143, R165), performing them at the home (R119, R330, R362), acknowledging
them (R120) and completing them in the registers (R42, R43, R86, R365).
-/

namespace Sys2Proof.Machine

open Sys2Proof

/-! ## The update of an atomic (R330) -/

/-- Bytes of a class 9 type (R329). -/
def typBytes (t : BitVec 3) : Nat := if wide t then 8 else 4

/-- combine(op, type, old, d) without `cas` (R330). -/
def combineVal (op t : BitVec 3) (old d : Nat) : Nat :=
  let w := 8 * typBytes t
  let signed : Bool := t == 1 || t == 3
  let float : Bool := t == 4 || t == 5
  let f := if t == 5 then Fmt.f64 else Fmt.f32
  let less : Bool := if signed then decide (sx old w < sx d w) else decide (old < d)
  match op.toNat with
  | 0 => if float then (fAdd f .rne (FVal.ofBits f old) (FVal.ofBits f d)).1 else (old + d) % 2 ^ w
  | 1 => if float then (fMinMax f false old d).1 else if less then old else d
  | 2 => if float then (fMinMax f true old d).1 else if less then d else old
  | 3 => Nat.land old d
  | 4 => Nat.lor old d
  | 5 => Nat.xor old d
  | _ => d

/-- The new value of an atomic, `cas` included: bit patterns are compared. -/
def updateVal (op t : BitVec 3) (old d c : Nat) : Nat :=
  if op == 7 then (if old = c then d else old) else combineVal op t old d

/-! ## Sending -/

/-- A request for one place; the operation that is sent gives it its region. -/
def reqAt (p : Place) (bytes data cmp : Nat) : Req :=
  { lane := p.lane, va := p.va, key := p.key, bytes := bytes, slot := p.slot, chain := p.chain, uc := p.uc, ro := p.ro,
    data := BitVec.ofNat 256 data, cmp := BitVec.ofNat 64 cmp, region := unknownRegion, status := .sent, result := 0, poison := false }

/-- The policy of a request of an operation (R153). -/
def MemOp.policy (o : MemOp) (q : Req) : Policy :=
  { hint := o.hint, stream := o.cpol == 1, uncached := o.cpol == 2 || q.uc, chain := q.chain }

/-- Is a request checked (R359): by its segment, and not read as read-only data (R166)? -/
def MemOp.checks (o : MemOp) (q : Req) : Bool := o.checked && !(o.kind = .load && q.ro)

/-- The sectors of an operation's requests. -/
def MemOp.sectors (o : MemOp) : List Nat := distinct (o.reqs.map fun q => sectorOf q.key)

/-- Does an operation change memory? -/
def AccessKind.writes (k : AccessKind) : Bool :=
  match k with
  | .load | .flush => false
  | .store | .red _ _ | .amo _ _ | .update _ | .bar _ => true

/-- Is a write of a core to a sector on its way?  The L1 takes no copy of the sector before it is performed, so that a
load never misses an earlier store of its span (R165; log 16). -/
def State.writeUnderway (s : State) (k : CoreId) (sec : Nat) : Bool :=
  s.memOps.any fun x => x.span.core = k && x.kind.writes && x.reqs.any fun q => sectorOf q.key == sec && q.status == .sent

/-- Does the L1 take a request's sector (R134, R145, R153, R155)?  A sector of another package only under segment K or
`ld.nc`. -/
def State.cachesL1 (s : State) (o : MemOp) (q : Req) : Bool :=
  o.path == 0 && translated o.seg.toNat && o.cpol == 0 && !q.uc && o.hint != 3 &&
    (!s.remote q.key || o.nc || o.seg == 4) && !s.writeUnderway o.span.core (sectorOf q.key)

/-- The L1 sector that a load's request hits (R146); an uncached load is performed at the home (R153). -/
def State.l1HitOf (s : State) (o : MemOp) (q : Req) : Option L1Sector :=
  if o.kind = .load && o.path == 0 && translated o.seg.toNat && o.cpol != 2 && !q.uc then
    s.core.l1Hit s.sp.id.slot q.region (sectorOf q.key) (wordsOf q.key q.bytes) (o.checks q)
  else none

/-- A request as it is sent: a load that hits the L1 is performed there (R146). -/
def State.serveL1 (s : State) (o : MemOp) (q : Req) : Req :=
  match s.l1HitOf o q with
  | some x =>
    { q with status := .performed,
             result := BitVec.ofNat 256 (x.data.toNat / 2 ^ (8 * (q.key % 32)) % 2 ^ (8 * q.bytes)) }
  | none => q

/-- What sending requests of an operation does to its core's L1: hits make their lines most recent, a store writes
through, and any other write takes its sectors out (R147). -/
def State.l1After (s : State) (o : MemOp) (qs : List Req) : Core :=
  match o.kind with
  | .load => (qs.filter fun q => (s.l1HitOf o q).isSome).foldl (fun c q => c.l1Touch (lineOf q.key)) s.core
  | .flush => s.core
  | .store => qs.foldl (fun c q => c.l1Store s.sp.id.slot q.region q.key (bytesLE q.bytes q.data.toNat)) s.core
  | .red _ _ | .amo _ _ | .update _ | .bar _ => s.core.l1Keep fun x => !qs.any fun q => sectorOf q.key == x.sector

/-- The sectors whose requests an operation has not sent. -/
def MemOp.unsent (o : MemOp) : List Nat := distinct ((o.reqs.filter fun q => q.status == .queued).map fun q => sectorOf q.key)

/-- An operation in flight. -/
def State.opOf (s : State) (id : Nat) : Option MemOp := s.memOps.find? fun o => o.id == id

/-- Replaces an operation. -/
def State.putOp (s : State) (o : MemOp) : State := { s with memOps := mapIf s.memOps (fun x => x.id == o.id) fun _ => o }

/-- What an operation of the focused span has not sent goes out, as many sector requests as its region still takes, each
of which then belongs to the region (R143, R357): the state without the operation, and the operation. -/
def State.dispatched (s : State) (o : MemOp) : State × MemOp :=
  let counts : Bool := o.path == 0 && o.inRegion
  let secs := if counts then o.unsent.take (regionSectors - s.sp.regSectors) else o.unsent
  let goes (q : Req) : Bool := q.status == .queued && secs.contains (sectorOf q.key)
  let sent (q : Req) : Req := { q with status := .sent, region := if counts then s.region else o.region }
  let sp1 := if counts && !secs.isEmpty then s.sp.note s.region else s.sp
  let sp2 := { sp1 with regSectors := sp1.regSectors + (if counts then secs.length else 0) }
  ({ s with sp := sp2, core := s.l1After o ((o.reqs.filter goes).map sent) },
    { o with reqs := mapIf o.reqs goes fun q => s.serveL1 o (sent q) })

/-- Sends what an operation in flight has not sent. -/
def State.dispatch (s : State) (o : MemOp) : State :=
  let (t, x) := s.dispatched o
  t.putOp x

/-- Sends an operation of the focused span: its number, its sector requests, and the L1's part. -/
def State.send (s : State) (o : MemOp) : State :=
  let (id, s1) := s.newId
  let o1 : MemOp := { o with id := id, reqs := mapIf o.reqs (fun q => q.status == .sent) fun q => { q with status := .queued } }
  let (t, x) := s1.dispatched o1
  { t with memOps := t.memOps ++ [x] }

/-- Sends what earlier operations of the focused span have not sent, in the region that has begun (Table 12.1). -/
def State.sendQueued (s : State) : State :=
  (s.memOps.filter fun o => o.span = s.sp.id && o.path == 0 && !o.unsent.isEmpty).foldl (fun t o => t.dispatch o) s

/-- Does an access with this destination belong to the whole gang: a scalar's, a tile's or a number's? -/
def Dest.whole (d : Dest) : Bool :=
  match d with
  | .none | .vec _ _ => false
  | .scalar _ | .tile _ | .big _ _ => true

/-- An operation of the focused span before its requests are known. -/
def State.newOp (s : State) (kind : AccessKind) (dest : Dest) (seg : Nat) (hint : BitVec 2) (logged : Bool) : MemOp :=
  let g := vecAt s.seenSegs seg Seg.invalid
  { id := 0, span := s.sp.id, group := s.sp.group, kind := kind, dest := dest, path := 0,
    seg := BitVec.ofNat 3 seg, hint := hint, nc := false, cpol := BitVec.ofNat 2 g.cpol, checked := g.checked, logged := logged,
    region := s.region, clause := s.gangClause, pc := s.here, gang := s.issue.gang, lanes := s.enabled,
    whole := dest.whole, since := s.now, reqs := [] }

/-! ## Performing at the home -/

/-- Has a request's acknowledgement or data returned? -/
def ReqStatus.back (r : ReqStatus) : Bool :=
  match r with
  | .queued | .sent | .merged _ _ | .performed => false
  | .acked | .refused _ | .unreachable => true

/-- The register whose slot words an operation of a matrix engine writes when it completes (R261). -/
def EngineKind.slotRegs (k : EngineKind) : List RegNo :=
  match k with
  | .bcres d _ | .bmodb d _ => [d]
  | .bdiv d _ _ _ _ _ _ _ => [d, next d]
  | .mma .. | .mprom _ | .drain .. | .bmult .. | .limbTiles _ | .spmv .. | .sptrsv .. | .task _ => []

/-- Does a sector hold slot words of a register of a span (R258)? -/
def Span.slotSector (p : Span) (d : RegNo) (sec : Nat) : Bool :=
  let n := fld p.spillSlot 0 6
  let lo := scratchKey p.id.core ((vecAt p.segs 2 Seg.invalid).baseOf + fld p.spillBase 0 19 + 4 * (d.toNat * n))
  decide (lo < sec * 32 + 32) && decide (sec * 32 < lo + 4 * n)

/-- Will an operation of a span that was issued before a number write slot words in a sector (R165, R261)? -/
def State.slotWriteAhead (s : State) (id : SpanId) (before sec : Nat) : Bool :=
  match s.spanOf id with
  | none => false
  | some p =>
    ((s.coreOf id.core).ops.any fun o => o.span = id && decide (o.id < before) && o.kind.slotRegs.any fun d => p.slotSector d sec) ||
      s.memOps.any fun o => o.span = id && decide (o.id < before) &&
        (match o.dest with
         | .big d _ => p.slotSector d sec
         | _ => false)

/-- Is a later access to a sector held behind an earlier one of the same span and path (R119)?  Reductions bypass the
rule (R334). -/
def State.heldBehind (s : State) (o : MemOp) (sec : Nat) : Bool :=
  match o.kind with
  | .red _ _ | .update _ => false
  | _ =>
    (o.path == 0 && s.slotWriteAhead o.span o.id sec) || s.memOps.any fun x =>
      decide (x.id < o.id) && x.span = o.span && x.path == o.path &&
        (match x.kind with
         | .red _ _ | .update _ => false
         | _ => true) &&
        x.reqs.any fun q => sectorOf q.key == sec && !q.status.back

/-- What a kind of access does to a record. -/
def AccessKind.touch (k : AccessKind) : Touch :=
  match k with
  | .load => .load
  | .store => .store
  | .red _ _ => .reduce
  | .amo _ _ => .store
  | .update _ => .reduce
  | .flush => .load
  | .bar _ => .load

/-- Admits the requests of one sector in turn (R362). -/
def State.admitReqs (s : State) (o : MemOp) (qs : List Req) : Admission :=
  match qs with
  | [] => .admitted s
  | q :: t =>
    match s.tryRecord (o.checks q) o.group q.region (if o.id == 0 then none else some o.id) o.kind.touch q.key q.bytes o.logged with
    | .admitted s1 => s1.admitReqs o t
    | .refused r => .refused r
    | .waits w => .waits w

/-- Changes the requests of a sector that are still on their way. -/
def MemOp.mapSector (o : MemOp) (sec : Nat) (f : Req → Req) : MemOp :=
  { o with reqs := mapIf o.reqs (fun q => sectorOf q.key == sec && q.status == .sent) f }

/-- The focused span's current region ends without draining; the waiting requests of an operation in a sector, and all
later accesses of the span, belong to the new one (R364). -/
def State.renewRegion (s : State) (o : MemOp) (sec : Nat) : State :=
  let t := s.endRegion
  let r := t.region
  let take (q : Req) : Req := if q.status == .sent then { q with region := r } else q
  let later (x : MemOp) : Bool := x.span = o.span && x.path == 0 && x.inRegion && decide (o.id < x.id)
  let moved (x : MemOp) : MemOp :=
    if x.id == o.id then x.mapSector sec take else if later x then { x with reqs := x.reqs.map take } else x
  let ops := t.memOps.map moved
  let count := sumOf (ops.filter fun x => x.span = o.span && x.path == 0) fun x =>
    (distinct ((x.reqs.filter fun q => q.region = r).map fun q => sectorOf q.key)).length
  ({ t with memOps := ops, sp := { t.sp.note r with regSectors := count } } : State).sendQueued

/-- An access begins to wait for room in a record (R364, R470): it enters the line at its sector, and the region of a
span's access is renewed. -/
def State.waitForRoom (s : State) (o : MemOp) (w : RoomWait) : State :=
  if s.roomQ.any fun x => x.same w then s
  else
    let s1 := s.queueUp w
    let t := s1.focus o.span
    if o.path != 0 || t.sp.id != o.span then s1 else (t.renewRegion o w.sector).focus s.sp.id

/-- The bytes of a sector after the writes of requests in it, in the order of the list (R16, R164), and which bytes they
write. -/
def mergeReqs (old : List Byte) (qs : List Req) : BitVec 32 × List Byte :=
  qs.foldl (fun a q =>
    let at_ := q.key % 32
    let bs := bytesLE q.bytes q.data.toNat
    let mine (i : Nat) : Bool := at_ ≤ i && i < at_ + q.bytes
    (a.1 ||| maskOf 32 mine, (List.range 32).map fun i => if mine i then listAt bs (i - at_) 0 else listAt a.2 i 0)) (0, old)

/-- Performs a load's requests in one sector (R362, R86). -/
def State.loadSector (s : State) (o : MemOp) (sec : Nat) : State :=
  let qs := o.reqs.filter fun q => sectorOf q.key == sec && q.status == .sent
  match qs with
  | [] => s
  | q0 :: _ =>
    let (_, bad, s1) := s.homeRead (coreDie o.span.core) q0.key q0.bytes q0.slot (o.policy q0)
    let o1 := o.mapSector sec fun q =>
      { q with status := .performed, result := BitVec.ofNat 256 (leOf (s1.readKey q.slot q.key q.bytes)), poison := bad }
    let ro := q0.ro || o.seg == 4
    let x : L1Sector :=
      { sector := sec, kind := if ro then .readOnly else .region o.span.slot q0.region,
        words := if ro then 0xFF else
          (qs.filter o.checks).foldl (fun w q => w ||| wordsOf q.key q.bytes) 0,
        data := BitVec.ofNat 256 (leOf (s1.readKey q0.slot (sec * 32) 32)) }
    let s2 := s1.putOp o1
    if !bad && s2.cachesL1 o q0 then s2.updCore o.span.core fun c => c.l1Fill x (o.hint == 1) else s2

/-- Performs a store's requests in one sector, lanes in ascending order (R16, R164), logging what changes (R352). -/
def State.storeSector (s : State) (o : MemOp) (sec : Nat) : State :=
  let qs := o.reqs.filter fun q => sectorOf q.key == sec && q.status == .sent
  match qs with
  | [] => s
  | q0 :: _ =>
    let old := s.readKey q0.slot (sec * 32) 32
    let (mask, new) := mergeReqs old qs
    let s1 := s.homeSector sec mask new q0.slot (o.policy q0)
    let s2 := qs.foldl (fun t q => t.evalMonitors q.key q.bytes) s1
    let s3 := if o.logged then s2.logSector o.group (sec * 32) q0.slot mask old new else s2
    s3.putOp (o.mapSector sec fun q => { q with status := .performed })

/-- Performs a `cflush`: the line's dirty sectors go to the MSC and its block to DRAM as one codeword (R170). -/
def State.flushLine (s : State) (key : Nat) : State :=
  let pa := s.canonPa key
  let s1 :=
    match s.memsys.lines.find? fun x => x.line == lineOf pa && x.rdc.isNone with
    | some l => s.drainLine l
    | none => s
  s1.mscWriteback (blockOf pa)

/-- A load or store sector request arrives at its home: it is refused, it waits, or it is recorded and performed in the
same step (R362).  Nothing happens while the request is not yet there. -/
def State.accessAtHome (s : State) (id sec : Nat) : State :=
  match s.opOf id with
  | none => s
  | some o =>
    let qs := o.reqs.filter fun q => sectorOf q.key == sec && q.status == .sent
    if qs.isEmpty || s.heldBehind o sec || s.onFabric id sec || !s.reaches (fabricDie o.span.core) (sec * 32) ||
        (o.kind = .load && s.invalidating (sec / 4)) then s
    else
      match o.kind with
      | .red _ _ | .amo _ _ | .update _ | .bar _ => s
      | .flush =>
        (qs.foldl (fun t q => t.flushLine q.key) s).putOp (o.mapSector sec fun q => { q with status := .performed })
      | _ =>
        match s.admitReqs o qs with
        | .waits w => s.waitForRoom o w
        | .refused r => s.putOp (o.mapSector sec fun q => { q with status := .refused (regionBits r) })
        | .admitted s1 => if o.kind = .load then s1.loadSector o sec else s1.storeSector o sec

/-- Does a synchronisation read meet an open writer region of another party (R371)? -/
def State.syncBlocked (s : State) (span : SpanId) (key n : Nat) : Bool :=
  let a := s.recordOf (sectorOf key)
  match a.wreg with
  | some y => a.wmask &&& wordsOf key n != 0 && !(regionOwner y = span && y.path == 0 && y.pkg == s.fabric.pkg)
  | none => false

/-- Must an earlier lane of the same instruction be performed first (R331)? -/
def laneWaits (o : MemOp) (q : Req) : Bool :=
  o.reqs.any fun x => x.status == .sent && decide (x.lane < q.lane) && x.key == q.key

/-- Performs one lane of an atomic or reduction at the drain unit of its home (R325, R330, R333, R86). -/
def State.updateLane (s : State) (o : MemOp) (q : Req) (op t : BitVec 3) (returns : Bool) : State :=
  let n := typBytes t
  let (bs, bad, s1) := s.homeRead none q.key n q.slot (o.policy q)
  let old := leOf bs
  let done (o : MemOp) (r : Nat) : MemOp :=
    { o with reqs := mapIf o.reqs (fun x => x.lane == q.lane) fun x =>
        { x with status := .performed, result := BitVec.ofNat 256 r, poison := bad } }
  if bad then
    let s2 := if returns then s1 else s1.logError (.reduction q.key)
    s2.putOp (done o old)
  else
    let new := updateVal op t old q.data.toNat q.cmp.toNat
    let sec := sectorOf q.key
    let before := s1.readKey q.slot (sec * 32) 32
    let s2 := s1.homeWrite q.key (bytesLE n new) q.slot (o.policy q)
    let s3 := if o.logged then
        s2.logSector o.group (sec * 32) q.slot (maskOf 32 fun i => decide (q.key % 32 ≤ i) && decide (i < q.key % 32 + n)) before
          (s2.readKey q.slot (sec * 32) 32)
      else s2
    s3.putOp (done o old)

/-- Changes the requests that have been merged into a lane of an operation (R326). -/
def State.mapMerged (s : State) (id lane : Nat) (f : ReqStatus) : State :=
  { s with memOps := s.memOps.map fun o =>
      { o with reqs := mapIf o.reqs (fun q => q.status == .merged id lane) fun q => { q with status := f } } }

/-- The parts of a merged reduction that is not performed go on alone (log 107). -/
def State.unmerge (s : State) (id lane : Nat) : State := s.mapMerged id lane .sent

/-- Records a merged reduction for the regions of its parts, where their own tests pass (R326; log 107). -/
def State.admitMerged (s : State) (id lane : Nat) : State :=
  s.memOps.foldl (fun t o => (o.reqs.filter fun q => q.status == .merged id lane).foldl (fun u q =>
    match u.admitReqs o [q] with
    | .admitted v => v
    | _ => u) t) s

/-- One lane of an `amo` or `red` arrives at its drain unit (R330, R333, R371). -/
def State.atomicAtHome (s : State) (id lane : Nat) : State :=
  match s.opOf id with
  | none => s
  | some o =>
    match o.reqs.find? fun q => q.lane == lane && q.status == .sent with
    | none => s
    | some q =>
      if laneWaits o q || s.heldBehind o (sectorOf q.key) || s.onFabric id (sectorOf q.key) ||
          !s.reaches (fabricDie o.span.core) q.key then s
      else
        match o.kind with
        | .amo op t => if s.syncBlocked o.span q.key (typBytes t) then s else s.updateLane o q op t true
        | .red op t =>
          match s.admitReqs o [q] with
          | .waits w => s.waitForRoom o w
          | .refused r =>
            (s.putOp { o with reqs := mapIf o.reqs (fun x => x.lane == lane) fun x =>
              { x with status := .refused (regionBits r) } }).unmerge id lane
          | .admitted s1 => (s1.admitMerged id lane).updateLane o q op t false
        | .bar op =>
          if s.syncBlocked o.span q.key 16 then s
          else
            let old := s.barrierAt q.slot q.key
            let s1 := s.barrierStep q.slot q.key (Barrier.apply op (BitVec.ofNat 64 q.data.toNat))
            s1.putOp { o with reqs := o.reqs.map fun x =>
              { x with status := .performed, result := BitVec.ofNat 256 old.gen } }
        | _ => s

/-- May a reduction's request take another's operand (R326): both wait in the RDC's drain unit of their die, with one
operation of one integer type on one address homed on another die of the package? -/
def State.mergeable (s : State) (a b : MemOp) (x y : Req) : Bool :=
  let die := fabricDie a.span.core
  x.status == .sent && y.status == .sent && x.key == y.key && !(a.id == b.id && x.lane == y.lane) && isMain x.key &&
    !s.remote x.key && s.fabricHome x.key != die && fabricDie b.span.core == die && !a.logged && !b.logged

/-- Two reductions waiting in an RDC's drain unit are merged into one, whose operand is their combination (R326). -/
def State.combineReductions (s : State) (id1 id2 : Nat) : State :=
  match s.opOf id1, s.opOf id2 with
  | some a, some b =>
    match a.kind, b.kind with
    | .red op t, .red op2 t2 =>
      if op != op2 || t != t2 || 4 ≤ t.toNat then s
      else
        match a.reqs.findSome? fun x => (b.reqs.find? fun y => s.mergeable a b x y).map fun y => (x, y) with
        | none => s
        | some (x, y) =>
          let data := BitVec.ofNat 256 (combineVal op t x.data.toNat y.data.toNat)
          let s1 := s.mapMerged b.id y.lane (.merged a.id x.lane)
          let put (id lane : Nat) (f : Req → Req) (u : State) : State :=
            { u with memOps := mapIf u.memOps (fun o => o.id == id) fun o =>
                { o with reqs := mapIf o.reqs (fun q => q.lane == lane) f } }
          put b.id y.lane (fun q => { q with status := .merged a.id x.lane })
            (put a.id x.lane (fun q => { q with data := data }) s1)
    | _, _ => s
  | _, _ => s

/-! ## Acknowledgement and completion -/

/-- The lanes of an operation's requests that satisfy p. -/
def MemOp.lanesOf (o : MemOp) (p : Req → Bool) : LaneMask := maskOf 32 fun i => o.reqs.any fun q => q.lane == i && p q

/-- The deferred trap of an operation's lanes: its code, and the address of the lowest of them (R43, R365). -/
def MemOp.deferred (o : MemOp) (code : Nat) (p : Req → Bool) (region : BitVec 48) (unreach : Bool) : Option TrapInfo :=
  match o.reqs.filter p with
  | [] => none
  | q :: _ =>
    some { code := BitVec.ofNat 6 code, sub := 0, detail := 0, addr := q.va, unreach := unreach,
           lanes := if o.whole then o.lanes else o.lanesOf p, cause := some o.pc, region := region }

/-- The region of the lowest refused request. -/
def MemOp.refusedBy (o : MemOp) : BitVec 48 :=
  (o.reqs.filterMap fun q =>
    match q.status with
    | .refused r => some r
    | _ => none).headD 0

/-- Was a request refused? -/
def Req.wasRefused (q : Req) : Bool :=
  match q.status with
  | .refused _ => true
  | _ => false

/-- Adds held faults of a span, newest first. -/
def State.hold (s : State) (id : SpanId) (hs : List Held) : State :=
  s.updSpan id fun p => { p with held := hs ++ p.held }

/-- The registers in which an operation's lanes leave poison or a refusal. -/
def MemOp.marks (o : MemOp) (p : Req → Bool) : List RegRef :=
  match o.dest with
  | .vec d wide =>
    let slices := (List.finRange 8).filter fun j => o.reqs.any fun q => p q && q.lane / 4 == j.val
    slices.flatMap fun j => if wide then [.vec d j, .vec (next d) j] else [.vec d j]
  | .scalar d => [.scalar d]
  | .tile t => [.tile t]
  | .big d _ => (List.finRange 8).map fun j => .vec d j
  | .none => []

/-- The held faults that an operation's completion leaves in its destination (R43, R136, R365). -/
def MemOp.faults (o : MemOp) : List Held :=
  let mk (code : Nat) (p : Req → Bool) (region : BitVec 48) (unreach : Bool) : List Held :=
    match o.deferred code p region unreach with
    | some t => (o.marks p).map fun r => { by_ := .reg r, trap := t, op := o.id }
    | none => []
  mk 9 (fun q => q.poison) 0 false ++ mk 9 (fun q => q.status == .unreachable) 0 true ++
    mk 11 Req.wasRefused o.refusedBy false

/-- Have all requests of a store or reduction ended? -/
def MemOp.over_ (o : MemOp) : Bool := o.reqs.all fun q => q.status == .acked || q.status == .unreachable

/-- Merged reductions whose acknowledgement has come are acknowledged with it (R326). -/
def State.settleMerged (s : State) : State :=
  let merged (q : Req) : Bool :=
    match q.status with
    | .merged _ _ => true
    | _ => false
  let owed (q : Req) : Bool :=
    match q.status with
    | .merged id lane => s.memOps.any fun o => o.id == id && o.reqs.any fun x => x.lane == lane && !x.status.back
    | _ => true
  if !(s.memOps.any fun o => o.reqs.any fun q => merged q && !owed q) then s
  else
    let ack (o : MemOp) : MemOp := { o with reqs := mapIf o.reqs (fun q => !owed q) fun q => { q with status := .acked } }
    { s with memOps := (s.memOps.map ack).filter fun o => !(o.over_ && o.reqs.any fun q => q.status == .acked && o.inRegion && (match o.kind with
      | .red _ _ => true
      | _ => false)) }

/-- A store or reduction sector request is acknowledged once it has been performed and every sharer's invalidation is
confirmed (R120, R152); a refusal reaches the core in the same way, and takes with it the later accesses of the span
to the sector that wait behind it (Table 12.5). -/
def State.acknowledge (s : State) (id sec : Nat) : State :=
  match s.opOf id with
  | none => s
  | some o =>
    let here (q : Req) : Bool := sectorOf q.key == sec
    if o.kind = .load || s.invalidating (sec / 4) || s.replying id sec then s
    else
      let o1 : MemOp := { o with reqs := mapIf o.reqs (fun q => here q && q.status == .performed) fun q =>
        { q with status := .acked } }
      match o.kind with
      | .amo _ _ => s.putOp o1
      | .bar 1 => s.putOp o1
      | _ =>
        let bad (q : Req) : Bool := here q && q.wasRefused
        let o2 : MemOp := { o1 with reqs := mapIf o1.reqs bad fun q => { q with status := .acked } }
        let s1 :=
          match o.deferred 11 bad ({ o with reqs := o.reqs.filter bad }).refusedBy false with
          | none => s
          | some t =>
            let later (x : MemOp) : Bool := decide (o.id < x.id) && x.span = o.span && x.path == o.path
            let refuse (x : MemOp) : MemOp :=
              x.mapSector sec fun q => { q with status := .refused t.region }
            ({ s with memOps := mapIf s.memOps later refuse } : State).hold o.span
              [{ by_ := .issue, trap := t, op := id }]
        (if o2.over_ then { s1 with memOps := s1.memOps.filter fun x => x.id != id } else s1.putOp o2).settleMerged

/-- A lane's value of a completed load or atomic. -/
def MemOp.laneVal (o : MemOp) (i : Nat) : Nat :=
  match o.reqs.find? fun q => q.lane == i with
  | some q => q.result.toNat
  | none => 0

/-- Is an operation's result complete: no request is on its way, and an atomic's sharers are invalidated? -/
def State.opDone (s : State) (o : MemOp) : Bool :=
  o.reqs.all fun q => !q.status.onWay && (o.kind = .load || !s.invalidating (lineOf q.key))

/-- Writes the result of a completed vector or scalar operation of the focused span and clears its pending bits (R42,
R164, R167, R228). -/
def State.writeBack (s : State) (o : MemOp) : State :=
  let good (q : Req) : Bool := q.status == .performed || q.status == .acked
  let w := o.lanesOf good
  match o.dest with
  | .vec d wide =>
    let lo := (s.wv d w fun i => BitVec.ofNat 32 (o.laneVal i)).wtag d zeroTag
    let s1 := if wide then (lo.wv (next d) w fun i => BitVec.ofNat 32 (o.laneVal i / 2 ^ 32)).wtag (next d) zeroTag else lo
    s1.clearPending o.gang (if wide then vp d else vr d)
  | .scalar d =>
    let s1 := if o.reqs.all good then s.ws d (BitVec.ofNat 64 (o.laneVal 0)) else s
    s1.clearPending 0xFF (sr d)
  | _ => s

end Sys2Proof.Machine
end

