-- ==== Sys2Proof/Machine/Scalar.lean ====
section
/-!
DEFINITION. Class 0 and the immediates of class 1 (R232, R233): one exact result per instruction, narrowed once.
-/

noncomputable section

namespace Sys2Proof.Machine

open Sys2Proof

/-- N of R232: 32 with w, else 64. -/
def widthOf (w : Bool) : Nat := if w then 32 else 64

/-- An operand read as unsigned (R232). -/
def ua (w : Bool) (x : DWord) : Nat := x.toNat % 2 ^ widthOf w

/-- An operand read as signed (R232). -/
def sa (w : Bool) (x : DWord) : Int := sx x.toNat (widthOf w)

/-- The narrowing of R232: mod 2^64, or a 32-bit result sign-extended. -/
def narrow (w : Bool) (x : Int) : DWord :=
  if w then BitVec.ofInt 64 (sx (wrapTo 32 x) 32) else BitVec.ofNat 64 (wrapTo 64 x)

/-- `div`: truncating; b = 0 gives −1, and the most negative value by −1 gives itself (Table 8.4). -/
def divS (a b : Int) : Int := if b = 0 then -1 else Int.tdiv a b

/-- `rem`: b = 0 gives a. -/
def remS (a b : Int) : Int := if b = 0 then a else Int.tmod a b

/-- `divu`: b = 0 gives 2^N − 1. -/
def divU (w : Bool) (a b : Nat) : Nat := if b = 0 then 2 ^ widthOf w - 1 else a / b

/-- `remu`: b = 0 gives a. -/
def remU (a b : Nat) : Nat := if b = 0 then a else a % b

/-- `rol` within N bits. -/
def rolN (w : Bool) (a k : Nat) : Nat :=
  let n := widthOf w
  (a * 2 ^ k + a / 2 ^ (n - k)) % 2 ^ n

/-- p of `bext` and `bins`. -/
def bitPos (b : DWord) : Nat := fld b 0 6

/-- k of `bext` and `bins`. -/
def bitLen (b : DWord) : Nat := min (fld b 8 7) (64 - bitPos b)

/-- A truth value as a result. -/
def truth (b : Bool) : Int := if b then 1 else 0

/-- Writes S(d) := the narrowed result of two operands. -/
def State.alu (s : State) (d a b : RegNo) (w : Bool) (f : DWord → DWord → Int) : State :=
  s.ws d (narrow w (f (s.rs a) (s.rs b)))

/-- `add` (Table 8.4) -/
def execAdd (c : Bool) (d a b : RegNo) (w : Bool) (s : State) : Host.Outcome State Fault Refusal :=
  s.issue1 (.add c d a b w) fun t => t.alu d a b w (fun x y => ((ua w x + ua w y : Nat) : Int))

/-- `sub` (Table 8.4) -/
def execSub (c : Bool) (d a b : RegNo) (w : Bool) (s : State) : Host.Outcome State Fault Refusal :=
  s.issue1 (.sub c d a b w) fun t => t.alu d a b w (fun x y => (ua w x : Int) - (ua w y : Int))

/-- a + b + CY of `addc`. -/
def addcSum (w : Bool) (x y st : DWord) : Nat := ua w x + ua w y + (if statusCY st then 1 else 0)

/-- `addc`: the sum with CY, and CY := 1 when it reaches 2^N (Table 8.4) -/
def execAddc (c : Bool) (d a b : RegNo) (w : Bool) (s : State) : Host.Outcome State Fault Refusal :=
  s.issue1 (.addc c d a b w) fun t =>
    let x := addcSum w (t.rs a) (t.rs b) t.seen.status
    (t.ws d (narrow w x)).wstatus (statusSetCY t.sp.regs.status (decide (2 ^ widthOf w ≤ x)))

/-- `mul` (Table 8.4) -/
def execMul (c : Bool) (d a b : RegNo) (w : Bool) (s : State) : Host.Outcome State Fault Refusal :=
  s.issue1 (.mul c d a b w) fun t => t.alu d a b w (fun x y => ((ua w x * ua w y : Nat) : Int))

/-- `mulh` (Table 8.4) -/
def execMulh (c : Bool) (d a b : RegNo) (w : Bool) (s : State) : Host.Outcome State Fault Refusal :=
  s.issue1 (.mulh c d a b w) fun t => t.alu d a b w (fun x y => sa w x * sa w y / ((2 ^ widthOf w : Nat) : Int))

/-- `mulhu` (Table 8.4) -/
def execMulhu (c : Bool) (d a b : RegNo) (w : Bool) (s : State) : Host.Outcome State Fault Refusal :=
  s.issue1 (.mulhu c d a b w) fun t => t.alu d a b w (fun x y => ((ua w x * ua w y / 2 ^ widthOf w : Nat) : Int))

/-- `div` (Table 8.4) -/
def execDiv (c : Bool) (d a b : RegNo) (w : Bool) (s : State) : Host.Outcome State Fault Refusal :=
  s.issue1 (.div c d a b w) fun t => t.alu d a b w (fun x y => divS (sa w x) (sa w y))

/-- `divu` (Table 8.4) -/
def execDivu (c : Bool) (d a b : RegNo) (w : Bool) (s : State) : Host.Outcome State Fault Refusal :=
  s.issue1 (.divu c d a b w) fun t => t.alu d a b w (fun x y => (divU w (ua w x) (ua w y) : Int))

/-- `rem` (Table 8.4) -/
def execRem (c : Bool) (d a b : RegNo) (w : Bool) (s : State) : Host.Outcome State Fault Refusal :=
  s.issue1 (.rem c d a b w) fun t => t.alu d a b w (fun x y => remS (sa w x) (sa w y))

/-- `remu` (Table 8.4) -/
def execRemu (c : Bool) (d a b : RegNo) (w : Bool) (s : State) : Host.Outcome State Fault Refusal :=
  s.issue1 (.remu c d a b w) fun t => t.alu d a b w (fun x y => (remU (ua w x) (ua w y) : Int))

/-- `and` (Table 8.4) -/
def execAnd (c : Bool) (d a b : RegNo) (w : Bool) (s : State) : Host.Outcome State Fault Refusal :=
  s.issue1 (.and c d a b w) fun t => t.alu d a b w (fun x y => (Nat.land (ua w x) (ua w y) : Int))

/-- `or` (Table 8.4) -/
def execOr (c : Bool) (d a b : RegNo) (w : Bool) (s : State) : Host.Outcome State Fault Refusal :=
  s.issue1 (.or c d a b w) fun t => t.alu d a b w (fun x y => (Nat.lor (ua w x) (ua w y) : Int))

/-- `xor` (Table 8.4) -/
def execXor (c : Bool) (d a b : RegNo) (w : Bool) (s : State) : Host.Outcome State Fault Refusal :=
  s.issue1 (.xor c d a b w) fun t => t.alu d a b w (fun x y => (Nat.xor (ua w x) (ua w y) : Int))

/-- `andn` (Table 8.4) -/
def execAndn (c : Bool) (d a b : RegNo) (w : Bool) (s : State) : Host.Outcome State Fault Refusal :=
  s.issue1 (.andn c d a b w) fun t => t.alu d a b w (fun x y => (Nat.land (ua w x) (2 ^ widthOf w - 1 - ua w y) : Int))

/-- `shl` (Table 8.4) -/
def execShl (c : Bool) (d a b : RegNo) (w : Bool) (s : State) : Host.Outcome State Fault Refusal :=
  s.issue1 (.shl c d a b w) fun t => t.alu d a b w (fun x y => ((ua w x * 2 ^ (ua w y % widthOf w) : Nat) : Int))

/-- `shr` (Table 8.4) -/
def execShr (c : Bool) (d a b : RegNo) (w : Bool) (s : State) : Host.Outcome State Fault Refusal :=
  s.issue1 (.shr c d a b w) fun t => t.alu d a b w (fun x y => ((ua w x / 2 ^ (ua w y % widthOf w) : Nat) : Int))

/-- `sar` (Table 8.4) -/
def execSar (c : Bool) (d a b : RegNo) (w : Bool) (s : State) : Host.Outcome State Fault Refusal :=
  s.issue1 (.sar c d a b w) fun t => t.alu d a b w (fun x y => sa w x / ((2 ^ (ua w y % widthOf w) : Nat) : Int))

/-- `rol` (Table 8.4) -/
def execRol (c : Bool) (d a b : RegNo) (w : Bool) (s : State) : Host.Outcome State Fault Refusal :=
  s.issue1 (.rol c d a b w) fun t => t.alu d a b w (fun x y => (rolN w (ua w x) (ua w y % widthOf w) : Int))

/-- `min` (Table 8.4) -/
def execMin (c : Bool) (d a b : RegNo) (w : Bool) (s : State) : Host.Outcome State Fault Refusal :=
  s.issue1 (.min c d a b w) fun t => t.alu d a b w (fun x y => if sa w x ≤ sa w y then sa w x else sa w y)

/-- `max` (Table 8.4) -/
def execMax (c : Bool) (d a b : RegNo) (w : Bool) (s : State) : Host.Outcome State Fault Refusal :=
  s.issue1 (.max c d a b w) fun t => t.alu d a b w (fun x y => if sa w x ≤ sa w y then sa w y else sa w x)

/-- `minu` (Table 8.4) -/
def execMinu (c : Bool) (d a b : RegNo) (w : Bool) (s : State) : Host.Outcome State Fault Refusal :=
  s.issue1 (.minu c d a b w) fun t => t.alu d a b w (fun x y => ((if ua w x ≤ ua w y then ua w x else ua w y : Nat) : Int))

/-- `maxu` (Table 8.4) -/
def execMaxu (c : Bool) (d a b : RegNo) (w : Bool) (s : State) : Host.Outcome State Fault Refusal :=
  s.issue1 (.maxu c d a b w) fun t => t.alu d a b w (fun x y => ((if ua w x ≤ ua w y then ua w y else ua w x : Nat) : Int))

/-- `cmp.eq` (Table 8.4) -/
def execCmpEq (c : Bool) (d a b : RegNo) (w : Bool) (s : State) : Host.Outcome State Fault Refusal :=
  s.issue1 (.cmpEq c d a b w) fun t => t.alu d a b w (fun x y => truth (sa w x == sa w y))

/-- `cmp.ne` (Table 8.4) -/
def execCmpNe (c : Bool) (d a b : RegNo) (w : Bool) (s : State) : Host.Outcome State Fault Refusal :=
  s.issue1 (.cmpNe c d a b w) fun t => t.alu d a b w (fun x y => truth (sa w x != sa w y))

/-- `cmp.lt` (Table 8.4) -/
def execCmpLt (c : Bool) (d a b : RegNo) (w : Bool) (s : State) : Host.Outcome State Fault Refusal :=
  s.issue1 (.cmpLt c d a b w) fun t => t.alu d a b w (fun x y => truth (decide (sa w x < sa w y)))

/-- `cmp.ge` (Table 8.4) -/
def execCmpGe (c : Bool) (d a b : RegNo) (w : Bool) (s : State) : Host.Outcome State Fault Refusal :=
  s.issue1 (.cmpGe c d a b w) fun t => t.alu d a b w (fun x y => truth (decide (sa w y ≤ sa w x)))

/-- `cmp.ltu` (Table 8.4) -/
def execCmpLtu (c : Bool) (d a b : RegNo) (w : Bool) (s : State) : Host.Outcome State Fault Refusal :=
  s.issue1 (.cmpLtu c d a b w) fun t => t.alu d a b w (fun x y => truth (decide (ua w x < ua w y)))

/-- `cmp.geu` (Table 8.4) -/
def execCmpGeu (c : Bool) (d a b : RegNo) (w : Bool) (s : State) : Host.Outcome State Fault Refusal :=
  s.issue1 (.cmpGeu c d a b w) fun t => t.alu d a b w (fun x y => truth (decide (ua w y ≤ ua w x)))

/-- `sel` (Table 8.4) -/
def execSel (c : Bool) (d a b : RegNo) (s : State) : Host.Outcome State Fault Refusal :=
  s.issue1 (.sel c d a b) fun t => t.ws d (if t.rs d != 0 then t.rs a else t.rs b)

/-- `clz` (Table 8.4) -/
def execClz (c : Bool) (d a : RegNo) (w : Bool) (s : State) : Host.Outcome State Fault Refusal :=
  s.issue1 (.clz c d a w) fun t => t.ws d (narrow w (clzOf (widthOf w) (t.rs a).toNat))

/-- `ctz` (Table 8.4) -/
def execCtz (c : Bool) (d a : RegNo) (w : Bool) (s : State) : Host.Outcome State Fault Refusal :=
  s.issue1 (.ctz c d a w) fun t => t.ws d (narrow w (ctzOf (widthOf w) (t.rs a).toNat))

/-- `popc` (Table 8.4) -/
def execPopc (c : Bool) (d a : RegNo) (w : Bool) (s : State) : Host.Outcome State Fault Refusal :=
  s.issue1 (.popc c d a w) fun t => t.ws d (narrow w (popcOf (widthOf w) (t.rs a).toNat))

/-- `bext` (Table 8.4) -/
def execBext (c : Bool) (d a b : RegNo) (s : State) : Host.Outcome State Fault Refusal :=
  s.issue1 (.bext c d a b) fun t =>
    t.ws d (BitVec.ofNat 64 ((t.rs a).toNat / 2 ^ bitPos (t.rs b) % 2 ^ bitLen (t.rs b)))

/-- `bins` (Table 8.4) -/
def execBins (c : Bool) (d a b : RegNo) (s : State) : Host.Outcome State Fault Refusal :=
  s.issue1 (.bins c d a b) fun t => t.ws d (setFld (t.rs d) (bitPos (t.rs b)) (bitLen (t.rs b)) (t.rs a).toNat)

/-- `mov` (Table 8.4): the 64 bits, or with w a 32-bit result -/
def execMov (c : Bool) (d a : RegNo) (w : Bool) (s : State) : Host.Outcome State Fault Refusal :=
  s.issue1 (.mov c d a w) fun t => t.ws d (narrow w (t.rs a).toNat)

/-- i of Table 8.5. -/
def immS (i : BitVec 16) : Int := sx i.toNat 16

/-- wrap64(i) of Table 8.5. -/
def immW (i : BitVec 16) : DWord := BitVec.ofNat 64 (wrapTo 64 (immS i))

/-- `addi` (Table 8.5) -/
def execAddi (c : Bool) (d : RegNo) (i : BitVec 16) (s : State) : Host.Outcome State Fault Refusal :=
  s.issue1 (.addi c d i) fun t => t.ws d (BitVec.ofNat 64 (wrapTo 64 (((t.rs d).toNat : Int) + immS i)))

/-- `movi` (Table 8.5) -/
def execMovi (c : Bool) (d : RegNo) (i : BitVec 16) (s : State) : Host.Outcome State Fault Refusal :=
  s.issue1 (.movi c d i) fun t => t.ws d (immW i)

/-- `movhi` (Table 8.5) -/
def execMovhi (c : Bool) (d : RegNo) (i : BitVec 16) (s : State) : Host.Outcome State Fault Refusal :=
  s.issue1 (.movhi c d i) fun t => t.ws d (BitVec.ofNat 64 ((t.rs d).toNat * 2 ^ 16 + i.toNat))

/-- `andi` (Table 8.5) -/
def execAndi (c : Bool) (d : RegNo) (i : BitVec 16) (s : State) : Host.Outcome State Fault Refusal :=
  s.issue1 (.andi c d i) fun t => t.ws d (t.rs d &&& immW i)

/-- `ori` (Table 8.5) -/
def execOri (c : Bool) (d : RegNo) (i : BitVec 16) (s : State) : Host.Outcome State Fault Refusal :=
  s.issue1 (.ori c d i) fun t => t.ws d (t.rs d ||| i.setWidth 64)

/-- `xori` (Table 8.5) -/
def execXori (c : Bool) (d : RegNo) (i : BitVec 16) (s : State) : Host.Outcome State Fault Refusal :=
  s.issue1 (.xori c d i) fun t => t.ws d (t.rs d ^^^ i.setWidth 64)

/-- `cmpi.eq` (Table 8.5) -/
def execCmpiEq (c : Bool) (d : RegNo) (i : BitVec 16) (s : State) : Host.Outcome State Fault Refusal :=
  s.issue1 (.cmpiEq c d i) fun t => t.ws d (BitVec.ofInt 64 (truth (sx (t.rs d).toNat 64 == immS i)))

/-- `cmpi.ne` (Table 8.5) -/
def execCmpiNe (c : Bool) (d : RegNo) (i : BitVec 16) (s : State) : Host.Outcome State Fault Refusal :=
  s.issue1 (.cmpiNe c d i) fun t => t.ws d (BitVec.ofInt 64 (truth (sx (t.rs d).toNat 64 != immS i)))

/-- `cmpi.lt` (Table 8.5) -/
def execCmpiLt (c : Bool) (d : RegNo) (i : BitVec 16) (s : State) : Host.Outcome State Fault Refusal :=
  s.issue1 (.cmpiLt c d i) fun t => t.ws d (BitVec.ofInt 64 (truth (decide (sx (t.rs d).toNat 64 < immS i))))

/-- `cmpi.ge` (Table 8.5) -/
def execCmpiGe (c : Bool) (d : RegNo) (i : BitVec 16) (s : State) : Host.Outcome State Fault Refusal :=
  s.issue1 (.cmpiGe c d i) fun t => t.ws d (BitVec.ofInt 64 (truth (decide (immS i ≤ sx (t.rs d).toNat 64))))

/-- `cmpi.ltu` (Table 8.5) -/
def execCmpiLtu (c : Bool) (d : RegNo) (i : BitVec 16) (s : State) : Host.Outcome State Fault Refusal :=
  s.issue1 (.cmpiLtu c d i) fun t => t.ws d (BitVec.ofInt 64 (truth (decide ((t.rs d).toNat < (immW i).toNat))))

/-- `cmpi.geu` (Table 8.5) -/
def execCmpiGeu (c : Bool) (d : RegNo) (i : BitVec 16) (s : State) : Host.Outcome State Fault Refusal :=
  s.issue1 (.cmpiGeu c d i) fun t => t.ws d (BitVec.ofInt 64 (truth (decide ((immW i).toNat ≤ (t.rs d).toNat))))

/-- `shli` (Table 8.5) -/
def execShli (c : Bool) (d : RegNo) (i : BitVec 6) (s : State) : Host.Outcome State Fault Refusal :=
  s.issue1 (.shli c d i) fun t => t.ws d (BitVec.ofNat 64 ((t.rs d).toNat * 2 ^ i.toNat))

/-- `shri` (Table 8.5) -/
def execShri (c : Bool) (d : RegNo) (i : BitVec 6) (s : State) : Host.Outcome State Fault Refusal :=
  s.issue1 (.shri c d i) fun t => t.ws d (BitVec.ofNat 64 ((t.rs d).toNat / 2 ^ i.toNat))

end Sys2Proof.Machine

end
end

