-- ==== Sys2Proof/Machine/Control.lean ====
section
/-!
DEFINITION. Control flow of class 1, clause headers, `rte`, and instruction fetch (R28 to R41, R234 to R239, R416, R417).
A control transfer is recorded in its slices and made when every word of its packet has issued (R33).
-/

noncomputable section

namespace Sys2Proof.Machine

open Sys2Proof

/-! ## Fetch (R28, R29) -/

/-- Where the 12 bytes at a pc lie: one place, or one in each of two pages, and how many bytes at each (R29). -/
def State.fetchPlaces (s : State) (pc : Nat) : Except (WalkFault × Nat) (List (Place × Nat)) :=
  let asid := (vecAt s.sp.segs 0 Seg.invalid).asid
  let core := s.sp.id.core
  let second := (pc / 65536 + 1) * 65536
  let n1 := min 12 (second - pc)
  match s.translate core asid pc .fetch with
  | .error f => .error (f, pc)
  | .ok p1 =>
    if n1 = 12 then .ok [(p1, 12)]
    else
      match s.translate core asid second .fetch with
      | .error f => .error (f, second)
      | .ok p2 => .ok [(p1, n1), (p2, 12 - n1)]

/-- The packet at a pc, or why it cannot be fetched (R29).  A poisoned block gives its bytes (log 102). -/
def State.fetchBytes (s : State) (pc : Nat) : Except (WalkFault × Nat) (List Byte) :=
  match s.fetchPlaces pc with
  | .error e => .error e
  | .ok ps => .ok (ps.flatMap fun p => s.readKey p.1.slot p.1.key p.2)

/-- A fetch's use of the caches (R24, R89): a line that the core's instruction cache does not hold is read through the die's
caches. -/
def State.fetchUse (s : State) (pc : Nat) : State :=
  match s.fetchPlaces pc with
  | .error _ => s
  | .ok ps =>
    let sectors := ps.flatMap fun p => (sectorMasks p.1.key p.2).map fun x => (x.1, p.1.slot)
    sectors.foldl (fun t x =>
      let t1 := if t.core.icache.contains (x.1 / 4) then t else t.cacheRead (coreDie t.sp.id.core) (x.1 * 32) x.2 Policy.plain
      { t1 with core := t1.core.icacheUse (x.1 / 4) }) s

/-- The word of a slot in a packet's bytes. -/
def wordAt (bs : List Byte) (slot : Nat) : Word := BitVec.ofNat 32 (leOf ((bs.drop (4 * slot)).take 4))

/-- Is the word a clause header (class 15)? -/
def isHeader (w : Word) : Bool := fld w 27 4 == 15

/-- Does slot 0 of a packet hold a header, as far as it can be fetched? -/
def State.beginsClause (s : State) (pc : DWord) : Option Bool :=
  match s.fetchBytes pc.toNat with
  | .ok bs => some (isHeader (wordAt bs 0))
  | .error _ => none

/-! ## Clause headers (R36 to R39) -/

/-- The flags a header waits for: its mask, A and B (R38). -/
def headerFlags (w : BitVec 12) (a b : BitVec 4) : BitVec 12 :=
  w ||| maskOf 12 fun i => i == a.toNat || i == b.toNat

/-- Starts a clause instance for the issuing gang and makes its flags busy (R38). -/
def State.startClause (s : State) (l : BitVec 4) (a b : BitVec 4) : State :=
  let id := s.sp.nextClause
  let c : Clause :=
    { id := id, first := s.issue.pc, length := l, flagA := a, flagB := b, heldA := a != 15, heldB := b != 15,
      ended := false }
  let s1 := s.mapGang fun x => { x with clause := some id }
  ({ s1 with sp := { s1.sp with clauses := s1.sp.clauses ++ [c], nextClause := id + 1 } } : State).settle

/-- `.clause` (R38): waits for its flags without an issue slot, then starts the instance. -/
def execClauseStart (l : BitVec 4) (w : BitVec 12) (a b : BitVec 4) (s : State) : Host.Outcome State Fault Refusal :=
  s.issue1 (.clauseStart l w a b) fun t =>
    if t.sp.flags &&& headerFlags w a b != 0 then t.stall else t.startClause l a b

/-! ## Uniform transfers (R234) -/

/-- PC + 12 × displacement (R30). -/
def branchTarget (pc : DWord) (disp : BitVec 16) : DWord := BitVec.ofNat 64 (wrapTo 64 ((pc.toNat : Int) + 12 * sx disp.toNat 16))

/-- Records a transfer in each slice of the gang (R33). -/
def State.transfer (s : State) (f : Slice → Transfer) : State := s.mapGang fun x => { x with xfer := some (f x) }

/-- Every slice of the gang goes to one target with its mask and stack unchanged. -/
def State.goTo (s : State) (target : DWord) : State := s.transfer fun x => .go target x.cur x.stack

/-- `br` -/
def execBr (c : Bool) (p : BitVec 16) (s : State) : Host.Outcome State Fault Refusal :=
  s.issue1 (.br c p) fun t => t.goTo (branchTarget t.issue.pc p)

/-- `brc` -/
def execBrc (c : Bool) (d : RegNo) (p : BitVec 16) (s : State) : Host.Outcome State Fault Refusal :=
  s.issue1 (.brc c d p) fun t => if t.rs d != 0 then t.goTo (branchTarget t.issue.pc p) else t

/-- `call` -/
def execCall (c : Bool) (d : RegNo) (p : BitVec 16) (s : State) : Host.Outcome State Fault Refusal :=
  s.issue1 (.call c d p) fun t => (t.goTo (branchTarget t.issue.pc p)).ws d (t.issue.pc + 12)

/-- A register-indirect transfer: a target that is not a multiple of 12 raises MISALIGNED with the target (R29). -/
def State.goReg (s : State) (target : DWord) : State :=
  if target.toNat % 12 != 0 then s.raise (s.trapAt 6 target) else s.goTo target

/-- `ret` -/
def execRet (c : Bool) (d : RegNo) (s : State) : Host.Outcome State Fault Refusal :=
  s.issue1 (.ret c d) fun t => t.goReg (t.rs d)

/-- `jmpr` -/
def execJmpr (c : Bool) (d : RegNo) (s : State) : Host.Outcome State Fault Refusal :=
  s.issue1 (.jmpr c d) fun t => t.goReg (t.rs d)

/-! ## Divergence (R235, R236) -/

/-- CM of R235: the current mask without exited lanes. -/
def Slice.live (x : Slice) : BitVec 4 := x.cur &&& ~~~x.exited

/-- Entries that a `brv` pushes in a slice whose lanes T branch. -/
def brvNeed (x : Slice) (t : BitVec 4) : Nat := if t != 0 && x.live &&& ~~~t != 0 then 2 else 1

/-- The effect of `brv` on one slice whose lanes T branch (R235). -/
def brvSlice (pc target : DWord) (x : Slice) (t : BitVec 4) : Transfer :=
  let cm := x.live
  let f := cm &&& ~~~t
  let st := { kind := .rejoin, mask := cm, pc := none : StackEntry } :: x.stack
  if t == 0 then .go (pc + 12) cm st
  else if f == 0 then .go target cm st
  else .go target t ({ kind := .pending, mask := f, pc := some (pc + 12) } :: st)

/-- The lanes of slice j's current mask whose bit in a mask register is 1. -/
def takenLanes (x : Slice) (m : LaneMask) (j : Nat) : BitVec 4 := x.live &&& maskOf 4 fun k => bitOn m (4 * j + k)

/-- `brv` (R235) -/
def execBrv (c : Bool) (m : RegNo) (p : BitVec 16) (s : State) : Host.Outcome State Fault Refusal :=
  s.issue1 (.brv c m p) fun t =>
    let mask := t.rm m.toNat
    let deep (j : Nat) : Bool :=
      let x := t.sp.slice j
      16 < x.stack.length + brvNeed x (takenLanes x mask j)
    let bad := t.gangSlices.filter deep
    if !bad.isEmpty then t.raise { t.trapOf 0 7 with lanes := t.enabled &&& maskOf 32 fun i => bad.contains (i / 4) }
    else
      let put (j : Nat) (x : Slice) : Slice :=
        if t.inGang j then
          { x with xfer := some (brvSlice t.issue.pc (branchTarget t.issue.pc p) x (takenLanes x mask j)) }
        else x
      { t with sp := { t.sp with slices := vecMap t.sp.slices put } }

/-- Sets the PC of a rejoin entry on top of a stack (R236). -/
def setRejoin (st : List StackEntry) (pc : DWord) : List StackEntry :=
  match st with
  | [] => []
  | e :: t => if e.kind = .rejoin then { e with pc := some pc } :: t else e :: t

/-- The effect of `join` on a slice's stack (R236): an empty pending entry is discarded and the next is popped. -/
def joinStack (pc : DWord) (exited cur : BitVec 4) (st : List StackEntry) : Transfer :=
  match st with
  | [] => .go (pc + 12) cur []
  | e :: t =>
    let m := e.mask &&& ~~~exited
    if e.kind = .pending then
      if m == 0 then joinStack pc exited cur t else .go (e.pc.getD (pc + 12)) m (setRejoin t (pc + 12))
    else .go (pc + 12) m t

/-- `join` (R236) -/
def execJoin (c : Bool) (s : State) : Host.Outcome State Fault Refusal :=
  s.issue1 (.join c) fun t => t.transfer fun x => joinStack t.issue.pc x.exited x.live x.stack

/-- `nop` (R239) -/
def execNop (c : Bool) (s : State) : Host.Outcome State Fault Refusal := s.issue1 (.nop c) fun t => t

/-! ## Regang and exit (R237, R239) -/

/-- Is an access of the focused span on its own path, with its home in the reach of a scope and a status that satisfies p,
still owed? -/
def State.owes (s : State) (scope : Nat) (p : ReqStatus → Bool) : Bool :=
  s.memOps.any fun o => o.span = s.sp.id && o.path == 0 &&
    o.reqs.any fun q => p q.status && decide (s.reachOf o.span.core q.key ≤ scope)

/-- Is an access settled: acknowledged, or found unreachable?  A refusal is settled once it has reached its span. -/
def ReqStatus.settled (r : ReqStatus) : Bool := r == .acked || r == .unreachable

/-- Are all accesses of the focused span with homes in the reach of a scope performed and acknowledged, on its own path
(R367)? -/
def State.drained (s : State) (scope : Nat) : Bool := !s.owes scope fun r => !r.settled

/-- The same for the accesses that have been sent: those that wait for the next region are not of this one. -/
def State.sentDrained (s : State) (scope : Nat) : Bool := !s.owes scope fun r => !r.settled && r != .queued

/-- The region end of a timing W instruction (Table 12.1): the instruction waits as `fence.package` does, then the region
ends and the instruction goes on. -/
def State.afterDrain (s : State) (go : State → State) : State :=
  if s.drained 4 then go s.endRegion else s.stall

/-- `regang` (R239) -/
def execRegang (c : Bool) (s : State) : Host.Outcome State Fault Refusal :=
  s.issue1 (.regang c) fun t => t.afterDrain fun u => u.transfer fun _ => .regang t.issue.slot

/-- Do all slices of a span that have not exited wait at a `regang`? -/
def Span.allRegang (p : Span) : Bool :=
  vecAll p.slices (fun x => x.exited == 15 || x.wait == some .regang) && vecAny p.slices (fun x => x.wait == some .regang)

/-- The lowest slice that satisfies p. -/
def lowestSlice (p : Nat → Bool) : Nat := (positions 8 p).headD 0

/-- Slices of a gang with different PCs part: each takes the number of the lowest slice with its PC (R238). -/
def Span.part (sp : Span) (gang : BitVec 8) : Span :=
  { sp with slices := vecMap sp.slices fun j x =>
      if bitOn gang j then
        { x with gang := lowestSlice fun k => bitOn gang k && (sp.slice k).pc == x.pc && (sp.slice k).slot == x.slot &&
                                             (sp.slice k).exited != 15 }
      else x }

/-- A slice that enters a packet by a transfer (R41). -/
def Slice.enter (x : Slice) (pc : DWord) (fell : Bool) : Slice :=
  { x with pc := pc, slot := 0, clause := none, xfer := none, wait := none, again := none, left := x.pc, fell := fell }

/-- The waiting slices of a span are grouped by PC and go on at PC + 12 (R239). -/
def State.releaseRegang (s : State) : State :=
  if s.sp.allRegang then
    let next (x : Slice) : Slice := if x.wait == some .regang then x.enter (x.pc + 12) false else x
    let p := { s.sp with slices := vecMap s.sp.slices fun _ x => next x }
    ({ s with sp := p.part (maskOf 8 fun j => (p.slice j).exited != 15) } : State).settle
  else s

/-- `REGANG_RELEASE` (R239) -/
def execRegangRelease (sp : SpanId) (s : State) : Host.Outcome State Fault Refusal :=
  happens ((s.focus sp).releaseRegang)

/-- Lanes leave a stack, and entries are popped until one with a mask is found (R237). -/
def exitStack (gone : BitVec 4) (st : List StackEntry) : Option (StackEntry × List StackEntry) :=
  match st with
  | [] => none
  | e :: t =>
    let m := e.mask &&& ~~~gone
    if m == 0 then exitStack gone t
    else some ({ e with mask := m }, t.map fun x => { x with mask := x.mask &&& ~~~gone })

/-- A slice whose current lanes exit (R237). -/
def Slice.leave (x : Slice) : Slice :=
  let gone := x.exited ||| x.cur
  match exitStack gone x.stack with
  | some (e, t) => { x.enter (e.pc.getD (x.pc + 12)) false with exited := gone, cur := e.mask, stack := t }
  | none =>
    { x with exited := gone, cur := 0, stack := [], clause := none, xfer := none, wait := none, again := none }

/-! ## Return from a handler (R416, R417) -/

/-- The packet of FAULTPC. -/
def faultPacket (f : DWord) : DWord := BitVec.ofNat 64 (fld f 0 48)

/-- The slot of FAULTPC. -/
def faultSlot (f : DWord) : Nat := fld f 48 2

/-- Does FAULTPC name a packet from a slice's saved one to the last of its saved clause instance (R417)? -/
def Span.continues (p : Span) (x : Slice) (f : DWord) : Bool :=
  match x.clause with
  | none => false
  | some c =>
    match p.clauses.find? fun y => y.id == c with
    | none => false
    | some y =>
      decide (x.pc.toNat ≤ (faultPacket f).toNat) &&
        decide ((faultPacket f).toNat ≤ y.first.toNat + 12 * y.length.toNat)

/-- Makes the clause instances that slices stand in run again, their flags busy as before (R417; log 17). -/
def Span.resumeClauses (p : Span) : Span :=
  let cs := p.clauses.map fun c =>
    if p.inClause c.id then { c with ended := false, heldA := c.flagA != 15, heldB := c.flagB != 15 } else c
  { p with clauses := cs, flags := busyFlags cs }

/-- The trapped gang of a frame continues the saved instance, as its lowest slice tells. -/
def Span.frameContinues (p : Span) (f : Frame) : Bool :=
  p.continues (vecAt f.slices (lowestSlice (bitOn f.gang)) Slice.zero) p.trap.faultpc

/-- `rte` takes effect: the frame is restored, the trapped gang resumes at FAULTPC, and the span leaves privileged state
(R416, R417).  With PC and SLOT as at entry the gang stands as it stood, so that one whose `trap` or `brk` ended its clause
has fallen past it (R79); a word that had waited issues again alone (log 50). -/
def State.returnFromHandler (s : State) : State :=
  match s.sp.frame with
  | none => s
  | some f =>
    let p := s.sp
    let fpc := p.trap.faultpc
    let same := fpc == f.entry
    let slices := vecMap f.slices fun j x =>
      if bitOn f.gang j then
        let y := { x with pc := faultPacket fpc, slot := faultSlot fpc, wait := none }
        if same then { y with again := if x.slot = faultSlot fpc then x.again else none }
        else if p.continues x fpc then { y with xfer := none, again := none }
        else { y with clause := none, xfer := none, again := none, left := s.issue.pc, fell := false }
      else x
    let regs := { p.regs with s := (p.regs.s.set 62 f.s62).set 63 f.s63 }
    let p1 := { p with slices := slices, regs := regs, privileged := false, frame := none }
    ({ s with sp := p1.resumeClauses } : State).settle

/-- `rte` (R416): its faults are precise at the `rte`; it takes effect after its packet. -/
def execRte (c : Bool) (s : State) : Host.Outcome State Fault Refusal :=
  s.issue1 (.rte c) fun t =>
    let fpc := t.sp.trap.faultpc
    let pk := faultPacket fpc
    if pk.toNat % 12 != 0 || faultSlot fpc == 3 then t.raise (t.trapAt 6 pk)
    else
      let goes : Bool :=
        match t.sp.frame with
        | some f => t.sp.frameContinues f || fpc == f.entry
        | none => true
      if !goes && (faultSlot fpc != 0 || t.beginsClause pk == some false) then
        t.raise { t.trapOf 2 0 with addr := t.issue.pc }
      else t.transfer fun _ => .rte

/-! ## The end of a packet (R33, R41, R238) -/

/-- Is a slice's packet the last of its clause instance? -/
def Span.lastPacket (p : Span) (x : Slice) : Bool :=
  match x.clause with
  | none => true
  | some c =>
    match p.clauses.find? fun y => y.id == c with
    | none => true
    | some y => decide (y.first.toNat + 12 * y.length.toNat ≤ x.pc.toNat)

/-- How a slice stopped while it waits at a `regang` issues that word again: alone, at the end of its packet (R405). -/
def Span.regangAgain (p : Span) : Again :=
  { next := 3, more := [], view := { regs := p.regs, pend := p.pend, segs := p.segs, held := p.held, vregs := 64, tiles := 64, accs := 16 } }

/-- Where one slice goes when every word of its packet has issued. -/
def Span.advance (p : Span) (x : Slice) : Slice :=
  match x.xfer with
  | some (.go next cur stack) => { x.enter next false with cur := cur, stack := stack }
  | some (.regang k) => { x with xfer := none, wait := some .regang, slot := k, again := some p.regangAgain }
  | some .exit => x.leave
  | some .rte => x
  | none =>
    if p.lastPacket x then x.enter (x.pc + 12) true
    else { x with pc := x.pc + 12, slot := 0, wait := none, again := none }

/-- The gang has issued every word of its packet: transfers are made, slices part, and clause instances that control has
left end. -/
def State.endPacket (s : State) (gang : BitVec 8) : State :=
  let x := s.sp.slice (lowestSlice (bitOn gang))
  if x.xfer = some .rte then s.returnFromHandler
  else
    let p := { s.sp with slices := vecMap s.sp.slices fun j y => if bitOn gang j then s.sp.advance y else y }
    let s1 : State := ({ s with sp := p.part gang } : State).settle
    s1.releaseRegang

end Sys2Proof.Machine

end
end

