-- ==== Sys2Proof/Machine/LoadStore.lean ====
section
/-!
DEFINITION. Class 8: loads and stores, scalar forms, prefetch, hints, and cache operations (R141, R163 to R170), with the
engine window of segment E (R172).
-/

noncomputable section

namespace Sys2Proof.Machine

open Sys2Proof

/-! ## Operands -/

/-- The request hint of a class 8 word (R49, R163). -/
def hintOf (p : Option Pre) : BitVec 2 := (preOf p).rnd.setWidth 2

/-- The lanes of the gang with their offsets S(sa) + V(vb, lane) × 2^scl (R141). -/
def State.laneOffsets (s : State) (a b : RegNo) (l : BitVec 2) : List (Nat × Nat) :=
  s.lanes.map fun i => (i, (s.rs a).toNat + (s.rl b i).toNat * 2 ^ l.toNat)

/-- The offset S(sa) + S(sb) × 2^scl (R167). -/
def State.scalarOffset (s : State) (a b : RegNo) (l : BitVec 2) : Nat := (s.rs a).toNat + (s.rs b).toNat * 2 ^ l.toNat

/-- Must a span-path access wait to issue: its region is full (R357), or a returning atomic's value is owed, with which
the next region begins (Table 12.1; log 15)? -/
def State.pathBusy (s : State) : Bool :=
  s.regionFull ||
    s.memOps.any fun o => o.span = s.sp.id && o.path == 0 &&
      (match o.kind with
       | .amo _ _ => true
       | _ => false)

/-- Goes on when a span-path access may issue, else waits to issue. -/
def State.whenPathFree (s : State) (go : State → State) : State := if s.pathBusy then s.stall else go s

/-! ## The engine window (R172) -/

/-- ESTAT (Table 6.1). -/
def Span.estat (p : Span) : DWord :=
  let held := p.held.any fun h =>
    match h.by_ with
    | .command _ _ => true
    | _ => false
  BitVec.ofNat 64 (p.lastTok.toNat + p.cmds.length % 16 * 2 ^ 16 + (if held then 2 ^ 20 else 0))

/-- The 40 readable bytes of the window. -/
def Span.windowBytes (p : Span) : List Byte :=
  (List.range 4).flatMap (fun i => bytesLE 8 (vecAt p.window i 0).toNat) ++ bytesLE 8 p.estat.toNat

/-- Writes bytes into W0 to W3. -/
def Span.windowPut (p : Span) (off : Nat) (bs : List Byte) : Span :=
  let old := (List.range 4).flatMap fun i => bytesLE 8 (vecAt p.window i 0).toNat
  let new := (List.range 32).map fun i => if off ≤ i && i < off + bs.length then listAt bs (i - off) 0 else listAt old i 0
  { p with window := vecMap p.window fun i _ => BitVec.ofNat 64 (leOf ((new.drop (8 * i)).take 8)) }

/-- The checks of a window access: R142, then ACCESS_VIOLATION outside what Table 6.1 lists. -/
def State.withWindow (s : State) (u : Use) (size : Nat) (whole : Bool) (ls : List (Nat × Nat)) (go : State → State) :
    State :=
  s.withPlaces 6 u size whole ls fun ps =>
    let bad := ps.filter fun p => (if u.writes then 0x20 else 0x28) < p.va.toNat + size
    match s.laneTrap 8 (vecAt s.seenSegs 6 Seg.invalid).baseOf whole (bad.map fun p => (p.lane, p.off)) with
    | some t => s.raise t
    | none => go s

/-- Where segment E begins in the window: 0 as a launch sets it (R172). -/
def State.windowBase (s : State) : Nat := (vecAt s.seenSegs 6 Seg.invalid).baseOf

/-- A load from the window: performed at issue, its registers written on completion. -/
def State.windowLoad (s : State) (size : Nat) (dest : Dest) (whole : Bool) (refs : List Ref) (ls : List (Nat × Nat)) :
    State :=
  s.withWindow .read size whole ls fun t =>
    let bytes := t.sp.windowBytes
    let reqs := ls.map fun l =>
      let a := t.windowBase + l.2
      let p : Place := { lane := l.1, off := l.2, va := BitVec.ofNat 64 a, key := 2 ^ 60 + a, slot := 0, chain := 0,
                         uc := true, ro := true }
      { reqAt p size 0 0 with status := .performed, result := BitVec.ofNat 256 (leOf ((bytes.drop a).take size)) }
    (t.send { t.newOp .load dest 6 0 false with reqs := reqs, checked := false }).setPending refs

/-! ## Loads -/

/-- A load of the given places: the saddle rules, then the accesses (R164). -/
def State.loadPlaces (s : State) (k size : Nat) (dest : Dest) (refs : List Ref) (hint : BitVec 2) (nc : Bool)
    (ps : List Place) : State :=
  s.withSaddles k .load (ps.map fun p => (p, size)) fun t _ =>
    let t1 := t.fillFor k ps
    let reqs := ps.map fun p => reqAt { p with ro := p.ro || nc || k == 4 } size 0 0
    (t1.send { t1.newOp .load dest k hint false with nc := nc, reqs := reqs }).setPending refs

/-- A vector load (R164). -/
def State.vecLoad (s : State) (k : BitVec 3) (size : Nat) (d a b : RegNo) (l : BitVec 2) (hint : BitVec 2) (nc : Bool) :
    State :=
  let ls := s.laneOffsets a b l
  let dest : Dest := .vec d (size == 8)
  let refs := if size == 8 then vp d else vr d
  if ls.isEmpty then s
  else if k == 6 then s.windowLoad size dest false refs ls
  else s.whenPathFree fun t => t.withPlaces k.toNat .read size false ls fun ps => t.loadPlaces k.toNat size dest refs hint nc ps

/-- `ld` -/
def execLd (p : Option Pre) (c : Bool) (s : BitVec 3) (d a b : RegNo) (l : BitVec 2) (st : State) :
    Host.Outcome State Fault Refusal :=
  st.issue1 (.ld p c s d a b l) fun t => t.vecLoad s 4 d a b l (hintOf p) false

/-- `ld.64` -/
def execLd64 (p : Option Pre) (c : Bool) (s : BitVec 3) (d a b : RegNo) (l : BitVec 2) (st : State) :
    Host.Outcome State Fault Refusal :=
  st.issue1 (.ld64 p c s d a b l) fun t => t.vecLoad s 8 d a b l (hintOf p) false

/-- `ld.16` -/
def execLd16 (p : Option Pre) (c : Bool) (s : BitVec 3) (d a b : RegNo) (l : BitVec 2) (st : State) :
    Host.Outcome State Fault Refusal :=
  st.issue1 (.ld16 p c s d a b l) fun t => t.vecLoad s 2 d a b l (hintOf p) false

/-- `ld.8` -/
def execLd8 (p : Option Pre) (c : Bool) (s : BitVec 3) (d a b : RegNo) (l : BitVec 2) (st : State) :
    Host.Outcome State Fault Refusal :=
  st.issue1 (.ld8 p c s d a b l) fun t => t.vecLoad s 1 d a b l (hintOf p) false

/-- `ld.nc` (R164, R166) -/
def execLdNc (p : Option Pre) (c : Bool) (s : BitVec 3) (d a b : RegNo) (l : BitVec 2) (st : State) :
    Host.Outcome State Fault Refusal :=
  st.issue1 (.ldNc p c s d a b l) fun t => t.vecLoad s 4 d a b l (hintOf p) true

/-- `lds` (R167) -/
def execLds (p : Option Pre) (c : Bool) (s : BitVec 3) (d a b : RegNo) (l : BitVec 2) (st : State) :
    Host.Outcome State Fault Refusal :=
  st.issue1 (.lds p c s d a b l) fun t =>
    let ls := [(0, t.scalarOffset a b l)]
    if s == 6 then t.windowLoad 8 (.scalar d) true (sr d) ls
    else t.whenPathFree fun u => u.withPlaces s.toNat .read 8 true ls fun ps =>
      u.loadPlaces s.toNat 8 (.scalar d) (sr d) (hintOf p) false ps

/-! ## Stores -/

/-- A store of the given places with each lane's data (R164). -/
def State.storePlaces (s : State) (k size : Nat) (whole : Bool) (hint : BitVec 2) (data : Nat → Nat) (ps : List Place) :
    State :=
  s.withSaddles k .store (ps.map fun p => (p, size)) fun t logged =>
    let t1 := t.fillFor k ps
    t1.send { t1.newOp .store .none k hint logged with whole := whole, reqs := ps.map fun p => reqAt p size (data p.lane) 0 }

/-- A store into the window; lanes that write the same bytes leave the highest lane's value (R172). -/
def State.windowStore (s : State) (size : Nat) (whole : Bool) (data : Nat → Nat) (ls : List (Nat × Nat)) : State :=
  s.withWindow .write size whole ls fun t =>
    { t with sp := ls.foldl (fun p l => p.windowPut (t.windowBase + l.2) (bytesLE size (data l.1))) t.sp }

/-- A vector store (R164). -/
def State.vecStore (s : State) (k : BitVec 3) (size : Nat) (d a b : RegNo) (l : BitVec 2) (hint : BitVec 2) : State :=
  let ls := s.laneOffsets a b l
  let data (i : Nat) : Nat := (if size == 8 then s.rl64 d i else (s.rl d i).toNat) % 2 ^ (8 * size)
  if ls.isEmpty then s
  else if k == 6 then s.windowStore size false data ls
  else s.whenPathFree fun t => t.withPlaces k.toNat .write size false ls fun ps => t.storePlaces k.toNat size false hint data ps

/-- `st` -/
def execSt (p : Option Pre) (c : Bool) (s : BitVec 3) (d a b : RegNo) (l : BitVec 2) (st : State) :
    Host.Outcome State Fault Refusal :=
  st.issue1 (.st p c s d a b l) fun t => t.vecStore s 4 d a b l (hintOf p)

/-- `st.64` -/
def execSt64 (p : Option Pre) (c : Bool) (s : BitVec 3) (d a b : RegNo) (l : BitVec 2) (st : State) :
    Host.Outcome State Fault Refusal :=
  st.issue1 (.st64 p c s d a b l) fun t => t.vecStore s 8 d a b l (hintOf p)

/-- `st.16` -/
def execSt16 (p : Option Pre) (c : Bool) (s : BitVec 3) (d a b : RegNo) (l : BitVec 2) (st : State) :
    Host.Outcome State Fault Refusal :=
  st.issue1 (.st16 p c s d a b l) fun t => t.vecStore s 2 d a b l (hintOf p)

/-- `st.8` -/
def execSt8 (p : Option Pre) (c : Bool) (s : BitVec 3) (d a b : RegNo) (l : BitVec 2) (st : State) :
    Host.Outcome State Fault Refusal :=
  st.issue1 (.st8 p c s d a b l) fun t => t.vecStore s 1 d a b l (hintOf p)

/-- `sts` (R167) -/
def execSts (p : Option Pre) (c : Bool) (s : BitVec 3) (d a b : RegNo) (l : BitVec 2) (st : State) :
    Host.Outcome State Fault Refusal :=
  st.issue1 (.sts p c s d a b l) fun t =>
    let ls := [(0, t.scalarOffset a b l)]
    let data (_ : Nat) : Nat := (t.rs d).toNat
    if s == 6 then t.windowStore 8 true data ls
    else t.whenPathFree fun u => u.withPlaces s.toNat .write 8 true ls fun ps =>
      u.storePlaces s.toNat 8 true (hintOf p) data ps

/-! ## Prefetch, hints and cache operations -/

/-- The places of the gang's byte addresses that pass every check; the other lanes are dropped (R168, R169). -/
def State.bytePlaces (s : State) (k : Nat) (a b : RegNo) (l : BitVec 2) : List Place :=
  let g := vecAt s.seenSegs k Seg.invalid
  (s.laneOffsets a b l).filterMap fun x =>
    match s.checkNow s.sp.id.core g k .read x.1 x.2 1 with
    | .ok p => some p
    | _ => none

/-- Brings one line in under a hint (R168): into the L2 or RDC, and for every hint but 3 into the L1.  A prefetch is not an
access, so the home records nothing and a checked load still goes there (R146; log 16). -/
def State.prefetchLine (s : State) (k : Nat) (hint : BitVec 2) (p : Place) : State :=
  let g := vecAt s.seenSegs k Seg.invalid
  let pol : Policy := { hint := if hint == 3 then 0 else hint, stream := g.cpol == 1, uncached := g.cpol == 2 || p.uc,
                        chain := p.chain }
  let secs := (List.range 4).map fun i => lineOf p.key * 4 + i
  let s1 := secs.foldl (fun t x => t.cacheRead (coreDie t.sp.id.core) (x * 32) p.slot pol) s
  let ro := p.ro || k == 4
  let takes (x : Nat) : Bool := !s1.poisoned (x * 32) && !s1.writeUnderway s1.sp.id.core x
  if hint == 3 || g.cpol != 0 || p.uc || (s1.remote p.key && k != 4) then s1
  else
    { s1 with core := (secs.filter takes).foldl (fun c x =>
        c.l1Fill { sector := x, kind := if ro then .readOnly else .region s1.sp.id.slot s1.region,
                   words := if ro then 0xFF else 0,
                   data := BitVec.ofNat 256 (leOf (s1.readKey p.slot (x * 32) 32)) } (hint == 1)) s1.core }

/-- `prefetch` (R168) -/
def execPrefetch (p : Option Pre) (c : Bool) (s : BitVec 3) (a b : RegNo) (l : BitVec 2) (st : State) :
    Host.Outcome State Fault Refusal :=
  st.issue1 (.prefetch p c s a b l) fun t =>
    (t.bytePlaces s.toNat a b l).foldl (fun u x => u.prefetchLine s.toNat (hintOf p) x) t

/-- Sets the priority of a line wherever it is present: its home's L2, the issuing die's RDC, and the MSC (R169). -/
def State.setPriority (s : State) (prio : Prio) (p : Place) : State :=
  let pa := s.canonPa p.key
  let mine (x : Line) : Bool :=
    x.line == lineOf pa &&
      (match x.rdc with
       | none => true
       | some d => d.val == dieOf s.sp.id.core)
  let put (x : Line) : Line :=
    if s.memsys.demoted.contains x.chain then x else { x with prio := s.capped x prio }
  let putB (b : MscBlock) : MscBlock :=
    if s.memsys.demoted.contains b.chain then b else { b with prio := s.cappedMsc b.block prio }
  { s with memsys := { s.memsys with
      lines := mapIf s.memsys.lines mine put,
      msc := mapIf s.memsys.msc (fun b => b.block == blockOf pa) putB } }

/-- The effect of `hint` with a priority. -/
def State.hintLines (s : State) (k : Nat) (prio : Prio) (a b : RegNo) (l : BitVec 2) : State :=
  (s.bytePlaces k a b l).foldl (fun u x => u.setPriority prio x) s

/-- `hint.norm` (R169) -/
def execHintNorm (p : Option Pre) (c : Bool) (s : BitVec 3) (a b : RegNo) (l : BitVec 2) (st : State) :
    Host.Outcome State Fault Refusal :=
  st.issue1 (.hintNorm p c s a b l) fun t => t.hintLines s.toNat .normal a b l

/-- `hint.first` (R169) -/
def execHintFirst (p : Option Pre) (c : Bool) (s : BitVec 3) (a b : RegNo) (l : BitVec 2) (st : State) :
    Host.Outcome State Fault Refusal :=
  st.issue1 (.hintFirst p c s a b l) fun t => t.hintLines s.toNat .evictFirst a b l

/-- `hint.last` (R169) -/
def execHintLast (p : Option Pre) (c : Bool) (s : BitVec 3) (a b : RegNo) (l : BitVec 2) (st : State) :
    Host.Outcome State Fault Refusal :=
  st.issue1 (.hintLast p c s a b l) fun t => t.hintLines s.toNat .evictLast a b l

/-- `hint.low` (R169) -/
def execHintLow (p : Option Pre) (c : Bool) (s : BitVec 3) (a b : RegNo) (l : BitVec 2) (st : State) :
    Host.Outcome State Fault Refusal :=
  st.issue1 (.hintLow p c s a b l) fun t => t.hintLines s.toNat .low a b l

/-- How `cinv` and `cflush` check a segment: as a load of size 1, segment K being refused (R170). -/
def cacheUse (k : BitVec 3) : Use := if k == 4 then .write else .read

/-- `cinv` (R170): the issuing core's L1 loses each line, whatever its kind. -/
def execCinv (p : Option Pre) (c : Bool) (s : BitVec 3) (a b : RegNo) (l : BitVec 2) (st : State) :
    Host.Outcome State Fault Refusal :=
  st.issue1 (.cinv p c s a b l) fun t =>
    t.withPlaces s.toNat (cacheUse s) 1 false (t.laneOffsets a b l) fun ps =>
      { t with core := t.core.l1Keep fun x => !ps.any fun q => lineOf q.key == x.sector / 4 }

/-- `cflush` (R170): a span-path request for each line; a fence waits for its codeword. -/
def execCflush (p : Option Pre) (c : Bool) (s : BitVec 3) (a b : RegNo) (l : BitVec 2) (st : State) :
    Host.Outcome State Fault Refusal :=
  st.issue1 (.cflush p c s a b l) fun t =>
    let ls := t.laneOffsets a b l
    if ls.isEmpty then t
    else t.whenPathFree fun u => u.withPlaces s.toNat (cacheUse s) 1 false ls fun ps =>
      u.send { u.newOp .flush .none s.toNat 0 false with checked := false, reqs := ps.map fun q => reqAt q 0 0 0 }

end Sys2Proof.Machine

end
end

