-- ==== Sys2Proof/Machine/Atomics.lean ====
section
/-!
DEFINITION. Class 9 up to the barriers: returning atomics (R328 to R332), reductions (R333, R334), and the barrier
instructions that do not wait (R341, R342).
-/

noncomputable section

namespace Sys2Proof.Machine

open Sys2Proof

/-- The lanes of the gang with the offsets V(vb, lane, 64). -/
def State.pairOffsets (s : State) (b : RegNo) : List (Nat × Nat) := s.lanes.map fun i => (i, s.rl64 b i)

/-- Element V(n, lane) of a type's width. -/
def State.typElem (s : State) (t : BitVec 3) (n : RegNo) (i : Nat) : Nat :=
  if typBytes t == 8 then s.rl64 n i else (s.rl n i).toNat

/-- The comparand of `cas`: V(vd + 1, lane), or the pair vd + 2. -/
def State.casElem (s : State) (t : BitVec 3) (d : RegNo) (i : Nat) : Nat :=
  if typBytes t == 8 then s.rl64 (next (next d)) i else (s.rl (next d) i).toNat

/-- The places of an atomic or reduction, after the checks of R328 and the saddle rules. -/
def State.withUpdates (s : State) (k : BitVec 3) (t : BitVec 3) (b : RegNo) (go : State → Bool → List Place → State) :
    State :=
  s.withPlaces k.toNat .atomic (typBytes t) false (s.pairOffsets b) fun ps =>
    s.withSaddles k.toNat .update (ps.map fun p => (p, typBytes t)) fun u logged => go (u.fillFor k.toNat ps) logged ps

/-- A returning atomic (R330): it waits as `fence` of its scope, its region ends, and it is sent (Table 12.1). -/
def State.amo (s : State) (op t p k : BitVec 3) (d b : RegNo) : State :=
  if s.lanes.isEmpty then s
  else
    s.whenPathFree fun u => u.withUpdates k t b fun v logged ps =>
      if !v.drained p.toNat then s.stall
      else
        let w := v.endRegion
        let req (q : Place) : Req := reqAt q (typBytes t) (w.typElem t d q.lane) (if op == 7 then w.casElem t d q.lane else 0)
        (w.send { w.newOp (.amo op t) (.vec d (typBytes t == 8)) k.toNat 0 logged with checked := false, reqs := ps.map req }).setPending
          (va t d)

/-- A reduction (R333): sent in the span's current region, with nothing returned. -/
def State.red (s : State) (op t k : BitVec 3) (d b : RegNo) : State :=
  if s.lanes.isEmpty then s
  else
    s.whenPathFree fun u => u.withUpdates k t b fun w logged ps =>
      w.send { w.newOp (.red op t) .none k.toNat 0 logged with
        reqs := ps.map fun q => reqAt q (typBytes t) (w.typElem t d q.lane) 0 }

/-- `amo.add` (R329, R330) -/
def execAmoAdd (c : Bool) (t p k : BitVec 3) (d b : RegNo) (s : State) : Host.Outcome State Fault Refusal :=
  s.issue1 (.amoAdd c t p k d b) fun u => u.amo 0 t p k d b

/-- `amo.min` (R329, R330) -/
def execAmoMin (c : Bool) (t p k : BitVec 3) (d b : RegNo) (s : State) : Host.Outcome State Fault Refusal :=
  s.issue1 (.amoMin c t p k d b) fun u => u.amo 1 t p k d b

/-- `amo.max` (R329, R330) -/
def execAmoMax (c : Bool) (t p k : BitVec 3) (d b : RegNo) (s : State) : Host.Outcome State Fault Refusal :=
  s.issue1 (.amoMax c t p k d b) fun u => u.amo 2 t p k d b

/-- `amo.and` (R329, R330) -/
def execAmoAnd (c : Bool) (t p k : BitVec 3) (d b : RegNo) (s : State) : Host.Outcome State Fault Refusal :=
  s.issue1 (.amoAnd c t p k d b) fun u => u.amo 3 t p k d b

/-- `amo.or` (R329, R330) -/
def execAmoOr (c : Bool) (t p k : BitVec 3) (d b : RegNo) (s : State) : Host.Outcome State Fault Refusal :=
  s.issue1 (.amoOr c t p k d b) fun u => u.amo 4 t p k d b

/-- `amo.xor` (R329, R330) -/
def execAmoXor (c : Bool) (t p k : BitVec 3) (d b : RegNo) (s : State) : Host.Outcome State Fault Refusal :=
  s.issue1 (.amoXor c t p k d b) fun u => u.amo 5 t p k d b

/-- `amo.xchg` (R329, R330) -/
def execAmoXchg (c : Bool) (t p k : BitVec 3) (d b : RegNo) (s : State) : Host.Outcome State Fault Refusal :=
  s.issue1 (.amoXchg c t p k d b) fun u => u.amo 6 t p k d b

/-- `amo.cas` (R329, R330) -/
def execAmoCas (c : Bool) (t p k : BitVec 3) (d b : RegNo) (s : State) : Host.Outcome State Fault Refusal :=
  s.issue1 (.amoCas c t p k d b) fun u => u.amo 7 t p k d b

/-- `red.add` (R333) -/
def execRedAdd (c : Bool) (t p k : BitVec 3) (d b : RegNo) (s : State) : Host.Outcome State Fault Refusal :=
  s.issue1 (.redAdd c t p k d b) fun u => u.red 0 t k d b

/-- `red.min` (R333) -/
def execRedMin (c : Bool) (t p k : BitVec 3) (d b : RegNo) (s : State) : Host.Outcome State Fault Refusal :=
  s.issue1 (.redMin c t p k d b) fun u => u.red 1 t k d b

/-- `red.max` (R333) -/
def execRedMax (c : Bool) (t p k : BitVec 3) (d b : RegNo) (s : State) : Host.Outcome State Fault Refusal :=
  s.issue1 (.redMax c t p k d b) fun u => u.red 2 t k d b

/-- `red.and` (R333) -/
def execRedAnd (c : Bool) (t p k : BitVec 3) (d b : RegNo) (s : State) : Host.Outcome State Fault Refusal :=
  s.issue1 (.redAnd c t p k d b) fun u => u.red 3 t k d b

/-- `red.or` (R333) -/
def execRedOr (c : Bool) (t p k : BitVec 3) (d b : RegNo) (s : State) : Host.Outcome State Fault Refusal :=
  s.issue1 (.redOr c t p k d b) fun u => u.red 4 t k d b

/-- `red.xor` (R333) -/
def execRedXor (c : Bool) (t p k : BitVec 3) (d b : RegNo) (s : State) : Host.Outcome State Fault Refusal :=
  s.issue1 (.redXor c t p k d b) fun u => u.red 5 t k d b

/-! ## Barrier instructions (R341, R342) -/

/-- A saddled task raises SADDLE_ESCAPE for an access to memory of another package (R352). -/
def State.unlessFar (s : State) (ps : List Place) (go : State → State) : State :=
  if s.grp.saddled && ps.any (fun p => s.remote p.key) then s.raise (s.trapOf 12 0) else go s

/-- The place of the word or barrier at S(sa) of a segment, checked for a use. -/
def State.withWord (s : State) (k : BitVec 3) (u : Use) (size : Nat) (a : RegNo) (go : State → Place → State) : State :=
  s.withPlaces k.toNat u size true [(0, (s.rs a).toNat)] fun ps =>
    s.unlessFar ps fun t =>
      match ps with
      | [] => t
      | p :: _ => go (t.fillFor k.toNat ps) p

/-- Sends a barrier instruction to its home. -/
def State.sendBar (s : State) (op : BitVec 3) (k : BitVec 3) (p : Place) (n : DWord) : State :=
  s.send { s.newOp (.bar op) .none k.toNat 0 false with checked := false, reqs := [reqAt p 16 n.toNat 0] }

/-- `bar.init` and `bar.expect`. -/
def State.barSet (s : State) (op : BitVec 3) (k : BitVec 3) (a b : RegNo) : State :=
  s.whenPathFree fun t => t.withWord k .atomic 16 a fun u p => u.sendBar op k p (u.rs b)

/-- `bar.init` (Table 11.2) -/
def execBarInit (c : Bool) (k : BitVec 3) (a b : RegNo) (s : State) : Host.Outcome State Fault Refusal :=
  s.issue1 (.barInit c k a b) fun t => t.barSet 0 k a b

/-- `bar.expect` (Table 11.2) -/
def execBarExpect (c : Bool) (k : BitVec 3) (a b : RegNo) (s : State) : Host.Outcome State Fault Refusal :=
  s.issue1 (.barExpect c k a b) fun t => t.barSet 3 k a b

/-- The arrival record of a barrier becomes the most recently used one, its response owed; four are held (R342). -/
def Span.arriveAt (p : Span) (key : Nat) : Span :=
  { p with arrivals := ({ key := key, gen := none : Arrival } :: p.arrivals.filter fun r => r.key != key).take 4 }

/-- `bar.arrive` (R341, R342): a release at its scope, which ends the region (Table 12.1). -/
def execBarArrive (c : Bool) (p k : BitVec 3) (a b : RegNo) (s : State) : Host.Outcome State Fault Refusal :=
  s.issue1 (.barArrive c p k a b) fun t =>
    t.whenPathFree fun u => u.withWord k .atomic 16 a fun v q =>
      if !v.drained p.toNat then t.stall
      else
        let w := v.endRegion.sendBar 1 k q (v.rs b)
        { w with sp := w.sp.arriveAt q.key }

/-- `ARRIVAL_RESPONSE` (R342): the response to a performed arrival fills the generation of the span's record. -/
def execArrivalResponse (op : Nat) (s : State) : Host.Outcome State Fault Refusal :=
  match s.opOf op with
  | none => happens s
  | some o =>
    match o.kind, o.reqs with
    | .bar 1, [q] =>
      if q.status == .acked && !s.answering o then
        let fill (r : Arrival) : Arrival := if r.key == q.key then { r with gen := some (BitVec.ofNat 8 q.result.toNat) } else r
        let s1 := s.updSpan o.span fun p => { p with arrivals := p.arrivals.map fill }
        happens { s1 with memOps := s1.memOps.filter fun x => x.id != op }
      else happens s
    | _, _ => happens s

end Sys2Proof.Machine

end
end

