-- ==== Sys2Proof/Machine/Submit.lean ====
section
/-!
DEFINITION. Giving work to the units of a core and a cluster: matrix-engine operations under the Reins (R270, R309) and
long operations whose result comes with their completion (R42).
-/

namespace Sys2Proof.Machine

open Sys2Proof

/-- Is an engine operation of a span accepted when it arrives at a core: no span holds the Reins, or the span does? -/
def Core.accepts (c : Core) (slot : BitVec 6) : Bool :=
  match c.holder with
  | none => true
  | some h => h == slot

/-- Enters an operation of the focused span: accepted ones stand before those that wait, each in order. -/
def State.enterOp (s : State) (kind : EngineKind) (region : RegionId) (refs : List Ref) : State :=
  let (id, s1) := s.newId
  let ok := s1.core.accepts s1.sp.id.slot
  let op : EngineOp :=
    { id := id, span := s1.sp.id, kind := kind, accepted := ok, modq := s1.seen.modq, xwin := s1.seen.xwin,
      segs := s1.seenSegs, clause := s1.gangClause, pc := s1.here, region := region, progress := 0, slices := [], faulted := false,
      gathered := (false, 0), parked := none, failed := none, since := s1.now, lost := false }
  let acc := s1.core.ops.filter fun o => o.accepted
  let wait := s1.core.ops.filter fun o => !o.accepted
  let ops := if ok then acc ++ [op] ++ wait else acc ++ wait ++ [op]
  ({ s1 with core := { s1.core with ops := ops } } : State).setPending refs

/-- The window of an FP32 sequence: M, N, CI and CJ. -/
abbrev SeqShape := Nat × Nat × Nat × Nat

/-- The sequence that the focused span's own operations leave on an accumulator (R302). -/
def State.noteSeq (s : State) (n : BitVec 4) (x : Option SeqShape) : State :=
  let others := s.sp.seqs.filter fun q => q.1 != n
  { s with sp := { s.sp with seqs := match x with
      | some w => (n, w) :: others
      | none => others } }

/-- Starts a long operation of the focused span that is not an access. -/
def State.slow (s : State) (kind : SlowKind) (xpipe : Bool) (region : RegionId) (ready : Bool) (refs : List Ref) : State :=
  let (id, s1) := s.newId
  let op : SlowOp :=
    { id := id, span := s1.sp.id, kind := kind, xpipe := xpipe, clause := s1.gangClause, pc := s1.here, segs := s1.seenSegs,
      region := region, ready := ready, parked := none, failed := none, since := s1.now, lost := false }
  ({ s1 with slowOps := s1.slowOps ++ [op] } : State).setPending refs

end Sys2Proof.Machine
end

