-- ==== Sys2Proof/Machine/Window.lean ====
section
/-!
DEFINITION. The exact window of R286 and R287: XWIN's fields and the accumulation of FP64 products, each truncated by
itself and then added exactly.
-/

namespace Sys2Proof.Machine

open Sys2Proof

/-- The window exponent X of an XWIN value. -/
def xwinExp (x : DWord) : Int := sx (fld x 0 16) 16

/-- SPEC of an XWIN value. -/
def xwinSpec (x : DWord) : Nat := fld x 17 2

/-- What an accumulation has gathered: the sum, whether bits were discarded, and the special state. -/
structure WinSum where
  acc    : Int
  sticky : Bool
  spec   : Nat
  deriving DecidableEq, Repr

/-- merge(s, v) (R287). -/
def specMerge (s v : Nat) : Nat := if s = 0 then v else if s = v || s = 3 then s else 3

/-- m × 2^e truncated to a multiple of 2^x, as its count, and whether bits were discarded. -/
def truncAt (m : Nat) (e x : Int) : Nat × Bool :=
  if x ≤ e then (m * 2 ^ (e - x).toNat, false) else (m / 2 ^ (x - e).toNat, m % 2 ^ (x - e).toNat != 0)

/-- Adds the product of two FP64 values to a window of exponent x (R287). -/
def WinSum.add (w : WinSum) (x : Int) (a b : FVal) : WinSum :=
  if a.isNaN || b.isNaN || fMulInvalid a b then { w with spec := 3 }
  else
    let neg := a.sign != b.sign
    match a, b with
    | .fin _ ma ea, .fin _ mb eb =>
      let (k, lost) := truncAt (ma * mb) (ea + eb) x
      { w with acc := w.acc + (if neg then -(k : Int) else (k : Int)), sticky := w.sticky || lost }
    | _, _ => { w with spec := specMerge w.spec (if neg then 2 else 1) }

/-- XWIN with STICKY ORed in and SPEC replaced. -/
def xwinPut (x : DWord) (sticky : Bool) (spec : Nat) : DWord :=
  setFld (if sticky then setBit x 16 true else x) 17 2 spec

/-- XWIN := x. -/
def State.wxwin (s : State) (x : DWord) : State := { s with sp := { s.sp with regs := { s.sp.regs with xwin := x } } }

end Sys2Proof.Machine
end

