-- ==== Sys2Proof/Machine/Big.lean ====
section
/-!
DEFINITION. Class 6, exact big numbers (R258 to R290): resident numbers and their slot words, the single-register
instructions, the exact window, and the issue of the instructions that run on the matrix engine or a Trotter.
-/

noncomputable section

namespace Sys2Proof.Machine

open Sys2Proof

/-! ## Resident numbers (R258 to R261) -/

/-- SPILLSLOT's limbs per register. -/
def State.slotLimbs (s : State) : Nat := fld s.sp.spillSlot 0 6

/-- The key of slot word i (limb 32 + i) of a register. -/
def State.slotKey (s : State) (n : RegNo) (i : Nat) : Nat :=
  scratchKey s.sp.id.core
    ((vecAt s.seenSegs 2 Seg.invalid).baseOf + fld s.sp.spillBase 0 19 + 4 * (n.toNat * s.slotLimbs + i))

/-- Limbs i0 to i1 − 1 of a list of words as a number from weight 0. -/
def limbSum (n : Nat) (f : Nat → Nat) : Nat :=
  match n with
  | 0 => 0
  | k + 1 => limbSum k f + f k * 2 ^ (32 * k)

/-- The magnitude of the first n lanes. -/
def State.laneMag (s : State) (r : RegNo) (n : Nat) : Nat := limbSum n fun i => (s.rl r i).toNat

/-- The magnitude of a register read at a length, slot words included. -/
def State.magAt (s : State) (r : RegNo) (len : Nat) : Nat :=
  s.laneMag r (min len 32) +
    (if 32 < len then leOf (Memory.bytes s.mem (s.slotKey r 0) (4 * (len - 32))) * 2 ^ 1024 else 0)

/-- A magnitude with a sign. -/
def signed (neg : Bool) (m : Nat) : Int := if neg then -(m : Int) else (m : Int)

/-- value(n) (R259). -/
def State.value (s : State) (r : RegNo) : Int := signed (s.rtag r).sign (s.magAt r (s.rtag r).len.toNat)

/-- The limbs below a register's length. -/
def State.limbsOf (s : State) (r : RegNo) : List Word :=
  let m := s.magAt r (s.rtag r).len.toNat
  (List.range (s.rtag r).len.toNat).map fun i => BitVec.ofNat 32 (m / 2 ^ (32 * i))

/-- The normalised length of a number (R259). -/
def bigLen (x : Int) : Nat := if x = 0 then 0 else Nat.log2 x.natAbs / 32 + 1

/-- put(d, x) for a number that fits (R259). -/
def State.putBig (s : State) (d : RegNo) (x : Int) : State :=
  let m := x.natAbs
  let len := bigLen x
  let s1 := s.wv d (BitVec.allOnes 32) fun i => BitVec.ofNat 32 (m / 2 ^ (32 * i))
  let s2 := if 32 < len then s1.homeWrite (s1.slotKey d 0) (bytesLE (4 * (len - 32)) (m / 2 ^ 1024)) 0 Policy.plain else s1
  s2.wtag d { len := BitVec.ofNat 7 len, sign := decide (x < 0) }

/-- LENGTH_OVERFLOW with the length that the result would have had. -/
def State.lengthTrap (s : State) (len : Nat) : TrapInfo := s.trapAt 15 (BitVec.ofNat 64 (min len (2 ^ 64 - 1)))

/-- put(d, x), or LENGTH_OVERFLOW (R259). -/
def State.putNum (s : State) (d : RegNo) (x : Int) : State :=
  if 32 + s.slotLimbs < bigLen x then s.raise (s.lengthTrap (bigLen x)) else s.putBig d x

/-- Do earlier accesses of the span that are still on their way touch a register's slot words (R261)? -/
def State.slotBusy (s : State) (r : RegNo) : Bool :=
  let lo := s.slotKey r 0
  let hi := lo + 4 * s.slotLimbs
  s.memOps.any fun o => o.span = s.sp.id && o.path == 0 &&
    o.reqs.any fun q => q.status.onWay && decide (q.key < hi) && decide (lo < q.key + q.bytes)

/-- Goes on when the slot words of the registers that may spill are quiet, else waits to issue. -/
def State.withSlots (s : State) (srcs : List RegNo) (dst : List RegNo) (go : State → State) : State :=
  let spilled := srcs.filter fun r => 32 < (s.rtag r).len.toNat
  if (spilled ++ dst).any s.slotBusy then s.stall else go s

/-- put of a result of resident numbers. -/
def State.bigResult (s : State) (d : RegNo) (srcs : List RegNo) (x : State → Int) : State :=
  s.withSlots srcs [d] fun t => t.putNum d (x t)

/-! ## The instructions of Table 9.4 -/

/-- `badd` (R267) -/
def execBadd (c : Bool) (d a b : RegNo) (s : State) : Host.Outcome State Fault Refusal :=
  s.issue1 (.badd c d a b) fun t => t.bigResult d [a, b] fun u => u.value a + u.value b

/-- `bsub` (R267) -/
def execBsub (c : Bool) (d a b : RegNo) (s : State) : Host.Outcome State Fault Refusal :=
  s.issue1 (.bsub c d a b) fun t => t.bigResult d [a, b] fun u => u.value a - u.value b

/-- `bneg` (R267) -/
def execBneg (c : Bool) (d a : RegNo) (s : State) : Host.Outcome State Fault Refusal :=
  s.issue1 (.bneg c d a) fun t => t.bigResult d [a] fun u => -u.value a

/-- `babs` (R267) -/
def execBabs (c : Bool) (d a : RegNo) (s : State) : Host.Outcome State Fault Refusal :=
  s.issue1 (.babs c d a) fun t => t.bigResult d [a] fun u => (u.value a).natAbs

/-- wrap64(−1), 0 or 1 as a number is below, equal to or above another. -/
def orderWord (a b : Int) : DWord := if a < b then BitVec.allOnes 64 else if a = b then 0 else 1

/-- `bcmp` (R267) -/
def execBcmp (c : Bool) (d a b : RegNo) (s : State) : Host.Outcome State Fault Refusal :=
  s.issue1 (.bcmp c d a b) fun t => t.withSlots [a, b] [] fun u => u.ws d (orderWord (u.value a) (u.value b))

/-- value × 2^n; the length is judged before the shift is made (R267). -/
def State.bigShl (s : State) (d a : RegNo) (n : Nat) : State :=
  s.withSlots [a] [d] fun t =>
    let x := t.value a
    if x = 0 then t.putBig d 0
    else
      let len := (Nat.log2 x.natAbs + n) / 32 + 1
      if 32 + t.slotLimbs < len then t.raise (t.lengthTrap len) else t.putBig d (x * 2 ^ n)

/-- sign × floor(|value| / 2^n) (R267). -/
def State.bigShr (s : State) (d a : RegNo) (n : Nat) : State :=
  s.bigResult d [a] fun u =>
    let x := u.value a
    if 4096 ≤ n then 0 else signed (decide (x < 0)) (x.natAbs / 2 ^ n)

/-- `bshl` with a scalar count (R267) -/
def execBshl (c : Bool) (d a b : RegNo) (s : State) : Host.Outcome State Fault Refusal :=
  s.issue1 (.bshl c d a b) fun t => t.bigShl d a (t.rs b).toNat

/-- `bshl` with an immediate (R267) -/
def execBshlI (c : Bool) (d a : RegNo) (i : BitVec 6) (s : State) : Host.Outcome State Fault Refusal :=
  s.issue1 (.bshlI c d a i) fun t => t.bigShl d a i.toNat

/-- `bshr` with a scalar count (R267) -/
def execBshr (c : Bool) (d a b : RegNo) (s : State) : Host.Outcome State Fault Refusal :=
  s.issue1 (.bshr c d a b) fun t => t.bigShr d a (t.rs b).toNat

/-- `bshr` with an immediate (R267) -/
def execBshrI (c : Bool) (d a : RegNo) (i : BitVec 6) (s : State) : Host.Outcome State Fault Refusal :=
  s.issue1 (.bshrI c d a i) fun t => t.bigShr d a i.toNat

/-- `bnorm` (R269): all 32 lanes, and slot words below the tag's length. -/
def execBnorm (c : Bool) (d a : RegNo) (s : State) : Host.Outcome State Fault Refusal :=
  s.issue1 (.bnorm c d a) fun t =>
    t.bigResult d [a] fun u => signed (u.rtag a).sign (u.magAt a (max 32 (u.rtag a).len.toNat))

/-- `blen` (R268) -/
def execBlen (c : Bool) (d a : RegNo) (s : State) : Host.Outcome State Fault Refusal :=
  s.issue1 (.blen c d a) fun t =>
    t.withSlots [a] [] fun u =>
      let x := u.value a
      let bits := if x = 0 then 0 else Nat.log2 x.natAbs + 1
      u.ws d (BitVec.ofNat 64 ((u.rtag a).len.toNat + bits * 2 ^ 32 + (if (u.rtag a).sign then 2 ^ 63 else 0)))

/-! ## The exact window (R287 to R290) -/

/-- Element i of an even pair as an FP64 value. -/
def State.f64At (s : State) (r : RegNo) (i : Nat) : FVal := FVal.ofBits Fmt.f64 (s.rl64 r i)

/-- `dotx` (R288) -/
def execDotx (c : Bool) (d a b : RegNo) (s : State) : Host.Outcome State Fault Refusal :=
  s.issue1 (.dotx c d a b) fun t =>
    t.withSlots [d] [d] fun u =>
      let xw := u.seen.xwin
      let w := (List.range 32).foldl (fun w i => w.add (xwinExp xw) (u.f64At a i) (u.f64At b i))
        { acc := 0, sticky := false, spec := xwinSpec xw : WinSum }
      let x := u.value d + w.acc
      if 32 < bigLen x then u.raise (u.lengthTrap (bigLen x))
      else (u.putBig d x).wxwin (xwinPut u.sp.regs.xwin w.sticky w.spec)

/-- `xround` (R289) -/
def execXround (c : Bool) (d a : RegNo) (s : State) : Host.Outcome State Fault Refusal :=
  s.issue1 (.xround c d a) fun t =>
    t.withSlots [a] [] fun u =>
      let xw := u.seen.xwin
      match xwinSpec xw with
      | 1 => u.ws d 0x7FF0000000000000
      | 2 => u.ws d 0xFFF0000000000000
      | 3 => u.ws d 0x7FF8000000000000
      | _ =>
        let (r, fl) := roundInt Fmt.f64 .rne (u.value a) (xwinExp xw) false
        let v := u.ws d (BitVec.ofNat 64 r)
        if fl.nx then v.wxwin (setBit v.sp.regs.xwin 19 true) else v

/-- `bcvt` (R290) -/
def execBcvt (c : Bool) (d b : RegNo) (s : State) : Host.Outcome State Fault Refusal :=
  s.issue1 (.bcvt c d b) fun t =>
    t.withSlots [] [d] fun u =>
      let xw := u.seen.xwin
      match FVal.ofBits Fmt.f64 (u.rs b).toNat with
      | .nan _ => (u.putBig d 0).wxwin (xwinPut u.sp.regs.xwin false 3)
      | .inf neg => (u.putBig d 0).wxwin (xwinPut u.sp.regs.xwin false (specMerge (xwinSpec xw) (if neg then 2 else 1)))
      | .fin neg m e =>
        let (k, lost) := truncAt m e (xwinExp xw)
        let x := signed neg k
        if 32 < bigLen x then u.raise (u.lengthTrap (bigLen x))
        else (u.putBig d x).wxwin (xwinPut u.sp.regs.xwin lost (xwinSpec xw))

/-! ## Products and quotients on the matrix engine (R270 to R274) -/

/-- `bmult` (R271) -/
def execBmult (c : Bool) (d a b : RegNo) (s : State) : Host.Outcome State Fault Refusal :=
  s.issue1 (.bmult c d a b) fun t =>
    t.withSlots [a, b] [] fun u =>
      (u.enterOp (.bmult (d.setWidth 4) (u.limbsOf a) (u.limbsOf b) ((u.rtag a).sign != (u.rtag b).sign)) u.region
        (ar d)).noteSeq (d.setWidth 4) none

/-- `bcres` (R272) -/
def execBcres (c : Bool) (d a : RegNo) (s : State) : Host.Outcome State Fault Refusal :=
  s.issue1 (.bcres c d a) fun t => t.enterOp (.bcres d (a.setWidth 4)) t.region (vr d ++ ar a)

/-- BIG_DIV_ZERO. -/
def State.bigDivZero (s : State) : State := s.raise (s.trapOf 16 0)

/-- `bdiv` (R273) -/
def execBdiv (c : Bool) (d a b : RegNo) (s : State) : Host.Outcome State Fault Refusal :=
  s.issue1 (.bdiv c d a b) fun t =>
    t.withSlots [a, b] [] fun u =>
      let x := u.value a
      let y := u.value b
      if y = 0 then u.bigDivZero
      else
        let limbs := (u.rtag a).len.toNat + 1 - (u.rtag b).len.toNat
        u.enterOp (.bdiv d x.natAbs y.natAbs (decide (x < 0)) (decide (y < 0)) limbs 0 (x.natAbs / 2 ^ (32 * limbs))) u.region
          (vr d ++ vr (next d))

/-- Barrett's steps (R274). -/
def barrett (x m mu k : Nat) : Int :=
  let q := x / 2 ^ (32 * (k - 1)) * mu / 2 ^ (32 * (k + 1))
  let r : Int := (x : Int) - (q * m : Nat)
  let r1 : Int := if (m : Int) ≤ r then r - m else r
  if (m : Int) ≤ r1 then r1 - m else r1

/-- `bmodb` (R274) -/
def execBmodb (c : Bool) (d a b : RegNo) (s : State) : Host.Outcome State Fault Refusal :=
  s.issue1 (.bmodb c d a b) fun t =>
    t.withSlots [a, b, next b] [] fun u =>
      let m := (u.value b).natAbs
      if m = 0 then u.bigDivZero
      else
        u.enterOp (.bmodb d (barrett (u.value a).natAbs m (u.value (next b)).natAbs (u.rtag b).len.toNat)) u.region (vr d)

/-! ## Long numbers (R275 to R281) -/

/-- A descriptor of a long number (R275). -/
structure Desc where
  seg  : BitVec 3
  off  : Nat
  len  : Nat
  cap  : Nat
  sign : Bool
  deriving DecidableEq, Repr

/-- The descriptor that two registers hold. -/
def descOf (x y : DWord) : Desc :=
  { seg := BitVec.ofNat 3 (fld x 61 3), off := fld x 0 61, len := fld y 0 32, cap := fld y 32 31, sign := bitOn y 63 }

/-- The second word of a descriptor with its length and sign written. -/
def descPut (y : DWord) (len : Nat) (sign : Bool) : DWord := setBit (setFld y 0 32 len) 63 sign

/-- Is a segment code allowed in a descriptor's position (R275)? -/
def Desc.allowed (d : Desc) (writes : Bool) : Bool := d.seg != 5 && d.seg != 6 && !(writes && d.seg == 4)

/-- ACCESS_VIOLATION for a descriptor whose segment is not allowed: the address is its offset field. -/
def State.descTrap (s : State) (d : Desc) : TrapInfo := s.trapAt 8 (BitVec.ofNat 64 d.off)

/-- Runs the checks of every limb of a descriptor's storage and goes on with its places (R276). -/
def State.withLimbs (s : State) (d : Desc) (writes : Bool) (n : Nat) (go : List Place → State) : State :=
  if !d.allowed writes then s.raise (s.descTrap d)
  else
    s.withPlaces d.seg.toNat (if writes then .write else .read) 4 true
      ((List.range n).map fun i => (i, d.off + 4 * i)) go

/-- `bspill` (R276): the limbs are stored in program order with the span's accesses, and the descriptor's new length and
sign arrive with the operation's completion. -/
def execBspill (c : Bool) (a b : RegNo) (s : State) : Host.Outcome State Fault Refusal :=
  s.issue1 (.bspill c a b) fun t =>
    t.withSlots [a] [] fun u =>
      let y := u.rs (next b)
      let d := descOf (u.rs b) y
      let limbs := u.limbsOf a
      let status : SlowKind := .status (next b) (descPut y limbs.length (u.rtag a).sign)
      let finish (v : State) : State := v.slow status true v.region true (sr (next b))
      if d.cap < limbs.length then u.raise (u.lengthTrap limbs.length)
      else if limbs.isEmpty then (if d.allowed true then finish u else u.raise (u.descTrap d))
      else
        u.whenPathFree fun v => v.withLimbs d true limbs.length fun ps =>
          v.withSaddles d.seg.toNat .store (ps.map fun p => (p, 4)) fun w logged =>
            let w1 := w.fillFor d.seg.toNat ps
            finish (w1.send { w1.newOp .store .none d.seg.toNat 0 logged with
              whole := true,
              reqs := ps.map fun p => reqAt p 4 (listAt limbs p.lane 0).toNat 0 })

/-- `bfill` (R276) -/
def execBfill (c : Bool) (d b : RegNo) (s : State) : Host.Outcome State Fault Refusal :=
  s.issue1 (.bfill c d b) fun t =>
    let e := descOf (t.rs b) (t.rs (next b))
    t.whenPathFree fun v => v.withLimbs e false e.len fun ps =>
      v.withSaddles e.seg.toNat .load (ps.map fun p => (p, 4)) fun w _ =>
        let w1 := w.fillFor e.seg.toNat ps
        let o := w1.newOp .load (.big d e.sign) e.seg.toNat 0 false
        (w1.send { o with reqs := ps.map fun p => reqAt { p with ro := p.ro || e.seg == 4 } 4 0 0 }).setPending (vr d)

/-- The first address past a segment's space (Table 5.3). -/
def spaceEnd (k : Nat) (core : CoreId) : Nat :=
  match k with
  | 2 => 0x80000
  | 3 => 48 * (clusterOf core + 1) * 0x80000
  | 5 => 0x8000
  | _ => 2 ^ 48

/-- The first check of R142 that n words at an address range of a descriptor fail (R280): its number, its code, and the
address of the first limb that fails it. -/
def State.wordsBad (s : State) (d : Desc) (writes : Bool) (n : Nat) : Option (Nat × Nat × Nat) :=
  let k := d.seg.toNat
  let g := vecAt s.seenSegs k Seg.invalid
  let a := g.baseOf + d.off
  if n = 0 then none
  else if a % 4 != 0 then some (1, 6, a)
  else if g.limit < d.off + 4 * n then some (2, 4, a + (g.limit - d.off) / 4 * 4)
  else if !g.valid || (writes && g.rdonly k) || !spaceOk k s.sp.id.core a then some (3, 8, a)
  else if !spaceOk k s.sp.id.core (a + 4 * n - 4) then some (3, 8, spaceEnd k s.sp.id.core)
  else none

/-- The trap of a long-number instruction's ranges, each a descriptor, whether it is written, and limbs (R275, R280): first
a segment code that is not allowed, then the earliest check of R142 that any of them fails; of ranges that fail the same
check the first one in the order sa, sb, sd is named (DESIGN CHOICE, log 58). -/
def State.rangesTrap (s : State) (rs : List (Desc × Bool × Nat)) : Option TrapInfo :=
  match rs.find? fun r => !r.1.allowed r.2.1 with
  | some r => some (s.descTrap r.1)
  | none =>
    let bad := rs.filterMap fun r => s.wordsBad r.1 r.2.1 r.2.2
    (bad.find? fun x => bad.all fun y => decide (x.1 ≤ y.1)).map fun x => s.trapAt x.2.1 (BitVec.ofNat 64 x.2.2)

/-- Does the launch allow Hayloft allocation for long results (R278)? -/
def State.longAlloc (s : State) : Bool := s.launchField 34 1 == 1

/-- Butterflies of a `blmul` on the Carousel (R282): for each of three primes three forward transforms, a pointwise product
and an inverse transform of the least power of two that is at least n and 64. -/
def mulButterflies (n : Nat) : Nat :=
  let l := max 6 (Nat.log2 (n - 1) + 1)
  3 * (4 * (2 ^ l / 2 * l) + 2 ^ l / 2)

/-- How a `blmul` of lengths la and lb is carried out (R282). -/
def State.mulVia (s : State) (la lb : Nat) : LongVia :=
  let lim := fld s.seen.nttlim 0 32
  if la = 0 ∨ lb = 0 then .trotter
  else if lim ≠ 0xFFFFFFFF ∧ max lim 64 ≤ min la lb then .carousel (mulButterflies (la + lb - 1))
  else .tiles

/-- Starts a long operation, and for a schoolbook product its pass through the matrix engine (R282). -/
def State.startLong (s : State) (kind : BitVec 3) (d : RegNo) (a b : DWord × DWord) (alloc : Bool) (via : LongVia)
    (refs : List Ref) : State :=
  let (r, s1) := s.newEngineRegion 3
  let s2 := s1.slow (.long kind d a b alloc via) true r false refs
  match via, s2.slowOps.getLast? with
  | .tiles, some o => s2.enterOp (.limbTiles o.id) s2.region []
  | _, _ => s2

/-- `bladd`, `blsub`, `blmul` and `blshift` from their bound on (R277 to R280).  LENGTH_OVERFLOW comes before the checks of
the ranges, with the bound in FAULTADDR (DESIGN CHOICE, log 58). -/
def State.longOp (s : State) (kind : BitVec 3) (d : RegNo) (a b : DWord × DWord) (srcs : List Desc) (bound : Nat)
    (tooLong : Bool) (via : LongVia) : State :=
  let dst := descOf (s.rs d) (s.rs (next d))
  let alloc := decide (dst.cap < bound)
  if tooLong || (alloc && !s.longAlloc) then s.raise (s.lengthTrap bound)
  else
    match s.rangesTrap (srcs.map (fun x => (x, false, x.len)) ++ [(dst, true, if alloc then 0 else bound)]) with
    | some t => s.raise t
    | none => s.startLong kind d a b alloc via (Machine.sp d)

/-- The descriptor pair that a register field names. -/
def State.pairAt (s : State) (r : RegNo) : DWord × DWord := (s.rs r, s.rs (next r))

/-- A long instruction of two descriptors. -/
def State.long2 (s : State) (kind : BitVec 3) (d a b : RegNo) (bound : Nat → Nat → Nat) (tooLong : Nat → Nat → Bool)
    (via : State → Nat → Nat → LongVia) : State :=
  s.unlessSaddled fun t =>
    let x := descOf (t.rs a) (t.rs (next a))
    let y := descOf (t.rs b) (t.rs (next b))
    t.longOp kind d (t.pairAt a) (t.pairAt b) [x, y] (bound x.len y.len) (tooLong x.len y.len) (via t x.len y.len)

/-- `bladd` (R277) -/
def execBladd (c : Bool) (d a b : RegNo) (s : State) : Host.Outcome State Fault Refusal :=
  s.issue1 (.bladd c d a b) fun t => t.long2 0 d a b (fun x y => max x y + 1) (fun _ _ => false) fun _ _ _ => .trotter

/-- `blsub` (R277) -/
def execBlsub (c : Bool) (d a b : RegNo) (s : State) : Host.Outcome State Fault Refusal :=
  s.issue1 (.blsub c d a b) fun t => t.long2 1 d a b (fun x y => max x y + 1) (fun _ _ => false) fun _ _ _ => .trotter

/-- `blmul` (R277) -/
def execBlmul (c : Bool) (d a b : RegNo) (s : State) : Host.Outcome State Fault Refusal :=
  s.issue1 (.blmul c d a b) fun t =>
    t.long2 2 d a b (fun x y => if x = 0 ∨ y = 0 then 0 else x + y)
      (fun x y => x != 0 && y != 0 && decide (2 ^ 20 < x + y - 1)) State.mulVia

/-- `blshift` (R277) -/
def execBlshift (c : Bool) (d a b : RegNo) (s : State) : Host.Outcome State Fault Refusal :=
  s.issue1 (.blshift c d a b) fun t =>
    t.unlessSaddled fun u =>
      let x := descOf (u.rs a) (u.rs (next a))
      let n := sx (u.rs b).toNat 64
      let bound := if 0 < n then x.len + (n.toNat + 31) / 32 else x.len
      u.longOp 4 d (u.pairAt a) (u.rs b, 0) [x] bound (decide (2 ^ 32 - 1 < bound)) .trotter

/-- `blcmp` (R277, R279) -/
def execBlcmp (c : Bool) (d a b : RegNo) (s : State) : Host.Outcome State Fault Refusal :=
  s.issue1 (.blcmp c d a b) fun t =>
    let x := descOf (t.rs a) (t.rs (next a))
    let y := descOf (t.rs b) (t.rs (next b))
    match t.rangesTrap [(x, false, x.len), (y, false, y.len)] with
    | some e => t.raise e
    | none => t.startLong 3 d (t.pairAt a) (t.pairAt b) false .trotter (sr d)

end Sys2Proof.Machine

end
end

