-- ==== Sys2Proof/Machine/Levels.lean ====
section
/-!
DEFINITION. The fields of a launch record and its levels (Tables 13.1 and 13.2, R378, R379, R402).
-/

namespace Sys2Proof.Machine

open Sys2Proof

/-- A level entry of a launch record. -/
def levelEntry (r : BitVec 2048) (i : Nat) : DWord := BitVec.ofNat 64 (fld r (448 + 64 * i) 64)

/-- COUNT. -/
def levelCount (r : BitVec 2048) (i : Nat) : Nat := fld (levelEntry r i) 0 32

/-- DOMAIN. -/
def levelDomain (r : BitVec 2048) (i : Nat) : Nat := fld (levelEntry r i) 32 3

/-- Number of levels: NLEV holds it minus 1. -/
def levelsOf (r : BitVec 2048) : Nat := fld r 8 3 + 1

/-- Is a level a span level (R378)? -/
def isSpanLevel (r : BitVec 2048) (i : Nat) : Bool := 2 ≤ levelDomain r i

/-- The product of the counts of the span levels below level n. -/
def spansBelow (r : BitVec 2048) (n : Nat) : Nat :=
  match n with
  | 0 => 1
  | k + 1 => (if isSpanLevel r k then levelCount r k else 1) * spansBelow r k

/-- Spans of one instance of a level. -/
def instanceSpans (r : BitVec 2048) (i : Nat) : Nat := spansBelow r (i + 1)

/-- The group level plus one, 0 when no level has domain span or core (R379). -/
def groupLevelAbove (r : BitVec 2048) (n : Nat) : Nat :=
  match n with
  | 0 => 0
  | k + 1 => if levelDomain r k == 2 || levelDomain r k == 3 then k + 1 else groupLevelAbove r k

/-- Spans of a group, g (R379). -/
def groupSpans (r : BitVec 2048) : Nat := spansBelow r (groupLevelAbove r (levelsOf r))

/-- Spans of the launch (R378). -/
def launchSpans (r : BitVec 2048) : Nat := spansBelow r (levelsOf r)

/-- The index of span number n at a level (R379). -/
def levelIndex (r : BitVec 2048) (n i : Nat) : Nat := n / spansBelow r i % levelCount r i

/-- The record of the focused group's launch; zeros without one. -/
def State.launchRecord (s : State) : BitVec 2048 :=
  match s.launchOf with
  | some l => l.record
  | none => 0

end Sys2Proof.Machine
end

