-- ==== Sys2Proof/Machine/Binding.lean ====
section
/-!
DEFINITION. Binding a phase to a core and ending it (R349, R385, R388 to R392, R394): the fields of a launch record, the
storage of a core, saddlebags, and the removal of the spans of a group.
-/

namespace Sys2Proof.Machine

open Sys2Proof

/-! ## Fields of a launch record (Table 13.1) -/

/-- BASEV, in registers. -/
def recBaseV (r : BitVec 2048) : Nat := 8 * (fld r 36 2 + 1)
/-- SL, limbs of a spill slot. -/
def recSl (r : BitVec 2048) : Nat := 8 * fld r 40 3
/-- KIMAGE. -/
def recImage (r : BitVec 2048) : Nat := fld r 64 64
/-- TEAMV. -/
def recTeamV (r : BitVec 2048) : Nat := fld r 320 13
/-- TEAMT. -/
def recTeamT (r : BitVec 2048) : Nat := fld r 336 7
/-- TEAMA. -/
def recTeamA (r : BitVec 2048) : Nat := fld r 343 5
/-- SCR in bytes. -/
def recScratch (r : BitVec 2048) : Nat := 1024 * fld r 352 10
/-- XKB in bytes. -/
def recScale (r : BitVec 2048) : Nat := 1024 * fld r 362 6
/-- SPOOL. -/
def recSpool (r : BitVec 2048) : Nat := fld r 368 7
/-- SPSPANS. -/
def recSpSpans (r : BitVec 2048) : Nat := fld r 376 7
/-- Carried scalars, ascending. -/
def recCarryS (r : BitVec 2048) : List Nat := positions 64 fun i => bitOn r (1536 + i)
/-- Carried vectors, ascending. -/
def recCarryV (r : BitVec 2048) : List Nat := positions 64 fun i => bitOn r (1600 + i)
/-- Carried masks, ascending; bit 0 is ignored. -/
def recCarryM (r : BitVec 2048) : List Nat := positions 16 fun i => i != 0 && bitOn r (1664 + i)
/-- The SEGDESC images of G, P, K and H. -/
def recSeg (r : BitVec 2048) (i : Nat) : Seg :=
  { base := BitVec.ofNat 64 (fld r (960 + 128 * i) 64), lim := BitVec.ofNat 64 (fld r (1024 + 128 * i) 64) }

/-- The accepted launch of a sequence number. -/
def State.launchBy (s : State) (seq : DWord) : Option Launch := s.host.launches.find? fun l => l.seq == seq

/-- Changes an accepted launch. -/
def State.updLaunch (s : State) (seq : DWord) (f : Launch → Launch) : State :=
  { s with host := { s.host with launches := mapIf s.host.launches (fun l => l.seq == seq) f } }

/-! ## Storage of a core (R383, R385, R394) -/

/-- The groups bound on a core. -/
def State.groupsOn (s : State) (k : CoreId) : List Group :=
  s.allGroups.filter fun g => g.id != 0 && g.bindRec.core == k

/-- The spans of a group. -/
def State.spansOf (s : State) (g : GroupId) : List Span := s.spans.filter fun p => p.group == g

/-- Is a span slot of a core empty? -/
def State.slotFree (s : State) (k : CoreId) (slot : Nat) : Bool :=
  !(s.spans.any fun p => p.id.core == k && p.id.slot.toNat == slot)

/-- The lowest run of n bytes below a limit that meets no run in use. -/
def fitRun (used : List (Nat × Nat)) (n limit : Nat) : Option Nat :=
  let starts := sortBy (fun a b => decide (a < b)) (0 :: used.map fun u => u.1 + u.2)
  starts.find? fun o => decide (o + n ≤ limit) && used.all fun u => decide (u.1 + u.2 ≤ o) || decide (o + n ≤ u.1)

/-- The record of a group's launch. -/
def State.recordBy (s : State) (seq : DWord) : BitVec 2048 :=
  match s.launchBy seq with
  | some l => l.record
  | none => 0

/-- A place for a group's scratch on a core. -/
def State.fitScratch (s : State) (k : CoreId) (n : Nat) : Option Nat :=
  fitRun ((s.groupsOn k).map fun g => (g.scratch, recScratch (s.recordBy g.launch))) n 0x80000

/-- A place for a group's scale memory on a core. -/
def State.fitScale (s : State) (k : CoreId) (n : Nat) : Option Nat :=
  if n = 0 then some 0 else fitRun ((s.groupsOn k).map fun g => (g.scale, recScale (s.recordBy g.launch))) n 0x8000

/-- Vector registers in use or reserved on a core. -/
def State.vregsOn (s : State) (k : CoreId) : Nat :=
  sumOf (s.groupsOn k) (fun g => g.bindRec.nspan.toNat * (8 * (g.bindRec.basev.toNat + 1))) +
    sumOf (s.coreOf k).teams fun t => t.teamv

/-- Can a core hold the base registers of n more spans of a launch, and its team pool if this is the team's first group
there (R385)? -/
def State.storageFor (s : State) (k : CoreId) (seq : DWord) (n base : Nat) : Bool :=
  let r := s.recordBy seq
  let c := s.coreOf k
  let team := c.teams.any fun t => t.launch == seq
  let v := s.vregsOn k + n * base
  if team then decide (v ≤ 4096)
  else
    decide (v + recTeamV r ≤ 4096) && decide (sumOf c.teams (fun t => t.teamt) + recTeamT r ≤ 64) &&
      decide (sumOf c.teams (fun t => t.teama) + recTeamA r ≤ 16)

/-- Does dispatch bind a record now (R385)? -/
def State.canBind (s : State) (b : BindRecord) : Bool :=
  let r := s.recordBy b.launch
  let n := b.nspan.toNat
  (s.launchBy b.launch).isSome && decide (0 < n) && decide (b.slot0.toNat + n ≤ 64) &&
    ((List.range n).all fun i => s.slotFree b.core (b.slot0.toNat + i)) &&
    s.storageFor b.core b.launch n (8 * (b.basev.toNat + 1)) && (s.fitScratch b.core (recScratch r)).isSome &&
    (s.fitScale b.core (recScale r)).isSome

/-! ## Saddlebags (R390) -/

/-- L, bytes of a span record. -/
def bagRecord (r : BitVec 2048) : Nat :=
  64 + 8 * (recCarryS r).length + 8 * (((recCarryM r).length + 1) / 2) + (recCarryV r).length * (136 + 4 * recSl r)

/-- Z, bytes of a buffer. -/
def bagSize (r : BitVec 2048) : Nat := 64 + 64 * bagRecord r

/-- The first byte of buffer b. -/
def bagBuffer (bag : Nat) (r : BitVec 2048) (b : Nat) : Nat := bag + 2112 + b * bagSize r

/-- n bytes of a saddlebag, read under key slot 0 (log 10). -/
def State.bagRead (s : State) (a n : Nat) : List Byte :=
  (cutSectors a (n / 32 + 2) 0 0 n).flatMap fun p => s.readKey 0 (a + p.off) p.len

/-- A byte string written into a saddlebag in pieces of one sector. -/
def State.bagWrite (s : State) (a : Nat) (bs : List Byte) : State :=
  (cutSectors a (bs.length / 32 + 2) 0 0 bs.length).foldl
    (fun t p => t.homeWrite (a + p.off) ((bs.drop p.off).take p.len) 0 Policy.plain) s

/-- CUR of a saddlebag. -/
def State.bagCur (s : State) (b : BindRecord) : Nat := fld (BitVec.ofNat 64 (leOf (s.bagRead b.bag.toNat 8))) 0 1

/-- Ranks of the spans that a phase binds, ascending. -/
def State.bindRanks (s : State) (r : BitVec 2048) (b : BindRecord) : List Nat :=
  if b.phase == 0 then List.range b.nspan.toNat
  else
    let at_ := bagBuffer b.bag.toNat r (s.bagCur b)
    let live : DWord := BitVec.ofNat 64 (leOf (s.bagRead (at_ + 8) 8))
    (positions 64 (bitOn live)).take b.nspan.toNat

/-- A span record (Table 13.6): the start packet, the live lanes, and what follows. -/
structure SpanRecord where
  pc    : DWord
  lanes : LaneMask
  regs  : Regs
  /-- Slot limbs of each carried vector. -/
  slots : List (Nat × List Byte)
  deriving DecidableEq, Repr

/-- The registers that the bytes of a span record hold, over zeroed registers. -/
def spanRecordOf (r : BitVec 2048) (bs : List Byte) : SpanRecord :=
  let ns := recCarryS r
  let ms := recCarryM r
  let vs := recCarryV r
  let at_ (off n : Nat) : Nat := leOf ((bs.drop off).take n)
  let mOff := 64 + 8 * ns.length
  let vOff := mOff + 8 * ((ms.length + 1) / 2)
  let vLen := 136 + 4 * recSl r
  let idx (l : List Nat) (n : Nat) : Option Nat := if l.contains n then some (l.idxOf n) else none
  let regs : Regs :=
    { Regs.zero with
      s := vecMap Regs.zero.s fun n _ =>
        match idx ns n with
        | some i => BitVec.ofNat 64 (at_ (64 + 8 * i) 8)
        | none => 0
      m := vecMap Regs.zero.m fun n _ =>
        match idx ms n with
        | some i => BitVec.ofNat 32 (at_ (mOff + 4 * i) 4)
        | none => 0
      v := vecMap Regs.zero.v fun n _ =>
        match idx vs n with
        | some i => lanesOf fun k => BitVec.ofNat 32 (at_ (vOff + vLen * i + 4 * k) 4)
        | none => zeroLanes
      tag := vecMap Regs.zero.tag fun n _ =>
        match idx vs n with
        | some i =>
          let t := at_ (vOff + vLen * i + 128) 8
          { len := BitVec.ofNat 7 (t % 128), sign := t.testBit 7 }
        | none => zeroTag }
  { pc := BitVec.ofNat 64 (at_ 0 8), lanes := BitVec.ofNat 32 (at_ 8 4), regs := regs,
    slots := (List.range vs.length).map fun i =>
      (listAt vs i 0, (bs.drop (vOff + vLen * i + 136)).take (4 * recSl r)) }

/-- Scratch key of the spill slot of a register for a span whose S begins at `base` and whose window begins at
SPILLBASE. -/
def spillKey (core : CoreId) (base spill sl n : Nat) : Nat := scratchKey core (base + spill + 4 * (n * sl))

/-- A vector register of a span as records hold it: 128 bytes of lanes, its tag word, and SL limbs from limb 32, zero at and
above its length (Table 13.6). -/
def State.vectorBytes (s : State) (p : Span) (sl n : Nat) : List Byte :=
  let tag := vecAt p.regs.tag n zeroTag
  let key := spillKey p.id.core (vecAt p.segs 2 Seg.invalid).baseOf (fld p.spillBase 0 19) sl n
  (List.range 32).flatMap (fun i => bytesLE 4 (laneAt (vecAt p.regs.v n zeroLanes) i).toNat) ++
    bytesLE 8 (tag.len.toNat + (if tag.sign then 128 else 0)) ++
    (List.range sl).flatMap fun i => if 32 + i < tag.len.toNat then Memory.bytes s.mem (key + 4 * i) 4 else bytesLE 4 0

/-- The bytes of a span's record at its commit (Table 13.6). -/
def State.spanRecordBytes (s : State) (r : BitVec 2048) (p : Span) : List Byte :=
  let lanes : LaneMask := maskOf 32 fun i => !bitOn (p.slice (i / 4)).exited (i % 4)
  let live := (positions 8 fun j => (p.slice j).exited != 15).headD 0
  let ms := recCarryM r
  bytesLE 8 ((p.slice live).pc + 12).toNat ++ bytesLE 4 lanes.toNat ++ bytesLE 52 0 ++
    (recCarryS r).flatMap (fun n => bytesLE 8 (vecAt p.regs.s n 0).toNat) ++
    ms.flatMap (fun n => bytesLE 4 (vecAt p.regs.m n 0).toNat) ++ (if ms.length % 2 = 1 then bytesLE 4 0 else []) ++
    (recCarryV r).flatMap (s.vectorBytes p (recSl r))

/-! ## Reading a kernel image -/

/-- n bytes at a virtual address of an ASID, translated piece by piece; bytes that cannot be translated are free
values. -/
def State.imageRead (s : State) (core : CoreId) (asid : BitVec 10) (va n : Nat) : List Byte × State :=
  (cutSectors va (n / 32 + 2) 0 0 n).foldl
    (fun r p =>
      match r.2.translateNow core asid (va + p.off) .read with
      | .ok q =>
        let t := (r.2.cacheRead none q.key q.slot { Policy.plain with chain := q.chain, uncached := q.uc }).fillTrans core asid (va + p.off)
        (r.1 ++ t.readKey q.slot q.key p.len, t)
      | .error _ =>
        let (x, t) := r.2.draw
        (r.1 ++ bytesLE p.len x, t)) ([], s)

/-- An initial-data descriptor (Table 13.10): segment, length, destination and source offsets. -/
def initDesc (bs : List Byte) : Nat × Nat × Nat × Nat :=
  let x : BitVec 128 := BitVec.ofNat 128 (leOf bs)
  (fld x 0 3, fld x 32 32, fld x 64 32, fld x 96 32)

/-- Zeroes n bytes of scratch or scale memory by the dispatch hardware (R392); whole sectors become clean. -/
def State.zeroRange (s : State) (key n : Nat) : State :=
  let s1 : State := { s with mem := s.mem.filter fun c => decide (c.1 < key) || decide (key + n ≤ c.1) }
  ({ s1 with memsys := { s1.memsys with
      poisonedSectors := s1.memsys.poisonedSectors.filter fun x => !(key ≤ x * 32 && x * 32 + 32 ≤ key + n) } } :
    State).evalMonitors key n

/-- Do two runs of bytes meet? -/
def runsMeet (a n b m : Nat) : Bool := decide (a < b + m) && decide (b < a + n)

/-- A group's scratch and scale memory is allocated: what earlier phases have left there is no longer theirs. -/
def Core.allot (c : Core) (scr n scl m : Nat) : Core :=
  { c with remains := c.remains.filter fun x => !runsMeet x.scratch x.scrLen scr n && !runsMeet x.scale x.sclLen scl m }

/-- May the S and X of a later phase hold what an earlier phase of its launch has left (R391)? -/
def Core.leftBy (c : Core) (seq : DWord) (scr n scl m : Nat) : Bool :=
  c.remains.any fun x => x.launch == seq && decide (x.scratch ≤ scr) && decide (scr + n ≤ x.scratch + x.scrLen) &&
    (m == 0 || (decide (x.scale ≤ scl) && decide (scl + m ≤ x.scale + x.sclLen)))

/-- S and X of a later phase: zero, or, where earlier phases of the launch have left them, either that or zero, a free choice
(R391). -/
def State.laterData (s : State) (core : CoreId) (seq : DWord) (r : BitVec 2048) (scr xb : Nat) : State :=
  let zeroed (t : State) : State := (t.zeroRange (scratchKey core scr) (recScratch r)).zeroRange (scaleKey core xb) (recScale r)
  if (s.coreOf core).leftBy seq scr (recScratch r) xb (recScale r) then
    let (i, t) := s.oneOf 2
    if i = 0 then t else zeroed t
  else zeroed s

/-- Writes the initial data of a launch's image into a group's S and X, and zero elsewhere (R392). -/
def State.writeInit (s : State) (core : CoreId) (r : BitVec 2048) (scr xb : Nat) : State :=
  let s1 := (s.zeroRange (scratchKey core scr) (recScratch r)).zeroRange (scaleKey core xb) (recScale r)
  let asid := (recSeg r 0).asid
  let (hd, s2) := s1.imageRead core asid (recImage r + 128) 8
  (List.range (min (leOf hd) 64)).foldl (fun t i =>
    let (d, t1) := t.imageRead core asid (recImage r + 136 + 16 * i) 16
    let (seg, len, dst, src) := initDesc d
    let (bs, t2) := t1.imageRead core asid (recImage r + src) len
    t2.homeWrite (if seg = 2 then scratchKey core (scr + dst) else scaleKey core (xb + dst)) bs 0 Policy.plain) s2

/-! ## The bind (R385, R391) -/

/-- A segment descriptor from its fields. -/
def segOfFields (base limit : Nat) (checked valid : Bool) : Seg :=
  { base := BitVec.ofNat 64 base,
    lim := BitVec.ofNat 64 (limit + (if checked then 2 ^ 50 else 0) + (if valid then 2 ^ 53 else 0)) }

/-- The eight segments of a span at its bind (R137, R139, R172, R385). -/
def bindSegments (r : BitVec 2048) (core : CoreId) (scr xb : Nat) : Vector Seg 8 :=
  #v[recSeg r 0, recSeg r 1, segOfFields scr (recScratch r) (bitOn r 1472) true,
     segOfFields (clusterOf core * 48 * 0x80000) 0x1800000 (bitOn r 1473) true, recSeg r 2,
     segOfFields xb (recScale r) false (recScale r != 0), segOfFields 0 0x100 false true, recSeg r 3]

/-- A span of a group at its bind. -/
def newSpan (id : SpanId) (gid : GroupId) (rank number : Nat) (segs : Vector Seg 8) (spill sl : Nat) (trapbase : DWord)
    (pc : DWord) (lanes : LaneMask) (regs : Regs) (now : DWord) : Span :=
  { Span.zero with
    id := id, group := gid, rank := rank, number := number, regs := regs,
    trap := { TrapRegs.zero with trapbase := BitVec.ofNat 64 (fld trapbase 0 48) },
    segs := segs, bindSegs := segs, spillBase := BitVec.ofNat 64 (spill % 2 ^ 19), spillSlot := BitVec.ofNat 64 sl,
    slices := vecMap Span.zero.slices fun j x =>
      let ex : BitVec 4 := maskOf 4 fun k => !bitOn lanes (4 * j + k)
      { x with pc := pc, cur := ~~~ex, exited := ex },
    regStart := now, live := true }

/-- Puts a new span into the machine. -/
def State.seat (s : State) (p : Span) : State :=
  if !s.sp.live then
    { s with
      sp := p, grp := (s.groupOf p.group).getD Group.zero,
      groups := (s.grp :: s.groups).filter (fun g => g.id != p.group && g.id != 0), core := s.coreOf p.id.core,
      cores := (s.core :: s.cores).filter fun c => c.id != p.id.core }
  else { s with rest := s.rest ++ [p] }

/-- The age stamp formed at a first bind (Table 11.4). -/
def State.newAge (s : State) (b : BindRecord) : BitVec 96 :=
  BitVec.ofNat 96 (b.slot0.toNat * 2 ^ 8 + b.core.toNat * 2 ^ 14 + s.fabric.pkg.toNat * 2 ^ 24 + s.now.toNat % 2 ^ 64 * 2 ^ 32)

/-- The team of a launch on a core, reserved at its first bind there (R394). -/
def Core.join (c : Core) (seq : DWord) (r : BitVec 2048) : Core :=
  if c.teams.any fun t => t.launch == seq then c
  else { c with teams := c.teams ++ [{ launch := seq, teamv := recTeamV r, teamt := recTeamT r, teama := recTeamA r }] }

/-- Another launch's phase binds: the core's L1 invalidates its read-only sectors (R149). -/
def Core.newLaunch (c : Core) (seq : DWord) : Core :=
  if c.lastLaunch == some seq then c
  else { (c.l1Keep fun x => x.kind != .readOnly) with lastLaunch := some seq }

/-- A spawned group of a launch. -/
def Launch.spawnOf (l : Launch) (b : BindRecord) : Option Spawned :=
  if b.spawned then l.spawned.find? fun x => x.seq == b.group.toNat else none

/-- The g of R379 for a bind: the launch's, or for a spawned group the least that its ranks and its number of spans
allow. -/
def groupSize (r : BitVec 2048) (b : BindRecord) (ranks : List Nat) : Nat :=
  if b.spawned then max b.nspan.toNat (ranks.foldl max 0 + 1) else groupSpans r

/-- The region sequence numbers with which a span of a slot begins: after those of a saved span that has left its regions
open under the same slot. -/
def State.firstSeq (s : State) (id : SpanId) : Vector (BitVec 21) 7 :=
  match (s.host.contexts.flatMap fun c => c.spans).find? fun p => p.id = id with
  | some p => p.regSeq
  | none => Vector.replicate 7 0

/-- Binds one span of a group: the carry set from its record, or the first phase's state (R391). -/
def State.bindSpan (s : State) (l : Launch) (b : BindRecord) (gid : GroupId) (scr xb g : Nat)
    (pos rank : Nat) : State :=
  let r := l.record
  let id : SpanId := { core := b.core, slot := BitVec.ofNat 6 (b.slot0.toNat + pos) }
  let sl := recSl r
  let spill := recScratch r - (g - rank) * 256 * sl
  let sw := l.spawnOf b
  let number := (match sw with
    | some w => w.spawner
    | none => b.group.toNat * g + rank)
  let entry := vecAt l.entries (match sw with
    | some w => w.point
    | none => fld r 11 4) 0
  let mk (pc : DWord) (lanes : LaneMask) (regs : Regs) : Span :=
    { newSpan id gid rank number (bindSegments r b.core scr xb) spill sl (vecAt l.entries 15 0) pc lanes regs s.now with
      regSeq := s.firstSeq id }
  if b.phase == 0 then
    let s0 : Vector DWord 64 :=
      match sw with
      | some w => vecMap Regs.zero.s fun i _ => listAt w.args i 0
      | none => vecPut Regs.zero.s 0 (BitVec.ofNat 64 (fld r 128 64))
    s.seat (mk entry (BitVec.allOnes 32) { Regs.zero with s := s0 })
  else
    let at_ := bagBuffer b.bag.toNat r (s.bagCur b) + 64 + bagRecord r * rank
    let rec_ := spanRecordOf r (s.bagRead at_ (bagRecord r))
    let s1 := rec_.slots.foldl (fun t x =>
      if (vecAt rec_.regs.tag x.1 zeroTag).len.toNat ≤ 32 then t
      else t.homeWrite (spillKey b.core scr spill sl x.1) x.2 0 Policy.plain) s
    s1.seat (mk rec_.pc rec_.lanes rec_.regs)

/-- Enters a group among those whose first phase has been bound. -/
def startedWith (l : List (BitVec 32 × CoreId)) (b : BindRecord) : List (BitVec 32 × CoreId) :=
  (b.group, b.core) :: l.filter fun x => x.1 != b.group

/-- The address of a group's log region of n entries in HBM4E: a place of Preic firmware's choice (R354; log 106). -/
def logPlace (launch : DWord) (group : BitVec 32) (n : Nat) : Nat := 64 * (Config.logRegion launch group % (2 ^ 33 - n))

/-- The bind of a group (R385): its storage, its age stamp, its spans. -/
def State.bindGroup (s : State) (die : Fin 4) (box : BitVec 12) (b : BindRecord) : State :=
  match s.launchBy b.launch with
  | none => s
  | some l =>
    let r := l.record
    let scr := (s.fitScratch b.core (recScratch r)).getD 0
    let xb := (s.fitScale b.core (recScale r)).getD 0
    let age := if b.age == 0 then s.newAge b else b.age
    let budget := fld r 1728 32
    let dl : DWord := if budget = 0 then b.deadline else s.now + BitVec.ofNat 64 (1000 * budget)
    let b1 : BindRecord := { b with age := age, deadline := dl }
    let (gid, s1) := s.newId
    let grp : Group :=
      { Group.zero with
        id := gid, launch := b.launch, die := die, box := box, bindRec := b1, scratch := scr, scale := xb,
        logBase := logPlace b.launch b.group (fld r 272 32),
        spawnEntry := (l.spawnOf b).map fun w => w.entry, spawner := ((l.spawnOf b).map fun w => w.spawner).getD 0 }
    let s2 : State := { s1 with groups := s1.groups ++ [grp] }
    let s3 := s2.updCore b.core fun c => (c.join b.launch r).newLaunch b.launch
    let s4 := if b.phase == 0 then s3.writeInit b.core r scr xb else s3.laterData b.core b.launch r scr xb
    let s4 := s4.updCore b.core fun c => c.allot scr (recScratch r) xb (recScale r)
    let ranks := s4.bindRanks r b
    let s5 := (List.range ranks.length).foldl
      (fun t i => t.bindSpan l b1 gid scr xb (groupSize r b ranks) i (listAt ranks i 0)) s4
    let s5 := if b.phase == 0 && !b.spawned then s5.updLaunch b.launch fun x => { x with started := startedWith x.started b } else s5
    { s5 with host := { s5.host with boxes := mapIf s5.host.boxes (fun x => x.die == die && x.num == box) fun x =>
        { x with state := 2, bindRec := b1 } } }

/-! ## Leaving a core -/

/-- Takes a span out of its slot: what it has placed elsewhere goes, and the Reins with it; its regions stay (R424). -/
def State.liftSpan (s : State) (id : SpanId) : State :=
  let s1 := s.withdraw id
  let leave (c : Core) : Core :=
    let c1 := if c.holder == some id.slot then { c with holder := none, ops := c.ops.map fun o => { o with accepted := true } } else c
    let stays (x : L1Sector) : Bool :=
      match x.kind with
      | .region sl _ => sl != id.slot
      | .readOnly => true
    { (c1.l1Keep stays) with offer := if c1.offer == some id.slot then none else c1.offer }
  let s2 := s1.updCore id.core leave
  { s2 with
    sp := if s2.sp.live && s2.sp.id = id then Span.zero else s2.sp,
    rest := s2.rest.filter (fun q => q.id != id),
    starter := s2.starter.filter fun e => !(e.inner.isSome && e.owner = id) }

/-- Removes a span from its slot for good: its regions close in order, and its Starter entries go (R388, R353). -/
def State.removeSpan (s : State) (id : SpanId) : State :=
  match s.spanOf id with
  | none => s
  | some p =>
    let s1 := (p.regions.foldl (fun t x => t.closeRegion x.id) s).liftSpan id
    { s1 with starter := s1.starter.filter fun e => !(e.words.isSome && e.owner = id && e.ownerGroup == p.group) }

/-- Removes a group and its spans from its core: its storage, registers and pool shares return (R388, R394). -/
def State.dropGroupBy (s : State) (g : GroupId) (away : State → SpanId → State) : State :=
  match s.groupOf g with
  | none => s
  | some x =>
    let s1 := (s.spansOf g).foldl (fun t p => away t p.id) s
    let s2 : State :=
      { s1 with grp := if s1.grp.id == g then Group.zero else s1.grp, groups := s1.groups.filter fun y => y.id != g }
    let team := (s2.groupsOn x.bindRec.core).any fun y => y.launch == x.launch
    let r := s.recordBy x.launch
    let left : Remains :=
      { launch := x.launch, scratch := x.scratch, scrLen := recScratch r, scale := x.scale, sclLen := recScale r }
    s2.updCore x.bindRec.core fun c =>
      { c with remains := left :: c.remains, teams := if team then c.teams else c.teams.filter fun t => t.launch != x.launch }

/-- The same for a group that leaves for good, or to be bound again. -/
def State.dropGroup (s : State) (g : GroupId) : State := s.dropGroupBy g State.removeSpan

/-- Sets the STATE of a group's box. -/
def State.setBox (s : State) (die : Fin 4) (box : BitVec 12) (st : BitVec 3) : State :=
  { s with host := { s.host with boxes := mapIf s.host.boxes (fun x => x.die == die && x.num == box) fun x =>
      { x with state := st } } }

/-- A spawned group has ended: its spawn entry is free again (R399). -/
def Core.endSpawn (c : Core) (g : Group) : Core :=
  match g.spawnEntry with
  | some e => { c with spawns := c.spawns.erase (g.launch, e) }
  | none => c

/-- One group of a launch has ended. -/
def State.groupEnded (s : State) (g : Group) : State :=
  (s.updCore g.bindRec.core fun c => c.endSpawn g).updLaunch g.launch fun l =>
    { l with liveGroups := l.liveGroups - 1,
             spawned := if g.bindRec.spawned then l.spawned.filter fun x => x.seq != g.bindRec.group.toNat else l.spawned }

/-- Have all spans of a group exited? -/
def State.allExited (s : State) (g : GroupId) : Bool :=
  let ps := s.spansOf g
  !ps.isEmpty && ps.all fun p => vecAll p.slices fun x => x.exited == 15

/-- The cause for which a bound group stops now, if it does (R415, R424, R434). -/
def State.stopCause (s : State) (g : Group) : Option (BitVec 4) :=
  let aborted : Bool :=
    match s.launchBy g.launch with
    | some l => l.aborting
    | none => false
  match g.status with
  | .unseating => none
  | .trapped _ _ => some 2
  | .running =>
    if aborted then some 0
    else if s.now.toNat < g.bindRec.deadline.toNat then none
    else if !g.preempted && fld (s.recordBy g.launch) 1728 32 != 0 then some 1
    else some 0

end Sys2Proof.Machine
end

