-- ==== Sys2Proof/Machine/Sync.lean ====
section
/-!
DEFINITION. Waiting on memory: `waitcmp` and its monitors (R335 to R338), `bar.wait` (R343, R456), and the fences (R346,
R367 to R369).
-/

noncomputable section

namespace Sys2Proof.Machine

open Sys2Proof

/-! ## Held faults of engine work -/

/-- Delivers a held fault precisely at the issuing instruction; a stopped command is no longer outstanding (R187). -/
def State.deliver (s : State) (h : Held) : State :=
  let s1 := s.dropHeld h
  let s2 : State :=
    match h.by_ with
    | .command tok _ => { s1 with sp := { s1.sp with cmds := s1.sp.cmds.filter fun x => x.token != tok } }
    | _ => s1
  s2.raise (s.heldTrap h)

/-- The oldest held fault that satisfies p; in handler state none is delivered (R414). -/
def State.oldestHeld (s : State) (p : HeldBy → Bool) : Option Held :=
  if s.sp.privileged then none else (s.sp.held.filter fun h => p h.by_).getLast?

/-! ## waitcmp (R335 to R337) -/

/-- Monitor entries of one home (R337). -/
def monitorCapacity : Nat := 4096

/-- Has the home of a place a free monitor entry?  A satisfying write frees its entry (R337). -/
def State.monitorFree (s : State) (key : Nat) : Bool :=
  decide ((s.monitors.filter fun m => m.home == homeOf key && !m.satisfied).length < monitorCapacity)

/-- A monitor entry of the issuing gang. -/
def State.newMonitor (s : State) (key : Nat) (cond : BitVec 3) (v addr : DWord) (bar : Bool) (deadline : Option DWord) :
    Nat × State :=
  let (id, s1) := s.newId
  let m : Monitor :=
    { id := id, span := s.sp.id, gang := s.issue.gang, home := homeOf key, key := key, cond := cond, value := v, addr := addr, bar := bar,
      deadline := deadline, satisfied := false, poison := false, away := none }
  (id, { s1 with monitors := s1.monitors ++ [m] })

/-- The completion of `waitcmp`: its region ends (Table 12.1) and STATUS takes UNARM and TMO. -/
def State.waitDone (s : State) (unarm tmo : Bool) : State :=
  let t := s.endRegion
  t.wstatus (statusWait t.sp.regs.status unarm tmo)

/-- Must a synchronisation read wait: for an earlier access of the span to its sector (R119), or for the region of
another writer to close (R371)? -/
def State.readBlocked (s : State) (key n : Nat) : Bool :=
  s.syncBlocked s.sp.id key n || s.memOps.any fun o => o.span = s.sp.id && o.path == 0 &&
    o.reqs.any fun q => sectorOf q.key == sectorOf key && !q.status.back

/-- ECC_UNCORRECTABLE at the word (R336). -/
def State.eccAt (s : State) (p : Place) : State := s.raise (s.trapAt 9 p.va)

/-- `waitcmp` (R336): the read and the arming are one step of the drain unit. -/
def execWaitcmp (c : Bool) (u : BitVec 3) (m : Bool) (p k : BitVec 3) (a b : RegNo) (s : State) :
    Host.Outcome State Fault Refusal :=
  s.issue1 (.waitcmp c u m p k a b) fun t =>
    t.withWord k .read 8 a fun t q =>
      match t.gangWait with
      | some (.monitorDone tmo poison) => if poison then t.eccAt q else t.waitDone false tmo
      | _ =>
        let v := t.rs b
        let dl := t.rs (next a)
        if t.readBlocked q.key 8 then s.stall
        else if t.poisoned q.key then t.eccAt q
        else if condHolds u (BitVec.ofNat 64 (leOf (t.readKey q.slot q.key 8))) v then t.waitDone false false
        else if !t.monitorFree q.key then t.waitDone true false
        else if m && decide (dl.toNat ≤ t.now.toNat) then t.waitDone false true
        else
          let (id, w) := t.newMonitor q.key u v (BitVec.ofNat 64 (q.off + k.toNat * 2 ^ 61)) false (if m then some dl else none)
          w.waitIn (.monitor id)

/-- Changes the wait of every slice of a span whose wait satisfies p. -/
def Span.rewait (sp : Span) (f : Wait → Option Wait) : Span :=
  { sp with slices := vecMap sp.slices fun _ x =>
      match x.wait with
      | some w => { x with wait := some ((f w).getD w) }
      | none => x }

/-- Wakes the waits of a monitor and frees its entry. -/
def State.wakeMonitor (s : State) (m : Monitor) (tmo : Bool) : State :=
  let wake (w : Wait) : Option Wait :=
    match w with
    | .monitor id => if id == m.id then some (.monitorDone tmo m.poison) else none
    | .barrier key _ true _ => if m.bar && key == m.key then some (if m.poison then .retry else .woken) else none
    | _ => none
  let s1 := s.updSpan m.span fun p => p.rewait wake
  { s1 with monitors := s1.monitors.filter fun x => x.id != m.id }

/-- `MONITOR_WAKE` (R337, R371): the wake notices of satisfied monitors reach the span, once no other writer's region is
open on the word. -/
def execMonitorWake (sp : SpanId) (s : State) : Host.Outcome State Fault Refusal :=
  let ready := s.monitors.filter fun m => m.span = sp && m.away.isNone && m.satisfied && !s.transiting (.wake m.id) &&
    !s.syncBlocked sp m.key (if m.bar then 16 else 8)
  happens (if (s.spanOf sp).isSome then ready.foldl (fun t m => t.wakeMonitor m false) s else s)

/-- `WAITCMP_TIMEOUT` (R336): a deadline has passed; a wake in the same tick comes first. -/
def execWaitcmpTimeout (sp : SpanId) (s : State) : Host.Outcome State Fault Refusal :=
  let late (m : Monitor) : Bool :=
    match m.deadline with
    | some d => decide (d.toNat ≤ s.now.toNat)
    | none => false
  let ready := s.monitors.filter fun m => m.span = sp && m.away.isNone && !m.satisfied && late m
  happens (if (s.spanOf sp).isSome then ready.foldl (fun t m => t.wakeMonitor m true) s else s)

/-! ## bar.wait (R343) -/

/-- The generation that a barrier's bytes hold. -/
def State.genAt (s : State) (key : Nat) : BitVec 8 := Memory.get s.mem (key + 15)

/-- Is a held fault one of a command that counts into a barrier, or of a task whose BAR names it (R343)? -/
def heldForBar (key : Nat) (h : HeldBy) : Bool :=
  match h with
  | .command _ b => b == some key
  | .task b => b == some key
  | _ => false

/-- Is the response to an arrival of the focused span at a barrier still owed? -/
def State.arrivalOwed (s : State) (key : Nat) : Bool :=
  s.memOps.any fun o => o.span = s.sp.id && o.kind == .bar 1 && o.reqs.any fun q => q.key == key

/-- Waits for the generation of a barrier to leave g: in a monitor entry, or testing again every microsecond. -/
def State.waitBarrier (s : State) (key : Nat) (g : BitVec 8) : State :=
  if s.monitorFree key then
    let (_, t) := s.newMonitor key 0 (g.setWidth 64) 0 true none
    t.waitIn (.barrier key g true 0)
  else s.waitIn (.barrier key g false (s.now + 1000))

/-- `bar.wait` (R343) -/
def execBarWait (c : Bool) (p k : BitVec 3) (a : RegNo) (s : State) : Host.Outcome State Fault Refusal :=
  s.issue1 (.barWait c p k a) fun t =>
    t.withWord k .atomic 16 a fun t q =>
      if t.gangWait = some .woken then t.endRegion
      else
        match t.oldestHeld (heldForBar q.key) with
        | some h => t.deliver h
        | none =>
          if t.arrivalOwed q.key || t.readBlocked q.key 16 then s.stall
          else if t.poisoned q.key then t.eccAt q
          else
            match t.sp.arrivals.find? fun r => r.key == q.key with
            | some { gen := some g, .. } => if t.genAt q.key != g then t.endRegion else t.waitBarrier q.key g
            | _ => t.waitBarrier q.key (t.genAt q.key)

/-- `BAR_WAIT_RETEST` (R343) -/
def execBarWaitRetest (sp : SpanId) (s : State) : Host.Outcome State Fault Refusal :=
  let test (w : Wait) : Option Wait :=
    match w with
    | .barrier key g false next =>
      if s.now.toNat < next.toNat then none
      else if s.genAt key != g then some .woken
      else some (.barrier key g false (s.now + 1000))
    | _ => none
  happens (s.updSpan sp fun p => p.rewait test)

/-- A fault that becomes held for a span waiting in `bar.wait` on its barrier ends the wait (R456): the instruction
issues again and delivers it. -/
def State.endBarWait (s : State) (id : SpanId) (key : Nat) : State :=
  let stop (x : Slice) : Slice :=
    match x.wait with
    | some (.barrier k _ _ _) => if k == key then { x with wait := none } else x
    | _ => x
  let s1 := s.updSpan id fun p => if p.privileged then p else { p with slices := vecMap p.slices fun _ x => stop x }
  { s1 with monitors := s1.monitors.filter fun m => !(m.span = id && m.away.isNone && m.bar && m.key == key) }

/-! ## Fences (R367 to R369) -/

/-- `fence.scope` (R367) -/
def execFence (c : Bool) (p : BitVec 3) (s : State) : Host.Outcome State Fault Refusal :=
  s.issue1 (.fence c p) fun t => if t.drained p.toNat then t.endRegion else t.stall

/-- Period H and guard G of a `fence.sc` scope (Table 12.7). -/
def State.heartbeat (s : State) (p : BitVec 3) : Nat × Nat := if p == 4 then (128, 2) else (1024, s.fabric.guard)

/-- The completion time of a `fence.sc` whose drain completes at time t (R369). -/
def scTick (h g t : Nat) : Nat := (t + g + h - 1) / h * h + g

/-- `fence.sc` (R369) -/
def execFenceSc (c : Bool) (p : BitVec 3) (s : State) : Host.Outcome State Fault Refusal :=
  s.issue1 (.fenceSc c p) fun t =>
    if t.gangWait = some .ticked then t
    else if !t.drained 6 then t.stall
    else
      let (h, g) := t.heartbeat p
      t.endRegion.waitIn (.tick (BitVec.ofNat 64 (scTick h g t.now.toNat)))

/-- `FENCE_SC_TICK` (R369) -/
def execFenceScTick (sp : SpanId) (s : State) : Host.Outcome State Fault Refusal :=
  let test (w : Wait) : Option Wait :=
    match w with
    | .tick at_ => if at_.toNat ≤ s.now.toNat then some .ticked else none
    | _ => none
  happens (s.updSpan sp fun p => p.rewait test)

/-- Is engine work of the focused span on an access path still to complete (R368)? -/
def State.pathWork (s : State) (path : Nat) : Bool :=
  let me := s.sp.id
  let on (r : RegionId) : Bool := r.path.toNat == path
  path != 0 &&
    ((s.sp.cmds.any fun x => !x.complete && on x.region) ||
     (s.memOps.any fun o => o.span = me && o.path.toNat == path) ||
     (s.slowOps.any fun o => o.span = me && on o.region) ||
     (s.core.ops.any fun o => o.span = me && on o.region) ||
     (path == 2 && s.starter.any fun e => e.words.isSome && e.owner = me && e.ownerGroup == s.sp.group && !e.complete))

/-- `xfence` (R368) -/
def execXfence (c : Bool) (p : BitVec 3) (a b : BitVec 4) (s : State) : Host.Outcome State Fault Refusal :=
  s.issue1 (.xfence c p a b) fun t =>
    if t.pathWork a.toNat || t.pathWork b.toNat || !t.drained p.toNat then t.stall else t.endRegion

end Sys2Proof.Machine

end
end

