-- ==== Sys2Proof/Machine/Engine.lean ====
section
/-!
DEFINITION. Class 10: the engine window's `eqw` and `eqgo` with the checks of R178 and the promises of R180 to R182,
sleeping and promises (R184 to R186), and the Hayloft (R199 to R201).
-/

noncomputable section

namespace Sys2Proof.Machine

open Sys2Proof

/-! ## Command words (Tables 6.2 to 6.7, 9.7) -/

/-- CLASS, OP and MODE of word 0. -/
def cmdClass (w : Vector DWord 4) : Nat := fld w[0] 0 4
/-- OP. -/
def cmdOp (w : Vector DWord 4) : Nat := fld w[0] 4 8
/-- MODE. -/
def cmdMode (w : Vector DWord 4) : Nat := fld w[0] 12 2

/-- The segment code of a segment address (R174). -/
def segOf (x : DWord) : Nat := fld x 61 3
/-- Its offset. -/
def offOf (x : DWord) : Nat := fld x 0 61

/-- The barrier operand of MODE 1: segment and offset. -/
def cmdBar (w : Vector DWord 4) : Nat × Nat := (fld w[0] 61 3, fld w[0] 16 45)

/-- An operand of a command: its offset as staged, its segment, the bytes it covers, its alignment, whether it is
written, and the segments allowed.  `known` is false for an operand of which only the base is known at `eqgo`: a Trotter's
table, and a Carousel's source and destination. -/
structure CmdOperand where
  seg : Nat
  off : Nat
  len : Nat
  known : Bool
  align : Nat
  writes : Bool
  allowed : List Nat
  deriving DecidableEq, Repr

/-- The operand that a word holds. -/
def operandAt (x : DWord) (len align : Nat) (writes : Bool) (allowed : List Nat) : CmdOperand :=
  { seg := segOf x, off := offOf x, len := len, known := true, align := align, writes := writes, allowed := allowed }

/-- The operand that a word holds, of unknown length. -/
def baseAt (x : DWord) (align : Nat) (writes : Bool) (allowed : List Nat) : CmdOperand :=
  { operandAt x 0 align writes allowed with known := false }

/-- G, P, S, C, K and H. -/
def readSegs : List Nat := [0, 1, 2, 3, 4, 7]

/-- The barrier's operand (R192, R339). -/
def barOperand (w : Vector DWord 4) : List CmdOperand :=
  if cmdMode w = 1 then
    [{ seg := (cmdBar w).1, off := (cmdBar w).2, len := 16, known := true, align := 16, writes := true, allowed := [2, 3, 0] }]
  else []

/-- The fields of a strided copy's W3: row length, rows, source pitch and destination pitch in bytes. -/
def stridedOf (x : DWord) : Nat × Nat × Nat × Nat := (fld x 0 24, fld x 24 16, 32 * fld x 40 12, 32 * fld x 52 12)

/-- The fields of a Trotter command's W3: count, element bytes, index bytes, and the contiguous segment and offset. -/
def gatherOf (x : DWord) : Nat × Nat × Nat × Nat × Nat :=
  (fld x 0 20, 2 ^ fld x 20 3, if bitOn x 23 then 8 else 4, if bitOn x 24 then 3 else 2, fld x 25 25)

/-- The first malformed word of a command of one class (R178 item 1). -/
def malformedWord (lev : Nat) (w : Vector DWord 4) : Option Nat :=
  let op := cmdOp w
  let mode := cmdMode w
  let arg := fld w[0] 16 48 != 0
  let first (b0 b1 b2 b3 : Bool) : Option Nat :=
    if b0 then some 0 else if b1 then some 1 else if b2 then some 2 else if b3 then some 3 else none
  if fld w[0] 14 2 != 0 && cmdClass w != 4 then some 0
  else
    match cmdClass w with
    | 1 =>
      let b0 := mode ≥ 2 || op > 3 || (mode == 0 && arg)
      match op with
      | 0 => first b0 false false (fld w[3] 40 24 != 0)
      | 1 => first b0 false false (fld w[3] 0 24 == 0 || fld w[3] 24 16 == 0)
      | 2 => first b0 (fld w[1] 32 32 != 0) false (fld w[3] 40 24 != 0)
      | _ => first b0 false false false
    | 3 =>
      let b0 := mode ≥ 2 || op > 1 || (mode == 0 && arg) || (mode == 1 && op == 1)
      first b0 false false (fld w[3] 20 3 == 7 || fld w[3] 50 14 != 0)
    | 4 =>
      let n := fld w[3] 0 32
      let t := fld w[3] 56 4
      let r := fld w[3] 60 4
      let p := fld w[0] 35 24
      let b0 := op > 2 || mode != 0 || fld w[0] 14 2 != 0 || decide (lev ≤ fld w[0] 32 3) || p == 0 || fld w[0] 59 5 != 0
      let types := if op == 2 then !(t == 0 || t == 2 || t == 3 || t == 5) || r > 2 else t != 0 || r != 0
      first b0 false false (n % 8 != 0 || decide (p ≤ fld w[3] 32 24) || types)
    | 5 => first (op > 2 || mode != 0 || arg) false false false
    | _ => some 0

/-- The operands of a well-formed command in the order of the checks. -/
def operandsOf (w : Vector DWord 4) : List CmdOperand :=
  let writeX : List Nat := [0, 1, 2, 3, 5, 7]
  let writeSegs : List Nat := [0, 1, 2, 3, 7]
  match cmdClass w, cmdOp w with
  | 1, 0 =>
    let n := fld w[3] 0 40
    [operandAt w[1] n 1 false readSegs, operandAt w[2] n 1 true writeX] ++ barOperand w
  | 1, 1 =>
    let (len, rows, sp, dp) := stridedOf w[3]
    [operandAt w[1] ((rows - 1) * sp + len) 1 false readSegs, operandAt w[2] ((rows - 1) * dp + len) 1 true writeX] ++
      barOperand w
  | 1, 2 => [operandAt w[2] (fld w[3] 0 40) 1 true writeX] ++ barOperand w
  | 1, _ => [operandAt w[1] 32 8 false [0, 2, 4], operandAt w[2] (2 * fld w[3] 32 32) 2 true [5]] ++ barOperand w
  | 3, op =>
    let (n, z, x, seg, off) := gatherOf w[3]
    let range : CmdOperand :=
      { seg := seg, off := off, len := n * z, known := true, align := 1, writes := op == 0, allowed := [2, 3] }
    [baseAt w[1] 1 (op == 1) (if op == 1 then writeSegs else readSegs), operandAt w[2] (n * x) 1 false [0, 2, 3, 4],
     range] ++ barOperand w
  | 4, op =>
    let n := fld w[3] 0 32
    [operandAt w[1] n 1 false readSegs,
     operandAt w[2] (if op == 1 then n * fld w[0] 35 24 else n) 1 true writeSegs]
  | _, _ =>
    [baseAt w[1] 8 false readSegs, baseAt w[2] 8 true writeSegs, operandAt w[3] 32 8 false [0, 2, 4]]

/-- The trap of R178 item 2 for one operand: its code.  The space condition holds at the base also where the range is empty
or unknown, and an empty range ends at its base (log 109). -/
def State.operandBad (s : State) (o : CmdOperand) : Option Nat :=
  let g := vecAt s.seenSegs o.seg Seg.invalid
  let a := g.baseOf + o.off
  let space : Bool := spaceOk o.seg s.sp.id.core a && (o.len == 0 || spaceOk o.seg s.sp.id.core (a + o.len - 1))
  if !o.allowed.contains o.seg || !g.valid || (o.writes && g.rdonly o.seg) || !space then some 8
  else if o.known && decide (g.limit < o.off + o.len) then some 4
  else if a % o.align != 0 then some 6
  else none

/-- `check_command` (R178): the first failure's code and address. -/
def State.checkCommand (s : State) (w : Vector DWord 4) : Option (Nat × DWord) :=
  match malformedWord (levelsOf s.launchRecord) w with
  | some i => some (8, BitVec.ofNat 64 (8 * i))
  | none =>
    (operandsOf w).findSome? fun o => (s.operandBad o).map fun code => (code, BitVec.ofNat 64 o.off)

/-! ## Promises (R180 to R182) -/

/-- Rounded-up quotient. -/
def ceilDiv (a b : Nat) : Nat := (a + b - 1) / b

/-- Commands of a class that a cluster still has to finish. -/
def State.clusterCmds (s : State) (cluster cls : Nat) : List Command :=
  (s.spans.filter fun p => clusterOf p.id.core == cluster).flatMap fun p =>
    p.cmds.filter fun c => cmdClass c.words == cls && !c.complete

/-- What is queued of some commands. -/
def queuedOf (cs : List Command) : Nat := cs.foldl (fun a c => a + (c.total - c.done)) 0

/-- The Trotter with the fewest queued elements, the lowest on a tie (R195), and its queue.  Elements of window commands
count; what a Trotter does for long numbers and sparse operations has no elements (DESIGN CHOICE, log 110). -/
def State.trotterFor (s : State) : Nat × Nat :=
  let cs := s.clusterCmds (clusterOf s.sp.id.core) 3
  let q (t : Nat) : Nat := queuedOf (cs.filter fun c => c.trotter.toNat == t)
  (List.range 8).foldl (fun b t => if q t < b.2 then (t, q t) else b) (0, q 0)

/-- LOGN of a Carousel's parameter record, when the record can be read. -/
def State.carouselLog (s : State) (w : Vector DWord 4) : Option Nat :=
  let g := vecAt s.seenSegs (segOf w[3]) Seg.invalid
  match s.checkNow s.sp.id.core g (segOf w[3]) .read 0 (offOf w[3] + 16) 8 with
  | .ok p =>
    let n := leOf (s.readKey p.slot p.key 8) % 256
    if 6 ≤ n ∧ n ≤ 20 then some n else none
  | _ => none

/-- Butterflies of a Carousel command of 2^n elements (R285). -/
def butterflies (op n : Nat) : Nat := if op = 2 then 2 ^ n / 2 else 2 ^ n / 2 * n

/-- Butterflies that the Carousel still has to do in a cluster: of window commands, and of `blmul` (R282, R285). -/
def State.carouselQueue (s : State) (cluster : Nat) : Nat :=
  let slow (o : SlowOp) : Nat :=
    match o.kind with
    | .long _ _ _ _ _ (.carousel w) => if clusterOf o.span.core == cluster then w else 0
    | _ => 0
  sumOf (s.clusterCmds cluster 5) (fun c => butterflies (cmdOp c.words) (Nat.log2 (c.total / 8))) + sumOf s.slowOps slow

/-- Does `blmul` work on a cluster's Carousel stand before a place in the order of acceptance (R285)? -/
def State.carouselBefore (s : State) (cluster order : Nat) : Bool :=
  s.slowOps.any fun o => decide (o.id < order) && clusterOf o.span.core == cluster && o.parked.isNone &&
    (match o.kind with
     | .long _ _ _ _ _ (.carousel _) => true
     | _ => false)

/-- The base of a collective's promise (Table 6.7). -/
def State.collectiveBase (s : State) (w : Vector DWord 4) : Nat :=
  match levelDomain s.launchRecord (fld w[0] 32 3) with
  | 6 => 8000
  | 7 => 40000
  | _ => 4000

/-- Bytes of a command, or elements of a Trotter's (R182). -/
def State.commandTotal (s : State) (w : Vector DWord 4) : Nat :=
  match cmdClass w, cmdOp w with
  | 1, 1 =>
    let (len, rows, _, _) := stridedOf w[3]
    len * rows
  | 1, 3 => 2 * fld w[3] 32 32
  | 1, _ => fld w[3] 0 40
  | 3, _ => fld w[3] 0 20
  | 4, op => if op == 1 then fld w[3] 0 32 * fld w[0] 35 24 else fld w[3] 0 32
  | _, _ =>
    match s.carouselLog w with
    | some n => 8 * 2 ^ n
    | none => 0

/-- The promise of a command accepted now, and the Trotter that takes it (R180).  A Carousel command whose record cannot
be read has no stated promise: a free value. -/
def State.promise (s : State) (w : Vector DWord 4) : Nat × Nat × State :=
  let t0 := s.now.toNat
  let cluster := clusterOf s.sp.id.core
  match cmdClass w with
  | 1 =>
    let n := s.commandTotal w
    (if n = 0 then t0 else t0 + 1500 + ceilDiv (queuedOf (s.clusterCmds cluster 1) + n) 256, 0, s)
  | 3 =>
    let n := s.commandTotal w
    let (t, q) := s.trotterFor
    (if n = 0 then t0 else t0 + 1500 + (q + n), t, s)
  | 4 =>
    let n := fld w[3] 0 32 * fld w[0] 35 24
    (if n = 0 then t0 else t0 + s.collectiveBase w + ceilDiv n 64, 0, s)
  | _ =>
    match s.carouselLog w with
    | none =>
      let (x, s1) := s.draw
      (x, 0, s1)
    | some n =>
      let q := s.carouselQueue cluster
      let k := if cmdOp w = 2 then 24 else 16
      (t0 + 1500 + ceilDiv (q + butterflies (cmdOp w) n) 60 + ceilDiv (k * 2 ^ n) 256, 0, s)

/-- The launch record of a span's group. -/
def State.recordOfSpan (s : State) (p : Span) : DWord × BitVec 2048 :=
  match s.groupOf p.group with
  | none => (0, 0)
  | some g =>
    match s.host.launches.find? fun l => l.seq == g.launch with
    | some l => (g.launch, l.record)
    | none => (g.launch, 0)

/-- What makes two commands members of one collective (R197): launch, tag, level, and the level instance of the span. -/
def State.collectiveKey (s : State) (p : Span) (c : Command) : DWord × Nat × Nat × Nat :=
  let (launch, r) := s.recordOfSpan p
  let lev := fld c.words[0] 32 3
  (launch, fld c.words[0] 16 16, lev, p.number / max 1 (instanceSpans r lev))

/-- The members of a command's collective that have arrived. -/
def State.membersOf (s : State) (p : Span) (c : Command) : List (Span × Command) :=
  let key := s.collectiveKey p c
  s.spans.flatMap fun q => (q.cmds.filter fun x =>
    cmdClass x.words == 4 && x.joined && !x.complete && s.collectiveKey q x == key).map fun x => (q, x)

/-- The revised promise of a command (R182). -/
def State.revised (s : State) (c : Command) : DWord :=
  if cmdClass c.words == 4 && (s.membersOf s.sp c).length < fld c.words[0] 35 24 then s.now + BitVec.ofNat 64 (s.collectiveBase c.words)
  else
    s.now + BitVec.ofNat 64 (1500 + ceilDiv (c.total - c.done) 256)

/-! ## eqw and eqgo (R176, R177) -/

/-- `eqw` (R176) -/
def execEqw (c : Bool) (n : BitVec 2) (a : RegNo) (s : State) : Host.Outcome State Fault Refusal :=
  s.issue1 (.eqw c n a) fun t => { t with sp := { t.sp with window := vecPut t.sp.window n.toNat (t.rs a) } }

/-- Must an `eqgo` wait: eight commands are outstanding, or a `bar.expect` to the command's barrier is not yet
acknowledged (R177, R344)? -/
def State.commandWaits (s : State) (w : Vector DWord 4) : Bool :=
  decide (8 ≤ s.sp.cmds.length) ||
    (cmdMode w == 1 &&
      (match s.keyAt (cmdBar w).1 (cmdBar w).2 with
       | some key => s.memOps.any fun o => o.span = s.sp.id && o.kind == .bar 3 && o.reqs.any fun q => q.key == key
       | none => false))

/-- Is there nothing to do for a command: its length or count is 0 (R180)?  A Carousel command always has elements. -/
def State.emptyCommand (s : State) (w : Vector DWord 4) : Bool := cmdClass w != 5 && s.commandTotal w == 0

/-- Sends a checked command to its engine. -/
def State.sendCommand (s : State) (d : RegNo) (w : Vector DWord 4) : State :=
  let (p, trotter, s1) := s.promise w
  let (r, s1) := s1.newEngineRegion (BitVec.ofNat 3 (cmdClass w))
  let (order, s2) := s1.newId
  let tok := s2.sp.lastTok + 1
  let none_ := s.emptyCommand w
  let c : Command :=
    { token := tok, order := order, words := w, segs := s2.seenSegs, promise := BitVec.ofNat 64 p, unread := [(0, s.commandTotal w)],
      flight := [], done := 0, total := s.commandTotal w,
      undecremented := 0, trotter := BitVec.ofNat 3 trotter, parked := none, failed := none, since := s2.now, lost := false, stopped := none, complete := none_,
      joined := false, pc := s2.here, region := r }
  let rec_ (t : State) : State :=
    if t.traced then t.trace 2 ((t.spanIdWord t.sp t.grp).toNat + tok.toNat * 2 ^ 64 + p * 2 ^ 128) else t
  let s3 := rec_ (if none_ then s2.endEngineRegion s2.sp.id r else s2)
  let cmds := if none_ then s3.sp.cmds else s3.sp.cmds ++ [c]
  ({ s3 with sp := { s3.sp with cmds := cmds, lastTok := tok } } : State).slow
    (.pair d (BitVec.ofNat 64 p) (tok.setWidth 64)) false s3.region true (Machine.sp d)

/-- `eqgo` (R177) -/
def execEqgo (c : Bool) (d : RegNo) (s : State) : Host.Outcome State Fault Refusal :=
  s.issue1 (.eqgo c d) fun t =>
    t.unlessSaddled fun u =>
      let w := u.sp.window
      if u.commandWaits w then u.stall
      else
        match u.checkCommand w with
        | some (code, addr) => u.raise (u.trapAt code addr)
        | none => u.sendCommand d w

/-! ## Sleeping and promises (R184 to R186) -/

/-- Distance of a token below the last one issued. -/
def Span.tokenAge (p : Span) (tok : BitVec 16) : Nat := (p.lastTok - tok).toNat

/-- The held fault that a wait naming a token delivers: of that command or of an older outstanding one (R184). -/
def State.faultFor (s : State) (tok : BitVec 16) : Option Held :=
  if 64 ≤ s.sp.tokenAge tok then none
  else
    s.oldestHeld fun h =>
      match h with
      | .command t _ => s.sp.tokenAge tok ≤ s.sp.tokenAge t
      | _ => false

/-- The command that a token names, while it is not complete. -/
def State.unfinished (s : State) (tok : BitVec 16) : Option Command :=
  if 64 ≤ s.sp.tokenAge tok then none else s.sp.cmds.find? fun c => c.token == tok && !c.complete

/-- Sleeps until a time, then goes on; the region ends at entry (Table 12.1). -/
def State.sleepUntil (s : State) (t : DWord) (go : State → State) : State :=
  if s.gangWait = some .woken then go s
  else s.afterDrain fun u => if t.toNat ≤ u.now.toNat then go u else u.waitIn (.sleep t)

/-- `sleepu` (R186) -/
def execSleepu (c : Bool) (a : RegNo) (s : State) : Host.Outcome State Fault Refusal :=
  s.issue1 (.sleepu c a) fun t => t.sleepUntil (t.rs a) fun u => u

/-- `sleepp` (R184) -/
def execSleepp (c : Bool) (a b : RegNo) (s : State) : Host.Outcome State Fault Refusal :=
  s.issue1 (.sleepp c a b) fun t =>
    t.sleepUntil (t.rs a) fun u =>
      let tok := BitVec.ofNat 16 (u.rs b).toNat
      match u.faultFor tok with
      | some h => u.deliver h
      | none =>
        match u.unfinished tok with
        | none => u
        | some k => u.raise (u.trapAt 10 (u.revised k))

/-- `promise.chk` (R185) -/
def execPromiseChk (c : Bool) (d b : RegNo) (s : State) : Host.Outcome State Fault Refusal :=
  s.issue1 (.promiseChk c d b) fun t =>
    let tok := BitVec.ofNat 16 (t.rs b).toNat
    match t.faultFor tok with
    | some h => t.deliver h
    | none =>
      let v : DWord :=
        match t.unfinished tok with
        | none => 0
        | some k => t.revised k
      t.slow (.status d v) false t.region true (sr d)

/-- `time` (R186) -/
def execTime (c : Bool) (d : RegNo) (s : State) : Host.Outcome State Fault Refusal :=
  s.issue1 (.time c d) fun t => t.ws d t.now

/-- `SLEEP_WAKE` (R184, R186) -/
def execSleepWake (sp : SpanId) (s : State) : Host.Outcome State Fault Refusal :=
  let test (w : Wait) : Option Wait :=
    match w with
    | .sleep t => if t.toNat ≤ s.now.toNat then some .woken else none
    | _ => none
  happens (s.updSpan sp fun p => p.rewait test)

/-! ## The Hayloft (R199 to R201) -/

/-- `halloc` (R200): the request goes to the Hayloft of the span's die. -/
def execHalloc (c : Bool) (d a : RegNo) (s : State) : Host.Outcome State Fault Refusal :=
  s.issue1 (.halloc c d a) fun t =>
    t.unlessSaddled fun u => u.slow (.halloc d (u.rs a)) false (u.regionId u.sp 6 0) false (Machine.sp d)

/-- Is [off, off + n) free in a launch's arena? -/
def State.hayFreeRun (s : State) (launch : DWord) (off n : Nat) : Bool :=
  s.hay.all fun b => b.launch != launch || decide (b.off + b.len ≤ off) || decide (off + n ≤ b.off)

/-- The lowest free run of n bytes in part d of an arena of LIMIT bytes (R199, R200). -/
def State.hayRun (s : State) (launch : DWord) (limit n d : Nat) : Option Nat :=
  let lo := (d * limit / 4 + 127) / 64 * 64
  let hi := (d + 1) * limit / 4
  let ends := (s.hay.filter fun b => b.launch == launch && decide (lo ≤ b.off)).map fun b => b.off + b.len
  let starts := sortBy (fun x y => decide (x < y)) (lo :: ends)
  starts.find? fun o => decide (o + n ≤ hi) && s.hayFreeRun launch o n

/-- The dies in the order that a `halloc` asks them. -/
def hayOrder (die : Nat) : List Nat := die :: (List.range 4).filter fun d => d != die

/-- A block for a request of some bytes: its offset and length, with the block taken (R200). -/
def State.hayTake (s : State) (launch : DWord) (limit die bytes : Nat) : Option (Nat × Nat × State) :=
  let n := 64 * ceilDiv bytes 64
  if n = 0 || limit / 4 < n then none
  else
    ((hayOrder die).findSome? fun d => s.hayRun launch limit n d).map fun o =>
      (o, n, { s with hay := { launch := launch, off := o, len := n } :: s.hay })

/-- `HAYLOFT_REQUEST` (R200): the Hayloft serves one allocation. -/
def execHayloftRequest (op : Nat) (s : State) : Host.Outcome State Fault Refusal :=
  match s.slowOps.find? fun o => o.id == op with
  | none => happens s
  | some o =>
    if s.transiting (.command op) then happens s
    else
    match o.kind with
    | .halloc d bytes =>
      let launch :=
        match s.spanOf o.span with
        | some p =>
          match s.groupOf p.group with
          | some g => g.launch
          | none => 0
        | none => 0
      let limit := (vecAt o.segs 7 Seg.invalid).limit
      let (x, y, s1) :=
        match s.hayTake launch limit (dieOf o.span.core) bytes.toNat with
        | some (x, y, t) => (x, y, t)
        | none => (0, 0, s)
      let kind : SlowKind := .pair d (BitVec.ofNat 64 x) (BitVec.ofNat 64 y)
      happens { s1 with slowOps := mapIf s1.slowOps (fun x => x.id == op) fun x => { x with kind := kind, ready := true } }
    | _ => happens s

/-- The number by which an unfinished command is known among what an `hfree` waits for. -/
def commandMark (tok : BitVec 16) : Nat := 2 ^ 64 + tok.toNat

/-- What a span has in flight that may access memory. -/
def State.accessesOf (s : State) (id : SpanId) : List Nat :=
  let ops := (s.memOps.filter fun o => o.span = id).map fun o => o.id
  let slow := (s.slowOps.filter fun o => o.span = id && o.region.path == 3).map fun o => o.id
  let eng := ((s.coreOf id.core).ops.filter fun o => o.span = id && o.region.path != 0).map fun o => o.id
  let cmds :=
    match s.spanOf id with
    | some p => (p.cmds.filter fun c => !c.complete).map fun c => commandMark c.token
    | none => []
  ops ++ slow ++ eng ++ cmds

/-- `hfree` (R201) -/
def execHfree (c : Bool) (a : RegNo) (s : State) : Host.Outcome State Fault Refusal :=
  s.issue1 (.hfree c a) fun t =>
    t.unlessSaddled fun u =>
      let (id, v) := u.newId
      let g := vecAt v.seenSegs 7 Seg.invalid
      let h : HayFree :=
        { id := id, span := v.sp.id, launch := v.grp.launch, off := (v.rs a).toNat, va := g.baseOf + (v.rs a).toNat,
          asid := g.asid, after := v.accessesOf v.sp.id }
      { v with hayFrees := v.hayFrees ++ [h] }

/-- The pieces of n bytes at an address that lie in one smallest page each: address and length. -/
def cutPages (a n : Nat) : List (Nat × Nat) :=
  let first := a / 65536
  ((List.range ((a + n + 65535) / 65536 - first)).map fun i =>
    (max a ((first + i) * 65536), min (a + n) ((first + i + 1) * 65536) - max a ((first + i) * 65536)))

/-- Does a physical sector belong to n bytes at a virtual address? -/
def State.inBlock (s : State) (k : CoreId) (asid : BitVec 10) (va n sec : Nat) : Bool :=
  (cutPages va n).any fun p =>
    match s.translateNow k asid p.1 .read with
    | .ok q => decide (q.key < sec * 32 + 32) && decide (sec * 32 < q.key + p.2)
    | .error _ => false

/-- A freed block's accesses by the freeing span are ordered before every later one: its records of them go (R201). -/
def State.forgetBlock (s : State) (h : HayFree) (n : Nat) : State :=
  let rs := (s.records.filter fun a => s.inBlock h.span.core h.asid h.va n a.sector).map fun a => a.sector
  let own :=
    match s.spanOf h.span with
    | some p => p.regions
    | none => []
  let clear (a : AccessRecord) : AccessRecord := own.foldl (fun x r => x.close r.id (r.reduced.contains a.sector)) a
  let s1 := s.updSpan h.span fun p =>
    { p with regions := p.regions.map fun r => { r with reduced := r.reduced.filter fun x => !rs.contains x } }
  { s1 with records := (mapIf s.records (fun a => rs.contains a.sector) clear).filter fun a => !a.free }

/-- `HAYLOFT_FREE` (R201): once the span's earlier accesses are performed and acknowledged the block returns (log 111); an offset that starts no
live block is entered in the error log. -/
def execHayloftFree (id : Nat) (s : State) : Host.Outcome State Fault Refusal :=
  match s.hayFrees.find? fun h => h.id == id with
  | none => happens s
  | some h =>
    let busy := s.accessesOf h.span
    if h.after.any fun x => busy.contains x then happens s
    else
      let s1 := { s with hayFrees := s.hayFrees.filter fun x => x.id != id }
      let mine (b : HayBlock) : Bool := b.launch == h.launch && b.off == h.off
      match s1.hay.find? mine with
      | some b => happens (({ s1 with hay := s1.hay.filter fun b => !mine b } : State).forgetBlock h b.len)
      | none => happens (s1.logError (.hfree h.off))

end Sys2Proof.Machine

end
end

