-- ==== Sys2Proof/Machine/EngineAccess.lean ====
section
/-!
DEFINITION. How engines reach memory (R187, R188, R190, R86): the checks of an access, reading and writing in pieces of
one sector under the access records, poison, and parking on an absent page.
-/

noncomputable section

namespace Sys2Proof.Machine

open Sys2Proof

/-- Who accesses: the span whose segments are used, its group, the core in whose spaces it runs, the segments, the region,
the instruction that caused the work, whether the host has failed the walk it waited for, and whether its next access to
another package has had no response. -/
structure Actor where
  span   : SpanId
  group  : GroupId
  core   : CoreId
  segs   : Vector Seg 8
  region : RegionId
  pc     : DWord
  failed : Bool
  lost   : Bool
  deriving DecidableEq, Repr

/-- What an access of an engine comes to. -/
inductive EngAns (α : Type) where
  | ok (x : α) (s : State)
  /-- An engine fault (R187). -/
  | fault (t : TrapInfo) (s : State)
  /-- An absent page: the work parks (R188). -/
  | absent (va : DWord) (asid : BitVec 10) (u : Use) (s : State)
  /-- A record has no room yet (R364, R470), or a line's sharers are being invalidated: nothing has happened. -/
  | waits (w : Option RoomWait)

/-- Goes on after an access. -/
def EngAns.bind {α β : Type} (x : EngAns α) (f : α → State → EngAns β) : EngAns β :=
  match x with
  | .ok a s => f a s
  | .fault t s => .fault t s
  | .absent va asid u s => .absent va asid u s
  | .waits w => .waits w

/-- An engine fault with a code and an address; its lanes are those of the gang that it is delivered to. -/
def engTrap (code : Nat) (addr : DWord) (pc : DWord) : TrapInfo :=
  { code := BitVec.ofNat 6 code, sub := 0, detail := 0, addr := addr, lanes := 0, unreach := false, cause := some pc,
    region := 0 }

/-- The engine fault of an actor. -/
def Actor.trap (a : Actor) (code : Nat) (addr : DWord) : TrapInfo := engTrap code addr a.pc

/-- The place of n bytes at an offset of a segment of an actor. -/
def State.engPlace (s : State) (a : Actor) (k off n : Nat) (u : Use) : EngAns Place :=
  let g := vecAt a.segs k Seg.invalid
  let va : DWord := BitVec.ofNat 64 (g.baseOf + off)
  if g.limit < off + n then .fault (a.trap 4 va) s
  else
    match s.checkNow a.core g k u 0 off 1 with
    | .ok p =>
      -- An unreachable access is an engine fault (R129, R136).
      if (a.lost && s.remote p.key) || !s.reaches (fabricDie a.core) p.key then
        .fault { a.trap 8 va with unreach := true } (s.logUnreachable p.key)
      else .ok p (if translated k then s.fillTrans a.core g.asid va.toNat else s)
    | .absent => if a.failed then .fault (a.trap 8 va) s else .absent va g.asid u s
    | _ => .fault (a.trap 8 va) s

/-- The policy of an engine's accesses through a segment. -/
def Actor.policy (a : Actor) (k : Nat) (p : Place) : Policy :=
  let g := vecAt a.segs k Seg.invalid
  { hint := 0, stream := g.cpol == 1, uncached := g.cpol == 2 || p.uc, chain := p.chain }

/-- A refusal of an engine's access (Table 12.5). -/
def Actor.refused (a : Actor) (va : DWord) (r : RegionId) : TrapInfo := { a.trap 11 va with region := regionBits r }

/-- Reads one piece: its bytes, and its address if they are poisoned. -/
def State.engRead1 (s : State) (a : Actor) (k off n : Nat) : EngAns (List Byte × Option DWord) :=
  (s.engPlace a k off n .read).bind fun p t =>
    let g := vecAt a.segs k Seg.invalid
    if t.invalidating (lineOf p.key) && isMain p.key then .waits none
    else
      match t.tryRecord (g.checked && !(p.ro || k == 4)) a.group a.region none .load p.key n false with
      | .waits w => .waits (some w)
      | .refused r => .fault (a.refused p.va r) t
      | .admitted t1 =>
        let (bs, bad, t2) := t1.homeRead (coreDie a.core) p.key n p.slot (a.policy k p)
        .ok (bs, if bad then some p.va else none) t2

/-- Writes one piece, with poison if its data is poisoned (R86). -/
def State.engWrite1 (s : State) (a : Actor) (k off : Nat) (bs : List Byte) (bad : Bool) : EngAns Unit :=
  (s.engPlace a k off bs.length .write).bind fun p t =>
    let g := vecAt a.segs k Seg.invalid
    match t.tryRecord g.checked a.group a.region none .store p.key bs.length false with
    | .waits w => .waits (some w)
    | .refused r => .fault (a.refused p.va r) t
    | .admitted t1 =>
      .ok () (if bad then (t1.homePut p.key bs p.slot (a.policy k p)).poisonWrite p.key bs.length
              else t1.homeWrite p.key bs p.slot (a.policy k p))

/-- The pieces of n bytes at an offset of an actor's segment. -/
def Actor.pieces (a : Actor) (k off n : Nat) : List Piece :=
  cutSectors (vecAt a.segs k Seg.invalid).baseOf (n / 32 + 2) 0 off n

/-- Reads pieces in ascending order. -/
def State.engReadPieces (s : State) (a : Actor) (k : Nat) (ps : List Piece) : EngAns (List Byte × Option DWord) :=
  match ps with
  | [] => .ok ([], none) s
  | p :: rest =>
    (s.engRead1 a k p.off p.len).bind fun x t =>
      (t.engReadPieces a k rest).bind fun y u => .ok (x.1 ++ y.1, x.2 <|> y.2) u

/-- n bytes read at an offset of a segment. -/
def State.engRead (s : State) (a : Actor) (k off n : Nat) : EngAns (List Byte × Option DWord) :=
  s.engReadPieces a k (a.pieces k off n)

/-- Writes pieces of a byte string in ascending order. -/
def State.engWritePieces (s : State) (a : Actor) (k : Nat) (bs : List Byte) (bad : Bool) (ps : List Piece) : EngAns Unit :=
  match ps with
  | [] => .ok () s
  | p :: rest =>
    (s.engWrite1 a k p.off ((bs.drop p.at_).take p.len) bad).bind fun _ t => t.engWritePieces a k bs bad rest

/-- A byte string written at an offset of a segment. -/
def State.engWrite (s : State) (a : Actor) (k off : Nat) (bs : List Byte) (bad : Bool) : EngAns Unit :=
  s.engWritePieces a k bs bad (a.pieces k off bs.length)

/-- A list of writes in order. -/
def State.engWrites (s : State) (a : Actor) (k : Nat) (ws : List (Nat × List Byte)) (bad : Bool) : EngAns Unit :=
  match ws with
  | [] => .ok () s
  | w :: rest => (s.engWrite a k w.1 w.2 bad).bind fun _ t => t.engWrites a k rest bad

/-- Checks that every page of n bytes can be reached for a use, before anything is done there. -/
def State.engReach (s : State) (a : Actor) (k : Nat) (u : Use) (ps : List Piece) : EngAns Unit :=
  match ps with
  | [] => .ok () s
  | p :: rest => (s.engPlace a k p.off p.len u).bind fun _ t => t.engReach a k u rest

/-- The little-endian value of n bytes read at an offset, with its poison. -/
def State.engWord (s : State) (a : Actor) (k off n : Nat) : EngAns (Nat × Option DWord) :=
  (s.engRead a k off n).bind fun x t => .ok (leOf x.1, x.2) t

/-- Parks work of a span on an absent page and reports it (R188): the walk it waits for. -/
def State.engPark (s : State) (a : Actor) (va : DWord) (asid : BitVec 10) (u : Use) : BitVec 16 × State :=
  let (id, joined, s1) := s.joinWalk a.core asid va u.kind
  (id, s1.report (pageFaultReport va asid u.kind a.span id s.now joined))

end Sys2Proof.Machine

end
end

