-- ==== Sys2Proof/Machine/Gait.lean ====
section
/-!
DEFINITION. The gait formats (R213 to R219): the value of an element, and the conversion of sixteen values into a block
with its outliers.
-/

namespace Sys2Proof.Machine

open Sys2Proof

/-- Magnitude bits of a gait: 0 walk, 1 trot, 2 canter (Table 7.6). -/
def gaitBits (g : Nat) : Nat :=
  match g with
  | 0 => 2
  | 1 => 4
  | _ => 7

/-- gait_value (R213). -/
def gaitValue (sign : Bool) (m e : Nat) (u : Bool) (n : Nat) : FVal :=
  if e = 255 || (sign && m == 0) then .nan false
  else .fin sign m ((e : Int) - 127 - (if u then 1 else 0) - n)

/-- rfix(x / 2^q, n, mode) as its count of 2^−n, with its sign apart; none for an infinity (R217). -/
def rfix (mode : RMode) (n : Nat) (q : Int) (x : FVal) : Option Nat :=
  match x with
  | .fin neg m e => some (roundToNat mode neg m (e - q + n)).1
  | _ => none

/-- Does |rfix(x / 2^q, n, mode)| reach 1? -/
def reachesOne (mode : RMode) (n : Nat) (q : Int) (x : FVal) : Bool :=
  !x.isNaN &&
    match rfix mode n q x with
    | some k => decide (2 ^ n ≤ k)
    | none => true

/-- floor(log2 |x|), taking an infinity as 2^128; none for zero and NaN. -/
def magLog2 (x : FVal) : Option Int :=
  match x with
  | .fin _ m e => if m = 0 then none else some ((Nat.log2 m : Int) + e)
  | .inf _ => some 128
  | .nan _ => none

/-- A gait block: shared exponent, micro-exponents, signs and magnitudes, and the flags of its conversion. -/
structure GaitBlock where
  e     : Nat
  u     : List Bool
  s     : List Bool
  m     : List Nat
  flags : FFlags
  deriving DecidableEq, Repr

/-- The u byte of a block. -/
def GaitBlock.uByte (b : GaitBlock) : Nat := (maskOf 8 fun p => listAt b.u p false).toNat

/-- Do a magnitude count k of 2^q and a value differ? -/
def gaitDiffers (k : Nat) (q : Int) (x : FVal) : Bool :=
  match x with
  | .fin _ m e => let l := min e q; m * 2 ^ (e - l).toNat != k * 2 ^ (q - l).toNat
  | .inf _ => true
  | .nan _ => false

/-- One element of a block: its sign and magnitude (R217). -/
def gaitElement (mode : RMode) (n : Nat) (q : Int) (x : FVal) : Bool × Nat :=
  match x with
  | .nan _ => (true, 0)
  | .inf neg => (neg, 2 ^ n - 1)
  | .fin neg _ _ =>
    let k := min ((rfix mode n q x).getD 0) (2 ^ n - 1)
    (neg && k != 0, k)

/-- gait_block (R217). -/
def gaitBlock (mode : RMode) (n : Nat) (xs : List FVal) : GaitBlock :=
  let nv := xs.any FVal.isSNaN
  if xs.all FVal.isNaN then
    { e := 255, u := List.replicate 8 false, s := List.replicate 16 false, m := List.replicate 16 0,
      flags := { FFlags.none with nv := nv } }
  else
    let e0 : Int :=
      match (xs.filterMap magLog2) with
      | [] => 0
      | l :: t => max 0 (min 254 (t.foldl max l + 128))
    let e : Int := if e0 < 254 && xs.any (reachesOne mode n (e0 - 127)) then e0 + 1 else e0
    let u := (List.range 8).map fun p =>
      !(reachesOne mode n (e - 128) (listAt xs (2 * p) (.nan false)) ||
        reachesOne mode n (e - 128) (listAt xs (2 * p + 1) (.nan false)))
    let q (i : Nat) : Int := e - 127 - (if listAt u (i / 2) false then 1 else 0)
    let el (i : Nat) : Bool × Nat := gaitElement mode n (q i) (listAt xs i (.nan false))
    let nx := (List.range 16).any fun i => gaitDiffers (el i).2 (q i - n) (listAt xs i (.nan false))
    { e := e.toNat, u := u, s := (List.range 16).map fun i => (el i).1, m := (List.range 16).map fun i => (el i).2,
      flags := { FFlags.none with nv := nv, nx := nx } }

/-- The magnitude of a value. -/
def FVal.abs (x : FVal) : FVal :=
  match x with
  | .fin _ m e => .fin false m e
  | .inf _ => .inf false
  | .nan s => .nan s

/-- Is an element an outlier under the threshold T (R218)? -/
def isOutlier (t x : FVal) : Bool := !x.isNaN && !t.isNaN && t.lt x.abs

/-- quantise (R218): the outlier marks, the side-list entries with their flags, and the block. -/
def quantise (mode : RMode) (n : Nat) (t : FVal) (xs : List FVal) : List Bool × List (Nat × FFlags) × GaitBlock :=
  let out := xs.map (isOutlier t)
  let side := (xs.filter (isOutlier t)).map (fConvert Fmt.bf16 mode)
  let rest := xs.map fun x => if isOutlier t x then .fin false 0 0 else x
  (out, side, gaitBlock mode n rest)

end Sys2Proof.Machine
end

