-- ==== Sys2Proof/Machine/Tiles.lean ====
section
/-!
DEFINITION. Tiles (R291 to R297): operand formats and their layouts, shape registers, elements as the matrix engine reads
them, and the instructions that write tiles and shapes or move tiles.
-/

noncomputable section

namespace Sys2Proof.Machine

open Sys2Proof

/-! ## Operand formats (Tables 7.1, 7.4, 7.6; R292) -/

/-- Bytes of an element of a byte format; 0 for a bit-plane format or an illegal code. -/
def fmtSize (f : Nat) : Nat :=
  match f with
  | 0 => 8
  | 1 => 4
  | 2 => 4
  | 3 => 2
  | 4 => 2
  | 5 => 1
  | 6 => 1
  | 10 => 1
  | 11 => 1
  | 17 => 2
  | 18 => 2
  | 19 => 4
  | 20 => 4
  | 21 => 8
  | 22 => 4
  | 23 => 8
  | _ => 0

/-- Planes of a bit-plane format; 0 for a byte format. -/
def fmtPlanes (f : Nat) : Nat :=
  match f with
  | 7 => 3
  | 8 => 5
  | 9 => 8
  | 12 => 4
  | 13 => 4
  | 14 => 2
  | 15 => 2
  | 16 => 1
  | _ => 0

/-- Is a format a gait? -/
def isGait (f : Nat) : Bool := f == 7 || f == 8 || f == 9

/-- FMT of a shape register (Table 10.1). -/
def shapeFmt (x : DWord) : Nat := fld x 0 5
/-- ROWS; 0 is unshaped. -/
def shapeRows (x : DWord) : Nat := fld x 5 8
/-- RBYTES. -/
def shapeRBytes (x : DWord) : Nat := fld x 13 13
/-- NARROW. -/
def shapeNarrow (x : DWord) : Nat := fld x 26 2
/-- XOFF. -/
def shapeXoff (x : DWord) : Nat := fld x 32 15
/-- XPITCH. -/
def shapeXpitch (x : DWord) : Nat := fld x 47 15

/-- The read format that NARROW selects. -/
def shapeRead (x : DWord) : Nat :=
  match shapeNarrow x with
  | 1 => 7
  | 2 => 8
  | _ => shapeFmt x

/-- Elements of a row (R292). -/
def shapePerRow (x : DWord) : Nat :=
  let f := shapeFmt x
  if fmtSize f = 0 then 64 * shapeRBytes x / (8 * fmtPlanes f) else shapeRBytes x / fmtSize f

/-- Does `tshape` refuse a value (R293)? -/
def tshapeBad (v : DWord) : Bool :=
  let f := fld v 0 5
  let unit := if fmtSize f = 0 then 8 * fmtPlanes f else fmtSize f
  let n := shapeNarrow v
  24 ≤ f || shapeRows v == 0 || 128 < shapeRows v || shapeRBytes v == 0 || 4096 < shapeRows v * shapeRBytes v ||
    shapeRBytes v % unit != 0 || n == 3 || (n == 1 && !(f == 8 || f == 9)) || (n == 2 && f != 9) || fld v 28 36 != 0

/-- Does `tscale` refuse a value (R293)? -/
def tscaleBad (v : DWord) : Bool := fld v 0 1 == 1 || fld v 15 1 == 1 || fld v 30 34 != 0

/-! ## Elements (R292, R204 to R215) -/

/-- An operand element: a floating-point value or an integer. -/
inductive Elem where
  | fp (v : FVal)
  | int (x : Int)
  deriving DecidableEq, Repr

/-- The value of a byte-format element's bits. -/
def byteElem (f x : Nat) : Elem :=
  match f with
  | 0 => .fp (FVal.ofBits Fmt.f64 x)
  | 1 => .fp (FVal.ofBits Fmt.f32 x)
  | 2 => .fp (FVal.ofBits Fmt.f19 (x / 2 ^ 13))
  | 3 => .fp (FVal.ofBits Fmt.bf16 x)
  | 4 => .fp (FVal.ofBits Fmt.f16 x)
  | 5 => .fp (FVal.ofBits Fmt.e4m3 x)
  | 6 => .fp (FVal.ofBits Fmt.e5m2 x)
  | 10 => .int (sx x 8)
  | 17 => .int (sx x 16)
  | 19 => .int (sx x 32)
  | 23 => .fp (FVal.ofBits Fmt.f64 x)
  | _ => .int x

/-- The value of an integer plane element from its bits, plane 0 first as the highest bit. -/
def planeElem (f x : Nat) : Elem :=
  match f with
  | 12 => .int (sx x 4)
  | 14 => .int (sx x 2)
  | 15 => .int (if x % 2 = 0 then 0 else if x / 2 = 1 then -1 else 1)
  | 16 => .int (if x = 0 then 1 else -1)
  | _ => .int x

/-- Plane p's bit of element k of a row of b planes that begins at byte `row` of a byte string. -/
def planeBit (data : Nat) (row b p k : Nat) : Bool := data.testBit (8 * (row + (k / 64 * b + p) * 8) + k % 64)

/-- Element k of row r of a tile of a core, as the matrix engine reads it. -/
def State.tileElem (s : State) (core : CoreId) (t : Tile) (r k : Nat) : Elem :=
  let f := shapeFmt t.shape
  let row := r * shapeRBytes t.shape
  let data := t.data.toNat
  if fmtSize f != 0 then byteElem f (data / 2 ^ (8 * (row + k * fmtSize f)) % 2 ^ (8 * fmtSize f))
  else
    let b := fmtPlanes f
    let bits (n : Nat) : Nat := (List.range n).foldl (fun x p => 2 * x + (if planeBit data row b p k then 1 else 0)) 0
    if isGait f then
      let n := gaitBits (shapeRead t.shape - 7)
      let sign := planeBit data row b 0 k
      let m := bits (n + 1) % 2 ^ n
      let entry := Memory.load s.mem (scaleKey core (shapeXoff t.shape + r * shapeXpitch t.shape + 2 * (k / 16))) 2
      let e := entry % 256
      let u := entry.testBit (8 + k % 16 / 2)
      -- R215: under a narrow read a sign with no magnitude reads as zero, unless the block is not-a-number.
      if shapeNarrow t.shape != 0 && m == 0 && e != 255 then .fp (.fin false 0 0) else .fp (gaitValue sign m e u n)
    else planeElem f (bits b)

/-! ## Tiles and shapes -/

/-- A tile of zeros, unshaped. -/
def Tile.zero : Tile := { data := 0, shape := 0 }

/-- Tile n of the focused group. -/
def State.tile (s : State) (n : RegNo) : Tile := listAt s.grp.tiles n.toNat Tile.zero

/-- Replaces tile n of the focused group. -/
def State.setTile (s : State) (n : RegNo) (t : Tile) : State :=
  { s with grp := { s.grp with tiles := s.grp.tiles.set n.toNat t } }

/-- Is an earlier engine operation of the span still to read a tile (R294)? -/
def State.tileInUse (s : State) (n : RegNo) : Bool :=
  s.core.ops.any fun o => o.span = s.sp.id &&
    (match o.kind with
     | .mma ta tb _ _ _ _ => ta == n || tb == n
     | _ => false)

/-- Goes on when no earlier engine operation of the span is to read the tile, else waits at issue (R294). -/
def State.whenTileFree (s : State) (n : RegNo) (go : State → State) : State := if s.tileInUse n then s.stall else go s

/-- ILLEGAL_INSTR with a sub-code, found at issue. -/
def State.refuse (s : State) (sub : Nat) : State := s.raise (s.trapOf 0 sub)

/-- `tshape` (R293) -/
def execTshape (c : Bool) (a b : RegNo) (s : State) : Host.Outcome State Fault Refusal :=
  s.issue1 (.tshape c a b) fun t =>
    let v := t.rs b
    if tshapeBad v then t.refuse 3
    else t.whenTileFree a fun u =>
      u.setTile a { u.tile a with shape := BitVec.ofNat 64 (fld v 0 28 + fld (u.tile a).shape 32 32 * 2 ^ 32) }

/-- `tscale` (R293) -/
def execTscale (c : Bool) (a b : RegNo) (s : State) : Host.Outcome State Fault Refusal :=
  s.issue1 (.tscale c a b) fun t =>
    let v := t.rs b
    if tscaleBad v then t.refuse 3
    else t.whenTileFree a fun u =>
      u.setTile a { u.tile a with
        shape := BitVec.ofNat 64 (fld (u.tile a).shape 0 32 + fld v 0 15 * 2 ^ 32 + fld v 15 15 * 2 ^ 47) }

/-- An accumulator of zeros. -/
def Acc.zero : Acc := { data := 0, count := 0, sign := false, seq := none }

/-- Accumulator n of the focused group. -/
def State.acc (s : State) (n : BitVec 4) : Acc := listAt s.grp.accs n.toNat Acc.zero

/-- Replaces accumulator n of the focused group. -/
def State.setAcc (s : State) (n : BitVec 4) (x : Acc) : State :=
  { s with grp := { s.grp with accs := s.grp.accs.set n.toNat x } }

/-- `tzero` (R297) -/
def execTzero (c : Bool) (a : RegNo) (k : Bool) (s : State) : Host.Outcome State Fault Refusal :=
  s.issue1 (.tzero c a k) fun t =>
    if k then (t.setAcc (a.setWidth 4) Acc.zero).noteSeq (a.setWidth 4) none
    else t.whenTileFree a fun u => u.setTile a { u.tile a with data := 0 }

/-- The transpose of a byte-format tile of m rows of e elements of z bytes. -/
def transposed (data : BitVec 32768) (m e z : Nat) : BitVec 32768 :=
  BitVec.ofNat 32768 ((List.range (m * e)).foldl (fun x i =>
    let r := i / e
    let k := i % e
    x + data.toNat / 2 ^ (8 * z * (r * e + k)) % 2 ^ (8 * z) * 2 ^ (8 * z * (k * m + r))) 0)

/-- `txpose` (R296): the source is read at issue, and the destination is written on completion. -/
def execTxpose (c : Bool) (a b : RegNo) (s : State) : Host.Outcome State Fault Refusal :=
  s.issue1 (.txpose c a b) fun t =>
    let x := t.tile b
    let z := fmtSize (shapeFmt x.shape)
    let m := shapeRows x.shape
    if m = 0 || z = 0 || 128 < shapeRBytes x.shape / z then t.refuse 3
    else
      let e := shapeRBytes x.shape / z
      t.whenTileFree a fun u =>
        u.slow (.tile a (transposed x.data m e z)
            (BitVec.ofNat 64 (shapeFmt x.shape + e * 2 ^ 5 + m * z * 2 ^ 13))) true u.region true
          [.tile a.toNat, .shape a.toNat]

/-! ## tload and tstore (R295) -/

/-- The row starts S(sa) + r × S(sb) of a tile. -/
def State.tileRows (s : State) (t : Tile) (b f : RegNo) : List Nat :=
  (List.range (shapeRows t.shape)).map fun r => ((s.rs b).toNat + r * (s.rs f).toNat) % 2 ^ 64

/-- Places of row ranges with their pieces, after the saddle rules. -/
def State.withRows (s : State) (k : Nat) (writes : Bool) (use : SaddleUse) (n : Nat) (starts : List Nat)
    (go : State → Bool → List (Place × Piece) → State) : State :=
  let u : Use := if writes then .write else .read
  s.whenChecked k u (s.checkRows k u n starts) fun ps =>
    let pieces := rowPieces (vecAt s.seenSegs k Seg.invalid) n starts
    let both := ps.zip pieces
    s.withSaddles k use (both.map fun x => (x.1, x.2.len)) fun t logged => go (t.fillFor k ps) logged both

/-- `tload` (R295) -/
def execTload (c : Bool) (a b f : RegNo) (k : BitVec 3) (s : State) : Host.Outcome State Fault Refusal :=
  s.issue1 (.tload c a b f k) fun t =>
    let x := t.tile a
    if shapeRows x.shape = 0 then t.refuse 3
    else t.whenTileFree a fun u => u.whenPathFree fun v =>
      v.withRows k.toNat false .load (shapeRBytes x.shape) (v.tileRows x b f) fun w _ ps =>
        (w.send { w.newOp .load (.tile a) k.toNat 0 false with
          reqs := ps.map fun p => reqAt { p.1 with ro := p.1.ro || k == 4 } p.2.len 0 0 }).setPending (tr a)

/-- `tstore` (R295) -/
def execTstore (c : Bool) (a b f : RegNo) (k : BitVec 3) (s : State) : Host.Outcome State Fault Refusal :=
  s.issue1 (.tstore c a b f k) fun t =>
    let x := t.tile a
    if shapeRows x.shape = 0 then t.refuse 3
    else t.whenPathFree fun v =>
      v.withRows k.toNat true .store (shapeRBytes x.shape) (v.tileRows x b f) fun w logged ps =>
        w.send { w.newOp .store .none k.toNat 0 logged with
          whole := true,
          reqs := ps.map fun p => reqAt p.1 p.2.len (x.data.toNat / 2 ^ (8 * p.2.at_) % 2 ^ (8 * p.2.len)) 0 }

end Sys2Proof.Machine

end
end

