-- ==== Sys2Proof/Machine/Sums.lean ====
section
/-!
DEFINITION. The arithmetic of the matrix engine (R220 to R222, R298 to R303): legal pairs, accumulator kinds, and the
update of one accumulator element over its k-steps.
-/

noncomputable section

namespace Sys2Proof.Machine

open Sys2Proof

/-! ## Pairs and kinds (Tables 7.9 and 10.2) -/

/-- Kind and Kc of a pair of read formats; none for an illegal pair (Table 7.9). -/
def pairOf (a b : Nat) : Option (Nat × Nat) :=
  let small (x : Nat) : Bool := 12 ≤ x && x ≤ 16
  let byte (x : Nat) : Bool := x == 10 || x == 11
  if a = 0 && b = 0 then some (1, 2)
  else if (a = 1 || a = 2) && (b = 1 || b = 2) then some (0, 4)
  else if a = 3 && b = 3 then some (0, 8)
  else if a = 4 && b = 4 then some (0, 8)
  else if (a = 5 || a = 6) && (b = 5 || b = 6) then some (0, 32)
  else if a = 7 && b = 7 then some (0, 64)
  else if a = 8 && (b = 7 || b = 8) then some (0, 32)
  else if a = 9 && (b = 7 || b = 8 || b = 9) then some (0, 16)
  else if (a = 7 || a = 8) && b = 9 then some (0, 16)
  else if a = 7 && b = 8 then some (0, 32)
  else if small a && small b then some (2, 64)
  else if byte a && (byte b || small b) then some (2, 32)
  else if small a && byte b then some (2, 32)
  else if (a = 17 || a = 18) && (b = 17 || b = 18) then some (2, 8)
  else if a = 19 && b = 19 then some (2, 2)
  else if a = 20 && b = 20 then some (2, 2)
  else if a = 21 && b = 21 then some (2, 2)
  else if a = 22 && b = 22 then some (3, 2)
  else if a = 23 && b = 23 then some (4, 2)
  else none

/-- Element bytes, rows and columns of an accumulator kind (Table 10.2). -/
def kindSize (k : Nat) : Nat :=
  match k with
  | 1 => 8
  | 2 => 16
  | 4 => 128
  | _ => 4
/-- Rows. -/
def kindRows (k : Nat) : Nat :=
  match k with
  | 1 => 32
  | 2 => 32
  | 4 => 8
  | _ => 64
/-- Columns. -/
def kindCols (k : Nat) : Nat :=
  match k with
  | 2 => 32
  | 4 => 16
  | _ => 64

/-- The bits of element (i, j) of an accumulator in a kind (R298). -/
def accGet (data : BitVec 131072) (k i j : Nat) : Nat := fld data (8 * kindSize k * (i * kindCols k + j)) (8 * kindSize k)

/-- An accumulator's bytes with element (i, j) replaced. -/
def accPut (data : BitVec 131072) (k i j x : Nat) : BitVec 131072 :=
  setFld data (8 * kindSize k * (i * kindCols k + j)) (8 * kindSize k) x

/-! ## Floating-point sums (R221, R222) -/

/-- An exact dyadic sum: mantissa and exponent. -/
abbrev Dy := Int × Int

/-- The sum of two exact values. -/
def dyAdd (x y : Dy) : Dy :=
  let q := min x.2 y.2
  (x.1 * 2 ^ (x.2 - q).toNat + y.1 * 2 ^ (y.2 - q).toNat, q)

/-- Special states: 0 none, 1 +∞, 2 −∞, 3 NaN. -/
def prodSpecial (a b : FVal) : Nat :=
  if a.isNaN || b.isNaN || fMulInvalid a b then 3
  else
    match a, b with
    | .fin .., .fin .. => 0
    | _, _ => if a.sign != b.sign then 2 else 1

/-- The exact product of two finite values. -/
def prodExact (a b : FVal) : Dy :=
  match a, b with
  | .fin na ma ea, .fin nb mb eb => (signedNat (na != nb) (ma * mb), ea + eb)
  | _, _ => (0, 0)
where
  /-- A magnitude with a sign. -/
  signedNat (neg : Bool) (m : Nat) : Int := if neg then -(m : Int) else (m : Int)

/-- A chunk: its exact sum and the special state of its products. -/
def chunkSum (spec : Nat) (ps : List (FVal × FVal)) : Dy × Nat :=
  ps.foldl (fun r p => (dyAdd r.1 (prodExact p.1 p.2), specMerge' r.2 (prodSpecial p.1 p.2))) ((0, 0), spec)
where
  /-- A state with another product's. -/
  specMerge' (s v : Nat) : Nat := if v = 0 then s else specMerge s v

/-- trunc_array: toward zero to 26 significant bits; below 2^−510 it is +0 (R221). -/
def truncArray (x : Dy) : Dy :=
  if x.1 = 0 then (0, 0)
  else
    let l := Nat.log2 x.1.natAbs
    if (l : Int) + x.2 < -510 then (0, 0)
    else if l ≤ 25 then x
    else (x.1.sign * ((x.1.natAbs / 2 ^ (l - 25) : Nat) : Int), x.2 + ((l - 25 : Nat) : Int))

/-- A finite exact value, for an addition. -/
def dyVal (x : Dy) : FVal := .fin (decide (x.1 < 0)) x.1.natAbs x.2

/-- A special state as a value. -/
def specVal (s : Nat) : FVal :=
  match s with
  | 1 => .inf false
  | 2 => .inf true
  | _ => .nan false

/-- C := round(C + part), or C := C + the special state (R221, R222). -/
def promote (f : Fmt) (c : Nat) (part : Dy) (spec : Nat) : Nat :=
  (fAdd f .rne (FVal.ofBits f c) (if spec = 0 then dyVal part else specVal spec)).1

/-- An open element of an FP32 sequence: C, part and special state. -/
structure OpenElem where
  c    : Nat
  part : Dy
  spec : Nat
  deriving DecidableEq, Repr

/-- The k-steps of one FP32 element: t is the step's number in the sequence, `last` promotes at the end. -/
def stepsF32 (pr : Nat) (last : Bool) (t : Nat) (chunks : List (List (FVal × FVal))) (x : OpenElem) : OpenElem :=
  match chunks with
  | [] => x
  | ch :: rest =>
    let r := chunkSum x.spec ch
    let part := truncArray (dyAdd x.part r.1)
    let y : OpenElem :=
      if (t + 1) % pr == 0 || (last && rest.isEmpty) then { c := promote Fmt.f32 x.c part r.2, part := (0, 0), spec := 0 }
      else { x with part := part, spec := r.2 }
    stepsF32 pr last (t + 1) rest y

/-- The k-steps of one FP64 element. -/
def stepsF64 (chunks : List (List (FVal × FVal))) (c : Nat) : Nat :=
  match chunks with
  | [] => c
  | ch :: rest =>
    let r := chunkSum 0 ch
    stepsF64 rest (promote Fmt.f64 c r.1 r.2)

/-- A list cut into chunks of n. -/
def chunksOf {α : Type} (n fuel : Nat) (l : List α) : List (List α) :=
  match fuel with
  | 0 => []
  | k + 1 => if l.isEmpty then [] else l.take n :: chunksOf n k (l.drop n)

/-! ## Windows (R303) -/

/-- A window element's value: 32 limbs of magnitude, sign in bit 31 of limb 31. -/
def windowVal (x : Nat) : Int := if x.testBit 1023 then -((x % 2 ^ 1023 : Nat) : Int) else ((x % 2 ^ 1023 : Nat) : Int)

/-- The element of a value. -/
def windowBits (x : Int) : Nat := x.natAbs % 2 ^ 1023 + (if x < 0 then 2 ^ 1023 else 0)

/-! ## One multiply-accumulate (R301, R302) -/

/-- What an `mma` or `mmai`, or a task, computes with. -/
structure MmaSpec where
  kind : Nat
  kc   : Nat
  m    : Nat
  n    : Nat
  k    : Nat
  init : Bool
  cont : Bool
  ci   : Nat
  cj   : Nat
  /-- Promotion period. -/
  pr   : Nat
  /-- Modulus of a residue pair. -/
  q    : Nat
  /-- Window exponent and SPEC. -/
  x    : Int
  spec : Nat
  deriving DecidableEq, Repr

/-- The result: the accumulator, a window's sticky bit and SPEC, and whether a window stopped it. -/
structure MmaDone where
  acc    : Acc
  sticky : Bool
  spec   : Nat
  full   : Bool

/-- An element as an FVal. -/
def Elem.toF : Elem → FVal
  | .fp v => v
  | .int _ => .nan false

/-- An element as an integer. -/
def Elem.toI : Elem → Int
  | .int x => x
  | .fp _ => 0

/-- A part as an FP64 encoding, and back: the array format lies within FP64. -/
def partBits (p : Dy) : DWord := BitVec.ofNat 64 (roundInt Fmt.f64 .rne p.1 p.2 false).1
/-- The part of an encoding. -/
def partOf (x : DWord) : Dy :=
  match FVal.ofBits Fmt.f64 x.toNat with
  | .fin neg m e => (if neg then -(m : Int) else (m : Int), e)
  | _ => (0, 0)

/-- Promotes every element of the window of an open sequence and closes it (R302). -/
def Acc.close (a : Acc) : Acc :=
  match a.seq with
  | none => a
  | some q =>
    let data := (List.range (q.m * q.n)).foldl (fun d e =>
      let i := q.ci + e / q.n
      let j := q.cj + e % q.n
      let p := listAt q.parts e (0, 0)
      accPut d 0 i j (promote Fmt.f32 (accGet d 0 i j) (partOf p.1) p.2)) a.data
    { a with data := data, seq := none }

/-- The FP32 kind. -/
def mmaF32 (s : MmaSpec) (a : Acc) (row col : Nat → List FVal) : Acc :=
  let same (q : OpenSeq) : Bool := q.m == s.m && q.n == s.n && q.ci == s.ci && q.cj == s.cj
  let a1 : Acc := match a.seq with
    | some q => if s.init then { a with seq := none } else if same q then a else a.close
    | none => a
  let t0 := match a1.seq with
    | some q => q.t
    | none => 0
  let steps := (s.k + s.kc - 1) / s.kc
  let elem (e : Nat) : OpenElem :=
    let i := e / s.n
    let j := e % s.n
    let p := match a1.seq with
      | some q => listAt q.parts e (0, 0)
      | none => (0, 0)
    let c := if s.init then 0 else accGet a1.data 0 (s.ci + i) (s.cj + j)
    stepsF32 s.pr (!s.cont) t0 (chunksOf s.kc steps ((row i).zip (col j))) { c := c, part := partOf p.1, spec := p.2 }
  let es := (List.range (s.m * s.n)).map elem
  let data := (List.range (s.m * s.n)).foldl (fun d e =>
    accPut d 0 (s.ci + e / s.n) (s.cj + e % s.n) (listAt es e { c := 0, part := (0, 0), spec := 0 }).c) a1.data
  { a1 with data := data,
            seq := if s.cont then
                some { t := t0 + steps, m := s.m, n := s.n, ci := s.ci, cj := s.cj,
                       parts := es.map fun x => (partBits x.part, x.spec) }
              else none }

/-- The kinds whose elements are updated one by one: FP64, INT128 and residue. -/
def mmaPlain (s : MmaSpec) (a : Acc) (row col : Nat → List Elem) : Acc :=
  let steps := (s.k + s.kc - 1) / s.kc
  let elem (d : BitVec 131072) (i j : Nat) : Nat :=
    let c := if s.init then 0 else accGet d s.kind (s.ci + i) (s.cj + j)
    let ps := (row i).zip (col j)
    match s.kind with
    | 1 => stepsF64 (chunksOf s.kc steps (ps.map fun p => (p.1.toF, p.2.toF))) c
    | 2 => wrapTo 128 ((c : Int) + (ps.map fun p => p.1.toI * p.2.toI).foldl (fun x y => x + y) 0)
    | _ => (c + (ps.map fun p => p.1.toI.toNat % s.q * (p.2.toI.toNat % s.q)).foldl (fun x y => x + y) 0) % s.q
  let data := (List.range (s.m * s.n)).foldl (fun d e =>
    accPut d s.kind (s.ci + e / s.n) (s.cj + e % s.n) (elem a.data (e / s.n) (e % s.n))) a.data
  { a with data := data, seq := if s.kind = 1 then a.seq else none }

/-- The k-steps of the window kind: a step after which some magnitude would reach 2^1023 is not made (R303). -/
def stepsWindow (x : Int) (chunks : List (List (Nat × FVal × FVal))) (vals : List Int) (sticky : Bool) (spec : Nat) :
    List Int × Bool × Nat × Bool :=
  match chunks with
  | [] => (vals, sticky, spec, false)
  | ch :: rest =>
    let w0 (e : Nat) : WinSum := { acc := listAt vals e 0, sticky := false, spec := 0 }
    let new := (List.range vals.length).map fun e =>
      (ch.filter fun p => p.1 == e).foldl (fun w p => w.add x p.2.1 p.2.2) (w0 e)
    if new.any fun w => 2 ^ 1023 ≤ w.acc.natAbs then (vals, sticky, spec, true)
    else
      stepsWindow x rest (new.map fun w => w.acc) (sticky || new.any fun w => w.sticky)
        (new.foldl (fun s w => if w.spec = 0 then s else specMerge s w.spec) spec)

/-- The window kind. -/
def mmaWindow (s : MmaSpec) (a : Acc) (row col : Nat → List FVal) : MmaDone :=
  let steps := (s.k + s.kc - 1) / s.kc
  let chunk (t : Nat) : List (Nat × FVal × FVal) :=
    (List.range (s.m * s.n)).flatMap fun e =>
      ((((row (e / s.n)).zip (col (e % s.n))).drop (t * s.kc)).take s.kc).map fun p => (e, p.1, p.2)
  let vals := (List.range (s.m * s.n)).map fun e =>
    if s.init then 0 else windowVal (accGet a.data 4 (s.ci + e / s.n) (s.cj + e % s.n))
  let (vs, sticky, spec, full) := stepsWindow s.x ((List.range steps).map chunk) vals false s.spec
  let data := (List.range (s.m * s.n)).foldl (fun d e =>
    accPut d 4 (s.ci + e / s.n) (s.cj + e % s.n) (windowBits (listAt vs e 0))) a.data
  { acc := { a with data := data, seq := none }, sticky := sticky, spec := spec, full := full }

/-- An `mma` or `mmai` on an accumulator, from the rows of A and of B (R301). -/
def mmaDo (s : MmaSpec) (a : Acc) (row col : Nat → List Elem) : MmaDone :=
  let f (g : Nat → List Elem) (i : Nat) : List FVal := (g i).map Elem.toF
  match s.kind with
  | 0 => { acc := mmaF32 s a (f row) (f col), sticky := false, spec := 0, full := false }
  | 4 => mmaWindow s a (f row) (f col)
  | _ => { acc := mmaPlain s a row col, sticky := false, spec := 0, full := false }

end Sys2Proof.Machine

end
end

