-- ==== Sys2Proof/Machine/Matrix.lean ====
section
/-!
DEFINITION. Issue of the matrix engine's instructions (R298 to R308) and the Reins (R309 to R312).
-/

noncomputable section

namespace Sys2Proof.Machine

open Sys2Proof

/-! ## mma and mmai (R299 to R302) -/

/-- The fields of a scalar quad (Table 10.3). -/
structure Quad where
  m    : Nat
  n    : Nat
  k    : Nat
  init : Bool
  cont : Bool
  aro  : Nat
  bro  : Nat
  ci   : Nat
  cj   : Nat
  /-- Reserved bits are set. -/
  bad  : Bool
  deriving DecidableEq, Repr

/-- The quad that four registers hold. -/
def quadOf (ws : List DWord) : Quad :=
  let c := listAt ws 3 0
  { m := (listAt ws 0 0).toNat, n := (listAt ws 1 0).toNat, k := (listAt ws 2 0).toNat, init := bitOn c 0,
    cont := bitOn c 1, aro := fld c 8 8, bro := fld c 16 8, ci := fld c 24 8, cj := fld c 32 8,
    bad := fld c 2 6 != 0 || fld c 40 24 != 0 }

/-- The four registers of a quad. -/
def State.quadWords (s : State) (q : BitVec 4) : List DWord :=
  (List.range 4).map fun i => s.rs (BitVec.ofNat 6 (4 * q.toNat + i))

/-- The sequence that the span's own earlier-issued operations will leave on an accumulator; those of other spans are not
taken into account (R302). -/
def State.seqAhead (s : State) (n : BitVec 4) : Option SeqShape := (s.sp.seqs.find? fun q => q.1 == n).map fun q => q.2

/-- What an `mma` or `mmai` of a kind leaves of the sequence on its accumulator (R302). -/
def seqAfter (kind : Nat) (q : Quad) (before : Option SeqShape) : Option SeqShape :=
  match kind with
  | 0 => if q.cont then some (q.m, q.n, q.ci, q.cj) else none
  | 1 => before
  | _ => none

/-- Do the scale entries of the elements used pass the end of scale memory (R300)? -/
def scalesPass (shape : DWord) (first rows k : Nat) : Bool :=
  isGait (shapeFmt shape) && rows != 0 && k != 0 &&
    decide (0x8000 < shapeXoff shape + (first + rows - 1) * shapeXpitch shape + 2 * ((k + 15) / 16))

/-- MODQ's modulus. -/
def modulusOf (modq : DWord) : Nat := fld modq 0 32

/-- The sub-code that the checks of R300 raise. -/
def State.mmaBad (s : State) (a b : RegNo) (acc : BitVec 4) (p : BitVec 3) (int : Bool) (q : Quad) : Option Nat :=
  let x := (s.tile a).shape
  let y := (s.tile b).shape
  if (tr a ++ tr b ++ ar (acc.setWidth 6)).any s.seenView.lacks then some 4
  else if shapeRows x = 0 || shapeRows y = 0 then some 3
  else
    match pairOf (shapeRead x) (shapeRead y) with
    | none => some 3
    | some (kind, _) =>
      let breaks : Bool := (q.cont && kind != 0) ||
        (kind == 0 && !q.init &&
          (match s.seqAhead acc with
           | some w => w != (q.m, q.n, q.ci, q.cj)
           | none => false))
      if decide (2 ≤ kind) != int || (kind == 3 && decide (modulusOf s.seen.modq < 2)) || scalesPass x q.aro q.m q.k ||
          scalesPass y q.bro q.n q.k || breaks || (p != 0 && kind != 0) then some 3
      else if q.bad then some 2
      else if q.m = 0 || q.n = 0 || q.k = 0 || shapeRows x < q.aro + q.m || shapeRows y < q.bro + q.n ||
          shapePerRow x < q.k || shapePerRow y < q.k || kindRows kind < q.ci + q.m || kindCols kind < q.cj + q.n then
        some 9
      else none

/-- Issue of `mma` and `mmai` (R300). -/
def State.issueMma (s : State) (a b : RegNo) (acc : BitVec 4) (p : BitVec 3) (int : Bool) (q : BitVec 4) : State :=
  let ws := s.quadWords q
  match s.mmaBad a b acc p int (quadOf ws) with
  | some n => s.refuse n
  | none =>
    let kind := ((pairOf (shapeRead (s.tile a).shape) (shapeRead (s.tile b).shape)).map fun x => x.1).getD 0
    (s.enterOp (.mma a b acc p int ws) s.region (ar (acc.setWidth 6))).noteSeq acc
      (seqAfter kind (quadOf ws) (s.seqAhead acc))

/-- `mma` (R299 to R302) -/
def execMma (c : Bool) (a b : RegNo) (acc : BitVec 4) (p : BitVec 3) (q : BitVec 4) (s : State) :
    Host.Outcome State Fault Refusal :=
  s.issue1 (.mma c a b acc p q) fun t => t.issueMma a b acc p false q

/-- `mmai` (R299 to R303) -/
def execMmai (c : Bool) (a b : RegNo) (acc : BitVec 4) (q : BitVec 4) (s : State) : Host.Outcome State Fault Refusal :=
  s.issue1 (.mmai c a b acc q) fun t => t.issueMma a b acc 0 true q

/-- `mprom` (R302) -/
def execMprom (c : Bool) (a : RegNo) (s : State) : Host.Outcome State Fault Refusal :=
  s.issue1 (.mprom c a) fun t => (t.enterOp (.mprom (a.setWidth 4)) t.region (ar a)).noteSeq (a.setWidth 4) none

/-! ## tdrain (R306 to R308) -/

/-- The fields of a drain descriptor (Table 10.4). -/
structure DrainDesc where
  pitch : Nat
  rows  : Nat
  cols  : Nat
  rowo  : Nat
  colo  : Nat
  conv  : Nat
  kind  : Nat
  deriving DecidableEq, Repr

/-- The descriptor that a register holds. -/
def drainDesc (x : DWord) : DrainDesc :=
  { pitch := fld x 0 16, rows := fld x 16 8, cols := fld x 24 8, rowo := fld x 32 8, colo := fld x 40 8,
    conv := fld x 48 2, kind := fld x 50 3 }

/-- Does R306 refuse a descriptor? -/
def drainBad (x : DWord) (red : Bool) : Bool :=
  let d := drainDesc x
  fld x 53 11 != 0 || 4 < d.kind || d.rows = 0 || d.cols = 0 || kindRows d.kind < d.rowo + d.rows ||
    kindCols d.kind < d.colo + d.cols || d.conv == 3 || (d.conv != 0 && d.kind != 0) ||
    (red && (d.kind > 2 || d.conv != 0))

/-- Bytes of an element as a drain writes it. -/
def DrainDesc.size (d : DrainDesc) : Nat := if d.conv = 0 then kindSize d.kind else 2

/-- Segment offsets of the drained rows. -/
def drainRows (base : DWord) (d : DrainDesc) : List Nat := (List.range d.rows).map fun r => (base.toNat + r * d.pitch) % 2 ^ 64

/-- Issue of `tdrain` and `tdrain.red` (R306, R308): the checks are made over every row range, and the drain becomes one
region of the matrix drain path. -/
def State.issueDrain (s : State) (a b f : RegNo) (k : BitVec 3) (red : Bool) : State :=
  let x := s.rs f
  let d := drainDesc x
  if drainBad x red then s.refuse 3
  else
    let use := if red then SaddleUse.update else .store
    s.withRows k.toNat true use (d.cols * d.size) (drainRows (s.rs b) d) fun t logged ps =>
      let (r, u) := t.newEngineRegion 2
      let room := if logged then logRoom use (ps.map fun x => (x.1, x.2.len)) else 0
      (u.enterOp (.drain (a.setWidth 4) red k (s.rs b) x logged room) r (ar a)).noteSeq (a.setWidth 4) none

/-- `tdrain` (R306) -/
def execTdrain (c : Bool) (a b f : RegNo) (k : BitVec 3) (s : State) : Host.Outcome State Fault Refusal :=
  s.issue1 (.tdrain c a b f k) fun t => t.issueDrain a b f k false

/-- `tdrain.red` (R306) -/
def execTdrainRed (c : Bool) (a b f : RegNo) (k : BitVec 3) (s : State) : Host.Outcome State Fault Refusal :=
  s.issue1 (.tdrainRed c a b f k) fun t => t.issueDrain a b f k true

/-! ## The Reins (R309 to R312) -/

/-- Every operation that has arrived is accepted: the holder has become none (R309). -/
def Core.acceptAll (c : Core) : Core := { c with ops := c.ops.map fun o => { o with accepted := true } }

/-- Is a span live: some slice with a lane that has not exited does not wait at a `phase.end` yet? -/
def Span.isLive (p : Span) : Bool := vecAny p.slices fun x => x.exited != 15 && x.wait != some .phaseEnd

/-- The slots of the live spans of a group, ascending. -/
def State.liveSlots (s : State) (g : GroupId) : List Nat :=
  positions 64 fun i => s.spans.any fun p => p.group == g && p.id.slot.toNat == i && p.isLive

/-- A span takes its core's Reins: what has arrived while there was no holder has been accepted (R309, R310). -/
def Core.take (c : Core) (slot : BitVec 6) : Core := { c.acceptAll with holder := some slot, offer := none }

/-- May a span take the Reins: no holder, and no offer to another (R310)? -/
def Core.takable (c : Core) (slot : BitVec 6) : Bool := c.holder.isNone && (c.offer.isNone || c.offer == some slot)

/-- Does a span wait in `reins.take`? -/
def Span.waitsReins (p : Span) : Bool := vecAny p.slices fun x => x.wait == some .reins

/-- `reins.take` (R310) -/
def execReinsTake (c : Bool) (s : State) : Host.Outcome State Fault Refusal :=
  s.issue1 (.reinsTake c) fun t =>
    if t.gangWait = some .woken then t
    else
      t.afterDrain fun u =>
        let me := u.sp.id.slot
        let others := u.rest.any fun p => p.id.core == u.sp.id.core && p.waitsReins
        if u.core.holder == some me then u
        else if u.core.takable me && (!others || u.core.offer == some me) then { u with core := u.core.take me }
        else u.waitIn .reins

/-- `reins.pass` (R311) -/
def execReinsPass (c : Bool) (a : RegNo) (s : State) : Host.Outcome State Fault Refusal :=
  s.issue1 (.reinsPass c a) fun t =>
    if t.core.holder != some t.sp.id.slot then t
    else
      let x := t.rs a
      let to_ := fld x 0 6
      let offer : Option (BitVec 6) :=
        if bitOn x 6 || !(t.liveSlots t.sp.group).contains to_ then none else some (BitVec.ofNat 6 to_)
      { t with core := { t.core.acceptAll with holder := none, offer := offer } }

/-- `reins.pass.next` (R311) -/
def execReinsPassNext (c : Bool) (s : State) : Host.Outcome State Fault Refusal :=
  s.issue1 (.reinsPassNext c) fun t =>
    if t.core.holder != some t.sp.id.slot then t
    else
      let live := t.liveSlots t.sp.group
      let to_ := ((live.filter fun i => decide (t.sp.id.slot.toNat < i)) ++ live).headD t.sp.id.slot.toNat
      { t with core := { t.core.acceptAll with holder := none, offer := some (BitVec.ofNat 6 to_) } }

/-- `reins.query` (R312, Table 10.5) -/
def execReinsQuery (c : Bool) (d : RegNo) (s : State) : Host.Outcome State Fault Refusal :=
  s.issue1 (.reinsQuery c d) fun t =>
    let k := if t.core.holder.isNone then t.core.acceptAll else t.core
    let slot (o : Option (BitVec 6)) : Nat := (o.getD 0).toNat
    let b (x : Bool) (i : Nat) : Nat := if x then 2 ^ i else 0
    t.ws d (BitVec.ofNat 64 (slot k.holder + b k.holder.isSome 6 + slot k.offer * 2 ^ 8 + b k.offer.isSome 14 +
      b (k.holder == some t.sp.id.slot) 15 + (k.ops.filter fun o => o.accepted).length % 2 ^ 16 * 2 ^ 16))

/-- `REINS_GRANT` (R310): an offered span takes the Reins, else the oldest that waits. -/
def execReinsGrant (k : CoreId) (s : State) : Host.Outcome State Fault Refusal :=
  let c := s.coreOf k
  let waiting := s.spans.filter fun p => p.id.core = k && p.waitsReins && c.takable p.id.slot
  let byAge := sortBy (fun a b => decide (s.ageOf a < s.ageOf b)) waiting
  match byAge with
  | [] => happens s
  | p :: _ =>
    let wake (x : Slice) : Slice := if x.wait == some .reins then { x with wait := some .woken } else x
    happens ((s.updCore k fun c => c.take p.id.slot).updSpan p.id fun q =>
      { q with slices := vecMap q.slices fun _ x => wake x })

/-- A span that exits or ends its phase leaves the Reins, and an offer to it is cleared (R311). -/
def Core.leaveReins (c : Core) (slot : BitVec 6) : Core :=
  let c1 := if c.holder == some slot then { c.acceptAll with holder := none } else c
  { c1 with offer := if c1.offer == some slot then none else c1.offer }

end Sys2Proof.Machine

end
end

