-- ==== Sys2Proof/Machine/Sparse.lean ====
section
/-!
DEFINITION. The sparse operations (R321 to R324): the issue of `spmv` and `sptrsv`, and their work on the matrix engine,
one 32-row slice or one level at a time.
-/

noncomputable section

namespace Sys2Proof.Machine

open Sys2Proof

/-! ## Issue (R321) -/

/-- Issue of `spmv` and `sptrsv`: the checks of the layout record are precise; the accesses form one region of the Trotter
path (R322). -/
def State.issueSparse (s : State) (d a b : RegNo) (kind : RegNo → DWord → DWord → EngineKind) : State :=
  s.unlessSaddled fun t =>
    let x := t.rs a
    let k := segOf x
    if k == 1 || k == 5 || k == 6 || k == 7 then t.raise (t.trapAt 8 (BitVec.ofNat 64 (offOf x)))
    else
      t.withPlaces k .read 8 true ((List.range 8).map fun i => (i, offOf x + 8 * i)) fun _ =>
        let (r, u) := t.newEngineRegion 3
        u.enterOp (kind d x (t.rs b)) r (sr d)

/-- `spmv` (R321, R322) -/
def execSpmv (c : Bool) (d a b : RegNo) (s : State) : Host.Outcome State Fault Refusal :=
  s.issue1 (.spmv c d a b) fun t => t.issueSparse d a b .spmv

/-- `sptrsv` (R321, R323) -/
def execSptrsv (c : Bool) (d a b : RegNo) (s : State) : Host.Outcome State Fault Refusal :=
  s.issue1 (.sptrsv c d a b) fun t => t.issueSparse d a b .sptrsv

/-! ## The layout record (Table 10.8) -/

/-- A sparse layout record. -/
structure SparseRecord where
  val   : DWord
  col   : DWord
  sptr  : DWord
  xv    : DWord
  yv    : DWord
  nrows : Nat
  ncols : Nat
  flag  : Bool
  diag  : DWord
  lev   : DWord
  deriving DecidableEq, Repr

/-- The record that 64 bytes hold. -/
def sparseRecordOf (bs : List Byte) : SparseRecord :=
  let x : BitVec 512 := BitVec.ofNat 512 (leOf bs)
  let w (i : Nat) : DWord := BitVec.ofNat 64 (fld x (64 * i) 64)
  { val := w 0, col := w 1, sptr := w 2, xv := w 3, yv := w 4, nrows := fld x 320 32, ncols := fld x 352 31,
    flag := bitOn x 383, diag := w 6, lev := w 7 }

/-! ## Accesses at segment addresses -/

/-- The address of an offset from a segment address. -/
def Actor.addrOf (a : Actor) (x : DWord) (off : Nat) : DWord :=
  BitVec.ofNat 64 ((vecAt a.segs (segOf x) Seg.invalid).baseOf + offOf x + off)

/-- Is a segment no place for engine data: X or E (R321)? -/
def badDataSeg (x : DWord) : Bool := segOf x == 5 || segOf x == 6

/-- n bytes, aligned, at an offset from a segment address, as a number. -/
def State.sparseRead (s : State) (a : Actor) (x : DWord) (off n : Nat) : EngAns (Nat × Option DWord) :=
  if badDataSeg x then .fault (a.trap 8 (a.addrOf x off)) s
  else if (a.addrOf x off).toNat % n != 0 then .fault (a.trap 6 (a.addrOf x off)) s
  else s.engWord a (segOf x) (offOf x + off) n

/-- An FP64 value written at an offset from a segment address. -/
def State.sparseWrite (s : State) (a : Actor) (x : DWord) (off v : Nat) (bad : Bool) : EngAns Unit :=
  if badDataSeg x then .fault (a.trap 8 (a.addrOf x off)) s
  else if (a.addrOf x off).toNat % 8 != 0 then .fault (a.trap 6 (a.addrOf x off)) s
  else s.engWrite a (segOf x) (offOf x + off) (bytesLE 8 v) bad

/-! ## Rows and slices (R322, R323) -/

/-- The entries of one row from position j: the accumulator takes n more products, in stored order, one rounding each.
`tri` subtracts products with the output vector. -/
def State.sparseRow (n : Nat) (s : State) (a : Actor) (r : SparseRecord) (tri : Bool) (e : Nat) (acc : Nat)
    (bad : Option DWord) : EngAns (Nat × Option DWord) :=
  match n with
  | 0 => .ok (acc, bad) s
  | k + 1 =>
    (s.sparseRead a r.col (4 * e) 4).bind fun c t =>
      if c.1 = 0xFFFFFFFF then t.sparseRow k a r tri (e + 32) acc (bad <|> c.2)
      else if (if tri then r.nrows else r.ncols) ≤ c.1 then .fault (a.trap 8 (a.addrOf r.col (4 * e))) t
      else
        (t.sparseRead a r.val (8 * e) 8).bind fun v t1 =>
          (t1.sparseRead a (if tri then r.yv else r.xv) (8 * c.1) 8).bind fun x t2 =>
            let m := FVal.ofBits Fmt.f64 v.1
            let p := fFma Fmt.f64 .rne (if tri then m.neg else m) (FVal.ofBits Fmt.f64 x.1) (FVal.ofBits Fmt.f64 acc)
            t2.sparseRow k a r tri (e + 32) p.1 (((bad <|> c.2) <|> v.2) <|> x.2)

/-- The first value of a row's accumulator. -/
def State.sparseStart (s : State) (a : Actor) (r : SparseRecord) (tri : Bool) (row : Nat) : EngAns (Nat × Option DWord) :=
  if tri then s.sparseRead a r.xv (8 * row) 8
  else if r.flag then s.sparseRead a r.yv (8 * row) 8
  else .ok (0, none) s

/-- The value that a row's output takes: the solve divides by the diagonal. -/
def State.sparseEnd (s : State) (a : Actor) (r : SparseRecord) (tri : Bool) (row acc : Nat) : EngAns (Nat × Option DWord) :=
  if tri && !r.flag then
    (s.sparseRead a r.diag (8 * row) 8).bind fun d t =>
      .ok ((fDiv Fmt.f64 .rne (FVal.ofBits Fmt.f64 acc) (FVal.ofBits Fmt.f64 d.1)).1, d.2) t
  else .ok (acc, none) s

/-- Rows 32s + i of a slice for i from some row on, n of them; poisoned inputs poison the row and stop the operation
(R86). -/
def State.sparseRows (n : Nat) (s : State) (a : Actor) (r : SparseRecord) (tri : Bool) (slice first width i : Nat) :
    EngAns Unit :=
  match n with
  | 0 => .ok () s
  | k + 1 =>
    let row := 32 * slice + i
    (s.sparseStart a r tri row).bind fun x t =>
      (t.sparseRow width a r tri (first + i) x.1 x.2).bind fun y t1 =>
        (t1.sparseEnd a r tri row y.1).bind fun z t2 =>
          let bad := y.2 <|> z.2
          (t2.sparseWrite a r.yv (8 * row) z.1 bad.isSome).bind fun _ t3 =>
            match bad with
            | some va => .fault (a.trap 9 va) t3
            | none => t3.sparseRows k a r tri slice first width (i + 1)

/-- Rows of a slice below NROWS. -/
def sliceRows (r : SparseRecord) (slice : Nat) : Nat := min 32 (r.nrows - 32 * slice)

/-- One slice: its bounds are read and checked, then its rows are done. -/
def State.sparseSlice (s : State) (a : Actor) (r : SparseRecord) (tri : Bool) (slice : Nat) : EngAns Unit :=
  (s.sparseRead a r.sptr (4 * slice) 4).bind fun x t =>
    (t.sparseRead a r.sptr (4 * slice + 4) 4).bind fun y t1 =>
      match x.2 <|> y.2 with
      | some va => .fault (a.trap 9 va) t1
      | none =>
        if y.1 < x.1 || x.1 % 32 != 0 || y.1 % 32 != 0 then .fault (a.trap 8 (a.addrOf r.sptr (4 * slice))) t1
        else t1.sparseRows (sliceRows r slice) a r tri slice x.1 ((y.1 - x.1) / 32) 0

/-- The bounds of a level's slices. -/
def State.levelBounds (s : State) (a : Actor) (r : SparseRecord) (lev : Nat) : EngAns (Nat × Nat) :=
  (s.sparseRead a r.lev (4 * lev) 4).bind fun x t =>
    (t.sparseRead a r.lev (4 * lev + 4) 4).bind fun y t1 =>
      match x.2 <|> y.2 with
      | some va => .fault (a.trap 9 va) t1
      | none => .ok (x.1, y.1) t1

/-- Rows of the slices from one on, n of them. -/
def rowsOfSlices (r : SparseRecord) (slice n : Nat) : Nat :=
  match n with
  | 0 => 0
  | k + 1 => sliceRows r slice + rowsOfSlices r (slice + 1) k

/-! ## The operation on the engine -/

/-- The actor of an engine operation. -/
def State.opActor (s : State) (o : EngineOp) : Actor :=
  { span := o.span, group := ((s.spanOf o.span).map fun p => p.group).getD 0, core := o.span.core, segs := o.segs,
    region := o.region, pc := o.pc, failed := o.failed.isSome, lost := o.lost }

/-- The record as the operation reads it; a poisoned one stops it. -/
def State.sparseRecord (s : State) (a : Actor) (x : DWord) : EngAns SparseRecord :=
  (s.engRead a (segOf x) (offOf x) 64).bind fun b t =>
    match b.2 with
    | some va => .fault (a.trap 9 va) t
    | none => .ok (sparseRecordOf b.1) t

/-- Rows written by the first n levels of a range; a bound that cannot be read counts nothing. -/
def State.levelRows (n : Nat) (s : State) (a : Actor) (r : SparseRecord) (lev : Nat) : Nat :=
  match n with
  | 0 => 0
  | k + 1 =>
    (match s.levelBounds a r lev with
     | .ok b _ => rowsOfSlices r b.1 (b.2 - b.1)
     | _ => 0) + s.levelRows k a r (lev + 1)

/-- Rows written by the first n steps of an operation: S(sd) at its end or at its fault (R322). -/
def State.sparseCount (s : State) (a : Actor) (x sel : DWord) (tri : Bool) (n : Nat) : Nat :=
  match s.engRead a (segOf x) (offOf x) 64 with
  | .ok b t =>
    let r := sparseRecordOf b.1
    let first := fld sel 0 32
    if tri then t.levelRows n a r first else rowsOfSlices r first n
  | _ => 0

/-- One Coachman step of an `spmv` (R320): its next slice. -/
def State.spmvStep (s : State) (a : Actor) (x sel : DWord) (done : Nat) : EngAns Unit :=
  (s.sparseRecord a x).bind fun r t => t.sparseSlice a r false (fld sel 0 32 + done)

/-- The slices of a level of a solve (R323). -/
def State.levelSlices (s : State) (a : Actor) (x : DWord) (lev : Nat) : EngAns (List Nat) :=
  (s.sparseRecord a x).bind fun r t =>
    (t.levelBounds a r lev).bind fun b u => .ok ((List.range (b.2 - b.1)).map fun i => b.1 + i) u

/-- One slice of a solve, as an internal task does it (R324). -/
def State.triSlice (s : State) (a : Actor) (x : DWord) (slice : Nat) : EngAns Unit :=
  (s.sparseRecord a x).bind fun r t => t.sparseSlice a r true slice

end Sys2Proof.Machine

end
end

