-- ==== Sys2Proof/Machine/Coach.lean ====
section
/-!
DEFINITION. The Coachman of a core's matrix engine (R270 to R274, R301 to R308): acceptance under the Reins, and the
operations performed one after the other.
-/

noncomputable section

namespace Sys2Proof.Machine

open Sys2Proof

/-! ## Acceptance (R309) -/

/-- `ENGINE_OPERATION_ACCEPT` (R309): an operation that has arrived is accepted once no other span holds the Reins, in
order of arrival. -/
def execEngineOperationAccept (op : Nat) (s : State) : Host.Outcome State Fault Refusal :=
  let cores := s.core :: s.cores
  match cores.find? fun c => c.ops.any fun o => o.id == op && !o.accepted with
  | none => happens s
  | some c =>
    let may (o : EngineOp) : Bool := !o.accepted && c.accepts o.span.slot
    match c.ops.find? may with
    | none => happens s
    | some first =>
      if first.id != op then happens s
      else
        let acc := c.ops.filter fun o => o.accepted
        let wait := c.ops.filter fun o => !o.accepted && o.id != op
        happens (s.updCore c.id fun x => { x with ops := acc ++ [{ first with accepted := true }] ++ wait })

/-- The operation that a core's engine performs next (R309). -/
def Core.serving (c : Core) : Option EngineOp :=
  match c.ops with
  | [] => none
  | o :: _ => if o.accepted then some o else none

/-! ## The end of an operation -/

/-- The accumulator that an operation names. -/
def EngineKind.accOf (k : EngineKind) : Option (BitVec 4) :=
  match k with
  | .mma _ _ a _ _ _ => some a
  | .mprom a => some a
  | .drain a _ _ _ _ _ _ => some a
  | .bmult a _ _ _ => some a
  | .bcres _ a => some a
  | .bdiv .. | .bmodb .. | .limbTiles _ | .spmv .. | .sptrsv .. | .task _ => none

/-- The registers whose pending bits an operation has set. -/
def EngineKind.refs (k : EngineKind) : List Ref :=
  match k with
  | .mma _ _ a _ _ _ => ar (a.setWidth 6)
  | .mprom a => ar (a.setWidth 6)
  | .drain a _ _ _ _ _ _ => ar (a.setWidth 6)
  | .bmult a _ _ _ => ar (a.setWidth 6)
  | .bcres d a => vr d ++ ar (a.setWidth 6)
  | .bdiv d .. => vr d ++ vr (next d)
  | .bmodb d _ => vr d
  | .spmv d _ _ => sr d
  | .sptrsv d _ _ => sr d
  | .limbTiles _ | .task _ => []

/-- The finished operation of the focused span leaves its engine: its pending bits clear, an accumulator's only when no
other operation of the span names it (R42), and its flag follows (R39). -/
def State.finishOp (s : State) (o : EngineOp) : State :=
  let ops := s.core.ops.filter fun x => x.id != o.id
  let kept : List Ref :=
    match o.kind.accOf with
    | some a => if ops.any fun x => x.span = o.span && x.kind.accOf == some a then ar (a.setWidth 6) else []
    | none => []
  let refs := o.kind.refs.filter fun r => !kept.contains r
  (({ s with core := { s.core with ops := ops } } : State).clearPending 0xFF refs).settle

/-- Changes an operation of the focused core. -/
def State.updOp (s : State) (id : Nat) (f : EngineOp → EngineOp) : State :=
  { s with core := { s.core with ops := mapIf s.core.ops (fun x => x.id == id) f } }

/-- What an engine fault of an operation waits for (R305). -/
def EngineKind.heldBy (k : EngineKind) : HeldBy :=
  match k with
  | .spmv d _ _ => .sreg d
  | .sptrsv d _ _ => .sreg d
  | .bmodb d _ => .reg (.vec d 0)
  | k => .acc (k.accOf.getD 0)

/-- LENGTH_OVERFLOW of an operation, with the length that its number would have had (R259). -/
def lengthFault (o : EngineOp) (len : Nat) : TrapInfo := engTrap 15 (BitVec.ofNat 64 len) o.pc

/-- Holds an engine fault of an operation of the focused span. -/
def State.holdOp (s : State) (o : EngineOp) (t : TrapInfo) : State :=
  match o.kind with
  | .bmodb d _ => s.hold o.span ((List.finRange 8).map fun j => { by_ := .reg (.vec d j), trap := t, op := o.id })
  | k => s.hold o.span [{ by_ := k.heldBy, trap := t, op := o.id }]

/-- put(d, x) by the engine: a number that is too long is a held fault (R259, R305). -/
def State.enginePut (s : State) (o : EngineOp) (d : RegNo) (x : Int) : State :=
  if 32 + s.slotLimbs < bigLen x then s.holdOp o (lengthFault o (bigLen x)) else s.putBig d x

/-! ## Multiply-accumulate (R301 to R303) -/

/-- Row i of a tile's window: k elements of row first + i, from element `at_` on. -/
def State.tileRow (s : State) (t : Tile) (first at_ k i : Nat) : List Elem :=
  (List.range k).map fun x => s.tileElem s.core.id t (first + i) (at_ + x)

/-- What one k-step of an `mma` or `mmai` computes with: an FP32 sequence stays open until the last one (R302, R320). -/
def mmaSpecOf (o : EngineOp) (kind kc p : Nat) (q : Quad) : MmaSpec :=
  let done := o.progress * kc
  { kind := kind, kc := kc, m := q.m, n := q.n, k := min kc (q.k - done), init := q.init && o.progress == 0,
    cont := q.cont || (kind == 0 && decide (done + kc < q.k)), ci := q.ci, cj := q.cj, pr := 2 ^ p, q := modulusOf o.modq,
    x := xwinExp o.xwin, spec := o.gathered.2 }

/-- The lowest poisoned sector among the scale entries of a gait tile's rows and elements, as an offset in scale memory
(R86). -/
def State.badScales (s : State) (t : Tile) (first rows at_ k : Nat) : Option Nat :=
  if !isGait (shapeFmt t.shape) then none
  else
    let entries := (List.range rows).flatMap fun r => (List.range ((at_ + k + 15) / 16 - at_ / 16)).map fun b =>
      shapeXoff t.shape + (first + r) * shapeXpitch t.shape + 2 * (at_ / 16 + b)
    entries.find? fun a => s.poisoned (scaleKey s.core.id a)

/-- XWIN with what a window operation has gathered (R303). -/
def xwinMerge (x : DWord) (sticky : Bool) (spec : Nat) : DWord :=
  xwinPut x sticky (if spec = 0 then xwinSpec x else specMerge (xwinSpec x) spec)

/-- Performs one k-step of an `mma` or `mmai` of the focused span, the last of which ends it.  An operation that meets a
poisoned scale entry stops before the step (R86; log 103). -/
def State.performMma (s : State) (o : EngineOp) (a b : RegNo) (acc : BitVec 4) (p : BitVec 3) (quad : List DWord) :
    State :=
  let x := s.tile a
  let y := s.tile b
  match pairOf (shapeRead x.shape) (shapeRead y.shape) with
  | none => s.finishOp o
  | some (kind, kc) =>
    let q := quadOf quad
    let w := mmaSpecOf o kind kc p.toNat q
    let at_ := o.progress * kc
    match s.badScales x q.aro q.m at_ w.k <|> s.badScales y q.bro q.n at_ w.k with
    | some bad => (s.holdOp o (engTrap 9 (BitVec.ofNat 64 bad) o.pc)).finishOp o
    | none =>
      let d := mmaDo w (s.acc acc) (s.tileRow x q.aro at_ w.k) (s.tileRow y q.bro at_ w.k)
      let s1 := s.setAcc acc d.acc
      let got := (o.gathered.1 || d.sticky, d.spec)
      if d.full then (s1.holdOp o (engTrap 15 0 o.pc)).finishOp o
      else if at_ + kc < q.k then s1.updOp o.id fun z => { z with progress := z.progress + 1, gathered := got }
      else if kind == 4 then (s1.wxwin (xwinMerge s1.sp.regs.xwin got.1 got.2)).finishOp o
      else s1.finishOp o

/-! ## Drains (R306 to R308) -/

/-- A drained element's bytes: FP32 rounded to BF16 or FP16 under CONV (R307). -/
def drainElem (d : DrainDesc) (x : Nat) : Nat :=
  match d.conv with
  | 1 => (fConvert Fmt.bf16 .rne (FVal.ofBits Fmt.f32 x)).1
  | 2 => (fConvert Fmt.f16 .rne (FVal.ofBits Fmt.f32 x)).1
  | _ => x

/-- The drained rows of an accumulator laid end to end. -/
def drainBytes (data : BitVec 131072) (d : DrainDesc) : List Byte :=
  (List.range d.rows).flatMap fun r => (List.range d.cols).flatMap fun c =>
    bytesLE d.size (drainElem d (accGet data d.kind (d.rowo + r) (d.colo + c)))

/-- The places of pieces, translated again when the drain is performed (R188). -/
def State.drainPlaces (s : State) (a : Actor) (k : Nat) (ps : List Piece) : EngAns (List Place) :=
  match ps with
  | [] => .ok [] s
  | p :: rest =>
    (s.engPlace a k p.off p.len .write).bind fun q t =>
      (t.drainPlaces a k rest).bind fun qs u => .ok ({ q with lane := p.at_ } :: qs) u

/-- A drain reads its accumulator out: an open sequence is closed, and its writes are on the matrix drain path. -/
def State.performDrain (s : State) (o : EngineOp) (acc : BitVec 4) (red : Bool) (seg : BitVec 3) (base x : DWord)
    (logged : Bool) : EngAns Unit :=
  let d := drainDesc x
  let a := (s.acc acc).close
  let bs := drainBytes a.data d
  let ps := rowPieces (vecAt o.segs seg.toNat Seg.invalid) (d.cols * d.size) (drainRows base d)
  let g := vecAt o.segs seg.toNat Seg.invalid
  (s.drainPlaces (s.opActor o) seg.toNat ps).bind fun qs t =>
    let s1 := t.setAcc acc a
    let (id, s2) := s1.newId
    let reqs := (qs.zip ps).map fun q => { reqAt q.1 q.2.len (leOf ((bs.drop q.2.at_).take q.2.len)) 0 with region := o.region }
    let m : MemOp :=
      { id := id, span := o.span, group := s2.sp.group, kind := if red then .update (BitVec.ofNat 3 d.kind) else .store,
        dest := .none, path := 2, seg := seg, hint := 0, nc := false, cpol := BitVec.ofNat 2 g.cpol, checked := g.checked,
        logged := logged, region := o.region, clause := none, pc := o.pc, gang := 0xFF, lanes := BitVec.allOnes 32,
        whole := true, since := s2.now, reqs := reqs }
    .ok () (({ s2 with memOps := s2.memOps ++ [m] } : State).endEngineRegion o.span o.region)

/-! ## Exact products (R271 to R274) -/

/-- Column sum j of a product of limb lists. -/
def columnSum (a b : List Word) (j : Nat) : Nat :=
  ((List.range a.length).map fun i => if i ≤ j then (listAt a i 0).toNat * (listAt b (j - i) 0).toNat else 0).foldl
    (fun x y => x + y) 0

/-- The accumulator that `bmult` leaves. -/
def productAcc (a b : List Word) (sign : Bool) : Acc :=
  let c := if a.isEmpty || b.isEmpty then 0 else a.length + b.length - 1
  { data := BitVec.ofNat 131072 (((List.range c).map fun j => columnSum a b j * 2 ^ (128 * j)).foldl (fun x y => x + y) 0),
    count := BitVec.ofNat 11 c, sign := sign, seq := none }

/-- The number that `bcres` resolves. -/
def Acc.resolved (a : Acc) : Int :=
  signed a.sign (((List.range a.count.toNat).map fun j => fld a.data (128 * j) 128 * 2 ^ (32 * j)).foldl (fun x y => x + y) 0)

/-- One step of a `bdiv` of the focused span (R273): the next quotient limb, from the highest one down; the last writes both
results. -/
def State.performDiv (s : State) (o : EngineOp) (d : RegNo) (a b : Nat) (sa sb : Bool) (limbs q r : Nat) : State :=
  let left := limbs - o.progress
  let x := if left = 0 then r else r * 2 ^ 32 + a / 2 ^ (32 * (left - 1)) % 2 ^ 32
  let q1 := (if left = 0 then q else q * 2 ^ 32) + x / b
  let r1 := x % b
  if left ≤ 1 then ((s.putBig d (signed (sa != sb) q1)).putBig (next d) (signed sa r1)).finishOp o
  else s.updOp o.id fun y => { y with kind := .bdiv d a b sa sb limbs q1 r1, progress := y.progress + 1 }

/-! ## One operation -/

/-- How an operation of the focused span goes on after an attempt: it is finished, stopped by a fault, or parked (R188,
R305). -/
def State.opAns (s : State) (o : EngineOp) (x : EngAns Unit) (after : State → TrapInfo → State) : State :=
  match x with
  | .ok _ t => t.finishOp o
  | .fault e t => (after (t.holdOp o e) e).finishOp o
  | .absent va asid u t =>
    let (id, t1) := t.engPark (t.opActor o) va asid u
    t1.updOp o.id fun y => { y with parked := some id, failed := none }
  | .waits w => s.queueFor w

/-- S(sd) and the end of a sparse operation's region. -/
def State.sparseEnds (s : State) (o : EngineOp) (d : RegNo) (rows : Nat) : State :=
  (s.ws d (BitVec.ofNat 64 rows)).endEngineRegion o.span o.region

/-- One step of an `spmv` of the focused span (R320, R322): its next slice. -/
def State.performSpmv (s : State) (o : EngineOp) (d : RegNo) (x sel : DWord) : State :=
  let a := s.opActor o
  let count := fld sel 32 32
  let rows (t : State) (n : Nat) : Nat := t.sparseCount a x sel false n
  if count ≤ o.progress then (s.sparseEnds o d 0).finishOp o
  else
    match s.spmvStep a x sel o.progress with
    | .ok _ t =>
      if o.progress + 1 = count then (t.sparseEnds o d (rows t count)).finishOp o
      else t.updOp o.id fun y => { y with progress := y.progress + 1, failed := none }
    | e => s.opAns o e fun t _ => t.sparseEnds o d (rows t o.progress)

/-! ## The internal tasks of a solve (R324) -/

/-- Entries of a Starter. -/
def starterCapacity : Nat := 4096

/-- The Starter entries of an operation. -/
def State.innerEntries (s : State) (op : Nat) : List StarterEntry :=
  s.starter.filter fun e => (e.inner.map fun i => i.1) == some op

/-- An internal entry of a solve: an internal task for a slice, or the level's dependency counter.  Its record key is no
address. -/
def innerEntry (o : EngineOp) (g : GroupId) (order : Nat) (slice : Option Nat) (counter : Int) (now : DWord) : StarterEntry :=
  { cluster := ⟨clusterOf o.span.core % 16, Nat.mod_lt _ (by decide)⟩, record := 2 ^ 63 + order, addr := 0,
    counter := counter, words := none, owner := o.span, ownerGroup := g, segs := o.segs, modq := o.modq, xexp := o.xwin,
    inGate := slice.isSome, running := false, complete := false, order := order, issuer := o.span, pc := o.pc,
    region := o.region, released := false, xout := 0, parked := none, failed := none, since := now, lost := false,
    inner := some (o.id, slice) }

/-- Enters internal tasks for slices of a level, and its dependency counter. -/
def State.enterSlices (s : State) (o : EngineOp) (slices : List Nat) : State :=
  let (c, s0) := s.newId
  let s1 : State := { s0 with starter := s0.starter ++ [innerEntry o s0.sp.group c none (slices.length : Nat) s0.now] }
  slices.foldl (fun t i =>
    let (n, u) := t.newId
    { u with starter := u.starter ++ [innerEntry o u.sp.group n (some i) 0 u.now] }) s1

/-- A `sptrsv` of the focused span (R320, R323, R324): while a level's internal tasks are under way it waits for them; then
it enters those of the next slices, once 64 entries are free, or goes on to the next level. -/
def State.performTri (s : State) (o : EngineOp) (d : RegNo) (x sel : DWord) : State :=
  let a := s.opActor o
  let count := fld sel 32 32
  let rows (t : State) (n : Nat) : Nat := t.sparseCount a x sel true n
  let used := (s.starter.filter fun e => e.cluster.val == clusterOf o.span.core).length
  if !(s.innerEntries o.id).isEmpty then s
  else if o.faulted then (s.sparseEnds o d (rows s o.progress)).finishOp o
  else if count ≤ o.progress then (s.sparseEnds o d (rows s count)).finishOp o
  else
    match s.levelSlices a x (fld sel 0 32 + o.progress) with
    | .ok ns t =>
      match ns.filter fun i => !o.slices.contains i with
      | [] => t.updOp o.id fun y => { y with progress := y.progress + 1, slices := [], failed := none }
      | todo => if starterCapacity < used + 64 then s else t.enterSlices o (todo.take (starterCapacity - used - 1))
    | .fault e t => ((t.holdOp o e).sparseEnds o d (rows t o.progress)).finishOp o
    | .absent va asid u t =>
      let (id, t1) := t.engPark a va asid u
      t1.updOp o.id fun y => { y with parked := some id, failed := none }
    | .waits w => s.queueFor w

/-- Performs an operation of the focused span. -/
def State.performOp (s : State) (o : EngineOp) : State :=
  match o.kind with
  | .mma a b acc p _ quad => s.performMma o a b acc p quad
  | .mprom acc => (s.setAcc acc (s.acc acc).close).finishOp o
  | .drain acc red seg base x logged _ =>
    s.opAns o (s.performDrain o acc red seg base x logged) fun t _ => t.endEngineRegion o.span o.region
  | .bmult acc a b sign => (s.setAcc acc (productAcc a b sign)).finishOp o
  | .bcres d acc => (s.enginePut o d (s.acc acc).resolved).finishOp o
  | .bdiv d a b sa sb limbs q r => s.performDiv o d a b sa sb limbs q r
  | .bmodb d r => (s.enginePut o d r).finishOp o
  | .limbTiles _ => s.finishOp o
  | .spmv d x sel => s.performSpmv o d x sel
  | .sptrsv d x sel => s.performTri o d x sel
  | .task _ => s

/-! ## Tile updates (R308) -/

/-- The bytes of an update's operand at an offset of its rows laid end to end. -/
def updateByte (o : MemOp) (at_ : Nat) : Nat :=
  match o.reqs.find? fun q => decide (q.lane ≤ at_) && decide (at_ < q.lane + q.bytes) with
  | some q => q.data.toNat / 256 ^ (at_ - q.lane) % 256
  | none => 0

/-- The place of a byte of an update: key and slot. -/
def updateKey (o : MemOp) (at_ : Nat) : Nat × BitVec 10 :=
  match o.reqs.find? fun q => decide (q.lane ≤ at_) && decide (at_ < q.lane + q.bytes) with
  | some q => (q.key + (at_ - q.lane), q.slot)
  | none => (0, 0)

/-- dst + v in an accumulator kind (R307). -/
def updateElem (kind : Nat) (old v : Nat) : Nat :=
  match kind with
  | 0 => (fAdd Fmt.f32 .rne (FVal.ofBits Fmt.f32 old) (FVal.ofBits Fmt.f32 v)).1
  | 1 => (fAdd Fmt.f64 .rne (FVal.ofBits Fmt.f64 old) (FVal.ofBits Fmt.f64 v)).1
  | _ => (old + v) % 2 ^ 128

/-- Adds element i of an update; an element that touches a poisoned place is not applied (R86). -/
def State.applyElem (s : State) (o : MemOp) (kind i : Nat) : State :=
  let z := kindSize kind
  let keys := (List.range z).map fun j => updateKey o (i * z + j)
  let mine (q : Req) : Bool := (List.range z).any fun j => decide (q.lane ≤ i * z + j) && decide (i * z + j < q.lane + q.bytes)
  let le (f : Nat → Nat) : Nat := leOf ((List.range z).map fun j => BitVec.ofNat 8 (f j))
  if (keys.any fun k => s.poisoned k.1) || o.reqs.any fun q => mine q && q.status == .unreachable then s
  else
    let old := le fun j =>
      let k := listAt keys j (0, 0)
      leOf (s.readKey k.2 k.1 1)
    let new := bytesLE z (updateElem kind old (le fun j => updateByte o (i * z + j)))
    (List.range z).foldl (fun t j =>
      let k := listAt keys j (0, 0)
      t.writeKey k.2 k.1 [listAt new j 0]) s

/-- A sector of an update as its home sees it: cached, logged under a saddle, in the error log when it is poisoned, and
its monitors re-evaluated. -/
def State.settleUpdate (s : State) (before : State) (o : MemOp) (q : Req) : State :=
  let base := sectorOf q.key * 32
  if before.poisoned q.key then s.logError (.reduction q.key)
  else
    let mask : BitVec 32 := maskOf 32 fun i => decide (q.key % 32 ≤ i) && decide (i < q.key % 32 + q.bytes)
    let s1 := (s.cacheWrite (sectorOf q.key) mask q.slot (o.policy q)).evalMonitors q.key q.bytes
    if o.logged then s1.logSector o.group base q.slot mask (before.readKey q.slot base 32) (s1.readKey q.slot base 32)
    else s1

/-- The shares of an update that have reached their homes: an unreachable one is lost (R308, R136). -/
def MemOp.shares (o : MemOp) : List Req := o.reqs.filter fun q => q.status == .sent

/-- Applies every share of an update in one step. -/
def State.applyUpdate (s : State) (o : MemOp) (kind : Nat) : State :=
  let s0 := o.shares.foldl (fun t q => (t.homeRead none q.key q.bytes q.slot (o.policy q)).2.2) s
  let total := sumOf o.reqs fun q => q.bytes
  let s1 := (List.range (total / kindSize kind)).foldl (fun t i => t.applyElem o kind i) s0
  let s2 := o.shares.foldl (fun t q => t.settleUpdate s0 o q) s1
  s2.putOp { o with reqs := mapIf o.reqs (fun q => q.status == .sent) fun q => { q with status := .performed } }

/-- `TILE_UPDATE_APPLY` (R308): every share has reached its home; a refused share refuses the whole update, which stays
indivisible. -/
def execTileUpdateApply (op : Nat) (s : State) : Host.Outcome State Fault Refusal :=
  match s.opOf op with
  | none => happens s
  | some o =>
    match o.kind with
    | .update kind =>
      let there (q : Req) : Bool := q.status == .unreachable || (q.status == .sent && !s.onFabric op (sectorOf q.key) && s.reaches (fabricDie o.span.core) q.key)
      if o.shares.isEmpty || !o.reqs.all there then happens s
      else
        match s.admitReqs o o.shares with
        | .waits w => happens (s.queueFor (some w))
        | .refused r =>
          happens (s.putOp { o with reqs := mapIf o.reqs (fun q => q.status == .sent) fun q =>
            { q with status := .refused (regionBits r) } })
        | .admitted s1 => happens (s1.applyUpdate o kind.toNat)
    | _ => happens s

end Sys2Proof.Machine

end
end

