-- ==== Sys2Proof/Machine/Commands.lean ====
section
/-!
DEFINITION. The engines at work on window commands (R187 to R198, R216, R283 to R285): Packhorse, Trotters, collectives and
the Carousel, one destination packet or one command at a time, with barrier counts and engine faults.
-/

noncomputable section

namespace Sys2Proof.Machine

open Sys2Proof

/-! ## A command and its progress -/

/-- A span's outstanding command with a token. -/
def State.cmdOf (s : State) (sp : SpanId) (tok : BitVec 16) : Option (Span × Command) :=
  match s.spanOf sp with
  | none => none
  | some p => (p.cmds.find? fun c => c.token == tok).map fun c => (p, c)

/-- Changes a span's command. -/
def State.updCmd (s : State) (sp : SpanId) (tok : BitVec 16) (f : Command → Command) : State :=
  s.updSpan sp fun p => { p with cmds := mapIf p.cmds (fun c => c.token == tok) f }

/-- The actor of a command. -/
def actorOf (p : Span) (c : Command) : Actor :=
  { span := p.id, group := p.group, core := p.id.core, segs := c.segs, region := c.region, pc := c.pc,
    failed := c.failed.isSome, lost := c.lost }

/-- Bytes that one counted unit of a command stands for. -/
def unitBytes (w : Vector DWord 4) : Nat := if cmdClass w = 3 then (gatherOf w[3]).2.1 else 1

/-- The place of a command's barrier. -/
def State.cmdBarPlace (s : State) (a : Actor) (w : Vector DWord 4) : EngAns Place :=
  s.engPlace a (cmdBar w).1 (cmdBar w).2 16 .atomic

/-- Delivers a count to the barrier at a place, with its held fault bound to it: the barrier is decremented, and a `bar.wait`
on it by the owner of a stopped command ends (R192, R456). -/
def State.releaseBar (s : State) (p : Span) (c : Command) (q : Place) (n : Nat) : State :=
  let s1 := if n = 0 then s else s.barrierStep q.slot q.key fun b => b.landed n
  let bind (h : Held) : Held := { h with by_ := .command c.token (some q.key) }
  let s2 := s1.updSpan p.id fun x =>
    { x with held := mapIf x.held (fun h => h.by_ == .command c.token none) bind }
  s2.endBarWait p.id q.key

/-- A command stops on an engine fault (R187): the fault becomes held, and its barrier is decremented by what will never land
(R192), at once or, while the barrier cannot be reached, by a later decrement. -/
def State.stopCmd (s : State) (p : Span) (tok : BitVec 16) (t : TrapInfo) : State :=
  match s.cmdOf p.id tok with
  | none => s
  | some (_, c) =>
    let left := if cmdMode c.words = 1 then (c.total - c.done) * unitBytes c.words + c.undecremented else 0
    let s1 := s.updCmd p.id tok fun x =>
      { x with stopped := some t, complete := true, unread := [], flight := [], undecremented := left, parked := none, failed := none }
    let s2 := (s1.hold p.id [{ by_ := .command tok none, trap := t, op := c.order }]).endEngineRegion p.id c.region
    if cmdMode c.words = 1 then
      match s2.cmdBarPlace (actorOf p c) c.words with
      | .ok q u => (u.releaseBar p c q left).updCmd p.id tok fun x => { x with undecremented := 0 }
      | .absent _ _ _ _ => s2
      | _ => s2.updCmd p.id tok fun x => { x with undecremented := 0 }
    else s2

/-- How a command goes on after an attempt (R187, R188). -/
def State.cmdAns (s : State) (p : Span) (c : Command) (x : EngAns Unit) : State :=
  match x with
  | .ok _ t => t.updCmd p.id c.token fun y => { y with failed := none }
  | .fault e t => t.stopCmd p c.token e
  | .absent va asid u t =>
    let (id, t1) := t.engPark (actorOf p c) va asid u
    t1.updCmd p.id c.token fun y => { y with parked := some id, failed := none }
  | .waits w => s.queueFor w

/-- Is a command before another one in the order that its engine serves (R194, R195, R285)? -/
def servedBefore (c x : Command) : Bool :=
  cmdClass x.words == cmdClass c.words && decide (x.order < c.order) && !x.complete && x.parked.isNone &&
    (cmdClass c.words != 3 || x.trotter == c.trotter)

/-- May an engine work on a command now: it is its turn, and the last packet has been counted (R192)? -/
def State.cmdReady (s : State) (p : Span) (c : Command) (cls op : Nat) : Bool :=
  cmdClass c.words == cls && cmdOp c.words == op && !c.complete && c.parked.isNone && c.undecremented == 0 &&
    !s.transiting (.command c.order) &&
    (cls == 4 || !((s.spans.filter fun q => clusterOf q.id.core == clusterOf p.id.core).any fun q =>
      q.cmds.any (servedBefore c))) &&
    !(cls == 5 && s.carouselBefore (clusterOf p.id.core) c.order)

/-- Records n more units performed at their destinations. -/
def State.performed (s : State) (p : Span) (c : Command) (n : Nat) : State :=
  s.updCmd p.id c.token fun x =>
    { x with done := x.done + n, undecremented := if cmdMode x.words = 1 then n * unitBytes x.words else 0 }

/-- One attempt of an engine at a command. -/
def State.commandEvent (s : State) (sp : SpanId) (tok : BitVec 16) (cls op : Nat)
    (run : Span → Command → Actor → EngAns Unit) : Host.Outcome State Fault Refusal :=
  match s.cmdOf sp tok with
  | none => happens s
  | some (p, c) =>
    if s.cmdReady p c cls op && decide (c.done < c.total) then happens (s.cmdAns p c (run p c (actorOf p c))) else happens s

/-- The fault of a poisoned read, after its bytes have been written with poison (R86). -/
def poisonEnds (a : Actor) (bad : Option DWord) (s : State) : EngAns Unit :=
  match bad with
  | some va => .fault (a.trap 9 va) s
  | none => .ok () s

/-! ## Reading and landing (R191 to R194, R202)

A command reads packets of its ranges and lands them at their destinations, in no stated order. -/

/-- Bytes of a destination packet (R192). -/
def packetBytes : Nat := 128

/-- The destination of a command's unit: segment and offset (Tables 6.4 and 6.6). -/
def cmdDest (w : Vector DWord 4) (at_ : Nat) : Nat × Nat :=
  match cmdClass w, cmdOp w with
  | 1, 1 =>
    let (len, _, _, dp) := stridedOf w[3]
    (segOf w[2], offOf w[2] + at_ / len * dp + at_ % len)
  | 3, _ =>
    let (_, z, _, seg, off) := gatherOf w[3]
    (seg, off + at_ * z)
  | _, _ => (segOf w[2], offOf w[2] + at_)

/-- Is a segment a core's own space or cluster scratch, whose reads in flight go to quarantine (R202): S, C or X? -/
def quarantined (seg : Nat) : Bool := seg == 2 || seg == 3 || seg == 5

/-- Bytes that the commands of a core have read for S, C and X and not yet written. -/
def State.flightBytes (s : State) (k : CoreId) : Nat :=
  sumOf (s.spans.filter fun p => p.id.core == k) fun p =>
    sumOf (p.cmds.filter fun c => quarantined (cmdDest c.words 0).1) fun c => sumOf c.flight fun f => f.data.length

/-- The most bytes of them (R202). -/
def flightLimit : Nat := 65536

/-- Takes n units from position a out of ranges. -/
def takeUnits (l : List (Nat × Nat)) (a n : Nat) : List (Nat × Nat) :=
  l.flatMap fun r =>
    if a < r.1 || r.2 ≤ a then [r] else [(r.1, a), (a + n, r.2)].filter fun x => decide (x.1 < x.2)

/-- The packet that is read next, first unit and units: any one of at most `size` units of the unread ranges.  A `fine`
command's packets have any size and start anywhere (R193). -/
def State.nextPacket (s : State) (l : List (Nat × Nat)) (size : Nat) (fine : Bool) : Option (Nat × Nat × State) :=
  match l with
  | [] => none
  | r0 :: _ =>
    let (i, s1) := s.oneOf l.length
    let r := listAt l i r0
    if fine then
      let (j, s2) := s1.oneOf (r.2 - r.1)
      let (n, s3) := s2.oneOf (min size (r.2 - r.1 - j))
      some (r.1 + j, n + 1, s3)
    else
      let (j, s2) := s1.oneOf (ceilDiv (r.2 - r.1) size)
      some (r.1 + size * j, min size (r.2 - r.1 - size * j), s2)

/-- May two segments of a command name the same bytes: both translated, or both scratch? -/
def mayMeet (x y : Nat) : Bool := (translated x && translated y) || ((x == 2 || x == 3) && (y == 2 || y == 3))

/-- Must a command's packets be taken in the finest steps, because its ranges may overlap (R193)? -/
def fineCmd (w : Vector DWord 4) : Bool :=
  let d := (cmdDest w 0).1
  match cmdClass w, cmdOp w with
  | 1, 0 => mayMeet (segOf w[1]) d
  | 1, 1 =>
    let (len, rows, _, dp) := stridedOf w[3]
    mayMeet (segOf w[1]) d || (decide (dp < len) && decide (1 < rows))
  | 3, _ => mayMeet (segOf w[1]) d || mayMeet (segOf w[2]) d
  | _, _ => false

/-- Is the group of a command about to stop, so that no more reads are issued for it (R202)? -/
def State.cmdStops (s : State) (p : Span) : Bool :=
  match s.groupOf p.group with
  | some g => (s.stopCause g).isSome
  | none => false

/-- Lands one of a command's reads at its destination: units and barrier counts follow, and a poisoned one stops the command
(R86, R192). -/
def State.landFlight (s : State) (p : Span) (c : Command) (a : Actor) (f : Flight) : EngAns Unit :=
  let d := cmdDest c.words f.at_
  (s.engWrite a d.1 d.2 f.data f.bad.isSome).bind fun _ t =>
    poisonEnds a f.bad ((t.updCmd p.id c.token fun x => { x with flight := x.flight.filter fun y => y.at_ != f.at_ }).performed p c f.units)

/-- One step of a command that reads and lands: a read of its next packet, or the landing of any read in flight. -/
def State.flyStep (s : State) (p : Span) (c : Command) (a : Actor) (size : Nat)
    (read : Nat → Nat → State → EngAns (Nat × List Byte × Option DWord)) : EngAns Unit :=
  let d := (cmdDest c.words 0).1
  let room := !quarantined d || decide (s.flightBytes a.core + packetBytes ≤ flightLimit)
  let mayRead := !c.unread.isEmpty && room && !s.cmdStops p
  let (x, s1) := s.oneOf ((if mayRead then 1 else 0) + c.flight.length)
  let land (i : Nat) : EngAns Unit :=
    match c.flight[i]? with
    | some f => s1.landFlight p c a f
    | none => .ok () s
  if !mayRead then land x
  else if x != 0 then land (x - 1)
  else
    match s1.nextPacket c.unread size (fineCmd c.words) with
    | none => .ok () s
    | some (at_, n, s2) =>
      (read at_ n s2).bind fun r t =>
        let f : Flight := { at_ := at_, units := r.1, data := r.2.1, bad := r.2.2 }
        .ok () (t.updCmd p.id c.token fun y => { y with unread := takeUnits y.unread at_ r.1, flight := y.flight ++ [f] })

/-- A read whose bytes are its units. -/
def bytesRead (n : Nat) (x : EngAns (List Byte × Option DWord)) : EngAns (Nat × List Byte × Option DWord) :=
  x.bind fun r t => .ok (n, r.1, r.2) t

/-! ## Packhorse (R191 to R194) -/

/-- `PACKHORSE_COPY` -/
def execPackhorseCopy (sp : SpanId) (tok : BitVec 16) (s : State) : Host.Outcome State Fault Refusal :=
  s.commandEvent sp tok 1 0 fun p c a =>
    s.flyStep p c a packetBytes fun i n t => bytesRead n (t.engRead a (segOf c.words[1]) (offOf c.words[1] + i) n)

/-- `PACKHORSE_STRIDED_COPY`: a packet lies in one row. -/
def execPackhorseStridedCopy (sp : SpanId) (tok : BitVec 16) (s : State) : Host.Outcome State Fault Refusal :=
  s.commandEvent sp tok 1 1 fun p c a =>
    let (len, _, pitch, _) := stridedOf c.words[3]
    s.flyStep p c a packetBytes fun i n t =>
      let m := min n (len - i % len)
      bytesRead m (t.engRead a (segOf c.words[1]) (offOf c.words[1] + i / len * pitch + i % len) m)

/-- `PACKHORSE_FILL`: the packets are written in any order. -/
def execPackhorseFill (sp : SpanId) (tok : BitVec 16) (s : State) : Host.Outcome State Fault Refusal :=
  s.commandEvent sp tok 1 2 fun p c a =>
    match s.nextPacket c.unread packetBytes false with
    | none => .ok () s
    | some (at_, n, t) =>
      let bs := (List.range n).map fun i => BitVec.ofNat 8 (c.words[1].toNat / 256 ^ ((at_ + i) % 4))
      (t.engWrite a (segOf c.words[2]) (offOf c.words[2] + at_) bs false).bind fun _ u =>
        .ok () ((u.updCmd p.id c.token fun y => { y with unread := takeUnits y.unread at_ n }).performed p c n)

/-- A scale layout record (Table 7.7). -/
structure ScaleRecord where
  eaddr : DWord
  uaddr : DWord
  bpr   : Nat
  rows  : Nat
  epitch : Nat
  upitch : Nat
  deriving DecidableEq, Repr

/-- The record that 32 bytes hold. -/
def scaleRecordOf (bs : List Byte) : ScaleRecord :=
  let at_ (o n : Nat) : Nat := leOf ((bs.drop o).take n)
  { eaddr := BitVec.ofNat 64 (at_ 0 8), uaddr := BitVec.ofNat 64 (at_ 8 8), bpr := at_ 16 4, rows := at_ 20 4,
    epitch := at_ 24 4, upitch := at_ 28 4 }

/-- One byte at a segment address; outside its segment it is ACCESS_VIOLATION with the byte's address (R216). -/
def State.scaleByte (s : State) (a : Actor) (x : DWord) (off : Nat) : EngAns (List Byte × Option DWord) :=
  let g := vecAt a.segs (segOf x) Seg.invalid
  if g.limit ≤ offOf x + off then .fault (a.trap 8 (BitVec.ofNat 64 (g.baseOf + offOf x + off))) s
  else s.engRead a (segOf x) (offOf x + off) 1

/-- The two bytes of n blocks from block b. -/
def State.scaleBlocks (n : Nat) (s : State) (a : Actor) (r : ScaleRecord) (b : Nat) : EngAns (List Byte × Option DWord) :=
  match n with
  | 0 => .ok ([], none) s
  | k + 1 =>
    (s.scaleByte a r.eaddr (b / r.bpr * r.epitch + b % r.bpr)).bind fun x t =>
      (t.scaleByte a r.uaddr (b / r.bpr * r.upitch + b % r.bpr)).bind fun y u =>
        (u.scaleBlocks k a r (b + 1)).bind fun z v => .ok (x.1 ++ y.1 ++ z.1, (x.2 <|> y.2) <|> z.2) v

/-- Reads the two bytes of blocks of a placement, after the checks of its layout record (R216). -/
def State.readScales (s : State) (a : Actor) (w : Vector DWord 4) (at_ n : Nat) : EngAns (Nat × List Byte × Option DWord) :=
  let va : DWord := BitVec.ofNat 64 ((vecAt a.segs (segOf w[1]) Seg.invalid).baseOf + offOf w[1])
  (s.engRead a (segOf w[1]) (offOf w[1]) 32).bind fun x t =>
    let r := scaleRecordOf x.1
    let first := fld w[3] 0 32
    let badSeg (y : DWord) : Bool := segOf y == 5 || segOf y == 6
    if r.bpr = 0 || r.rows = 0 || decide (r.bpr * r.rows < first + fld w[3] 32 32) || badSeg r.eaddr || badSeg r.uaddr then
      .fault (a.trap 8 va) t
    else
      (t.scaleBlocks (n / 2) a r (first + at_ / 2)).bind fun y u => .ok (n, y.1, x.2 <|> y.2) u

/-- `PLACE_SCALES` (R191, R216) -/
def execPlaceScales (sp : SpanId) (tok : BitVec 16) (s : State) : Host.Outcome State Fault Refusal :=
  s.commandEvent sp tok 1 3 fun p c a => s.flyStep p c a packetBytes fun i n t => t.readScales a c.words i n

/-! ## Trotters (R195, R196) -/

/-- The offset in the table of element i of a Trotter command, after the checks of R196. -/
def State.trotElem (s : State) (a : Actor) (w : Vector DWord 4) (i : Nat) : EngAns (Nat × Option DWord) :=
  let (_, z, xw, _, _) := gatherOf w[3]
  (s.engWord a (segOf w[2]) (offOf w[2] + i * xw) xw).bind fun x t =>
    let g := vecAt a.segs (segOf w[1]) Seg.invalid
    let off := offOf w[1] + x.1 * z
    let va : DWord := BitVec.ofNat 64 (g.baseOf + off)
    if (g.baseOf + off) % z != 0 then .fault (a.trap 6 va) t
    else if g.limit < off + z then .fault (a.trap 4 va) t
    else .ok (off, x.2) t

/-- Reads up to n elements of a gather from element i on; a poisoned element is read alone (R86). -/
def State.gatherRead (n : Nat) (s : State) (a : Actor) (w : Vector DWord 4) (i : Nat) :
    EngAns (Nat × List Byte × Option DWord) :=
  match n with
  | 0 => .ok (0, [], none) s
  | k + 1 =>
    (s.trotElem a w i).bind fun e t =>
      (t.engRead a (segOf w[1]) e.1 (gatherOf w[3]).2.1).bind fun x u =>
        match e.2 <|> x.2 with
        | some va => .ok (1, x.1, some va) u
        | none =>
          (u.gatherRead k a w (i + 1)).bind fun y v =>
            if y.2.2.isSome then .ok (1, x.1, none) u else .ok (y.1 + 1, x.1 ++ y.2.1, none) v

/-- `TROTTER_SCATTER`: elements in ascending order, so that the higher i remains. -/
def State.scatterElems (n : Nat) (s : State) (p : Span) (c : Command) (a : Actor) (i : Nat) : EngAns Unit :=
  match n with
  | 0 => .ok () s
  | k + 1 =>
    let w := c.words
    let (_, z, _, seg, off) := gatherOf w[3]
    (s.trotElem a w i).bind fun e t =>
      (t.engRead a seg (off + i * z) z).bind fun x u =>
        let bad := e.2 <|> x.2
        (u.engWrite a (segOf w[1]) e.1 x.1 bad.isSome).bind fun _ v =>
          let v1 := v.updCmd p.id c.token fun y => { y with done := y.done + 1 }
          (poisonEnds a bad v1).bind fun _ v2 => v2.scatterElems k p c a (i + 1)

/-- Elements of one packet of a Trotter command. -/
def packetElems (c : Command) : Nat := max 1 (packetBytes / (gatherOf c.words[3]).2.1)

/-- `TROTTER_GATHER` (R196): elements in any order. -/
def execTrotterGather (sp : SpanId) (tok : BitVec 16) (s : State) : Host.Outcome State Fault Refusal :=
  s.commandEvent sp tok 3 0 fun p c a => s.flyStep p c a (packetElems c) fun i n t => t.gatherRead n a c.words i

/-- `TROTTER_SCATTER` (R196) -/
def execTrotterScatter (sp : SpanId) (tok : BitVec 16) (s : State) : Host.Outcome State Fault Refusal :=
  s.commandEvent sp tok 3 1 fun p c a => s.scatterElems (min (packetElems c) (c.total - c.done)) p c a c.done

/-! ## Barrier counts and completion (R187, R192) -/

/-- One attempt to send a command's count to its barrier (R192): one that takes the counter below zero is a fault of a
command that still runs. -/
def State.sendCount (s : State) (p : Span) (c : Command) : EngAns Unit :=
  let a := actorOf p c
  (s.cmdBarPlace a c.words).bind fun q t =>
    let sent (u : State) : State := u.updCmd p.id c.token fun x => { x with undecremented := 0 }
    if c.stopped.isSome then .ok () (sent (t.releaseBar p c q c.undecremented))
    else
      let under := decide ((t.barrierAt q.slot q.key).pend < c.undecremented) && !t.poisoned q.key
      let t1 := sent (t.barrierStep q.slot q.key fun b => b.landed c.undecremented)
      if under then .fault (a.trap 18 q.va) t1 else .ok () t1

/-- `BARRIER_DECREMENT` (R192): the count of a landed packet, or of what a stopped command will never land, reaches the
barrier.  A stopped command whose barrier faults too counts nowhere. -/
def execBarrierDecrement (sp : SpanId) (tok : BitVec 16) (s : State) : Host.Outcome State Fault Refusal :=
  match s.cmdOf sp tok with
  | none => happens s
  | some (p, c) =>
    if c.undecremented = 0 || c.parked.isSome then happens s
    else
      match s.sendCount p c with
      | .fault e t => happens (if c.stopped.isSome then t.updCmd sp tok fun x => { x with undecremented := 0 } else t.stopCmd p tok e)
      | x => happens (s.cmdAns p c x)

/-- `ENGINE_COMMAND_COMPLETE` (R187): a command whose accesses are all performed and counted is complete, and is no longer
outstanding once no fault of it is held. -/
def execEngineCommandComplete (sp : SpanId) (tok : BitVec 16) (s : State) : Host.Outcome State Fault Refusal :=
  match s.cmdOf sp tok with
  | none => happens s
  | some (p, c) =>
    let held := p.held.any fun h =>
      match h.by_ with
      | .command t _ => t == tok
      | _ => false
    let performed := (cmdClass c.words == 1 || cmdClass c.words == 3) && decide (c.total ≤ c.done)
    if held || c.undecremented != 0 || !(c.complete || performed) then happens s
    else
      let s1 := s.endEngineRegion sp c.region
      let s2 :=
        match s1.groupOf p.group with
        | some g =>
          match s1.launchBy g.launch with
          | some l => if l.trace then s1.trace 3 ((s1.spanIdWord p g).toNat + tok.toNat * 2 ^ 64) else s1
          | none => s1
        | none => s1
      happens (s2.updSpan sp fun q => { q with cmds := q.cmds.filter fun x => x.token != tok })

/-! ## Collectives (R197, R198) -/

/-- A member's command joins its collective. -/
def State.joinCollective (s : State) (sp : SpanId) (tok : BitVec 16) (op : Nat) : State :=
  match s.cmdOf sp tok with
  | none => s
  | some (_, c) =>
    if cmdClass c.words == 4 && cmdOp c.words == op && !c.complete then s.updCmd sp tok fun x => { x with joined := true }
    else s

/-- `COLLECTIVE_BROADCAST` (R197) -/
def execCollectiveBroadcast (sp : SpanId) (tok : BitVec 16) (s : State) : Host.Outcome State Fault Refusal :=
  happens (s.joinCollective sp tok 0)

/-- `COLLECTIVE_ALL_GATHER` (R197) -/
def execCollectiveAllGather (sp : SpanId) (tok : BitVec 16) (s : State) : Host.Outcome State Fault Refusal :=
  happens (s.joinCollective sp tok 1)

/-- `COLLECTIVE_ALL_REDUCE` (R197) -/
def execCollectiveAllReduce (sp : SpanId) (tok : BitVec 16) (s : State) : Host.Outcome State Fault Refusal :=
  happens (s.joinCollective sp tok 2)

/-- RANK. -/
def cmdRank (w : Vector DWord 4) : Nat := fld w[3] 32 24
/-- PCOUNT. -/
def cmdCount (w : Vector DWord 4) : Nat := fld w[0] 35 24
/-- What the members of one collective must agree in: OP, P, n and type, and also the operator, on which the spec is silent
(DESIGN CHOICE, log 112). -/
def cmdAgree (w : Vector DWord 4) : Nat × Nat × Nat × Nat := (cmdOp w, cmdCount w, fld w[3] 0 32, fld w[3] 56 8)

/-- Do the arrived members break R198? -/
def State.collectiveBad (s : State) (ms : List (Span × Command)) : Bool :=
  let ranks := ms.map fun m => cmdRank m.2.words
  let first := ms.head?
  decide ((distinct ranks).length < ranks.length) ||
    (ms.any fun m =>
      (match first with
       | some f => cmdAgree f.2.words != cmdAgree m.2.words
       | none => false) ||
        decide (instanceSpans (s.recordOfSpan m.1).2 (fld m.2.words[0] 32 3) < cmdCount m.2.words))

/-- One element of an all-reduce (R198): the type, the operator and the two values. -/
def reduceElem (typ op x y : Nat) : Nat :=
  let w := if typ = 0 then 32 else 64
  if typ = 5 then
    let a := FVal.ofBits Fmt.f64 x
    let b := FVal.ofBits Fmt.f64 y
    if op = 0 then (fAdd Fmt.f64 .rne a b).1
    else if a.isNaN || b.isNaN then Fmt.f64.nan
    else (fMinMax Fmt.f64 (op == 2) x y).1
  else if op = 0 then (x + y) % 2 ^ w
  else
    let less : Bool := if typ = 3 then decide (sx x 64 < sx y 64) else decide (x < y)
    if op = 1 then (if less then x else y) else if less then y else x

/-- The elements of a byte string. -/
def elemsOf (z : Nat) (bs : List Byte) : List Nat := (List.range (bs.length / z)).map fun i => leOf ((bs.drop (z * i)).take z)

/-- The reduction of the members' buffers in ascending rank order. -/
def reduceAll (typ op : Nat) (bufs : List (List Byte)) : List Byte :=
  let z := if typ = 0 then 4 else 8
  match bufs with
  | [] => []
  | b :: rest =>
    let quiet (x : Nat) : Nat := if typ = 5 ∧ op ≠ 0 ∧ (FVal.ofBits Fmt.f64 x).isNaN then Fmt.f64.nan else x
    let r := rest.foldl (fun acc x => (acc.zip (elemsOf z x)).map fun p => reduceElem typ op p.1 p.2) ((elemsOf z b).map quiet)
    r.flatMap (bytesLE z)

/-- What a collective's access comes to: it goes on, or the member whose access stops it and how. -/
inductive CollAns (α : Type) where
  | ok (x : α) (s : State)
  | stops (m : Span × Command) (e : EngAns Unit)

/-- Reads every member's source, in rank order. -/
def State.collRead (s : State) (n : Nat) (ms : List (Span × Command)) :
    CollAns (List (List Byte) × List ((Span × Command) × DWord)) :=
  match ms with
  | [] => .ok ([], []) s
  | m :: rest =>
    let w := m.2.words
    match s.engRead (actorOf m.1 m.2) (segOf w[1]) (offOf w[1]) n with
    | .ok x t =>
      match t.collRead n rest with
      | .ok y u =>
        .ok (x.1 :: y.1, (match x.2 with
          | some va => (m, va) :: y.2
          | none => y.2)) u
      | .stops k e => .stops k e
    | .fault t u => .stops m (.fault t u)
    | .absent va asid u t => .stops m (.absent va asid u t)
    | .waits w => .stops m (.waits w)

/-- Checks that every member's destination can be reached. -/
def State.collReach (s : State) (n : Nat) (ms : List (Span × Command)) : CollAns Unit :=
  match ms with
  | [] => .ok () s
  | m :: rest =>
    let w := m.2.words
    let a := actorOf m.1 m.2
    match s.engReach a (segOf w[2]) .write (a.pieces (segOf w[2]) (offOf w[2]) n) with
    | .ok _ t => t.collReach n rest
    | e => .stops m e

/-- Writes every member's destination. -/
def State.collWrite (s : State) (bs : List Byte) (bad : Bool) (ms : List (Span × Command)) : CollAns Unit :=
  match ms with
  | [] => .ok () s
  | m :: rest =>
    let w := m.2.words
    match s.engWrite (actorOf m.1 m.2) (segOf w[2]) (offOf w[2]) bs bad with
    | .ok _ t => t.collWrite bs bad rest
    | e => .stops m e

/-- Every member of a collective whose buffers are known completes; poisoned sources fault at their owners (R86). -/
def State.finishCollective (s : State) (ms : List (Span × Command)) (poison : List ((Span × Command) × DWord)) : State :=
  let s1 := ms.foldl (fun t m =>
    (t.updCmd m.1.id m.2.token fun x => { x with done := x.total, complete := true, failed := none }).endEngineRegion m.1.id
      m.2.region) s
  poison.foldl (fun t x => t.stopCmd x.1.1 x.1.2.token ((actorOf x.1.1 x.1.2).trap 9 x.2)) s1

/-- Performs a collective all of whose members have arrived (R198). -/
def State.performCollective (s : State) (ms : List (Span × Command)) : State :=
  let order := sortBy (fun a b => decide (cmdRank a.2.words < cmdRank b.2.words)) ms
  match order with
  | [] => s
  | m0 :: _ =>
    let w := m0.2.words
    let n := fld w[3] 0 32
    let srcs := if cmdOp w = 0 then [m0] else order
    let stop (m : Span × Command) (e : EngAns Unit) : State := s.cmdAns m.1 m.2 e
    match s.collRead n srcs with
    | .stops m e => stop m e
    | .ok (bufs, poison) t =>
      let out :=
        match cmdOp w with
        | 2 => reduceAll (fld w[3] 56 4) (fld w[3] 60 4) bufs
        | _ => bufs.flatten
      match t.collReach out.length order with
      | .stops m e => stop m e
      | .ok _ t1 =>
        match t1.collWrite out (!poison.isEmpty) order with
        | .stops m e => stop m e
        | .ok _ t2 => t2.finishCollective ms poison

/-- `COLLECTIVE_COMPLETE` (R198): the members that have arrived disagree, or all of them have arrived. -/
def execCollectiveComplete (sp : SpanId) (tok : BitVec 16) (s : State) : Host.Outcome State Fault Refusal :=
  match s.cmdOf sp tok with
  | none => happens s
  | some (p, c) =>
    if cmdClass c.words != 4 || !c.joined || c.complete then happens s
    else
      let ms := s.membersOf p c
      if s.collectiveBad ms then
        happens (ms.foldl (fun t m =>
          let (x, u) := t.draw
          u.stopCmd m.1 m.2.token ((actorOf m.1 m.2).trap 8 (BitVec.ofNat 64 x))) s)
      else if ms.length = cmdCount c.words && ms.all (fun m => m.2.parked.isNone) then happens (s.performCollective ms)
      else happens s

/-! ## Carousel (R283 to R285) -/

/-- b^e mod m for an exponent of at most n bits. -/
def powMod (n b e m : Nat) : Nat :=
  match n with
  | 0 => 1 % m
  | k + 1 =>
    let r := powMod k (b * b % m) (e / 2) m
    if e % 2 = 1 then r * b % m else r

/-- The extended Euclidean steps from (r0, t0) and (r1, t1). -/
def euclid (n : Nat) (r0 r1 t0 t1 : Int) : Int × Int :=
  match n with
  | 0 => (r0, t0)
  | k + 1 => if r1 = 0 then (r0, t0) else euclid k r1 (r0 - r0 / r1 * r1) t1 (t0 - r0 / r1 * t1)

/-- The inverse of a modulo m, if there is one; 128 steps suffice for 64-bit numbers. -/
def invMod (a m : Nat) : Option Nat :=
  let (g, t) := euclid 128 m (a % m) 0 1
  if g = 1 then some (t % (m : Int)).toNat else none

/-- Σ over j of X[j] × root^(jk) mod m. -/
def transformAt (m root : Nat) (xs : List Nat) (k : Nat) : Nat :=
  ((List.range xs.length).map fun j => listAt xs j 0 % m * powMod 64 root (j * k) m).foldl (fun a x => (a + x) % m) 0

/-- A Carousel parameter record (Table 9.8). -/
structure CarouselRecord where
  m    : Nat
  root : Nat
  logn : Nat
  res  : Nat
  src2 : DWord
  deriving DecidableEq, Repr

/-- The record that 32 bytes hold. -/
def carouselRecordOf (bs : List Byte) : CarouselRecord :=
  let at_ (o n : Nat) : Nat := leOf ((bs.drop o).take n)
  { m := at_ 0 8, root := at_ 8 8, logn := at_ 16 1, res := at_ 17 7, src2 := BitVec.ofNat 64 (at_ 24 8) }

/-- Does R284 refuse a record for an operation? -/
def carouselBad (a : Actor) (op : Nat) (r : CarouselRecord) : Bool :=
  let g := vecAt a.segs (segOf r.src2) Seg.invalid
  r.m % 2 = 0 || r.m < 3 || r.logn < 6 || 20 < r.logn || r.res != 0 ||
    (op == 1 && (invMod r.root r.m).isNone) ||
    (op == 2 && (segOf r.src2 == 5 || segOf r.src2 == 6 || (g.baseOf + offOf r.src2) % 8 != 0))

/-- The result of an operation on the elements of its sources. -/
def carouselResult (op : Nat) (r : CarouselRecord) (xs ys : List Nat) : List Nat :=
  match op with
  | 0 => (List.range xs.length).map (transformAt r.m r.root xs)
  | 1 =>
    let n := (invMod xs.length r.m).getD 0
    let inv := (invMod r.root r.m).getD 0
    (List.range xs.length).map fun k => transformAt r.m inv xs k * n % r.m
  | _ => (xs.zip ys).map fun p => p.1 % r.m * (p.2 % r.m) % r.m

/-- Do n bytes at two segment addresses of an actor overlap without being the same range (R284)? -/
def State.overlapsPartly (s : State) (a : Actor) (x y : DWord) (n : Nat) : Bool :=
  let keys (z : DWord) : List (Nat × Nat) := (a.pieces (segOf z) (offOf z) n).filterMap fun p =>
    match s.engPlace a (segOf z) p.off p.len .read with
    | .ok q _ => some (q.key, p.len)
    | _ => none
  let ks := keys x
  let ls := keys y
  ks != ls && ks.any fun u => ls.any fun v => decide (u.1 < v.1 + v.2) && decide (v.1 < u.1 + u.2)

/-- n free words below a modulus. -/
def State.freeWords (n : Nat) (s : State) (m : Nat) : List Nat × State :=
  match n with
  | 0 => ([], s)
  | k + 1 =>
    let (x, t) := s.draw
    let (xs, u) := State.freeWords k t m
    (x % m :: xs, u)

/-- One Carousel command: it reads and checks its record, then its sources, then writes.  A source that overlaps the
destination without equalling it leaves each element a free value (R284). -/
def State.carouselRun (s : State) (p : Span) (c : Command) (a : Actor) (op : Nat) : EngAns Unit :=
  let w := c.words
  let at_ : DWord := BitVec.ofNat 64 ((vecAt a.segs (segOf w[3]) Seg.invalid).baseOf + offOf w[3])
  (s.engRead a (segOf w[3]) (offOf w[3]) 32).bind fun x t =>
    match x.2 with
    | some va => .fault (a.trap 9 va) t
    | none =>
      let r := carouselRecordOf x.1
      if carouselBad a op r then .fault (a.trap 8 at_) t
      else
        let n := 2 ^ r.logn
        (t.engRead a (segOf w[1]) (offOf w[1]) (8 * n)).bind fun y t1 =>
          (if op == 2 then t1.engRead a (segOf r.src2) (offOf r.src2) (8 * n) else .ok ([], none) t1).bind fun z t2 =>
            (t2.engReach a (segOf w[2]) .write (a.pieces (segOf w[2]) (offOf w[2]) (8 * n))).bind fun _ t3 =>
              let mixed := t3.overlapsPartly a w[1] w[2] (8 * n) || (op == 2 && t3.overlapsPartly a r.src2 w[2] (8 * n))
              let (res, t4) := if mixed then t3.freeWords n (2 ^ 64) else (carouselResult op r (elemsOf 8 y.1) (elemsOf 8 z.1), t3)
              let out := res.flatMap (bytesLE 8)
              let bad := y.2 <|> z.2
              (t4.engWrite a (segOf w[2]) (offOf w[2]) out bad.isSome).bind fun _ u =>
                poisonEnds a bad (u.updCmd p.id c.token fun x => { x with done := 8 * n, total := 8 * n, complete := true })

/-- A Carousel event; a command whose record could not be read at its `eqgo` has no length yet. -/
def State.carouselEvent (s : State) (sp : SpanId) (tok : BitVec 16) (op : Nat) : Host.Outcome State Fault Refusal :=
  match s.cmdOf sp tok with
  | none => happens s
  | some (p, c) =>
    if s.cmdReady p c 5 op then happens (s.cmdAns p c (s.carouselRun p c (actorOf p c) op)) else happens s

/-- `CAROUSEL_FORWARD` (R284) -/
def execCarouselForward (sp : SpanId) (tok : BitVec 16) (s : State) : Host.Outcome State Fault Refusal :=
  s.carouselEvent sp tok 0

/-- `CAROUSEL_INVERSE` (R284) -/
def execCarouselInverse (sp : SpanId) (tok : BitVec 16) (s : State) : Host.Outcome State Fault Refusal :=
  s.carouselEvent sp tok 1

/-- `CAROUSEL_POINTWISE` (R284) -/
def execCarouselPointwise (sp : SpanId) (tok : BitVec 16) (s : State) : Host.Outcome State Fault Refusal :=
  s.carouselEvent sp tok 2

end Sys2Proof.Machine

end
end

