-- ==== Sys2Proof/Machine/LongNum.lean ====
section
/-!
DEFINITION. The work of a Trotter on long numbers (R277 to R282): reading the sources, computing, taking Hayloft storage,
and writing the result and its descriptor.
-/

noncomputable section

namespace Sys2Proof.Machine

open Sys2Proof

/-- The actor of a long operation. -/
def State.slowActor (s : State) (o : SlowOp) : Actor :=
  { span := o.span, group := ((s.spanOf o.span).map fun p => p.group).getD 0, core := o.span.core, segs := o.segs,
    region := o.region, pc := o.pc, failed := o.failed.isSome, lost := o.lost }

/-- What an operation has read: values and lengths of the sources, and a poisoned address. -/
structure LongSrc where
  x   : Int
  lx  : Nat
  y   : Int
  ly  : Nat
  bad : Option DWord
  deriving DecidableEq, Repr

/-- The number that a descriptor names. -/
def State.longRead (s : State) (a : Actor) (d : Desc) : EngAns (Int × Option DWord) :=
  (s.engRead a d.seg.toNat d.off (4 * d.len)).bind fun x t => .ok (signed d.sign (leOf x.1), x.2) t

/-- Every page of a descriptor's limbs can be reached. -/
def State.longReach (s : State) (a : Actor) (seg off n : Nat) (u : Use) : EngAns Unit :=
  s.engReach a seg u (a.pieces seg off n)

/-- The second source of a two-descriptor instruction; `blshift` has none. -/
def secondOf (kind : BitVec 3) (b : DWord × DWord) : Desc :=
  if kind == 4 then { seg := 2, off := 0, len := 0, cap := 0, sign := false } else descOf b.1 b.2

/-- Reads the sources. -/
def State.longSources (s : State) (a : Actor) (kind : BitVec 3) (x y : DWord × DWord) : EngAns LongSrc :=
  let dx := descOf x.1 x.2
  let dy := secondOf kind y
  (s.longReach a dx.seg.toNat dx.off (4 * dx.len) .read).bind fun _ t =>
    (t.longReach a dy.seg.toNat dy.off (4 * dy.len) .read).bind fun _ t1 =>
      (t1.longRead a dx).bind fun u t2 =>
        (if dy.len = 0 then EngAns.ok (0, none) t2 else t2.longRead a dy).bind fun v t3 =>
          .ok { x := u.1, lx := dx.len, y := v.1, ly := dy.len, bad := u.2 <|> v.2 } t3

/-- x × 2^c, or sign × floor(|x| / 2^−c). -/
def longShift (x : Int) (lx : Nat) (c : Int) : Int :=
  if 0 ≤ c then x * 2 ^ c.toNat
  else if 32 * lx ≤ (-c).toNat then 0
  else signed (decide (x < 0)) (x.natAbs / 2 ^ (-c).toNat)

/-- The exact result (Table 9.5). -/
def longResult (kind : BitVec 3) (v : LongSrc) (c : DWord) : Int :=
  match kind.toNat with
  | 0 => v.x + v.y
  | 1 => v.x - v.y
  | 2 => v.x * v.y
  | _ => longShift v.x v.lx (sx c.toNat 64)

/-- The length bound (Table 9.5). -/
def longBound (kind : BitVec 3) (v : LongSrc) (c : DWord) : Nat :=
  match kind.toNat with
  | 0 => max v.lx v.ly + 1
  | 1 => max v.lx v.ly + 1
  | 2 => if v.lx = 0 ∨ v.ly = 0 then 0 else v.lx + v.ly
  | _ =>
    let n := sx c.toNat 64
    if 0 < n then v.lx + (n.toNat + 31) / 32 else v.lx

/-- The keys of a range's pieces: first key and length. -/
def State.rangeKeys (s : State) (a : Actor) (seg off n : Nat) : List (Nat × Nat) :=
  (a.pieces seg off n).filterMap fun p =>
    match s.engPlace a seg p.off p.len .read with
    | .ok q _ => some (q.key, p.len)
    | _ => none

/-- Does a destination range overlap a source in a way on which no result may be relied (R281)? -/
def overlapsBadly (mul : Bool) (dst src : List (Nat × Nat)) : Bool :=
  let meet := dst.any fun x => src.any fun y => decide (x.1 < y.1 + y.2) && decide (y.1 < x.1 + x.2)
  let same := (dst.head?.map fun x => x.1) == (src.head?.map fun x => x.1)
  meet && (mul || !same)

/-- The result that is stored, and the bytes that follow its limbs: under a bad overlap a free number within the bound, and
free limbs from its length to the bound (R281). -/
def State.longValue (s : State) (a : Actor) (kind : BitVec 3) (dst : Desc) (bound : Nat) (x y : DWord × DWord)
    (r : Int) : Int × List Byte × State :=
  let keys (d : Desc) (n : Nat) : List (Nat × Nat) := s.rangeKeys a d.seg.toNat d.off (4 * n)
  let out := keys dst bound
  let dx := descOf x.1 x.2
  let dy := secondOf kind y
  if overlapsBadly (kind == 2) out (keys dx dx.len) || overlapsBadly (kind == 2) out (keys dy dy.len) then
    let (m, t) := s.draw
    let (n, u) := t.draw
    let (rest, v) := u.draw
    let x := signed (n % 2 == 1) (m % 2 ^ (32 * bound))
    (x, bytesLE (4 * (bound - bigLen x)) rest, v)
  else (r, [], s)

/-- The launch of the focused span as the Hayloft knows it, and its arena's limit. -/
def State.arena (s : State) (o : SlowOp) : DWord × Nat := (s.grp.launch, (vecAt o.segs 7 Seg.invalid).limit)

/-- The destination of a result: the descriptor's storage, or a new block of the Hayloft (R278). -/
def State.longDest (s : State) (o : SlowOp) (dst : Desc) (bound : Nat) (alloc : Bool) : EngAns (Desc × DWord) :=
  if !alloc then .ok (dst, s.sp.regs.s[0]) s
  else
    let (launch, limit) := s.arena o
    match s.hayTake launch limit (dieOf o.span.core) (4 * bound) with
    | none => .fault (engTrap 15 (BitVec.ofNat 64 bound) o.pc) s
    | some (off, n, t) =>
      .ok ({ dst with seg := 7, off := off, cap := min (n / 4) (2 ^ 31 - 1) }, BitVec.ofNat 64 (off + 7 * 2 ^ 61)) t

/-- A long result: what its registers take. -/
structure LongDone where
  lo : Option DWord
  hi : DWord
  deriving DecidableEq, Repr

/-- The second register of a descriptor. -/
def descHigh (d : Desc) (len : Nat) (sign : Bool) : DWord :=
  BitVec.ofNat 64 (len + d.cap % 2 ^ 31 * 2 ^ 32 + (if sign then 2 ^ 63 else 0))

/-- Carries out an operation of the focused span whose destination registers are d and d + 1. -/
def State.longRun (s : State) (o : SlowOp) (kind : BitVec 3) (d : RegNo) (x y : DWord × DWord) (alloc : Bool) :
    EngAns LongDone :=
  let a := s.slowActor o
  let d0 := vecAt s.sp.regs.s d.toNat 0
  let d1 := vecAt s.sp.regs.s (next d).toNat 0
  (s.longSources a kind x y).bind fun v t =>
    if kind == 3 then
      match v.bad with
      | some va => .fault (a.trap 9 va) t
      | none => .ok { lo := some (orderWord v.x v.y), hi := 0 } t
    else
      let bound := longBound kind v y.1
      (t.longDest o (descOf d0 d1) bound alloc).bind fun e t1 =>
        let (r, rest, t2) := t1.longValue a kind e.1 bound x y (longResult kind v y.1)
        let len := bigLen r
        let bs := bytesLE (4 * len) r.natAbs ++ rest
        (t2.longReach a e.1.seg.toNat e.1.off bs.length .write).bind fun _ t3 =>
          (t3.engWrite a e.1.seg.toNat e.1.off bs v.bad.isSome).bind fun _ t4 =>
            match v.bad with
            | some va => .fault (a.trap 9 va) t4
            | none => .ok { lo := if alloc then some e.2 else none, hi := descHigh e.1 len (decide (r < 0)) } t4

/-- The registers of an operation. -/
def longRefs (kind : BitVec 3) (d : RegNo) : List Ref := if kind == 3 then sr d else Machine.sp d

/-- A long operation of the focused span leaves: its pending bits clear, and its flag follows (R39, R43). -/
def State.endSlow (s : State) (o : SlowOp) (refs : List Ref) : State :=
  (({ s with slowOps := s.slowOps.filter fun x => x.id != o.id } : State).clearPending 0xFF refs).settle

/-- Must a long operation still wait: for the Carousel, where work stands before it, or for the pass of its limb tiles
through the matrix engine (R282, R285)? -/
def State.longWaits (s : State) (o : SlowOp) (via : LongVia) : Bool :=
  let cluster := clusterOf o.span.core
  match via with
  | .trotter => false
  | .carousel _ =>
    s.carouselBefore cluster o.id || s.spans.any fun p => clusterOf p.id.core == cluster && p.cmds.any fun c =>
      cmdClass c.words == 5 && decide (c.order < o.id) && !c.complete && c.parked.isNone
  | .tiles => (s.coreOf o.span.core).ops.any fun x => x.kind == .limbTiles o.id

/-- One attempt at a long-number operation of the focused span (R280); one that parks or faults gives a block it took
back. -/
def State.longAttempt (s : State) (o : SlowOp) (kind : BitVec 3) (d : RegNo) (x y : DWord × DWord) (alloc : Bool)
    (via : LongVia) : State :=
  if s.longWaits o via then s
  else
    let leave (t : State) : State := (t.endEngineRegion o.span o.region).endSlow o (longRefs kind d)
    match s.longRun o kind d x y alloc with
    | .waits w => s.queueFor w
    | .absent va asid u t =>
      let (id, t1) := t.engPark (t.slowActor o) va asid u
      { t1 with hay := s.hay, slowOps := mapIf t1.slowOps (fun z => z.id == o.id) fun z => { z with parked := some id, failed := none } }
    | .fault e t =>
      let hs : List Held := { by_ := .sreg d, trap := e, op := o.id } :: (if kind == 3 then [] else [{ by_ := .sreg (next d), trap := e, op := o.id }])
      leave (({ t with hay := s.hay } : State).hold o.span hs)
    | .ok r t =>
      if kind == 3 then leave (t.ws d (r.lo.getD 0))
      else
        let t1 := (match r.lo with
          | some lo => t.ws d lo
          | none => t)
        leave (t1.ws (next d) r.hi)

end Sys2Proof.Machine

end
end

