-- ==== Sys2Proof/Machine/Starter.lean ====
section
/-!
DEFINITION. Tile tasks and the Starter of each cluster (R313 to R319, R455, R456): `ttask`, entries and their counters, the
starting gate, the run of a task and its completion.
-/

noncomputable section

namespace Sys2Proof.Machine

open Sys2Proof

/-! ## Task records (Table 10.6) -/

/-- A task record. -/
structure TaskRecord where
  ecls  : Nat
  opk   : Bool
  pcode : Nat
  red   : Bool
  prio  : Nat
  owner : SpanId
  dep   : Nat
  self  : Nat
  succ  : List Nat
  aaddr : DWord
  baddr : DWord
  caddr : DWord
  apitch : Nat
  bpitch : Nat
  cpitch : Nat
  m     : Nat
  n     : Nat
  k     : Nat
  afmt  : Nat
  bfmt  : Nat
  kind  : Nat
  conv  : Nat
  bar   : DWord
  /-- Reserved bits are set. -/
  bad   : Bool
  deriving DecidableEq, Repr

/-- The record of 64 bytes. -/
def taskRecordOf (x : BitVec 512) : TaskRecord :=
  let w (i : Nat) : DWord := BitVec.ofNat 64 (fld x (64 * i) 64)
  { ecls := fld x 0 4, opk := bitOn x 4, pcode := fld x 5 3, red := bitOn x 8, prio := fld x 16 8,
    owner := { core := BitVec.ofNat 10 (fld x 24 10), slot := BitVec.ofNat 6 (fld x 34 6) }, dep := fld x 40 8,
    self := fld x 48 16, succ := ((List.range 4).map fun i => fld x (64 + 16 * i) 16).filter fun y => y != 0xFFFF,
    aaddr := w 2, baddr := w 3, caddr := w 4, apitch := fld x 320 21, bpitch := fld x 341 21, cpitch := fld x 362 21,
    m := fld x 384 8, n := fld x 392 8, k := fld x 400 16, afmt := fld x 416 5, bfmt := fld x 421 5, kind := fld x 426 3,
    conv := fld x 429 2, bar := w 7, bad := fld x 9 7 != 0 || bitOn x 383 || fld x 431 17 != 0 }

/-- Is an operand address no segment address of data (R174), or not 8-byte aligned? -/
def taskAddrBad (x : DWord) : Bool := segOf x == 6 || offOf x % 8 != 0

/-- Does a field break Table 10.6, or are the pair and kind illegal (R314)? -/
def TaskRecord.malformed (r : TaskRecord) (q : Nat) : Bool :=
  match pairOf r.afmt r.bfmt with
  | none => true
  | some (kind, _) =>
    r.bad || r.ecls != 0 || r.self == 0xFFFF || fmtSize r.afmt == 0 || fmtSize r.bfmt == 0 || kind != r.kind ||
      decide (2 ≤ kind) != r.opk || r.pcode == 7 || (r.pcode != 0 && kind != 0) || r.conv == 3 ||
      (r.conv != 0 && kind != 0) || (r.red && (decide (2 < kind) || r.conv != 0)) || r.m == 0 || r.n == 0 || r.k == 0 ||
      decide (kindRows kind < r.m) || decide (kindCols kind < r.n) || taskAddrBad r.aaddr || taskAddrBad r.baddr ||
      taskAddrBad r.caddr || r.apitch % 8 != 0 || r.bpitch % 8 != 0 || r.cpitch % 8 != 0 || (kind == 3 && decide (q < 2))

/-- Does a BAR fail its checks (R314)? -/
def State.taskBarBad (s : State) (a : Actor) (bar : DWord) : Bool :=
  let k := segOf bar
  bar != 0 &&
    (!(k == 0 || k == 2 || k == 3) || offOf bar % 16 != 0 ||
      (match s.checkNow a.core (vecAt a.segs k Seg.invalid) k .atomic 0 (offOf bar) 16 with
       | .misaligned | .limit | .violation => true
       | .ok _ | .walkViolation | .absent | .walking => false))

/-! ## Entries -/

/-- A record's address as a key: translated addresses by ASID, others by their place. -/
def State.taskKey (s : State) (a : Actor) (seg : Nat) (off : Nat) : Nat :=
  let g := vecAt a.segs seg Seg.invalid
  if translated seg then 2 ^ 62 + g.asid.toNat * 2 ^ 48 + (g.baseOf + off) % 2 ^ 48
  else
    match s.checkNow a.core g seg .read 0 off 1 with
    | .ok p => p.key
    | _ => 0

/-- Changes a span of a group, resident or in a saved context (R314, R318). -/
def State.updOwner (s : State) (id : SpanId) (g : GroupId) (f : Span → Span) : State :=
  let mine (p : Span) : Bool := p.id = id && p.group == g
  let s1 : State :=
    { s with sp := if s.sp.live && mine s.sp then f s.sp else s.sp, rest := mapIf s.rest mine f }
  { s1 with host := { s1.host with contexts := s1.host.contexts.map fun c =>
      if c.discarded then c else { c with spans := mapIf c.spans mine f } } }

/-- The memory key of an entry's barrier, as faults name it. -/
def State.taskBarKey (s : State) (e : StarterEntry) (r : TaskRecord) : Option Nat :=
  if r.bar == 0 then none
  else
    match s.checkNow e.issuer.core (vecAt e.segs (segOf r.bar) Seg.invalid) (segOf r.bar) .atomic 0 (offOf r.bar) 16 with
    | .ok p => some p.key
    | _ => none

/-- Holds an engine fault of a task for its owner, and ends the owner's `bar.wait` on the record's barrier (R318, R456). -/
def State.holdTask (s : State) (e : StarterEntry) (code : Nat) (region : BitVec 48) : State :=
  match e.words with
  | none => s
  | some w =>
    let key := s.taskBarKey e (taskRecordOf w)
    let t : TrapInfo := { engTrap code e.addr e.pc with region := region }
    let s1 := s.updOwner e.owner e.ownerGroup fun p => { p with held := { by_ := .task key, trap := t, op := e.order } :: p.held }
    let here := (s1.spanOf e.owner).map fun p => p.group
    match key with
    | some k => if here == some e.ownerGroup then s1.endBarWait e.owner k else s1
    | none => s1

/-- Changes the entry of a record of a cluster for an owner. -/
def State.updEntry (s : State) (e : StarterEntry) (f : StarterEntry → StarterEntry) : State :=
  let same (x : StarterEntry) : Bool :=
    x.cluster == e.cluster && x.record == e.record && x.owner = e.owner && x.ownerGroup == e.ownerGroup
  { s with starter := mapIf s.starter same f }

/-- A record enters the starting gate. -/
def State.enterGate (s : State) (e : StarterEntry) : State :=
  let (n, t) := s.newId
  t.updEntry e fun x => { x with counter := 0, inGate := true, order := n }

/-- Entries in use in a cluster. -/
def State.entriesIn (s : State) (c : Fin 16) : Nat := (s.starter.filter fun e => e.cluster == c).length

/-! ## ttask (R314, R315, R319) -/

/-- `ttask` (R314) -/
def execTtask (c : Bool) (d a : RegNo) (k : BitVec 3) (s : State) : Host.Outcome State Fault Refusal :=
  s.issue1 (.ttask c d a k) fun t =>
    t.unlessSaddled fun u =>
      let off := u.rs a
      u.withPlaces k.toNat .read 64 true [(0, off.toNat)] fun ps =>
        let (r, v) := (u.fillFor k.toNat ps).newEngineRegion 2
        v.slow (.ttask d k off v.seen.modq v.seen.xwin) true r false (sr d)

/-- A region takes another name: in its holder's closing order and in the records (R319). -/
def State.renameRegion (s : State) (r x : RegionId) : State :=
  let f (o : Option RegionId) : Option RegionId := if o = some r then some x else o
  let s1 := s.updHolder r fun p => { p with regions := mapIf p.regions (fun y => y.id = r) fun y => { y with id := x } }
  { s1 with records := s1.records.map fun a =>
      { a with wreg := f a.wreg, rreg0 := f a.rreg0, rreg1 := f a.rreg1, redlast := f a.redlast } }

/-- The owner's next region on the matrix drain path. -/
def State.ownerRegion (s : State) (p : Span) : RegionId × State :=
  let seq := vecAt p.regSeq 2 0
  (s.regionId p 2 seq, s.updSpan p.id fun q => { q with regSeq := vecPut q.regSeq 2 (seq + 1) })

/-- Enters an accepted record (R315): an early entry takes the record and its counter. -/
def State.enterRecord (s : State) (e : StarterEntry) (dep : Nat) : State :=
  let early (x : StarterEntry) : Bool := x.cluster == e.cluster && x.record == e.record && x.words.isNone
  let before : Int :=
    match s.starter.find? early with
    | some x => x.counter
    | none => 0
  let n : Int := before + dep
  let s1 : State := { s with starter := (s.starter.filter fun x => !early x) ++ [{ e with counter := n }] }
  if n = 0 then s1.enterGate e
  else if n < 0 then (s1.enterGate e).holdTask e 17 0
  else s1

/-- The Starter reads a record for the focused span and answers (R314): malformed comes before full. -/
def State.ttaskAnswer (s : State) (o : SlowOp) (seg : BitVec 3) (off modq xwin : DWord) (w : BitVec 512) :
    Nat × State :=
  let r := taskRecordOf w
  let a := s.slowActor o
  let cluster : Fin 16 := ⟨clusterOf o.span.core % 16, Nat.mod_lt _ (by decide)⟩
  let key := s.taskKey a seg.toNat off.toNat
  match s.spanOf r.owner with
  | none => (2, s)
  | some p =>
    let dup := s.starter.any fun e =>
      e.cluster == cluster && e.record == key && e.words.isSome && e.owner = p.id && e.ownerGroup == p.group
    if !p.isLive || clusterOf p.id.core != cluster.val || r.malformed (modulusOf modq) || s.taskBarBad a r.bar || dup then
      (2, s)
    else if starterCapacity < s.entriesIn cluster + 64 then (1, s)
    else
      let (x, s1) := s.ownerRegion p
      let s2 := s1.renameRegion o.region x
      let e : StarterEntry :=
        { cluster := cluster, record := key,
          addr := BitVec.ofNat 64 ((vecAt o.segs seg.toNat Seg.invalid).baseOf + off.toNat), counter := 0, words := some w,
          owner := p.id, ownerGroup := p.group, segs := o.segs, modq := modq, xexp := xwin, inGate := false,
          running := false, complete := false, order := 0, issuer := o.span, pc := o.pc, region := x, released := false,
          xout := 0, parked := none, failed := none, since := s.now, lost := false, inner := none }
      (0, s2.enterRecord e r.dep)

/-- One attempt at a `ttask` of the focused span. -/
def State.ttaskAttempt (s : State) (o : SlowOp) (d : RegNo) (seg : BitVec 3) (off modq xwin : DWord) : State :=
  let a := s.slowActor o
  let fail (t : State) (e : TrapInfo) : State :=
    ((t.hold o.span [{ by_ := .sreg d, trap := e, op := o.id }]).endEngineRegion o.span o.region).endSlow o (sr d)
  match s.engRead a seg.toNat off.toNat 64 with
  | .waits w => s.queueFor w
  | .fault e t => fail t e
  | .absent va asid u t =>
    let (id, t1) := t.engPark a va asid u
    { t1 with slowOps := mapIf t1.slowOps (fun z => z.id == o.id) fun z => { z with parked := some id, failed := none } }
  | .ok x t =>
    match x.2 with
    | some va => fail t (a.trap 9 va)
    | none =>
      let (n, t1) := t.ttaskAnswer o seg off modq xwin (BitVec.ofNat 512 (leOf x.1))
      let t2 := if n = 0 then t1 else t1.endEngineRegion o.span o.region
      (t2.ws d (BitVec.ofNat 64 n)).endSlow o (sr d)

/-! ## Dispatch (R317) -/

/-- Is an entry before another in the gate?  An internal task of a solve has no PRIO and stands behind every record, by its
slice (log 105). -/
def gateBefore (x y : StarterEntry) : Bool :=
  match x.words, y.words with
  | some a, some b =>
    let p := taskRecordOf a
    let q := taskRecordOf b
    decide (q.prio < p.prio) || (p.prio == q.prio && (decide (p.self < q.self) || (p.self == q.self && decide (x.order < y.order))))
  | some _, none => true
  | none, some _ => false
  | none, none => decide (x.order < y.order)

/-- May an engine take an entry: no holder of its Reins, nothing accepted and unfinished?  An internal task may also go to
the engine of the solve's own core (R324). -/
def Core.takes (c : Core) (e : StarterEntry) : Bool :=
  let own (o : EngineOp) : Bool := (e.inner.map fun i => i.1) == some o.id
  c.holder.isNone && (match c.ops with
    | [] => true
    | o :: _ => own o)

/-- The lowest engine of a cluster that an entry may go to (R317). -/
def State.freeEngine (s : State) (c : Fin 16) (e : StarterEntry) : Option CoreId :=
  ((List.range 48).map fun i => BitVec.ofNat 10 (48 * c.val + i)).find? fun k => (s.coreOf k).takes e

/-- `STARTER_DISPATCH` (R317) -/
def execStarterDispatch (c : Fin 16) (s : State) : Host.Outcome State Fault Refusal :=
  match (sortBy gateBefore (s.starter.filter fun e => e.cluster == c && e.inGate)).head?.bind fun e =>
    (s.freeEngine c e).map fun k => (e, k) with
  | some (e, k) =>
    let (id, s1) := s.newId
    let o : EngineOp :=
      { id := id, span := e.owner, kind := .task e.order, accepted := true, modq := e.modq, xwin := e.xexp, segs := e.segs,
        clause := none, pc := e.pc, region := e.region, progress := 0, slices := [], faulted := false, gathered := (false, 0), parked := none,
        failed := none, since := s1.now, lost := false }
    happens ((s1.updEntry e fun x => { x with inGate := false, running := true }).updCore k fun x =>
      { x with ops := o :: x.ops })
  | none => happens s

/-! ## The run of a task (R313) -/

/-- The entry that an engine runs, by its order of entry into the gate. -/
def State.runningEntry (s : State) (order : Nat) : Option StarterEntry :=
  s.starter.find? fun e => e.order == order && e.running

/-- The actor of a task: the issuing span's segments and spaces, the owner's faults and reports. -/
def entryActor (e : StarterEntry) (failed : Bool) : Actor :=
  { span := e.owner, group := e.ownerGroup, core := e.issuer.core, segs := e.segs, region := e.region, pc := e.pc,
    failed := failed, lost := e.lost }

/-- Elements of a row's bytes. -/
def rowElems (f k : Nat) (bs : List Byte) : List Elem :=
  let z := fmtSize f
  (List.range k).map fun i => byteElem f (leOf ((bs.drop (z * i)).take z))

/-- n rows of an operand, from row i on, with a poisoned address. -/
def State.taskRows (n : Nat) (s : State) (a : Actor) (x : DWord) (pitch f k i : Nat) :
    EngAns (List (List Elem) × Option DWord) :=
  match n with
  | 0 => .ok ([], none) s
  | m + 1 =>
    let at_ := a.addrOf x (i * pitch)
    if at_.toNat % 8 != 0 then .fault (a.trap 6 at_) s
    else
      (s.engRead a (segOf x) (offOf x + i * pitch) (k * fmtSize f)).bind fun r t =>
        (t.taskRows m a x pitch f k (i + 1)).bind fun q u => .ok (rowElems f k r.1 :: q.1, r.2 <|> q.2) u

/-- The drain descriptor of a task's result. -/
def TaskRecord.drain (r : TaskRecord) : DrainDesc :=
  { pitch := r.cpitch, rows := r.m, cols := r.n, rowo := 0, colo := 0, conv := r.conv, kind := r.kind }

/-- Offsets of the destination's rows. -/
def TaskRecord.outRows (r : TaskRecord) : List Nat := (List.range r.m).map fun i => offOf r.caddr + i * r.cpitch

/-- The result of a task as an accumulator. -/
def TaskRecord.compute (r : TaskRecord) (kc : Nat) (modq xwin : DWord) (as bs : List (List Elem)) : MmaDone :=
  mmaDo { kind := r.kind, kc := kc, m := r.m, n := r.n, k := r.k, init := true, cont := false, ci := 0, cj := 0,
          pr := 2 ^ r.pcode, q := modulusOf modq, x := xwinExp xwin, spec := 0 }
    Acc.zero (fun i => listAt as i []) fun j => listAt bs j []

/-- Writes a result's rows in ascending order. -/
def State.taskStore (s : State) (a : Actor) (r : TaskRecord) (bs : List Byte) (bad : Bool) : EngAns Unit :=
  let n := r.n * r.drain.size
  s.engWrites a (segOf r.caddr) ((List.range r.m).map fun i => (listAt r.outRows i 0, (bs.drop (i * n)).take n)) bad

/-- Adds a result to its destination as one tile update (R308). -/
def State.taskUpdate (s : State) (a : Actor) (r : TaskRecord) (bs : List Byte) : EngAns Unit :=
  let k := segOf r.caddr
  let g := vecAt a.segs k Seg.invalid
  let ps := rowPieces g (r.n * r.drain.size) r.outRows
  (s.drainPlaces a k ps).bind fun qs t =>
    let o : MemOp :=
      { id := 0, span := a.span, group := a.group, kind := .update (BitVec.ofNat 3 r.kind), dest := .none, path := 2,
        seg := BitVec.ofNat 3 k, hint := 0, nc := false, cpol := BitVec.ofNat 2 g.cpol, checked := g.checked, logged := false,
        region := a.region, clause := none, pc := a.pc, gang := 0xFF, lanes := 0, whole := true, since := t.now,
        reqs := (qs.zip ps).map fun q => { reqAt q.1 q.2.len (leOf ((bs.drop q.2.at_).take q.2.len)) 0 with region := a.region } }
    match t.admitReqs o o.reqs with
    | .waits w => .waits (some w)
    | .refused x => .fault (a.refused (BitVec.ofNat 64 (g.baseOf + offOf r.caddr)) x) t
    | .admitted t1 => .ok () (t1.applyUpdate o r.kind)

/-- Destination rows must be 8-byte aligned. -/
def Actor.rowsAligned (a : Actor) (r : TaskRecord) : Option DWord :=
  ((List.range r.m).map fun i => a.addrOf r.caddr (i * r.cpitch)).find? fun x => x.toNat % 8 != 0

/-- What a task has gathered for its owner's XWIN. -/
abbrev TaskOut := Bool × Nat

/-- The whole run of a task: A, then B, then the product, then the destination. -/
def State.taskRun (s : State) (e : StarterEntry) (r : TaskRecord) (a : Actor) : EngAns TaskOut :=
  match pairOf r.afmt r.bfmt with
  | none => .ok (false, 0) s
  | some (_, kc) =>
    (s.taskRows r.m a r.aaddr r.apitch r.afmt r.k 0).bind fun x t =>
      (t.taskRows r.n a r.baddr r.bpitch r.bfmt r.k 0).bind fun y t1 =>
        let d := r.compute kc e.modq e.xexp x.1 y.1
        if d.full then .fault (a.trap 15 e.addr) t1
        else
          match a.rowsAligned r with
          | some va => .fault (a.trap 6 va) t1
          | none =>
            let bs := drainBytes d.acc.data r.drain
            let bad := x.2 <|> y.2
            (if r.red then t1.taskUpdate a r bs else t1.taskStore a r bs bad.isSome).bind fun _ t2 =>
              match bad with
              | some va => .fault (a.trap 9 va) t2
              | none => .ok (d.sticky, if r.kind = 4 then d.spec else 0) t2

/-- A task's engine is free again: its accesses are all made. -/
def State.leaveEngine (s : State) (k : CoreId) (o : EngineOp) : State :=
  let s1 := s.updCore k fun c => { c with ops := c.ops.filter fun x => x.id != o.id }
  s1.updHolder o.region fun p => { p with regions := mapIf p.regions (fun x => x.id = o.region) fun x => { x with ended := true } }

/-- The solve that an internal task belongs to, on whichever core it stands. -/
def State.solveOf (s : State) (op : Nat) : Option EngineOp := (s.core :: s.cores).findSome? fun c => c.ops.find? fun o => o.id == op

/-- An internal task of a solve has ended: its entry goes, the level's counter falls, and at 0 that entry goes too; a fault is
held for the issuing span, and no further slice is begun (R324). -/
def State.endSlice (s : State) (k : CoreId) (o : EngineOp) (e : StarterEntry) (op slice : Nat) (fault : Option TrapInfo) :
    State :=
  let s1 := s.updCore k fun c => { c with ops := c.ops.filter fun x => x.id != o.id }
  let drops (x : StarterEntry) : Bool :=
    x.order == e.order || (fault.isSome && (x.inner.map fun i => i.1) == some op && x.inGate)
  let gone := (s1.starter.filter drops).length
  let left := (s1.starter.filter fun x => !drops x).map fun x =>
    if x.inner == some (op, none) then { x with counter := x.counter - gone } else x
  let s2 : State := { s1 with starter := left.filter fun x => !(x.inner == some (op, none) && decide (x.counter ≤ 0)) }
  let s3 := s2.updCore e.issuer.core fun c => { c with ops := mapIf c.ops (fun x => x.id == op) fun x =>
    { x with slices := if fault.isSome then x.slices else slice :: x.slices, faulted := x.faulted || fault.isSome } }
  match fault, s.solveOf op with
  | some t, some z => if z.faulted then s3 else s3.holdOp z t
  | _, _ => s3

/-- One attempt of an engine at an internal task of a solve. -/
def State.sliceAttempt (s : State) (k : CoreId) (o : EngineOp) (e : StarterEntry) (op slice : Nat) : State :=
  match (s.solveOf op).map (fun z : EngineOp => z.kind) with
  | some (.sptrsv _ x _) =>
    match s.triSlice (entryActor e o.failed.isSome) x slice with
    | .waits w => s.queueFor w
    | .ok _ t => t.endSlice k o e op slice none
    | .fault f t => t.endSlice k o e op slice (some f)
    | .absent va asid use t =>
      let (id, t1) := t.engPark (entryActor e o.failed.isSome) va asid use
      t1.updCore k fun c => { c with ops := mapIf c.ops (fun x => x.id == o.id) fun x =>
        { x with parked := some id, failed := none } }
  | _ => s.endSlice k o e op slice none

/-- One attempt of an engine at the task that it serves; a fault is held for the owner, with the record's address (R318). -/
def State.taskAttempt (s : State) (k : CoreId) (o : EngineOp) (order : Nat) : State :=
  match s.runningEntry order with
  | none => s.leaveEngine k o
  | some e =>
    match e.words, e.inner with
    | none, some (op, some slice) => s.sliceAttempt k o e op slice
    | none, _ => s
    | some w, _ =>
      let a := entryActor e o.failed.isSome
      match s.taskRun e (taskRecordOf w) a with
      | .waits w => s.queueFor w
      | .fault t u => (u.holdTask e t.code.toNat t.region).leaveEngine k o
      | .absent va asid use u =>
        let (id, u1) := u.engPark a va asid use
        u1.updCore k fun c => { c with ops := mapIf c.ops (fun x => x.id == o.id) fun x =>
          { x with parked := some id, failed := none } }
      | .ok x u => (u.updEntry e fun y => { y with xout := xwinPut 0 x.1 x.2 }).leaveEngine k o

/-! ## Completion (R315, R316, R318, R455) -/

/-- n decrements of a counter made together. -/
def State.decrementEntry (s : State) (e : StarterEntry) (n : Nat) : State :=
  if e.words.isNone then s.updEntry e fun x => { x with counter := x.counter - n }
  else if e.counter = 0 then s.holdTask e 17 0
  else if e.counter < n then (s.enterGate e).holdTask e 17 0
  else if e.counter = n then s.enterGate e
  else s.updEntry e fun x => { x with counter := x.counter - n }

/-- The entry of an early decrement (R315). -/
def earlyEntry (c : Fin 16) (key n : Nat) : StarterEntry :=
  { cluster := c, record := key, addr := 0, counter := -(n : Int), words := none, owner := { core := 0, slot := 0 },
    ownerGroup := 0, segs := Vector.replicate 8 Seg.invalid, modq := 0, xexp := 0, inGate := false, running := false,
    complete := false, order := 0, issuer := { core := 0, slot := 0 }, pc := 0,
    region := { pkg := 0, core := 0, slot := 0, path := 0, seq := 0 }, released := false, xout := 0, parked := none,
    failed := none, since := 0, lost := false, inner := none }

/-- The entry that a key names: one with a record that has not completed comes first. -/
def State.entryAt (s : State) (c : Fin 16) (key : Nat) : Option StarterEntry :=
  let mine := s.starter.filter fun e => e.cluster == c && e.record == key
  match mine.find? fun e => !e.complete with
  | some e => some e
  | none => mine.head?

/-- n decrements of a record, when they need not wait behind others. -/
def State.decrementNow (s : State) (c : Fin 16) (key n : Nat) : Option State :=
  match s.entryAt c key with
  | some e => some (s.decrementEntry e n)
  | none =>
    if s.entriesIn c < starterCapacity then some { s with starter := s.starter ++ [earlyEntry c key n] } else none

/-- n decrements of a record by a completed task. -/
def State.decrementTask (s : State) (c : Fin 16) (key n : Nat) : State :=
  let queue : State := { s with earlyDecs := s.earlyDecs ++ List.replicate n (c, key) }
  if s.earlyDecs.any fun x => x.1 == c then queue
  else
    match s.decrementNow c key n with
    | some t => t
    | none => queue

/-- `EARLY_DECREMENT` (R315): the first decrement that waits for a free entry of a cluster is made. -/
def execEarlyDecrement (c : Fin 16) (s : State) : Host.Outcome State Fault Refusal :=
  match s.earlyDecs.find? fun x => x.1 == c with
  | none => happens s
  | some x =>
    match ({ s with earlyDecs := s.earlyDecs.erase x } : State).decrementNow c x.2 1 with
    | some t => happens t
    | none => happens s

/-- The decrements of a completed task, once per naming; records that become ready together enter the gate by PRIO and
SELF (R316). -/
def State.releaseTask (s : State) (e : StarterEntry) (r : TaskRecord) : State :=
  let keys := r.succ.map fun i => e.record + 64 * i - 64 * r.self
  let order := sortBy (fun x y =>
    match s.entryAt e.cluster x, s.entryAt e.cluster y with
    | some a, some b => gateBefore a b
    | _, _ => false) (distinct keys)
  let s1 := order.foldl (fun t k => t.decrementTask e.cluster k (keys.filter fun y => y == k).length) s
  s1.updEntry e fun x => { x with released := true }

/-- The arrival of a completed task at its barrier. -/
def State.taskArrive (s : State) (e : StarterEntry) (r : TaskRecord) : EngAns Unit :=
  if r.bar == 0 then .ok () s
  else
    (s.engPlace (entryActor e e.failed.isSome) (segOf r.bar) (offOf r.bar) 16 .atomic).bind fun p t =>
      .ok () (t.barrierStep p.slot p.key fun b => b.arrive 1)

/-- A completed task: XWIN of its owner takes what it gathered, and a region that stands in no closing order closes. -/
def State.endEntry (s : State) (e : StarterEntry) : State :=
  let x := e.xout
  let s1 := s.updOwner e.owner e.ownerGroup fun p =>
    { p with regs := { p.regs with xwin := xwinMerge p.regs.xwin (bitOn x 16) (xwinSpec x) } }
  let s2 := s1.updEntry e fun y => { y with complete := true, running := false, parked := none }
  let end_ (p : Span) : Span :=
    { p with regions := mapIf p.regions (fun x => x.id = e.region) fun x => { x with ended := true } }
  let saved := s2.host.contexts.any fun c => c.spans.any fun p => p.regions.any fun x => x.id = e.region
  if saved then s2.updHolder e.region end_
  else if (s2.holderOf e.region).isNone then s2.closeRegion e.region
  else s2

/-- The oldest task of a cluster whose accesses are performed and that is not complete. -/
def State.endingEntry (s : State) (c : Nat) : Option StarterEntry :=
  let onEngine (e : StarterEntry) : Bool := (s.core :: s.cores).any fun k => k.ops.any fun o => o.kind == .task e.order
  (sortBy (fun a b => decide (a.order < b.order)) (s.starter.filter fun e =>
    e.cluster.val == c && e.running && !e.complete && e.parked.isNone && !onEngine e)).head?

/-- `TASK_COMPLETE` (R318): the successors of a task of a core's cluster are decremented, then its arrival is made. -/
def execTaskComplete (k : CoreId) (s : State) : Host.Outcome State Fault Refusal :=
  match s.endingEntry (clusterOf k) with
  | none => happens s
  | some e =>
    match e.words with
    | none => happens s
    | some w =>
      let r := taskRecordOf w
      let s1 := if e.released then s else s.releaseTask e r
      match s1.taskArrive e r with
      | .ok _ t => happens (t.endEntry e)
      | .fault x t => happens ((t.holdTask e x.code.toNat 0).endEntry e)
      | .absent va asid u t =>
        let (id, t1) := t.engPark (entryActor e false) va asid u
        happens (t1.updEntry e fun y => { y with parked := some id, failed := none })
      | .waits w => happens (s1.queueFor w)

end Sys2Proof.Machine

end
end

