-- ==== Sys2Proof/Decode.lean ====
section
/-!
DEFINITION. Decoding (R28, R31, R37, R46 to R69): total on any words, rejecting each word with the ILLEGAL_INSTR
sub-code of R70 that its encoding alone shows; then the encoder, written from the same formats (R50).
-/

namespace Sys2Proof

/-! ## Bytes and words (R6, R28) -/

/-- Four bytes, lowest address first, as one little-endian word. -/
def wordOfBytes (b0 b1 b2 b3 : Byte) : Word := b3 ++ b2 ++ b1 ++ b0

/-- The four bytes of a word, lowest address first. -/
def bytesOfWord (w : Word) : List Byte :=
  [w.extractLsb' 0 8, w.extractLsb' 8 8, w.extractLsb' 16 8, w.extractLsb' 24 8]

/-- The words of a byte string; a tail shorter than a word is left out. -/
def wordsOfBytes : List Byte → List Word
  | b0 :: b1 :: b2 :: b3 :: bs => wordOfBytes b0 b1 b2 b3 :: wordsOfBytes bs
  | _ => []

/-- The class of a word, bits [30:27] (R31). -/
def wordClass (w : Word) : Nat := (w.extractLsb' 27 4).toNat

/-- The chain bit of a word (R31). -/
def wordChain (w : Word) : Bool := w.getLsbD 31

/-! ## Rejections -/

/-- Why words do not decode.  `sub` is the ILLEGAL_INSTR sub-code of R70; `atPre` says that the prefix word raises it. -/
inductive DecodeError where
  /-- No word is left where one is needed. -/
  | short
  /-- The word is illegal by its own bits. -/
  | illegal (sub : Nat) (atPre : Bool)
  deriving DecidableEq, Repr

noncomputable section

/-- Class 0 (Table 2.4): the instruction of a word of this class, or the ILLEGAL_INSTR sub-code of R70 that rejects it. -/
def decodeScalar (w : Word) : Except Nat Instr :=
  match (w.extractLsb' 19 8).toNat with
  | 0 => .ok (.add (w.getLsbD 31) (w.extractLsb' 13 6) (w.extractLsb' 7 6) (w.extractLsb' 1 6) (w.getLsbD 0))
  | 1 => .ok (.sub (w.getLsbD 31) (w.extractLsb' 13 6) (w.extractLsb' 7 6) (w.extractLsb' 1 6) (w.getLsbD 0))
  | 2 => .ok (.addc (w.getLsbD 31) (w.extractLsb' 13 6) (w.extractLsb' 7 6) (w.extractLsb' 1 6) (w.getLsbD 0))
  | 3 => .ok (.mul (w.getLsbD 31) (w.extractLsb' 13 6) (w.extractLsb' 7 6) (w.extractLsb' 1 6) (w.getLsbD 0))
  | 4 => .ok (.mulh (w.getLsbD 31) (w.extractLsb' 13 6) (w.extractLsb' 7 6) (w.extractLsb' 1 6) (w.getLsbD 0))
  | 5 => .ok (.mulhu (w.getLsbD 31) (w.extractLsb' 13 6) (w.extractLsb' 7 6) (w.extractLsb' 1 6) (w.getLsbD 0))
  | 6 => .ok (.div (w.getLsbD 31) (w.extractLsb' 13 6) (w.extractLsb' 7 6) (w.extractLsb' 1 6) (w.getLsbD 0))
  | 7 => .ok (.divu (w.getLsbD 31) (w.extractLsb' 13 6) (w.extractLsb' 7 6) (w.extractLsb' 1 6) (w.getLsbD 0))
  | 8 => .ok (.rem (w.getLsbD 31) (w.extractLsb' 13 6) (w.extractLsb' 7 6) (w.extractLsb' 1 6) (w.getLsbD 0))
  | 9 => .ok (.remu (w.getLsbD 31) (w.extractLsb' 13 6) (w.extractLsb' 7 6) (w.extractLsb' 1 6) (w.getLsbD 0))
  | 16 => .ok (.and (w.getLsbD 31) (w.extractLsb' 13 6) (w.extractLsb' 7 6) (w.extractLsb' 1 6) (w.getLsbD 0))
  | 17 => .ok (.or (w.getLsbD 31) (w.extractLsb' 13 6) (w.extractLsb' 7 6) (w.extractLsb' 1 6) (w.getLsbD 0))
  | 18 => .ok (.xor (w.getLsbD 31) (w.extractLsb' 13 6) (w.extractLsb' 7 6) (w.extractLsb' 1 6) (w.getLsbD 0))
  | 19 => .ok (.andn (w.getLsbD 31) (w.extractLsb' 13 6) (w.extractLsb' 7 6) (w.extractLsb' 1 6) (w.getLsbD 0))
  | 24 => .ok (.shl (w.getLsbD 31) (w.extractLsb' 13 6) (w.extractLsb' 7 6) (w.extractLsb' 1 6) (w.getLsbD 0))
  | 25 => .ok (.shr (w.getLsbD 31) (w.extractLsb' 13 6) (w.extractLsb' 7 6) (w.extractLsb' 1 6) (w.getLsbD 0))
  | 26 => .ok (.sar (w.getLsbD 31) (w.extractLsb' 13 6) (w.extractLsb' 7 6) (w.extractLsb' 1 6) (w.getLsbD 0))
  | 27 => .ok (.rol (w.getLsbD 31) (w.extractLsb' 13 6) (w.extractLsb' 7 6) (w.extractLsb' 1 6) (w.getLsbD 0))
  | 32 => .ok (.min (w.getLsbD 31) (w.extractLsb' 13 6) (w.extractLsb' 7 6) (w.extractLsb' 1 6) (w.getLsbD 0))
  | 33 => .ok (.max (w.getLsbD 31) (w.extractLsb' 13 6) (w.extractLsb' 7 6) (w.extractLsb' 1 6) (w.getLsbD 0))
  | 34 => .ok (.minu (w.getLsbD 31) (w.extractLsb' 13 6) (w.extractLsb' 7 6) (w.extractLsb' 1 6) (w.getLsbD 0))
  | 35 => .ok (.maxu (w.getLsbD 31) (w.extractLsb' 13 6) (w.extractLsb' 7 6) (w.extractLsb' 1 6) (w.getLsbD 0))
  | 40 => .ok (.cmpEq (w.getLsbD 31) (w.extractLsb' 13 6) (w.extractLsb' 7 6) (w.extractLsb' 1 6) (w.getLsbD 0))
  | 41 => .ok (.cmpNe (w.getLsbD 31) (w.extractLsb' 13 6) (w.extractLsb' 7 6) (w.extractLsb' 1 6) (w.getLsbD 0))
  | 42 => .ok (.cmpLt (w.getLsbD 31) (w.extractLsb' 13 6) (w.extractLsb' 7 6) (w.extractLsb' 1 6) (w.getLsbD 0))
  | 43 => .ok (.cmpGe (w.getLsbD 31) (w.extractLsb' 13 6) (w.extractLsb' 7 6) (w.extractLsb' 1 6) (w.getLsbD 0))
  | 44 => .ok (.cmpLtu (w.getLsbD 31) (w.extractLsb' 13 6) (w.extractLsb' 7 6) (w.extractLsb' 1 6) (w.getLsbD 0))
  | 45 => .ok (.cmpGeu (w.getLsbD 31) (w.extractLsb' 13 6) (w.extractLsb' 7 6) (w.extractLsb' 1 6) (w.getLsbD 0))
  | 46 => if w.extractLsb' 0 1 ≠ 0 then .error 2 else .ok (.sel (w.getLsbD 31) (w.extractLsb' 13 6) (w.extractLsb' 7 6) (w.extractLsb' 1 6))
  | 48 => if w.extractLsb' 1 6 ≠ 0 then .error 2 else .ok (.clz (w.getLsbD 31) (w.extractLsb' 13 6) (w.extractLsb' 7 6) (w.getLsbD 0))
  | 49 => if w.extractLsb' 1 6 ≠ 0 then .error 2 else .ok (.ctz (w.getLsbD 31) (w.extractLsb' 13 6) (w.extractLsb' 7 6) (w.getLsbD 0))
  | 50 => if w.extractLsb' 1 6 ≠ 0 then .error 2 else .ok (.popc (w.getLsbD 31) (w.extractLsb' 13 6) (w.extractLsb' 7 6) (w.getLsbD 0))
  | 56 => if w.extractLsb' 0 1 ≠ 0 then .error 2 else .ok (.bext (w.getLsbD 31) (w.extractLsb' 13 6) (w.extractLsb' 7 6) (w.extractLsb' 1 6))
  | 57 => if w.extractLsb' 0 1 ≠ 0 then .error 2 else .ok (.bins (w.getLsbD 31) (w.extractLsb' 13 6) (w.extractLsb' 7 6) (w.extractLsb' 1 6))
  | 63 => if w.extractLsb' 1 6 ≠ 0 then .error 2 else .ok (.mov (w.getLsbD 31) (w.extractLsb' 13 6) (w.extractLsb' 7 6) (w.getLsbD 0))
  | _ => .error 1

/-- Class 1 (Table 2.5): the instruction of a word of this class, or the ILLEGAL_INSTR sub-code of R70 that rejects it. -/
def decodeControl (w : Word) : Except Nat Instr :=
  match (w.extractLsb' 22 5).toNat with
  | 0 => .ok (.addi (w.getLsbD 31) (w.extractLsb' 16 6) (w.extractLsb' 0 16))
  | 1 => .ok (.movi (w.getLsbD 31) (w.extractLsb' 16 6) (w.extractLsb' 0 16))
  | 2 => .ok (.movhi (w.getLsbD 31) (w.extractLsb' 16 6) (w.extractLsb' 0 16))
  | 3 => .ok (.andi (w.getLsbD 31) (w.extractLsb' 16 6) (w.extractLsb' 0 16))
  | 4 => .ok (.ori (w.getLsbD 31) (w.extractLsb' 16 6) (w.extractLsb' 0 16))
  | 5 => .ok (.xori (w.getLsbD 31) (w.extractLsb' 16 6) (w.extractLsb' 0 16))
  | 6 => if w.extractLsb' 6 10 ≠ 0 then .error 9 else .ok (.shli (w.getLsbD 31) (w.extractLsb' 16 6) (w.extractLsb' 0 6))
  | 7 => if w.extractLsb' 6 10 ≠ 0 then .error 9 else .ok (.shri (w.getLsbD 31) (w.extractLsb' 16 6) (w.extractLsb' 0 6))
  | 8 => .ok (.cmpiEq (w.getLsbD 31) (w.extractLsb' 16 6) (w.extractLsb' 0 16))
  | 9 => .ok (.cmpiNe (w.getLsbD 31) (w.extractLsb' 16 6) (w.extractLsb' 0 16))
  | 10 => .ok (.cmpiLt (w.getLsbD 31) (w.extractLsb' 16 6) (w.extractLsb' 0 16))
  | 11 => .ok (.cmpiGe (w.getLsbD 31) (w.extractLsb' 16 6) (w.extractLsb' 0 16))
  | 12 => .ok (.cmpiLtu (w.getLsbD 31) (w.extractLsb' 16 6) (w.extractLsb' 0 16))
  | 13 => .ok (.cmpiGeu (w.getLsbD 31) (w.extractLsb' 16 6) (w.extractLsb' 0 16))
  | 16 => if w.extractLsb' 16 6 ≠ 0 then .error 2 else .ok (.br (w.getLsbD 31) (w.extractLsb' 0 16))
  | 17 => .ok (.brc (w.getLsbD 31) (w.extractLsb' 16 6) (w.extractLsb' 0 16))
  | 18 => .ok (.brv (w.getLsbD 31) (w.extractLsb' 16 6) (w.extractLsb' 0 16))
  | 19 => .ok (.call (w.getLsbD 31) (w.extractLsb' 16 6) (w.extractLsb' 0 16))
  | 20 => if w.extractLsb' 0 16 ≠ 0 then .error 2 else .ok (.ret (w.getLsbD 31) (w.extractLsb' 16 6))
  | 21 => if w.extractLsb' 0 16 ≠ 0 then .error 2 else .ok (.jmpr (w.getLsbD 31) (w.extractLsb' 16 6))
  | 22 => if w.extractLsb' 16 6 ≠ 0 then .error 2 else if w.extractLsb' 0 16 ≠ 0 then .error 2 else .ok (.join (w.getLsbD 31))
  | 23 => if w.extractLsb' 16 6 ≠ 0 then .error 2 else if w.extractLsb' 0 16 ≠ 0 then .error 2 else .ok (.regang (w.getLsbD 31))
  | 24 => if w.extractLsb' 16 6 ≠ 0 then .error 2 else if w.extractLsb' 0 16 ≠ 0 then .error 2 else .ok (.exit (w.getLsbD 31))
  | 25 => if w.extractLsb' 16 6 ≠ 0 then .error 2 else if w.extractLsb' 0 16 ≠ 0 then .error 2 else .ok (.nop (w.getLsbD 31))
  | _ => .error 1

/-- Class 2 (Table 2.6): the instruction of a word of this class, or the ILLEGAL_INSTR sub-code of R70 that rejects it. -/
def decodeInt (p : Option Pre) (w : Word) : Except Nat Instr :=
  match (w.extractLsb' 21 6).toNat with
  | 0 => .ok (.vadd p (w.getLsbD 31) (w.extractLsb' 18 3) (w.extractLsb' 12 6) (w.extractLsb' 6 6) (w.extractLsb' 0 6))
  | 32 => .ok (.vaddS p (w.getLsbD 31) (w.extractLsb' 18 3) (w.extractLsb' 12 6) (w.extractLsb' 6 6) (w.extractLsb' 0 6))
  | 56 => .ok (.vaddI p (w.getLsbD 31) (w.extractLsb' 18 3) (w.extractLsb' 12 6) (w.extractLsb' 6 6) (w.extractLsb' 0 6))
  | 1 => .ok (.vsub p (w.getLsbD 31) (w.extractLsb' 18 3) (w.extractLsb' 12 6) (w.extractLsb' 6 6) (w.extractLsb' 0 6))
  | 33 => .ok (.vsubS p (w.getLsbD 31) (w.extractLsb' 18 3) (w.extractLsb' 12 6) (w.extractLsb' 6 6) (w.extractLsb' 0 6))
  | 57 => .ok (.vsubI p (w.getLsbD 31) (w.extractLsb' 18 3) (w.extractLsb' 12 6) (w.extractLsb' 6 6) (w.extractLsb' 0 6))
  | 2 => .ok (.vmul p (w.getLsbD 31) (w.extractLsb' 18 3) (w.extractLsb' 12 6) (w.extractLsb' 6 6) (w.extractLsb' 0 6))
  | 34 => .ok (.vmulS p (w.getLsbD 31) (w.extractLsb' 18 3) (w.extractLsb' 12 6) (w.extractLsb' 6 6) (w.extractLsb' 0 6))
  | 3 => .ok (.vmulh p (w.getLsbD 31) (w.extractLsb' 18 3) (w.extractLsb' 12 6) (w.extractLsb' 6 6) (w.extractLsb' 0 6))
  | 35 => .ok (.vmulhS p (w.getLsbD 31) (w.extractLsb' 18 3) (w.extractLsb' 12 6) (w.extractLsb' 6 6) (w.extractLsb' 0 6))
  | 4 => if w.extractLsb' 18 3 ≠ 1 then .error 3 else .ok (.vmulhu p (w.getLsbD 31) (w.extractLsb' 12 6) (w.extractLsb' 6 6) (w.extractLsb' 0 6))
  | 36 => if w.extractLsb' 18 3 ≠ 1 then .error 3 else .ok (.vmulhuS p (w.getLsbD 31) (w.extractLsb' 12 6) (w.extractLsb' 6 6) (w.extractLsb' 0 6))
  | 5 => .ok (.vmad p (w.getLsbD 31) (w.extractLsb' 18 3) (w.extractLsb' 12 6) (w.extractLsb' 6 6) (w.extractLsb' 0 6))
  | 6 => if w.extractLsb' 18 3 ≠ 1 then .error 3 else .ok (.vaddc p (w.getLsbD 31) (w.extractLsb' 12 6) (w.extractLsb' 6 6) (w.extractLsb' 0 6))
  | 7 => if w.extractLsb' 18 3 ≠ 1 then .error 3 else .ok (.vsubc p (w.getLsbD 31) (w.extractLsb' 12 6) (w.extractLsb' 6 6) (w.extractLsb' 0 6))
  | 8 => .ok (.vmulw p (w.getLsbD 31) (w.extractLsb' 18 3) (w.extractLsb' 12 6) (w.extractLsb' 6 6) (w.extractLsb' 0 6))
  | 9 => .ok (.vand p (w.getLsbD 31) (w.extractLsb' 18 3) (w.extractLsb' 12 6) (w.extractLsb' 6 6) (w.extractLsb' 0 6))
  | 41 => .ok (.vandS p (w.getLsbD 31) (w.extractLsb' 18 3) (w.extractLsb' 12 6) (w.extractLsb' 6 6) (w.extractLsb' 0 6))
  | 58 => .ok (.vandI p (w.getLsbD 31) (w.extractLsb' 18 3) (w.extractLsb' 12 6) (w.extractLsb' 6 6) (w.extractLsb' 0 6))
  | 10 => .ok (.vor p (w.getLsbD 31) (w.extractLsb' 18 3) (w.extractLsb' 12 6) (w.extractLsb' 6 6) (w.extractLsb' 0 6))
  | 42 => .ok (.vorS p (w.getLsbD 31) (w.extractLsb' 18 3) (w.extractLsb' 12 6) (w.extractLsb' 6 6) (w.extractLsb' 0 6))
  | 59 => .ok (.vorI p (w.getLsbD 31) (w.extractLsb' 18 3) (w.extractLsb' 12 6) (w.extractLsb' 6 6) (w.extractLsb' 0 6))
  | 11 => .ok (.vxor p (w.getLsbD 31) (w.extractLsb' 18 3) (w.extractLsb' 12 6) (w.extractLsb' 6 6) (w.extractLsb' 0 6))
  | 43 => .ok (.vxorS p (w.getLsbD 31) (w.extractLsb' 18 3) (w.extractLsb' 12 6) (w.extractLsb' 6 6) (w.extractLsb' 0 6))
  | 60 => .ok (.vxorI p (w.getLsbD 31) (w.extractLsb' 18 3) (w.extractLsb' 12 6) (w.extractLsb' 6 6) (w.extractLsb' 0 6))
  | 12 => .ok (.vshl p (w.getLsbD 31) (w.extractLsb' 18 3) (w.extractLsb' 12 6) (w.extractLsb' 6 6) (w.extractLsb' 0 6))
  | 44 => .ok (.vshlS p (w.getLsbD 31) (w.extractLsb' 18 3) (w.extractLsb' 12 6) (w.extractLsb' 6 6) (w.extractLsb' 0 6))
  | 61 => .ok (.vshlI p (w.getLsbD 31) (w.extractLsb' 18 3) (w.extractLsb' 12 6) (w.extractLsb' 6 6) (w.extractLsb' 0 6))
  | 13 => .ok (.vshr p (w.getLsbD 31) (w.extractLsb' 18 3) (w.extractLsb' 12 6) (w.extractLsb' 6 6) (w.extractLsb' 0 6))
  | 45 => .ok (.vshrS p (w.getLsbD 31) (w.extractLsb' 18 3) (w.extractLsb' 12 6) (w.extractLsb' 6 6) (w.extractLsb' 0 6))
  | 62 => .ok (.vshrI p (w.getLsbD 31) (w.extractLsb' 18 3) (w.extractLsb' 12 6) (w.extractLsb' 6 6) (w.extractLsb' 0 6))
  | 14 => .ok (.vsar p (w.getLsbD 31) (w.extractLsb' 18 3) (w.extractLsb' 12 6) (w.extractLsb' 6 6) (w.extractLsb' 0 6))
  | 46 => .ok (.vsarS p (w.getLsbD 31) (w.extractLsb' 18 3) (w.extractLsb' 12 6) (w.extractLsb' 6 6) (w.extractLsb' 0 6))
  | 63 => .ok (.vsarI p (w.getLsbD 31) (w.extractLsb' 18 3) (w.extractLsb' 12 6) (w.extractLsb' 6 6) (w.extractLsb' 0 6))
  | 15 => .ok (.vmin p (w.getLsbD 31) (w.extractLsb' 18 3) (w.extractLsb' 12 6) (w.extractLsb' 6 6) (w.extractLsb' 0 6))
  | 47 => .ok (.vminS p (w.getLsbD 31) (w.extractLsb' 18 3) (w.extractLsb' 12 6) (w.extractLsb' 6 6) (w.extractLsb' 0 6))
  | 16 => .ok (.vmax p (w.getLsbD 31) (w.extractLsb' 18 3) (w.extractLsb' 12 6) (w.extractLsb' 6 6) (w.extractLsb' 0 6))
  | 48 => .ok (.vmaxS p (w.getLsbD 31) (w.extractLsb' 18 3) (w.extractLsb' 12 6) (w.extractLsb' 6 6) (w.extractLsb' 0 6))
  | 17 => if w.extractLsb' 18 3 ≠ 1 then .error 3 else .ok (.vminu p (w.getLsbD 31) (w.extractLsb' 12 6) (w.extractLsb' 6 6) (w.extractLsb' 0 6))
  | 49 => if w.extractLsb' 18 3 ≠ 1 then .error 3 else .ok (.vminuS p (w.getLsbD 31) (w.extractLsb' 12 6) (w.extractLsb' 6 6) (w.extractLsb' 0 6))
  | 18 => if w.extractLsb' 18 3 ≠ 1 then .error 3 else .ok (.vmaxu p (w.getLsbD 31) (w.extractLsb' 12 6) (w.extractLsb' 6 6) (w.extractLsb' 0 6))
  | 50 => if w.extractLsb' 18 3 ≠ 1 then .error 3 else .ok (.vmaxuS p (w.getLsbD 31) (w.extractLsb' 12 6) (w.extractLsb' 6 6) (w.extractLsb' 0 6))
  | 19 => .ok (.vcmpEq p (w.getLsbD 31) (w.extractLsb' 18 3) (w.extractLsb' 12 6) (w.extractLsb' 6 6) (w.extractLsb' 0 6))
  | 51 => .ok (.vcmpEqS p (w.getLsbD 31) (w.extractLsb' 18 3) (w.extractLsb' 12 6) (w.extractLsb' 6 6) (w.extractLsb' 0 6))
  | 20 => .ok (.vcmpNe p (w.getLsbD 31) (w.extractLsb' 18 3) (w.extractLsb' 12 6) (w.extractLsb' 6 6) (w.extractLsb' 0 6))
  | 52 => .ok (.vcmpNeS p (w.getLsbD 31) (w.extractLsb' 18 3) (w.extractLsb' 12 6) (w.extractLsb' 6 6) (w.extractLsb' 0 6))
  | 21 => .ok (.vcmpLt p (w.getLsbD 31) (w.extractLsb' 18 3) (w.extractLsb' 12 6) (w.extractLsb' 6 6) (w.extractLsb' 0 6))
  | 53 => .ok (.vcmpLtS p (w.getLsbD 31) (w.extractLsb' 18 3) (w.extractLsb' 12 6) (w.extractLsb' 6 6) (w.extractLsb' 0 6))
  | 22 => .ok (.vcmpGe p (w.getLsbD 31) (w.extractLsb' 18 3) (w.extractLsb' 12 6) (w.extractLsb' 6 6) (w.extractLsb' 0 6))
  | 54 => .ok (.vcmpGeS p (w.getLsbD 31) (w.extractLsb' 18 3) (w.extractLsb' 12 6) (w.extractLsb' 6 6) (w.extractLsb' 0 6))
  | 23 => .ok (.vsel p (w.getLsbD 31) (w.extractLsb' 18 3) (w.extractLsb' 12 6) (w.extractLsb' 6 6) (w.extractLsb' 0 6))
  | 24 => if w.extractLsb' 0 6 ≠ 0 then .error 2 else .ok (.vabs p (w.getLsbD 31) (w.extractLsb' 18 3) (w.extractLsb' 12 6) (w.extractLsb' 6 6))
  | 25 => if w.extractLsb' 0 6 ≠ 0 then .error 2 else .ok (.vpopc p (w.getLsbD 31) (w.extractLsb' 18 3) (w.extractLsb' 12 6) (w.extractLsb' 6 6))
  | 26 => if w.extractLsb' 0 6 ≠ 0 then .error 2 else .ok (.vclz p (w.getLsbD 31) (w.extractLsb' 18 3) (w.extractLsb' 12 6) (w.extractLsb' 6 6))
  | 27 => if w.extractLsb' 18 3 ≠ 0 then .error 3 else .ok (.vbext p (w.getLsbD 31) (w.extractLsb' 12 6) (w.extractLsb' 6 6) (w.extractLsb' 0 6))
  | 28 => if w.extractLsb' 0 6 ≠ 0 then .error 2 else .ok (.vmov p (w.getLsbD 31) (w.extractLsb' 18 3) (w.extractLsb' 12 6) (w.extractLsb' 6 6))
  | 29 => if w.extractLsb' 6 6 ≠ 0 then .error 2 else .ok (.vmovs p (w.getLsbD 31) (w.extractLsb' 18 3) (w.extractLsb' 12 6) (w.extractLsb' 0 6))
  | _ => .error 1

/-- Class 3 (Table 2.7): the instruction of a word of this class, or the ILLEGAL_INSTR sub-code of R70 that rejects it. -/
def decodeFloat (p : Option Pre) (w : Word) : Except Nat Instr :=
  match (w.extractLsb' 21 6).toNat with
  | 0 => .ok (.vfadd p (w.getLsbD 31) (w.extractLsb' 18 3) (w.extractLsb' 12 6) (w.extractLsb' 6 6) (w.extractLsb' 0 6))
  | 32 => .ok (.vfaddS p (w.getLsbD 31) (w.extractLsb' 18 3) (w.extractLsb' 12 6) (w.extractLsb' 6 6) (w.extractLsb' 0 6))
  | 1 => .ok (.vfsub p (w.getLsbD 31) (w.extractLsb' 18 3) (w.extractLsb' 12 6) (w.extractLsb' 6 6) (w.extractLsb' 0 6))
  | 33 => .ok (.vfsubS p (w.getLsbD 31) (w.extractLsb' 18 3) (w.extractLsb' 12 6) (w.extractLsb' 6 6) (w.extractLsb' 0 6))
  | 2 => .ok (.vfmul p (w.getLsbD 31) (w.extractLsb' 18 3) (w.extractLsb' 12 6) (w.extractLsb' 6 6) (w.extractLsb' 0 6))
  | 34 => .ok (.vfmulS p (w.getLsbD 31) (w.extractLsb' 18 3) (w.extractLsb' 12 6) (w.extractLsb' 6 6) (w.extractLsb' 0 6))
  | 3 => .ok (.vffma p (w.getLsbD 31) (w.extractLsb' 18 3) (w.extractLsb' 12 6) (w.extractLsb' 6 6) (w.extractLsb' 0 6))
  | 35 => .ok (.vffmaS p (w.getLsbD 31) (w.extractLsb' 18 3) (w.extractLsb' 12 6) (w.extractLsb' 6 6) (w.extractLsb' 0 6))
  | 4 => .ok (.vfmin p (w.getLsbD 31) (w.extractLsb' 18 3) (w.extractLsb' 12 6) (w.extractLsb' 6 6) (w.extractLsb' 0 6))
  | 36 => .ok (.vfminS p (w.getLsbD 31) (w.extractLsb' 18 3) (w.extractLsb' 12 6) (w.extractLsb' 6 6) (w.extractLsb' 0 6))
  | 5 => .ok (.vfmax p (w.getLsbD 31) (w.extractLsb' 18 3) (w.extractLsb' 12 6) (w.extractLsb' 6 6) (w.extractLsb' 0 6))
  | 37 => .ok (.vfmaxS p (w.getLsbD 31) (w.extractLsb' 18 3) (w.extractLsb' 12 6) (w.extractLsb' 6 6) (w.extractLsb' 0 6))
  | 6 => if w.extractLsb' 0 6 ≠ 0 then .error 2 else .ok (.vfabs p (w.getLsbD 31) (w.extractLsb' 18 3) (w.extractLsb' 12 6) (w.extractLsb' 6 6))
  | 7 => if w.extractLsb' 0 6 ≠ 0 then .error 2 else .ok (.vfneg p (w.getLsbD 31) (w.extractLsb' 18 3) (w.extractLsb' 12 6) (w.extractLsb' 6 6))
  | 8 => .ok (.vfdiv p (w.getLsbD 31) (w.extractLsb' 18 3) (w.extractLsb' 12 6) (w.extractLsb' 6 6) (w.extractLsb' 0 6))
  | 9 => .ok (.vfscale p (w.getLsbD 31) (w.extractLsb' 18 3) (w.extractLsb' 12 6) (w.extractLsb' 6 6) (w.extractLsb' 0 6))
  | 10 => if w.extractLsb' 0 6 ≠ 0 then .error 2 else .ok (.vfround p (w.getLsbD 31) (w.extractLsb' 18 3) (w.extractLsb' 12 6) (w.extractLsb' 6 6))
  | 11 => if w.extractLsb' 0 6 ≠ 0 then .error 2 else .ok (.vfclass p (w.getLsbD 31) (w.extractLsb' 18 3) (w.extractLsb' 12 6) (w.extractLsb' 6 6))
  | 16 => .ok (.vfcmpEq p (w.getLsbD 31) (w.extractLsb' 18 3) (w.extractLsb' 12 6) (w.extractLsb' 6 6) (w.extractLsb' 0 6))
  | 17 => .ok (.vfcmpNe p (w.getLsbD 31) (w.extractLsb' 18 3) (w.extractLsb' 12 6) (w.extractLsb' 6 6) (w.extractLsb' 0 6))
  | 18 => .ok (.vfcmpLt p (w.getLsbD 31) (w.extractLsb' 18 3) (w.extractLsb' 12 6) (w.extractLsb' 6 6) (w.extractLsb' 0 6))
  | 19 => .ok (.vfcmpLe p (w.getLsbD 31) (w.extractLsb' 18 3) (w.extractLsb' 12 6) (w.extractLsb' 6 6) (w.extractLsb' 0 6))
  | 20 => .ok (.vfcmpUn p (w.getLsbD 31) (w.extractLsb' 18 3) (w.extractLsb' 12 6) (w.extractLsb' 6 6) (w.extractLsb' 0 6))
  | _ => .error 1

/-- Class 4 (Table 2.8): the instruction of a word of this class, or the ILLEGAL_INSTR sub-code of R70 that rejects it. -/
def decodeSpecial (p : Option Pre) (w : Word) : Except Nat Instr :=
  match (w.extractLsb' 21 6).toNat with
  | 0 => if w.extractLsb' 0 6 ≠ 0 then .error 2 else .ok (.vexp2 p (w.getLsbD 31) (w.extractLsb' 18 3) (w.extractLsb' 12 6) (w.extractLsb' 6 6))
  | 1 => if w.extractLsb' 0 6 ≠ 0 then .error 2 else .ok (.vexp p (w.getLsbD 31) (w.extractLsb' 18 3) (w.extractLsb' 12 6) (w.extractLsb' 6 6))
  | 2 => if w.extractLsb' 0 6 ≠ 0 then .error 2 else .ok (.vlog2 p (w.getLsbD 31) (w.extractLsb' 18 3) (w.extractLsb' 12 6) (w.extractLsb' 6 6))
  | 3 => if w.extractLsb' 0 6 ≠ 0 then .error 2 else .ok (.vln p (w.getLsbD 31) (w.extractLsb' 18 3) (w.extractLsb' 12 6) (w.extractLsb' 6 6))
  | 4 => if w.extractLsb' 0 6 ≠ 0 then .error 2 else .ok (.vrcp p (w.getLsbD 31) (w.extractLsb' 18 3) (w.extractLsb' 12 6) (w.extractLsb' 6 6))
  | 5 => if w.extractLsb' 0 6 ≠ 0 then .error 2 else .ok (.vrsqrt p (w.getLsbD 31) (w.extractLsb' 18 3) (w.extractLsb' 12 6) (w.extractLsb' 6 6))
  | 6 => if w.extractLsb' 0 6 ≠ 0 then .error 2 else .ok (.vsqrt p (w.getLsbD 31) (w.extractLsb' 18 3) (w.extractLsb' 12 6) (w.extractLsb' 6 6))
  | 7 => if w.extractLsb' 0 6 ≠ 0 then .error 2 else .ok (.vsin p (w.getLsbD 31) (w.extractLsb' 18 3) (w.extractLsb' 12 6) (w.extractLsb' 6 6))
  | 8 => if w.extractLsb' 0 6 ≠ 0 then .error 2 else .ok (.vcos p (w.getLsbD 31) (w.extractLsb' 18 3) (w.extractLsb' 12 6) (w.extractLsb' 6 6))
  | 9 => if w.extractLsb' 0 6 ≠ 0 then .error 2 else .ok (.vtanh p (w.getLsbD 31) (w.extractLsb' 18 3) (w.extractLsb' 12 6) (w.extractLsb' 6 6))
  | 10 => if w.extractLsb' 0 6 ≠ 0 then .error 2 else .ok (.vsigm p (w.getLsbD 31) (w.extractLsb' 18 3) (w.extractLsb' 12 6) (w.extractLsb' 6 6))
  | 11 => if w.extractLsb' 0 6 ≠ 0 then .error 2 else .ok (.verf p (w.getLsbD 31) (w.extractLsb' 18 3) (w.extractLsb' 12 6) (w.extractLsb' 6 6))
  | 32 => if w.extractLsb' 0 6 ≠ 0 then .error 2 else .ok (.vexp2Acc p (w.getLsbD 31) (w.extractLsb' 18 3) (w.extractLsb' 12 6) (w.extractLsb' 6 6))
  | 33 => if w.extractLsb' 0 6 ≠ 0 then .error 2 else .ok (.vexpAcc p (w.getLsbD 31) (w.extractLsb' 18 3) (w.extractLsb' 12 6) (w.extractLsb' 6 6))
  | 34 => if w.extractLsb' 0 6 ≠ 0 then .error 2 else .ok (.vlog2Acc p (w.getLsbD 31) (w.extractLsb' 18 3) (w.extractLsb' 12 6) (w.extractLsb' 6 6))
  | 35 => if w.extractLsb' 0 6 ≠ 0 then .error 2 else .ok (.vlnAcc p (w.getLsbD 31) (w.extractLsb' 18 3) (w.extractLsb' 12 6) (w.extractLsb' 6 6))
  | 36 => if w.extractLsb' 0 6 ≠ 0 then .error 2 else .ok (.vrcpAcc p (w.getLsbD 31) (w.extractLsb' 18 3) (w.extractLsb' 12 6) (w.extractLsb' 6 6))
  | 37 => if w.extractLsb' 0 6 ≠ 0 then .error 2 else .ok (.vrsqrtAcc p (w.getLsbD 31) (w.extractLsb' 18 3) (w.extractLsb' 12 6) (w.extractLsb' 6 6))
  | 38 => if w.extractLsb' 0 6 ≠ 0 then .error 2 else .ok (.vsqrtAcc p (w.getLsbD 31) (w.extractLsb' 18 3) (w.extractLsb' 12 6) (w.extractLsb' 6 6))
  | 39 => if w.extractLsb' 0 6 ≠ 0 then .error 2 else .ok (.vsinAcc p (w.getLsbD 31) (w.extractLsb' 18 3) (w.extractLsb' 12 6) (w.extractLsb' 6 6))
  | 40 => if w.extractLsb' 0 6 ≠ 0 then .error 2 else .ok (.vcosAcc p (w.getLsbD 31) (w.extractLsb' 18 3) (w.extractLsb' 12 6) (w.extractLsb' 6 6))
  | 41 => if w.extractLsb' 0 6 ≠ 0 then .error 2 else .ok (.vtanhAcc p (w.getLsbD 31) (w.extractLsb' 18 3) (w.extractLsb' 12 6) (w.extractLsb' 6 6))
  | 42 => if w.extractLsb' 0 6 ≠ 0 then .error 2 else .ok (.vsigmAcc p (w.getLsbD 31) (w.extractLsb' 18 3) (w.extractLsb' 12 6) (w.extractLsb' 6 6))
  | 43 => if w.extractLsb' 0 6 ≠ 0 then .error 2 else .ok (.verfAcc p (w.getLsbD 31) (w.extractLsb' 18 3) (w.extractLsb' 12 6) (w.extractLsb' 6 6))
  | 16 => if w.extractLsb' 3 3 ≠ 0 then .error 9 else .ok (.vcvt p (w.getLsbD 31) (w.extractLsb' 18 3) (w.extractLsb' 12 6) (w.extractLsb' 6 6) (w.extractLsb' 0 3))
  | 17 => .ok (.vqcvt p (w.getLsbD 31) (w.extractLsb' 19 2) (w.getLsbD 18) (w.extractLsb' 12 6) (w.extractLsb' 6 6) (w.extractLsb' 0 6))
  | 18 => .ok (.vdqcvt p (w.getLsbD 31) (w.extractLsb' 19 2) (w.getLsbD 18) (w.extractLsb' 12 6) (w.extractLsb' 6 6) (w.extractLsb' 0 6))
  | 19 => if w.extractLsb' 18 3 ≠ 0 then .error 3 else .ok (.vpackBp p (w.getLsbD 31) (w.extractLsb' 12 6) (w.extractLsb' 6 6) (w.extractLsb' 0 6))
  | 20 => if w.extractLsb' 18 3 ≠ 0 then .error 3 else .ok (.vunpackBp p (w.getLsbD 31) (w.extractLsb' 12 6) (w.extractLsb' 6 6) (w.extractLsb' 0 6))
  | _ => .error 1

/-- Class 5 (Table 2.9): the instruction of a word of this class, or the ILLEGAL_INSTR sub-code of R70 that rejects it. -/
def decodeCross (p : Option Pre) (w : Word) : Except Nat Instr :=
  match (w.extractLsb' 21 6).toNat with
  | 0 => .ok (.shfl p (w.getLsbD 31) (w.extractLsb' 18 3) (w.extractLsb' 12 6) (w.extractLsb' 6 6) (w.extractLsb' 0 6))
  | 1 => .ok (.shflUp p (w.getLsbD 31) (w.extractLsb' 18 3) (w.extractLsb' 12 6) (w.extractLsb' 6 6) (w.extractLsb' 0 6))
  | 2 => .ok (.shflDn p (w.getLsbD 31) (w.extractLsb' 18 3) (w.extractLsb' 12 6) (w.extractLsb' 6 6) (w.extractLsb' 0 6))
  | 3 => .ok (.shflX p (w.getLsbD 31) (w.extractLsb' 18 3) (w.extractLsb' 12 6) (w.extractLsb' 6 6) (w.extractLsb' 0 6))
  | 33 => .ok (.shflUpS p (w.getLsbD 31) (w.extractLsb' 18 3) (w.extractLsb' 12 6) (w.extractLsb' 6 6) (w.extractLsb' 0 6))
  | 34 => .ok (.shflDnS p (w.getLsbD 31) (w.extractLsb' 18 3) (w.extractLsb' 12 6) (w.extractLsb' 6 6) (w.extractLsb' 0 6))
  | 35 => .ok (.shflXS p (w.getLsbD 31) (w.extractLsb' 18 3) (w.extractLsb' 12 6) (w.extractLsb' 6 6) (w.extractLsb' 0 6))
  | 8 => if w.extractLsb' 0 6 ≠ 0 then .error 2 else if w.extractLsb' 18 3 ≠ 0 then .error 3 else .ok (.voteAny p (w.getLsbD 31) (w.extractLsb' 12 6) (w.extractLsb' 6 6))
  | 9 => if w.extractLsb' 0 6 ≠ 0 then .error 2 else if w.extractLsb' 18 3 ≠ 0 then .error 3 else .ok (.voteAll p (w.getLsbD 31) (w.extractLsb' 12 6) (w.extractLsb' 6 6))
  | 10 => if w.extractLsb' 0 6 ≠ 0 then .error 2 else if w.extractLsb' 18 3 ≠ 0 then .error 3 else .ok (.ballot p (w.getLsbD 31) (w.extractLsb' 12 6) (w.extractLsb' 6 6))
  | 16 => if w.extractLsb' 4 2 ≠ 0 then .error 9 else .ok (.vscan p (w.getLsbD 31) (w.extractLsb' 18 3) (w.extractLsb' 12 6) (w.extractLsb' 6 6) (w.getLsbD 3) (w.extractLsb' 0 3))
  | 18 => if w.getLsbD 3 then .error 3 else if w.extractLsb' 4 2 ≠ 0 then .error 9 else .ok (.vred p (w.getLsbD 31) (w.extractLsb' 18 3) (w.extractLsb' 12 6) (w.extractLsb' 6 6) (w.extractLsb' 0 3))
  | 24 => if w.extractLsb' 18 3 ≠ 0 then .error 3 else .ok (.vcarry p (w.getLsbD 31) (w.extractLsb' 12 6) (w.extractLsb' 6 6) (w.extractLsb' 0 6))
  | 25 => if w.extractLsb' 18 3 ≠ 1 then .error 3 else .ok (.ssi p (w.getLsbD 31) (w.extractLsb' 12 6) (w.extractLsb' 6 6) (w.extractLsb' 0 6))
  | 26 => if w.extractLsb' 6 6 ≠ 0 then .error 2 else if w.extractLsb' 0 6 ≠ 0 then .error 2 else if w.extractLsb' 18 3 ≠ 0 then .error 3 else .ok (.vlane p (w.getLsbD 31) (w.extractLsb' 12 6))
  | _ => .error 1

/-- Class 6 (Table 2.10): the instruction of a word of this class, or the ILLEGAL_INSTR sub-code of R70 that rejects it. -/
def decodeBig (w : Word) : Except Nat Instr :=
  match (w.extractLsb' 21 6).toNat with
  | 0 => if w.extractLsb' 18 3 ≠ 0 then .error 3 else .ok (.badd (w.getLsbD 31) (w.extractLsb' 12 6) (w.extractLsb' 6 6) (w.extractLsb' 0 6))
  | 1 => if w.extractLsb' 18 3 ≠ 0 then .error 3 else .ok (.bsub (w.getLsbD 31) (w.extractLsb' 12 6) (w.extractLsb' 6 6) (w.extractLsb' 0 6))
  | 2 => if w.extractLsb' 0 6 ≠ 0 then .error 2 else if w.extractLsb' 18 3 ≠ 0 then .error 3 else .ok (.bneg (w.getLsbD 31) (w.extractLsb' 12 6) (w.extractLsb' 6 6))
  | 3 => if w.extractLsb' 0 6 ≠ 0 then .error 2 else if w.extractLsb' 18 3 ≠ 0 then .error 3 else .ok (.babs (w.getLsbD 31) (w.extractLsb' 12 6) (w.extractLsb' 6 6))
  | 4 => if w.extractLsb' 18 3 ≠ 0 then .error 3 else .ok (.bcmp (w.getLsbD 31) (w.extractLsb' 12 6) (w.extractLsb' 6 6) (w.extractLsb' 0 6))
  | 5 =>
    match (w.extractLsb' 18 3).toNat with
    | 0 => .ok (.bshl (w.getLsbD 31) (w.extractLsb' 12 6) (w.extractLsb' 6 6) (w.extractLsb' 0 6))
    | 1 => .ok (.bshlI (w.getLsbD 31) (w.extractLsb' 12 6) (w.extractLsb' 6 6) (w.extractLsb' 0 6))
    | _ => .error 3
  | 6 =>
    match (w.extractLsb' 18 3).toNat with
    | 0 => .ok (.bshr (w.getLsbD 31) (w.extractLsb' 12 6) (w.extractLsb' 6 6) (w.extractLsb' 0 6))
    | 1 => .ok (.bshrI (w.getLsbD 31) (w.extractLsb' 12 6) (w.extractLsb' 6 6) (w.extractLsb' 0 6))
    | _ => .error 3
  | 7 => if w.extractLsb' 18 3 ≠ 0 then .error 3 else .ok (.bmult (w.getLsbD 31) (w.extractLsb' 12 6) (w.extractLsb' 6 6) (w.extractLsb' 0 6))
  | 8 => if w.extractLsb' 0 6 ≠ 0 then .error 2 else if w.extractLsb' 18 3 ≠ 0 then .error 3 else .ok (.bcres (w.getLsbD 31) (w.extractLsb' 12 6) (w.extractLsb' 6 6))
  | 9 => if w.extractLsb' 18 3 ≠ 0 then .error 3 else .ok (.bdiv (w.getLsbD 31) (w.extractLsb' 12 6) (w.extractLsb' 6 6) (w.extractLsb' 0 6))
  | 10 => if w.extractLsb' 18 3 ≠ 0 then .error 3 else .ok (.bmodb (w.getLsbD 31) (w.extractLsb' 12 6) (w.extractLsb' 6 6) (w.extractLsb' 0 6))
  | 11 => if w.extractLsb' 0 6 ≠ 0 then .error 2 else if w.extractLsb' 18 3 ≠ 0 then .error 3 else .ok (.bnorm (w.getLsbD 31) (w.extractLsb' 12 6) (w.extractLsb' 6 6))
  | 12 => if w.extractLsb' 0 6 ≠ 0 then .error 2 else if w.extractLsb' 18 3 ≠ 0 then .error 3 else .ok (.blen (w.getLsbD 31) (w.extractLsb' 12 6) (w.extractLsb' 6 6))
  | 13 => if w.extractLsb' 12 6 ≠ 0 then .error 2 else if w.extractLsb' 18 3 ≠ 0 then .error 3 else .ok (.bspill (w.getLsbD 31) (w.extractLsb' 6 6) (w.extractLsb' 0 6))
  | 14 => if w.extractLsb' 6 6 ≠ 0 then .error 2 else if w.extractLsb' 18 3 ≠ 0 then .error 3 else .ok (.bfill (w.getLsbD 31) (w.extractLsb' 12 6) (w.extractLsb' 0 6))
  | 16 => if w.extractLsb' 18 3 ≠ 0 then .error 3 else .ok (.bladd (w.getLsbD 31) (w.extractLsb' 12 6) (w.extractLsb' 6 6) (w.extractLsb' 0 6))
  | 17 => if w.extractLsb' 18 3 ≠ 0 then .error 3 else .ok (.blsub (w.getLsbD 31) (w.extractLsb' 12 6) (w.extractLsb' 6 6) (w.extractLsb' 0 6))
  | 18 => if w.extractLsb' 18 3 ≠ 0 then .error 3 else .ok (.blmul (w.getLsbD 31) (w.extractLsb' 12 6) (w.extractLsb' 6 6) (w.extractLsb' 0 6))
  | 19 => if w.extractLsb' 18 3 ≠ 0 then .error 3 else .ok (.blcmp (w.getLsbD 31) (w.extractLsb' 12 6) (w.extractLsb' 6 6) (w.extractLsb' 0 6))
  | 20 => if w.extractLsb' 18 3 ≠ 0 then .error 3 else .ok (.blshift (w.getLsbD 31) (w.extractLsb' 12 6) (w.extractLsb' 6 6) (w.extractLsb' 0 6))
  | 24 => if w.extractLsb' 18 3 ≠ 0 then .error 3 else .ok (.dotx (w.getLsbD 31) (w.extractLsb' 12 6) (w.extractLsb' 6 6) (w.extractLsb' 0 6))
  | 25 => if w.extractLsb' 0 6 ≠ 0 then .error 2 else if w.extractLsb' 18 3 ≠ 0 then .error 3 else .ok (.xround (w.getLsbD 31) (w.extractLsb' 12 6) (w.extractLsb' 6 6))
  | 26 => if w.extractLsb' 6 6 ≠ 0 then .error 2 else if w.extractLsb' 18 3 ≠ 0 then .error 3 else .ok (.bcvt (w.getLsbD 31) (w.extractLsb' 12 6) (w.extractLsb' 0 6))
  | _ => .error 1

/-- Class 7 (Table 2.11): the instruction of a word of this class, or the ILLEGAL_INSTR sub-code of R70 that rejects it. -/
def decodeTile (w : Word) : Except Nat Instr :=
  match (w.extractLsb' 23 4).toNat with
  | 0 => .ok (.mma (w.getLsbD 31) (w.extractLsb' 17 6) (w.extractLsb' 11 6) (w.extractLsb' 7 4) (w.extractLsb' 4 3) (w.extractLsb' 0 4))
  | 1 => if w.extractLsb' 4 3 ≠ 0 then .error 3 else .ok (.mmai (w.getLsbD 31) (w.extractLsb' 17 6) (w.extractLsb' 11 6) (w.extractLsb' 7 4) (w.extractLsb' 0 4))
  | 2 => if w.extractLsb' 5 6 ≠ 0 then .error 2 else if w.extractLsb' 0 5 ≠ 0 then .error 2 else .ok (.tshape (w.getLsbD 31) (w.extractLsb' 17 6) (w.extractLsb' 11 6))
  | 3 => if w.extractLsb' 3 2 ≠ 0 then .error 2 else .ok (.tload (w.getLsbD 31) (w.extractLsb' 17 6) (w.extractLsb' 11 6) (w.extractLsb' 5 6) (w.extractLsb' 0 3))
  | 4 => if w.extractLsb' 3 2 ≠ 0 then .error 2 else .ok (.tstore (w.getLsbD 31) (w.extractLsb' 17 6) (w.extractLsb' 11 6) (w.extractLsb' 5 6) (w.extractLsb' 0 3))
  | 5 => if w.extractLsb' 11 6 ≠ 0 then .error 2 else if w.extractLsb' 5 6 ≠ 0 then .error 2 else if w.extractLsb' 1 4 ≠ 0 then .error 2 else .ok (.tzero (w.getLsbD 31) (w.extractLsb' 17 6) (w.getLsbD 0))
  | 6 => if w.extractLsb' 11 6 ≠ 0 then .error 2 else if w.extractLsb' 5 6 ≠ 0 then .error 2 else if w.extractLsb' 0 5 ≠ 0 then .error 2 else .ok (.mprom (w.getLsbD 31) (w.extractLsb' 17 6))
  | 7 => if w.extractLsb' 3 2 ≠ 0 then .error 2 else .ok (.tdrain (w.getLsbD 31) (w.extractLsb' 17 6) (w.extractLsb' 11 6) (w.extractLsb' 5 6) (w.extractLsb' 0 3))
  | 8 => if w.extractLsb' 3 2 ≠ 0 then .error 2 else .ok (.tdrainRed (w.getLsbD 31) (w.extractLsb' 17 6) (w.extractLsb' 11 6) (w.extractLsb' 5 6) (w.extractLsb' 0 3))
  | 9 => if w.extractLsb' 5 6 ≠ 0 then .error 2 else if w.extractLsb' 0 5 ≠ 0 then .error 2 else .ok (.txpose (w.getLsbD 31) (w.extractLsb' 17 6) (w.extractLsb' 11 6))
  | 10 => if w.extractLsb' 5 6 ≠ 0 then .error 2 else if w.extractLsb' 0 5 ≠ 0 then .error 2 else .ok (.tscale (w.getLsbD 31) (w.extractLsb' 17 6) (w.extractLsb' 11 6))
  | 11 => if w.extractLsb' 5 6 ≠ 0 then .error 2 else if w.extractLsb' 3 2 ≠ 0 then .error 2 else .ok (.ttask (w.getLsbD 31) (w.extractLsb' 17 6) (w.extractLsb' 11 6) (w.extractLsb' 0 3))
  | 12 => if w.extractLsb' 0 5 ≠ 0 then .error 2 else .ok (.spmv (w.getLsbD 31) (w.extractLsb' 17 6) (w.extractLsb' 11 6) (w.extractLsb' 5 6))
  | 13 => if w.extractLsb' 0 5 ≠ 0 then .error 2 else .ok (.sptrsv (w.getLsbD 31) (w.extractLsb' 17 6) (w.extractLsb' 11 6) (w.extractLsb' 5 6))
  | 14 =>
    match (w.extractLsb' 0 5).toNat with
    | 0 => if w.extractLsb' 17 6 ≠ 0 then .error 2 else if w.extractLsb' 11 6 ≠ 0 then .error 2 else if w.extractLsb' 5 6 ≠ 0 then .error 2 else .ok (.reinsTake (w.getLsbD 31))
    | 1 => if w.extractLsb' 17 6 ≠ 0 then .error 2 else if w.extractLsb' 5 6 ≠ 0 then .error 2 else .ok (.reinsPass (w.getLsbD 31) (w.extractLsb' 11 6))
    | 2 => if w.extractLsb' 17 6 ≠ 0 then .error 2 else if w.extractLsb' 11 6 ≠ 0 then .error 2 else if w.extractLsb' 5 6 ≠ 0 then .error 2 else .ok (.reinsPassNext (w.getLsbD 31))
    | 3 => if w.extractLsb' 11 6 ≠ 0 then .error 2 else if w.extractLsb' 5 6 ≠ 0 then .error 2 else .ok (.reinsQuery (w.getLsbD 31) (w.extractLsb' 17 6))
    | _ => if w.extractLsb' 5 6 ≠ 0 then .error 2 else .error 3
  | _ => .error 1

/-- Class 8 (Table 2.12): the instruction of a word of this class, or the ILLEGAL_INSTR sub-code of R70 that rejects it. -/
def decodeMem (p : Option Pre) (w : Word) : Except Nat Instr :=
  match (w.extractLsb' 23 4).toNat with
  | 0 => .ok (.ld p (w.getLsbD 31) (w.extractLsb' 20 3) (w.extractLsb' 14 6) (w.extractLsb' 8 6) (w.extractLsb' 2 6) (w.extractLsb' 0 2))
  | 1 => .ok (.ld64 p (w.getLsbD 31) (w.extractLsb' 20 3) (w.extractLsb' 14 6) (w.extractLsb' 8 6) (w.extractLsb' 2 6) (w.extractLsb' 0 2))
  | 2 => .ok (.ld16 p (w.getLsbD 31) (w.extractLsb' 20 3) (w.extractLsb' 14 6) (w.extractLsb' 8 6) (w.extractLsb' 2 6) (w.extractLsb' 0 2))
  | 3 => .ok (.ld8 p (w.getLsbD 31) (w.extractLsb' 20 3) (w.extractLsb' 14 6) (w.extractLsb' 8 6) (w.extractLsb' 2 6) (w.extractLsb' 0 2))
  | 4 => .ok (.st p (w.getLsbD 31) (w.extractLsb' 20 3) (w.extractLsb' 14 6) (w.extractLsb' 8 6) (w.extractLsb' 2 6) (w.extractLsb' 0 2))
  | 5 => .ok (.st64 p (w.getLsbD 31) (w.extractLsb' 20 3) (w.extractLsb' 14 6) (w.extractLsb' 8 6) (w.extractLsb' 2 6) (w.extractLsb' 0 2))
  | 6 => .ok (.st16 p (w.getLsbD 31) (w.extractLsb' 20 3) (w.extractLsb' 14 6) (w.extractLsb' 8 6) (w.extractLsb' 2 6) (w.extractLsb' 0 2))
  | 7 => .ok (.st8 p (w.getLsbD 31) (w.extractLsb' 20 3) (w.extractLsb' 14 6) (w.extractLsb' 8 6) (w.extractLsb' 2 6) (w.extractLsb' 0 2))
  | 8 => .ok (.lds p (w.getLsbD 31) (w.extractLsb' 20 3) (w.extractLsb' 14 6) (w.extractLsb' 8 6) (w.extractLsb' 2 6) (w.extractLsb' 0 2))
  | 9 => .ok (.sts p (w.getLsbD 31) (w.extractLsb' 20 3) (w.extractLsb' 14 6) (w.extractLsb' 8 6) (w.extractLsb' 2 6) (w.extractLsb' 0 2))
  | 10 => .ok (.ldNc p (w.getLsbD 31) (w.extractLsb' 20 3) (w.extractLsb' 14 6) (w.extractLsb' 8 6) (w.extractLsb' 2 6) (w.extractLsb' 0 2))
  | 11 => if w.extractLsb' 14 6 ≠ 0 then .error 2 else .ok (.prefetch p (w.getLsbD 31) (w.extractLsb' 20 3) (w.extractLsb' 8 6) (w.extractLsb' 2 6) (w.extractLsb' 0 2))
  | 12 =>
    match (w.extractLsb' 14 6).toNat with
    | 0 => .ok (.hintNorm p (w.getLsbD 31) (w.extractLsb' 20 3) (w.extractLsb' 8 6) (w.extractLsb' 2 6) (w.extractLsb' 0 2))
    | 1 => .ok (.hintFirst p (w.getLsbD 31) (w.extractLsb' 20 3) (w.extractLsb' 8 6) (w.extractLsb' 2 6) (w.extractLsb' 0 2))
    | 2 => .ok (.hintLast p (w.getLsbD 31) (w.extractLsb' 20 3) (w.extractLsb' 8 6) (w.extractLsb' 2 6) (w.extractLsb' 0 2))
    | 3 => .ok (.hintLow p (w.getLsbD 31) (w.extractLsb' 20 3) (w.extractLsb' 8 6) (w.extractLsb' 2 6) (w.extractLsb' 0 2))
    | _ => .error 3
  | 13 => if w.extractLsb' 14 6 ≠ 0 then .error 2 else .ok (.cinv p (w.getLsbD 31) (w.extractLsb' 20 3) (w.extractLsb' 8 6) (w.extractLsb' 2 6) (w.extractLsb' 0 2))
  | 14 => if w.extractLsb' 14 6 ≠ 0 then .error 2 else .ok (.cflush p (w.getLsbD 31) (w.extractLsb' 20 3) (w.extractLsb' 8 6) (w.extractLsb' 2 6) (w.extractLsb' 0 2))
  | _ => .error 1

/-- Class 10 (Table 2.14): the instruction of a word of this class, or the ILLEGAL_INSTR sub-code of R70 that rejects it. -/
def decodeEngine (w : Word) : Except Nat Instr :=
  match (w.extractLsb' 19 8).toNat with
  | 0 => if w.extractLsb' 13 6 ≠ 0 then .error 2 else if w.extractLsb' 0 7 ≠ 0 then .error 2 else .ok (.eqw (w.getLsbD 31) (w.extractLsb' 19 2) (w.extractLsb' 7 6))
  | 1 => if w.extractLsb' 13 6 ≠ 0 then .error 2 else if w.extractLsb' 0 7 ≠ 0 then .error 2 else .ok (.eqw (w.getLsbD 31) (w.extractLsb' 19 2) (w.extractLsb' 7 6))
  | 2 => if w.extractLsb' 13 6 ≠ 0 then .error 2 else if w.extractLsb' 0 7 ≠ 0 then .error 2 else .ok (.eqw (w.getLsbD 31) (w.extractLsb' 19 2) (w.extractLsb' 7 6))
  | 3 => if w.extractLsb' 13 6 ≠ 0 then .error 2 else if w.extractLsb' 0 7 ≠ 0 then .error 2 else .ok (.eqw (w.getLsbD 31) (w.extractLsb' 19 2) (w.extractLsb' 7 6))
  | 8 => if w.extractLsb' 7 6 ≠ 0 then .error 2 else if w.extractLsb' 1 6 ≠ 0 then .error 2 else if w.extractLsb' 0 1 ≠ 0 then .error 2 else .ok (.eqgo (w.getLsbD 31) (w.extractLsb' 13 6))
  | 16 => if w.extractLsb' 13 6 ≠ 0 then .error 2 else if w.extractLsb' 1 6 ≠ 0 then .error 2 else if w.extractLsb' 0 1 ≠ 0 then .error 2 else .ok (.sleepu (w.getLsbD 31) (w.extractLsb' 7 6))
  | 17 => if w.extractLsb' 13 6 ≠ 0 then .error 2 else if w.extractLsb' 0 1 ≠ 0 then .error 2 else .ok (.sleepp (w.getLsbD 31) (w.extractLsb' 7 6) (w.extractLsb' 1 6))
  | 18 => if w.extractLsb' 7 6 ≠ 0 then .error 2 else if w.extractLsb' 0 1 ≠ 0 then .error 2 else .ok (.promiseChk (w.getLsbD 31) (w.extractLsb' 13 6) (w.extractLsb' 1 6))
  | 24 => if w.extractLsb' 7 6 ≠ 0 then .error 2 else if w.extractLsb' 1 6 ≠ 0 then .error 2 else if w.extractLsb' 0 1 ≠ 0 then .error 2 else .ok (.time (w.getLsbD 31) (w.extractLsb' 13 6))
  | 32 => if w.extractLsb' 1 6 ≠ 0 then .error 2 else if w.extractLsb' 0 1 ≠ 0 then .error 2 else .ok (.halloc (w.getLsbD 31) (w.extractLsb' 13 6) (w.extractLsb' 7 6))
  | 33 => if w.extractLsb' 13 6 ≠ 0 then .error 2 else if w.extractLsb' 1 6 ≠ 0 then .error 2 else if w.extractLsb' 0 1 ≠ 0 then .error 2 else .ok (.hfree (w.getLsbD 31) (w.extractLsb' 7 6))
  | _ => .error 1

/-- Class 11 (Table 2.15): the instruction of a word of this class, or the ILLEGAL_INSTR sub-code of R70 that rejects it. -/
def decodeSystem (w : Word) : Except Nat Instr :=
  match (w.extractLsb' 19 8).toNat with
  | 0 => if w.extractLsb' 1 6 ≠ 0 then .error 2 else if w.extractLsb' 0 1 ≠ 0 then .error 2 else .ok (.trap (w.getLsbD 31) (w.extractLsb' 7 12))
  | 1 => if w.extractLsb' 13 6 ≠ 0 then .error 2 else if w.extractLsb' 7 6 ≠ 0 then .error 2 else if w.extractLsb' 1 6 ≠ 0 then .error 2 else if w.extractLsb' 0 1 ≠ 0 then .error 2 else .ok (.brk (w.getLsbD 31))
  | 2 => if w.extractLsb' 13 6 ≠ 0 then .error 2 else if w.extractLsb' 1 6 ≠ 0 then .error 2 else if w.extractLsb' 0 1 ≠ 0 then .error 2 else .ok (.trace (w.getLsbD 31) (w.extractLsb' 7 6))
  | 8 => if w.extractLsb' 0 1 ≠ 0 then .error 2 else .ok (.sysrd (w.getLsbD 31) (w.extractLsb' 13 6) (w.extractLsb' 1 12))
  | 9 => if w.extractLsb' 0 1 ≠ 0 then .error 2 else .ok (.syswr (w.getLsbD 31) (w.extractLsb' 13 6) (w.extractLsb' 1 12))
  | 16 => if w.extractLsb' 13 6 ≠ 0 then .error 2 else if w.extractLsb' 7 6 ≠ 0 then .error 2 else if w.extractLsb' 1 6 ≠ 0 then .error 2 else if w.extractLsb' 0 1 ≠ 0 then .error 2 else .ok (.rte (w.getLsbD 31))
  | 17 => if w.extractLsb' 1 6 ≠ 0 then .error 2 else if w.extractLsb' 0 1 ≠ 0 then .error 2 else .ok (.segld (w.getLsbD 31) (w.extractLsb' 13 6) (w.extractLsb' 7 6))
  | 18 => if w.extractLsb' 13 6 ≠ 0 then .error 2 else if w.extractLsb' 0 1 ≠ 0 then .error 2 else .ok (.tlbinv (w.getLsbD 31) (w.extractLsb' 7 6) (w.extractLsb' 1 6))
  | _ => .error 1

/-- Class 12 (Table 2.16): the instruction of a word of this class, or the ILLEGAL_INSTR sub-code of R70 that rejects it. -/
def decodeTask (w : Word) : Except Nat Instr :=
  match (w.extractLsb' 19 8).toNat with
  | 0 => if w.extractLsb' 0 1 ≠ 0 then .error 2 else .ok (.spawn (w.getLsbD 31) (w.extractLsb' 13 6) (w.extractLsb' 7 6) (w.extractLsb' 1 6))
  | 1 => if w.extractLsb' 13 6 ≠ 0 then .error 2 else if w.extractLsb' 7 6 ≠ 0 then .error 2 else if w.extractLsb' 1 6 ≠ 0 then .error 2 else if w.extractLsb' 0 1 ≠ 0 then .error 2 else .ok (.phaseEnd (w.getLsbD 31))
  | 2 => if w.extractLsb' 1 6 ≠ 0 then .error 2 else if w.extractLsb' 0 1 ≠ 0 then .error 2 else .ok (.acqx (w.getLsbD 31) (w.extractLsb' 13 6) (w.extractLsb' 7 6))
  | 3 => if w.extractLsb' 13 6 ≠ 0 then .error 2 else if w.extractLsb' 1 6 ≠ 0 then .error 2 else if w.extractLsb' 0 1 ≠ 0 then .error 2 else .ok (.relx (w.getLsbD 31) (w.extractLsb' 7 6))
  | 4 => if w.extractLsb' 13 6 ≠ 0 then .error 2 else if w.extractLsb' 7 6 ≠ 0 then .error 2 else if w.extractLsb' 1 6 ≠ 0 then .error 2 else if w.extractLsb' 0 1 ≠ 0 then .error 2 else .ok (.yield (w.getLsbD 31))
  | 5 => if w.extractLsb' 7 6 ≠ 0 then .error 2 else if w.extractLsb' 1 6 ≠ 0 then .error 2 else if w.extractLsb' 0 1 ≠ 0 then .error 2 else .ok (.age (w.getLsbD 31) (w.extractLsb' 13 6))
  | 6 => if w.extractLsb' 7 6 ≠ 0 then .error 2 else if w.extractLsb' 0 1 ≠ 0 then .error 2 else .ok (.lvl (w.getLsbD 31) (w.extractLsb' 13 6) (w.extractLsb' 1 6))
  | _ => .error 1

/-- Class 9 (Table 2.13): the instruction of a word of this class, or the sub-code that rejects it. -/
def decodeAtomic (w : Word) : Except Nat Instr :=
  match (w.extractLsb' 24 3).toNat, (w.extractLsb' 21 3).toNat with
  | 0, 0 => .ok (.amoAdd (w.getLsbD 31) (w.extractLsb' 18 3) (w.extractLsb' 15 3) (w.extractLsb' 12 3) (w.extractLsb' 6 6) (w.extractLsb' 0 6))
  | 0, 1 => .ok (.amoMin (w.getLsbD 31) (w.extractLsb' 18 3) (w.extractLsb' 15 3) (w.extractLsb' 12 3) (w.extractLsb' 6 6) (w.extractLsb' 0 6))
  | 0, 2 => .ok (.amoMax (w.getLsbD 31) (w.extractLsb' 18 3) (w.extractLsb' 15 3) (w.extractLsb' 12 3) (w.extractLsb' 6 6) (w.extractLsb' 0 6))
  | 0, 3 => .ok (.amoAnd (w.getLsbD 31) (w.extractLsb' 18 3) (w.extractLsb' 15 3) (w.extractLsb' 12 3) (w.extractLsb' 6 6) (w.extractLsb' 0 6))
  | 0, 4 => .ok (.amoOr (w.getLsbD 31) (w.extractLsb' 18 3) (w.extractLsb' 15 3) (w.extractLsb' 12 3) (w.extractLsb' 6 6) (w.extractLsb' 0 6))
  | 0, 5 => .ok (.amoXor (w.getLsbD 31) (w.extractLsb' 18 3) (w.extractLsb' 15 3) (w.extractLsb' 12 3) (w.extractLsb' 6 6) (w.extractLsb' 0 6))
  | 0, 6 => .ok (.amoXchg (w.getLsbD 31) (w.extractLsb' 18 3) (w.extractLsb' 15 3) (w.extractLsb' 12 3) (w.extractLsb' 6 6) (w.extractLsb' 0 6))
  | 0, 7 => .ok (.amoCas (w.getLsbD 31) (w.extractLsb' 18 3) (w.extractLsb' 15 3) (w.extractLsb' 12 3) (w.extractLsb' 6 6) (w.extractLsb' 0 6))
  | 1, 0 => .ok (.redAdd (w.getLsbD 31) (w.extractLsb' 18 3) (w.extractLsb' 15 3) (w.extractLsb' 12 3) (w.extractLsb' 6 6) (w.extractLsb' 0 6))
  | 1, 1 => .ok (.redMin (w.getLsbD 31) (w.extractLsb' 18 3) (w.extractLsb' 15 3) (w.extractLsb' 12 3) (w.extractLsb' 6 6) (w.extractLsb' 0 6))
  | 1, 2 => .ok (.redMax (w.getLsbD 31) (w.extractLsb' 18 3) (w.extractLsb' 15 3) (w.extractLsb' 12 3) (w.extractLsb' 6 6) (w.extractLsb' 0 6))
  | 1, 3 => .ok (.redAnd (w.getLsbD 31) (w.extractLsb' 18 3) (w.extractLsb' 15 3) (w.extractLsb' 12 3) (w.extractLsb' 6 6) (w.extractLsb' 0 6))
  | 1, 4 => .ok (.redOr (w.getLsbD 31) (w.extractLsb' 18 3) (w.extractLsb' 15 3) (w.extractLsb' 12 3) (w.extractLsb' 6 6) (w.extractLsb' 0 6))
  | 1, 5 => .ok (.redXor (w.getLsbD 31) (w.extractLsb' 18 3) (w.extractLsb' 15 3) (w.extractLsb' 12 3) (w.extractLsb' 6 6) (w.extractLsb' 0 6))
  | 2, _ => if w.extractLsb' 19 2 ≠ 0 then .error 2 else .ok (.waitcmp (w.getLsbD 31) (w.extractLsb' 21 3) (w.getLsbD 18) (w.extractLsb' 15 3) (w.extractLsb' 12 3) (w.extractLsb' 6 6) (w.extractLsb' 0 6))
  | 3, 0 => if w.extractLsb' 18 3 ≠ 0 then .error 2 else if w.extractLsb' 15 3 ≠ 0 then .error 3 else .ok (.barInit (w.getLsbD 31) (w.extractLsb' 12 3) (w.extractLsb' 6 6) (w.extractLsb' 0 6))
  | 3, 1 => if w.extractLsb' 18 3 ≠ 0 then .error 2 else .ok (.barArrive (w.getLsbD 31) (w.extractLsb' 15 3) (w.extractLsb' 12 3) (w.extractLsb' 6 6) (w.extractLsb' 0 6))
  | 3, 2 => if w.extractLsb' 18 3 ≠ 0 then .error 2 else if w.extractLsb' 0 6 ≠ 0 then .error 2 else .ok (.barWait (w.getLsbD 31) (w.extractLsb' 15 3) (w.extractLsb' 12 3) (w.extractLsb' 6 6))
  | 3, 3 => if w.extractLsb' 18 3 ≠ 0 then .error 2 else if w.extractLsb' 15 3 ≠ 0 then .error 3 else .ok (.barExpect (w.getLsbD 31) (w.extractLsb' 12 3) (w.extractLsb' 6 6) (w.extractLsb' 0 6))
  | 4, 0 => if w.extractLsb' 18 3 ≠ 0 then .error 2 else if w.extractLsb' 0 15 ≠ 0 then .error 2 else .ok (.fence (w.getLsbD 31) (w.extractLsb' 15 3))
  | 4, 1 => if w.extractLsb' 18 3 ≠ 0 then .error 2 else if w.extractLsb' 0 15 ≠ 0 then .error 2 else .ok (.fenceSc (w.getLsbD 31) (w.extractLsb' 15 3))
  | 4, 2 => if w.extractLsb' 18 3 ≠ 0 then .error 2 else if w.extractLsb' 0 7 ≠ 0 then .error 2 else .ok (.xfence (w.getLsbD 31) (w.extractLsb' 15 3) (w.extractLsb' 11 4) (w.extractLsb' 7 4))
  | _, _ => .error 3

/-- The prefix word (R46, R48): its fields, or sub-code 5 when a code is not defined or bits [7:0] are nonzero. -/
def decodePre (w : Word) : Except Nat Pre :=
  if w.extractLsb' 0 8 ≠ 0 then .error 5
  else .ok { mask := w.extractLsb' 23 4, z := w.getLsbD 22, rnd := w.extractLsb' 19 3, vc := w.extractLsb' 13 6,
             sub := w.extractLsb' 10 3, sat := w.getLsbD 9, fill := w.getLsbD 8 }

/-- The clause header (R37), or sub-code 6. -/
def decodeHeader (w : Word) : Except Nat Instr :=
  let a := w.extractLsb' 7 4
  let b := w.extractLsb' 3 4
  if w.getLsbD 31 then .error 6
  else if w.extractLsb' 0 3 ≠ 0 then .error 6
  else .ok (.clauseStart (w.extractLsb' 23 4) (w.extractLsb' 11 12) a b)

/-- One word that is no prefix, with the prefix chained before it if there is one (R48: only a base of class 2, 3, 4, 5
or 8 takes a prefix). -/
def decodeBase (p : Option Pre) (w : Word) : Except DecodeError Instr :=
  let lift (r : Except Nat Instr) : Except DecodeError Instr :=
    match r with
    | .ok i => .ok i
    | .error n => .error (.illegal n false)
  let plain (r : Except Nat Instr) : Except DecodeError Instr :=
    if p.isSome then .error (.illegal 5 true) else lift r
  match wordClass w with
  | 0 => plain (decodeScalar w)
  | 1 => plain (decodeControl w)
  | 2 => lift (decodeInt p w)
  | 3 => lift (decodeFloat p w)
  | 4 => lift (decodeSpecial p w)
  | 5 => lift (decodeCross p w)
  | 6 => plain (decodeBig w)
  | 7 => plain (decodeTile w)
  | 8 => lift (decodeMem p w)
  | 9 => plain (decodeAtomic w)
  | 10 => plain (decodeEngine w)
  | 11 => plain (decodeSystem w)
  | 12 => plain (decodeTask w)
  | 15 => plain (decodeHeader w)
  | _ => if p.isSome then .error (.illegal 5 true) else .error (.illegal 0 false)

/-- The first instruction of a list of words, and the words after it (R46: a prefix modifies the word chained directly
after it; R48: a prefix with C = 0, a prefix before a prefix and a prefix with undefined codes are illegal). -/
def decodeWords : List Word → Except DecodeError (Instr × List Word)
  | [] => .error .short
  | w :: ws =>
    if wordClass w = 14 then
      match decodePre w with
      | .error n => .error (.illegal n true)
      | .ok p =>
        if wordChain w then
          match ws with
          | [] => .error .short
          | b :: rest =>
            if wordClass b = 14 then .error (.illegal 5 true)
            else match decodeBase (some p) b with
              | .ok i => .ok (i, rest)
              | .error e => .error e
        else .error (.illegal 5 true)
    else match decodeBase none w with
      | .ok i => .ok (i, ws)
      | .error e => .error e

/-- Decoding of a byte string (R6, R28). -/
def decodeBytes (bs : List Byte) : Except DecodeError (Instr × List Word) := decodeWords (wordsOfBytes bs)

/-- The instruction that the decoder reads from a table row's word, laid out in memory as R28 lays words out. -/
def decodeTableWord (nbits w : Nat) : Option Instr :=
  if nbits = 32 then
    match decodeBytes (bytesOfWord (BitVec.ofNat 32 w)) with
    | .ok (i, []) => some i
    | _ => none
  else none

/-! ## The encoder, from the formats of R50 -/

/-- F-S (R50). -/
def wordS (cls : BitVec 4) (c : Bool) (op : BitVec 8) (d a b : RegNo) (w : BitVec 1) : Word :=
  BitVec.ofBool c ++ cls ++ op ++ d ++ a ++ b ++ w

/-- F-S with the system register number in [12:1] (R67). -/
def wordR (cls : BitVec 4) (c : Bool) (op : BitVec 8) (d : RegNo) (r : BitVec 12) (w : BitVec 1) : Word :=
  BitVec.ofBool c ++ cls ++ op ++ d ++ r ++ w

/-- F-S with the trap code in [18:7] (R67). -/
def wordN (cls : BitVec 4) (c : Bool) (op : BitVec 8) (n : BitVec 12) (z : BitVec 7) : Word :=
  BitVec.ofBool c ++ cls ++ op ++ n ++ z

/-- F-SI (R50). -/
def wordSI (cls : BitVec 4) (c : Bool) (op : BitVec 5) (d : RegNo) (i : BitVec 16) : Word :=
  BitVec.ofBool c ++ cls ++ op ++ d ++ i

/-- F-V (R50). -/
def wordV (cls : BitVec 4) (c : Bool) (op : BitVec 6) (t : BitVec 3) (d a b : RegNo) : Word :=
  BitVec.ofBool c ++ cls ++ op ++ t ++ d ++ a ++ b

/-- F-M (R50). -/
def wordM (cls : BitVec 4) (c : Bool) (op : BitVec 4) (seg : BitVec 3) (d a b : RegNo) (l : BitVec 2) : Word :=
  BitVec.ofBool c ++ cls ++ op ++ seg ++ d ++ a ++ b ++ l

/-- F-A (R50). -/
def wordA (cls : BitVec 4) (c : Bool) (grp sub typ scope seg : BitVec 3) (x y : RegNo) : Word :=
  BitVec.ofBool c ++ cls ++ grp ++ sub ++ typ ++ scope ++ seg ++ x ++ y

/-- F-A with the paths of a fence (R65). -/
def wordF (cls : BitVec 4) (c : Bool) (grp sub typ scope : BitVec 3) (a b : BitVec 4) (z : BitVec 7) : Word :=
  BitVec.ofBool c ++ cls ++ grp ++ sub ++ typ ++ scope ++ a ++ b ++ z

/-- F-T (R50). -/
def wordT (cls : BitVec 4) (c : Bool) (op : BitVec 4) (a b : RegNo) (acc : BitVec 4) (p : BitVec 3)
    (q : BitVec 4) : Word :=
  BitVec.ofBool c ++ cls ++ op ++ a ++ b ++ acc ++ p ++ q

/-- F-TX (R50). -/
def wordTX (cls : BitVec 4) (c : Bool) (op : BitVec 4) (fa fb fc : RegNo) (g : BitVec 5) : Word :=
  BitVec.ofBool c ++ cls ++ op ++ fa ++ fb ++ fc ++ g

/-- The clause header (R37). -/
def wordHeader (l : BitVec 4) (w : BitVec 12) (a b : BitVec 4) : Word :=
  0#1 ++ 15#4 ++ l ++ w ++ a ++ b ++ 0#3

/-- The prefix word, chained (R46). -/
def wordPre (p : Pre) : Word :=
  1#1 ++ 14#4 ++ p.mask ++ BitVec.ofBool p.z ++ p.rnd ++ p.vc ++ p.sub ++ BitVec.ofBool p.sat ++ BitVec.ofBool p.fill
    ++ 0#8

/-- A base word with its prefix, if there is one, chained before it (R46). -/
def withPre (p : Option Pre) (w : Word) : List Word :=
  match p with
  | none => [w]
  | some q => [wordPre q, w]

/-- The words of an instruction; an event has none. -/
def encode (i : Instr) : List Word :=
  match i with
  | .clauseStart l w a b => [wordHeader l w a b]
  | .add c d a b w => [wordS 0 c 0#8 d a b (BitVec.ofBool w)]
  | .sub c d a b w => [wordS 0 c 1#8 d a b (BitVec.ofBool w)]
  | .addc c d a b w => [wordS 0 c 2#8 d a b (BitVec.ofBool w)]
  | .mul c d a b w => [wordS 0 c 3#8 d a b (BitVec.ofBool w)]
  | .mulh c d a b w => [wordS 0 c 4#8 d a b (BitVec.ofBool w)]
  | .mulhu c d a b w => [wordS 0 c 5#8 d a b (BitVec.ofBool w)]
  | .div c d a b w => [wordS 0 c 6#8 d a b (BitVec.ofBool w)]
  | .divu c d a b w => [wordS 0 c 7#8 d a b (BitVec.ofBool w)]
  | .rem c d a b w => [wordS 0 c 8#8 d a b (BitVec.ofBool w)]
  | .remu c d a b w => [wordS 0 c 9#8 d a b (BitVec.ofBool w)]
  | .and c d a b w => [wordS 0 c 16#8 d a b (BitVec.ofBool w)]
  | .or c d a b w => [wordS 0 c 17#8 d a b (BitVec.ofBool w)]
  | .xor c d a b w => [wordS 0 c 18#8 d a b (BitVec.ofBool w)]
  | .andn c d a b w => [wordS 0 c 19#8 d a b (BitVec.ofBool w)]
  | .shl c d a b w => [wordS 0 c 24#8 d a b (BitVec.ofBool w)]
  | .shr c d a b w => [wordS 0 c 25#8 d a b (BitVec.ofBool w)]
  | .sar c d a b w => [wordS 0 c 26#8 d a b (BitVec.ofBool w)]
  | .rol c d a b w => [wordS 0 c 27#8 d a b (BitVec.ofBool w)]
  | .min c d a b w => [wordS 0 c 32#8 d a b (BitVec.ofBool w)]
  | .max c d a b w => [wordS 0 c 33#8 d a b (BitVec.ofBool w)]
  | .minu c d a b w => [wordS 0 c 34#8 d a b (BitVec.ofBool w)]
  | .maxu c d a b w => [wordS 0 c 35#8 d a b (BitVec.ofBool w)]
  | .cmpEq c d a b w => [wordS 0 c 40#8 d a b (BitVec.ofBool w)]
  | .cmpNe c d a b w => [wordS 0 c 41#8 d a b (BitVec.ofBool w)]
  | .cmpLt c d a b w => [wordS 0 c 42#8 d a b (BitVec.ofBool w)]
  | .cmpGe c d a b w => [wordS 0 c 43#8 d a b (BitVec.ofBool w)]
  | .cmpLtu c d a b w => [wordS 0 c 44#8 d a b (BitVec.ofBool w)]
  | .cmpGeu c d a b w => [wordS 0 c 45#8 d a b (BitVec.ofBool w)]
  | .sel c d a b => [wordS 0 c 46#8 d a b 0#1]
  | .clz c d a w => [wordS 0 c 48#8 d a 0#6 (BitVec.ofBool w)]
  | .ctz c d a w => [wordS 0 c 49#8 d a 0#6 (BitVec.ofBool w)]
  | .popc c d a w => [wordS 0 c 50#8 d a 0#6 (BitVec.ofBool w)]
  | .bext c d a b => [wordS 0 c 56#8 d a b 0#1]
  | .bins c d a b => [wordS 0 c 57#8 d a b 0#1]
  | .mov c d a w => [wordS 0 c 63#8 d a 0#6 (BitVec.ofBool w)]
  | .addi c d i => [wordSI 1 c 0#5 d i]
  | .movi c d i => [wordSI 1 c 1#5 d i]
  | .movhi c d i => [wordSI 1 c 2#5 d i]
  | .andi c d i => [wordSI 1 c 3#5 d i]
  | .ori c d i => [wordSI 1 c 4#5 d i]
  | .xori c d i => [wordSI 1 c 5#5 d i]
  | .shli c d i => [wordSI 1 c 6#5 d (0#10 ++ i)]
  | .shri c d i => [wordSI 1 c 7#5 d (0#10 ++ i)]
  | .cmpiEq c d i => [wordSI 1 c 8#5 d i]
  | .cmpiNe c d i => [wordSI 1 c 9#5 d i]
  | .cmpiLt c d i => [wordSI 1 c 10#5 d i]
  | .cmpiGe c d i => [wordSI 1 c 11#5 d i]
  | .cmpiLtu c d i => [wordSI 1 c 12#5 d i]
  | .cmpiGeu c d i => [wordSI 1 c 13#5 d i]
  | .br c p => [wordSI 1 c 16#5 0#6 p]
  | .brc c d p => [wordSI 1 c 17#5 d p]
  | .brv c m p => [wordSI 1 c 18#5 m p]
  | .call c d p => [wordSI 1 c 19#5 d p]
  | .ret c d => [wordSI 1 c 20#5 d 0#16]
  | .jmpr c d => [wordSI 1 c 21#5 d 0#16]
  | .join c => [wordSI 1 c 22#5 0#6 0#16]
  | .regang c => [wordSI 1 c 23#5 0#6 0#16]
  | .regangRelease _ => []
  | .exit c => [wordSI 1 c 24#5 0#6 0#16]
  | .nop c => [wordSI 1 c 25#5 0#6 0#16]
  | .vadd p c t d a b => withPre p (wordV 2 c 0#6 t d a b)
  | .vaddS p c t d a s => withPre p (wordV 2 c 32#6 t d a s)
  | .vaddI p c t d a i => withPre p (wordV 2 c 56#6 t d a i)
  | .vsub p c t d a b => withPre p (wordV 2 c 1#6 t d a b)
  | .vsubS p c t d a s => withPre p (wordV 2 c 33#6 t d a s)
  | .vsubI p c t d a i => withPre p (wordV 2 c 57#6 t d a i)
  | .vmul p c t d a b => withPre p (wordV 2 c 2#6 t d a b)
  | .vmulS p c t d a s => withPre p (wordV 2 c 34#6 t d a s)
  | .vmulh p c t d a b => withPre p (wordV 2 c 3#6 t d a b)
  | .vmulhS p c t d a s => withPre p (wordV 2 c 35#6 t d a s)
  | .vmulhu p c d a b => withPre p (wordV 2 c 4#6 1#3 d a b)
  | .vmulhuS p c d a s => withPre p (wordV 2 c 36#6 1#3 d a s)
  | .vmad p c t d a b => withPre p (wordV 2 c 5#6 t d a b)
  | .vaddc p c d a b => withPre p (wordV 2 c 6#6 1#3 d a b)
  | .vsubc p c d a b => withPre p (wordV 2 c 7#6 1#3 d a b)
  | .vmulw p c t d a b => withPre p (wordV 2 c 8#6 t d a b)
  | .vand p c t d a b => withPre p (wordV 2 c 9#6 t d a b)
  | .vandS p c t d a s => withPre p (wordV 2 c 41#6 t d a s)
  | .vandI p c t d a i => withPre p (wordV 2 c 58#6 t d a i)
  | .vor p c t d a b => withPre p (wordV 2 c 10#6 t d a b)
  | .vorS p c t d a s => withPre p (wordV 2 c 42#6 t d a s)
  | .vorI p c t d a i => withPre p (wordV 2 c 59#6 t d a i)
  | .vxor p c t d a b => withPre p (wordV 2 c 11#6 t d a b)
  | .vxorS p c t d a s => withPre p (wordV 2 c 43#6 t d a s)
  | .vxorI p c t d a i => withPre p (wordV 2 c 60#6 t d a i)
  | .vshl p c t d a b => withPre p (wordV 2 c 12#6 t d a b)
  | .vshlS p c t d a s => withPre p (wordV 2 c 44#6 t d a s)
  | .vshlI p c t d a i => withPre p (wordV 2 c 61#6 t d a i)
  | .vshr p c t d a b => withPre p (wordV 2 c 13#6 t d a b)
  | .vshrS p c t d a s => withPre p (wordV 2 c 45#6 t d a s)
  | .vshrI p c t d a i => withPre p (wordV 2 c 62#6 t d a i)
  | .vsar p c t d a b => withPre p (wordV 2 c 14#6 t d a b)
  | .vsarS p c t d a s => withPre p (wordV 2 c 46#6 t d a s)
  | .vsarI p c t d a i => withPre p (wordV 2 c 63#6 t d a i)
  | .vmin p c t d a b => withPre p (wordV 2 c 15#6 t d a b)
  | .vminS p c t d a s => withPre p (wordV 2 c 47#6 t d a s)
  | .vmax p c t d a b => withPre p (wordV 2 c 16#6 t d a b)
  | .vmaxS p c t d a s => withPre p (wordV 2 c 48#6 t d a s)
  | .vminu p c d a b => withPre p (wordV 2 c 17#6 1#3 d a b)
  | .vminuS p c d a s => withPre p (wordV 2 c 49#6 1#3 d a s)
  | .vmaxu p c d a b => withPre p (wordV 2 c 18#6 1#3 d a b)
  | .vmaxuS p c d a s => withPre p (wordV 2 c 50#6 1#3 d a s)
  | .vcmpEq p c t m a b => withPre p (wordV 2 c 19#6 t m a b)
  | .vcmpEqS p c t m a s => withPre p (wordV 2 c 51#6 t m a s)
  | .vcmpNe p c t m a b => withPre p (wordV 2 c 20#6 t m a b)
  | .vcmpNeS p c t m a s => withPre p (wordV 2 c 52#6 t m a s)
  | .vcmpLt p c t m a b => withPre p (wordV 2 c 21#6 t m a b)
  | .vcmpLtS p c t m a s => withPre p (wordV 2 c 53#6 t m a s)
  | .vcmpGe p c t m a b => withPre p (wordV 2 c 22#6 t m a b)
  | .vcmpGeS p c t m a s => withPre p (wordV 2 c 54#6 t m a s)
  | .vsel p c t d a b => withPre p (wordV 2 c 23#6 t d a b)
  | .vabs p c t d a => withPre p (wordV 2 c 24#6 t d a 0#6)
  | .vpopc p c t d a => withPre p (wordV 2 c 25#6 t d a 0#6)
  | .vclz p c t d a => withPre p (wordV 2 c 26#6 t d a 0#6)
  | .vbext p c d a b => withPre p (wordV 2 c 27#6 0#3 d a b)
  | .vmov p c t d a => withPre p (wordV 2 c 28#6 t d a 0#6)
  | .vmovs p c t d s => withPre p (wordV 2 c 29#6 t d 0#6 s)
  | .vfadd p c t d a b => withPre p (wordV 3 c 0#6 t d a b)
  | .vfaddS p c t d a s => withPre p (wordV 3 c 32#6 t d a s)
  | .vfsub p c t d a b => withPre p (wordV 3 c 1#6 t d a b)
  | .vfsubS p c t d a s => withPre p (wordV 3 c 33#6 t d a s)
  | .vfmul p c t d a b => withPre p (wordV 3 c 2#6 t d a b)
  | .vfmulS p c t d a s => withPre p (wordV 3 c 34#6 t d a s)
  | .vffma p c t d a b => withPre p (wordV 3 c 3#6 t d a b)
  | .vffmaS p c t d a s => withPre p (wordV 3 c 35#6 t d a s)
  | .vfmin p c t d a b => withPre p (wordV 3 c 4#6 t d a b)
  | .vfminS p c t d a s => withPre p (wordV 3 c 36#6 t d a s)
  | .vfmax p c t d a b => withPre p (wordV 3 c 5#6 t d a b)
  | .vfmaxS p c t d a s => withPre p (wordV 3 c 37#6 t d a s)
  | .vfabs p c t d a => withPre p (wordV 3 c 6#6 t d a 0#6)
  | .vfneg p c t d a => withPre p (wordV 3 c 7#6 t d a 0#6)
  | .vfdiv p c t d a b => withPre p (wordV 3 c 8#6 t d a b)
  | .vfscale p c t d a b => withPre p (wordV 3 c 9#6 t d a b)
  | .vfround p c t d a => withPre p (wordV 3 c 10#6 t d a 0#6)
  | .vfclass p c t d a => withPre p (wordV 3 c 11#6 t d a 0#6)
  | .vfcmpEq p c t m a b => withPre p (wordV 3 c 16#6 t m a b)
  | .vfcmpNe p c t m a b => withPre p (wordV 3 c 17#6 t m a b)
  | .vfcmpLt p c t m a b => withPre p (wordV 3 c 18#6 t m a b)
  | .vfcmpLe p c t m a b => withPre p (wordV 3 c 19#6 t m a b)
  | .vfcmpUn p c t m a b => withPre p (wordV 3 c 20#6 t m a b)
  | .vexp2 p c t d a => withPre p (wordV 4 c 0#6 t d a 0#6)
  | .vexp p c t d a => withPre p (wordV 4 c 1#6 t d a 0#6)
  | .vlog2 p c t d a => withPre p (wordV 4 c 2#6 t d a 0#6)
  | .vln p c t d a => withPre p (wordV 4 c 3#6 t d a 0#6)
  | .vrcp p c t d a => withPre p (wordV 4 c 4#6 t d a 0#6)
  | .vrsqrt p c t d a => withPre p (wordV 4 c 5#6 t d a 0#6)
  | .vsqrt p c t d a => withPre p (wordV 4 c 6#6 t d a 0#6)
  | .vsin p c t d a => withPre p (wordV 4 c 7#6 t d a 0#6)
  | .vcos p c t d a => withPre p (wordV 4 c 8#6 t d a 0#6)
  | .vtanh p c t d a => withPre p (wordV 4 c 9#6 t d a 0#6)
  | .vsigm p c t d a => withPre p (wordV 4 c 10#6 t d a 0#6)
  | .verf p c t d a => withPre p (wordV 4 c 11#6 t d a 0#6)
  | .vexp2Acc p c t d a => withPre p (wordV 4 c 32#6 t d a 0#6)
  | .vexpAcc p c t d a => withPre p (wordV 4 c 33#6 t d a 0#6)
  | .vlog2Acc p c t d a => withPre p (wordV 4 c 34#6 t d a 0#6)
  | .vlnAcc p c t d a => withPre p (wordV 4 c 35#6 t d a 0#6)
  | .vrcpAcc p c t d a => withPre p (wordV 4 c 36#6 t d a 0#6)
  | .vrsqrtAcc p c t d a => withPre p (wordV 4 c 37#6 t d a 0#6)
  | .vsqrtAcc p c t d a => withPre p (wordV 4 c 38#6 t d a 0#6)
  | .vsinAcc p c t d a => withPre p (wordV 4 c 39#6 t d a 0#6)
  | .vcosAcc p c t d a => withPre p (wordV 4 c 40#6 t d a 0#6)
  | .vtanhAcc p c t d a => withPre p (wordV 4 c 41#6 t d a 0#6)
  | .vsigmAcc p c t d a => withPre p (wordV 4 c 42#6 t d a 0#6)
  | .verfAcc p c t d a => withPre p (wordV 4 c 43#6 t d a 0#6)
  | .vcvt p c t d a k => withPre p (wordV 4 c 16#6 t d a (0#3 ++ k))
  | .vqcvt p c g s d a b => withPre p (wordV 4 c 17#6 (g ++ BitVec.ofBool s) d a b)
  | .vdqcvt p c g s d a b => withPre p (wordV 4 c 18#6 (g ++ BitVec.ofBool s) d a b)
  | .vpackBp p c d a i => withPre p (wordV 4 c 19#6 0#3 d a i)
  | .vunpackBp p c d a i => withPre p (wordV 4 c 20#6 0#3 d a i)
  | .shfl p c t d a b => withPre p (wordV 5 c 0#6 t d a b)
  | .shflUp p c t d a i => withPre p (wordV 5 c 1#6 t d a i)
  | .shflDn p c t d a i => withPre p (wordV 5 c 2#6 t d a i)
  | .shflX p c t d a i => withPre p (wordV 5 c 3#6 t d a i)
  | .shflUpS p c t d a s => withPre p (wordV 5 c 33#6 t d a s)
  | .shflDnS p c t d a s => withPre p (wordV 5 c 34#6 t d a s)
  | .shflXS p c t d a s => withPre p (wordV 5 c 35#6 t d a s)
  | .voteAny p c d a => withPre p (wordV 5 c 8#6 0#3 d a 0#6)
  | .voteAll p c d a => withPre p (wordV 5 c 9#6 0#3 d a 0#6)
  | .ballot p c d a => withPre p (wordV 5 c 10#6 0#3 d a 0#6)
  | .vscan p c t d a x o => withPre p (wordV 5 c 16#6 t d a (0#2 ++ BitVec.ofBool x ++ o))
  | .vred p c t d a o => withPre p (wordV 5 c 18#6 t d a (0#3 ++ o))
  | .vcarry p c d a b => withPre p (wordV 5 c 24#6 0#3 d a b)
  | .ssi p c d a b => withPre p (wordV 5 c 25#6 1#3 d a b)
  | .vlane p c d => withPre p (wordV 5 c 26#6 0#3 d 0#6 0#6)
  | .badd c d a b => [wordV 6 c 0#6 0#3 d a b]
  | .bsub c d a b => [wordV 6 c 1#6 0#3 d a b]
  | .bneg c d a => [wordV 6 c 2#6 0#3 d a 0#6]
  | .babs c d a => [wordV 6 c 3#6 0#3 d a 0#6]
  | .bcmp c d a b => [wordV 6 c 4#6 0#3 d a b]
  | .bshl c d a s => [wordV 6 c 5#6 0#3 d a s]
  | .bshlI c d a i => [wordV 6 c 5#6 1#3 d a i]
  | .bshr c d a s => [wordV 6 c 6#6 0#3 d a s]
  | .bshrI c d a i => [wordV 6 c 6#6 1#3 d a i]
  | .bmult c d a b => [wordV 6 c 7#6 0#3 d a b]
  | .bcres c d a => [wordV 6 c 8#6 0#3 d a 0#6]
  | .bdiv c d a b => [wordV 6 c 9#6 0#3 d a b]
  | .bmodb c d a b => [wordV 6 c 10#6 0#3 d a b]
  | .bnorm c d a => [wordV 6 c 11#6 0#3 d a 0#6]
  | .blen c d a => [wordV 6 c 12#6 0#3 d a 0#6]
  | .bspill c a b => [wordV 6 c 13#6 0#3 0#6 a b]
  | .bfill c d b => [wordV 6 c 14#6 0#3 d 0#6 b]
  | .bladd c d a b => [wordV 6 c 16#6 0#3 d a b]
  | .blsub c d a b => [wordV 6 c 17#6 0#3 d a b]
  | .blmul c d a b => [wordV 6 c 18#6 0#3 d a b]
  | .blcmp c d a b => [wordV 6 c 19#6 0#3 d a b]
  | .blshift c d a b => [wordV 6 c 20#6 0#3 d a b]
  | .dotx c d a b => [wordV 6 c 24#6 0#3 d a b]
  | .xround c d a => [wordV 6 c 25#6 0#3 d a 0#6]
  | .bcvt c d s => [wordV 6 c 26#6 0#3 d 0#6 s]
  | .mma c a b acc p q => [wordT 7 c 0#4 a b acc p q]
  | .mmai c a b acc q => [wordT 7 c 1#4 a b acc 0#3 q]
  | .tshape c a b => [wordTX 7 c 2#4 a b 0#6 0#5]
  | .tload c a b f s => [wordTX 7 c 3#4 a b f (0#2 ++ s)]
  | .tstore c a b f s => [wordTX 7 c 4#4 a b f (0#2 ++ s)]
  | .tzero c a k => [wordTX 7 c 5#4 a 0#6 0#6 (0#4 ++ BitVec.ofBool k)]
  | .mprom c a => [wordTX 7 c 6#4 a 0#6 0#6 0#5]
  | .tdrain c a b f s => [wordTX 7 c 7#4 a b f (0#2 ++ s)]
  | .tdrainRed c a b f s => [wordTX 7 c 8#4 a b f (0#2 ++ s)]
  | .txpose c a b => [wordTX 7 c 9#4 a b 0#6 0#5]
  | .tscale c a b => [wordTX 7 c 10#4 a b 0#6 0#5]
  | .ttask c d a s => [wordTX 7 c 11#4 d a 0#6 (0#2 ++ s)]
  | .spmv c d a b => [wordTX 7 c 12#4 d a b 0#5]
  | .sptrsv c d a b => [wordTX 7 c 13#4 d a b 0#5]
  | .reinsTake c => [wordTX 7 c 14#4 0#6 0#6 0#6 0#5]
  | .reinsPass c a => [wordTX 7 c 14#4 0#6 a 0#6 1#5]
  | .reinsPassNext c => [wordTX 7 c 14#4 0#6 0#6 0#6 2#5]
  | .reinsQuery c d => [wordTX 7 c 14#4 d 0#6 0#6 3#5]
  | .reinsGrant _ => []
  | .ld p c s d a b l => withPre p (wordM 8 c 0#4 s d a b l)
  | .ld64 p c s d a b l => withPre p (wordM 8 c 1#4 s d a b l)
  | .ld16 p c s d a b l => withPre p (wordM 8 c 2#4 s d a b l)
  | .ld8 p c s d a b l => withPre p (wordM 8 c 3#4 s d a b l)
  | .st p c s d a b l => withPre p (wordM 8 c 4#4 s d a b l)
  | .st64 p c s d a b l => withPre p (wordM 8 c 5#4 s d a b l)
  | .st16 p c s d a b l => withPre p (wordM 8 c 6#4 s d a b l)
  | .st8 p c s d a b l => withPre p (wordM 8 c 7#4 s d a b l)
  | .lds p c s d a b l => withPre p (wordM 8 c 8#4 s d a b l)
  | .sts p c s d a b l => withPre p (wordM 8 c 9#4 s d a b l)
  | .ldNc p c s d a b l => withPre p (wordM 8 c 10#4 s d a b l)
  | .prefetch p c s a b l => withPre p (wordM 8 c 11#4 s 0#6 a b l)
  | .hintNorm p c s a b l => withPre p (wordM 8 c 12#4 s 0#6 a b l)
  | .hintFirst p c s a b l => withPre p (wordM 8 c 12#4 s 1#6 a b l)
  | .hintLast p c s a b l => withPre p (wordM 8 c 12#4 s 2#6 a b l)
  | .hintLow p c s a b l => withPre p (wordM 8 c 12#4 s 3#6 a b l)
  | .cinv p c s a b l => withPre p (wordM 8 c 13#4 s 0#6 a b l)
  | .cflush p c s a b l => withPre p (wordM 8 c 14#4 s 0#6 a b l)
  | .amoAdd c t p s d b => [wordA 9 c 0#3 0#3 t p s d b]
  | .amoMin c t p s d b => [wordA 9 c 0#3 1#3 t p s d b]
  | .amoMax c t p s d b => [wordA 9 c 0#3 2#3 t p s d b]
  | .amoAnd c t p s d b => [wordA 9 c 0#3 3#3 t p s d b]
  | .amoOr c t p s d b => [wordA 9 c 0#3 4#3 t p s d b]
  | .amoXor c t p s d b => [wordA 9 c 0#3 5#3 t p s d b]
  | .amoXchg c t p s d b => [wordA 9 c 0#3 6#3 t p s d b]
  | .amoCas c t p s d b => [wordA 9 c 0#3 7#3 t p s d b]
  | .redAdd c t p s d b => [wordA 9 c 1#3 0#3 t p s d b]
  | .redMin c t p s d b => [wordA 9 c 1#3 1#3 t p s d b]
  | .redMax c t p s d b => [wordA 9 c 1#3 2#3 t p s d b]
  | .redAnd c t p s d b => [wordA 9 c 1#3 3#3 t p s d b]
  | .redOr c t p s d b => [wordA 9 c 1#3 4#3 t p s d b]
  | .redXor c t p s d b => [wordA 9 c 1#3 5#3 t p s d b]
  | .waitcmp c u m p s a b => [wordA 9 c 2#3 u (0#2 ++ BitVec.ofBool m) p s a b]
  | .barInit c s a b => [wordA 9 c 3#3 0#3 0#3 0#3 s a b]
  | .barArrive c p s a b => [wordA 9 c 3#3 1#3 0#3 p s a b]
  | .barWait c p s a => [wordA 9 c 3#3 2#3 0#3 p s a 0#6]
  | .barExpect c s a b => [wordA 9 c 3#3 3#3 0#3 0#3 s a b]
  | .fence c p => [wordA 9 c 4#3 0#3 0#3 p 0#3 0#6 0#6]
  | .fenceSc c p => [wordA 9 c 4#3 1#3 0#3 p 0#3 0#6 0#6]
  | .xfence c p a b => [wordF 9 c 4#3 2#3 0#3 p a b 0#7]
  | .fenceScTick _ => []
  | .eqw c n a => [wordS 10 c (0#6 ++ n) 0#6 a 0#6 0#1]
  | .eqgo c d => [wordS 10 c 8#8 d 0#6 0#6 0#1]
  | .sleepu c a => [wordS 10 c 16#8 0#6 a 0#6 0#1]
  | .sleepp c a b => [wordS 10 c 17#8 0#6 a b 0#1]
  | .promiseChk c d b => [wordS 10 c 18#8 d 0#6 b 0#1]
  | .time c d => [wordS 10 c 24#8 d 0#6 0#6 0#1]
  | .halloc c d a => [wordS 10 c 32#8 d a 0#6 0#1]
  | .hfree c a => [wordS 10 c 33#8 0#6 a 0#6 0#1]
  | .sleepWake _ => []
  | .trap c n => [wordN 11 c 0#8 n 0#7]
  | .brk c => [wordS 11 c 1#8 0#6 0#6 0#6 0#1]
  | .trace c a => [wordS 11 c 2#8 0#6 a 0#6 0#1]
  | .sysrd c d r => [wordR 11 c 8#8 d r 0#1]
  | .syswr c d r => [wordR 11 c 9#8 d r 0#1]
  | .rte c => [wordS 11 c 16#8 0#6 0#6 0#6 0#1]
  | .segld c s a => [wordS 11 c 17#8 s a 0#6 0#1]
  | .tlbinv c a b => [wordS 11 c 18#8 0#6 a b 0#1]
  | .spawn c d a b => [wordS 12 c 0#8 d a b 0#1]
  | .phaseEnd c => [wordS 12 c 1#8 0#6 0#6 0#6 0#1]
  | .phaseCommit _ => []
  | .acqx c d a => [wordS 12 c 2#8 d a 0#6 0#1]
  | .acqxGrant _ => []
  | .acquireTimeout _ => []
  | .relx c a => [wordS 12 c 3#8 0#6 a 0#6 0#1]
  | .yield c => [wordS 12 c 4#8 0#6 0#6 0#6 0#1]
  | .age c d => [wordS 12 c 5#8 d 0#6 0#6 0#1]
  | .lvl c d l => [wordS 12 c 6#8 d 0#6 l 0#1]
  | .longOperationComplete _ => []
  | .spanPromotion _ => []
  | .trapEntry _ => []
  | .regionLimit _ => []
  | .accessAtHome _ _ => []
  | .atomicAtHome _ _ => []
  | .reductionCombine _ _ => []
  | .barrierDecrement _ _ => []
  | .sharerInvalidation _ _ => []
  | .invalidationConfirmation _ _ => []
  | .storeAcknowledgement _ _ => []
  | .regionClose _ => []
  | .monitorWake _ => []
  | .waitcmpTimeout _ => []
  | .barWaitRetest _ => []
  | .saddleTouch _ => []
  | .rollbackReplay _ => []
  | .translationWalk _ => []
  | .mscSectorWrite _ _ => []
  | .mscSectorRead _ _ => []
  | .mscWriteback _ => []
  | .dramBlockRead _ => []
  | .correctedWriteback _ => []
  | .scrubRead _ => []
  | .selfRefreshEntry _ => []
  | .selfRefreshExit _ => []
  | .drowsyBankDrop _ => []
  | .chainDemote _ => []
  | .chainSweep _ => []
  | .keySlotLoad _ _ => []
  | .timeoutDetectorExpiry _ => []
  | .misroute _ => []
  | .halterCapture _ => []
  | .halterRegenerate _ => []
  | .bridleReceive _ => []
  | .routerPowerGate _ _ => []
  | .routerWake _ _ => []
  | .girthRetrain _ _ => []
  | .girthLinkDown _ => []
  | .hitchRetrain _ => []
  | .hitchTimeout _ => []
  | .stitchRelink _ _ _ => []
  | .hostPostedWrite _ _ _ _ => []
  | .orderingPointRelease _ => []
  | .routeAcknowledgement _ _ => []
  | .hostReadRequest _ _ _ => []
  | .deviceWriteToHost _ => []
  | .launch _ _ => []
  | .signalOnly _ _ => []
  | .abortLaunch _ _ => []
  | .launchOutcome _ => []
  | .qtailDoorbell _ _ _ => []
  | .dwinWrite _ _ => []
  | .faultack _ => []
  | .fqtailWrite _ => []
  | .trtailWrite _ => []
  | .trdropRead => []
  | .bar0RegisterWrite _ _ _ => []
  | .attestationRequest _ => []
  | .coldReset _ _ => []
  | .timebaseSync _ _ => []
  | .ptpSourceLoss _ => []
  | .farrierSnapshot => []
  | .islandThrottle _ _ => []
  | .groomBoxWrite _ _ _ => []
  | .groomBoxFree _ _ => []
  | .bind _ _ => []
  | .preemptDecision _ _ _ => []
  | .preciseStop _ _ => []
  | .contextReset _ _ => []
  | .restore _ _ _ _ => []
  | .swapOut _ _ => []
  | .packhorseCopy _ _ => []
  | .packhorseStridedCopy _ _ => []
  | .packhorseFill _ _ => []
  | .placeScales _ _ => []
  | .trotterGather _ _ => []
  | .trotterScatter _ _ => []
  | .collectiveBroadcast _ _ => []
  | .collectiveAllGather _ _ => []
  | .collectiveAllReduce _ _ => []
  | .collectiveComplete _ _ => []
  | .carouselForward _ _ => []
  | .carouselInverse _ _ => []
  | .carouselPointwise _ _ => []
  | .engineCommandComplete _ _ => []
  | .hayloftRequest _ => []
  | .hayloftFree _ => []
  | .engineOperationAccept _ => []
  | .matrixOperationComplete _ => []
  | .tileUpdateApply _ => []
  | .starterDispatch _ => []
  | .taskComplete _ => []
  | .earlyDecrement _ => []
  | .illegalInstrWord _ => []
  | .deviceReadCompletion _ _ _ => []
  | .arrivalResponse _ => []
  | .orderlyShutdown => []
  | .sramSoftError _ => []
  | .unhandledTrapDiscard _ _ => []
  | .hitchDomainForm _ _ => []

end

end Sys2Proof
end

