-- ==== Sys2Proof/Machine/VecInt.lean ====
section
/-!
DEFINITION. Class 2, vector integer (R240 to R243): each element's exact result, narrowed once, in the lanes of R227.
-/

noncomputable section

namespace Sys2Proof.Machine

open Sys2Proof

/-! ## Elements and operands (R240) -/

/-- Width W of an element: types 0 i32, 1 n32, 2 i64, 3 i16x2, 4 i8x4. -/
def elemW (t : BitVec 3) : Nat :=
  match t.toNat with
  | 2 => 64
  | 3 => 16
  | 4 => 8
  | _ => 32

/-- Elements of a lane. -/
def elemN (t : BitVec 3) : Nat :=
  match t.toNat with
  | 3 => 2
  | 4 => 4
  | _ => 1

/-- Element k of a lane's value, as bits. -/
def elemAt (t : BitVec 3) (x k : Nat) : Nat := x / 2 ^ (elemW t * k) % 2 ^ elemW t

/-- The lane's value with elements f k. -/
def packElems (t : BitVec 3) (f : Nat → Nat) : Nat :=
  (List.range (elemN t)).foldl (fun a k => a + f k % 2 ^ elemW t * 2 ^ (elemW t * k)) 0

/-- An element as an integer: unsigned for n32, else two's complement. -/
def elemInt (t : BitVec 3) (x : Nat) : Int := if t == 1 then (x : Int) else sx x (elemW t)

/-- A lane of a vector operand: the register, or the pair for i64. -/
def State.vlaneVal (s : State) (t : BitVec 3) (n : RegNo) (i : Nat) : Nat :=
  if t == 2 then s.rl64 n i else (s.rl n i).toNat

/-- The second operand: vector, scalar, or immediate; the immediate is sign-extended except for shifts. -/
inductive Src where
  | vec (n : RegNo)
  | scalar (n : RegNo)
  | imm (i : BitVec 6)
  | count (i : BitVec 6)
  deriving DecidableEq, Repr

/-- The second operand's value in lane i (R240).  A negative imm6 of an n32 instruction is the unsigned element of its bits,
2^32 − k (DESIGN CHOICE, log 114). -/
def State.srcVal (s : State) (t : BitVec 3) (b : Src) (i : Nat) : Nat :=
  match b with
  | .vec n => s.vlaneVal t n i
  | .scalar n => if t == 2 then (s.rs n).toNat else (s.rs n).toNat % 2 ^ 32
  | .imm x => packElems t fun _ => wrapTo (elemW t) (sx x.toNat 6)
  | .count x => packElems t fun _ => x.toNat

/-! ## The general rule (R241) -/

/-- The lower and upper bound of an element's type. -/
def elemLo (t : BitVec 3) : Int := if t == 1 then 0 else -((2 ^ (elemW t - 1) : Nat) : Int)
/-- The upper bound. -/
def elemHi (t : BitVec 3) : Int :=
  if t == 1 then ((2 ^ elemW t : Nat) : Int) - 1 else ((2 ^ (elemW t - 1) : Nat) : Int) - 1

/-- Does an exact result leave the type's range? -/
def elemOut (t : BitVec 3) (x : Int) : Bool := decide (x < elemLo t) || decide (elemHi t < x)

/-- An exact result narrowed: clamped when sat, then mod 2^W. -/
def elemNarrow (t : BitVec 3) (sat : Bool) (x : Int) : Nat :=
  wrapTo (elemW t) (if sat then max (elemLo t) (min (elemHi t) x) else x)

/-- STATUS.SAT := 1. -/
def State.setSat (s : State) (b : Bool) : State :=
  if b then s.wstatus (statusOr s.sp.regs.status { FFlags.none with sat := true }) else s

/-- Writes each selected lane's elements x i k, narrowed (R241). -/
def State.elems (s : State) (p : Option Pre) (t : BitVec 3) (d : RegNo) (x : Nat → Nat → Int) : State :=
  let sel := s.selected p
  let sat := (preOf p).sat
  let z := (preOf p).z
  let val (i : Nat) : Nat := packElems t fun k => elemNarrow t sat (x i k)
  let s1 := if t == 2 then s.putPair d sel z val else s.putLanes d sel z fun i => BitVec.ofNat 32 (val i)
  s1.setSat (sat && (positions 32 (bitOn sel)).any fun i => (List.range (elemN t)).any fun k => elemOut t (x i k))

/-- The same for a result of two elements read as the type reads them. -/
def State.elems2 (s : State) (p : Option Pre) (t : BitVec 3) (d a : RegNo) (b : Src) (f : Int → Int → Int) : State :=
  s.elems p t d fun i k => f (elemInt t (elemAt t (s.vlaneVal t a i) k)) (elemInt t (elemAt t (s.srcVal t b i) k))

/-- The same for a result of two elements read as bits. -/
def State.bits2 (s : State) (p : Option Pre) (t : BitVec 3) (d a : RegNo) (b : Src) (f : Nat → Nat → Int) : State :=
  s.elems p t d fun i k => f (elemAt t (s.vlaneVal t a i) k) (elemAt t (s.srcVal t b i) k)

/-- The same for a result of one element. -/
def State.elems1 (s : State) (p : Option Pre) (t : BitVec 3) (d a : RegNo) (f : Nat → Int) : State :=
  s.elems p t d fun i k => f (elemAt t (s.vlaneVal t a i) k)

/-! ## The results of Table 8.7 -/

/-- floor(a × b / 2^W). -/
def mulHigh (t : BitVec 3) (a b : Int) : Int := a * b / ((2 ^ elemW t : Nat) : Int)

/-- a × 2^s, 0 from the width on. -/
def shlElem (t : BitVec 3) (a b : Nat) : Int := if elemW t ≤ b then 0 else ((a * 2 ^ b : Nat) : Int)

/-- floor(a / 2^s), a unsigned. -/
def shrElem (t : BitVec 3) (a b : Nat) : Int := if elemW t ≤ b then 0 else ((a / 2 ^ b : Nat) : Int)

/-- floor(a / 2^s), a signed. -/
def sarElem (t : BitVec 3) (a b : Nat) : Int :=
  let x := sx a (elemW t)
  if elemW t ≤ b then (if x < 0 then -1 else 0) else x / ((2 ^ b : Nat) : Int)

/-- `vbext`: (a div 2^p) mod 2^k. -/
def bextElem (a b : Nat) : Int :=
  let p := b % 32
  let k := min (b / 256 % 64) (32 - p)
  ((a / 2 ^ p % 2 ^ k : Nat) : Int)

/-- The addend register of `vmad` and `vffma` (R58). -/
def addend (p : Option Pre) (d : RegNo) : RegNo :=
  match p with
  | some q => q.vc
  | none => d

/-- A comparison of every element of a lane, into a mask register (R243). -/
def State.vcompare (s : State) (p : Option Pre) (t : BitVec 3) (m a : RegNo) (b : Src) (r : Int → Int → Bool) : State :=
  s.putMask m (s.selected p) (preOf p).z fun i =>
    (List.range (elemN t)).all fun k =>
      r (elemInt t (elemAt t (s.vlaneVal t a i) k)) (elemInt t (elemAt t (s.srcVal t b i) k))

/-- `vaddc` and `vsubc` (R242): the exact sum of each lane and its carry bit, through m15. -/
def State.carryLanes (s : State) (p : Option Pre) (d : RegNo) (x : Nat → Int) (carry : Int → Bool) : State :=
  let sel := s.selected p
  let z := (preOf p).z
  (s.putLanes d sel z fun i => BitVec.ofNat 32 (wrapTo 32 (x i))).putMask 15 sel z fun i => carry (x i)

/-- Bit i of m15 as a number. -/
def State.carryIn (s : State) (i : Nat) : Int := if bitOn (s.rm 15) i then 1 else 0

/-! ## The instructions -/

/-- `vadd (Table 8.7)` -/
def execVadd (p : Option Pre) (c : Bool) (t : BitVec 3) (d a b : RegNo) (s : State) : Host.Outcome State Fault Refusal :=
  s.issue1 (.vadd p c t d a b) fun q => q.elems2 p t d a (.vec b) fun x y => x + y

/-- `vadd with a scalar (Table 8.7)` -/
def execVaddS (p : Option Pre) (c : Bool) (t : BitVec 3) (d a x : RegNo) (s : State) : Host.Outcome State Fault Refusal :=
  s.issue1 (.vaddS p c t d a x) fun q => q.elems2 p t d a (.scalar x) fun x y => x + y

/-- `vadd with an immediate (Table 8.7)` -/
def execVaddI (p : Option Pre) (c : Bool) (t : BitVec 3) (d a : RegNo) (x : BitVec 6) (s : State) : Host.Outcome State Fault Refusal :=
  s.issue1 (.vaddI p c t d a x) fun q => q.elems2 p t d a (.imm x) fun x y => x + y

/-- `vsub (Table 8.7)` -/
def execVsub (p : Option Pre) (c : Bool) (t : BitVec 3) (d a b : RegNo) (s : State) : Host.Outcome State Fault Refusal :=
  s.issue1 (.vsub p c t d a b) fun q => q.elems2 p t d a (.vec b) fun x y => x - y

/-- `vsub with a scalar (Table 8.7)` -/
def execVsubS (p : Option Pre) (c : Bool) (t : BitVec 3) (d a x : RegNo) (s : State) : Host.Outcome State Fault Refusal :=
  s.issue1 (.vsubS p c t d a x) fun q => q.elems2 p t d a (.scalar x) fun x y => x - y

/-- `vsub with an immediate (Table 8.7)` -/
def execVsubI (p : Option Pre) (c : Bool) (t : BitVec 3) (d a : RegNo) (x : BitVec 6) (s : State) : Host.Outcome State Fault Refusal :=
  s.issue1 (.vsubI p c t d a x) fun q => q.elems2 p t d a (.imm x) fun x y => x - y

/-- `vmul (Table 8.7)` -/
def execVmul (p : Option Pre) (c : Bool) (t : BitVec 3) (d a b : RegNo) (s : State) : Host.Outcome State Fault Refusal :=
  s.issue1 (.vmul p c t d a b) fun q => q.elems2 p t d a (.vec b) fun x y => x * y

/-- `vmul with a scalar (Table 8.7)` -/
def execVmulS (p : Option Pre) (c : Bool) (t : BitVec 3) (d a x : RegNo) (s : State) : Host.Outcome State Fault Refusal :=
  s.issue1 (.vmulS p c t d a x) fun q => q.elems2 p t d a (.scalar x) fun x y => x * y

/-- `vmulh (Table 8.7)` -/
def execVmulh (p : Option Pre) (c : Bool) (t : BitVec 3) (d a b : RegNo) (s : State) : Host.Outcome State Fault Refusal :=
  s.issue1 (.vmulh p c t d a b) fun q => q.elems2 p t d a (.vec b) (mulHigh t)

/-- `vmulh with a scalar (Table 8.7)` -/
def execVmulhS (p : Option Pre) (c : Bool) (t : BitVec 3) (d a x : RegNo) (s : State) : Host.Outcome State Fault Refusal :=
  s.issue1 (.vmulhS p c t d a x) fun q => q.elems2 p t d a (.scalar x) (mulHigh t)

/-- `vmulhu (Table 8.7)` -/
def execVmulhu (p : Option Pre) (c : Bool) (d a b : RegNo) (s : State) : Host.Outcome State Fault Refusal :=
  s.issue1 (.vmulhu p c d a b) fun q => q.elems2 p 1 d a (.vec b) (mulHigh 1)

/-- `vmulhu with a scalar (Table 8.7)` -/
def execVmulhuS (p : Option Pre) (c : Bool) (d a x : RegNo) (s : State) : Host.Outcome State Fault Refusal :=
  s.issue1 (.vmulhuS p c d a x) fun q => q.elems2 p 1 d a (.scalar x) (mulHigh 1)

/-- `vmad (Table 8.7)` -/
def execVmad (p : Option Pre) (c : Bool) (t : BitVec 3) (d a b : RegNo) (s : State) : Host.Outcome State Fault Refusal :=
  s.issue1 (.vmad p c t d a b) fun q => q.elems p t d fun i k =>
    elemInt t (elemAt t (q.vlaneVal t a i) k) * elemInt t (elemAt t (q.vlaneVal t b i) k) +
      elemInt t (elemAt t (q.vlaneVal t (addend p d) i) k)

/-- `vaddc (R242)` -/
def execVaddc (p : Option Pre) (c : Bool) (d a b : RegNo) (s : State) : Host.Outcome State Fault Refusal :=
  s.issue1 (.vaddc p c d a b) fun q => q.carryLanes p d (fun i => ((q.rl a i).toNat + (q.rl b i).toNat : Nat) + q.carryIn i) fun x =>
    decide ((2 ^ 32 : Int) ≤ x)

/-- `vsubc (R242)` -/
def execVsubc (p : Option Pre) (c : Bool) (d a b : RegNo) (s : State) : Host.Outcome State Fault Refusal :=
  s.issue1 (.vsubc p c d a b) fun q => q.carryLanes p d (fun i => ((q.rl a i).toNat : Int) - (q.rl b i).toNat - q.carryIn i) fun x => decide (x < 0)

/-- `vmulw (R243)` -/
def execVmulw (p : Option Pre) (c : Bool) (t : BitVec 3) (d a b : RegNo) (s : State) : Host.Outcome State Fault Refusal :=
  s.issue1 (.vmulw p c t d a b) fun q => q.putPair d (q.selected p) (preOf p).z fun i =>
    wrapTo 64 (elemInt t (q.rl a i).toNat * elemInt t (q.rl b i).toNat)

/-- `vand (Table 8.7)` -/
def execVand (p : Option Pre) (c : Bool) (t : BitVec 3) (d a b : RegNo) (s : State) : Host.Outcome State Fault Refusal :=
  s.issue1 (.vand p c t d a b) fun q => q.bits2 p t d a (.vec b) fun x y => ((Nat.land x y : Nat) : Int)

/-- `vand with a scalar (Table 8.7)` -/
def execVandS (p : Option Pre) (c : Bool) (t : BitVec 3) (d a x : RegNo) (s : State) : Host.Outcome State Fault Refusal :=
  s.issue1 (.vandS p c t d a x) fun q => q.bits2 p t d a (.scalar x) fun x y => ((Nat.land x y : Nat) : Int)

/-- `vand with an immediate (Table 8.7)` -/
def execVandI (p : Option Pre) (c : Bool) (t : BitVec 3) (d a : RegNo) (x : BitVec 6) (s : State) : Host.Outcome State Fault Refusal :=
  s.issue1 (.vandI p c t d a x) fun q => q.bits2 p t d a (.imm x) fun x y => ((Nat.land x y : Nat) : Int)

/-- `vor (Table 8.7)` -/
def execVor (p : Option Pre) (c : Bool) (t : BitVec 3) (d a b : RegNo) (s : State) : Host.Outcome State Fault Refusal :=
  s.issue1 (.vor p c t d a b) fun q => q.bits2 p t d a (.vec b) fun x y => ((Nat.lor x y : Nat) : Int)

/-- `vor with a scalar (Table 8.7)` -/
def execVorS (p : Option Pre) (c : Bool) (t : BitVec 3) (d a x : RegNo) (s : State) : Host.Outcome State Fault Refusal :=
  s.issue1 (.vorS p c t d a x) fun q => q.bits2 p t d a (.scalar x) fun x y => ((Nat.lor x y : Nat) : Int)

/-- `vor with an immediate (Table 8.7)` -/
def execVorI (p : Option Pre) (c : Bool) (t : BitVec 3) (d a : RegNo) (x : BitVec 6) (s : State) : Host.Outcome State Fault Refusal :=
  s.issue1 (.vorI p c t d a x) fun q => q.bits2 p t d a (.imm x) fun x y => ((Nat.lor x y : Nat) : Int)

/-- `vxor (Table 8.7)` -/
def execVxor (p : Option Pre) (c : Bool) (t : BitVec 3) (d a b : RegNo) (s : State) : Host.Outcome State Fault Refusal :=
  s.issue1 (.vxor p c t d a b) fun q => q.bits2 p t d a (.vec b) fun x y => ((Nat.xor x y : Nat) : Int)

/-- `vxor with a scalar (Table 8.7)` -/
def execVxorS (p : Option Pre) (c : Bool) (t : BitVec 3) (d a x : RegNo) (s : State) : Host.Outcome State Fault Refusal :=
  s.issue1 (.vxorS p c t d a x) fun q => q.bits2 p t d a (.scalar x) fun x y => ((Nat.xor x y : Nat) : Int)

/-- `vxor with an immediate (Table 8.7)` -/
def execVxorI (p : Option Pre) (c : Bool) (t : BitVec 3) (d a : RegNo) (x : BitVec 6) (s : State) : Host.Outcome State Fault Refusal :=
  s.issue1 (.vxorI p c t d a x) fun q => q.bits2 p t d a (.imm x) fun x y => ((Nat.xor x y : Nat) : Int)

/-- `vshl (Table 8.7)` -/
def execVshl (p : Option Pre) (c : Bool) (t : BitVec 3) (d a b : RegNo) (s : State) : Host.Outcome State Fault Refusal :=
  s.issue1 (.vshl p c t d a b) fun q => q.bits2 p t d a (.vec b) (shlElem t)

/-- `vshl with a scalar (Table 8.7)` -/
def execVshlS (p : Option Pre) (c : Bool) (t : BitVec 3) (d a x : RegNo) (s : State) : Host.Outcome State Fault Refusal :=
  s.issue1 (.vshlS p c t d a x) fun q => q.bits2 p t d a (.scalar x) (shlElem t)

/-- `vshl with an immediate (Table 8.7)` -/
def execVshlI (p : Option Pre) (c : Bool) (t : BitVec 3) (d a : RegNo) (x : BitVec 6) (s : State) : Host.Outcome State Fault Refusal :=
  s.issue1 (.vshlI p c t d a x) fun q => q.bits2 p t d a (.count x) (shlElem t)

/-- `vshr (Table 8.7)` -/
def execVshr (p : Option Pre) (c : Bool) (t : BitVec 3) (d a b : RegNo) (s : State) : Host.Outcome State Fault Refusal :=
  s.issue1 (.vshr p c t d a b) fun q => q.bits2 p t d a (.vec b) (shrElem t)

/-- `vshr with a scalar (Table 8.7)` -/
def execVshrS (p : Option Pre) (c : Bool) (t : BitVec 3) (d a x : RegNo) (s : State) : Host.Outcome State Fault Refusal :=
  s.issue1 (.vshrS p c t d a x) fun q => q.bits2 p t d a (.scalar x) (shrElem t)

/-- `vshr with an immediate (Table 8.7)` -/
def execVshrI (p : Option Pre) (c : Bool) (t : BitVec 3) (d a : RegNo) (x : BitVec 6) (s : State) : Host.Outcome State Fault Refusal :=
  s.issue1 (.vshrI p c t d a x) fun q => q.bits2 p t d a (.count x) (shrElem t)

/-- `vsar (Table 8.7)` -/
def execVsar (p : Option Pre) (c : Bool) (t : BitVec 3) (d a b : RegNo) (s : State) : Host.Outcome State Fault Refusal :=
  s.issue1 (.vsar p c t d a b) fun q => q.bits2 p t d a (.vec b) (sarElem t)

/-- `vsar with a scalar (Table 8.7)` -/
def execVsarS (p : Option Pre) (c : Bool) (t : BitVec 3) (d a x : RegNo) (s : State) : Host.Outcome State Fault Refusal :=
  s.issue1 (.vsarS p c t d a x) fun q => q.bits2 p t d a (.scalar x) (sarElem t)

/-- `vsar with an immediate (Table 8.7)` -/
def execVsarI (p : Option Pre) (c : Bool) (t : BitVec 3) (d a : RegNo) (x : BitVec 6) (s : State) : Host.Outcome State Fault Refusal :=
  s.issue1 (.vsarI p c t d a x) fun q => q.bits2 p t d a (.count x) (sarElem t)

/-- `vmin (Table 8.7)` -/
def execVmin (p : Option Pre) (c : Bool) (t : BitVec 3) (d a b : RegNo) (s : State) : Host.Outcome State Fault Refusal :=
  s.issue1 (.vmin p c t d a b) fun q => q.elems2 p t d a (.vec b) min

/-- `vmin with a scalar (Table 8.7)` -/
def execVminS (p : Option Pre) (c : Bool) (t : BitVec 3) (d a x : RegNo) (s : State) : Host.Outcome State Fault Refusal :=
  s.issue1 (.vminS p c t d a x) fun q => q.elems2 p t d a (.scalar x) min

/-- `vmax (Table 8.7)` -/
def execVmax (p : Option Pre) (c : Bool) (t : BitVec 3) (d a b : RegNo) (s : State) : Host.Outcome State Fault Refusal :=
  s.issue1 (.vmax p c t d a b) fun q => q.elems2 p t d a (.vec b) max

/-- `vmax with a scalar (Table 8.7)` -/
def execVmaxS (p : Option Pre) (c : Bool) (t : BitVec 3) (d a x : RegNo) (s : State) : Host.Outcome State Fault Refusal :=
  s.issue1 (.vmaxS p c t d a x) fun q => q.elems2 p t d a (.scalar x) max

/-- `vminu (Table 8.7)` -/
def execVminu (p : Option Pre) (c : Bool) (d a b : RegNo) (s : State) : Host.Outcome State Fault Refusal :=
  s.issue1 (.vminu p c d a b) fun q => q.elems2 p 1 d a (.vec b) min

/-- `vminu with a scalar (Table 8.7)` -/
def execVminuS (p : Option Pre) (c : Bool) (d a x : RegNo) (s : State) : Host.Outcome State Fault Refusal :=
  s.issue1 (.vminuS p c d a x) fun q => q.elems2 p 1 d a (.scalar x) min

/-- `vmaxu (Table 8.7)` -/
def execVmaxu (p : Option Pre) (c : Bool) (d a b : RegNo) (s : State) : Host.Outcome State Fault Refusal :=
  s.issue1 (.vmaxu p c d a b) fun q => q.elems2 p 1 d a (.vec b) max

/-- `vmaxu with a scalar (Table 8.7)` -/
def execVmaxuS (p : Option Pre) (c : Bool) (d a x : RegNo) (s : State) : Host.Outcome State Fault Refusal :=
  s.issue1 (.vmaxuS p c d a x) fun q => q.elems2 p 1 d a (.scalar x) max

/-- `vcmp.eq (R243)` -/
def execVcmpEq (p : Option Pre) (c : Bool) (t : BitVec 3) (m a b : RegNo) (s : State) : Host.Outcome State Fault Refusal :=
  s.issue1 (.vcmpEq p c t m a b) fun q => q.vcompare p t m a (.vec b) fun x y => x == y

/-- `vcmp.eq with a scalar (R243)` -/
def execVcmpEqS (p : Option Pre) (c : Bool) (t : BitVec 3) (m a b : RegNo) (s : State) : Host.Outcome State Fault Refusal :=
  s.issue1 (.vcmpEqS p c t m a b) fun q => q.vcompare p t m a (.scalar b) fun x y => x == y

/-- `vcmp.ne (R243)` -/
def execVcmpNe (p : Option Pre) (c : Bool) (t : BitVec 3) (m a b : RegNo) (s : State) : Host.Outcome State Fault Refusal :=
  s.issue1 (.vcmpNe p c t m a b) fun q => q.vcompare p t m a (.vec b) fun x y => x != y

/-- `vcmp.ne with a scalar (R243)` -/
def execVcmpNeS (p : Option Pre) (c : Bool) (t : BitVec 3) (m a b : RegNo) (s : State) : Host.Outcome State Fault Refusal :=
  s.issue1 (.vcmpNeS p c t m a b) fun q => q.vcompare p t m a (.scalar b) fun x y => x != y

/-- `vcmp.lt (R243)` -/
def execVcmpLt (p : Option Pre) (c : Bool) (t : BitVec 3) (m a b : RegNo) (s : State) : Host.Outcome State Fault Refusal :=
  s.issue1 (.vcmpLt p c t m a b) fun q => q.vcompare p t m a (.vec b) fun x y => decide (x < y)

/-- `vcmp.lt with a scalar (R243)` -/
def execVcmpLtS (p : Option Pre) (c : Bool) (t : BitVec 3) (m a b : RegNo) (s : State) : Host.Outcome State Fault Refusal :=
  s.issue1 (.vcmpLtS p c t m a b) fun q => q.vcompare p t m a (.scalar b) fun x y => decide (x < y)

/-- `vcmp.ge (R243)` -/
def execVcmpGe (p : Option Pre) (c : Bool) (t : BitVec 3) (m a b : RegNo) (s : State) : Host.Outcome State Fault Refusal :=
  s.issue1 (.vcmpGe p c t m a b) fun q => q.vcompare p t m a (.vec b) fun x y => decide (y ≤ x)

/-- `vcmp.ge with a scalar (R243)` -/
def execVcmpGeS (p : Option Pre) (c : Bool) (t : BitVec 3) (m a b : RegNo) (s : State) : Host.Outcome State Fault Refusal :=
  s.issue1 (.vcmpGeS p c t m a b) fun q => q.vcompare p t m a (.scalar b) fun x y => decide (y ≤ x)

/-- `vsel (R243)` -/
def execVsel (p : Option Pre) (c : Bool) (t : BitVec 3) (d a b : RegNo) (s : State) : Host.Outcome State Fault Refusal :=
  s.issue1 (.vsel p c t d a b) fun q =>
    let m := q.rm (preOf p).mask.toNat
    let val (i : Nat) : Nat := if bitOn m i then q.vlaneVal t a i else q.vlaneVal t b i
    if t == 2 then q.putPair d q.enabled false val else q.putLanes d q.enabled false fun i => BitVec.ofNat 32 (val i)

/-- `vabs (Table 8.7)` -/
def execVabs (p : Option Pre) (c : Bool) (t : BitVec 3) (d a : RegNo) (s : State) : Host.Outcome State Fault Refusal :=
  s.issue1 (.vabs p c t d a) fun q => q.elems1 p t d a fun x => ((sx x (elemW t)).natAbs : Int)

/-- `vpopc (Table 8.7)` -/
def execVpopc (p : Option Pre) (c : Bool) (t : BitVec 3) (d a : RegNo) (s : State) : Host.Outcome State Fault Refusal :=
  s.issue1 (.vpopc p c t d a) fun q => q.elems1 p t d a fun x => ((popcOf (elemW t) x : Nat) : Int)

/-- `vclz (Table 8.7)` -/
def execVclz (p : Option Pre) (c : Bool) (t : BitVec 3) (d a : RegNo) (s : State) : Host.Outcome State Fault Refusal :=
  s.issue1 (.vclz p c t d a) fun q => q.elems1 p t d a fun x => ((clzOf (elemW t) x : Nat) : Int)

/-- `vbext (Table 8.7)` -/
def execVbext (p : Option Pre) (c : Bool) (d a b : RegNo) (s : State) : Host.Outcome State Fault Refusal :=
  s.issue1 (.vbext p c d a b) fun q => q.bits2 p 0 d a (.vec b) bextElem

/-- `vmov (Table 8.7)` -/
def execVmov (p : Option Pre) (c : Bool) (t : BitVec 3) (d a : RegNo) (s : State) : Host.Outcome State Fault Refusal :=
  s.issue1 (.vmov p c t d a) fun q => q.elems1 p t d a fun x => (x : Int)

/-- `vmovs (R243)` -/
def execVmovs (p : Option Pre) (c : Bool) (t : BitVec 3) (d a : RegNo) (s : State) : Host.Outcome State Fault Refusal :=
  s.issue1 (.vmovs p c t d a) fun q => q.elems p t d fun _ _ => ((q.srcVal t (.scalar a) 0 : Nat) : Int)

end Sys2Proof.Machine

end
end

