-- ==== Sys2Proof/Machine/VecFp.lean ====
section
/-!
DEFINITION. Class 3, vector floating point (R244, R245): each element's rounded result and flags, in the lanes of R227.
-/

noncomputable section

namespace Sys2Proof.Machine

open Sys2Proof

/-- The format of a type code: 0 f64, 1 f32, 2 f16x2, 3 bf16x2 (R59). -/
def fpFmt (t : BitVec 3) : Fmt :=
  match t.toNat with
  | 0 => Fmt.f64
  | 1 => Fmt.f32
  | 2 => Fmt.f16
  | _ => Fmt.bf16

/-- Elements of a lane. -/
def fpN (t : BitVec 3) : Nat := if t == 2 || t == 3 then 2 else 1

/-- Element k of a lane's value. -/
def fpElem (t : BitVec 3) (x k : Nat) : Nat := x / 2 ^ ((fpFmt t).width * k) % 2 ^ (fpFmt t).width

/-- The lane's value with elements f k. -/
def fpPack (t : BitVec 3) (f : Nat → Nat) : Nat :=
  (List.range (fpN t)).foldl (fun a k => a + f k % 2 ^ (fpFmt t).width * 2 ^ ((fpFmt t).width * k)) 0

/-- A lane of a vector operand: the pair for f64. -/
def State.fpLane (s : State) (t : BitVec 3) (n : RegNo) (i : Nat) : Nat :=
  if t == 0 then s.rl64 n i else (s.rl n i).toNat

/-- The second operand in lane i: a register, or S(sb) in every lane. -/
def State.fpSrc (s : State) (t : BitVec 3) (b : Src) (i : Nat) : Nat :=
  match b with
  | .vec n => s.fpLane t n i
  | .scalar n => if t == 0 then (s.rs n).toNat else (s.rs n).toNat % 2 ^ 32
  | .imm _ => 0
  | .count _ => 0

/-- Element k of lane i as an exact value. -/
def State.fpVal (s : State) (t : BitVec 3) (n : RegNo) (i k : Nat) : FVal :=
  FVal.ofBits (fpFmt t) (fpElem t (s.fpLane t n i) k)

/-- The same for the second operand. -/
def State.fpSrcVal (s : State) (t : BitVec 3) (b : Src) (i k : Nat) : FVal :=
  FVal.ofBits (fpFmt t) (fpElem t (s.fpSrc t b i) k)

/-- Flags of a lane's elements together. -/
def laneFlags (n : Nat) (f : Nat → FFlags) : FFlags := (List.range n).foldl (fun a k => a.or (f k)) FFlags.none

/-- Writes each selected lane's elements f i k, with their flags (R226, R227). -/
def State.fpElems (s : State) (p : Option Pre) (t : BitVec 3) (d : RegNo) (f : Nat → Nat → Nat × FFlags) : State :=
  let sel := s.selected p
  let z := (preOf p).z
  s.withFlags sel (fun i => laneFlags (fpN t) fun k => (f i k).2) fun q =>
    if t == 0 then q.putPair d sel z fun i => (f i 0).1
    else q.putLanes d sel z fun i => BitVec.ofNat 32 (fpPack t fun k => (f i k).1)

/-- A result of two elements. -/
def State.fp2 (s : State) (p : Option Pre) (t : BitVec 3) (d a : RegNo) (b : Src)
    (f : Fmt → RMode → FVal → FVal → Nat × FFlags) : State :=
  s.fpElems p t d fun i k => f (fpFmt t) (s.mode p) (s.fpVal t a i k) (s.fpSrcVal t b i k)

/-- `vfmin` and `vfmax`: on encodings. -/
def State.fpMinMax (s : State) (p : Option Pre) (t : BitVec 3) (d a : RegNo) (b : Src) (wantMax : Bool) : State :=
  s.fpElems p t d fun i k =>
    fMinMax (fpFmt t) wantMax (fpElem t (s.fpLane t a i) k) (fpElem t (s.fpSrc t b i) k)

/-- `vffma`: one rounding; the addend by R58. -/
def State.fpFma (s : State) (p : Option Pre) (t : BitVec 3) (d a : RegNo) (b : Src) : State :=
  s.fpElems p t d fun i k =>
    fFma (fpFmt t) (s.mode p) (s.fpVal t a i k) (s.fpSrcVal t b i k) (s.fpVal t (addend p d) i k)

/-- A change of encodings that sets no flag. -/
def State.fpBits (s : State) (p : Option Pre) (t : BitVec 3) (d a : RegNo) (f : Nat → Nat) : State :=
  s.fpElems p t d fun i k => (f (fpElem t (s.fpLane t a i) k), FFlags.none)

/-- `vfcmp`: the relation in every element of the lane. -/
def State.fpCompare (s : State) (p : Option Pre) (t : BitVec 3) (m a b : RegNo) (r : FRel) : State :=
  let sel := s.selected p
  let res (i k : Nat) : Bool × FFlags := fCompare r (s.fpVal t a i k) (s.fpVal t b i k)
  s.withFlags sel (fun i => laneFlags (fpN t) fun k => (res i k).2) fun q =>
    q.putMask m sel (preOf p).z fun i => (List.range (fpN t)).all fun k => (res i k).1

/-- `vfadd (Table 8.8)` -/
def execVfadd (p : Option Pre) (c : Bool) (t : BitVec 3) (d a b : RegNo) (s : State) : Host.Outcome State Fault Refusal :=
  s.issue1 (.vfadd p c t d a b) fun q => q.fp2 p t d a (.vec b) fAdd

/-- `vfsub (Table 8.8)` -/
def execVfsub (p : Option Pre) (c : Bool) (t : BitVec 3) (d a b : RegNo) (s : State) : Host.Outcome State Fault Refusal :=
  s.issue1 (.vfsub p c t d a b) fun q => q.fp2 p t d a (.vec b) (fun f m x y => fAdd f m x y.neg)

/-- `vfmul (Table 8.8)` -/
def execVfmul (p : Option Pre) (c : Bool) (t : BitVec 3) (d a b : RegNo) (s : State) : Host.Outcome State Fault Refusal :=
  s.issue1 (.vfmul p c t d a b) fun q => q.fp2 p t d a (.vec b) fMul

/-- `vffma (Table 8.8)` -/
def execVffma (p : Option Pre) (c : Bool) (t : BitVec 3) (d a b : RegNo) (s : State) : Host.Outcome State Fault Refusal :=
  s.issue1 (.vffma p c t d a b) fun q => q.fpFma p t d a (.vec b)

/-- `vfmin (Table 8.8)` -/
def execVfmin (p : Option Pre) (c : Bool) (t : BitVec 3) (d a b : RegNo) (s : State) : Host.Outcome State Fault Refusal :=
  s.issue1 (.vfmin p c t d a b) fun q => q.fpMinMax p t d a (.vec b) false

/-- `vfmax (Table 8.8)` -/
def execVfmax (p : Option Pre) (c : Bool) (t : BitVec 3) (d a b : RegNo) (s : State) : Host.Outcome State Fault Refusal :=
  s.issue1 (.vfmax p c t d a b) fun q => q.fpMinMax p t d a (.vec b) true

/-- `vfadd with a scalar (Table 8.8)` -/
def execVfaddS (p : Option Pre) (c : Bool) (t : BitVec 3) (d a b : RegNo) (s : State) : Host.Outcome State Fault Refusal :=
  s.issue1 (.vfaddS p c t d a b) fun q => q.fp2 p t d a (.scalar b) fAdd

/-- `vfsub with a scalar (Table 8.8)` -/
def execVfsubS (p : Option Pre) (c : Bool) (t : BitVec 3) (d a b : RegNo) (s : State) : Host.Outcome State Fault Refusal :=
  s.issue1 (.vfsubS p c t d a b) fun q => q.fp2 p t d a (.scalar b) (fun f m x y => fAdd f m x y.neg)

/-- `vfmul with a scalar (Table 8.8)` -/
def execVfmulS (p : Option Pre) (c : Bool) (t : BitVec 3) (d a b : RegNo) (s : State) : Host.Outcome State Fault Refusal :=
  s.issue1 (.vfmulS p c t d a b) fun q => q.fp2 p t d a (.scalar b) fMul

/-- `vffma with a scalar (Table 8.8)` -/
def execVffmaS (p : Option Pre) (c : Bool) (t : BitVec 3) (d a b : RegNo) (s : State) : Host.Outcome State Fault Refusal :=
  s.issue1 (.vffmaS p c t d a b) fun q => q.fpFma p t d a (.scalar b)

/-- `vfmin with a scalar (Table 8.8)` -/
def execVfminS (p : Option Pre) (c : Bool) (t : BitVec 3) (d a b : RegNo) (s : State) : Host.Outcome State Fault Refusal :=
  s.issue1 (.vfminS p c t d a b) fun q => q.fpMinMax p t d a (.scalar b) false

/-- `vfmax with a scalar (Table 8.8)` -/
def execVfmaxS (p : Option Pre) (c : Bool) (t : BitVec 3) (d a b : RegNo) (s : State) : Host.Outcome State Fault Refusal :=
  s.issue1 (.vfmaxS p c t d a b) fun q => q.fpMinMax p t d a (.scalar b) true

/-- `vfabs (Table 8.8)` -/
def execVfabs (p : Option Pre) (c : Bool) (t : BitVec 3) (d a : RegNo) (s : State) : Host.Outcome State Fault Refusal :=
  s.issue1 (.vfabs p c t d a) fun q => q.fpBits p t d a fun x => x % (fpFmt t).signBit

/-- `vfneg (Table 8.8)` -/
def execVfneg (p : Option Pre) (c : Bool) (t : BitVec 3) (d a : RegNo) (s : State) : Host.Outcome State Fault Refusal :=
  s.issue1 (.vfneg p c t d a) fun q => q.fpBits p t d a fun x => Nat.xor x (fpFmt t).signBit

/-- `vfdiv (Table 8.8)` -/
def execVfdiv (p : Option Pre) (c : Bool) (t : BitVec 3) (d a b : RegNo) (s : State) : Host.Outcome State Fault Refusal :=
  s.issue1 (.vfdiv p c t d a b) fun q => q.fp2 p t d a (.vec b) fDiv

/-- `vfscale (Table 8.8)` -/
def execVfscale (p : Option Pre) (c : Bool) (t : BitVec 3) (d a b : RegNo) (s : State) : Host.Outcome State Fault Refusal :=
  s.issue1 (.vfscale p c t d a b) fun q => q.fpElems p t d fun i k =>
    fScale (fpFmt t) (q.mode p) (q.fpVal t a i k) (sx (q.rl b i).toNat 32)

/-- `vfround (Table 8.8)` -/
def execVfround (p : Option Pre) (c : Bool) (t : BitVec 3) (d a : RegNo) (s : State) : Host.Outcome State Fault Refusal :=
  s.issue1 (.vfround p c t d a) fun q => q.fpElems p t d fun i k => fRoundInt (fpFmt t) (q.mode p) (q.fpVal t a i k)

/-- `vfclass (R245)` -/
def execVfclass (p : Option Pre) (c : Bool) (t : BitVec 3) (d a : RegNo) (s : State) : Host.Outcome State Fault Refusal :=
  s.issue1 (.vfclass p c t d a) fun q => q.putLanes d (q.selected p) (preOf p).z fun i =>
    BitVec.ofNat 32 ((List.range (fpN t)).foldl (fun w k => w + fClass (fpFmt t) (fpElem t (q.fpLane t a i) k) * 2 ^ (16 * k)) 0)

/-- `vfcmp.eq (Table 8.8)` -/
def execVfcmpEq (p : Option Pre) (c : Bool) (t : BitVec 3) (m a b : RegNo) (s : State) : Host.Outcome State Fault Refusal :=
  s.issue1 (.vfcmpEq p c t m a b) fun q => q.fpCompare p t m a b .eq

/-- `vfcmp.ne (Table 8.8)` -/
def execVfcmpNe (p : Option Pre) (c : Bool) (t : BitVec 3) (m a b : RegNo) (s : State) : Host.Outcome State Fault Refusal :=
  s.issue1 (.vfcmpNe p c t m a b) fun q => q.fpCompare p t m a b .ne

/-- `vfcmp.lt (Table 8.8)` -/
def execVfcmpLt (p : Option Pre) (c : Bool) (t : BitVec 3) (m a b : RegNo) (s : State) : Host.Outcome State Fault Refusal :=
  s.issue1 (.vfcmpLt p c t m a b) fun q => q.fpCompare p t m a b .lt

/-- `vfcmp.le (Table 8.8)` -/
def execVfcmpLe (p : Option Pre) (c : Bool) (t : BitVec 3) (m a b : RegNo) (s : State) : Host.Outcome State Fault Refusal :=
  s.issue1 (.vfcmpLe p c t m a b) fun q => q.fpCompare p t m a b .le

/-- `vfcmp.un (Table 8.8)` -/
def execVfcmpUn (p : Option Pre) (c : Bool) (t : BitVec 3) (m a b : RegNo) (s : State) : Host.Outcome State Fault Refusal :=
  s.issue1 (.vfcmpUn p c t m a b) fun q => q.fpCompare p t m a b .un

end Sys2Proof.Machine

end
end

