-- ==== Sys2Proof/Machine/VecSpecial.lean ====
section
/-!
DEFINITION. The conversions of class 4: `vcvt` (R247), `vqcvt` and `vdqcvt` (R248, R249), and the bit-plane moves (R250).
-/

noncomputable section

namespace Sys2Proof.Machine

open Sys2Proof

/-! ## vcvt -/

/-- Elements of a lane of a conversion code: 0 f64, 1 f32, 2 f16x2, 3 bf16x2, 4 i32, 5 n32, 6 i16x2, 7 i8x4. -/
def cvtE (k : BitVec 3) : Nat :=
  match k.toNat with
  | 2 | 3 | 6 => 2
  | 7 => 4
  | _ => 1

/-- Registers of an element group. -/
def cvtW (k : BitVec 3) : Nat := if k == 0 then 2 else 1

/-- Bits of an element. -/
def cvtBits (k : BitVec 3) : Nat := 32 * cvtW k / cvtE k

/-- Is a code floating point? -/
def cvtFloat (k : BitVec 3) : Bool := decide (k.toNat < 4)

/-- The range of an integer code. -/
def cvtRange (k : BitVec 3) : Int × Int :=
  if k == 5 then (0, 2 ^ 32 - 1)
  else (-((2 ^ (cvtBits k - 1) : Nat) : Int), ((2 ^ (cvtBits k - 1) : Nat) : Int) - 1)

/-- The format of a floating-point code. -/
def cvtFmt (k : BitVec 3) : Fmt := fpFmt k

/-- An integer code's reading of bits. -/
def cvtInt (k : BitVec 3) (x : Nat) : Int := if k == 5 then (x : Int) else sx x (cvtBits k)

/-- One element converted (R247). -/
def cvtElem (src dst : BitVec 3) (mode : RMode) (sat : Bool) (x : Nat) : Nat × FFlags :=
  if cvtFloat src then
    let v := FVal.ofBits (cvtFmt src) x
    if cvtFloat dst then fConvert (cvtFmt dst) mode v
    else
      let r := fToInt mode (cvtRange dst).1 (cvtRange dst).2 v
      (wrapTo (cvtBits dst) r.1, r.2)
  else
    let v := cvtInt src x
    if cvtFloat dst then roundInt (cvtFmt dst) mode v 0 false
    else
      let (lo, hi) := cvtRange dst
      let out : Bool := decide (v < lo) || decide (hi < v)
      if out && sat then (wrapTo (cvtBits dst) (max lo (min hi v)), { FFlags.none with sat := true })
      else (wrapTo (cvtBits dst) v, FFlags.none)

/-- Register n + k. -/
def regAt (n : RegNo) (k : Nat) : RegNo := n + BitVec.ofNat 6 k

/-- Element k of a lane of the group of registers from a. -/
def State.cvtSource (s : State) (src : BitVec 3) (a : RegNo) (i k : Nat) : Nat :=
  if src == 0 then s.rl64 (regAt a (2 * k)) i
  else (s.rl (regAt a (k / cvtE src)) i).toNat / 2 ^ (cvtBits src * (k % cvtE src)) % 2 ^ cvtBits src

/-- `vcvt` (R247) -/
def execVcvt (p : Option Pre) (c : Bool) (t : BitVec 3) (d a : RegNo) (k : BitVec 3) (s : State) :
    Host.Outcome State Fault Refusal :=
  s.issue1 (.vcvt p c t d a k) fun q =>
    let n := max (cvtE t) (cvtE k)
    let sel := q.selected p
    let z := (preOf p).z
    let res (i j : Nat) : Nat × FFlags := cvtElem t k (q.mode p) (preOf p).sat (q.cvtSource t a i j)
    q.withFlags sel (fun i => laneFlags n fun j => (res i j).2) fun u =>
      (List.range (n / cvtE k)).foldl (fun w g =>
        let val (i : Nat) : Nat :=
          (List.range (cvtE k)).foldl (fun x j => x + (res i (g * cvtE k + j)).1 * 2 ^ (cvtBits k * j)) 0
        if k == 0 then w.putPair (regAt d (2 * g)) sel z val
        else w.putLanes (regAt d g) sel z fun i => BitVec.ofNat 32 (val i)) u

/-! ## Synchronous reads -/

/-- Sends a read and performs it where it stands, when no earlier access of the span holds it back (R165) and every
record has room: whether it was performed, the state, and the operation with its results.  The instruction stays
interlocked, so no pending bit is set. -/
def State.readNow (s : State) (o : MemOp) : Bool × State × MemOp :=
  let s1 := s.send o
  let id := s1.nextId
  let s2 := o.sectors.foldl (fun t x => t.accessAtHome id x) s1
  let o2 := (s2.opOf id).getD o
  let s3 : State := { s2 with memOps := s2.memOps.filter fun x => x.id != id }
  (o2.reqs.all fun q => !q.status.onWay, s3, o2)

/-- Places of consecutive pieces of `size` bytes from an offset of an untranslated segment. -/
def State.localPlaces (s : State) (k off size n : Nat) : List Place :=
  let a := (vecAt s.seenSegs k Seg.invalid).baseOf + off
  (List.range n).map fun i =>
    { lane := i, off := off + size * i, va := BitVec.ofNat 64 (a + size * i),
      key := (if k == 5 then scaleKey else scratchKey) s.sp.id.core (a + size * i), slot := 0, chain := 0, uc := false,
      ro := false }

/-- check(seg, off, n, use): checks 2 and 3 of R142 over a range of an untranslated segment. -/
def State.rangeTrap (s : State) (k off n : Nat) (writes : Bool) : Option TrapInfo :=
  let g := vecAt s.seenSegs k Seg.invalid
  let a := g.baseOf + off
  if g.limit < off + n then some (s.trapAt 4 (BitVec.ofNat 64 a))
  else if !g.valid || !spaceOk k s.sp.id.core (a + n - 1) || (writes && g.rdonly k) then
    some (s.trapAt 8 (BitVec.ofNat 64 a))
  else none

/-- The checks of a side list of n entries at an offset of segment S (R248). -/
def State.sideListTrap (s : State) (off n : Nat) (writes : Bool) : Option TrapInfo :=
  if n = 0 then none
  else if off % 2 != 0 then some (s.trapAt 6 (BitVec.ofNat 64 off))
  else s.rangeTrap 2 off (2 * n) writes

/-! ## vqcvt and vdqcvt -/

/-- Source element i of `vqcvt`: 0 f32, 1 bf16x2. -/
def State.gaitSource (s : State) (bf : Bool) (a : RegNo) (i : Nat) : FVal :=
  if bf then FVal.ofBits Fmt.bf16 ((s.rl a (i / 2)).toNat / 2 ^ (16 * (i % 2)) % 2 ^ 16)
  else FVal.ofBits Fmt.f32 (s.rl a i).toNat

/-- Plane p of two blocks: bit i is element i's bit (R214). -/
def gaitPlane (n : Nat) (b0 b1 : GaitBlock) (p : Nat) : Word :=
  maskOf 32 fun i =>
    let b := if i < 16 then b0 else b1
    if p = 0 then listAt b.s (i % 16) false else (listAt b.m (i % 16) 0).testBit (n - p)

/-- A scale entry: E in [7:0], u in [15:8]. -/
def GaitBlock.scaleEntry (b : GaitBlock) : Nat := b.e + b.uByte * 2 ^ 8

/-- The mask register a prefix's vc names. -/
def preQ (p : Option Pre) : Nat := (preOf p).vc.toNat % 16

/-- `vqcvt` (R248) -/
def execVqcvt (p : Option Pre) (c : Bool) (g : BitVec 2) (bf : Bool) (d a b : RegNo) (s : State) :
    Host.Outcome State Fault Refusal :=
  s.issue1 (.vqcvt p c g bf d a b) fun t =>
    let n := gaitBits g.toNat
    let mode := t.mode p
    let thr := FVal.ofBits Fmt.f32 (fld t.seen.qthresh 0 32)
    let (o0, l0, b0) := quantise mode n thr ((List.range 16).map fun i => t.gaitSource bf a i)
    let (o1, l1, b1) := quantise mode n thr ((List.range 16).map fun i => t.gaitSource bf a (16 + i))
    let side := l0 ++ l1
    let out := o0 ++ o1
    let off := (t.rs b).toNat
    let flagsOf (i : Nat) : FFlags :=
      (if i < 16 then l0 else l1).foldl (fun f x => f.or x.2) (if i < 16 then b0 else b1).flags
    let registers (u : State) : State :=
      let v (i : Nat) : Word :=
        if i ≤ n then gaitPlane n b0 b1 i
        else if i = 31 then BitVec.ofNat 32 (b0.scaleEntry + b1.scaleEntry * 2 ^ 16) else 0
      ((u.ws b (BitVec.ofNat 64 (off + 2 * side.length))).wm (preQ p) (maskOf 32 fun i => listAt out i false)).putLanes d
        (BitVec.allOnes 32) false v
    let body (u : State) : State := u.withFlags (BitVec.allOnes 32) flagsOf registers
    match t.sideListTrap off side.length true with
    | some e => t.raise e
    | none =>
      if side.isEmpty then body t
      else
        t.whenPathFree fun u =>
          let ps := u.localPlaces 2 off 2 side.length
          u.withSaddles 2 .store (ps.map fun x => (x, 2)) fun w logged =>
            w.withFlags (BitVec.allOnes 32) flagsOf fun x =>
              registers (x.send { x.newOp .store .none 2 0 logged with
                reqs := ps.map fun y => reqAt y 2 (listAt side y.lane (0, FFlags.none)).1 0 })

/-- The value of element i of the layout that `vqcvt` writes (R249 steps 1 and 2). -/
def State.gaitElementAt (s : State) (n : Nat) (a : RegNo) (i : Nat) : FVal :=
  let scales := (s.rl a 31).toNat / 2 ^ (16 * (i / 16)) % 2 ^ 16
  let m := (List.range n).foldl (fun x p => x + (if bitOn (s.rl a (p + 1)) i then 2 ^ (n - 1 - p) else 0)) 0
  gaitValue (bitOn (s.rl a 0) i) m (scales % 256) (scales.testBit (8 + i % 16 / 2)) n

/-- `vdqcvt` with its elements known; those for which a side-list read failed are not written. -/
def State.dequantised (s : State) (p : Option Pre) (bf : Bool) (d : RegNo) (value : Nat → FVal) (good : Nat → Bool)
    (more : State → State) : State :=
  let conv (i : Nat) : Nat × FFlags := fConvert (if bf then Fmt.bf16 else Fmt.f32) (s.mode p) (value i)
  if bf then
    s.withFlags (BitVec.ofNat 32 0xFFFF) (fun l => (conv (2 * l)).2.or (conv (2 * l + 1)).2) fun t =>
      let w := maskOf 32 fun l => 16 ≤ l || (good (2 * l) && good (2 * l + 1))
      more ((t.wv d w fun l => if l < 16 then BitVec.ofNat 32 ((conv (2 * l)).1 + (conv (2 * l + 1)).1 * 2 ^ 16) else 0).wtag
        d zeroTag)
  else
    s.withFlags (BitVec.allOnes 32) (fun l => (conv l).2) fun t =>
      more ((t.wv d (maskOf 32 good) fun l => BitVec.ofNat 32 (conv l).1).wtag d zeroTag)

/-- `vdqcvt` (R249); a failed side-list read leaves its fault in vd, as a load does (R43, R86, R365). -/
def execVdqcvt (p : Option Pre) (c : Bool) (g : BitVec 2) (bf : Bool) (d a b : RegNo) (s : State) :
    Host.Outcome State Fault Refusal :=
  s.issue1 (.vdqcvt p c g bf d a b) fun t =>
    let n := gaitBits g.toNat
    let q := match p with
      | some x => x.vc.toNat
      | none => 0
    let marked := if q = 0 then [] else positions 32 (bitOn (t.rm q))
    if q = 0 then t.dequantised p bf d (t.gaitElementAt n a) (fun _ => true) id
    else
      let off := (t.rs b).toNat
      match t.sideListTrap off marked.length false with
      | some e => t.raise e
      | none =>
        t.whenPathFree fun u =>
          let ps := u.localPlaces 2 off 2 marked.length
          u.withSaddles 2 .load (ps.map fun x => (x, 2)) fun w _ =>
            let lane (e : Nat) : Nat := if bf then e / 2 else e
            let o : MemOp := { w.newOp .load (.vec d false) 2 0 false with reqs := ps.map fun x => reqAt x 2 0 0 }
            let (ok, w1, o1) := w.readNow o
            if !ok then w1.stall
            else
              let entry (i : Nat) : Option Req :=
                match (List.range marked.length).find? fun k => listAt marked k 32 == i with
                | some k => o1.reqs.find? fun x => x.lane == k
                | none => none
              let value (i : Nat) : FVal :=
                match entry i with
                | some x => FVal.ofBits Fmt.bf16 x.result.toNat
                | none => w1.gaitElementAt n a i
              let good (i : Nat) : Bool :=
                match entry i with
                | some x => x.status == .performed && !x.poison
                | none => true
              let held := ({ o1 with reqs := o1.reqs.map fun x => { x with lane := lane (listAt marked x.lane 0) } } : MemOp).faults
              w1.dequantised p bf d value good fun x =>
                (x.ws b (BitVec.ofNat 64 (off + 2 * marked.length))).hold x.sp.id held

/-! ## Bit-planes -/

/-- `vpack.bp` (R250) -/
def execVpackBp (p : Option Pre) (c : Bool) (d a : RegNo) (i : BitVec 6) (s : State) : Host.Outcome State Fault Refusal :=
  s.issue1 (.vpackBp p c d a i) fun t =>
    let b := i.toNat
    t.putLanes d (BitVec.allOnes 32) false fun k => if k < b then maskOf 32 fun j => bitOn (t.rl a j) (b - 1 - k) else 0

/-- `vunpack.bp` (R250) -/
def execVunpackBp (p : Option Pre) (c : Bool) (d a : RegNo) (i : BitVec 6) (s : State) : Host.Outcome State Fault Refusal :=
  s.issue1 (.vunpackBp p c d a i) fun t =>
    let b := i.toNat
    t.putLanes d (BitVec.allOnes 32) false fun k => maskOf 32 fun j => j < b && bitOn (t.rl a (b - 1 - j)) k

end Sys2Proof.Machine

end
end

