-- ==== Sys2Proof/Machine/System.lean ====
section
/-!
DEFINITION. Class 11: software traps and breakpoints, trace records, system registers (R53, Table 2.3), `segld` and
`tlbinv` (R418 to R422), and the words that no encoding is assigned to (R70).
-/

noncomputable section

namespace Sys2Proof.Machine

open Sys2Proof

/-! ## trap, brk and trace (R418, R419) -/

/-- `trap` (R418): SOFTWARE_TRAP after its chain group. -/
def execTrap (c : Bool) (n : BitVec 12) (s : State) : Host.Outcome State Fault Refusal :=
  s.issue1 (.trap c n) fun t => { t with issue := { t.issue with after := some { t.trapOf 21 0 with detail := n } } }

/-- `brk` (R418): BREAKPOINT after its chain group. -/
def execBrk (c : Bool) (s : State) : Host.Outcome State Fault Refusal :=
  s.issue1 (.brk c) fun t => { t with issue := { t.issue with after := some (t.trapOf 22 0) } }

/-- `trace` (R419, R438) -/
def execTrace (c : Bool) (a : RegNo) (s : State) : Host.Outcome State Fault Refusal :=
  s.issue1 (.trace c a) fun t =>
    if t.traced then
      t.trace 1 ((t.spanIdWord t.sp t.grp).toNat + t.here.toNat * 2 ^ 64 + (t.rs a).toNat * 2 ^ 128)
    else t

/-! ## System registers (Table 2.3) -/

/-- TASKID (Table 13.8). -/
def Group.taskId (g : Group) : DWord :=
  BitVec.ofNat 64 (g.bindRec.group.toNat + g.bindRec.phase.toNat % 2 ^ 24 * 2 ^ 32 +
    (if g.bindRec.spawned then 2 ^ 63 else 0))

/-- FAULTINFO through its selector (R411). -/
def TrapRegs.faultinfo (t : TrapRegs) : DWord :=
  match t.sel.toNat with
  | 0 => t.word0
  | 1 => t.word1
  | 2 => t.word2
  | _ => 0

/-- The value of a system register. -/
def State.sysReg (s : State) (r : BitVec 12) : DWord :=
  let g (n : Nat) : Seg := vecAt s.seenSegs n Seg.invalid
  match r.toNat with
  | 0x00 => s.seen.status
  | 0x01 => s.now
  | 0x02 => BitVec.ofNat 64 (s.now.toNat / 128)
  | 0x03 => BitVec.ofNat 64 (fld s.grp.bindRec.age 32 64)
  | 0x04 => BitVec.ofNat 64 (fld s.grp.bindRec.age 0 32)
  | 0x05 => s.grp.taskId
  | 0x06 => s.spanIdWord s.sp s.grp
  | 0x10 => s.seen.nttlim
  | 0x11 => s.sp.spillBase
  | 0x12 => s.sp.spillSlot
  | 0x13 => s.seen.xwin
  | 0x14 => s.seen.modq
  | 0x15 => s.seen.qthresh
  | 0x20 => s.sp.trap.faultpc
  | 0x21 => s.sp.trap.faultaddr
  | 0x22 => s.sp.trap.faultinfo
  | 0x23 => s.sp.trap.trapbase
  | n => if n % 2 = 0 then (g ((n - 0x40) / 2)).base else (g ((n - 0x40) / 2)).lim

/-- `sysrd` (R53, R420) -/
def execSysrd (c : Bool) (d : RegNo) (r : BitVec 12) (s : State) : Host.Outcome State Fault Refusal :=
  s.issue1 (.sysrd c d r) fun t => t.ws d (t.sysReg r)

/-- The low n bits of a value. -/
def lowBits (n : Nat) (v : DWord) : DWord := BitVec.ofNat 64 (fld v 0 n)

/-- A write of a system register under its access code (R53, R225): RO registers ignore it. -/
def State.putSysReg (s : State) (r : BitVec 12) (v : DWord) : State :=
  let regs (f : Regs → Regs) : State := { s with sp := { s.sp with regs := f s.sp.regs } }
  let trap (f : TrapRegs → TrapRegs) : State := { s with sp := { s.sp with trap := f s.sp.trap } }
  match r.toNat with
  | 0x00 => s.wstatus (statusWrite s.sp.regs.status v)
  | 0x10 => regs fun x => { x with nttlim := lowBits 32 v }
  | 0x13 => s.wxwin (lowBits 20 v)
  | 0x14 => regs fun x => { x with modq := lowBits 32 v }
  | 0x15 => regs fun x => { x with qthresh := lowBits 32 v }
  | 0x20 => trap fun x => { x with faultpc := lowBits 50 v }
  | 0x21 => trap fun x => { x with faultaddr := v }
  | 0x22 => trap fun x => { x with sel := BitVec.ofNat 2 v.toNat }
  | 0x23 => trap fun x => { x with trapbase := lowBits 48 v }
  | _ => s

/-- `syswr` (R53, R420) -/
def execSyswr (c : Bool) (d : RegNo) (r : BitVec 12) (s : State) : Host.Outcome State Fault Refusal :=
  s.issue1 (.syswr c d r) fun t => t.putSysReg r (t.rs d)

/-! ## segld (R421) -/

/-- Is an ASID that of one of the launch's descriptors of G, P, K and H? -/
def State.launchAsid (s : State) (asid : BitVec 10) : Bool :=
  (List.range 4).any fun i => s.launchField (960 + 128 * i + 48) 10 == asid.toNat

/-- Does `segld` refuse the images for a segment? -/
def State.segBad (s : State) (k : Nat) (g : Seg) : Bool :=
  let b := vecAt s.sp.bindSegs k Seg.invalid
  fld g.base 58 6 != 0 || fld g.lim 54 10 != 0 ||
    (if translated k then !s.launchAsid g.asid
     else decide (g.baseOf < b.baseOf) || decide (b.baseOf + b.limit < g.baseOf + g.limit))

/-- The trap of a read that is interlocked with its instruction: a poisoned, unreachable or refused piece. -/
def State.nowTrap (s : State) (o : MemOp) : Option TrapInfo :=
  let here (t : TrapInfo) : TrapInfo := { t with cause := none, lanes := s.enabled }
  let bad (q : Req) : Bool := q.status == .unreachable
  ((o.deferred 9 (fun q => q.poison) 0 false <|> o.deferred 9 bad 0 true) <|>
    o.deferred 11 Req.wasRefused o.refusedBy false).map here

/-- n bytes at an offset of a segment of the span, in accesses of `size` bytes, checked and read where they stand; a
refusal or poison is raised at the instruction. -/
def State.readHere (s : State) (k off size n : Nat) (go : State → List Byte → State) : State :=
  s.withPlaces k .read size true ((List.range (n / size)).map fun i => (i, off + size * i)) fun ps =>
    s.unlessFar ps fun t =>
      let o : MemOp := { t.newOp .load .none k 0 false with reqs := ps.map fun p => reqAt p size 0 0 }
      let (ok, u, o1) := (t.fillFor k ps).readNow o
      if !ok then u.stall
      else
        match u.nowTrap o1 with
        | some e => u.raise e
        | none => go u (o1.reqs.flatMap fun q => bytesLE size q.result.toNat)

/-- `segld` (R421) -/
def execSegld (c : Bool) (k a : RegNo) (s : State) : Host.Outcome State Fault Refusal :=
  s.issue1 (.segld c k a) fun t =>
    t.afterDrain fun u =>
      let off := u.rs a
      u.readHere 0 off.toNat 16 16 fun v bs =>
        let g : Seg := { base := BitVec.ofNat 64 (leOf (bs.take 8)), lim := BitVec.ofNat 64 (leOf (bs.drop 8)) }
        if v.segBad k.toNat g then v.raise (v.trapAt 8 off)
        else { v with sp := { v.sp with segs := vecPut v.sp.segs k.toNat g } }

/-! ## tlbinv (R422) -/

/-- Does a `tlbinv` operand cover a cached translation? -/
def tlbCovers (va sel : DWord) (t : Trans) : Bool :=
  let asid : BitVec 10 := BitVec.ofNat 10 (fld sel 0 10)
  match fld sel 10 2 with
  | 0 => t.asid == asid && t.vpn == fld va 0 48 / 2 ^ t.bits
  | 1 => t.asid == asid
  | _ => true

/-- Is an access that the operand may cover still to be performed? -/
def State.coveredInFlight (s : State) (va sel : DWord) : Bool :=
  let near (q : Req) : Bool := fld sel 10 2 != 0 || fld q.va 29 19 == fld va 29 19
  s.memOps.any fun o => translated o.seg.toNat && o.reqs.any fun q => q.status.onWay && near q

/-- `tlbinv` (R422) -/
def execTlbinv (c : Bool) (a b : RegNo) (s : State) : Host.Outcome State Fault Refusal :=
  s.issue1 (.tlbinv c a b) fun t =>
    let va := t.rs a
    let sel := t.rs b
    if t.coveredInFlight va sel then t.stall
    else
      t.afterDrain fun u =>
        { u with memsys := { u.memsys with trans := u.memsys.trans.filter fun x => !tlbCovers va sel x } }

/-! ## Words without an assigned encoding (R70) -/

/-- The sub-code of ILLEGAL_INSTR for a word that stands alone. -/
def illegalWordSub (w : Word) : Nat :=
  match decodeWords [w] with
  | .error (.illegal n _) => n
  | .error .short => 5
  | .ok (i, _) => (illegalSub i).getD 0

/-- `ILLEGAL_INSTR_WORD`: the word issues and raises ILLEGAL_INSTR with the sub-code of Table 2.17 that its bits give;
a word that decodes has no such cause. -/
def execIllegalInstrWord (w : Word) (s : State) : Host.Outcome State Fault Refusal :=
  happens (s.raise (s.trapOf 0 (illegalWordSub w)))

end Sys2Proof.Machine

end
end

