-- ==== Sys2Proof/Machine/Task.lean ====
section
/-!
DEFINITION. Class 12 and the end of spans, phases and tasks (R189, R237, R319, R388, R394 to R402): `exit`, `phase.end` and
its commit, the extended resources of a team, `spawn`, `yield`, `age` and `lvl`.
-/

noncomputable section

namespace Sys2Proof.Machine

open Sys2Proof

/-! ## exit and phase.end -/

/-- The held faults that `phase.end` and `exit` deliver (R187, R305, R318). -/
def heldAtEnd (h : HeldBy) : Bool :=
  match h with
  | .command _ _ | .acc _ | .sreg _ | .task _ => true
  | .reg _ | .issue | .farFence => false

/-- The oldest held fault that `phase.end` or `exit` delivers: also a LENGTH_OVERFLOW held in a vector register (R276). -/
def State.endFault (s : State) : Option Held :=
  if s.sp.privileged then none
  else (s.sp.held.filter fun h => heldAtEnd h.by_ || h.trap.code == 15).getLast?

/-- Is a command of the focused span not complete?  One stopped by a fault counts as complete (R187). -/
def State.commandsOpen (s : State) : Bool := s.sp.cmds.any fun c => !c.complete && c.stopped.isNone

/-- Has a record that the focused span owns been accepted and not completed (R319)? -/
def State.ownsTask (s : State) : Bool :=
  s.starter.any fun e => e.words.isSome && e.owner = s.sp.id && e.ownerGroup == s.sp.group && !e.complete

/-- Does an engine operation access memory? -/
def EngineKind.accesses (k : EngineKind) : Bool :=
  match k with
  | .drain .. | .spmv .. | .sptrsv .. => true
  | .mma .. | .mprom _ | .bmult .. | .bcres .. | .bdiv .. | .bmodb .. | .limbTiles _ | .task _ => false

/-- Does a long operation that is not an access of its own access memory? -/
def SlowKind.accesses (k : SlowKind) : Bool :=
  match k with
  | .long .. | .ttask .. => true
  | .halloc .. | .status .. | .pair .. | .tile .. | .nothing => false

/-- Is an operation a `bfill`, which may hold LENGTH_OVERFLOW for `phase.end` or `exit` when it completes (R276)? -/
def MemOp.fills (o : MemOp) : Bool :=
  match o.dest with
  | .big _ _ => true
  | _ => false

/-- Has every access of the focused span, on every path, been performed (Table 12.1), and every `bfill` completed? -/
def State.allPerformed (s : State) : Bool :=
  let me := s.sp.id
  !((s.memOps.any fun o => o.span = me && (o.fills || o.reqs.any fun q => q.status.onWay)) ||
    (s.slowOps.any fun o => o.span = me && o.kind.accesses) || s.core.ops.any fun o => o.span = me && o.kind.accesses)

/-- `phase.end` and `exit` wait for commands, deliver held faults, and wait for owned records, for the older
register-writing operations of class A, and for every access of the span (R44, R189, R319, Table 12.1); then the region
ends. -/
def State.atEnd (s : State) (go : State → State) : State :=
  if s.commandsOpen then s.stall
  else
    match s.endFault with
    | some h => s.deliver h
    | none => if s.ownsTask || !s.quietA || !s.allPerformed then s.stall else go s.endRegion

/-- `exit` (R237): the lanes leave after the packet.  Matrix-engine and Coachman operations that access no memory stay in
flight (R44). -/
def execExit (c : Bool) (s : State) : Host.Outcome State Fault Refusal :=
  s.issue1 (.exit c) fun t => t.atEnd fun u => u.transfer fun _ => .exit

/-- `phase.end` (R388): it also waits until no pending bit of the span is set; then the gang waits for the commit of its
group. -/
def execPhaseEnd (c : Bool) (s : State) : Host.Outcome State Fault Refusal :=
  s.issue1 (.phaseEnd c) fun t => if t.sp.pend.some_ && !t.commandsOpen && t.endFault.isNone then t.stall else t.atEnd fun u => u.waitIn .phaseEnd

/-- The last span of a group has exited: the task ends (R355, R388). -/
def State.endTask (s : State) (g : Group) : State :=
  (((s.releaseSaddles g.id).setBox g.die g.box 4).dropGroup g.id).groupEnded g

/-- Has a group an operation left with its matrix engine or Coachman (R44)? -/
def State.workLeft (s : State) (g : Group) : Bool :=
  let mine (id : SpanId) : Bool := (s.spanOf id).map (fun p => p.group) == some g.id
  (s.slowOps.any fun o => mine o.span) ||
    (s.coreOf g.bindRec.core).ops.any fun o => mine o.span && (match o.kind with
      | .task _ => false
      | _ => true)

/-- The task of a group whose spans have all exited ends; operations that `exit` left in flight hold its storage until
they have completed (log 95). -/
def State.endIfDone (s : State) (g : Group) : State :=
  if g.status == .running && s.allExited g.id && !s.workLeft g then s.endTask g else s

/-- The tasks that end now. -/
def State.endExited (s : State) : State :=
  match s.allGroups.find? fun g => g.id != 0 && s.allExited g.id with
  | some g => s.endIfDone g
  | none => s

/-- Has every slice of a span exited? -/
def Span.gone (p : Span) : Bool := vecAll p.slices fun x => x.exited == 15

/-- What follows when slices have exited: a span that has ended leaves the Reins (R311) and its Starter entries (R315),
and the end of the last one ends the task. -/
def State.afterExit (s : State) : State :=
  if !s.sp.live || !s.sp.gone then s
  else
    ({ s with
      core := s.core.leaveReins s.sp.id.slot,
      starter := s.starter.filter fun e => !(e.words.isSome && e.owner = s.sp.id && e.ownerGroup == s.sp.group) } :
      State).endIfDone s.grp

/-- Does a span stand at one `phase.end` with all its slices that have not exited? -/
def Span.atPhaseEnd (p : Span) : Bool :=
  let live := positions 8 fun j => (p.slice j).exited != 15
  !live.isEmpty && live.all fun j =>
    (p.slice j).wait == some .phaseEnd && (p.slice j).pc == (p.slice (live.headD 0)).pc &&
      (p.slice j).slot == (p.slice (live.headD 0)).slot

/-- Does every span of a group that has not exited wait at a `phase.end`? -/
def State.commitReady (s : State) (g : GroupId) : Bool :=
  let ps := (s.spansOf g).filter fun p => !p.gone
  !ps.isEmpty && ps.all fun p => p.atPhaseEnd && !p.privileged

/-- The commit of a group's phase (R388 to R390). -/
def State.commitPhase (s : State) (g : Group) : State :=
  let r := s.recordBy g.launch
  let b := g.bindRec
  let bag := b.bag.toNat
  let next := 1 - s.bagCur b
  let buf := bagBuffer bag r next
  let live := (s.spansOf g.id).filter fun p => !p.gone
  let mask := live.foldl (fun a p => a + 2 ^ (p.rank % 64)) 0
  let s1 := s.bagWrite buf (bytesLE 8 live.length ++ bytesLE 8 mask ++ bytesLE 48 0)
  let s2 := live.foldl (fun t p => t.bagWrite (buf + 64 + bagRecord r * p.rank) (t.spanRecordBytes r p)) s1
  let s3 := s2.bagWrite bag (bytesLE 8 next ++ bytesLE 8 (b.phase + 1).toNat ++ bytesLE 48 0)
  let s4 := (s3.releaseSaddles g.id).setBox g.die g.box 3
  let req : BindRecord :=
    { b with nspan := BitVec.ofNat 7 live.length, phase := b.phase + 1, age := 0, deadline := BitVec.allOnes 64 }
  let s5 := s4.dropGroup g.id
  { s5 with host := { s5.host with requests := s5.host.requests ++ [(g.launch, req)] } }

/-- `PHASE_COMMIT` (R388): the last span of the group has reached its `phase.end`. -/
def execPhaseCommit (sp : SpanId) (s : State) : Host.Outcome State Fault Refusal :=
  match s.spanOf sp with
  | none => happens s
  | some p =>
    match s.groupOf p.group with
    | none => happens s
    | some g => happens (if g.status == .running && s.commitReady g.id then s.commitPhase g else s)

/-! ## Extended resources (R394 to R398) -/

/-- The amounts of an `acqx` or `relx` operand: registers in units of 8, tiles, accumulators. -/
def amounts (x : DWord) : Nat × Nat × Nat := (fld x 0 4, fld x 8 7, fld x 16 5)

/-- The result that `acqx` has at once, if it has one (R395). -/
def State.acqxNow (s : State) (x : DWord) : Option DWord :=
  let (v, t, a) := amounts x
  let g := s.grp
  let r := s.launchRecord
  if fld x 4 4 != 0 || fld x 15 1 != 0 || fld x 21 43 != 0 then some 3
  else if 64 < g.vregs + 8 * v || 64 < g.tiles.length + t || 16 < g.accs.length + a ||
      recTeamV r < 8 * (g.xv + v) * g.bindRec.nspan.toNat || recTeamT r < g.tiles.length + t ||
      recTeamA r < g.accs.length + a then some 2
  else if v = 0 && t = 0 && a = 0 then some 0
  else none

/-- `acqx` (R395): a request that is not decided at once waits in the team's queue. -/
def execAcqx (c : Bool) (d a : RegNo) (s : State) : Host.Outcome State Fault Refusal :=
  s.issue1 (.acqx c d a) fun t =>
    match t.gangWait with
    | some (.acqxDone r) => t.ws d r
    | _ =>
      t.afterDrain fun u =>
        let x := u.rs a
        match u.acqxNow x with
        | some r => u.ws d r
        | none =>
          let (nv, nt, na) := amounts x
          let q : AcqReq :=
            { span := u.sp.id, gang := u.issue.gang, age := u.grp.bindRec.age, v := nv, t := nt, a := na, since := u.now }
          ({ u with core := { u.core with acqs := u.core.acqs ++ [q] } } : State).waitIn .acqx

/-- Is a queued request before another (R395)? -/
def acqBefore (x y : AcqReq) : Bool :=
  decide (x.age.toNat < y.age.toNat) || (x.age == y.age && decide (x.span.slot.toNat < y.span.slot.toNat))

/-- The group of a queued request. -/
def State.groupAt (s : State) (id : SpanId) : Option Group :=
  match s.spanOf id with
  | some p => s.groupOf p.group
  | none => none

/-- What a team's pool has free on a core. -/
def State.poolFree (s : State) (k : CoreId) (t : Team) : Nat × Nat × Nat :=
  let gs := (s.groupsOn k).filter fun g => g.launch == t.launch
  (t.teamv - sumOf gs (fun g => 8 * g.xv * g.bindRec.nspan.toNat), t.teamt - sumOf gs (fun g => g.tiles.length),
    t.teama - sumOf gs fun g => g.accs.length)

/-- Ends the wait of a queued request with a result. -/
def State.answerAcq (s : State) (q : AcqReq) (r : DWord) : State :=
  let wake (w : Wait) : Option Wait := if w = .acqx then some (.acqxDone r) else none
  let s1 := s.updCore q.span.core fun c => { c with acqs := c.acqs.filter fun x => x != q }
  s1.updSpan q.span fun p => { p with slices := vecMap p.slices fun j x =>
    match x.wait with
    | some w => if bitOn q.gang j then { x with wait := some ((wake w).getD w) } else x
    | none => x }

/-- Zeroes newly granted registers of a span (R394). -/
def Span.grantRegs (p : Span) (lo n : Nat) : Span :=
  let new (i : Nat) : Bool := decide (lo ≤ i) && decide (i < lo + n)
  { p with regs := { p.regs with
      v := vecMap p.regs.v fun i x => if new i then zeroLanes else x,
      tag := vecMap p.regs.tag fun i x => if new i then zeroTag else x } }

/-- Grants a request (R394, R395). -/
def State.grantAcq (s : State) (q : AcqReq) (g : Group) : State :=
  let lo := g.vregs
  let s1 := (s.spansOf g.id).foldl (fun t p => t.updSpan p.id fun x => x.grantRegs lo (8 * q.v)) s
  let s2 := s1.updGroup g.id fun x =>
    { x with xv := x.xv + q.v, tiles := x.tiles ++ List.replicate q.t Tile.zero,
             accs := x.accs ++ List.replicate q.a Acc.zero }
  s2.answerAcq q 0

/-- Does a group hold extended resources? -/
def Group.holds (g : Group) : Bool := g.xv != 0 || !g.tiles.isEmpty || !g.accs.isEmpty

/-- Does a span of a group wait for a saddle? -/
def State.waitsSaddle (s : State) (g : GroupId) : Bool :=
  (s.spansOf g).any fun p => vecAny p.slices fun x =>
    match x.wait with
    | some (.saddle _ _) => true
    | _ => false

/-- The head of a team's queue cannot be granted: RETREAT for the younger holders' requests, and the unseat of those that
wait for a saddle (R396). -/
def State.retreat (s : State) (k : CoreId) (t : Team) (head : AcqReq) (g : Group) : State :=
  let younger := (s.groupsOn k).filter fun x =>
    x.launch == t.launch && x.id != g.id && decide (head.age.toNat < x.bindRec.age.toNat) && x.holds
  younger.foldl (fun u x =>
    let mine := (u.coreOf k).acqs.filter fun q => (u.groupAt q.span).map (fun y => y.id) == some x.id
    let u1 := mine.foldl (fun w q => w.answerAcq q 1) u
    if u1.waitsSaddle x.id then u1.startUnseat x.id else u1) s

/-- Serves the queue of one team: heads are granted while the pool has room; `fuel` bounds their number. -/
def State.serveTeam (fuel : Nat) (s : State) (k : CoreId) (t : Team) : State :=
  match fuel with
  | 0 => s
  | n + 1 =>
    let qs := (s.coreOf k).acqs.filter fun q => (s.groupAt q.span).map (fun g => g.launch) == some t.launch
    match sortBy acqBefore qs with
    | [] => s
    | q :: _ =>
      match s.groupAt q.span with
      | none => s
      | some g =>
        let (fv, ft, fa) := s.poolFree k t
        if 8 * q.v * g.bindRec.nspan.toNat ≤ fv ∧ q.t ≤ ft ∧ q.a ≤ fa then (s.grantAcq q g).serveTeam n k t
        else s.retreat k t q g

/-- `ACQX_GRANT` (R395, R396): the queues of a core's teams are served. -/
def execAcqxGrant (k : CoreId) (s : State) : Host.Outcome State Fault Refusal :=
  let c := s.coreOf k
  happens (c.teams.foldl (fun t x => t.serveTeam (c.acqs.length) k x) s)

/-- Brings a gang of a span to the front as the one that issues at its lowest slice's word, for a trap outside issue. -/
def State.asGang (s : State) (id : SpanId) (gang : BitVec 8) : State :=
  let t := s.focus id
  let x := t.sp.slice (lowestSlice (bitOn gang))
  { t with issue := { Issue.zero with gang := gang, pc := x.pc, slot := x.slot, next := x.slot + 1 } }

/-- `ACQUIRE_TIMEOUT` (R397) -/
def execAcquireTimeout (sp : SpanId) (s : State) : Host.Outcome State Fault Refusal :=
  match (s.coreOf sp.core).acqs.find? fun q => q.span = sp, s.groupAt sp with
  | some q, some g =>
    let tmo := fld (s.recordBy g.launch) 48 16
    if tmo = 0 || !g.holds || g.status != .running || s.now.toNat < q.since.toNat + 1000 * tmo then happens s
    else
      let s1 := s.updCore sp.core fun c => { c with acqs := c.acqs.filter fun x => x != q }
      let s2 := s1.asGang sp q.gang
      happens (s2.raise (s2.trapOf 19 0))
  | _, _ => happens s

/-- The registers that a `relx` would return, for the pending test (R398). -/
def Group.topRefs (g : Group) (v t a : Nat) : List Ref :=
  let vs := (List.range (8 * v)).map fun i => Ref.v (g.vregs - 1 - i)
  let ts := (List.range t).flatMap fun i => [Ref.tile (g.tiles.length - 1 - i), Ref.shape (g.tiles.length - 1 - i)]
  vs ++ ts ++ (List.range a).map fun i => Ref.acc (g.accs.length - 1 - i)

/-- Is a register pending in any slice of a span? -/
def Pending.has (pd : Pending) (r : Ref) : Bool :=
  match r with
  | .v n => vecAny pd.v fun x => bitOn x n
  | .m n => vecAny pd.m fun x => bitOn x n
  | .s n => bitOn pd.s n
  | .tile n => bitOn pd.tile n
  | .acc n => bitOn pd.acc n
  | .shape n => bitOn pd.shape n

/-- Does an engine operation of the group still read one of the top t tiles? -/
def State.topTileRead (s : State) (g : Group) (t : Nat) : Bool :=
  (s.coreOf g.bindRec.core).ops.any fun o =>
    ((s.spanOf o.span).map fun p => p.group) == some g.id &&
      (match o.kind with
       | .mma ta tb _ _ _ _ => decide (g.tiles.length ≤ ta.toNat + t) || decide (g.tiles.length ≤ tb.toNat + t)
       | _ => false)

/-- `relx` (R398) -/
def execRelx (c : Bool) (a : RegNo) (s : State) : Host.Outcome State Fault Refusal :=
  s.issue1 (.relx c a) fun u =>
    let (qv, qt, qa) := amounts (u.rs a)
    let g := u.grp
    let v := min g.xv qv
    let t := min g.tiles.length qt
    let n := min g.accs.length qa
    let refs := g.topRefs v t n
    if ((u.spansOf g.id).any fun p => refs.any p.pend.has) || u.topTileRead g t then u.raise (u.trapOf 3 1)
    else
      let left := g.accs.length - n
      let mine (p : Span) : Bool := p.group == g.id
      let drop (p : Span) : Span := { p with seqs := p.seqs.filter fun q => decide (q.1.toNat < left) }
      { u with grp := { g with xv := g.xv - v, tiles := g.tiles.take (g.tiles.length - t), accs := g.accs.take left },
               sp := drop u.sp, rest := mapIf u.rest mine drop }

/-! ## spawn (R399) -/

/-- The lowest number below n that is not in a list. -/
def lowestFree (n : Nat) (used : List Nat) : Option Nat := (List.range n).find? fun i => !used.contains i

/-- The lowest run of n free span slots of a core. -/
def State.freeSlots (s : State) (k : CoreId) (n : Nat) : Option Nat :=
  (List.range (65 - n)).find? fun o => (List.range n).all fun i => s.slotFree k (o + i)

/-- The lowest free box of a die. -/
def State.freeBox (s : State) (die : Fin 4) : Nat :=
  (lowestFree 4096 ((s.host.boxes.filter fun b => b.die == die && b.state != 0).map fun b => b.num.toNat)).getD 0

/-- The physical address of a spawn entry's saddlebag (R390); a free value when SPBAG does not translate. -/
def State.spawnBag (s : State) (r : BitVec 2048) (k : CoreId) (e : Nat) : DWord × State :=
  let va := fld r 384 64 + e * (2112 + 2 * bagSize r)
  match s.translateNow k (recSeg r 0).asid va .write with
  | .ok p => (BitVec.ofNat 64 p.key, s)
  | .error _ =>
    let (x, t) := s.draw
    (BitVec.ofNat 64 x, t)

/-- Creates one spawned group on the focused core, when an entry, slots and storage are free (R399). -/
def State.spawnOne (s : State) (point n : Nat) (args : List DWord) : Option State :=
  let k := s.sp.id.core
  let seq := s.grp.launch
  let r := s.recordBy seq
  let die : Fin 4 := ⟨dieOf k % 4, Nat.mod_lt _ (by decide)⟩
  let used := (s.core.spawns.filter fun x => x.1 == seq).map fun x => x.2
  match lowestFree (recSpool r) used, s.freeSlots k n, s.launchBy seq with
  | some e, some slot, some l =>
    let (bag, s1) := s.spawnBag r k e
    let b : BindRecord :=
      { core := k, slot0 := BitVec.ofNat 6 slot, nspan := BitVec.ofNat 7 n, prio := s.grp.bindRec.prio,
        basev := s.grp.bindRec.basev, spawned := true, group := BitVec.ofNat 32 l.nextSpawn, launch := seq, bag := bag,
        phase := 0, age := 0, deadline := BitVec.allOnes 64 }
    if !s.canBind b then none
    else
      let box : BitVec 12 := BitVec.ofNat 12 (s.freeBox die)
      let s2 := s1.updLaunch seq fun x =>
        { x with nextSpawn := x.nextSpawn + 1, liveGroups := x.liveGroups + 1,
                 spawned := { seq := l.nextSpawn, spawner := s.sp.number, entry := e, point := point, args := args } :: x.spawned }
      let s3 : State := { s2 with core := { s2.core with spawns := (seq, e) :: s2.core.spawns } }
      let bx : Box := { die := die, num := box, state := 1, bindRec := b }
      let s4 : State :=
        { s3 with host := { s3.host with boxes := bx :: s3.host.boxes.filter fun x => !(x.die == die && x.num == box) } }
      some (s4.bindGroup die box b)
  | _, _, _ => none

/-- Creates up to n groups, and counts them. -/
def State.spawnMany (n : Nat) (s : State) (point spans : Nat) (args : List DWord) : Nat × State :=
  match n with
  | 0 => (0, s)
  | m + 1 =>
    match s.spawnOne point spans args with
    | none => (0, s)
    | some t =>
      let (k, u) := t.spawnMany m point spans args
      (k + 1, u)

/-- `spawn` (R399): the argument block lies at a segment address (R174). -/
def execSpawn (c : Bool) (d a b : RegNo) (s : State) : Host.Outcome State Fault Refusal :=
  s.issue1 (.spawn c d a b) fun t =>
    t.unlessSaddled fun u =>
      let x := u.rs a
      let point := fld x 0 4
      let wanted := fld x 8 8
      let spans := fld x 16 7
      let pc : DWord :=
        match u.launchOf with
        | some l => vecAt l.entries point 0
        | none => 0
      if fld x 4 4 != 0 || fld x 23 41 != 0 || pc == 0 || spans = 0 || recSpSpans u.launchRecord < spans then
        u.ws d (2 ^ 63)
      else
        u.readHere (segOf (u.rs b)) (offOf (u.rs b)) 8 64 fun v bs =>
          let args := (List.range 8).map fun i => BitVec.ofNat 64 (leOf ((bs.drop (8 * i)).take 8))
          let (n, w) := v.spawnMany wanted point spans args
          w.ws d (BitVec.ofNat 64 n)

/-! ## yield, age and lvl (R400 to R402) -/

/-- May the groups of a launch issue: it is not being aborted (R434), and the first phase of each of its groups has been
bound (R380)? -/
def State.launchRuns (s : State) (g : Group) : Bool :=
  match s.launchBy g.launch with
  | some l => !l.aborting && decide (launchSpans l.record / max 1 (groupSpans l.record) ≤ l.started.length)
  | none => true

/-- Has a slice that has not exited a group to issue: it waits for nothing, or what it has waited for has come? -/
def Slice.ready (x : Slice) : Bool :=
  x.exited != 15 &&
    (match x.wait with
     | none | some .woken | some (.monitorDone _ _) | some (.acqxDone _) | some .ticked | some (.parkFailed _) => true
     | _ => false)

/-- Has a slice parked its span on an absent page (R162)? -/
def Slice.isParked (x : Slice) : Bool :=
  match x.wait with
  | some (.parked _ _ _) => true
  | _ => false

/-- Is a span a candidate to issue (R386): its group runs, the span is not parked, and some slice is ready? -/
def State.candidate (s : State) (p : Span) : Bool :=
  let runs : Bool :=
    match s.groupOf p.group with
    | some g => g.status == .running && decide (s.now.toNat < g.bindRec.deadline.toNat) && s.launchRuns g
    | none => false
  p.live && p.trapping.isNone && runs && !vecAny p.slices Slice.isParked && vecAny p.slices Slice.ready

/-- The quarter of a span slot (R19). -/
def quarterOf (id : SpanId) : Nat := id.slot.toNat / 16

/-- `yield` (R400) -/
def execYield (c : Bool) (s : State) : Host.Outcome State Fault Refusal :=
  s.issue1 (.yield c) fun t =>
    if t.gangWait = some .woken then t
    else
      t.afterDrain fun u =>
        let mine (p : Span) : Bool := p.id.core == u.sp.id.core && quarterOf p.id == quarterOf u.sp.id && u.candidate p
        let others := (u.rest.filter mine).map fun p => p.id
        ({ u with sp := { u.sp with passOver := 0 } } : State).waitIn (.yielding others (u.now + 1))

/-- After `issuer` has issued, or with none: waits of `yield` forget it and the spans that are no longer candidates, and
end when none is left and their cycle has passed (R400). -/
def State.settleYields (s : State) (issuer : Option SpanId) : State :=
  let still (id : SpanId) : Bool :=
    some id != issuer &&
      (match s.spanOf id with
       | some p => s.candidate p
       | none => false)
  let step (w : Wait) : Option Wait :=
    match w with
    | .yielding others after =>
      let left := others.filter still
      if left.isEmpty && decide (after.toNat ≤ s.now.toNat) then some .woken else some (.yielding left after)
    | _ => none
  s.mapSpans fun p => p.rewait step

/-- `age` (R401) -/
def execAge (c : Bool) (d : RegNo) (s : State) : Host.Outcome State Fault Refusal :=
  s.issue1 (.age c d) fun t =>
    t.ws2 d (BitVec.ofNat 64 (fld t.grp.bindRec.age 32 64)) (BitVec.ofNat 64 (fld t.grp.bindRec.age 0 32))

/-- INDEX of the focused span at a level (R402). -/
def State.levelIndexOf (s : State) (r : BitVec 2048) (i : Nat) : Nat :=
  let above := groupLevelAbove r (levelsOf r)
  if !isSpanLevel r i then 0
  else if !s.grp.bindRec.spawned then levelIndex r s.sp.number i
  else if i + 1 < above then s.sp.rank
  else if i + 1 = above then 2 ^ 31 + s.grp.bindRec.group.toNat
  else levelIndex r s.sp.number i

/-- `lvl` (R402) -/
def execLvl (c : Bool) (d l : RegNo) (s : State) : Host.Outcome State Fault Refusal :=
  s.issue1 (.lvl c d l) fun t =>
    let r := t.launchRecord
    t.ws d (BitVec.ofNat 64 (t.levelIndexOf r l.toNat % 2 ^ 32 + levelCount r l.toNat * 2 ^ 32))

end Sys2Proof.Machine

end
end

