-- ==== Sys2Proof/Machine/Complete.lean ====
section
/-!
DEFINITION. The completion of long operations (R42, R43) and of engine operations (R304): the two events in which results
reach registers.
-/

noncomputable section

namespace Sys2Proof.Machine

open Sys2Proof

/-! ## Accesses -/

/-- Puts a byte string into a tile. -/
def tilePut (data : BitVec 32768) (at_ : Nat) (bs : List Byte) : BitVec 32768 :=
  setFld data (8 * at_) (8 * bs.length) (leOf bs)

/-- A completed `tload`: the pieces that were performed reach the tile (R295). -/
def State.fillTile (s : State) (o : MemOp) (t : RegNo) : State :=
  let good := o.reqs.filter fun q => q.status == .performed || q.status == .acked
  let data := good.foldl (fun d q => tilePut d q.lane (bytesLE q.bytes q.result.toNat)) (s.tile t).data
  (s.setTile t { s.tile t with data := data }).clearPending 0xFF (tr t)

/-- The number that a completed `bfill` has read. -/
def MemOp.bigVal (o : MemOp) (neg : Bool) : Int :=
  signed neg (limbSum o.reqs.length fun i => o.laneVal i)

/-- A completed `bfill`: a number that is too long is held in vd and leaves it unchanged (R276). -/
def State.fillBig (s : State) (o : MemOp) (d : RegNo) (neg : Bool) : State :=
  let x := o.bigVal neg
  let s1 :=
    if o.reqs.any fun q => q.wasRefused || q.status == .unreachable then s
    else if 32 + s.slotLimbs < bigLen x then
      let t : TrapInfo :=
        { code := 15, sub := 0, detail := 0, addr := BitVec.ofNat 64 (bigLen x), lanes := o.lanes, unreach := false,
          cause := some o.pc, region := 0 }
      s.hold o.span ((List.finRange 8).map fun j => { by_ := .reg (.vec d j), trap := t, op := o.id })
    else s.putBig d x
  s1.clearPending 0xFF (vr d)

/-- The result of a completed access of the focused span, with the faults that it leaves in its destination. -/
def State.finishAccess (s : State) (o : MemOp) : State :=
  let s1 :=
    match o.dest with
    | .tile t => s.fillTile o t
    | .big d neg => s.fillBig o d neg
    | _ => s.writeBack o
  ({ s1 with memOps := s1.memOps.filter fun x => x.id != o.id } : State).hold o.span o.faults |>.settle

/-- Does an access end with its value: a load, or a returning atomic? -/
def MemOp.returns (o : MemOp) : Bool :=
  match o.kind with
  | .load | .amo _ _ => true
  | .store | .red _ _ | .flush | .update _ | .bar _ => false

/-! ## Long operations that are not accesses -/

/-- One attempt at a long operation of the focused span: a ready one writes its registers. -/
def State.slowAttempt (s : State) (o : SlowOp) : State :=
  match o.kind with
  | .halloc _ _ => s
  | .status d v => if o.ready then (s.ws d v).endSlow o (sr d) else s
  | .pair d v0 v1 => if o.ready then (s.ws2 d v0 v1).endSlow o (Machine.sp d) else s
  | .tile t data shape => if o.ready then (s.setTile t { data := data, shape := shape }).endSlow o [.tile t.toNat, .shape t.toNat] else s
  | .ttask d seg off modq xwin => s.ttaskAttempt o d seg off modq xwin
  | .long kind d a b alloc via => s.longAttempt o kind d a b alloc via
  | .nothing => s.endSlow o []

/-- `LONG_OPERATION_COMPLETE` (R42, R43): a class A or B operation's result is in place and its pending bits clear. -/
def execLongOperationComplete (op : Nat) (s : State) : Host.Outcome State Fault Refusal :=
  match s.opOf op with
  | some o =>
    if o.returns && s.opDone o && !s.answering o && (s.spanOf o.span).isSome then happens ((s.focus o.span).finishAccess o) else happens s
  | none =>
    match s.slowOps.find? fun o => o.id == op with
    | some o =>
      if o.parked.isNone && !s.transiting (.command o.id) && (s.spanOf o.span).isSome then happens ((s.focus o.span).slowAttempt o).endExited else happens s
    | none => happens s

/-! ## The matrix engine -/

/-- `MATRIX_OPERATION_COMPLETE` (R301 to R308, R320): the engine of a core performs the operation that it serves, or one
step of a sparse one. -/
def execMatrixOperationComplete (k : CoreId) (s : State) : Host.Outcome State Fault Refusal :=
  match (s.coreOf k).serving with
  | none => happens s
  | some o =>
    if o.parked.isSome then happens s
    else
      match o.kind with
      | .task order => happens (s.taskAttempt k o order)
      | _ => if (s.spanOf o.span).isSome then happens ((s.focus o.span).performOp o).endExited else happens s

end Sys2Proof.Machine

end
end

