-- ==== Sys2Proof/Machine/CrossLane.lean ====
section
/-!
DEFINITION. Class 5, cross-lane instructions (R251 to R257): shuffles, votes, scans and reductions, carries, set
intersection and lane numbers.
-/

noncomputable section

namespace Sys2Proof.Machine

open Sys2Proof

/-! ## Sub-groups (R251) -/

/-- The sub-group width of a prefix. -/
def subWidth (p : Option Pre) : Nat := 2 ^ (preOf p).sub.toNat

/-- g(i): the first lane of lane i's sub-group. -/
def subBase (w i : Nat) : Nat := i - i % w

/-- May lane i read lane j: in its sub-group and enabled? -/
def State.readable (s : State) (w i j : Nat) : Bool := subBase w i ≤ j && j < subBase w i + w && bitOn s.enabled j

/-! ## Shuffles (R252) -/

/-- A shuffle: lane i reads the lane that `from_ i` names, none for one outside every group. -/
def State.shuffle (s : State) (p : Option Pre) (t : BitVec 3) (d a : RegNo) (from_ : Nat → Option Nat) : State :=
  let w := subWidth p
  let sel := s.selected p
  let z := (preOf p).z
  let lane (n : RegNo) (i : Nat) : Nat := if t == 2 then s.rl64 n i else (s.rl n i).toNat
  let val (i : Nat) : Nat :=
    match from_ i with
    | some j => if s.readable w i j then lane a j else if (preOf p).fill then lane (preOf p).vc i else lane a i
    | none => if (preOf p).fill then lane (preOf p).vc i else lane a i
  if t == 2 then s.putPair d sel z val else s.putLanes d sel z fun i => BitVec.ofNat 32 (val i)

/-- i − dist. -/
def laneUp (dist i : Nat) : Option Nat := if dist ≤ i then some (i - dist) else none

/-- i + dist. -/
def laneDown (dist i : Nat) : Option Nat := some (i + dist)

/-- The lane whose place in the sub-group is i's place xor dist. -/
def laneXor (w dist i : Nat) : Option Nat := some (subBase w i + Nat.xor (i % w) dist)

/-- `shfl` (R252) -/
def execShfl (p : Option Pre) (c : Bool) (t : BitVec 3) (d a b : RegNo) (s : State) : Host.Outcome State Fault Refusal :=
  s.issue1 (.shfl p c t d a b) fun q =>
    q.shuffle p t d a fun i => some (subBase (subWidth p) i + (q.rl b i).toNat % subWidth p)

/-- `shfl.up` (R252) -/
def execShflUp (p : Option Pre) (c : Bool) (t : BitVec 3) (d a : RegNo) (i : BitVec 6) (s : State) :
    Host.Outcome State Fault Refusal :=
  s.issue1 (.shflUp p c t d a i) fun q => q.shuffle p t d a (laneUp i.toNat)

/-- `shfl.dn` (R252) -/
def execShflDn (p : Option Pre) (c : Bool) (t : BitVec 3) (d a : RegNo) (i : BitVec 6) (s : State) :
    Host.Outcome State Fault Refusal :=
  s.issue1 (.shflDn p c t d a i) fun q => q.shuffle p t d a (laneDown i.toNat)

/-- `shfl.x` (R252) -/
def execShflX (p : Option Pre) (c : Bool) (t : BitVec 3) (d a : RegNo) (i : BitVec 6) (s : State) :
    Host.Outcome State Fault Refusal :=
  s.issue1 (.shflX p c t d a i) fun q => q.shuffle p t d a (laneXor (subWidth p) i.toNat)

/-- `shfl.up` with a scalar (R252) -/
def execShflUpS (p : Option Pre) (c : Bool) (t : BitVec 3) (d a b : RegNo) (s : State) :
    Host.Outcome State Fault Refusal :=
  s.issue1 (.shflUpS p c t d a b) fun q => q.shuffle p t d a (laneUp (q.rs b).toNat)

/-- `shfl.dn` with a scalar (R252) -/
def execShflDnS (p : Option Pre) (c : Bool) (t : BitVec 3) (d a b : RegNo) (s : State) :
    Host.Outcome State Fault Refusal :=
  s.issue1 (.shflDnS p c t d a b) fun q => q.shuffle p t d a (laneDown (q.rs b).toNat)

/-- `shfl.x` with a scalar (R252) -/
def execShflXS (p : Option Pre) (c : Bool) (t : BitVec 3) (d a b : RegNo) (s : State) :
    Host.Outcome State Fault Refusal :=
  s.issue1 (.shflXS p c t d a b) fun q => q.shuffle p t d a (laneXor (subWidth p) (q.rs b).toNat)

/-! ## Votes (R253) -/

/-- The lanes of L whose value is not zero. -/
def State.trueLanes (s : State) (p : Option Pre) (a : RegNo) : LaneMask :=
  s.selected p &&& maskOf 32 fun i => s.rl a i != 0

/-- `vote.any` (R253) -/
def execVoteAny (p : Option Pre) (c : Bool) (d a : RegNo) (s : State) : Host.Outcome State Fault Refusal :=
  s.issue1 (.voteAny p c d a) fun q => q.ws d (if q.trueLanes p a != 0 then 1 else 0)

/-- `vote.all` (R253) -/
def execVoteAll (p : Option Pre) (c : Bool) (d a : RegNo) (s : State) : Host.Outcome State Fault Refusal :=
  s.issue1 (.voteAll p c d a) fun q => q.ws d (if q.trueLanes p a == q.selected p then 1 else 0)

/-- `ballot` (R253) -/
def execBallot (p : Option Pre) (c : Bool) (d a : RegNo) (s : State) : Host.Outcome State Fault Refusal :=
  s.issue1 (.ballot p c d a) fun q => q.ws d ((q.trueLanes p a).setWidth 64)

/-! ## Scans and reductions (R254) -/

/-- Is a scan type 64 bits wide (2 i64, 4 f64)? -/
def scanWide (t : BitVec 3) : Bool := t == 2 || t == 4

/-- Is it floating point (3 f32, 4 f64)? -/
def scanFloat (t : BitVec 3) : Bool := t == 3 || t == 4

/-- The format of a floating-point scan. -/
def scanFmt (t : BitVec 3) : Fmt := if t == 4 then Fmt.f64 else Fmt.f32

/-- Width in bits. -/
def scanBits (t : BitVec 3) : Nat := if scanWide t then 64 else 32

/-- The identity of an operator: 0 add, 1 min, 2 max, 3 and, 4 or, 5 xor. -/
def scanIdentity (t o : BitVec 3) : Nat :=
  let w := scanBits t
  match o.toNat with
  | 1 => if scanFloat t then (scanFmt t).inf false else if t == 1 then 2 ^ w - 1 else 2 ^ (w - 1) - 1
  | 2 => if scanFloat t then (scanFmt t).inf true else if t == 1 then 0 else 2 ^ (w - 1)
  | 3 => 2 ^ w - 1
  | _ => 0

/-- combine(acc, x). -/
def scanCombine (t o : BitVec 3) (mode : RMode) (acc x : Nat) : Nat × FFlags :=
  let w := scanBits t
  if scanFloat t then
    let f := scanFmt t
    match o.toNat with
    | 0 => fAdd f mode (FVal.ofBits f acc) (FVal.ofBits f x)
    | 1 => fMinMax f false acc x
    | _ => fMinMax f true acc x
  else
    let less : Bool := if t == 1 then decide (acc < x) else decide (sx acc w < sx x w)
    let r :=
      match o.toNat with
      | 0 => (acc + x) % 2 ^ w
      | 1 => if less then acc else x
      | 2 => if less then x else acc
      | 3 => Nat.land acc x
      | 4 => Nat.lor acc x
      | _ => Nat.xor acc x
    (r, FFlags.none)

/-- One lane's step of a scan: the lane, the accumulator before and after it, and the flags of the step. -/
structure ScanStep where
  lane   : Nat
  before : Nat
  after  : Nat
  flags  : FFlags
  deriving DecidableEq, Repr

/-- The steps of one sub-group. -/
def scanSteps (comb : Nat → Nat → Nat × FFlags) (acc : Nat) (xs : List (Nat × Nat)) : List ScanStep :=
  match xs with
  | [] => []
  | (i, x) :: t =>
    let r := comb acc x
    { lane := i, before := acc, after := r.1, flags := r.2 } :: scanSteps comb r.1 t

/-- The steps of every sub-group, with the last accumulator of each step's group. -/
def State.scan (s : State) (p : Option Pre) (t o : BitVec 3) (a : RegNo) : List (ScanStep × Nat) :=
  let w := subWidth p
  let sel := s.selected p
  let lane (i : Nat) : Nat := if scanWide t then s.rl64 a i else (s.rl a i).toNat
  (List.range (32 / w)).flatMap fun g =>
    let ls := (positions 32 (bitOn sel)).filter fun i => i / w == g
    let steps := scanSteps (scanCombine t o (s.mode p)) (scanIdentity t o) (ls.map fun i => (i, lane i))
    let last := (steps.getLast?.map fun x => x.after).getD 0
    steps.map fun x => (x, last)

/-- Writes what a function of each lane's step says, with the flags of every step (R226). -/
def State.putScan (s : State) (p : Option Pre) (t o : BitVec 3) (d a : RegNo) (out : ScanStep × Nat → Nat) : State :=
  let steps := s.scan p t o a
  let sel := s.selected p
  let z := (preOf p).z
  let stepAt (i : Nat) : Option (ScanStep × Nat) := steps.find? fun x => x.1.lane == i
  let val (i : Nat) : Nat := ((stepAt i).map out).getD 0
  s.withFlags sel (fun i => ((stepAt i).map fun x => x.1.flags).getD FFlags.none) fun q =>
    if scanWide t then q.putPair d sel z val else q.putLanes d sel z fun i => BitVec.ofNat 32 (val i)

/-- `vscan` (R254) -/
def execVscan (p : Option Pre) (c : Bool) (t : BitVec 3) (d a : RegNo) (x : Bool) (o : BitVec 3) (s : State) :
    Host.Outcome State Fault Refusal :=
  s.issue1 (.vscan p c t d a x o) fun q => q.putScan p t o d a fun y => if x then y.1.before else y.1.after

/-- `vred` (R254) -/
def execVred (p : Option Pre) (c : Bool) (t : BitVec 3) (d a : RegNo) (o : BitVec 3) (s : State) :
    Host.Outcome State Fault Refusal :=
  s.issue1 (.vred p c t d a o) fun q => q.putScan p t o d a fun y => y.2

/-! ## Carries, intersections and lane numbers (R255 to R257) -/

/-- The carry into lane i: some earlier lane of its sub-group generates, and every lane between propagates. -/
def carryInto (w : Nat) (g p : Nat → Bool) (i : Nat) : Bool :=
  (List.range 32).any fun j =>
    subBase w i ≤ j && j < i && g j && (List.range 32).all fun k => !(j < k && k < i) || p k

/-- `vcarry` (R255) -/
def execVcarry (p : Option Pre) (c : Bool) (d a b : RegNo) (s : State) : Host.Outcome State Fault Refusal :=
  s.issue1 (.vcarry p c d a b) fun q =>
    let sel := q.selected p
    let sum (i : Nat) : Nat := (q.rl a i).toNat + (q.rl b i).toNat
    let gen (i : Nat) : Bool := bitOn sel i && decide (2 ^ 32 ≤ sum i)
    let pro (i : Nat) : Bool := bitOn sel i && sum i % 2 ^ 32 == 2 ^ 32 - 1
    q.putLanes d sel (preOf p).z fun i =>
      let ci := carryInto (subWidth p) gen pro i
      BitVec.ofNat 32 ((if ci then 1 else 0) + (if gen i || (pro i && ci) then 2 else 0) + (if gen i then 4 else 0) +
        (if pro i then 8 else 0))

/-- `ssi` (R256) -/
def execSsi (p : Option Pre) (c : Bool) (d a b : RegNo) (s : State) : Host.Outcome State Fault Refusal :=
  s.issue1 (.ssi p c d a b) fun q =>
    let w := subWidth p
    q.putLanes d (q.selected p) (preOf p).z fun i =>
      match (List.range 32).find? fun j => q.readable w i j && q.rl b j == q.rl a i with
      | some j => BitVec.ofNat 32 (j - subBase w i)
      | none => 0xFFFFFFFF

/-- `vlane` (R257) -/
def execVlane (p : Option Pre) (c : Bool) (d : RegNo) (s : State) : Host.Outcome State Fault Refusal :=
  s.issue1 (.vlane p c d) fun q => q.putLanes d (q.selected p) (preOf p).z fun i => BitVec.ofNat 32 (i % subWidth p)

end Sys2Proof.Machine

end
end

