-- ==== Sys2Proof/Machine/Studbook.lean ====
section
/-!
DEFINITION. The studbook (R436), the outcomes of commands (R434), and the boxes of the Stable (R384) as the front end, the
Groom core and Preic firmware use them.
-/

namespace Sys2Proof.Machine

open Sys2Proof

/-! ## The studbook -/

/-- Records of the studbook: 2 to the power of STUDSIZE. -/
def State.studRing (s : State) : Nat := 2 ^ fld s.host.bar0.studsize 0 5

/-- The bytes of a record (Table 15.3). -/
def Stud.bytes (x : Stud) : List Byte :=
  bytesLE 64 (x.seq.toNat + x.time.toNat * 2 ^ 64 + x.queue.toNat * 2 ^ 128 + (if x.event then 2 ^ 137 else 0) +
    x.outcome.toNat * 2 ^ 144 + x.code.toNat * 2 ^ 152 + x.done.toNat * 2 ^ 192 + x.digest.toNat * 2 ^ 256)

/-- The address of a record. -/
def State.studAddr (s : State) (seq : DWord) : Nat := s.host.bar0.studbase.toNat + 64 * (seq.toNat % s.studRing)

/-- Is the record that the next one would overwrite still pending (R436)? -/
def State.studFull (s : State) : Bool :=
  s.host.stud.any fun x => x.outcome == 0 && decide (x.seq.toNat + s.studRing = s.host.nextSeq.toNat)

/-- Writes a new record as one 64-byte write (R436); its sequence number is the next one. -/
def State.addStud (s : State) (x0 : Stud) : State :=
  let x : Stud := { x0 with seq := s.host.nextSeq }
  let kept := s.host.stud.filter fun y => !(y.seq.toNat + s.studRing ≤ x.seq.toNat)
  let s1 := s.homeWrite (s.studAddr x.seq) x.bytes 0 Policy.plain
  { s1 with host := { s1.host with
      stud := x :: kept, nextSeq := x.seq + 1, bar0 := { s1.host.bar0 with studtail := x.seq } } }

/-- Gives a record its final outcome in one 16-byte write (R434, R436). -/
def State.endStud (s : State) (seq : DWord) (outcome code : BitVec 8) : State :=
  match s.host.stud.find? fun x => x.seq == seq with
  | none => s
  | some x =>
    let y : Stud := { x with outcome := outcome, code := code, done := s.now, verdict := none }
    let s1 := s.homeWrite (s.studAddr seq + 16) ((y.bytes.drop 16).take 16) 0 Policy.plain
    { s1 with host := { s1.host with stud := mapIf s1.host.stud (fun z => z.seq == seq) fun _ => y } }

/-- Decides what outcome a pending command will have (R434). -/
def State.decide_ (s : State) (seq : DWord) (outcome code : BitVec 8) : State :=
  let put (x : Stud) : Stud := { x with verdict := some (outcome, code) }
  { s with host := { s.host with stud := mapIf s.host.stud (fun x => x.seq == seq && x.outcome == 0) put } }

/-- Journals a firmware event (Table 15.3): its digest holds the box in [15:0], CAUSE in [19:16] and the launch's SEQ in
[127:64]. -/
def State.journal (s : State) (die : Fin 4) (box : BitVec 12) (cause : BitVec 4) (launch : DWord) (outcome code : BitVec 8) :
    State :=
  s.addStud
    { seq := 0, time := s.now, queue := 0, event := true, outcome := outcome, code := code, done := s.now,
      digest := BitVec.ofNat 256 (die.val * 4096 + box.toNat + cause.toNat * 2 ^ 16 + launch.toNat * 2 ^ 64), op := 0,
      arg := 0, sig := (0, 0), verdict := none }

/-! ## Boxes (R384) -/

/-- A box that has been written before. -/
def State.boxOf (s : State) (die : Fin 4) (box : BitVec 12) : Option Box :=
  s.host.boxes.find? fun b => b.die == die && b.num == box

/-- STATE of a box; 0 for one that nobody has written. -/
def State.boxState (s : State) (die : Fin 4) (box : BitVec 12) : BitVec 3 :=
  match s.boxOf die box with
  | some b => b.state
  | none => 0

/-- Writes a whole box. -/
def State.putBox (s : State) (b : Box) : State :=
  { s with host := { s.host with boxes := b :: s.host.boxes.filter fun x => !(x.die == b.die && x.num == b.num) } }

/-- The bound group of a box. -/
def State.groupIn (s : State) (die : Fin 4) (box : BitVec 12) : Option Group :=
  s.allGroups.find? fun g => g.id != 0 && g.die == die && g.box == box

/-- The saved context of a box's group. -/
def State.contextIn (s : State) (die : Fin 4) (box : BitVec 12) : Option Context :=
  s.host.contexts.find? fun c => c.die == die && c.box == box && c.complete && !c.discarded

/-! ## Placement of groups (R380, R381, R383) -/

/-- The instance of a domain in which a core lies: cores, clusters and dies by number, wider domains as one. -/
def domainOf (domain : Nat) (k : CoreId) : Nat :=
  match domain with
  | 3 => k.toNat
  | 4 => clusterOf k
  | 5 => dieOf k
  | _ => 0

/-- May two groups of a launch stand on two cores: together in the domain of every level instance they share (R380), and
in distinct instances of a die domain where R381 asks for it? -/
def placedWell (r : BitVec 2048) (a b : Nat) (ka kb : CoreId) : Bool :=
  let g := groupSpans r
  (List.range (levelsOf r)).all fun i =>
    if i < groupLevelAbove r (levelsOf r) || !isSpanLevel r i then true
    else
      let at_ (x j : Nat) : Nat := x * g / instanceSpans r j
      if at_ a i != at_ b i then true
      else
        let apart : Bool :=
          decide (0 < i) && isSpanLevel r (i - 1) && levelDomain r (i - 1) == 5 && at_ a (i - 1) != at_ b (i - 1)
        domainOf (levelDomain r i) ka == domainOf (levelDomain r i) kb && (!apart || dieOf ka != dieOf kb)

/-- Groups of a launch. -/
def groupsOf (r : BitVec 2048) : Nat := launchSpans r / max 1 (groupSpans r)

/-- Has a group of a launch been placed: bound, written into a box, or waiting for a later phase? -/
def State.placed (s : State) (seq : DWord) (n : BitVec 32) : Bool :=
  (match s.launchBy seq with
   | some l => l.started.any fun x => x.1 == n
   | none => true) ||
    s.host.boxes.any fun x => x.state == 1 && x.bindRec.launch == seq && x.bindRec.group == n && !x.bindRec.spawned

/-- The cores on which groups of a launch stand or are to stand in their first phase. -/
def State.placesOf (s : State) (l : Launch) : List (BitVec 32 × CoreId) :=
  l.started ++ (s.host.boxes.filter fun x => x.state == 1 && x.bindRec.launch == l.seq && !x.bindRec.spawned).map fun x =>
    (x.bindRec.group, x.bindRec.core)

/-! ## Stitch regions (R105, R106) -/

/-- The stitch level of a launch (R106): its lowest level bound to cluster, die, package or domain. -/
def stitchLevel (r : BitVec 2048) : Option Nat := (List.range (levelsOf r)).find? fun i => 4 ≤ levelDomain r i

/-- The cluster masks of a die that form a region (R105): one cluster, two adjacent ones, or the whole die. -/
def stitchShapes : List (BitVec 4) := [1, 2, 4, 8, 3, 12, 5, 10, 15]

/-- Groups of one launch that a core holds at most (R383). -/
def groupsPerCore (r : BitVec 2048) : Nat :=
  let g := groupSpans r
  let k := min (min (64 / g) ((4096 - recTeamV r) / (g * recBaseV r))) (512 / (recScratch r / 1024))
  if recScale r = 0 then k else min k (32 / (recScale r / 1024))

/-- The clusters that an instance of a level needs: the smallest shape that holds its groups, 0 where no die does
(log 121). -/
def stitchClusters (r : BitVec 2048) (i : Nat) : Nat :=
  let n := ceilDiv (ceilDiv (max 1 (instanceSpans r i / groupSpans r)) (groupsPerCore r)) 48
  if n ≤ 1 then 1 else if n = 2 then 2 else if n ≤ 4 then 4 else 0

/-- May clusters of a die become a region of so many clusters: they form one, and no other stitching overlaps it? -/
def State.stitchFits (s : State) (d : Fin 4) (m : BitVec 4) (need : Nat) : Bool :=
  stitchShapes.contains m && (positions 4 (bitOn m)).length == need &&
    !s.fabric.stitched.any fun x => x.die == d && x.clusters &&& m != 0

/-- The first region of so many clusters that is free. -/
def State.stitchPlace (s : State) (need : Nat) : Option (Fin 4 × BitVec 4) :=
  (List.finRange 4).findSome? fun d => (stitchShapes.find? fun m => s.stitchFits d m need).map fun m => (d, m)

/-- The instance of the stitch level in which a group lies. -/
def stitchInst (r : BitVec 2048) (i n : Nat) : Nat := n * groupSpans r / instanceSpans r i

/-- The stitching of an instance of a launch. -/
def State.stitchOf (s : State) (seq : DWord) (inst : Nat) : Option Stitching :=
  s.fabric.stitched.find? fun x => x.launch == seq && x.inst == inst

/-- Has an instance of a launch groups that are placed? -/
def State.instStarted (s : State) (l : Launch) (i inst : Nat) : Bool :=
  (s.placesOf l).any fun x => stitchInst l.record i x.1.toNat == inst

/-- The regions that wait to be stitched before their first bind (R106): launch, instance, code and clusters needed. -/
def State.stitchWanted (s : State) : List (DWord × Nat × BitVec 3 × Nat) :=
  s.host.launches.filterMap fun l =>
    let code := fld l.record 28 3
    match stitchLevel l.record, (List.range (groupsOf l.record)).find? fun n => !s.placed l.seq (BitVec.ofNat 32 n) with
    | some i, some n =>
      let inst := stitchInst l.record i n
      if code = 0 || 4 ≤ code || l.aborting || (s.stitchOf l.seq inst).isSome || s.instStarted l i inst then none
      else some (l.seq, inst, BitVec.ofNat 3 code, stitchClusters l.record i)
    | _, _ => none

/-- Lets the stitching a launch asks for a group stand on a core (R106): a stitched instance stands in its region; another
one runs on the plain mesh only where it cannot be stitched and need not be. -/
def State.stitchMay (s : State) (l : Launch) (n : Nat) (k : CoreId) : Bool :=
  if fld l.record 28 3 = 0 then true
  else
    match stitchLevel l.record with
    | none => true
    | some i =>
      let inst := stitchInst l.record i n
      match s.stitchOf l.seq inst with
      | some x => x.die.val == dieOf k && bitOn x.clusters (clusterOf k % 4)
      | none => fld l.record 31 1 = 0 && (s.instStarted l i inst || (s.stitchPlace (stitchClusters l.record i)).isNone)

/-! ## Room for whole instances (R380, R383) -/

/-- Runs of n bytes that fit between runs in use, below a limit. -/
def roomRuns (used : List (Nat × Nat)) (n limit : Nat) : Nat :=
  let us := sortBy (fun a b : Nat × Nat => decide (a.1 < b.1)) used
  let (pos, count) := us.foldl (fun a u => (max a.1 (u.1 + u.2), a.2 + (u.1 - a.1) / n)) (0, 0)
  count + (limit - pos) / n

/-- Do the slots of a record overlap those of a written box of its core? -/
def State.slotsTaken (s : State) (b : BindRecord) : Bool :=
  s.host.boxes.any fun x => x.state == 1 && x.bindRec.core == b.core &&
    decide (x.bindRec.slot0.toNat < b.slot0.toNat + b.nspan.toNat) && decide (b.slot0.toNat < x.bindRec.slot0.toNat + x.bindRec.nspan.toNat)

/-- Groups of a launch that a core can take besides those bound there and those that written boxes name. -/
def State.coreRoom (s : State) (seq : DWord) (r : BitVec 2048) (k : CoreId) : Nat :=
  let gs := s.groupsOn k
  let c := s.coreOf k
  let g := groupSpans r
  let written := (s.host.boxes.filter fun x => x.state == 1 && x.bindRec.core == k).length
  let whole : Nat :=
    if s.host.drained.contains k then 0
    else if gs.isEmpty && c.teams.isEmpty then groupsPerCore r
    else
      let team := c.teams.any fun t => t.launch == seq
      let pools := team || (sumOf c.teams (fun t => t.teamt) + recTeamT r ≤ 64 && sumOf c.teams (fun t => t.teama) + recTeamA r ≤ 16)
      let slots := roomRuns (gs.map fun x => (x.bindRec.slot0.toNat, x.bindRec.nspan.toNat)) g 64
      let regs := (4096 - s.vregsOn k - (if team then 0 else recTeamV r)) / (g * recBaseV r)
      let scr := roomRuns (gs.map fun x => (x.scratch, recScratch (s.recordBy x.launch))) (recScratch r) 0x80000
      let scl := if recScale r = 0 then 64 else roomRuns (gs.map fun x => (x.scale, recScale (s.recordBy x.launch))) (recScale r) 0x8000
      if pools then min (min slots regs) (min scr scl) else 0
  whole - written

/-- The parts of an instance of a domain that is wider than a core: the next narrower domain and its instances. -/
def domainParts (d n : Nat) : List Nat :=
  match d with
  | 4 => (List.range 48).map fun i => 48 * n + i
  | 5 => (List.range 4).map fun i => 4 * n + i
  | 6 => List.range 4
  | _ => [0]

/-- Instances of the domain `lower` within instance n of the domain d. -/
def domainsWithin (fuel lower d n : Nat) : List Nat :=
  match fuel with
  | 0 => [n]
  | k + 1 => if d ≤ lower then [n] else (domainParts d n).flatMap fun m => domainsWithin k lower (d - 1) m

/-- Instances of the n lowest levels of a launch that have room in instance x of the domain of the highest of them; below
the group level, groups on a core (R380, R381, R383). -/
def State.levelRoom (s : State) (seq : DWord) (r : BitVec 2048) (n x : Nat) : Nat :=
  match n with
  | 0 => s.coreRoom seq r (BitVec.ofNat 10 x)
  | i + 1 =>
    if i < groupLevelAbove r (levelsOf r) then s.coreRoom seq r (BitVec.ofNat 10 x)
    else if !isSpanLevel r i then s.levelRoom seq r i x
    else
      let d := levelDomain r i
      let above := i = groupLevelAbove r (levelsOf r) || !isSpanLevel r (i - 1)
      let below := if above then 3 else levelDomain r (i - 1)
      let apart : Bool := !above && below == 5
      sumOf (domainsWithin 4 below d x) (fun m => let c := s.levelRoom seq r i m; if apart then min 1 c else c) / max 1 (levelCount r i)

/-- Is the first phase of a group the first of an instance of a level, and is there no room for all of that instance around
a core (R383)? -/
def State.lacksRoom (s : State) (l : Launch) (n : Nat) (k : CoreId) : Bool :=
  let r := l.record
  s.coreRoom l.seq r k == 0 ||
    (List.range (levelsOf r)).any fun i =>
      groupLevelAbove r (levelsOf r) ≤ i && isSpanLevel r i && !s.instStarted l i (stitchInst r i n) &&
        s.levelRoom l.seq r (i + 1) (domainOf (levelDomain r i) k) == 0

/-- Has the placing of a launch's groups begun and not ended? -/
def State.placing (s : State) (l : Launch) : Bool :=
  let n := (s.placesOf l).length
  decide (0 < n) && decide (n < groupsOf l.record) && !l.aborting

/-- Is a launch bound to clusters by one of its levels? -/
def clusterBound (r : BitVec 2048) : Bool := (List.range (levelsOf r)).any fun i => levelDomain r i == 4

/-- Must a record stand back: another launch's groups are being placed (R383), or a phase of a cluster-bound instance waits
for the core (R380)? -/
def State.standsBack (s : State) (b : BindRecord) : Bool :=
  (s.host.launches.any fun l => l.seq != b.launch && s.placing l) ||
    (!clusterBound (s.recordBy b.launch) && s.host.requests.any fun q =>
      q.2.launch != b.launch && q.2.core == b.core && clusterBound (s.recordBy q.2.launch))

/-- Does a queued request ask for this phase of this group? -/
def asksFor (q b : BindRecord) : Bool :=
  q.launch == b.launch && q.group == b.group && q.spawned == b.spawned && q.phase == b.phase

/-- May a phase that was asked for stand on a core: in the cluster of its group, and for a spawned group on the same core
(R380, R399)? -/
def nearBy (q b : BindRecord) : Bool := if b.spawned then q.core == b.core else clusterOf q.core == clusterOf b.core

/-- May the Groom core write this record: the first phase of a group that is not placed yet, where its launch lets it
stand and has room for all of its instances, or a phase that a group has asked for (R380, R383, R399, R423)? -/
def State.groomMay (s : State) (die : Fin 4) (b : BindRecord) : Bool :=
  match s.launchBy b.launch with
  | none => false
  | some l =>
    let asked := (s.host.requests.any fun q => asksFor q.2 b && nearBy q.2 b) ||
      s.host.contexts.any fun c => c.discarded && asksFor c.group.bindRec b && nearBy c.group.bindRec b
    let first := b.phase == 0 && !b.spawned && decide (b.group.toNat < groupsOf l.record) && !s.placed l.seq b.group &&
      s.stitchMay l b.group.toNat b.core && ((s.placesOf l).all fun x => placedWell l.record x.1.toNat b.group.toNat x.2 b.core) &&
      !s.lacksRoom l b.group.toNat b.core
    !l.aborting && dieOf b.core == die.val && !s.host.drained.contains b.core && !s.slotsTaken b && !s.standsBack b &&
      (asked || first)

end Sys2Proof.Machine
end

