-- ==== Sys2Proof/Machine/EvHost.lean ====
section
/-!
DEFINITION. Events of the host ports and the IO die: the ordering point (R130 to R132, R459), BAR0 registers (R432, R435,
R438, R443), answers to walks (R162, R435), boot and attestation (R439, R440), the timebase's discipline (R437), and the
farrier counters and power islands (R441, R442).
-/

namespace Sys2Proof.Machine

open Sys2Proof

/-! ## The BAR2 window (R458) -/

/-- DWIN of a port. -/
def State.dwin (s : State) (port : Bool) : DWord := if port then s.host.bar0.dwin1 else s.host.bar0.dwin0

/-- The device physical address of a BAR2 offset. -/
def State.windowPa (s : State) (port : Bool) (off : Nat) : Nat := fld (s.dwin port) 12 37 * 4096 + off

/-- The home die of a local address (R130): the IO die for paddock memory. -/
def homeDie (pa : Nat) : DieId := if inHbm pa then ⟨paBits pa 37 2 % 5, Nat.mod_lt _ (by decide)⟩ else 4

/-- The packets of a write (R130): pieces along 128-byte boundaries, as offsets and lengths; `fuel` bounds their number. -/
def packetsOf (fuel pa off n : Nat) : List (Nat × Nat) :=
  match fuel with
  | 0 => []
  | k + 1 =>
    if n = 0 then []
    else
      let m := min n (128 - (pa + off) % 128)
      (off, m) :: packetsOf k pa (off + m) (n - m)

/-! ## Posted writes (R131, R459) -/

/-- Does a request of one domain stand behind an earlier one of another (R131)?  Both are of one port and virtual channel,
and ID-based ordering sets only different requesters apart (log 101). -/
def standsBehind (a b : OrderDomain) : Bool :=
  a.port == b.port && a.vc == b.vc && (a.requester.isNone || b.requester.isNone || a.requester == b.requester)

/-- The posted writes that a new arrival stands behind. -/
def State.earlierPosted (s : State) (dom : OrderDomain) : List Nat :=
  (s.host.posted.filter fun p => standsBehind dom p.dom).map fun p => p.id

/-- Enters a posted write at the ordering point. -/
def State.post (s : State) (dom : OrderDomain) (relaxed : Bool) (pa : Nat) (data : List Byte) (dwin : Option DWord) : State :=
  let p : Posted :=
    { id := s.host.nextPosted, dom := dom, relaxed := relaxed, pa := pa, data := data, released := false, routes := [],
      packets := [], dwin := dwin }
  { s with host := { s.host with posted := s.host.posted ++ [p], nextPosted := s.host.nextPosted + 1 } }

/-- `HOST_POSTED_WRITE` (R130, R131): at most 4,096 bytes at an offset of BAR2. -/
def execHostPostedWrite (dom : OrderDomain) (relaxed : Bool) (pa : Nat) (data : List (BitVec 8)) (s : State) :
    Host.Outcome State Fault Refusal :=
  happens (if data.length ≤ 4096 && decide (pa + data.length ≤ 2 ^ 36) then s.post dom relaxed pa data none else s)

/-- `DWIN_WRITE` (R459): a write of the window's base, ordered as any posted write of its port's first channel. -/
def execDwinWrite (port : Bool) (v : BitVec 64) (s : State) : Host.Outcome State Fault Refusal :=
  happens (s.post { port := port, vc := 0, requester := none } false 0 [] (some v))

/-- n bytes read by the host, line by line.  A poisoned block gives the bytes that stand there (log 102). -/
def State.hostRead (s : State) (pa n : Nat) : List Byte × State :=
  (packetsOf (n / 128 + 2) pa 0 n).foldl (fun r c =>
    let (bs, t) := r.2.hostLine (pa + c.1) c.2
    (r.1 ++ bs, t)) ([], s)

/-- Serves the reads and completions that stand behind nothing any more (R131). -/
def State.serveReads (s : State) : State :=
  let ids := s.host.posted.map fun p => p.id
  let held (r : HeldRead) : Bool := r.behind.any fun i => ids.contains i
  let free := s.host.heldReads.filter fun r => !held r
  let s1 : State := { s with host := { s.host with heldReads := s.host.heldReads.filter held } }
  free.foldl (fun t r =>
    let (bs, u) := if r.completion then (r.data, t) else t.hostRead (t.canonPa (t.windowPa r.dom.port r.pa)) r.len
    { u with host := { u.host with readData := (r.pa, bs) :: u.host.readData } }) s1

/-- A posted write leaves the ordering point: its acknowledgements have returned. -/
def State.donePosted (s : State) (id : Nat) : State :=
  ({ s with host := { s.host with posted := s.host.posted.filter fun p => p.id != id } } : State).serveReads

/-- Sets DWIN of a port; its reserved bits read as zero (R3). -/
def State.setDwin (s : State) (port : Bool) (v : DWord) : State :=
  let w : DWord := BitVec.ofNat 64 (fld v 12 37 * 4096)
  let b := s.host.bar0
  { s with host := { s.host with bar0 := if port then { b with dwin1 := w } else { b with dwin0 := w } } }

/-- Releases a posted write: a DWIN write takes effect, a write to an unbacked address is dropped and logged, any other is
sent to its homes with the address that DWIN gives now (R459). -/
def State.release (s : State) (p : Posted) : State :=
  match p.dwin with
  | some v => (s.setDwin p.dom.port v).donePosted p.id
  | none =>
    let pa := s.canonPa (s.windowPa p.dom.port p.pa)
    let cuts := packetsOf (p.data.length / 128 + 2) pa 0 p.data.length
    if cuts.any fun c => !localBacked (pa + c.1) then (s.logUnreachable pa).donePosted p.id
    else
      let routes := (List.finRange 5).filter fun d => cuts.any fun c => homeDie (pa + c.1) == d
      let q : Posted := { p with pa := pa, released := true, routes := routes, packets := cuts }
      if routes.isEmpty then s.donePosted p.id
      else { s with host := { s.host with posted := mapIf s.host.posted (fun x => x.id == p.id) fun _ => q } }

/-- `ORDERING_POINT_RELEASE` (R131): every earlier posted write of the domain has been acknowledged, or the write has the
relaxed-ordering attribute. -/
def execOrderingPointRelease (id : Nat) (s : State) : Host.Outcome State Fault Refusal :=
  match s.host.posted.find? fun p => p.id == id with
  | none => happens s
  | some p =>
    let waits := !p.relaxed && s.host.posted.any fun q => decide (q.id < p.id) && standsBehind p.dom q.dom
    happens (if p.released || waits then s else s.release p)

/-- The lines that a write's packets for one home die touch. -/
def Posted.cutsFor (p : Posted) (die : DieId) : List (Nat × Nat) :=
  (packetsOf (p.data.length / 128 + 2) p.pa 0 p.data.length).filter fun c => homeDie (p.pa + c.1) == die

/-- Replaces a posted write. -/
def State.putPosted (s : State) (p : Posted) : State :=
  { s with host := { s.host with posted := mapIf s.host.posted (fun x => x.id == p.id) fun _ => p } }

/-- Performs one packet of a posted write at its home (R92, R120; log 10). -/
def State.performPacket (s : State) (p : Posted) (c : Nat × Nat) : State :=
  (s.homeWrite (p.pa + c.1) ((p.data.drop c.1).take c.2) 0 Policy.plain).putPosted
    { p with packets := p.packets.filter fun x => x != c }

/-- `ROUTE_ACKNOWLEDGEMENT` (R120, R131): the packets of a route are performed one at a time, in an order that a free value
gives; once they are and every sharer of their lines is invalidated, the acknowledgement reaches the ordering point. -/
def execRouteAcknowledgement (id : Nat) (die : DieId) (s : State) : Host.Outcome State Fault Refusal :=
  match s.host.posted.find? fun p => p.id == id with
  | none => happens s
  | some p =>
    if !p.released || !p.routes.contains die then happens s
    else
      let mine := p.packets.filter fun c => homeDie (p.pa + c.1) == die
      match mine.filter fun c => !s.transiting (.posted id c.1) with
      | c :: cs =>
        let (i, s1) := s.oneOf (cs.length + 1)
        happens (s1.performPacket p (listAt (c :: cs) i c))
      | [] =>
        if !mine.isEmpty || (p.cutsFor die).any fun c => s.invalidating (lineOf (p.pa + c.1)) then happens s
        else
          let q : Posted := { p with routes := p.routes.filter fun d => d != die }
          happens (if q.routes.isEmpty then s.donePosted id else s.putPosted q)

/-! ## Reads and device writes (R131, R132) -/

/-- `HOST_READ_REQUEST` (R131): a read of BAR2 is held behind earlier posted writes of its domain. -/
def execHostReadRequest (dom : OrderDomain) (pa len : Nat) (s : State) : Host.Outcome State Fault Refusal :=
  let r : HeldRead := { dom := dom, pa := pa, len := min len 4096, data := [], completion := false, behind := s.earlierPosted dom }
  happens ({ s with host := { s.host with heldReads := s.host.heldReads ++ [r] } } : State).serveReads

/-- `DEVICE_READ_COMPLETION` (R131): a completion for a device read is held in the same way. -/
def execDeviceReadCompletion (dom : OrderDomain) (tag : Nat) (data : List (BitVec 8)) (s : State) :
    Host.Outcome State Fault Refusal :=
  let r : HeldRead := { dom := dom, pa := tag, len := data.length, data := data, completion := true, behind := s.earlierPosted dom }
  happens ({ s with host := { s.host with heldReads := s.host.heldReads ++ [r] } } : State).serveReads

/-- `DEVICE_WRITE_TO_HOST` (R132): the oldest device write at the ordering point is placed on the link. -/
def execDeviceWriteToHost (id : Nat) (s : State) : Host.Outcome State Fault Refusal :=
  match s.host.devWrites with
  | [] => happens s
  | w :: rest =>
    happens (if w.id == id then
      { s with mem := Memory.put s.mem w.key w.data, host := { s.host with devWrites := rest } } else s)

/-! ## BAR0 (R432, R435, R438, R443) -/

/-- A command queue; one that nobody has set up holds zeros (Table 15.1). -/
def State.queueOf (s : State) (port : Bool) (q : BitVec 8) : Queue :=
  match s.host.queues.find? fun x => x.port == port && x.num == q with
  | some x => x
  | none => { port := port, num := q, base := 0, size := 0, head := 0, tail := 0 }

/-- Replaces a queue. -/
def State.putQueue (s : State) (q : Queue) : State :=
  { s with host := { s.host with queues := q :: s.host.queues.filter fun x => !(x.port == q.port && x.num == q.num) } }

/-- `QTAIL_DOORBELL` (R432): a TAIL with bits above the ring's size set is ignored. -/
def execQtailDoorbell (port : Bool) (q : BitVec 8) (tail : BitVec 64) (s : State) : Host.Outcome State Fault Refusal :=
  let x := s.queueOf port q
  match ringSize x.size with
  | none => happens s
  | some n => happens (if fld tail 0 16 < n then s.putQueue { x with tail := BitVec.ofNat 16 (fld tail 0 16) } else s)

/-- The value of an index register of a ring: modulo the ring's size when it has one. -/
def ringIndex (size v : DWord) : DWord :=
  match ringSize size with
  | some n => BitVec.ofNat 64 (v.toNat % n)
  | none => v

/-- `FQTAIL_WRITE` (R435): consumed entries make room, and waiting reports are placed. -/
def execFqtailWrite (v : BitVec 64) (s : State) : Host.Outcome State Fault Refusal :=
  let b := s.host.bar0
  let s1 : State := { s with host := { s.host with bar0 := { b with fqtail := ringIndex b.fqsize v } } }
  happens (s1.placeReports s1.host.reports)

/-- `TRTAIL_WRITE` (R438) -/
def execTrtailWrite (v : BitVec 64) (s : State) : Host.Outcome State Fault Refusal :=
  let b := s.host.bar0
  happens { s with host := { s.host with bar0 := { b with trtail := ringIndex b.trsize v } } }

/-- `TRDROP_READ` (R438): the read returns the count and clears it. -/
def execTrdropRead (s : State) : Host.Outcome State Fault Refusal :=
  let b := s.host.bar0
  happens { s with host := { s.host with bar0 := { b with trdrop := 0 },
                                         readData := (0x420, bytesLE 8 b.trdrop.toNat) :: s.host.readData } }

/-- A queue with its size written: HEAD and TAIL, which are equal then, are indices modulo the new one (R432). -/
def Queue.resize (q : Queue) (size : DWord) : Queue :=
  match ringSize size with
  | some n => { q with size := size, head := BitVec.ofNat 16 (q.head.toNat % n), tail := BitVec.ofNat 16 (q.tail.toNat % n) }
  | none => { q with size := size }

/-- `BAR0_REGISTER_WRITE` (R432, R443): TRBASE, TRSIZE, QBASE and QSIZE; a queue's registers keep their values while its HEAD
and TAIL differ, and every other offset ignores the write. -/
def execBar0RegisterWrite (port : Bool) (off : BitVec 20) (v : BitVec 64) (s : State) : Host.Outcome State Fault Refusal :=
  let o := off.toNat
  let b := s.host.bar0
  let size : DWord := BitVec.ofNat 64 (fld v 0 5)
  let q := s.queueOf port (BitVec.ofNat 8 ((o - 0x10000) / 32))
  let idle := q.head == q.tail
  happens (
    if o = 0x400 then { s with host := { s.host with bar0 := { b with trbase := v } } }
    else if o = 0x408 then { s with host := { s.host with bar0 := { b with trsize := size } } }
    else if 0x10000 ≤ o && o < 0x12000 && idle && o % 32 = 0 then s.putQueue { q with base := v }
    else if 0x10000 ≤ o && o < 0x12000 && idle && o % 32 = 8 then s.putQueue (q.resize size)
    else s)

/-- A farrier counter's value. -/
def State.counterOf (s : State) (c : Counter) : DWord :=
  match s.host.counters.find? fun p => p.1 = c with
  | some p => p.2
  | none => 0

/-- What an aligned 8-byte read of BAR0 returns (Table 15.5); a write-only register and an offset that the table does not
list read as zero.  TRDROP's clearing is `TRDROP_READ`. -/
def State.bar0Read (s : State) (port : Bool) (o : Nat) : DWord :=
  let b := s.host.bar0
  let q := s.queueOf port (BitVec.ofNat 8 ((o - 0x10000) / 32))
  if 0x10000 ≤ o && o < 0x12000 then
    match o % 32 with
    | 0 => q.base
    | 8 => q.size
    | 16 => q.head.setWidth 64
    | 24 => q.tail.setWidth 64
    | _ => 0
  else if 0x20000 ≤ o && o < 0x20180 then
    let i : Fin 24 := ⟨(o - 0x20000) / 16 % 24, Nat.mod_lt _ (by decide)⟩
    let x := s.host.islands[i.val]
    if o % 16 = 8 then s.counterOf (.throttle i)
    else if o % 16 = 0 then
      BitVec.ofNat 64 (x.mv.toNat + x.mhz.toNat * 2 ^ 16 + x.mw.toNat * 2 ^ 32 + x.degC.toNat * 2 ^ 56)
    else 0
  else
    match o with
    | 0x40 => s.dwin port
    | 0x100 => b.fqbase
    | 0x108 => b.fqsize
    | 0x110 => b.fqhead
    | 0x118 => b.fqtail
    | 0x200 => b.studbase
    | 0x208 => b.studsize
    | 0x210 => b.studtail
    | 0x300 => b.tbstat
    | 0x308 => b.sigstat
    | 0x400 => b.trbase
    | 0x408 => b.trsize
    | 0x410 => b.trhead
    | 0x418 => b.trtail
    | 0x420 => b.trdrop
    | _ => 0

/-- Does Table 15.5 list a register at this offset? -/
def bar0Listed (o : Nat) : Bool :=
  (0x10000 ≤ o && o < 0x12000 && o % 8 == 0) || (0x20000 ≤ o && o < 0x20180 && o % 8 == 0) ||
  [0x40, 0x100, 0x108, 0x110, 0x118, 0x120, 0x200, 0x208, 0x210, 0x300, 0x308, 0x400, 0x408, 0x410, 0x418, 0x420].contains o

/-- What a host read of n bytes at an offset of BAR0 returns: a narrower or misaligned access to a listed register reads as
all ones (R443). -/
def State.bar0Access (s : State) (port : Bool) (o n : Nat) : DWord :=
  if n = 8 && o % 8 == 0 then s.bar0Read port o
  else if bar0Listed (o / 8 * 8) || bar0Listed ((o + n - 1) / 8 * 8) then BitVec.ofNat 64 (2 ^ (8 * n) - 1)
  else 0

/-! ## Answers to walks (R162, R188, R435) -/

/-- What a park on a walk becomes: none to replay, or the mark that the host failed it. -/
def answered (walk : BitVec 16) (fails : Bool) (x : Slice) : Slice :=
  match x.wait with
  | some (.parked w va _) =>
    if w == walk then { x with wait := if fails then some (.parkFailed va) else none } else x
  | _ => x

/-- `FAULTACK` (R435): every span and every piece of engine work parked on the walk replays, or takes ACCESS_VIOLATION. -/
def execFaultack (v : BitVec 64) (s : State) : Host.Outcome State Fault Refusal :=
  let walk : BitVec 16 := BitVec.ofNat 16 (fld v 0 16)
  match s.memsys.walks.find? fun w => w.id == walk with
  | none => happens s
  | some w =>
    let fails := bitOn v 16
    let bad : Option DWord := if fails then some w.va else none
    let cmd (c : Command) : Command := if c.parked == some walk then { c with parked := none, failed := bad } else c
    let span (p : Span) : Span :=
      { p with slices := vecMap p.slices fun _ x => answered walk fails x, cmds := p.cmds.map cmd }
    let ops (k : Core) : Core :=
      { k with ops := mapIf k.ops (fun o => o.parked == some walk) fun o => { o with parked := none, failed := bad } }
    let s1 := s.mapSpans span
    happens
      { s1 with
        core := ops s1.core, cores := s1.cores.map ops,
        slowOps := mapIf s1.slowOps (fun o => o.parked == some walk) (fun o => { o with parked := none, failed := bad }),
        starter := mapIf s1.starter (fun e => e.parked == some walk) (fun e => { e with parked := none, failed := bad }),
        memsys := { s1.memsys with walks := s1.memsys.walks.filter fun x => x.id != walk } }

/-! ## Boot and attestation (R9, R439, R440) -/

/-- The bytes of a 512-bit value. -/
def wideBytes (x : BitVec 512) : List Byte := bytesLE 64 x.toNat

/-- `COLD_RESET` (R9, R439, R441): every register takes its reset value; MR0 is extended with the digest of the Preic image,
and the result of the signature check is recorded.  Fuses, non-volatile counters and the host's own memory stay. -/
def execColdReset (image : BitVec 512) (sig : BitVec 2) (s : State) : Host.Outcome State Fault Refusal :=
  let r := State.reset
  let mr0 := sha3 (wideBytes 0 ++ wideBytes image)
  happens
    { r with
      mem := s.mem.filter (fun c => decide (2 ^ 63 ≤ c.1)), fresh := s.fresh, nextId := s.nextId, tickNs := s.tickNs,
      agenda := s.agenda,
      host := { r.host with
        mr := r.host.mr.set 0 mr0, fuseHash := s.host.fuseHash, counters := s.host.nvCounters,
        nvCounters := s.host.nvCounters, bar0 := { r.host.bar0 with sigstat := sig.setWidth 64 } } }

/-- The report for a nonce (R440). -/
def State.attestation (s : State) (nonce : BitVec 512) : List Byte :=
  let body := wideBytes nonce ++ bytesLE 8 s.now.toNat ++ s.host.mr.toList.flatMap wideBytes ++
    bytesLE 8 s.host.bar0.sigstat.toNat ++ wideBytes Config.identityDigest
  body ++ Config.mldsaSign (sha3 body)

/-- `ATTESTATION_REQUEST` (R440): reports in order of arrival, newest last. -/
def execAttestationRequest (nonce : BitVec 512) (s : State) : Host.Outcome State Fault Refusal :=
  happens { s with host := { s.host with attest := s.host.attest ++ [s.attestation nonce] } }

/-! ## The timebase (R437) -/

/-- TBSTAT of a source and a measured offset. -/
def tbstatOf (source : BitVec 2) (offset : BitVec 32) : DWord :=
  BitVec.ofNat 64 (source.toNat + offset.toNat * 2 ^ 32)

/-- `TIMEBASE_SYNC` (R437): PTP, or PTM while no PTP master is heard, reports the offset; the first value before the first
command is a step, and a later one is corrected by slewing (R183). -/
def execTimebaseSync (ptm : Bool) (offset : BitVec 32) (s : State) : Host.Outcome State Fault Refusal :=
  if ptm && s.host.tbSource == 1 then happens s
  else
    let source : BitVec 2 := if ptm then 2 else 1
    let first := !s.host.tbSet && s.host.nextSeq == 0
    let s1 : State := { s with now := if first then s.now - offset.signExtend 64 else s.now }
    happens { s1 with host := { s1.host with
      tbSource := source, tbSet := true, slew := if first then 0 else offset.toInt,
      bar0 := { s1.host.bar0 with tbstat := tbstatOf source offset } } }

/-- `PTP_SOURCE_LOSS` (R437): PTM if it is there, else holdover. -/
def execPtpSourceLoss (ptm : Bool) (s : State) : Host.Outcome State Fault Refusal :=
  let source : BitVec 2 := if ptm then 2 else 0
  let b := s.host.bar0
  happens { s with host := { s.host with
    tbSource := source, bar0 := { b with tbstat := tbstatOf source (BitVec.ofNat 32 (fld b.tbstat 32 32)) } } }

/-! ## Counters and islands (R441, R442) -/

/-- The farrier counters are copied to on-package non-volatile storage (R441). -/
def State.copyCounters (s : State) : State :=
  { s with host := { s.host with nvCounters := s.host.counters, snapAt := s.now } }

/-- An hour, in nanoseconds. -/
def hourNs : Nat := 3600000000000

/-- Is the hourly copy of the counters due? -/
def State.snapshotDue (s : State) : Bool := decide (hourNs ≤ (s.now - s.host.snapAt).toNat)

/-- `FARRIER_SNAPSHOT` (R441) -/
def execFarrierSnapshot (s : State) : Host.Outcome State Fault Refusal := happens s.copyCounters

/-- `ORDERLY_SHUTDOWN` (R441) -/
def execOrderlyShutdown (s : State) : Host.Outcome State Fault Refusal := happens s.copyCounters

/-- `ISLAND_THROTTLE` (R442): the island's clock is lowered and its throttle count advances. -/
def execIslandThrottle (island : Fin 24) (mhz : BitVec 16) (s : State) : Host.Outcome State Fault Refusal :=
  let x := s.host.islands[island.val]
  let s1 : State := { s with host := { s.host with islands := s.host.islands.set island.val { x with mhz := mhz } island.isLt } }
  happens (s1.count (.throttle island))

end Sys2Proof.Machine
end

