-- ==== Sys2Proof/Machine/ContextArea.lean ====
section
/-!
DEFINITION. The context area of a stopped group in HBM4E (R428): the group header (Table 14.7), the span records
(Table 14.9), tile and accumulator records (Table 14.10), the Coachman record, S, X and the quarantine.  Where the tables
name what a field holds and not its inner form, its bytes are free values (log 80).
-/

namespace Sys2Proof.Machine

open Sys2Proof

/-- Free bytes for fields of a context area: the number of the field and its length. -/
abbrev FreeField := Nat → Nat → List Byte

/-- n bytes, cut or filled up with zeros. -/
def sized (n : Nat) (bs : List Byte) : List Byte := (bs ++ List.replicate n 0).take n

/-- The group header (Table 14.7). -/
def Context.header (c : Context) (g : Group) (tinfo tpc : DWord) : List Byte :=
  let w0 := c.cause.toNat + c.spans.length * 2 ^ 4 + (if c.reinsHolder.isSome then 2 ^ 11 else 0) +
    c.reinsHolder.getD 0 * 2 ^ 12 + (if c.reinsOffer.isSome then 2 ^ 18 else 0) + c.reinsOffer.getD 0 * 2 ^ 19 +
    g.xv * 2 ^ 25 + g.tiles.length * 2 ^ 29 + g.accs.length * 2 ^ 36 + 128 * c.quarantine.length * 2 ^ 41
  bytesLE 8 w0 ++ bytesLE 8 c.stopTime.toNat ++ bytesLE 12 g.bindRec.age.toNat ++ bytesLE 4 g.logSeq.toNat ++
    bytesLE 8 tinfo.toNat ++ bytesLE 8 tpc.toNat ++ bytesLE 16 0

/-- The first slice of a span in a wait that p picks a word from. -/
def Span.firstWait (p : Span) (f : Slice → Option DWord) : Option DWord :=
  ((List.range 8).filterMap fun j => f (p.slice j)).head?

/-- The wake time, the waiting instruction's place and the replay-pending address of a span, where it has them. -/
def Span.waitWords (p : Span) : List (Option DWord) :=
  [p.firstWait fun x => match x.wait with
    | some (.sleep t) => some t
    | _ => none,
   p.firstWait fun x => if x.wait.isSome then some (pcWord x.pc x.slot) else none,
   p.firstWait fun x => match x.wait with
    | some (.parked _ va _) => some va
    | _ => none]

/-- A word that is there, or a free one. -/
def FreeField.word (f : FreeField) (k : Nat) (w : Option DWord) : List Byte :=
  match w with
  | some x => bytesLE 8 x.toNat
  | none => f k 8

/-- SYSREGS of a span record. -/
def Span.sysWords (p : Span) (f : FreeField) (k : Nat) : List Byte :=
  let regs := [p.regs.status, p.regs.modq, p.regs.qthresh, p.regs.nttlim, p.regs.xwin, p.trap.trapbase, p.trap.faultpc,
    p.trap.faultaddr, p.trap.word0, p.trap.word1, p.trap.word2]
  regs.flatMap (fun x => bytesLE 8 x.toNat) ++ f k 8 ++
    ((List.range 3).flatMap fun i => f.word (k + 1 + i) (listAt p.waitWords i none)) ++ bytesLE 8 0

/-- CMDS of a span record: W0 to W3, token, promise and what is done in words of 8 bytes; the form of the held fault, and
what an empty record holds, are free. -/
def Span.cmdRecords (p : Span) (f : FreeField) (k : Nat) : List Byte :=
  (List.range 8).flatMap fun i =>
    match p.cmds[i]? with
    | some c =>
      c.words.toList.flatMap (fun w => bytesLE 8 w.toNat) ++ bytesLE 8 c.token.toNat ++ bytesLE 8 c.promise.toNat ++
        bytesLE 8 c.done ++ f (k + i) 8
    | none => f (k + i) 64

/-- A span record and the span's vectors (Table 14.9); k numbers its free fields. -/
def State.contextSpan (s : State) (p : Span) (sl vregs k : Nat) (f : FreeField) : List Byte :=
  let masks := (List.range 16).flatMap fun i => bytesLE 4 (if i = 0 then 0xFFFFFFFF else (vecAt p.regs.m i 0).toNat)
  let frame : List Byte :=
    match p.frame with
    | some x => f (k + 7) 2048 ++ bytesLE 8 x.s62.toNat ++ bytesLE 8 x.s63.toNat ++ f (k + 8) 48
    | none => f (k + 7) 2112
  p.regs.s.toList.flatMap (fun x => bytesLE 8 x.toNat) ++ masks ++ p.sysWords f k ++
    p.segs.toList.flatMap (fun g => bytesLE 8 g.base.toNat ++ bytesLE 8 g.lim.toNat) ++
    f (k + 4) 64 ++ f (k + 5) 128 ++ f (k + 6) 2048 ++ frame ++ p.cmdRecords f (k + 9) ++ bytesLE 448 0 ++
    (List.range vregs).flatMap (s.vectorBytes p sl)

/-- An accumulator record (Table 14.10). -/
def Acc.record (x : Acc) (k : Nat) (f : FreeField) : List Byte :=
  let hdr : Nat := if x.seq.isSome then leOf (f (k + 1) 8) % 2 ^ 63 else 0
  bytesLE 16384 x.data.toNat ++ f k 32768 ++
    bytesLE 64 (x.count.toNat + (if x.sign then 2 ^ 11 else 0) + (if x.seq.isSome then 2 ^ 12 else 0) + hdr * 2 ^ 13)

/-- A quarantine entry: the segment address (R174) and 128 data bytes. -/
def Quarantine.record (q : Quarantine) : List Byte := bytesLE 8 (q.off + q.seg.toNat * 2 ^ 61) ++ sized 128 q.data

/-- The bytes of a context area, before its group is taken from its core. -/
def State.areaBytes (s : State) (g : Group) (c : Context) (tinfo tpc : DWord) (f : FreeField) : List Byte :=
  let sl := recSl (s.recordBy g.launch)
  let tile (x : Tile) : List Byte := bytesLE 4096 x.data.toNat ++ bytesLE 8 x.shape.toNat
  c.header g tinfo tpc ++
    ((positions c.spans.length fun _ => true).flatMap fun i =>
      match c.spans[i]? with
      | some p => s.contextSpan p sl g.vregs (32 * i) f
      | none => []) ++
    g.tiles.flatMap tile ++
    ((positions g.accs.length fun _ => true).flatMap fun i =>
      match g.accs[i]? with
      | some x => x.record (2048 + 2 * i) f
      | none => []) ++
    f 4095 1024 ++ c.scratch ++ c.scale ++ c.quarantine.flatMap Quarantine.record

/-- A 4 KiB-aligned place in HBM4E for n bytes, of Preic firmware's choice (R428; log 80). -/
def areaPlace (launch : DWord) (group : BitVec 32) (n : Nat) : Nat :=
  4096 * (Config.contextArea launch group % (2 ^ 27 - (n + 4095) / 4096))

/-- Writes the context area of a group that stops. -/
def State.saveArea (s : State) (g : Group) (c : Context) (tinfo tpc : DWord) : State :=
  let f : FreeField := fun k n => bytesLE n (Config.fresh (s.fresh + k))
  let bs := s.areaBytes g c tinfo tpc f
  ({ s with fresh := s.fresh + 4096 } : State).bagWrite (areaPlace g.launch g.bindRec.group bs.length) bs

end Sys2Proof.Machine
end

