-- ==== Sys2Proof/Machine/EvHome.lean ====
section
/-!
DEFINITION. Events at the homes and cores of the access paths: accesses performed, updates combined, invalidations,
acknowledgements, the end and the close of regions, saddle touches and rollback (R119, R120, R152, R326, R350 to R364),
and the entry into a handler and promotion (R44, R387, R413).
-/

noncomputable section

namespace Sys2Proof.Machine

open Sys2Proof

/-! ## Accesses at their homes -/

/-- `ACCESS_AT_HOME` (R119, R360, R362) -/
def execAccessAtHome (op sector : Nat) (s : State) : Host.Outcome State Fault Refusal := happens (s.accessAtHome op sector)

/-- `ATOMIC_AT_HOME` (R325, R330, R333, R340) -/
def execAtomicAtHome (op lane : Nat) (s : State) : Host.Outcome State Fault Refusal := happens (s.atomicAtHome op lane)

/-- `REDUCTION_COMBINE` (R326) -/
def execReductionCombine (op op2 : Nat) (s : State) : Host.Outcome State Fault Refusal :=
  happens (s.combineReductions op op2)

/-- `STORE_ACKNOWLEDGEMENT` (R120, R365) -/
def execStoreAcknowledgement (op sector : Nat) (s : State) : Host.Outcome State Fault Refusal :=
  happens (s.acknowledge op sector)

/-- `SHARER_INVALIDATION` (R152): an RDC, or the IO die's prefetch buffer, drops its copy of a line. -/
def execSharerInvalidation (line : Nat) (sharer : Fin 5) (s : State) : Host.Outcome State Fault Refusal :=
  let x := s.sharersOf line
  if !bitOn x.inval sharer.val then happens s
  else
    let keep (l : Line) : Bool :=
      match l.rdc with
      | some d => !(l.line == line && d.val == sharer.val)
      | none => true
    let buffered := if sharer.val = 4 then s.memsys.prefetched.filter fun l => l != line else s.memsys.prefetched
    let s1 : State := { s with memsys := { s.memsys with lines := s.memsys.lines.filter keep, prefetched := buffered } }
    happens (s1.setSharers { x with inval := setBit x.inval sharer.val false, confirm := setBit x.confirm sharer.val true })

/-- `INVALIDATION_CONFIRMATION` (R152): the home counts a confirmation. -/
def execInvalidationConfirmation (line : Nat) (sharer : Fin 5) (s : State) : Host.Outcome State Fault Refusal :=
  let x := s.sharersOf line
  happens (if bitOn x.confirm sharer.val then s.setSharers { x with confirm := setBit x.confirm sharer.val false } else s)

/-! ## Regions -/

/-- `REGION_CLOSE` (R358, R362) -/
def execRegionClose (r : RegionId) (s : State) : Host.Outcome State Fault Refusal :=
  happens (if s.closable r then s.closeRegion r else s)

/-- `REGION_LIMIT` (R357): a region that has reached a limit ends, as `fence.package` does; sector requests that it had no
room for are then sent. -/
def execRegionLimit (sp : SpanId) (s : State) : Host.Outcome State Fault Refusal :=
  if (s.spanOf sp).isNone then happens s
  else
    let t := s.focus sp
    happens (if t.regionFull && t.sentDrained 4 then t.endRegion.sendQueued else s)

/-! ## Translation -/

/-- Walks of a die that have a walker: the 64 oldest that have not met an absent entry (R160, R161). -/
def State.walkers (s : State) (die : Fin 4) : List Walk :=
  (s.memsys.walks.filter fun w => w.die = die && w.absent.isNone).take 64

/-- `TRANSLATION_WALK` (R158 to R161): a walk that has a walker reads the tables through the MSC and ends, filling the cache
of its die for all that have joined it, or meets an absent entry and stays open. -/
def execTranslationWalk (walk : BitVec 16) (s : State) : Host.Outcome State Fault Refusal :=
  match s.memsys.walks.find? fun w => w.id == walk with
  | none => happens s
  | some w =>
    if !(s.walkers w.die).any fun x => x.id == walk then happens s
    else
      let t := s.readTables w.asid w.va.toNat
      let drop : State := { t with memsys := { t.memsys with walks := t.memsys.walks.filter fun x => x.id != walk } }
      match s.walk w.asid w.va.toNat with
      | .ok (e, bits) =>
        happens (drop.keepTrans
          { core := none, die := w.die, asid := w.asid, vpn := w.va.toNat / 2 ^ bits, bits := bits, entry := e })
      | .error .absent =>
        happens { t with memsys := { t.memsys with
          walks := mapIf t.memsys.walks (fun x => x.id == walk) fun x =>
            { x with absent := some (s.absentRange w.asid w.va.toNat) } } }
      | .error _ => happens drop

/-! ## Saddles (R350, R351, R353) -/

/-- `SADDLE_TOUCH` (R350): the oldest task that waits for a granule touches it again, once the touch can go on: it takes the
granule, or unseats a younger holder. -/
def execSaddleTouch (sp : SpanId) (s : State) : Host.Outcome State Fault Refusal :=
  match s.spanOf sp with
  | none => happens s
  | some p =>
    match p.saddleWait, s.groupOf p.group with
    | some (anchor, sectors), some g =>
      if !s.saddleWaiter p || s.olderWaits g anchor || !s.touchFree g anchor then happens s
      else
        let r := g.record anchor sectors
        happens (if s.grantable g r then s.giveSaddle sp g r else s.updSpan sp fun q => q.endSaddleWait anchor)
    | _, _ => happens s

/-- Has every access that a group's spans issued been performed (R353 step 2)? -/
def State.groupPerformed (s : State) (g : GroupId) : Bool :=
  !(s.memOps.any fun o => o.group == g && o.reqs.any fun q => q.status.onWay)

/-- Has a group engine work that runs to completion before its spans are released (R353 step 1)? -/
def State.groupWorks (s : State) (g : GroupId) : Bool :=
  let mine (id : SpanId) : Bool := (s.spanOf id).map (fun p => p.group) == some g
  (s.spansOf g).any (fun p => p.cmds.any fun c => !c.complete) || (s.slowOps.any fun o => mine o.span && !o.ready) ||
    ((s.core :: s.cores).any fun c => c.ops.any fun o => mine o.span) ||
    s.starter.any fun e => e.words.isSome && e.ownerGroup == g && !e.complete

/-- What a group's spans have in flight goes with them. -/
def State.forgetOps (s : State) (g : Group) : State :=
  let mine (id : SpanId) : Bool := (s.spanOf id).map (fun p => p.group) == some g.id
  let s1 := s.updCore g.bindRec.core fun c => { c with ops := c.ops.filter fun o => !mine o.span }
  { s1 with memOps := s.memOps.filter (fun o => o.group != g.id), slowOps := s.slowOps.filter (fun o => !mine o.span),
            hayFrees := s.hayFrees.filter fun h => !mine h.span }

/-- A bind request for the same phase of a group (R353 step 5): its age stamp stays. -/
def State.requeue (s : State) (g : Group) : State :=
  let b : BindRecord := { g.bindRec with deadline := BitVec.allOnes 64 }
  { s with host := { s.host with requests := s.host.requests ++ [(g.launch, b)] } }

/-- The log of a resident group is replayed and its saddles are released (R353 steps 2 and 3). -/
def State.rollback (s : State) (g : Group) : State := (s.replayLog g.log).releaseSaddles g.id

/-- A resident group that is being unseated: its accesses are performed and its engine work ends; then its log is replayed,
its spans are released and it is queued again. -/
def State.unseatGroup (s : State) (g : Group) : State :=
  if !s.groupPerformed g.id || s.groupWorks g.id then s
  else
      let s1 := s.rollback g
      let s2 := ((s1.forgetOps g).setBox g.die g.box 6).dropGroup g.id
      ((s2.requeue g).count .unseats).trace 5 g.bindRec.age.toNat

/-- A saved group that is unseated: its context is discarded (R353 step 4, R355). -/
def State.unseatSaved (s : State) (c : Context) : State :=
  let s1 := s.rollback c.group
  let s2 : State :=
    { s1 with
      monitors := s1.monitors.filter (fun m => m.away != some c.group.id),
      starter := s1.starter.filter (fun e => e.ownerGroup != c.group.id || e.words.isNone),
      hayFrees := s1.hayFrees.filter (fun h => !(h.launch == c.group.launch && c.spans.any fun p => p.id == h.span)),
      host := { s1.host with contexts := s1.host.contexts.filter fun x => x.group.id != c.group.id } }
  ((s2.requeue c.group).count .unseats).trace 5 c.group.bindRec.age.toNat

/-- `ROLLBACK_REPLAY` (R353) -/
def execRollbackReplay (g : GroupId) (s : State) : Host.Outcome State Fault Refusal :=
  match s.groupOf g with
  | some x => happens (if x.status == .unseating then s.unseatGroup x else s)
  | none =>
    match s.host.contexts.find? fun c => c.group.id == g && c.complete && !c.discarded with
    | some c => happens (if c.group.status == .unseating then s.unseatSaved c else s)
    | none => happens s

/-! ## Promotion and handler entry -/

/-- `SPAN_PROMOTION` (R387) -/
def execSpanPromotion (sp : SpanId) (s : State) : Host.Outcome State Fault Refusal :=
  happens (s.updSpan sp fun p => if 4096 ≤ p.passOver then { p with promoted := true } else p)

/-- `TRAP_ENTRY` (R44, R413): a trap that has waited for the older operations of class A enters its handler. -/
def execTrapEntry (sp : SpanId) (s : State) : Host.Outcome State Fault Refusal :=
  match s.spanOf sp with
  | none => happens s
  | some p =>
    match p.trapping with
    | none => happens s
    | some (t, gang, resume) =>
      let u := s.focus sp
      happens (if u.quietA then u.enterHandler t gang resume else s)

end Sys2Proof.Machine

end
end

