-- ==== Sys2Proof/Machine/EvLaunch.lean ====
section
/-!
DEFINITION. Events of the Groom core, dispatch and Preic firmware over groups: boxes and binds (R384, R385), pre-emption,
the precise stop and its saved context (R423 to R428), reset, restore, swapping out (R338) and the discard of a task
stopped by an unhandled trap (R415).
-/

noncomputable section

namespace Sys2Proof.Machine

open Sys2Proof

/-! ## Boxes and binds -/

/-- `GROOM_BOX_WRITE` (R384): the Groom core fills a free box and sets its STATE to 1. -/
def execGroomBoxWrite (die : Fin 4) (box : BitVec 12) (r : BindRecord) (s : State) : Host.Outcome State Fault Refusal :=
  if s.boxState die box != 0 || !s.groomMay die r then happens s
  else
    let again := s.host.contexts.any fun c => c.discarded && asksFor c.group.bindRec r
    let s1 := s.putBox { die := die, num := box, state := 1, bindRec := r }
    let s2 : State :=
      { s1 with host := { s1.host with
          requests := s1.host.requests.filter (fun q => !asksFor q.2 r),
          contexts := s1.host.contexts.filter fun c => !(c.discarded && asksFor c.group.bindRec r) } }
    happens (if again && !s2.studFull then s2.journal die box 3 r.launch 7 0 else s2)

/-- `GROOM_BOX_FREE` (R384): a finished box returns to STATE 0; a pre-emption of its core is over. -/
def execGroomBoxFree (die : Fin 4) (box : BitVec 12) (s : State) : Host.Outcome State Fault Refusal :=
  match s.boxOf die box with
  | none => happens s
  | some b =>
    if b.state.toNat < 3 then happens s
    else
      let s1 := s.putBox { b with state := 0 }
      happens { s1 with host := { s1.host with drained := s1.host.drained.filter fun k => k != b.bindRec.core } }

/-- `BIND` (R385): dispatch binds a written box. -/
def execBind (die : Fin 4) (box : BitVec 12) (s : State) : Host.Outcome State Fault Refusal :=
  match s.boxOf die box with
  | some b => happens (if b.state == 1 && s.canBind b.bindRec then s.bindGroup die box b.bindRec else s)
  | none => happens s

/-- `PREEMPT_DECISION` (R385, R423): DEADLINE is lowered, and no box is written for the core. -/
def execPreemptDecision (die : Fin 4) (box : BitVec 12) (deadline : BitVec 64) (s : State) :
    Host.Outcome State Fault Refusal :=
  match s.groupIn die box with
  | none => happens s
  | some g =>
    if g.bindRec.deadline.toNat ≤ deadline.toNat then happens s
    else
      let b : BindRecord := { g.bindRec with deadline := deadline }
      let s1 := s.updGroup g.id fun x => { x with bindRec := b, preempted := true }
      happens { s1 with host := { s1.host with
        drained := g.bindRec.core :: s1.host.drained.filter fun k => k != g.bindRec.core,
        boxes := mapIf s1.host.boxes (fun x => x.die == die && x.num == box) fun x => { x with bindRec := b } } }

/-! ## The precise stop (R424) -/

/-- Is a long operation that is not an access of a kind that its context can save? -/
def SlowOp.saves (o : SlowOp) : Bool :=
  match o.kind with
  | .ttask _ _ _ _ _ | .long .. => !o.ready
  | _ => false

/-- Have the waits of R424 ended for a group: no access in flight or response owed, no register write on its way, no
Carousel or collective command unfinished, no write of a command to G, P or H on its way (R202), no handler entry
pending? -/
def State.stopReady (s : State) (g : GroupId) : Bool :=
  let mine (id : SpanId) : Bool := (s.spanOf id).map (fun p => p.group) == some g
  !(s.memOps.any fun o => o.group == g) && !(s.starter.any fun e => e.inner.isSome && e.running && e.ownerGroup == g) && !(s.slowOps.any fun o => mine o.span && !o.saves) &&
    (s.spansOf g).all fun p =>
      p.trapping.isNone && !(p.arrivals.any fun a => a.gen.isNone) &&
        !(p.cmds.any fun c => !c.complete && (cmdClass c.words == 4 || cmdClass c.words == 5 ||
          (!c.flight.isEmpty && c.parked.isNone && !quarantined (cmdDest c.words 0).1)))

/-- A slice as it is saved (R405, R424, R429): what waits is not executed yet, but a sleep keeps its wake time. -/
def Slice.saved (x : Slice) : Slice :=
  { x with wait :=
      match x.wait with
      | some (.sleep t) => some (.sleep t)
      | some .woken => some .woken
      | some (.monitor id) => some (.monitor id)
      | some (.saddle a ss) => some (.saddle a ss)
      | _ => none }

/-- Ends a span's region (Table 12.1) and closes what can close. -/
def State.stopRegions (s : State) (id : SpanId) : State :=
  let s1 := (s.focus id).endRegion
  s1.sp.regions.foldl (fun t x => if t.closable x.id then t.closeRegion x.id else t) s1

/-- A span as it is saved; `monitors` keeps its armed monitors and the saddles that it waits for. -/
def Span.saved (p : Span) (monitors : Bool) : Span :=
  let slice (x : Slice) : Slice :=
    let y := x.saved
    match y.wait with
    | some (.monitor _) | some (.saddle _ _) => if monitors then y else { y with wait := none }
    | _ => y
  { p with slices := vecMap p.slices fun _ x => slice x,
           cmds := p.cmds.map fun c => { c with parked := none, failed := none } }

/-- The rank that a slot of a group's core holds in the group, if it is one of its spans. -/
def State.rankAt (s : State) (g : GroupId) (slot : Option (BitVec 6)) : Option Nat :=
  match slot with
  | none => none
  | some x => ((s.spansOf g).find? fun p => p.id.slot == x).map fun p => p.rank

/-- Word 0 and FAULTPC of the trap that stopped a group (R415). -/
def Group.trapWords (g : Group) : DWord × DWord :=
  match g.status with
  | .trapped w pc => (w, pc)
  | _ => (0, 0)

/-- A quarantined read of a command (R202). -/
def Flight.quarantine (f : Flight) (id : SpanId) (c : Command) : Quarantine :=
  let d := cmdDest c.words f.at_
  { span := id, token := c.token, seg := BitVec.ofNat 3 d.1, off := d.2, units := f.units, data := f.data, bad := f.bad }

/-- A command as it stops: no read is in flight; those of a command parked on its destination are read again. -/
def Command.halted (c : Command) : Command :=
  let again := if quarantined (cmdDest c.words 0).1 then [] else c.flight.map fun f => (f.at_, f.at_ + f.units)
  { c with unread := c.unread ++ again, flight := [] }

/-- The reads in flight of a span's commands land in its core's quarantine buffer (R202). -/
def State.quarantineReads (s : State) (p : Span) : State :=
  let qs := (p.cmds.filter fun c => quarantined (cmdDest c.words 0).1).flatMap fun c => c.flight.map fun f => f.quarantine p.id c
  (s.updCore p.id.core fun k => { k with quarantine := k.quarantine ++ qs }).updSpan p.id fun q =>
    { q with cmds := q.cmds.map Command.halted }

/-- The context of a group at its stop (R428). -/
def State.contextOf (s : State) (g : Group) (cause : BitVec 4) (swapped : Bool) : Context :=
  let k := g.bindRec.core
  let c := s.coreOf k
  let r := s.recordBy g.launch
  let mine (id : SpanId) : Bool := (s.spanOf id).map (fun p => p.group) == some g.id
  let sk := scratchKey k g.scratch
  let xk := scaleKey k g.scale
  let bad (key n : Nat) : List Nat :=
    (s.memsys.poisonedSectors.filter fun x => decide (key ≤ x * 32) && decide (x * 32 < key + n)).map fun x => x * 32 - key
  let task (o : EngineOp) : Bool :=
    match o.kind with
    | .task _ => true
    | _ => false
  { die := g.die, box := g.box, cause := cause, group := { g with status := .running },
    spans := (s.spansOf g.id).map fun p => p.saved swapped,
    reinsHolder := s.rankAt g.id c.holder, reinsOffer := s.rankAt g.id c.offer,
    ops := (c.ops.filter fun o => mine o.span && !task o).map fun o => { o with parked := none, failed := none },
    slowOps := (s.slowOps.filter fun o => mine o.span).map fun o => { o with parked := none, failed := none },
    scratch := Memory.bytes s.mem sk (recScratch r), scale := Memory.bytes s.mem xk (recScale r),
    badScratch := bad sk (recScratch r), badScale := bad xk (recScale r), trapWord := g.trapWords.1,
    quarantine := c.quarantine.filter fun q => mine q.span,
    stopTime := s.now, swapped := swapped, complete := true, discarded := false }

/-- Takes a stopped group out of its core: its operations and spans go with the context (R424). -/
def State.liftGroup (s : State) (g : Group) : State :=
  let mine (id : SpanId) : Bool := (s.spanOf id).map (fun p => p.group) == some g.id
  let task (o : EngineOp) : Bool :=
    match o.kind with
    | .task _ => true
    | _ => false
  let s1 := s.updCore g.bindRec.core fun c =>
    { c with ops := c.ops.filter (fun o => task o || !mine o.span), quarantine := c.quarantine.filter fun q => !mine q.span }
  let s2 : State := { s1 with slowOps := s1.slowOps.filter fun o => !mine o.span }
  s2.dropGroupBy g.id State.liftSpan

/-- Saves a group and releases what it held; STATE becomes 5 (R424). -/
def State.stopGroup (s : State) (g : Group) (cause : BitVec 4) : State :=
  let s1 := (s.spansOf g.id).foldl (fun t p => (t.stopRegions p.id).quarantineReads p) s
  let c := s1.contextOf g cause false
  let tinfo : DWord × DWord := if cause = 2 then g.trapWords else (0, 0)
  let s2 := ((s1.saveArea g c tinfo.1 tinfo.2).liftGroup g).setBox g.die g.box 5
  let s3 : State := { s2 with host := { s2.host with contexts := c :: s2.host.contexts } }
  let s4 := s3.trace 6 g.bindRec.age.toNat
  if cause = 0 then s4 else s4.report (stopReport g.die g.box cause g.bindRec.age g.trapWords.1 g.trapWords.2)

/-- Discards a saved context: its log is replayed and everything that it kept is released; the task has ended (R415). -/
def State.discardContext (s : State) (c : Context) : State :=
  let s1 := s.rollback c.group
  let s2 : State :=
    { s1 with
      monitors := s1.monitors.filter (fun m => m.away != some c.group.id),
      starter := s1.starter.filter (fun e => e.ownerGroup != c.group.id || e.words.isNone),
      hayFrees := s1.hayFrees.filter (fun h => !(h.launch == c.group.launch && c.spans.any fun p => p.id == h.span)),
      host := { s1.host with contexts := s1.host.contexts.filter fun x => x.group.id != c.group.id } }
  (c.spans.foldl (fun t p => p.regions.foldl (fun u x => u.closeRegion x.id) t) s2).groupEnded c.group

/-- `PRECISE_STOP` (R424): the group of a box stops, once the waits have ended; one of an aborted launch is discarded
(R434). -/
def execPreciseStop (die : Fin 4) (box : BitVec 12) (s : State) : Host.Outcome State Fault Refusal :=
  match s.groupIn die box with
  | none => happens s
  | some g =>
    match s.stopCause g with
    | none => happens s
    | some cause =>
      if !s.stopReady g.id then happens s
      else
        let t := s.stopGroup g cause
        let aborted : Bool :=
          match t.launchBy g.launch with
          | some l => l.aborting
          | none => false
        match t.contextIn die box with
        | some c => happens (if aborted then t.discardContext c else t)
        | none => happens t

/-- Resets the context of a bound group (R427): its log is replayed, everything is released, and the context that was being
saved is marked; the reset is journaled and reported. -/
def State.resetGroup (s : State) (g : Group) : State :=
  let s1 := s.rollback g
  let c : Context := { s1.contextOf g 3 false with spans := [], ops := [], slowOps := [], discarded := true, complete := false }
  let s2 := ((s1.forgetOps g).setBox g.die g.box 5).dropGroup g.id
  let s3 : State := { s2 with host := { s2.host with contexts := c :: s2.host.contexts } }
  let s4 := s3.report (stopReport g.die g.box 3 g.bindRec.age 0 0)
  s4.journal g.die g.box 3 g.launch 6 3

/-- `CONTEXT_RESET` (R427): the save is unfinished 2 ms after DEADLINE. -/
def execContextReset (die : Fin 4) (box : BitVec 12) (s : State) : Host.Outcome State Fault Refusal :=
  match s.groupIn die box with
  | none => happens s
  | some g =>
    let late := decide (g.bindRec.deadline.toNat + 2000000 ≤ s.now.toNat)
    happens (if late && g.status != .unseating && !s.studFull then s.resetGroup g else s)

/-- `UNHANDLED_TRAP_DISCARD` (R415): the launch has failed with the trap's code (Table 15.4). -/
def execUnhandledTrapDiscard (die : Fin 4) (box : BitVec 12) (s : State) : Host.Outcome State Fault Refusal :=
  match s.contextIn die box with
  | none => happens s
  | some c =>
    if c.cause != 2 then happens s
    else
      let code : BitVec 6 := BitVec.ofNat 6 (fld c.trapWord 0 6)
      happens ((s.discardContext c).updLaunch c.group.launch fun l => { l with failed := some (l.failed.getD code) })

/-! ## Swapping out (R338) -/

/-- Does every slice of a group that has not exited wait in a `waitcmp`, in a sleep or for a saddle (R338, R351)? -/
def State.allAsleep (s : State) (g : GroupId) : Bool :=
  let waits (x : Slice) : Bool :=
    match x.wait with
    | some (.monitor _) | some (.sleep _) | some (.saddle _ _) => true
    | _ => x.exited == 15
  (s.spansOf g).all fun p => vecAll p.slices waits

/-- A monitor record of a saddlebag (R390). -/
def Monitor.record (m : Monitor) (rank : Nat) : List Byte :=
  bytesLE 32 (m.addr.toNat + m.value.toNat * 2 ^ 64 + (m.deadline.getD (BitVec.allOnes 64)).toNat * 2 ^ 128 +
    m.cond.toNat * 2 ^ 192 + rank % 64 * 2 ^ 195 + 2 ^ 201)

/-- Writes the monitor area of a group's saddlebag, one record for each monitor. -/
def State.writeMonitors (s : State) (g : Group) (ms : List Monitor) : State :=
  let recs := (ms.take 64).map fun m => m.record (((s.spanOf m.span).map fun p => p.rank).getD 0)
  s.bagWrite (g.bindRec.bag.toNat + 64) ((recs ++ List.replicate (64 - recs.length) (List.replicate 32 0)).flatten)

/-- `SWAP_OUT` (R338): the group is saved as for a precise stop, and its monitors stay armed in its name. -/
def execSwapOut (die : Fin 4) (box : BitVec 12) (s : State) : Host.Outcome State Fault Refusal :=
  match s.groupIn die box with
  | none => happens s
  | some g =>
    if g.status != .running || !bitOn (s.recordBy g.launch) 35 || !s.allAsleep g.id || !s.stopReady g.id then happens s
    else
      let mine (m : Monitor) : Bool := m.away.isNone && (s.spanOf m.span).map (fun p => p.group) == some g.id
      let s1 := s.writeMonitors g (s.monitors.filter mine)
      let s2 : State := { s1 with monitors := mapIf s1.monitors mine fun m => { m with away := some g.id } }
      let s3 := (s2.spansOf g.id).foldl (fun t p => (t.stopRegions p.id).quarantineReads p) s2
      let c := s3.contextOf g 0 true
      let s4 := ((s3.saveArea g c 0 0).liftGroup g).setBox g.die g.box 5
      happens ({ s4 with host := { s4.host with contexts := c :: s4.host.contexts } } : State)

/-! ## Restore (R426) -/

/-- How a restored context moves: the old and new core, first slot and places of S and X. -/
structure Move where
  core   : CoreId
  core1  : CoreId
  slot   : BitVec 6
  slot1  : BitVec 6
  scratch : Nat
  scratch1 : Nat
  scale  : Nat
  scale1 : Nat
  scrLen : Nat
  sclLen : Nat
  spans  : List SpanId
  regions : List RegionId
  deriving DecidableEq, Repr

/-- A span of the group under its new place. -/
def Move.span (m : Move) (id : SpanId) : SpanId :=
  if m.spans.contains id then { core := m.core1, slot := id.slot - m.slot + m.slot1 } else id

/-- A region of the group under its new identifier. -/
def Move.region (m : Move) (r : RegionId) : RegionId :=
  if m.regions.contains r then
    let o := m.span (regionOwner r)
    { r with core := o.core, slot := o.slot }
  else r

/-- A memory key of the group's S or X in its new place. -/
def Move.key (m : Move) (a : Nat) : Nat :=
  let s0 := scratchKey m.core m.scratch
  let x0 := scaleKey m.core m.scale
  if s0 ≤ a ∧ a < s0 + m.scrLen then a - s0 + scratchKey m.core1 m.scratch1
  else if x0 ≤ a ∧ a < x0 + m.sclLen then a - x0 + scaleKey m.core1 m.scale1
  else a

/-- Segment registers with S and X in their new places. -/
def Move.segs (m : Move) (v : Vector Seg 8) : Vector Seg 8 :=
  vecMap v fun i g =>
    let base := g.baseOf
    let moved (a b : Nat) : Seg := { g with base := setFld g.base 0 48 ((base + b - a) % 2 ^ 48) }
    if i = 2 then moved m.scratch m.scratch1 else if i = 5 then moved m.scale m.scale1 else g

/-- What a held fault waits for, with keys moved. -/
def Move.heldBy (m : Move) (h : HeldBy) : HeldBy :=
  match h with
  | .command t b => .command t (b.map m.key)
  | .task b => .task (b.map m.key)
  | x => x

/-- A command moved. -/
def Move.cmd (m : Move) (c : Command) : Command := { c with segs := m.segs c.segs, region := m.region c.region }

/-- A span moved; a touch that waited for a saddle is made again (R351). -/
def Move.spanState (m : Move) (p : Span) : Span :=
  let again (x : Slice) : Slice :=
    match x.wait with
    | some (.saddle _ _) => { x with wait := none }
    | _ => x
  { p with id := m.span p.id, slices := vecMap p.slices (fun _ x => again x), segs := m.segs p.segs, bindSegs := m.segs p.bindSegs,
           held := p.held.map (fun h => { h with by_ := m.heldBy h.by_ }), cmds := p.cmds.map m.cmd,
           arrivals := p.arrivals.map (fun a => { a with key := m.key a.key }),
           regions := p.regions.map fun x => { x with id := m.region x.id } }

/-- An access record moved: its regions, and its sector when it lies in the group's S. -/
def Move.record (m : Move) (a : AccessRecord) : AccessRecord :=
  { a with sector := m.key (a.sector * 32) / 32, wreg := a.wreg.map m.region, rreg0 := a.rreg0.map m.region,
           rreg1 := a.rreg1.map m.region, redlast := a.redlast.map m.region }

/-- A Starter entry moved, if the group owns it or has issued it. -/
def Move.entry (m : Move) (g : GroupId) (e : StarterEntry) : StarterEntry :=
  let e1 : StarterEntry := if e.ownerGroup == g && e.words.isSome then { e with owner := m.span e.owner, record := m.key e.record } else e
  if m.regions.contains e.region then
    { e1 with issuer := m.span e.issuer, segs := m.segs e.segs, region := m.region e.region }
  else e1

/-- The move of a saved context to a core and a first slot. -/
def State.moveOf (s : State) (c : Context) (k : CoreId) (slot0 : BitVec 6) : Option Move :=
  let r := s.recordBy c.group.launch
  let own := (s.starter.filter fun e => e.ownerGroup == c.group.id && e.words.isSome).map fun e => e.region
  match s.fitScratch k (recScratch r), s.fitScale k (recScale r) with
  | some a, some b =>
    some { core := c.group.bindRec.core, core1 := k, slot := c.group.bindRec.slot0, slot1 := slot0,
           scratch := c.group.scratch, scratch1 := a, scale := c.group.scale, scale1 := b, scrLen := recScratch r,
           sclLen := recScale r, spans := c.spans.map (fun p => p.id),
           regions := own ++ c.spans.flatMap fun p => p.regions.map fun x => x.id }
  | _, _ => none

/-- The group of a context as it is restored. -/
def State.restoredGroup (s : State) (c : Context) (m : Move) : Group :=
  let budget := fld (s.recordBy c.group.launch) 1728 32
  let dl : DWord := if budget = 0 then BitVec.allOnes 64 else s.now + BitVec.ofNat 64 (1000 * budget)
  { c.group with
    bindRec := { c.group.bindRec with core := m.core1, slot0 := m.slot1, deadline := dl },
    status := .running, preempted := false, scratch := m.scratch1, scale := m.scale1 }

/-- Has a core the slots and resources that a context held (R426)? -/
def State.canRestore (s : State) (c : Context) (k : CoreId) (slot0 : BitVec 6) : Bool :=
  let g := c.group
  let n := g.bindRec.nspan.toNat
  let k1 := (s.coreOf k).join g.launch (s.recordBy g.launch)
  let pool : Bool :=
    match k1.teams.find? fun t => t.launch == g.launch with
    | none => false
    | some t =>
      let (v, ti, a) := (s.updCore k fun x => x.join g.launch (s.recordBy g.launch)).poolFree k t
      8 * g.xv * n ≤ v && g.tiles.length ≤ ti && g.accs.length ≤ a
  let aborting : Bool :=
    match s.launchBy g.launch with
    | some l => l.aborting
    | none => false
  g.status != .unseating && !aborting && clusterOf k == clusterOf g.bindRec.core && decide (slot0.toNat + n ≤ 64) &&
    ((List.range n).all fun i => s.slotFree k (slot0.toNat + i)) &&
    s.storageFor k g.launch n (8 * (g.bindRec.basev.toNat + 1)) && pool &&
    (c.reinsHolder.isNone || (s.coreOf k).holder.isNone) && (c.reinsOffer.isNone || (s.coreOf k).offer.isNone)

/-- S and X and their poison go to their new places (R426). -/
def State.restoreMemory (s : State) (c : Context) (m : Move) : State :=
  let sk := scratchKey m.core1 m.scratch1
  let xk := scaleKey m.core1 m.scale1
  let s1 := ((s.zeroRange sk m.scrLen).homeWrite sk c.scratch 0 Policy.plain)
  let s2 := ((s1.zeroRange xk m.sclLen).homeWrite xk c.scale 0 Policy.plain)
  let bad := c.badScratch.map (fun o => (sk + o) / 32) ++ c.badScale.map fun o => (xk + o) / 32
  { s2 with memsys := { s2.memsys with poisonedSectors := distinct (bad ++ s2.memsys.poisonedSectors) } }

/-- Drains quarantined reads into the addresses recorded with them, under the restored segment registers; the counts of the
commands' barriers follow (R203).  None while a record has no room for one of them. -/
def State.drainQuarantine (s : State) (m : Move) (qs : List Quarantine) : Option State :=
  match qs with
  | [] => some s
  | q :: rest =>
    match s.cmdOf (m.span q.span) q.token with
    | none => s.drainQuarantine m rest
    | some (p, c) =>
      let n := if cmdMode c.words = 1 then q.units * unitBytes c.words else 0
      let landed (t : State) : State := t.updCmd p.id c.token fun x =>
        { x with done := x.done + q.units, undecremented := x.undecremented + n }
      match s.engWrite (actorOf p c) q.seg.toNat q.off q.data q.bad.isSome with
      | .ok _ t =>
        let t1 := landed t
        (match q.bad with
         | some va => t1.stopCmd p c.token ((actorOf p c).trap 9 va)
         | none => t1).drainQuarantine m rest
      | .fault e t => (t.stopCmd p c.token e).drainQuarantine m rest
      | .absent _ _ _ _ | .waits _ => none

/-- The slot of a rank among restored spans. -/
def slotOfRank (ps : List Span) (rank : Option Nat) : Option (BitVec 6) :=
  match rank with
  | none => none
  | some n => (ps.find? fun p => p.rank == n).map fun p => p.id.slot

/-- Loads a core with what a context held there: its team, the Reins, and its engine operations. -/
def Core.takeContext (k : Core) (c : Context) (ps : List Span) (ops : List EngineOp) (r : BitVec 2048) : Core :=
  let k1 := (k.join c.group.launch r).newLaunch c.group.launch
  let all := k1.ops ++ ops
  { k1 with holder := slotOfRank ps c.reinsHolder <|> k1.holder, offer := slotOfRank ps c.reinsOffer <|> k1.offer,
            ops := all.filter (fun o => o.accepted) ++ all.filter fun o => !o.accepted }

/-- Commands resume under revised promises (R203, R426). -/
def State.revisePromises (s : State) (id : SpanId) : State :=
  let t := s.focus id
  let rev (c : Command) : Command := if c.complete then c else { c with promise := t.revised c }
  { t with sp := { t.sp with cmds := t.sp.cmds.map rev } }

/-- Restores a context (R426): nothing happens while its quarantine cannot be drained. -/
def State.restoreContext (s : State) (c : Context) (m : Move) : State :=
  let g := s.restoredGroup c m
  let r := s.recordBy g.launch
  let ps := c.spans.map m.spanState
  let s1 := (s.restoreMemory c m).updCore m.core1 fun k => k.allot m.scratch1 m.scrLen m.scale1 m.sclLen
  let s2 : State :=
    { s1 with
      groups := s1.groups ++ [g],
      records := s1.records.map m.record,
      starter := s1.starter.map (m.entry g.id),
      slowOps := s1.slowOps ++ c.slowOps.map (fun o =>
        { o with span := m.span o.span, segs := m.segs o.segs, region := m.region o.region }),
      hayFrees := mapIf s1.hayFrees (fun h => h.launch == g.launch) (fun h => { h with span := m.span h.span }),
      monitors := mapIf s1.monitors (fun x => x.away == some g.id) (fun x =>
        { x with span := m.span x.span, away := none, key := m.key x.key, home := homeOf (m.key x.key) }),
      host := { s1.host with contexts := s1.host.contexts.filter fun x => x.group.id != g.id } }
  let s3 := s2.mapSpans fun p => { p with regions := p.regions.map fun x => { x with id := m.region x.id } }
  let ops := c.ops.map fun o => { o with span := m.span o.span, segs := m.segs o.segs, region := m.region o.region }
  let s4 := s3.updCore m.core1 fun k => k.takeContext c ps ops r
  let s5 := ps.foldl (fun t p => t.seat p) s4
  match s5.drainQuarantine m c.quarantine with
  | none => s
  | some t =>
    (ps.foldl (fun u p => u.revisePromises p.id) t).putBox { die := c.die, num := c.box, state := 2, bindRec := g.bindRec }

/-- `RESTORE` (R426): a saved context is restored onto a core of its cluster. -/
def execRestore (die : Fin 4) (box : BitVec 12) (k : CoreId) (slot0 : BitVec 6) (s : State) :
    Host.Outcome State Fault Refusal :=
  match s.contextIn die box with
  | none => happens s
  | some c =>
    if (s.boxState die box != 0 && s.boxState die box != 5) || !s.canRestore c k slot0 then happens s
    else
      match s.moveOf c k slot0 with
      | some m => happens (s.restoreContext c m)
      | none => happens s

end Sys2Proof.Machine

end
end

