-- ==== Sys2Proof/Machine/EvCommand.lean ====
section
/-!
DEFINITION. The front end (R433, R434): command entries, the tests of a launch record (R348, R382, R383), acceptance,
aborts and final outcomes.
-/

noncomputable section

namespace Sys2Proof.Machine

open Sys2Proof

/-! ## The tests of Table 13.3 -/

/-- Are the bits of all the given fields (low bit and width) zero? -/
def zeroFields (r : BitVec 2048) (fs : List (Nat × Nat)) : Bool := fs.all fun f => fld r f.1 f.2 == 0

/-- The reserved fields of a launch record (Table 13.1). -/
def recReserved : List (Nat × Nat) :=
  [(15, 1), (38, 2), (43, 5), (269, 3), (304, 16), (333, 3), (348, 4), (375, 1), (383, 1), (1474, 62), (1680, 48),
   (1760, 288)]

/-- The reserved fields of its segment images (Tables 5.1 and 5.2). -/
def segReserved : List (Nat × Nat) := (List.range 4).flatMap fun i => [(960 + 128 * i + 58, 6), (1024 + 128 * i + 54, 10)]

/-- Code 1: version, reserved fields, malformed codes. -/
def recMalformed (r : BitVec 2048) : Bool :=
  let used := levelsOf r
  let level (i : Nat) : Bool :=
    if i < used then fld (levelEntry r i) 35 1 != 0 || fld (levelEntry r i) 39 25 != 0 || 7 ≤ fld (levelEntry r i) 36 3
    else levelEntry r i != 0
  fld r 0 8 != 1 || !zeroFields r recReserved || !zeroFields r segReserved || (List.range 8).any level ||
    5 ≤ fld r 40 3 || 4 ≤ fld r 28 3 || 64 < recTeamT r || 16 < recTeamA r || recScratch r == 0 || 32 * 1024 < recScale r ||
    (recSpool r != 0 && recSpSpans r == 0)

/-- Code 2: malformed levels. -/
def levelsMalformed (r : BitVec 2048) : Bool :=
  let bad (i : Nat) : Bool :=
    let d := levelDomain r i
    let c := levelCount r i
    let sc := fld (levelEntry r i) 36 3
    c == 0 || (d == 0 && c != 1) || (d == 1 && c != 4) || (d == 2 && c != 1) ||
      (decide (0 < i) && (decide (d < levelDomain r (i - 1)))) ||
      (if isSpanLevel r i then decide (sc + 2 < d) else sc != 0)
  (List.range (levelsOf r)).any bad || decide (64 < groupSpans r)

/-- Can n bytes of an ASID be read? -/
def State.imageReadable (s : State) (asid : BitVec 10) (va n : Nat) : Bool :=
  (cutSectors va (n / 32 + 2) 0 0 n).all fun p =>
    match s.translateNow 0 asid (va + p.off) .read with
    | .ok _ => true
    | .error _ => false

/-- Is an initial-data descriptor malformed (R392)? -/
def State.initMalformed (s : State) (r : BitVec 2048) (bs : List Byte) : Bool :=
  let (seg, len, dst, src) := initDesc bs
  let size := if seg = 2 then recScratch r else recScale r
  (seg != 2 && seg != 5) || fld (BitVec.ofNat 64 (leOf bs)) 3 29 != 0 || len == 0 || 524288 < len || size < dst + len ||
    !s.imageReadable (recSeg r 0).asid (recImage r + src) len

/-- Code 3: the kernel image. -/
def State.imageBad (s : State) (r : BitVec 2048) : Bool :=
  let asid := (recSeg r 0).asid
  let at_ := recImage r
  if at_ % 12288 != 0 || !s.imageReadable asid at_ 136 then true
  else
    let hd := (s.imageRead 0 asid at_ 136).1
    let entry := leOf ((hd.drop (8 * fld r 11 4)).take 8)
    let n := leOf ((hd.drop 128).take 8)
    let naset := fld r 256 13
    if entry == 0 || 64 < n || !s.imageReadable asid (at_ + 136) (16 * n) then true
    else
      let ds := (s.imageRead 0 asid (at_ + 136) (16 * n)).1
      ((List.range n).any fun i => s.initMalformed r ((ds.drop (16 * i)).take 16)) ||
        (decide (naset ≤ 4096) && !s.imageReadable asid (fld r 192 64) (16 * naset))

/-- The atomic set table of a launch (R348). -/
def State.readAsets (s : State) (r : BitVec 2048) : List (BitVec 128) :=
  let n := fld r 256 13
  let bs := (s.imageRead 0 (recSeg r 0).asid (fld r 192 64) (16 * n)).1
  (List.range n).map fun i => BitVec.ofNat 128 (leOf ((bs.drop (16 * i)).take 16))

/-- Is an atomic set entry malformed (Table 11.3)? -/
def asetMalformed (e : BitVec 128) : Bool :=
  let (seg, g, o, b) := asetFields e
  !([0, 1, 3].contains seg) || g < 5 || 16 < g || fld e 8 8 != 0 || fld e 112 16 != 0 || o % 2 ^ g != 0 || b == 0 ||
    b % 2 ^ g != 0

/-- Do any two sets of a table overlap? -/
def asetsOverlap (l : List (BitVec 128)) : Bool :=
  match l with
  | [] => false
  | e :: t =>
    let (seg, _, o, b) := asetFields e
    (t.any fun x =>
      let (seg1, _, o1, b1) := asetFields x
      seg == seg1 && decide (o < o1 + b1) && decide (o1 < o + b)) || asetsOverlap t

/-- Code 4: the atomic set table. -/
def asetsBad (n : Nat) (l : List (BitVec 128)) : Bool := decide (4096 < n) || l.any asetMalformed || asetsOverlap l

/-- Cores of one instance of a domain (R383). -/
def domainCores (packages d : Nat) : Nat :=
  match d with
  | 3 => 1
  | 4 => 48
  | 5 => 192
  | 6 => 768
  | _ => 768 * packages

/-- Instances of a lower domain in one instance of an upper domain (R381). -/
def instancesIn (packages lower upper : Nat) : Nat :=
  if lower = upper then 1
  else
    match lower, upper with
    | 5, 6 => 4
    | 5, _ => 4 * packages
    | _, _ => packages

/-- Code 6: co-residency or distinct placement cannot be met (R381, R383). -/
def placementBad (packages : Nat) (r : BitVec 2048) : Bool :=
  let g := groupSpans r
  let k := groupsPerCore r
  let bad (i : Nat) : Bool :=
    let d := levelDomain r i
    if !isSpanLevel r i || d < 3 then false
    else
      let n := max 1 (instanceSpans r i / g)
      let below := levelDomain r (i - 1)
      domainCores packages d < ceilDiv n k ||
        (decide (0 < i) && isSpanLevel r (i - 1) && 5 ≤ below && instancesIn packages below d < levelCount r i)
  k == 0 || 4096 < recTeamV r + g * recBaseV r || (List.range (levelsOf r)).any bad

/-- Code 7: a required stitching cannot be made (R106): there is no stitch level, an instance needs more than one die, or
other stitchings leave no clusters for it. -/
def State.stitchBad (s : State) (r : BitVec 2048) : Bool :=
  if fld r 31 1 = 0 || fld r 28 3 = 0 then false
  else
    match stitchLevel r with
    | none => true
    | some i => (s.stitchPlace (stitchClusters r i)).isNone

/-- The code with which a launch is refused, if any test of Table 13.3 fails, in the table's order. -/
def State.refusal (s : State) (r : BitVec 2048) : Option (BitVec 8) :=
  if recMalformed r then some 1
  else if levelsMalformed r then some 2
  else if s.imageBad r then some 3
  else if asetsBad (fld r 256 13) (s.readAsets r) then some 4
  else if recScratch r < groupSpans r * 256 * recSl r then some 5
  else if placementBad s.fabric.domain.length r then some 6
  else if s.stitchBad r then some 7
  else none

/-! ## Acceptance (R433, R434) -/

/-- The next entry of a queue, when the front end may accept one: the queue is enabled and not empty, and the studbook has
room (R436). -/
def State.nextEntry (s : State) (port : Bool) (q : BitVec 8) : Option (List Byte) :=
  let x := s.queueOf port q
  match ringSize x.size with
  | none => none
  | some _ => if x.head == x.tail || s.studFull then none else some (s.readCoded x.base (64 * x.head.toNat) 64)

/-- The studbook record of an entry, and HEAD past it: the sequence number that it gets (R434). -/
def State.accept (s : State) (port : Bool) (q : BitVec 8) (bs : List Byte) : DWord × State :=
  let e : BitVec 512 := BitVec.ofNat 512 (leOf bs)
  let x := s.queueOf port q
  let seq := s.host.nextSeq
  let rec_ : Stud :=
    { seq := 0, time := s.now, queue := BitVec.ofNat 9 (q.toNat + if port then 256 else 0), event := false, outcome := 0,
      code := 0, done := 0, digest := (sha3 bs).setWidth 256, op := BitVec.ofNat 8 (fld e 0 8),
      arg := BitVec.ofNat 64 (fld e 64 64), sig := (BitVec.ofNat 64 (fld e 128 64), BitVec.ofNat 64 (fld e 192 64)),
      verdict := none }
  let n := (ringSize x.size).getD 1
  (seq, ((s.readThrough (codedKey x.base + 64 * x.head.toNat) 64).addStud rec_).putQueue { x with head := BitVec.ofNat 16 ((x.head.toNat + 1) % n) })

/-- OP of an entry. -/
def entryOp (bs : List Byte) : Nat := leOf (bs.take 1)

/-- CHAIN of a launch record. -/
def recChain (r : BitVec 2048) : BitVec 12 := BitVec.ofNat 12 (fld r 16 12)

/-- An accepted launch of a record (R377). -/
def State.startLaunch (s : State) (seq : DWord) (r : BitVec 2048) (trace : Bool) : State :=
  let (hd, s1) := s.imageRead 0 (recSeg r 0).asid (recImage r) 128
  let l : Launch :=
    { seq := seq, record := r, entries := vecMap (Vector.replicate 16 (0 : DWord)) fun i _ => BitVec.ofNat 64 (leOf ((hd.drop (8 * i)).take 8)),
      asets := s.readAsets r, trace := trace, started := [], liveGroups := groupsOf r, nextSpawn := 0, spawned := [],
      aborting := false, failed := none }
  { s1 with
    memsys := { s1.memsys with retired := s1.memsys.retired.filter fun c => c != recChain r },
    host := { s1.host with launches := l :: s1.host.launches } }

/-- `LAUNCH` (R377, R382, R434): the next entry of a queue is a launch, or malformed. -/
def execLaunch (port : Bool) (q : BitVec 8) (s : State) : Host.Outcome State Fault Refusal :=
  match s.nextEntry port q with
  | none => happens s
  | some bs =>
    if entryOp bs = 2 || entryOp bs = 3 then happens s
    else
      let (seq, s1) := s.accept port q bs
      if entryOp bs != 1 then happens (s1.decide_ seq 2 8)
      else
        let e : BitVec 512 := BitVec.ofNat 512 (leOf bs)
        let at_ : DWord := BitVec.ofNat 64 (fld e 64 64)
        let r : BitVec 2048 := BitVec.ofNat 2048 (leOf (s1.readCoded at_ 0 256))
        let s2 := s1.readThrough (codedKey at_) 256
        match s2.refusal r with
        | some c => happens (s2.decide_ seq 2 c)
        | none => happens (s2.startLaunch seq r (bitOn e 8))

/-- `SIGNAL_ONLY` (R434) -/
def execSignalOnly (port : Bool) (q : BitVec 8) (s : State) : Host.Outcome State Fault Refusal :=
  match s.nextEntry port q with
  | none => happens s
  | some bs => happens (if entryOp bs = 2 then (s.accept port q bs).2 else s)

/-- `ABORT_LAUNCH` (R434): the groups of the launch will stop precisely; those that are saved are discarded at once, and no
more of its boxes are written. -/
def execAbortLaunch (port : Bool) (q : BitVec 8) (s : State) : Host.Outcome State Fault Refusal :=
  match s.nextEntry port q with
  | none => happens s
  | some bs =>
    if entryOp bs != 3 then happens s
    else
      let (_, s1) := s.accept port q bs
      let target : DWord := BitVec.ofNat 64 (fld (BitVec.ofNat 512 (leOf bs)) 64 64)
      let saved := s1.host.contexts.filter fun c => c.group.launch == target && c.complete && !c.discarded
      let s2 := saved.foldl (fun t c => t.discardContext c) (s1.updLaunch target fun l => { l with aborting := true })
      let stop (x : Box) : Bool := x.state == 1 && x.bindRec.launch == target
      happens { s2 with host := { s2.host with
        requests := s2.host.requests.filter (fun r => r.1 != target),
        boxes := mapIf s2.host.boxes stop fun x => { x with state := 5 } } }

/-! ## Final outcomes (R434) -/

/-- Is nothing of a launch bound, written, saved or asked for any more? -/
def State.launchIdle (s : State) (seq : DWord) : Bool :=
  !(s.allGroups.any fun g => g.id != 0 && g.launch == seq) &&
    !(s.host.contexts.any fun c => c.group.launch == seq && !c.discarded) &&
    !(s.host.boxes.any fun b => b.state == 1 && b.bindRec.launch == seq) && !(s.host.requests.any fun r => r.1 == seq)

/-- The outcome of a launch (Table 15.4), when it has one. -/
def State.launchVerdict (s : State) (l : Launch) : Option (BitVec 8 × BitVec 8) :=
  if !s.launchIdle l.seq then none
  else if l.aborting then some (5, 0)
  else
    match l.failed with
    | some c => some (3, c.setWidth 8)
    | none =>
      if l.liveGroups = 0 then some (1, 0)
      else if s.host.contexts.any fun c => c.discarded && c.group.launch == l.seq then some (4, 0)
      else none

/-- The outcome of a pending command, when it has one. -/
def State.verdictOf (s : State) (x : Stud) : Option (BitVec 8 × BitVec 8) :=
  match x.verdict with
  | some v => some v
  | none =>
    if x.op == 1 then (s.launchBy x.seq).bind s.launchVerdict
    else
      let pending (y : Stud) : Bool :=
        y.outcome == 0 && !y.event &&
          (if x.op == 2 then y.queue == x.queue && decide (y.seq.toNat < x.seq.toNat) else y.seq == x.arg && y.op == 1)
      if s.host.stud.any pending then none else some (1, 0)

/-- Writes SIGVAL to SIGADDR (R434). -/
def State.signal (s : State) (addr v : DWord) : State :=
  if addr == 0 then s else s.writeCoded addr 0 (bytesLE 8 v.toNat)

/-- A launch leaves the device: its records of resets, its Hayloft blocks and its place among the launches go.  When it was
the last kernel of its chain, firmware will demote the chain (R93). -/
def State.retireLaunch (s : State) (seq : DWord) : State :=
  let gone := s.host.launches.filter fun l => l.seq == seq
  let kept := s.host.launches.filter fun l => l.seq != seq
  let chains := (gone.map fun l => recChain l.record).filter fun c =>
    c != 0 && !(kept.any fun l => recChain l.record == c) && !s.memsys.retired.contains c
  { s with
    hay := s.hay.filter (fun b => b.launch != seq), hayFrees := s.hayFrees.filter (fun h => h.launch != seq),
    memsys := { s.memsys with retired := chains ++ s.memsys.retired },
    host := { s.host with
      launches := kept, contexts := s.host.contexts.filter fun c => c.group.launch != seq } }

/-- `LAUNCH_OUTCOME` (R434): the studbook first, then the signal. -/
def execLaunchOutcome (seq : BitVec 64) (s : State) : Host.Outcome State Fault Refusal :=
  match s.host.stud.find? fun x => x.seq == seq && x.outcome == 0 && !x.event with
  | none => happens s
  | some x =>
    match s.verdictOf x with
    | none => happens s
    | some (o, c) =>
      let s1 := (s.endStud seq o c).signal x.sig.1 x.sig.2
      happens (if x.op == 1 then s1.retireLaunch seq else s1)

end Sys2Proof.Machine

end
end

