-- ==== Sys2Proof/Machine/Transit.lean ====
section
/-!
DEFINITION. Packets on the fabric (R104, R108 to R114, R118, R122 to R128): which messages become packets, their way from
router to router in a fabric cycle, the Lunge ring, the Bridle Path and the Girth links.
-/

noncomputable section

namespace Sys2Proof.Machine

open Sys2Proof

/-! ## Messages (R108) -/

/-- The stop of the home of a place (R144, R468). -/
def State.homeStop (s : State) (key : Nat) : Stop :=
  if isScratch key then coreStop (scratchCore key)
  else if isScale key then coreStop (BitVec.ofNat 10 ((key - 2 ^ 51) / 0x8000))
  else
    let pa := s.canonPa key
    if s.remote key then hitchStop ((packageOf pa - 1) % 36)
    else if inHbm pa then sliceStop (s.fabricHome key) (hbmChannel pa % 64)
    else paddockStop (paddockChannel pa)

/-- Where an operation's request to a sector goes: a load whose line its die's RDC holds goes there (R151). -/
def State.requestStop (s : State) (o : MemOp) (key : Nat) : Stop :=
  let d := fabricDie o.span.core
  let line := lineOf (s.canonPa key)
  let cached := o.kind = .load && s.memsys.lines.any fun l => l.line == line && (l.rdc.map fun x => x.val) == some d.val
  if cached then
    let pa := s.canonPa key
    rdcStop d ((if inHbm pa then hbmChannel pa else paddockChannel pa) % 32)
  else s.homeStop key

/-- Data flits of a number of bytes. -/
def dataFlits (n : Nat) : Nat := (n + 31) / 32

/-- A packet before it is sent. -/
def newPacket (id : Nat) (c : Cargo) (src dst : Stop) (flits : Nat) (light : Bool) : Packet :=
  { id := id, cargo := c, src := src, dst := dst, flits := flits, light := light && flits == 1, pos := .ni src, wait := 0,
    misroutes := 0, stall := 0, expired := false, origin := none }

/-- Is an access an update of a flag of at most 16 bytes (R125; log 120): a barrier's? -/
def AccessKind.flag (k : AccessKind) : Bool :=
  match k with
  | .bar _ => true
  | .load | .store | .red _ _ | .amo _ _ | .update _ | .flush => false

/-- The packets of an operation's requests that have been sent (R143): one to a sector. -/
def State.requestPackets (s : State) (o : MemOp) : List (Cargo × Stop × Stop × Nat × Bool) :=
  let qs := o.reqs.filter fun q => q.status == .sent
  (distinct (qs.map fun q => sectorOf q.key)).map fun sec =>
    let mine := qs.filter fun q => sectorOf q.key == sec
    let bytes := if o.kind.writes && !o.kind.flag then sumOf mine fun q => q.bytes else 0
    (.request o.id sec, coreStop o.span.core, s.requestStop o ((mine.map fun q => q.key).headD 0), 1 + dataFlits (min bytes 32),
      o.kind.flag)

/-- The unit that a long operation goes to, if it goes to one: the Hayloft of the die, or the cluster's engines. -/
def SlowOp.unit (o : SlowOp) : Option Stop :=
  match o.kind with
  | .halloc _ _ => some (hayloftStop (fabricDie o.span.core))
  | .ttask .. | .long .. => if o.ready then none else some (engineStop o.span.core)
  | .status .. | .pair .. | .tile .. | .nothing => none

/-- Every message that should be on the fabric: what it is, from where to where, its flits, and whether a single flit of it
may take the ring. -/
def State.messages (s : State) : List (Cargo × Stop × Stop × Nat × Bool) :=
  let cmds := s.spans.flatMap fun p => (p.cmds.filter fun c => !c.complete && cmdClass c.words != 4).map fun c =>
    (Cargo.command c.order, coreStop p.id.core, engineStop p.id.core, 2, false)
  let slow := s.slowOps.filterMap fun o => o.unit.map fun u => (Cargo.command o.id, coreStop o.span.core, u, 2, false)
  let wakes := (s.monitors.filter fun m => m.satisfied && m.away.isNone).map fun m =>
    (Cargo.wake m.id, s.homeStop m.key, coreStop m.span.core, 1, true)
  let posted := (s.host.posted.filter fun p => p.released).flatMap fun p => p.packets.map fun c =>
    (Cargo.posted p.id c.1, orderingStop, s.homeStop (p.pa + c.1), 1 + dataFlits c.2, false)
  s.memOps.flatMap s.requestPackets ++ cmds ++ slow ++ wakes ++ posted

/-- Puts the messages that no packet carries yet on the fabric; what stays at its router's own units needs none. -/
def State.inject (s : State) : State :=
  s.messages.foldl (fun t m =>
    if (m.2.1.die == m.2.2.1.die && m.2.1.router == m.2.2.1.router) || t.fabric.packets.any fun p => p.cargo == m.1 then t
    else
      let (id, u) := t.newId
      { u with fabric := { u.fabric with
          packets := u.fabric.packets ++ [newPacket id m.1 m.2.1 m.2.2.1 m.2.2.2.1 m.2.2.2.2] } }) s

/-- The answer that a delivered request turns into, once all that it carried has been performed: data, or an
acknowledgement after every invalidation (R120). -/
def Packet.answer (p : Packet) (o : MemOp) (op sec : Nat) : Packet :=
  let bytes := match o.kind with
    | .load | .amo _ _ => 32
    | .store | .red _ _ | .update _ | .flush | .bar _ => 0
  newPacket p.id (.reply op sec) p.dst p.src (1 + dataFlits bytes) true

/-- What becomes of a delivered packet: it stays while what it carries is unfinished, an answer follows a request, else it
is gone. -/
def State.settled1 (s : State) (p : Packet) : Option Packet :=
  match p.cargo with
  | .request op sec =>
    match s.opOf op with
    | none => none
    | some o =>
      let qs := o.reqs.filter fun q => sectorOf q.key == sec
      let waits (q : Req) : Bool := q.status == .sent || q.status == .queued
      let lost (q : Req) : Bool :=
        match q.status with
        | .merged _ _ | .unreachable => true
        | _ => false
      if qs.any waits then some p
      else if qs.all lost then none
      else if o.kind != .load && s.invalidating (sec / 4) then some p
      else some (p.answer o op sec)
  | .command n =>
    if (s.spans.any fun q => q.cmds.any fun c => c.order == n && !c.complete) || s.slowOps.any (fun o => o.id == n) then some p
    else none
  | .wake m => if s.monitors.any fun x => x.id == m then some p else none
  | .posted w off => if s.host.posted.any fun x => x.id == w && x.packets.any fun c => c.1 == off then some p else none
  | .reply _ _ | .copy _ => none

/-- Takes delivered packets off the fabric, and sends answers. -/
def State.settlePackets (s : State) : State :=
  { s with fabric := { s.fabric with
      packets := s.fabric.packets.filterMap fun p => if p.pos == .done then s.settled1 p else some p } }

/-! ## Routers (R104, R109, R123 to R125) -/

/-- A packet by its number. -/
def State.packetOf (s : State) (id : Nat) : Option Packet := s.fabric.packets.find? fun p => p.id == id

/-- Changes a packet. -/
def State.updPacket (s : State) (id : Nat) (f : Packet → Packet) : State :=
  { s with fabric := { s.fabric with packets := mapIf s.fabric.packets (fun p => p.id == id) f } }

/-- Takes a packet off the fabric. -/
def State.dropPacket (s : State) (id : Nat) : State :=
  { s with fabric := { s.fabric with packets := s.fabric.packets.filter fun p => p.id != id } }

/-- Is a place of the fabric free? -/
def State.freePos (s : State) (x : PacketPos) : Bool := !s.fabric.packets.any fun p => p.pos == x

/-- Is a router powered? -/
def State.powered (s : State) (d : DieId) (r : Nat) : Bool :=
  !(s.fabric.gated.any fun x => x.1 == d && x.2.1 == r) && !s.fabric.waking.any fun x => x.1 == d && x.2.1 == r

/-- Is a router gated? -/
def State.isGated (s : State) (d : DieId) (r : Nat) : Bool := s.fabric.gated.any fun x => x.1 == d && x.2.1 == r

/-- A router's idle count restarts: flits pass, or a wake reaches it while it is powered (R123, R124). -/
def State.noteFlit (s : State) (d : DieId) (r : Nat) : State :=
  { s with fabric := { s.fabric with
      idle := (d, r, fabricCycles s.now) :: s.fabric.idle.filter fun x => !(x.1 == d && x.2.1 == r) } }

/-- Cycles in which a gated router wakes (R123). -/
def wakeCycles : Nat := 24

/-- A wake signal reaches a router (R124): a gated one begins to wake, but one gated in this very cycle stays powered; a
powered one's idle count restarts. -/
def State.wakeSignal (s : State) (d : DieId) (r : Nat) : State :=
  let others (l : List (DieId × Nat × Nat)) : List (DieId × Nat × Nat) := l.filter fun x => !(x.1 == d && x.2.1 == r)
  match s.fabric.gated.find? fun x => x.1 == d && x.2.1 == r with
  | some x =>
    let t : State := { s with fabric := { s.fabric with gated := others s.fabric.gated } }
    if x.2.2 = fabricCycles s.now then t.noteFlit d r
    else { t with fabric := { t.fabric with waking := (d, r, wakeCycles) :: others t.fabric.waking } }
  | none => if s.powered d r then s.noteFlit d r else s

/-- A packet has been delivered. -/
def State.arrive (s : State) (p : Packet) : State :=
  s.updPacket p.id fun x => { x with pos := .done, wait := 0, stall := 0, expired := false }

/-- Fabric cycles of a hop (R104). -/
def hopCycles : Nat := 3

/-- A packet takes an output of its router. -/
def State.hop (s : State) (p : Packet) (d : DieId) (r : Nat) (o : Nat × Nat) (misroute : Bool) : State :=
  ((s.updPacket p.id fun x =>
    { x with pos := .input d o.1 o.2, wait := hopCycles, stall := 0, expired := false,
             misroutes := if misroute then x.misroutes + 1 else x.misroutes }).noteFlit d r).noteFlit d o.1

/-- The routers of a die at which a packet's way on the die may end: its stop's, or a gateway's. -/
def State.endsOn (s : State) (d : DieId) (p : Packet) : List Nat :=
  if p.dst.die == d then [p.dst.router] else (s.nextDies d p.dst.die).map fun e => gatewayRouter d e

/-- The outputs of a router by which a packet may go on, productive ones or not (R109). -/
def State.choices (s : State) (d : DieId) (r : Nat) (p : Packet) (productive : Bool) : List (Nat × Nat) :=
  let ends := s.endsOn d p
  let nearer (n : Nat) : Bool := ends.any fun t => decide (s.hops d n t < s.hops d r t)
  (s.outputs d r).filter fun o => nearer o.1 == productive

/-- Which of them are free now. -/
def State.freeOf (s : State) (d : DieId) (os : List (Nat × Nat)) : List (Nat × Nat) :=
  os.filter fun o => s.powered d o.1 && s.freePos (.input d o.1 o.2)

/-! ## Girth links (R126 to R128) -/

/-- Fabric cycles of an unloaded crossing, and of a flit from the sending gateway to its acceptance (R127). -/
def crossCycles : Nat := 48
/-- Conversion at the near end, and the flight. -/
def flitCycles : Nat := 40
/-- The way back of an acknowledgement. -/
def ackCycles : Nat := 32

/-- Changes a direction of a link. -/
def State.updWay (s : State) (l : Fin 10) (w : Fin 2) (f : GirthWay → GirthWay) : State :=
  let g := s.fabric.girth[l.val]
  { s with fabric := { s.fabric with girth := s.fabric.girth.set l.val { g with ways := g.ways.set w.val (f g.ways[w.val]) } l.isLt } }

/-- Flits of a Girth packet: a header, and data in flits of 64 bytes (R126). -/
def girthFlits (p : Packet) : Nat := 1 + p.flits / 2

/-- Flits on the die of a packet whose Girth flits a replay buffer holds. -/
def girthSize (g : GirthWay) (packet : Nat) : Nat := 2 * (g.replay.filter fun f => f.packet == packet).length - 1

/-- A gateway that has received a whole packet converts it: it gets a number, and its flits enter the replay buffer. -/
def State.enterGirth (s : State) (p : Packet) (l : Fin 10) (w : Fin 2) : State :=
  let g := (s.fabric.girth[l.val]).ways[w.val]
  let flits := (List.range (girthFlits p)).map fun i =>
    ({ seq := g.next, index := i, packet := p.id, left := flitCycles, accepted := false, ack := ackCycles } : LinkFlit)
  (s.updWay l w fun x => { x with next := x.next + 1, replay := x.replay ++ flits }).updPacket p.id fun x =>
    { x with pos := .girth l w g.next, wait := crossCycles, stall := 0, expired := false }

/-- The die at which a direction of a link ends. -/
def farDie (l : Fin 10) (w : Fin 2) : DieId := if w.val = 0 then (girthDies l).2 else (girthDies l).1

/-- The die at which it begins. -/
def nearDie (l : Fin 10) (w : Fin 2) : DieId := if w.val = 0 then (girthDies l).1 else (girthDies l).2

/-- Was a rerouted packet's number delivered by the failed link's gateway already (R129)? -/
def State.doubled (s : State) (o : Option (Fin 10 × Fin 2 × BitVec 12)) : Bool :=
  match o with
  | none => false
  | some (l, w, q) => decide (((s.fabric.girth[l.val]).ways[w.val].delivered - q).toNat < 2048)

/-- A packet that a link has carried whole enters the far die at its gateway, in the order of the link's numbers; a doubled
one ends there (R127 to R129). -/
def State.leaveGirth (s : State) (p : Packet) (l : Fin 10) (w : Fin 2) (seq : BitVec 12) : State :=
  let g := (s.fabric.girth[l.val]).ways[w.val]
  let d := farDie l w
  let r := gatewayRouter d (nearDie l w)
  let whole := !g.replay.any fun f => f.packet == p.id && !f.accepted
  if !whole || seq != g.delivered + 1 || !s.freePos (.input d r (niPort niGateway)) then s
  else
    let s1 := s.updWay l w fun x => { x with delivered := seq }
    let ends := match p.origin with
      | some (fl, fw, _) => farDie fl fw == d && s.doubled p.origin
      | none => false
    if ends then s1.dropPacket p.id
    else if !s1.powered d r then s.wakeSignal d r
    else (s1.updPacket p.id fun x => { x with pos := .input d r (niPort niGateway), wait := hopCycles }).noteFlit d r

/-- The flits of a link in a cycle: they are accepted, and acknowledged ones leave the replay buffer (R128). -/
def GirthWay.cycle (g : GirthWay) : GirthWay :=
  let f (x : LinkFlit) : LinkFlit :=
    if x.accepted then { x with ack := x.ack - 1 } else if x.left ≤ 1 then { x with accepted := true, left := 0 } else { x with left := x.left - 1 }
  { g with replay := (g.replay.map f).filter fun x => !(x.accepted && x.ack == 0) }

/-! ## One packet in one cycle -/

/-- A packet at an interface goes to its router's input, or on the Lunge ring when it is light and its stop's router is
gated (R124, R125). -/
def State.leaveNi (s : State) (p : Packet) (x : Stop) : State :=
  if p.light && p.dst.die == x.die && s.isGated x.die p.dst.router then s.updPacket p.id fun y => { y with pos := .lunge x.die x.router }
  else if !s.powered x.die x.router then s.wakeSignal x.die x.router
  else if s.freePos (.input x.die x.router (niPort x.ni)) then
    (s.updPacket p.id fun y => { y with pos := .input x.die x.router (niPort x.ni), wait := hopCycles, stall := 0 }).noteFlit x.die x.router
  else s

/-- A packet at the head of an input (R109, R124): it is delivered, enters a gateway, takes a free productive output, waits
for a gated router, or makes no progress. -/
def State.leaveInput (s : State) (p : Packet) (d : DieId) (r : Nat) : State :=
  if p.dst.die == d && p.dst.router == r then s.arrive p
  else
    match (if p.dst.die == d then none else (s.nextDies d p.dst.die).find? fun e => gatewayRouter d e == r) with
    | some e =>
      match linkOf d e with
      | some l => s.enterGirth p l (wayOf l d)
      | none => s
    | none =>
      if p.dst.die != d && (s.nextDies d p.dst.die).isEmpty then s.dropPacket p.id
      else if p.light && p.dst.die == d && s.isGated d p.dst.router then s.updPacket p.id fun y => { y with pos := .lunge d r, stall := 0, expired := false }
      else
        let os := s.choices d r p true
        match s.freeOf d os with
        | o :: rest =>
          let (i, t) := s.oneOf (rest.length + 1)
          t.hop p d r (listAt (o :: rest) i o) false
        | [] =>
          match os.find? fun o => !s.powered d o.1 with
          | some o => s.wakeSignal d o.1
          | none => s.updPacket p.id fun y => { y with stall := y.stall + 1 }

/-- Fabric cycles of a hop of the Bridle Path (R113). -/
def bridleCycles : Nat := 6

/-- The next router of the Bridle Path, x first and then y (R113). -/
def bridleNext (w r t : Nat) : Nat :=
  if r % w < t % w then r + 1 else if t % w < r % w then r - 1 else if r / w < t / w then r + w else r - w

/-- A packet in a Bridle buffer goes to the next one, or to its link's reserved buffer; at its stop it waits for the receive
slot (R113, R114). -/
def State.leaveBridle (s : State) (p : Packet) (d : DieId) (r : Nat) : State :=
  let next (t : State) (to_ : Nat) : State :=
    let n := bridleNext (meshWidth d) r to_
    if t.freePos (.bridle d n) then t.updPacket p.id fun y => { y with pos := .bridle d n, wait := bridleCycles } else t
  if p.dst.die == d then (if p.dst.router == r then s else next s p.dst.router)
  else
    match (s.nextDies d p.dst.die).find? fun e => gatewayRouter d e == r, (s.nextDies d p.dst.die).head? with
    | some e, _ =>
      match linkOf d e with
      | some l =>
        let pos : PacketPos := .reserve l (wayOf l d)
        if s.freePos pos then s.updPacket p.id fun y => { y with pos := pos, wait := crossCycles } else s
      | none => s
    | none, some e => next s (gatewayRouter d e)
    | none, none => s.dropPacket p.id

/-- What a packet does in a fabric cycle. -/
def State.movePacket (s : State) (id : Nat) : State :=
  match s.packetOf id with
  | none => s
  | some p =>
    if p.wait != 0 then s.updPacket id fun y => { y with wait := y.wait - 1 }
    else
      match p.pos with
      | .ni x => s.leaveNi p x
      | .input d r _ => s.leaveInput p d r
      | .girth l w seq => s.leaveGirth p l w seq
      | .lunge d r =>
        if r == p.dst.router then s.arrive p else s.updPacket id fun y => { y with pos := .lunge d ((r + 1) % routersOf d) }
      | .bridle d r => s.leaveBridle p d r
      | .reserve l w =>
        let d := farDie l w
        let pos : PacketPos := .bridle d (gatewayRouter d (nearDie l w))
        if s.freePos pos then s.updPacket id fun y => { y with pos := pos, wait := bridleCycles } else s
      | .slot _ | .done => s

/-! ## A cycle of the fabric -/

/-- Does a router request the Halter (R112)? -/
def State.requestsHalter (s : State) (d : DieId) (r : Nat) : Bool :=
  s.fabric.packets.any fun p => p.expired && (match p.pos with
    | .input d1 r1 _ => d1 == d && r1 == r
    | _ => false)

/-- A Halter moves one stop, unless the router where it stands requests it (R112, R115). -/
def State.haltersMove (s : State) : State :=
  let move (h : Halter) : Halter :=
    match h.stop with
    | some n => if s.requestsHalter h.die n then h else { h with stop := some ((n + 1) % routersOf h.die) }
    | none => { h with unseen := h.unseen + 1 }
  { s with fabric := { s.fabric with halters := s.fabric.halters.map move } }

/-- One fabric cycle: links, routers that wake, Halters, then every packet in turn. -/
def State.fabricCycle (s : State) : State :=
  let g := s.fabric.girth
  let links : Vector Girth 10 := vecMap g fun _ x => { x with ways := vecMap x.ways fun _ y => y.cycle }
  let s1 : State := { s with fabric := { s.fabric with
    girth := links, waking := s.fabric.waking.map fun x => (x.1, x.2.1, x.2.2 - 1) } }
  (s1.fabric.packets.map fun p => p.id).foldl State.movePacket s1.haltersMove

/-- n fabric cycles. -/
def State.fabricCyclesPass (n : Nat) (s : State) : State :=
  match n with
  | 0 => s
  | k + 1 => s.fabricCycle.fabricCyclesPass k

/-- What the passing of fabric cycles does: delivered packets are settled, new messages are sent, and packets move. -/
def State.fabricTick (s : State) (cycles : Nat) : State := s.settlePackets.inject.fabricCyclesPass cycles

end Sys2Proof.Machine

end
end

