-- ==== Sys2Proof/Machine/EvFabric.lean ====
section
/-!
DEFINITION. Events of the fabric and its links (file 04): misroutes, the removal of deadlock, router power gating, Girth and
Hitch links, stitching, and the forming of a Hitch domain (R19).
-/

noncomputable section

namespace Sys2Proof.Machine

open Sys2Proof

/-! ## Packets held up (R109 to R111) -/

/-- The threshold of a die's detectors (R111). -/
def State.thresholdOf (s : State) (d : DieId) : Nat := s.fabric.threshold[d.val]

/-- A packet at the head of an input of a router: the die and the router. -/
def Packet.input (p : Packet) : Option (DieId × Nat × Nat) :=
  match p.pos with
  | .input d r port => some (d, r, port)
  | _ => none

/-- `TIMEOUT_DETECTOR_EXPIRY` (R111): the packet at the head of an input has made no progress for the threshold. -/
def execTimeoutDetectorExpiry (packet : Nat) (s : State) : Host.Outcome State Fault Refusal :=
  match s.packetOf packet with
  | none => happens s
  | some p =>
    match p.input with
    | none => happens s
    | some (d, _, _) =>
      happens (if s.thresholdOf d ≤ p.stall then s.updPacket packet fun x => { x with expired := true } else s)

/-- Fabric cycles without progress after which a packet may misroute (R110). -/
def misrouteCycles : Nat := 1024

/-- `MISROUTE` (R110): a packet stalled for 1,024 fabric cycles takes a free non-productive port, at most twice; which one is
a free value. -/
def execMisroute (packet : Nat) (s : State) : Host.Outcome State Fault Refusal :=
  match s.packetOf packet with
  | none => happens s
  | some p =>
    match p.input with
    | none => happens s
    | some (d, r, _) =>
      if 2 ≤ p.misroutes || p.stall < misrouteCycles then happens s
      else
        match s.freeOf d (s.choices d r p false) with
        | [] => happens s
        | o :: rest =>
          let (i, t) := s.oneOf (rest.length + 1)
          happens (t.hop p d r (listAt (o :: rest) i o) true)

/-! ## The Halter and the Bridle Path (R112 to R115) -/

/-- The suspect packet of a router: the head of its expired input with the lowest port number. -/
def State.suspect (s : State) (d : DieId) (r : Nat) : Option Packet :=
  let port (p : Packet) : Option Nat :=
    match p.pos with
    | .input d1 r1 n => if p.expired && d1 == d && r1 == r then some n else none
    | _ => none
  (List.range 32).findSome? fun n => s.fabric.packets.find? fun p => port p == some n

/-- Changes a die's Halter. -/
def State.putHalter (s : State) (h : Halter) : State :=
  { s with fabric := { s.fabric with halters := mapIf s.fabric.halters (fun x => x.die == h.die) fun _ => h } }

/-- `HALTER_CAPTURE` (R112): the router at whose stop the Halter stands drains one packet into its free Bridle buffer, and
releases the Halter to the next stop. -/
def execHalterCapture (die : DieId) (s : State) : Host.Outcome State Fault Refusal :=
  match s.fabric.halters.find? fun h => h.die == die with
  | none => happens s
  | some h =>
    match h.stop with
    | none => happens s
    | some r =>
      match s.suspect die r with
      | none => happens s
      | some p =>
        let buffer : PacketPos := .bridle die r
        if !s.freePos buffer then happens s
        else
          let s1 := s.updPacket p.id fun x => { x with pos := buffer, wait := bridleCycles, stall := 0, expired := false }
          let s2 := s1.putHalter { h with stop := some ((r + 1) % routersOf die), unseen := 0 }
          happens ((s2.count (.drains die r)).trace 4 (die.val + r * 2 ^ 64))

/-- `HALTER_REGENERATE` (R115): a Halter that has not passed stop (0, 0) for two revolutions. -/
def execHalterRegenerate (die : DieId) (s : State) : Host.Outcome State Fault Refusal :=
  match s.fabric.halters.find? fun h => h.die == die with
  | none => happens s
  | some h =>
    happens (if h.stop.isNone && 2 * routersOf die ≤ h.unseen then
      (s.putHalter { h with stop := some 0, unseen := 0 }).logError (.halter die) else s)

/-- `BRIDLE_RECEIVE` (R113, R114): a drained packet in the last Bridle buffer of its way takes the free receive slot of its
destination; the endpoint then accepts it, and it has left the fabric. -/
def execBridleReceive (packet : Nat) (s : State) : Host.Outcome State Fault Refusal :=
  match s.packetOf packet with
  | none => happens s
  | some p =>
    match p.pos with
    | .bridle d r =>
      let here := p.dst.die == d && p.dst.router == r && p.wait == 0 && s.freePos (.slot p.dst)
      happens (if here then s.updPacket packet fun x => { x with pos := .slot p.dst } else s)
    | .slot _ => happens (s.arrive p)
    | _ => happens s

/-! ## Power gating (R123, R124) -/

/-- The fabric cycle in which a router last carried a flit. -/
def State.lastFlit (s : State) (d : DieId) (r : Nat) : Nat :=
  match s.fabric.idle.find? fun x => x.1 == d && x.2.1 == r with
  | some x => x.2.2
  | none => 0

/-- Does a packet stand at an input of a router? -/
def State.packetIn (s : State) (d : DieId) (r : Nat) : Bool :=
  s.fabric.packets.any fun p =>
    match p.pos with
    | .input d1 r1 _ => d1 == d && r1 == r
    | _ => false

/-- Has a powered router been idle for 512 fabric cycles (R123)? -/
def State.gates (s : State) (d : DieId) (r : Nat) : Bool :=
  decide (r < routersOf d) && s.powered d r && decide (s.lastFlit d r + 512 ≤ fabricCycles s.now) && !s.packetIn d r

/-- `ROUTER_POWER_GATE` (R123); a wake in the same cycle wins (R124), see `State.wakeSignal`. -/
def execRouterPowerGate (die : DieId) (router : Nat) (s : State) : Host.Outcome State Fault Refusal :=
  happens (if s.gates die router then
    { s with fabric := { s.fabric with gated := (die, router, fabricCycles s.now) :: s.fabric.gated } } else s)

/-- `ROUTER_WAKE` (R123, R124): a router's wake completes and its idle count starts again, or a wake signal reaches it. -/
def execRouterWake (die : DieId) (router : Nat) (s : State) : Host.Outcome State Fault Refusal :=
  match s.fabric.waking.find? fun x => x.1 == die && x.2.1 == router with
  | some x =>
    let t : State := { s with fabric := { s.fabric with
      waking := s.fabric.waking.filter fun y => !(y.1 == die && y.2.1 == router) } }
    happens (if x.2.2 = 0 then t.noteFlit die router else s)
  | none => happens (if router < routersOf die then s.wakeSignal die router else s)

/-! ## Unreachable accesses (R129, R136) -/

/-- Holds ACCESS_VIOLATION for a span's next far fence, with the address of its earliest unreachable store (R136). -/
def State.holdUnreachable (s : State) (o : MemOp) (va : DWord) : State :=
  let t : TrapInfo :=
    { code := 8, sub := 0, detail := 0, addr := va, lanes := o.lanes, unreach := true, cause := some o.pc, region := 0 }
  match s.spanOf o.span with
  | none => s
  | some p =>
    if p.held.any fun h => h.by_ == .farFence && decide (h.op ≤ o.id) then s
    else
      let s1 := s.updSpan o.span fun q => { q with held := q.held.filter fun h => h.by_ != .farFence }
      s1.hold o.span [{ by_ := .farFence, trap := t, op := o.id }]

/-- The accesses of an operation that satisfy p and have had no response become unreachable, and are logged (R136). -/
def State.unreachable (s : State) (o : MemOp) (p : Req → Bool) : State :=
  let lost (q : Req) : Bool := (!q.status.back || s.replying o.id (sectorOf q.key)) && q.status != .queued && p q
  match o.reqs.filter lost with
  | [] => s
  | q :: qs =>
    let s1 := (q :: qs).foldl (fun t x => t.logUnreachable x.key) s
    let o1 : MemOp := { o with reqs := mapIf o.reqs lost fun x => { x with status := .unreachable } }
    if o.returns then s1.putOp o1
    else
      let s2 := s1.holdUnreachable o q.va
      (if o1.reqs.all fun x => x.status.back then { s2 with memOps := s2.memOps.filter fun x => x.id != o.id }
       else s2.putOp o1).settleMerged

/-! ## Girth links (R126 to R129) -/

/-- Changes a Girth link. -/
def State.putGirth (s : State) (l : Fin 10) (g : Girth) : State :=
  { s with fabric := { s.fabric with girth := s.fabric.girth.set l.val g l.isLt } }

/-- Failed retrains within which time count as one row (R129). -/
def failWindow : Nat := 10000

/-- The flits of a direction after a retrain (R128): what the receiver has not accepted is resent; an accepted flit that is
resent is dropped, and acknowledged again. -/
def GirthWay.replayed (g : GirthWay) : GirthWay :=
  { g with replay := g.replay.map fun x =>
      if x.accepted then { x with ack := flitCycles + ackCycles } else { x with left := flitCycles } }

/-- Packets on a link that are not whole at its far end start their crossing again. -/
def State.resend (s : State) (l : Fin 10) : State :=
  let waits (p : Packet) : Bool :=
    match p.pos with
    | .girth m w _ => m == l && (s.fabric.girth[l.val]).ways[w.val].replay.any fun f => f.packet == p.id && !f.accepted
    | _ => false
  { s with fabric := { s.fabric with packets := mapIf s.fabric.packets waits fun p => { p with wait := crossCycles } } }

/-- `GIRTH_RETRAIN` (R128, R129): counted; a link that has retrained resends, and after three failures in a row within 10 µs
it goes on with 10 lanes. -/
def execGirthRetrain (link : Fin 10) (ok : Bool) (s : State) : Host.Outcome State Fault Refusal :=
  let g := s.fabric.girth[link.val]
  let s1 := s.count (.girth link)
  if g.lanes = 0 then happens s
  else if ok then
    happens ((s1.resend link).putGirth link { g with failures := [], ways := vecMap g.ways fun _ w => w.replayed })
  else
    let fails := s.now :: g.failures.filter fun t => decide ((s.now - t).toNat ≤ failWindow)
    let halve : Bool := decide (3 ≤ fails.length) && g.lanes == 20
    happens (s1.putGirth link { g with failures := if halve then [] else fails, lanes := if halve then 10 else g.lanes })

/-- Is a request's home cut off from its core (R129)? -/
def State.severed (s : State) (o : MemOp) (q : Req) : Bool := !s.reaches (fabricDie o.span.core) q.key

/-- A die is cut off: every outstanding access to or from it is unreachable, and the contexts bound on it are reset (R129). -/
def State.isolate (s : State) (d : DieId) : State :=
  let s1 := s.memOps.foldl (fun t o => t.unreachable o (t.severed o)) s
  let gs := s1.allGroups.filter fun g => g.id != 0 && dieOf g.bindRec.core == d.val
  gs.foldl (fun t g => t.resetGroup g) s1

/-- What a failed link held, packet by packet (R129): one that its far gateway has not delivered goes back to the sending
gateway's interface and travels over the other links, with the failed link's name and number. -/
def Packet.reroute (p : Packet) (l : Fin 10) : Packet :=
  let back (w : Fin 2) : Stop := { die := nearDie l w, router := gatewayRouter (nearDie l w) (farDie l w), ni := niGateway }
  match p.pos with
  | .girth m w seq => if m == l then { p with pos := .ni (back w), wait := 0, origin := some (l, w, seq) } else p
  | .reserve m w => if m == l then { p with pos := .ni (back w), wait := 0 } else p
  | _ => p

/-- The packets that a failed link's gateway has delivered and whose flits are not all acknowledged: each is rerouted too,
for the receiving die to discard (R129). -/
def State.doubles (s : State) (l : Fin 10) (w : Fin 2) : List (BitVec 12 × Nat) :=
  let g := (s.fabric.girth[l.val]).ways[w.val]
  let there (n : Nat) : Bool := s.fabric.packets.any fun p => p.id == n && (match p.pos with
    | .girth m v _ => m == l && v == w
    | _ => false)
  (g.replay.filter fun f => f.index == 0 && !there f.packet).map fun f => (f.seq, girthSize g f.packet)

/-- A doubled packet at the sending gateway. -/
def doubledPacket (id : Nat) (l : Fin 10) (w : Fin 2) (x : BitVec 12 × Nat) : Packet :=
  let near := nearDie l w
  let far := farDie l w
  { newPacket id (.copy id) { die := near, router := gatewayRouter near far, ni := niGateway }
      { die := far, router := gatewayRouter far near, ni := niGateway } x.2 false with
    origin := some (l, w, x.1) }

/-- Sends a direction's doubled packets. -/
def State.sendDoubles (s : State) (l : Fin 10) (w : Fin 2) : State :=
  (s.doubles l w).foldl (fun t x =>
    let (id, u) := t.newId
    { u with fabric := { u.fabric with packets := u.fabric.packets ++ [doubledPacket id l w x] } }) s

/-- The contents of a failed link's replay buffers are rerouted (R129). -/
def State.rerouted (s : State) (l : Fin 10) : State :=
  let s1 := (s.sendDoubles l 0).sendDoubles l 1
  { s1 with fabric := { s1.fabric with packets := s1.fabric.packets.map fun p => p.reroute l } }

/-- `GIRTH_LINK_DOWN` (R129): a link that also fails at 10 lanes is declared down; what its replay buffers held travels over
the other links. -/
def execGirthLinkDown (link : Fin 10) (s : State) : Host.Outcome State Fault Refusal :=
  let g := s.fabric.girth[link.val]
  if g.lanes != 10 || g.failures.isEmpty then happens s
  else
    let s1 := ((s.rerouted link).putGirth link
      { g with lanes := 0, failures := [], ways := vecMap g.ways fun _ w => { w with replay := [] } }).logError (.girthDown link)
    let e := girthDies link
    let s2 := if s1.cutOff e.1 then s1.isolate e.1 else s1
    happens (if s2.cutOff e.2 then s2.isolate e.2 else s2)

/-! ## Hitch (R19, R133, R136) -/

/-- `HITCH_RETRAIN` (R136) -/
def execHitchRetrain (port : Fin 36) (s : State) : Host.Outcome State Fault Refusal := happens (s.count (.hitch port))

/-- Has the Hitch timeout passed since a time (R136)? -/
def State.overdue (s : State) (since : DWord) : Bool := decide (since.toNat + s.fabric.hitchTimeout ≤ s.now.toNat)

/-- Is a request of an operation lost: no response has come from another package in time, or its home is cut off? -/
def State.lostReq (s : State) (o : MemOp) (q : Req) : Bool := (s.remote q.key && s.overdue o.since) || s.severed o q

/-- The work of an engine whose access to another package is overdue: its next such access is an engine fault (R136).  A
command is named by 2^64 and its place in the order of acceptance. -/
def State.loseWork (s : State) (n : Nat) : State :=
  let cmd (c : Command) : Command := if 2 ^ 64 + c.order == n && s.overdue c.since then { c with lost := true } else c
  let ops (k : Core) : Core := { k with ops := mapIf k.ops (fun o => o.id == n && s.overdue o.since) fun o => { o with lost := true } }
  let s1 := s.mapSpans fun p => { p with cmds := p.cmds.map cmd }
  { s1 with
    core := ops s1.core, cores := s1.cores.map ops,
    slowOps := mapIf s1.slowOps (fun o => o.id == n && s.overdue o.since) (fun o => { o with lost := true }),
    starter := mapIf s1.starter (fun e => e.order == n && e.running && s.overdue e.since) (fun e => { e with lost := true }) }

/-- `HITCH_TIMEOUT` (R136): the responses of an operation's accesses to other packages have not come within the timeout. -/
def execHitchTimeout (op : Nat) (s : State) : Host.Outcome State Fault Refusal :=
  match s.opOf op with
  | some o => happens (s.unreachable o (s.lostReq o))
  | none => happens (if s.fabric.domain.length ≤ 1 then s else s.loseWork op)

/-- `HITCH_DOMAIN_FORM` (R19, R133): the package's number, and the packages of its domain. -/
def execHitchDomainForm (self : BitVec 8) (members : List (BitVec 8)) (s : State) : Host.Outcome State Fault Refusal :=
  let ms := self :: members.filter fun m => m != self
  happens (if ms.all fun m => decide (m.toNat < 192) then { s with fabric := { s.fabric with pkg := self, domain := ms } } else s)

/-! ## Stitching (R105, R106) -/

/-- Is no packet at a spare port of a region? -/
def State.sparesEmpty (s : State) (die : Fin 4) (m : BitVec 4) : Bool :=
  !s.fabric.packets.any fun p =>
    match p.pos with
    | .input d r port => d.val == die.val && bitOn m (routerCluster r) && decide (sparePort ≤ port) && decide (port < niPort 0)
    | _ => false

/-- `STITCH_RELINK` (R105, R106): once the spare ports are empty, the region is linked for a launch that waits for it, or, by
code 0, the stitching of a retired launch is taken away. -/
def execStitchRelink (die : Fin 4) (clusters : BitVec 4) (code : BitVec 3) (s : State) :
    Host.Outcome State Fault Refusal :=
  if !s.sparesEmpty die clusters then happens s
  else if code == 0 then
    let ends (x : Stitching) : Bool :=
      x.die == die && x.clusters == clusters && !s.host.launches.any fun l => l.seq == x.launch
    happens { s with fabric := { s.fabric with stitched := s.fabric.stitched.filter fun x => !ends x } }
  else
    match s.stitchWanted.find? fun w => w.2.2.1 == code && s.stitchFits die clusters w.2.2.2 with
    | none => happens s
    | some (launch, inst, _, _) =>
      happens { s with fabric := { s.fabric with
        stitched := { launch := launch, inst := inst, die := die, clusters := clusters, code := code } :: s.fabric.stitched } }

end Sys2Proof.Machine

end
end

