-- ==== Sys2Proof/Machine/EvMem.lean ====
section
/-!
DEFINITION. Events of the main memory system (file 03, R157, R441): what passes through a memory-side cache, block reads,
scrubbing, self-refresh, drowsy banks, demotion and sweep of kernel chains, and the loading of a key slot.
-/

namespace Sys2Proof.Machine

open Sys2Proof

/-! ## The memory-side cache (R91) -/

/-- `MSC_SECTOR_WRITE` (R91): a whole sector arrives at the MSC under a key; DRAM is not read. -/
def execMscSectorWrite (pa : Nat) (key : BitVec 10) (s : State) : Host.Outcome State Fault Refusal :=
  happens (if localBacked pa then s.mscWrite pa key Policy.plain true true else s)

/-- `MSC_SECTOR_READ` (R91) -/
def execMscSectorRead (pa : Nat) (key : BitVec 10) (s : State) : Host.Outcome State Fault Refusal :=
  happens (if localBacked pa then s.mscRead pa key Policy.plain else s)

/-- `MSC_WRITEBACK` (R91): a block leaves its MSC, completed and written as one codeword if it is dirty. -/
def execMscWriteback (block : Nat) (s : State) : Host.Outcome State Fault Refusal := happens (s.mscEvict block)

/-! ## DRAM (R84, R85, R88) -/

/-- `DRAM_BLOCK_READ` (R84, R85): bits of the stored block have become erroneous, as a free number says, and the block is
read. -/
def execDramBlockRead (block : Nat) (s : State) : Host.Outcome State Fault Refusal :=
  if !localBacked (block * 512) then happens s
  else
    let (x, s1) := s.draw
    let d := s1.dramOf block
    happens ((if d.poison then s1 else s1.setDram { d with errors := d.errors + x }).dramRead block)

/-- `CORRECTED_WRITEBACK` (R85): a corrected codeword leaves the scrub queue. -/
def execCorrectedWriteback (block : Nat) (s : State) : Host.Outcome State Fault Refusal :=
  if !(s.memsys.scrubQ.any fun x => x.1 == block) then happens s
  else
    let d := s.dramOf block
    let s1 := if d.poison then s else s.setDram { d with errors := 0 }
    happens { s1 with memsys := { s1.memsys with scrubQ := s1.memsys.scrubQ.filter fun x => x.1 != block } }

/-- Is a channel in self-refresh (R100)? -/
def State.asleep (s : State) (ch : Channel) : Bool := (s.channel ch).selfRefresh

/-- Blocks of a channel: 1 GiB of HBM4E, or 16 GiB of the paddock (R83). -/
def channelBlocks (ch : Channel) : Nat :=
  match ch with
  | .hbm _ _ => 2 ^ 21
  | .paddock _ => 2 ^ 25

/-- Block number i of a channel: the inverse of the hash of R83. -/
def channelBlock (ch : Channel) (i : Nat) : Nat :=
  match ch with
  | .hbm d pc => d.val * 2 ^ 28 + i * 2 ^ 7 + Nat.xor pc.toNat (Nat.xor (i % 2 ^ 7) (Nat.xor (i / 2 ^ 7 % 2 ^ 7) (i / 2 ^ 14 % 2 ^ 7)))
  | .paddock sc =>
    2 ^ 31 + i * 2 ^ 6 + Nat.xor sc.toNat (Nat.xor (Nat.xor (i % 2 ^ 6) (i / 2 ^ 6 % 2 ^ 6))
      (Nat.xor (Nat.xor (i / 2 ^ 12 % 2 ^ 6) (i / 2 ^ 18 % 2 ^ 6)) (i / 2 ^ 24 % 2)))

/-- The block that the scrub of a channel reads next. -/
def ChannelState.nextScrub (c : ChannelState) : Nat := channelBlock c.ch (c.scrubbed % channelBlocks c.ch)

/-- Is the channel's next scrub read due: its capacity is read once in each scrub period (R88)? -/
def State.scrubDue (s : State) (c : ChannelState) : Bool :=
  !c.selfRefresh && decide ((c.lastScrub.toNat * channelBlocks c.ch + s.memsys.scrubHours * 3600000000000) ≤ s.now.toNat * channelBlocks c.ch)

/-- `SCRUB_READ` (R88, R100): the scrub reads a block as Table 3.3 says; it neither wakes its channel nor restarts the
idle timer, and it takes no place in the MSC. -/
def execScrubRead (block : Nat) (s : State) : Host.Outcome State Fault Refusal :=
  let c := s.channel (channelOf (block * 512))
  if !localBacked (block * 512) || c.selfRefresh then happens s
  else
    let c1 : ChannelState := if block = c.nextScrub then { c with scrubbed := c.scrubbed + 1, lastScrub := s.now } else c
    happens ((s.dramRead block).setChannel c1)

/-! ## Power (R100, R157) -/

/-- `SELF_REFRESH_ENTRY` (R100): a channel whose idle timer has reached the threshold enters self-refresh. -/
def execSelfRefreshEntry (ch : Channel) (s : State) : Host.Outcome State Fault Refusal :=
  let c := s.channel ch
  happens (if !c.selfRefresh && decide (c.lastRequest.toNat + s.idleLimit ch ≤ s.now.toNat) then
    s.setChannel { c with selfRefresh := true } else s)

/-- `SELF_REFRESH_EXIT` (R100): a request reaches a channel in self-refresh. -/
def execSelfRefreshExit (ch : Channel) (s : State) : Host.Outcome State Fault Refusal :=
  let c := s.channel ch
  happens (if c.selfRefresh then s.setChannel { c with lastRequest := s.now, selfRefresh := false } else s)

/-- `DROWSY_BANK_DROP` (R157): a data bank that no access has used for the drowsy period drops to retention voltage. -/
def execDrowsyBankDrop (bank : BankId) (s : State) : Host.Outcome State Fault Refusal :=
  let last : Nat :=
    match s.memsys.bankUse.find? fun x => x.1 == bank with
    | some x => x.2.toNat
    | none => 0
  let idle := decide (188 * last + 100 * vecAt s.memsys.drowsyPeriod bank.die.val 8192 ≤ 188 * s.now.toNat)
  happens (if idle && !s.memsys.drowsy.contains bank then
    { s with memsys := { s.memsys with drowsy := bank :: s.memsys.drowsy } } else s)

/-! ## Kernel chains (R93 to R95) -/

/-- `CHAIN_DEMOTE` (R93, R94): when the last kernel of a chain has retired, the chain's bit is set at every L2 slice and MSC;
chain 0 is never demoted. -/
def execChainDemote (chain : BitVec 12) (s : State) : Host.Outcome State Fault Refusal :=
  happens (if chain == 0 || !s.memsys.retired.contains chain then s
    else { s with memsys := { s.memsys with
      retired := s.memsys.retired.filter (fun c => c != chain),
      demoted := if s.memsys.demoted.contains chain then s.memsys.demoted else chain :: s.memsys.demoted } })

/-- `CHAIN_SWEEP` (R95): lines and blocks tagged with a demoted chain go to chain 0 at demoted priority; then its bit is
cleared. -/
def execChainSweep (chain : BitVec 12) (s : State) : Host.Outcome State Fault Refusal :=
  if !s.memsys.demoted.contains chain then happens s
  else
    let line (l : Line) : Line := { l with chain := 0, prio := .low }
    let block (b : MscBlock) : MscBlock := { b with chain := 0, prio := .low }
    happens { s with memsys := { s.memsys with
      lines := mapIf s.memsys.lines (fun l => l.chain == chain) line,
      msc := mapIf s.memsys.msc (fun b => b.chain == chain) block,
      demoted := s.memsys.demoted.filter fun c => c != chain } }

/-! ## Keys, firmware settings and soft errors -/

/-- `KEY_SLOT_LOAD` (R97, R99): what was written under the slot goes to DRAM under the old key, and its lines and MSC blocks
are invalidated; then the slot holds the new key pair, or none. -/
def execKeySlotLoad (slot : BitVec 10) (keys : Option (BitVec 512)) (s : State) : Host.Outcome State Fault Refusal :=
  let s0 := (s.memsys.lines.filter fun l => l.slot == slot).foldl (fun t l => t.evictLine l) s
  let held := (s0.memsys.msc.filter fun b => b.key == slot).map fun b => b.block
  let s1 := held.foldl (fun t b => t.mscEvict b) s0
  let others := s1.memsys.keys.filter fun p => p.1 != slot
  happens { s1 with memsys := { s1.memsys with
    keys := (match keys with
      | some k => (slot, k) :: others
      | none => others) } }

/-! ## What firmware sets -/

/-- The bin of a temperature: 16 bins of 5 °C from 20 °C; what lies outside counts in the nearest (R441; log 122). -/
def tempBin (degC : BitVec 8) : Fin 16 := ⟨min 15 ((degC.toNat - 20) / 5) % 16, Nat.mod_lt _ (by decide)⟩

/-- A power island reports: its histograms count the report (R441, R442; log 122). -/
def State.islandReports (s : State) (n : Fin 24) (x : Island) : State :=
  let t : State := { s with host := { s.host with islands := vecPut s.host.islands n.val x } }
  (t.count (.temperature n (tempBin x.degC))).count (.voltage n (Config.voltageBin x.mv))

/-- Measurement register 1 is extended with the digest of a firmware stage: MR := SHA3-512(MR ∥ digest) (R439). -/
def State.extendMr1 (s : State) (digest : BitVec 512) : State :=
  { s with host := { s.host with
      mr := s.host.mr.set 1 (sha3 (bytesLE 64 s.host.mr[1].toNat ++ bytesLE 64 digest.toNat)) } }

/-- A setting takes effect where the spec allows its value (R88, R100, R111, R136, R157, R439, R442); another value is ignored. -/
def State.applySetting (s : State) (x : Setting) : State :=
  let b := s.host.bar0
  match x with
  | .scrub h => if 1 ≤ h ∧ h ≤ 168 then { s with memsys := { s.memsys with scrubHours := h } } else s
  | .idle pad ns =>
    if 500 ≤ ns ∧ ns ≤ 64000 then
      { s with memsys := { s.memsys with idleHbm := if pad then s.memsys.idleHbm else ns,
                                         idlePad := if pad then ns else s.memsys.idlePad } }
    else s
  | .drowsy die n =>
    if (List.range 8).any fun i => n == 1024 * 2 ^ i then
      { s with memsys := { s.memsys with drowsyPeriod := vecPut s.memsys.drowsyPeriod die.val n } } else s
  | .detector die n =>
    if (List.range 9).any fun i => n == 256 * 2 ^ i then
      { s with fabric := { s.fabric with threshold := vecPut s.fabric.threshold die.val n } } else s
  | .hitch ns => if 10000 ≤ ns ∧ ns ≤ 10000000 then { s with fabric := { s.fabric with hitchTimeout := ns } } else s
  | .guard ns => { s with fabric := { s.fabric with guard := ns } }
  | .faultQueue base size => { s with host := { s.host with bar0 := { b with fqbase := base, fqsize := size } } }
  | .studbook base size => { s with host := { s.host with bar0 := { b with studbase := base, studsize := size } } }
  | .asidTable base => { s with memsys := { s.memsys with asidBase := base } }
  | .island n i => s.islandReports n i
  | .firmwareStage d => s.extendMr1 d
  | .halterLost die =>
    { s with fabric := { s.fabric with
        halters := mapIf s.fabric.halters (fun h => h.die == die) fun h => { h with stop := none, unseen := 0 } } }

/-- `SRAM_SOFT_ERROR` (R441): corrected, and counted for its die. -/
def execSramSoftError (die : DieId) (s : State) : Host.Outcome State Fault Refusal := happens (s.count (.sram die))

end Sys2Proof.Machine
end

