-- ==== Sys2Proof/Machine/Transc.lean ====
section
/-!
DEFINITION. The transcendentals of class 4 (R223, R224, R246): each function's value to 640 binary places, the rounding
of the accurate grade, and the bounds within which the other results are free (Table 7.10).
-/

noncomputable section

namespace Sys2Proof.Machine

open Sys2Proof

/-! ## Values to 640 binary places

Sums are in Horner's form, with terms enough for 640 places.  A value whose distance from its limit lies below every
format's resolution is represented by one that rounds alike. -/

/-- 1 with 640 binary places. -/
def fxOne : Nat := 2 ^ 640

/-- ln 2. -/
def fxLn2 : Nat := 0xb17217f7d1cf79abc9e3b39803f2f6af40f343267298b62d8a0d175b8baafa2be7b876206debac98559552fb4afa1b10ed2eae35c138214427573b291169b8253e96ca16224ae8c51acbda11317c387e

/-- π with 800 binary places. -/
def fxPi : Nat := 0x3243f6a8885a308d313198a2e03707344a4093822299f31d0082efa98ec4e6c89452821e638d01377be5466cf34e90c6cc0ac29b7c97c50dd3f84d5b5b54709179216d5d98979fb1bd1310ba698dfb5ac2ffd72dbd01adfb7b8e1afed6a267e96ba7c9045

/-- 2 / √π. -/
def fxErfScale : Nat := 0x120dd750429b6d11ae3a914fed7fd8688281341d7587cea2e7342b06199cc416180eb39f0b24e1e2281806c12d98f35d77a3e9ddc91c394f0e9eedf0efffd84a2a4ac3b98489b8cbd3845e8fef6ff6af9

/-- m × 2^e with 640 binary places. -/
def fxOf (m : Nat) (e : Int) : Nat := if 0 ≤ e + 640 then m * 2 ^ (e + 640).toNat else m / 2 ^ (-(e + 640)).toNat

/-- e^r for 0 ≤ r < 1: 1 + r/n (1 + r/(n + 1) (…)). -/
def fxExp (r : Nat) (fuel n : Nat) : Nat :=
  match fuel with
  | 0 => fxOne
  | k + 1 => fxOne + r * fxExp r k (n + 1) / n / fxOne

/-- 1 − y/(n (n + 1)) (1 − …) for y = r²: from n = 2 sin r / r, from n = 1 cos r. -/
def fxTrig (y : Nat) (fuel n : Nat) : Nat :=
  match fuel with
  | 0 => fxOne
  | k + 1 => fxOne - y * fxTrig y k (n + 2) / (n * (n + 1)) / fxOne

/-- 1/n + y (1/(n + 2) + …): from n = 1, with y = z², atanh z / z. -/
def fxAtanh (y : Nat) (fuel n : Nat) : Nat :=
  match fuel with
  | 0 => 0
  | k + 1 => fxOne / n + y * fxAtanh y k (n + 2) / fxOne

/-- 1/(2n + 1) − y/(n + 1) (1/(2n + 3) − …): from n = 0, with y = x², erf x / x without its scale. -/
def fxErf (y : Nat) (fuel n : Nat) : Nat :=
  match fuel with
  | 0 => fxOne / (2 * n + 1)
  | k + 1 => fxOne / (2 * n + 1) - y * fxErf y k (n + 1) / (n + 1) / fxOne

/-- A positive ratio. -/
structure Ratio where
  num : Nat
  den : Nat
  deriving DecidableEq, Repr

/-- 2^k × m / 2^640. -/
def ratioAt (m : Nat) (k : Int) : Ratio :=
  if 0 ≤ k then { num := m * 2 ^ k.toNat, den := fxOne } else { num := m, den := fxOne * 2 ^ (-k).toNat }

/-- e^x or e^−x, x with 640 binary places. -/
def expRatio (neg : Bool) (x : Nat) : Ratio :=
  let k := x / fxLn2
  if neg then ratioAt (fxExp ((k + 1) * fxLn2 - x) 125 1) (-((k + 1 : Nat) : Int))
  else ratioAt (fxExp (x % fxLn2) 125 1) (k : Int)

/-- 2^x or 2^−x. -/
def exp2Ratio (neg : Bool) (x : Nat) : Ratio :=
  let k := x / fxOne
  if neg then ratioAt (fxExp (((k + 1) * fxOne - x) * fxLn2 / fxOne) 125 1) (-((k + 1 : Nat) : Int))
  else ratioAt (fxExp (x % fxOne * fxLn2 / fxOne) 125 1) (k : Int)

/-- ln of m / 2^640 in [1, 2). -/
def fxLn (m : Nat) : Nat :=
  let z := (m - fxOne) * fxOne / (m + fxOne)
  2 * (z * fxAtanh (z * z / fxOne) 205 1 / fxOne)

/-- The integer and fraction of log2 of m × 2^e, and the ln of its fraction: x = f × 2^k with f in [1, 2). -/
def lnParts (m : Nat) (e : Int) : Int × Nat :=
  let l := Nat.log2 m
  ((l : Int) + e, fxLn (m * 2 ^ (640 - l)))

/-- sin or cos of m × 2^e: sign and magnitude. -/
def trigValue (cos : Bool) (m : Nat) (e : Int) : Bool × Nat :=
  let x := if 0 ≤ e + 800 then m * 2 ^ (e + 800).toNat else 0
  let half := fxPi / 2
  let q := (2 * x + half) / (2 * half)
  let low : Bool := x < q * half
  let r := (if low then q * half - x else x - q * half) / 2 ^ 160
  let y := r * r / fxOne
  let k := (q + if cos then 1 else 0) % 4
  -- Quadrant k: sin, cos, −sin, −cos of the remainder.
  if k % 2 = 0 then ((k == 2) != low, r * fxTrig y 62 2 / fxOne) else (k == 3, fxTrig y 62 1)

/-! ## The functions -/

/-- The functions of Table 2.8, in the order of their ops. -/
inductive TFun where
  | exp2
  | exp
  | log2
  | ln
  | rcp
  | rsqrt
  | sqrt
  | sin
  | cos
  | tanh
  | sigm
  | erf
  deriving DecidableEq, Repr

/-- The op of a function. -/
def TFun.code (f : TFun) : Nat :=
  match f with
  | .exp2 => 0
  | .exp => 1
  | .log2 => 2
  | .ln => 3
  | .rcp => 4
  | .rsqrt => 5
  | .sqrt => 6
  | .sin => 7
  | .cos => 8
  | .tanh => 9
  | .sigm => 10
  | .erf => 11

/-- A function's value: a special result with its flags, or a sign and a positive ratio, exact or not. -/
inductive TVal where
  | nan (nv : Bool)
  | inf (neg dz : Bool)
  | zero (neg : Bool)
  | value (neg : Bool) (r : Ratio) (exact : Bool)
  deriving DecidableEq, Repr

/-- An exact value m × 2^e. -/
def TVal.dyadic (neg : Bool) (m : Nat) (e : Int) : TVal :=
  .value neg (if 0 ≤ e then { num := m * 2 ^ e.toNat, den := 1 } else { num := m, den := 2 ^ (-e).toNat }) true

/-- A signed value with 640 binary places. -/
def TVal.fixed (neg : Bool) (x : Nat) : TVal := .value neg { num := x, den := fxOne } false

/-- Is m × 2^e an integer? -/
def isIntegral (m : Nat) (e : Int) : Bool := decide (0 ≤ e) || m % 2 ^ (-e).toNat == 0

/-- Is m a power of two? -/
def isPow2 (m : Nat) : Bool := m == 2 ^ Nat.log2 m

/-- The value at a finite operand that is not zero. -/
def TFun.finite (f : TFun) (neg : Bool) (m : Nat) (e : Int) : TVal :=
  let top : Int := (Nat.log2 m : Int) + e
  let x := fxOf m e
  match f with
  | .exp2 =>
    if 10 ≤ top then .value false (ratioAt fxOne (if neg then -600 else 600)) false
    else if isIntegral m e then
      let n : Int := (m * 2 ^ e.toNat / 2 ^ (-e).toNat : Nat)
      .dyadic false 1 (if neg then -n else n)
    else .value false (exp2Ratio neg x) false
  | .exp =>
    if 10 ≤ top then .value false (ratioAt fxOne (if neg then -600 else 600)) false
    else .value false (expRatio neg x) false
  | .log2 =>
    if neg then .nan true
    else
      let (k, l) := lnParts m e
      if isPow2 m then (if k = 0 then .zero false else .dyadic (decide (k < 0)) k.natAbs 0)
      else
        let v : Int := k * (fxOne : Int) + (l * fxOne / fxLn2 : Nat)
        .fixed (decide (v < 0)) v.natAbs
  | .ln =>
    if neg then .nan true
    else
      let (k, l) := lnParts m e
      if isPow2 m && k == 0 then .zero false
      else
        let v : Int := k * (fxLn2 : Int) + (l : Int)
        .fixed (decide (v < 0)) v.natAbs
  | .rcp =>
    if isPow2 m then .dyadic neg 1 (-top)
    else .value neg (if 0 ≤ e then { num := 1, den := m * 2 ^ e.toNat } else { num := 2 ^ (-e).toNat, den := m }) false
  | .rsqrt =>
    if neg then .nan true
    else if isPow2 m && top % 2 == 0 then .dyadic false 1 (-(top / 2))
    else
      let (m2, e2) : Nat × Int := if e % 2 = 0 then (m, e) else (2 * m, e - 1)
      .value false (ratioAt (isqrt (2 ^ 1280 / m2)) (-(e2 / 2))) false
  | .sqrt =>
    if neg then .nan true
    else
      let (m2, e2) : Nat × Int := if e % 2 = 0 then (m, e) else (2 * m, e - 1)
      let r := isqrt m2
      if r * r = m2 then .dyadic false r (e2 / 2)
      else .value false (ratioAt (isqrt (m2 * 2 ^ 1280)) (e2 / 2)) false
  | .sin => let v := trigValue false m e; .fixed (v.1 != neg) v.2
  | .cos => let v := trigValue true m e; .fixed v.1 v.2
  | .tanh =>
    if 6 ≤ top then .fixed neg (fxOne - 2 ^ 490)
    else let r := expRatio true (2 * x); .value neg { num := r.den - r.num, den := r.den + r.num } false
  | .sigm =>
    if 7 ≤ top then (if neg then .fixed false (2 ^ 340) else .fixed false (fxOne - 2 ^ 500))
    else
      let r := expRatio true x
      .value false { num := if neg then r.num else r.den, den := r.den + r.num } false
  | .erf =>
    if 6 * fxOne ≤ x then .fixed neg (fxOne - 2 ^ 540)
    else .fixed neg (x * fxErf (x * x / fxOne) 300 0 / fxOne * fxErfScale / fxOne)

/-- The value at any operand (Table 7.11). -/
def TFun.value (f : TFun) (v : FVal) : TVal :=
  match v with
  | .nan s => .nan s
  | .inf neg =>
    match f with
    | .exp2 | .exp => if neg then .zero false else .inf false false
    | .log2 | .ln => if neg then .nan true else .inf false false
    | .rcp => .zero neg
    | .rsqrt => if neg then .nan true else .zero false
    | .sqrt => if neg then .nan true else .inf false false
    | .sin | .cos => .nan true
    | .tanh | .erf => .dyadic neg 1 0
    | .sigm => if neg then .zero false else .dyadic false 1 0
  | .fin neg m e =>
    if m = 0 then
      match f with
      | .exp2 | .exp | .cos => .dyadic false 1 0
      | .log2 | .ln => .inf true true
      | .rcp | .rsqrt => .inf neg true
      | .sqrt | .sin | .tanh | .erf => .zero neg
      | .sigm => .dyadic false 1 (-1)
    else f.finite neg m e

/-! ## Results -/

/-- The magnitude next above (`up`) or below a ratio in a format, with the flags of rounding to it. -/
def neighbour (f : Fmt) (r : Ratio) (up : Bool) : Nat × FFlags := roundRat f (if up then .rup else .rtz) false r.num r.den

/-- The flags of a rounded result: ±∞ from a finite operand of `vrcp` also sets DZ (R224). -/
def TFun.infFlags (g : TFun) (f : Fmt) (w : Nat × FFlags) : FFlags :=
  if g == .rcp && w.1 % f.signBit == f.inf false then { w.2 with dz := true } else w.2

/-- A result of the accurate grade: correctly rounded, but for f32 of every function other than `vsqrt` and `vrcp` one of
the two neighbours, freely (R223). -/
def accurateResult (f : Fmt) (g : TFun) (t : Nat) (mode : RMode) (bits : Nat) : Nat × FFlags :=
  match g.value (FVal.ofBits f bits) with
  | .nan nv => nanResult f nv
  | .inf neg dz => (f.inf neg, { FFlags.none with dz := dz })
  | .zero neg => (f.zero neg, FFlags.none)
  | .value neg r exact =>
    let w := roundRat f mode neg r.num r.den
    let beyond : Bool := w.2.of || (neighbour f r true).1 == f.inf false
    if (exact && !w.2.nx) || t != 1 || g == .rcp || g == .sqrt || beyond then (w.1, g.infFlags f w)
    else
      let x := neighbour f r (Config.transcChoice g.code t true bits % 2 == 1)
      ((if neg then f.signBit else 0) + x.1, x.2)

/-- The bound of the fast grade in units in the last place (Table 7.10). -/
def TFun.bound (g : TFun) (t : Nat) : Nat :=
  match g with
  | .rcp | .rsqrt | .sqrt => 1
  | _ => if t = 1 then 2 else 1

/-- Does the finite magnitude `x` lie within b ulp(y) of y (R223)? -/
def withinUlp (f : Fmt) (b : Nat) (x : Nat) (y : Ratio) : Bool :=
  match FVal.ofBits f x with
  | .fin false m e =>
    let q : Int := max (ratLog2 y.num y.den) f.emin - f.fbits
    -- |m 2^e − num/den| ≤ b 2^q, all times den 2^−low.
    let low := min e q
    let lhs : Int := ((m * 2 ^ (e - low).toNat * y.den * 2 ^ low.toNat : Nat) : Int) - ((y.num * 2 ^ (-low).toNat : Nat) : Int)
    decide (lhs.natAbs ≤ b * 2 ^ (q - low).toNat * y.den * 2 ^ low.toNat)
  | _ => false

/-- The operand as the fast grade reads it: a subnormal is a zero of its sign. -/
def flushed (f : Fmt) (bits : Nat) : Nat :=
  if bits / 2 ^ f.fbits % 2 ^ f.ebits = 0 then bits / f.signBit * f.signBit else bits

/-- A result of the fast grade (R223, R224): exact points exact, subnormal results zero, overflow +∞, and otherwise any
value within the bound, freely.  A result flushed to zero sets UF and NX, also when its exact value is a representable
subnormal (DESIGN CHOICE, log 113). -/
def fastResult (f : Fmt) (g : TFun) (t : Nat) (bits : Nat) : Nat × FFlags :=
  match g.value (FVal.ofBits f (flushed f bits)) with
  | .nan nv => nanResult f nv
  | .inf neg dz => (f.inf neg, { FFlags.none with dz := dz })
  | .zero neg => (f.zero neg, FFlags.none)
  | .value neg r exact =>
    let w := roundRat f .rne false r.num r.den
    let sign := if neg then f.signBit else 0
    if w.2.of then (f.inf false, w.2)
    else if w.1 < 2 ^ f.fbits then (f.zero neg, { FFlags.none with uf := true, nx := true })
    else if exact && !w.2.nx then (sign + w.1, w.2)
    else
      let b := g.bound t
      let near := ((List.range (4 * b + 1)).map fun k => w.1 + k - 2 * b).filter fun x => withinUlp f b x r
      (sign + listAt near (Config.transcChoice g.code t false bits % near.length) w.1, { FFlags.none with nx := true })

/-- One transcendental instruction: each element of each selected lane (R246). -/
def State.transc (s : State) (p : Option Pre) (t : BitVec 3) (d a : RegNo) (g : TFun) (accurate : Bool) : State :=
  s.fpElems p t d fun i k =>
    let x := fpElem t (s.fpLane t a i) k
    if accurate then accurateResult (fpFmt t) g t.toNat (s.mode p) x else fastResult (fpFmt t) g t.toNat x

/-- `vexp2` (R246) -/
def execVexp2 (p : Option Pre) (c : Bool) (t : BitVec 3) (d a : RegNo) (s : State) : Host.Outcome State Fault Refusal :=
  s.issue1 (.vexp2 p c t d a) fun q => q.transc p t d a .exp2 false

/-- `vexp2.acc` (R246) -/
def execVexp2Acc (p : Option Pre) (c : Bool) (t : BitVec 3) (d a : RegNo) (s : State) : Host.Outcome State Fault Refusal :=
  s.issue1 (.vexp2Acc p c t d a) fun q => q.transc p t d a .exp2 true

/-- `vexp` (R246) -/
def execVexp (p : Option Pre) (c : Bool) (t : BitVec 3) (d a : RegNo) (s : State) : Host.Outcome State Fault Refusal :=
  s.issue1 (.vexp p c t d a) fun q => q.transc p t d a .exp false

/-- `vexp.acc` (R246) -/
def execVexpAcc (p : Option Pre) (c : Bool) (t : BitVec 3) (d a : RegNo) (s : State) : Host.Outcome State Fault Refusal :=
  s.issue1 (.vexpAcc p c t d a) fun q => q.transc p t d a .exp true

/-- `vlog2` (R246) -/
def execVlog2 (p : Option Pre) (c : Bool) (t : BitVec 3) (d a : RegNo) (s : State) : Host.Outcome State Fault Refusal :=
  s.issue1 (.vlog2 p c t d a) fun q => q.transc p t d a .log2 false

/-- `vlog2.acc` (R246) -/
def execVlog2Acc (p : Option Pre) (c : Bool) (t : BitVec 3) (d a : RegNo) (s : State) : Host.Outcome State Fault Refusal :=
  s.issue1 (.vlog2Acc p c t d a) fun q => q.transc p t d a .log2 true

/-- `vln` (R246) -/
def execVln (p : Option Pre) (c : Bool) (t : BitVec 3) (d a : RegNo) (s : State) : Host.Outcome State Fault Refusal :=
  s.issue1 (.vln p c t d a) fun q => q.transc p t d a .ln false

/-- `vln.acc` (R246) -/
def execVlnAcc (p : Option Pre) (c : Bool) (t : BitVec 3) (d a : RegNo) (s : State) : Host.Outcome State Fault Refusal :=
  s.issue1 (.vlnAcc p c t d a) fun q => q.transc p t d a .ln true

/-- `vrcp` (R246) -/
def execVrcp (p : Option Pre) (c : Bool) (t : BitVec 3) (d a : RegNo) (s : State) : Host.Outcome State Fault Refusal :=
  s.issue1 (.vrcp p c t d a) fun q => q.transc p t d a .rcp false

/-- `vrcp.acc` (R246) -/
def execVrcpAcc (p : Option Pre) (c : Bool) (t : BitVec 3) (d a : RegNo) (s : State) : Host.Outcome State Fault Refusal :=
  s.issue1 (.vrcpAcc p c t d a) fun q => q.transc p t d a .rcp true

/-- `vrsqrt` (R246) -/
def execVrsqrt (p : Option Pre) (c : Bool) (t : BitVec 3) (d a : RegNo) (s : State) : Host.Outcome State Fault Refusal :=
  s.issue1 (.vrsqrt p c t d a) fun q => q.transc p t d a .rsqrt false

/-- `vrsqrt.acc` (R246) -/
def execVrsqrtAcc (p : Option Pre) (c : Bool) (t : BitVec 3) (d a : RegNo) (s : State) : Host.Outcome State Fault Refusal :=
  s.issue1 (.vrsqrtAcc p c t d a) fun q => q.transc p t d a .rsqrt true

/-- `vsqrt` (R246) -/
def execVsqrt (p : Option Pre) (c : Bool) (t : BitVec 3) (d a : RegNo) (s : State) : Host.Outcome State Fault Refusal :=
  s.issue1 (.vsqrt p c t d a) fun q => q.transc p t d a .sqrt false

/-- `vsqrt.acc` (R246) -/
def execVsqrtAcc (p : Option Pre) (c : Bool) (t : BitVec 3) (d a : RegNo) (s : State) : Host.Outcome State Fault Refusal :=
  s.issue1 (.vsqrtAcc p c t d a) fun q => q.transc p t d a .sqrt true

/-- `vsin` (R246) -/
def execVsin (p : Option Pre) (c : Bool) (t : BitVec 3) (d a : RegNo) (s : State) : Host.Outcome State Fault Refusal :=
  s.issue1 (.vsin p c t d a) fun q => q.transc p t d a .sin false

/-- `vsin.acc` (R246) -/
def execVsinAcc (p : Option Pre) (c : Bool) (t : BitVec 3) (d a : RegNo) (s : State) : Host.Outcome State Fault Refusal :=
  s.issue1 (.vsinAcc p c t d a) fun q => q.transc p t d a .sin true

/-- `vcos` (R246) -/
def execVcos (p : Option Pre) (c : Bool) (t : BitVec 3) (d a : RegNo) (s : State) : Host.Outcome State Fault Refusal :=
  s.issue1 (.vcos p c t d a) fun q => q.transc p t d a .cos false

/-- `vcos.acc` (R246) -/
def execVcosAcc (p : Option Pre) (c : Bool) (t : BitVec 3) (d a : RegNo) (s : State) : Host.Outcome State Fault Refusal :=
  s.issue1 (.vcosAcc p c t d a) fun q => q.transc p t d a .cos true

/-- `vtanh` (R246) -/
def execVtanh (p : Option Pre) (c : Bool) (t : BitVec 3) (d a : RegNo) (s : State) : Host.Outcome State Fault Refusal :=
  s.issue1 (.vtanh p c t d a) fun q => q.transc p t d a .tanh false

/-- `vtanh.acc` (R246) -/
def execVtanhAcc (p : Option Pre) (c : Bool) (t : BitVec 3) (d a : RegNo) (s : State) : Host.Outcome State Fault Refusal :=
  s.issue1 (.vtanhAcc p c t d a) fun q => q.transc p t d a .tanh true

/-- `vsigm` (R246) -/
def execVsigm (p : Option Pre) (c : Bool) (t : BitVec 3) (d a : RegNo) (s : State) : Host.Outcome State Fault Refusal :=
  s.issue1 (.vsigm p c t d a) fun q => q.transc p t d a .sigm false

/-- `vsigm.acc` (R246) -/
def execVsigmAcc (p : Option Pre) (c : Bool) (t : BitVec 3) (d a : RegNo) (s : State) : Host.Outcome State Fault Refusal :=
  s.issue1 (.vsigmAcc p c t d a) fun q => q.transc p t d a .sigm true

/-- `verf` (R246) -/
def execVerf (p : Option Pre) (c : Bool) (t : BitVec 3) (d a : RegNo) (s : State) : Host.Outcome State Fault Refusal :=
  s.issue1 (.verf p c t d a) fun q => q.transc p t d a .erf false

/-- `verf.acc` (R246) -/
def execVerfAcc (p : Option Pre) (c : Bool) (t : BitVec 3) (d a : RegNo) (s : State) : Host.Outcome State Fault Refusal :=
  s.issue1 (.verfAcc p c t d a) fun q => q.transc p t d a .erf true

end Sys2Proof.Machine

end
end

