-- ==== Sys2Proof/Machine/Dispatch.lean ====
section
/-!
DEFINITION. The meaning of each instruction and event of the opcode table, one arm each.
-/

namespace Sys2Proof.Machine

-- Nothing is compiled: the code generator has no tags for an inductive of this many constructors.
open Sys2Proof noncomputable section

def exec (i : Instr) (s : State) : Host.Outcome State Fault Refusal :=
  match i with
  | .clauseStart l w a b => Sys2Proof.Machine.execClauseStart l w a b s
  | .add c d a b w => Sys2Proof.Machine.execAdd c d a b w s
  | .sub c d a b w => Sys2Proof.Machine.execSub c d a b w s
  | .addc c d a b w => Sys2Proof.Machine.execAddc c d a b w s
  | .mul c d a b w => Sys2Proof.Machine.execMul c d a b w s
  | .mulh c d a b w => Sys2Proof.Machine.execMulh c d a b w s
  | .mulhu c d a b w => Sys2Proof.Machine.execMulhu c d a b w s
  | .div c d a b w => Sys2Proof.Machine.execDiv c d a b w s
  | .divu c d a b w => Sys2Proof.Machine.execDivu c d a b w s
  | .rem c d a b w => Sys2Proof.Machine.execRem c d a b w s
  | .remu c d a b w => Sys2Proof.Machine.execRemu c d a b w s
  | .and c d a b w => Sys2Proof.Machine.execAnd c d a b w s
  | .or c d a b w => Sys2Proof.Machine.execOr c d a b w s
  | .xor c d a b w => Sys2Proof.Machine.execXor c d a b w s
  | .andn c d a b w => Sys2Proof.Machine.execAndn c d a b w s
  | .shl c d a b w => Sys2Proof.Machine.execShl c d a b w s
  | .shr c d a b w => Sys2Proof.Machine.execShr c d a b w s
  | .sar c d a b w => Sys2Proof.Machine.execSar c d a b w s
  | .rol c d a b w => Sys2Proof.Machine.execRol c d a b w s
  | .min c d a b w => Sys2Proof.Machine.execMin c d a b w s
  | .max c d a b w => Sys2Proof.Machine.execMax c d a b w s
  | .minu c d a b w => Sys2Proof.Machine.execMinu c d a b w s
  | .maxu c d a b w => Sys2Proof.Machine.execMaxu c d a b w s
  | .cmpEq c d a b w => Sys2Proof.Machine.execCmpEq c d a b w s
  | .cmpNe c d a b w => Sys2Proof.Machine.execCmpNe c d a b w s
  | .cmpLt c d a b w => Sys2Proof.Machine.execCmpLt c d a b w s
  | .cmpGe c d a b w => Sys2Proof.Machine.execCmpGe c d a b w s
  | .cmpLtu c d a b w => Sys2Proof.Machine.execCmpLtu c d a b w s
  | .cmpGeu c d a b w => Sys2Proof.Machine.execCmpGeu c d a b w s
  | .sel c d a b => Sys2Proof.Machine.execSel c d a b s
  | .clz c d a w => Sys2Proof.Machine.execClz c d a w s
  | .ctz c d a w => Sys2Proof.Machine.execCtz c d a w s
  | .popc c d a w => Sys2Proof.Machine.execPopc c d a w s
  | .bext c d a b => Sys2Proof.Machine.execBext c d a b s
  | .bins c d a b => Sys2Proof.Machine.execBins c d a b s
  | .mov c d a w => Sys2Proof.Machine.execMov c d a w s
  | .addi c d i1 => Sys2Proof.Machine.execAddi c d i1 s
  | .movi c d i1 => Sys2Proof.Machine.execMovi c d i1 s
  | .movhi c d i1 => Sys2Proof.Machine.execMovhi c d i1 s
  | .andi c d i1 => Sys2Proof.Machine.execAndi c d i1 s
  | .ori c d i1 => Sys2Proof.Machine.execOri c d i1 s
  | .xori c d i1 => Sys2Proof.Machine.execXori c d i1 s
  | .shli c d i1 => Sys2Proof.Machine.execShli c d i1 s
  | .shri c d i1 => Sys2Proof.Machine.execShri c d i1 s
  | .cmpiEq c d i1 => Sys2Proof.Machine.execCmpiEq c d i1 s
  | .cmpiNe c d i1 => Sys2Proof.Machine.execCmpiNe c d i1 s
  | .cmpiLt c d i1 => Sys2Proof.Machine.execCmpiLt c d i1 s
  | .cmpiGe c d i1 => Sys2Proof.Machine.execCmpiGe c d i1 s
  | .cmpiLtu c d i1 => Sys2Proof.Machine.execCmpiLtu c d i1 s
  | .cmpiGeu c d i1 => Sys2Proof.Machine.execCmpiGeu c d i1 s
  | .br c p => Sys2Proof.Machine.execBr c p s
  | .brc c d p => Sys2Proof.Machine.execBrc c d p s
  | .brv c m p => Sys2Proof.Machine.execBrv c m p s
  | .call c d p => Sys2Proof.Machine.execCall c d p s
  | .ret c d => Sys2Proof.Machine.execRet c d s
  | .jmpr c d => Sys2Proof.Machine.execJmpr c d s
  | .join c => Sys2Proof.Machine.execJoin c s
  | .regang c => Sys2Proof.Machine.execRegang c s
  | .regangRelease sp => Sys2Proof.Machine.execRegangRelease sp s
  | .exit c => Sys2Proof.Machine.execExit c s
  | .nop c => Sys2Proof.Machine.execNop c s
  | .vadd p c t d a b => Sys2Proof.Machine.execVadd p c t d a b s
  | .vaddS p c t d a s1 => Sys2Proof.Machine.execVaddS p c t d a s1 s
  | .vaddI p c t d a i1 => Sys2Proof.Machine.execVaddI p c t d a i1 s
  | .vsub p c t d a b => Sys2Proof.Machine.execVsub p c t d a b s
  | .vsubS p c t d a s1 => Sys2Proof.Machine.execVsubS p c t d a s1 s
  | .vsubI p c t d a i1 => Sys2Proof.Machine.execVsubI p c t d a i1 s
  | .vmul p c t d a b => Sys2Proof.Machine.execVmul p c t d a b s
  | .vmulS p c t d a s1 => Sys2Proof.Machine.execVmulS p c t d a s1 s
  | .vmulh p c t d a b => Sys2Proof.Machine.execVmulh p c t d a b s
  | .vmulhS p c t d a s1 => Sys2Proof.Machine.execVmulhS p c t d a s1 s
  | .vmulhu p c d a b => Sys2Proof.Machine.execVmulhu p c d a b s
  | .vmulhuS p c d a s1 => Sys2Proof.Machine.execVmulhuS p c d a s1 s
  | .vmad p c t d a b => Sys2Proof.Machine.execVmad p c t d a b s
  | .vaddc p c d a b => Sys2Proof.Machine.execVaddc p c d a b s
  | .vsubc p c d a b => Sys2Proof.Machine.execVsubc p c d a b s
  | .vmulw p c t d a b => Sys2Proof.Machine.execVmulw p c t d a b s
  | .vand p c t d a b => Sys2Proof.Machine.execVand p c t d a b s
  | .vandS p c t d a s1 => Sys2Proof.Machine.execVandS p c t d a s1 s
  | .vandI p c t d a i1 => Sys2Proof.Machine.execVandI p c t d a i1 s
  | .vor p c t d a b => Sys2Proof.Machine.execVor p c t d a b s
  | .vorS p c t d a s1 => Sys2Proof.Machine.execVorS p c t d a s1 s
  | .vorI p c t d a i1 => Sys2Proof.Machine.execVorI p c t d a i1 s
  | .vxor p c t d a b => Sys2Proof.Machine.execVxor p c t d a b s
  | .vxorS p c t d a s1 => Sys2Proof.Machine.execVxorS p c t d a s1 s
  | .vxorI p c t d a i1 => Sys2Proof.Machine.execVxorI p c t d a i1 s
  | .vshl p c t d a b => Sys2Proof.Machine.execVshl p c t d a b s
  | .vshlS p c t d a s1 => Sys2Proof.Machine.execVshlS p c t d a s1 s
  | .vshlI p c t d a i1 => Sys2Proof.Machine.execVshlI p c t d a i1 s
  | .vshr p c t d a b => Sys2Proof.Machine.execVshr p c t d a b s
  | .vshrS p c t d a s1 => Sys2Proof.Machine.execVshrS p c t d a s1 s
  | .vshrI p c t d a i1 => Sys2Proof.Machine.execVshrI p c t d a i1 s
  | .vsar p c t d a b => Sys2Proof.Machine.execVsar p c t d a b s
  | .vsarS p c t d a s1 => Sys2Proof.Machine.execVsarS p c t d a s1 s
  | .vsarI p c t d a i1 => Sys2Proof.Machine.execVsarI p c t d a i1 s
  | .vmin p c t d a b => Sys2Proof.Machine.execVmin p c t d a b s
  | .vminS p c t d a s1 => Sys2Proof.Machine.execVminS p c t d a s1 s
  | .vmax p c t d a b => Sys2Proof.Machine.execVmax p c t d a b s
  | .vmaxS p c t d a s1 => Sys2Proof.Machine.execVmaxS p c t d a s1 s
  | .vminu p c d a b => Sys2Proof.Machine.execVminu p c d a b s
  | .vminuS p c d a s1 => Sys2Proof.Machine.execVminuS p c d a s1 s
  | .vmaxu p c d a b => Sys2Proof.Machine.execVmaxu p c d a b s
  | .vmaxuS p c d a s1 => Sys2Proof.Machine.execVmaxuS p c d a s1 s
  | .vcmpEq p c t m a b => Sys2Proof.Machine.execVcmpEq p c t m a b s
  | .vcmpEqS p c t m a s1 => Sys2Proof.Machine.execVcmpEqS p c t m a s1 s
  | .vcmpNe p c t m a b => Sys2Proof.Machine.execVcmpNe p c t m a b s
  | .vcmpNeS p c t m a s1 => Sys2Proof.Machine.execVcmpNeS p c t m a s1 s
  | .vcmpLt p c t m a b => Sys2Proof.Machine.execVcmpLt p c t m a b s
  | .vcmpLtS p c t m a s1 => Sys2Proof.Machine.execVcmpLtS p c t m a s1 s
  | .vcmpGe p c t m a b => Sys2Proof.Machine.execVcmpGe p c t m a b s
  | .vcmpGeS p c t m a s1 => Sys2Proof.Machine.execVcmpGeS p c t m a s1 s
  | .vsel p c t d a b => Sys2Proof.Machine.execVsel p c t d a b s
  | .vabs p c t d a => Sys2Proof.Machine.execVabs p c t d a s
  | .vpopc p c t d a => Sys2Proof.Machine.execVpopc p c t d a s
  | .vclz p c t d a => Sys2Proof.Machine.execVclz p c t d a s
  | .vbext p c d a b => Sys2Proof.Machine.execVbext p c d a b s
  | .vmov p c t d a => Sys2Proof.Machine.execVmov p c t d a s
  | .vmovs p c t d s1 => Sys2Proof.Machine.execVmovs p c t d s1 s
  | .vfadd p c t d a b => Sys2Proof.Machine.execVfadd p c t d a b s
  | .vfaddS p c t d a s1 => Sys2Proof.Machine.execVfaddS p c t d a s1 s
  | .vfsub p c t d a b => Sys2Proof.Machine.execVfsub p c t d a b s
  | .vfsubS p c t d a s1 => Sys2Proof.Machine.execVfsubS p c t d a s1 s
  | .vfmul p c t d a b => Sys2Proof.Machine.execVfmul p c t d a b s
  | .vfmulS p c t d a s1 => Sys2Proof.Machine.execVfmulS p c t d a s1 s
  | .vffma p c t d a b => Sys2Proof.Machine.execVffma p c t d a b s
  | .vffmaS p c t d a s1 => Sys2Proof.Machine.execVffmaS p c t d a s1 s
  | .vfmin p c t d a b => Sys2Proof.Machine.execVfmin p c t d a b s
  | .vfminS p c t d a s1 => Sys2Proof.Machine.execVfminS p c t d a s1 s
  | .vfmax p c t d a b => Sys2Proof.Machine.execVfmax p c t d a b s
  | .vfmaxS p c t d a s1 => Sys2Proof.Machine.execVfmaxS p c t d a s1 s
  | .vfabs p c t d a => Sys2Proof.Machine.execVfabs p c t d a s
  | .vfneg p c t d a => Sys2Proof.Machine.execVfneg p c t d a s
  | .vfdiv p c t d a b => Sys2Proof.Machine.execVfdiv p c t d a b s
  | .vfscale p c t d a b => Sys2Proof.Machine.execVfscale p c t d a b s
  | .vfround p c t d a => Sys2Proof.Machine.execVfround p c t d a s
  | .vfclass p c t d a => Sys2Proof.Machine.execVfclass p c t d a s
  | .vfcmpEq p c t m a b => Sys2Proof.Machine.execVfcmpEq p c t m a b s
  | .vfcmpNe p c t m a b => Sys2Proof.Machine.execVfcmpNe p c t m a b s
  | .vfcmpLt p c t m a b => Sys2Proof.Machine.execVfcmpLt p c t m a b s
  | .vfcmpLe p c t m a b => Sys2Proof.Machine.execVfcmpLe p c t m a b s
  | .vfcmpUn p c t m a b => Sys2Proof.Machine.execVfcmpUn p c t m a b s
  | .vexp2 p c t d a => Sys2Proof.Machine.execVexp2 p c t d a s
  | .vexp p c t d a => Sys2Proof.Machine.execVexp p c t d a s
  | .vlog2 p c t d a => Sys2Proof.Machine.execVlog2 p c t d a s
  | .vln p c t d a => Sys2Proof.Machine.execVln p c t d a s
  | .vrcp p c t d a => Sys2Proof.Machine.execVrcp p c t d a s
  | .vrsqrt p c t d a => Sys2Proof.Machine.execVrsqrt p c t d a s
  | .vsqrt p c t d a => Sys2Proof.Machine.execVsqrt p c t d a s
  | .vsin p c t d a => Sys2Proof.Machine.execVsin p c t d a s
  | .vcos p c t d a => Sys2Proof.Machine.execVcos p c t d a s
  | .vtanh p c t d a => Sys2Proof.Machine.execVtanh p c t d a s
  | .vsigm p c t d a => Sys2Proof.Machine.execVsigm p c t d a s
  | .verf p c t d a => Sys2Proof.Machine.execVerf p c t d a s
  | .vexp2Acc p c t d a => Sys2Proof.Machine.execVexp2Acc p c t d a s
  | .vexpAcc p c t d a => Sys2Proof.Machine.execVexpAcc p c t d a s
  | .vlog2Acc p c t d a => Sys2Proof.Machine.execVlog2Acc p c t d a s
  | .vlnAcc p c t d a => Sys2Proof.Machine.execVlnAcc p c t d a s
  | .vrcpAcc p c t d a => Sys2Proof.Machine.execVrcpAcc p c t d a s
  | .vrsqrtAcc p c t d a => Sys2Proof.Machine.execVrsqrtAcc p c t d a s
  | .vsqrtAcc p c t d a => Sys2Proof.Machine.execVsqrtAcc p c t d a s
  | .vsinAcc p c t d a => Sys2Proof.Machine.execVsinAcc p c t d a s
  | .vcosAcc p c t d a => Sys2Proof.Machine.execVcosAcc p c t d a s
  | .vtanhAcc p c t d a => Sys2Proof.Machine.execVtanhAcc p c t d a s
  | .vsigmAcc p c t d a => Sys2Proof.Machine.execVsigmAcc p c t d a s
  | .verfAcc p c t d a => Sys2Proof.Machine.execVerfAcc p c t d a s
  | .vcvt p c t d a k => Sys2Proof.Machine.execVcvt p c t d a k s
  | .vqcvt p c g s1 d a b => Sys2Proof.Machine.execVqcvt p c g s1 d a b s
  | .vdqcvt p c g s1 d a b => Sys2Proof.Machine.execVdqcvt p c g s1 d a b s
  | .vpackBp p c d a i1 => Sys2Proof.Machine.execVpackBp p c d a i1 s
  | .vunpackBp p c d a i1 => Sys2Proof.Machine.execVunpackBp p c d a i1 s
  | .shfl p c t d a b => Sys2Proof.Machine.execShfl p c t d a b s
  | .shflUp p c t d a i1 => Sys2Proof.Machine.execShflUp p c t d a i1 s
  | .shflDn p c t d a i1 => Sys2Proof.Machine.execShflDn p c t d a i1 s
  | .shflX p c t d a i1 => Sys2Proof.Machine.execShflX p c t d a i1 s
  | .shflUpS p c t d a s1 => Sys2Proof.Machine.execShflUpS p c t d a s1 s
  | .shflDnS p c t d a s1 => Sys2Proof.Machine.execShflDnS p c t d a s1 s
  | .shflXS p c t d a s1 => Sys2Proof.Machine.execShflXS p c t d a s1 s
  | .voteAny p c d a => Sys2Proof.Machine.execVoteAny p c d a s
  | .voteAll p c d a => Sys2Proof.Machine.execVoteAll p c d a s
  | .ballot p c d a => Sys2Proof.Machine.execBallot p c d a s
  | .vscan p c t d a x o => Sys2Proof.Machine.execVscan p c t d a x o s
  | .vred p c t d a o => Sys2Proof.Machine.execVred p c t d a o s
  | .vcarry p c d a b => Sys2Proof.Machine.execVcarry p c d a b s
  | .ssi p c d a b => Sys2Proof.Machine.execSsi p c d a b s
  | .vlane p c d => Sys2Proof.Machine.execVlane p c d s
  | .badd c d a b => Sys2Proof.Machine.execBadd c d a b s
  | .bsub c d a b => Sys2Proof.Machine.execBsub c d a b s
  | .bneg c d a => Sys2Proof.Machine.execBneg c d a s
  | .babs c d a => Sys2Proof.Machine.execBabs c d a s
  | .bcmp c d a b => Sys2Proof.Machine.execBcmp c d a b s
  | .bshl c d a s1 => Sys2Proof.Machine.execBshl c d a s1 s
  | .bshlI c d a i1 => Sys2Proof.Machine.execBshlI c d a i1 s
  | .bshr c d a s1 => Sys2Proof.Machine.execBshr c d a s1 s
  | .bshrI c d a i1 => Sys2Proof.Machine.execBshrI c d a i1 s
  | .bmult c d a b => Sys2Proof.Machine.execBmult c d a b s
  | .bcres c d a => Sys2Proof.Machine.execBcres c d a s
  | .bdiv c d a b => Sys2Proof.Machine.execBdiv c d a b s
  | .bmodb c d a b => Sys2Proof.Machine.execBmodb c d a b s
  | .bnorm c d a => Sys2Proof.Machine.execBnorm c d a s
  | .blen c d a => Sys2Proof.Machine.execBlen c d a s
  | .bspill c a b => Sys2Proof.Machine.execBspill c a b s
  | .bfill c d b => Sys2Proof.Machine.execBfill c d b s
  | .bladd c d a b => Sys2Proof.Machine.execBladd c d a b s
  | .blsub c d a b => Sys2Proof.Machine.execBlsub c d a b s
  | .blmul c d a b => Sys2Proof.Machine.execBlmul c d a b s
  | .blcmp c d a b => Sys2Proof.Machine.execBlcmp c d a b s
  | .blshift c d a b => Sys2Proof.Machine.execBlshift c d a b s
  | .dotx c d a b => Sys2Proof.Machine.execDotx c d a b s
  | .xround c d a => Sys2Proof.Machine.execXround c d a s
  | .bcvt c d s1 => Sys2Proof.Machine.execBcvt c d s1 s
  | .mma c a b acc p q => Sys2Proof.Machine.execMma c a b acc p q s
  | .mmai c a b acc q => Sys2Proof.Machine.execMmai c a b acc q s
  | .tshape c a b => Sys2Proof.Machine.execTshape c a b s
  | .tload c a b f s1 => Sys2Proof.Machine.execTload c a b f s1 s
  | .tstore c a b f s1 => Sys2Proof.Machine.execTstore c a b f s1 s
  | .tzero c a k => Sys2Proof.Machine.execTzero c a k s
  | .mprom c a => Sys2Proof.Machine.execMprom c a s
  | .tdrain c a b f s1 => Sys2Proof.Machine.execTdrain c a b f s1 s
  | .tdrainRed c a b f s1 => Sys2Proof.Machine.execTdrainRed c a b f s1 s
  | .txpose c a b => Sys2Proof.Machine.execTxpose c a b s
  | .tscale c a b => Sys2Proof.Machine.execTscale c a b s
  | .ttask c d a s1 => Sys2Proof.Machine.execTtask c d a s1 s
  | .spmv c d a b => Sys2Proof.Machine.execSpmv c d a b s
  | .sptrsv c d a b => Sys2Proof.Machine.execSptrsv c d a b s
  | .reinsTake c => Sys2Proof.Machine.execReinsTake c s
  | .reinsPass c a => Sys2Proof.Machine.execReinsPass c a s
  | .reinsPassNext c => Sys2Proof.Machine.execReinsPassNext c s
  | .reinsQuery c d => Sys2Proof.Machine.execReinsQuery c d s
  | .reinsGrant k => Sys2Proof.Machine.execReinsGrant k s
  | .ld p c s1 d a b l => Sys2Proof.Machine.execLd p c s1 d a b l s
  | .ld64 p c s1 d a b l => Sys2Proof.Machine.execLd64 p c s1 d a b l s
  | .ld16 p c s1 d a b l => Sys2Proof.Machine.execLd16 p c s1 d a b l s
  | .ld8 p c s1 d a b l => Sys2Proof.Machine.execLd8 p c s1 d a b l s
  | .st p c s1 d a b l => Sys2Proof.Machine.execSt p c s1 d a b l s
  | .st64 p c s1 d a b l => Sys2Proof.Machine.execSt64 p c s1 d a b l s
  | .st16 p c s1 d a b l => Sys2Proof.Machine.execSt16 p c s1 d a b l s
  | .st8 p c s1 d a b l => Sys2Proof.Machine.execSt8 p c s1 d a b l s
  | .lds p c s1 d a b l => Sys2Proof.Machine.execLds p c s1 d a b l s
  | .sts p c s1 d a b l => Sys2Proof.Machine.execSts p c s1 d a b l s
  | .ldNc p c s1 d a b l => Sys2Proof.Machine.execLdNc p c s1 d a b l s
  | .prefetch p c s1 a b l => Sys2Proof.Machine.execPrefetch p c s1 a b l s
  | .hintNorm p c s1 a b l => Sys2Proof.Machine.execHintNorm p c s1 a b l s
  | .hintFirst p c s1 a b l => Sys2Proof.Machine.execHintFirst p c s1 a b l s
  | .hintLast p c s1 a b l => Sys2Proof.Machine.execHintLast p c s1 a b l s
  | .hintLow p c s1 a b l => Sys2Proof.Machine.execHintLow p c s1 a b l s
  | .cinv p c s1 a b l => Sys2Proof.Machine.execCinv p c s1 a b l s
  | .cflush p c s1 a b l => Sys2Proof.Machine.execCflush p c s1 a b l s
  | .amoAdd c t p s1 d b => Sys2Proof.Machine.execAmoAdd c t p s1 d b s
  | .amoMin c t p s1 d b => Sys2Proof.Machine.execAmoMin c t p s1 d b s
  | .amoMax c t p s1 d b => Sys2Proof.Machine.execAmoMax c t p s1 d b s
  | .amoAnd c t p s1 d b => Sys2Proof.Machine.execAmoAnd c t p s1 d b s
  | .amoOr c t p s1 d b => Sys2Proof.Machine.execAmoOr c t p s1 d b s
  | .amoXor c t p s1 d b => Sys2Proof.Machine.execAmoXor c t p s1 d b s
  | .amoXchg c t p s1 d b => Sys2Proof.Machine.execAmoXchg c t p s1 d b s
  | .amoCas c t p s1 d b => Sys2Proof.Machine.execAmoCas c t p s1 d b s
  | .redAdd c t p s1 d b => Sys2Proof.Machine.execRedAdd c t p s1 d b s
  | .redMin c t p s1 d b => Sys2Proof.Machine.execRedMin c t p s1 d b s
  | .redMax c t p s1 d b => Sys2Proof.Machine.execRedMax c t p s1 d b s
  | .redAnd c t p s1 d b => Sys2Proof.Machine.execRedAnd c t p s1 d b s
  | .redOr c t p s1 d b => Sys2Proof.Machine.execRedOr c t p s1 d b s
  | .redXor c t p s1 d b => Sys2Proof.Machine.execRedXor c t p s1 d b s
  | .waitcmp c u m p s1 a b => Sys2Proof.Machine.execWaitcmp c u m p s1 a b s
  | .barInit c s1 a b => Sys2Proof.Machine.execBarInit c s1 a b s
  | .barArrive c p s1 a b => Sys2Proof.Machine.execBarArrive c p s1 a b s
  | .barWait c p s1 a => Sys2Proof.Machine.execBarWait c p s1 a s
  | .barExpect c s1 a b => Sys2Proof.Machine.execBarExpect c s1 a b s
  | .fence c p => Sys2Proof.Machine.execFence c p s
  | .fenceSc c p => Sys2Proof.Machine.execFenceSc c p s
  | .xfence c p a b => Sys2Proof.Machine.execXfence c p a b s
  | .fenceScTick sp => Sys2Proof.Machine.execFenceScTick sp s
  | .eqw c n a => Sys2Proof.Machine.execEqw c n a s
  | .eqgo c d => Sys2Proof.Machine.execEqgo c d s
  | .sleepu c a => Sys2Proof.Machine.execSleepu c a s
  | .sleepp c a b => Sys2Proof.Machine.execSleepp c a b s
  | .promiseChk c d b => Sys2Proof.Machine.execPromiseChk c d b s
  | .time c d => Sys2Proof.Machine.execTime c d s
  | .halloc c d a => Sys2Proof.Machine.execHalloc c d a s
  | .hfree c a => Sys2Proof.Machine.execHfree c a s
  | .sleepWake sp => Sys2Proof.Machine.execSleepWake sp s
  | .trap c n => Sys2Proof.Machine.execTrap c n s
  | .brk c => Sys2Proof.Machine.execBrk c s
  | .trace c a => Sys2Proof.Machine.execTrace c a s
  | .sysrd c d r => Sys2Proof.Machine.execSysrd c d r s
  | .syswr c d r => Sys2Proof.Machine.execSyswr c d r s
  | .rte c => Sys2Proof.Machine.execRte c s
  | .segld c s1 a => Sys2Proof.Machine.execSegld c s1 a s
  | .tlbinv c a b => Sys2Proof.Machine.execTlbinv c a b s
  | .spawn c d a b => Sys2Proof.Machine.execSpawn c d a b s
  | .phaseEnd c => Sys2Proof.Machine.execPhaseEnd c s
  | .phaseCommit sp => Sys2Proof.Machine.execPhaseCommit sp s
  | .acqx c d a => Sys2Proof.Machine.execAcqx c d a s
  | .acqxGrant k => Sys2Proof.Machine.execAcqxGrant k s
  | .acquireTimeout sp => Sys2Proof.Machine.execAcquireTimeout sp s
  | .relx c a => Sys2Proof.Machine.execRelx c a s
  | .yield c => Sys2Proof.Machine.execYield c s
  | .age c d => Sys2Proof.Machine.execAge c d s
  | .lvl c d l => Sys2Proof.Machine.execLvl c d l s
  | .longOperationComplete op => Sys2Proof.Machine.execLongOperationComplete op s
  | .spanPromotion sp => Sys2Proof.Machine.execSpanPromotion sp s
  | .trapEntry sp => Sys2Proof.Machine.execTrapEntry sp s
  | .regionLimit sp => Sys2Proof.Machine.execRegionLimit sp s
  | .accessAtHome op sector => Sys2Proof.Machine.execAccessAtHome op sector s
  | .atomicAtHome op lane => Sys2Proof.Machine.execAtomicAtHome op lane s
  | .reductionCombine op op2 => Sys2Proof.Machine.execReductionCombine op op2 s
  | .barrierDecrement sp token => Sys2Proof.Machine.execBarrierDecrement sp token s
  | .sharerInvalidation line sharer => Sys2Proof.Machine.execSharerInvalidation line sharer s
  | .invalidationConfirmation line sharer => Sys2Proof.Machine.execInvalidationConfirmation line sharer s
  | .storeAcknowledgement op sector => Sys2Proof.Machine.execStoreAcknowledgement op sector s
  | .regionClose r => Sys2Proof.Machine.execRegionClose r s
  | .monitorWake sp => Sys2Proof.Machine.execMonitorWake sp s
  | .waitcmpTimeout sp => Sys2Proof.Machine.execWaitcmpTimeout sp s
  | .barWaitRetest sp => Sys2Proof.Machine.execBarWaitRetest sp s
  | .saddleTouch sp => Sys2Proof.Machine.execSaddleTouch sp s
  | .rollbackReplay g => Sys2Proof.Machine.execRollbackReplay g s
  | .translationWalk walk => Sys2Proof.Machine.execTranslationWalk walk s
  | .mscSectorWrite pa key => Sys2Proof.Machine.execMscSectorWrite pa key s
  | .mscSectorRead pa key => Sys2Proof.Machine.execMscSectorRead pa key s
  | .mscWriteback block => Sys2Proof.Machine.execMscWriteback block s
  | .dramBlockRead block => Sys2Proof.Machine.execDramBlockRead block s
  | .correctedWriteback block => Sys2Proof.Machine.execCorrectedWriteback block s
  | .scrubRead block => Sys2Proof.Machine.execScrubRead block s
  | .selfRefreshEntry ch => Sys2Proof.Machine.execSelfRefreshEntry ch s
  | .selfRefreshExit ch => Sys2Proof.Machine.execSelfRefreshExit ch s
  | .drowsyBankDrop bank => Sys2Proof.Machine.execDrowsyBankDrop bank s
  | .chainDemote chain => Sys2Proof.Machine.execChainDemote chain s
  | .chainSweep chain => Sys2Proof.Machine.execChainSweep chain s
  | .keySlotLoad slot keys => Sys2Proof.Machine.execKeySlotLoad slot keys s
  | .timeoutDetectorExpiry packet => Sys2Proof.Machine.execTimeoutDetectorExpiry packet s
  | .misroute packet => Sys2Proof.Machine.execMisroute packet s
  | .halterCapture die => Sys2Proof.Machine.execHalterCapture die s
  | .halterRegenerate die => Sys2Proof.Machine.execHalterRegenerate die s
  | .bridleReceive packet => Sys2Proof.Machine.execBridleReceive packet s
  | .routerPowerGate die router => Sys2Proof.Machine.execRouterPowerGate die router s
  | .routerWake die router => Sys2Proof.Machine.execRouterWake die router s
  | .girthRetrain link ok => Sys2Proof.Machine.execGirthRetrain link ok s
  | .girthLinkDown link => Sys2Proof.Machine.execGirthLinkDown link s
  | .hitchRetrain port => Sys2Proof.Machine.execHitchRetrain port s
  | .hitchTimeout op => Sys2Proof.Machine.execHitchTimeout op s
  | .stitchRelink die clusters code => Sys2Proof.Machine.execStitchRelink die clusters code s
  | .hostPostedWrite dom relaxed pa data => Sys2Proof.Machine.execHostPostedWrite dom relaxed pa data s
  | .orderingPointRelease id => Sys2Proof.Machine.execOrderingPointRelease id s
  | .routeAcknowledgement id die => Sys2Proof.Machine.execRouteAcknowledgement id die s
  | .hostReadRequest dom pa len => Sys2Proof.Machine.execHostReadRequest dom pa len s
  | .deviceWriteToHost id => Sys2Proof.Machine.execDeviceWriteToHost id s
  | .launch port q => Sys2Proof.Machine.execLaunch port q s
  | .signalOnly port q => Sys2Proof.Machine.execSignalOnly port q s
  | .abortLaunch port q => Sys2Proof.Machine.execAbortLaunch port q s
  | .launchOutcome seq => Sys2Proof.Machine.execLaunchOutcome seq s
  | .qtailDoorbell port q tail => Sys2Proof.Machine.execQtailDoorbell port q tail s
  | .dwinWrite port v => Sys2Proof.Machine.execDwinWrite port v s
  | .faultack v => Sys2Proof.Machine.execFaultack v s
  | .fqtailWrite v => Sys2Proof.Machine.execFqtailWrite v s
  | .trtailWrite v => Sys2Proof.Machine.execTrtailWrite v s
  | .trdropRead => Sys2Proof.Machine.execTrdropRead s
  | .bar0RegisterWrite port off v => Sys2Proof.Machine.execBar0RegisterWrite port off v s
  | .attestationRequest nonce => Sys2Proof.Machine.execAttestationRequest nonce s
  | .coldReset image sig => Sys2Proof.Machine.execColdReset image sig s
  | .timebaseSync ptm offset => Sys2Proof.Machine.execTimebaseSync ptm offset s
  | .ptpSourceLoss ptm => Sys2Proof.Machine.execPtpSourceLoss ptm s
  | .farrierSnapshot => Sys2Proof.Machine.execFarrierSnapshot s
  | .islandThrottle island mhz => Sys2Proof.Machine.execIslandThrottle island mhz s
  | .groomBoxWrite die box r => Sys2Proof.Machine.execGroomBoxWrite die box r s
  | .groomBoxFree die box => Sys2Proof.Machine.execGroomBoxFree die box s
  | .bind die box => Sys2Proof.Machine.execBind die box s
  | .preemptDecision die box deadline => Sys2Proof.Machine.execPreemptDecision die box deadline s
  | .preciseStop die box => Sys2Proof.Machine.execPreciseStop die box s
  | .contextReset die box => Sys2Proof.Machine.execContextReset die box s
  | .restore die box k slot0 => Sys2Proof.Machine.execRestore die box k slot0 s
  | .swapOut die box => Sys2Proof.Machine.execSwapOut die box s
  | .packhorseCopy sp token => Sys2Proof.Machine.execPackhorseCopy sp token s
  | .packhorseStridedCopy sp token => Sys2Proof.Machine.execPackhorseStridedCopy sp token s
  | .packhorseFill sp token => Sys2Proof.Machine.execPackhorseFill sp token s
  | .placeScales sp token => Sys2Proof.Machine.execPlaceScales sp token s
  | .trotterGather sp token => Sys2Proof.Machine.execTrotterGather sp token s
  | .trotterScatter sp token => Sys2Proof.Machine.execTrotterScatter sp token s
  | .collectiveBroadcast sp token => Sys2Proof.Machine.execCollectiveBroadcast sp token s
  | .collectiveAllGather sp token => Sys2Proof.Machine.execCollectiveAllGather sp token s
  | .collectiveAllReduce sp token => Sys2Proof.Machine.execCollectiveAllReduce sp token s
  | .collectiveComplete sp token => Sys2Proof.Machine.execCollectiveComplete sp token s
  | .carouselForward sp token => Sys2Proof.Machine.execCarouselForward sp token s
  | .carouselInverse sp token => Sys2Proof.Machine.execCarouselInverse sp token s
  | .carouselPointwise sp token => Sys2Proof.Machine.execCarouselPointwise sp token s
  | .engineCommandComplete sp token => Sys2Proof.Machine.execEngineCommandComplete sp token s
  | .hayloftRequest op => Sys2Proof.Machine.execHayloftRequest op s
  | .hayloftFree id => Sys2Proof.Machine.execHayloftFree id s
  | .engineOperationAccept op => Sys2Proof.Machine.execEngineOperationAccept op s
  | .matrixOperationComplete k => Sys2Proof.Machine.execMatrixOperationComplete k s
  | .tileUpdateApply op => Sys2Proof.Machine.execTileUpdateApply op s
  | .starterDispatch cluster => Sys2Proof.Machine.execStarterDispatch cluster s
  | .taskComplete k => Sys2Proof.Machine.execTaskComplete k s
  | .earlyDecrement cluster => Sys2Proof.Machine.execEarlyDecrement cluster s
  | .illegalInstrWord w => Sys2Proof.Machine.execIllegalInstrWord w s
  | .deviceReadCompletion dom tag data => Sys2Proof.Machine.execDeviceReadCompletion dom tag data s
  | .arrivalResponse op => Sys2Proof.Machine.execArrivalResponse op s
  | .orderlyShutdown => Sys2Proof.Machine.execOrderlyShutdown s
  | .sramSoftError die => Sys2Proof.Machine.execSramSoftError die s
  | .unhandledTrapDiscard die box => Sys2Proof.Machine.execUnhandledTrapDiscard die box s
  | .hitchDomainForm self members => Sys2Proof.Machine.execHitchDomainForm self members s

end

end Sys2Proof.Machine
end

