-- ==== Sys2Proof/Machine/Issue.lean ====
section
/-!
DEFINITION. Issue (R28 to R41, R386, R387, R404, R405, R418): the candidates of a quarter and the choice among them, the
fetch of a packet, the forming of a chain group with its checks, its words one after another over the registers as they
stood before it, and what follows the group.
-/

noncomputable section

namespace Sys2Proof.Machine

open Sys2Proof

/-! ## Chain groups (R32, R34) -/

/-- The three words of a packet. -/
def packetWords (bs : List Byte) : List Word := [wordAt bs 0, wordAt bs 1, wordAt bs 2]

/-- The pipe of a word, by its class (Table 2.1). -/
def wordPipe (w : Word) : Pipe :=
  match wordClass w with
  | 0 | 1 | 11 | 12 => .s
  | 2 | 3 | 4 | 5 => .v
  | 6 | 7 => .x
  | 8 | 9 | 10 => .m
  | _ => .none

/-- The last slot of the chain group that begins at a slot (R32). -/
def groupLast (ws : List Word) (k : Nat) : Nat :=
  let c (i : Nat) : Bool := wordChain (listAt ws i 0)
  if 2 ≤ k then 2
  else if !c k then k
  else if k = 1 || c 1 then 2
  else 1

/-- The words of the slots k to m. -/
def slotWords (ws : List Word) (k m : Nat) : List Word := (ws.drop k).take (m + 1 - k)

/-- The pipes that words name. -/
def pipesOf (ws : List Word) : List Pipe := (ws.map wordPipe).filter fun p => p != .none

/-- Does a list hold an element twice? -/
def repeats (l : List Pipe) : Bool :=
  match l with
  | [] => false
  | x :: t => t.contains x || repeats t

/-- The sub-code of ILLEGAL_CHAIN of a group of the slots k to m, if it is illegal (R34). -/
def chainFault (ws : List Word) (k m : Nat) : Option Nat :=
  if repeats (pipesOf (slotWords ws k m)) then some 0
  else if m = 2 && wordChain (listAt ws 2 0) then some 1
  else none

/-- One word of a group as it is decoded: its slot, and the instruction, or the ILLEGAL_INSTR sub-code of its bits with the
instruction that it would be but for them. -/
structure Item where
  slot : Nat
  what : Except (Nat × Option Instr) Instr

/-- The words of a rejected word's class and op with its unused or out-of-range fields at values that the op allows: bits
above a short immediate at 0, an unused field at 0, the type at the one it has, at 1 or at 0. -/
def likelyWords (w : Word) : List Word :=
  let low (x : Word) : List Word := [x &&& ~~~0x38#32, x &&& ~~~0x3F#32, x &&& ~~~0xFFFF#32, x &&& ~~~0xFC000#32]
  let typ (x : Word) : List Word := [x, (x &&& ~~~0x1C0000#32) ||| 0x40000#32, x &&& ~~~0x1C0000#32]
  (low w).flatMap typ

/-- The instruction that a rejected word would be but for the field that rejects it: what its op names (R70). -/
def likelyInstr (p : Option Pre) (w : Word) : Option Instr :=
  (likelyWords w).findSome? fun x =>
    match decodeBase p x with
    | .ok i => some i
    | .error _ => none

/-- Is a prefix misused before a base that does not decode (R47, R48)?  A word of no op reads no field. -/
def misused (p : Pre) (base : Option Instr) : Bool :=
  match base with
  | some i => preIllegal i
  | none => preBad .nothing (some p)

/-- A rejected word of a group, `e` the sub-code of its own bits: a misused prefix before it is reported first, at the
prefix (R35, R48). -/
def rejected (slot : Nat) (w : Word) (t : List Word) (e : Nat) (atPre : Bool) : Item :=
  if wordClass w = 14 then
    match decodePre w, t with
    | .ok p, b :: _ =>
      if atPre || misused p (likelyInstr (some p) b) then { slot := slot, what := .error (5, none) }
      else { slot := slot + 1, what := .error (e, likelyInstr (some p) b) }
    | _, _ => { slot := slot, what := .error (5, none) }
  else { slot := slot, what := .error (e, likelyInstr none w) }

/-- The words of a group from a slot on; what follows an illegal word does not matter. -/
def itemsFrom (fuel slot : Nat) (ws : List Word) : List Item :=
  match fuel, ws with
  | 0, _ => []
  | _, [] => []
  | n + 1, w :: t =>
    match decodeWords (w :: t) with
    | .ok (i, rest) =>
      let used := (w :: t).length - rest.length
      { slot := slot + used - 1, what := .ok i } :: itemsFrom n (slot + used) rest
    | .error (.illegal e atPre) => [rejected slot w t e atPre]
    | .error .short => [{ slot := slot, what := .error (5, none) }]

/-- The word at a slot of a packet alone, with the prefix before it if it has one. -/
def aloneItems (ws : List Word) (slot : Nat) : List Item :=
  let before := listAt ws (slot - 1) 0
  if slot != 0 && wordClass before == 14 then itemsFrom 1 (slot - 1) [before, listAt ws slot 0]
  else itemsFrom 1 slot [listAt ws slot 0]

/-- Is a word a control transfer (R33)? -/
def transfersWord (w : Word) : Bool :=
  match decodeWords [w] with
  | .ok (i, _) =>
    match i with
    | .br .. | .brc .. | .brv .. | .call .. | .ret .. | .jmpr .. | .join .. | .regang .. | .exit .. | .rte .. => true
    | _ => false
  | .error _ => false

/-- Is a word the packet's second control transfer or a later one? -/
def isSecond (ws : List Word) (slot : Nat) : Bool :=
  transfersWord (listAt ws slot 0) && (List.range slot).any fun j => transfersWord (listAt ws j 0)

/-- The trap after its group of a `trap` or `brk` (R418). -/
def State.lateTrap (s : State) (i : Instr) : Option TrapInfo :=
  match i with
  | .trap _ n => some { s.trapOf 21 0 with detail := n }
  | .brk _ => some (s.trapOf 22 0)
  | _ => none

/-! ## One group (R35, R404) -/

/-- A word of the group at its place: its slot, and what its packet makes of it. -/
def State.atItem (s : State) (ws : List Word) (started : Bool) (it : Item) : State :=
  { s with issue := { s.issue with
      slot := it.slot, second := isSecond ws it.slot, stray := started && isHeader (listAt ws it.slot 0) } }

/-- The sub-code of a word whose bits reject it: the lowest of its causes, those of its other fields included (R70). -/
def State.rejectSub (s : State) (e : Nat) (near : Option Instr) : Nat :=
  match near with
  | none => e
  | some i =>
    match s.illegal i with
    | some n => min n e
    | none => e

/-- Checks 2 to 4 of R35 for the words of a group in slot order: the state with the first trap taken. -/
def State.groupFault (s : State) (ws : List Word) (started : Bool) (its : List Item) : Option State :=
  its.findSome? fun it =>
    let t := s.atItem ws started it
    match it.what with
    | .error (e, near) => some (t.raise (t.trapOf 0 (t.rejectSub e near)))
    | .ok i => (t.preCheck i).map fun x => (t.atWord i).raise x

/-- The outcome of a step. -/
abbrev StepResult := Host.Outcome State Fault Refusal

/-- Does the issuing gang wait to try its group again? -/
def State.stalled (s : State) : Bool := s.gangWait == some .retry

/-- The word at `slot` waits where it stands while the rest of its group goes on: alone, or behind one that waits already. -/
def State.holdWord (s : State) (slot : Nat) : State :=
  if s.issue.waiting.isSome then
    s.mapGang fun x => { x with again := x.again.map fun a => { a with more := a.more ++ [slot] } }
  else ({ s with issue := { s.issue with slot := slot } } : State).waitIn .retry

/-- What a group makes of a word that waits or traps at its place, `t` being the group so far and `s0` the group's start:
an instruction of timing class W waits where it stands (R40), and so does a word that only the group's own earlier words
hold up; any other leaves the whole group without effect, but for its own wait or trap (R404). -/
def heldBack (exec : Instr → State → StepResult) (ws : List Word) (started : Bool) (s0 t u : State) (it : Item) (i : Instr) :
    Option State :=
  if u.stalled && (kindOf i).timing == .blocking then some (t.holdWord it.slot)
  else
    match exec i (s0.atItem ws started it) with
    | .next v => if v.issue.blocked then none else some (t.holdWord it.slot)
    | _ => none

/-- The words of a group, each over what it reads as it stood before the group (R32, R404). -/
def runItems (exec : Instr → State → StepResult) (ws : List Word) (started : Bool) (s0 t : State) (its : List Item) : StepResult :=
  match its with
  | [] => .next t
  | it :: rest =>
    match it.what with
    | .error _ => runItems exec ws started s0 t rest
    | .ok i =>
      let t0 : State := { t with issue := { t.issue with waiting := none } }
      match exec i (t0.atItem ws started it) with
      | .next u =>
        if u.issue.blocked then
          match heldBack exec ws started s0 t u it i with
          | some v => runItems exec ws started s0 v rest
          | none => exec i (s0.atItem ws started it)
        else if t.issue.waiting.isSome && u.issue.waiting.isSome then runItems exec ws started s0 (t.holdWord it.slot) rest
        else runItems exec ws started s0 { u with issue := { u.issue with waiting := u.issue.waiting <|> t.issue.waiting } } rest
      | r => r

/-- A word that issues alone, the rest of its group having issued. -/
def runAlone (exec : Instr → State → StepResult) (ws : List Word) (started : Bool) (t : State) (its : List Item) : StepResult :=
  match its with
  | [] => .next t
  | it :: _ =>
    match it.what with
    | .error _ => .next t
    | .ok i => exec i (t.atItem ws started it)

/-! ## What follows a group -/

/-- The sub-gang of the lowest slice of a gang that has not exited: its slices, and where they stand. -/
def Span.leadGang (p : Span) (gang : BitVec 8) : Option (BitVec 8 × Slice) :=
  match positions 8 fun j => bitOn gang j && (p.slice j).exited != 15 with
  | [] => none
  | j :: _ =>
    let x := p.slice j
    some (maskOf 8 fun k => bitOn gang k && (p.slice k).gang == x.gang && (p.slice k).exited != 15, x)

/-- Takes the trap of a `trap` or `brk` after its group: FAULTPC names where execution would have gone on (R418). -/
def State.takeLate (s : State) (gang : BitVec 8) (t : TrapInfo) : State :=
  match s.sp.leadGang gang with
  | none => s
  | some (g, x) =>
    ({ s with issue := { Issue.zero with gang := g, pc := x.pc, slot := x.slot } } : State).takeTrap t (pcWord x.pc x.slot)

/-- The gang has issued its group: it stands at the next slot, or its packet ends (R33). -/
def State.passGroup (s : State) (gang : BitVec 8) (next : Nat) : State :=
  let s1 := s.mapGang fun x => { x with slot := next, again := none, wait := none }
  if next < 3 then s1 else s1.endPacket gang

/-- A word that had waited has issued: the next word of its group that waits is at `k`. -/
def State.nextWaiting (s : State) (k : Nat) (rest : List Nat) : State :=
  s.mapGang fun x => { x with slot := k, wait := none, again := x.again.map fun a => { a with more := rest } }

/-- The trap that a `trap` or `brk` of the group causes, when a word that had waited completes the group. -/
def State.groupTrap (s : State) (ws : List Word) (slot : Nat) : Option TrapInfo :=
  let c (i : Nat) : Bool := wordChain (listAt ws i 0)
  let k := if slot = 2 && c 1 && c 0 then 0 else if slot = 2 && c 1 then 1 else if slot = 1 && c 0 then 0 else slot
  (itemsFrom 3 k (slotWords ws k (groupLast ws k))).findSome? fun it =>
    match it.what with
    | .ok i => s.lateTrap i
    | .error _ => none

/-- The region of a gang that has parked on a page fault ends, as `fence.package` does (Table 12.1). -/
def State.parkEnds (s : State) : State :=
  match s.gangWait with
  | some (.parked _ _ _) => if s.drained 4 then s.endRegion else { s with sp := { s.sp with ending := true } }
  | _ => s

/-- What a group leaves: `ws` are the words of its packet, `again` says that a word which had waited has issued alone. -/
def State.closeGroup (s : State) (ws : List Word) (gang : BitVec 8) (slot next : Nat) (again : Bool) : State :=
  if s.issue.blocked then s.parkEnds
  else if s.issue.waiting.isSome then s
  else
    match s.issue.more with
    | k :: rest => s.nextWaiting k rest
    | [] =>
    let late := s.issue.after <|> (if again then s.groupTrap ws slot else none)
    let s1 := s.passGroup gang next
    let s2 := { s1 with sp := { s1.sp with passOver := 0, promoted := false } }
    let s3 := match late with
      | some t => s2.takeLate gang t
      | none => s2
    s3.afterExit

/-- No gang issues; the words of the next group read the registers as they then stand. -/
def State.unissue (s : State) : State := { s with issue := Issue.zero }

/-- Brings a gang to issue at a slot, up to the slot `next`; its words read the registers as they stand now. -/
def State.startIssue (s : State) (gang : BitVec 8) (pc : DWord) (slot next : Nat) : State :=
  let t := s.unissue
  { t with issue := { Issue.zero with
      gang := gang, pc := pc, slot := slot, next := next, view := some t.seenView } }

/-- Brings a gang to issue one word again alone: it reads what its group read, but for faults delivered since. -/
def State.startAlone (s : State) (gang : BitVec 8) (pc : DWord) (slot : Nat) (a : Again) : State :=
  let x := { a.view with held := a.view.held.filter s.sp.held.contains }
  { s with issue := { Issue.zero with
      gang := gang, pc := pc, slot := slot, next := a.next, more := a.more, view := some x } }

/-- Runs a map over an outcome's next state. -/
def mapNext (r : StepResult) (f : State → State) : StepResult :=
  match r with
  | .next t => .next (f t)
  | .fault e => .fault e
  | .refused e => .refused e

/-- Issues the chain group of a gang of the focused span that stands at slot `slot` of a packet of words `ws`; `started`
when its clause instance runs. -/
def State.issueWords (exec : Instr → State → StepResult) (s : State) (gang : BitVec 8) (pc : DWord) (slot : Nat)
    (ws : List Word) (started : Bool) : StepResult :=
  let last := groupLast ws slot
  let t := s.startIssue gang pc slot (last + 1)
  match chainFault ws slot last with
  | some e => .next (t.raise (t.trapOf 1 e))
  | none =>
    let its := itemsFrom 3 slot (slotWords ws slot last)
    match t.groupFault ws started its with
    | some u => .next u
    | none => mapNext (runItems exec ws started t t its) fun u => u.closeGroup ws gang slot (last + 1) false

/-- Issues the word at `slot` alone, the rest of its group having issued. -/
def State.issueAlone (exec : Instr → State → StepResult) (s : State) (gang : BitVec 8) (pc : DWord) (slot : Nat)
    (ws : List Word) (started : Bool) (a : Again) : StepResult :=
  let t := s.startAlone gang pc slot a
  let its := aloneItems ws slot
  match t.groupFault ws started its with
  | some u => .next u
  | none => mapNext (runAlone exec ws started t its) fun u => u.closeGroup ws gang slot a.next true

/-- Issues the next group of a gang of the focused span: fetch (R29), entry into a clause (R41), then the group. -/
def State.issueGang (exec : Instr → State → StepResult) (s : State) (gang : BitVec 8) : StepResult :=
  let x := s.sp.slice (lowestSlice (bitOn gang))
  let s1 := s.fetchUse x.pc.toNat
  let t := s1.startIssue gang x.pc 0 1
  match s1.fetchBytes x.pc.toNat with
  | .error (.violation, va) => .next (t.raise (t.trapAt 8 (BitVec.ofNat 64 va)))
  | .error (.walking, va) =>
    .next ((t.startWalk t.sp.id.core (vecAt t.sp.segs 0 Seg.invalid).asid (BitVec.ofNat 64 va) 2).stall)
  | .error (.absent, va) =>
    match x.wait with
    | some (.parkFailed _) => .next (t.raise (t.trapAt 8 (BitVec.ofNat 64 va)))
    | _ => .next ((t.park (vecAt t.sp.segs 0 Seg.invalid).asid (BitVec.ofNat 64 va) 2).parkEnds)
  | .ok bs =>
    let ws := packetWords bs
    let enters := x.clause.isNone
    if enters && !(x.slot == 0 && isHeader (listAt ws 0 0)) then
      .next (t.raise { t.trapOf 2 (if x.fell then 1 else 0) with addr := x.left })
    else
      match x.again with
      | some a => s1.issueAlone exec gang x.pc x.slot ws (!enters) a
      | none => s1.issueWords exec gang x.pc x.slot ws (!enters)

/-! ## Candidates (R386, R387) -/

/-- The gangs of a span that are ready: the slices of each, by its lowest slice. -/
def Span.readyGangs (p : Span) : List (BitVec 8) :=
  let ready := positions 8 fun j => (p.slice j).ready
  (ready.filter fun j => !(ready.any fun k => decide (k < j) && (p.slice k).gang == (p.slice j).gang)).map fun j =>
    maskOf 8 fun k => (p.slice k).ready && (p.slice k).gang == (p.slice j).gang

/-- A candidate: a ready gang of a span whose group runs, with what R386 orders by. -/
structure Candidate where
  span  : SpanId
  gang  : BitVec 8
  promoted : Bool
  prio  : BitVec 2
  age   : BitVec 96
  deriving DecidableEq, Repr

/-- The candidates of the machine. -/
def State.candidates (s : State) : List Candidate :=
  (s.spans.filter s.candidate).flatMap fun p =>
    let g := (s.groupOf p.group).getD Group.zero
    p.readyGangs.map fun m =>
      { span := p.id, gang := m, promoted := p.promoted, prio := g.bindRec.prio, age := g.bindRec.age }

/-- Does R386 choose x before y? -/
def Candidate.before (x y : Candidate) : Bool :=
  if x.promoted != y.promoted then x.promoted
  else if x.prio != y.prio then decide (y.prio.toNat < x.prio.toNat)
  else if x.age != y.age then decide (x.age.toNat < y.age.toNat)
  else if x.span.slot != y.span.slot then decide (x.span.slot.toNat < y.span.slot.toNat)
  else decide (lowestSlice (bitOn x.gang) < lowestSlice (bitOn y.gang))

/-- A quarter as a number: its core and its place there. -/
def quarterKey (id : SpanId) : Nat := id.core.toNat * 4 + quarterOf id

/-- The candidate that issues next: the quarters take turns, and R386 chooses within one (log 3). -/
def State.pick (s : State) : Option Candidate :=
  match s.candidates with
  | [] => none
  | c :: cs =>
    let qs := distinct ((c :: cs).map fun x => quarterKey x.span)
    let q := listAt qs (s.now.toNat / 2 % qs.length) 0
    (sortBy Candidate.before ((c :: cs).filter fun x => quarterKey x.span == q)).head?

/-- The pipes that the next group of a gang names. -/
def State.gangPipes (s : State) (p : Span) (gang : BitVec 8) : List Pipe :=
  let x := p.slice (lowestSlice (bitOn gang))
  match ({ s with sp := p } : State).fetchBytes x.pc.toNat with
  | .ok bs => pipesOf (slotWords (packetWords bs) x.slot (groupLast (packetWords bs) x.slot))
  | .error _ => []

/-- Counts a pass-over for every other span of the quarter whose candidate wanted a pipe that the issuing group took
(R387). -/
def State.passOvers (s : State) (c : Candidate) : State :=
  match s.spanOf c.span with
  | none => s
  | some p =>
    let taken := s.gangPipes p c.gang
    let passed (q : Span) : Bool :=
      q.id != c.span && quarterKey q.id == quarterKey c.span && s.candidate q &&
        q.readyGangs.any fun g => (s.gangPipes q g).any fun x => taken.contains x
    { s with rest := mapIf s.rest passed fun q => { q with passOver := q.passOver + 1 } }

/-- Every stalled group may issue again but for the gang that has just issued, one of whose words waits. -/
def State.wakeOthers (s : State) (gang : BitVec 8) : State := s.wakeRetries.setWait gang (some .retry)

/-- One cycle of a candidate: its span comes to the front, and its group issues. -/
def State.issueOf (exec : Instr → State → StepResult) (s : State) (c : Candidate) : StepResult :=
  let t := s.focus c.span
  mapNext (t.issueGang exec c.gang) fun u =>
    let u1 := if u.stalled then (if u.issue.blocked then u else (u.passOvers c).wakeOthers c.gang) else (u.passOvers c).wakeRetries
    (u1.settleYields (if u.stalled then none else some c.span)).unissue

end Sys2Proof.Machine

end
end

