-- ==== Sys2Proof/Machine/Schedule.lean ====
section
/-!
DEFINITION. What happens next (log 3): the inputs in the agenda, the events that are due, and the issue of the next
candidate, one of them in each step; with each step time passes.
-/

noncomputable section

namespace Sys2Proof.Machine

open Sys2Proof

/-! ## Events that may be due -/

/-- The events of an access in flight. -/
def MemOp.events (o : MemOp) : List Instr :=
  let secs := o.sectors
  secs.map (fun x => .accessAtHome o.id x) ++ o.reqs.map (fun q => .atomicAtHome o.id q.lane) ++ [.tileUpdateApply o.id] ++
    secs.map (fun x => .storeAcknowledgement o.id x) ++ [.arrivalResponse o.id, .longOperationComplete o.id]

/-- The events of the command with class and op of Table 6.2. -/
def Command.events (sp : SpanId) (c : Command) : List Instr :=
  let t := c.token
  let work : List Instr :=
    match cmdClass c.words, cmdOp c.words with
    | 1, 0 => [.packhorseCopy sp t]
    | 1, 1 => [.packhorseStridedCopy sp t]
    | 1, 2 => [.packhorseFill sp t]
    | 1, _ => [.placeScales sp t]
    | 3, 0 => [.trotterGather sp t]
    | 3, _ => [.trotterScatter sp t]
    | 4, 0 => [.collectiveBroadcast sp t, .collectiveComplete sp t]
    | 4, 1 => [.collectiveAllGather sp t, .collectiveComplete sp t]
    | 4, _ => [.collectiveAllReduce sp t, .collectiveComplete sp t]
    | 5, 0 => [.carouselForward sp t]
    | 5, 1 => [.carouselInverse sp t]
    | _, _ => [.carouselPointwise sp t]
  work ++ [.barrierDecrement sp t, .engineCommandComplete sp t]

/-- The events of a span. -/
def Span.events (p : Span) : List Instr :=
  let i := p.id
  [.trapEntry i, .monitorWake i, .waitcmpTimeout i, .barWaitRetest i, .saddleTouch i, .sleepWake i, .fenceScTick i] ++
    (if p.allRegang then [.regangRelease i] else []) ++ [.phaseCommit i, .acquireTimeout i, .regionLimit i] ++
    p.cmds.flatMap (fun c => c.events i) ++ p.regions.map fun r => .regionClose r.id

/-- The events of a core. -/
def Core.events (c : Core) : List Instr :=
  c.ops.map (fun o => .engineOperationAccept o.id) ++
    [.matrixOperationComplete c.id, .taskComplete c.id, .reinsGrant c.id, .acqxGrant c.id]

/-- The events of the main memory system. -/
def State.memEvents (s : State) : List Instr :=
  s.memsys.sharers.flatMap (fun x =>
    (List.finRange 5).map (fun d => .sharerInvalidation x.line d) ++
      (List.finRange 5).map fun d => .invalidationConfirmation x.line d) ++
  (s.memsys.walks.filter fun w => w.absent.isNone).map (fun w => .translationWalk w.id) ++
  s.memsys.scrubQ.map (fun x => .correctedWriteback x.1) ++ s.memsys.channels.map (fun c => .selfRefreshEntry c.ch) ++
  (s.memsys.channels.filter s.scrubDue).map (fun c => .scrubRead c.nextScrub) ++
  s.memsys.retired.map (fun c => .chainDemote c) ++
  (s.memsys.demoted.filter fun c => s.host.launches.any fun l => recChain l.record == c).map (fun c => .chainSweep c) ++
  s.memsys.bankUse.map fun b => .drowsyBankDrop b.1

/-- The events of a packet: only one held up has any, and one in a last Bridle buffer or a receive slot. -/
def State.packetEvents (s : State) (p : Packet) : List Instr :=
  match p.pos with
  | .input d _ _ =>
    (if s.thresholdOf d ≤ p.stall && !p.expired then [.timeoutDetectorExpiry p.id] else []) ++
      if misrouteCycles ≤ p.stall && p.misroutes < 2 then [.misroute p.id] else []
  | .bridle _ _ | .slot _ => [.bridleReceive p.id]
  | _ => []

/-- The Halters' events: a capture where one stands at a router that requests it. -/
def State.halterEvents (s : State) : List Instr :=
  s.fabric.halters.flatMap fun h =>
    match h.stop with
    | none => [.halterRegenerate h.die]
    | some r => if s.requestsHalter h.die r then [.halterCapture h.die] else []

/-- The first router that may be power-gated. -/
def State.gateEvents (s : State) : List Instr :=
  ((List.finRange 5).findSome? fun d =>
    ((List.range (routersOf d)).find? fun r => s.gates d r).map fun r => .routerPowerGate d r).toList

/-- What Preic's partition manager does (R106): it links regions that wait, and takes away what a retired launch had. -/
def State.stitchEvents (s : State) : List Instr :=
  (s.stitchWanted.filterMap fun w => (s.stitchPlace w.2.2.2).map fun x => .stitchRelink x.1 x.2 w.2.2.1) ++
    (s.fabric.stitched.filter fun x => !s.host.launches.any fun l => l.seq == x.launch).map fun x =>
      .stitchRelink x.die x.clusters 0

/-- The events of the fabric. -/
def State.fabricEvents (s : State) : List Instr :=
  s.fabric.packets.flatMap s.packetEvents ++ s.halterEvents ++
  (s.fabric.waking.filter fun r => r.2.2 == 0).map (fun r => .routerWake r.1 r.2.1) ++ s.gateEvents ++ s.stitchEvents

/-! ## Preic firmware's part -/

/-- The cores of the compute dies by number. -/
def allCores : List CoreId := (List.range 768).map fun i => BitVec.ofNat 10 i

/-- The die of a core as the Stable numbers it. -/
def stableDie (k : CoreId) : Fin 4 := ⟨dieOf k % 4, Nat.mod_lt _ (by decide)⟩

/-- The lowest run of n span slots of a core that are free and that no written box names. -/
def State.openSlots (s : State) (k : CoreId) (n : Nat) : Option Nat :=
  let free (i : Nat) : Bool := s.slotFree k i && !s.host.boxes.any fun x => x.state == 1 && x.bindRec.core == k &&
    decide (x.bindRec.slot0.toNat ≤ i) && decide (i < x.bindRec.slot0.toNat + x.bindRec.nspan.toNat)
  (List.range (65 - n)).find? fun o => (List.range n).all fun i => free (o + i)

/-- A box write that places a record on the first core, and there at the first slot, where it may stand and be bound. -/
def State.place (s : State) (b : BindRecord) : Option Instr :=
  (b.core :: allCores).findSome? fun k =>
    match s.openSlots k b.nspan.toNat with
    | none => none
    | some slot =>
      let r : BindRecord := { b with core := k, slot0 := BitVec.ofNat 6 slot }
      let die := stableDie k
      if s.groomMay die r && s.canBind r then some (.groomBoxWrite die (BitVec.ofNat 12 (s.freeBox die)) r) else none

/-- The first bind record of a group of a launch (Table 13.4); where its saddlebag lies is a free value. -/
def Launch.first (l : Launch) (n : Nat) : BindRecord :=
  { core := 0, slot0 := 0, nspan := BitVec.ofNat 7 (groupSpans l.record), prio := BitVec.ofNat 2 (fld l.record 32 2),
    basev := BitVec.ofNat 2 (fld l.record 36 2), spawned := false, group := BitVec.ofNat 32 n, launch := l.seq,
    bag := BitVec.ofNat 64 (64 * Config.saddlebag l.seq (BitVec.ofNat 32 n)), phase := 0, age := 0,
    deadline := BitVec.allOnes 64 }

/-- Box writes of Preic firmware: the phases that groups have asked for, and the first phases of each launch's next group. -/
def State.placements (s : State) : List Instr :=
  let again := (s.host.contexts.filter fun c => c.discarded).map fun c =>
    ({ c.group.bindRec with deadline := BitVec.allOnes 64 } : BindRecord)
  let first := s.host.launches.filterMap fun l =>
    ((List.range (groupsOf l.record)).find? fun n => !s.placed l.seq (BitVec.ofNat 32 n)).map fun n => l.first n
  (s.host.requests.map (fun q => q.2) ++ again ++ first).filterMap s.place

/-- Has a span of a swapped-out group waited long enough: its sleep has ended, or the touch that waits for a saddle can go
on (R338, R351)? -/
def State.sleepOver (s : State) (g : Group) (p : Span) : Bool :=
  vecAny p.slices (fun x =>
    match x.wait with
    | some (.sleep t) => decide (t.toNat ≤ s.now.toNat)
    | _ => false) ||
  (match p.saddleWait with
   | some (anchor, _) => s.touchFree g anchor && !s.olderWaits g anchor
   | none => false)

/-- The restores of swapped-out groups one of whose monitors has been woken or has expired, or one of whose spans waits no
longer (R338). -/
def State.wakeups (s : State) : List Instr :=
  let woken (c : Context) : Bool :=
    c.swapped && ((c.spans.any fun p => s.sleepOver c.group p) || s.monitors.any fun m =>
      m.away == some c.group.id && (m.satisfied ||
        (match m.deadline with
         | some d => decide (d.toNat ≤ s.now.toNat)
         | none => false)))
  (s.host.contexts.filter woken).filterMap fun c =>
    (c.group.bindRec.core :: allCores).findSome? fun k =>
      match s.freeSlots k c.group.bindRec.nspan.toNat with
      | some slot => if s.canRestore c k (BitVec.ofNat 6 slot) then some (.restore c.die c.box k (BitVec.ofNat 6 slot)) else none
      | none => none

/-- The events of a box. -/
def Box.events (b : Box) : List Instr :=
  match b.state.toNat with
  | 0 => []
  | 1 => [.bind b.die b.num]
  | 2 => [.preciseStop b.die b.num, .contextReset b.die b.num]
  | 5 => []
  | _ => [.groomBoxFree b.die b.num]

/-- The events of the host side. -/
def State.hostEvents (s : State) : List Instr :=
  s.host.boxes.flatMap Box.events ++ s.placements ++ s.wakeups ++
  s.host.posted.flatMap (fun p => .orderingPointRelease p.id :: p.routes.map fun d => .routeAcknowledgement p.id d) ++
  (s.host.devWrites.take 1).map (fun w => .deviceWriteToHost w.id) ++
  (s.host.queues.filter fun q => q.head != q.tail).flatMap (fun q =>
    [.launch q.port q.num, .signalOnly q.port q.num, .abortLaunch q.port q.num]) ++
  (s.host.stud.filter fun x => x.outcome == 0 && !x.event).map fun x => .launchOutcome x.seq

/-- Every event that may be due now. -/
def State.dueEvents (s : State) : List Instr :=
  s.spans.flatMap Span.events ++ s.memOps.flatMap MemOp.events ++
  (s.memOps.filter fun o => o.reqs.any fun q => (!q.status.back || s.replying o.id (sectorOf q.key)) && s.lostReq o q).map (fun o => .hitchTimeout o.id) ++
  s.slowOps.flatMap (fun o => [.hayloftRequest o.id, .longOperationComplete o.id]) ++
  s.hayFrees.map (fun h => .hayloftFree h.id) ++ (s.core :: s.cores).flatMap Core.events ++
  (if s.starter.isEmpty then [] else (List.finRange 16).map fun c => .starterDispatch c) ++
  s.earlyDecs.map (fun x => .earlyDecrement x.1) ++
  ((s.allGroups.filter fun g => g.status == .unseating).map fun g => .rollbackReplay g.id) ++
  ((s.host.contexts.filter fun c => c.group.status == .unseating).map fun c => .rollbackReplay c.group.id) ++
  s.memEvents ++ s.fabricEvents ++ s.hostEvents ++ (if s.snapshotDue then [.farrierSnapshot] else [])

/-- A list that begins n places on. -/
def rotated (l : List Instr) (n : Nat) : List Instr :=
  match l with
  | [] => []
  | _ => l.drop (n % l.length) ++ l.take (n % l.length)

/-- The state after an event: no gang issues, and the span that stood in front stands there again. -/
def State.settled (t : State) (s : State) : State := (t.focus s.sp.id).unissue

/-- The first of a list of events that changes the state, and what it leads to. -/
def firstEvent (exec : Instr → State → StepResult) (s : State) (es : List Instr) : Option StepResult :=
  match es with
  | [] => none
  | e :: rest =>
    match exec e s with
    | .next t => if t.settled s = s then firstEvent exec s rest else some (.next (t.settled s))
    | r => some r

/-- The next due event that does something; the events take turns. -/
def State.nextEvent (exec : Instr → State → StepResult) (s : State) : Option StepResult :=
  let es := s.dueEvents
  firstEvent exec s (rotated es (s.now.toNat % max 1 es.length))

/-! ## A step -/

/-- Is a row of the opcode table an event or an input, which the agenda may hold? -/
def isEvent (i : Instr) : Bool :=
  match i with
  | .illegalInstrWord _ => false
  | _ => (kindOf i).cls == 16

/-- Nanoseconds between corrections of the timebase by one: 200 parts per million (R183). -/
def slewPeriod : Nat := 5000

/-- Is a correction of one nanosecond due (R183; log 52)? -/
def State.slews (s : State) : Bool := s.host.slew != 0 && decide (slewPeriod ≤ (s.now - s.host.slewAt).toNat)

/-- The timebase goes on by a tick; one that is ahead of its source stays behind by a nanosecond, and one that is behind
gains one, at most once in 5,000 ns (R183). -/
def State.timePasses (s : State) : State :=
  let t : State := { s with now := s.now + BitVec.ofNat 64 s.tickNs }
  if !s.slews then t
  else if 0 < s.host.slew then
    { t with now := t.now - 1, host := { t.host with slew := s.host.slew - 1, slewAt := t.now } }
  else { t with now := t.now + 1, host := { t.host with slew := s.host.slew + 1, slewAt := t.now } }

/-- Time passes: the timebase and what moves with the fabric clock. -/
def State.tick (s : State) : State :=
  let t := s.timePasses
  t.fabricTick (fabricCycles t.now - fabricCycles s.now)

/-- The end of a step in which an event happened, or nothing: what waits for a change may issue again. -/
def State.eventEnd (s : State) : State := (s.wakeRetries.settleYields none).unissue.tick

/-- A span that has been passed over 4,096 times is promoted at once (R387). -/
def State.promotes (s : State) : Option Instr :=
  (s.spans.find? fun p => decide (4096 ≤ p.passOver) && !p.promoted).map fun p => .spanPromotion p.id

/-- Nothing happens but the passing of time. -/
def State.idles (s : State) : StepResult := .next s.eventEnd

/-- The outcome of the issue of a candidate. -/
def State.issueStep (exec : Instr → State → StepResult) (s : State) (c : Candidate) : StepResult :=
  mapNext (s.issueOf exec c) State.tick

/-- Is it the turn of issue before events? -/
def State.issueTurn (s : State) : Bool := s.now.toNat / max 1 s.tickNs % 2 == 0

/-- A step without an input: issue and events have the first word in turn. -/
def State.advance (exec : Instr → State → StepResult) (s : State) : StepResult :=
  match s.pick with
  | none =>
    match s.nextEvent exec with
    | some r => mapNext r State.eventEnd
    | none => s.idles
  | some c =>
    if s.issueTurn then s.issueStep exec c
    else
      match s.nextEvent exec with
      | some r => mapNext r State.eventEnd
      | none => s.issueStep exec c

/-- One step of the machine: an input of the agenda, a firmware setting, an urgent promotion, or what `advance` chooses. -/
def stepWith (exec : Instr → State → StepResult) (s : State) : StepResult :=
  match s.agenda with
  | i :: rest =>
    let t : State := { s with agenda := rest }
    if isEvent i then mapNext (exec i t) State.eventEnd else t.idles
  | [] =>
    match s.settings with
    | x :: rest => .next (({ s with settings := rest } : State).applySetting x).eventEnd
    | [] =>
    match s.promotes with
    | some e => mapNext (exec e s) State.eventEnd
    | none => s.advance exec

/-! ## Placing one instruction -/

/-- The clause instance in which a placed word stands. -/
def placedClause : Clause :=
  { id := 0, first := 0, length := 15, flagA := 15, flagB := 15, heldA := false, heldB := false, ended := false }

/-- A span at the packet at address 0 of its ASID, in slot 0 of core 0. -/
def Span.atZero (p : Span) (header : Bool) : Span :=
  { p with
    id := { core := 0, slot := 0 }, group := 1, live := true, trapping := none, nextClause := 1,
    slices := Vector.replicate 8 { Slice.zero with clause := if header then none else some 0 },
    clauses := if header then [] else [placedClause] }

/-- The state in which the next step issues one given instruction (`State.withFetchWord`). -/
def State.fetching (s : State) (nbits w : Nat) : State :=
  let word := w % 2 ^ nbits
  let t := s.focusCore 0
  let leaf : Trans :=
    { core := some 0, die := 0, asid := (vecAt t.sp.segs 0 Seg.invalid).asid, vpn := 0, bits := 16, entry := 15 }
  let keys := if (t.keyOf 0).isSome then t.memsys.keys else (0, 0) :: t.memsys.keys
  let u : State :=
    { t with
      sp := t.sp.atZero (isHeader (BitVec.ofNat 32 word)), rest := [], grp := { Group.zero with id := 1 }, groups := [],
      issue := Issue.zero, mem := Memory.put t.mem 0 (bytesLE 12 word),
      memsys := { t.memsys with trans := leaf :: t.memsys.trans, keys := keys },
      now := if t.issueTurn then t.now else t.now + BitVec.ofNat 64 t.tickNs, nextId := max 1 t.nextId, agenda := [], settings := [] }
  u.setDram { u.dramOf 0 with key := none }

end Sys2Proof.Machine

end
end

