-- ==== Sys2Proof/Machine/Step.lean ====
section
/-!
DEFINITION. One step of the machine (log 3), and the placing of one instruction where the next step fetches it.
-/

noncomputable section

namespace Sys2Proof.Machine

open Sys2Proof

/-- One step: an input, an event, or the issue of the next chain group; with it, time passes. -/
def step (s : State) : Host.Outcome State Fault Refusal := stepWith exec s

/-- The instruction of nbits bits w stored at physical address 0, and a user-mode span that stands at it: slot 0 of core 0
holds the only resident span, of a bound group, with the registers of the span in front; virtual page 0 of its ASID is
cached as a 64 KiB page of key slot 0.  A clause header begins a clause there; any other word stands in a running one. -/
def State.withFetchWord (s : State) (nbits w : Nat) : State := s.fetching nbits w

end Sys2Proof.Machine

end
end

