-- ==== Sys2Proof/Laws/Fields.lean ====
section
/-!
SUPPORT. Reading the fields of an encoded word back (R50).
-/

namespace Sys2Proof.Laws

open Sys2Proof

/-- A field above the low part. -/
theorem extract_high {m k : Nat} (x : BitVec m) (y : BitVec k) (s n : Nat) (h : k ≤ s) :
    (x ++ y).extractLsb' s n = x.extractLsb' (s - k) n := by
  ext i hi
  simp only [BitVec.getElem_extractLsb', BitVec.getLsbD_append]
  rw [if_neg (by omega)]
  congr 1; omega

/-- The low part. -/
theorem extract_low {m k : Nat} (x : BitVec m) (y : BitVec k) : (x ++ y).extractLsb' 0 k = y := by
  ext i hi
  simp [BitVec.getElem_extractLsb', BitVec.getLsbD_append, hi]

/-- A field inside the low part. -/
theorem extract_inside {m k : Nat} (x : BitVec m) (y : BitVec k) (s n : Nat) (h : s + n ≤ k) :
    (x ++ y).extractLsb' s n = y.extractLsb' s n := by
  ext i hi
  simp only [BitVec.getElem_extractLsb', BitVec.getLsbD_append]
  rw [if_pos (by omega)]

/-- A field of a field. -/
theorem extract_part {m : Nat} (x : BitVec m) (s n s1 n1 : Nat) (h : s1 + n1 ≤ n) :
    x.extractLsb' (s + s1) n1 = (x.extractLsb' s n).extractLsb' s1 n1 := by
  ext i hi
  simp only [BitVec.getElem_extractLsb', BitVec.getLsbD_extractLsb']
  rw [decide_eq_true (by omega), Bool.true_and, Nat.add_assoc]

/-- A bit above the low part. -/
theorem bit_high {m k : Nat} (x : BitVec m) (y : BitVec k) (s : Nat) (h : k ≤ s) :
    (x ++ y).getLsbD s = x.getLsbD (s - k) := by
  rw [BitVec.getLsbD_append, if_neg (by omega)]

/-- A bit of a field. -/
theorem bit_part {m : Nat} (x : BitVec m) (s n i : Nat) (h : i < n) :
    x.getLsbD (s + i) = (x.extractLsb' s n).getLsbD i := by
  rw [BitVec.getLsbD_extractLsb', decide_eq_true h, Bool.true_and]

/-- The bit of a truth value. -/
theorem bit_ofBool (c : Bool) : (BitVec.ofBool c).getLsbD 0 = c := by cases c <;> rfl

/-! ## wordS -/

theorem wordS_w (cls : BitVec 4) (c : Bool) (op : BitVec 8) (d a b : RegNo) (w : BitVec 1) :
    (wordS cls c op d a b w).extractLsb' 0 1 = w := by
  unfold wordS
  exact extract_low _ _

theorem wordS_b (cls : BitVec 4) (c : Bool) (op : BitVec 8) (d a b : RegNo) (w : BitVec 1) :
    (wordS cls c op d a b w).extractLsb' 1 6 = b := by
  unfold wordS
  rw [extract_high (h := by decide)]
  exact extract_low _ _

theorem wordS_a (cls : BitVec 4) (c : Bool) (op : BitVec 8) (d a b : RegNo) (w : BitVec 1) :
    (wordS cls c op d a b w).extractLsb' 7 6 = a := by
  unfold wordS
  rw [extract_high (h := by decide)]; rw [extract_high (h := by decide)]
  exact extract_low _ _

theorem wordS_d (cls : BitVec 4) (c : Bool) (op : BitVec 8) (d a b : RegNo) (w : BitVec 1) :
    (wordS cls c op d a b w).extractLsb' 13 6 = d := by
  unfold wordS
  rw [extract_high (h := by decide)]; rw [extract_high (h := by decide)]; rw [extract_high (h := by decide)]
  exact extract_low _ _

theorem wordS_op (cls : BitVec 4) (c : Bool) (op : BitVec 8) (d a b : RegNo) (w : BitVec 1) :
    (wordS cls c op d a b w).extractLsb' 19 8 = op := by
  unfold wordS
  rw [extract_high (h := by decide)]; rw [extract_high (h := by decide)]; rw [extract_high (h := by decide)]; rw [extract_high (h := by decide)]
  exact extract_low _ _

theorem wordS_cls (cls : BitVec 4) (c : Bool) (op : BitVec 8) (d a b : RegNo) (w : BitVec 1) :
    (wordS cls c op d a b w).extractLsb' 27 4 = cls := by
  unfold wordS
  rw [extract_high (h := by decide)]; rw [extract_high (h := by decide)]; rw [extract_high (h := by decide)]; rw [extract_high (h := by decide)]; rw [extract_high (h := by decide)]
  exact extract_low _ _

theorem wordS_c (cls : BitVec 4) (c : Bool) (op : BitVec 8) (d a b : RegNo) (w : BitVec 1) :
    (wordS cls c op d a b w).getLsbD 31 = c := by
  unfold wordS
  rw [bit_high (h := by decide)]; rw [bit_high (h := by decide)]; rw [bit_high (h := by decide)]; rw [bit_high (h := by decide)]; rw [bit_high (h := by decide)]; rw [bit_high (h := by decide)]
  exact bit_ofBool c

/-! ## wordR -/

theorem wordR_w (cls : BitVec 4) (c : Bool) (op : BitVec 8) (d : RegNo) (r : BitVec 12) (w : BitVec 1) :
    (wordR cls c op d r w).extractLsb' 0 1 = w := by
  unfold wordR
  exact extract_low _ _

theorem wordR_r (cls : BitVec 4) (c : Bool) (op : BitVec 8) (d : RegNo) (r : BitVec 12) (w : BitVec 1) :
    (wordR cls c op d r w).extractLsb' 1 12 = r := by
  unfold wordR
  rw [extract_high (h := by decide)]
  exact extract_low _ _

theorem wordR_d (cls : BitVec 4) (c : Bool) (op : BitVec 8) (d : RegNo) (r : BitVec 12) (w : BitVec 1) :
    (wordR cls c op d r w).extractLsb' 13 6 = d := by
  unfold wordR
  rw [extract_high (h := by decide)]; rw [extract_high (h := by decide)]
  exact extract_low _ _

theorem wordR_op (cls : BitVec 4) (c : Bool) (op : BitVec 8) (d : RegNo) (r : BitVec 12) (w : BitVec 1) :
    (wordR cls c op d r w).extractLsb' 19 8 = op := by
  unfold wordR
  rw [extract_high (h := by decide)]; rw [extract_high (h := by decide)]; rw [extract_high (h := by decide)]
  exact extract_low _ _

theorem wordR_cls (cls : BitVec 4) (c : Bool) (op : BitVec 8) (d : RegNo) (r : BitVec 12) (w : BitVec 1) :
    (wordR cls c op d r w).extractLsb' 27 4 = cls := by
  unfold wordR
  rw [extract_high (h := by decide)]; rw [extract_high (h := by decide)]; rw [extract_high (h := by decide)]; rw [extract_high (h := by decide)]
  exact extract_low _ _

theorem wordR_c (cls : BitVec 4) (c : Bool) (op : BitVec 8) (d : RegNo) (r : BitVec 12) (w : BitVec 1) :
    (wordR cls c op d r w).getLsbD 31 = c := by
  unfold wordR
  rw [bit_high (h := by decide)]; rw [bit_high (h := by decide)]; rw [bit_high (h := by decide)]; rw [bit_high (h := by decide)]; rw [bit_high (h := by decide)]
  exact bit_ofBool c

/-! ## wordN -/

theorem wordN_z (cls : BitVec 4) (c : Bool) (op : BitVec 8) (n : BitVec 12) (z : BitVec 7) :
    (wordN cls c op n z).extractLsb' 0 7 = z := by
  unfold wordN
  exact extract_low _ _

theorem wordN_n (cls : BitVec 4) (c : Bool) (op : BitVec 8) (n : BitVec 12) (z : BitVec 7) :
    (wordN cls c op n z).extractLsb' 7 12 = n := by
  unfold wordN
  rw [extract_high (h := by decide)]
  exact extract_low _ _

theorem wordN_op (cls : BitVec 4) (c : Bool) (op : BitVec 8) (n : BitVec 12) (z : BitVec 7) :
    (wordN cls c op n z).extractLsb' 19 8 = op := by
  unfold wordN
  rw [extract_high (h := by decide)]; rw [extract_high (h := by decide)]
  exact extract_low _ _

theorem wordN_cls (cls : BitVec 4) (c : Bool) (op : BitVec 8) (n : BitVec 12) (z : BitVec 7) :
    (wordN cls c op n z).extractLsb' 27 4 = cls := by
  unfold wordN
  rw [extract_high (h := by decide)]; rw [extract_high (h := by decide)]; rw [extract_high (h := by decide)]
  exact extract_low _ _

theorem wordN_c (cls : BitVec 4) (c : Bool) (op : BitVec 8) (n : BitVec 12) (z : BitVec 7) :
    (wordN cls c op n z).getLsbD 31 = c := by
  unfold wordN
  rw [bit_high (h := by decide)]; rw [bit_high (h := by decide)]; rw [bit_high (h := by decide)]; rw [bit_high (h := by decide)]
  exact bit_ofBool c

/-! ## wordSI -/

theorem wordSI_i (cls : BitVec 4) (c : Bool) (op : BitVec 5) (d : RegNo) (i : BitVec 16) :
    (wordSI cls c op d i).extractLsb' 0 16 = i := by
  unfold wordSI
  exact extract_low _ _

theorem wordSI_d (cls : BitVec 4) (c : Bool) (op : BitVec 5) (d : RegNo) (i : BitVec 16) :
    (wordSI cls c op d i).extractLsb' 16 6 = d := by
  unfold wordSI
  rw [extract_high (h := by decide)]
  exact extract_low _ _

theorem wordSI_op (cls : BitVec 4) (c : Bool) (op : BitVec 5) (d : RegNo) (i : BitVec 16) :
    (wordSI cls c op d i).extractLsb' 22 5 = op := by
  unfold wordSI
  rw [extract_high (h := by decide)]; rw [extract_high (h := by decide)]
  exact extract_low _ _

theorem wordSI_cls (cls : BitVec 4) (c : Bool) (op : BitVec 5) (d : RegNo) (i : BitVec 16) :
    (wordSI cls c op d i).extractLsb' 27 4 = cls := by
  unfold wordSI
  rw [extract_high (h := by decide)]; rw [extract_high (h := by decide)]; rw [extract_high (h := by decide)]
  exact extract_low _ _

theorem wordSI_c (cls : BitVec 4) (c : Bool) (op : BitVec 5) (d : RegNo) (i : BitVec 16) :
    (wordSI cls c op d i).getLsbD 31 = c := by
  unfold wordSI
  rw [bit_high (h := by decide)]; rw [bit_high (h := by decide)]; rw [bit_high (h := by decide)]; rw [bit_high (h := by decide)]
  exact bit_ofBool c

/-! ## wordV -/

theorem wordV_b (cls : BitVec 4) (c : Bool) (op : BitVec 6) (t : BitVec 3) (d a b : RegNo) :
    (wordV cls c op t d a b).extractLsb' 0 6 = b := by
  unfold wordV
  exact extract_low _ _

theorem wordV_a (cls : BitVec 4) (c : Bool) (op : BitVec 6) (t : BitVec 3) (d a b : RegNo) :
    (wordV cls c op t d a b).extractLsb' 6 6 = a := by
  unfold wordV
  rw [extract_high (h := by decide)]
  exact extract_low _ _

theorem wordV_d (cls : BitVec 4) (c : Bool) (op : BitVec 6) (t : BitVec 3) (d a b : RegNo) :
    (wordV cls c op t d a b).extractLsb' 12 6 = d := by
  unfold wordV
  rw [extract_high (h := by decide)]; rw [extract_high (h := by decide)]
  exact extract_low _ _

theorem wordV_t (cls : BitVec 4) (c : Bool) (op : BitVec 6) (t : BitVec 3) (d a b : RegNo) :
    (wordV cls c op t d a b).extractLsb' 18 3 = t := by
  unfold wordV
  rw [extract_high (h := by decide)]; rw [extract_high (h := by decide)]; rw [extract_high (h := by decide)]
  exact extract_low _ _

theorem wordV_op (cls : BitVec 4) (c : Bool) (op : BitVec 6) (t : BitVec 3) (d a b : RegNo) :
    (wordV cls c op t d a b).extractLsb' 21 6 = op := by
  unfold wordV
  rw [extract_high (h := by decide)]; rw [extract_high (h := by decide)]; rw [extract_high (h := by decide)]; rw [extract_high (h := by decide)]
  exact extract_low _ _

theorem wordV_cls (cls : BitVec 4) (c : Bool) (op : BitVec 6) (t : BitVec 3) (d a b : RegNo) :
    (wordV cls c op t d a b).extractLsb' 27 4 = cls := by
  unfold wordV
  rw [extract_high (h := by decide)]; rw [extract_high (h := by decide)]; rw [extract_high (h := by decide)]; rw [extract_high (h := by decide)]; rw [extract_high (h := by decide)]
  exact extract_low _ _

theorem wordV_c (cls : BitVec 4) (c : Bool) (op : BitVec 6) (t : BitVec 3) (d a b : RegNo) :
    (wordV cls c op t d a b).getLsbD 31 = c := by
  unfold wordV
  rw [bit_high (h := by decide)]; rw [bit_high (h := by decide)]; rw [bit_high (h := by decide)]; rw [bit_high (h := by decide)]; rw [bit_high (h := by decide)]; rw [bit_high (h := by decide)]
  exact bit_ofBool c

/-! ## wordM -/

theorem wordM_l (cls : BitVec 4) (c : Bool) (op : BitVec 4) (seg : BitVec 3) (d a b : RegNo) (l : BitVec 2) :
    (wordM cls c op seg d a b l).extractLsb' 0 2 = l := by
  unfold wordM
  exact extract_low _ _

theorem wordM_b (cls : BitVec 4) (c : Bool) (op : BitVec 4) (seg : BitVec 3) (d a b : RegNo) (l : BitVec 2) :
    (wordM cls c op seg d a b l).extractLsb' 2 6 = b := by
  unfold wordM
  rw [extract_high (h := by decide)]
  exact extract_low _ _

theorem wordM_a (cls : BitVec 4) (c : Bool) (op : BitVec 4) (seg : BitVec 3) (d a b : RegNo) (l : BitVec 2) :
    (wordM cls c op seg d a b l).extractLsb' 8 6 = a := by
  unfold wordM
  rw [extract_high (h := by decide)]; rw [extract_high (h := by decide)]
  exact extract_low _ _

theorem wordM_d (cls : BitVec 4) (c : Bool) (op : BitVec 4) (seg : BitVec 3) (d a b : RegNo) (l : BitVec 2) :
    (wordM cls c op seg d a b l).extractLsb' 14 6 = d := by
  unfold wordM
  rw [extract_high (h := by decide)]; rw [extract_high (h := by decide)]; rw [extract_high (h := by decide)]
  exact extract_low _ _

theorem wordM_seg (cls : BitVec 4) (c : Bool) (op : BitVec 4) (seg : BitVec 3) (d a b : RegNo) (l : BitVec 2) :
    (wordM cls c op seg d a b l).extractLsb' 20 3 = seg := by
  unfold wordM
  rw [extract_high (h := by decide)]; rw [extract_high (h := by decide)]; rw [extract_high (h := by decide)]; rw [extract_high (h := by decide)]
  exact extract_low _ _

theorem wordM_op (cls : BitVec 4) (c : Bool) (op : BitVec 4) (seg : BitVec 3) (d a b : RegNo) (l : BitVec 2) :
    (wordM cls c op seg d a b l).extractLsb' 23 4 = op := by
  unfold wordM
  rw [extract_high (h := by decide)]; rw [extract_high (h := by decide)]; rw [extract_high (h := by decide)]; rw [extract_high (h := by decide)]; rw [extract_high (h := by decide)]
  exact extract_low _ _

theorem wordM_cls (cls : BitVec 4) (c : Bool) (op : BitVec 4) (seg : BitVec 3) (d a b : RegNo) (l : BitVec 2) :
    (wordM cls c op seg d a b l).extractLsb' 27 4 = cls := by
  unfold wordM
  rw [extract_high (h := by decide)]; rw [extract_high (h := by decide)]; rw [extract_high (h := by decide)]; rw [extract_high (h := by decide)]; rw [extract_high (h := by decide)]; rw [extract_high (h := by decide)]
  exact extract_low _ _

theorem wordM_c (cls : BitVec 4) (c : Bool) (op : BitVec 4) (seg : BitVec 3) (d a b : RegNo) (l : BitVec 2) :
    (wordM cls c op seg d a b l).getLsbD 31 = c := by
  unfold wordM
  rw [bit_high (h := by decide)]; rw [bit_high (h := by decide)]; rw [bit_high (h := by decide)]; rw [bit_high (h := by decide)]; rw [bit_high (h := by decide)]; rw [bit_high (h := by decide)]; rw [bit_high (h := by decide)]
  exact bit_ofBool c

/-! ## wordA -/

theorem wordA_y (cls : BitVec 4) (c : Bool) (grp sub typ scope seg : BitVec 3) (x y : RegNo) :
    (wordA cls c grp sub typ scope seg x y).extractLsb' 0 6 = y := by
  unfold wordA
  exact extract_low _ _

theorem wordA_x (cls : BitVec 4) (c : Bool) (grp sub typ scope seg : BitVec 3) (x y : RegNo) :
    (wordA cls c grp sub typ scope seg x y).extractLsb' 6 6 = x := by
  unfold wordA
  rw [extract_high (h := by decide)]
  exact extract_low _ _

theorem wordA_seg (cls : BitVec 4) (c : Bool) (grp sub typ scope seg : BitVec 3) (x y : RegNo) :
    (wordA cls c grp sub typ scope seg x y).extractLsb' 12 3 = seg := by
  unfold wordA
  rw [extract_high (h := by decide)]; rw [extract_high (h := by decide)]
  exact extract_low _ _

theorem wordA_scope (cls : BitVec 4) (c : Bool) (grp sub typ scope seg : BitVec 3) (x y : RegNo) :
    (wordA cls c grp sub typ scope seg x y).extractLsb' 15 3 = scope := by
  unfold wordA
  rw [extract_high (h := by decide)]; rw [extract_high (h := by decide)]; rw [extract_high (h := by decide)]
  exact extract_low _ _

theorem wordA_typ (cls : BitVec 4) (c : Bool) (grp sub typ scope seg : BitVec 3) (x y : RegNo) :
    (wordA cls c grp sub typ scope seg x y).extractLsb' 18 3 = typ := by
  unfold wordA
  rw [extract_high (h := by decide)]; rw [extract_high (h := by decide)]; rw [extract_high (h := by decide)]; rw [extract_high (h := by decide)]
  exact extract_low _ _

theorem wordA_sub (cls : BitVec 4) (c : Bool) (grp sub typ scope seg : BitVec 3) (x y : RegNo) :
    (wordA cls c grp sub typ scope seg x y).extractLsb' 21 3 = sub := by
  unfold wordA
  rw [extract_high (h := by decide)]; rw [extract_high (h := by decide)]; rw [extract_high (h := by decide)]; rw [extract_high (h := by decide)]; rw [extract_high (h := by decide)]
  exact extract_low _ _

theorem wordA_grp (cls : BitVec 4) (c : Bool) (grp sub typ scope seg : BitVec 3) (x y : RegNo) :
    (wordA cls c grp sub typ scope seg x y).extractLsb' 24 3 = grp := by
  unfold wordA
  rw [extract_high (h := by decide)]; rw [extract_high (h := by decide)]; rw [extract_high (h := by decide)]; rw [extract_high (h := by decide)]; rw [extract_high (h := by decide)]; rw [extract_high (h := by decide)]
  exact extract_low _ _

theorem wordA_cls (cls : BitVec 4) (c : Bool) (grp sub typ scope seg : BitVec 3) (x y : RegNo) :
    (wordA cls c grp sub typ scope seg x y).extractLsb' 27 4 = cls := by
  unfold wordA
  rw [extract_high (h := by decide)]; rw [extract_high (h := by decide)]; rw [extract_high (h := by decide)]; rw [extract_high (h := by decide)]; rw [extract_high (h := by decide)]; rw [extract_high (h := by decide)]; rw [extract_high (h := by decide)]
  exact extract_low _ _

theorem wordA_c (cls : BitVec 4) (c : Bool) (grp sub typ scope seg : BitVec 3) (x y : RegNo) :
    (wordA cls c grp sub typ scope seg x y).getLsbD 31 = c := by
  unfold wordA
  rw [bit_high (h := by decide)]; rw [bit_high (h := by decide)]; rw [bit_high (h := by decide)]; rw [bit_high (h := by decide)]; rw [bit_high (h := by decide)]; rw [bit_high (h := by decide)]; rw [bit_high (h := by decide)]; rw [bit_high (h := by decide)]
  exact bit_ofBool c

/-! ## wordF -/

theorem wordF_z (cls : BitVec 4) (c : Bool) (grp sub typ scope : BitVec 3) (a b : BitVec 4) (z : BitVec 7) :
    (wordF cls c grp sub typ scope a b z).extractLsb' 0 7 = z := by
  unfold wordF
  exact extract_low _ _

theorem wordF_b (cls : BitVec 4) (c : Bool) (grp sub typ scope : BitVec 3) (a b : BitVec 4) (z : BitVec 7) :
    (wordF cls c grp sub typ scope a b z).extractLsb' 7 4 = b := by
  unfold wordF
  rw [extract_high (h := by decide)]
  exact extract_low _ _

theorem wordF_a (cls : BitVec 4) (c : Bool) (grp sub typ scope : BitVec 3) (a b : BitVec 4) (z : BitVec 7) :
    (wordF cls c grp sub typ scope a b z).extractLsb' 11 4 = a := by
  unfold wordF
  rw [extract_high (h := by decide)]; rw [extract_high (h := by decide)]
  exact extract_low _ _

theorem wordF_scope (cls : BitVec 4) (c : Bool) (grp sub typ scope : BitVec 3) (a b : BitVec 4) (z : BitVec 7) :
    (wordF cls c grp sub typ scope a b z).extractLsb' 15 3 = scope := by
  unfold wordF
  rw [extract_high (h := by decide)]; rw [extract_high (h := by decide)]; rw [extract_high (h := by decide)]
  exact extract_low _ _

theorem wordF_typ (cls : BitVec 4) (c : Bool) (grp sub typ scope : BitVec 3) (a b : BitVec 4) (z : BitVec 7) :
    (wordF cls c grp sub typ scope a b z).extractLsb' 18 3 = typ := by
  unfold wordF
  rw [extract_high (h := by decide)]; rw [extract_high (h := by decide)]; rw [extract_high (h := by decide)]; rw [extract_high (h := by decide)]
  exact extract_low _ _

theorem wordF_sub (cls : BitVec 4) (c : Bool) (grp sub typ scope : BitVec 3) (a b : BitVec 4) (z : BitVec 7) :
    (wordF cls c grp sub typ scope a b z).extractLsb' 21 3 = sub := by
  unfold wordF
  rw [extract_high (h := by decide)]; rw [extract_high (h := by decide)]; rw [extract_high (h := by decide)]; rw [extract_high (h := by decide)]; rw [extract_high (h := by decide)]
  exact extract_low _ _

theorem wordF_grp (cls : BitVec 4) (c : Bool) (grp sub typ scope : BitVec 3) (a b : BitVec 4) (z : BitVec 7) :
    (wordF cls c grp sub typ scope a b z).extractLsb' 24 3 = grp := by
  unfold wordF
  rw [extract_high (h := by decide)]; rw [extract_high (h := by decide)]; rw [extract_high (h := by decide)]; rw [extract_high (h := by decide)]; rw [extract_high (h := by decide)]; rw [extract_high (h := by decide)]
  exact extract_low _ _

theorem wordF_cls (cls : BitVec 4) (c : Bool) (grp sub typ scope : BitVec 3) (a b : BitVec 4) (z : BitVec 7) :
    (wordF cls c grp sub typ scope a b z).extractLsb' 27 4 = cls := by
  unfold wordF
  rw [extract_high (h := by decide)]; rw [extract_high (h := by decide)]; rw [extract_high (h := by decide)]; rw [extract_high (h := by decide)]; rw [extract_high (h := by decide)]; rw [extract_high (h := by decide)]; rw [extract_high (h := by decide)]
  exact extract_low _ _

theorem wordF_c (cls : BitVec 4) (c : Bool) (grp sub typ scope : BitVec 3) (a b : BitVec 4) (z : BitVec 7) :
    (wordF cls c grp sub typ scope a b z).getLsbD 31 = c := by
  unfold wordF
  rw [bit_high (h := by decide)]; rw [bit_high (h := by decide)]; rw [bit_high (h := by decide)]; rw [bit_high (h := by decide)]; rw [bit_high (h := by decide)]; rw [bit_high (h := by decide)]; rw [bit_high (h := by decide)]; rw [bit_high (h := by decide)]
  exact bit_ofBool c

/-! ## wordT -/

theorem wordT_q (cls : BitVec 4) (c : Bool) (op : BitVec 4) (a b : RegNo) (acc : BitVec 4) (p : BitVec 3) (q : BitVec 4) :
    (wordT cls c op a b acc p q).extractLsb' 0 4 = q := by
  unfold wordT
  exact extract_low _ _

theorem wordT_p (cls : BitVec 4) (c : Bool) (op : BitVec 4) (a b : RegNo) (acc : BitVec 4) (p : BitVec 3) (q : BitVec 4) :
    (wordT cls c op a b acc p q).extractLsb' 4 3 = p := by
  unfold wordT
  rw [extract_high (h := by decide)]
  exact extract_low _ _

theorem wordT_acc (cls : BitVec 4) (c : Bool) (op : BitVec 4) (a b : RegNo) (acc : BitVec 4) (p : BitVec 3) (q : BitVec 4) :
    (wordT cls c op a b acc p q).extractLsb' 7 4 = acc := by
  unfold wordT
  rw [extract_high (h := by decide)]; rw [extract_high (h := by decide)]
  exact extract_low _ _

theorem wordT_b (cls : BitVec 4) (c : Bool) (op : BitVec 4) (a b : RegNo) (acc : BitVec 4) (p : BitVec 3) (q : BitVec 4) :
    (wordT cls c op a b acc p q).extractLsb' 11 6 = b := by
  unfold wordT
  rw [extract_high (h := by decide)]; rw [extract_high (h := by decide)]; rw [extract_high (h := by decide)]
  exact extract_low _ _

theorem wordT_a (cls : BitVec 4) (c : Bool) (op : BitVec 4) (a b : RegNo) (acc : BitVec 4) (p : BitVec 3) (q : BitVec 4) :
    (wordT cls c op a b acc p q).extractLsb' 17 6 = a := by
  unfold wordT
  rw [extract_high (h := by decide)]; rw [extract_high (h := by decide)]; rw [extract_high (h := by decide)]; rw [extract_high (h := by decide)]
  exact extract_low _ _

theorem wordT_op (cls : BitVec 4) (c : Bool) (op : BitVec 4) (a b : RegNo) (acc : BitVec 4) (p : BitVec 3) (q : BitVec 4) :
    (wordT cls c op a b acc p q).extractLsb' 23 4 = op := by
  unfold wordT
  rw [extract_high (h := by decide)]; rw [extract_high (h := by decide)]; rw [extract_high (h := by decide)]; rw [extract_high (h := by decide)]; rw [extract_high (h := by decide)]
  exact extract_low _ _

theorem wordT_cls (cls : BitVec 4) (c : Bool) (op : BitVec 4) (a b : RegNo) (acc : BitVec 4) (p : BitVec 3) (q : BitVec 4) :
    (wordT cls c op a b acc p q).extractLsb' 27 4 = cls := by
  unfold wordT
  rw [extract_high (h := by decide)]; rw [extract_high (h := by decide)]; rw [extract_high (h := by decide)]; rw [extract_high (h := by decide)]; rw [extract_high (h := by decide)]; rw [extract_high (h := by decide)]
  exact extract_low _ _

theorem wordT_c (cls : BitVec 4) (c : Bool) (op : BitVec 4) (a b : RegNo) (acc : BitVec 4) (p : BitVec 3) (q : BitVec 4) :
    (wordT cls c op a b acc p q).getLsbD 31 = c := by
  unfold wordT
  rw [bit_high (h := by decide)]; rw [bit_high (h := by decide)]; rw [bit_high (h := by decide)]; rw [bit_high (h := by decide)]; rw [bit_high (h := by decide)]; rw [bit_high (h := by decide)]; rw [bit_high (h := by decide)]
  exact bit_ofBool c

/-! ## wordTX -/

theorem wordTX_g (cls : BitVec 4) (c : Bool) (op : BitVec 4) (fa fb fc : RegNo) (g : BitVec 5) :
    (wordTX cls c op fa fb fc g).extractLsb' 0 5 = g := by
  unfold wordTX
  exact extract_low _ _

theorem wordTX_fc (cls : BitVec 4) (c : Bool) (op : BitVec 4) (fa fb fc : RegNo) (g : BitVec 5) :
    (wordTX cls c op fa fb fc g).extractLsb' 5 6 = fc := by
  unfold wordTX
  rw [extract_high (h := by decide)]
  exact extract_low _ _

theorem wordTX_fb (cls : BitVec 4) (c : Bool) (op : BitVec 4) (fa fb fc : RegNo) (g : BitVec 5) :
    (wordTX cls c op fa fb fc g).extractLsb' 11 6 = fb := by
  unfold wordTX
  rw [extract_high (h := by decide)]; rw [extract_high (h := by decide)]
  exact extract_low _ _

theorem wordTX_fa (cls : BitVec 4) (c : Bool) (op : BitVec 4) (fa fb fc : RegNo) (g : BitVec 5) :
    (wordTX cls c op fa fb fc g).extractLsb' 17 6 = fa := by
  unfold wordTX
  rw [extract_high (h := by decide)]; rw [extract_high (h := by decide)]; rw [extract_high (h := by decide)]
  exact extract_low _ _

theorem wordTX_op (cls : BitVec 4) (c : Bool) (op : BitVec 4) (fa fb fc : RegNo) (g : BitVec 5) :
    (wordTX cls c op fa fb fc g).extractLsb' 23 4 = op := by
  unfold wordTX
  rw [extract_high (h := by decide)]; rw [extract_high (h := by decide)]; rw [extract_high (h := by decide)]; rw [extract_high (h := by decide)]
  exact extract_low _ _

theorem wordTX_cls (cls : BitVec 4) (c : Bool) (op : BitVec 4) (fa fb fc : RegNo) (g : BitVec 5) :
    (wordTX cls c op fa fb fc g).extractLsb' 27 4 = cls := by
  unfold wordTX
  rw [extract_high (h := by decide)]; rw [extract_high (h := by decide)]; rw [extract_high (h := by decide)]; rw [extract_high (h := by decide)]; rw [extract_high (h := by decide)]
  exact extract_low _ _

theorem wordTX_c (cls : BitVec 4) (c : Bool) (op : BitVec 4) (fa fb fc : RegNo) (g : BitVec 5) :
    (wordTX cls c op fa fb fc g).getLsbD 31 = c := by
  unfold wordTX
  rw [bit_high (h := by decide)]; rw [bit_high (h := by decide)]; rw [bit_high (h := by decide)]; rw [bit_high (h := by decide)]; rw [bit_high (h := by decide)]; rw [bit_high (h := by decide)]
  exact bit_ofBool c

end Sys2Proof.Laws
end

