-- ==== Sys2Proof/Laws/PerInstr.lean ====
section
/-!
SUPPORT. Decoding gives back every encoded instruction (R28, R46, R50): the statement for one instruction, and its proof
for each.
-/

set_option Elab.async false

namespace Sys2Proof.Laws.RoundTrip

open Sys2Proof Sys2Proof.Laws

/-- Decoding an instruction's words, whatever follows them, gives the instruction and what follows; an event has no
words. -/
def Statement (i : Instr) : Prop :=
  ∀ rest : List Word, encode i ≠ [] → decodeWords (encode i ++ rest) = .ok (i, rest)

/-- A word of class 0. -/
theorem of_class0 (w : Word) (rest : List Word) (i : Instr) (hc : w.extractLsb' 27 4 = 0)
    (h : decodeScalar w = .ok i) : decodeWords ([w] ++ rest) = .ok (i, rest) := by
  have hc' : wordClass w = 0 := by unfold wordClass; rw [hc]; rfl
  simp [decodeWords, decodeBase, hc', h]

/-- A word of class 1. -/
theorem of_class1 (w : Word) (rest : List Word) (i : Instr) (hc : w.extractLsb' 27 4 = 1)
    (h : decodeControl w = .ok i) : decodeWords ([w] ++ rest) = .ok (i, rest) := by
  have hc' : wordClass w = 1 := by unfold wordClass; rw [hc]; rfl
  simp [decodeWords, decodeBase, hc', h]

/-! The prefix word (R46). -/

theorem pre_low (p : Pre) : (wordPre p).extractLsb' 0 8 = 0#8 := by
  unfold wordPre
  exact extract_low _ _

theorem pre_fill (p : Pre) : (wordPre p).extractLsb' 8 1 = BitVec.ofBool p.fill := by
  unfold wordPre
  rw [extract_high (h := by decide)]
  exact extract_low _ _

theorem pre_sat (p : Pre) : (wordPre p).extractLsb' 9 1 = BitVec.ofBool p.sat := by
  unfold wordPre
  rw [extract_high (h := by decide)]; rw [extract_high (h := by decide)]
  exact extract_low _ _

theorem pre_sub (p : Pre) : (wordPre p).extractLsb' 10 3 = p.sub := by
  unfold wordPre
  rw [extract_high (h := by decide)]; rw [extract_high (h := by decide)]; rw [extract_high (h := by decide)]
  exact extract_low _ _

theorem pre_vc (p : Pre) : (wordPre p).extractLsb' 13 6 = p.vc := by
  unfold wordPre
  rw [extract_high (h := by decide)]; rw [extract_high (h := by decide)]; rw [extract_high (h := by decide)]; rw [extract_high (h := by decide)]
  exact extract_low _ _

theorem pre_rnd (p : Pre) : (wordPre p).extractLsb' 19 3 = p.rnd := by
  unfold wordPre
  rw [extract_high (h := by decide)]; rw [extract_high (h := by decide)]; rw [extract_high (h := by decide)]; rw [extract_high (h := by decide)]; rw [extract_high (h := by decide)]
  exact extract_low _ _

theorem pre_z (p : Pre) : (wordPre p).extractLsb' 22 1 = BitVec.ofBool p.z := by
  unfold wordPre
  rw [extract_high (h := by decide)]; rw [extract_high (h := by decide)]; rw [extract_high (h := by decide)]; rw [extract_high (h := by decide)]; rw [extract_high (h := by decide)]; rw [extract_high (h := by decide)]
  exact extract_low _ _

theorem pre_mask (p : Pre) : (wordPre p).extractLsb' 23 4 = p.mask := by
  unfold wordPre
  rw [extract_high (h := by decide)]; rw [extract_high (h := by decide)]; rw [extract_high (h := by decide)]; rw [extract_high (h := by decide)]; rw [extract_high (h := by decide)]; rw [extract_high (h := by decide)]; rw [extract_high (h := by decide)]
  exact extract_low _ _

theorem pre_cls (p : Pre) : (wordPre p).extractLsb' 27 4 = 14#4 := by
  unfold wordPre
  rw [extract_high (h := by decide)]; rw [extract_high (h := by decide)]; rw [extract_high (h := by decide)]; rw [extract_high (h := by decide)]; rw [extract_high (h := by decide)]; rw [extract_high (h := by decide)]; rw [extract_high (h := by decide)]; rw [extract_high (h := by decide)]
  exact extract_low _ _

theorem pre_chain (p : Pre) : wordChain (wordPre p) = true := by
  unfold wordChain wordPre
  rw [bit_high (h := by decide)]; rw [bit_high (h := by decide)]; rw [bit_high (h := by decide)]; rw [bit_high (h := by decide)]; rw [bit_high (h := by decide)]; rw [bit_high (h := by decide)]; rw [bit_high (h := by decide)]; rw [bit_high (h := by decide)]; rw [bit_high (h := by decide)]
  rfl

theorem pre_class (p : Pre) : wordClass (wordPre p) = 14 := by
  unfold wordClass; rw [pre_cls]; rfl

/-- A bit that stands alone as a field. -/
theorem bit_of_field (w : Word) (k : Nat) (c : Bool) (h : w.extractLsb' k 1 = BitVec.ofBool c) : w.getLsbD k = c := by
  have := bit_part w k 1 0 (by decide)
  rw [Nat.add_zero] at this
  rw [this, h, bit_ofBool]

theorem pre_decode (p : Pre) : decodePre (wordPre p) = .ok p := by
  unfold decodePre
  rw [pre_low, pre_mask, pre_rnd, pre_vc, pre_sub, bit_of_field _ 22 _ (pre_z p), bit_of_field _ 9 _ (pre_sat p),
    bit_of_field _ 8 _ (pre_fill p)]
  rfl

/-- A word of class 2, with or without its prefix. -/
theorem of_class2 (p : Option Pre) (w : Word) (rest : List Word) (i : Instr) (hc : w.extractLsb' 27 4 = 2)
    (h : decodeInt p w = .ok i) : decodeWords (withPre p w ++ rest) = .ok (i, rest) := by
  have hc' : wordClass w = 2 := by unfold wordClass; rw [hc]; rfl
  cases p with
  | none => simp [withPre, decodeWords, decodeBase, hc', h]
  | some q =>
    simp [withPre, decodeWords, pre_class, pre_chain, pre_decode, decodeBase, hc', h]

/-- A word of class 3, with or without its prefix. -/
theorem of_class3 (p : Option Pre) (w : Word) (rest : List Word) (i : Instr) (hc : w.extractLsb' 27 4 = 3)
    (h : decodeFloat p w = .ok i) : decodeWords (withPre p w ++ rest) = .ok (i, rest) := by
  have hc' : wordClass w = 3 := by unfold wordClass; rw [hc]; rfl
  cases p with
  | none => simp [withPre, decodeWords, decodeBase, hc', h]
  | some q =>
    simp [withPre, decodeWords, pre_class, pre_chain, pre_decode, decodeBase, hc', h]

/-- A word of class 4, with or without its prefix. -/
theorem of_class4 (p : Option Pre) (w : Word) (rest : List Word) (i : Instr) (hc : w.extractLsb' 27 4 = 4)
    (h : decodeSpecial p w = .ok i) : decodeWords (withPre p w ++ rest) = .ok (i, rest) := by
  have hc' : wordClass w = 4 := by unfold wordClass; rw [hc]; rfl
  cases p with
  | none => simp [withPre, decodeWords, decodeBase, hc', h]
  | some q =>
    simp [withPre, decodeWords, pre_class, pre_chain, pre_decode, decodeBase, hc', h]

/-- A word of class 5, with or without its prefix. -/
theorem of_class5 (p : Option Pre) (w : Word) (rest : List Word) (i : Instr) (hc : w.extractLsb' 27 4 = 5)
    (h : decodeCross p w = .ok i) : decodeWords (withPre p w ++ rest) = .ok (i, rest) := by
  have hc' : wordClass w = 5 := by unfold wordClass; rw [hc]; rfl
  cases p with
  | none => simp [withPre, decodeWords, decodeBase, hc', h]
  | some q =>
    simp [withPre, decodeWords, pre_class, pre_chain, pre_decode, decodeBase, hc', h]

/-- A word of class 6. -/
theorem of_class6 (w : Word) (rest : List Word) (i : Instr) (hc : w.extractLsb' 27 4 = 6)
    (h : decodeBig w = .ok i) : decodeWords ([w] ++ rest) = .ok (i, rest) := by
  have hc' : wordClass w = 6 := by unfold wordClass; rw [hc]; rfl
  simp [decodeWords, decodeBase, hc', h]

/-- A word of class 7. -/
theorem of_class7 (w : Word) (rest : List Word) (i : Instr) (hc : w.extractLsb' 27 4 = 7)
    (h : decodeTile w = .ok i) : decodeWords ([w] ++ rest) = .ok (i, rest) := by
  have hc' : wordClass w = 7 := by unfold wordClass; rw [hc]; rfl
  simp [decodeWords, decodeBase, hc', h]

/-- A word of class 8, with or without its prefix. -/
theorem of_class8 (p : Option Pre) (w : Word) (rest : List Word) (i : Instr) (hc : w.extractLsb' 27 4 = 8)
    (h : decodeMem p w = .ok i) : decodeWords (withPre p w ++ rest) = .ok (i, rest) := by
  have hc' : wordClass w = 8 := by unfold wordClass; rw [hc]; rfl
  cases p with
  | none => simp [withPre, decodeWords, decodeBase, hc', h]
  | some q =>
    simp [withPre, decodeWords, pre_class, pre_chain, pre_decode, decodeBase, hc', h]

/-- A word of class 9. -/
theorem of_class9 (w : Word) (rest : List Word) (i : Instr) (hc : w.extractLsb' 27 4 = 9)
    (h : decodeAtomic w = .ok i) : decodeWords ([w] ++ rest) = .ok (i, rest) := by
  have hc' : wordClass w = 9 := by unfold wordClass; rw [hc]; rfl
  simp [decodeWords, decodeBase, hc', h]

/-- A word of class 10. -/
theorem of_class10 (w : Word) (rest : List Word) (i : Instr) (hc : w.extractLsb' 27 4 = 10)
    (h : decodeEngine w = .ok i) : decodeWords ([w] ++ rest) = .ok (i, rest) := by
  have hc' : wordClass w = 10 := by unfold wordClass; rw [hc]; rfl
  simp [decodeWords, decodeBase, hc', h]

/-- A word of class 11. -/
theorem of_class11 (w : Word) (rest : List Word) (i : Instr) (hc : w.extractLsb' 27 4 = 11)
    (h : decodeSystem w = .ok i) : decodeWords ([w] ++ rest) = .ok (i, rest) := by
  have hc' : wordClass w = 11 := by unfold wordClass; rw [hc]; rfl
  simp [decodeWords, decodeBase, hc', h]

/-- A word of class 12. -/
theorem of_class12 (w : Word) (rest : List Word) (i : Instr) (hc : w.extractLsb' 27 4 = 12)
    (h : decodeTask w = .ok i) : decodeWords ([w] ++ rest) = .ok (i, rest) := by
  have hc' : wordClass w = 12 := by unfold wordClass; rw [hc]; rfl
  simp [decodeWords, decodeBase, hc', h]

/-- A word of class 15. -/
theorem of_class15 (w : Word) (rest : List Word) (i : Instr) (hc : w.extractLsb' 27 4 = 15)
    (h : decodeHeader w = .ok i) : decodeWords ([w] ++ rest) = .ok (i, rest) := by
  have hc' : wordClass w = 15 := by unfold wordClass; rw [hc]; rfl
  simp [decodeWords, decodeBase, hc', h]

/-! ## One lemma for each instruction -/

theorem add (c : Bool) (d : BitVec 6) (a : BitVec 6) (b : BitVec 6) (w : Bool) : Statement (.add c d a b w) := by
  intro rest _
  have hb0 : (wordS 0 c 0#8 d a b (BitVec.ofBool w)).getLsbD 0 = w := bit_of_field _ _ _ (by rw [wordS_w])
  exact of_class0 _ rest _ (wordS_cls ..) (by simp only [decodeScalar, wordS_c, wordS_op, wordS_d, wordS_a, wordS_b, wordS_w, hb0]; rfl)

theorem sub (c : Bool) (d : BitVec 6) (a : BitVec 6) (b : BitVec 6) (w : Bool) : Statement (.sub c d a b w) := by
  intro rest _
  have hb0 : (wordS 0 c 1#8 d a b (BitVec.ofBool w)).getLsbD 0 = w := bit_of_field _ _ _ (by rw [wordS_w])
  exact of_class0 _ rest _ (wordS_cls ..) (by simp only [decodeScalar, wordS_c, wordS_op, wordS_d, wordS_a, wordS_b, wordS_w, hb0]; rfl)

theorem addc (c : Bool) (d : BitVec 6) (a : BitVec 6) (b : BitVec 6) (w : Bool) : Statement (.addc c d a b w) := by
  intro rest _
  have hb0 : (wordS 0 c 2#8 d a b (BitVec.ofBool w)).getLsbD 0 = w := bit_of_field _ _ _ (by rw [wordS_w])
  exact of_class0 _ rest _ (wordS_cls ..) (by simp only [decodeScalar, wordS_c, wordS_op, wordS_d, wordS_a, wordS_b, wordS_w, hb0]; rfl)

theorem mul (c : Bool) (d : BitVec 6) (a : BitVec 6) (b : BitVec 6) (w : Bool) : Statement (.mul c d a b w) := by
  intro rest _
  have hb0 : (wordS 0 c 3#8 d a b (BitVec.ofBool w)).getLsbD 0 = w := bit_of_field _ _ _ (by rw [wordS_w])
  exact of_class0 _ rest _ (wordS_cls ..) (by simp only [decodeScalar, wordS_c, wordS_op, wordS_d, wordS_a, wordS_b, wordS_w, hb0]; rfl)

theorem mulh (c : Bool) (d : BitVec 6) (a : BitVec 6) (b : BitVec 6) (w : Bool) : Statement (.mulh c d a b w) := by
  intro rest _
  have hb0 : (wordS 0 c 4#8 d a b (BitVec.ofBool w)).getLsbD 0 = w := bit_of_field _ _ _ (by rw [wordS_w])
  exact of_class0 _ rest _ (wordS_cls ..) (by simp only [decodeScalar, wordS_c, wordS_op, wordS_d, wordS_a, wordS_b, wordS_w, hb0]; rfl)

theorem mulhu (c : Bool) (d : BitVec 6) (a : BitVec 6) (b : BitVec 6) (w : Bool) : Statement (.mulhu c d a b w) := by
  intro rest _
  have hb0 : (wordS 0 c 5#8 d a b (BitVec.ofBool w)).getLsbD 0 = w := bit_of_field _ _ _ (by rw [wordS_w])
  exact of_class0 _ rest _ (wordS_cls ..) (by simp only [decodeScalar, wordS_c, wordS_op, wordS_d, wordS_a, wordS_b, wordS_w, hb0]; rfl)

theorem div (c : Bool) (d : BitVec 6) (a : BitVec 6) (b : BitVec 6) (w : Bool) : Statement (.div c d a b w) := by
  intro rest _
  have hb0 : (wordS 0 c 6#8 d a b (BitVec.ofBool w)).getLsbD 0 = w := bit_of_field _ _ _ (by rw [wordS_w])
  exact of_class0 _ rest _ (wordS_cls ..) (by simp only [decodeScalar, wordS_c, wordS_op, wordS_d, wordS_a, wordS_b, wordS_w, hb0]; rfl)

theorem divu (c : Bool) (d : BitVec 6) (a : BitVec 6) (b : BitVec 6) (w : Bool) : Statement (.divu c d a b w) := by
  intro rest _
  have hb0 : (wordS 0 c 7#8 d a b (BitVec.ofBool w)).getLsbD 0 = w := bit_of_field _ _ _ (by rw [wordS_w])
  exact of_class0 _ rest _ (wordS_cls ..) (by simp only [decodeScalar, wordS_c, wordS_op, wordS_d, wordS_a, wordS_b, wordS_w, hb0]; rfl)

theorem rem (c : Bool) (d : BitVec 6) (a : BitVec 6) (b : BitVec 6) (w : Bool) : Statement (.rem c d a b w) := by
  intro rest _
  have hb0 : (wordS 0 c 8#8 d a b (BitVec.ofBool w)).getLsbD 0 = w := bit_of_field _ _ _ (by rw [wordS_w])
  exact of_class0 _ rest _ (wordS_cls ..) (by simp only [decodeScalar, wordS_c, wordS_op, wordS_d, wordS_a, wordS_b, wordS_w, hb0]; rfl)

theorem remu (c : Bool) (d : BitVec 6) (a : BitVec 6) (b : BitVec 6) (w : Bool) : Statement (.remu c d a b w) := by
  intro rest _
  have hb0 : (wordS 0 c 9#8 d a b (BitVec.ofBool w)).getLsbD 0 = w := bit_of_field _ _ _ (by rw [wordS_w])
  exact of_class0 _ rest _ (wordS_cls ..) (by simp only [decodeScalar, wordS_c, wordS_op, wordS_d, wordS_a, wordS_b, wordS_w, hb0]; rfl)

theorem and (c : Bool) (d : BitVec 6) (a : BitVec 6) (b : BitVec 6) (w : Bool) : Statement (.and c d a b w) := by
  intro rest _
  have hb0 : (wordS 0 c 16#8 d a b (BitVec.ofBool w)).getLsbD 0 = w := bit_of_field _ _ _ (by rw [wordS_w])
  exact of_class0 _ rest _ (wordS_cls ..) (by simp only [decodeScalar, wordS_c, wordS_op, wordS_d, wordS_a, wordS_b, wordS_w, hb0]; rfl)

theorem or (c : Bool) (d : BitVec 6) (a : BitVec 6) (b : BitVec 6) (w : Bool) : Statement (.or c d a b w) := by
  intro rest _
  have hb0 : (wordS 0 c 17#8 d a b (BitVec.ofBool w)).getLsbD 0 = w := bit_of_field _ _ _ (by rw [wordS_w])
  exact of_class0 _ rest _ (wordS_cls ..) (by simp only [decodeScalar, wordS_c, wordS_op, wordS_d, wordS_a, wordS_b, wordS_w, hb0]; rfl)

theorem xor (c : Bool) (d : BitVec 6) (a : BitVec 6) (b : BitVec 6) (w : Bool) : Statement (.xor c d a b w) := by
  intro rest _
  have hb0 : (wordS 0 c 18#8 d a b (BitVec.ofBool w)).getLsbD 0 = w := bit_of_field _ _ _ (by rw [wordS_w])
  exact of_class0 _ rest _ (wordS_cls ..) (by simp only [decodeScalar, wordS_c, wordS_op, wordS_d, wordS_a, wordS_b, wordS_w, hb0]; rfl)

theorem andn (c : Bool) (d : BitVec 6) (a : BitVec 6) (b : BitVec 6) (w : Bool) : Statement (.andn c d a b w) := by
  intro rest _
  have hb0 : (wordS 0 c 19#8 d a b (BitVec.ofBool w)).getLsbD 0 = w := bit_of_field _ _ _ (by rw [wordS_w])
  exact of_class0 _ rest _ (wordS_cls ..) (by simp only [decodeScalar, wordS_c, wordS_op, wordS_d, wordS_a, wordS_b, wordS_w, hb0]; rfl)

theorem shl (c : Bool) (d : BitVec 6) (a : BitVec 6) (b : BitVec 6) (w : Bool) : Statement (.shl c d a b w) := by
  intro rest _
  have hb0 : (wordS 0 c 24#8 d a b (BitVec.ofBool w)).getLsbD 0 = w := bit_of_field _ _ _ (by rw [wordS_w])
  exact of_class0 _ rest _ (wordS_cls ..) (by simp only [decodeScalar, wordS_c, wordS_op, wordS_d, wordS_a, wordS_b, wordS_w, hb0]; rfl)

theorem shr (c : Bool) (d : BitVec 6) (a : BitVec 6) (b : BitVec 6) (w : Bool) : Statement (.shr c d a b w) := by
  intro rest _
  have hb0 : (wordS 0 c 25#8 d a b (BitVec.ofBool w)).getLsbD 0 = w := bit_of_field _ _ _ (by rw [wordS_w])
  exact of_class0 _ rest _ (wordS_cls ..) (by simp only [decodeScalar, wordS_c, wordS_op, wordS_d, wordS_a, wordS_b, wordS_w, hb0]; rfl)

theorem sar (c : Bool) (d : BitVec 6) (a : BitVec 6) (b : BitVec 6) (w : Bool) : Statement (.sar c d a b w) := by
  intro rest _
  have hb0 : (wordS 0 c 26#8 d a b (BitVec.ofBool w)).getLsbD 0 = w := bit_of_field _ _ _ (by rw [wordS_w])
  exact of_class0 _ rest _ (wordS_cls ..) (by simp only [decodeScalar, wordS_c, wordS_op, wordS_d, wordS_a, wordS_b, wordS_w, hb0]; rfl)

theorem rol (c : Bool) (d : BitVec 6) (a : BitVec 6) (b : BitVec 6) (w : Bool) : Statement (.rol c d a b w) := by
  intro rest _
  have hb0 : (wordS 0 c 27#8 d a b (BitVec.ofBool w)).getLsbD 0 = w := bit_of_field _ _ _ (by rw [wordS_w])
  exact of_class0 _ rest _ (wordS_cls ..) (by simp only [decodeScalar, wordS_c, wordS_op, wordS_d, wordS_a, wordS_b, wordS_w, hb0]; rfl)

theorem min (c : Bool) (d : BitVec 6) (a : BitVec 6) (b : BitVec 6) (w : Bool) : Statement (.min c d a b w) := by
  intro rest _
  have hb0 : (wordS 0 c 32#8 d a b (BitVec.ofBool w)).getLsbD 0 = w := bit_of_field _ _ _ (by rw [wordS_w])
  exact of_class0 _ rest _ (wordS_cls ..) (by simp only [decodeScalar, wordS_c, wordS_op, wordS_d, wordS_a, wordS_b, wordS_w, hb0]; rfl)

theorem max (c : Bool) (d : BitVec 6) (a : BitVec 6) (b : BitVec 6) (w : Bool) : Statement (.max c d a b w) := by
  intro rest _
  have hb0 : (wordS 0 c 33#8 d a b (BitVec.ofBool w)).getLsbD 0 = w := bit_of_field _ _ _ (by rw [wordS_w])
  exact of_class0 _ rest _ (wordS_cls ..) (by simp only [decodeScalar, wordS_c, wordS_op, wordS_d, wordS_a, wordS_b, wordS_w, hb0]; rfl)

theorem minu (c : Bool) (d : BitVec 6) (a : BitVec 6) (b : BitVec 6) (w : Bool) : Statement (.minu c d a b w) := by
  intro rest _
  have hb0 : (wordS 0 c 34#8 d a b (BitVec.ofBool w)).getLsbD 0 = w := bit_of_field _ _ _ (by rw [wordS_w])
  exact of_class0 _ rest _ (wordS_cls ..) (by simp only [decodeScalar, wordS_c, wordS_op, wordS_d, wordS_a, wordS_b, wordS_w, hb0]; rfl)

theorem maxu (c : Bool) (d : BitVec 6) (a : BitVec 6) (b : BitVec 6) (w : Bool) : Statement (.maxu c d a b w) := by
  intro rest _
  have hb0 : (wordS 0 c 35#8 d a b (BitVec.ofBool w)).getLsbD 0 = w := bit_of_field _ _ _ (by rw [wordS_w])
  exact of_class0 _ rest _ (wordS_cls ..) (by simp only [decodeScalar, wordS_c, wordS_op, wordS_d, wordS_a, wordS_b, wordS_w, hb0]; rfl)

theorem cmpEq (c : Bool) (d : BitVec 6) (a : BitVec 6) (b : BitVec 6) (w : Bool) : Statement (.cmpEq c d a b w) := by
  intro rest _
  have hb0 : (wordS 0 c 40#8 d a b (BitVec.ofBool w)).getLsbD 0 = w := bit_of_field _ _ _ (by rw [wordS_w])
  exact of_class0 _ rest _ (wordS_cls ..) (by simp only [decodeScalar, wordS_c, wordS_op, wordS_d, wordS_a, wordS_b, wordS_w, hb0]; rfl)

theorem cmpNe (c : Bool) (d : BitVec 6) (a : BitVec 6) (b : BitVec 6) (w : Bool) : Statement (.cmpNe c d a b w) := by
  intro rest _
  have hb0 : (wordS 0 c 41#8 d a b (BitVec.ofBool w)).getLsbD 0 = w := bit_of_field _ _ _ (by rw [wordS_w])
  exact of_class0 _ rest _ (wordS_cls ..) (by simp only [decodeScalar, wordS_c, wordS_op, wordS_d, wordS_a, wordS_b, wordS_w, hb0]; rfl)

theorem cmpLt (c : Bool) (d : BitVec 6) (a : BitVec 6) (b : BitVec 6) (w : Bool) : Statement (.cmpLt c d a b w) := by
  intro rest _
  have hb0 : (wordS 0 c 42#8 d a b (BitVec.ofBool w)).getLsbD 0 = w := bit_of_field _ _ _ (by rw [wordS_w])
  exact of_class0 _ rest _ (wordS_cls ..) (by simp only [decodeScalar, wordS_c, wordS_op, wordS_d, wordS_a, wordS_b, wordS_w, hb0]; rfl)

theorem cmpGe (c : Bool) (d : BitVec 6) (a : BitVec 6) (b : BitVec 6) (w : Bool) : Statement (.cmpGe c d a b w) := by
  intro rest _
  have hb0 : (wordS 0 c 43#8 d a b (BitVec.ofBool w)).getLsbD 0 = w := bit_of_field _ _ _ (by rw [wordS_w])
  exact of_class0 _ rest _ (wordS_cls ..) (by simp only [decodeScalar, wordS_c, wordS_op, wordS_d, wordS_a, wordS_b, wordS_w, hb0]; rfl)

theorem cmpLtu (c : Bool) (d : BitVec 6) (a : BitVec 6) (b : BitVec 6) (w : Bool) : Statement (.cmpLtu c d a b w) := by
  intro rest _
  have hb0 : (wordS 0 c 44#8 d a b (BitVec.ofBool w)).getLsbD 0 = w := bit_of_field _ _ _ (by rw [wordS_w])
  exact of_class0 _ rest _ (wordS_cls ..) (by simp only [decodeScalar, wordS_c, wordS_op, wordS_d, wordS_a, wordS_b, wordS_w, hb0]; rfl)

theorem cmpGeu (c : Bool) (d : BitVec 6) (a : BitVec 6) (b : BitVec 6) (w : Bool) : Statement (.cmpGeu c d a b w) := by
  intro rest _
  have hb0 : (wordS 0 c 45#8 d a b (BitVec.ofBool w)).getLsbD 0 = w := bit_of_field _ _ _ (by rw [wordS_w])
  exact of_class0 _ rest _ (wordS_cls ..) (by simp only [decodeScalar, wordS_c, wordS_op, wordS_d, wordS_a, wordS_b, wordS_w, hb0]; rfl)

theorem sel (c : Bool) (d : BitVec 6) (a : BitVec 6) (b : BitVec 6) : Statement (.sel c d a b) := by
  intro rest _
  exact of_class0 _ rest _ (wordS_cls ..) (by simp only [decodeScalar, wordS_c, wordS_op, wordS_d, wordS_a, wordS_b, wordS_w]; rfl)

theorem clz (c : Bool) (d : BitVec 6) (a : BitVec 6) (w : Bool) : Statement (.clz c d a w) := by
  intro rest _
  have hb0 : (wordS 0 c 48#8 d a 0#6 (BitVec.ofBool w)).getLsbD 0 = w := bit_of_field _ _ _ (by rw [wordS_w])
  exact of_class0 _ rest _ (wordS_cls ..) (by simp only [decodeScalar, wordS_c, wordS_op, wordS_d, wordS_a, wordS_b, wordS_w, hb0]; rfl)

theorem ctz (c : Bool) (d : BitVec 6) (a : BitVec 6) (w : Bool) : Statement (.ctz c d a w) := by
  intro rest _
  have hb0 : (wordS 0 c 49#8 d a 0#6 (BitVec.ofBool w)).getLsbD 0 = w := bit_of_field _ _ _ (by rw [wordS_w])
  exact of_class0 _ rest _ (wordS_cls ..) (by simp only [decodeScalar, wordS_c, wordS_op, wordS_d, wordS_a, wordS_b, wordS_w, hb0]; rfl)

theorem popc (c : Bool) (d : BitVec 6) (a : BitVec 6) (w : Bool) : Statement (.popc c d a w) := by
  intro rest _
  have hb0 : (wordS 0 c 50#8 d a 0#6 (BitVec.ofBool w)).getLsbD 0 = w := bit_of_field _ _ _ (by rw [wordS_w])
  exact of_class0 _ rest _ (wordS_cls ..) (by simp only [decodeScalar, wordS_c, wordS_op, wordS_d, wordS_a, wordS_b, wordS_w, hb0]; rfl)

theorem bext (c : Bool) (d : BitVec 6) (a : BitVec 6) (b : BitVec 6) : Statement (.bext c d a b) := by
  intro rest _
  exact of_class0 _ rest _ (wordS_cls ..) (by simp only [decodeScalar, wordS_c, wordS_op, wordS_d, wordS_a, wordS_b, wordS_w]; rfl)

theorem bins (c : Bool) (d : BitVec 6) (a : BitVec 6) (b : BitVec 6) : Statement (.bins c d a b) := by
  intro rest _
  exact of_class0 _ rest _ (wordS_cls ..) (by simp only [decodeScalar, wordS_c, wordS_op, wordS_d, wordS_a, wordS_b, wordS_w]; rfl)

theorem mov (c : Bool) (d : BitVec 6) (a : BitVec 6) (w : Bool) : Statement (.mov c d a w) := by
  intro rest _
  have hb0 : (wordS 0 c 63#8 d a 0#6 (BitVec.ofBool w)).getLsbD 0 = w := bit_of_field _ _ _ (by rw [wordS_w])
  exact of_class0 _ rest _ (wordS_cls ..) (by simp only [decodeScalar, wordS_c, wordS_op, wordS_d, wordS_a, wordS_b, wordS_w, hb0]; rfl)

theorem addi (c : Bool) (d : BitVec 6) (i : BitVec 16) : Statement (.addi c d i) := by
  intro rest _
  exact of_class1 _ rest _ (wordSI_cls ..) (by simp only [decodeControl, wordSI_c, wordSI_op, wordSI_d, wordSI_i]; rfl)

theorem movi (c : Bool) (d : BitVec 6) (i : BitVec 16) : Statement (.movi c d i) := by
  intro rest _
  exact of_class1 _ rest _ (wordSI_cls ..) (by simp only [decodeControl, wordSI_c, wordSI_op, wordSI_d, wordSI_i]; rfl)

theorem movhi (c : Bool) (d : BitVec 6) (i : BitVec 16) : Statement (.movhi c d i) := by
  intro rest _
  exact of_class1 _ rest _ (wordSI_cls ..) (by simp only [decodeControl, wordSI_c, wordSI_op, wordSI_d, wordSI_i]; rfl)

theorem andi (c : Bool) (d : BitVec 6) (i : BitVec 16) : Statement (.andi c d i) := by
  intro rest _
  exact of_class1 _ rest _ (wordSI_cls ..) (by simp only [decodeControl, wordSI_c, wordSI_op, wordSI_d, wordSI_i]; rfl)

theorem ori (c : Bool) (d : BitVec 6) (i : BitVec 16) : Statement (.ori c d i) := by
  intro rest _
  exact of_class1 _ rest _ (wordSI_cls ..) (by simp only [decodeControl, wordSI_c, wordSI_op, wordSI_d, wordSI_i]; rfl)

theorem xori (c : Bool) (d : BitVec 6) (i : BitVec 16) : Statement (.xori c d i) := by
  intro rest _
  exact of_class1 _ rest _ (wordSI_cls ..) (by simp only [decodeControl, wordSI_c, wordSI_op, wordSI_d, wordSI_i]; rfl)

theorem shli (c : Bool) (d : BitVec 6) (i : BitVec 6) : Statement (.shli c d i) := by
  intro rest _
  have he0 : (wordSI 1 c 6#5 d (0#10 ++ i)).extractLsb' 0 6 = i := by
    rw [extract_part _ 0 16 0 6 (by decide), wordSI_i]
    exact extract_low _ _
  have he6 : (wordSI 1 c 6#5 d (0#10 ++ i)).extractLsb' 6 10 = 0#10 := by
    rw [extract_part _ 0 16 6 10 (by decide), wordSI_i]
    rw [extract_high (h := by decide)]
    exact BitVec.extractLsb'_eq_self
  exact of_class1 _ rest _ (wordSI_cls ..) (by simp only [decodeControl, wordSI_c, wordSI_op, wordSI_d, wordSI_i, he0, he6]; rfl)

theorem shri (c : Bool) (d : BitVec 6) (i : BitVec 6) : Statement (.shri c d i) := by
  intro rest _
  have he0 : (wordSI 1 c 7#5 d (0#10 ++ i)).extractLsb' 0 6 = i := by
    rw [extract_part _ 0 16 0 6 (by decide), wordSI_i]
    exact extract_low _ _
  have he6 : (wordSI 1 c 7#5 d (0#10 ++ i)).extractLsb' 6 10 = 0#10 := by
    rw [extract_part _ 0 16 6 10 (by decide), wordSI_i]
    rw [extract_high (h := by decide)]
    exact BitVec.extractLsb'_eq_self
  exact of_class1 _ rest _ (wordSI_cls ..) (by simp only [decodeControl, wordSI_c, wordSI_op, wordSI_d, wordSI_i, he0, he6]; rfl)

theorem cmpiEq (c : Bool) (d : BitVec 6) (i : BitVec 16) : Statement (.cmpiEq c d i) := by
  intro rest _
  exact of_class1 _ rest _ (wordSI_cls ..) (by simp only [decodeControl, wordSI_c, wordSI_op, wordSI_d, wordSI_i]; rfl)

theorem cmpiNe (c : Bool) (d : BitVec 6) (i : BitVec 16) : Statement (.cmpiNe c d i) := by
  intro rest _
  exact of_class1 _ rest _ (wordSI_cls ..) (by simp only [decodeControl, wordSI_c, wordSI_op, wordSI_d, wordSI_i]; rfl)

theorem cmpiLt (c : Bool) (d : BitVec 6) (i : BitVec 16) : Statement (.cmpiLt c d i) := by
  intro rest _
  exact of_class1 _ rest _ (wordSI_cls ..) (by simp only [decodeControl, wordSI_c, wordSI_op, wordSI_d, wordSI_i]; rfl)

theorem cmpiGe (c : Bool) (d : BitVec 6) (i : BitVec 16) : Statement (.cmpiGe c d i) := by
  intro rest _
  exact of_class1 _ rest _ (wordSI_cls ..) (by simp only [decodeControl, wordSI_c, wordSI_op, wordSI_d, wordSI_i]; rfl)

theorem cmpiLtu (c : Bool) (d : BitVec 6) (i : BitVec 16) : Statement (.cmpiLtu c d i) := by
  intro rest _
  exact of_class1 _ rest _ (wordSI_cls ..) (by simp only [decodeControl, wordSI_c, wordSI_op, wordSI_d, wordSI_i]; rfl)

theorem cmpiGeu (c : Bool) (d : BitVec 6) (i : BitVec 16) : Statement (.cmpiGeu c d i) := by
  intro rest _
  exact of_class1 _ rest _ (wordSI_cls ..) (by simp only [decodeControl, wordSI_c, wordSI_op, wordSI_d, wordSI_i]; rfl)

theorem br (c : Bool) (p : BitVec 16) : Statement (.br c p) := by
  intro rest _
  exact of_class1 _ rest _ (wordSI_cls ..) (by simp only [decodeControl, wordSI_c, wordSI_op, wordSI_d, wordSI_i]; rfl)

theorem brc (c : Bool) (d : BitVec 6) (p : BitVec 16) : Statement (.brc c d p) := by
  intro rest _
  exact of_class1 _ rest _ (wordSI_cls ..) (by simp only [decodeControl, wordSI_c, wordSI_op, wordSI_d, wordSI_i]; rfl)

theorem brv (c : Bool) (m : BitVec 6) (p : BitVec 16) : Statement (.brv c m p) := by
  intro rest _
  exact of_class1 _ rest _ (wordSI_cls ..) (by simp only [decodeControl, wordSI_c, wordSI_op, wordSI_d, wordSI_i]; rfl)

theorem call (c : Bool) (d : BitVec 6) (p : BitVec 16) : Statement (.call c d p) := by
  intro rest _
  exact of_class1 _ rest _ (wordSI_cls ..) (by simp only [decodeControl, wordSI_c, wordSI_op, wordSI_d, wordSI_i]; rfl)

theorem ret (c : Bool) (d : BitVec 6) : Statement (.ret c d) := by
  intro rest _
  exact of_class1 _ rest _ (wordSI_cls ..) (by simp only [decodeControl, wordSI_c, wordSI_op, wordSI_d, wordSI_i]; rfl)

theorem jmpr (c : Bool) (d : BitVec 6) : Statement (.jmpr c d) := by
  intro rest _
  exact of_class1 _ rest _ (wordSI_cls ..) (by simp only [decodeControl, wordSI_c, wordSI_op, wordSI_d, wordSI_i]; rfl)

theorem join (c : Bool) : Statement (.join c) := by
  intro rest _
  exact of_class1 _ rest _ (wordSI_cls ..) (by simp only [decodeControl, wordSI_c, wordSI_op, wordSI_d, wordSI_i]; rfl)

theorem regang (c : Bool) : Statement (.regang c) := by
  intro rest _
  exact of_class1 _ rest _ (wordSI_cls ..) (by simp only [decodeControl, wordSI_c, wordSI_op, wordSI_d, wordSI_i]; rfl)

theorem regangRelease (sp : SpanId) : Statement (.regangRelease sp) := fun _ h => absurd rfl h

theorem exit (c : Bool) : Statement (.exit c) := by
  intro rest _
  exact of_class1 _ rest _ (wordSI_cls ..) (by simp only [decodeControl, wordSI_c, wordSI_op, wordSI_d, wordSI_i]; rfl)

theorem nop (c : Bool) : Statement (.nop c) := by
  intro rest _
  exact of_class1 _ rest _ (wordSI_cls ..) (by simp only [decodeControl, wordSI_c, wordSI_op, wordSI_d, wordSI_i]; rfl)

theorem vadd (p : Option Pre) (c : Bool) (t : BitVec 3) (d : BitVec 6) (a : BitVec 6) (b : BitVec 6) : Statement (.vadd p c t d a b) := by
  intro rest _
  exact of_class2 p _ rest _ (wordV_cls ..) (by simp only [decodeInt, wordV_c, wordV_op, wordV_t, wordV_d, wordV_a, wordV_b]; rfl)

theorem vaddS (p : Option Pre) (c : Bool) (t : BitVec 3) (d : BitVec 6) (a : BitVec 6) (s : BitVec 6) : Statement (.vaddS p c t d a s) := by
  intro rest _
  exact of_class2 p _ rest _ (wordV_cls ..) (by simp only [decodeInt, wordV_c, wordV_op, wordV_t, wordV_d, wordV_a, wordV_b]; rfl)

theorem vaddI (p : Option Pre) (c : Bool) (t : BitVec 3) (d : BitVec 6) (a : BitVec 6) (i : BitVec 6) : Statement (.vaddI p c t d a i) := by
  intro rest _
  exact of_class2 p _ rest _ (wordV_cls ..) (by simp only [decodeInt, wordV_c, wordV_op, wordV_t, wordV_d, wordV_a, wordV_b]; rfl)

theorem vsub (p : Option Pre) (c : Bool) (t : BitVec 3) (d : BitVec 6) (a : BitVec 6) (b : BitVec 6) : Statement (.vsub p c t d a b) := by
  intro rest _
  exact of_class2 p _ rest _ (wordV_cls ..) (by simp only [decodeInt, wordV_c, wordV_op, wordV_t, wordV_d, wordV_a, wordV_b]; rfl)

theorem vsubS (p : Option Pre) (c : Bool) (t : BitVec 3) (d : BitVec 6) (a : BitVec 6) (s : BitVec 6) : Statement (.vsubS p c t d a s) := by
  intro rest _
  exact of_class2 p _ rest _ (wordV_cls ..) (by simp only [decodeInt, wordV_c, wordV_op, wordV_t, wordV_d, wordV_a, wordV_b]; rfl)

theorem vsubI (p : Option Pre) (c : Bool) (t : BitVec 3) (d : BitVec 6) (a : BitVec 6) (i : BitVec 6) : Statement (.vsubI p c t d a i) := by
  intro rest _
  exact of_class2 p _ rest _ (wordV_cls ..) (by simp only [decodeInt, wordV_c, wordV_op, wordV_t, wordV_d, wordV_a, wordV_b]; rfl)

theorem vmul (p : Option Pre) (c : Bool) (t : BitVec 3) (d : BitVec 6) (a : BitVec 6) (b : BitVec 6) : Statement (.vmul p c t d a b) := by
  intro rest _
  exact of_class2 p _ rest _ (wordV_cls ..) (by simp only [decodeInt, wordV_c, wordV_op, wordV_t, wordV_d, wordV_a, wordV_b]; rfl)

theorem vmulS (p : Option Pre) (c : Bool) (t : BitVec 3) (d : BitVec 6) (a : BitVec 6) (s : BitVec 6) : Statement (.vmulS p c t d a s) := by
  intro rest _
  exact of_class2 p _ rest _ (wordV_cls ..) (by simp only [decodeInt, wordV_c, wordV_op, wordV_t, wordV_d, wordV_a, wordV_b]; rfl)

theorem vmulh (p : Option Pre) (c : Bool) (t : BitVec 3) (d : BitVec 6) (a : BitVec 6) (b : BitVec 6) : Statement (.vmulh p c t d a b) := by
  intro rest _
  exact of_class2 p _ rest _ (wordV_cls ..) (by simp only [decodeInt, wordV_c, wordV_op, wordV_t, wordV_d, wordV_a, wordV_b]; rfl)

theorem vmulhS (p : Option Pre) (c : Bool) (t : BitVec 3) (d : BitVec 6) (a : BitVec 6) (s : BitVec 6) : Statement (.vmulhS p c t d a s) := by
  intro rest _
  exact of_class2 p _ rest _ (wordV_cls ..) (by simp only [decodeInt, wordV_c, wordV_op, wordV_t, wordV_d, wordV_a, wordV_b]; rfl)

theorem vmulhu (p : Option Pre) (c : Bool) (d : BitVec 6) (a : BitVec 6) (b : BitVec 6) : Statement (.vmulhu p c d a b) := by
  intro rest _
  exact of_class2 p _ rest _ (wordV_cls ..) (by simp only [decodeInt, wordV_c, wordV_op, wordV_t, wordV_d, wordV_a, wordV_b]; rfl)

theorem vmulhuS (p : Option Pre) (c : Bool) (d : BitVec 6) (a : BitVec 6) (s : BitVec 6) : Statement (.vmulhuS p c d a s) := by
  intro rest _
  exact of_class2 p _ rest _ (wordV_cls ..) (by simp only [decodeInt, wordV_c, wordV_op, wordV_t, wordV_d, wordV_a, wordV_b]; rfl)

theorem vmad (p : Option Pre) (c : Bool) (t : BitVec 3) (d : BitVec 6) (a : BitVec 6) (b : BitVec 6) : Statement (.vmad p c t d a b) := by
  intro rest _
  exact of_class2 p _ rest _ (wordV_cls ..) (by simp only [decodeInt, wordV_c, wordV_op, wordV_t, wordV_d, wordV_a, wordV_b]; rfl)

theorem vaddc (p : Option Pre) (c : Bool) (d : BitVec 6) (a : BitVec 6) (b : BitVec 6) : Statement (.vaddc p c d a b) := by
  intro rest _
  exact of_class2 p _ rest _ (wordV_cls ..) (by simp only [decodeInt, wordV_c, wordV_op, wordV_t, wordV_d, wordV_a, wordV_b]; rfl)

theorem vsubc (p : Option Pre) (c : Bool) (d : BitVec 6) (a : BitVec 6) (b : BitVec 6) : Statement (.vsubc p c d a b) := by
  intro rest _
  exact of_class2 p _ rest _ (wordV_cls ..) (by simp only [decodeInt, wordV_c, wordV_op, wordV_t, wordV_d, wordV_a, wordV_b]; rfl)

theorem vmulw (p : Option Pre) (c : Bool) (t : BitVec 3) (d : BitVec 6) (a : BitVec 6) (b : BitVec 6) : Statement (.vmulw p c t d a b) := by
  intro rest _
  exact of_class2 p _ rest _ (wordV_cls ..) (by simp only [decodeInt, wordV_c, wordV_op, wordV_t, wordV_d, wordV_a, wordV_b]; rfl)

theorem vand (p : Option Pre) (c : Bool) (t : BitVec 3) (d : BitVec 6) (a : BitVec 6) (b : BitVec 6) : Statement (.vand p c t d a b) := by
  intro rest _
  exact of_class2 p _ rest _ (wordV_cls ..) (by simp only [decodeInt, wordV_c, wordV_op, wordV_t, wordV_d, wordV_a, wordV_b]; rfl)

theorem vandS (p : Option Pre) (c : Bool) (t : BitVec 3) (d : BitVec 6) (a : BitVec 6) (s : BitVec 6) : Statement (.vandS p c t d a s) := by
  intro rest _
  exact of_class2 p _ rest _ (wordV_cls ..) (by simp only [decodeInt, wordV_c, wordV_op, wordV_t, wordV_d, wordV_a, wordV_b]; rfl)

theorem vandI (p : Option Pre) (c : Bool) (t : BitVec 3) (d : BitVec 6) (a : BitVec 6) (i : BitVec 6) : Statement (.vandI p c t d a i) := by
  intro rest _
  exact of_class2 p _ rest _ (wordV_cls ..) (by simp only [decodeInt, wordV_c, wordV_op, wordV_t, wordV_d, wordV_a, wordV_b]; rfl)

theorem vor (p : Option Pre) (c : Bool) (t : BitVec 3) (d : BitVec 6) (a : BitVec 6) (b : BitVec 6) : Statement (.vor p c t d a b) := by
  intro rest _
  exact of_class2 p _ rest _ (wordV_cls ..) (by simp only [decodeInt, wordV_c, wordV_op, wordV_t, wordV_d, wordV_a, wordV_b]; rfl)

theorem vorS (p : Option Pre) (c : Bool) (t : BitVec 3) (d : BitVec 6) (a : BitVec 6) (s : BitVec 6) : Statement (.vorS p c t d a s) := by
  intro rest _
  exact of_class2 p _ rest _ (wordV_cls ..) (by simp only [decodeInt, wordV_c, wordV_op, wordV_t, wordV_d, wordV_a, wordV_b]; rfl)

theorem vorI (p : Option Pre) (c : Bool) (t : BitVec 3) (d : BitVec 6) (a : BitVec 6) (i : BitVec 6) : Statement (.vorI p c t d a i) := by
  intro rest _
  exact of_class2 p _ rest _ (wordV_cls ..) (by simp only [decodeInt, wordV_c, wordV_op, wordV_t, wordV_d, wordV_a, wordV_b]; rfl)

theorem vxor (p : Option Pre) (c : Bool) (t : BitVec 3) (d : BitVec 6) (a : BitVec 6) (b : BitVec 6) : Statement (.vxor p c t d a b) := by
  intro rest _
  exact of_class2 p _ rest _ (wordV_cls ..) (by simp only [decodeInt, wordV_c, wordV_op, wordV_t, wordV_d, wordV_a, wordV_b]; rfl)

theorem vxorS (p : Option Pre) (c : Bool) (t : BitVec 3) (d : BitVec 6) (a : BitVec 6) (s : BitVec 6) : Statement (.vxorS p c t d a s) := by
  intro rest _
  exact of_class2 p _ rest _ (wordV_cls ..) (by simp only [decodeInt, wordV_c, wordV_op, wordV_t, wordV_d, wordV_a, wordV_b]; rfl)

theorem vxorI (p : Option Pre) (c : Bool) (t : BitVec 3) (d : BitVec 6) (a : BitVec 6) (i : BitVec 6) : Statement (.vxorI p c t d a i) := by
  intro rest _
  exact of_class2 p _ rest _ (wordV_cls ..) (by simp only [decodeInt, wordV_c, wordV_op, wordV_t, wordV_d, wordV_a, wordV_b]; rfl)

theorem vshl (p : Option Pre) (c : Bool) (t : BitVec 3) (d : BitVec 6) (a : BitVec 6) (b : BitVec 6) : Statement (.vshl p c t d a b) := by
  intro rest _
  exact of_class2 p _ rest _ (wordV_cls ..) (by simp only [decodeInt, wordV_c, wordV_op, wordV_t, wordV_d, wordV_a, wordV_b]; rfl)

theorem vshlS (p : Option Pre) (c : Bool) (t : BitVec 3) (d : BitVec 6) (a : BitVec 6) (s : BitVec 6) : Statement (.vshlS p c t d a s) := by
  intro rest _
  exact of_class2 p _ rest _ (wordV_cls ..) (by simp only [decodeInt, wordV_c, wordV_op, wordV_t, wordV_d, wordV_a, wordV_b]; rfl)

theorem vshlI (p : Option Pre) (c : Bool) (t : BitVec 3) (d : BitVec 6) (a : BitVec 6) (i : BitVec 6) : Statement (.vshlI p c t d a i) := by
  intro rest _
  exact of_class2 p _ rest _ (wordV_cls ..) (by simp only [decodeInt, wordV_c, wordV_op, wordV_t, wordV_d, wordV_a, wordV_b]; rfl)

theorem vshr (p : Option Pre) (c : Bool) (t : BitVec 3) (d : BitVec 6) (a : BitVec 6) (b : BitVec 6) : Statement (.vshr p c t d a b) := by
  intro rest _
  exact of_class2 p _ rest _ (wordV_cls ..) (by simp only [decodeInt, wordV_c, wordV_op, wordV_t, wordV_d, wordV_a, wordV_b]; rfl)

theorem vshrS (p : Option Pre) (c : Bool) (t : BitVec 3) (d : BitVec 6) (a : BitVec 6) (s : BitVec 6) : Statement (.vshrS p c t d a s) := by
  intro rest _
  exact of_class2 p _ rest _ (wordV_cls ..) (by simp only [decodeInt, wordV_c, wordV_op, wordV_t, wordV_d, wordV_a, wordV_b]; rfl)

theorem vshrI (p : Option Pre) (c : Bool) (t : BitVec 3) (d : BitVec 6) (a : BitVec 6) (i : BitVec 6) : Statement (.vshrI p c t d a i) := by
  intro rest _
  exact of_class2 p _ rest _ (wordV_cls ..) (by simp only [decodeInt, wordV_c, wordV_op, wordV_t, wordV_d, wordV_a, wordV_b]; rfl)

theorem vsar (p : Option Pre) (c : Bool) (t : BitVec 3) (d : BitVec 6) (a : BitVec 6) (b : BitVec 6) : Statement (.vsar p c t d a b) := by
  intro rest _
  exact of_class2 p _ rest _ (wordV_cls ..) (by simp only [decodeInt, wordV_c, wordV_op, wordV_t, wordV_d, wordV_a, wordV_b]; rfl)

theorem vsarS (p : Option Pre) (c : Bool) (t : BitVec 3) (d : BitVec 6) (a : BitVec 6) (s : BitVec 6) : Statement (.vsarS p c t d a s) := by
  intro rest _
  exact of_class2 p _ rest _ (wordV_cls ..) (by simp only [decodeInt, wordV_c, wordV_op, wordV_t, wordV_d, wordV_a, wordV_b]; rfl)

theorem vsarI (p : Option Pre) (c : Bool) (t : BitVec 3) (d : BitVec 6) (a : BitVec 6) (i : BitVec 6) : Statement (.vsarI p c t d a i) := by
  intro rest _
  exact of_class2 p _ rest _ (wordV_cls ..) (by simp only [decodeInt, wordV_c, wordV_op, wordV_t, wordV_d, wordV_a, wordV_b]; rfl)

theorem vmin (p : Option Pre) (c : Bool) (t : BitVec 3) (d : BitVec 6) (a : BitVec 6) (b : BitVec 6) : Statement (.vmin p c t d a b) := by
  intro rest _
  exact of_class2 p _ rest _ (wordV_cls ..) (by simp only [decodeInt, wordV_c, wordV_op, wordV_t, wordV_d, wordV_a, wordV_b]; rfl)

theorem vminS (p : Option Pre) (c : Bool) (t : BitVec 3) (d : BitVec 6) (a : BitVec 6) (s : BitVec 6) : Statement (.vminS p c t d a s) := by
  intro rest _
  exact of_class2 p _ rest _ (wordV_cls ..) (by simp only [decodeInt, wordV_c, wordV_op, wordV_t, wordV_d, wordV_a, wordV_b]; rfl)

theorem vmax (p : Option Pre) (c : Bool) (t : BitVec 3) (d : BitVec 6) (a : BitVec 6) (b : BitVec 6) : Statement (.vmax p c t d a b) := by
  intro rest _
  exact of_class2 p _ rest _ (wordV_cls ..) (by simp only [decodeInt, wordV_c, wordV_op, wordV_t, wordV_d, wordV_a, wordV_b]; rfl)

theorem vmaxS (p : Option Pre) (c : Bool) (t : BitVec 3) (d : BitVec 6) (a : BitVec 6) (s : BitVec 6) : Statement (.vmaxS p c t d a s) := by
  intro rest _
  exact of_class2 p _ rest _ (wordV_cls ..) (by simp only [decodeInt, wordV_c, wordV_op, wordV_t, wordV_d, wordV_a, wordV_b]; rfl)

theorem vminu (p : Option Pre) (c : Bool) (d : BitVec 6) (a : BitVec 6) (b : BitVec 6) : Statement (.vminu p c d a b) := by
  intro rest _
  exact of_class2 p _ rest _ (wordV_cls ..) (by simp only [decodeInt, wordV_c, wordV_op, wordV_t, wordV_d, wordV_a, wordV_b]; rfl)

theorem vminuS (p : Option Pre) (c : Bool) (d : BitVec 6) (a : BitVec 6) (s : BitVec 6) : Statement (.vminuS p c d a s) := by
  intro rest _
  exact of_class2 p _ rest _ (wordV_cls ..) (by simp only [decodeInt, wordV_c, wordV_op, wordV_t, wordV_d, wordV_a, wordV_b]; rfl)

theorem vmaxu (p : Option Pre) (c : Bool) (d : BitVec 6) (a : BitVec 6) (b : BitVec 6) : Statement (.vmaxu p c d a b) := by
  intro rest _
  exact of_class2 p _ rest _ (wordV_cls ..) (by simp only [decodeInt, wordV_c, wordV_op, wordV_t, wordV_d, wordV_a, wordV_b]; rfl)

theorem vmaxuS (p : Option Pre) (c : Bool) (d : BitVec 6) (a : BitVec 6) (s : BitVec 6) : Statement (.vmaxuS p c d a s) := by
  intro rest _
  exact of_class2 p _ rest _ (wordV_cls ..) (by simp only [decodeInt, wordV_c, wordV_op, wordV_t, wordV_d, wordV_a, wordV_b]; rfl)

theorem vcmpEq (p : Option Pre) (c : Bool) (t : BitVec 3) (m : BitVec 6) (a : BitVec 6) (b : BitVec 6) : Statement (.vcmpEq p c t m a b) := by
  intro rest _
  exact of_class2 p _ rest _ (wordV_cls ..) (by simp only [decodeInt, wordV_c, wordV_op, wordV_t, wordV_d, wordV_a, wordV_b]; rfl)

theorem vcmpEqS (p : Option Pre) (c : Bool) (t : BitVec 3) (m : BitVec 6) (a : BitVec 6) (s : BitVec 6) : Statement (.vcmpEqS p c t m a s) := by
  intro rest _
  exact of_class2 p _ rest _ (wordV_cls ..) (by simp only [decodeInt, wordV_c, wordV_op, wordV_t, wordV_d, wordV_a, wordV_b]; rfl)

theorem vcmpNe (p : Option Pre) (c : Bool) (t : BitVec 3) (m : BitVec 6) (a : BitVec 6) (b : BitVec 6) : Statement (.vcmpNe p c t m a b) := by
  intro rest _
  exact of_class2 p _ rest _ (wordV_cls ..) (by simp only [decodeInt, wordV_c, wordV_op, wordV_t, wordV_d, wordV_a, wordV_b]; rfl)

theorem vcmpNeS (p : Option Pre) (c : Bool) (t : BitVec 3) (m : BitVec 6) (a : BitVec 6) (s : BitVec 6) : Statement (.vcmpNeS p c t m a s) := by
  intro rest _
  exact of_class2 p _ rest _ (wordV_cls ..) (by simp only [decodeInt, wordV_c, wordV_op, wordV_t, wordV_d, wordV_a, wordV_b]; rfl)

theorem vcmpLt (p : Option Pre) (c : Bool) (t : BitVec 3) (m : BitVec 6) (a : BitVec 6) (b : BitVec 6) : Statement (.vcmpLt p c t m a b) := by
  intro rest _
  exact of_class2 p _ rest _ (wordV_cls ..) (by simp only [decodeInt, wordV_c, wordV_op, wordV_t, wordV_d, wordV_a, wordV_b]; rfl)

theorem vcmpLtS (p : Option Pre) (c : Bool) (t : BitVec 3) (m : BitVec 6) (a : BitVec 6) (s : BitVec 6) : Statement (.vcmpLtS p c t m a s) := by
  intro rest _
  exact of_class2 p _ rest _ (wordV_cls ..) (by simp only [decodeInt, wordV_c, wordV_op, wordV_t, wordV_d, wordV_a, wordV_b]; rfl)

theorem vcmpGe (p : Option Pre) (c : Bool) (t : BitVec 3) (m : BitVec 6) (a : BitVec 6) (b : BitVec 6) : Statement (.vcmpGe p c t m a b) := by
  intro rest _
  exact of_class2 p _ rest _ (wordV_cls ..) (by simp only [decodeInt, wordV_c, wordV_op, wordV_t, wordV_d, wordV_a, wordV_b]; rfl)

theorem vcmpGeS (p : Option Pre) (c : Bool) (t : BitVec 3) (m : BitVec 6) (a : BitVec 6) (s : BitVec 6) : Statement (.vcmpGeS p c t m a s) := by
  intro rest _
  exact of_class2 p _ rest _ (wordV_cls ..) (by simp only [decodeInt, wordV_c, wordV_op, wordV_t, wordV_d, wordV_a, wordV_b]; rfl)

theorem vsel (p : Option Pre) (c : Bool) (t : BitVec 3) (d : BitVec 6) (a : BitVec 6) (b : BitVec 6) : Statement (.vsel p c t d a b) := by
  intro rest _
  exact of_class2 p _ rest _ (wordV_cls ..) (by simp only [decodeInt, wordV_c, wordV_op, wordV_t, wordV_d, wordV_a, wordV_b]; rfl)

theorem vabs (p : Option Pre) (c : Bool) (t : BitVec 3) (d : BitVec 6) (a : BitVec 6) : Statement (.vabs p c t d a) := by
  intro rest _
  exact of_class2 p _ rest _ (wordV_cls ..) (by simp only [decodeInt, wordV_c, wordV_op, wordV_t, wordV_d, wordV_a, wordV_b]; rfl)

theorem vpopc (p : Option Pre) (c : Bool) (t : BitVec 3) (d : BitVec 6) (a : BitVec 6) : Statement (.vpopc p c t d a) := by
  intro rest _
  exact of_class2 p _ rest _ (wordV_cls ..) (by simp only [decodeInt, wordV_c, wordV_op, wordV_t, wordV_d, wordV_a, wordV_b]; rfl)

theorem vclz (p : Option Pre) (c : Bool) (t : BitVec 3) (d : BitVec 6) (a : BitVec 6) : Statement (.vclz p c t d a) := by
  intro rest _
  exact of_class2 p _ rest _ (wordV_cls ..) (by simp only [decodeInt, wordV_c, wordV_op, wordV_t, wordV_d, wordV_a, wordV_b]; rfl)

theorem vbext (p : Option Pre) (c : Bool) (d : BitVec 6) (a : BitVec 6) (b : BitVec 6) : Statement (.vbext p c d a b) := by
  intro rest _
  exact of_class2 p _ rest _ (wordV_cls ..) (by simp only [decodeInt, wordV_c, wordV_op, wordV_t, wordV_d, wordV_a, wordV_b]; rfl)

theorem vmov (p : Option Pre) (c : Bool) (t : BitVec 3) (d : BitVec 6) (a : BitVec 6) : Statement (.vmov p c t d a) := by
  intro rest _
  exact of_class2 p _ rest _ (wordV_cls ..) (by simp only [decodeInt, wordV_c, wordV_op, wordV_t, wordV_d, wordV_a, wordV_b]; rfl)

theorem vmovs (p : Option Pre) (c : Bool) (t : BitVec 3) (d : BitVec 6) (s : BitVec 6) : Statement (.vmovs p c t d s) := by
  intro rest _
  exact of_class2 p _ rest _ (wordV_cls ..) (by simp only [decodeInt, wordV_c, wordV_op, wordV_t, wordV_d, wordV_a, wordV_b]; rfl)

theorem vfadd (p : Option Pre) (c : Bool) (t : BitVec 3) (d : BitVec 6) (a : BitVec 6) (b : BitVec 6) : Statement (.vfadd p c t d a b) := by
  intro rest _
  exact of_class3 p _ rest _ (wordV_cls ..) (by simp only [decodeFloat, wordV_c, wordV_op, wordV_t, wordV_d, wordV_a, wordV_b]; rfl)

theorem vfaddS (p : Option Pre) (c : Bool) (t : BitVec 3) (d : BitVec 6) (a : BitVec 6) (s : BitVec 6) : Statement (.vfaddS p c t d a s) := by
  intro rest _
  exact of_class3 p _ rest _ (wordV_cls ..) (by simp only [decodeFloat, wordV_c, wordV_op, wordV_t, wordV_d, wordV_a, wordV_b]; rfl)

theorem vfsub (p : Option Pre) (c : Bool) (t : BitVec 3) (d : BitVec 6) (a : BitVec 6) (b : BitVec 6) : Statement (.vfsub p c t d a b) := by
  intro rest _
  exact of_class3 p _ rest _ (wordV_cls ..) (by simp only [decodeFloat, wordV_c, wordV_op, wordV_t, wordV_d, wordV_a, wordV_b]; rfl)

theorem vfsubS (p : Option Pre) (c : Bool) (t : BitVec 3) (d : BitVec 6) (a : BitVec 6) (s : BitVec 6) : Statement (.vfsubS p c t d a s) := by
  intro rest _
  exact of_class3 p _ rest _ (wordV_cls ..) (by simp only [decodeFloat, wordV_c, wordV_op, wordV_t, wordV_d, wordV_a, wordV_b]; rfl)

theorem vfmul (p : Option Pre) (c : Bool) (t : BitVec 3) (d : BitVec 6) (a : BitVec 6) (b : BitVec 6) : Statement (.vfmul p c t d a b) := by
  intro rest _
  exact of_class3 p _ rest _ (wordV_cls ..) (by simp only [decodeFloat, wordV_c, wordV_op, wordV_t, wordV_d, wordV_a, wordV_b]; rfl)

theorem vfmulS (p : Option Pre) (c : Bool) (t : BitVec 3) (d : BitVec 6) (a : BitVec 6) (s : BitVec 6) : Statement (.vfmulS p c t d a s) := by
  intro rest _
  exact of_class3 p _ rest _ (wordV_cls ..) (by simp only [decodeFloat, wordV_c, wordV_op, wordV_t, wordV_d, wordV_a, wordV_b]; rfl)

theorem vffma (p : Option Pre) (c : Bool) (t : BitVec 3) (d : BitVec 6) (a : BitVec 6) (b : BitVec 6) : Statement (.vffma p c t d a b) := by
  intro rest _
  exact of_class3 p _ rest _ (wordV_cls ..) (by simp only [decodeFloat, wordV_c, wordV_op, wordV_t, wordV_d, wordV_a, wordV_b]; rfl)

theorem vffmaS (p : Option Pre) (c : Bool) (t : BitVec 3) (d : BitVec 6) (a : BitVec 6) (s : BitVec 6) : Statement (.vffmaS p c t d a s) := by
  intro rest _
  exact of_class3 p _ rest _ (wordV_cls ..) (by simp only [decodeFloat, wordV_c, wordV_op, wordV_t, wordV_d, wordV_a, wordV_b]; rfl)

theorem vfmin (p : Option Pre) (c : Bool) (t : BitVec 3) (d : BitVec 6) (a : BitVec 6) (b : BitVec 6) : Statement (.vfmin p c t d a b) := by
  intro rest _
  exact of_class3 p _ rest _ (wordV_cls ..) (by simp only [decodeFloat, wordV_c, wordV_op, wordV_t, wordV_d, wordV_a, wordV_b]; rfl)

theorem vfminS (p : Option Pre) (c : Bool) (t : BitVec 3) (d : BitVec 6) (a : BitVec 6) (s : BitVec 6) : Statement (.vfminS p c t d a s) := by
  intro rest _
  exact of_class3 p _ rest _ (wordV_cls ..) (by simp only [decodeFloat, wordV_c, wordV_op, wordV_t, wordV_d, wordV_a, wordV_b]; rfl)

theorem vfmax (p : Option Pre) (c : Bool) (t : BitVec 3) (d : BitVec 6) (a : BitVec 6) (b : BitVec 6) : Statement (.vfmax p c t d a b) := by
  intro rest _
  exact of_class3 p _ rest _ (wordV_cls ..) (by simp only [decodeFloat, wordV_c, wordV_op, wordV_t, wordV_d, wordV_a, wordV_b]; rfl)

theorem vfmaxS (p : Option Pre) (c : Bool) (t : BitVec 3) (d : BitVec 6) (a : BitVec 6) (s : BitVec 6) : Statement (.vfmaxS p c t d a s) := by
  intro rest _
  exact of_class3 p _ rest _ (wordV_cls ..) (by simp only [decodeFloat, wordV_c, wordV_op, wordV_t, wordV_d, wordV_a, wordV_b]; rfl)

theorem vfabs (p : Option Pre) (c : Bool) (t : BitVec 3) (d : BitVec 6) (a : BitVec 6) : Statement (.vfabs p c t d a) := by
  intro rest _
  exact of_class3 p _ rest _ (wordV_cls ..) (by simp only [decodeFloat, wordV_c, wordV_op, wordV_t, wordV_d, wordV_a, wordV_b]; rfl)

theorem vfneg (p : Option Pre) (c : Bool) (t : BitVec 3) (d : BitVec 6) (a : BitVec 6) : Statement (.vfneg p c t d a) := by
  intro rest _
  exact of_class3 p _ rest _ (wordV_cls ..) (by simp only [decodeFloat, wordV_c, wordV_op, wordV_t, wordV_d, wordV_a, wordV_b]; rfl)

theorem vfdiv (p : Option Pre) (c : Bool) (t : BitVec 3) (d : BitVec 6) (a : BitVec 6) (b : BitVec 6) : Statement (.vfdiv p c t d a b) := by
  intro rest _
  exact of_class3 p _ rest _ (wordV_cls ..) (by simp only [decodeFloat, wordV_c, wordV_op, wordV_t, wordV_d, wordV_a, wordV_b]; rfl)

theorem vfscale (p : Option Pre) (c : Bool) (t : BitVec 3) (d : BitVec 6) (a : BitVec 6) (b : BitVec 6) : Statement (.vfscale p c t d a b) := by
  intro rest _
  exact of_class3 p _ rest _ (wordV_cls ..) (by simp only [decodeFloat, wordV_c, wordV_op, wordV_t, wordV_d, wordV_a, wordV_b]; rfl)

theorem vfround (p : Option Pre) (c : Bool) (t : BitVec 3) (d : BitVec 6) (a : BitVec 6) : Statement (.vfround p c t d a) := by
  intro rest _
  exact of_class3 p _ rest _ (wordV_cls ..) (by simp only [decodeFloat, wordV_c, wordV_op, wordV_t, wordV_d, wordV_a, wordV_b]; rfl)

theorem vfclass (p : Option Pre) (c : Bool) (t : BitVec 3) (d : BitVec 6) (a : BitVec 6) : Statement (.vfclass p c t d a) := by
  intro rest _
  exact of_class3 p _ rest _ (wordV_cls ..) (by simp only [decodeFloat, wordV_c, wordV_op, wordV_t, wordV_d, wordV_a, wordV_b]; rfl)

theorem vfcmpEq (p : Option Pre) (c : Bool) (t : BitVec 3) (m : BitVec 6) (a : BitVec 6) (b : BitVec 6) : Statement (.vfcmpEq p c t m a b) := by
  intro rest _
  exact of_class3 p _ rest _ (wordV_cls ..) (by simp only [decodeFloat, wordV_c, wordV_op, wordV_t, wordV_d, wordV_a, wordV_b]; rfl)

theorem vfcmpNe (p : Option Pre) (c : Bool) (t : BitVec 3) (m : BitVec 6) (a : BitVec 6) (b : BitVec 6) : Statement (.vfcmpNe p c t m a b) := by
  intro rest _
  exact of_class3 p _ rest _ (wordV_cls ..) (by simp only [decodeFloat, wordV_c, wordV_op, wordV_t, wordV_d, wordV_a, wordV_b]; rfl)

theorem vfcmpLt (p : Option Pre) (c : Bool) (t : BitVec 3) (m : BitVec 6) (a : BitVec 6) (b : BitVec 6) : Statement (.vfcmpLt p c t m a b) := by
  intro rest _
  exact of_class3 p _ rest _ (wordV_cls ..) (by simp only [decodeFloat, wordV_c, wordV_op, wordV_t, wordV_d, wordV_a, wordV_b]; rfl)

theorem vfcmpLe (p : Option Pre) (c : Bool) (t : BitVec 3) (m : BitVec 6) (a : BitVec 6) (b : BitVec 6) : Statement (.vfcmpLe p c t m a b) := by
  intro rest _
  exact of_class3 p _ rest _ (wordV_cls ..) (by simp only [decodeFloat, wordV_c, wordV_op, wordV_t, wordV_d, wordV_a, wordV_b]; rfl)

theorem vfcmpUn (p : Option Pre) (c : Bool) (t : BitVec 3) (m : BitVec 6) (a : BitVec 6) (b : BitVec 6) : Statement (.vfcmpUn p c t m a b) := by
  intro rest _
  exact of_class3 p _ rest _ (wordV_cls ..) (by simp only [decodeFloat, wordV_c, wordV_op, wordV_t, wordV_d, wordV_a, wordV_b]; rfl)

theorem vexp2 (p : Option Pre) (c : Bool) (t : BitVec 3) (d : BitVec 6) (a : BitVec 6) : Statement (.vexp2 p c t d a) := by
  intro rest _
  exact of_class4 p _ rest _ (wordV_cls ..) (by simp only [decodeSpecial, wordV_c, wordV_op, wordV_t, wordV_d, wordV_a, wordV_b]; rfl)

theorem vexp (p : Option Pre) (c : Bool) (t : BitVec 3) (d : BitVec 6) (a : BitVec 6) : Statement (.vexp p c t d a) := by
  intro rest _
  exact of_class4 p _ rest _ (wordV_cls ..) (by simp only [decodeSpecial, wordV_c, wordV_op, wordV_t, wordV_d, wordV_a, wordV_b]; rfl)

theorem vlog2 (p : Option Pre) (c : Bool) (t : BitVec 3) (d : BitVec 6) (a : BitVec 6) : Statement (.vlog2 p c t d a) := by
  intro rest _
  exact of_class4 p _ rest _ (wordV_cls ..) (by simp only [decodeSpecial, wordV_c, wordV_op, wordV_t, wordV_d, wordV_a, wordV_b]; rfl)

theorem vln (p : Option Pre) (c : Bool) (t : BitVec 3) (d : BitVec 6) (a : BitVec 6) : Statement (.vln p c t d a) := by
  intro rest _
  exact of_class4 p _ rest _ (wordV_cls ..) (by simp only [decodeSpecial, wordV_c, wordV_op, wordV_t, wordV_d, wordV_a, wordV_b]; rfl)

theorem vrcp (p : Option Pre) (c : Bool) (t : BitVec 3) (d : BitVec 6) (a : BitVec 6) : Statement (.vrcp p c t d a) := by
  intro rest _
  exact of_class4 p _ rest _ (wordV_cls ..) (by simp only [decodeSpecial, wordV_c, wordV_op, wordV_t, wordV_d, wordV_a, wordV_b]; rfl)

theorem vrsqrt (p : Option Pre) (c : Bool) (t : BitVec 3) (d : BitVec 6) (a : BitVec 6) : Statement (.vrsqrt p c t d a) := by
  intro rest _
  exact of_class4 p _ rest _ (wordV_cls ..) (by simp only [decodeSpecial, wordV_c, wordV_op, wordV_t, wordV_d, wordV_a, wordV_b]; rfl)

theorem vsqrt (p : Option Pre) (c : Bool) (t : BitVec 3) (d : BitVec 6) (a : BitVec 6) : Statement (.vsqrt p c t d a) := by
  intro rest _
  exact of_class4 p _ rest _ (wordV_cls ..) (by simp only [decodeSpecial, wordV_c, wordV_op, wordV_t, wordV_d, wordV_a, wordV_b]; rfl)

theorem vsin (p : Option Pre) (c : Bool) (t : BitVec 3) (d : BitVec 6) (a : BitVec 6) : Statement (.vsin p c t d a) := by
  intro rest _
  exact of_class4 p _ rest _ (wordV_cls ..) (by simp only [decodeSpecial, wordV_c, wordV_op, wordV_t, wordV_d, wordV_a, wordV_b]; rfl)

theorem vcos (p : Option Pre) (c : Bool) (t : BitVec 3) (d : BitVec 6) (a : BitVec 6) : Statement (.vcos p c t d a) := by
  intro rest _
  exact of_class4 p _ rest _ (wordV_cls ..) (by simp only [decodeSpecial, wordV_c, wordV_op, wordV_t, wordV_d, wordV_a, wordV_b]; rfl)

theorem vtanh (p : Option Pre) (c : Bool) (t : BitVec 3) (d : BitVec 6) (a : BitVec 6) : Statement (.vtanh p c t d a) := by
  intro rest _
  exact of_class4 p _ rest _ (wordV_cls ..) (by simp only [decodeSpecial, wordV_c, wordV_op, wordV_t, wordV_d, wordV_a, wordV_b]; rfl)

theorem vsigm (p : Option Pre) (c : Bool) (t : BitVec 3) (d : BitVec 6) (a : BitVec 6) : Statement (.vsigm p c t d a) := by
  intro rest _
  exact of_class4 p _ rest _ (wordV_cls ..) (by simp only [decodeSpecial, wordV_c, wordV_op, wordV_t, wordV_d, wordV_a, wordV_b]; rfl)

theorem verf (p : Option Pre) (c : Bool) (t : BitVec 3) (d : BitVec 6) (a : BitVec 6) : Statement (.verf p c t d a) := by
  intro rest _
  exact of_class4 p _ rest _ (wordV_cls ..) (by simp only [decodeSpecial, wordV_c, wordV_op, wordV_t, wordV_d, wordV_a, wordV_b]; rfl)

theorem vexp2Acc (p : Option Pre) (c : Bool) (t : BitVec 3) (d : BitVec 6) (a : BitVec 6) : Statement (.vexp2Acc p c t d a) := by
  intro rest _
  exact of_class4 p _ rest _ (wordV_cls ..) (by simp only [decodeSpecial, wordV_c, wordV_op, wordV_t, wordV_d, wordV_a, wordV_b]; rfl)

theorem vexpAcc (p : Option Pre) (c : Bool) (t : BitVec 3) (d : BitVec 6) (a : BitVec 6) : Statement (.vexpAcc p c t d a) := by
  intro rest _
  exact of_class4 p _ rest _ (wordV_cls ..) (by simp only [decodeSpecial, wordV_c, wordV_op, wordV_t, wordV_d, wordV_a, wordV_b]; rfl)

theorem vlog2Acc (p : Option Pre) (c : Bool) (t : BitVec 3) (d : BitVec 6) (a : BitVec 6) : Statement (.vlog2Acc p c t d a) := by
  intro rest _
  exact of_class4 p _ rest _ (wordV_cls ..) (by simp only [decodeSpecial, wordV_c, wordV_op, wordV_t, wordV_d, wordV_a, wordV_b]; rfl)

theorem vlnAcc (p : Option Pre) (c : Bool) (t : BitVec 3) (d : BitVec 6) (a : BitVec 6) : Statement (.vlnAcc p c t d a) := by
  intro rest _
  exact of_class4 p _ rest _ (wordV_cls ..) (by simp only [decodeSpecial, wordV_c, wordV_op, wordV_t, wordV_d, wordV_a, wordV_b]; rfl)

theorem vrcpAcc (p : Option Pre) (c : Bool) (t : BitVec 3) (d : BitVec 6) (a : BitVec 6) : Statement (.vrcpAcc p c t d a) := by
  intro rest _
  exact of_class4 p _ rest _ (wordV_cls ..) (by simp only [decodeSpecial, wordV_c, wordV_op, wordV_t, wordV_d, wordV_a, wordV_b]; rfl)

theorem vrsqrtAcc (p : Option Pre) (c : Bool) (t : BitVec 3) (d : BitVec 6) (a : BitVec 6) : Statement (.vrsqrtAcc p c t d a) := by
  intro rest _
  exact of_class4 p _ rest _ (wordV_cls ..) (by simp only [decodeSpecial, wordV_c, wordV_op, wordV_t, wordV_d, wordV_a, wordV_b]; rfl)

theorem vsqrtAcc (p : Option Pre) (c : Bool) (t : BitVec 3) (d : BitVec 6) (a : BitVec 6) : Statement (.vsqrtAcc p c t d a) := by
  intro rest _
  exact of_class4 p _ rest _ (wordV_cls ..) (by simp only [decodeSpecial, wordV_c, wordV_op, wordV_t, wordV_d, wordV_a, wordV_b]; rfl)

theorem vsinAcc (p : Option Pre) (c : Bool) (t : BitVec 3) (d : BitVec 6) (a : BitVec 6) : Statement (.vsinAcc p c t d a) := by
  intro rest _
  exact of_class4 p _ rest _ (wordV_cls ..) (by simp only [decodeSpecial, wordV_c, wordV_op, wordV_t, wordV_d, wordV_a, wordV_b]; rfl)

theorem vcosAcc (p : Option Pre) (c : Bool) (t : BitVec 3) (d : BitVec 6) (a : BitVec 6) : Statement (.vcosAcc p c t d a) := by
  intro rest _
  exact of_class4 p _ rest _ (wordV_cls ..) (by simp only [decodeSpecial, wordV_c, wordV_op, wordV_t, wordV_d, wordV_a, wordV_b]; rfl)

theorem vtanhAcc (p : Option Pre) (c : Bool) (t : BitVec 3) (d : BitVec 6) (a : BitVec 6) : Statement (.vtanhAcc p c t d a) := by
  intro rest _
  exact of_class4 p _ rest _ (wordV_cls ..) (by simp only [decodeSpecial, wordV_c, wordV_op, wordV_t, wordV_d, wordV_a, wordV_b]; rfl)

theorem vsigmAcc (p : Option Pre) (c : Bool) (t : BitVec 3) (d : BitVec 6) (a : BitVec 6) : Statement (.vsigmAcc p c t d a) := by
  intro rest _
  exact of_class4 p _ rest _ (wordV_cls ..) (by simp only [decodeSpecial, wordV_c, wordV_op, wordV_t, wordV_d, wordV_a, wordV_b]; rfl)

theorem verfAcc (p : Option Pre) (c : Bool) (t : BitVec 3) (d : BitVec 6) (a : BitVec 6) : Statement (.verfAcc p c t d a) := by
  intro rest _
  exact of_class4 p _ rest _ (wordV_cls ..) (by simp only [decodeSpecial, wordV_c, wordV_op, wordV_t, wordV_d, wordV_a, wordV_b]; rfl)

theorem vcvt (p : Option Pre) (c : Bool) (t : BitVec 3) (d : BitVec 6) (a : BitVec 6) (k : BitVec 3) : Statement (.vcvt p c t d a k) := by
  intro rest _
  have he0 : (wordV 4 c 16#6 t d a (0#3 ++ k)).extractLsb' 0 3 = k := by
    rw [extract_part _ 0 6 0 3 (by decide), wordV_b]
    exact extract_low _ _
  have he3 : (wordV 4 c 16#6 t d a (0#3 ++ k)).extractLsb' 3 3 = 0#3 := by
    rw [extract_part _ 0 6 3 3 (by decide), wordV_b]
    rw [extract_high (h := by decide)]
    exact BitVec.extractLsb'_eq_self
  exact of_class4 p _ rest _ (wordV_cls ..) (by simp only [decodeSpecial, wordV_c, wordV_op, wordV_t, wordV_d, wordV_a, wordV_b, he0, he3]; rfl)

theorem vqcvt (p : Option Pre) (c : Bool) (g : BitVec 2) (s : Bool) (d : BitVec 6) (a : BitVec 6) (b : BitVec 6) : Statement (.vqcvt p c g s d a b) := by
  intro rest _
  have he18 : (wordV 4 c 17#6 (g ++ BitVec.ofBool s) d a b).extractLsb' 18 1 = BitVec.ofBool s := by
    rw [extract_part _ 18 3 0 1 (by decide), wordV_t]
    exact extract_low _ _
  have hb18 : (wordV 4 c 17#6 (g ++ BitVec.ofBool s) d a b).getLsbD 18 = s := bit_of_field _ _ _ he18
  have he19 : (wordV 4 c 17#6 (g ++ BitVec.ofBool s) d a b).extractLsb' 19 2 = g := by
    rw [extract_part _ 18 3 1 2 (by decide), wordV_t]
    rw [extract_high (h := by decide)]
    exact BitVec.extractLsb'_eq_self
  exact of_class4 p _ rest _ (wordV_cls ..) (by simp only [decodeSpecial, wordV_c, wordV_op, wordV_t, wordV_d, wordV_a, wordV_b, he18, hb18, he19]; rfl)

theorem vdqcvt (p : Option Pre) (c : Bool) (g : BitVec 2) (s : Bool) (d : BitVec 6) (a : BitVec 6) (b : BitVec 6) : Statement (.vdqcvt p c g s d a b) := by
  intro rest _
  have he18 : (wordV 4 c 18#6 (g ++ BitVec.ofBool s) d a b).extractLsb' 18 1 = BitVec.ofBool s := by
    rw [extract_part _ 18 3 0 1 (by decide), wordV_t]
    exact extract_low _ _
  have hb18 : (wordV 4 c 18#6 (g ++ BitVec.ofBool s) d a b).getLsbD 18 = s := bit_of_field _ _ _ he18
  have he19 : (wordV 4 c 18#6 (g ++ BitVec.ofBool s) d a b).extractLsb' 19 2 = g := by
    rw [extract_part _ 18 3 1 2 (by decide), wordV_t]
    rw [extract_high (h := by decide)]
    exact BitVec.extractLsb'_eq_self
  exact of_class4 p _ rest _ (wordV_cls ..) (by simp only [decodeSpecial, wordV_c, wordV_op, wordV_t, wordV_d, wordV_a, wordV_b, he18, hb18, he19]; rfl)

theorem vpackBp (p : Option Pre) (c : Bool) (d : BitVec 6) (a : BitVec 6) (i : BitVec 6) : Statement (.vpackBp p c d a i) := by
  intro rest _
  exact of_class4 p _ rest _ (wordV_cls ..) (by simp only [decodeSpecial, wordV_c, wordV_op, wordV_t, wordV_d, wordV_a, wordV_b]; rfl)

theorem vunpackBp (p : Option Pre) (c : Bool) (d : BitVec 6) (a : BitVec 6) (i : BitVec 6) : Statement (.vunpackBp p c d a i) := by
  intro rest _
  exact of_class4 p _ rest _ (wordV_cls ..) (by simp only [decodeSpecial, wordV_c, wordV_op, wordV_t, wordV_d, wordV_a, wordV_b]; rfl)

theorem shfl (p : Option Pre) (c : Bool) (t : BitVec 3) (d : BitVec 6) (a : BitVec 6) (b : BitVec 6) : Statement (.shfl p c t d a b) := by
  intro rest _
  exact of_class5 p _ rest _ (wordV_cls ..) (by simp only [decodeCross, wordV_c, wordV_op, wordV_t, wordV_d, wordV_a, wordV_b]; rfl)

theorem shflUp (p : Option Pre) (c : Bool) (t : BitVec 3) (d : BitVec 6) (a : BitVec 6) (i : BitVec 6) : Statement (.shflUp p c t d a i) := by
  intro rest _
  exact of_class5 p _ rest _ (wordV_cls ..) (by simp only [decodeCross, wordV_c, wordV_op, wordV_t, wordV_d, wordV_a, wordV_b]; rfl)

theorem shflDn (p : Option Pre) (c : Bool) (t : BitVec 3) (d : BitVec 6) (a : BitVec 6) (i : BitVec 6) : Statement (.shflDn p c t d a i) := by
  intro rest _
  exact of_class5 p _ rest _ (wordV_cls ..) (by simp only [decodeCross, wordV_c, wordV_op, wordV_t, wordV_d, wordV_a, wordV_b]; rfl)

theorem shflX (p : Option Pre) (c : Bool) (t : BitVec 3) (d : BitVec 6) (a : BitVec 6) (i : BitVec 6) : Statement (.shflX p c t d a i) := by
  intro rest _
  exact of_class5 p _ rest _ (wordV_cls ..) (by simp only [decodeCross, wordV_c, wordV_op, wordV_t, wordV_d, wordV_a, wordV_b]; rfl)

theorem shflUpS (p : Option Pre) (c : Bool) (t : BitVec 3) (d : BitVec 6) (a : BitVec 6) (s : BitVec 6) : Statement (.shflUpS p c t d a s) := by
  intro rest _
  exact of_class5 p _ rest _ (wordV_cls ..) (by simp only [decodeCross, wordV_c, wordV_op, wordV_t, wordV_d, wordV_a, wordV_b]; rfl)

theorem shflDnS (p : Option Pre) (c : Bool) (t : BitVec 3) (d : BitVec 6) (a : BitVec 6) (s : BitVec 6) : Statement (.shflDnS p c t d a s) := by
  intro rest _
  exact of_class5 p _ rest _ (wordV_cls ..) (by simp only [decodeCross, wordV_c, wordV_op, wordV_t, wordV_d, wordV_a, wordV_b]; rfl)

theorem shflXS (p : Option Pre) (c : Bool) (t : BitVec 3) (d : BitVec 6) (a : BitVec 6) (s : BitVec 6) : Statement (.shflXS p c t d a s) := by
  intro rest _
  exact of_class5 p _ rest _ (wordV_cls ..) (by simp only [decodeCross, wordV_c, wordV_op, wordV_t, wordV_d, wordV_a, wordV_b]; rfl)

theorem voteAny (p : Option Pre) (c : Bool) (d : BitVec 6) (a : BitVec 6) : Statement (.voteAny p c d a) := by
  intro rest _
  exact of_class5 p _ rest _ (wordV_cls ..) (by simp only [decodeCross, wordV_c, wordV_op, wordV_t, wordV_d, wordV_a, wordV_b]; rfl)

theorem voteAll (p : Option Pre) (c : Bool) (d : BitVec 6) (a : BitVec 6) : Statement (.voteAll p c d a) := by
  intro rest _
  exact of_class5 p _ rest _ (wordV_cls ..) (by simp only [decodeCross, wordV_c, wordV_op, wordV_t, wordV_d, wordV_a, wordV_b]; rfl)

theorem ballot (p : Option Pre) (c : Bool) (d : BitVec 6) (a : BitVec 6) : Statement (.ballot p c d a) := by
  intro rest _
  exact of_class5 p _ rest _ (wordV_cls ..) (by simp only [decodeCross, wordV_c, wordV_op, wordV_t, wordV_d, wordV_a, wordV_b]; rfl)

theorem vscan (p : Option Pre) (c : Bool) (t : BitVec 3) (d : BitVec 6) (a : BitVec 6) (x : Bool) (o : BitVec 3) : Statement (.vscan p c t d a x o) := by
  intro rest _
  have he0 : (wordV 5 c 16#6 t d a (0#2 ++ BitVec.ofBool x ++ o)).extractLsb' 0 3 = o := by
    rw [extract_part _ 0 6 0 3 (by decide), wordV_b]
    exact extract_low _ _
  have he3 : (wordV 5 c 16#6 t d a (0#2 ++ BitVec.ofBool x ++ o)).extractLsb' 3 1 = BitVec.ofBool x := by
    rw [extract_part _ 0 6 3 1 (by decide), wordV_b]
    rw [extract_high (h := by decide)]
    exact extract_low _ _
  have hb3 : (wordV 5 c 16#6 t d a (0#2 ++ BitVec.ofBool x ++ o)).getLsbD 3 = x := bit_of_field _ _ _ he3
  have he4 : (wordV 5 c 16#6 t d a (0#2 ++ BitVec.ofBool x ++ o)).extractLsb' 4 2 = 0#2 := by
    rw [extract_part _ 0 6 4 2 (by decide), wordV_b]
    rw [extract_high (h := by decide)]; rw [extract_high (h := by decide)]
    exact BitVec.extractLsb'_eq_self
  exact of_class5 p _ rest _ (wordV_cls ..) (by simp only [decodeCross, wordV_c, wordV_op, wordV_t, wordV_d, wordV_a, wordV_b, he0, he3, hb3, he4]; rfl)

theorem vred (p : Option Pre) (c : Bool) (t : BitVec 3) (d : BitVec 6) (a : BitVec 6) (o : BitVec 3) :
    Statement (.vred p c t d a o) := by
  intro rest _
  have he0 : (wordV 5 c 18#6 t d a (0#3 ++ o)).extractLsb' 0 3 = o := by
    rw [extract_part _ 0 6 0 3 (by decide), wordV_b]
    exact extract_low _ _
  have hb3 : (wordV 5 c 18#6 t d a (0#3 ++ o)).getLsbD 3 = false := by
    rw [bit_part _ 0 6 3 (by decide), wordV_b, bit_high (h := by decide)]
    rfl
  have he4 : (wordV 5 c 18#6 t d a (0#3 ++ o)).extractLsb' 4 2 = 0#2 := by
    rw [extract_part _ 0 6 4 2 (by decide), wordV_b, extract_high (h := by decide)]
    rfl
  exact of_class5 p _ rest _ (wordV_cls ..)
    (by simp only [decodeCross, wordV_c, wordV_op, wordV_t, wordV_d, wordV_a, he0, hb3, he4]; rfl)

theorem vcarry (p : Option Pre) (c : Bool) (d : BitVec 6) (a : BitVec 6) (b : BitVec 6) : Statement (.vcarry p c d a b) := by
  intro rest _
  exact of_class5 p _ rest _ (wordV_cls ..) (by simp only [decodeCross, wordV_c, wordV_op, wordV_t, wordV_d, wordV_a, wordV_b]; rfl)

theorem ssi (p : Option Pre) (c : Bool) (d : BitVec 6) (a : BitVec 6) (b : BitVec 6) : Statement (.ssi p c d a b) := by
  intro rest _
  exact of_class5 p _ rest _ (wordV_cls ..) (by simp only [decodeCross, wordV_c, wordV_op, wordV_t, wordV_d, wordV_a, wordV_b]; rfl)

theorem vlane (p : Option Pre) (c : Bool) (d : BitVec 6) : Statement (.vlane p c d) := by
  intro rest _
  exact of_class5 p _ rest _ (wordV_cls ..) (by simp only [decodeCross, wordV_c, wordV_op, wordV_t, wordV_d, wordV_a, wordV_b]; rfl)

theorem badd (c : Bool) (d : BitVec 6) (a : BitVec 6) (b : BitVec 6) : Statement (.badd c d a b) := by
  intro rest _
  exact of_class6 _ rest _ (wordV_cls ..) (by simp only [decodeBig, wordV_c, wordV_op, wordV_t, wordV_d, wordV_a, wordV_b]; rfl)

theorem bsub (c : Bool) (d : BitVec 6) (a : BitVec 6) (b : BitVec 6) : Statement (.bsub c d a b) := by
  intro rest _
  exact of_class6 _ rest _ (wordV_cls ..) (by simp only [decodeBig, wordV_c, wordV_op, wordV_t, wordV_d, wordV_a, wordV_b]; rfl)

theorem bneg (c : Bool) (d : BitVec 6) (a : BitVec 6) : Statement (.bneg c d a) := by
  intro rest _
  exact of_class6 _ rest _ (wordV_cls ..) (by simp only [decodeBig, wordV_c, wordV_op, wordV_t, wordV_d, wordV_a, wordV_b]; rfl)

theorem babs (c : Bool) (d : BitVec 6) (a : BitVec 6) : Statement (.babs c d a) := by
  intro rest _
  exact of_class6 _ rest _ (wordV_cls ..) (by simp only [decodeBig, wordV_c, wordV_op, wordV_t, wordV_d, wordV_a, wordV_b]; rfl)

theorem bcmp (c : Bool) (d : BitVec 6) (a : BitVec 6) (b : BitVec 6) : Statement (.bcmp c d a b) := by
  intro rest _
  exact of_class6 _ rest _ (wordV_cls ..) (by simp only [decodeBig, wordV_c, wordV_op, wordV_t, wordV_d, wordV_a, wordV_b]; rfl)

theorem bshl (c : Bool) (d : BitVec 6) (a : BitVec 6) (s : BitVec 6) : Statement (.bshl c d a s) := by
  intro rest _
  exact of_class6 _ rest _ (wordV_cls ..) (by simp only [decodeBig, wordV_c, wordV_op, wordV_t, wordV_d, wordV_a, wordV_b]; rfl)

theorem bshlI (c : Bool) (d : BitVec 6) (a : BitVec 6) (i : BitVec 6) : Statement (.bshlI c d a i) := by
  intro rest _
  exact of_class6 _ rest _ (wordV_cls ..) (by simp only [decodeBig, wordV_c, wordV_op, wordV_t, wordV_d, wordV_a, wordV_b]; rfl)

theorem bshr (c : Bool) (d : BitVec 6) (a : BitVec 6) (s : BitVec 6) : Statement (.bshr c d a s) := by
  intro rest _
  exact of_class6 _ rest _ (wordV_cls ..) (by simp only [decodeBig, wordV_c, wordV_op, wordV_t, wordV_d, wordV_a, wordV_b]; rfl)

theorem bshrI (c : Bool) (d : BitVec 6) (a : BitVec 6) (i : BitVec 6) : Statement (.bshrI c d a i) := by
  intro rest _
  exact of_class6 _ rest _ (wordV_cls ..) (by simp only [decodeBig, wordV_c, wordV_op, wordV_t, wordV_d, wordV_a, wordV_b]; rfl)

theorem bmult (c : Bool) (d : BitVec 6) (a : BitVec 6) (b : BitVec 6) : Statement (.bmult c d a b) := by
  intro rest _
  exact of_class6 _ rest _ (wordV_cls ..) (by simp only [decodeBig, wordV_c, wordV_op, wordV_t, wordV_d, wordV_a, wordV_b]; rfl)

theorem bcres (c : Bool) (d : BitVec 6) (a : BitVec 6) : Statement (.bcres c d a) := by
  intro rest _
  exact of_class6 _ rest _ (wordV_cls ..) (by simp only [decodeBig, wordV_c, wordV_op, wordV_t, wordV_d, wordV_a, wordV_b]; rfl)

theorem bdiv (c : Bool) (d : BitVec 6) (a : BitVec 6) (b : BitVec 6) : Statement (.bdiv c d a b) := by
  intro rest _
  exact of_class6 _ rest _ (wordV_cls ..) (by simp only [decodeBig, wordV_c, wordV_op, wordV_t, wordV_d, wordV_a, wordV_b]; rfl)

theorem bmodb (c : Bool) (d : BitVec 6) (a : BitVec 6) (b : BitVec 6) : Statement (.bmodb c d a b) := by
  intro rest _
  exact of_class6 _ rest _ (wordV_cls ..) (by simp only [decodeBig, wordV_c, wordV_op, wordV_t, wordV_d, wordV_a, wordV_b]; rfl)

theorem bnorm (c : Bool) (d : BitVec 6) (a : BitVec 6) : Statement (.bnorm c d a) := by
  intro rest _
  exact of_class6 _ rest _ (wordV_cls ..) (by simp only [decodeBig, wordV_c, wordV_op, wordV_t, wordV_d, wordV_a, wordV_b]; rfl)

theorem blen (c : Bool) (d : BitVec 6) (a : BitVec 6) : Statement (.blen c d a) := by
  intro rest _
  exact of_class6 _ rest _ (wordV_cls ..) (by simp only [decodeBig, wordV_c, wordV_op, wordV_t, wordV_d, wordV_a, wordV_b]; rfl)

theorem bspill (c : Bool) (a : BitVec 6) (b : BitVec 6) : Statement (.bspill c a b) := by
  intro rest _
  exact of_class6 _ rest _ (wordV_cls ..) (by simp only [decodeBig, wordV_c, wordV_op, wordV_t, wordV_d, wordV_a, wordV_b]; rfl)

theorem bfill (c : Bool) (d : BitVec 6) (b : BitVec 6) : Statement (.bfill c d b) := by
  intro rest _
  exact of_class6 _ rest _ (wordV_cls ..) (by simp only [decodeBig, wordV_c, wordV_op, wordV_t, wordV_d, wordV_a, wordV_b]; rfl)

theorem bladd (c : Bool) (d : BitVec 6) (a : BitVec 6) (b : BitVec 6) : Statement (.bladd c d a b) := by
  intro rest _
  exact of_class6 _ rest _ (wordV_cls ..) (by simp only [decodeBig, wordV_c, wordV_op, wordV_t, wordV_d, wordV_a, wordV_b]; rfl)

theorem blsub (c : Bool) (d : BitVec 6) (a : BitVec 6) (b : BitVec 6) : Statement (.blsub c d a b) := by
  intro rest _
  exact of_class6 _ rest _ (wordV_cls ..) (by simp only [decodeBig, wordV_c, wordV_op, wordV_t, wordV_d, wordV_a, wordV_b]; rfl)

theorem blmul (c : Bool) (d : BitVec 6) (a : BitVec 6) (b : BitVec 6) : Statement (.blmul c d a b) := by
  intro rest _
  exact of_class6 _ rest _ (wordV_cls ..) (by simp only [decodeBig, wordV_c, wordV_op, wordV_t, wordV_d, wordV_a, wordV_b]; rfl)

theorem blcmp (c : Bool) (d : BitVec 6) (a : BitVec 6) (b : BitVec 6) : Statement (.blcmp c d a b) := by
  intro rest _
  exact of_class6 _ rest _ (wordV_cls ..) (by simp only [decodeBig, wordV_c, wordV_op, wordV_t, wordV_d, wordV_a, wordV_b]; rfl)

theorem blshift (c : Bool) (d : BitVec 6) (a : BitVec 6) (b : BitVec 6) : Statement (.blshift c d a b) := by
  intro rest _
  exact of_class6 _ rest _ (wordV_cls ..) (by simp only [decodeBig, wordV_c, wordV_op, wordV_t, wordV_d, wordV_a, wordV_b]; rfl)

theorem dotx (c : Bool) (d : BitVec 6) (a : BitVec 6) (b : BitVec 6) : Statement (.dotx c d a b) := by
  intro rest _
  exact of_class6 _ rest _ (wordV_cls ..) (by simp only [decodeBig, wordV_c, wordV_op, wordV_t, wordV_d, wordV_a, wordV_b]; rfl)

theorem xround (c : Bool) (d : BitVec 6) (a : BitVec 6) : Statement (.xround c d a) := by
  intro rest _
  exact of_class6 _ rest _ (wordV_cls ..) (by simp only [decodeBig, wordV_c, wordV_op, wordV_t, wordV_d, wordV_a, wordV_b]; rfl)

theorem bcvt (c : Bool) (d : BitVec 6) (s : BitVec 6) : Statement (.bcvt c d s) := by
  intro rest _
  exact of_class6 _ rest _ (wordV_cls ..) (by simp only [decodeBig, wordV_c, wordV_op, wordV_t, wordV_d, wordV_a, wordV_b]; rfl)

theorem mma (c : Bool) (a : BitVec 6) (b : BitVec 6) (acc : BitVec 4) (p : BitVec 3) (q : BitVec 4) : Statement (.mma c a b acc p q) := by
  intro rest _
  exact of_class7 _ rest _ (wordT_cls ..) (by simp only [decodeTile, wordT_c, wordT_op, wordT_a, wordT_b, wordT_acc, wordT_p, wordT_q]; rfl)

theorem mmai (c : Bool) (a : BitVec 6) (b : BitVec 6) (acc : BitVec 4) (q : BitVec 4) : Statement (.mmai c a b acc q) := by
  intro rest _
  exact of_class7 _ rest _ (wordT_cls ..) (by simp only [decodeTile, wordT_c, wordT_op, wordT_a, wordT_b, wordT_acc, wordT_p, wordT_q]; rfl)

theorem tshape (c : Bool) (a : BitVec 6) (b : BitVec 6) : Statement (.tshape c a b) := by
  intro rest _
  exact of_class7 _ rest _ (wordTX_cls ..) (by simp only [decodeTile, wordTX_c, wordTX_op, wordTX_fa, wordTX_fb, wordTX_fc, wordTX_g]; rfl)

theorem tload (c : Bool) (a : BitVec 6) (b : BitVec 6) (f : BitVec 6) (s : BitVec 3) : Statement (.tload c a b f s) := by
  intro rest _
  have he0 : (wordTX 7 c 3#4 a b f (0#2 ++ s)).extractLsb' 0 3 = s := by
    rw [extract_part _ 0 5 0 3 (by decide), wordTX_g]
    exact extract_low _ _
  have he3 : (wordTX 7 c 3#4 a b f (0#2 ++ s)).extractLsb' 3 2 = 0#2 := by
    rw [extract_part _ 0 5 3 2 (by decide), wordTX_g]
    rw [extract_high (h := by decide)]
    exact BitVec.extractLsb'_eq_self
  exact of_class7 _ rest _ (wordTX_cls ..) (by simp only [decodeTile, wordTX_c, wordTX_op, wordTX_fa, wordTX_fb, wordTX_fc, wordTX_g, he0, he3]; rfl)

theorem tstore (c : Bool) (a : BitVec 6) (b : BitVec 6) (f : BitVec 6) (s : BitVec 3) : Statement (.tstore c a b f s) := by
  intro rest _
  have he0 : (wordTX 7 c 4#4 a b f (0#2 ++ s)).extractLsb' 0 3 = s := by
    rw [extract_part _ 0 5 0 3 (by decide), wordTX_g]
    exact extract_low _ _
  have he3 : (wordTX 7 c 4#4 a b f (0#2 ++ s)).extractLsb' 3 2 = 0#2 := by
    rw [extract_part _ 0 5 3 2 (by decide), wordTX_g]
    rw [extract_high (h := by decide)]
    exact BitVec.extractLsb'_eq_self
  exact of_class7 _ rest _ (wordTX_cls ..) (by simp only [decodeTile, wordTX_c, wordTX_op, wordTX_fa, wordTX_fb, wordTX_fc, wordTX_g, he0, he3]; rfl)

theorem tzero (c : Bool) (a : BitVec 6) (k : Bool) : Statement (.tzero c a k) := by
  intro rest _
  have he0 : (wordTX 7 c 5#4 a 0#6 0#6 (0#4 ++ BitVec.ofBool k)).extractLsb' 0 1 = BitVec.ofBool k := by
    rw [extract_part _ 0 5 0 1 (by decide), wordTX_g]
    exact extract_low _ _
  have hb0 : (wordTX 7 c 5#4 a 0#6 0#6 (0#4 ++ BitVec.ofBool k)).getLsbD 0 = k := bit_of_field _ _ _ he0
  have he1 : (wordTX 7 c 5#4 a 0#6 0#6 (0#4 ++ BitVec.ofBool k)).extractLsb' 1 4 = 0#4 := by
    rw [extract_part _ 0 5 1 4 (by decide), wordTX_g]
    rw [extract_high (h := by decide)]
    exact BitVec.extractLsb'_eq_self
  exact of_class7 _ rest _ (wordTX_cls ..) (by simp only [decodeTile, wordTX_c, wordTX_op, wordTX_fa, wordTX_fb, wordTX_fc, wordTX_g, he0, hb0, he1]; rfl)

theorem mprom (c : Bool) (a : BitVec 6) : Statement (.mprom c a) := by
  intro rest _
  exact of_class7 _ rest _ (wordTX_cls ..) (by simp only [decodeTile, wordTX_c, wordTX_op, wordTX_fa, wordTX_fb, wordTX_fc, wordTX_g]; rfl)

theorem tdrain (c : Bool) (a : BitVec 6) (b : BitVec 6) (f : BitVec 6) (s : BitVec 3) : Statement (.tdrain c a b f s) := by
  intro rest _
  have he0 : (wordTX 7 c 7#4 a b f (0#2 ++ s)).extractLsb' 0 3 = s := by
    rw [extract_part _ 0 5 0 3 (by decide), wordTX_g]
    exact extract_low _ _
  have he3 : (wordTX 7 c 7#4 a b f (0#2 ++ s)).extractLsb' 3 2 = 0#2 := by
    rw [extract_part _ 0 5 3 2 (by decide), wordTX_g]
    rw [extract_high (h := by decide)]
    exact BitVec.extractLsb'_eq_self
  exact of_class7 _ rest _ (wordTX_cls ..) (by simp only [decodeTile, wordTX_c, wordTX_op, wordTX_fa, wordTX_fb, wordTX_fc, wordTX_g, he0, he3]; rfl)

theorem tdrainRed (c : Bool) (a : BitVec 6) (b : BitVec 6) (f : BitVec 6) (s : BitVec 3) : Statement (.tdrainRed c a b f s) := by
  intro rest _
  have he0 : (wordTX 7 c 8#4 a b f (0#2 ++ s)).extractLsb' 0 3 = s := by
    rw [extract_part _ 0 5 0 3 (by decide), wordTX_g]
    exact extract_low _ _
  have he3 : (wordTX 7 c 8#4 a b f (0#2 ++ s)).extractLsb' 3 2 = 0#2 := by
    rw [extract_part _ 0 5 3 2 (by decide), wordTX_g]
    rw [extract_high (h := by decide)]
    exact BitVec.extractLsb'_eq_self
  exact of_class7 _ rest _ (wordTX_cls ..) (by simp only [decodeTile, wordTX_c, wordTX_op, wordTX_fa, wordTX_fb, wordTX_fc, wordTX_g, he0, he3]; rfl)

theorem txpose (c : Bool) (a : BitVec 6) (b : BitVec 6) : Statement (.txpose c a b) := by
  intro rest _
  exact of_class7 _ rest _ (wordTX_cls ..) (by simp only [decodeTile, wordTX_c, wordTX_op, wordTX_fa, wordTX_fb, wordTX_fc, wordTX_g]; rfl)

theorem tscale (c : Bool) (a : BitVec 6) (b : BitVec 6) : Statement (.tscale c a b) := by
  intro rest _
  exact of_class7 _ rest _ (wordTX_cls ..) (by simp only [decodeTile, wordTX_c, wordTX_op, wordTX_fa, wordTX_fb, wordTX_fc, wordTX_g]; rfl)

theorem ttask (c : Bool) (d : BitVec 6) (a : BitVec 6) (s : BitVec 3) : Statement (.ttask c d a s) := by
  intro rest _
  have he0 : (wordTX 7 c 11#4 d a 0#6 (0#2 ++ s)).extractLsb' 0 3 = s := by
    rw [extract_part _ 0 5 0 3 (by decide), wordTX_g]
    exact extract_low _ _
  have he3 : (wordTX 7 c 11#4 d a 0#6 (0#2 ++ s)).extractLsb' 3 2 = 0#2 := by
    rw [extract_part _ 0 5 3 2 (by decide), wordTX_g]
    rw [extract_high (h := by decide)]
    exact BitVec.extractLsb'_eq_self
  exact of_class7 _ rest _ (wordTX_cls ..) (by simp only [decodeTile, wordTX_c, wordTX_op, wordTX_fa, wordTX_fb, wordTX_fc, wordTX_g, he0, he3]; rfl)

theorem spmv (c : Bool) (d : BitVec 6) (a : BitVec 6) (b : BitVec 6) : Statement (.spmv c d a b) := by
  intro rest _
  exact of_class7 _ rest _ (wordTX_cls ..) (by simp only [decodeTile, wordTX_c, wordTX_op, wordTX_fa, wordTX_fb, wordTX_fc, wordTX_g]; rfl)

theorem sptrsv (c : Bool) (d : BitVec 6) (a : BitVec 6) (b : BitVec 6) : Statement (.sptrsv c d a b) := by
  intro rest _
  exact of_class7 _ rest _ (wordTX_cls ..) (by simp only [decodeTile, wordTX_c, wordTX_op, wordTX_fa, wordTX_fb, wordTX_fc, wordTX_g]; rfl)

theorem reinsTake (c : Bool) : Statement (.reinsTake c) := by
  intro rest _
  exact of_class7 _ rest _ (wordTX_cls ..) (by simp only [decodeTile, wordTX_c, wordTX_op, wordTX_fa, wordTX_fb, wordTX_fc, wordTX_g]; rfl)

theorem reinsPass (c : Bool) (a : BitVec 6) : Statement (.reinsPass c a) := by
  intro rest _
  exact of_class7 _ rest _ (wordTX_cls ..) (by simp only [decodeTile, wordTX_c, wordTX_op, wordTX_fa, wordTX_fb, wordTX_fc, wordTX_g]; rfl)

theorem reinsPassNext (c : Bool) : Statement (.reinsPassNext c) := by
  intro rest _
  exact of_class7 _ rest _ (wordTX_cls ..) (by simp only [decodeTile, wordTX_c, wordTX_op, wordTX_fa, wordTX_fb, wordTX_fc, wordTX_g]; rfl)

theorem reinsQuery (c : Bool) (d : BitVec 6) : Statement (.reinsQuery c d) := by
  intro rest _
  exact of_class7 _ rest _ (wordTX_cls ..) (by simp only [decodeTile, wordTX_c, wordTX_op, wordTX_fa, wordTX_fb, wordTX_fc, wordTX_g]; rfl)

theorem reinsGrant (k : CoreId) : Statement (.reinsGrant k) := fun _ h => absurd rfl h

theorem ld (p : Option Pre) (c : Bool) (s : BitVec 3) (d : BitVec 6) (a : BitVec 6) (b : BitVec 6) (l : BitVec 2) : Statement (.ld p c s d a b l) := by
  intro rest _
  exact of_class8 p _ rest _ (wordM_cls ..) (by simp only [decodeMem, wordM_c, wordM_op, wordM_seg, wordM_d, wordM_a, wordM_b, wordM_l]; rfl)

theorem ld64 (p : Option Pre) (c : Bool) (s : BitVec 3) (d : BitVec 6) (a : BitVec 6) (b : BitVec 6) (l : BitVec 2) : Statement (.ld64 p c s d a b l) := by
  intro rest _
  exact of_class8 p _ rest _ (wordM_cls ..) (by simp only [decodeMem, wordM_c, wordM_op, wordM_seg, wordM_d, wordM_a, wordM_b, wordM_l]; rfl)

theorem ld16 (p : Option Pre) (c : Bool) (s : BitVec 3) (d : BitVec 6) (a : BitVec 6) (b : BitVec 6) (l : BitVec 2) : Statement (.ld16 p c s d a b l) := by
  intro rest _
  exact of_class8 p _ rest _ (wordM_cls ..) (by simp only [decodeMem, wordM_c, wordM_op, wordM_seg, wordM_d, wordM_a, wordM_b, wordM_l]; rfl)

theorem ld8 (p : Option Pre) (c : Bool) (s : BitVec 3) (d : BitVec 6) (a : BitVec 6) (b : BitVec 6) (l : BitVec 2) : Statement (.ld8 p c s d a b l) := by
  intro rest _
  exact of_class8 p _ rest _ (wordM_cls ..) (by simp only [decodeMem, wordM_c, wordM_op, wordM_seg, wordM_d, wordM_a, wordM_b, wordM_l]; rfl)

theorem st (p : Option Pre) (c : Bool) (s : BitVec 3) (d : BitVec 6) (a : BitVec 6) (b : BitVec 6) (l : BitVec 2) : Statement (.st p c s d a b l) := by
  intro rest _
  exact of_class8 p _ rest _ (wordM_cls ..) (by simp only [decodeMem, wordM_c, wordM_op, wordM_seg, wordM_d, wordM_a, wordM_b, wordM_l]; rfl)

theorem st64 (p : Option Pre) (c : Bool) (s : BitVec 3) (d : BitVec 6) (a : BitVec 6) (b : BitVec 6) (l : BitVec 2) : Statement (.st64 p c s d a b l) := by
  intro rest _
  exact of_class8 p _ rest _ (wordM_cls ..) (by simp only [decodeMem, wordM_c, wordM_op, wordM_seg, wordM_d, wordM_a, wordM_b, wordM_l]; rfl)

theorem st16 (p : Option Pre) (c : Bool) (s : BitVec 3) (d : BitVec 6) (a : BitVec 6) (b : BitVec 6) (l : BitVec 2) : Statement (.st16 p c s d a b l) := by
  intro rest _
  exact of_class8 p _ rest _ (wordM_cls ..) (by simp only [decodeMem, wordM_c, wordM_op, wordM_seg, wordM_d, wordM_a, wordM_b, wordM_l]; rfl)

theorem st8 (p : Option Pre) (c : Bool) (s : BitVec 3) (d : BitVec 6) (a : BitVec 6) (b : BitVec 6) (l : BitVec 2) : Statement (.st8 p c s d a b l) := by
  intro rest _
  exact of_class8 p _ rest _ (wordM_cls ..) (by simp only [decodeMem, wordM_c, wordM_op, wordM_seg, wordM_d, wordM_a, wordM_b, wordM_l]; rfl)

theorem lds (p : Option Pre) (c : Bool) (s : BitVec 3) (d : BitVec 6) (a : BitVec 6) (b : BitVec 6) (l : BitVec 2) : Statement (.lds p c s d a b l) := by
  intro rest _
  exact of_class8 p _ rest _ (wordM_cls ..) (by simp only [decodeMem, wordM_c, wordM_op, wordM_seg, wordM_d, wordM_a, wordM_b, wordM_l]; rfl)

theorem sts (p : Option Pre) (c : Bool) (s : BitVec 3) (d : BitVec 6) (a : BitVec 6) (b : BitVec 6) (l : BitVec 2) : Statement (.sts p c s d a b l) := by
  intro rest _
  exact of_class8 p _ rest _ (wordM_cls ..) (by simp only [decodeMem, wordM_c, wordM_op, wordM_seg, wordM_d, wordM_a, wordM_b, wordM_l]; rfl)

theorem ldNc (p : Option Pre) (c : Bool) (s : BitVec 3) (d : BitVec 6) (a : BitVec 6) (b : BitVec 6) (l : BitVec 2) : Statement (.ldNc p c s d a b l) := by
  intro rest _
  exact of_class8 p _ rest _ (wordM_cls ..) (by simp only [decodeMem, wordM_c, wordM_op, wordM_seg, wordM_d, wordM_a, wordM_b, wordM_l]; rfl)

theorem prefetch (p : Option Pre) (c : Bool) (s : BitVec 3) (a : BitVec 6) (b : BitVec 6) (l : BitVec 2) : Statement (.prefetch p c s a b l) := by
  intro rest _
  exact of_class8 p _ rest _ (wordM_cls ..) (by simp only [decodeMem, wordM_c, wordM_op, wordM_seg, wordM_d, wordM_a, wordM_b, wordM_l]; rfl)

theorem hintNorm (p : Option Pre) (c : Bool) (s : BitVec 3) (a : BitVec 6) (b : BitVec 6) (l : BitVec 2) : Statement (.hintNorm p c s a b l) := by
  intro rest _
  exact of_class8 p _ rest _ (wordM_cls ..) (by simp only [decodeMem, wordM_c, wordM_op, wordM_seg, wordM_d, wordM_a, wordM_b, wordM_l]; rfl)

theorem hintFirst (p : Option Pre) (c : Bool) (s : BitVec 3) (a : BitVec 6) (b : BitVec 6) (l : BitVec 2) : Statement (.hintFirst p c s a b l) := by
  intro rest _
  exact of_class8 p _ rest _ (wordM_cls ..) (by simp only [decodeMem, wordM_c, wordM_op, wordM_seg, wordM_d, wordM_a, wordM_b, wordM_l]; rfl)

theorem hintLast (p : Option Pre) (c : Bool) (s : BitVec 3) (a : BitVec 6) (b : BitVec 6) (l : BitVec 2) : Statement (.hintLast p c s a b l) := by
  intro rest _
  exact of_class8 p _ rest _ (wordM_cls ..) (by simp only [decodeMem, wordM_c, wordM_op, wordM_seg, wordM_d, wordM_a, wordM_b, wordM_l]; rfl)

theorem hintLow (p : Option Pre) (c : Bool) (s : BitVec 3) (a : BitVec 6) (b : BitVec 6) (l : BitVec 2) : Statement (.hintLow p c s a b l) := by
  intro rest _
  exact of_class8 p _ rest _ (wordM_cls ..) (by simp only [decodeMem, wordM_c, wordM_op, wordM_seg, wordM_d, wordM_a, wordM_b, wordM_l]; rfl)

theorem cinv (p : Option Pre) (c : Bool) (s : BitVec 3) (a : BitVec 6) (b : BitVec 6) (l : BitVec 2) : Statement (.cinv p c s a b l) := by
  intro rest _
  exact of_class8 p _ rest _ (wordM_cls ..) (by simp only [decodeMem, wordM_c, wordM_op, wordM_seg, wordM_d, wordM_a, wordM_b, wordM_l]; rfl)

theorem cflush (p : Option Pre) (c : Bool) (s : BitVec 3) (a : BitVec 6) (b : BitVec 6) (l : BitVec 2) : Statement (.cflush p c s a b l) := by
  intro rest _
  exact of_class8 p _ rest _ (wordM_cls ..) (by simp only [decodeMem, wordM_c, wordM_op, wordM_seg, wordM_d, wordM_a, wordM_b, wordM_l]; rfl)

theorem amoAdd (c : Bool) (t : BitVec 3) (p : BitVec 3) (s : BitVec 3) (d : BitVec 6) (b : BitVec 6) : Statement (.amoAdd c t p s d b) := by
  intro rest _
  exact of_class9 _ rest _ (wordA_cls ..) (by simp only [decodeAtomic, wordA_c, wordA_grp, wordA_sub, wordA_typ, wordA_scope, wordA_seg, wordA_x, wordA_y]; rfl)

theorem amoMin (c : Bool) (t : BitVec 3) (p : BitVec 3) (s : BitVec 3) (d : BitVec 6) (b : BitVec 6) : Statement (.amoMin c t p s d b) := by
  intro rest _
  exact of_class9 _ rest _ (wordA_cls ..) (by simp only [decodeAtomic, wordA_c, wordA_grp, wordA_sub, wordA_typ, wordA_scope, wordA_seg, wordA_x, wordA_y]; rfl)

theorem amoMax (c : Bool) (t : BitVec 3) (p : BitVec 3) (s : BitVec 3) (d : BitVec 6) (b : BitVec 6) : Statement (.amoMax c t p s d b) := by
  intro rest _
  exact of_class9 _ rest _ (wordA_cls ..) (by simp only [decodeAtomic, wordA_c, wordA_grp, wordA_sub, wordA_typ, wordA_scope, wordA_seg, wordA_x, wordA_y]; rfl)

theorem amoAnd (c : Bool) (t : BitVec 3) (p : BitVec 3) (s : BitVec 3) (d : BitVec 6) (b : BitVec 6) : Statement (.amoAnd c t p s d b) := by
  intro rest _
  exact of_class9 _ rest _ (wordA_cls ..) (by simp only [decodeAtomic, wordA_c, wordA_grp, wordA_sub, wordA_typ, wordA_scope, wordA_seg, wordA_x, wordA_y]; rfl)

theorem amoOr (c : Bool) (t : BitVec 3) (p : BitVec 3) (s : BitVec 3) (d : BitVec 6) (b : BitVec 6) : Statement (.amoOr c t p s d b) := by
  intro rest _
  exact of_class9 _ rest _ (wordA_cls ..) (by simp only [decodeAtomic, wordA_c, wordA_grp, wordA_sub, wordA_typ, wordA_scope, wordA_seg, wordA_x, wordA_y]; rfl)

theorem amoXor (c : Bool) (t : BitVec 3) (p : BitVec 3) (s : BitVec 3) (d : BitVec 6) (b : BitVec 6) : Statement (.amoXor c t p s d b) := by
  intro rest _
  exact of_class9 _ rest _ (wordA_cls ..) (by simp only [decodeAtomic, wordA_c, wordA_grp, wordA_sub, wordA_typ, wordA_scope, wordA_seg, wordA_x, wordA_y]; rfl)

theorem amoXchg (c : Bool) (t : BitVec 3) (p : BitVec 3) (s : BitVec 3) (d : BitVec 6) (b : BitVec 6) : Statement (.amoXchg c t p s d b) := by
  intro rest _
  exact of_class9 _ rest _ (wordA_cls ..) (by simp only [decodeAtomic, wordA_c, wordA_grp, wordA_sub, wordA_typ, wordA_scope, wordA_seg, wordA_x, wordA_y]; rfl)

theorem amoCas (c : Bool) (t : BitVec 3) (p : BitVec 3) (s : BitVec 3) (d : BitVec 6) (b : BitVec 6) : Statement (.amoCas c t p s d b) := by
  intro rest _
  exact of_class9 _ rest _ (wordA_cls ..) (by simp only [decodeAtomic, wordA_c, wordA_grp, wordA_sub, wordA_typ, wordA_scope, wordA_seg, wordA_x, wordA_y]; rfl)

theorem redAdd (c : Bool) (t : BitVec 3) (p : BitVec 3) (s : BitVec 3) (d : BitVec 6) (b : BitVec 6) : Statement (.redAdd c t p s d b) := by
  intro rest _
  exact of_class9 _ rest _ (wordA_cls ..) (by simp only [decodeAtomic, wordA_c, wordA_grp, wordA_sub, wordA_typ, wordA_scope, wordA_seg, wordA_x, wordA_y]; rfl)

theorem redMin (c : Bool) (t : BitVec 3) (p : BitVec 3) (s : BitVec 3) (d : BitVec 6) (b : BitVec 6) : Statement (.redMin c t p s d b) := by
  intro rest _
  exact of_class9 _ rest _ (wordA_cls ..) (by simp only [decodeAtomic, wordA_c, wordA_grp, wordA_sub, wordA_typ, wordA_scope, wordA_seg, wordA_x, wordA_y]; rfl)

theorem redMax (c : Bool) (t : BitVec 3) (p : BitVec 3) (s : BitVec 3) (d : BitVec 6) (b : BitVec 6) : Statement (.redMax c t p s d b) := by
  intro rest _
  exact of_class9 _ rest _ (wordA_cls ..) (by simp only [decodeAtomic, wordA_c, wordA_grp, wordA_sub, wordA_typ, wordA_scope, wordA_seg, wordA_x, wordA_y]; rfl)

theorem redAnd (c : Bool) (t : BitVec 3) (p : BitVec 3) (s : BitVec 3) (d : BitVec 6) (b : BitVec 6) : Statement (.redAnd c t p s d b) := by
  intro rest _
  exact of_class9 _ rest _ (wordA_cls ..) (by simp only [decodeAtomic, wordA_c, wordA_grp, wordA_sub, wordA_typ, wordA_scope, wordA_seg, wordA_x, wordA_y]; rfl)

theorem redOr (c : Bool) (t : BitVec 3) (p : BitVec 3) (s : BitVec 3) (d : BitVec 6) (b : BitVec 6) : Statement (.redOr c t p s d b) := by
  intro rest _
  exact of_class9 _ rest _ (wordA_cls ..) (by simp only [decodeAtomic, wordA_c, wordA_grp, wordA_sub, wordA_typ, wordA_scope, wordA_seg, wordA_x, wordA_y]; rfl)

theorem redXor (c : Bool) (t : BitVec 3) (p : BitVec 3) (s : BitVec 3) (d : BitVec 6) (b : BitVec 6) : Statement (.redXor c t p s d b) := by
  intro rest _
  exact of_class9 _ rest _ (wordA_cls ..) (by simp only [decodeAtomic, wordA_c, wordA_grp, wordA_sub, wordA_typ, wordA_scope, wordA_seg, wordA_x, wordA_y]; rfl)

theorem waitcmp (c : Bool) (u : BitVec 3) (m : Bool) (p : BitVec 3) (s : BitVec 3) (a : BitVec 6) (b : BitVec 6) : Statement (.waitcmp c u m p s a b) := by
  intro rest _
  have he18 : (wordA 9 c 2#3 u (0#2 ++ BitVec.ofBool m) p s a b).extractLsb' 18 1 = BitVec.ofBool m := by
    rw [extract_part _ 18 3 0 1 (by decide), wordA_typ]
    exact extract_low _ _
  have hb18 : (wordA 9 c 2#3 u (0#2 ++ BitVec.ofBool m) p s a b).getLsbD 18 = m := bit_of_field _ _ _ he18
  have he19 : (wordA 9 c 2#3 u (0#2 ++ BitVec.ofBool m) p s a b).extractLsb' 19 2 = 0#2 := by
    rw [extract_part _ 18 3 1 2 (by decide), wordA_typ]
    rw [extract_high (h := by decide)]
    exact BitVec.extractLsb'_eq_self
  exact of_class9 _ rest _ (wordA_cls ..) (by simp only [decodeAtomic, wordA_c, wordA_grp, wordA_sub, wordA_typ, wordA_scope, wordA_seg, wordA_x, wordA_y, he18, hb18, he19]; rfl)

theorem barInit (c : Bool) (s : BitVec 3) (a : BitVec 6) (b : BitVec 6) : Statement (.barInit c s a b) := by
  intro rest _
  exact of_class9 _ rest _ (wordA_cls ..) (by simp only [decodeAtomic, wordA_c, wordA_grp, wordA_sub, wordA_typ, wordA_scope, wordA_seg, wordA_x, wordA_y]; rfl)

theorem barArrive (c : Bool) (p : BitVec 3) (s : BitVec 3) (a : BitVec 6) (b : BitVec 6) : Statement (.barArrive c p s a b) := by
  intro rest _
  exact of_class9 _ rest _ (wordA_cls ..) (by simp only [decodeAtomic, wordA_c, wordA_grp, wordA_sub, wordA_typ, wordA_scope, wordA_seg, wordA_x, wordA_y]; rfl)

theorem barWait (c : Bool) (p : BitVec 3) (s : BitVec 3) (a : BitVec 6) : Statement (.barWait c p s a) := by
  intro rest _
  exact of_class9 _ rest _ (wordA_cls ..) (by simp only [decodeAtomic, wordA_c, wordA_grp, wordA_sub, wordA_typ, wordA_scope, wordA_seg, wordA_x, wordA_y]; rfl)

theorem barExpect (c : Bool) (s : BitVec 3) (a : BitVec 6) (b : BitVec 6) : Statement (.barExpect c s a b) := by
  intro rest _
  exact of_class9 _ rest _ (wordA_cls ..) (by simp only [decodeAtomic, wordA_c, wordA_grp, wordA_sub, wordA_typ, wordA_scope, wordA_seg, wordA_x, wordA_y]; rfl)

theorem fence (c : Bool) (p : BitVec 3) : Statement (.fence c p) := by
  intro rest _
  have h0 : (wordA 9 c 4#3 0#3 0#3 p 0#3 0#6 0#6).extractLsb' 0 15 = 0#15 := by
    revert c p; decide
  exact of_class9 _ rest _ (wordA_cls ..)
    (by simp only [decodeAtomic, wordA_c, wordA_grp, wordA_sub, wordA_typ, wordA_scope, h0]; rfl)

theorem fenceSc (c : Bool) (p : BitVec 3) : Statement (.fenceSc c p) := by
  intro rest _
  have h0 : (wordA 9 c 4#3 1#3 0#3 p 0#3 0#6 0#6).extractLsb' 0 15 = 0#15 := by
    revert c p; decide
  exact of_class9 _ rest _ (wordA_cls ..)
    (by simp only [decodeAtomic, wordA_c, wordA_grp, wordA_sub, wordA_typ, wordA_scope, h0]; rfl)

theorem xfence (c : Bool) (p : BitVec 3) (a : BitVec 4) (b : BitVec 4) : Statement (.xfence c p a b) := by
  intro rest _
  exact of_class9 _ rest _ (wordF_cls ..) (by simp only [decodeAtomic, wordF_c, wordF_grp, wordF_sub, wordF_typ, wordF_scope, wordF_a, wordF_b, wordF_z]; rfl)

theorem fenceScTick (sp : SpanId) : Statement (.fenceScTick sp) := fun _ h => absurd rfl h

theorem eqw (c : Bool) (n : BitVec 2) (a : BitVec 6) : Statement (.eqw c n a) := by
  intro rest _
  have he19 : (wordS 10 c (0#6 ++ n) 0#6 a 0#6 0#1).extractLsb' 19 2 = n := by
    rw [extract_part _ 19 8 0 2 (by decide), wordS_op]
    exact extract_low _ _
  have he0 : (wordS 10 c (0#6 ++ n) 0#6 a 0#6 0#1).extractLsb' 0 7 = 0#7 := by
    ext i hi
    rw [BitVec.getElem_extractLsb', Nat.zero_add]
    cases i with
    | zero => rw [bit_part _ 0 1 0 (by decide), wordS_w]; simp
    | succ j =>
      have h1 := bit_part (wordS 10 c (0#6 ++ n) 0#6 a 0#6 0#1) 1 6 j (by omega)
      rw [wordS_b] at h1
      exact (congrArg (BitVec.getLsbD _) (Nat.add_comm j 1)).trans (h1.trans (by simp))
  exact of_class10 _ rest _ (wordS_cls ..) (by
    simp only [decodeEngine, wordS_c, wordS_op, wordS_d, wordS_a, he19, he0]
    revert n; decide +revert)

theorem eqgo (c : Bool) (d : BitVec 6) : Statement (.eqgo c d) := by
  intro rest _
  exact of_class10 _ rest _ (wordS_cls ..) (by simp only [decodeEngine, wordS_c, wordS_op, wordS_d, wordS_a, wordS_b, wordS_w]; rfl)

theorem sleepu (c : Bool) (a : BitVec 6) : Statement (.sleepu c a) := by
  intro rest _
  exact of_class10 _ rest _ (wordS_cls ..) (by simp only [decodeEngine, wordS_c, wordS_op, wordS_d, wordS_a, wordS_b, wordS_w]; rfl)

theorem sleepp (c : Bool) (a : BitVec 6) (b : BitVec 6) : Statement (.sleepp c a b) := by
  intro rest _
  exact of_class10 _ rest _ (wordS_cls ..) (by simp only [decodeEngine, wordS_c, wordS_op, wordS_d, wordS_a, wordS_b, wordS_w]; rfl)

theorem promiseChk (c : Bool) (d : BitVec 6) (b : BitVec 6) : Statement (.promiseChk c d b) := by
  intro rest _
  exact of_class10 _ rest _ (wordS_cls ..) (by simp only [decodeEngine, wordS_c, wordS_op, wordS_d, wordS_a, wordS_b, wordS_w]; rfl)

theorem time (c : Bool) (d : BitVec 6) : Statement (.time c d) := by
  intro rest _
  exact of_class10 _ rest _ (wordS_cls ..) (by simp only [decodeEngine, wordS_c, wordS_op, wordS_d, wordS_a, wordS_b, wordS_w]; rfl)

theorem halloc (c : Bool) (d : BitVec 6) (a : BitVec 6) : Statement (.halloc c d a) := by
  intro rest _
  exact of_class10 _ rest _ (wordS_cls ..) (by simp only [decodeEngine, wordS_c, wordS_op, wordS_d, wordS_a, wordS_b, wordS_w]; rfl)

theorem hfree (c : Bool) (a : BitVec 6) : Statement (.hfree c a) := by
  intro rest _
  exact of_class10 _ rest _ (wordS_cls ..) (by simp only [decodeEngine, wordS_c, wordS_op, wordS_d, wordS_a, wordS_b, wordS_w]; rfl)

theorem sleepWake (sp : SpanId) : Statement (.sleepWake sp) := fun _ h => absurd rfl h

theorem trap (c : Bool) (n : BitVec 12) : Statement (.trap c n) := by
  intro rest _
  have he1 : (wordN 11 c 0#8 n 0#7).extractLsb' 1 6 = 0#6 := by
    rw [extract_part _ 0 7 1 6 (by decide), wordN_z]; rfl
  have he0 : (wordN 11 c 0#8 n 0#7).extractLsb' 0 1 = 0#1 := by
    rw [extract_part _ 0 7 0 1 (by decide), wordN_z]; rfl
  exact of_class11 _ rest _ (wordN_cls ..) (by simp only [decodeSystem, wordN_c, wordN_op, wordN_n, he1, he0]; rfl)

theorem brk (c : Bool) : Statement (.brk c) := by
  intro rest _
  exact of_class11 _ rest _ (wordS_cls ..) (by simp only [decodeSystem, wordS_c, wordS_op, wordS_d, wordS_a, wordS_b, wordS_w]; rfl)

theorem trace (c : Bool) (a : BitVec 6) : Statement (.trace c a) := by
  intro rest _
  exact of_class11 _ rest _ (wordS_cls ..) (by simp only [decodeSystem, wordS_c, wordS_op, wordS_d, wordS_a, wordS_b, wordS_w]; rfl)

theorem sysrd (c : Bool) (d : BitVec 6) (r : BitVec 12) : Statement (.sysrd c d r) := by
  intro rest _
  exact of_class11 _ rest _ (wordR_cls ..) (by simp only [decodeSystem, wordR_c, wordR_op, wordR_d, wordR_r, wordR_w]; rfl)

theorem syswr (c : Bool) (d : BitVec 6) (r : BitVec 12) : Statement (.syswr c d r) := by
  intro rest _
  exact of_class11 _ rest _ (wordR_cls ..) (by simp only [decodeSystem, wordR_c, wordR_op, wordR_d, wordR_r, wordR_w]; rfl)

theorem rte (c : Bool) : Statement (.rte c) := by
  intro rest _
  exact of_class11 _ rest _ (wordS_cls ..) (by simp only [decodeSystem, wordS_c, wordS_op, wordS_d, wordS_a, wordS_b, wordS_w]; rfl)

theorem segld (c : Bool) (s : BitVec 6) (a : BitVec 6) : Statement (.segld c s a) := by
  intro rest _
  exact of_class11 _ rest _ (wordS_cls ..) (by simp only [decodeSystem, wordS_c, wordS_op, wordS_d, wordS_a, wordS_b, wordS_w]; rfl)

theorem tlbinv (c : Bool) (a : BitVec 6) (b : BitVec 6) : Statement (.tlbinv c a b) := by
  intro rest _
  exact of_class11 _ rest _ (wordS_cls ..) (by simp only [decodeSystem, wordS_c, wordS_op, wordS_d, wordS_a, wordS_b, wordS_w]; rfl)

theorem spawn (c : Bool) (d : BitVec 6) (a : BitVec 6) (b : BitVec 6) : Statement (.spawn c d a b) := by
  intro rest _
  exact of_class12 _ rest _ (wordS_cls ..) (by simp only [decodeTask, wordS_c, wordS_op, wordS_d, wordS_a, wordS_b, wordS_w]; rfl)

theorem phaseEnd (c : Bool) : Statement (.phaseEnd c) := by
  intro rest _
  exact of_class12 _ rest _ (wordS_cls ..) (by simp only [decodeTask, wordS_c, wordS_op, wordS_d, wordS_a, wordS_b, wordS_w]; rfl)

theorem phaseCommit (sp : SpanId) : Statement (.phaseCommit sp) := fun _ h => absurd rfl h

theorem acqx (c : Bool) (d : BitVec 6) (a : BitVec 6) : Statement (.acqx c d a) := by
  intro rest _
  exact of_class12 _ rest _ (wordS_cls ..) (by simp only [decodeTask, wordS_c, wordS_op, wordS_d, wordS_a, wordS_b, wordS_w]; rfl)

theorem acqxGrant (k : CoreId) : Statement (.acqxGrant k) := fun _ h => absurd rfl h

theorem acquireTimeout (sp : SpanId) : Statement (.acquireTimeout sp) := fun _ h => absurd rfl h

theorem relx (c : Bool) (a : BitVec 6) : Statement (.relx c a) := by
  intro rest _
  exact of_class12 _ rest _ (wordS_cls ..) (by simp only [decodeTask, wordS_c, wordS_op, wordS_d, wordS_a, wordS_b, wordS_w]; rfl)

theorem yield (c : Bool) : Statement (.yield c) := by
  intro rest _
  exact of_class12 _ rest _ (wordS_cls ..) (by simp only [decodeTask, wordS_c, wordS_op, wordS_d, wordS_a, wordS_b, wordS_w]; rfl)

theorem age (c : Bool) (d : BitVec 6) : Statement (.age c d) := by
  intro rest _
  exact of_class12 _ rest _ (wordS_cls ..) (by simp only [decodeTask, wordS_c, wordS_op, wordS_d, wordS_a, wordS_b, wordS_w]; rfl)

theorem lvl (c : Bool) (d : BitVec 6) (l : BitVec 6) : Statement (.lvl c d l) := by
  intro rest _
  exact of_class12 _ rest _ (wordS_cls ..) (by simp only [decodeTask, wordS_c, wordS_op, wordS_d, wordS_a, wordS_b, wordS_w]; rfl)

theorem longOperationComplete (op : Nat) : Statement (.longOperationComplete op) := fun _ h => absurd rfl h

theorem spanPromotion (sp : SpanId) : Statement (.spanPromotion sp) := fun _ h => absurd rfl h

theorem trapEntry (sp : SpanId) : Statement (.trapEntry sp) := fun _ h => absurd rfl h

theorem regionLimit (sp : SpanId) : Statement (.regionLimit sp) := fun _ h => absurd rfl h

theorem accessAtHome (op : Nat) (sector : Nat) : Statement (.accessAtHome op sector) := fun _ h => absurd rfl h

theorem atomicAtHome (op : Nat) (lane : Nat) : Statement (.atomicAtHome op lane) := fun _ h => absurd rfl h

theorem reductionCombine (op : Nat) (op2 : Nat) : Statement (.reductionCombine op op2) := fun _ h => absurd rfl h

theorem barrierDecrement (sp : SpanId) (token : BitVec 16) : Statement (.barrierDecrement sp token) := fun _ h => absurd rfl h

theorem sharerInvalidation (line : Nat) (sharer : Fin 5) : Statement (.sharerInvalidation line sharer) := fun _ h => absurd rfl h

theorem invalidationConfirmation (line : Nat) (sharer : Fin 5) : Statement (.invalidationConfirmation line sharer) := fun _ h => absurd rfl h

theorem storeAcknowledgement (op : Nat) (sector : Nat) : Statement (.storeAcknowledgement op sector) := fun _ h => absurd rfl h

theorem regionClose (r : RegionId) : Statement (.regionClose r) := fun _ h => absurd rfl h

theorem monitorWake (sp : SpanId) : Statement (.monitorWake sp) := fun _ h => absurd rfl h

theorem waitcmpTimeout (sp : SpanId) : Statement (.waitcmpTimeout sp) := fun _ h => absurd rfl h

theorem barWaitRetest (sp : SpanId) : Statement (.barWaitRetest sp) := fun _ h => absurd rfl h

theorem saddleTouch (sp : SpanId) : Statement (.saddleTouch sp) := fun _ h => absurd rfl h

theorem rollbackReplay (g : GroupId) : Statement (.rollbackReplay g) := fun _ h => absurd rfl h

theorem translationWalk (walk : BitVec 16) : Statement (.translationWalk walk) := fun _ h => absurd rfl h

theorem mscSectorWrite (pa : Nat) (key : BitVec 10) : Statement (.mscSectorWrite pa key) := fun _ h => absurd rfl h

theorem mscSectorRead (pa : Nat) (key : BitVec 10) : Statement (.mscSectorRead pa key) := fun _ h => absurd rfl h

theorem mscWriteback (block : Nat) : Statement (.mscWriteback block) := fun _ h => absurd rfl h

theorem dramBlockRead (block : Nat) : Statement (.dramBlockRead block) := fun _ h => absurd rfl h

theorem correctedWriteback (block : Nat) : Statement (.correctedWriteback block) := fun _ h => absurd rfl h

theorem scrubRead (block : Nat) : Statement (.scrubRead block) := fun _ h => absurd rfl h

theorem selfRefreshEntry (ch : Channel) : Statement (.selfRefreshEntry ch) := fun _ h => absurd rfl h

theorem selfRefreshExit (ch : Channel) : Statement (.selfRefreshExit ch) := fun _ h => absurd rfl h

theorem drowsyBankDrop (bank : BankId) : Statement (.drowsyBankDrop bank) := fun _ h => absurd rfl h

theorem chainDemote (chain : BitVec 12) : Statement (.chainDemote chain) := fun _ h => absurd rfl h

theorem chainSweep (chain : BitVec 12) : Statement (.chainSweep chain) := fun _ h => absurd rfl h

theorem keySlotLoad (slot : BitVec 10) (keys : Option (BitVec 512)) : Statement (.keySlotLoad slot keys) := fun _ h => absurd rfl h

theorem timeoutDetectorExpiry (packet : Nat) : Statement (.timeoutDetectorExpiry packet) := fun _ h => absurd rfl h

theorem misroute (packet : Nat) : Statement (.misroute packet) := fun _ h => absurd rfl h

theorem halterCapture (die : DieId) : Statement (.halterCapture die) := fun _ h => absurd rfl h

theorem halterRegenerate (die : DieId) : Statement (.halterRegenerate die) := fun _ h => absurd rfl h

theorem bridleReceive (packet : Nat) : Statement (.bridleReceive packet) := fun _ h => absurd rfl h

theorem routerPowerGate (die : DieId) (router : Nat) : Statement (.routerPowerGate die router) := fun _ h => absurd rfl h

theorem routerWake (die : DieId) (router : Nat) : Statement (.routerWake die router) := fun _ h => absurd rfl h

theorem girthRetrain (link : Fin 10) (ok : Bool) : Statement (.girthRetrain link ok) := fun _ h => absurd rfl h

theorem girthLinkDown (link : Fin 10) : Statement (.girthLinkDown link) := fun _ h => absurd rfl h

theorem hitchRetrain (port : Fin 36) : Statement (.hitchRetrain port) := fun _ h => absurd rfl h

theorem hitchTimeout (op : Nat) : Statement (.hitchTimeout op) := fun _ h => absurd rfl h

theorem stitchRelink (die : Fin 4) (clusters : BitVec 4) (code : BitVec 3) : Statement (.stitchRelink die clusters code) := fun _ h => absurd rfl h

theorem hostPostedWrite (dom : OrderDomain) (relaxed : Bool) (pa : Nat) (data : List (BitVec 8)) : Statement (.hostPostedWrite dom relaxed pa data) := fun _ h => absurd rfl h

theorem orderingPointRelease (id : Nat) : Statement (.orderingPointRelease id) := fun _ h => absurd rfl h

theorem routeAcknowledgement (id : Nat) (die : DieId) : Statement (.routeAcknowledgement id die) := fun _ h => absurd rfl h

theorem hostReadRequest (dom : OrderDomain) (pa : Nat) (len : Nat) : Statement (.hostReadRequest dom pa len) := fun _ h => absurd rfl h

theorem deviceWriteToHost (id : Nat) : Statement (.deviceWriteToHost id) := fun _ h => absurd rfl h

theorem launch (port : Bool) (q : BitVec 8) : Statement (.launch port q) := fun _ h => absurd rfl h

theorem signalOnly (port : Bool) (q : BitVec 8) : Statement (.signalOnly port q) := fun _ h => absurd rfl h

theorem abortLaunch (port : Bool) (q : BitVec 8) : Statement (.abortLaunch port q) := fun _ h => absurd rfl h

theorem launchOutcome (seq : BitVec 64) : Statement (.launchOutcome seq) := fun _ h => absurd rfl h

theorem qtailDoorbell (port : Bool) (q : BitVec 8) (tail : BitVec 64) : Statement (.qtailDoorbell port q tail) := fun _ h => absurd rfl h

theorem dwinWrite (port : Bool) (v : BitVec 64) : Statement (.dwinWrite port v) := fun _ h => absurd rfl h

theorem faultack (v : BitVec 64) : Statement (.faultack v) := fun _ h => absurd rfl h

theorem fqtailWrite (v : BitVec 64) : Statement (.fqtailWrite v) := fun _ h => absurd rfl h

theorem trtailWrite (v : BitVec 64) : Statement (.trtailWrite v) := fun _ h => absurd rfl h

theorem trdropRead : Statement .trdropRead := fun _ h => absurd rfl h

theorem bar0RegisterWrite (port : Bool) (off : BitVec 20) (v : BitVec 64) : Statement (.bar0RegisterWrite port off v) := fun _ h => absurd rfl h

theorem attestationRequest (nonce : BitVec 512) : Statement (.attestationRequest nonce) := fun _ h => absurd rfl h

theorem coldReset (image : BitVec 512) (sig : BitVec 2) : Statement (.coldReset image sig) := fun _ h => absurd rfl h

theorem timebaseSync (ptm : Bool) (offset : BitVec 32) : Statement (.timebaseSync ptm offset) := fun _ h => absurd rfl h

theorem ptpSourceLoss (ptm : Bool) : Statement (.ptpSourceLoss ptm) := fun _ h => absurd rfl h

theorem farrierSnapshot : Statement .farrierSnapshot := fun _ h => absurd rfl h

theorem islandThrottle (island : Fin 24) (mhz : BitVec 16) : Statement (.islandThrottle island mhz) := fun _ h => absurd rfl h

theorem groomBoxWrite (die : Fin 4) (box : BitVec 12) (r : BindRecord) : Statement (.groomBoxWrite die box r) := fun _ h => absurd rfl h

theorem groomBoxFree (die : Fin 4) (box : BitVec 12) : Statement (.groomBoxFree die box) := fun _ h => absurd rfl h

theorem bind (die : Fin 4) (box : BitVec 12) : Statement (.bind die box) := fun _ h => absurd rfl h

theorem preemptDecision (die : Fin 4) (box : BitVec 12) (deadline : BitVec 64) : Statement (.preemptDecision die box deadline) := fun _ h => absurd rfl h

theorem preciseStop (die : Fin 4) (box : BitVec 12) : Statement (.preciseStop die box) := fun _ h => absurd rfl h

theorem contextReset (die : Fin 4) (box : BitVec 12) : Statement (.contextReset die box) := fun _ h => absurd rfl h

theorem restore (die : Fin 4) (box : BitVec 12) (k : CoreId) (slot0 : BitVec 6) : Statement (.restore die box k slot0) := fun _ h => absurd rfl h

theorem swapOut (die : Fin 4) (box : BitVec 12) : Statement (.swapOut die box) := fun _ h => absurd rfl h

theorem packhorseCopy (sp : SpanId) (token : BitVec 16) : Statement (.packhorseCopy sp token) := fun _ h => absurd rfl h

theorem packhorseStridedCopy (sp : SpanId) (token : BitVec 16) : Statement (.packhorseStridedCopy sp token) := fun _ h => absurd rfl h

theorem packhorseFill (sp : SpanId) (token : BitVec 16) : Statement (.packhorseFill sp token) := fun _ h => absurd rfl h

theorem placeScales (sp : SpanId) (token : BitVec 16) : Statement (.placeScales sp token) := fun _ h => absurd rfl h

theorem trotterGather (sp : SpanId) (token : BitVec 16) : Statement (.trotterGather sp token) := fun _ h => absurd rfl h

theorem trotterScatter (sp : SpanId) (token : BitVec 16) : Statement (.trotterScatter sp token) := fun _ h => absurd rfl h

theorem collectiveBroadcast (sp : SpanId) (token : BitVec 16) : Statement (.collectiveBroadcast sp token) := fun _ h => absurd rfl h

theorem collectiveAllGather (sp : SpanId) (token : BitVec 16) : Statement (.collectiveAllGather sp token) := fun _ h => absurd rfl h

theorem collectiveAllReduce (sp : SpanId) (token : BitVec 16) : Statement (.collectiveAllReduce sp token) := fun _ h => absurd rfl h

theorem collectiveComplete (sp : SpanId) (token : BitVec 16) : Statement (.collectiveComplete sp token) := fun _ h => absurd rfl h

theorem carouselForward (sp : SpanId) (token : BitVec 16) : Statement (.carouselForward sp token) := fun _ h => absurd rfl h

theorem carouselInverse (sp : SpanId) (token : BitVec 16) : Statement (.carouselInverse sp token) := fun _ h => absurd rfl h

theorem carouselPointwise (sp : SpanId) (token : BitVec 16) : Statement (.carouselPointwise sp token) := fun _ h => absurd rfl h

theorem engineCommandComplete (sp : SpanId) (token : BitVec 16) : Statement (.engineCommandComplete sp token) := fun _ h => absurd rfl h

theorem hayloftRequest (op : Nat) : Statement (.hayloftRequest op) := fun _ h => absurd rfl h

theorem hayloftFree (id : Nat) : Statement (.hayloftFree id) := fun _ h => absurd rfl h

theorem engineOperationAccept (op : Nat) : Statement (.engineOperationAccept op) := fun _ h => absurd rfl h

theorem matrixOperationComplete (k : CoreId) : Statement (.matrixOperationComplete k) := fun _ h => absurd rfl h

theorem tileUpdateApply (op : Nat) : Statement (.tileUpdateApply op) := fun _ h => absurd rfl h

theorem starterDispatch (cluster : Fin 16) : Statement (.starterDispatch cluster) := fun _ h => absurd rfl h

theorem taskComplete (k : CoreId) : Statement (.taskComplete k) := fun _ h => absurd rfl h

theorem earlyDecrement (cluster : Fin 16) : Statement (.earlyDecrement cluster) := fun _ h => absurd rfl h

theorem illegalInstrWord (w : BitVec 32) : Statement (.illegalInstrWord w) := fun _ h => absurd rfl h

theorem deviceReadCompletion (dom : OrderDomain) (tag : Nat) (data : List (BitVec 8)) : Statement (.deviceReadCompletion dom tag data) := fun _ h => absurd rfl h

theorem arrivalResponse (op : Nat) : Statement (.arrivalResponse op) := fun _ h => absurd rfl h

theorem orderlyShutdown : Statement .orderlyShutdown := fun _ h => absurd rfl h

theorem sramSoftError (die : DieId) : Statement (.sramSoftError die) := fun _ h => absurd rfl h

theorem unhandledTrapDiscard (die : Fin 4) (box : BitVec 12) : Statement (.unhandledTrapDiscard die box) := fun _ h => absurd rfl h

theorem hitchDomainForm (self : BitVec 8) (members : List (BitVec 8)) : Statement (.hitchDomainForm self members) := fun _ h => absurd rfl h

theorem clauseStart (l : BitVec 4) (w : BitVec 12) (a : BitVec 4) (b : BitVec 4) : Statement (.clauseStart l w a b) := by
  intro rest _
  have h0 : (wordHeader l w a b).extractLsb' 0 3 = 0#3 := by
    unfold wordHeader
    exact extract_low _ _
  have h3 : (wordHeader l w a b).extractLsb' 3 4 = b := by
    unfold wordHeader
    rw [extract_high (h := by decide)]
    exact extract_low _ _
  have h7 : (wordHeader l w a b).extractLsb' 7 4 = a := by
    unfold wordHeader
    rw [extract_high (h := by decide)]; rw [extract_high (h := by decide)]
    exact extract_low _ _
  have h11 : (wordHeader l w a b).extractLsb' 11 12 = w := by
    unfold wordHeader
    rw [extract_high (h := by decide)]; rw [extract_high (h := by decide)]; rw [extract_high (h := by decide)]
    exact extract_low _ _
  have h23 : (wordHeader l w a b).extractLsb' 23 4 = l := by
    unfold wordHeader
    rw [extract_high (h := by decide)]; rw [extract_high (h := by decide)]; rw [extract_high (h := by decide)]; rw [extract_high (h := by decide)]
    exact extract_low _ _
  have hc : (wordHeader l w a b).extractLsb' 27 4 = 15 := by
    unfold wordHeader
    rw [extract_high (h := by decide)]; rw [extract_high (h := by decide)]; rw [extract_high (h := by decide)]; rw [extract_high (h := by decide)]; rw [extract_high (h := by decide)]
    exact extract_low _ _
  have hn : (wordHeader l w a b).getLsbD 31 = false := by
    unfold wordHeader
    rw [bit_high (h := by decide)]; rw [bit_high (h := by decide)]; rw [bit_high (h := by decide)]; rw [bit_high (h := by decide)]; rw [bit_high (h := by decide)]; rw [bit_high (h := by decide)]
    rfl
  exact of_class15 _ rest _ hc (by simp only [decodeHeader, h0, h3, h7, h11, h23, hn]; rfl)

end Sys2Proof.Laws.RoundTrip
end

