-- ==== Sys2Proof/Safety.lean ====
section
/-!
DEFINITION. The terms of the statements: when a word runs its own effect, what a step answers, and the shapes of results
with everything that they leave unchanged.
-/

noncomputable section

namespace Sys2Proof.Machine

open Sys2Proof

/-! ## Running -/

/-- The checks of R35 pass and no held fault is delivered at this word (R406): the word has its own effect. -/
def State.clear (s : State) (i : Instr) : Prop :=
  s.preCheck i = none ∧ s.heldFor i = none ∧ (gangLast i = true → s.fullGang = true)

/-- The instruction answers a next state of which P holds. -/
def Answers (i : Instr) (s : State) (P : State → Prop) : Prop := ∃ t, exec i s = .next t ∧ P t

/-- A safe state: its memory is in canonical form. -/
def State.safe (s : State) : Prop := Memory.wf s.mem = true

/-! ## Scalar results -/

/-- The state with S(d) = x: nothing else changes but the poison that S(d) held. -/
def State.withScalar (s : State) (d : RegNo) (x : DWord) : State :=
  { s with sp := { s.sp with
    regs := { s.sp.regs with s := s.sp.regs.s.set d.toNat x d.isLt },
    held := s.sp.held.filter fun h => h.by_ != .reg (.scalar d) } }

/-- The instruction's own effect is S(d) = x and nothing else. -/
def State.Sets (s : State) (i : Instr) (d : RegNo) (x : DWord) : Prop := s.clear i → exec i s = .next (s.withScalar d x)

/-- The instruction's own effect answers a next state of which P holds. -/
def State.Does (s : State) (i : Instr) (P : State → Prop) : Prop := s.clear i → Answers i s P

/-- The low 32 bits of a scalar register: an operand of the 32-bit forms (R232). -/
def low32 (x : DWord) : Word := x.setWidth 32

/-- A truth value as a result. -/
def asWord (b : Bool) : DWord := if b then 1 else 0

/-! ## Vector results -/

/-- Lane i of V(n) as the span holds it. -/
def State.lane (s : State) (n : RegNo) (i : Nat) : Word := laneAt (s.sp.regs.v[n.toNat]'n.isLt) i

/-- From s to t nothing changes but V(n) and Tag(n) for n in ds, the poison in them, and STATUS. -/
def OnlyVectors (s t : State) (ds : List RegNo) : Prop :=
  (∃ v tag held status,
    t = { s with sp := { s.sp with
      held := held, regs := { s.sp.regs with v := v, tag := tag, status := status } } }) ∧
  (∀ n, n ∉ ds → t.sp.regs.v[n.toNat]'n.isLt = s.sp.regs.v[n.toNat]'n.isLt ∧
    t.sp.regs.tag[n.toNat]'n.isLt = s.sp.regs.tag[n.toNat]'n.isLt) ∧
  (∀ h ∈ t.sp.held, h ∈ s.sp.held) ∧
  (∀ h ∈ s.sp.held, h ∈ t.sp.held ∨ ∃ n ∈ ds, ∃ j, h.by_ = .reg (.vec n j))

/-- V(d) holds f in the lanes of sel, zero in the other enabled lanes when z, and what it held elsewhere; its tag is
length 0, sign 0 (R227, R228). -/
def LanesAre (s t : State) (d : RegNo) (sel : LaneMask) (z : Bool) (f : Nat → Word) : Prop :=
  (∀ i, i < 32 → t.lane d i =
    if bitOn sel i then f i else if z && bitOn s.enabled i then 0 else s.lane d i) ∧
  t.sp.regs.tag[d.toNat]'d.isLt = { len := 0, sign := false }

/-- The same for a pair and values of 64 bits. -/
def PairsAre (s t : State) (d : RegNo) (sel : LaneMask) (z : Bool) (f : Nat → Nat) : Prop :=
  LanesAre s t d sel z (fun i => BitVec.ofNat 32 (f i)) ∧
  LanesAre s t (next d) sel z (fun i => BitVec.ofNat 32 (f i / 2 ^ 32))

/-- From s to t nothing changes but M(m) and STATUS; M(m) holds f in the lanes of sel, zero in the other enabled lanes
when z, and what it held elsewhere; a write of m0 is discarded (R13, R227). -/
def MaskIs (s t : State) (m : RegNo) (sel : LaneMask) (z : Bool) (f : Nat → Bool) : Prop :=
  (∃ x status, t = { s with sp := { s.sp with regs := { s.sp.regs with m := x, status := status } } }) ∧
  (∀ n, n < 16 → (n = 0 ∨ n ≠ m.toNat) → vecAt t.sp.regs.m n 0 = vecAt s.sp.regs.m n 0) ∧
  (0 < m.toNat → m.toNat < 16 → ∀ i, i < 32 → bitOn (vecAt t.sp.regs.m m.toNat 0) i =
    if bitOn sel i then f i else if z && bitOn s.enabled i then false else bitOn (vecAt s.sp.regs.m m.toNat 0) i)

/-- From s to t nothing changes but V(d), its pair register for 64-bit elements, their tags and poison, and STATUS.SAT: the
elements are x narrowed as R241 says, in the lanes of R227. -/
def IntegersAre (s t : State) (p : Option Pre) (ty : BitVec 3) (d : RegNo) (x : Nat → Nat → Int) : Prop :=
  OnlyVectors s t (if ty = 2 then [d, next d] else [d]) ∧
  (if ty = 2 then
    PairsAre s t d (s.selected p) (preOf p).z fun i => packElems ty fun k => elemNarrow ty (preOf p).sat (x i k)
  else
    LanesAre s t d (s.selected p) (preOf p).z fun i =>
      BitVec.ofNat 32 (packElems ty fun k => elemNarrow ty (preOf p).sat (x i k))) ∧
  ((preOf p).sat = true → (∃ i, i < 32 ∧ bitOn (s.selected p) i = true ∧ ∃ k, k < elemN ty ∧ elemOut ty (x i k) = true) →
    t.sp.regs.status = s.sp.regs.status ||| 0x10000) ∧
  (((preOf p).sat = false ∨
      ∀ i, i < 32 → bitOn (s.selected p) i = true → ∀ k, k < elemN ty → elemOut ty (x i k) = false) →
    t.sp.regs.status = s.sp.regs.status)

/-- The flags that the lanes of sel set together. -/
def flagsOver (sel : LaneMask) (fl : Nat → FFlags) : FFlags :=
  (positions 32 (bitOn sel)).foldl (fun a i => a.or (fl i)) FFlags.none

/-- The flags of a lane's elements. -/
def elemFlags (ty : BitVec 3) (f : Nat → Nat → Nat × FFlags) (i : Nat) : FFlags := laneFlags (fpN ty) fun k => (f i k).2

/-- From s to t nothing changes but V(d), its pair register for f64, their tags and poison, and the sticky flags: the
elements are those of f in the lanes of R227, and the flags that they set are ORed into STATUS (R226). -/
def FloatsAre (s t : State) (p : Option Pre) (ty : BitVec 3) (d : RegNo) (f : Nat → Nat → Nat × FFlags) : Prop :=
  OnlyVectors s t (if ty = 0 then [d, next d] else [d]) ∧
  (if ty = 0 then PairsAre s t d (s.selected p) (preOf p).z fun i => (f i 0).1
  else LanesAre s t d (s.selected p) (preOf p).z fun i => BitVec.ofNat 32 (fpPack ty fun k => (f i k).1)) ∧
  t.sp.regs.status = statusOr s.sp.regs.status (flagsOver (s.selected p) (elemFlags ty f))

/-- No element of f would set a flag whose enable is 1 (R226). -/
def NoFloatTrap (s : State) (p : Option Pre) (ty : BitVec 3) (f : Nat → Nat → Nat × FFlags) : Prop :=
  (flagsOver (s.selected p) (elemFlags ty f)).trapsUnder s.seen.status = false

/-! ## Operands and the shapes of statements -/

/-- Element k of lane i of an operand of class 2 as bits. -/
def State.bits (s : State) (ty : BitVec 3) (b : Src) (i k : Nat) : Nat := elemAt ty (s.srcVal ty b i) k

/-- The same as the type reads it (R240). -/
def State.el (s : State) (ty : BitVec 3) (b : Src) (i k : Nat) : Int := elemInt ty (s.bits ty b i k)

/-- The instruction's own effect is elements of class 2 and nothing else. -/
def State.DoesInt (s : State) (i : Instr) (p : Option Pre) (ty : BitVec 3) (d : RegNo) (x : Nat → Nat → Int) : Prop :=
  s.Does i fun t => IntegersAre s t p ty d x

/-- The instruction's own effect is a mask register and nothing else; f says which lanes hold. -/
def State.DoesMask (s : State) (i : Instr) (p : Option Pre) (m : RegNo) (f : Nat → Prop) : Prop :=
  s.Does i fun t => t.sp.regs.status = s.sp.regs.status ∧
    ∃ g, MaskIs s t m (s.selected p) (preOf p).z g ∧ ∀ j, g j = true ↔ f j

/-- The instruction's own effect is elements of class 3 and their flags and nothing else, unless an enabled flag traps. -/
def State.DoesFloat (s : State) (i : Instr) (p : Option Pre) (ty : BitVec 3) (d : RegNo)
    (f : Nat → Nat → Nat × FFlags) : Prop :=
  s.clear i → NoFloatTrap s p ty f → Answers i s fun t => FloatsAre s t p ty d f

/-! ## Lanes across a span -/

/-- From s to u nothing changes but V(d), its tag and its poison. -/
def State.Writes (s u : State) (d : RegNo) : Prop := OnlyVectors s u [d] ∧ u.sp.regs.status = s.sp.regs.status

/-- A shuffle: lane i of the destination takes the lane that `src` names when that lane lies in its sub-group and is
enabled; else it takes the fill register's lane i, or its own of the source (R251, R252). -/
def State.Shuffles (s : State) (i : Instr) (p : Option Pre) (t : BitVec 3) (d a : RegNo) (src : Nat → Option Nat) : Prop :=
  s.Does i fun u => OnlyVectors s u (if t = 2 then [d, next d] else [d]) ∧ u.sp.regs.status = s.sp.regs.status ∧
    ∀ r ∈ (if t = 2 then [(d, a, (preOf p).vc), (next d, next a, next (preOf p).vc)] else [(d, a, (preOf p).vc)]),
      LanesAre s u r.1 (s.selected p) (preOf p).z fun l =>
        match src l with
        | some j =>
          if j / subWidth p = l / subWidth p ∧ bitOn s.enabled j = true then s.rl r.2.1 j
          else if (preOf p).fill then s.rl r.2.2 l else s.rl r.2.1 l
        | none => if (preOf p).fill then s.rl r.2.2 l else s.rl r.2.1 l

/-- The selected lanes of lane i's sub-group in ascending order. -/
def State.subGroup (s : State) (p : Option Pre) (i : Nat) : List Nat :=
  (List.range 32).filter fun j => bitOn (s.selected p) j && j / subWidth p == i / subWidth p

/-- A lane of a scan's source. -/
def State.scanLane (s : State) (t : BitVec 3) (a : RegNo) (j : Nat) : Nat :=
  if scanWide t then s.rl64 a j else (s.rl a j).toNat

/-- The lanes of a list combined in its order, from the operator's identity (R254). -/
def State.scanOf (s : State) (p : Option Pre) (t o : BitVec 3) (a : RegNo) (js : List Nat) : Nat :=
  js.foldl (fun acc j => (scanCombine t o (s.mode p) acc (s.scanLane t a j)).1) (scanIdentity t o)

/-- A scan's results in the lanes of R227, and the flags of its steps. -/
def State.Scanned (s u : State) (p : Option Pre) (t : BitVec 3) (d : RegNo) (fl : Nat → FFlags) (f : Nat → Nat) : Prop :=
  OnlyVectors s u (if scanWide t then [d, next d] else [d]) ∧
  u.sp.regs.status = statusOr s.sp.regs.status (flagsOver (s.selected p) fl) ∧
  (if scanWide t then PairsAre s u d (s.selected p) (preOf p).z f
   else LanesAre s u d (s.selected p) (preOf p).z fun i => BitVec.ofNat 32 (f i))

/-! ## Big numbers -/

/-- No access of the span that is still on its way touches the slot words of a register that has some (R261). -/
def State.SlotsQuiet (s : State) (rs : List RegNo) : Prop := ∀ r ∈ rs, 32 < (s.rtag r).len.toNat → s.slotBusy r = false

/-- From s to u the register d has become the number x: its lanes hold the low 32 limbs, its slot words the limbs above
them, its tag the length and the sign; nothing else changes (R258, R259). -/
def BigIs (s u : State) (d : RegNo) (x : Int) : Prop :=
  u = { s with
    mem := u.mem, monitors := u.monitors,
    memsys := { s.memsys with poisonedSectors := u.memsys.poisonedSectors },
    sp := { s.sp with held := u.sp.held, regs := { s.sp.regs with v := u.sp.regs.v, tag := u.sp.regs.tag } } } ∧
  (∀ n, n ≠ d → u.sp.regs.v[n.toNat]'n.isLt = s.sp.regs.v[n.toNat]'n.isLt ∧
    u.sp.regs.tag[n.toNat]'n.isLt = s.sp.regs.tag[n.toNat]'n.isLt) ∧
  (∀ i, i < 32 → u.lane d i = BitVec.ofNat 32 (x.natAbs / 2 ^ (32 * i))) ∧
  u.sp.regs.tag[d.toNat]'d.isLt = { len := BitVec.ofNat 7 (bigLen x), sign := decide (x < 0) } ∧
  (∀ a, Memory.get u.mem a =
    if s.slotKey d 0 ≤ a ∧ a < s.slotKey d 0 + 4 * (bigLen x - 32) then
      BitVec.ofNat 8 (x.natAbs / 2 ^ 1024 / 256 ^ (a - s.slotKey d 0))
    else Memory.get s.mem a)

/-- The instruction's own effect is put(d, x) of a number that fits (R259). -/
def State.Big (s : State) (i : Instr) (d : RegNo) (srcs : List RegNo) (x : Int) : Prop :=
  s.clear i → s.SlotsQuiet srcs → s.slotBusy d = false → bigLen x ≤ 32 + s.slotLimbs → Answers i s fun u => BigIs s u d x

/-! ## Work given to other units -/

/-- From s to u an operation of the span has entered its core's queue for the matrix engine, behind the accepted ones if it
is accepted, else behind those that wait; the registers of refs are pending; nothing else changes (R42, R270, R309). -/
def State.Queues (s u : State) (kind : EngineKind) (refs : List Ref) : Prop :=
  u = { s with
    nextId := s.nextId + 1, core := { s.core with ops := u.core.ops },
    sp := { s.sp with pend := s.sp.pend.put s.issue.gang refs true } } ∧
  ∃ o : EngineOp, o.id = s.nextId + 1 ∧ o.span = s.sp.id ∧ o.kind = kind ∧ o.modq = s.seen.modq ∧ o.xwin = s.seen.xwin ∧
    o.segs = s.seenSegs ∧ o.pc = s.here ∧ o.progress = 0 ∧ o.parked = none ∧ o.failed = none ∧
    o.accepted = (s.core.holder.isNone || s.core.holder == some s.sp.id.slot) ∧
    (u.core.ops.filter fun x => x.accepted) = (s.core.ops.filter fun x => x.accepted) ++ (if o.accepted then [o] else []) ∧
    (u.core.ops.filter fun x => !x.accepted) = (s.core.ops.filter fun x => !x.accepted) ++ (if o.accepted then [] else [o])

/-- From s to u a long operation of the span has begun, and the registers of refs are pending; nothing else changes
(R42). -/
def State.Starts (s u : State) (kind : SlowKind) (xpipe : Bool) (region : RegionId) (ready : Bool) (refs : List Ref) : Prop :=
  ∃ o : SlowOp, o.id = s.nextId + 1 ∧ o.span = s.sp.id ∧ o.kind = kind ∧ o.xpipe = xpipe ∧ o.pc = s.here ∧
    o.segs = s.seenSegs ∧ o.region = region ∧ o.ready = ready ∧ o.parked = none ∧ o.failed = none ∧
    u = { s with
      nextId := s.nextId + 1, slowOps := s.slowOps ++ [o],
      sp := { s.sp with pend := s.sp.pend.put s.issue.gang refs true } }

/-- A long-number instruction begins: every range that it names passes its checks, the destination only up to its bound and
not where the Hayloft is to give one, which the launch then allows (R277 to R280); a schoolbook product also queues its limb
tiles at the matrix engine (R282). -/
def State.Long (s : State) (i : Instr) (kind : BitVec 3) (d : RegNo) (a b : DWord × DWord) (srcs : List Desc) (z : Desc)
    (bound : Nat) (via : LongVia) : Prop :=
  s.clear i → (z.cap < bound → s.longAlloc = true) →
  s.rangesTrap (srcs.map (fun x => (x, false, x.len)) ++ [(z, true, if z.cap < bound then 0 else bound)]) = none →
  Answers i s fun u => ∃ v,
    (s.newEngineRegion 3).2.Starts v (.long kind d a b (decide (z.cap < bound)) via) true (s.newEngineRegion 3).1 false
      [.s d.toNat, .s (d.toNat + 1)] ∧
    if via = .tiles then v.Queues u (.limbTiles (s.nextId + 1)) [] else u = v

/-! ## Accesses -/

/-- A span-path access may be made: its region has room and no atomic's value is owed, every check of R142 passes, with
the given places, and no granule of an atomic set is touched by a task without a saddle. -/
def State.MayAccess (s : State) (k : Nat) (u : Use) (size : Nat) (whole : Bool) (ls : List (Nat × Nat))
    (ps : List Place) : Prop :=
  s.pathBusy = false ∧ s.checkLanes k u size whole ls = .ok ps ∧ s.grp.saddled = false ∧
    ∀ p ∈ ps, granulesOf s.asets k p.off size = []

/-- From s to v translations have been looked up: the caches have been read, with what a codeword read from DRAM leaves
(R84, R160), and memory keeps its bytes unless a block holds 18 erroneous bits or more. -/
def State.Filled (s v : State) : Prop :=
  v = { s with
    mem := v.mem, fresh := v.fresh,
    memsys := { s.memsys with
      lines := v.memsys.lines, msc := v.memsys.msc, dram := v.memsys.dram, scrubQ := v.memsys.scrubQ,
      sharers := v.memsys.sharers, channels := v.memsys.channels, drowsy := v.memsys.drowsy,
      bankUse := v.memsys.bankUse, trans := v.memsys.trans },
    host := { s.host with errors := v.host.errors, counters := v.host.counters } } ∧
  ((∀ d ∈ s.memsys.dram, d.errors ≤ 17) → v.mem = s.mem)

/-- From s to u the span has sent one operation, of which P holds, and the registers of refs are pending; what changes
beside it is the span's count of requests and its closing order, the core's L1, and what a translation reads. -/
def State.SendsOp (s u : State) (refs : List Ref) (P : MemOp → Prop) : Prop :=
  ∃ v o, s.Filled v ∧
    u = { v with
      nextId := s.nextId + 1, memOps := s.memOps ++ [o], core := { s.core with l1 := u.core.l1 },
      sp := { s.sp with
        regions := u.sp.regions, regSectors := u.sp.regSectors, pend := s.sp.pend.put s.issue.gang refs true } } ∧
    o.id = s.nextId + 1 ∧ o.span = s.sp.id ∧ o.group = s.sp.group ∧ o.path = 0 ∧ o.region = s.region ∧ o.pc = s.here ∧
    o.gang = s.issue.gang ∧ o.lanes = s.enabled ∧ P o

/-- The same for an operation with one request of `size` bytes for each place. -/
def State.Sends (s u : State) (k : Nat) (kind : AccessKind) (dest : Dest) (ps : List Place) (size : Nat) (data : Nat → Nat)
    (refs : List Ref) : Prop :=
  s.SendsOp u refs fun o => o.kind = kind ∧ o.dest = dest ∧ o.seg.toNat = k ∧
    (o.reqs.map fun q => (q.lane, q.va, q.key, q.bytes, q.data)) =
      ps.map fun p => (p.lane, p.va, p.key, size, BitVec.ofNat 256 (data p.lane))

/-- Row accesses may be made (R295, R306): every check passes, with the given places, and no granule of an atomic set is
touched by a task without a saddle. -/
def State.MayAccessRows (s : State) (k : Nat) (u : Use) (n : Nat) (starts : List Nat) (ps : List Place) : Prop :=
  s.checkRows k u n starts = .ok ps ∧ s.grp.saddled = false ∧
    ∀ x ∈ ps.zip (rowPieces (vecAt s.seenSegs k Seg.invalid) n starts), granulesOf s.asets k x.1.off x.2.len = []

/-- From s to u a load of the engine window has been sent and performed (R172): each lane has read the window's bytes. -/
def State.ReadsWindow (s u : State) (dest : Dest) (ls : List (Nat × Nat)) (size : Nat) (refs : List Ref) : Prop :=
  s.SendsOp u refs fun o => o.kind = .load ∧ o.dest = dest ∧
    (o.reqs.map fun q => (q.lane, q.status, q.result)) =
      ls.map fun l =>
        (l.1, .performed, BitVec.ofNat 256 (leOf ((s.sp.windowBytes.drop (s.windowBase + l.2)).take size)))

/-- Byte i of W0 to W3. -/
def Span.windowByte (p : Span) (i : Nat) : Nat := (vecAt p.window (i / 8) 0).toNat / 256 ^ (i % 8) % 256

/-- From s to u bytes of the engine window are written, by the highest lane that covers them (R172); nothing else
changes. -/
def State.WritesWindow (s u : State) (ls : List (Nat × Nat)) (size : Nat) (data : Nat → Nat) : Prop :=
  u = { s with sp := { s.sp with window := u.sp.window } } ∧
  ∀ i, i < 32 →
    ((∀ x ∈ ls, ¬(s.windowBase + x.2 ≤ i ∧ i < s.windowBase + x.2 + size)) → u.sp.windowByte i = s.sp.windowByte i) ∧
    (∀ x ∈ ls, s.windowBase + x.2 ≤ i → i < s.windowBase + x.2 + size →
      (∀ y ∈ ls, s.windowBase + y.2 ≤ i → i < s.windowBase + y.2 + size → y.1 ≤ x.1) →
      u.sp.windowByte i = data x.1 / 256 ^ (i - (s.windowBase + x.2)) % 256)

/-- From s to u nothing changes but priorities of cached lines and blocks; the blocks of the places have the given one,
unless their chain is demoted, or normal where 12 ways of their set are evict-last already (R156, R169). -/
def State.Reprioritised (s u : State) (prio : Prio) (qs : List Place) : Prop :=
  u = { s with memsys := { s.memsys with lines := u.memsys.lines, msc := u.memsys.msc } } ∧
  (u.memsys.lines.map fun x => { x with prio := .normal }) = (s.memsys.lines.map fun x => { x with prio := .normal }) ∧
  (u.memsys.msc.map fun x => { x with prio := .normal }) = (s.memsys.msc.map fun x => { x with prio := .normal }) ∧
  ∀ q ∈ qs, ∀ b ∈ u.memsys.msc, b.block = blockOf (s.canonPa q.key) → b.chain ∉ s.memsys.demoted →
    (b.prio = prio ∨ (prio = .evictLast ∧ b.prio = .normal)) ∧ (qs = [q] → b.prio = s.cappedMsc b.block prio)

/-- The places of the addresses that a priority instruction may reach; the others it leaves alone (R169). -/
def State.reachable (s : State) (k : Nat) (ls : List (Nat × Nat)) : List Place :=
  ls.filterMap fun x =>
    match s.checkNow s.sp.id.core (vecAt s.seenSegs k Seg.invalid) k .read x.1 x.2 1 with
    | .ok q => some q
    | _ => none

/-! ## Gait conversions (R248, R249) -/

/-- From s to u: S(b) = x, the mask register of the prefix's vc holds the outlier marks, V(d) the planes, and the flags
are ORed into STATUS; nothing else changes. -/
def State.Quantised (s u : State) (p : Option Pre) (d b : RegNo) (plane : Nat → Word) (out : List Bool) (fl : Nat → FFlags)
    (x : DWord) : Prop :=
  OnlyVectors ((s.withScalar b x).wm (preQ p) (maskOf 32 fun i => listAt out i false)) u [d] ∧
  u.sp.regs.status = statusOr s.sp.regs.status (flagsOver (BitVec.allOnes 32) fl) ∧
  LanesAre s u d (BitVec.allOnes 32) false plane

/-- An element converted to f32 or bf16. -/
def deqConv (bf : Bool) (m : RMode) (x : FVal) : Nat × FFlags := fConvert (if bf then Fmt.bf16 else Fmt.f32) m x

/-- A lane of the result: one f32, or two bf16 in the lower 16 lanes. -/
def deqLane (bf : Bool) (m : RMode) (val : Nat → FVal) (i : Nat) : Word :=
  if bf then
    if i < 16 then BitVec.ofNat 32 ((deqConv bf m (val (2 * i))).1 + (deqConv bf m (val (2 * i + 1))).1 * 2 ^ 16) else 0
  else BitVec.ofNat 32 (deqConv bf m (val i)).1

/-- The flags of a lane's elements together. -/
def deqFlags (bf : Bool) (m : RMode) (val : Nat → FVal) : FFlags :=
  flagsOver (if bf then BitVec.ofNat 32 0xFFFF else BitVec.allOnes 32) fun i =>
    if bf then (deqConv bf m (val (2 * i))).2.or (deqConv bf m (val (2 * i + 1))).2 else (deqConv bf m (val i)).2

/-- From s to u V(d) holds the converted elements, and their flags are ORed into STATUS; nothing else changes. -/
def State.Dequantised (s u : State) (bf : Bool) (m : RMode) (d : RegNo) (val : Nat → FVal) : Prop :=
  OnlyVectors s u [d] ∧ u.sp.regs.status = statusOr s.sp.regs.status (deqFlags bf m val) ∧
  LanesAre s u d (BitVec.allOnes 32) false (deqLane bf m val)

/-- A lane's element with a side list: a marked lane takes its outlier, which the list's requests have read in the order
of the marks; the others take the planes (R249). -/
def State.sideElement (w : State) (n : Nat) (a : RegNo) (marked : List Nat) (o : MemOp) (i : Nat) : FVal :=
  match (List.range marked.length).find? fun k => listAt marked k 32 == i with
  | some k =>
    match o.reqs.find? fun x => x.lane == k with
    | some x => FVal.ofBits Fmt.bf16 x.result.toNat
    | none => w.gaitElementAt n a i
  | none => w.gaitElementAt n a i

/-! ## Slices -/

/-- From s to u every slice of the gang has recorded a transfer, made when its packet has issued (R33); nothing else
changes. -/
def State.Transferred (s u : State) (f : Nat → Slice → Transfer) : Prop :=
  u = { s with sp := { s.sp with slices := u.sp.slices } } ∧
  ∀ j, j < 8 → u.sp.slice j = if s.inGang j then { s.sp.slice j with xfer := some (f j (s.sp.slice j)) } else s.sp.slice j

/-- From s to u every slice of the gang is to go to one target with its mask and stack unchanged (R234). -/
def State.Goes (s u : State) (target : DWord) : Prop := s.Transferred u fun _ x => .go target x.cur x.stack

/-- From s to u the gang waits in its instruction (R40); nothing else changes. -/
def State.WaitsIn (s u : State) (w : Wait) : Prop :=
  u = { s with issue := { s.issue with waiting := some w }, sp := { s.sp with slices := u.sp.slices } } ∧
  ∀ j, j < 8 → u.sp.slice j =
    if s.inGang j then { s.sp.slice j with wait := some w, slot := s.issue.slot, again := some s.againHere }
    else s.sp.slice j

/-- The span may end: its commands and records are complete, no held fault is due, its loads and other operations of
timing class A have completed, and all its accesses are performed (R44, R187, R189, R319). -/
def State.AtEnd (s : State) : Prop :=
  s.commandsOpen = false ∧ s.endFault = none ∧ s.ownsTask = false ∧ s.quietA = true ∧ s.allPerformed = true

/-! ## Events -/

/-- From s to u the span k has changed by f; no other span, and nothing else, has changed. -/
def State.Respans (s u : State) (k : SpanId) (f : Span → Span) : Prop :=
  u = { s with sp := u.sp, rest := u.rest } ∧ (∀ p, s.spanOf k = some p → u.spanOf k = some (f p)) ∧
  ∀ id, id ≠ k → u.spanOf id = s.spanOf id

/-- The same when only the span's slices change, each by f. -/
def State.Reslices (s u : State) (k : SpanId) (f : Slice → Slice) : Prop :=
  s.Respans u k fun p => { p with slices := vecMap p.slices fun _ x => f x }

/-- A sleep that has come to its time (R184, R186). -/
def Slice.slept (now : DWord) (x : Slice) : Slice :=
  match x.wait with
  | some (.sleep t) => if t.toNat ≤ now.toNat then { x with wait := some .woken } else x
  | _ => x

/-- A `fence.sc` that has come to its tick (R369). -/
def Slice.ticked (now : DWord) (x : Slice) : Slice :=
  match x.wait with
  | some (.tick t) => if t.toNat ≤ now.toNat then { x with wait := some .ticked } else x
  | _ => x

/-- A `bar.wait` that polls: its retest, and the next one 1 µs later (R343). -/
def Slice.retested (mem : Memory) (now : DWord) (x : Slice) : Slice :=
  match x.wait with
  | some (.barrier key gen false at_) =>
    if now.toNat < at_.toNat then x
    else if Memory.get mem (key + 15) = gen then { x with wait := some (.barrier key gen false (now + 1000)) }
    else { x with wait := some .woken }
  | _ => x

/-- A wait for one of the given monitors ends; a word that was poisoned is read again (R336, R343). -/
def Slice.notified (ms : List Monitor) (timedOut : Bool) (x : Slice) : Slice :=
  match x.wait with
  | some (.monitor id) =>
    match ms.find? fun m => m.id == id with
    | some m => { x with wait := some (.monitorDone timedOut m.poison) }
    | none => x
  | some (.barrier key _ true _) =>
    match ms.find? fun m => m.bar && m.key == key with
    | some m => { x with wait := some (if m.poison then .retry else .woken) }
    | none => x
  | _ => x

/-- The monitors of a span that are to wake it: satisfied, their notice not on its way through the fabric, and not held
back by another region's claim (R336, R371). -/
def State.ringing (s : State) (k : SpanId) : List Monitor :=
  s.monitors.filter fun m => m.span = k && m.away.isNone && m.satisfied && !s.transiting (.wake m.id) &&
    !s.syncBlocked k m.key (if m.bar then 16 else 8)

/-- The monitors of a span whose time has passed unsatisfied (R336). -/
def State.lapsed (s : State) (k : SpanId) : List Monitor :=
  s.monitors.filter fun m => m.span = k && m.away.isNone && !m.satisfied &&
    (m.deadline.map fun d => decide (d.toNat ≤ s.now.toNat)).getD false

/-- A slice that waits for a granule no longer waits for it (R350). -/
def Slice.seated (anchor : Nat) (x : Slice) : Slice :=
  match x.wait with
  | some (.saddle a _) => if a = anchor then { x with wait := none } else x
  | _ => x

/-- From s to u the given monitors of a span have woken it, and are gone. -/
def State.Wakes (s u : State) (k : SpanId) (ms : List Monitor) (timedOut : Bool) : Prop :=
  s.Reslices { u with monitors := s.monitors } k (Slice.notified ms timedOut) ∧
  u.monitors = s.monitors.filter fun x => !(ms.any fun m => m.id == x.id)

/-- From s to u the focused span has entered its handler for a trap (R413). -/
def State.Enters (s u : State) (t : TrapInfo) (gang : BitVec 8) (resume : DWord) : Prop :=
  u = { s with sp := u.sp, core := u.core, cores := u.cores, monitors := u.monitors } ∧
  u.sp.privileged = true ∧ u.sp.trapping = none ∧
  u.sp.trap = { s.sp.trap with
    faultpc := resume, faultaddr := t.addr, word0 := t.word0, word1 := t.cause.getD resume,
    word2 := BitVec.ofNat 64 t.region.toNat, sel := 0 } ∧
  u.sp.regs = { s.sp.regs with s := (s.sp.regs.s.set 62 t.word0).set 63 t.addr } ∧
  (∃ f, u.sp.frame = some f ∧ f.s62 = s.sp.regs.s[62] ∧ f.s63 = s.sp.regs.s[63] ∧ f.gang = gang ∧ f.entry = resume ∧
    ∀ j, j < 8 → vecAt f.slices j Slice.zero = { s.sp.slice j with wait := keptWait (s.sp.slice j).wait }) ∧
  (∀ j, j < 8 → u.sp.slice j = { Slice.zero with
    pc := BitVec.ofNat 64 (fld s.sp.trap.trapbase 0 48), slot := 0, cur := ~~~(s.sp.slice j).exited,
    exited := (s.sp.slice j).exited, left := BitVec.ofNat 64 (fld resume 0 48) }) ∧
  u.sp.pend = s.sp.pend ∧ u.sp.segs = s.sp.segs ∧ u.sp.held = s.sp.held ∧ u.sp.regions = s.sp.regions

/-- The spans that wait for the Reins of a core and may have them (R310). -/
def State.wantsReins (s : State) (k : CoreId) (p : Span) : Prop :=
  p ∈ s.spans ∧ p.id.core = k ∧ p.waitsReins = true ∧ (s.coreOf k).takable p.id.slot = true

/-- A slice that waits for the Reins has them. -/
def Slice.reined (x : Slice) : Slice := if x.wait = some .reins then { x with wait := some .woken } else x

/-- From s to u the front end has accepted a queue's next entry: HEAD has advanced, one record has been added to the
studbook, and time has not passed (R434, R436). -/
def State.Accepted (s u : State) (port : Bool) (q : BitVec 8) (x : Queue) (n : Nat) : Prop :=
  u.queueOf port q = { x with head := BitVec.ofNat 16 ((x.head.toNat + 1) % n) } ∧
  u.host.nextSeq = s.host.nextSeq + 1 ∧ u.host.bar0.studtail = s.host.nextSeq ∧ u.now = s.now ∧
  ∀ p k, (p, k) ≠ (port, q) → u.queueOf p k = s.queueOf p k

/-- From s to u one of a command's reads has landed: its units count, and a poisoned one then stops the command with an
engine fault (R86, R192). -/
def State.Lands (s u : State) (p : Span) (c : Command) (f : Flight) : Prop :=
  (f.bad = none → u = s.updCmd p.id c.token fun x =>
    { x with
      flight := x.flight.filter fun y => y.at_ != f.at_, done := x.done + f.units,
      undecremented := if cmdMode x.words = 1 then f.units * unitBytes x.words else 0, failed := none }) ∧
  ∀ va, f.bad = some va → u = (s.updCmd p.id c.token fun x =>
    { x with
      flight := x.flight.filter fun y => y.at_ != f.at_, done := x.done + f.units,
      undecremented := if cmdMode x.words = 1 then f.units * unitBytes x.words else 0 }).stopCmd p c.token
        ((actorOf p c).trap 9 va)

/-- From s to u a command that reads and lands has done one step (R191 to R193, R202): one of its reads in flight has been
landed, or a packet of at most `size` units that it has not read yet has been read, or neither was possible. -/
def State.Flies (s u : State) (p : Span) (c : Command) (size : Nat)
    (read : Nat → Nat → State → EngAns (Nat × List Byte × Option DWord)) : Prop :=
  ∃ v : State, v = { s with fresh := v.fresh } ∧
    ((∃ f ∈ c.flight, u = s.cmdAns p c (v.landFlight p c (actorOf p c) f)) ∨
     (∃ r ∈ c.unread, ∃ at_ n, r.1 ≤ at_ ∧ at_ + n ≤ r.2 ∧ 0 < n ∧ n ≤ size ∧
       u = s.cmdAns p c ((read at_ n v).bind fun x t => .ok () (t.updCmd p.id c.token fun y =>
         { y with
           unread := takeUnits y.unread at_ x.1,
           flight := y.flight ++ [{ at_ := at_, units := x.1, data := x.2.1, bad := x.2.2 }] }))) ∨
     (c.flight = [] ∧ u = s.cmdAns p c (.ok () s)))

/-! ## A cycle of a candidate -/

/-- What a cycle of a candidate adds to what its group has left (R386, R387, R400): the pass-overs of the others unless the
whole group stays where it is, the yields that end, and the passing of time. -/
def State.cycleEnd (w : State) (c : Candidate) : State :=
  ((if w.stalled then (if w.issue.blocked then w else (w.passOvers c).wakeOthers c.gang)
    else (w.passOvers c).wakeRetries).settleYields (if w.stalled then none else some c.span)).unissue.tick

/-- An enabled flag that an element of f sets raises FP_ENABLED and leaves everything else as it was (R226). -/
def State.FloatTraps (s : State) (i : Instr) (p : Option Pre) (ty : BitVec 3) (f : Nat → Nat → Nat × FFlags) : Prop :=
  s.clear i → (flagsOver (s.selected p) (elemFlags ty f)).trapsUnder s.seen.status = true →
    exec i s = .next (s.raise { s.trapOf 20 0 with
      detail := BitVec.ofNat 12 (flagsOver (s.selected p) (elemFlags ty f)).bits,
      lanes := maskOf 32 fun i => bitOn (s.selected p) i && (elemFlags ty f i).trapsUnder s.seen.status })

/-- The number that limbs stand for, least significant first. -/
def limbsValue (l : List Word) : Nat := l.foldr (fun x y => x.toNat + 2 ^ 32 * y) 0

end Sys2Proof.Machine

end
end

