-- ==== Sys2Proof/Certificates/Slice0/Obligations.lean ====
section
/-!
DEFINITION. The statements for the provers, one definition each.
-/

noncomputable section

open Sys2Proof Sys2Proof.Machine

/-- Decoding the words of an instruction gives it back (R28, R46, R50). -/
def Obligations.DecodeOfEncode : Prop :=
  ∀ (i : Instr) (rest : List Word), encode i ≠ [] → decodeWords (encode i ++ rest) = .ok (i, rest)

/-- Every step keeps memory in its canonical form (R6, R9). The canonical form is the model's own; log 1 names what an
unlisted byte reads as. -/
def Obligations.MemoryStaysCanonical : Prop :=
  ∀ s t : State, s.safe → step s = .next t → t.safe

/-- After every step no gang is in the middle of an issue (R15, R32). The issue context is the model's own field (log
3). -/
def Obligations.StepLeavesNothingAtIssue : Prop :=
  ∀ s t : State, step s = .next t → t.issue = Issue.zero

/-- A step runs the decoded instruction of the chosen gang (R28, R32, R35, R386). The order of candidates and the
length of a step are the model's (log 3). -/
def Obligations.StepRunsDecoded : Prop :=
  ∀ (s t g u : State) (c : Candidate) (x : Slice) (bs : List Byte) (ws : List Word) (i : Instr) (started : Bool),
    s.agenda = [] → s.settings = [] → s.promotes = none → s.pick = some c → s.issueTurn = true → t = s.focus c.span →
    x = t.sp.slice (lowestSlice (bitOn c.gang)) → x.again = none →
    (t.fetchUse x.pc.toNat).fetchBytes x.pc.toNat = .ok bs → ws = packetWords bs →
    g = (t.fetchUse x.pc.toNat).startIssue c.gang x.pc x.slot (x.slot + 1) →
    x.slot < 3 → groupLast ws x.slot = x.slot → chainFault ws x.slot x.slot = none →
    (started = true ∧ x.clause ≠ none) ∨ (started = false ∧ x.clause = none ∧ x.slot = 0 ∧ isHeader (listAt ws 0 0) = true) →
    decodeWords [listAt ws x.slot 0] = .ok (i, []) →
    u = g.atItem ws started { slot := x.slot, what := .ok i } →
    (u.preCheck i = none → ∀ v, exec i u = .next v →
      step s = .next (((if v.issue.blocked = true ∧ v.stalled = true ∧ (kindOf i).timing = .blocking then
          g.holdWord x.slot else v).closeGroup ws c.gang x.slot (x.slot + 1) false).cycleEnd c)) ∧
    (∀ e, u.preCheck i = some e → step s = .next (((u.atWord i).raise e).cycleEnd c))

/-- Every instruction and every step answers a next state (R9, R15, R404). -/
def Obligations.NoInstructionStops : Prop :=
  (∀ (i : Instr) (s : State), ∃ t, exec i s = .next t) ∧ ∀ s : State, ∃ t, step s = .next t

/-- The machine right after reset holds the values the spec gives (R9, R88, R100, R111, R126, R136, R157, R212, R218,
R225, R282, R443). The empty issue context is the model's own field (log 3). -/
def Obligations.ResetValues : Prop :=
  ∃ s : State, s = State.reset ∧ s.safe ∧ s.issue = Issue.zero ∧
    s.sp.regs.status = 0 ∧ s.sp.regs.modq = 0 ∧ s.sp.regs.qthresh = 0x7F800000 ∧ s.sp.regs.nttlim = 2048 ∧
    s.sp.regs.xwin = 0 ∧ s.sp.trap.faultpc = 0 ∧ s.sp.trap.faultaddr = 0 ∧ s.sp.trap.word0 = 0 ∧ s.sp.trap.word1 = 0 ∧
    s.sp.trap.word2 = 0 ∧ s.sp.trap.sel = 0 ∧ s.sp.privileged = false ∧
    (∀ k, k < 8 → (vecAt s.sp.segs k Seg.invalid).valid = false) ∧ (∀ k, k < 4 → vecAt s.sp.window k 1 = 0) ∧
    s.memsys.scrubHours = 24 ∧ s.memsys.idleHbm = 2000 ∧ s.memsys.idlePad = 2000 ∧
    (∀ d, d < 4 → vecAt s.memsys.drowsyPeriod d 0 = 8192) ∧
    s.memsys.demoted = [] ∧ s.memsys.keys = [] ∧ (∀ d, d < 5 → vecAt s.fabric.threshold d 0 = 2048) ∧
    (∀ l g, l < 10 → g.lanes = 0 → (vecAt s.fabric.girth l g).lanes = 20) ∧ s.fabric.hitchTimeout = 200000 ∧
    s.fabric.guard = 250 ∧ s.host.boxes = [] ∧ s.host.queues = [] ∧ s.host.bar0.studtail = 0 ∧ s.host.bar0.trbase = 0 ∧
    s.host.bar0.trsize = 0 ∧ s.host.bar0.trhead = 0 ∧ s.host.bar0.trtail = 0 ∧ s.host.bar0.trdrop = 0 ∧
    (∀ r, r < 4 → vecAt s.host.mr r 1 = 0)

/-- Words that the spec prints decode to the instructions they stand for (R46, R50, R55, R56, R57, R59, R60, R61, R62,
R63, R64, R65). -/
def Obligations.SpecWordsDecode : Prop :=
  decodeWords [0x00002107] = .ok (.add false 1 2 3 true, []) ∧
    decodeWords [0x4001021E] = .ok (.ld none false 0 4 2 7 2, []) ∧
    decodeWords [0x10005146] = .ok (.vadd none false 0 5 5 6, []) ∧
    decodeWords [0x3020A083] = .ok (.bsub false 10 2 3, []) ∧
    decodeWords [0x48012086] = .ok (.amoAdd false 0 2 2 2 6, []) ∧
    decodeWords [0x4AC70106] = .ok (.waitcmp false 6 true 6 0 4 6, []) ∧
    decodeWords [0x38800802] = .ok (.mmai false 0 1 0 2, []) ∧
    decodeWords [0x50428000] = .ok (.eqgo false 20, []) ∧
    decodeWords [0x5840A002] = .ok (.sysrd false 5 1, []) ∧
    decodeWords [0x58492026] = .ok (.syswr false 9 0x13, []) ∧
    decodeWords [0x6000828C] = .ok (.spawn false 4 5 6, []) ∧
    decodeWords [0x18048109] = .ok (.vfadd none false 1 8 4 9, []) ∧
    decodeWords [0x0843000A] = .ok (.movi false 3 10, []) ∧
    decodeWords [0x2B401000] = .ok (.vlane none false 1, []) ∧
    decodeWords [0x0C820002] = .ok (.brv false 2 2, []) ∧
    decodeWords [0x4C010000] = .ok (.fence false 2, []) ∧
    decodeWords [0x4C228000] = .ok (.fenceSc false 5, []) ∧
    decodeWords [0x4C408180] = .ok (.xfence false 1 0 3, []) ∧
    decodeWords [0x39801062] = .ok (.tload false 0 2 3 2, []) ∧
    decodeWords [0x3D883000] = .ok (.ttask false 4 6 0, []) ∧
    decodeWords [0x3E285160] = .ok (.spmv false 20 10 11, []) ∧
    decodeWords [0x4B20A107] = .ok (.barArrive false 1 2 4 7, []) ∧
    decodeWords [0x5090E02A] = .ok (.promiseChk false 7 21, []) ∧
    decodeWords [0x51010480] = .ok (.halloc false 8 9, []) ∧
    decodeWords [0x58000080] = .ok (.trap false 1, []) ∧
    decodeWords [0x58800000] = .ok (.rte false, []) ∧
    decodeWords [0x5888E200] = .ok (.segld false 7 4, []) ∧
    decodeWords [0x60080000] = .ok (.phaseEnd false, []) ∧
    decodeWords [0x60110480] = .ok (.acqx false 8 9, []) ∧
    decodeWords [0x60306004] = .ok (.lvl false 3 2, []) ∧
    decodeWords [0x01FA9F80] = .ok (.mov false 20 63 false, []) ∧
    decodeWords [0x0E400000] = .ok (.nop false, []) ∧
    decodeWords [0x14202044] = .ok (.vsubS none false 0 2 1 4, []) ∧
    decodeWords [0x16A02043] = .ok (.vcmpLtS none false 0 2 1 3, []) ∧
    decodeWords [0x3300C106] = .ok (.dotx false 12 4 6, []) ∧
    decodeWords [0x33205300] = .ok (.xround false 5 12, []) ∧
    decodeWords [0x30A471E8] = .ok (.bshlI false 7 7 40, []) ∧
    decodeWords [0x31006080] = .ok (.bcres false 6 2, []) ∧
    decodeWords [0x08FE003F] = .ok (.andi false 62 0x3F, []) ∧
    decodeWords [0x0A3E000A] = .ok (.cmpiEq false 62 10, []) ∧
    decodeWords [0x0C7E0002] = .ok (.brc false 62 2, []) ∧
    decodeWords [0x17A01005] = .ok (.vshlI none false 0 1 0 5, [])

/-- One word's checks run in the order of R35, and the first that fails traps (R22, R35, R42, R43, R263, R406, R414).
-/
def Obligations.WordsAreChecked : Prop :=
  ∀ (i : Instr) (s : State), encode i ≠ [] →
    (∀ n, s.illegal i = some n → exec i s = .next ((s.atWord i).raise (s.trapOf 0 n))) ∧
    (s.illegal i = none →
      (needsPrivilege i = true → s.sp.privileged = false → exec i s = .next ((s.atWord i).raise (s.trapOf 5 0))) ∧
      ((needsPrivilege i = true → s.sp.privileged = true) →
        (gangFirst i = true → s.fullGang = false → exec i s = .next ((s.atWord i).raise (s.trapOf 14 0))) ∧
        ((gangFirst i = true → s.fullGang = true) →
          (s.pendingAmong i (readsOf i) ≠ 0 → exec i s = .next ((s.atWord i).raise
            { s.trapOf 3 0 with lanes := s.pendingAmong i (readsOf i) })) ∧
          (s.pendingAmong i (readsOf i) = 0 →
            (s.pendingAmong i (writesOf i) ≠ 0 → exec i s = .next ((s.atWord i).raise
              { s.trapOf 3 1 with lanes := s.pendingAmong i (writesOf i) })) ∧
            (s.pendingAmong i (writesOf i) = 0 →
              (∀ h, s.heldFor i = some h → exec i s = .next ((s.dropHeld h).raise (s.heldTrap h))) ∧
              (s.heldFor i = none → gangLast i = true → s.fullGang = false →
                exec i s = .next (s.raise (s.trapOf 14 0))))))))

/-- A raised trap saves the frame and the trap registers and enters the handler (R404, R405, R409, R410, R411, R413,
R414, R415). -/
def Obligations.TrapsEnterTheHandler : Prop :=
  ∀ (s v : State) (t : TrapInfo), v = s.mapGang (fun x => { x with wait := none }) →
    (s.sp.privileged = false → fld s.sp.trap.trapbase 0 48 ≠ 0 → s.quietA = true →
      v.Enters { s.raise t with issue := v.issue } t s.issue.gang s.here) ∧
    (s.sp.privileged = false → fld s.sp.trap.trapbase 0 48 ≠ 0 → s.quietA = false →
      s.raise t = { v with
        issue := { s.issue with blocked := true },
        sp := { v.sp with trapping := some (t, s.issue.gang, s.here) } }) ∧
    (s.sp.privileged = true ∨ fld s.sp.trap.trapbase 0 48 = 0 →
      s.raise t = { v with
        issue := { s.issue with blocked := true }, grp := { s.grp with status := .trapped t.word0 s.here } }) ∧
    (t.word0.toNat % 64 = t.code.toNat ∧ t.word0.toNat / 2 ^ 8 % 2 ^ 4 = t.sub.toNat ∧
      t.word0.toNat / 2 ^ 12 % 2 ^ 12 = t.detail.toNat ∧ t.word0.toNat / 2 ^ 32 = t.lanes.toNat)

/-- FP_ENABLED and LENGTH_OVERFLOW are raised without any other effect (R226, R259, R267). -/
def Obligations.EnabledFlagsAndOverlongResultsTrap : Prop :=
  (∀ (s : State) (p : Option Pre) (c : Bool) (t : BitVec 3) (d a b : RegNo) (F : Fmt) (m : RMode)
    (A B S : Nat → Nat → FVal) (X : Nat → Nat → Nat), F = fpFmt t → m = s.mode p →
    A = s.fpVal t a → B = s.fpVal t b → S = s.fpSrcVal t (.scalar b) → X = (fun i k => fpElem t (s.fpLane t a i) k) →
    s.FloatTraps (.vfadd p c t d a b) p t (fun i k => fAdd F m (A i k) (B i k)) ∧
    s.FloatTraps (.vfsub p c t d a b) p t (fun i k => fAdd F m (A i k) (B i k).neg) ∧
    s.FloatTraps (.vfmul p c t d a b) p t (fun i k => fMul F m (A i k) (B i k)) ∧
    s.FloatTraps (.vffma p c t d a b) p t (fun i k => fFma F m (A i k) (B i k) (s.fpVal t (addend p d) i k)) ∧
    s.FloatTraps (.vfmin p c t d a b) p t (fun i k => fMinMax F false (X i k) (fpElem t (s.fpSrc t (.vec b) i) k)) ∧
    s.FloatTraps (.vfmax p c t d a b) p t (fun i k => fMinMax F true (X i k) (fpElem t (s.fpSrc t (.vec b) i) k)) ∧
    s.FloatTraps (.vfaddS p c t d a b) p t (fun i k => fAdd F m (A i k) (S i k)) ∧
    s.FloatTraps (.vfsubS p c t d a b) p t (fun i k => fAdd F m (A i k) (S i k).neg) ∧
    s.FloatTraps (.vfmulS p c t d a b) p t (fun i k => fMul F m (A i k) (S i k)) ∧
    s.FloatTraps (.vffmaS p c t d a b) p t (fun i k => fFma F m (A i k) (S i k) (s.fpVal t (addend p d) i k)) ∧
    s.FloatTraps (.vfminS p c t d a b) p t (fun i k => fMinMax F false (X i k) (fpElem t (s.fpSrc t (.scalar b) i) k)) ∧
    s.FloatTraps (.vfmaxS p c t d a b) p t (fun i k => fMinMax F true (X i k) (fpElem t (s.fpSrc t (.scalar b) i) k)) ∧
    s.FloatTraps (.vfdiv p c t d a b) p t (fun i k => fDiv F m (A i k) (B i k)) ∧
    s.FloatTraps (.vfscale p c t d a b) p t (fun i k => fScale F m (A i k) (s.rl b i).toInt) ∧
    s.FloatTraps (.vfround p c t d a) p t (fun i k => fRoundInt F m (A i k)) ∧
    s.FloatTraps (.vfabs p c t d a) p t (fun i k => (X i k % F.signBit, FFlags.none)) ∧
    s.FloatTraps (.vfneg p c t d a) p t (fun i k => (X i k ^^^ F.signBit, FFlags.none))) ∧
  (∀ (s : State) (c : Bool) (d a b : RegNo) (x y : Int), x = s.value a → y = s.value b → s.SlotsQuiet [a, b] →
    s.slotBusy d = false →
    (s.clear (.badd c d a b) → 32 + s.slotLimbs < bigLen (x + y) →
      exec (.badd c d a b) s = .next (s.raise (s.trapAt 15 (BitVec.ofNat 64 (bigLen (x + y)))))) ∧
    (s.clear (.bsub c d a b) → 32 + s.slotLimbs < bigLen (x - y) →
      exec (.bsub c d a b) s = .next (s.raise (s.trapAt 15 (BitVec.ofNat 64 (bigLen (x - y)))))) ∧
    (∀ z : Int, (z = 0 → bigLen z = 0) ∧ (z ≠ 0 → 2 ^ (32 * (bigLen z - 1)) ≤ z.natAbs ∧ z.natAbs < 2 ^ (32 * bigLen z))))

/-- The span-path checks of a load run in order, the lowest failing lane gives the address (R137, R141, R142). -/
def Obligations.AccessChecks : Prop :=
  ∀ (s : State) (p : Option Pre) (c : Bool) (k : BitVec 3) (d a b : RegNo) (l : BitVec 2) (ls : List (Nat × Nat)) (g : Seg), k ≠ 6 → s.pathBusy = false → s.lanes ≠ [] →
    ls = (s.lanes.map fun i => (i, (s.rs a).toNat + (s.rl b i).toNat * 2 ^ l.toNat)) → g = vecAt s.seenSegs k.toNat Seg.invalid →
    (∀ size i o, (i, size) ∈ [(Instr.ld p c k d a b l, 4), (.ld64 p c k d a b l, 8), (.ld16 p c k d a b l, 2)] →
      s.clear i → ls.find? (fun x => (g.baseOf + x.2) % size != 0) = some o →
      exec i s = .next (s.raise { s.trapAt 6 (BitVec.ofNat 64 (g.baseOf + o.2)) with
        lanes := maskOf 32 fun j => ls.any fun x => x.1 == j && (g.baseOf + x.2) % size != 0 })) ∧
    (∀ size i o, (i, size) ∈ [(Instr.ld p c k d a b l, 4), (.ld64 p c k d a b l, 8), (.ld16 p c k d a b l, 2)] →
      s.clear i → (∀ x ∈ ls, (g.baseOf + x.2) % size = 0) → ls.find? (fun x => decide (g.limit < x.2 + size)) = some o →
      exec i s = .next (s.raise { s.trapAt 4 (BitVec.ofNat 64 (g.baseOf + o.2)) with
        lanes := maskOf 32 fun j => ls.any fun x => x.1 == j && decide (g.limit < x.2 + size) })) ∧
    (∀ size i o, (i, size) ∈ [(Instr.ld p c k d a b l, 4), (.ld64 p c k d a b l, 8), (.ld16 p c k d a b l, 2)] →
      s.clear i → (∀ x ∈ ls, (g.baseOf + x.2) % size = 0 ∧ x.2 + size ≤ g.limit) → g.valid = false → ls.head? = some o →
      exec i s = .next (s.raise { s.trapAt 8 (BitVec.ofNat 64 (g.baseOf + o.2)) with
        lanes := maskOf 32 fun j => ls.any fun x => x.1 == j }))

/-- A write at a home reads back under its key and leaves other bytes alone (R84, R91, R96, R98). -/
def Obligations.MemoryReadsBackUnderItsKey : Prop :=
  ∀ (s : State) (key : Nat) (bs : List Byte) (slot : BitVec 10) (p : Policy), s.safe →
    (∀ d ∈ s.memsys.dram, d.errors ≤ 17) →
    (s.homeWrite key bs slot p).readKey slot key bs.length = bs ∧ (s.homeWrite key bs slot p).safe ∧
    (s.otherKey (s.keyFor slot key) (key / 512) = none → ∀ a, a < key ∨ key + bs.length ≤ a →
      Memory.get (s.homeWrite key bs slot p).mem a = Memory.get s.mem a) ∧
    ∀ die, (s.homeRead die key bs.length slot p).1 = s.readKey slot key bs.length ∧
      (s.homeRead die key bs.length slot p).2.2.mem = s.mem

/-- The results of class 0, each written to one register and nothing else changed (R232). -/
def Obligations.ScalarClassZero : Prop :=
  (∀ (s : State) (c : Bool) (d a b : RegNo) (x y : DWord) (u v : Word),
    x = s.rs a → y = s.rs b → u = low32 x → v = low32 y →
    s.Sets (.add c d a b false) d (x + y) ∧
    s.Sets (.add c d a b true) d ((u + v).signExtend 64) ∧
    s.Sets (.sub c d a b false) d (x - y) ∧
    s.Sets (.sub c d a b true) d ((u - v).signExtend 64) ∧
    s.Sets (.mul c d a b false) d (x * y) ∧
    s.Sets (.mul c d a b true) d ((u * v).signExtend 64) ∧
    s.Sets (.mulh c d a b false) d (BitVec.ofInt 64 (x.toInt * y.toInt / 2 ^ 64)) ∧
    s.Sets (.mulh c d a b true) d ((BitVec.ofInt 32 (u.toInt * v.toInt / 2 ^ 32)).signExtend 64) ∧
    s.Sets (.mulhu c d a b false) d (BitVec.ofNat 64 (x.toNat * y.toNat / 2 ^ 64)) ∧
    s.Sets (.mulhu c d a b true) d ((BitVec.ofNat 32 (u.toNat * v.toNat / 2 ^ 32)).signExtend 64) ∧
    s.Sets (.div c d a b false) d (if y = 0 then BitVec.allOnes 64 else x.sdiv y) ∧
    s.Sets (.div c d a b true) d ((if v = 0 then BitVec.allOnes 32 else u.sdiv v).signExtend 64) ∧
    s.Sets (.divu c d a b false) d (if y = 0 then BitVec.allOnes 64 else x / y) ∧
    s.Sets (.divu c d a b true) d ((if v = 0 then BitVec.allOnes 32 else u / v).signExtend 64) ∧
    s.Sets (.rem c d a b false) d (if y = 0 then x else x.srem y) ∧
    s.Sets (.rem c d a b true) d ((if v = 0 then u else u.srem v).signExtend 64) ∧
    s.Sets (.remu c d a b false) d (x % y) ∧
    s.Sets (.remu c d a b true) d ((u % v).signExtend 64)) ∧
  (∀ (s : State) (c : Bool) (d a b : RegNo) (x y : DWord) (u v : Word),
    x = s.rs a → y = s.rs b → u = low32 x → v = low32 y →
    s.Sets (.and c d a b false) d (x &&& y) ∧
    s.Sets (.and c d a b true) d ((u &&& v).signExtend 64) ∧
    s.Sets (.or c d a b false) d (x ||| y) ∧
    s.Sets (.or c d a b true) d ((u ||| v).signExtend 64) ∧
    s.Sets (.xor c d a b false) d (x ^^^ y) ∧
    s.Sets (.xor c d a b true) d ((u ^^^ v).signExtend 64) ∧
    s.Sets (.andn c d a b false) d (x &&& ~~~y) ∧
    s.Sets (.andn c d a b true) d ((u &&& ~~~v).signExtend 64) ∧
    s.Sets (.shl c d a b false) d (x <<< (y.toNat % 64)) ∧
    s.Sets (.shl c d a b true) d ((u <<< (v.toNat % 32)).signExtend 64) ∧
    s.Sets (.shr c d a b false) d (x >>> (y.toNat % 64)) ∧
    s.Sets (.shr c d a b true) d ((u >>> (v.toNat % 32)).signExtend 64) ∧
    s.Sets (.sar c d a b false) d (x.sshiftRight (y.toNat % 64)) ∧
    s.Sets (.sar c d a b true) d ((u.sshiftRight (v.toNat % 32)).signExtend 64) ∧
    s.Sets (.rol c d a b false) d (x.rotateLeft (y.toNat % 64)) ∧
    s.Sets (.rol c d a b true) d ((u.rotateLeft (v.toNat % 32)).signExtend 64) ∧
    s.Sets (.min c d a b false) d (if x.sle y then x else y) ∧
    s.Sets (.min c d a b true) d ((if u.sle v then u else v).signExtend 64) ∧
    s.Sets (.max c d a b false) d (if x.sle y then y else x) ∧
    s.Sets (.max c d a b true) d ((if u.sle v then v else u).signExtend 64) ∧
    s.Sets (.minu c d a b false) d (if x.ule y then x else y) ∧
    s.Sets (.minu c d a b true) d ((if u.ule v then u else v).signExtend 64) ∧
    s.Sets (.maxu c d a b false) d (if x.ule y then y else x) ∧
    s.Sets (.maxu c d a b true) d ((if u.ule v then v else u).signExtend 64)) ∧
  (∀ (s : State) (c : Bool) (d a b : RegNo) (x y : DWord) (u v : Word),
    x = s.rs a → y = s.rs b → u = low32 x → v = low32 y →
    s.Sets (.cmpEq c d a b false) d (asWord (x == y)) ∧
    s.Sets (.cmpEq c d a b true) d (asWord (u == v)) ∧
    s.Sets (.cmpNe c d a b false) d (asWord (x != y)) ∧
    s.Sets (.cmpNe c d a b true) d (asWord (u != v)) ∧
    s.Sets (.cmpLt c d a b false) d (asWord (x.slt y)) ∧
    s.Sets (.cmpLt c d a b true) d (asWord (u.slt v)) ∧
    s.Sets (.cmpGe c d a b false) d (asWord (y.sle x)) ∧
    s.Sets (.cmpGe c d a b true) d (asWord (v.sle u)) ∧
    s.Sets (.cmpLtu c d a b false) d (asWord (x.ult y)) ∧
    s.Sets (.cmpLtu c d a b true) d (asWord (u.ult v)) ∧
    s.Sets (.cmpGeu c d a b false) d (asWord (y.ule x)) ∧
    s.Sets (.cmpGeu c d a b true) d (asWord (v.ule u))) ∧
  (∀ (s : State) (c : Bool) (d a b : RegNo) (w : Bool) (n : Nat), n = (if w then 32 else 64) →
    s.clear (.addc c d a b w) →
    ∃ t r, exec (.addc c d a b w) s = .next t ∧
      r = (s.rs a).toNat % 2 ^ n + (s.rs b).toNat % 2 ^ n + (if bitOn s.seen.status 13 then 1 else 0) ∧
      t = { s.withScalar d (if w then (BitVec.ofNat 32 r).signExtend 64 else BitVec.ofNat 64 r) with
        sp := { (s.withScalar d (if w then (BitVec.ofNat 32 r).signExtend 64 else BitVec.ofNat 64 r)).sp with
          regs := { (s.withScalar d (if w then (BitVec.ofNat 32 r).signExtend 64 else BitVec.ofNat 64 r)).sp.regs with
            status := t.sp.regs.status } } } ∧
      (∀ i, i < 64 → i ≠ 13 → bitOn t.sp.regs.status i = bitOn s.sp.regs.status i) ∧
      bitOn t.sp.regs.status 13 = decide (2 ^ n ≤ r)) ∧
  (∀ (s : State) (c : Bool) (d a b : RegNo) (w : Bool) (n x p k : Nat), n = (if w then 32 else 64) →
    x = (s.rs a).toNat % 2 ^ n → p = (s.rs b).toNat % 64 → k = min ((s.rs b).toNat / 2 ^ 8 % 128) (64 - p) →
    s.Sets (.sel c d a b) d (if s.rs d = 0 then s.rs b else s.rs a) ∧
    (s.clear (.clz c d a w) → ∃ r, exec (.clz c d a w) s = .next (s.withScalar d (BitVec.ofNat 64 r)) ∧
      r ≤ n ∧ x < 2 ^ (n - r) ∧ (r < n → 2 ^ (n - r - 1) ≤ x)) ∧
    (s.clear (.ctz c d a w) → ∃ r, exec (.ctz c d a w) s = .next (s.withScalar d (BitVec.ofNat 64 r)) ∧
      r ≤ n ∧ (∀ i, i < r → x.testBit i = false) ∧ (r < n → x.testBit r = true)) ∧
    s.Sets (.popc c d a w) d (BitVec.ofNat 64 ((List.range n).countP fun i => x.testBit i)) ∧
    s.Sets (.bext c d a b) d (BitVec.ofNat 64 ((s.rs a).toNat / 2 ^ p % 2 ^ k)) ∧
    (s.clear (.bins c d a b) → ∃ y : DWord, exec (.bins c d a b) s = .next (s.withScalar d y) ∧
      ∀ i, i < 64 → bitOn y i =
        if p ≤ i ∧ i < p + k then bitOn (s.rs a) (i - p) else bitOn (s.rs d) i) ∧
    s.Sets (.mov c d a false) d (s.rs a) ∧
    s.Sets (.mov c d a true) d ((low32 (s.rs a)).signExtend 64))

/-- The results of class 1's immediate instructions (R56, R233). -/
def Obligations.ScalarImmediates : Prop :=
  ∀ (s : State) (c : Bool) (d : RegNo) (i : BitVec 16) (k : BitVec 6) (x e : DWord), x = s.rs d → e = i.signExtend 64 →
    s.Sets (.addi c d i) d (x + e) ∧
    s.Sets (.movi c d i) d e ∧
    s.Sets (.movhi c d i) d (x <<< 16 ||| i.setWidth 64) ∧
    s.Sets (.andi c d i) d (x &&& e) ∧
    s.Sets (.ori c d i) d (x ||| i.setWidth 64) ∧
    s.Sets (.xori c d i) d (x ^^^ i.setWidth 64) ∧
    s.Sets (.cmpiEq c d i) d (asWord (x == e)) ∧
    s.Sets (.cmpiNe c d i) d (asWord (x != e)) ∧
    s.Sets (.cmpiLt c d i) d (asWord (x.slt e)) ∧
    s.Sets (.cmpiGe c d i) d (asWord (e.sle x)) ∧
    s.Sets (.cmpiLtu c d i) d (asWord (x.ult e)) ∧
    s.Sets (.cmpiGeu c d i) d (asWord (e.ule x)) ∧
    s.Sets (.shli c d k) d (x <<< k.toNat) ∧
    s.Sets (.shri c d k) d (x >>> k.toNat)

/-- The elements of class 2's general rule and everything they leave alone (R227, R228, R240, R241, R243). -/
def Obligations.VectorIntegers : Prop :=
  (∀ (s : State) (p : Option Pre) (c : Bool) (t : BitVec 3) (d a b : RegNo) (j : BitVec 6) (A B S M : Nat → Nat → Int),
    A = s.el t (.vec a) → B = s.el t (.vec b) → S = s.el t (.scalar b) → M = s.el t (.imm j) →
    s.DoesInt (.vadd p c t d a b) p t d (fun i k => A i k + B i k) ∧
    s.DoesInt (.vaddS p c t d a b) p t d (fun i k => A i k + S i k) ∧
    s.DoesInt (.vaddI p c t d a j) p t d (fun i k => A i k + M i k) ∧
    s.DoesInt (.vsub p c t d a b) p t d (fun i k => A i k - B i k) ∧
    s.DoesInt (.vsubS p c t d a b) p t d (fun i k => A i k - S i k) ∧
    s.DoesInt (.vsubI p c t d a j) p t d (fun i k => A i k - M i k) ∧
    s.DoesInt (.vmul p c t d a b) p t d (fun i k => A i k * B i k) ∧
    s.DoesInt (.vmulS p c t d a b) p t d (fun i k => A i k * S i k) ∧
    s.DoesInt (.vmulh p c t d a b) p t d (fun i k => A i k * B i k / 2 ^ elemW t) ∧
    s.DoesInt (.vmulhS p c t d a b) p t d (fun i k => A i k * S i k / 2 ^ elemW t) ∧
    s.DoesInt (.vmad p c t d a b) p t d (fun i k => A i k * B i k + s.el t (.vec (addend p d)) i k) ∧
    s.DoesInt (.vmin p c t d a b) p t d (fun i k => min (A i k) (B i k)) ∧
    s.DoesInt (.vminS p c t d a b) p t d (fun i k => min (A i k) (S i k)) ∧
    s.DoesInt (.vmax p c t d a b) p t d (fun i k => max (A i k) (B i k)) ∧
    s.DoesInt (.vmaxS p c t d a b) p t d (fun i k => max (A i k) (S i k))) ∧
  (∀ (s : State) (p : Option Pre) (c : Bool) (t : BitVec 3) (d a b : RegNo) (j : BitVec 6) (W : Nat)
    (A B S M C : Nat → Nat → Nat), W = elemW t →
    A = s.bits t (.vec a) → B = s.bits t (.vec b) → S = s.bits t (.scalar b) → M = s.bits t (.imm j) →
    C = s.bits t (.count j) →
    s.DoesInt (.vand p c t d a b) p t d (fun i k => (A i k &&& B i k : Nat)) ∧
    s.DoesInt (.vandS p c t d a b) p t d (fun i k => (A i k &&& S i k : Nat)) ∧
    s.DoesInt (.vandI p c t d a j) p t d (fun i k => (A i k &&& M i k : Nat)) ∧
    s.DoesInt (.vor p c t d a b) p t d (fun i k => (A i k ||| B i k : Nat)) ∧
    s.DoesInt (.vorS p c t d a b) p t d (fun i k => (A i k ||| S i k : Nat)) ∧
    s.DoesInt (.vorI p c t d a j) p t d (fun i k => (A i k ||| M i k : Nat)) ∧
    s.DoesInt (.vxor p c t d a b) p t d (fun i k => (A i k ^^^ B i k : Nat)) ∧
    s.DoesInt (.vxorS p c t d a b) p t d (fun i k => (A i k ^^^ S i k : Nat)) ∧
    s.DoesInt (.vxorI p c t d a j) p t d (fun i k => (A i k ^^^ M i k : Nat)) ∧
    s.DoesInt (.vshl p c t d a b) p t d (fun i k => if W ≤ B i k then 0 else (A i k * 2 ^ B i k : Nat)) ∧
    s.DoesInt (.vshlS p c t d a b) p t d (fun i k => if W ≤ S i k then 0 else (A i k * 2 ^ S i k : Nat)) ∧
    s.DoesInt (.vshlI p c t d a j) p t d (fun i k => if W ≤ C i k then 0 else (A i k * 2 ^ C i k : Nat)) ∧
    s.DoesInt (.vshr p c t d a b) p t d (fun i k => if W ≤ B i k then 0 else (A i k / 2 ^ B i k : Nat)) ∧
    s.DoesInt (.vshrS p c t d a b) p t d (fun i k => if W ≤ S i k then 0 else (A i k / 2 ^ S i k : Nat)) ∧
    s.DoesInt (.vshrI p c t d a j) p t d (fun i k => if W ≤ C i k then 0 else (A i k / 2 ^ C i k : Nat)) ∧
    s.DoesInt (.vsar p c t d a b) p t d (fun i k => if W ≤ B i k then (if sx (A i k) W < 0 then -1 else 0) else sx (A i k) W / 2 ^ B i k) ∧
    s.DoesInt (.vsarS p c t d a b) p t d (fun i k => if W ≤ S i k then (if sx (A i k) W < 0 then -1 else 0) else sx (A i k) W / 2 ^ S i k) ∧
    s.DoesInt (.vsarI p c t d a j) p t d (fun i k => if W ≤ C i k then (if sx (A i k) W < 0 then -1 else 0) else sx (A i k) W / 2 ^ C i k) ∧
    s.DoesInt (.vabs p c t d a) p t d (fun i k => |sx (A i k) W|) ∧
    s.DoesInt (.vpopc p c t d a) p t d (fun i k => (((List.range W).countP fun x => (A i k).testBit x : Nat) : Int)) ∧
    s.DoesInt (.vmov p c t d a) p t d (fun i k => (A i k : Int))) ∧
  (∀ (s : State) (p : Option Pre) (c : Bool) (t : BitVec 3) (d a b : RegNo) (A B S : Nat → Nat → Nat),
    A = s.bits 1 (.vec a) → B = s.bits 1 (.vec b) → S = s.bits 1 (.scalar b) →
    s.DoesInt (.vmulhu p c d a b) p 1 d (fun i k => (A i k * B i k / 2 ^ 32 : Nat)) ∧
    s.DoesInt (.vmulhuS p c d a b) p 1 d (fun i k => (A i k * S i k / 2 ^ 32 : Nat)) ∧
    s.DoesInt (.vminu p c d a b) p 1 d (fun i k => (min (A i k) (B i k) : Nat)) ∧
    s.DoesInt (.vminuS p c d a b) p 1 d (fun i k => (min (A i k) (S i k) : Nat)) ∧
    s.DoesInt (.vmaxu p c d a b) p 1 d (fun i k => (max (A i k) (B i k) : Nat)) ∧
    s.DoesInt (.vmaxuS p c d a b) p 1 d (fun i k => (max (A i k) (S i k) : Nat)) ∧
    s.DoesInt (.vclz p c t d a) p t d (fun i k => (clzOf (elemW t) (s.bits t (.vec a) i k) : Nat)) ∧
    s.DoesInt (.vbext p c d a b) p 0 d (fun i k =>
      let x := s.bits 0 (.vec a) i k
      let y := s.bits 0 (.vec b) i k
      (x / 2 ^ (y % 32) % 2 ^ min (y / 2 ^ 8 % 64) (32 - y % 32) : Nat)) ∧
    s.DoesInt (.vmovs p c t d a) p t d (fun _ _ => if t = 2 then ((s.rs a).toNat : Int) else ((s.rs a).toNat % 2 ^ 32 : Nat)))

/-- vaddc and vsubc carry through m15; vmulw writes pairs; vsel chooses by mask (R242). -/
def Obligations.VectorCarryWideSelect : Prop :=
  ∀ (s : State) (p : Option Pre) (c : Bool) (t : BitVec 3) (d a b : RegNo) (x y cin : Nat → Nat),
    x = (fun i => (s.rl a i).toNat) → y = (fun i => (s.rl b i).toNat) →
    cin = (fun i => if bitOn (s.rm 15) i then 1 else 0) →
    s.Does (.vaddc p c d a b) (fun u => ∃ v, OnlyVectors s v [d] ∧ MaskIs v u 15 (s.selected p) (preOf p).z
        (fun i => decide (2 ^ 32 ≤ x i + y i + cin i)) ∧ u.sp.regs.status = s.sp.regs.status ∧
      LanesAre s u d (s.selected p) (preOf p).z fun i => BitVec.ofNat 32 (x i + y i + cin i)) ∧
    s.Does (.vsubc p c d a b) (fun u => ∃ v, OnlyVectors s v [d] ∧ MaskIs v u 15 (s.selected p) (preOf p).z
        (fun i => decide (x i < y i + cin i)) ∧ u.sp.regs.status = s.sp.regs.status ∧
      LanesAre s u d (s.selected p) (preOf p).z fun i => BitVec.ofInt 32 ((x i : Int) - y i - cin i)) ∧
    s.Does (.vmulw p c t d a b) (fun u => OnlyVectors s u [d, next d] ∧ u.sp.regs.status = s.sp.regs.status ∧
      PairsAre s u d (s.selected p) (preOf p).z fun i =>
        if t = 1 then x i * y i else wrapTo 64 (sx (x i) (elemW t) * sx (y i) (elemW t))) ∧
    s.Does (.vsel p c t d a b) (fun u => OnlyVectors s u (if t = 2 then [d, next d] else [d]) ∧
      u.sp.regs.status = s.sp.regs.status ∧
      ∀ n, n ∈ (if t = 2 then [(d, a, b), (next d, next a, next b)] else [(d, a, b)]) → ∀ i, i < 32 →
        u.lane n.1 i = if bitOn s.enabled i then
          (if bitOn (s.rm (preOf p).mask.toNat) i then s.rl n.2.1 i else s.rl n.2.2 i) else s.lane n.1 i)

/-- vcmp writes one mask bit per selected lane and nothing else (R227, R243). -/
def Obligations.VectorCompare : Prop :=
  ∀ (s : State) (p : Option Pre) (c : Bool) (t : BitVec 3) (m a b : RegNo) (A B S : Nat → Nat → Int),
    A = s.el t (.vec a) → B = s.el t (.vec b) → S = s.el t (.scalar b) →
    s.DoesMask (.vcmpEq p c t m a b) p m (fun i => ∀ k, k < elemN t → A i k = B i k) ∧
    s.DoesMask (.vcmpEqS p c t m a b) p m (fun i => ∀ k, k < elemN t → A i k = S i k) ∧
    s.DoesMask (.vcmpNe p c t m a b) p m (fun i => ∀ k, k < elemN t → A i k ≠ B i k) ∧
    s.DoesMask (.vcmpNeS p c t m a b) p m (fun i => ∀ k, k < elemN t → A i k ≠ S i k) ∧
    s.DoesMask (.vcmpLt p c t m a b) p m (fun i => ∀ k, k < elemN t → A i k < B i k) ∧
    s.DoesMask (.vcmpLtS p c t m a b) p m (fun i => ∀ k, k < elemN t → A i k < S i k) ∧
    s.DoesMask (.vcmpGe p c t m a b) p m (fun i => ∀ k, k < elemN t → B i k ≤ A i k) ∧
    s.DoesMask (.vcmpGeS p c t m a b) p m (fun i => ∀ k, k < elemN t → S i k ≤ A i k)

/-- The elements and flags of class 3's arithmetic (R206, R207, R208, R209, R226, R244). -/
def Obligations.FloatArithmetic : Prop :=
  ∀ (s : State) (p : Option Pre) (c : Bool) (t : BitVec 3) (d a b : RegNo) (F : Fmt) (m : RMode)
    (A B S : Nat → Nat → FVal) (X : Nat → Nat → Nat), F = fpFmt t → m = s.mode p →
    A = s.fpVal t a → B = s.fpVal t b → S = s.fpSrcVal t (.scalar b) → X = (fun i k => fpElem t (s.fpLane t a i) k) →
    s.DoesFloat (.vfadd p c t d a b) p t d (fun i k => fAdd F m (A i k) (B i k)) ∧
    s.DoesFloat (.vfsub p c t d a b) p t d (fun i k => fAdd F m (A i k) (B i k).neg) ∧
    s.DoesFloat (.vfmul p c t d a b) p t d (fun i k => fMul F m (A i k) (B i k)) ∧
    s.DoesFloat (.vffma p c t d a b) p t d (fun i k => fFma F m (A i k) (B i k) (s.fpVal t (addend p d) i k)) ∧
    s.DoesFloat (.vfmin p c t d a b) p t d (fun i k => fMinMax F false (X i k) (fpElem t (s.fpSrc t (.vec b) i) k)) ∧
    s.DoesFloat (.vfmax p c t d a b) p t d (fun i k => fMinMax F true (X i k) (fpElem t (s.fpSrc t (.vec b) i) k)) ∧
    s.DoesFloat (.vfaddS p c t d a b) p t d (fun i k => fAdd F m (A i k) (S i k)) ∧
    s.DoesFloat (.vfsubS p c t d a b) p t d (fun i k => fAdd F m (A i k) (S i k).neg) ∧
    s.DoesFloat (.vfmulS p c t d a b) p t d (fun i k => fMul F m (A i k) (S i k)) ∧
    s.DoesFloat (.vffmaS p c t d a b) p t d (fun i k => fFma F m (A i k) (S i k) (s.fpVal t (addend p d) i k)) ∧
    s.DoesFloat (.vfminS p c t d a b) p t d (fun i k => fMinMax F false (X i k) (fpElem t (s.fpSrc t (.scalar b) i) k)) ∧
    s.DoesFloat (.vfmaxS p c t d a b) p t d (fun i k => fMinMax F true (X i k) (fpElem t (s.fpSrc t (.scalar b) i) k)) ∧
    s.DoesFloat (.vfdiv p c t d a b) p t d (fun i k => fDiv F m (A i k) (B i k)) ∧
    s.DoesFloat (.vfscale p c t d a b) p t d (fun i k => fScale F m (A i k) (s.rl b i).toInt) ∧
    s.DoesFloat (.vfround p c t d a) p t d (fun i k => fRoundInt F m (A i k)) ∧
    s.DoesFloat (.vfabs p c t d a) p t d (fun i k => (X i k % F.signBit, FFlags.none)) ∧
    s.DoesFloat (.vfneg p c t d a) p t d (fun i k => (X i k ^^^ F.signBit, FFlags.none))

/-- The class 4 functions write their grade's result, and nothing else changes (R223, R224, R246). Which value inside
a fast grade's bound results is a free value (log 6). -/
def Obligations.Transcendentals : Prop :=
  ∀ (s : State) (p : Option Pre) (c : Bool) (t : BitVec 3) (d a : RegNo) (F : Fmt) (m : RMode) (X : Nat → Nat → Nat),
    F = fpFmt t → m = s.mode p → X = (fun i k => fpElem t (s.fpLane t a i) k) →
    s.DoesFloat (.vexp2 p c t d a) p t d (fun i k => fastResult F .exp2 t.toNat (X i k)) ∧
    s.DoesFloat (.vexp2Acc p c t d a) p t d (fun i k => accurateResult F .exp2 t.toNat m (X i k)) ∧
    s.DoesFloat (.vexp p c t d a) p t d (fun i k => fastResult F .exp t.toNat (X i k)) ∧
    s.DoesFloat (.vexpAcc p c t d a) p t d (fun i k => accurateResult F .exp t.toNat m (X i k)) ∧
    s.DoesFloat (.vlog2 p c t d a) p t d (fun i k => fastResult F .log2 t.toNat (X i k)) ∧
    s.DoesFloat (.vlog2Acc p c t d a) p t d (fun i k => accurateResult F .log2 t.toNat m (X i k)) ∧
    s.DoesFloat (.vln p c t d a) p t d (fun i k => fastResult F .ln t.toNat (X i k)) ∧
    s.DoesFloat (.vlnAcc p c t d a) p t d (fun i k => accurateResult F .ln t.toNat m (X i k)) ∧
    s.DoesFloat (.vrcp p c t d a) p t d (fun i k => fastResult F .rcp t.toNat (X i k)) ∧
    s.DoesFloat (.vrcpAcc p c t d a) p t d (fun i k => accurateResult F .rcp t.toNat m (X i k)) ∧
    s.DoesFloat (.vrsqrt p c t d a) p t d (fun i k => fastResult F .rsqrt t.toNat (X i k)) ∧
    s.DoesFloat (.vrsqrtAcc p c t d a) p t d (fun i k => accurateResult F .rsqrt t.toNat m (X i k)) ∧
    s.DoesFloat (.vsqrt p c t d a) p t d (fun i k => fastResult F .sqrt t.toNat (X i k)) ∧
    s.DoesFloat (.vsqrtAcc p c t d a) p t d (fun i k => accurateResult F .sqrt t.toNat m (X i k)) ∧
    s.DoesFloat (.vsin p c t d a) p t d (fun i k => fastResult F .sin t.toNat (X i k)) ∧
    s.DoesFloat (.vsinAcc p c t d a) p t d (fun i k => accurateResult F .sin t.toNat m (X i k)) ∧
    s.DoesFloat (.vcos p c t d a) p t d (fun i k => fastResult F .cos t.toNat (X i k)) ∧
    s.DoesFloat (.vcosAcc p c t d a) p t d (fun i k => accurateResult F .cos t.toNat m (X i k)) ∧
    s.DoesFloat (.vtanh p c t d a) p t d (fun i k => fastResult F .tanh t.toNat (X i k)) ∧
    s.DoesFloat (.vtanhAcc p c t d a) p t d (fun i k => accurateResult F .tanh t.toNat m (X i k)) ∧
    s.DoesFloat (.vsigm p c t d a) p t d (fun i k => fastResult F .sigm t.toNat (X i k)) ∧
    s.DoesFloat (.vsigmAcc p c t d a) p t d (fun i k => accurateResult F .sigm t.toNat m (X i k)) ∧
    s.DoesFloat (.verf p c t d a) p t d (fun i k => fastResult F .erf t.toNat (X i k)) ∧
    s.DoesFloat (.verfAcc p c t d a) p t d (fun i k => accurateResult F .erf t.toNat m (X i k))

/-- vfcmp writes mask bits and flags; vfclass writes class words (R226, R244, R245). -/
def Obligations.FloatCompareAndClass : Prop :=
  ∀ (s : State) (p : Option Pre) (c : Bool) (t : BitVec 3) (d m a b : RegNo) (A B : Nat → Nat → FVal),
    A = s.fpVal t a → B = s.fpVal t b →
    (s.clear (.vfcmpEq p c t m a b) →
      (flagsOver (s.selected p) (fun i => laneFlags (fpN t) fun k => (fCompare .eq (A i k) (B i k)).2)).trapsUnder
        s.seen.status = false →
      Answers (.vfcmpEq p c t m a b) s fun u =>
        u.sp.regs.status = statusOr s.sp.regs.status
          (flagsOver (s.selected p) (fun i => laneFlags (fpN t) fun k => (fCompare .eq (A i k) (B i k)).2)) ∧
        MaskIs s u m (s.selected p) (preOf p).z fun i => decide (∀ k, k < fpN t → (fCompare .eq (A i k) (B i k)).1 = true)) ∧
    (s.clear (.vfcmpNe p c t m a b) →
      (flagsOver (s.selected p) (fun i => laneFlags (fpN t) fun k => (fCompare .ne (A i k) (B i k)).2)).trapsUnder
        s.seen.status = false →
      Answers (.vfcmpNe p c t m a b) s fun u =>
        u.sp.regs.status = statusOr s.sp.regs.status
          (flagsOver (s.selected p) (fun i => laneFlags (fpN t) fun k => (fCompare .ne (A i k) (B i k)).2)) ∧
        MaskIs s u m (s.selected p) (preOf p).z fun i => decide (∀ k, k < fpN t → (fCompare .ne (A i k) (B i k)).1 = true)) ∧
    (s.clear (.vfcmpLt p c t m a b) →
      (flagsOver (s.selected p) (fun i => laneFlags (fpN t) fun k => (fCompare .lt (A i k) (B i k)).2)).trapsUnder
        s.seen.status = false →
      Answers (.vfcmpLt p c t m a b) s fun u =>
        u.sp.regs.status = statusOr s.sp.regs.status
          (flagsOver (s.selected p) (fun i => laneFlags (fpN t) fun k => (fCompare .lt (A i k) (B i k)).2)) ∧
        MaskIs s u m (s.selected p) (preOf p).z fun i => decide (∀ k, k < fpN t → (fCompare .lt (A i k) (B i k)).1 = true)) ∧
    (s.clear (.vfcmpLe p c t m a b) →
      (flagsOver (s.selected p) (fun i => laneFlags (fpN t) fun k => (fCompare .le (A i k) (B i k)).2)).trapsUnder
        s.seen.status = false →
      Answers (.vfcmpLe p c t m a b) s fun u =>
        u.sp.regs.status = statusOr s.sp.regs.status
          (flagsOver (s.selected p) (fun i => laneFlags (fpN t) fun k => (fCompare .le (A i k) (B i k)).2)) ∧
        MaskIs s u m (s.selected p) (preOf p).z fun i => decide (∀ k, k < fpN t → (fCompare .le (A i k) (B i k)).1 = true)) ∧
    (s.clear (.vfcmpUn p c t m a b) →
      (flagsOver (s.selected p) (fun i => laneFlags (fpN t) fun k => (fCompare .un (A i k) (B i k)).2)).trapsUnder
        s.seen.status = false →
      Answers (.vfcmpUn p c t m a b) s fun u =>
        u.sp.regs.status = statusOr s.sp.regs.status
          (flagsOver (s.selected p) (fun i => laneFlags (fpN t) fun k => (fCompare .un (A i k) (B i k)).2)) ∧
        MaskIs s u m (s.selected p) (preOf p).z fun i => decide (∀ k, k < fpN t → (fCompare .un (A i k) (B i k)).1 = true)) ∧
    s.Does (.vfclass p c t d a) (fun u => OnlyVectors s u [d] ∧ u.sp.regs.status = s.sp.regs.status ∧
      LanesAre s u d (s.selected p) (preOf p).z fun i => BitVec.ofNat 32
        (if fpN t = 2 then fClass (fpFmt t) (fpElem t (s.fpLane t a i) 0) +
          fClass (fpFmt t) (fpElem t (s.fpLane t a i) 1) * 2 ^ 16
        else fClass (fpFmt t) (fpElem t (s.fpLane t a i) 0)))

/-- A shuffle takes the named lane if it is readable, else the fill or its own lane (R251, R252). -/
def Obligations.Shuffles : Prop :=
  ∀ (s : State) (p : Option Pre) (c : Bool) (t : BitVec 3) (d a b : RegNo) (n : BitVec 6) (w : Nat),
    w = 2 ^ (preOf p).sub.toNat → (preOf p).sub.toNat ≤ 5 →
    s.Shuffles (.shfl p c t d a b) p t d a (fun i => some (i / w * w + (s.rl b i).toNat % w)) ∧
    s.Shuffles (.shflUp p c t d a n) p t d a (fun i => if n.toNat ≤ i then some (i - n.toNat) else none) ∧
    s.Shuffles (.shflDn p c t d a n) p t d a (fun i => some (i + n.toNat)) ∧
    s.Shuffles (.shflX p c t d a n) p t d a (fun i => some (i / w * w + (i % w ^^^ n.toNat))) ∧
    s.Shuffles (.shflUpS p c t d a b) p t d a (fun i => if (s.rs b).toNat ≤ i then some (i - (s.rs b).toNat) else none) ∧
    s.Shuffles (.shflDnS p c t d a b) p t d a (fun i => some (i + (s.rs b).toNat)) ∧
    s.Shuffles (.shflXS p c t d a b) p t d a (fun i => some (i / w * w + (i % w ^^^ (s.rs b).toNat)))

/-- Votes and ballot reduce over the selected lanes (R253). -/
def Obligations.VotesAndBallot : Prop :=
  ∀ (s : State) (p : Option Pre) (c : Bool) (d a : RegNo) (sel : LaneMask), sel = s.selected p →
    s.Sets (.voteAny p c d a) d (asWord ((List.range 32).any fun i => bitOn sel i && s.rl a i != 0)) ∧
    s.Sets (.voteAll p c d a) d (asWord ((List.range 32).all fun i => !bitOn sel i || s.rl a i != 0)) ∧
    (s.clear (.ballot p c d a) → ∃ y : DWord, exec (.ballot p c d a) s = .next (s.withScalar d y) ∧
      ∀ i, i < 64 → bitOn y i = (decide (i < 32) && bitOn sel i && s.rl a i != 0))

/-- Scans and reductions combine the selected lanes of a sub-group in lane order (R226, R251, R254). -/
def Obligations.ScansAndReductions : Prop :=
  ∀ (s : State) (p : Option Pre) (c x : Bool) (t o : BitVec 3) (d a : RegNo) (before upto all : Nat → List Nat)
    (fl : Nat → FFlags), (preOf p).sub.toNat ≤ 5 →
    before = (fun i => (s.subGroup p i).filter fun j => j < i) →
    upto = (fun i => (s.subGroup p i).filter fun j => j ≤ i) → all = s.subGroup p →
    fl = (fun i => (scanCombine t o (s.mode p) (s.scanOf p t o a (before i)) (s.scanLane t a i)).2) →
    (scanFloat t = true → (flagsOver (s.selected p) fl).trapsUnder s.seen.status = false) →
    s.Does (.vscan p c t d a x o) (fun u => s.Scanned u p t d fl fun i => s.scanOf p t o a (if x then before i else upto i)) ∧
    s.Does (.vred p c t d a o) (fun u => s.Scanned u p t d fl fun i => s.scanOf p t o a (all i))

/-- vcarry resolves carries, ssi intersects sets and vlane numbers lanes within sub-groups (R255, R256, R257). -/
def Obligations.CarriesIntersectionsLanes : Prop :=
  ∀ (s : State) (p : Option Pre) (c : Bool) (d a b : RegNo) (w : Nat) (sum : Nat → Nat) (gen pro : Nat → Bool),
    w = 2 ^ (preOf p).sub.toNat → (preOf p).sub.toNat ≤ 5 → sum = (fun i => (s.rl a i).toNat + (s.rl b i).toNat) →
    gen = (fun i => bitOn (s.selected p) i && decide (2 ^ 32 ≤ sum i)) →
    pro = (fun i => bitOn (s.selected p) i && decide (sum i % 2 ^ 32 = 2 ^ 32 - 1)) →
    s.Does (.vcarry p c d a b) (fun u => s.Writes u d ∧ ∃ cin : Nat → Bool,
      (∀ i, i % w = 0 → cin i = false) ∧
      (∀ i, i + 1 < 32 → (i + 1) % w ≠ 0 → cin (i + 1) = (gen i || (pro i && cin i))) ∧
      LanesAre s u d (s.selected p) (preOf p).z fun i => BitVec.ofNat 32
        ((if cin i then 1 else 0) + (if gen i || (pro i && cin i) then 2 else 0) + (if gen i then 4 else 0) +
          (if pro i then 8 else 0))) ∧
    s.Does (.ssi p c d a b) (fun u => s.Writes u d ∧ ∃ f, LanesAre s u d (s.selected p) (preOf p).z f ∧
      ∀ i, i < 32 → (
        (∀ j, j < 32 → j / w = i / w → bitOn s.enabled j = true → s.rl b j = s.rl a i →
          (∀ k, k < j → k / w = i / w → bitOn s.enabled k = true → s.rl b k ≠ s.rl a i) →
          f i = BitVec.ofNat 32 (j % w)) ∧
        ((∀ j, j < 32 → j / w = i / w → bitOn s.enabled j = true → s.rl b j ≠ s.rl a i) → f i = 0xFFFFFFFF))) ∧
    s.Does (.vlane p c d) (fun u => s.Writes u d ∧
      LanesAre s u d (s.selected p) (preOf p).z fun i => BitVec.ofNat 32 (i % w))

/-- vcvt converts and packs elements; vpack.bp and vunpack.bp transpose bits (R247, R250). -/
def Obligations.ConversionsAndBitPlaneMoves : Prop :=
  (∀ (s : State) (p : Option Pre) (c : Bool) (t k : BitVec 3) (d a : RegNo) (n : Nat) (res : Nat → Nat → Nat × FFlags)
    (fl : Nat → FFlags), n = max (cvtE t) (cvtE k) →
    res = (fun i j => cvtElem t k (s.mode p) (preOf p).sat (s.cvtSource t a i j)) →
    fl = (fun i => laneFlags n fun j => (res i j).2) →
    s.clear (.vcvt p c t d a k) → (flagsOver (s.selected p) fl).trapsUnder s.seen.status = false →
    Answers (.vcvt p c t d a k) s fun u =>
      OnlyVectors s u ((List.range (n / cvtE k * cvtW k)).map (regAt d)) ∧
      u.sp.regs.status = statusOr s.sp.regs.status (flagsOver (s.selected p) fl) ∧
      (k = 0 → ∀ g, g < n → PairsAre s u (regAt d (2 * g)) (s.selected p) (preOf p).z fun i => (res i g).1) ∧
      (k ≠ 0 → ∀ g, g < n / cvtE k → LanesAre s u (regAt d g) (s.selected p) (preOf p).z fun i =>
        BitVec.ofNat 32 ((List.range (cvtE k)).foldl (fun x j => x + (res i (g * cvtE k + j)).1 * 2 ^ (cvtBits k * j)) 0))) ∧
  (∀ (s : State) (p : Option Pre) (c : Bool) (d a : RegNo) (b : BitVec 6),
    s.Does (.vpackBp p c d a b) (fun u => s.Writes u d ∧ u.sp.regs.tag[d.toNat]'d.isLt = { len := 0, sign := false } ∧
      ∀ i, i < 32 → ∀ j, j < 32 → bitOn (u.lane d i) j = (decide (i < b.toNat) && bitOn (s.rl a j) (b.toNat - 1 - i))) ∧
    s.Does (.vunpackBp p c d a b) (fun u => s.Writes u d ∧ u.sp.regs.tag[d.toNat]'d.isLt = { len := 0, sign := false } ∧
      ∀ i, i < 32 → ∀ j, j < 32 → bitOn (u.lane d i) j = (decide (j < b.toNat) && bitOn (s.rl a (b.toNat - 1 - j)) i)))

/-- vqcvt and vdqcvt move values between floats and gait blocks with their side lists (R213, R214, R217, R218, R219,
R248, R249). -/
def Obligations.GaitConversions : Prop :=
  ∀ (s : State) (p : Option Pre) (c bf : Bool) (g : BitVec 2) (d a b : RegNo) (n : Nat) (mode : RMode) (thr : FVal)
    (o0 o1 : List Bool) (l0 l1 : List (Nat × FFlags)) (b0 b1 : GaitBlock) (ps : List Place) (plane : Nat → Word)
    (fl : Nat → FFlags), n = gaitBits g.toNat → mode = s.mode p → thr = FVal.ofBits Fmt.f32 (fld s.seen.qthresh 0 32) →
    (o0, l0, b0) = quantise mode n thr ((List.range 16).map fun i => s.gaitSource bf a i) →
    (o1, l1, b1) = quantise mode n thr ((List.range 16).map fun i => s.gaitSource bf a (16 + i)) →
    plane = (fun i => if i ≤ n then gaitPlane n b0 b1 i else if i = 31 then
      BitVec.ofNat 32 (b0.e + b0.uByte * 2 ^ 8 + (b1.e + b1.uByte * 2 ^ 8) * 2 ^ 16) else 0) →
    fl = (fun i => (if i < 16 then l0 else l1).foldl (fun f x => f.or x.2) (if i < 16 then b0 else b1).flags) →
    (flagsOver (BitVec.allOnes 32) fl).trapsUnder s.seen.status = false →
    (l0 ++ l1 = [] → s.Does (.vqcvt p c g bf d a b) (fun u => s.Quantised u p d b plane (o0 ++ o1) fl (s.rs b))) ∧
    ((s.rs b).toNat % 2 = 0 → s.rangeTrap 2 (s.rs b).toNat (2 * (l0 ++ l1).length) true = none → s.pathBusy = false →
      s.grp.saddled = false → l0 ++ l1 ≠ [] → ps = s.localPlaces 2 (s.rs b).toNat 2 (l0 ++ l1).length →
      (∀ q ∈ ps, granulesOf s.asets 2 q.off 2 = []) →
      s.Does (.vqcvt p c g bf d a b) (fun u => ∃ v,
        s.Quantised v p d b plane (o0 ++ o1) fl (s.rs b + BitVec.ofNat 64 (2 * (l0 ++ l1).length)) ∧
        v.Sends u 2 .store .none ps 2 (fun i => (listAt (l0 ++ l1) i (0, FFlags.none)).1) [])) ∧
    ((preOf p).vc = 0 → (deqFlags bf mode (s.gaitElementAt n a)).trapsUnder s.seen.status = false →
      s.Does (.vdqcvt p c g bf d a b) (fun u => s.Dequantised u bf mode d (s.gaitElementAt n a))) ∧
    (∀ marked w o val, (preOf p).vc ≠ 0 → marked = positions 32 (bitOn (s.rm (preOf p).vc.toNat)) →
      s.sideListTrap (s.rs b).toNat marked.length false = none → s.pathBusy = false → s.grp.saddled = false →
      ps = s.localPlaces 2 (s.rs b).toNat 2 marked.length → (∀ q ∈ ps, granulesOf s.asets 2 q.off 2 = []) →
      s.readNow { s.newOp .load (.vec d false) 2 0 false with reqs := ps.map fun q => reqAt q 2 0 0 } = (true, w, o) →
      (∀ q ∈ o.reqs, q.status = .performed ∧ q.poison = false) →
      val = w.sideElement n a marked o →
      (deqFlags bf (w.mode p) val).trapsUnder w.seen.status = false →
      s.Does (.vdqcvt p c g bf d a b) (fun u =>
        (w.withScalar b (s.rs b + BitVec.ofNat 64 (2 * marked.length))).Dequantised u bf (w.mode p) d val))

/-- Class 6 arithmetic writes the exact number through put (R258, R259, R267, R269). -/
def Obligations.BigResults : Prop :=
  ∀ (s : State) (c : Bool) (d a b : RegNo) (n : BitVec 6) (x y : Int), s.safe → x = s.value a → y = s.value b →
    s.Big (.badd c d a b) d [a, b] (x + y) ∧
    s.Big (.bsub c d a b) d [a, b] (x - y) ∧
    s.Big (.bneg c d a) d [a] (-x) ∧
    s.Big (.babs c d a) d [a] |x| ∧
    s.Big (.bshl c d a b) d [a] (x * 2 ^ (s.rs b).toNat) ∧
    s.Big (.bshlI c d a n) d [a] (x * 2 ^ n.toNat) ∧
    s.Big (.bshr c d a b) d [a] (x.tdiv (2 ^ (s.rs b).toNat)) ∧
    s.Big (.bshrI c d a n) d [a] (x.tdiv (2 ^ n.toNat)) ∧
    s.Big (.bnorm c d a) d [a]
      (if (s.rtag a).sign then -(s.magAt a (max 32 (s.rtag a).len.toNat) : Int)
       else s.magAt a (max 32 (s.rtag a).len.toNat))

/-- bcmp and blen read numbers; dotx, xround and bcvt work on exact windows (R267, R268, R286, R287, R288, R289,
R290). -/
def Obligations.ComparisonAndExactWindow : Prop :=
  (∀ (s : State) (c : Bool) (d a b : RegNo) (n : Nat), s.SlotsQuiet [a] →
    (s.value a = 0 → n = 0) → (s.value a ≠ 0 → 0 < n ∧ 2 ^ (n - 1) ≤ (s.value a).natAbs ∧ (s.value a).natAbs < 2 ^ n) →
    (s.SlotsQuiet [b] → s.Sets (.bcmp c d a b) d
      (if s.value a < s.value b then BitVec.allOnes 64 else if s.value a = s.value b then 0 else 1)) ∧
    s.Sets (.blen c d a) d
      (BitVec.ofNat 64 ((s.rtag a).len.toNat + n * 2 ^ 32 + if (s.rtag a).sign then 2 ^ 63 else 0))) ∧
  (∀ (s : State) (c : Bool) (d a b : RegNo) (X : Int) (w : WinSum), s.safe → X = xwinExp s.seen.xwin →
    w = (List.range 32).foldl (fun w i => w.add X (s.f64At a i) (s.f64At b i))
      { acc := 0, sticky := false, spec := xwinSpec s.seen.xwin } →
    (s.clear (.dotx c d a b) → s.slotBusy d = false → bigLen (s.value d + w.acc) ≤ 32 →
      Answers (.dotx c d a b) s fun u =>
        BigIs (s.wxwin (xwinPut s.sp.regs.xwin w.sticky w.spec)) u d (s.value d + w.acc)) ∧
    (s.clear (.xround c d a) → s.SlotsQuiet [a] →
      (xwinSpec s.seen.xwin = 1 → exec (.xround c d a) s = .next (s.withScalar d 0x7FF0000000000000)) ∧
      (xwinSpec s.seen.xwin = 2 → exec (.xround c d a) s = .next (s.withScalar d 0xFFF0000000000000)) ∧
      (xwinSpec s.seen.xwin = 3 → exec (.xround c d a) s = .next (s.withScalar d 0x7FF8000000000000)) ∧
      (xwinSpec s.seen.xwin = 0 → Answers (.xround c d a) s fun u =>
        ∃ r fl, (r, fl) = roundInt Fmt.f64 .rne (s.value a) X false ∧
          u = (s.withScalar d (BitVec.ofNat 64 r)).wxwin
            (if fl.nx then setBit s.sp.regs.xwin 19 true else s.sp.regs.xwin))) ∧
    (s.clear (.bcvt c d b) → s.slotBusy d = false →
      (∀ q, FVal.ofBits Fmt.f64 (s.rs b).toNat = .nan q →
        Answers (.bcvt c d b) s fun u => BigIs (s.wxwin (xwinPut s.sp.regs.xwin false 3)) u d 0) ∧
      (∀ neg, FVal.ofBits Fmt.f64 (s.rs b).toNat = .inf neg →
        Answers (.bcvt c d b) s fun u => BigIs
          (s.wxwin (xwinPut s.sp.regs.xwin false (specMerge (xwinSpec s.seen.xwin) (if neg then 2 else 1)))) u d 0) ∧
      (∀ neg m e, FVal.ofBits Fmt.f64 (s.rs b).toNat = .fin neg m e → bigLen (truncAt m e X).1 ≤ 32 →
        Answers (.bcvt c d b) s fun u => BigIs
          (s.wxwin (xwinPut s.sp.regs.xwin (truncAt m e X).2 (xwinSpec s.seen.xwin))) u d
          (if neg then -((truncAt m e X).1 : Int) else (truncAt m e X).1))))

/-- Long operations on numbers start with the operands read at issue and pending destinations (R270, R272, R273, R274,
R275, R276, R277, R278, R279, R280). -/
def Obligations.BigEngineAndLongNumbers : Prop :=
  (∀ (s : State) (c : Bool) (d a b : RegNo),
    (s.SlotsQuiet [a, b] → s.Does (.bmult c d a b) (fun u =>
      (s.noteSeq (d.setWidth 4) none).Queues u (.bmult (d.setWidth 4) (s.limbsOf a) (s.limbsOf b) ((s.rtag a).sign != (s.rtag b).sign)) [.acc d.toNat])) ∧
    s.Does (.bcres c d a) (fun u => s.Queues u (.bcres d (a.setWidth 4)) [.v d.toNat, .acc a.toNat]) ∧
    (s.SlotsQuiet [a, b] → s.value b ≠ 0 → s.Does (.bdiv c d a b) (fun u => ∃ n : Nat,
      n = (s.rtag a).len.toNat + 1 - (s.rtag b).len.toNat ∧
      s.Queues u (.bdiv d (s.value a).natAbs (s.value b).natAbs (decide (s.value a < 0)) (decide (s.value b < 0)) n 0
        ((s.value a).natAbs / 2 ^ (32 * n))) [.v d.toNat, .v (next d).toNat])) ∧
    (s.SlotsQuiet [a, b] → s.value b = 0 → s.clear (.bdiv c d a b) →
      exec (.bdiv c d a b) s = .next (s.raise (s.trapOf 16 0))) ∧
    (s.SlotsQuiet [a, b, next b] → s.value b = 0 → s.clear (.bmodb c d a b) →
      exec (.bmodb c d a b) s = .next (s.raise (s.trapOf 16 0))) ∧
    (s.SlotsQuiet [a, b, next b] → s.value b ≠ 0 → s.Does (.bmodb c d a b) (fun u => ∃ x m mu k q : Nat, ∃ r r1 z : Int,
      x = (s.value a).natAbs ∧ m = (s.value b).natAbs ∧ mu = (s.value (next b)).natAbs ∧ k = (s.rtag b).len.toNat ∧
      q = x / 2 ^ (32 * (k - 1)) * mu / 2 ^ (32 * (k + 1)) ∧ r = (x : Int) - q * m ∧
      r1 = (if (m : Int) ≤ r then r - m else r) ∧ z = (if (m : Int) ≤ r1 then r1 - m else r1) ∧
      s.Queues u (.bmodb d z) [.v d.toNat]))) ∧
  (∀ (s : State) (c : Bool) (d a b : RegNo) (x y z : Desc) (n : Int) (ps : List Place),
    x = descOf (s.rs a) (s.rs (next a)) → y = descOf (s.rs b) (s.rs (next b)) → z = descOf (s.rs d) (s.rs (next d)) →
    n = (s.rs b).toInt →
    (s.SlotsQuiet [a] → y.allowed true = true → (s.rtag a).len.toNat ≤ y.cap → 0 < (s.rtag a).len.toNat →
      s.MayAccess y.seg.toNat .write 4 true ((List.range (s.rtag a).len.toNat).map fun i => (i, y.off + 4 * i)) ps →
      s.Does (.bspill c a b) (fun u => ∃ v, s.Sends v y.seg.toNat .store .none ps 4
          (fun i => (listAt (s.limbsOf a) i 0).toNat) [] ∧
        v.Starts u (.status (next b) (descPut (s.rs (next b)) (s.rtag a).len.toNat (s.rtag a).sign)) true s.region true
          [.s (next b).toNat])) ∧
    (s.SlotsQuiet [a] → y.allowed true = true → (s.rtag a).len = 0 →
      s.Does (.bspill c a b) (fun u =>
        s.Starts u (.status (next b) (descPut (s.rs (next b)) 0 (s.rtag a).sign)) true s.region true [.s (next b).toNat])) ∧
    (y.allowed false = true → s.MayAccess y.seg.toNat .read 4 true ((List.range y.len).map fun i => (i, y.off + 4 * i)) ps →
      s.Does (.bfill c d b) (fun u => s.Sends u y.seg.toNat .load (.big d y.sign) ps 4 (fun _ => 0) [.v d.toNat])) ∧
    (s.grp.saddled = false →
      s.Long (.bladd c d a b) 0 d (s.rs a, s.rs (next a)) (s.rs b, s.rs (next b)) [x, y] z (max x.len y.len + 1) .trotter ∧
      s.Long (.blsub c d a b) 1 d (s.rs a, s.rs (next a)) (s.rs b, s.rs (next b)) [x, y] z (max x.len y.len + 1) .trotter ∧
      ((x.len = 0 ∨ y.len = 0 ∨ x.len + y.len ≤ 2 ^ 20 + 1) →
        s.Long (.blmul c d a b) 2 d (s.rs a, s.rs (next a)) (s.rs b, s.rs (next b)) [x, y] z
          (if x.len = 0 ∨ y.len = 0 then 0 else x.len + y.len) (s.mulVia x.len y.len))) ∧
    (s.grp.saddled = false → 0 < n → x.len + (n.toNat + 31) / 32 < 2 ^ 32 →
      s.Long (.blshift c d a b) 4 d (s.rs a, s.rs (next a)) (s.rs b, 0) [x] z (x.len + (n.toNat + 31) / 32) .trotter) ∧
    (s.grp.saddled = false → n ≤ 0 →
      s.Long (.blshift c d a b) 4 d (s.rs a, s.rs (next a)) (s.rs b, 0) [x] z x.len .trotter) ∧
    (s.rangesTrap [(x, false, x.len), (y, false, y.len)] = none →
      s.Does (.blcmp c d a b) (fun u => (s.newEngineRegion 3).2.Starts u
        (.long 3 d (s.rs a, s.rs (next a)) (s.rs b, s.rs (next b)) false .trotter) true (s.newEngineRegion 3).1 false
        [.s d.toNat])))

/-- Uniform transfers send every issuing slice to one target (R29, R30, R33, R234). -/
def Obligations.UniformTransfers : Prop :=
  ∀ (s : State) (c : Bool) (d : RegNo) (p : BitVec 16) (pc target : DWord), pc = s.issue.pc →
    target = BitVec.ofInt 64 ((pc.toNat : Int) + 12 * p.toInt) →
    s.Does (.nop c) (fun u => u = s) ∧
    s.Does (.br c p) (fun u => s.Goes u target) ∧
    (s.rs d ≠ 0 → s.Does (.brc c d p) (fun u => s.Goes u target)) ∧
    (s.rs d = 0 → s.Does (.brc c d p) (fun u => u = s)) ∧
    s.Does (.call c d p) (fun u => ∃ v, s.Goes v target ∧ u = v.withScalar d (pc + 12)) ∧
    ((s.rs d).toNat % 12 = 0 → s.Does (.ret c d) (fun u => s.Goes u (s.rs d)) ∧ s.Does (.jmpr c d) (fun u => s.Goes u (s.rs d))) ∧
    ((s.rs d).toNat % 12 ≠ 0 → s.Does (.ret c d) (fun u => u = s.raise (s.trapAt 6 (s.rs d))) ∧
      s.Does (.jmpr c d) (fun u => u = s.raise (s.trapAt 6 (s.rs d))))

/-- brv, join, regang, exit, rte and clause headers (R33, R36, R38, R235, R236, R237, R239, R416, R417). -/
def Obligations.DivergenceHeadersAndReturns : Prop :=
  (∀ (s : State) (c : Bool) (m : RegNo) (p : BitVec 16) (pc target : DWord) (cm T F : Nat → Slice → BitVec 4)
    (base : Nat → Slice → List StackEntry), pc = s.issue.pc →
    target = BitVec.ofInt 64 ((pc.toNat : Int) + 12 * p.toInt) →
    cm = (fun _ x => x.cur &&& ~~~x.exited) →
    T = (fun j x => cm j x &&& maskOf 4 fun k => bitOn (s.rm m.toNat) (4 * j + k)) →
    F = (fun j x => cm j x &&& ~~~T j x) →
    base = (fun j x => { kind := .rejoin, mask := cm j x, pc := none } :: x.stack) →
    ((∀ j, j < 8 → s.inGang j = true → (s.sp.slice j).stack.length +
        (if T j (s.sp.slice j) ≠ 0 ∧ F j (s.sp.slice j) ≠ 0 then 2 else 1) ≤ 16) →
      s.Does (.brv c m p) (fun u => s.Transferred u fun j x =>
        if T j x = 0 then .go (pc + 12) (cm j x) (base j x)
        else if F j x = 0 then .go target (cm j x) (base j x)
        else .go target (T j x) ({ kind := .pending, mask := F j x, pc := some (pc + 12) } :: base j x))) ∧
    s.Does (.join c) (fun u => s.Transferred u fun j x => joinStack pc x.exited (cm j x) x.stack) ∧
    (s.drained 4 = true → s.Does (.regang c) (fun u => s.endRegion.Transferred u fun _ _ => .regang s.issue.slot)) ∧
    (s.AtEnd → s.Does (.exit c) (fun u => s.endRegion.Transferred u fun _ _ => .exit)) ∧
    ((fld s.sp.trap.faultpc 0 48) % 12 = 0 → fld s.sp.trap.faultpc 48 2 ≠ 3 →
      (∀ f, s.sp.frame = some f → s.sp.trap.faultpc = f.entry ∨ s.sp.frameContinues f = true ∨
        (fld s.sp.trap.faultpc 48 2 = 0 ∧ s.beginsClause (faultPacket s.sp.trap.faultpc) ≠ some false)) →
      s.Does (.rte c) (fun u => s.Transferred u fun _ _ => .rte))) ∧
  (∀ (s : State) (l a b : BitVec 4) (w : BitVec 12), s.issue.gang ≠ 0 →
    (∀ i, i < 12 → bitOn w i = true ∨ a.toNat = i ∨ b.toNat = i → bitOn s.sp.flags i = false) →
    s.Does (.clauseStart l w a b) (fun u =>
      u = { s with sp := { s.sp with
        slices := u.sp.slices, clauses := u.sp.clauses, nextClause := s.sp.nextClause + 1, flags := u.sp.flags } } ∧
      (∀ j, j < 8 → u.sp.slice j =
        if s.inGang j then { s.sp.slice j with clause := some s.sp.nextClause } else s.sp.slice j) ∧
      (∃ k ∈ u.sp.clauses, k.id = s.sp.nextClause ∧ k.first = s.issue.pc ∧ k.length = l ∧ k.flagA = a ∧ k.flagB = b ∧
        k.ended = false) ∧
      ∀ i, i < 12 → a.toNat = i ∨ b.toNat = i → bitOn u.sp.flags i = true))

/-- System registers, trap, brk, trace, segld and tlbinv (R53, R411, R418, R419, R420, R421, R422). -/
def Obligations.SystemRegistersTrapsAndTranslation : Prop :=
  (∀ (s : State) (c : Bool) (d : RegNo) (x : DWord), x = s.rs d →
    s.Sets (.sysrd c d 0) d (s.seen.status) ∧
    s.Sets (.sysrd c d 1) d (s.now) ∧
    s.Sets (.sysrd c d 2) d (BitVec.ofNat 64 (s.now.toNat / 128)) ∧
    s.Sets (.sysrd c d 3) d (BitVec.ofNat 64 (s.grp.bindRec.age.toNat / 2 ^ 32)) ∧
    s.Sets (.sysrd c d 4) d (BitVec.ofNat 64 (s.grp.bindRec.age.toNat % 2 ^ 32)) ∧
    s.Sets (.sysrd c d 5) d (s.grp.taskId) ∧
    s.Sets (.sysrd c d 6) d (s.spanIdWord s.sp s.grp) ∧
    s.Sets (.sysrd c d 16) d (s.seen.nttlim) ∧
    s.Sets (.sysrd c d 17) d (s.sp.spillBase) ∧
    s.Sets (.sysrd c d 18) d (s.sp.spillSlot) ∧
    s.Sets (.sysrd c d 19) d (s.seen.xwin) ∧
    s.Sets (.sysrd c d 20) d (s.seen.modq) ∧
    s.Sets (.sysrd c d 21) d (s.seen.qthresh) ∧
    s.Sets (.sysrd c d 32) d (s.sp.trap.faultpc) ∧
    s.Sets (.sysrd c d 33) d (s.sp.trap.faultaddr) ∧
    s.Sets (.sysrd c d 35) d (s.sp.trap.trapbase) ∧
    (s.sp.trap.sel = 0 → s.Sets (.sysrd c d 34) d s.sp.trap.word0) ∧
    (s.sp.trap.sel = 1 → s.Sets (.sysrd c d 34) d s.sp.trap.word1) ∧
    (s.sp.trap.sel = 2 → s.Sets (.sysrd c d 34) d s.sp.trap.word2) ∧
    (s.sp.trap.sel = 3 → s.Sets (.sysrd c d 34) d 0) ∧
    (∀ k : Nat, k < 8 → s.Sets (.sysrd c d (BitVec.ofNat 12 (64 + 2 * k))) d (vecAt s.seenSegs k Seg.invalid).base ∧
      s.Sets (.sysrd c d (BitVec.ofNat 12 (65 + 2 * k))) d (vecAt s.seenSegs k Seg.invalid).lim) ∧
    s.Does (.syswr c d 0) (fun u => u = { s with sp := { s.sp with regs := { s.sp.regs with status := statusWrite s.sp.regs.status x } } }) ∧
    s.Does (.syswr c d 16) (fun u => u = { s with sp := { s.sp with regs := { s.sp.regs with nttlim := BitVec.ofNat 64 (x.toNat % 2 ^ 32) } } }) ∧
    s.Does (.syswr c d 19) (fun u => u = { s with sp := { s.sp with regs := { s.sp.regs with xwin := BitVec.ofNat 64 (x.toNat % 2 ^ 20) } } }) ∧
    s.Does (.syswr c d 20) (fun u => u = { s with sp := { s.sp with regs := { s.sp.regs with modq := BitVec.ofNat 64 (x.toNat % 2 ^ 32) } } }) ∧
    s.Does (.syswr c d 21) (fun u => u = { s with sp := { s.sp with regs := { s.sp.regs with qthresh := BitVec.ofNat 64 (x.toNat % 2 ^ 32) } } }) ∧
    s.Does (.syswr c d 32) (fun u => u = { s with sp := { s.sp with trap := { s.sp.trap with faultpc := BitVec.ofNat 64 (x.toNat % 2 ^ 50) } } }) ∧
    s.Does (.syswr c d 33) (fun u => u = { s with sp := { s.sp with trap := { s.sp.trap with faultaddr := x } } }) ∧
    s.Does (.syswr c d 34) (fun u => u = { s with sp := { s.sp with trap := { s.sp.trap with sel := BitVec.ofNat 2 x.toNat } } }) ∧
    s.Does (.syswr c d 35) (fun u => u = { s with sp := { s.sp with trap := { s.sp.trap with trapbase := BitVec.ofNat 64 (x.toNat % 2 ^ 48) } } }) ∧
    (∀ r : BitVec 12, r.toNat ∈ [1, 2, 3, 4, 5, 6, 17, 18] ∨ 64 ≤ r.toNat → s.Does (.syswr c d r) (fun u => u = s))) ∧
  (∀ (s : State) (c : Bool) (n : BitVec 12) (k a b : RegNo) (g : Seg) (pl : Place) (o : MemOp) (v : State),
    s.Does (.trap c n) (fun u =>
      u = { s with issue := { s.issue with after := some { s.trapOf 21 0 with detail := n } } }) ∧
    s.Does (.brk c) (fun u => u = { s with issue := { s.issue with after := some (s.trapOf 22 0) } }) ∧
    (s.traced = false → s.Does (.trace c a) (fun u => u = s)) ∧
    (s.traced = true → s.Does (.trace c a) (fun u => u =
      s.trace 1 ((s.spanIdWord s.sp s.grp).toNat + s.here.toNat * 2 ^ 64 + (s.rs a).toNat * 2 ^ 128))) ∧
    (s.drained 4 = true → s.grp.saddled = false →
      s.endRegion.checkLanes 0 .read 16 true [(0, (s.rs a).toNat)] = .ok [pl] →
      (s.endRegion.fillFor 0 [pl]).readNow { s.endRegion.newOp .load .none 0 0 false with reqs := [reqAt pl 16 0 0] } =
        (true, v, o) → v.nowTrap o = none →
      g = { base := BitVec.ofNat 64 (leOf ((o.reqs.flatMap fun q => bytesLE 16 q.result.toNat).take 8)),
            lim := BitVec.ofNat 64 (leOf ((o.reqs.flatMap fun q => bytesLE 16 q.result.toNat).drop 8)) } →
      (v.segBad k.toNat g = false → s.Does (.segld c k a) (fun u =>
        u = { v with sp := { v.sp with segs := vecPut v.sp.segs k.toNat g } })) ∧
      (v.segBad k.toNat g = true → s.Does (.segld c k a) (fun u => u = v.raise (v.trapAt 8 (s.rs a))))) ∧
    (s.drained 4 = true → s.coveredInFlight (s.rs a) (s.rs b) = false → s.Does (.tlbinv c a b) (fun u =>
      u = { s.endRegion with memsys := { s.memsys with trans := u.memsys.trans } } ∧
      ∀ x, x ∈ u.memsys.trans ↔ x ∈ s.memsys.trans ∧
        ¬(fld (s.rs b) 10 2 = 0 ∧ x.asid.toNat = fld (s.rs b) 0 10 ∧ x.vpn = fld (s.rs a) 0 48 / 2 ^ x.bits) ∧
        ¬(fld (s.rs b) 10 2 = 1 ∧ x.asid.toNat = fld (s.rs b) 0 10) ∧ fld (s.rs b) 10 2 < 2)))

/-- age, lvl, phase.end, yield, acqx, relx and spawn (R388, R394, R395, R398, R399, R400, R401, R402). -/
def Obligations.TaskInstructions : Prop :=
  ∀ (s : State) (c : Bool) (d a b : RegNo) (x : DWord) (v t n : Nat) (keep : Span → Span), x = s.rs a →
    keep = (fun p => { p with seqs := p.seqs.filter fun q => decide (q.1.toNat < s.grp.accs.length - n) }) →
    v = min s.grp.xv (fld x 0 4) → t = min s.grp.tiles.length (fld x 8 7) → n = min s.grp.accs.length (fld x 16 5) →
    s.Does (.age c d) (fun u => u = (s.withScalar d (BitVec.ofNat 64 (s.grp.bindRec.age.toNat / 2 ^ 32))).withScalar (next d)
      (BitVec.ofNat 64 (s.grp.bindRec.age.toNat % 2 ^ 32))) ∧
    s.Sets (.lvl c d b) d (BitVec.ofNat 64
      (s.levelIndexOf s.launchRecord b.toNat % 2 ^ 32 + levelCount s.launchRecord b.toNat * 2 ^ 32)) ∧
    (s.AtEnd → s.sp.pend.some_ = false → s.Does (.phaseEnd c) (fun u => s.endRegion.WaitsIn u .phaseEnd)) ∧
    (s.gangWait = some .woken → s.Does (.yield c) (fun u => u = s)) ∧
    (s.gangWait ≠ some .woken → s.drained 4 = true → s.Does (.yield c) (fun u => ∃ others,
      ({ s.endRegion with sp := { s.endRegion.sp with passOver := 0 } } : State).WaitsIn u (.yielding others (s.now + 1)) ∧
      ∀ k, k ∈ others ↔ ∃ p ∈ s.rest, p.id = k ∧ p.id.core = s.sp.id.core ∧ quarterOf p.id = quarterOf s.sp.id ∧
        s.endRegion.candidate p = true)) ∧
    (∀ r, s.gangWait = some (.acqxDone r) → s.Sets (.acqx c d a) d r) ∧
    ((∀ r, s.gangWait ≠ some (.acqxDone r)) → s.drained 4 = true →
      (∀ r, s.acqxNow x = some r → s.Does (.acqx c d a) (fun u => u = s.endRegion.withScalar d r)) ∧
      (s.acqxNow x = none → s.Does (.acqx c d a) (fun u => ∃ w q, s.endRegion.WaitsIn w .acqx ∧
        u = { w with core := { w.core with acqs := s.core.acqs ++ [q] } } ∧ q.span = s.sp.id ∧ q.gang = s.issue.gang ∧
        q.age = s.grp.bindRec.age ∧ q.v = fld x 0 4 ∧ q.t = fld x 8 7 ∧ q.a = fld x 16 5 ∧ q.since = s.now))) ∧
    ((∀ p ∈ s.spansOf s.grp.id, ∀ r ∈ s.grp.topRefs v t n, p.pend.has r = false) → s.topTileRead s.grp t = false →
      s.Does (.relx c a) (fun u => u = { s with
        grp := { s.grp with
          xv := s.grp.xv - v, tiles := s.grp.tiles.take (s.grp.tiles.length - t),
          accs := s.grp.accs.take (s.grp.accs.length - n) },
        sp := keep s.sp, rest := s.rest.map fun p => if p.group = s.grp.id then keep p else p })) ∧
    (s.clear (.relx c a) → (∃ p ∈ s.spansOf s.grp.id, ∃ r ∈ s.grp.topRefs v t n, p.pend.has r = true) ∨
        s.topTileRead s.grp t = true → exec (.relx c a) s = .next (s.raise (s.trapOf 3 1))) ∧
    (s.grp.saddled = false → fld x 4 4 ≠ 0 ∨ fld x 23 41 ≠ 0 ∨ fld x 16 7 = 0 ∨ recSpSpans s.launchRecord < fld x 16 7 ∨
      (∀ l, s.launchOf = some l → vecAt l.entries (fld x 0 4) 0 = 0) → s.Sets (.spawn c d a b) d (2 ^ 63)) ∧
    (∀ l ps o w, s.grp.saddled = false → s.launchOf = some l → vecAt l.entries (fld x 0 4) 0 ≠ 0 → fld x 4 4 = 0 →
      fld x 23 41 = 0 → 0 < fld x 16 7 → fld x 16 7 ≤ recSpSpans s.launchRecord →
      s.checkLanes (segOf (s.rs b)) .read 8 true ((List.range 8).map fun i => (i, offOf (s.rs b) + 8 * i)) = .ok ps →
      (s.fillFor (segOf (s.rs b)) ps).readNow
        { s.newOp .load .none (segOf (s.rs b)) 0 false with reqs := ps.map fun p => reqAt p 8 0 0 } = (true, w, o) →
      w.nowTrap o = none → s.Does (.spawn c d a b) (fun u => ∃ k y,
        (k, y) = w.spawnMany (fld x 8 8) (fld x 0 4) (fld x 16 7) ((List.range 8).map fun i =>
          BitVec.ofNat 64 (leOf (((o.reqs.flatMap fun q => bytesLE 8 q.result.toNat).drop (8 * i)).take 8))) ∧
        u = y.withScalar d (BitVec.ofNat 64 k)))

/-- Loads and stores send one request per lane; the engine window is read and written at once (R141, R143, R164, R167,
R172, R176). -/
def Obligations.LoadsAndStores : Prop :=
  (∀ (s : State) (p : Option Pre) (c : Bool) (k : BitVec 3) (d a b : RegNo) (l : BitVec 2) (ls : List (Nat × Nat))
    (off : Nat) (ps : List Place), k ≠ 6 →
    ls = (s.lanes.map fun i => (i, (s.rs a).toNat + (s.rl b i).toNat * 2 ^ l.toNat)) →
    off = (s.rs a).toNat + (s.rs b).toNat * 2 ^ l.toNat →
    (s.lanes ≠ [] → s.MayAccess k.toNat .read 4 false ls ps → s.Does (.ld p c k d a b l) (fun u =>
      s.Sends u k.toNat .load (.vec d false) ps 4 (fun _ => 0) [.v d.toNat])) ∧
    (s.lanes = [] → s.Does (.ld p c k d a b l) (fun u => u = s)) ∧
    (s.lanes ≠ [] → s.MayAccess k.toNat .read 8 false ls ps → s.Does (.ld64 p c k d a b l) (fun u =>
      s.Sends u k.toNat .load (.vec d true) ps 8 (fun _ => 0) [.v d.toNat, .v (d.toNat + 1)])) ∧
    (s.lanes = [] → s.Does (.ld64 p c k d a b l) (fun u => u = s)) ∧
    (s.lanes ≠ [] → s.MayAccess k.toNat .read 2 false ls ps → s.Does (.ld16 p c k d a b l) (fun u =>
      s.Sends u k.toNat .load (.vec d false) ps 2 (fun _ => 0) [.v d.toNat])) ∧
    (s.lanes = [] → s.Does (.ld16 p c k d a b l) (fun u => u = s)) ∧
    (s.lanes ≠ [] → s.MayAccess k.toNat .read 1 false ls ps → s.Does (.ld8 p c k d a b l) (fun u =>
      s.Sends u k.toNat .load (.vec d false) ps 1 (fun _ => 0) [.v d.toNat])) ∧
    (s.lanes = [] → s.Does (.ld8 p c k d a b l) (fun u => u = s)) ∧
    (s.lanes ≠ [] → s.MayAccess k.toNat .read 4 false ls ps → s.Does (.ldNc p c k d a b l) (fun u =>
      s.Sends u k.toNat .load (.vec d false) ps 4 (fun _ => 0) [.v d.toNat])) ∧
    (s.lanes = [] → s.Does (.ldNc p c k d a b l) (fun u => u = s)) ∧
    (s.MayAccess k.toNat .read 8 true [(0, off)] ps → s.Does (.lds p c k d a b l) (fun u =>
      s.Sends u k.toNat .load (.scalar d) ps 8 (fun _ => 0) [.s d.toNat])) ∧
    (s.lanes ≠ [] → s.MayAccess k.toNat .write 4 false ls ps → s.Does (.st p c k d a b l) (fun u =>
      s.Sends u k.toNat .store .none ps 4 (fun i => (s.rl d i).toNat) [])) ∧
    (s.lanes = [] → s.Does (.st p c k d a b l) (fun u => u = s)) ∧
    (s.lanes ≠ [] → s.MayAccess k.toNat .write 8 false ls ps → s.Does (.st64 p c k d a b l) (fun u =>
      s.Sends u k.toNat .store .none ps 8 (fun i => s.rl64 d i) [])) ∧
    (s.lanes = [] → s.Does (.st64 p c k d a b l) (fun u => u = s)) ∧
    (s.lanes ≠ [] → s.MayAccess k.toNat .write 2 false ls ps → s.Does (.st16 p c k d a b l) (fun u =>
      s.Sends u k.toNat .store .none ps 2 (fun i => (s.rl d i).toNat % 2 ^ 16) [])) ∧
    (s.lanes = [] → s.Does (.st16 p c k d a b l) (fun u => u = s)) ∧
    (s.lanes ≠ [] → s.MayAccess k.toNat .write 1 false ls ps → s.Does (.st8 p c k d a b l) (fun u =>
      s.Sends u k.toNat .store .none ps 1 (fun i => (s.rl d i).toNat % 2 ^ 8) [])) ∧
    (s.lanes = [] → s.Does (.st8 p c k d a b l) (fun u => u = s)) ∧
    (s.MayAccess k.toNat .write 8 true [(0, off)] ps → s.Does (.sts p c k d a b l) (fun u =>
      s.Sends u k.toNat .store .none ps 8 (fun _ => (s.rs d).toNat) []))) ∧
  (∀ (s : State) (p : Option Pre) (c : Bool) (d a b : RegNo) (l : BitVec 2) (ls : List (Nat × Nat)) (off : Nat)
    (ps : List Place), ls = (s.lanes.map fun i => (i, (s.rs a).toNat + (s.rl b i).toNat * 2 ^ l.toNat)) →
    off = (s.rs a).toNat + (s.rs b).toNat * 2 ^ l.toNat →
    (s.lanes ≠ [] → s.checkLanes 6 .read 4 false ls = .ok ps → (∀ q ∈ ps, q.va.toNat + 4 ≤ 0x28) →
      s.Does (.ld p c 6 d a b l) (fun u => s.ReadsWindow u (.vec d false) ls 4 [.v d.toNat])) ∧
    (s.lanes ≠ [] → s.checkLanes 6 .read 8 false ls = .ok ps → (∀ q ∈ ps, q.va.toNat + 8 ≤ 0x28) →
      s.Does (.ld64 p c 6 d a b l) (fun u => s.ReadsWindow u (.vec d true) ls 8 [.v d.toNat, .v (d.toNat + 1)])) ∧
    (s.lanes ≠ [] → s.checkLanes 6 .read 2 false ls = .ok ps → (∀ q ∈ ps, q.va.toNat + 2 ≤ 0x28) →
      s.Does (.ld16 p c 6 d a b l) (fun u => s.ReadsWindow u (.vec d false) ls 2 [.v d.toNat])) ∧
    (s.lanes ≠ [] → s.checkLanes 6 .read 1 false ls = .ok ps → (∀ q ∈ ps, q.va.toNat + 1 ≤ 0x28) →
      s.Does (.ld8 p c 6 d a b l) (fun u => s.ReadsWindow u (.vec d false) ls 1 [.v d.toNat])) ∧
    (s.lanes ≠ [] → s.checkLanes 6 .read 4 false ls = .ok ps → (∀ q ∈ ps, q.va.toNat + 4 ≤ 0x28) →
      s.Does (.ldNc p c 6 d a b l) (fun u => s.ReadsWindow u (.vec d false) ls 4 [.v d.toNat])) ∧
    (s.checkLanes 6 .read 8 true [(0, off)] = .ok ps → (∀ q ∈ ps, q.va.toNat + 8 ≤ 0x28) →
      s.Does (.lds p c 6 d a b l) (fun u => s.ReadsWindow u (.scalar d) [(0, off)] 8 [.s d.toNat])) ∧
    (s.lanes ≠ [] → s.checkLanes 6 .write 4 false ls = .ok ps → (∀ q ∈ ps, q.va.toNat + 4 ≤ 0x20) →
      s.Does (.st p c 6 d a b l) (fun u => s.WritesWindow u ls 4 (fun i => (s.rl d i).toNat))) ∧
    (s.lanes ≠ [] → s.checkLanes 6 .write 8 false ls = .ok ps → (∀ q ∈ ps, q.va.toNat + 8 ≤ 0x20) →
      s.Does (.st64 p c 6 d a b l) (fun u => s.WritesWindow u ls 8 (fun i => s.rl64 d i))) ∧
    (s.lanes ≠ [] → s.checkLanes 6 .write 2 false ls = .ok ps → (∀ q ∈ ps, q.va.toNat + 2 ≤ 0x20) →
      s.Does (.st16 p c 6 d a b l) (fun u => s.WritesWindow u ls 2 (fun i => (s.rl d i).toNat % 2 ^ 16))) ∧
    (s.lanes ≠ [] → s.checkLanes 6 .write 1 false ls = .ok ps → (∀ q ∈ ps, q.va.toNat + 1 ≤ 0x20) →
      s.Does (.st8 p c 6 d a b l) (fun u => s.WritesWindow u ls 1 (fun i => (s.rl d i).toNat % 2 ^ 8))) ∧
    (s.checkLanes 6 .write 8 true [(0, off)] = .ok ps → (∀ q ∈ ps, q.va.toNat + 8 ≤ 0x20) →
      s.Does (.sts p c 6 d a b l) (fun u => s.WritesWindow u [(0, off)] 8 (fun _ => (s.rs d).toNat))))

/-- prefetch, hints, cinv and cflush change only caches or send a flush (R94, R155, R168, R169, R170). -/
def Obligations.CacheInstructions : Prop :=
  ∀ (s : State) (p : Option Pre) (c : Bool) (k : BitVec 3) (a b : RegNo) (l : BitVec 2) (ls : List (Nat × Nat))
    (ps qs : List Place), ls = (s.lanes.map fun i => (i, (s.rs a).toNat + (s.rl b i).toNat * 2 ^ l.toNat)) →
    qs = s.reachable k.toNat ls →
    s.Does (.prefetch p c k a b l) (fun u => u = qs.foldl (fun v q => v.prefetchLine k.toNat (hintOf p) q) s) ∧
    s.Does (.hintNorm p c k a b l) (fun u => s.Reprioritised u .normal qs) ∧
    s.Does (.hintFirst p c k a b l) (fun u => s.Reprioritised u .evictFirst qs) ∧
    s.Does (.hintLast p c k a b l) (fun u => s.Reprioritised u .evictLast qs) ∧
    s.Does (.hintLow p c k a b l) (fun u => s.Reprioritised u .low qs) ∧
    (s.checkLanes k.toNat (if k = 4 then .write else .read) 1 false ls = .ok ps → s.Does (.cinv p c k a b l) (fun u =>
      u = { s with core := { s.core with l1 := u.core.l1 } } ∧
      ∀ x, (∃ y ∈ u.core.l1, x ∈ y.secs) ↔ (∃ y ∈ s.core.l1, x ∈ y.secs) ∧ ∀ q ∈ ps, lineOf q.key ≠ x.sector / 4)) ∧
    (s.lanes ≠ [] → s.pathBusy = false → s.checkLanes k.toNat (if k = 4 then .write else .read) 1 false ls = .ok ps →
      s.Does (.cflush p c k a b l) (fun u => s.Sends u k.toNat .flush .none ps 0 (fun _ => 0) [])) ∧
    (s.lanes = [] → s.Does (.cflush p c k a b l) (fun u => u = s))

/-- amo and red send one request per lane (R329, R330, R333, R357). -/
def Obligations.AtomicsAndReductions : Prop :=
  ∀ (s : State) (c : Bool) (t p k : BitVec 3) (d b : RegNo) (ps : List Place) (refs : List Ref), s.lanes ≠ [] →
    s.MayAccess k.toNat .atomic (typBytes t) false (s.lanes.map fun i => (i, s.rl64 b i)) ps →
    refs = (if typBytes t = 8 then [.v d.toNat, .v (d.toNat + 1)] else [.v d.toNat]) →
    (s.drained p.toNat = true → s.Does (.amoAdd c t p k d b) (fun u =>
      s.endRegion.Sends u k.toNat (.amo 0 t) (.vec d (typBytes t == 8)) ps (typBytes t) (s.typElem t d) refs)) ∧
    (s.drained p.toNat = true → s.Does (.amoMin c t p k d b) (fun u =>
      s.endRegion.Sends u k.toNat (.amo 1 t) (.vec d (typBytes t == 8)) ps (typBytes t) (s.typElem t d) refs)) ∧
    (s.drained p.toNat = true → s.Does (.amoMax c t p k d b) (fun u =>
      s.endRegion.Sends u k.toNat (.amo 2 t) (.vec d (typBytes t == 8)) ps (typBytes t) (s.typElem t d) refs)) ∧
    (s.drained p.toNat = true → s.Does (.amoAnd c t p k d b) (fun u =>
      s.endRegion.Sends u k.toNat (.amo 3 t) (.vec d (typBytes t == 8)) ps (typBytes t) (s.typElem t d) refs)) ∧
    (s.drained p.toNat = true → s.Does (.amoOr c t p k d b) (fun u =>
      s.endRegion.Sends u k.toNat (.amo 4 t) (.vec d (typBytes t == 8)) ps (typBytes t) (s.typElem t d) refs)) ∧
    (s.drained p.toNat = true → s.Does (.amoXor c t p k d b) (fun u =>
      s.endRegion.Sends u k.toNat (.amo 5 t) (.vec d (typBytes t == 8)) ps (typBytes t) (s.typElem t d) refs)) ∧
    (s.drained p.toNat = true → s.Does (.amoXchg c t p k d b) (fun u =>
      s.endRegion.Sends u k.toNat (.amo 6 t) (.vec d (typBytes t == 8)) ps (typBytes t) (s.typElem t d) refs)) ∧
    (s.drained p.toNat = true → s.Does (.amoCas c t p k d b) (fun u =>
      s.endRegion.Sends u k.toNat (.amo 7 t) (.vec d (typBytes t == 8)) ps (typBytes t) (s.typElem t d) refs ∧
      (u.memOps.getLast?.map fun o => o.reqs.map fun q => q.cmp) = some (ps.map fun q => BitVec.ofNat 64 (s.casElem t d q.lane)))) ∧
    s.Does (.redAdd c t p k d b) (fun u =>
      s.Sends u k.toNat (.red 0 t) .none ps (typBytes t) (s.typElem t d) []) ∧
    s.Does (.redMin c t p k d b) (fun u =>
      s.Sends u k.toNat (.red 1 t) .none ps (typBytes t) (s.typElem t d) []) ∧
    s.Does (.redMax c t p k d b) (fun u =>
      s.Sends u k.toNat (.red 2 t) .none ps (typBytes t) (s.typElem t d) []) ∧
    s.Does (.redAnd c t p k d b) (fun u =>
      s.Sends u k.toNat (.red 3 t) .none ps (typBytes t) (s.typElem t d) []) ∧
    s.Does (.redOr c t p k d b) (fun u =>
      s.Sends u k.toNat (.red 4 t) .none ps (typBytes t) (s.typElem t d) []) ∧
    s.Does (.redXor c t p k d b) (fun u =>
      s.Sends u k.toNat (.red 5 t) .none ps (typBytes t) (s.typElem t d) [])

/-- bar.init, expect and arrive send their operation; bar.wait waits for the generation (R340, R341, R342, R343). -/
def Obligations.BarrierInstructions : Prop :=
  ∀ (s : State) (c : Bool) (p k : BitVec 3) (a b : RegNo) (q : Place) (g : BitVec 8), s.grp.saddled = false →
    s.checkLanes k.toNat .atomic 16 true [(0, (s.rs a).toNat)] = .ok [q] →
    (s.pathBusy = false →
      s.Does (.barInit c k a b) (fun u => s.Sends u k.toNat (.bar 0) .none [q] 16 (fun _ => (s.rs b).toNat) []) ∧
      s.Does (.barExpect c k a b) (fun u => s.Sends u k.toNat (.bar 3) .none [q] 16 (fun _ => (s.rs b).toNat) []) ∧
      (s.drained p.toNat = true → s.Does (.barArrive c p k a b) (fun u => ∃ v,
        s.endRegion.Sends v k.toNat (.bar 1) .none [q] 16 (fun _ => (s.rs b).toNat) [] ∧
        u = { v with sp := { v.sp with arrivals := u.sp.arrivals } } ∧
        u.sp.arrivals.head? = some { key := q.key, gen := none } ∧ u.sp.arrivals.length ≤ 4 ∧
        ∀ x ∈ u.sp.arrivals, x.key ≠ q.key → x ∈ s.sp.arrivals))) ∧
    (s.gangWait = some .woken → s.Does (.barWait c p k a) (fun u => ∃ v, s.Filled v ∧ u = v.endRegion)) ∧
    (∀ w : State, w = s.fillFor k.toNat [q] → s.Filled w ∧
      (s.gangWait ≠ some .woken → s.oldestHeld (heldForBar q.key) = none → s.arrivalOwed q.key = false →
        w.readBlocked q.key 16 = false → w.poisoned q.key = false →
        g = (((s.sp.arrivals.find? fun r => r.key == q.key).bind fun r => r.gen).getD (Memory.get w.mem (q.key + 15))) →
        (Memory.get w.mem (q.key + 15) ≠ g → s.Does (.barWait c p k a) (fun u => u = w.endRegion)) ∧
        (Memory.get w.mem (q.key + 15) = g → w.monitorFree q.key = true →
          s.Does (.barWait c p k a) (fun u => ∃ m, m.span = s.sp.id ∧ m.gang = s.issue.gang ∧ m.key = q.key ∧
            m.bar = true ∧ m.value = g.setWidth 64 ∧ m.satisfied = false ∧ m.deadline = none ∧
            ({ w with monitors := s.monitors ++ [m], nextId := s.nextId + 1 } : State).WaitsIn u
              (.barrier q.key g true 0))) ∧
        (Memory.get w.mem (q.key + 15) = g → w.monitorFree q.key = false →
          s.Does (.barWait c p k a) (fun u => w.WaitsIn u (.barrier q.key g false (s.now + 1000))))))

/-- waitcmp tests, waits or times out; fences wait for their reach (R335, R336, R366, R367, R368, R369). -/
def Obligations.WaitcmpAndFences : Prop :=
  ∀ (s w : State) (c m : Bool) (n p k : BitVec 3) (a b : RegNo) (e f : BitVec 4) (q : Place) (x v : DWord) (H G : Nat),
    w = s.fillFor k.toNat [q] → x = BitVec.ofNat 64 (leOf (w.readKey q.slot q.key 8)) → v = s.rs b →
    (s.grp.saddled = false → s.checkLanes k.toNat .read 8 true [(0, (s.rs a).toNat)] = .ok [q] → s.Filled w ∧
      (∀ z, s.gangWait = some (.monitorDone z false) →
        s.Does (.waitcmp c n m p k a b) (fun u => u = w.endRegion.wstatus (statusWait s.sp.regs.status false z))) ∧
      (∀ z, s.gangWait = some (.monitorDone z true) → s.clear (.waitcmp c n m p k a b) →
        exec (.waitcmp c n m p k a b) s = .next (w.raise (s.trapAt 9 q.va))) ∧
      ((∀ z y, s.gangWait ≠ some (.monitorDone z y)) → w.readBlocked q.key 8 = false →
        (w.poisoned q.key = true → s.clear (.waitcmp c n m p k a b) →
          exec (.waitcmp c n m p k a b) s = .next (w.raise (s.trapAt 9 q.va))) ∧
        (w.poisoned q.key = false →
          (condHolds n x v = true → s.Does (.waitcmp c n m p k a b) (fun u =>
            u = w.endRegion.wstatus (statusWait s.sp.regs.status false false))) ∧
          (condHolds n x v = false → w.monitorFree q.key = false → s.Does (.waitcmp c n m p k a b) (fun u =>
            u = w.endRegion.wstatus (statusWait s.sp.regs.status true false))) ∧
          (condHolds n x v = false → w.monitorFree q.key = true → m = true → (s.rs (next a)).toNat ≤ s.now.toNat →
            s.Does (.waitcmp c n m p k a b) (fun u =>
              u = w.endRegion.wstatus (statusWait s.sp.regs.status false true))) ∧
          (condHolds n x v = false → w.monitorFree q.key = true → (m = true → s.now.toNat < (s.rs (next a)).toNat) →
            s.Does (.waitcmp c n m p k a b) (fun u => ∃ y, y.span = s.sp.id ∧ y.gang = s.issue.gang ∧
              y.key = q.key ∧ y.cond = n ∧ y.value = v ∧ y.bar = false ∧ y.satisfied = false ∧
              y.deadline = (if m then some (s.rs (next a)) else none) ∧
              ({ w with monitors := s.monitors ++ [y], nextId := s.nextId + 1 } : State).WaitsIn u
                (.monitor (s.nextId + 1))))))) ∧
    (s.drained p.toNat = true → s.Does (.fence c p) (fun u => u = s.endRegion)) ∧
    (s.drained p.toNat = false → s.Does (.fence c p) (fun u => u = s.stall)) ∧
    (s.gangWait = some .ticked → s.Does (.fenceSc c p) (fun u => u = s)) ∧
    (s.gangWait ≠ some .ticked → s.drained 6 = true → (H, G) = s.heartbeat p → s.Does (.fenceSc c p) (fun u =>
      s.endRegion.WaitsIn u (.tick (BitVec.ofNat 64 ((s.now.toNat + G + H - 1) / H * H + G))))) ∧
    (s.pathWork e.toNat = false → s.pathWork f.toNat = false → s.drained p.toNat = true →
      s.Does (.xfence c p e f) (fun u => u = s.endRegion))

/-- Tile loads and stores, shapes, transposes and zeroing (R291, R293, R295, R296, R297). -/
def Obligations.TilesAndShapes : Prop :=
  ∀ (s : State) (c : Bool) (a b f : RegNo) (k : BitVec 3) (v : DWord) (x : Tile) (ps : List Place) (ls : List Nat),
    v = s.rs b → x = s.tile a → ls = ((List.range (shapeRows x.shape)).map fun r =>
      ((s.rs b).toNat + r * (s.rs f).toNat) % 2 ^ 64) →
    (s.tileInUse a = false →
      (tshapeBad v = false → s.Does (.tshape c a b) (fun u => u = s.setTile a { x with
        shape := BitVec.ofNat 64 (v.toNat % 2 ^ 28 + x.shape.toNat / 2 ^ 32 * 2 ^ 32) })) ∧
      (tscaleBad v = false → s.Does (.tscale c a b) (fun u => u = s.setTile a { x with
        shape := BitVec.ofNat 64 (x.shape.toNat % 2 ^ 32 + v.toNat % 2 ^ 30 * 2 ^ 32) })) ∧
      s.Does (.tzero c a false) (fun u => u = s.setTile a { x with data := 0 }) ∧
      (∀ m e z, m = shapeRows (s.tile b).shape → z = fmtSize (shapeFmt (s.tile b).shape) → 0 < m → 0 < z →
        e = shapeRBytes (s.tile b).shape / z → e ≤ 128 → s.Does (.txpose c a b) (fun u =>
          s.Starts u (.tile a (transposed (s.tile b).data m e z)
            (BitVec.ofNat 64 (shapeFmt (s.tile b).shape + e * 2 ^ 5 + m * z * 2 ^ 13))) true s.region true
            [.tile a.toNat, .shape a.toNat])) ∧
      (shapeRows x.shape ≠ 0 → s.pathBusy = false → s.MayAccessRows k.toNat .read (shapeRBytes x.shape) ls ps →
        s.Does (.tload c a b f k) (fun u => s.SendsOp u [.tile a.toNat] fun o => o.kind = .load ∧ o.dest = .tile a ∧
          o.seg = k ∧ (o.reqs.map fun q => (q.lane, q.key, q.bytes)) =
            ((ps.zip (rowPieces (vecAt s.seenSegs k.toNat Seg.invalid) (shapeRBytes x.shape) ls)).map fun y =>
              (y.1.lane, y.1.key, y.2.len))))) ∧
    s.Does (.tzero c a true) (fun u =>
      u = (s.setAcc (a.setWidth 4) { data := 0, count := 0, sign := false, seq := none }).noteSeq (a.setWidth 4) none) ∧
    (shapeRows x.shape ≠ 0 → s.pathBusy = false → s.MayAccessRows k.toNat .write (shapeRBytes x.shape) ls ps →
      s.Does (.tstore c a b f k) (fun u => s.SendsOp u [] fun o => o.kind = .store ∧ o.dest = .none ∧ o.seg = k ∧
        (o.reqs.map fun q => (q.key, q.bytes, q.data)) =
          ((ps.zip (rowPieces (vecAt s.seenSegs k.toNat Seg.invalid) (shapeRBytes x.shape) ls)).map fun y =>
            (y.1.key, y.2.len, BitVec.ofNat 256 (x.data.toNat / 2 ^ (8 * y.2.at_) % 2 ^ (8 * y.2.len))))))

/-- Matrix operations enter the engine queue after their issue checks (R294, R299, R300, R302, R306, R314, R321). -/
def Obligations.MatrixInstructions : Prop :=
  ∀ (s : State) (c : Bool) (a b f d : RegNo) (acc q : BitVec 4) (p k : BitVec 3) (ws : List DWord) (x : DWord)
    (ps : List Place) (after : Option SeqShape),
    ws = ((List.range 4).map fun i => s.rs (BitVec.ofNat 6 (4 * q.toNat + i))) → x = s.rs a →
    after = seqAfter (((pairOf (shapeRead (s.tile a).shape) (shapeRead (s.tile b).shape)).map fun y => y.1).getD 0)
      (quadOf ws) (s.seqAhead acc) →
    (s.mmaBad a b acc p false (quadOf ws) = none → s.Does (.mma c a b acc p q) (fun u =>
      (s.noteSeq acc after).Queues u (.mma a b acc p false ws) [.acc acc.toNat])) ∧
    (s.mmaBad a b acc 0 true (quadOf ws) = none → s.Does (.mmai c a b acc q) (fun u =>
      (s.noteSeq acc after).Queues u (.mma a b acc 0 true ws) [.acc acc.toNat])) ∧
    s.Does (.mprom c a) (fun u =>
      (s.noteSeq (a.setWidth 4) none).Queues u (.mprom (a.setWidth 4)) [.acc a.toNat]) ∧
    (∀ red : Bool, drainBad (s.rs f) red = false →
      s.MayAccessRows k.toNat .write ((drainDesc (s.rs f)).cols * (drainDesc (s.rs f)).size)
        (drainRows (s.rs b) (drainDesc (s.rs f))) ps →
      s.Does (if red = true then Instr.tdrainRed c a b f k else Instr.tdrain c a b f k) (fun u => ∃ w, s.Filled w ∧
        ((w.newEngineRegion 2).2.noteSeq (a.setWidth 4) none).Queues u
          (.drain (a.setWidth 4) red k (s.rs b) (s.rs f) false 0) [.acc a.toNat])) ∧
    (s.grp.saddled = false → segOf x ∈ [0, 2, 3, 4] →
      s.checkLanes (segOf x) .read 8 true ((List.range 8).map fun i => (i, offOf x + 8 * i)) = .ok ps →
      s.Does (.spmv c d a b) (fun u => (s.newEngineRegion 3).2.Queues u (.spmv d x (s.rs b)) [.s d.toNat]) ∧
      s.Does (.sptrsv c d a b) (fun u => (s.newEngineRegion 3).2.Queues u (.sptrsv d x (s.rs b)) [.s d.toNat])) ∧
    (s.grp.saddled = false → s.checkLanes k.toNat .read 64 true [(0, x.toNat)] = .ok ps →
      s.Does (.ttask c d a k) (fun u => ∃ w, s.Filled w ∧ (w.newEngineRegion 2).2.Starts u
        (.ttask d k x s.seen.modq s.seen.xwin) true (w.newEngineRegion 2).1 false [.s d.toNat]))

/-- Integer and residue accumulators take exact dot products (R221, R271, R272, R298, R301). -/
def Obligations.MatrixProducts : Prop :=
  ∀ (a : Acc) (sp : MmaSpec) (row col : Nat → List Elem) (i j : Nat) (xs ys : List Word) (neg : Bool),
    (sp.kind = 2 → sp.ci + sp.m ≤ 32 → sp.cj + sp.n ≤ 32 → i < 32 → j < 32 →
      accGet (mmaDo sp a row col).acc.data 2 i j =
        if sp.ci ≤ i ∧ i < sp.ci + sp.m ∧ sp.cj ≤ j ∧ j < sp.cj + sp.n then
          wrapTo 128 ((if sp.init then 0 else (accGet a.data 2 i j : Int)) +
            (((row (i - sp.ci)).zip (col (j - sp.cj))).map fun e => e.1.toI * e.2.toI).sum)
        else accGet a.data 2 i j) ∧
    (sp.kind = 3 → sp.ci + sp.m ≤ 64 → sp.cj + sp.n ≤ 64 → i < 64 → j < 64 → 0 < sp.q → sp.q ≤ 2 ^ 32 →
      accGet (mmaDo sp a row col).acc.data 3 i j =
        if sp.ci ≤ i ∧ i < sp.ci + sp.m ∧ sp.cj ≤ j ∧ j < sp.cj + sp.n then
          ((if sp.init then 0 else accGet a.data 3 i j) +
            (((row (i - sp.ci)).zip (col (j - sp.cj))).map fun e => e.1.toI.toNat * e.2.toI.toNat).sum) % sp.q
        else accGet a.data 3 i j) ∧
    (xs.length + ys.length ≤ 1025 → (productAcc xs ys neg).resolved =
      (if neg then -1 else 1) * (limbsValue xs * limbsValue ys : Nat))

/-- The Reins are taken, passed and queried (R309, R310, R311, R312). -/
def Obligations.ReinsInstructions : Prop :=
  ∀ (s : State) (c : Bool) (d a : RegNo) (me : BitVec 6) (live : List Nat), me = s.sp.id.slot →
    live = s.liveSlots s.sp.group →
    (s.gangWait = some .woken → s.Does (.reinsTake c) (fun u => u = s)) ∧
    (s.gangWait ≠ some .woken → s.drained 4 = true →
      (s.core.holder = some me → s.Does (.reinsTake c) (fun u => u = s.endRegion)) ∧
      (s.core.holder = none → s.core.offer = some me ∨ (s.core.offer = none ∧
          ∀ p ∈ s.rest, p.id.core = s.sp.id.core → p.waitsReins = false) → s.Does (.reinsTake c) (fun u =>
        u = { s.endRegion with core := { s.endRegion.core with
          holder := some me, offer := none, ops := s.core.ops.map fun o => { o with accepted := true } } })) ∧
      ((∃ h, s.core.holder = some h ∧ h ≠ me) ∨ (∃ o, s.core.holder = none ∧ s.core.offer = some o ∧ o ≠ me) ∨
          (s.core.holder = none ∧ s.core.offer = none ∧
            ∃ p ∈ s.rest, p.id.core = s.sp.id.core ∧ p.waitsReins = true) →
        s.Does (.reinsTake c) (fun u => s.endRegion.WaitsIn u .reins))) ∧
    (s.core.holder ≠ some me → s.Does (.reinsPass c a) (fun u => u = s) ∧ s.Does (.reinsPassNext c) (fun u => u = s)) ∧
    (s.core.holder = some me →
      s.Does (.reinsPass c a) (fun u =>
        u = { s with core := { s.core with
          holder := none, ops := s.core.ops.map fun o => { o with accepted := true },
          offer :=
            if bitOn (s.rs a) 6 = true ∨ fld (s.rs a) 0 6 ∉ live then none
            else some (BitVec.ofNat 6 (s.rs a).toNat) } }) ∧
      (∀ n, n ∈ live → me.toNat < n → (∀ i ∈ live, me.toNat < i → n ≤ i) → s.Does (.reinsPassNext c) (fun u =>
        u = { s with core := { s.core with
          holder := none, ops := s.core.ops.map fun o => { o with accepted := true },
          offer := some (BitVec.ofNat 6 n) } })) ∧
      (live = [] → s.Does (.reinsPassNext c) (fun u =>
        u = { s with core := { s.core with
          holder := none, ops := s.core.ops.map fun o => { o with accepted := true }, offer := some me } })) ∧
      (∀ n, n ∈ live → (∀ i ∈ live, i ≤ me.toNat ∧ n ≤ i) → s.Does (.reinsPassNext c) (fun u =>
        u = { s with core := { s.core with
          holder := none, ops := s.core.ops.map fun o => { o with accepted := true },
          offer := some (BitVec.ofNat 6 n) } }))) ∧
    (∀ h o, s.core.holder = some h → s.core.offer = o → s.Sets (.reinsQuery c d) d (BitVec.ofNat 64
      (h.toNat + 2 ^ 6 + (o.getD 0).toNat * 2 ^ 8 + (if o = none then 0 else 2 ^ 14) + (if h = me then 2 ^ 15 else 0) +
        (s.core.ops.filter fun x => x.accepted).length % 2 ^ 16 * 2 ^ 16))) ∧
    (∀ o, s.core.holder = none → s.core.offer = o → s.Sets (.reinsQuery c d) d (BitVec.ofNat 64
      ((o.getD 0).toNat * 2 ^ 8 + (if o = none then 0 else 2 ^ 14) + s.core.ops.length % 2 ^ 16 * 2 ^ 16)))

/-- Engine commands, tokens, sleeps, promises and the Hayloft (R172, R176, R177, R178, R179, R184, R185, R186, R200,
R201). -/
def Obligations.EngineCommandsAndSleep : Prop :=
  ∀ (s : State) (c : Bool) (n : BitVec 2) (d a b : RegNo) (tok : BitVec 16), tok = BitVec.ofNat 16 (s.rs b).toNat →
    s.Does (.eqw c n a) (fun u => u = { s with sp := { s.sp with window := vecPut s.sp.window n.toNat (s.rs a) } }) ∧
    (s.grp.saddled = false → s.commandWaits s.sp.window = false → s.checkCommand s.sp.window = none →
      s.Does (.eqgo c d) (fun u => ∃ k : Command, ∃ o : SlowOp, k.token = s.sp.lastTok + 1 ∧ k.words = s.sp.window ∧
        k.segs = s.seenSegs ∧ k.done = 0 ∧ k.total = s.commandTotal s.sp.window ∧ k.pc = s.here ∧
        u.sp.cmds = (if s.emptyCommand s.sp.window then s.sp.cmds else s.sp.cmds ++ [k]) ∧ u.sp.lastTok = k.token ∧
        u.slowOps = s.slowOps ++ [o] ∧ o.span = s.sp.id ∧ o.kind = .pair d k.promise (k.token.setWidth 64) ∧
        o.ready = true ∧ u.sp.pend = s.sp.pend.put s.issue.gang [.s d.toNat, .s (d.toNat + 1)] true ∧
        u.sp.regs = s.sp.regs ∧ u.sp.window = s.sp.window ∧ u.memOps = s.memOps ∧ u.core = s.core ∧ u.grp = s.grp)) ∧
    (∀ k addr, s.grp.saddled = false → s.commandWaits s.sp.window = false →
      s.checkCommand s.sp.window = some (k, addr) → s.Does (.eqgo c d) (fun u => u = s.raise (s.trapAt k addr))) ∧
    (s.gangWait = some .woken → s.Does (.sleepu c a) (fun u => u = s) ∧
      (s.faultFor tok = none → s.unfinished tok = none → s.Does (.sleepp c a b) (fun u => u = s)) ∧
      (∀ k, s.faultFor tok = none → s.unfinished tok = some k → s.Does (.sleepp c a b) (fun u =>
        u = s.raise (s.trapAt 10 (s.revised k))))) ∧
    (s.gangWait ≠ some .woken → s.drained 4 = true →
      ((s.rs a).toNat ≤ s.now.toNat → s.Does (.sleepu c a) (fun u => u = s.endRegion) ∧
        (s.faultFor tok = none → s.unfinished tok = none → s.Does (.sleepp c a b) (fun u => u = s.endRegion))) ∧
      (s.now.toNat < (s.rs a).toNat → s.Does (.sleepu c a) (fun u => s.endRegion.WaitsIn u (.sleep (s.rs a))) ∧
        s.Does (.sleepp c a b) (fun u => s.endRegion.WaitsIn u (.sleep (s.rs a))))) ∧
    (s.faultFor tok = none → s.unfinished tok = none → s.Does (.promiseChk c d b) (fun u =>
      s.Starts u (.status d 0) false s.region true [.s d.toNat])) ∧
    (∀ k, s.faultFor tok = none → s.unfinished tok = some k → s.Does (.promiseChk c d b) (fun u =>
      s.Starts u (.status d (s.revised k)) false s.region true [.s d.toNat])) ∧
    s.Sets (.time c d) d s.now ∧
    (s.grp.saddled = false →
      s.Does (.halloc c d a) (fun u => s.Starts u (.halloc d (s.rs a)) false (s.regionId s.sp 6 0) false
        [.s d.toNat, .s (d.toNat + 1)]) ∧
      s.Does (.hfree c a) (fun u => ∃ h : HayFree, h.id = s.nextId + 1 ∧ h.span = s.sp.id ∧ h.launch = s.grp.launch ∧
        h.off = (s.rs a).toNat ∧ u = { s with nextId := s.nextId + 1, hayFrees := s.hayFrees ++ [h] }))

/-- Waits end, promotions happen, the Reins and resources are granted, phases commit (R184, R310, R336, R343, R357,
R369, R387, R388, R395, R396, R397, R413). -/
def Obligations.WakesAndGrants : Prop :=
  (∀ (s v : State) (k : SpanId) (p : Span), s.spanOf k = some p → v = s.focus k →
    Answers (.sleepWake k) s (fun u => s.Reslices u k (Slice.slept s.now)) ∧
    Answers (.fenceScTick k) s (fun u => s.Reslices u k (Slice.ticked s.now)) ∧
    Answers (.barWaitRetest k) s (fun u => s.Reslices u k (Slice.retested s.mem s.now)) ∧
    Answers (.monitorWake k) s (fun u => s.Wakes u k (s.ringing k) false) ∧
    Answers (.waitcmpTimeout k) s (fun u => s.Wakes u k (s.lapsed k) true) ∧
    Answers (.spanPromotion k) s (fun u =>
      s.Respans u k fun q => { q with promoted := q.promoted || decide (4096 ≤ q.passOver) }) ∧
    (v.sp.allRegang = true → Answers (.regangRelease k) s (fun u =>
      u = { v with sp := { v.sp with slices := u.sp.slices, clauses := u.sp.clauses, flags := u.sp.flags } } ∧
      (∀ j, j < 8 → (v.sp.slice j).wait = some .regang → (v.sp.slice j).exited ≠ 15 →
        ∃ g, u.sp.slice j = { v.sp.slice j with
          pc := (v.sp.slice j).pc + 12, slot := 0, clause := none, xfer := none, wait := none, again := none,
          left := (v.sp.slice j).pc, fell := false, gang := g }) ∧
      ∀ i j, i < 8 → j < 8 → (v.sp.slice i).wait = some .regang → (v.sp.slice j).wait = some .regang →
        (v.sp.slice i).exited ≠ 15 → (v.sp.slice j).exited ≠ 15 →
        (v.sp.slice i).pc = (v.sp.slice j).pc → (u.sp.slice i).gang = (u.sp.slice j).gang)) ∧
    (v.sp.allRegang = false → exec (.regangRelease k) s = .next v) ∧
    (∀ t gang resume, p.trapping = some (t, gang, resume) →
      (v.quietA = true → Answers (.trapEntry k) s (fun u => v.Enters u t gang resume)) ∧
      (v.quietA = false → exec (.trapEntry k) s = .next s)) ∧
    (p.trapping = none → exec (.trapEntry k) s = .next s) ∧
    (v.regionFull = true → v.sentDrained 4 = true →
      exec (.regionLimit k) s = .next v.endRegion.sendQueued ∧
      ((∀ o ∈ v.memOps, o.span = v.sp.id → o.path = 0 → o.unsent = []) → Answers (.regionLimit k) s (fun u =>
        u = { v with
          core := { v.core with l1 := u.core.l1 },
          sp := { v.sp with
            regions := u.sp.regions, regSeq := vecPut v.sp.regSeq 0 (vecAt v.sp.regSeq 0 0 + 1), regStart := v.now,
            regSectors := 0, ending := false } } ∧
        (u.sp.regions = v.sp.regions.map fun x => if x.id = v.region then { x with ended := true } else x) ∧
        ∀ x, (∃ y ∈ u.core.l1, x ∈ y.secs) ↔
          (∃ y ∈ v.core.l1, x ∈ y.secs) ∧ x.kind ≠ .region v.sp.id.slot v.region))) ∧
    (v.regionFull = false ∨ v.sentDrained 4 = false → exec (.regionLimit k) s = .next s)) ∧
  (∀ (s : State) (k : CoreId),
    ((∃ p, s.wantsReins k p) → Answers (.reinsGrant k) s (fun u => ∃ p, s.wantsReins k p ∧
      (∀ q, s.wantsReins k q → s.ageOf p ≤ s.ageOf q) ∧ (u.coreOf k).holder = some p.id.slot ∧ (u.coreOf k).offer = none ∧
      (u.coreOf k).ops = (s.coreOf k).ops.map (fun o => { o with accepted := true }) ∧
      s.Reslices { u with core := s.core, cores := s.cores } p.id Slice.reined)) ∧
    (∀ t q g fv ft fa, (s.coreOf k).teams = [t] → (s.coreOf k).acqs = [q] → q.span.core = k → s.groupAt q.span = some g →
      g.launch = t.launch → (fv, ft, fa) = s.poolFree k t →
      (8 * q.v * g.bindRec.nspan.toNat ≤ fv → q.t ≤ ft → q.a ≤ fa → Answers (.acqxGrant k) s (fun u =>
        (u.coreOf k).acqs = [] ∧ (∃ h, u.groupOf g.id = some h ∧ h = { g with
          xv := g.xv + q.v, tiles := g.tiles ++ List.replicate q.t Tile.zero,
          accs := g.accs ++ List.replicate q.a Acc.zero }) ∧
        ∃ p, u.spanOf q.span = some p ∧ ∀ j, j < 8 → bitOn q.gang j = true → ∀ r, s.spanOf q.span = some r →
          (r.slice j).wait = some .acqx → (p.slice j).wait = some (.acqxDone 0))) ∧
      (¬(8 * q.v * g.bindRec.nspan.toNat ≤ fv ∧ q.t ≤ ft ∧ q.a ≤ fa) →
        Answers (.acqxGrant k) s (fun u => u = s.retreat k t q g))) ∧
    (∀ sp q g v, sp.core = k → (s.coreOf k).acqs = [q] → q.span = sp → s.groupAt sp = some g →
      fld (s.recordBy g.launch) 48 16 ≠ 0 → g.holds = true → g.status = .running →
      q.since.toNat + 1000 * fld (s.recordBy g.launch) 48 16 ≤ s.now.toNat →
      v = (s.updCore k fun c => { c with acqs := [] }).asGang sp q.gang →
      Answers (.acquireTimeout sp) s (fun u => u = v.raise (v.trapOf 19 0))) ∧
    (∀ op c o, (s.core :: s.cores).find? (fun c => c.ops.any fun o => o.id == op && !o.accepted) = some c →
      c.ops.find? (fun o => !o.accepted && c.accepts o.span.slot) = some o → o.id = op →
      Answers (.engineOperationAccept op) s (fun u => u = s.updCore c.id fun x => { x with ops :=
        (c.ops.filter fun o => o.accepted) ++ [{ o with accepted := true }] ++
          (c.ops.filter fun o => !o.accepted && o.id != op) })) ∧
    (∀ sp p g, s.spanOf sp = some p → s.groupOf p.group = some g → g.status = .running → g.id ≠ 0 →
      s.commitReady g.id = true → (∀ q ∈ s.spansOf g.id, q.saddleWait = none) → Answers (.phaseCommit sp) s (fun u =>
        (∀ x ∈ u.host.boxes, x.die = g.die → x.num = g.box → x.state = 3) ∧ (∀ x ∈ u.saddles, x.holder ≠ g.id) ∧
        (∀ x ∈ u.allGroups, x.id ≠ g.id) ∧
        u.host.requests = s.host.requests ++ [(g.launch, { g.bindRec with
          nspan := BitVec.ofNat 7 ((s.spansOf g.id).filter (fun q => !q.gone)).length, phase := g.bindRec.phase + 1, age := 0,
          deadline := BitVec.allOnes 64 })])) ∧
    (∀ w, Answers (.illegalInstrWord w) s (fun u => u = s.raise (s.trapOf 0 (illegalWordSub w)))))

/-- Memory-side caches, error correction, scrubbing, power states, chains and keys (R85, R87, R88, R91, R92, R94, R95,
R98, R99, R100, R157, R441). How many new erroneous bits a read meets is a free value (log 21). -/
def Obligations.CachesDramPowerAndKeys : Prop :=
  (∀ (s : State) (pa block : Nat) (key : BitVec 10) (b : MscBlock) (d : DramBlock) (e : Nat) (c : ChannelState),
    d = s.dramOf block → c = s.channel (channelOf (block * 512)) →
    e = d.errors + s.draw.1 →
    (localBacked pa = true → Answers (.mscSectorWrite pa key) s (fun u => ∃ x ∈ u.memsys.msc, x.block = pa / 512 ∧
      bitOn x.valid (pa / 32 % 16) = true ∧ x.dirty = true ∧ x.key = key ∧
      (∀ y ∈ u.memsys.msc, y.block = x.block → y = x) ∧
      (∀ b, s.mscOf (pa / 512) = some b → b.key = key →
        u = { s with memsys := { s.memsys with msc := u.memsys.msc, channels := u.memsys.channels } }))) ∧
    (localBacked pa = false → exec (.mscSectorWrite pa key) s = .next s ∧ exec (.mscSectorRead pa key) s = .next s) ∧
    (localBacked pa = true → Answers (.mscSectorRead pa key) s (fun u => ∃ x ∈ u.memsys.msc, x.block = pa / 512 ∧
      bitOn x.valid (pa / 32 % 16) = true ∧ x.key = key ∧ (∀ y ∈ u.memsys.msc, y.block = x.block → y = x) ∧
      ∀ b, s.mscOf (pa / 512) = some b → b.key = key →
        (bitOn b.valid (pa / 32 % 16) = true → u = { s with memsys := { s.memsys with
          msc := u.memsys.msc, channels := u.memsys.channels, lines := u.memsys.lines } } ∧ (b.poison = false → u.memsys.lines = s.memsys.lines)) ∧
        (bitOn b.valid (pa / 32 % 16) = false → x.valid = BitVec.allOnes 16 ∧ x.fetched = true ∧
          ((s.dramOf (pa / 512)).errors = 0 → x.poison = (b.poison || (s.dramOf (pa / 512)).poison))))) ∧
    Answers (.mscWriteback block) s (fun u => (∀ x ∈ u.memsys.msc, x.block ≠ block) ∧
      (∀ x ∈ s.memsys.msc, x.block ≠ block → x ∈ u.memsys.msc) ∧
      (s.mscOf block = some b → b.dirty = true →
        (b.valid = BitVec.allOnes 16 ∨ b.fetched = true ∨ d.errors = 0) →
        u.dramOf block = { d with
          poison := b.poison || (d.poison && !(b.valid == BitVec.allOnes 16 || b.fetched)), errors := 0 } ∧
        u = { s with memsys := { s.memsys with
          msc := u.memsys.msc, dram := u.memsys.dram, channels := u.memsys.channels } }) ∧
      (s.mscOf block = none ∨ (s.mscOf block = some b ∧ b.dirty = false) →
        u = { s with memsys := { s.memsys with msc := u.memsys.msc } })) ∧
    (localBacked (block * 512) = true → Answers (.dramBlockRead block) s (fun u =>
      (d.poison = true ∨ e = 0 → (∀ x, u.dramOf x = s.dramOf x) ∧ u.mem = s.mem ∧ u.memsys.scrubQ = s.memsys.scrubQ) ∧
      (d.poison = false → 0 < e → e ≤ 16 →
        u.memsys.scrubQ = s.memsys.scrubQ ++ [(block, s.now)] ∧ u.dramOf block = { d with errors := e } ∧ u.mem = s.mem) ∧
      (d.poison = false → e = 17 → u.dramOf block = { d with poison := true, errors := 0 } ∧ u.mem = s.mem ∧
        u.host.errors = .uncorrectable block :: s.host.errors) ∧
      (∀ x, x ≠ block → u.dramOf x = s.dramOf x) ∧
      (s.safe → ∀ a, a / 512 ≠ block → Memory.get u.mem a = Memory.get s.mem a))) ∧
    (localBacked (block * 512) = false → exec (.dramBlockRead block) s = .next s ∧ exec (.scrubRead block) s = .next s) ∧
    ((∀ x ∈ s.memsys.scrubQ, x.1 ≠ block) → exec (.correctedWriteback block) s = .next s) ∧
    ((∃ x ∈ s.memsys.scrubQ, x.1 = block) → Answers (.correctedWriteback block) s (fun u =>
      u = { s with memsys := { s.memsys with dram := u.memsys.dram, scrubQ := u.memsys.scrubQ } } ∧
      u.dramOf block = (if d.poison then d else { d with errors := 0 }) ∧
      u.memsys.scrubQ = s.memsys.scrubQ.filter fun x => x.1 != block)) ∧
    (s.asleep c.ch = true → exec (.scrubRead block) s = .next s) ∧
    (localBacked (block * 512) = true → s.asleep c.ch = false →
      Answers (.scrubRead block) s (fun u =>
        u.channel c.ch = (if block = c.nextScrub then { c with scrubbed := c.scrubbed + 1, lastScrub := s.now } else c) ∧
        (∀ x, x ≠ c.ch → u.channel x = s.channel x) ∧
        (d.poison = true ∨ d.errors = 0 → u = { s with memsys := { s.memsys with channels := u.memsys.channels } }) ∧
        (d.poison = false → 0 < d.errors → d.errors ≤ 16 →
          u.memsys.scrubQ = s.memsys.scrubQ ++ [(block, s.now)] ∧ u.mem = s.mem ∧ u.memsys.dram = s.memsys.dram) ∧
        (d.poison = false → d.errors = 17 → u.dramOf block = { d with poison := true, errors := 0 } ∧ u.mem = s.mem)))) ∧
  (∀ (s : State) (ch : Channel) (last : DWord) (bank : BankId) (chain : BitVec 12) (slot : BitVec 10)
    (keys : Option (BitVec 512)) (die : DieId) (period : Nat), last = (s.channel ch).lastRequest →
    period = vecAt s.memsys.drowsyPeriod bank.die.val 8192 →
    (s.asleep ch = false → last.toNat + s.idleLimit ch ≤ s.now.toNat → Answers (.selfRefreshEntry ch) s (fun u =>
      u = { s with memsys := { s.memsys with channels := u.memsys.channels } } ∧
      u.channel ch = { s.channel ch with selfRefresh := true } ∧ ∀ c, c ≠ ch → u.channel c = s.channel c)) ∧
    (s.asleep ch = true ∨ s.now.toNat < last.toNat + s.idleLimit ch → exec (.selfRefreshEntry ch) s = .next s) ∧
    (s.asleep ch = true → Answers (.selfRefreshExit ch) s (fun u =>
      u = { s with memsys := { s.memsys with channels := u.memsys.channels } } ∧
      u.channel ch = { s.channel ch with selfRefresh := false, lastRequest := s.now } ∧
      ∀ c, c ≠ ch → u.channel c = s.channel c)) ∧
    (s.asleep ch = false → exec (.selfRefreshExit ch) s = .next s) ∧
    ((∀ x ∈ s.memsys.bankUse, x.1 = bank → 188 * x.2.toNat + 100 * period ≤ 188 * s.now.toNat) →
      100 * period ≤ 188 * s.now.toNat → s.memsys.drowsy.contains bank = false →
      Answers (.drowsyBankDrop bank) s (fun u =>
        u = { s with memsys := { s.memsys with drowsy := bank :: s.memsys.drowsy } })) ∧
    ((∀ x ∈ s.memsys.bankUse, x.1 = bank → 188 * s.now.toNat < 188 * x.2.toNat + 100 * period) →
      (∃ x ∈ s.memsys.bankUse, x.1 = bank) → exec (.drowsyBankDrop bank) s = .next s) ∧
    (chain ∈ s.memsys.retired → chain ≠ 0 → Answers (.chainDemote chain) s (fun u =>
      u = { s with memsys := { s.memsys with demoted := u.memsys.demoted, retired := u.memsys.retired } } ∧
      (∀ c, c ∈ u.memsys.demoted ↔ c ∈ s.memsys.demoted ∨ c = chain) ∧
      ∀ c, c ∈ u.memsys.retired ↔ c ∈ s.memsys.retired ∧ c ≠ chain)) ∧
    (chain ∉ s.memsys.retired ∨ chain = 0 → exec (.chainDemote chain) s = .next s) ∧
    (chain ∉ s.memsys.demoted → exec (.chainSweep chain) s = .next s) ∧
    (chain ∈ s.memsys.demoted → chain ≠ 0 → Answers (.chainSweep chain) s (fun u =>
      u = { s with memsys := { s.memsys with
        lines := u.memsys.lines, msc := u.memsys.msc, demoted := u.memsys.demoted } } ∧
      u.memsys.lines = s.memsys.lines.map (fun l => if l.chain = chain then { l with chain := 0, prio := .low } else l) ∧
      u.memsys.msc = s.memsys.msc.map (fun b => if b.chain = chain then { b with chain := 0, prio := .low } else b) ∧
      ∀ c, c ∈ u.memsys.demoted ↔ c ∈ s.memsys.demoted ∧ c ≠ chain)) ∧
    Answers (.keySlotLoad slot keys) s (fun u => u.keyOf slot = keys ∧ (∀ b ∈ u.memsys.msc, b.key ≠ slot) ∧
      (∀ x, x ≠ slot → u.keyOf x = s.keyOf x) ∧ u.sp = s.sp ∧ u.grp = s.grp ∧
      (∀ l ∈ u.memsys.lines, l.slot ≠ slot) ∧
      ((∀ b ∈ s.memsys.msc, b.key ≠ slot) → (∀ l ∈ s.memsys.lines, l.slot ≠ slot) → u = { s with memsys := { s.memsys with keys := u.memsys.keys } })) ∧
    Answers (.sramSoftError die) s (fun u => u = { s with host := { s.host with counters := u.host.counters } } ∧
      (s.counterOf (.sram die) ≠ BitVec.allOnes 64 → u.counterOf (.sram die) = s.counterOf (.sram die) + 1) ∧
      ∀ c, c ≠ .sram die → u.counterOf c = s.counterOf c))

/-- An access at its home is performed whole or refused whole, and acknowledged when performed (R119, R120, R152,
R354, R361, R362, R365). -/
def Obligations.AccessesAtHome : Prop :=
  (∀ (s s1 : State) (o : MemOp) (sec : Nat) (qs : List Req) (r : RegionId), s.opOf o.id = some o →
    qs = (o.reqs.filter fun q => q.key / 32 == sec && q.status == .sent) → qs ≠ [] → s.heldBehind o sec = false →
    s.onFabric o.id sec = false → s.reaches (fabricDie o.span.core) (sec * 32) = true →
    (∀ d ∈ s.memsys.dram, d.errors ≤ 17) →
    (∀ q ∈ qs, s.otherKey (s.keyFor q.slot q.key) (q.key / 512) = none ∧ ∀ x ∈ qs, q.slot = x.slot) →
    (s.safe → o.kind = .store → s.admitReqs o qs = .admitted s1 → Answers (.accessAtHome o.id sec) s (fun u =>
      (o.logged = false →
        (∀ a, (∀ q ∈ qs, a < q.key ∨ q.key + q.bytes ≤ a) → Memory.get u.mem a = Memory.get s.mem a) ∧
        ∀ xs q ys i, qs = xs ++ q :: ys → i < q.bytes → (q.key + i) / 32 = sec →
          (∀ x ∈ ys, q.key + i < x.key ∨ x.key + x.bytes ≤ q.key + i) →
          Memory.get u.mem (q.key + i) = BitVec.ofNat 8 (q.data.toNat / 256 ^ i)) ∧
      (u.memOps = s.memOps.map fun x => if x.id = o.id then { o with reqs := o.reqs.map fun q => if q.key / 32 = sec ∧ q.status = .sent then
        { q with status := .performed } else q } else x) ∧
      ∀ g, o.logged = true → s.groupOf o.group = some g → ∃ h, u.groupOf o.group = some h ∧
        ∀ e ∈ h.log, e ∈ g.log ∨ (e.pa = sec * 32 ∧ e.seq = g.logSeq ∧
          ∃ q ∈ qs, e.key = q.slot ∧ e.old = BitVec.ofNat 256 (leOf (s.readKey q.slot (sec * 32) 32))))) ∧
    (o.kind = .load → s.invalidating (sec / 4) = false → s.admitReqs o qs = .admitted s1 →
      Answers (.accessAtHome o.id sec) s (fun u => u.mem = s.mem ∧ ∃ bad,
        u.memOps = s.memOps.map fun x => if x.id = o.id then { o with reqs := o.reqs.map fun q => if q.key / 32 = sec ∧ q.status = .sent then
          { q with status := .performed, poison := bad,
                   result := BitVec.ofNat 256 (leOf (s.readKey q.slot q.key q.bytes)) } else q } else x)) ∧
    (o.kind = .store ∨ (o.kind = .load ∧ s.invalidating (sec / 4) = false) → s.admitReqs o qs = .refused r →
      Answers (.accessAtHome o.id sec) s (fun u => u = { s with memOps := u.memOps } ∧
        u.memOps = s.memOps.map fun x => if x.id = o.id then { o with reqs := o.reqs.map fun q => if q.key / 32 = sec ∧ q.status = .sent then
          { q with status := .refused (regionBits r) } else q } else x)) ∧
    (o.kind = .flush → Answers (.accessAtHome o.id sec) s (fun u => u.mem = s.mem ∧
      u.memOps = s.memOps.map fun x => if x.id = o.id then { o with reqs := o.reqs.map fun q => if q.key / 32 = sec ∧ q.status = .sent then
        { q with status := .performed } else q } else x))) ∧
  (∀ (s : State) (o : MemOp) (sec : Nat), s.opOf o.id = some o → s.invalidating (sec / 4) = false →
    s.replying o.id sec = false →
    (o.kind = .store ∨ o.kind = .flush ∨ (∃ op t, o.kind = .red op t) ∨ ∃ k, o.kind = .update k) →
    (∀ q ∈ o.reqs, q.key / 32 = sec → q.status = .performed ∨ q.status = .acked) →
    ((∀ q ∈ o.reqs, q.key / 32 ≠ sec → q.status = .acked ∨ q.status = .unreachable) →
      Answers (.storeAcknowledgement o.id sec) s (fun u =>
        u = ({ s with memOps := s.memOps.filter fun x => x.id != o.id } : State).settleMerged)) ∧
    ((∃ q ∈ o.reqs, q.key / 32 ≠ sec ∧ q.status = .sent) →
      Answers (.storeAcknowledgement o.id sec) s (fun u =>
        u = ({ s with memOps := s.memOps.map fun x => if x.id = o.id then { o with reqs := o.reqs.map fun q =>
          if q.key / 32 = sec ∧ q.status = .performed then { q with status := .acked } else q } else x } : State).settleMerged)) ∧
    ((∀ x ∈ s.memOps, ∀ q ∈ x.reqs, ∀ id lane, q.status ≠ .merged id lane) → s.settleMerged = s))

/-- An atomic at its home writes the updated value and returns the old one (R325, R330, R333). -/
def Obligations.AtomicsAtHome : Prop :=
  (∀ (s s1 v : State) (o : MemOp) (q : Req) (op t : BitVec 3) (old new : Nat), s.opOf o.id = some o →
    (o.reqs.find? fun x => x.lane == q.lane && x.status == .sent) = some q → laneWaits o q = false →
    s.heldBehind o (q.key / 32) = false → s.onFabric o.id (q.key / 32) = false →
    s.reaches (fabricDie o.span.core) q.key = true → s.safe → o.logged = false →
    (∀ d ∈ s.memsys.dram, d.errors ≤ 17) → s.otherKey (s.keyFor q.slot q.key) (q.key / 512) = none →
    ((o.kind = .amo op t ∧ s.syncBlocked o.span q.key (typBytes t) = false ∧ s1 = s) ∨
      (o.kind = .red op t ∧ ∃ s0, s.admitReqs o [q] = .admitted s0 ∧ s1 = s0.admitMerged o.id q.lane)) →
    v = s1.cacheRead none q.key q.slot (o.policy q) → v.poisoned q.key = false →
    old = leOf (s.readKey q.slot q.key (typBytes t)) → new = updateVal op t old q.data.toNat q.cmp.toNat →
    Answers (.atomicAtHome o.id q.lane) s (fun u =>
      (∀ i, i < typBytes t → Memory.get u.mem (q.key + i) = BitVec.ofNat 8 (new / 256 ^ i)) ∧
      (∀ a, a < q.key ∨ q.key + typBytes t ≤ a → Memory.get u.mem a = Memory.get s.mem a) ∧
      u.memOps = s.memOps.map fun x => if x.id = o.id then { o with reqs := o.reqs.map fun y =>
        if y.lane = q.lane then { y with status := .performed, result := BitVec.ofNat 256 old, poison := false } else y }
        else x)) ∧
  (∀ (t : BitVec 3) (old d c w : Nat), t.toNat < 4 → w = 8 * typBytes t → w = (if t = 2 ∨ t = 3 then 64 else 32) ∧
    updateVal 0 t old d c = (old + d) % 2 ^ w ∧
    (old < 2 ^ w → d < 2 ^ w → (t = 1 ∨ t = 3) →
      sx (updateVal 1 t old d c) w = min (sx old w) (sx d w) ∧ sx (updateVal 2 t old d c) w = max (sx old w) (sx d w)) ∧
    ((t = 0 ∨ t = 2) → updateVal 1 t old d c = min old d ∧ updateVal 2 t old d c = max old d) ∧
    (∀ i, (updateVal 3 t old d c).testBit i = (old.testBit i && d.testBit i) ∧
      (updateVal 4 t old d c).testBit i = (old.testBit i || d.testBit i) ∧
      (updateVal 5 t old d c).testBit i = (old.testBit i != d.testBit i)) ∧
    updateVal 6 t old d c = d ∧ updateVal 7 t old d c = (if old = c then d else old))

/-- Barrier operations at the home, arrival responses and combined reductions (R326, R339, R340, R342). -/
def Obligations.BarriersCombinedUpdatesAndArrivals : Prop :=
  ∀ (s : State) (o : MemOp) (q : Req) (op t : BitVec 3), s.opOf o.id = some o → o.reqs = [q] →
    (s.heldBehind o (q.key / 32) = false → s.onFabric o.id (q.key / 32) = false →
      s.reaches (fabricDie o.span.core) q.key = true → q.status = .sent → o.kind = .bar op →
      s.syncBlocked o.span q.key 16 = false → s.poisoned q.key = false → s.safe → (∀ d ∈ s.memsys.dram, d.errors ≤ 17) →
      s.otherKey (s.keyFor q.slot q.key) (q.key / 512) = none → Answers (.atomicAtHome o.id q.lane) s (fun u =>
        Memory.bytes u.mem q.key 16 =
          (Barrier.apply op (BitVec.ofNat 64 q.data.toNat) (s.barrierAt q.slot q.key)).toBytes ∧
        (∀ a, a < q.key ∨ q.key + 16 ≤ a → Memory.get u.mem a = Memory.get s.mem a) ∧
        u.memOps = s.memOps.map fun x => if x.id = o.id then { o with reqs :=
          [{ q with status := .performed, result := BitVec.ofNat 256 (s.barrierAt q.slot q.key).gen }] } else x)) ∧
    ((∀ x, o.kind ≠ .bar x) ∨ o.kind ≠ .bar 1 ∨ q.status ≠ .acked ∨ s.answering o = true →
      exec (.arrivalResponse o.id) s = .next s) ∧
    (o.kind = .bar 1 → q.status = .acked → s.answering o = false → Answers (.arrivalResponse o.id) s (fun u =>
      s.Respans { u with memOps := s.memOps } o.span (fun p => { p with arrivals := p.arrivals.map fun r =>
        if r.key = q.key then { r with gen := some (BitVec.ofNat 8 q.result.toNat) } else r }) ∧
      u.memOps = s.memOps.filter fun x => x.id != o.id)) ∧
    ∀ b y, s.opOf b.id = some b → b.reqs = [y] → o.kind = .red op t → b.kind = .red op t →
      (t.toNat < 4 → s.mergeable o b q y = true → Answers (.reductionCombine o.id b.id) s (fun u =>
        u = { s with memOps := u.memOps } ∧ u.memOps = s.memOps.map fun x => { x with reqs := x.reqs.map fun r =>
          { r with
            status := if (x.id = b.id ∧ r.lane = y.lane) ∨ r.status = .merged b.id y.lane
              then .merged o.id q.lane else r.status,
            data := if x.id = o.id ∧ r.lane = q.lane
              then BitVec.ofNat 256 (combineVal op t q.data.toNat y.data.toNat) else r.data } })) ∧
      (s.mergeable o b q y = false → exec (.reductionCombine o.id b.id) s = .next s)

/-- Regions close, sharers are invalidated, walks end, saddles are touched, tasks roll back (R152, R158, R159, R161,
R350, R351, R353, R355, R358). -/
def Obligations.RegionsWalksAndSaddles : Prop :=
  ∀ (s : State) (r : RegionId) (p : Span) (g : Group) (line : Nat) (sharer : Fin 5) (x : Sharers) (w : Walk),
    x = s.sharersOf line →
    (s.holderOf r = some p → s.closable r = true → Answers (.regionClose r) s (fun u =>
      s.Respans { u with records := s.records } p.id
        (fun q => { q with regions := q.regions.filter fun y => y.id != r }) ∧
      (∀ a ∈ u.records, a.free = false ∧ a.rreg0 ≠ some r ∧ a.rreg1 ≠ some r ∧ (a.wreg = some r → a.task ≠ none)) ∧
      ∀ a ∈ s.records, a.wreg ≠ some r → a.rreg0 ≠ some r → a.rreg1 ≠ some r → a.free = false →
        (∀ y ∈ p.regions, y.id = r → a.sector ∉ y.reduced) → a ∈ u.records)) ∧
    (bitOn x.inval sharer.val = true → Answers (.sharerInvalidation line sharer) s (fun u =>
      u = { s with memsys := { s.memsys with
        lines := u.memsys.lines, sharers := u.memsys.sharers, prefetched := u.memsys.prefetched } } ∧
      (u.memsys.lines = s.memsys.lines.filter fun y =>
        !(y.line == line && (y.rdc.map fun d => d.val) == some sharer.val)) ∧
      (u.memsys.prefetched = if sharer = 4 then s.memsys.prefetched.filter fun l => l != line else s.memsys.prefetched) ∧
      u.sharersOf line = { x with
        inval := setBit x.inval sharer.val false, confirm := setBit x.confirm sharer.val true } ∧
      ∀ l, l ≠ line → u.sharersOf l = s.sharersOf l)) ∧
    (bitOn x.inval sharer.val = false → exec (.sharerInvalidation line sharer) s = .next s) ∧
    (bitOn x.confirm sharer.val = false → exec (.invalidationConfirmation line sharer) s = .next s) ∧
    (bitOn x.confirm sharer.val = true → Answers (.invalidationConfirmation line sharer) s (fun u =>
      u = { s with memsys := { s.memsys with sharers := u.memsys.sharers } } ∧
      u.sharersOf line = { x with confirm := setBit x.confirm sharer.val false } ∧
      ∀ l, l ≠ line → u.sharersOf l = s.sharersOf l)) ∧
    (s.memsys.walks.find? (fun y => y.id == w.id) = some w → (s.walkers w.die).any (fun y => y.id == w.id) = false →
      exec (.translationWalk w.id) s = .next s) ∧
    (s.memsys.walks.find? (fun y => y.id == w.id) = some w → (s.walkers w.die).any (fun y => y.id == w.id) = true →
      (∀ e bits, s.walk w.asid w.va.toNat = .ok (e, bits) → Answers (.translationWalk w.id) s (fun u =>
        ∃ v, s.Filled v ∧ u = { v with memsys := { v.memsys with
          walks := s.memsys.walks.filter fun y => y.id != w.id, trans := u.memsys.trans } } ∧
        (∃ ts, u.memsys.trans = {
            core := none, die := w.die, asid := w.asid, vpn := w.va.toNat / 2 ^ bits, bits := bits, entry := e } :: ts ∧
          ∀ x ∈ ts, x ∈ s.memsys.trans))) ∧
      (s.walk w.asid w.va.toNat = .error .violation → Answers (.translationWalk w.id) s (fun u =>
        ∃ v, s.Filled v ∧ u = { v with memsys := { v.memsys with
          walks := s.memsys.walks.filter fun y => y.id != w.id, trans := s.memsys.trans } })) ∧
      (s.walk w.asid w.va.toNat = .error .absent → Answers (.translationWalk w.id) s (fun u =>
        ∃ v, s.Filled v ∧ u = { v with memsys := { v.memsys with
          trans := s.memsys.trans, walks := s.memsys.walks.map fun y =>
            if y.id = w.id then { y with absent := some (s.absentRange w.asid w.va.toNat) } else y } }))) ∧
    (∀ anchor sectors, s.spanOf p.id = some p → p.saddleWait = some (anchor, sectors) → s.groupOf p.group = some g →
      (s.saddleWaiter p = false ∨ s.olderWaits g anchor = true ∨ s.touchFree g anchor = false →
        exec (.saddleTouch p.id) s = .next s) ∧
      (s.saddleWaiter p = true → s.olderWaits g anchor = false → s.touchFree g anchor = true →
        (s.grantable g (g.record anchor sectors) = false ∨ (∃ x, s.saddleAt g.launch anchor = some x ∧ x.holder = g.id) →
          Answers (.saddleTouch p.id) s (fun u => s.Reslices u p.id (Slice.seated anchor))) ∧
        (s.grantable g (g.record anchor sectors) = true → s.saddleAt g.launch anchor = none →
          Answers (.saddleTouch p.id) s (fun u =>
            u.saddles = s.saddles ++ [g.record anchor sectors] ∧
            (∃ h, u.groupOf g.id = some h ∧ h = { g with saddled := true }) ∧
            ∃ q, u.spanOf p.id = some q ∧ ∀ j, j < 8 → q.slice j = (p.slice j).seated anchor)))) ∧
    (s.groupOf g.id = some g → g.id ≠ 0 → g.status = .unseating →
      (s.groupPerformed g.id = false ∨ s.groupWorks g.id = true → exec (.rollbackReplay g.id) s = .next s) ∧
      (s.groupPerformed g.id = true → s.groupWorks g.id = false → Answers (.rollbackReplay g.id) s (fun u =>
        (∀ y ∈ u.host.boxes, y.die = g.die → y.num = g.box → y.state = 6) ∧ (∀ y ∈ u.allGroups, y.id ≠ g.id) ∧
        (∀ y ∈ u.saddles, y.holder ≠ g.id) ∧
        u.host.requests = s.host.requests ++ [(g.launch, { g.bindRec with deadline := BitVec.allOnes 64 })])))

/-- Routers, the Halter, the Bridle Path, Girth and Hitch links, stitching and domains (R105, R106, R110, R111, R113,
R115, R123, R124, R128, R129, R135, R136). Routes and ports of packets are free values (log 22). -/
def Obligations.FabricAndLinkEvents : Prop :=
  (∀ (s : State) (p : Packet) (h : Halter) (n r port : Nat) (die : DieId) (router : Nat),
    (s.packetOf p.id = none → exec (.timeoutDetectorExpiry p.id) s = .next s ∧ exec (.misroute p.id) s = .next s ∧
      exec (.bridleReceive p.id) s = .next s) ∧
    (s.packetOf p.id = some p →
      ((∀ d x k, p.pos ≠ .input d x k) →
        exec (.timeoutDetectorExpiry p.id) s = .next s ∧ exec (.misroute p.id) s = .next s) ∧
      (p.pos = .input die r port →
        (s.thresholdOf die ≤ p.stall → Answers (.timeoutDetectorExpiry p.id) s (fun u =>
          u = { s with fabric := { s.fabric with packets := s.fabric.packets.map fun q => if q.id = p.id then { q with expired := true } else q } })) ∧
        (p.stall < s.thresholdOf die → exec (.timeoutDetectorExpiry p.id) s = .next s) ∧
        (2 ≤ p.misroutes ∨ p.stall < 1024 ∨ s.freeOf die (s.choices die r p false) = [] →
          exec (.misroute p.id) s = .next s) ∧
        (p.misroutes < 2 → 1024 ≤ p.stall → s.freeOf die (s.choices die r p false) ≠ [] →
          Answers (.misroute p.id) s (fun u => ∃ o ∈ s.freeOf die (s.choices die r p false),
            u = { s with
              fresh := u.fresh,
              fabric := { s.fabric with idle := u.fabric.idle, packets := s.fabric.packets.map fun q =>
                if q.id = p.id then { q with
                  pos := .input die o.1 o.2, wait := 3, stall := 0, expired := false, misroutes := q.misroutes + 1 }
                else q } } ∧
            u.lastFlit die r = fabricCycles s.now ∧ u.lastFlit die o.1 = fabricCycles s.now ∧
            ∀ d x, (d, x) ≠ (die, r) → (d, x) ≠ (die, o.1) → u.lastFlit d x = s.lastFlit d x))) ∧
      (p.pos = .bridle die r →
        (p.dst.die = die → p.dst.router = r → p.wait = 0 → s.freePos (.slot p.dst) = true →
          Answers (.bridleReceive p.id) s (fun u => u = { s with fabric := { s.fabric with packets := s.fabric.packets.map fun q => if q.id = p.id then { q with pos := .slot p.dst } else q } })) ∧
        (p.dst.die ≠ die ∨ p.dst.router ≠ r ∨ p.wait ≠ 0 ∨ s.freePos (.slot p.dst) = false →
          exec (.bridleReceive p.id) s = .next s)) ∧
      (∀ x, p.pos = .slot x → Answers (.bridleReceive p.id) s (fun u =>
        u = { s with fabric := { s.fabric with packets := s.fabric.packets.map fun q => if q.id = p.id then { q with pos := .done, wait := 0, stall := 0, expired := false } else q } })) ∧
      ((∀ d x, p.pos ≠ .bridle d x) → (∀ x, p.pos ≠ .slot x) → exec (.bridleReceive p.id) s = .next s)) ∧
    (s.fabric.halters.find? (fun x => x.die == die) = none →
      exec (.halterCapture die) s = .next s ∧ exec (.halterRegenerate die) s = .next s) ∧
    (s.fabric.halters.find? (fun x => x.die == die) = some h →
      (h.stop = some n → exec (.halterRegenerate die) s = .next s ∧
        (s.suspect die n = none ∨ s.freePos (.bridle die n) = false → exec (.halterCapture die) s = .next s) ∧
        (s.suspect die n = some p → s.freePos (.bridle die n) = true → Answers (.halterCapture die) s (fun u =>
          (u.fabric.packets = s.fabric.packets.map fun q => if q.id = p.id then { q with
            pos := .bridle die n, wait := 6, stall := 0, expired := false } else q) ∧
          (u.fabric.halters = s.fabric.halters.map fun x =>
            if x.die = h.die then { h with stop := some ((n + 1) % routersOf die), unseen := 0 } else x) ∧
          (s.counterOf (.drains die n) ≠ BitVec.allOnes 64 →
            u.counterOf (.drains die n) = s.counterOf (.drains die n) + 1)))) ∧
      (h.stop = none → exec (.halterCapture die) s = .next s ∧
        (h.unseen < 2 * routersOf die → exec (.halterRegenerate die) s = .next s) ∧
        (2 * routersOf die ≤ h.unseen → Answers (.halterRegenerate die) s (fun u =>
          u = { s with
            fabric := { s.fabric with halters := s.fabric.halters.map fun x =>
              if x.die = h.die then { h with stop := some 0, unseen := 0 } else x },
            host := { s.host with errors := .halter die :: s.host.errors } })))) ∧
    (router < routersOf die → s.powered die router = true → s.lastFlit die router + 512 ≤ fabricCycles s.now →
      s.packetIn die router = false → Answers (.routerPowerGate die router) s (fun u =>
        u = { s with fabric := { s.fabric with gated := (die, router, fabricCycles s.now) :: s.fabric.gated } })) ∧
    (routersOf die ≤ router ∨ s.powered die router = false ∨ fabricCycles s.now < s.lastFlit die router + 512 ∨
        s.packetIn die router = true → exec (.routerPowerGate die router) s = .next s) ∧
    (∀ x, s.fabric.waking.find? (fun y => y.1 == die && y.2.1 == router) = some x →
      (x.2.2 ≠ 0 → exec (.routerWake die router) s = .next s) ∧
      (x.2.2 = 0 → Answers (.routerWake die router) s (fun u =>
        u = { s with fabric := { s.fabric with waking := u.fabric.waking, idle := u.fabric.idle } } ∧
        (u.fabric.waking = s.fabric.waking.filter fun y => !(y.1 == die && y.2.1 == router)) ∧
        u.lastFlit die router = fabricCycles s.now))) ∧
    (s.fabric.waking.find? (fun y => y.1 == die && y.2.1 == router) = none →
      (routersOf die ≤ router → exec (.routerWake die router) s = .next s) ∧
      (router < routersOf die → s.isGated die router = false → Answers (.routerWake die router) s (fun u =>
        u = { s with fabric := { s.fabric with idle := u.fabric.idle } } ∧
        u.lastFlit die router = fabricCycles s.now)) ∧
      ∀ x, router < routersOf die → s.fabric.gated.find? (fun y => y.1 == die && y.2.1 == router) = some x →
        Answers (.routerWake die router) s (fun u =>
          (u.fabric.gated = s.fabric.gated.filter fun y => !(y.1 == die && y.2.1 == router)) ∧
          (x.2.2 = fabricCycles s.now →
            u = { s with fabric := { s.fabric with gated := u.fabric.gated, idle := u.fabric.idle } } ∧
            u.lastFlit die router = fabricCycles s.now) ∧
          (x.2.2 ≠ fabricCycles s.now → u = { s with fabric := { s.fabric with
            gated := u.fabric.gated, waking := (die, router, 24) :: s.fabric.waking } })))) ∧
  (∀ (s : State) (link : Fin 10) (g : Girth) (port : Fin 36) (o : MemOp) (die : Fin 4) (clusters : BitVec 4)
    (code : BitVec 3) (self : BitVec 8) (members : List (BitVec 8)) (lost : Req → Bool) (fails : List DWord),
    g = s.fabric.girth[link.val] → fails = s.now :: g.failures.filter (fun t => decide ((s.now - t).toNat ≤ 10000)) →
    (lost = fun q => (!q.status.back || s.replying o.id (q.key / 32)) && q.status != .queued && s.lostReq o q) →
    (∀ ok, Answers (.girthRetrain link ok) s (fun u =>
      (g.lanes ≠ 0 → s.counterOf (.girth link) ≠ BitVec.allOnes 64 →
        u.counterOf (.girth link) = s.counterOf (.girth link) + 1) ∧
      (g.lanes = 0 → u = s) ∧
      (g.lanes ≠ 0 → ok = false → u = { s with
        host := { s.host with counters := u.host.counters },
        fabric := { s.fabric with girth := s.fabric.girth.set link.val (if 3 ≤ fails.length ∧ g.lanes = 20
          then { g with failures := [], lanes := 10 } else { g with failures := fails }) } }) ∧
      (g.lanes ≠ 0 → ok = true → u = { s with
          host := { s.host with counters := u.host.counters },
          fabric := { s.fabric with packets := u.fabric.packets, girth := s.fabric.girth.set link.val { g with
            failures := [], ways := vecMap g.ways fun _ w => { w with replay := w.replay.map fun f =>
              if f.accepted then { f with ack := 72 } else { f with left := 40 } } } } } ∧
        u.fabric.packets.length = s.fabric.packets.length ∧
        ∀ (i : Nat) (p : Packet), s.fabric.packets[i]? = some p → ∃ q, u.fabric.packets[i]? = some q ∧
          ((∃ w : Fin 2, ∃ x, p.pos = .girth link w x ∧ ∃ f ∈ g.ways[w.val].replay, f.packet = p.id ∧ f.accepted = false) →
            q = { p with wait := 48 }) ∧
          ((∀ w : Fin 2, ∀ x, p.pos = .girth link w x → ∀ f ∈ g.ways[w.val].replay, f.packet = p.id → f.accepted = true) →
            q = p)))) ∧
    (g.lanes ≠ 10 ∨ g.failures = [] → exec (.girthLinkDown link) s = .next s) ∧
    (∀ v, g.lanes = 10 → g.failures ≠ [] →
      v = { s.rerouted link with
        fabric := { (s.rerouted link).fabric with girth := s.fabric.girth.set link.val { g with
          lanes := 0, failures := [], ways := vecMap g.ways fun _ w => { w with replay := [] } } },
        host := { s.host with errors := .girthDown link :: s.host.errors } } →
      (∀ p ∈ v.fabric.packets, ∀ w x, p.pos ≠ .girth link w x ∧ p.pos ≠ .reserve link w) ∧
      (v.cutOff (girthDies link).1 = false → v.cutOff (girthDies link).2 = false →
        exec (.girthLinkDown link) s = .next v) ∧
      (v.cutOff (girthDies link).1 = true → v.cutOff (girthDies link).2 = false →
        exec (.girthLinkDown link) s = .next (v.isolate (girthDies link).1)) ∧
      (v.cutOff (girthDies link).1 = false → v.cutOff (girthDies link).2 = true →
        exec (.girthLinkDown link) s = .next (v.isolate (girthDies link).2)) ∧
      (v.cutOff (girthDies link).1 = true → v.cutOff (girthDies link).2 = true →
        exec (.girthLinkDown link) s = .next ((v.isolate (girthDies link).1).isolate (girthDies link).2))) ∧
    Answers (.hitchRetrain port) s (fun u => u = { s with host := { s.host with counters := u.host.counters } } ∧
      (s.counterOf (.hitch port) ≠ BitVec.allOnes 64 → u.counterOf (.hitch port) = s.counterOf (.hitch port) + 1)) ∧
    (s.opOf o.id = some o →
      ((∀ q ∈ o.reqs, lost q = false) → exec (.hitchTimeout o.id) s = .next s) ∧
      ((∃ q ∈ o.reqs, lost q = true) →
        (o.returns = true → Answers (.hitchTimeout o.id) s (fun u =>
          u = { s with fresh := u.fresh, host := { s.host with errors := u.host.errors }, memOps := u.memOps } ∧
          u.memOps = s.memOps.map fun x => if x.id = o.id then { o with
            reqs := o.reqs.map fun q => if lost q then { q with status := .unreachable } else q } else x)) ∧
        (o.returns = false → (∀ x ∈ s.memOps, ∀ q ∈ x.reqs, ∀ id lane, q.status ≠ .merged id lane) →
          Answers (.hitchTimeout o.id) s (fun u =>
            (∀ p, s.spanOf o.span = some p → ∃ q, u.spanOf o.span = some q ∧ ∃ h ∈ q.held, h.by_ = .farFence ∧ h.op ≤ o.id) ∧
            ((∀ q ∈ o.reqs, q.status.back = true ∨ lost q = true) → u.memOps = s.memOps.filter fun x => x.id != o.id) ∧
            ((∃ q ∈ o.reqs, q.status.back = false ∧ lost q = false) → u.memOps = s.memOps.map fun x => if x.id = o.id
              then { o with reqs := o.reqs.map fun q => if lost q then { q with status := .unreachable } else q }
              else x))))) ∧
    (s.opOf o.id = none → s.fabric.domain.length ≤ 1 → exec (.hitchTimeout o.id) s = .next s) ∧
    (s.opOf o.id = none → 1 < s.fabric.domain.length → Answers (.hitchTimeout o.id) s (fun u =>
      u = { s with
        sp := u.sp, rest := u.rest, core := u.core, cores := u.cores, slowOps := u.slowOps, starter := u.starter } ∧
      (u.sp = { s.sp with cmds := s.sp.cmds.map fun c =>
        if 2 ^ 64 + c.order = o.id ∧ s.overdue c.since = true then { c with lost := true } else c }) ∧
      (u.core = { s.core with ops := s.core.ops.map fun x =>
        if x.id = o.id ∧ s.overdue x.since = true then { x with lost := true } else x }) ∧
      (u.slowOps = s.slowOps.map fun x =>
        if x.id = o.id ∧ s.overdue x.since = true then { x with lost := true } else x) ∧
      (u.starter = s.starter.map fun x =>
        if x.order = o.id ∧ x.running = true ∧ s.overdue x.since = true then { x with lost := true } else x))) ∧
    (s.sparesEmpty die clusters = false → exec (.stitchRelink die clusters code) s = .next s) ∧
    (s.sparesEmpty die clusters = true →
      Answers (.stitchRelink die clusters 0) s (fun u =>
        u = { s with fabric := { s.fabric with stitched := u.fabric.stitched } } ∧
        ∀ x, x ∈ u.fabric.stitched ↔ x ∈ s.fabric.stitched ∧
          ¬(x.die = die ∧ x.clusters = clusters ∧ ∀ l ∈ s.host.launches, l.seq ≠ x.launch)) ∧
      (code ≠ 0 →
        ((∀ w ∈ s.stitchWanted, w.2.2.1 = code → s.stitchFits die clusters w.2.2.2 = false) →
          exec (.stitchRelink die clusters code) s = .next s) ∧
        ∀ w, s.stitchWanted.find? (fun w => w.2.2.1 == code && s.stitchFits die clusters w.2.2.2) = some w →
          exec (.stitchRelink die clusters code) s = .next { s with fabric := { s.fabric with
            stitched := { launch := w.1, inst := w.2.1, die := die, clusters := clusters, code := code } ::
              s.fabric.stitched } })) ∧
    (self.toNat < 192 → (∀ m ∈ members, m.toNat < 192) → Answers (.hitchDomainForm self members) s (fun u =>
      u = { s with fabric := { s.fabric with
        pkg := self, domain := self :: members.filter fun m => m != self } })) ∧
    (192 ≤ self.toNat ∨ (∃ m ∈ members, 192 ≤ m.toNat) → exec (.hitchDomainForm self members) s = .next s))

/-- Posted writes, host reads and device writes pass the ordering point in order (R130, R131, R132, R432, R458, R459).
-/
def Obligations.HostTraffic : Prop :=
  ∀ (s : State) (dom : OrderDomain) (relaxed port : Bool) (pa len tag id : Nat) (data : List (BitVec 8)) (v : BitVec 64)
    (p : Posted) (die : DieId) (mine ready : List (Nat × Nat)),
    mine = p.packets.filter (fun c => homeDie (p.pa + c.1) == die) →
    ready = mine.filter (fun c => !s.transiting (.posted p.id c.1)) →
    (data.length ≤ 4096 → pa + data.length ≤ 2 ^ 36 → Answers (.hostPostedWrite dom relaxed pa data) s (fun u =>
      u = { s with host := { s.host with
        nextPosted := s.host.nextPosted + 1,
        posted := s.host.posted ++ [{
          id := s.host.nextPosted, dom := dom, relaxed := relaxed, pa := pa, data := data,
          released := false, routes := [], packets := [], dwin := none }] } })) ∧
    (4096 < data.length ∨ 2 ^ 36 < pa + data.length → exec (.hostPostedWrite dom relaxed pa data) s = .next s) ∧
    Answers (.dwinWrite port v) s (fun u =>
      u = { s with host := { s.host with
        nextPosted := s.host.nextPosted + 1,
        posted := s.host.posted ++ [{
          id := s.host.nextPosted, dom := { port := port, vc := 0, requester := none },
          relaxed := false, pa := 0, data := [], released := false, routes := [], packets := [], dwin := some v }] } }) ∧
    (s.host.posted.find? (fun q => q.id == p.id) = some p →
      p.released = true ∨ (p.relaxed = false ∧ ∃ q ∈ s.host.posted, q.id < p.id ∧ standsBehind p.dom q.dom = true) →
      exec (.orderingPointRelease p.id) s = .next s) ∧
    (s.host.posted.find? (fun q => q.id == p.id) = some p → p.released = false →
      (∀ q ∈ s.host.posted, p.relaxed = false → q.id < p.id → standsBehind p.dom q.dom = false) →
      (∀ x, p.dwin = some x → Answers (.orderingPointRelease p.id) s (fun u =>
        u.dwin p.dom.port = BitVec.ofNat 64 (fld x 12 37 * 4096) ∧ u.dwin (!p.dom.port) = s.dwin (!p.dom.port) ∧
        (∀ q ∈ u.host.posted, q.id ≠ p.id) ∧ ((∀ d ∈ s.memsys.dram, d.errors ≤ 17) → u.mem = s.mem))) ∧
      (∀ at_ cuts, p.dwin = none → at_ = s.canonPa (s.windowPa p.dom.port p.pa) →
        cuts = packetsOf (p.data.length / 128 + 2) at_ 0 p.data.length →
        (cuts = [] → exec (.orderingPointRelease p.id) s = .next (s.donePosted p.id)) ∧
        (cuts ≠ [] → (∀ c ∈ cuts, localBacked (at_ + c.1) = true) → Answers (.orderingPointRelease p.id) s (fun u =>
          ∃ q : Posted,
            u = { s with host := { s.host with posted := s.host.posted.map fun x => if x.id = p.id then q else x } } ∧
            q = { p with pa := at_, released := true, routes := q.routes, packets := cuts } ∧
            ∀ d, d ∈ q.routes ↔ ∃ c ∈ cuts, homeDie (at_ + c.1) = d)) ∧
        ((∃ c ∈ cuts, localBacked (at_ + c.1) = false) → Answers (.orderingPointRelease p.id) s (fun u =>
          (∀ q ∈ u.host.posted, q.id ≠ p.id) ∧ (∃ far, .unreachable at_ far ∈ u.host.errors) ∧
          ((∀ d ∈ s.memsys.dram, d.errors ≤ 17) → u.mem = s.mem))))) ∧
    (s.host.posted.find? (fun q => q.id == p.id) = some p → p.released = false ∨ die ∉ p.routes →
      exec (.routeAcknowledgement p.id die) s = .next s) ∧
    (s.host.posted.find? (fun q => q.id == p.id) = some p → p.released = true → die ∈ p.routes →
      (ready ≠ [] → s.safe → (∀ d ∈ s.memsys.dram, d.errors ≤ 17) →
        (∀ c ∈ ready, s.otherKey (s.keyFor 0 (p.pa + c.1)) ((p.pa + c.1) / 512) = none) →
        Answers (.routeAcknowledgement p.id die) s (fun u => ∃ c ∈ ready,
          (∀ i b, i < c.2 → p.data[c.1 + i]? = some b → Memory.get u.mem (p.pa + c.1 + i) = b) ∧
          (∀ a, a < p.pa + c.1 ∨ p.pa + c.1 + c.2 ≤ a → Memory.get u.mem a = Memory.get s.mem a) ∧
          u.host.posted = s.host.posted.map fun x =>
            if x.id = p.id then { p with packets := p.packets.filter fun y => y != c } else x)) ∧
      (ready = [] → mine ≠ [] ∨ (∃ c ∈ p.cutsFor die, s.invalidating (lineOf (p.pa + c.1)) = true) →
        exec (.routeAcknowledgement p.id die) s = .next s) ∧
      (mine = [] → (∀ c ∈ p.cutsFor die, s.invalidating (lineOf (p.pa + c.1)) = false) →
        ((∀ d ∈ p.routes, d = die) → exec (.routeAcknowledgement p.id die) s = .next (s.donePosted p.id) ∧
          (s.host.heldReads = [] → s.donePosted p.id = { s with host := { s.host with
            posted := s.host.posted.filter fun q => q.id != p.id } })) ∧
        ((∃ d ∈ p.routes, d ≠ die) → Answers (.routeAcknowledgement p.id die) s (fun u =>
          u = { s with host := { s.host with posted := s.host.posted.map fun x =>
            if x.id = p.id then { p with routes := p.routes.filter fun d => d != die } else x } })))) ∧
    ((∀ q ∈ s.host.posted, q.id ≠ p.id) →
      exec (.orderingPointRelease p.id) s = .next s ∧ exec (.routeAcknowledgement p.id die) s = .next s) ∧
    ((∀ q ∈ s.host.posted, standsBehind dom q.dom = false) → s.host.heldReads = [] →
      Answers (.hostReadRequest dom pa len) s (fun u => ∃ bs,
        u = { s with
          mem := u.mem, fresh := u.fresh, memsys := u.memsys,
          host := { s.host with
            errors := u.host.errors, counters := u.host.counters, readData := (pa, bs) :: s.host.readData } } ∧
        ((∀ d ∈ s.memsys.dram, d.errors ≤ 17) → u.mem = s.mem) ∧
        (s.memsys.dram = [] → ∀ i, i < min len 4096 →
          bs[i]? = some (Memory.get s.mem (s.canonPa (s.windowPa dom.port pa) + i)))) ∧
      Answers (.deviceReadCompletion dom tag data) s (fun u =>
        u = { s with host := { s.host with readData := (tag, data) :: s.host.readData } })) ∧
    ((∃ q ∈ s.host.posted, standsBehind dom q.dom = true) → s.host.heldReads = [] →
      Answers (.hostReadRequest dom pa len) s (fun u => ∃ r,
        u = { s with host := { s.host with heldReads := [r] } } ∧ r.dom = dom ∧ r.pa = pa ∧ r.len = min len 4096 ∧
        r.completion = false ∧ ∀ i, i ∈ r.behind ↔ ∃ q ∈ s.host.posted, standsBehind dom q.dom = true ∧ q.id = i) ∧
      Answers (.deviceReadCompletion dom tag data) s (fun u => ∃ r,
        u = { s with host := { s.host with heldReads := [r] } } ∧ r.dom = dom ∧ r.pa = tag ∧ r.data = data ∧
        r.completion = true ∧ ∀ i, i ∈ r.behind ↔ ∃ q ∈ s.host.posted, standsBehind dom q.dom = true ∧ q.id = i)) ∧
    (s.host.devWrites = [] → exec (.deviceWriteToHost id) s = .next s) ∧
    (∀ w rest, s.host.devWrites = w :: rest →
      (w.id ≠ id → exec (.deviceWriteToHost id) s = .next s) ∧
      (w.id = id → Answers (.deviceWriteToHost id) s (fun u =>
        u = { s with mem := Memory.put s.mem w.key w.data, host := { s.host with devWrites := rest } })))

/-- Register writes, doorbells, fault acknowledgements, counters, timebase, attestation, cold reset (R9, R435, R437,
R438, R439, R440, R441, R442, R443). A TAIL write to a disabled ring is ignored, by the model's choice (log 125). -/
def Obligations.HostRegistersAndManagement : Prop :=
  (∀ (s : State) (port : Bool) (q : BitVec 8) (v : BitVec 64) (off : BitVec 20) (n : Nat) (x : Queue) (size : DWord),
    x = s.queueOf port q → size = BitVec.ofNat 64 (v.toNat % 32) →
    (ringSize x.size = none → exec (.qtailDoorbell port q v) s = .next s) ∧
    (ringSize x.size = some n →
      (n ≤ fld v 0 16 → exec (.qtailDoorbell port q v) s = .next s) ∧
      (fld v 0 16 < n → Answers (.qtailDoorbell port q v) s (fun u =>
        u = { s with host := { s.host with queues := u.host.queues } } ∧
        u.queueOf port q = { x with tail := BitVec.ofNat 16 v.toNat } ∧ (∀ p k, (p, k) ≠ (port, q) → u.queueOf p k = s.queueOf p k)))) ∧
    (∀ w, (w = match ringSize s.host.bar0.trsize with
        | some m => BitVec.ofNat 64 (v.toNat % m)
        | none => v) →
      exec (.trtailWrite v) s = .next { s with host := { s.host with bar0 := { s.host.bar0 with trtail := w } } }) ∧
    (∀ w t, (w = match ringSize s.host.bar0.fqsize with
        | some m => BitVec.ofNat 64 (v.toNat % m)
        | none => v) →
      t = { s with host := { s.host with bar0 := { s.host.bar0 with fqtail := w } } } →
      exec (.fqtailWrite v) s = .next (t.placeReports s.host.reports) ∧
      (s.host.reports = [] → t.placeReports s.host.reports = t)) ∧
    exec .trdropRead s = .next { s with host := { s.host with
      bar0 := { s.host.bar0 with trdrop := 0 },
      readData := (0x420, bytesLE 8 s.host.bar0.trdrop.toNat) :: s.host.readData } } ∧
    exec (.bar0RegisterWrite port 0x400 v) s =
      .next { s with host := { s.host with bar0 := { s.host.bar0 with trbase := v } } } ∧
    exec (.bar0RegisterWrite port 0x408 v) s =
      .next { s with host := { s.host with bar0 := { s.host.bar0 with trsize := size } } } ∧
    (off.toNat = 0x10000 + 32 * q.toNat → x.head = x.tail → Answers (.bar0RegisterWrite port off v) s (fun u =>
      u = { s with host := { s.host with queues := u.host.queues } } ∧ u.queueOf port q = { x with base := v } ∧ (∀ p k, (p, k) ≠ (port, q) → u.queueOf p k = s.queueOf p k))) ∧
    (off.toNat = 0x10008 + 32 * q.toNat → x.head = x.tail → Answers (.bar0RegisterWrite port off v) s (fun u =>
      u = { s with host := { s.host with queues := u.host.queues } } ∧ (∀ p k, (p, k) ≠ (port, q) → u.queueOf p k = s.queueOf p k) ∧
      (ringSize size = none → u.queueOf port q = { x with size := size }) ∧
      (ringSize size = some n → u.queueOf port q = { x with
        size := size, head := BitVec.ofNat 16 (x.head.toNat % n), tail := BitVec.ofNat 16 (x.tail.toNat % n) }))) ∧
    (off.toNat = 0x10000 + 32 * q.toNat ∨ off.toNat = 0x10008 + 32 * q.toNat → x.head ≠ x.tail →
      exec (.bar0RegisterWrite port off v) s = .next s) ∧
    (off.toNat ≠ 0x400 → off.toNat ≠ 0x408 →
      off.toNat < 0x10000 ∨ 0x12000 ≤ off.toNat ∨ (off.toNat % 32 ≠ 0 ∧ off.toNat % 32 ≠ 8) →
      exec (.bar0RegisterWrite port off v) s = .next s) ∧
    (s.memsys.walks.find? (fun y => y.id.toNat == fld v 0 16) = none → exec (.faultack v) s = .next s) ∧
    (∀ (w : Walk) (bad : Option DWord), s.memsys.walks.find? (fun y => y.id.toNat == fld v 0 16) = some w →
      bad = (if bitOn v 16 then some w.va else none) → Answers (.faultack v) s (fun u =>
        u = { s with
          sp := u.sp, rest := u.rest, core := u.core, cores := u.cores, slowOps := u.slowOps, starter := u.starter,
          memsys := { s.memsys with walks := s.memsys.walks.filter fun y => y.id != w.id } } ∧
        (u.sp = { s.sp with
          slices := vecMap s.sp.slices fun _ y => answered w.id (bitOn v 16) y,
          cmds := s.sp.cmds.map fun c => if c.parked = some w.id then { c with parked := none, failed := bad } else c }) ∧
        (u.rest = s.rest.map fun p => { p with
          slices := vecMap p.slices fun _ y => answered w.id (bitOn v 16) y,
          cmds := p.cmds.map fun c => if c.parked = some w.id then { c with parked := none, failed := bad } else c }) ∧
        (u.core = { s.core with
          ops := s.core.ops.map fun o =>
            if o.parked = some w.id then { o with parked := none, failed := bad } else o }) ∧
        (u.slowOps = s.slowOps.map fun o =>
          if o.parked = some w.id then { o with parked := none, failed := bad } else o) ∧
        (u.starter = s.starter.map fun o =>
          if o.parked = some w.id then { o with parked := none, failed := bad } else o)))) ∧
  (∀ (s : State) (nonce image : BitVec 512) (sig : BitVec 2) (ptm first : Bool) (offset : BitVec 32) (island : Fin 24)
    (mhz : BitVec 16), first = (!s.host.tbSet && s.host.nextSeq == 0) →
    exec .farrierSnapshot s = .next { s with host := { s.host with nvCounters := s.host.counters, snapAt := s.now } } ∧
    exec .orderlyShutdown s = .next { s with host := { s.host with nvCounters := s.host.counters, snapAt := s.now } } ∧
    Answers (.islandThrottle island mhz) s (fun u =>
      u = { s with host := { s.host with
        islands := s.host.islands.set island.val { s.host.islands[island.val] with mhz := mhz },
        counters := u.host.counters } } ∧
      (s.counterOf (.throttle island) ≠ BitVec.allOnes 64 →
        u.counterOf (.throttle island) = s.counterOf (.throttle island) + 1) ∧
      ∀ c, c ≠ .throttle island → u.counterOf c = s.counterOf c) ∧
    (ptm = false ∨ s.host.tbSource ≠ 1 →
      Answers (.timebaseSync ptm offset) s (fun u =>
        u = { s with
          now := if first then s.now - offset.signExtend 64 else s.now,
          host := { s.host with
            tbSource := if ptm then 2 else 1, tbSet := true, slew := if first then 0 else offset.toInt,
            bar0 := { s.host.bar0 with tbstat := u.host.bar0.tbstat } } } ∧
        u.host.bar0.tbstat.toNat = (if ptm then 2 else 1) + offset.toNat * 2 ^ 32)) ∧
    (ptm = true → s.host.tbSource = 1 → exec (.timebaseSync ptm offset) s = .next s) ∧
    Answers (.ptpSourceLoss ptm) s (fun u =>
      u = { s with host := { s.host with
        tbSource := if ptm then 2 else 0, bar0 := { s.host.bar0 with tbstat := u.host.bar0.tbstat } } } ∧
      u.host.bar0.tbstat.toNat = (if ptm then 2 else 0) + fld s.host.bar0.tbstat 32 32 * 2 ^ 32) ∧
    Answers (.attestationRequest nonce) s (fun u => ∃ body,
      u = { s with host := { s.host with attest := s.host.attest ++ [body ++ Config.mldsaSign (sha3 body)] } } ∧
      body.take 64 = bytesLE 64 nonce.toNat ∧ (body.drop 64).take 8 = bytesLE 8 s.now.toNat) ∧
    Answers (.coldReset image sig) s (fun u => u.sp = State.reset.sp ∧ u.rest = [] ∧ u.grp = State.reset.grp ∧
      u.groups = [] ∧ u.core = State.reset.core ∧ u.cores = [] ∧ u.memsys = State.reset.memsys ∧
      u.fabric = State.reset.fabric ∧ u.memOps = [] ∧ u.slowOps = [] ∧ u.records = [] ∧ u.saddles = [] ∧ u.monitors = [] ∧
      u.now = 0 ∧ u.host.mr[0] = sha3 (bytesLE 64 0 ++ bytesLE 64 image.toNat) ∧
      u.host.bar0.sigstat = sig.setWidth 64 ∧ u.host.nvCounters = s.host.nvCounters ∧
      u.host.counters = s.host.nvCounters ∧ u.host.fuseHash = s.host.fuseHash ∧
      (s.safe → ∀ a, Memory.get u.mem a = if a < 2 ^ 63 then unwritten else Memory.get s.mem a)))

/-- The front end accepts commands in ring order, and every command gets one outcome (R382, R433, R434, R436). Which
boxes an abort frees is the model's choice (log 42). -/
def Obligations.CommandsAndOutcomes : Prop :=
  ∀ (s s1 s2 : State) (port : Bool) (q : BitVec 8) (bs : List Byte) (x : Queue) (n : Nat) (e : BitVec 512) (r : BitVec 2048),
    (s.nextEntry port q = none → exec (.launch port q) s = .next s ∧ exec (.signalOnly port q) s = .next s ∧
      exec (.abortLaunch port q) s = .next s) ∧
    (∀ seq, (∀ y, s.host.stud.find? (fun y => y.seq == seq && y.outcome == 0 && !y.event) = some y → s.verdictOf y = none) →
      exec (.launchOutcome seq) s = .next s) ∧
    (s.nextEntry port q = some bs → x = s.queueOf port q → ringSize x.size = some n → e = BitVec.ofNat 512 (leOf bs) →
    s1 = (s.accept port q bs).2 →
    r = BitVec.ofNat 2048 (leOf (s1.readCoded (BitVec.ofNat 64 (fld e 64 64)) 0 256)) →
    s2 = s1.readThrough (codedKey (BitVec.ofNat 64 (fld e 64 64))) 256 →
    (entryOp bs = 2 ∨ entryOp bs = 3 → exec (.launch port q) s = .next s) ∧
    (entryOp bs ≠ 2 → exec (.signalOnly port q) s = .next s) ∧
    (entryOp bs ≠ 3 → exec (.abortLaunch port q) s = .next s) ∧
    (entryOp bs ≠ 1 → entryOp bs ≠ 2 → entryOp bs ≠ 3 → Answers (.launch port q) s (fun u => s.Accepted u port q x n ∧
      ∃ y ∈ u.host.stud, y.seq = s.host.nextSeq ∧ y.outcome = 0 ∧ y.verdict = some (2, 8))) ∧
    (entryOp bs = 1 → s2.refusal r = none → Answers (.launch port q) s (fun u => s.Accepted u port q x n ∧
      (∃ y ∈ u.host.stud, y.seq = s.host.nextSeq ∧ y.outcome = 0 ∧ y.verdict = none ∧ y.op = 1 ∧ y.event = false) ∧
      ∃ l, u.host.launches = l :: s.host.launches ∧ l.seq = s.host.nextSeq ∧ l.record = r ∧ l.trace = bitOn e 8 ∧
        l.asets = s2.readAsets r ∧ l.liveGroups = groupsOf r ∧ l.started = [] ∧ l.aborting = false ∧ l.failed = none)) ∧
    (∀ c, entryOp bs = 1 → s2.refusal r = some c → Answers (.launch port q) s (fun u => s.Accepted u port q x n ∧
      u.host.launches = s.host.launches ∧
      ∃ y ∈ u.host.stud, y.seq = s.host.nextSeq ∧ y.outcome = 0 ∧ y.verdict = some (2, c))) ∧
    (entryOp bs = 2 → Answers (.signalOnly port q) s (fun u => s.Accepted u port q x n ∧
      u.host.launches = s.host.launches ∧
      ∃ y ∈ u.host.stud, y.seq = s.host.nextSeq ∧ y.outcome = 0 ∧ y.verdict = none ∧ y.op = 2 ∧
        y.sig = (BitVec.ofNat 64 (fld e 128 64), BitVec.ofNat 64 (fld e 192 64)))) ∧
    (entryOp bs = 3 → Answers (.abortLaunch port q) s (fun u => s.Accepted u port q x n ∧
      (∀ l ∈ u.host.launches, l.seq = BitVec.ofNat 64 (fld e 64 64) → l.aborting = true) ∧
      (∀ y ∈ u.host.requests, y.1 ≠ BitVec.ofNat 64 (fld e 64 64)) ∧
      ∀ b ∈ u.host.boxes, b.bindRec.launch = BitVec.ofNat 64 (fld e 64 64) → b.state ≠ 1))) ∧
    (∀ seq y o c, s.host.stud.find? (fun y => y.seq == seq && y.outcome == 0 && !y.event) = some y →
      s.verdictOf y = some (o, c) → Answers (.launchOutcome seq) s (fun u =>
        (∀ z ∈ u.host.stud, z.seq = seq → z.outcome = o ∧ z.code = c ∧ z.done = s.now ∧ z.verdict = none) ∧
        (∀ z ∈ s.host.stud, z.seq ≠ seq → z ∈ u.host.stud) ∧
        (y.op = 1 → ∀ l ∈ u.host.launches, l.seq ≠ seq) ∧
        (bitOn y.sig.1 63 = true → u.host.devWrites = s.host.devWrites ++
          [{ id := s.nextId + 1, key := codedKey y.sig.1, data := bytesLE 8 y.sig.2.toNat }]) ∧
        (bitOn y.sig.1 63 = false → u.host.devWrites = s.host.devWrites ∧ (y.sig.1 ≠ 0 → s.safe → ∀ i, i < 8 →
          Memory.get u.mem (y.sig.1.toNat + i) = BitVec.ofNat 8 (y.sig.2.toNat / 256 ^ i)))))

/-- Boxes are written, freed and bound; a bind sets the registers of a first phase (R384, R385, R388, R391, R412,
R423). Placement is Preic policy (logs 23, 124). -/
def Obligations.BoxesAndBinds : Prop :=
  ∀ (s : State) (die : Fin 4) (box : BitVec 12) (b : BindRecord) (x : Box) (g : Group) (deadline : DWord),
    (s.boxState die box ≠ 0 ∨ s.groomMay die b = false → exec (.groomBoxWrite die box b) s = .next s) ∧
    (s.boxOf die box = none → exec (.groomBoxFree die box) s = .next s ∧ exec (.bind die box) s = .next s) ∧
    (s.boxOf die box = some x → (x.state.toNat < 3 → exec (.groomBoxFree die box) s = .next s) ∧
      (x.state ≠ 1 ∨ s.canBind x.bindRec = false → exec (.bind die box) s = .next s)) ∧
    (s.groupIn die box = none → exec (.preemptDecision die box deadline) s = .next s) ∧
    (s.groupIn die box = some g → g.bindRec.deadline.toNat ≤ deadline.toNat →
      exec (.preemptDecision die box deadline) s = .next s) ∧
    (s.boxState die box = 0 → s.groomMay die b = true → Answers (.groomBoxWrite die box b) s (fun u =>
      u.boxOf die box = some { die := die, num := box, state := 1, bindRec := b } ∧
      (∀ d k, (d, k) ≠ (die, box) → u.boxOf d k = s.boxOf d k) ∧ (∀ y ∈ u.host.requests, asksFor y.2 b = false) ∧
      ∀ y ∈ s.host.requests, asksFor y.2 b = false → y ∈ u.host.requests)) ∧
    (s.boxOf die box = some x → 3 ≤ x.state.toNat → Answers (.groomBoxFree die box) s (fun u =>
      u = { s with host := { s.host with boxes := u.host.boxes, drained := u.host.drained } } ∧ u.boxState die box = 0 ∧
      (∀ d k, (d, k) ≠ (die, box) → u.boxOf d k = s.boxOf d k) ∧
      ∀ k, k ∈ u.host.drained ↔ k ∈ s.host.drained ∧ k ≠ x.bindRec.core)) ∧
    (s.boxOf die box = some x → x.state = 1 → s.canBind x.bindRec = true → Answers (.bind die box) s (fun u => ∃ b1,
      (∀ y ∈ u.host.boxes, y.die = die → y.num = box → y.state = 2 ∧ y.bindRec = b1) ∧
      b1 = { x.bindRec with age := b1.age, deadline := b1.deadline } ∧
      b1.age = (if x.bindRec.age = 0 then s.newAge x.bindRec else x.bindRec.age) ∧
      (b1.deadline = if fld (s.recordBy x.bindRec.launch) 1728 32 = 0 then x.bindRec.deadline
        else s.now + BitVec.ofNat 64 (1000 * fld (s.recordBy x.bindRec.launch) 1728 32)) ∧
      (x.bindRec.phase = 0 → x.bindRec.spawned = false → ∀ l, s.launchBy x.bindRec.launch = some l →
        ∀ i, i < x.bindRec.nspan.toNat → ∃ p ∈ u.spans, p.id.core = x.bindRec.core ∧
          p.id.slot.toNat = x.bindRec.slot0.toNat + i ∧ p.group = s.nextId + 1 ∧ p.rank = i ∧
          p.live = true ∧ p.privileged = false ∧ (∀ n, n < 64 → vecAt p.regs.s n 0 =
            if n = 0 then BitVec.ofNat 64 (fld l.record 128 64) else 0) ∧
          p.trap.trapbase = BitVec.ofNat 64 (fld (vecAt l.entries 15 0) 0 48) ∧ ∀ j, j < 8 →
            (p.slice j).pc = vecAt l.entries (fld l.record 11 4) 0 ∧ (p.slice j).cur = 15 ∧ (p.slice j).exited = 0 ∧
            (p.slice j).stack = []))) ∧
    (s.groupIn die box = some g → deadline.toNat < g.bindRec.deadline.toNat →
      Answers (.preemptDecision die box deadline) s (fun u => g.bindRec.core ∈ u.host.drained ∧
        ∀ y ∈ u.allGroups, y.id = g.id → y.bindRec = { g.bindRec with deadline := deadline } ∧ y.preempted = true))

/-- Precise stops, resets, swaps and restores keep what the group holds (R415, R423, R424, R426, R427, R428). -/
def Obligations.StopsAndRestores : Prop :=
  ∀ (s : State) (die : Fin 4) (box : BitVec 12) (g : Group) (cause : BitVec 4) (c : Context) (k : CoreId) (slot0 : BitVec 6)
    (m : Move),
    (s.groupIn die box = none → exec (.preciseStop die box) s = .next s ∧ exec (.contextReset die box) s = .next s ∧
      exec (.swapOut die box) s = .next s) ∧
    (s.groupIn die box = some g →
      (s.stopCause g = none ∨ s.stopReady g.id = false → exec (.preciseStop die box) s = .next s) ∧
      (s.now.toNat < g.bindRec.deadline.toNat + 2000000 ∨ g.status = .unseating ∨ s.studFull = true →
        exec (.contextReset die box) s = .next s) ∧
      (g.status ≠ .running ∨ bitOn (s.recordBy g.launch) 35 = false ∨ s.allAsleep g.id = false ∨
        s.stopReady g.id = false → exec (.swapOut die box) s = .next s)) ∧
    (s.contextIn die box = none →
      exec (.restore die box k slot0) s = .next s ∧ exec (.unhandledTrapDiscard die box) s = .next s) ∧
    (s.contextIn die box = some c →
      (c.cause ≠ 2 → exec (.unhandledTrapDiscard die box) s = .next s) ∧
      ((s.boxState die box ≠ 0 ∧ s.boxState die box ≠ 5) ∨ s.canRestore c k slot0 = false ∨ s.moveOf c k slot0 = none →
        exec (.restore die box k slot0) s = .next s)) ∧
    (s.groupIn die box = some g → s.stopCause g = some cause → s.stopReady g.id = true →
      ((∀ l, s.launchBy g.launch = some l → l.aborting = false) → Answers (.preciseStop die box) s (fun u =>
        (∀ y ∈ u.host.boxes, y.die = die → y.num = box → y.state = 5) ∧ (∀ y ∈ u.allGroups, y.id ≠ g.id) ∧
        ∃ x ∈ u.host.contexts, x.die = die ∧ x.box = box ∧ x.cause = cause ∧ x.group = { g with status := .running } ∧
          x.stopTime = s.now ∧ x.complete = true ∧ x.discarded = false)) ∧
      ((∃ l, s.launchBy g.launch = some l ∧ l.aborting = true) → Answers (.preciseStop die box) s (fun u =>
        (∀ y ∈ u.allGroups, y.id ≠ g.id) ∧ ∀ x ∈ u.host.contexts, x.group.id ≠ g.id))) ∧
    (s.groupIn die box = some g → g.bindRec.deadline.toNat + 2000000 ≤ s.now.toNat → g.status ≠ .unseating →
      s.studFull = false → Answers (.contextReset die box) s (fun u =>
        (∀ y ∈ u.host.boxes, y.die = die → y.num = box → y.state = 5) ∧ (∀ y ∈ u.allGroups, y.id ≠ g.id) ∧
        (∃ x ∈ u.host.contexts, x.group.id = g.id ∧ x.cause = 3 ∧ x.discarded = true ∧ x.complete = false) ∧
        ∃ y ∈ u.host.stud, y.seq = s.host.nextSeq ∧ y.event = true ∧ y.outcome = 6 ∧ y.code = 3)) ∧
    (s.contextIn die box = some c → s.boxState die box = 0 ∨ s.boxState die box = 5 → s.canRestore c k slot0 = true →
      s.moveOf c k slot0 = some m → exec (.restore die box k slot0) s = .next (s.restoreContext c m) ∧
      (c.quarantine = [] → Answers (.restore die box k slot0) s (fun u =>
        u.boxOf die box = some { die := die, num := box, state := 2, bindRec := (s.restoredGroup c m).bindRec } ∧
        (∀ x ∈ u.host.contexts, x.group.id ≠ c.group.id) ∧
        (s.safe → c.scratch.length ≤ 2 ^ 19 → ∀ i x, c.scratch[i]? = some x →
          Memory.get u.mem (scratchKey k m.scratch1 + i) = x) ∧
        ((s.spans.map fun p => p.id).Nodup → (c.spans.map fun p => p.id).Nodup →
          (∀ p ∈ c.spans, p.live = true ∧ p.id.core = c.group.bindRec.core ∧ ∀ q ∈ s.spans, q.id ≠ m.span p.id) →
          ∀ p ∈ c.spans, ∃ q ∈ u.spans, q.id = m.span p.id ∧ q.regs = p.regs ∧
            q.privileged = p.privileged ∧ q.frame = p.frame ∧
            ∀ j, j < 8 → (∀ a ss, (p.slice j).wait ≠ some (.saddle a ss)) → q.slice j = p.slice j)))) ∧
    (s.groupIn die box = some g → g.status = .running → bitOn (s.recordBy g.launch) 35 = true →
      s.allAsleep g.id = true → s.stopReady g.id = true → Answers (.swapOut die box) s (fun u =>
        (∀ y ∈ u.host.boxes, y.die = die → y.num = box → y.state = 5) ∧ (∀ y ∈ u.allGroups, y.id ≠ g.id) ∧
        (∃ x ∈ u.host.contexts, x.die = die ∧ x.box = box ∧ x.cause = 0 ∧ x.swapped = true ∧ x.complete = true ∧
          x.group = { g with status := .running }) ∧
        ∀ y ∈ s.monitors, y.away = none → (s.spanOf y.span).map (fun p => p.group) = some g.id →
          ∃ z ∈ u.monitors, z.id = y.id ∧ z.away = some g.id)) ∧
    (s.contextIn die box = some c → c.cause = 2 → s.groupOf c.group.id = none → Answers (.unhandledTrapDiscard die box) s (fun u =>
      (∀ x ∈ u.host.contexts, x.group.id ≠ c.group.id) ∧ (∀ y ∈ u.saddles, y.holder ≠ c.group.id) ∧
      ∀ l, s.launchBy c.group.launch = some l → ∃ y, u.launchBy c.group.launch = some y ∧
        y.failed = some (l.failed.getD (BitVec.ofNat 6 (fld c.trapWord 0 6))) ∧ y.liveGroups = l.liveGroups - 1))

/-- Engine accesses are checked and performed; the Packhorse moves packets (R187, R190, R191, R192, R193, R216). Which
packet moves and which value an overlapping byte takes are free values (log 24). -/
def Obligations.PackhorseAndEngineAccesses : Prop :=
  (∀ (s t : State) (a : Actor) (k off n : Nat) (bs : List Byte) (p : Place), k < 8 →
    s.engPlace a k off bs.length .write = .ok p t → s.safe → (∀ d ∈ s.memsys.dram, d.errors ≤ 17) →
    s.otherKey (s.keyFor p.slot p.key) (p.key / 512) = none →
    (∀ u, s.engWrite1 a k off bs false = .ok () u →
      (∀ i x, bs[i]? = some x → Memory.get u.mem (p.key + i) = x) ∧
      ∀ b, b < p.key ∨ p.key + bs.length ≤ b → Memory.get u.mem b = Memory.get s.mem b) ∧
    (∀ q u x, s.engPlace a k off n .read = .ok q t → s.engRead1 a k off n = .ok x u →
      x.1 = s.readKey q.slot q.key n ∧ u.mem = s.mem) ∧
    ((vecAt a.segs k Seg.invalid).limit < off + n → s.engRead1 a k off n = .fault (a.trap 4
      (BitVec.ofNat 64 ((vecAt a.segs k Seg.invalid).baseOf + off))) s)) ∧
  (∀ (s : State) (sp : SpanId) (tok : BitVec 16) (p : Span) (c : Command) (a : Actor) (w : Vector DWord 4),
    (s.cmdOf sp tok = none → ∀ e, e ∈ [Instr.packhorseCopy sp tok, .packhorseStridedCopy sp tok, .packhorseFill sp tok,
      .placeScales sp tok] → exec e s = .next s) ∧
    (s.cmdOf sp tok = some (p, c) → w = c.words → a = actorOf p c →
      (∀ e, e ∈ [((0 : Nat), Instr.packhorseCopy sp tok), (1, .packhorseStridedCopy sp tok), (2, .packhorseFill sp tok),
          (3, .placeScales sp tok)] → s.cmdReady p c 1 e.1 = false ∨ c.total ≤ c.done → exec e.2 s = .next s) ∧
      (c.done < c.total → (∀ r ∈ c.unread, r.1 < r.2) →
        (s.cmdReady p c 1 0 = true → Answers (.packhorseCopy sp tok) s (fun u => s.Flies u p c 128 fun i n t =>
          bytesRead n (t.engRead a (segOf w[1]) (offOf w[1] + i) n))) ∧
        (∀ y, y = stridedOf w[3] → s.cmdReady p c 1 1 = true →
          Answers (.packhorseStridedCopy sp tok) s (fun u => s.Flies u p c 128 fun i n t =>
            bytesRead (min n (y.1 - i % y.1))
              (t.engRead a (segOf w[1]) (offOf w[1] + i / y.1 * y.2.2.1 + i % y.1) (min n (y.1 - i % y.1))))) ∧
        (s.cmdReady p c 1 2 = true → c.unread ≠ [] → Answers (.packhorseFill sp tok) s (fun u =>
          ∃ v : State, v = { s with fresh := v.fresh } ∧ ∃ r ∈ c.unread, ∃ at_ n, r.1 ≤ at_ ∧ at_ + n ≤ r.2 ∧ 0 < n ∧
            n ≤ 128 ∧ ∀ t, v.engWrite a (segOf w[2]) (offOf w[2] + at_) ((List.range n).map fun i =>
                BitVec.ofNat 8 (w[1].toNat / 256 ^ ((at_ + i) % 4))) false = .ok () t →
              u = t.updCmd p.id c.token fun x => { x with
                unread := takeUnits x.unread at_ n, done := x.done + n,
                undecremented := if cmdMode x.words = 1 then n * unitBytes x.words else 0, failed := none })) ∧
        (s.cmdReady p c 1 3 = true → Answers (.placeScales sp tok) s (fun u => s.Flies u p c 128 fun i n t =>
          t.readScales a w i n))) ∧
      (∀ (f : Flight) (v t : State), v.engWrite a (cmdDest w f.at_).1 (cmdDest w f.at_).2 f.data f.bad.isSome = .ok () t →
        t.Lands (s.cmdAns p c (v.landFlight p c a f)) p c f) ∧
      ∀ (t x : State) bs bad r ys bad1 i n, s.engRead a (segOf w[1]) (offOf w[1]) 32 = .ok (bs, bad) t →
        r = scaleRecordOf bs → r.bpr ≠ 0 → r.rows ≠ 0 → fld w[3] 0 32 + fld w[3] 32 32 ≤ r.bpr * r.rows →
        (∀ e ∈ [r.eaddr, r.uaddr], segOf e ≠ 5 ∧ segOf e ≠ 6) →
        t.scaleBlocks (n / 2) a r (fld w[3] 0 32 + i / 2) = .ok (ys, bad1) x →
        s.readScales a w i n = .ok (n, ys, bad <|> bad1) x))

/-- Gather, scatter, transforms, collectives, decrements and the end of commands (R192, R195, R196, R197, R198, R283,
R284, R285). -/
def Obligations.TrottersCarouselAndCollectives : Prop :=
  (∀ (s t x v : State) (sp : SpanId) (tok : BitVec 16) (p : Span) (c : Command) (a : Actor) (w : Vector DWord 4)
    (k i idx z xw seg off at_ : Nat) (bs : List Byte) (g : Seg),
    (s.cmdOf sp tok = none → ∀ e, e ∈ [Instr.trotterGather sp tok, .trotterScatter sp tok, .carouselForward sp tok,
      .carouselInverse sp tok, .carouselPointwise sp tok] → exec e s = .next s) ∧
    (s.cmdOf sp tok = some (p, c) → w = c.words → a = actorOf p c → (z, xw, seg, off) = (gatherOf w[3]).2 →
      g = vecAt a.segs (segOf w[1]) Seg.invalid → at_ = offOf w[1] + idx * z →
      (s.cmdReady p c 3 0 = false ∨ c.total ≤ c.done → exec (.trotterGather sp tok) s = .next s) ∧
      (s.cmdReady p c 3 1 = false ∨ c.total ≤ c.done → exec (.trotterScatter sp tok) s = .next s) ∧
      (∀ e, e ∈ [((0 : Nat), Instr.carouselForward sp tok), (1, .carouselInverse sp tok), (2, .carouselPointwise sp tok)] →
        s.cmdReady p c 5 e.1 = false → exec e.2 s = .next s) ∧
      (c.done < c.total →
        (s.cmdReady p c 3 0 = true → (∀ r ∈ c.unread, r.1 < r.2) → Answers (.trotterGather sp tok) s (fun u =>
          s.Flies u p c (packetElems c) fun j n y => y.gatherRead n a w j)) ∧
        (s.cmdReady p c 3 1 = true → s.scatterElems (min (packetElems c) (c.total - c.done)) p c a c.done = .ok () v →
          Answers (.trotterScatter sp tok) s (fun u => u = v.updCmd p.id c.token fun y => { y with failed := none }))) ∧
      (s.engWord a (segOf w[2]) (offOf w[2] + i * xw) xw = .ok (idx, none) t → (g.baseOf + at_) % z = 0 →
        at_ + z ≤ g.limit →
        (∀ n ys, t.engRead a (segOf w[1]) at_ z = .ok (bs, none) x → x.gatherRead k a w (i + 1) = .ok (n, ys, none) v →
          s.gatherRead (k + 1) a w i = .ok (n + 1, bs ++ ys, none) v) ∧
        (t.engRead a seg (off + i * z) z = .ok (bs, none) x → x.engWrite a (segOf w[1]) at_ bs false = .ok () v →
          s.scatterElems (k + 1) p c a i =
            (v.updCmd p.id c.token fun y => { y with done := y.done + 1 }).scatterElems k p c a (i + 1))) ∧
      (∀ r n ys zs (t1 t2 t3 : State), s.engRead a (segOf w[3]) (offOf w[3]) 32 = .ok (bs, none) t → r = carouselRecordOf bs →
        n = 2 ^ r.logn → t.engRead a (segOf w[1]) (offOf w[1]) (8 * n) = .ok (ys, none) t1 →
        (∀ e, e ∈ [((0 : Nat), Instr.carouselForward sp tok), (1, .carouselInverse sp tok)] → s.cmdReady p c 5 e.1 = true →
          carouselBad a e.1 r = false →
          t1.engReach a (segOf w[2]) .write (a.pieces (segOf w[2]) (offOf w[2]) (8 * n)) = .ok () t2 →
          (t2.overlapsPartly a w[1] w[2] (8 * n) = false → t2.engWrite a (segOf w[2]) (offOf w[2])
            ((carouselResult e.1 r (elemsOf 8 ys) []).flatMap (bytesLE 8)) false = .ok () v →
            Answers e.2 s (fun u => u = v.updCmd p.id c.token fun y =>
              { y with done := 8 * n, total := 8 * n, complete := true, failed := none })) ∧
          (t2.overlapsPartly a w[1] w[2] (8 * n) = true → Answers e.2 s (fun u => ∃ xs : List Nat, ∃ t4 : State, xs.length = n ∧
            t4 = { t2 with fresh := t4.fresh } ∧ ∀ y, t4.engWrite a (segOf w[2]) (offOf w[2])
              (xs.flatMap (bytesLE 8)) false = .ok () y → u = y.updCmd p.id c.token fun y =>
                { y with done := 8 * n, total := 8 * n, complete := true, failed := none }))) ∧
        (s.cmdReady p c 5 2 = true → carouselBad a 2 r = false →
          t1.engRead a (segOf r.src2) (offOf r.src2) (8 * n) = .ok (zs, none) t2 →
          t2.engReach a (segOf w[2]) .write (a.pieces (segOf w[2]) (offOf w[2]) (8 * n)) = .ok () t3 →
          t3.overlapsPartly a w[1] w[2] (8 * n) = false → t3.overlapsPartly a r.src2 w[2] (8 * n) = false →
          t3.engWrite a (segOf w[2]) (offOf w[2])
            (((elemsOf 8 ys).zip (elemsOf 8 zs)).flatMap fun e => bytesLE 8 (e.1 * e.2 % r.m)) false = .ok () v →
          Answers (.carouselPointwise sp tok) s (fun u => u = v.updCmd p.id c.token fun y =>
            { y with done := 8 * n, total := 8 * n, complete := true, failed := none }))))) ∧
  (∀ (s t t1 v : State) (sp : SpanId) (tok : BitVec 16) (p : Span) (c : Command) (ms order : List (Span × Command))
    (bufs : List (List Byte)) (q : Place),
    (s.cmdOf sp tok = none → ∀ e, e ∈ [Instr.collectiveBroadcast sp tok, .collectiveAllGather sp tok,
      .collectiveAllReduce sp tok, .collectiveComplete sp tok, .barrierDecrement sp tok, .engineCommandComplete sp tok] →
      exec e s = .next s) ∧
    (s.cmdOf sp tok = some (p, c) →
      (∀ e, e ∈ [((0 : Nat), Instr.collectiveBroadcast sp tok), (1, .collectiveAllGather sp tok),
          (2, .collectiveAllReduce sp tok)] →
        (cmdClass c.words = 4 → cmdOp c.words = e.1 → c.complete = false →
          exec e.2 s = .next (s.updCmd sp tok fun x => { x with joined := true })) ∧
        (cmdClass c.words ≠ 4 ∨ cmdOp c.words ≠ e.1 ∨ c.complete = true → exec e.2 s = .next s)) ∧
      (cmdClass c.words ≠ 4 ∨ c.joined = false ∨ c.complete = true → exec (.collectiveComplete sp tok) s = .next s) ∧
      (cmdClass c.words = 4 → c.joined = true → c.complete = false → ms = s.membersOf p c →
        (s.collectiveBad ms = false → ms.length ≠ cmdCount c.words ∨ (∃ m ∈ ms, m.2.parked ≠ none) →
          exec (.collectiveComplete sp tok) s = .next s) ∧
        (s.collectiveBad ms = false → ms.length = cmdCount c.words → (∀ m ∈ ms, m.2.parked = none) →
          order = sortBy (fun x y => decide (cmdRank x.2.words < cmdRank y.2.words)) ms → ∀ m rest out, order = m :: rest →
          out = (if cmdOp m.2.words = 2 then reduceAll (fld m.2.words[3] 56 4) (fld m.2.words[3] 60 4) bufs
            else bufs.flatten) →
          s.collRead (fld m.2.words[3] 0 32) (if cmdOp m.2.words = 0 then [m] else order) = .ok (bufs, []) t →
          t.collReach out.length order = .ok () t1 → t1.collWrite out false order = .ok () v →
          Answers (.collectiveComplete sp tok) s (fun u => u = ms.foldl (fun x y =>
            (x.updCmd y.1.id y.2.token fun z =>
              { z with done := z.total, complete := true, failed := none }).endEngineRegion y.1.id y.2.region) v)) ∧
        (s.collectiveBad ms = true → Answers (.collectiveComplete sp tok) s (fun u => ∃ f : Nat → DWord,
          u = ms.foldl (fun x y => ({ x with fresh := x.fresh + 1 } : State).stopCmd y.1 y.2.token
            ((actorOf y.1 y.2).trap 8 (f x.fresh))) s))) ∧
      (c.undecremented = 0 ∨ c.parked ≠ none → exec (.barrierDecrement sp tok) s = .next s) ∧
      (c.undecremented ≠ 0 → c.parked = none → s.cmdBarPlace (actorOf p c) c.words = .ok q t →
        (c.stopped ≠ none → Answers (.barrierDecrement sp tok) s (fun u =>
          u = (t.releaseBar p c q c.undecremented).updCmd p.id c.token fun x =>
            { x with undecremented := 0, failed := none })) ∧
        (c.stopped = none → t.poisoned q.key = false →
          v = (t.barrierStep q.slot q.key fun b => b.landed c.undecremented).updCmd p.id c.token
            (fun x => { x with undecremented := 0 }) →
          (c.undecremented ≤ (t.barrierAt q.slot q.key).pend → Answers (.barrierDecrement sp tok) s (fun u =>
            u = v.updCmd p.id c.token fun x => { x with failed := none })) ∧
          ((t.barrierAt q.slot q.key).pend < c.undecremented → Answers (.barrierDecrement sp tok) s (fun u =>
            u = v.stopCmd p c.token ((actorOf p c).trap 18 q.va))))) ∧
      ((∃ h ∈ p.held, ∃ b, h.by_ = .command tok b) ∨ c.undecremented ≠ 0 ∨
          (c.complete = false ∧ (c.done < c.total ∨ (cmdClass c.words ≠ 1 ∧ cmdClass c.words ≠ 3))) →
        exec (.engineCommandComplete sp tok) s = .next s) ∧
      ((∀ h ∈ p.held, ∀ b, h.by_ ≠ .command tok b) → c.undecremented = 0 →
        (c.complete = true ∨ (c.total ≤ c.done ∧ (cmdClass c.words = 1 ∨ cmdClass c.words = 3))) →
        Answers (.engineCommandComplete sp tok) s (fun u => ∃ r, u.spanOf sp = some r ∧
          r.cmds = p.cmds.filter (fun x => x.token != tok) ∧ r.regs = p.regs ∧ r.slices = p.slices ∧
          ∀ x ∈ r.regions, x.id = c.region → x.ended = true))))

/-- Hayloft requests and frees, task dispatch, completion and early decrements (R199, R200, R201, R315, R316, R317,
R318). -/
def Obligations.HayloftAndStarterEvents : Prop :=
  ∀ (s t v : State) (o : SlowOp) (h : HayFree) (cl : Fin 16) (k : CoreId) (e : StarterEntry) (rest : List StarterEntry)
    (w : BitVec 512) (x : Fin 16 × Nat) (p : Span) (g : Group),
    (s.slowOps.find? (fun y => y.id == o.id) = none → exec (.hayloftRequest o.id) s = .next s) ∧
    (s.slowOps.find? (fun y => y.id == o.id) = some o →
      s.transiting (.command o.id) = true ∨ (∀ d bytes, o.kind ≠ .halloc d bytes) → exec (.hayloftRequest o.id) s = .next s) ∧
    (∀ d bytes, s.slowOps.find? (fun y => y.id == o.id) = some o → o.kind = .halloc d bytes →
      s.transiting (.command o.id) = false → s.spanOf o.span = some p → s.groupOf p.group = some g →
      (∀ off len, s.hayTake g.launch (vecAt o.segs 7 Seg.invalid).limit (dieOf o.span.core) bytes.toNat = some (off, len, t) →
        Answers (.hayloftRequest o.id) s (fun u =>
          u = { s with slowOps := u.slowOps, hay := { launch := g.launch, off := off, len := len } :: s.hay } ∧
          len = 64 * ((bytes.toNat + 63) / 64) ∧ 4 * len ≤ (vecAt o.segs 7 Seg.invalid).limit ∧
          u.slowOps = s.slowOps.map fun y => if y.id = o.id then { y with
            kind := .pair d (BitVec.ofNat 64 off) (BitVec.ofNat 64 len), ready := true } else y)) ∧
      (s.hayTake g.launch (vecAt o.segs 7 Seg.invalid).limit (dieOf o.span.core) bytes.toNat = none →
        Answers (.hayloftRequest o.id) s (fun u => u = { s with
          slowOps := s.slowOps.map fun y => if y.id = o.id then { y with kind := .pair d 0 0, ready := true } else y }))) ∧
    (s.hayFrees.find? (fun y => y.id == h.id) = none → exec (.hayloftFree h.id) s = .next s) ∧
    (s.hayFrees.find? (fun y => y.id == h.id) = some h →
      ((∃ y ∈ h.after, y ∈ s.accessesOf h.span) → exec (.hayloftFree h.id) s = .next s) ∧
      ((∀ y ∈ h.after, y ∉ s.accessesOf h.span) →
        (∀ b, s.hay.find? (fun b => b.launch == h.launch && b.off == h.off) = some b → Answers (.hayloftFree h.id) s (fun u =>
          u = { s with
            sp := u.sp, rest := u.rest, records := u.records,
            hayFrees := s.hayFrees.filter fun y => y.id != h.id, hay := u.hay } ∧
          (∀ y, y ∈ u.hay ↔ y ∈ s.hay ∧ ¬(y.launch = h.launch ∧ y.off = h.off)) ∧
          ∀ y ∈ s.records, y.free = false → s.inBlock h.span.core h.asid h.va b.len y.sector = false → y ∈ u.records)) ∧
        ((∀ b ∈ s.hay, b.launch = h.launch → b.off ≠ h.off) → Answers (.hayloftFree h.id) s (fun u =>
          u = { s with
            hayFrees := s.hayFrees.filter fun y => y.id != h.id,
            host := { s.host with errors := .hfree h.off :: s.host.errors } })))) ∧
    ((s.starter.filter fun y => y.cluster == cl && y.inGate) = [] → exec (.starterDispatch cl) s = .next s) ∧
    (sortBy gateBefore (s.starter.filter fun y => y.cluster == cl && y.inGate) = e :: rest →
      (s.freeEngine cl e = none → exec (.starterDispatch cl) s = .next s) ∧
      (s.freeEngine cl e = some k → Answers (.starterDispatch cl) s (fun u =>
        u = { s with nextId := s.nextId + 1, starter := u.starter, core := u.core, cores := u.cores } ∧
        { e with inGate := false, running := true } ∈ u.starter ∧
        ∃ y ops, (u.coreOf k).ops = y :: ops ∧ y.id = s.nextId + 1 ∧ y.kind = .task e.order ∧ y.span = e.owner ∧
          y.accepted = true ∧ y.modq = e.modq ∧ y.xwin = e.xexp ∧ y.segs = e.segs ∧ y.region = e.region ∧
          y.progress = 0))) ∧
    (s.endingEntry (clusterOf k) = none → exec (.taskComplete k) s = .next s) ∧
    (s.endingEntry (clusterOf k) = some e →
      (e.words = none → exec (.taskComplete k) s = .next s) ∧
      (e.words = some w → t = (if e.released then s else s.releaseTask e (taskRecordOf w)) →
        (t.taskArrive e (taskRecordOf w) = .ok () v → exec (.taskComplete k) s = .next (v.endEntry e)) ∧
        ∀ f, t.taskArrive e (taskRecordOf w) = .fault f v →
          exec (.taskComplete k) s = .next ((v.holdTask e f.code.toNat 0).endEntry e))) ∧
    (s.earlyDecs.find? (fun y => y.1 == cl) = none → exec (.earlyDecrement cl) s = .next s) ∧
    (s.earlyDecs.find? (fun y => y.1 == cl) = some x → v = { s with earlyDecs := s.earlyDecs.erase x } →
      (∀ y, s.entryAt cl x.2 = some y → exec (.earlyDecrement cl) s = .next (v.decrementEntry y 1)) ∧
      (s.entryAt cl x.2 = none → s.entriesIn cl < starterCapacity →
        exec (.earlyDecrement cl) s = .next { v with starter := s.starter ++ [earlyEntry cl x.2 1] }) ∧
      (s.entryAt cl x.2 = none → starterCapacity ≤ s.entriesIn cl → exec (.earlyDecrement cl) s = .next s))

/-- The completion of a long operation writes exactly its destination (R40, R42, R164, R167, R185, R200, R295, R296).
-/
def Obligations.Completions : Prop :=
  ∀ (s v : State) (o : MemOp) (x : SlowOp), v = s.focus o.span →
    (s.opOf o.id = some o →
      o.returns = false ∨ s.opDone o = false ∨ s.answering o = true ∨ s.spanOf o.span = none →
      exec (.longOperationComplete o.id) s = .next s) ∧
    (s.opOf o.id = some o → o.returns = true → s.opDone o = true → s.answering o = false →
      (s.spanOf o.span).isSome = true →
      (∀ q ∈ o.reqs, (q.status = .performed ∨ q.status = .acked) ∧ q.poison = false) →
      (∀ d wide, o.dest = .vec d wide → Answers (.longOperationComplete o.id) s (fun u =>
        (∀ i, i < 32 → u.lane d i = if o.reqs.any fun q => q.lane == i then BitVec.ofNat 32 (o.laneVal i) else v.lane d i) ∧
        u.sp.regs.tag[d.toNat]'d.isLt = { len := 0, sign := false } ∧
        (wide = true → next d ≠ d → ∀ i, i < 32 → u.lane (next d) i =
          if o.reqs.any fun q => q.lane == i then BitVec.ofNat 32 (o.laneVal i / 2 ^ 32) else v.lane (next d) i) ∧
        (∀ n, n ≠ d → n ≠ next d → u.sp.regs.v[n.toNat]'n.isLt = v.sp.regs.v[n.toNat]'n.isLt) ∧
        u.sp.regs.s = v.sp.regs.s ∧ u.sp.pend = v.sp.pend.put o.gang (if wide then vp d else vr d) false ∧
        u.memOps = v.memOps.filter (fun y => y.id != o.id) ∧ u.mem = s.mem)) ∧
      (∀ d, o.dest = .scalar d → Answers (.longOperationComplete o.id) s (fun u =>
        u.sp.regs = { v.sp.regs with s := v.sp.regs.s.set d.toNat (BitVec.ofNat 64 (o.laneVal 0)) d.isLt } ∧
        u.sp.pend = v.sp.pend.put 0xFF (sr d) false ∧ u.memOps = v.memOps.filter (fun y => y.id != o.id) ∧
        u.mem = s.mem)) ∧
      (∀ d, o.dest = .tile d → d.toNat < v.grp.tiles.length → Answers (.longOperationComplete o.id) s (fun u =>
        u.sp.regs = v.sp.regs ∧ u.memOps = v.memOps.filter (fun y => y.id != o.id) ∧ u.mem = s.mem ∧
        (u.tile d).shape = (v.tile d).shape ∧
        (u.tile d).data = o.reqs.foldl (fun z q => tilePut z q.lane (bytesLE q.bytes q.result.toNat)) (v.tile d).data))) ∧
    (s.opOf x.id = none → s.slowOps.find? (fun y => y.id == x.id) = none →
      exec (.longOperationComplete x.id) s = .next s) ∧
    (s.opOf x.id = none → s.slowOps.find? (fun y => y.id == x.id) = some x →
      x.parked ≠ none ∨ s.transiting (.command x.id) = true ∨ s.spanOf x.span = none →
      exec (.longOperationComplete x.id) s = .next s) ∧
    (s.opOf x.id = none → s.slowOps.find? (fun y => y.id == x.id) = some x → x.parked = none →
      s.transiting (.command x.id) = false → (s.spanOf x.span).isSome = true → x.ready = true →
      (∀ g ∈ (s.focus x.span).allGroups, g.id ≠ 0 → (s.focus x.span).allExited g.id = false) →
      (∀ d y, x.kind = .status d y → Answers (.longOperationComplete x.id) s (fun u =>
        u.sp.regs = { (s.focus x.span).sp.regs with s := (s.focus x.span).sp.regs.s.set d.toNat y d.isLt } ∧
        u.slowOps = s.slowOps.filter (fun z => z.id != x.id) ∧ u.mem = s.mem)) ∧
      (∀ d y z, x.kind = .pair d y z → Answers (.longOperationComplete x.id) s (fun u =>
        u.sp.regs = { (s.focus x.span).sp.regs with
          s := ((s.focus x.span).sp.regs.s.set d.toNat y d.isLt).set (next d).toNat z (next d).isLt } ∧
        u.slowOps = s.slowOps.filter (fun z => z.id != x.id) ∧ u.mem = s.mem)) ∧
      (∀ d data shape, x.kind = .tile d data shape → d.toNat < (s.focus x.span).grp.tiles.length →
        Answers (.longOperationComplete x.id) s (fun u => u.tile d = { data := data, shape := shape } ∧
          u.sp.regs = (s.focus x.span).sp.regs ∧ u.slowOps = s.slowOps.filter (fun z => z.id != x.id))))

/-- The serving engine operation completes with its result (R272, R273, R274, R301, R307, R308, R319, R320, R322,
R323). -/
def Obligations.MatrixCompletions : Prop :=
  ∀ (s v : State) (k : CoreId) (o : EngineOp) (r : MemOp),
    ((s.coreOf k).serving = none → exec (.matrixOperationComplete k) s = .next s) ∧
    ((s.coreOf k).serving = some o →
      o.parked ≠ none ∨ (s.spanOf o.span = none ∧ ∀ order, o.kind ≠ .task order) →
      exec (.matrixOperationComplete k) s = .next s) ∧
    (∀ t : State, (∀ g ∈ t.allGroups, g.id ≠ 0 → t.allExited g.id = false) → t.endExited = t) ∧
    ((s.coreOf k).serving = some o → o.parked = none → (s.spanOf o.span).isSome = true → v = s.focus o.span →
      (∀ a b acc p i quad, o.kind = .mma a b acc p i quad → Answers (.matrixOperationComplete k) s (fun u =>
        u = (v.performMma o a b acc p quad).endExited) ∧
        ∀ kind kc w d at_, pairOf (shapeRead (v.tile a).shape) (shapeRead (v.tile b).shape) = some (kind, kc) →
          w = mmaSpecOf o kind kc p.toNat (quadOf quad) → at_ = o.progress * kc →
          v.badScales (v.tile a) (quadOf quad).aro (quadOf quad).m at_ w.k = none →
          v.badScales (v.tile b) (quadOf quad).bro (quadOf quad).n at_ w.k = none →
          d = mmaDo w (v.acc acc) (v.tileRow (v.tile a) (quadOf quad).aro at_ w.k)
            (v.tileRow (v.tile b) (quadOf quad).bro at_ w.k) → d.full = false →
          (at_ + kc < (quadOf quad).k → v.performMma o a b acc p quad = (v.setAcc acc d.acc).updOp o.id fun z =>
            { z with progress := z.progress + 1, gathered := (o.gathered.1 || d.sticky, d.spec) }) ∧
          ((quadOf quad).k ≤ at_ + kc → kind ≠ 4 → v.performMma o a b acc p quad = (v.setAcc acc d.acc).finishOp o)) ∧
      (∀ acc, o.kind = .mprom acc → Answers (.matrixOperationComplete k) s (fun u =>
        u = ((v.setAcc acc (v.acc acc).close).finishOp o).endExited)) ∧
      (∀ acc xs ys sign, o.kind = .bmult acc xs ys sign → Answers (.matrixOperationComplete k) s (fun u =>
        u = ((v.setAcc acc (productAcc xs ys sign)).finishOp o).endExited)) ∧
      (∀ d acc, o.kind = .bcres d acc → bigLen (v.acc acc).resolved ≤ 32 + v.slotLimbs → Answers (.matrixOperationComplete k) s (fun u =>
        u = ((v.putBig d (v.acc acc).resolved).finishOp o).endExited)) ∧
      (∀ d a b sa sb limbs q rem left, o.kind = .bdiv d a b sa sb limbs q rem → left = limbs - o.progress → 0 < b →
        rem < b → q * b + rem = a / 2 ^ (32 * left) →
        (1 < left → Answers (.matrixOperationComplete k) s (fun u => ∃ q1 r1, r1 < b ∧ q1 * b + r1 = a / 2 ^ (32 * (left - 1)) ∧
          u = (v.updOp o.id fun y =>
            { y with kind := .bdiv d a b sa sb limbs q1 r1, progress := y.progress + 1 }).endExited)) ∧
        (left ≤ 1 → Answers (.matrixOperationComplete k) s (fun u =>
          u = (((v.putBig d (signed (sa != sb) (a / b))).putBig (next d) (signed sa (a % b))).finishOp o).endExited))) ∧
      (∀ d x, o.kind = .bmodb d x → bigLen x ≤ 32 + v.slotLimbs → Answers (.matrixOperationComplete k) s (fun u =>
        u = ((v.putBig d x).finishOp o).endExited)) ∧
      (∀ slow, o.kind = .limbTiles slow → Answers (.matrixOperationComplete k) s (fun u => u = (v.finishOp o).endExited)) ∧
      (∀ acc red seg base x logged room t, o.kind = .drain acc red seg base x logged room →
        v.performDrain o acc red seg base x logged = .ok () t → Answers (.matrixOperationComplete k) s (fun u => u = (t.finishOp o).endExited)) ∧
      (∀ d x y, (o.kind = .spmv d x y → Answers (.matrixOperationComplete k) s (fun u => u = (v.performSpmv o d x y).endExited) ∧
          ∀ t, v.spmvStep (v.opActor o) x y o.progress = .ok () t → o.progress + 1 < fld y 32 32 →
            v.performSpmv o d x y = t.updOp o.id fun z => { z with progress := z.progress + 1, failed := none }) ∧
        (o.kind = .sptrsv d x y → Answers (.matrixOperationComplete k) s (fun u => u = (v.performTri o d x y).endExited))) ∧
      (∀ d x, (v.putBig d x).lane d 0 = BitVec.ofNat 32 x.natAbs ∧
        (v.putBig d x).sp.regs.tag[d.toNat]'d.isLt = { len := BitVec.ofNat 7 (bigLen x), sign := decide (x < 0) })) ∧
    ((s.coreOf k).serving = some o → o.parked = none → ∀ order, o.kind = .task order →
      (s.runningEntry order = none → exec (.matrixOperationComplete k) s = .next (s.leaveEngine k o)) ∧
      ∀ e w x t, s.runningEntry order = some e → e.words = some w →
        s.taskRun e (taskRecordOf w) (entryActor e o.failed.isSome) = .ok x t → Answers (.matrixOperationComplete k) s (fun u =>
          u = (t.updEntry e fun y => { y with xout := xwinPut 0 x.1 x.2 }).leaveEngine k o)) ∧
    (s.opOf r.id = none ∨ (s.opOf r.id = some r ∧ ∀ kind, r.kind ≠ .update kind) →
      exec (.tileUpdateApply r.id) s = .next s) ∧
    (∀ kind, s.opOf r.id = some r → r.kind = .update kind →
      (r.shares = [] ∨ (∃ q ∈ r.reqs, q.status ≠ .unreachable ∧ (q.status ≠ .sent ∨
          s.onFabric r.id (sectorOf q.key) = true ∨ s.reaches (fabricDie r.span.core) q.key = false)) →
        exec (.tileUpdateApply r.id) s = .next s) ∧
      (r.shares ≠ [] → (∀ q ∈ r.reqs, q.status = .unreachable ∨ (q.status = .sent ∧
          s.onFabric r.id (sectorOf q.key) = false ∧ s.reaches (fabricDie r.span.core) q.key = true)) →
        (∀ s1, s.admitReqs r r.shares = .admitted s1 → Answers (.tileUpdateApply r.id) s (fun u =>
          u = s1.applyUpdate r kind.toNat ∧ u.memOps = s.memOps.map fun y => if y.id = r.id then { r with
            reqs := r.reqs.map fun q => if q.status = .sent then { q with status := .performed } else q } else y)) ∧
        ∀ by_, s.admitReqs r r.shares = .refused by_ → Answers (.tileUpdateApply r.id) s (fun u =>
          u = { s with memOps := s.memOps.map fun y => if y.id = r.id then { r with reqs := r.reqs.map fun q =>
            if q.status = .sent then { q with status := .refused (regionBits by_) } else q } else y })))

end
end

