-- ==== Sys2Proof/Laws/State.lean ====
section
/-!
SUPPORT. What each named update of the state changes: one lemma for each field it leaves alone, and the value of the
field it writes.
-/

set_option Elab.async false

namespace Sys2Proof.Laws

open Sys2Proof Sys2Proof.Machine

/-! ## `ws` -/

@[simp] theorem ws_rest (s : State) (n : RegNo) (x : DWord) : (s.ws n x).rest = s.rest := rfl
@[simp] theorem ws_grp (s : State) (n : RegNo) (x : DWord) : (s.ws n x).grp = s.grp := rfl
@[simp] theorem ws_groups (s : State) (n : RegNo) (x : DWord) : (s.ws n x).groups = s.groups := rfl
@[simp] theorem ws_core (s : State) (n : RegNo) (x : DWord) : (s.ws n x).core = s.core := rfl
@[simp] theorem ws_cores (s : State) (n : RegNo) (x : DWord) : (s.ws n x).cores = s.cores := rfl
@[simp] theorem ws_issue (s : State) (n : RegNo) (x : DWord) : (s.ws n x).issue = s.issue := rfl
@[simp] theorem ws_mem (s : State) (n : RegNo) (x : DWord) : (s.ws n x).mem = s.mem := rfl
@[simp] theorem ws_memOps (s : State) (n : RegNo) (x : DWord) : (s.ws n x).memOps = s.memOps := rfl
@[simp] theorem ws_slowOps (s : State) (n : RegNo) (x : DWord) : (s.ws n x).slowOps = s.slowOps := rfl
@[simp] theorem ws_records (s : State) (n : RegNo) (x : DWord) : (s.ws n x).records = s.records := rfl
@[simp] theorem ws_roomQ (s : State) (n : RegNo) (x : DWord) : (s.ws n x).roomQ = s.roomQ := rfl
@[simp] theorem ws_saddles (s : State) (n : RegNo) (x : DWord) : (s.ws n x).saddles = s.saddles := rfl
@[simp] theorem ws_monitors (s : State) (n : RegNo) (x : DWord) : (s.ws n x).monitors = s.monitors := rfl
@[simp] theorem ws_starter (s : State) (n : RegNo) (x : DWord) : (s.ws n x).starter = s.starter := rfl
@[simp] theorem ws_earlyDecs (s : State) (n : RegNo) (x : DWord) : (s.ws n x).earlyDecs = s.earlyDecs := rfl
@[simp] theorem ws_hay (s : State) (n : RegNo) (x : DWord) : (s.ws n x).hay = s.hay := rfl
@[simp] theorem ws_hayFrees (s : State) (n : RegNo) (x : DWord) : (s.ws n x).hayFrees = s.hayFrees := rfl
@[simp] theorem ws_memsys (s : State) (n : RegNo) (x : DWord) : (s.ws n x).memsys = s.memsys := rfl
@[simp] theorem ws_fabric (s : State) (n : RegNo) (x : DWord) : (s.ws n x).fabric = s.fabric := rfl
@[simp] theorem ws_host (s : State) (n : RegNo) (x : DWord) : (s.ws n x).host = s.host := rfl
@[simp] theorem ws_now (s : State) (n : RegNo) (x : DWord) : (s.ws n x).now = s.now := rfl
@[simp] theorem ws_tickNs (s : State) (n : RegNo) (x : DWord) : (s.ws n x).tickNs = s.tickNs := rfl
@[simp] theorem ws_fresh (s : State) (n : RegNo) (x : DWord) : (s.ws n x).fresh = s.fresh := rfl
@[simp] theorem ws_nextId (s : State) (n : RegNo) (x : DWord) : (s.ws n x).nextId = s.nextId := rfl
@[simp] theorem ws_agenda (s : State) (n : RegNo) (x : DWord) : (s.ws n x).agenda = s.agenda := rfl
@[simp] theorem ws_settings (s : State) (n : RegNo) (x : DWord) : (s.ws n x).settings = s.settings := rfl
@[simp] theorem ws_sp_id (s : State) (n : RegNo) (x : DWord) : (s.ws n x).sp.id = s.sp.id := by unfold State.ws Span.cure; split <;> rfl
@[simp] theorem ws_sp_group (s : State) (n : RegNo) (x : DWord) : (s.ws n x).sp.group = s.sp.group := by unfold State.ws Span.cure; split <;> rfl
@[simp] theorem ws_sp_rank (s : State) (n : RegNo) (x : DWord) : (s.ws n x).sp.rank = s.sp.rank := by unfold State.ws Span.cure; split <;> rfl
@[simp] theorem ws_sp_number (s : State) (n : RegNo) (x : DWord) : (s.ws n x).sp.number = s.sp.number := by unfold State.ws Span.cure; split <;> rfl
@[simp] theorem ws_sp_trap (s : State) (n : RegNo) (x : DWord) : (s.ws n x).sp.trap = s.sp.trap := by unfold State.ws Span.cure; split <;> rfl
@[simp] theorem ws_sp_privileged (s : State) (n : RegNo) (x : DWord) : (s.ws n x).sp.privileged = s.sp.privileged := by unfold State.ws Span.cure; split <;> rfl
@[simp] theorem ws_sp_segs (s : State) (n : RegNo) (x : DWord) : (s.ws n x).sp.segs = s.sp.segs := by unfold State.ws Span.cure; split <;> rfl
@[simp] theorem ws_sp_bindSegs (s : State) (n : RegNo) (x : DWord) : (s.ws n x).sp.bindSegs = s.sp.bindSegs := by unfold State.ws Span.cure; split <;> rfl
@[simp] theorem ws_sp_spillBase (s : State) (n : RegNo) (x : DWord) : (s.ws n x).sp.spillBase = s.sp.spillBase := by unfold State.ws Span.cure; split <;> rfl
@[simp] theorem ws_sp_spillSlot (s : State) (n : RegNo) (x : DWord) : (s.ws n x).sp.spillSlot = s.sp.spillSlot := by unfold State.ws Span.cure; split <;> rfl
@[simp] theorem ws_sp_slices (s : State) (n : RegNo) (x : DWord) : (s.ws n x).sp.slices = s.sp.slices := by unfold State.ws Span.cure; split <;> rfl
@[simp] theorem ws_sp_clauses (s : State) (n : RegNo) (x : DWord) : (s.ws n x).sp.clauses = s.sp.clauses := by unfold State.ws Span.cure; split <;> rfl
@[simp] theorem ws_sp_nextClause (s : State) (n : RegNo) (x : DWord) : (s.ws n x).sp.nextClause = s.sp.nextClause := by unfold State.ws Span.cure; split <;> rfl
@[simp] theorem ws_sp_flags (s : State) (n : RegNo) (x : DWord) : (s.ws n x).sp.flags = s.sp.flags := by unfold State.ws Span.cure; split <;> rfl
@[simp] theorem ws_sp_pend (s : State) (n : RegNo) (x : DWord) : (s.ws n x).sp.pend = s.sp.pend := by unfold State.ws Span.cure; split <;> rfl
@[simp] theorem ws_sp_window (s : State) (n : RegNo) (x : DWord) : (s.ws n x).sp.window = s.sp.window := by unfold State.ws Span.cure; split <;> rfl
@[simp] theorem ws_sp_lastTok (s : State) (n : RegNo) (x : DWord) : (s.ws n x).sp.lastTok = s.sp.lastTok := by unfold State.ws Span.cure; split <;> rfl
@[simp] theorem ws_sp_cmds (s : State) (n : RegNo) (x : DWord) : (s.ws n x).sp.cmds = s.sp.cmds := by unfold State.ws Span.cure; split <;> rfl
@[simp] theorem ws_sp_frame (s : State) (n : RegNo) (x : DWord) : (s.ws n x).sp.frame = s.sp.frame := by unfold State.ws Span.cure; split <;> rfl
@[simp] theorem ws_sp_trapping (s : State) (n : RegNo) (x : DWord) : (s.ws n x).sp.trapping = s.sp.trapping := by unfold State.ws Span.cure; split <;> rfl
@[simp] theorem ws_sp_arrivals (s : State) (n : RegNo) (x : DWord) : (s.ws n x).sp.arrivals = s.sp.arrivals := by unfold State.ws Span.cure; split <;> rfl
@[simp] theorem ws_sp_regions (s : State) (n : RegNo) (x : DWord) : (s.ws n x).sp.regions = s.sp.regions := by unfold State.ws Span.cure; split <;> rfl
@[simp] theorem ws_sp_regSeq (s : State) (n : RegNo) (x : DWord) : (s.ws n x).sp.regSeq = s.sp.regSeq := by unfold State.ws Span.cure; split <;> rfl
@[simp] theorem ws_sp_regStart (s : State) (n : RegNo) (x : DWord) : (s.ws n x).sp.regStart = s.sp.regStart := by unfold State.ws Span.cure; split <;> rfl
@[simp] theorem ws_sp_regSectors (s : State) (n : RegNo) (x : DWord) : (s.ws n x).sp.regSectors = s.sp.regSectors := by unfold State.ws Span.cure; split <;> rfl
@[simp] theorem ws_sp_ending (s : State) (n : RegNo) (x : DWord) : (s.ws n x).sp.ending = s.sp.ending := by unfold State.ws Span.cure; split <;> rfl
@[simp] theorem ws_sp_seqs (s : State) (n : RegNo) (x : DWord) : (s.ws n x).sp.seqs = s.sp.seqs := by unfold State.ws Span.cure; split <;> rfl
@[simp] theorem ws_sp_passOver (s : State) (n : RegNo) (x : DWord) : (s.ws n x).sp.passOver = s.sp.passOver := by unfold State.ws Span.cure; split <;> rfl
@[simp] theorem ws_sp_promoted (s : State) (n : RegNo) (x : DWord) : (s.ws n x).sp.promoted = s.sp.promoted := by unfold State.ws Span.cure; split <;> rfl
@[simp] theorem ws_sp_live (s : State) (n : RegNo) (x : DWord) : (s.ws n x).sp.live = s.sp.live := by unfold State.ws Span.cure; split <;> rfl
@[simp] theorem ws_sp_regs_v (s : State) (n : RegNo) (x : DWord) : (s.ws n x).sp.regs.v = s.sp.regs.v := by unfold State.ws Span.cure; split <;> rfl
@[simp] theorem ws_sp_regs_tag (s : State) (n : RegNo) (x : DWord) : (s.ws n x).sp.regs.tag = s.sp.regs.tag := by unfold State.ws Span.cure; split <;> rfl
@[simp] theorem ws_sp_regs_m (s : State) (n : RegNo) (x : DWord) : (s.ws n x).sp.regs.m = s.sp.regs.m := by unfold State.ws Span.cure; split <;> rfl
@[simp] theorem ws_sp_regs_status (s : State) (n : RegNo) (x : DWord) : (s.ws n x).sp.regs.status = s.sp.regs.status := by unfold State.ws Span.cure; split <;> rfl
@[simp] theorem ws_sp_regs_modq (s : State) (n : RegNo) (x : DWord) : (s.ws n x).sp.regs.modq = s.sp.regs.modq := by unfold State.ws Span.cure; split <;> rfl
@[simp] theorem ws_sp_regs_qthresh (s : State) (n : RegNo) (x : DWord) : (s.ws n x).sp.regs.qthresh = s.sp.regs.qthresh := by unfold State.ws Span.cure; split <;> rfl
@[simp] theorem ws_sp_regs_nttlim (s : State) (n : RegNo) (x : DWord) : (s.ws n x).sp.regs.nttlim = s.sp.regs.nttlim := by unfold State.ws Span.cure; split <;> rfl
@[simp] theorem ws_sp_regs_xwin (s : State) (n : RegNo) (x : DWord) : (s.ws n x).sp.regs.xwin = s.sp.regs.xwin := by unfold State.ws Span.cure; split <;> rfl

/-! ## `wv` -/

@[simp] theorem wv_rest (s : State) (n : RegNo) (w : LaneMask) (f : Nat → Word) : (s.wv n w f).rest = s.rest := rfl
@[simp] theorem wv_grp (s : State) (n : RegNo) (w : LaneMask) (f : Nat → Word) : (s.wv n w f).grp = s.grp := rfl
@[simp] theorem wv_groups (s : State) (n : RegNo) (w : LaneMask) (f : Nat → Word) : (s.wv n w f).groups = s.groups := rfl
@[simp] theorem wv_core (s : State) (n : RegNo) (w : LaneMask) (f : Nat → Word) : (s.wv n w f).core = s.core := rfl
@[simp] theorem wv_cores (s : State) (n : RegNo) (w : LaneMask) (f : Nat → Word) : (s.wv n w f).cores = s.cores := rfl
@[simp] theorem wv_issue (s : State) (n : RegNo) (w : LaneMask) (f : Nat → Word) : (s.wv n w f).issue = s.issue := rfl
@[simp] theorem wv_mem (s : State) (n : RegNo) (w : LaneMask) (f : Nat → Word) : (s.wv n w f).mem = s.mem := rfl
@[simp] theorem wv_memOps (s : State) (n : RegNo) (w : LaneMask) (f : Nat → Word) : (s.wv n w f).memOps = s.memOps := rfl
@[simp] theorem wv_slowOps (s : State) (n : RegNo) (w : LaneMask) (f : Nat → Word) : (s.wv n w f).slowOps = s.slowOps := rfl
@[simp] theorem wv_records (s : State) (n : RegNo) (w : LaneMask) (f : Nat → Word) : (s.wv n w f).records = s.records := rfl
@[simp] theorem wv_roomQ (s : State) (n : RegNo) (w : LaneMask) (f : Nat → Word) : (s.wv n w f).roomQ = s.roomQ := rfl
@[simp] theorem wv_saddles (s : State) (n : RegNo) (w : LaneMask) (f : Nat → Word) : (s.wv n w f).saddles = s.saddles := rfl
@[simp] theorem wv_monitors (s : State) (n : RegNo) (w : LaneMask) (f : Nat → Word) : (s.wv n w f).monitors = s.monitors := rfl
@[simp] theorem wv_starter (s : State) (n : RegNo) (w : LaneMask) (f : Nat → Word) : (s.wv n w f).starter = s.starter := rfl
@[simp] theorem wv_earlyDecs (s : State) (n : RegNo) (w : LaneMask) (f : Nat → Word) : (s.wv n w f).earlyDecs = s.earlyDecs := rfl
@[simp] theorem wv_hay (s : State) (n : RegNo) (w : LaneMask) (f : Nat → Word) : (s.wv n w f).hay = s.hay := rfl
@[simp] theorem wv_hayFrees (s : State) (n : RegNo) (w : LaneMask) (f : Nat → Word) : (s.wv n w f).hayFrees = s.hayFrees := rfl
@[simp] theorem wv_memsys (s : State) (n : RegNo) (w : LaneMask) (f : Nat → Word) : (s.wv n w f).memsys = s.memsys := rfl
@[simp] theorem wv_fabric (s : State) (n : RegNo) (w : LaneMask) (f : Nat → Word) : (s.wv n w f).fabric = s.fabric := rfl
@[simp] theorem wv_host (s : State) (n : RegNo) (w : LaneMask) (f : Nat → Word) : (s.wv n w f).host = s.host := rfl
@[simp] theorem wv_now (s : State) (n : RegNo) (w : LaneMask) (f : Nat → Word) : (s.wv n w f).now = s.now := rfl
@[simp] theorem wv_tickNs (s : State) (n : RegNo) (w : LaneMask) (f : Nat → Word) : (s.wv n w f).tickNs = s.tickNs := rfl
@[simp] theorem wv_fresh (s : State) (n : RegNo) (w : LaneMask) (f : Nat → Word) : (s.wv n w f).fresh = s.fresh := rfl
@[simp] theorem wv_nextId (s : State) (n : RegNo) (w : LaneMask) (f : Nat → Word) : (s.wv n w f).nextId = s.nextId := rfl
@[simp] theorem wv_agenda (s : State) (n : RegNo) (w : LaneMask) (f : Nat → Word) : (s.wv n w f).agenda = s.agenda := rfl
@[simp] theorem wv_settings (s : State) (n : RegNo) (w : LaneMask) (f : Nat → Word) : (s.wv n w f).settings = s.settings := rfl
@[simp] theorem wv_sp_id (s : State) (n : RegNo) (w : LaneMask) (f : Nat → Word) : (s.wv n w f).sp.id = s.sp.id := by unfold State.wv Span.cureLanes; dsimp only; split <;> rfl
@[simp] theorem wv_sp_group (s : State) (n : RegNo) (w : LaneMask) (f : Nat → Word) : (s.wv n w f).sp.group = s.sp.group := by unfold State.wv Span.cureLanes; dsimp only; split <;> rfl
@[simp] theorem wv_sp_rank (s : State) (n : RegNo) (w : LaneMask) (f : Nat → Word) : (s.wv n w f).sp.rank = s.sp.rank := by unfold State.wv Span.cureLanes; dsimp only; split <;> rfl
@[simp] theorem wv_sp_number (s : State) (n : RegNo) (w : LaneMask) (f : Nat → Word) : (s.wv n w f).sp.number = s.sp.number := by unfold State.wv Span.cureLanes; dsimp only; split <;> rfl
@[simp] theorem wv_sp_trap (s : State) (n : RegNo) (w : LaneMask) (f : Nat → Word) : (s.wv n w f).sp.trap = s.sp.trap := by unfold State.wv Span.cureLanes; dsimp only; split <;> rfl
@[simp] theorem wv_sp_privileged (s : State) (n : RegNo) (w : LaneMask) (f : Nat → Word) : (s.wv n w f).sp.privileged = s.sp.privileged := by unfold State.wv Span.cureLanes; dsimp only; split <;> rfl
@[simp] theorem wv_sp_segs (s : State) (n : RegNo) (w : LaneMask) (f : Nat → Word) : (s.wv n w f).sp.segs = s.sp.segs := by unfold State.wv Span.cureLanes; dsimp only; split <;> rfl
@[simp] theorem wv_sp_bindSegs (s : State) (n : RegNo) (w : LaneMask) (f : Nat → Word) : (s.wv n w f).sp.bindSegs = s.sp.bindSegs := by unfold State.wv Span.cureLanes; dsimp only; split <;> rfl
@[simp] theorem wv_sp_spillBase (s : State) (n : RegNo) (w : LaneMask) (f : Nat → Word) : (s.wv n w f).sp.spillBase = s.sp.spillBase := by unfold State.wv Span.cureLanes; dsimp only; split <;> rfl
@[simp] theorem wv_sp_spillSlot (s : State) (n : RegNo) (w : LaneMask) (f : Nat → Word) : (s.wv n w f).sp.spillSlot = s.sp.spillSlot := by unfold State.wv Span.cureLanes; dsimp only; split <;> rfl
@[simp] theorem wv_sp_slices (s : State) (n : RegNo) (w : LaneMask) (f : Nat → Word) : (s.wv n w f).sp.slices = s.sp.slices := by unfold State.wv Span.cureLanes; dsimp only; split <;> rfl
@[simp] theorem wv_sp_clauses (s : State) (n : RegNo) (w : LaneMask) (f : Nat → Word) : (s.wv n w f).sp.clauses = s.sp.clauses := by unfold State.wv Span.cureLanes; dsimp only; split <;> rfl
@[simp] theorem wv_sp_nextClause (s : State) (n : RegNo) (w : LaneMask) (f : Nat → Word) : (s.wv n w f).sp.nextClause = s.sp.nextClause := by unfold State.wv Span.cureLanes; dsimp only; split <;> rfl
@[simp] theorem wv_sp_flags (s : State) (n : RegNo) (w : LaneMask) (f : Nat → Word) : (s.wv n w f).sp.flags = s.sp.flags := by unfold State.wv Span.cureLanes; dsimp only; split <;> rfl
@[simp] theorem wv_sp_pend (s : State) (n : RegNo) (w : LaneMask) (f : Nat → Word) : (s.wv n w f).sp.pend = s.sp.pend := by unfold State.wv Span.cureLanes; dsimp only; split <;> rfl
@[simp] theorem wv_sp_window (s : State) (n : RegNo) (w : LaneMask) (f : Nat → Word) : (s.wv n w f).sp.window = s.sp.window := by unfold State.wv Span.cureLanes; dsimp only; split <;> rfl
@[simp] theorem wv_sp_lastTok (s : State) (n : RegNo) (w : LaneMask) (f : Nat → Word) : (s.wv n w f).sp.lastTok = s.sp.lastTok := by unfold State.wv Span.cureLanes; dsimp only; split <;> rfl
@[simp] theorem wv_sp_cmds (s : State) (n : RegNo) (w : LaneMask) (f : Nat → Word) : (s.wv n w f).sp.cmds = s.sp.cmds := by unfold State.wv Span.cureLanes; dsimp only; split <;> rfl
@[simp] theorem wv_sp_frame (s : State) (n : RegNo) (w : LaneMask) (f : Nat → Word) : (s.wv n w f).sp.frame = s.sp.frame := by unfold State.wv Span.cureLanes; dsimp only; split <;> rfl
@[simp] theorem wv_sp_trapping (s : State) (n : RegNo) (w : LaneMask) (f : Nat → Word) : (s.wv n w f).sp.trapping = s.sp.trapping := by unfold State.wv Span.cureLanes; dsimp only; split <;> rfl
@[simp] theorem wv_sp_arrivals (s : State) (n : RegNo) (w : LaneMask) (f : Nat → Word) : (s.wv n w f).sp.arrivals = s.sp.arrivals := by unfold State.wv Span.cureLanes; dsimp only; split <;> rfl
@[simp] theorem wv_sp_regions (s : State) (n : RegNo) (w : LaneMask) (f : Nat → Word) : (s.wv n w f).sp.regions = s.sp.regions := by unfold State.wv Span.cureLanes; dsimp only; split <;> rfl
@[simp] theorem wv_sp_regSeq (s : State) (n : RegNo) (w : LaneMask) (f : Nat → Word) : (s.wv n w f).sp.regSeq = s.sp.regSeq := by unfold State.wv Span.cureLanes; dsimp only; split <;> rfl
@[simp] theorem wv_sp_regStart (s : State) (n : RegNo) (w : LaneMask) (f : Nat → Word) : (s.wv n w f).sp.regStart = s.sp.regStart := by unfold State.wv Span.cureLanes; dsimp only; split <;> rfl
@[simp] theorem wv_sp_regSectors (s : State) (n : RegNo) (w : LaneMask) (f : Nat → Word) : (s.wv n w f).sp.regSectors = s.sp.regSectors := by unfold State.wv Span.cureLanes; dsimp only; split <;> rfl
@[simp] theorem wv_sp_ending (s : State) (n : RegNo) (w : LaneMask) (f : Nat → Word) : (s.wv n w f).sp.ending = s.sp.ending := by unfold State.wv Span.cureLanes; dsimp only; split <;> rfl
@[simp] theorem wv_sp_seqs (s : State) (n : RegNo) (w : LaneMask) (f : Nat → Word) : (s.wv n w f).sp.seqs = s.sp.seqs := by unfold State.wv Span.cureLanes; dsimp only; split <;> rfl
@[simp] theorem wv_sp_passOver (s : State) (n : RegNo) (w : LaneMask) (f : Nat → Word) : (s.wv n w f).sp.passOver = s.sp.passOver := by unfold State.wv Span.cureLanes; dsimp only; split <;> rfl
@[simp] theorem wv_sp_promoted (s : State) (n : RegNo) (w : LaneMask) (f : Nat → Word) : (s.wv n w f).sp.promoted = s.sp.promoted := by unfold State.wv Span.cureLanes; dsimp only; split <;> rfl
@[simp] theorem wv_sp_live (s : State) (n : RegNo) (w : LaneMask) (f : Nat → Word) : (s.wv n w f).sp.live = s.sp.live := by unfold State.wv Span.cureLanes; dsimp only; split <;> rfl
@[simp] theorem wv_sp_regs_tag (s : State) (n : RegNo) (w : LaneMask) (f : Nat → Word) : (s.wv n w f).sp.regs.tag = s.sp.regs.tag := by unfold State.wv Span.cureLanes; dsimp only; split <;> rfl
@[simp] theorem wv_sp_regs_s (s : State) (n : RegNo) (w : LaneMask) (f : Nat → Word) : (s.wv n w f).sp.regs.s = s.sp.regs.s := by unfold State.wv Span.cureLanes; dsimp only; split <;> rfl
@[simp] theorem wv_sp_regs_m (s : State) (n : RegNo) (w : LaneMask) (f : Nat → Word) : (s.wv n w f).sp.regs.m = s.sp.regs.m := by unfold State.wv Span.cureLanes; dsimp only; split <;> rfl
@[simp] theorem wv_sp_regs_status (s : State) (n : RegNo) (w : LaneMask) (f : Nat → Word) : (s.wv n w f).sp.regs.status = s.sp.regs.status := by unfold State.wv Span.cureLanes; dsimp only; split <;> rfl
@[simp] theorem wv_sp_regs_modq (s : State) (n : RegNo) (w : LaneMask) (f : Nat → Word) : (s.wv n w f).sp.regs.modq = s.sp.regs.modq := by unfold State.wv Span.cureLanes; dsimp only; split <;> rfl
@[simp] theorem wv_sp_regs_qthresh (s : State) (n : RegNo) (w : LaneMask) (f : Nat → Word) : (s.wv n w f).sp.regs.qthresh = s.sp.regs.qthresh := by unfold State.wv Span.cureLanes; dsimp only; split <;> rfl
@[simp] theorem wv_sp_regs_nttlim (s : State) (n : RegNo) (w : LaneMask) (f : Nat → Word) : (s.wv n w f).sp.regs.nttlim = s.sp.regs.nttlim := by unfold State.wv Span.cureLanes; dsimp only; split <;> rfl
@[simp] theorem wv_sp_regs_xwin (s : State) (n : RegNo) (w : LaneMask) (f : Nat → Word) : (s.wv n w f).sp.regs.xwin = s.sp.regs.xwin := by unfold State.wv Span.cureLanes; dsimp only; split <;> rfl

/-! ## `wtag` -/

@[simp] theorem wtag_rest (s : State) (n : RegNo) (x : Tag) : (s.wtag n x).rest = s.rest := rfl
@[simp] theorem wtag_grp (s : State) (n : RegNo) (x : Tag) : (s.wtag n x).grp = s.grp := rfl
@[simp] theorem wtag_groups (s : State) (n : RegNo) (x : Tag) : (s.wtag n x).groups = s.groups := rfl
@[simp] theorem wtag_core (s : State) (n : RegNo) (x : Tag) : (s.wtag n x).core = s.core := rfl
@[simp] theorem wtag_cores (s : State) (n : RegNo) (x : Tag) : (s.wtag n x).cores = s.cores := rfl
@[simp] theorem wtag_issue (s : State) (n : RegNo) (x : Tag) : (s.wtag n x).issue = s.issue := rfl
@[simp] theorem wtag_mem (s : State) (n : RegNo) (x : Tag) : (s.wtag n x).mem = s.mem := rfl
@[simp] theorem wtag_memOps (s : State) (n : RegNo) (x : Tag) : (s.wtag n x).memOps = s.memOps := rfl
@[simp] theorem wtag_slowOps (s : State) (n : RegNo) (x : Tag) : (s.wtag n x).slowOps = s.slowOps := rfl
@[simp] theorem wtag_records (s : State) (n : RegNo) (x : Tag) : (s.wtag n x).records = s.records := rfl
@[simp] theorem wtag_roomQ (s : State) (n : RegNo) (x : Tag) : (s.wtag n x).roomQ = s.roomQ := rfl
@[simp] theorem wtag_saddles (s : State) (n : RegNo) (x : Tag) : (s.wtag n x).saddles = s.saddles := rfl
@[simp] theorem wtag_monitors (s : State) (n : RegNo) (x : Tag) : (s.wtag n x).monitors = s.monitors := rfl
@[simp] theorem wtag_starter (s : State) (n : RegNo) (x : Tag) : (s.wtag n x).starter = s.starter := rfl
@[simp] theorem wtag_earlyDecs (s : State) (n : RegNo) (x : Tag) : (s.wtag n x).earlyDecs = s.earlyDecs := rfl
@[simp] theorem wtag_hay (s : State) (n : RegNo) (x : Tag) : (s.wtag n x).hay = s.hay := rfl
@[simp] theorem wtag_hayFrees (s : State) (n : RegNo) (x : Tag) : (s.wtag n x).hayFrees = s.hayFrees := rfl
@[simp] theorem wtag_memsys (s : State) (n : RegNo) (x : Tag) : (s.wtag n x).memsys = s.memsys := rfl
@[simp] theorem wtag_fabric (s : State) (n : RegNo) (x : Tag) : (s.wtag n x).fabric = s.fabric := rfl
@[simp] theorem wtag_host (s : State) (n : RegNo) (x : Tag) : (s.wtag n x).host = s.host := rfl
@[simp] theorem wtag_now (s : State) (n : RegNo) (x : Tag) : (s.wtag n x).now = s.now := rfl
@[simp] theorem wtag_tickNs (s : State) (n : RegNo) (x : Tag) : (s.wtag n x).tickNs = s.tickNs := rfl
@[simp] theorem wtag_fresh (s : State) (n : RegNo) (x : Tag) : (s.wtag n x).fresh = s.fresh := rfl
@[simp] theorem wtag_nextId (s : State) (n : RegNo) (x : Tag) : (s.wtag n x).nextId = s.nextId := rfl
@[simp] theorem wtag_agenda (s : State) (n : RegNo) (x : Tag) : (s.wtag n x).agenda = s.agenda := rfl
@[simp] theorem wtag_settings (s : State) (n : RegNo) (x : Tag) : (s.wtag n x).settings = s.settings := rfl
@[simp] theorem wtag_sp_id (s : State) (n : RegNo) (x : Tag) : (s.wtag n x).sp.id = s.sp.id := rfl
@[simp] theorem wtag_sp_group (s : State) (n : RegNo) (x : Tag) : (s.wtag n x).sp.group = s.sp.group := rfl
@[simp] theorem wtag_sp_rank (s : State) (n : RegNo) (x : Tag) : (s.wtag n x).sp.rank = s.sp.rank := rfl
@[simp] theorem wtag_sp_number (s : State) (n : RegNo) (x : Tag) : (s.wtag n x).sp.number = s.sp.number := rfl
@[simp] theorem wtag_sp_trap (s : State) (n : RegNo) (x : Tag) : (s.wtag n x).sp.trap = s.sp.trap := rfl
@[simp] theorem wtag_sp_privileged (s : State) (n : RegNo) (x : Tag) : (s.wtag n x).sp.privileged = s.sp.privileged := rfl
@[simp] theorem wtag_sp_segs (s : State) (n : RegNo) (x : Tag) : (s.wtag n x).sp.segs = s.sp.segs := rfl
@[simp] theorem wtag_sp_bindSegs (s : State) (n : RegNo) (x : Tag) : (s.wtag n x).sp.bindSegs = s.sp.bindSegs := rfl
@[simp] theorem wtag_sp_spillBase (s : State) (n : RegNo) (x : Tag) : (s.wtag n x).sp.spillBase = s.sp.spillBase := rfl
@[simp] theorem wtag_sp_spillSlot (s : State) (n : RegNo) (x : Tag) : (s.wtag n x).sp.spillSlot = s.sp.spillSlot := rfl
@[simp] theorem wtag_sp_slices (s : State) (n : RegNo) (x : Tag) : (s.wtag n x).sp.slices = s.sp.slices := rfl
@[simp] theorem wtag_sp_clauses (s : State) (n : RegNo) (x : Tag) : (s.wtag n x).sp.clauses = s.sp.clauses := rfl
@[simp] theorem wtag_sp_nextClause (s : State) (n : RegNo) (x : Tag) : (s.wtag n x).sp.nextClause = s.sp.nextClause := rfl
@[simp] theorem wtag_sp_flags (s : State) (n : RegNo) (x : Tag) : (s.wtag n x).sp.flags = s.sp.flags := rfl
@[simp] theorem wtag_sp_pend (s : State) (n : RegNo) (x : Tag) : (s.wtag n x).sp.pend = s.sp.pend := rfl
@[simp] theorem wtag_sp_held (s : State) (n : RegNo) (x : Tag) : (s.wtag n x).sp.held = s.sp.held := rfl
@[simp] theorem wtag_sp_window (s : State) (n : RegNo) (x : Tag) : (s.wtag n x).sp.window = s.sp.window := rfl
@[simp] theorem wtag_sp_lastTok (s : State) (n : RegNo) (x : Tag) : (s.wtag n x).sp.lastTok = s.sp.lastTok := rfl
@[simp] theorem wtag_sp_cmds (s : State) (n : RegNo) (x : Tag) : (s.wtag n x).sp.cmds = s.sp.cmds := rfl
@[simp] theorem wtag_sp_frame (s : State) (n : RegNo) (x : Tag) : (s.wtag n x).sp.frame = s.sp.frame := rfl
@[simp] theorem wtag_sp_trapping (s : State) (n : RegNo) (x : Tag) : (s.wtag n x).sp.trapping = s.sp.trapping := rfl
@[simp] theorem wtag_sp_arrivals (s : State) (n : RegNo) (x : Tag) : (s.wtag n x).sp.arrivals = s.sp.arrivals := rfl
@[simp] theorem wtag_sp_regions (s : State) (n : RegNo) (x : Tag) : (s.wtag n x).sp.regions = s.sp.regions := rfl
@[simp] theorem wtag_sp_regSeq (s : State) (n : RegNo) (x : Tag) : (s.wtag n x).sp.regSeq = s.sp.regSeq := rfl
@[simp] theorem wtag_sp_regStart (s : State) (n : RegNo) (x : Tag) : (s.wtag n x).sp.regStart = s.sp.regStart := rfl
@[simp] theorem wtag_sp_regSectors (s : State) (n : RegNo) (x : Tag) : (s.wtag n x).sp.regSectors = s.sp.regSectors := rfl
@[simp] theorem wtag_sp_ending (s : State) (n : RegNo) (x : Tag) : (s.wtag n x).sp.ending = s.sp.ending := rfl
@[simp] theorem wtag_sp_seqs (s : State) (n : RegNo) (x : Tag) : (s.wtag n x).sp.seqs = s.sp.seqs := rfl
@[simp] theorem wtag_sp_passOver (s : State) (n : RegNo) (x : Tag) : (s.wtag n x).sp.passOver = s.sp.passOver := rfl
@[simp] theorem wtag_sp_promoted (s : State) (n : RegNo) (x : Tag) : (s.wtag n x).sp.promoted = s.sp.promoted := rfl
@[simp] theorem wtag_sp_live (s : State) (n : RegNo) (x : Tag) : (s.wtag n x).sp.live = s.sp.live := rfl
@[simp] theorem wtag_sp_regs_v (s : State) (n : RegNo) (x : Tag) : (s.wtag n x).sp.regs.v = s.sp.regs.v := rfl
@[simp] theorem wtag_sp_regs_s (s : State) (n : RegNo) (x : Tag) : (s.wtag n x).sp.regs.s = s.sp.regs.s := rfl
@[simp] theorem wtag_sp_regs_m (s : State) (n : RegNo) (x : Tag) : (s.wtag n x).sp.regs.m = s.sp.regs.m := rfl
@[simp] theorem wtag_sp_regs_status (s : State) (n : RegNo) (x : Tag) : (s.wtag n x).sp.regs.status = s.sp.regs.status := rfl
@[simp] theorem wtag_sp_regs_modq (s : State) (n : RegNo) (x : Tag) : (s.wtag n x).sp.regs.modq = s.sp.regs.modq := rfl
@[simp] theorem wtag_sp_regs_qthresh (s : State) (n : RegNo) (x : Tag) : (s.wtag n x).sp.regs.qthresh = s.sp.regs.qthresh := rfl
@[simp] theorem wtag_sp_regs_nttlim (s : State) (n : RegNo) (x : Tag) : (s.wtag n x).sp.regs.nttlim = s.sp.regs.nttlim := rfl
@[simp] theorem wtag_sp_regs_xwin (s : State) (n : RegNo) (x : Tag) : (s.wtag n x).sp.regs.xwin = s.sp.regs.xwin := rfl

/-! ## `wm` -/

@[simp] theorem wm_rest (s : State) (n : Nat) (x : LaneMask) : (s.wm n x).rest = s.rest := by unfold State.wm; split <;> rfl
@[simp] theorem wm_grp (s : State) (n : Nat) (x : LaneMask) : (s.wm n x).grp = s.grp := by unfold State.wm; split <;> rfl
@[simp] theorem wm_groups (s : State) (n : Nat) (x : LaneMask) : (s.wm n x).groups = s.groups := by unfold State.wm; split <;> rfl
@[simp] theorem wm_core (s : State) (n : Nat) (x : LaneMask) : (s.wm n x).core = s.core := by unfold State.wm; split <;> rfl
@[simp] theorem wm_cores (s : State) (n : Nat) (x : LaneMask) : (s.wm n x).cores = s.cores := by unfold State.wm; split <;> rfl
@[simp] theorem wm_issue (s : State) (n : Nat) (x : LaneMask) : (s.wm n x).issue = s.issue := by unfold State.wm; split <;> rfl
@[simp] theorem wm_mem (s : State) (n : Nat) (x : LaneMask) : (s.wm n x).mem = s.mem := by unfold State.wm; split <;> rfl
@[simp] theorem wm_memOps (s : State) (n : Nat) (x : LaneMask) : (s.wm n x).memOps = s.memOps := by unfold State.wm; split <;> rfl
@[simp] theorem wm_slowOps (s : State) (n : Nat) (x : LaneMask) : (s.wm n x).slowOps = s.slowOps := by unfold State.wm; split <;> rfl
@[simp] theorem wm_records (s : State) (n : Nat) (x : LaneMask) : (s.wm n x).records = s.records := by unfold State.wm; split <;> rfl
@[simp] theorem wm_roomQ (s : State) (n : Nat) (x : LaneMask) : (s.wm n x).roomQ = s.roomQ := by unfold State.wm; split <;> rfl
@[simp] theorem wm_saddles (s : State) (n : Nat) (x : LaneMask) : (s.wm n x).saddles = s.saddles := by unfold State.wm; split <;> rfl
@[simp] theorem wm_monitors (s : State) (n : Nat) (x : LaneMask) : (s.wm n x).monitors = s.monitors := by unfold State.wm; split <;> rfl
@[simp] theorem wm_starter (s : State) (n : Nat) (x : LaneMask) : (s.wm n x).starter = s.starter := by unfold State.wm; split <;> rfl
@[simp] theorem wm_earlyDecs (s : State) (n : Nat) (x : LaneMask) : (s.wm n x).earlyDecs = s.earlyDecs := by unfold State.wm; split <;> rfl
@[simp] theorem wm_hay (s : State) (n : Nat) (x : LaneMask) : (s.wm n x).hay = s.hay := by unfold State.wm; split <;> rfl
@[simp] theorem wm_hayFrees (s : State) (n : Nat) (x : LaneMask) : (s.wm n x).hayFrees = s.hayFrees := by unfold State.wm; split <;> rfl
@[simp] theorem wm_memsys (s : State) (n : Nat) (x : LaneMask) : (s.wm n x).memsys = s.memsys := by unfold State.wm; split <;> rfl
@[simp] theorem wm_fabric (s : State) (n : Nat) (x : LaneMask) : (s.wm n x).fabric = s.fabric := by unfold State.wm; split <;> rfl
@[simp] theorem wm_host (s : State) (n : Nat) (x : LaneMask) : (s.wm n x).host = s.host := by unfold State.wm; split <;> rfl
@[simp] theorem wm_now (s : State) (n : Nat) (x : LaneMask) : (s.wm n x).now = s.now := by unfold State.wm; split <;> rfl
@[simp] theorem wm_tickNs (s : State) (n : Nat) (x : LaneMask) : (s.wm n x).tickNs = s.tickNs := by unfold State.wm; split <;> rfl
@[simp] theorem wm_fresh (s : State) (n : Nat) (x : LaneMask) : (s.wm n x).fresh = s.fresh := by unfold State.wm; split <;> rfl
@[simp] theorem wm_nextId (s : State) (n : Nat) (x : LaneMask) : (s.wm n x).nextId = s.nextId := by unfold State.wm; split <;> rfl
@[simp] theorem wm_agenda (s : State) (n : Nat) (x : LaneMask) : (s.wm n x).agenda = s.agenda := by unfold State.wm; split <;> rfl
@[simp] theorem wm_settings (s : State) (n : Nat) (x : LaneMask) : (s.wm n x).settings = s.settings := by unfold State.wm; split <;> rfl
@[simp] theorem wm_sp_id (s : State) (n : Nat) (x : LaneMask) : (s.wm n x).sp.id = s.sp.id := by unfold State.wm; split <;> rfl
@[simp] theorem wm_sp_group (s : State) (n : Nat) (x : LaneMask) : (s.wm n x).sp.group = s.sp.group := by unfold State.wm; split <;> rfl
@[simp] theorem wm_sp_rank (s : State) (n : Nat) (x : LaneMask) : (s.wm n x).sp.rank = s.sp.rank := by unfold State.wm; split <;> rfl
@[simp] theorem wm_sp_number (s : State) (n : Nat) (x : LaneMask) : (s.wm n x).sp.number = s.sp.number := by unfold State.wm; split <;> rfl
@[simp] theorem wm_sp_trap (s : State) (n : Nat) (x : LaneMask) : (s.wm n x).sp.trap = s.sp.trap := by unfold State.wm; split <;> rfl
@[simp] theorem wm_sp_privileged (s : State) (n : Nat) (x : LaneMask) : (s.wm n x).sp.privileged = s.sp.privileged := by unfold State.wm; split <;> rfl
@[simp] theorem wm_sp_segs (s : State) (n : Nat) (x : LaneMask) : (s.wm n x).sp.segs = s.sp.segs := by unfold State.wm; split <;> rfl
@[simp] theorem wm_sp_bindSegs (s : State) (n : Nat) (x : LaneMask) : (s.wm n x).sp.bindSegs = s.sp.bindSegs := by unfold State.wm; split <;> rfl
@[simp] theorem wm_sp_spillBase (s : State) (n : Nat) (x : LaneMask) : (s.wm n x).sp.spillBase = s.sp.spillBase := by unfold State.wm; split <;> rfl
@[simp] theorem wm_sp_spillSlot (s : State) (n : Nat) (x : LaneMask) : (s.wm n x).sp.spillSlot = s.sp.spillSlot := by unfold State.wm; split <;> rfl
@[simp] theorem wm_sp_slices (s : State) (n : Nat) (x : LaneMask) : (s.wm n x).sp.slices = s.sp.slices := by unfold State.wm; split <;> rfl
@[simp] theorem wm_sp_clauses (s : State) (n : Nat) (x : LaneMask) : (s.wm n x).sp.clauses = s.sp.clauses := by unfold State.wm; split <;> rfl
@[simp] theorem wm_sp_nextClause (s : State) (n : Nat) (x : LaneMask) : (s.wm n x).sp.nextClause = s.sp.nextClause := by unfold State.wm; split <;> rfl
@[simp] theorem wm_sp_flags (s : State) (n : Nat) (x : LaneMask) : (s.wm n x).sp.flags = s.sp.flags := by unfold State.wm; split <;> rfl
@[simp] theorem wm_sp_pend (s : State) (n : Nat) (x : LaneMask) : (s.wm n x).sp.pend = s.sp.pend := by unfold State.wm; split <;> rfl
@[simp] theorem wm_sp_held (s : State) (n : Nat) (x : LaneMask) : (s.wm n x).sp.held = s.sp.held := by unfold State.wm; split <;> rfl
@[simp] theorem wm_sp_window (s : State) (n : Nat) (x : LaneMask) : (s.wm n x).sp.window = s.sp.window := by unfold State.wm; split <;> rfl
@[simp] theorem wm_sp_lastTok (s : State) (n : Nat) (x : LaneMask) : (s.wm n x).sp.lastTok = s.sp.lastTok := by unfold State.wm; split <;> rfl
@[simp] theorem wm_sp_cmds (s : State) (n : Nat) (x : LaneMask) : (s.wm n x).sp.cmds = s.sp.cmds := by unfold State.wm; split <;> rfl
@[simp] theorem wm_sp_frame (s : State) (n : Nat) (x : LaneMask) : (s.wm n x).sp.frame = s.sp.frame := by unfold State.wm; split <;> rfl
@[simp] theorem wm_sp_trapping (s : State) (n : Nat) (x : LaneMask) : (s.wm n x).sp.trapping = s.sp.trapping := by unfold State.wm; split <;> rfl
@[simp] theorem wm_sp_arrivals (s : State) (n : Nat) (x : LaneMask) : (s.wm n x).sp.arrivals = s.sp.arrivals := by unfold State.wm; split <;> rfl
@[simp] theorem wm_sp_regions (s : State) (n : Nat) (x : LaneMask) : (s.wm n x).sp.regions = s.sp.regions := by unfold State.wm; split <;> rfl
@[simp] theorem wm_sp_regSeq (s : State) (n : Nat) (x : LaneMask) : (s.wm n x).sp.regSeq = s.sp.regSeq := by unfold State.wm; split <;> rfl
@[simp] theorem wm_sp_regStart (s : State) (n : Nat) (x : LaneMask) : (s.wm n x).sp.regStart = s.sp.regStart := by unfold State.wm; split <;> rfl
@[simp] theorem wm_sp_regSectors (s : State) (n : Nat) (x : LaneMask) : (s.wm n x).sp.regSectors = s.sp.regSectors := by unfold State.wm; split <;> rfl
@[simp] theorem wm_sp_ending (s : State) (n : Nat) (x : LaneMask) : (s.wm n x).sp.ending = s.sp.ending := by unfold State.wm; split <;> rfl
@[simp] theorem wm_sp_seqs (s : State) (n : Nat) (x : LaneMask) : (s.wm n x).sp.seqs = s.sp.seqs := by unfold State.wm; split <;> rfl
@[simp] theorem wm_sp_passOver (s : State) (n : Nat) (x : LaneMask) : (s.wm n x).sp.passOver = s.sp.passOver := by unfold State.wm; split <;> rfl
@[simp] theorem wm_sp_promoted (s : State) (n : Nat) (x : LaneMask) : (s.wm n x).sp.promoted = s.sp.promoted := by unfold State.wm; split <;> rfl
@[simp] theorem wm_sp_live (s : State) (n : Nat) (x : LaneMask) : (s.wm n x).sp.live = s.sp.live := by unfold State.wm; split <;> rfl
@[simp] theorem wm_sp_regs_v (s : State) (n : Nat) (x : LaneMask) : (s.wm n x).sp.regs.v = s.sp.regs.v := by unfold State.wm; split <;> rfl
@[simp] theorem wm_sp_regs_tag (s : State) (n : Nat) (x : LaneMask) : (s.wm n x).sp.regs.tag = s.sp.regs.tag := by unfold State.wm; split <;> rfl
@[simp] theorem wm_sp_regs_s (s : State) (n : Nat) (x : LaneMask) : (s.wm n x).sp.regs.s = s.sp.regs.s := by unfold State.wm; split <;> rfl
@[simp] theorem wm_sp_regs_status (s : State) (n : Nat) (x : LaneMask) : (s.wm n x).sp.regs.status = s.sp.regs.status := by unfold State.wm; split <;> rfl
@[simp] theorem wm_sp_regs_modq (s : State) (n : Nat) (x : LaneMask) : (s.wm n x).sp.regs.modq = s.sp.regs.modq := by unfold State.wm; split <;> rfl
@[simp] theorem wm_sp_regs_qthresh (s : State) (n : Nat) (x : LaneMask) : (s.wm n x).sp.regs.qthresh = s.sp.regs.qthresh := by unfold State.wm; split <;> rfl
@[simp] theorem wm_sp_regs_nttlim (s : State) (n : Nat) (x : LaneMask) : (s.wm n x).sp.regs.nttlim = s.sp.regs.nttlim := by unfold State.wm; split <;> rfl
@[simp] theorem wm_sp_regs_xwin (s : State) (n : Nat) (x : LaneMask) : (s.wm n x).sp.regs.xwin = s.sp.regs.xwin := by unfold State.wm; split <;> rfl

/-! ## `wstatus` -/

@[simp] theorem wstatus_rest (s : State) (x : DWord) : (s.wstatus x).rest = s.rest := rfl
@[simp] theorem wstatus_grp (s : State) (x : DWord) : (s.wstatus x).grp = s.grp := rfl
@[simp] theorem wstatus_groups (s : State) (x : DWord) : (s.wstatus x).groups = s.groups := rfl
@[simp] theorem wstatus_core (s : State) (x : DWord) : (s.wstatus x).core = s.core := rfl
@[simp] theorem wstatus_cores (s : State) (x : DWord) : (s.wstatus x).cores = s.cores := rfl
@[simp] theorem wstatus_issue (s : State) (x : DWord) : (s.wstatus x).issue = s.issue := rfl
@[simp] theorem wstatus_mem (s : State) (x : DWord) : (s.wstatus x).mem = s.mem := rfl
@[simp] theorem wstatus_memOps (s : State) (x : DWord) : (s.wstatus x).memOps = s.memOps := rfl
@[simp] theorem wstatus_slowOps (s : State) (x : DWord) : (s.wstatus x).slowOps = s.slowOps := rfl
@[simp] theorem wstatus_records (s : State) (x : DWord) : (s.wstatus x).records = s.records := rfl
@[simp] theorem wstatus_roomQ (s : State) (x : DWord) : (s.wstatus x).roomQ = s.roomQ := rfl
@[simp] theorem wstatus_saddles (s : State) (x : DWord) : (s.wstatus x).saddles = s.saddles := rfl
@[simp] theorem wstatus_monitors (s : State) (x : DWord) : (s.wstatus x).monitors = s.monitors := rfl
@[simp] theorem wstatus_starter (s : State) (x : DWord) : (s.wstatus x).starter = s.starter := rfl
@[simp] theorem wstatus_earlyDecs (s : State) (x : DWord) : (s.wstatus x).earlyDecs = s.earlyDecs := rfl
@[simp] theorem wstatus_hay (s : State) (x : DWord) : (s.wstatus x).hay = s.hay := rfl
@[simp] theorem wstatus_hayFrees (s : State) (x : DWord) : (s.wstatus x).hayFrees = s.hayFrees := rfl
@[simp] theorem wstatus_memsys (s : State) (x : DWord) : (s.wstatus x).memsys = s.memsys := rfl
@[simp] theorem wstatus_fabric (s : State) (x : DWord) : (s.wstatus x).fabric = s.fabric := rfl
@[simp] theorem wstatus_host (s : State) (x : DWord) : (s.wstatus x).host = s.host := rfl
@[simp] theorem wstatus_now (s : State) (x : DWord) : (s.wstatus x).now = s.now := rfl
@[simp] theorem wstatus_tickNs (s : State) (x : DWord) : (s.wstatus x).tickNs = s.tickNs := rfl
@[simp] theorem wstatus_fresh (s : State) (x : DWord) : (s.wstatus x).fresh = s.fresh := rfl
@[simp] theorem wstatus_nextId (s : State) (x : DWord) : (s.wstatus x).nextId = s.nextId := rfl
@[simp] theorem wstatus_agenda (s : State) (x : DWord) : (s.wstatus x).agenda = s.agenda := rfl
@[simp] theorem wstatus_settings (s : State) (x : DWord) : (s.wstatus x).settings = s.settings := rfl
@[simp] theorem wstatus_sp_id (s : State) (x : DWord) : (s.wstatus x).sp.id = s.sp.id := rfl
@[simp] theorem wstatus_sp_group (s : State) (x : DWord) : (s.wstatus x).sp.group = s.sp.group := rfl
@[simp] theorem wstatus_sp_rank (s : State) (x : DWord) : (s.wstatus x).sp.rank = s.sp.rank := rfl
@[simp] theorem wstatus_sp_number (s : State) (x : DWord) : (s.wstatus x).sp.number = s.sp.number := rfl
@[simp] theorem wstatus_sp_trap (s : State) (x : DWord) : (s.wstatus x).sp.trap = s.sp.trap := rfl
@[simp] theorem wstatus_sp_privileged (s : State) (x : DWord) : (s.wstatus x).sp.privileged = s.sp.privileged := rfl
@[simp] theorem wstatus_sp_segs (s : State) (x : DWord) : (s.wstatus x).sp.segs = s.sp.segs := rfl
@[simp] theorem wstatus_sp_bindSegs (s : State) (x : DWord) : (s.wstatus x).sp.bindSegs = s.sp.bindSegs := rfl
@[simp] theorem wstatus_sp_spillBase (s : State) (x : DWord) : (s.wstatus x).sp.spillBase = s.sp.spillBase := rfl
@[simp] theorem wstatus_sp_spillSlot (s : State) (x : DWord) : (s.wstatus x).sp.spillSlot = s.sp.spillSlot := rfl
@[simp] theorem wstatus_sp_slices (s : State) (x : DWord) : (s.wstatus x).sp.slices = s.sp.slices := rfl
@[simp] theorem wstatus_sp_clauses (s : State) (x : DWord) : (s.wstatus x).sp.clauses = s.sp.clauses := rfl
@[simp] theorem wstatus_sp_nextClause (s : State) (x : DWord) : (s.wstatus x).sp.nextClause = s.sp.nextClause := rfl
@[simp] theorem wstatus_sp_flags (s : State) (x : DWord) : (s.wstatus x).sp.flags = s.sp.flags := rfl
@[simp] theorem wstatus_sp_pend (s : State) (x : DWord) : (s.wstatus x).sp.pend = s.sp.pend := rfl
@[simp] theorem wstatus_sp_held (s : State) (x : DWord) : (s.wstatus x).sp.held = s.sp.held := rfl
@[simp] theorem wstatus_sp_window (s : State) (x : DWord) : (s.wstatus x).sp.window = s.sp.window := rfl
@[simp] theorem wstatus_sp_lastTok (s : State) (x : DWord) : (s.wstatus x).sp.lastTok = s.sp.lastTok := rfl
@[simp] theorem wstatus_sp_cmds (s : State) (x : DWord) : (s.wstatus x).sp.cmds = s.sp.cmds := rfl
@[simp] theorem wstatus_sp_frame (s : State) (x : DWord) : (s.wstatus x).sp.frame = s.sp.frame := rfl
@[simp] theorem wstatus_sp_trapping (s : State) (x : DWord) : (s.wstatus x).sp.trapping = s.sp.trapping := rfl
@[simp] theorem wstatus_sp_arrivals (s : State) (x : DWord) : (s.wstatus x).sp.arrivals = s.sp.arrivals := rfl
@[simp] theorem wstatus_sp_regions (s : State) (x : DWord) : (s.wstatus x).sp.regions = s.sp.regions := rfl
@[simp] theorem wstatus_sp_regSeq (s : State) (x : DWord) : (s.wstatus x).sp.regSeq = s.sp.regSeq := rfl
@[simp] theorem wstatus_sp_regStart (s : State) (x : DWord) : (s.wstatus x).sp.regStart = s.sp.regStart := rfl
@[simp] theorem wstatus_sp_regSectors (s : State) (x : DWord) : (s.wstatus x).sp.regSectors = s.sp.regSectors := rfl
@[simp] theorem wstatus_sp_ending (s : State) (x : DWord) : (s.wstatus x).sp.ending = s.sp.ending := rfl
@[simp] theorem wstatus_sp_seqs (s : State) (x : DWord) : (s.wstatus x).sp.seqs = s.sp.seqs := rfl
@[simp] theorem wstatus_sp_passOver (s : State) (x : DWord) : (s.wstatus x).sp.passOver = s.sp.passOver := rfl
@[simp] theorem wstatus_sp_promoted (s : State) (x : DWord) : (s.wstatus x).sp.promoted = s.sp.promoted := rfl
@[simp] theorem wstatus_sp_live (s : State) (x : DWord) : (s.wstatus x).sp.live = s.sp.live := rfl
@[simp] theorem wstatus_sp_regs_v (s : State) (x : DWord) : (s.wstatus x).sp.regs.v = s.sp.regs.v := rfl
@[simp] theorem wstatus_sp_regs_tag (s : State) (x : DWord) : (s.wstatus x).sp.regs.tag = s.sp.regs.tag := rfl
@[simp] theorem wstatus_sp_regs_s (s : State) (x : DWord) : (s.wstatus x).sp.regs.s = s.sp.regs.s := rfl
@[simp] theorem wstatus_sp_regs_m (s : State) (x : DWord) : (s.wstatus x).sp.regs.m = s.sp.regs.m := rfl
@[simp] theorem wstatus_sp_regs_modq (s : State) (x : DWord) : (s.wstatus x).sp.regs.modq = s.sp.regs.modq := rfl
@[simp] theorem wstatus_sp_regs_qthresh (s : State) (x : DWord) : (s.wstatus x).sp.regs.qthresh = s.sp.regs.qthresh := rfl
@[simp] theorem wstatus_sp_regs_nttlim (s : State) (x : DWord) : (s.wstatus x).sp.regs.nttlim = s.sp.regs.nttlim := rfl
@[simp] theorem wstatus_sp_regs_xwin (s : State) (x : DWord) : (s.wstatus x).sp.regs.xwin = s.sp.regs.xwin := rfl

/-! ## `setPending` -/

@[simp] theorem setPending_rest (s : State) (rs : List Ref) : (s.setPending rs).rest = s.rest := rfl
@[simp] theorem setPending_grp (s : State) (rs : List Ref) : (s.setPending rs).grp = s.grp := rfl
@[simp] theorem setPending_groups (s : State) (rs : List Ref) : (s.setPending rs).groups = s.groups := rfl
@[simp] theorem setPending_core (s : State) (rs : List Ref) : (s.setPending rs).core = s.core := rfl
@[simp] theorem setPending_cores (s : State) (rs : List Ref) : (s.setPending rs).cores = s.cores := rfl
@[simp] theorem setPending_issue (s : State) (rs : List Ref) : (s.setPending rs).issue = s.issue := rfl
@[simp] theorem setPending_mem (s : State) (rs : List Ref) : (s.setPending rs).mem = s.mem := rfl
@[simp] theorem setPending_memOps (s : State) (rs : List Ref) : (s.setPending rs).memOps = s.memOps := rfl
@[simp] theorem setPending_slowOps (s : State) (rs : List Ref) : (s.setPending rs).slowOps = s.slowOps := rfl
@[simp] theorem setPending_records (s : State) (rs : List Ref) : (s.setPending rs).records = s.records := rfl
@[simp] theorem setPending_roomQ (s : State) (rs : List Ref) : (s.setPending rs).roomQ = s.roomQ := rfl
@[simp] theorem setPending_saddles (s : State) (rs : List Ref) : (s.setPending rs).saddles = s.saddles := rfl
@[simp] theorem setPending_monitors (s : State) (rs : List Ref) : (s.setPending rs).monitors = s.monitors := rfl
@[simp] theorem setPending_starter (s : State) (rs : List Ref) : (s.setPending rs).starter = s.starter := rfl
@[simp] theorem setPending_earlyDecs (s : State) (rs : List Ref) : (s.setPending rs).earlyDecs = s.earlyDecs := rfl
@[simp] theorem setPending_hay (s : State) (rs : List Ref) : (s.setPending rs).hay = s.hay := rfl
@[simp] theorem setPending_hayFrees (s : State) (rs : List Ref) : (s.setPending rs).hayFrees = s.hayFrees := rfl
@[simp] theorem setPending_memsys (s : State) (rs : List Ref) : (s.setPending rs).memsys = s.memsys := rfl
@[simp] theorem setPending_fabric (s : State) (rs : List Ref) : (s.setPending rs).fabric = s.fabric := rfl
@[simp] theorem setPending_host (s : State) (rs : List Ref) : (s.setPending rs).host = s.host := rfl
@[simp] theorem setPending_now (s : State) (rs : List Ref) : (s.setPending rs).now = s.now := rfl
@[simp] theorem setPending_tickNs (s : State) (rs : List Ref) : (s.setPending rs).tickNs = s.tickNs := rfl
@[simp] theorem setPending_fresh (s : State) (rs : List Ref) : (s.setPending rs).fresh = s.fresh := rfl
@[simp] theorem setPending_nextId (s : State) (rs : List Ref) : (s.setPending rs).nextId = s.nextId := rfl
@[simp] theorem setPending_agenda (s : State) (rs : List Ref) : (s.setPending rs).agenda = s.agenda := rfl
@[simp] theorem setPending_settings (s : State) (rs : List Ref) : (s.setPending rs).settings = s.settings := rfl
@[simp] theorem setPending_sp_id (s : State) (rs : List Ref) : (s.setPending rs).sp.id = s.sp.id := rfl
@[simp] theorem setPending_sp_group (s : State) (rs : List Ref) : (s.setPending rs).sp.group = s.sp.group := rfl
@[simp] theorem setPending_sp_rank (s : State) (rs : List Ref) : (s.setPending rs).sp.rank = s.sp.rank := rfl
@[simp] theorem setPending_sp_number (s : State) (rs : List Ref) : (s.setPending rs).sp.number = s.sp.number := rfl
@[simp] theorem setPending_sp_regs (s : State) (rs : List Ref) : (s.setPending rs).sp.regs = s.sp.regs := rfl
@[simp] theorem setPending_sp_trap (s : State) (rs : List Ref) : (s.setPending rs).sp.trap = s.sp.trap := rfl
@[simp] theorem setPending_sp_privileged (s : State) (rs : List Ref) : (s.setPending rs).sp.privileged = s.sp.privileged := rfl
@[simp] theorem setPending_sp_segs (s : State) (rs : List Ref) : (s.setPending rs).sp.segs = s.sp.segs := rfl
@[simp] theorem setPending_sp_bindSegs (s : State) (rs : List Ref) : (s.setPending rs).sp.bindSegs = s.sp.bindSegs := rfl
@[simp] theorem setPending_sp_spillBase (s : State) (rs : List Ref) : (s.setPending rs).sp.spillBase = s.sp.spillBase := rfl
@[simp] theorem setPending_sp_spillSlot (s : State) (rs : List Ref) : (s.setPending rs).sp.spillSlot = s.sp.spillSlot := rfl
@[simp] theorem setPending_sp_slices (s : State) (rs : List Ref) : (s.setPending rs).sp.slices = s.sp.slices := rfl
@[simp] theorem setPending_sp_clauses (s : State) (rs : List Ref) : (s.setPending rs).sp.clauses = s.sp.clauses := rfl
@[simp] theorem setPending_sp_nextClause (s : State) (rs : List Ref) : (s.setPending rs).sp.nextClause = s.sp.nextClause := rfl
@[simp] theorem setPending_sp_flags (s : State) (rs : List Ref) : (s.setPending rs).sp.flags = s.sp.flags := rfl
@[simp] theorem setPending_sp_held (s : State) (rs : List Ref) : (s.setPending rs).sp.held = s.sp.held := rfl
@[simp] theorem setPending_sp_window (s : State) (rs : List Ref) : (s.setPending rs).sp.window = s.sp.window := rfl
@[simp] theorem setPending_sp_lastTok (s : State) (rs : List Ref) : (s.setPending rs).sp.lastTok = s.sp.lastTok := rfl
@[simp] theorem setPending_sp_cmds (s : State) (rs : List Ref) : (s.setPending rs).sp.cmds = s.sp.cmds := rfl
@[simp] theorem setPending_sp_frame (s : State) (rs : List Ref) : (s.setPending rs).sp.frame = s.sp.frame := rfl
@[simp] theorem setPending_sp_trapping (s : State) (rs : List Ref) : (s.setPending rs).sp.trapping = s.sp.trapping := rfl
@[simp] theorem setPending_sp_arrivals (s : State) (rs : List Ref) : (s.setPending rs).sp.arrivals = s.sp.arrivals := rfl
@[simp] theorem setPending_sp_regions (s : State) (rs : List Ref) : (s.setPending rs).sp.regions = s.sp.regions := rfl
@[simp] theorem setPending_sp_regSeq (s : State) (rs : List Ref) : (s.setPending rs).sp.regSeq = s.sp.regSeq := rfl
@[simp] theorem setPending_sp_regStart (s : State) (rs : List Ref) : (s.setPending rs).sp.regStart = s.sp.regStart := rfl
@[simp] theorem setPending_sp_regSectors (s : State) (rs : List Ref) : (s.setPending rs).sp.regSectors = s.sp.regSectors := rfl
@[simp] theorem setPending_sp_ending (s : State) (rs : List Ref) : (s.setPending rs).sp.ending = s.sp.ending := rfl
@[simp] theorem setPending_sp_seqs (s : State) (rs : List Ref) : (s.setPending rs).sp.seqs = s.sp.seqs := rfl
@[simp] theorem setPending_sp_passOver (s : State) (rs : List Ref) : (s.setPending rs).sp.passOver = s.sp.passOver := rfl
@[simp] theorem setPending_sp_promoted (s : State) (rs : List Ref) : (s.setPending rs).sp.promoted = s.sp.promoted := rfl
@[simp] theorem setPending_sp_live (s : State) (rs : List Ref) : (s.setPending rs).sp.live = s.sp.live := rfl

/-! ## `clearPending` -/

@[simp] theorem clearPending_rest (s : State) (g : BitVec 8) (rs : List Ref) : (s.clearPending g rs).rest = s.rest := rfl
@[simp] theorem clearPending_grp (s : State) (g : BitVec 8) (rs : List Ref) : (s.clearPending g rs).grp = s.grp := rfl
@[simp] theorem clearPending_groups (s : State) (g : BitVec 8) (rs : List Ref) : (s.clearPending g rs).groups = s.groups := rfl
@[simp] theorem clearPending_core (s : State) (g : BitVec 8) (rs : List Ref) : (s.clearPending g rs).core = s.core := rfl
@[simp] theorem clearPending_cores (s : State) (g : BitVec 8) (rs : List Ref) : (s.clearPending g rs).cores = s.cores := rfl
@[simp] theorem clearPending_issue (s : State) (g : BitVec 8) (rs : List Ref) : (s.clearPending g rs).issue = s.issue := rfl
@[simp] theorem clearPending_mem (s : State) (g : BitVec 8) (rs : List Ref) : (s.clearPending g rs).mem = s.mem := rfl
@[simp] theorem clearPending_memOps (s : State) (g : BitVec 8) (rs : List Ref) : (s.clearPending g rs).memOps = s.memOps := rfl
@[simp] theorem clearPending_slowOps (s : State) (g : BitVec 8) (rs : List Ref) : (s.clearPending g rs).slowOps = s.slowOps := rfl
@[simp] theorem clearPending_records (s : State) (g : BitVec 8) (rs : List Ref) : (s.clearPending g rs).records = s.records := rfl
@[simp] theorem clearPending_roomQ (s : State) (g : BitVec 8) (rs : List Ref) : (s.clearPending g rs).roomQ = s.roomQ := rfl
@[simp] theorem clearPending_saddles (s : State) (g : BitVec 8) (rs : List Ref) : (s.clearPending g rs).saddles = s.saddles := rfl
@[simp] theorem clearPending_monitors (s : State) (g : BitVec 8) (rs : List Ref) : (s.clearPending g rs).monitors = s.monitors := rfl
@[simp] theorem clearPending_starter (s : State) (g : BitVec 8) (rs : List Ref) : (s.clearPending g rs).starter = s.starter := rfl
@[simp] theorem clearPending_earlyDecs (s : State) (g : BitVec 8) (rs : List Ref) : (s.clearPending g rs).earlyDecs = s.earlyDecs := rfl
@[simp] theorem clearPending_hay (s : State) (g : BitVec 8) (rs : List Ref) : (s.clearPending g rs).hay = s.hay := rfl
@[simp] theorem clearPending_hayFrees (s : State) (g : BitVec 8) (rs : List Ref) : (s.clearPending g rs).hayFrees = s.hayFrees := rfl
@[simp] theorem clearPending_memsys (s : State) (g : BitVec 8) (rs : List Ref) : (s.clearPending g rs).memsys = s.memsys := rfl
@[simp] theorem clearPending_fabric (s : State) (g : BitVec 8) (rs : List Ref) : (s.clearPending g rs).fabric = s.fabric := rfl
@[simp] theorem clearPending_host (s : State) (g : BitVec 8) (rs : List Ref) : (s.clearPending g rs).host = s.host := rfl
@[simp] theorem clearPending_now (s : State) (g : BitVec 8) (rs : List Ref) : (s.clearPending g rs).now = s.now := rfl
@[simp] theorem clearPending_tickNs (s : State) (g : BitVec 8) (rs : List Ref) : (s.clearPending g rs).tickNs = s.tickNs := rfl
@[simp] theorem clearPending_fresh (s : State) (g : BitVec 8) (rs : List Ref) : (s.clearPending g rs).fresh = s.fresh := rfl
@[simp] theorem clearPending_nextId (s : State) (g : BitVec 8) (rs : List Ref) : (s.clearPending g rs).nextId = s.nextId := rfl
@[simp] theorem clearPending_agenda (s : State) (g : BitVec 8) (rs : List Ref) : (s.clearPending g rs).agenda = s.agenda := rfl
@[simp] theorem clearPending_settings (s : State) (g : BitVec 8) (rs : List Ref) : (s.clearPending g rs).settings = s.settings := rfl
@[simp] theorem clearPending_sp_id (s : State) (g : BitVec 8) (rs : List Ref) : (s.clearPending g rs).sp.id = s.sp.id := rfl
@[simp] theorem clearPending_sp_group (s : State) (g : BitVec 8) (rs : List Ref) : (s.clearPending g rs).sp.group = s.sp.group := rfl
@[simp] theorem clearPending_sp_rank (s : State) (g : BitVec 8) (rs : List Ref) : (s.clearPending g rs).sp.rank = s.sp.rank := rfl
@[simp] theorem clearPending_sp_number (s : State) (g : BitVec 8) (rs : List Ref) : (s.clearPending g rs).sp.number = s.sp.number := rfl
@[simp] theorem clearPending_sp_regs (s : State) (g : BitVec 8) (rs : List Ref) : (s.clearPending g rs).sp.regs = s.sp.regs := rfl
@[simp] theorem clearPending_sp_trap (s : State) (g : BitVec 8) (rs : List Ref) : (s.clearPending g rs).sp.trap = s.sp.trap := rfl
@[simp] theorem clearPending_sp_privileged (s : State) (g : BitVec 8) (rs : List Ref) : (s.clearPending g rs).sp.privileged = s.sp.privileged := rfl
@[simp] theorem clearPending_sp_segs (s : State) (g : BitVec 8) (rs : List Ref) : (s.clearPending g rs).sp.segs = s.sp.segs := rfl
@[simp] theorem clearPending_sp_bindSegs (s : State) (g : BitVec 8) (rs : List Ref) : (s.clearPending g rs).sp.bindSegs = s.sp.bindSegs := rfl
@[simp] theorem clearPending_sp_spillBase (s : State) (g : BitVec 8) (rs : List Ref) : (s.clearPending g rs).sp.spillBase = s.sp.spillBase := rfl
@[simp] theorem clearPending_sp_spillSlot (s : State) (g : BitVec 8) (rs : List Ref) : (s.clearPending g rs).sp.spillSlot = s.sp.spillSlot := rfl
@[simp] theorem clearPending_sp_slices (s : State) (g : BitVec 8) (rs : List Ref) : (s.clearPending g rs).sp.slices = s.sp.slices := rfl
@[simp] theorem clearPending_sp_clauses (s : State) (g : BitVec 8) (rs : List Ref) : (s.clearPending g rs).sp.clauses = s.sp.clauses := rfl
@[simp] theorem clearPending_sp_nextClause (s : State) (g : BitVec 8) (rs : List Ref) : (s.clearPending g rs).sp.nextClause = s.sp.nextClause := rfl
@[simp] theorem clearPending_sp_flags (s : State) (g : BitVec 8) (rs : List Ref) : (s.clearPending g rs).sp.flags = s.sp.flags := rfl
@[simp] theorem clearPending_sp_held (s : State) (g : BitVec 8) (rs : List Ref) : (s.clearPending g rs).sp.held = s.sp.held := rfl
@[simp] theorem clearPending_sp_window (s : State) (g : BitVec 8) (rs : List Ref) : (s.clearPending g rs).sp.window = s.sp.window := rfl
@[simp] theorem clearPending_sp_lastTok (s : State) (g : BitVec 8) (rs : List Ref) : (s.clearPending g rs).sp.lastTok = s.sp.lastTok := rfl
@[simp] theorem clearPending_sp_cmds (s : State) (g : BitVec 8) (rs : List Ref) : (s.clearPending g rs).sp.cmds = s.sp.cmds := rfl
@[simp] theorem clearPending_sp_frame (s : State) (g : BitVec 8) (rs : List Ref) : (s.clearPending g rs).sp.frame = s.sp.frame := rfl
@[simp] theorem clearPending_sp_trapping (s : State) (g : BitVec 8) (rs : List Ref) : (s.clearPending g rs).sp.trapping = s.sp.trapping := rfl
@[simp] theorem clearPending_sp_arrivals (s : State) (g : BitVec 8) (rs : List Ref) : (s.clearPending g rs).sp.arrivals = s.sp.arrivals := rfl
@[simp] theorem clearPending_sp_regions (s : State) (g : BitVec 8) (rs : List Ref) : (s.clearPending g rs).sp.regions = s.sp.regions := rfl
@[simp] theorem clearPending_sp_regSeq (s : State) (g : BitVec 8) (rs : List Ref) : (s.clearPending g rs).sp.regSeq = s.sp.regSeq := rfl
@[simp] theorem clearPending_sp_regStart (s : State) (g : BitVec 8) (rs : List Ref) : (s.clearPending g rs).sp.regStart = s.sp.regStart := rfl
@[simp] theorem clearPending_sp_regSectors (s : State) (g : BitVec 8) (rs : List Ref) : (s.clearPending g rs).sp.regSectors = s.sp.regSectors := rfl
@[simp] theorem clearPending_sp_ending (s : State) (g : BitVec 8) (rs : List Ref) : (s.clearPending g rs).sp.ending = s.sp.ending := rfl
@[simp] theorem clearPending_sp_seqs (s : State) (g : BitVec 8) (rs : List Ref) : (s.clearPending g rs).sp.seqs = s.sp.seqs := rfl
@[simp] theorem clearPending_sp_passOver (s : State) (g : BitVec 8) (rs : List Ref) : (s.clearPending g rs).sp.passOver = s.sp.passOver := rfl
@[simp] theorem clearPending_sp_promoted (s : State) (g : BitVec 8) (rs : List Ref) : (s.clearPending g rs).sp.promoted = s.sp.promoted := rfl
@[simp] theorem clearPending_sp_live (s : State) (g : BitVec 8) (rs : List Ref) : (s.clearPending g rs).sp.live = s.sp.live := rfl

/-! ## `mapGang` -/

@[simp] theorem mapGang_rest (s : State) (f : Slice → Slice) : (s.mapGang f).rest = s.rest := rfl
@[simp] theorem mapGang_grp (s : State) (f : Slice → Slice) : (s.mapGang f).grp = s.grp := rfl
@[simp] theorem mapGang_groups (s : State) (f : Slice → Slice) : (s.mapGang f).groups = s.groups := rfl
@[simp] theorem mapGang_core (s : State) (f : Slice → Slice) : (s.mapGang f).core = s.core := rfl
@[simp] theorem mapGang_cores (s : State) (f : Slice → Slice) : (s.mapGang f).cores = s.cores := rfl
@[simp] theorem mapGang_issue (s : State) (f : Slice → Slice) : (s.mapGang f).issue = s.issue := rfl
@[simp] theorem mapGang_mem (s : State) (f : Slice → Slice) : (s.mapGang f).mem = s.mem := rfl
@[simp] theorem mapGang_memOps (s : State) (f : Slice → Slice) : (s.mapGang f).memOps = s.memOps := rfl
@[simp] theorem mapGang_slowOps (s : State) (f : Slice → Slice) : (s.mapGang f).slowOps = s.slowOps := rfl
@[simp] theorem mapGang_records (s : State) (f : Slice → Slice) : (s.mapGang f).records = s.records := rfl
@[simp] theorem mapGang_roomQ (s : State) (f : Slice → Slice) : (s.mapGang f).roomQ = s.roomQ := rfl
@[simp] theorem mapGang_saddles (s : State) (f : Slice → Slice) : (s.mapGang f).saddles = s.saddles := rfl
@[simp] theorem mapGang_monitors (s : State) (f : Slice → Slice) : (s.mapGang f).monitors = s.monitors := rfl
@[simp] theorem mapGang_starter (s : State) (f : Slice → Slice) : (s.mapGang f).starter = s.starter := rfl
@[simp] theorem mapGang_earlyDecs (s : State) (f : Slice → Slice) : (s.mapGang f).earlyDecs = s.earlyDecs := rfl
@[simp] theorem mapGang_hay (s : State) (f : Slice → Slice) : (s.mapGang f).hay = s.hay := rfl
@[simp] theorem mapGang_hayFrees (s : State) (f : Slice → Slice) : (s.mapGang f).hayFrees = s.hayFrees := rfl
@[simp] theorem mapGang_memsys (s : State) (f : Slice → Slice) : (s.mapGang f).memsys = s.memsys := rfl
@[simp] theorem mapGang_fabric (s : State) (f : Slice → Slice) : (s.mapGang f).fabric = s.fabric := rfl
@[simp] theorem mapGang_host (s : State) (f : Slice → Slice) : (s.mapGang f).host = s.host := rfl
@[simp] theorem mapGang_now (s : State) (f : Slice → Slice) : (s.mapGang f).now = s.now := rfl
@[simp] theorem mapGang_tickNs (s : State) (f : Slice → Slice) : (s.mapGang f).tickNs = s.tickNs := rfl
@[simp] theorem mapGang_fresh (s : State) (f : Slice → Slice) : (s.mapGang f).fresh = s.fresh := rfl
@[simp] theorem mapGang_nextId (s : State) (f : Slice → Slice) : (s.mapGang f).nextId = s.nextId := rfl
@[simp] theorem mapGang_agenda (s : State) (f : Slice → Slice) : (s.mapGang f).agenda = s.agenda := rfl
@[simp] theorem mapGang_settings (s : State) (f : Slice → Slice) : (s.mapGang f).settings = s.settings := rfl
@[simp] theorem mapGang_sp_id (s : State) (f : Slice → Slice) : (s.mapGang f).sp.id = s.sp.id := rfl
@[simp] theorem mapGang_sp_group (s : State) (f : Slice → Slice) : (s.mapGang f).sp.group = s.sp.group := rfl
@[simp] theorem mapGang_sp_rank (s : State) (f : Slice → Slice) : (s.mapGang f).sp.rank = s.sp.rank := rfl
@[simp] theorem mapGang_sp_number (s : State) (f : Slice → Slice) : (s.mapGang f).sp.number = s.sp.number := rfl
@[simp] theorem mapGang_sp_regs (s : State) (f : Slice → Slice) : (s.mapGang f).sp.regs = s.sp.regs := rfl
@[simp] theorem mapGang_sp_trap (s : State) (f : Slice → Slice) : (s.mapGang f).sp.trap = s.sp.trap := rfl
@[simp] theorem mapGang_sp_privileged (s : State) (f : Slice → Slice) : (s.mapGang f).sp.privileged = s.sp.privileged := rfl
@[simp] theorem mapGang_sp_segs (s : State) (f : Slice → Slice) : (s.mapGang f).sp.segs = s.sp.segs := rfl
@[simp] theorem mapGang_sp_bindSegs (s : State) (f : Slice → Slice) : (s.mapGang f).sp.bindSegs = s.sp.bindSegs := rfl
@[simp] theorem mapGang_sp_spillBase (s : State) (f : Slice → Slice) : (s.mapGang f).sp.spillBase = s.sp.spillBase := rfl
@[simp] theorem mapGang_sp_spillSlot (s : State) (f : Slice → Slice) : (s.mapGang f).sp.spillSlot = s.sp.spillSlot := rfl
@[simp] theorem mapGang_sp_clauses (s : State) (f : Slice → Slice) : (s.mapGang f).sp.clauses = s.sp.clauses := rfl
@[simp] theorem mapGang_sp_nextClause (s : State) (f : Slice → Slice) : (s.mapGang f).sp.nextClause = s.sp.nextClause := rfl
@[simp] theorem mapGang_sp_flags (s : State) (f : Slice → Slice) : (s.mapGang f).sp.flags = s.sp.flags := rfl
@[simp] theorem mapGang_sp_pend (s : State) (f : Slice → Slice) : (s.mapGang f).sp.pend = s.sp.pend := rfl
@[simp] theorem mapGang_sp_held (s : State) (f : Slice → Slice) : (s.mapGang f).sp.held = s.sp.held := rfl
@[simp] theorem mapGang_sp_window (s : State) (f : Slice → Slice) : (s.mapGang f).sp.window = s.sp.window := rfl
@[simp] theorem mapGang_sp_lastTok (s : State) (f : Slice → Slice) : (s.mapGang f).sp.lastTok = s.sp.lastTok := rfl
@[simp] theorem mapGang_sp_cmds (s : State) (f : Slice → Slice) : (s.mapGang f).sp.cmds = s.sp.cmds := rfl
@[simp] theorem mapGang_sp_frame (s : State) (f : Slice → Slice) : (s.mapGang f).sp.frame = s.sp.frame := rfl
@[simp] theorem mapGang_sp_trapping (s : State) (f : Slice → Slice) : (s.mapGang f).sp.trapping = s.sp.trapping := rfl
@[simp] theorem mapGang_sp_arrivals (s : State) (f : Slice → Slice) : (s.mapGang f).sp.arrivals = s.sp.arrivals := rfl
@[simp] theorem mapGang_sp_regions (s : State) (f : Slice → Slice) : (s.mapGang f).sp.regions = s.sp.regions := rfl
@[simp] theorem mapGang_sp_regSeq (s : State) (f : Slice → Slice) : (s.mapGang f).sp.regSeq = s.sp.regSeq := rfl
@[simp] theorem mapGang_sp_regStart (s : State) (f : Slice → Slice) : (s.mapGang f).sp.regStart = s.sp.regStart := rfl
@[simp] theorem mapGang_sp_regSectors (s : State) (f : Slice → Slice) : (s.mapGang f).sp.regSectors = s.sp.regSectors := rfl
@[simp] theorem mapGang_sp_ending (s : State) (f : Slice → Slice) : (s.mapGang f).sp.ending = s.sp.ending := rfl
@[simp] theorem mapGang_sp_seqs (s : State) (f : Slice → Slice) : (s.mapGang f).sp.seqs = s.sp.seqs := rfl
@[simp] theorem mapGang_sp_passOver (s : State) (f : Slice → Slice) : (s.mapGang f).sp.passOver = s.sp.passOver := rfl
@[simp] theorem mapGang_sp_promoted (s : State) (f : Slice → Slice) : (s.mapGang f).sp.promoted = s.sp.promoted := rfl
@[simp] theorem mapGang_sp_live (s : State) (f : Slice → Slice) : (s.mapGang f).sp.live = s.sp.live := rfl

/-! ## `stall` -/

@[simp] theorem stall_rest (s : State) : (s.stall).rest = s.rest := rfl
@[simp] theorem stall_grp (s : State) : (s.stall).grp = s.grp := rfl
@[simp] theorem stall_groups (s : State) : (s.stall).groups = s.groups := rfl
@[simp] theorem stall_core (s : State) : (s.stall).core = s.core := rfl
@[simp] theorem stall_cores (s : State) : (s.stall).cores = s.cores := rfl
@[simp] theorem stall_mem (s : State) : (s.stall).mem = s.mem := rfl
@[simp] theorem stall_memOps (s : State) : (s.stall).memOps = s.memOps := rfl
@[simp] theorem stall_slowOps (s : State) : (s.stall).slowOps = s.slowOps := rfl
@[simp] theorem stall_records (s : State) : (s.stall).records = s.records := rfl
@[simp] theorem stall_roomQ (s : State) : (s.stall).roomQ = s.roomQ := rfl
@[simp] theorem stall_saddles (s : State) : (s.stall).saddles = s.saddles := rfl
@[simp] theorem stall_monitors (s : State) : (s.stall).monitors = s.monitors := rfl
@[simp] theorem stall_starter (s : State) : (s.stall).starter = s.starter := rfl
@[simp] theorem stall_earlyDecs (s : State) : (s.stall).earlyDecs = s.earlyDecs := rfl
@[simp] theorem stall_hay (s : State) : (s.stall).hay = s.hay := rfl
@[simp] theorem stall_hayFrees (s : State) : (s.stall).hayFrees = s.hayFrees := rfl
@[simp] theorem stall_memsys (s : State) : (s.stall).memsys = s.memsys := rfl
@[simp] theorem stall_fabric (s : State) : (s.stall).fabric = s.fabric := rfl
@[simp] theorem stall_host (s : State) : (s.stall).host = s.host := rfl
@[simp] theorem stall_now (s : State) : (s.stall).now = s.now := rfl
@[simp] theorem stall_tickNs (s : State) : (s.stall).tickNs = s.tickNs := rfl
@[simp] theorem stall_fresh (s : State) : (s.stall).fresh = s.fresh := rfl
@[simp] theorem stall_nextId (s : State) : (s.stall).nextId = s.nextId := rfl
@[simp] theorem stall_agenda (s : State) : (s.stall).agenda = s.agenda := rfl
@[simp] theorem stall_settings (s : State) : (s.stall).settings = s.settings := rfl
@[simp] theorem stall_sp_id (s : State) : (s.stall).sp.id = s.sp.id := rfl
@[simp] theorem stall_sp_group (s : State) : (s.stall).sp.group = s.sp.group := rfl
@[simp] theorem stall_sp_rank (s : State) : (s.stall).sp.rank = s.sp.rank := rfl
@[simp] theorem stall_sp_number (s : State) : (s.stall).sp.number = s.sp.number := rfl
@[simp] theorem stall_sp_regs (s : State) : (s.stall).sp.regs = s.sp.regs := rfl
@[simp] theorem stall_sp_trap (s : State) : (s.stall).sp.trap = s.sp.trap := rfl
@[simp] theorem stall_sp_privileged (s : State) : (s.stall).sp.privileged = s.sp.privileged := rfl
@[simp] theorem stall_sp_segs (s : State) : (s.stall).sp.segs = s.sp.segs := rfl
@[simp] theorem stall_sp_bindSegs (s : State) : (s.stall).sp.bindSegs = s.sp.bindSegs := rfl
@[simp] theorem stall_sp_spillBase (s : State) : (s.stall).sp.spillBase = s.sp.spillBase := rfl
@[simp] theorem stall_sp_spillSlot (s : State) : (s.stall).sp.spillSlot = s.sp.spillSlot := rfl
@[simp] theorem stall_sp_clauses (s : State) : (s.stall).sp.clauses = s.sp.clauses := rfl
@[simp] theorem stall_sp_nextClause (s : State) : (s.stall).sp.nextClause = s.sp.nextClause := rfl
@[simp] theorem stall_sp_flags (s : State) : (s.stall).sp.flags = s.sp.flags := rfl
@[simp] theorem stall_sp_pend (s : State) : (s.stall).sp.pend = s.sp.pend := rfl
@[simp] theorem stall_sp_held (s : State) : (s.stall).sp.held = s.sp.held := rfl
@[simp] theorem stall_sp_window (s : State) : (s.stall).sp.window = s.sp.window := rfl
@[simp] theorem stall_sp_lastTok (s : State) : (s.stall).sp.lastTok = s.sp.lastTok := rfl
@[simp] theorem stall_sp_cmds (s : State) : (s.stall).sp.cmds = s.sp.cmds := rfl
@[simp] theorem stall_sp_frame (s : State) : (s.stall).sp.frame = s.sp.frame := rfl
@[simp] theorem stall_sp_trapping (s : State) : (s.stall).sp.trapping = s.sp.trapping := rfl
@[simp] theorem stall_sp_arrivals (s : State) : (s.stall).sp.arrivals = s.sp.arrivals := rfl
@[simp] theorem stall_sp_regions (s : State) : (s.stall).sp.regions = s.sp.regions := rfl
@[simp] theorem stall_sp_regSeq (s : State) : (s.stall).sp.regSeq = s.sp.regSeq := rfl
@[simp] theorem stall_sp_regStart (s : State) : (s.stall).sp.regStart = s.sp.regStart := rfl
@[simp] theorem stall_sp_regSectors (s : State) : (s.stall).sp.regSectors = s.sp.regSectors := rfl
@[simp] theorem stall_sp_ending (s : State) : (s.stall).sp.ending = s.sp.ending := rfl
@[simp] theorem stall_sp_seqs (s : State) : (s.stall).sp.seqs = s.sp.seqs := rfl
@[simp] theorem stall_sp_passOver (s : State) : (s.stall).sp.passOver = s.sp.passOver := rfl
@[simp] theorem stall_sp_promoted (s : State) : (s.stall).sp.promoted = s.sp.promoted := rfl
@[simp] theorem stall_sp_live (s : State) : (s.stall).sp.live = s.sp.live := rfl

/-! ## `waitIn` -/

@[simp] theorem waitIn_rest (s : State) (w : Wait) : (s.waitIn w).rest = s.rest := rfl
@[simp] theorem waitIn_grp (s : State) (w : Wait) : (s.waitIn w).grp = s.grp := rfl
@[simp] theorem waitIn_groups (s : State) (w : Wait) : (s.waitIn w).groups = s.groups := rfl
@[simp] theorem waitIn_core (s : State) (w : Wait) : (s.waitIn w).core = s.core := rfl
@[simp] theorem waitIn_cores (s : State) (w : Wait) : (s.waitIn w).cores = s.cores := rfl
@[simp] theorem waitIn_mem (s : State) (w : Wait) : (s.waitIn w).mem = s.mem := rfl
@[simp] theorem waitIn_memOps (s : State) (w : Wait) : (s.waitIn w).memOps = s.memOps := rfl
@[simp] theorem waitIn_slowOps (s : State) (w : Wait) : (s.waitIn w).slowOps = s.slowOps := rfl
@[simp] theorem waitIn_records (s : State) (w : Wait) : (s.waitIn w).records = s.records := rfl
@[simp] theorem waitIn_roomQ (s : State) (w : Wait) : (s.waitIn w).roomQ = s.roomQ := rfl
@[simp] theorem waitIn_saddles (s : State) (w : Wait) : (s.waitIn w).saddles = s.saddles := rfl
@[simp] theorem waitIn_monitors (s : State) (w : Wait) : (s.waitIn w).monitors = s.monitors := rfl
@[simp] theorem waitIn_starter (s : State) (w : Wait) : (s.waitIn w).starter = s.starter := rfl
@[simp] theorem waitIn_earlyDecs (s : State) (w : Wait) : (s.waitIn w).earlyDecs = s.earlyDecs := rfl
@[simp] theorem waitIn_hay (s : State) (w : Wait) : (s.waitIn w).hay = s.hay := rfl
@[simp] theorem waitIn_hayFrees (s : State) (w : Wait) : (s.waitIn w).hayFrees = s.hayFrees := rfl
@[simp] theorem waitIn_memsys (s : State) (w : Wait) : (s.waitIn w).memsys = s.memsys := rfl
@[simp] theorem waitIn_fabric (s : State) (w : Wait) : (s.waitIn w).fabric = s.fabric := rfl
@[simp] theorem waitIn_host (s : State) (w : Wait) : (s.waitIn w).host = s.host := rfl
@[simp] theorem waitIn_now (s : State) (w : Wait) : (s.waitIn w).now = s.now := rfl
@[simp] theorem waitIn_tickNs (s : State) (w : Wait) : (s.waitIn w).tickNs = s.tickNs := rfl
@[simp] theorem waitIn_fresh (s : State) (w : Wait) : (s.waitIn w).fresh = s.fresh := rfl
@[simp] theorem waitIn_nextId (s : State) (w : Wait) : (s.waitIn w).nextId = s.nextId := rfl
@[simp] theorem waitIn_agenda (s : State) (w : Wait) : (s.waitIn w).agenda = s.agenda := rfl
@[simp] theorem waitIn_settings (s : State) (w : Wait) : (s.waitIn w).settings = s.settings := rfl
@[simp] theorem waitIn_sp_id (s : State) (w : Wait) : (s.waitIn w).sp.id = s.sp.id := rfl
@[simp] theorem waitIn_sp_group (s : State) (w : Wait) : (s.waitIn w).sp.group = s.sp.group := rfl
@[simp] theorem waitIn_sp_rank (s : State) (w : Wait) : (s.waitIn w).sp.rank = s.sp.rank := rfl
@[simp] theorem waitIn_sp_number (s : State) (w : Wait) : (s.waitIn w).sp.number = s.sp.number := rfl
@[simp] theorem waitIn_sp_regs (s : State) (w : Wait) : (s.waitIn w).sp.regs = s.sp.regs := rfl
@[simp] theorem waitIn_sp_trap (s : State) (w : Wait) : (s.waitIn w).sp.trap = s.sp.trap := rfl
@[simp] theorem waitIn_sp_privileged (s : State) (w : Wait) : (s.waitIn w).sp.privileged = s.sp.privileged := rfl
@[simp] theorem waitIn_sp_segs (s : State) (w : Wait) : (s.waitIn w).sp.segs = s.sp.segs := rfl
@[simp] theorem waitIn_sp_bindSegs (s : State) (w : Wait) : (s.waitIn w).sp.bindSegs = s.sp.bindSegs := rfl
@[simp] theorem waitIn_sp_spillBase (s : State) (w : Wait) : (s.waitIn w).sp.spillBase = s.sp.spillBase := rfl
@[simp] theorem waitIn_sp_spillSlot (s : State) (w : Wait) : (s.waitIn w).sp.spillSlot = s.sp.spillSlot := rfl
@[simp] theorem waitIn_sp_clauses (s : State) (w : Wait) : (s.waitIn w).sp.clauses = s.sp.clauses := rfl
@[simp] theorem waitIn_sp_nextClause (s : State) (w : Wait) : (s.waitIn w).sp.nextClause = s.sp.nextClause := rfl
@[simp] theorem waitIn_sp_flags (s : State) (w : Wait) : (s.waitIn w).sp.flags = s.sp.flags := rfl
@[simp] theorem waitIn_sp_pend (s : State) (w : Wait) : (s.waitIn w).sp.pend = s.sp.pend := rfl
@[simp] theorem waitIn_sp_held (s : State) (w : Wait) : (s.waitIn w).sp.held = s.sp.held := rfl
@[simp] theorem waitIn_sp_window (s : State) (w : Wait) : (s.waitIn w).sp.window = s.sp.window := rfl
@[simp] theorem waitIn_sp_lastTok (s : State) (w : Wait) : (s.waitIn w).sp.lastTok = s.sp.lastTok := rfl
@[simp] theorem waitIn_sp_cmds (s : State) (w : Wait) : (s.waitIn w).sp.cmds = s.sp.cmds := rfl
@[simp] theorem waitIn_sp_frame (s : State) (w : Wait) : (s.waitIn w).sp.frame = s.sp.frame := rfl
@[simp] theorem waitIn_sp_trapping (s : State) (w : Wait) : (s.waitIn w).sp.trapping = s.sp.trapping := rfl
@[simp] theorem waitIn_sp_arrivals (s : State) (w : Wait) : (s.waitIn w).sp.arrivals = s.sp.arrivals := rfl
@[simp] theorem waitIn_sp_regions (s : State) (w : Wait) : (s.waitIn w).sp.regions = s.sp.regions := rfl
@[simp] theorem waitIn_sp_regSeq (s : State) (w : Wait) : (s.waitIn w).sp.regSeq = s.sp.regSeq := rfl
@[simp] theorem waitIn_sp_regStart (s : State) (w : Wait) : (s.waitIn w).sp.regStart = s.sp.regStart := rfl
@[simp] theorem waitIn_sp_regSectors (s : State) (w : Wait) : (s.waitIn w).sp.regSectors = s.sp.regSectors := rfl
@[simp] theorem waitIn_sp_ending (s : State) (w : Wait) : (s.waitIn w).sp.ending = s.sp.ending := rfl
@[simp] theorem waitIn_sp_seqs (s : State) (w : Wait) : (s.waitIn w).sp.seqs = s.sp.seqs := rfl
@[simp] theorem waitIn_sp_passOver (s : State) (w : Wait) : (s.waitIn w).sp.passOver = s.sp.passOver := rfl
@[simp] theorem waitIn_sp_promoted (s : State) (w : Wait) : (s.waitIn w).sp.promoted = s.sp.promoted := rfl
@[simp] theorem waitIn_sp_live (s : State) (w : Wait) : (s.waitIn w).sp.live = s.sp.live := rfl

/-! ## `setWait` -/

@[simp] theorem setWait_rest (s : State) (g : BitVec 8) (w : Option Wait) : (s.setWait g w).rest = s.rest := rfl
@[simp] theorem setWait_grp (s : State) (g : BitVec 8) (w : Option Wait) : (s.setWait g w).grp = s.grp := rfl
@[simp] theorem setWait_groups (s : State) (g : BitVec 8) (w : Option Wait) : (s.setWait g w).groups = s.groups := rfl
@[simp] theorem setWait_core (s : State) (g : BitVec 8) (w : Option Wait) : (s.setWait g w).core = s.core := rfl
@[simp] theorem setWait_cores (s : State) (g : BitVec 8) (w : Option Wait) : (s.setWait g w).cores = s.cores := rfl
@[simp] theorem setWait_issue (s : State) (g : BitVec 8) (w : Option Wait) : (s.setWait g w).issue = s.issue := rfl
@[simp] theorem setWait_mem (s : State) (g : BitVec 8) (w : Option Wait) : (s.setWait g w).mem = s.mem := rfl
@[simp] theorem setWait_memOps (s : State) (g : BitVec 8) (w : Option Wait) : (s.setWait g w).memOps = s.memOps := rfl
@[simp] theorem setWait_slowOps (s : State) (g : BitVec 8) (w : Option Wait) : (s.setWait g w).slowOps = s.slowOps := rfl
@[simp] theorem setWait_records (s : State) (g : BitVec 8) (w : Option Wait) : (s.setWait g w).records = s.records := rfl
@[simp] theorem setWait_roomQ (s : State) (g : BitVec 8) (w : Option Wait) : (s.setWait g w).roomQ = s.roomQ := rfl
@[simp] theorem setWait_saddles (s : State) (g : BitVec 8) (w : Option Wait) : (s.setWait g w).saddles = s.saddles := rfl
@[simp] theorem setWait_monitors (s : State) (g : BitVec 8) (w : Option Wait) : (s.setWait g w).monitors = s.monitors := rfl
@[simp] theorem setWait_starter (s : State) (g : BitVec 8) (w : Option Wait) : (s.setWait g w).starter = s.starter := rfl
@[simp] theorem setWait_earlyDecs (s : State) (g : BitVec 8) (w : Option Wait) : (s.setWait g w).earlyDecs = s.earlyDecs := rfl
@[simp] theorem setWait_hay (s : State) (g : BitVec 8) (w : Option Wait) : (s.setWait g w).hay = s.hay := rfl
@[simp] theorem setWait_hayFrees (s : State) (g : BitVec 8) (w : Option Wait) : (s.setWait g w).hayFrees = s.hayFrees := rfl
@[simp] theorem setWait_memsys (s : State) (g : BitVec 8) (w : Option Wait) : (s.setWait g w).memsys = s.memsys := rfl
@[simp] theorem setWait_fabric (s : State) (g : BitVec 8) (w : Option Wait) : (s.setWait g w).fabric = s.fabric := rfl
@[simp] theorem setWait_host (s : State) (g : BitVec 8) (w : Option Wait) : (s.setWait g w).host = s.host := rfl
@[simp] theorem setWait_now (s : State) (g : BitVec 8) (w : Option Wait) : (s.setWait g w).now = s.now := rfl
@[simp] theorem setWait_tickNs (s : State) (g : BitVec 8) (w : Option Wait) : (s.setWait g w).tickNs = s.tickNs := rfl
@[simp] theorem setWait_fresh (s : State) (g : BitVec 8) (w : Option Wait) : (s.setWait g w).fresh = s.fresh := rfl
@[simp] theorem setWait_nextId (s : State) (g : BitVec 8) (w : Option Wait) : (s.setWait g w).nextId = s.nextId := rfl
@[simp] theorem setWait_agenda (s : State) (g : BitVec 8) (w : Option Wait) : (s.setWait g w).agenda = s.agenda := rfl
@[simp] theorem setWait_settings (s : State) (g : BitVec 8) (w : Option Wait) : (s.setWait g w).settings = s.settings := rfl
@[simp] theorem setWait_sp_id (s : State) (g : BitVec 8) (w : Option Wait) : (s.setWait g w).sp.id = s.sp.id := rfl
@[simp] theorem setWait_sp_group (s : State) (g : BitVec 8) (w : Option Wait) : (s.setWait g w).sp.group = s.sp.group := rfl
@[simp] theorem setWait_sp_rank (s : State) (g : BitVec 8) (w : Option Wait) : (s.setWait g w).sp.rank = s.sp.rank := rfl
@[simp] theorem setWait_sp_number (s : State) (g : BitVec 8) (w : Option Wait) : (s.setWait g w).sp.number = s.sp.number := rfl
@[simp] theorem setWait_sp_regs (s : State) (g : BitVec 8) (w : Option Wait) : (s.setWait g w).sp.regs = s.sp.regs := rfl
@[simp] theorem setWait_sp_trap (s : State) (g : BitVec 8) (w : Option Wait) : (s.setWait g w).sp.trap = s.sp.trap := rfl
@[simp] theorem setWait_sp_privileged (s : State) (g : BitVec 8) (w : Option Wait) : (s.setWait g w).sp.privileged = s.sp.privileged := rfl
@[simp] theorem setWait_sp_segs (s : State) (g : BitVec 8) (w : Option Wait) : (s.setWait g w).sp.segs = s.sp.segs := rfl
@[simp] theorem setWait_sp_bindSegs (s : State) (g : BitVec 8) (w : Option Wait) : (s.setWait g w).sp.bindSegs = s.sp.bindSegs := rfl
@[simp] theorem setWait_sp_spillBase (s : State) (g : BitVec 8) (w : Option Wait) : (s.setWait g w).sp.spillBase = s.sp.spillBase := rfl
@[simp] theorem setWait_sp_spillSlot (s : State) (g : BitVec 8) (w : Option Wait) : (s.setWait g w).sp.spillSlot = s.sp.spillSlot := rfl
@[simp] theorem setWait_sp_clauses (s : State) (g : BitVec 8) (w : Option Wait) : (s.setWait g w).sp.clauses = s.sp.clauses := rfl
@[simp] theorem setWait_sp_nextClause (s : State) (g : BitVec 8) (w : Option Wait) : (s.setWait g w).sp.nextClause = s.sp.nextClause := rfl
@[simp] theorem setWait_sp_flags (s : State) (g : BitVec 8) (w : Option Wait) : (s.setWait g w).sp.flags = s.sp.flags := rfl
@[simp] theorem setWait_sp_pend (s : State) (g : BitVec 8) (w : Option Wait) : (s.setWait g w).sp.pend = s.sp.pend := rfl
@[simp] theorem setWait_sp_held (s : State) (g : BitVec 8) (w : Option Wait) : (s.setWait g w).sp.held = s.sp.held := rfl
@[simp] theorem setWait_sp_window (s : State) (g : BitVec 8) (w : Option Wait) : (s.setWait g w).sp.window = s.sp.window := rfl
@[simp] theorem setWait_sp_lastTok (s : State) (g : BitVec 8) (w : Option Wait) : (s.setWait g w).sp.lastTok = s.sp.lastTok := rfl
@[simp] theorem setWait_sp_cmds (s : State) (g : BitVec 8) (w : Option Wait) : (s.setWait g w).sp.cmds = s.sp.cmds := rfl
@[simp] theorem setWait_sp_frame (s : State) (g : BitVec 8) (w : Option Wait) : (s.setWait g w).sp.frame = s.sp.frame := rfl
@[simp] theorem setWait_sp_trapping (s : State) (g : BitVec 8) (w : Option Wait) : (s.setWait g w).sp.trapping = s.sp.trapping := rfl
@[simp] theorem setWait_sp_arrivals (s : State) (g : BitVec 8) (w : Option Wait) : (s.setWait g w).sp.arrivals = s.sp.arrivals := rfl
@[simp] theorem setWait_sp_regions (s : State) (g : BitVec 8) (w : Option Wait) : (s.setWait g w).sp.regions = s.sp.regions := rfl
@[simp] theorem setWait_sp_regSeq (s : State) (g : BitVec 8) (w : Option Wait) : (s.setWait g w).sp.regSeq = s.sp.regSeq := rfl
@[simp] theorem setWait_sp_regStart (s : State) (g : BitVec 8) (w : Option Wait) : (s.setWait g w).sp.regStart = s.sp.regStart := rfl
@[simp] theorem setWait_sp_regSectors (s : State) (g : BitVec 8) (w : Option Wait) : (s.setWait g w).sp.regSectors = s.sp.regSectors := rfl
@[simp] theorem setWait_sp_ending (s : State) (g : BitVec 8) (w : Option Wait) : (s.setWait g w).sp.ending = s.sp.ending := rfl
@[simp] theorem setWait_sp_seqs (s : State) (g : BitVec 8) (w : Option Wait) : (s.setWait g w).sp.seqs = s.sp.seqs := rfl
@[simp] theorem setWait_sp_passOver (s : State) (g : BitVec 8) (w : Option Wait) : (s.setWait g w).sp.passOver = s.sp.passOver := rfl
@[simp] theorem setWait_sp_promoted (s : State) (g : BitVec 8) (w : Option Wait) : (s.setWait g w).sp.promoted = s.sp.promoted := rfl
@[simp] theorem setWait_sp_live (s : State) (g : BitVec 8) (w : Option Wait) : (s.setWait g w).sp.live = s.sp.live := rfl

/-! ## The values written -/

theorem filter_of_empty {α : Type} (l : List α) (p : α → Bool) (h : l.isEmpty = true) : l.filter p = l := by
  cases l with
  | nil => rfl
  | cons => cases h

/-- `ws` as a record update. -/
theorem ws_eq (s : State) (n : RegNo) (x : DWord) :
    s.ws n x = { s with sp := { s.sp with
      regs := { s.sp.regs with s := s.sp.regs.s.set n.toNat x n.isLt },
      held := s.sp.held.filter fun h => h.by_ != .reg (.scalar n) } } := by
  unfold State.ws Span.cure
  split
  · rename_i h
    rw [filter_of_empty _ _ h]
  · rfl

@[simp] theorem ws_s (s : State) (n : RegNo) (x : DWord) :
    (s.ws n x).sp.regs.s = s.sp.regs.s.set n.toNat x n.isLt := by rw [ws_eq]

@[simp] theorem wtag_tag (s : State) (n : RegNo) (x : Tag) :
    (s.wtag n x).sp.regs.tag = s.sp.regs.tag.set n.toNat x n.isLt := rfl

@[simp] theorem wstatus_status (s : State) (x : DWord) : (s.wstatus x).sp.regs.status = x := rfl

@[simp] theorem wv_v (s : State) (n : RegNo) (w : LaneMask) (f : Nat → Word) :
    (s.wv n w f).sp.regs.v = s.sp.regs.v.set n.toNat
      (lanesOf fun i => if bitOn w i then f i else laneAt (s.sp.regs.v[n.toNat]'n.isLt) i) n.isLt := by
  unfold State.wv Span.cureLanes
  dsimp only
  split <;> rfl

/-- A lane of a vector built from a function. -/
@[simp] theorem laneAt_lanesOf (f : Nat → Word) (i : Nat) (h : i < 32) : laneAt (lanesOf f) i = f i := by
  unfold laneAt lanesOf
  simp [Array.getD, h]

/-- Writes of m0 are discarded (R13). -/
theorem wm_zero (s : State) (x : LaneMask) : s.wm 0 x = s := rfl

/-- m0 reads all ones (R13). -/
theorem rm_zero (s : State) : s.rm 0 = BitVec.allOnes 32 := rfl

end Sys2Proof.Laws
end

