-- ==== Sys2Proof/Laws/Lanes.lean ====
section
/-!
SUPPORT. What issuing an instruction and writing lanes, pairs and mask registers do, once for all instructions.
-/

namespace Sys2Proof.Laws

open Sys2Proof Sys2Proof.Machine

/-! ## Issue -/

/-- A clear word has its own effect. -/
theorem issue1_clear {s : State} {i : Instr} (eff : State → State) (h : s.clear i) :
    s.issue1 i eff = .next (eff s) := by
  obtain ⟨h1, h2, h3⟩ := h
  unfold State.issue1 State.issued
  rw [h1, h2]
  cases hg : gangLast i
  · simp
  · simp [h3 hg]

/-- A word always answers a next state. -/
theorem issue1_next (s : State) (i : Instr) (eff : State → State) : ∃ t, s.issue1 i eff = .next t := ⟨_, rfl⟩

/-! ## Lanes -/

theorem next_ne (n : RegNo) : next n ≠ n := by
  unfold next
  intro h
  have := congrArg BitVec.toNat h
  rw [BitVec.toNat_add] at this
  simp at this
  omega

theorem toNat_ne {m n : RegNo} (h : m ≠ n) : n.toNat ≠ m.toNat := fun e => h (BitVec.eq_of_toNat_eq e.symm)

/-- Lanes written by `wv`. -/
theorem wv_lane (s : State) (d : RegNo) (w : LaneMask) (f : Nat → Word) (i : Nat) (h : i < 32) :
    (s.wv d w f).lane d i = if bitOn w i then f i else s.lane d i := by
  unfold State.lane
  simp only [wv_v, Vector.getElem_set_self]
  rw [laneAt_lanesOf _ _ h]

/-- Other registers stay. -/
theorem wv_other (s : State) (d n : RegNo) (w : LaneMask) (f : Nat → Word) (h : n ≠ d) :
    (s.wv d w f).sp.regs.v[n.toNat]'n.isLt = s.sp.regs.v[n.toNat]'n.isLt := by
  simp only [wv_v]
  exact Vector.getElem_set_ne _ _ (toNat_ne h)

/-- The poison that `wv` removes is of its register. -/
theorem wv_held (s : State) (d : RegNo) (w : LaneMask) (f : Nat → Word) :
    (∀ h ∈ (s.wv d w f).sp.held, h ∈ s.sp.held) ∧
    (∀ h ∈ s.sp.held, h ∈ (s.wv d w f).sp.held ∨ ∃ j, h.by_ = .reg (.vec d j)) := by
  unfold State.wv Span.cureLanes
  dsimp only
  split
  · exact ⟨fun _ h => h, fun _ h => .inl h⟩
  · refine ⟨fun _ h => (List.mem_filter.mp h).1, fun h hm => ?_⟩
    by_cases hp : (match h.by_ with
        | .reg (.vec m j) => !(m == d && (List.range 4).all fun k => bitOn w (4 * j.val + k))
        | _ => true) = true
    · exact .inl (List.mem_filter.mpr ⟨hm, hp⟩)
    · right
      revert hp
      split
      · rename_i m j he
        intro hp
        simp only [Bool.not_eq_true, Bool.not_eq_false', Bool.and_eq_true, beq_iff_eq] at hp
        exact ⟨j, by rw [he, hp.1]⟩
      · intro hp; exact absurd rfl hp

theorem onlyVectors_refl (s : State) (ds : List RegNo) : OnlyVectors s s ds :=
  ⟨⟨_, _, _, _, rfl⟩, fun _ _ => ⟨rfl, rfl⟩, fun _ h => h, fun _ h => .inl h⟩

theorem onlyVectors_trans {s t u : State} {ds es : List RegNo} (h1 : OnlyVectors s t ds) (h2 : OnlyVectors t u es) :
    OnlyVectors s u (ds ++ es) := by
  obtain ⟨⟨v, tag, held, st, e1⟩, r1, a1, b1⟩ := h1
  obtain ⟨⟨v', tag', held', st', e2⟩, r2, a2, b2⟩ := h2
  refine ⟨⟨v', tag', held', st', ?_⟩, fun n hn => ?_, fun h hm => a1 h (a2 h hm), fun h hm => ?_⟩
  · rw [e2, e1]
  · rw [List.mem_append, not_or] at hn
    exact ⟨(r2 n hn.2).1.trans (r1 n hn.1).1, (r2 n hn.2).2.trans (r1 n hn.1).2⟩
  · rcases b1 h hm with hm' | ⟨n, hn, j, e⟩
    · rcases b2 h hm' with hm'' | ⟨n, hn, j, e⟩
      · exact .inl hm''
      · exact .inr ⟨n, List.mem_append.mpr (.inr hn), j, e⟩
    · exact .inr ⟨n, List.mem_append.mpr (.inl hn), j, e⟩

theorem onlyVectors_wv (s : State) (d : RegNo) (w : LaneMask) (f : Nat → Word) : OnlyVectors s (s.wv d w f) [d] := by
  refine ⟨⟨(s.wv d w f).sp.regs.v, s.sp.regs.tag, (s.wv d w f).sp.held, s.sp.regs.status, ?_⟩, fun n hn => ?_,
    (wv_held s d w f).1, fun h hm => ?_⟩
  · unfold State.wv Span.cureLanes
    dsimp only
    split <;> rfl
  · exact ⟨wv_other s d n w f (by simpa using hn), by rw [wv_sp_regs_tag]⟩
  · rcases (wv_held s d w f).2 h hm with h' | ⟨j, e⟩
    · exact .inl h'
    · exact .inr ⟨d, by simp, j, e⟩

theorem onlyVectors_wtag (s : State) (d : RegNo) (x : Tag) : OnlyVectors s (s.wtag d x) [d] := by
  refine ⟨⟨_, _, _, _, rfl⟩, fun n hn => ⟨rfl, ?_⟩, fun _ h => h, fun _ h => .inl h⟩
  rw [wtag_tag]
  exact Vector.getElem_set_ne _ _ (toNat_ne (by simpa using hn))

theorem onlyVectors_wstatus (s : State) (x : DWord) : OnlyVectors s (s.wstatus x) [] :=
  ⟨⟨_, _, _, _, rfl⟩, fun _ _ => ⟨rfl, rfl⟩, fun _ h => h, fun _ h => .inl h⟩

/-- Only the members of the list count. -/
theorem onlyVectors_mono {s t : State} {ds es : List RegNo} (h : OnlyVectors s t ds) (sub : ∀ n ∈ ds, n ∈ es) :
    OnlyVectors s t es := by
  obtain ⟨e, r, a, b⟩ := h
  refine ⟨e, fun n hn => r n fun m => hn (sub n m), a, fun h hm => ?_⟩
  rcases b h hm with h' | ⟨n, hn, j, e⟩
  · exact .inl h'
  · exact .inr ⟨n, sub n hn, j, e⟩

/-- What writes only vector registers leaves the gang's lanes. -/
theorem onlyVectors_enabled {s t : State} {ds : List RegNo} (h : OnlyVectors s t ds) : t.enabled = s.enabled := by
  obtain ⟨⟨v, tag, held, st, e⟩, -⟩ := h
  rw [e]; rfl

/-- The write of R227: only V(d), its tag and its poison. -/
theorem putLanes_only (s : State) (d : RegNo) (sel : LaneMask) (z : Bool) (f : Nat → Word) :
    OnlyVectors s (s.putLanes d sel z f) [d] := by
  unfold State.putLanes
  exact onlyVectors_mono (onlyVectors_trans (onlyVectors_wv _ _ _ _) (onlyVectors_wtag _ _ _)) (by simp)

/-- The write of R227: the values, when the selected lanes are enabled. -/
theorem putLanes_lanes (s : State) (d : RegNo) (sel : LaneMask) (z : Bool) (f : Nat → Word)
    (sub : ∀ i, bitOn sel i = true → bitOn s.enabled i = true) : LanesAre s (s.putLanes d sel z f) d sel z f := by
  refine ⟨fun i hi => ?_, ?_⟩
  · unfold State.putLanes
    show (s.wv d _ _).lane d i = _
    rw [wv_lane _ _ _ _ _ hi]
    cases z
    · by_cases h : bitOn sel i <;> simp [h]
    · by_cases h : bitOn sel i
      · simp [h, sub i h]
      · simp [h]
  · unfold State.putLanes
    simp [zeroTag]

/-- Selected lanes are enabled. -/
theorem selected_enabled (s : State) (p : Option Pre) (i : Nat) (h : bitOn (s.selected p) i = true) :
    bitOn s.enabled i = true := by
  unfold State.selected bitOn at h
  rw [BitVec.getLsbD_and, Bool.and_eq_true] at h
  exact h.1

/-- Lanes that another register's write has set stay. -/
theorem lanesAre_after {s t u : State} {d : RegNo} {ds : List RegNo} {sel : LaneMask} {z : Bool} {f : Nat → Word}
    (h : LanesAre s t d sel z f) (k : OnlyVectors t u ds) (hd : d ∉ ds) : LanesAre s u d sel z f := by
  obtain ⟨a, b⟩ := h
  have e := k.2.1 d hd
  refine ⟨fun i hi => ?_, ?_⟩
  · rw [← a i hi]
    unfold State.lane
    rw [e.1]
  · rw [e.2, b]

/-- Lanes written after another register's write are as if written at first. -/
theorem lanesAre_before {s t u : State} {d : RegNo} {ds : List RegNo} {sel : LaneMask} {z : Bool} {f : Nat → Word}
    (k : OnlyVectors s t ds) (h : LanesAre t u d sel z f) (hd : d ∉ ds) : LanesAre s u d sel z f := by
  obtain ⟨a, b⟩ := h
  refine ⟨fun i hi => ?_, b⟩
  rw [a i hi, onlyVectors_enabled k]
  unfold State.lane
  rw [(k.2.1 d hd).1]

/-- A pair: only its two registers. -/
theorem putPair_only (s : State) (d : RegNo) (sel : LaneMask) (z : Bool) (f : Nat → Nat) :
    OnlyVectors s (s.putPair d sel z f) [d, next d] := by
  unfold State.putPair
  exact onlyVectors_trans (putLanes_only _ _ _ _ _) (putLanes_only _ _ _ _ _)

/-- A pair: its values. -/
theorem putPair_lanes (s : State) (d : RegNo) (sel : LaneMask) (z : Bool) (f : Nat → Nat)
    (sub : ∀ i, bitOn sel i = true → bitOn s.enabled i = true) : PairsAre s (s.putPair d sel z f) d sel z f := by
  have k := putLanes_only s d sel z fun i => BitVec.ofNat 32 (f i)
  have nd : d ∉ [next d] := by simpa using (next_ne d).symm
  have dn : next d ∉ [d] := by simpa using next_ne d
  refine ⟨lanesAre_after (putLanes_lanes s d sel z _ sub) (putLanes_only _ _ _ _ _) nd,
    lanesAre_before k (putLanes_lanes _ _ _ _ _ ?_) dn⟩
  intro i hi
  rw [onlyVectors_enabled k]
  exact sub i hi

/-- Lanes and STATUS. -/
theorem lanesAre_status {s t : State} {d : RegNo} {sel : LaneMask} {z : Bool} {f : Nat → Word} (x : DWord)
    (h : LanesAre s t d sel z f) : LanesAre s (t.wstatus x) d sel z f := h

/-! ## Masks -/

theorem testBit_foldl (f : Nat → Bool) (n i : Nat) :
    ((List.range n).foldl (fun a j => if f j then a + 2 ^ j else a) 0).testBit i = (decide (i < n) && f i) ∧
      (List.range n).foldl (fun a j => if f j then a + 2 ^ j else a) 0 < 2 ^ n := by
  induction n with
  | zero => simp
  | succ n ih =>
    rw [List.range_succ, List.foldl_append, List.foldl_cons, List.foldl_nil]
    generalize (List.range n).foldl (fun a j => if f j then a + 2 ^ j else a) 0 = x at ih
    obtain ⟨hb, hlt⟩ := ih
    have e : 2 ^ (n + 1) = 2 ^ n + 2 ^ n := by rw [Nat.pow_succ]; omega
    by_cases hf : f n = true
    · rw [if_pos hf]
      refine ⟨?_, by omega⟩
      have hm := Nat.testBit_two_pow_mul_add 1 hlt i
      rw [Nat.mul_one] at hm
      rw [Nat.add_comm, hm]
      by_cases h : i < n
      · rw [if_pos h, hb]
        have h' : i < n + 1 := by omega
        simp [h, h']
      · rw [if_neg h]
        by_cases h2 : i = n
        · subst h2; simp [hf]
        · have h3 : ¬i < n + 1 := by omega
          have h4 : (1 : Nat).testBit (i - n) = false := Nat.testBit_lt_two_pow (by
            calc 1 < 2 ^ 1 := by decide
              _ ≤ 2 ^ (i - n) := Nat.pow_le_pow_right (by decide) (by omega))
          simp [h3, h4]
    · rw [if_neg hf]
      refine ⟨?_, by omega⟩
      rw [hb]
      by_cases h : i = n
      · subst h; simp [hf]
      · have h' : i < n + 1 ↔ i < n := by omega
        rw [decide_eq_decide.mpr h']

/-- An element of a vector of which one is replaced. -/
theorem vecAt_vecPut {α : Type} {n : Nat} (v : Vector α n) (i j : Nat) (x d : α) (h : i < n) :
    vecAt (vecPut v i x) j d = if j = i then x else vecAt v j d := by
  unfold vecAt vecPut
  by_cases e : j = i
  · subst e; simp [Array.getD, h]
  · have e' : ¬i = j := fun h => e h.symm
    by_cases hj : j < n
    · simp [Array.getD, hj, e, e']
    · simp [Array.getD, hj, e]

/-- A bit of a mask built from a function. -/
theorem bitOn_maskOf (n : Nat) (f : Nat → Bool) (i : Nat) (h : i < n) : bitOn (maskOf n f) i = f i := by
  unfold bitOn maskOf
  rw [BitVec.getLsbD_ofNat, (testBit_foldl f n i).1]
  simp [h]

/-- A masked write of a mask register. -/
theorem putMask_is (s : State) (m : RegNo) (sel : LaneMask) (z : Bool) (f : Nat → Bool) : MaskIs s (s.putMask m sel z f) m sel z f := by
  unfold State.putMask State.wm
  dsimp only
  split
  · rename_i h0
    exact ⟨⟨_, _, rfl⟩, fun _ _ _ => rfl, fun h => absurd h0 (by omega)⟩
  · rename_i h0
    refine ⟨⟨_, _, rfl⟩, fun n hn hm => ?_, fun _ h16 i hi => ?_⟩
    · show vecAt (vecPut _ _ _) n 0 = _
      unfold vecPut vecAt
      rcases hm with e | e
      · subst e
        have : ¬m.toNat = 0 := h0
        simp [this]
      · have e' : ¬m.toNat = n := fun h => e h.symm
        simp [Array.getD, hn, e']
    · show bitOn (vecAt (vecPut _ _ _) m.toNat 0) i = _
      rw [vecAt_vecPut _ _ _ _ _ h16, if_pos rfl, bitOn_maskOf _ _ _ hi]

/-! ## Elements -/

/-- The general rule of class 2 (R241). -/
theorem elems_are (s : State) (p : Option Pre) (ty : BitVec 3) (d : RegNo) (x : Nat → Nat → Int) :
    IntegersAre s (s.elems p ty d x) p ty d x := by
  have sub := selected_enabled s p
  unfold State.elems
  dsimp only
  generalize hu : (if (ty == 2) = true then
    s.putPair d (s.selected p) (preOf p).z fun i => packElems ty fun k => elemNarrow ty (preOf p).sat (x i k)
    else s.putLanes d (s.selected p) (preOf p).z fun i =>
      BitVec.ofNat 32 (packElems ty fun k => elemNarrow ty (preOf p).sat (x i k))) = u
  have ho : OnlyVectors s u (if ty = 2 then [d, next d] else [d]) := by
    rw [← hu]
    by_cases e : ty = 2
    · simp only [e, beq_self_eq_true, if_true]
      exact putPair_only _ _ _ _ _
    · have e' : (ty == 2) = false := by simpa using e
      simp only [e', e, if_false, Bool.false_eq_true]
      exact putLanes_only _ _ _ _ _
  have hs : u.sp.regs.status = s.sp.regs.status := by
    rw [← hu]
    unfold State.putPair State.putLanes
    split <;> simp
  have hl : if ty = 2 then
        PairsAre s u d (s.selected p) (preOf p).z fun i => packElems ty fun k => elemNarrow ty (preOf p).sat (x i k)
      else
        LanesAre s u d (s.selected p) (preOf p).z fun i =>
          BitVec.ofNat 32 (packElems ty fun k => elemNarrow ty (preOf p).sat (x i k)) := by
    rw [← hu]
    by_cases e : ty = 2
    · simp only [e, beq_self_eq_true, if_true]
      exact putPair_lanes _ _ _ _ _ sub
    · have e' : (ty == 2) = false := by simpa using e
      simp only [e', e, if_false, Bool.false_eq_true]
      exact putLanes_lanes _ _ _ _ _ sub
  generalize hb : ((positions 32 (bitOn (s.selected p))).any fun i =>
    (List.range (elemN ty)).any fun k => elemOut ty (x i k)) = b
  have hb' : b = true ↔ ∃ i, i < 32 ∧ bitOn (s.selected p) i = true ∧ ∃ k, k < elemN ty ∧ elemOut ty (x i k) = true := by
    rw [← hb]
    simp only [List.any_eq_true, positions, List.mem_filter, List.mem_range, and_assoc]
  unfold State.setSat
  cases hb2 : ((preOf p).sat && b)
  · simp only [Bool.false_eq_true, if_false]
    refine ⟨ho, hl, fun hs1 hex => ?_, fun _ => hs⟩
    rw [hs1, hb'.mpr hex] at hb2
    exact absurd hb2 (by decide)
  · simp only [if_true]
    rw [Bool.and_eq_true] at hb2
    refine ⟨?_, ?_, fun _ _ => ?_, fun hno => ?_⟩
    · have := onlyVectors_trans ho (onlyVectors_wstatus u (statusOr u.sp.regs.status { FFlags.none with sat := true }))
      exact onlyVectors_mono this (by simp)
    · by_cases e : ty = 2
      · simp only [e, if_true] at hl ⊢
        exact hl
      · simp only [e, if_false] at hl ⊢
        exact hl
    · rw [wstatus_status, hs]
      unfold statusOr
      simp [FFlags.bits, FFlags.none]
    · rcases hno with h | h
      · rw [hb2.1] at h; cases h
      · obtain ⟨i, hi, hsel, k, hk, ho⟩ := hb'.mp hb2.2
        rw [h i hi hsel k hk] at ho
        cases ho

/-- The general rule of class 3 when no enabled flag would be set (R226, R227). -/
theorem fpElems_are (s : State) (p : Option Pre) (ty : BitVec 3) (d : RegNo) (f : Nat → Nat → Nat × FFlags)
    (h : NoFloatTrap s p ty f) : FloatsAre s (s.fpElems p ty d f) p ty d f := by
  have sub := selected_enabled s p
  unfold State.fpElems State.withFlags
  dsimp only
  rw [if_neg (by
    have h' := h
    unfold NoFloatTrap flagsOver elemFlags at h'
    rw [h']; decide)]
  generalize hu : (if (ty == 0) = true then s.putPair d (s.selected p) (preOf p).z fun i => (f i 0).1
    else s.putLanes d (s.selected p) (preOf p).z fun i => BitVec.ofNat 32 (fpPack ty fun k => (f i k).1)) = u
  have ho : OnlyVectors s u (if ty = 0 then [d, next d] else [d]) := by
    rw [← hu]
    by_cases e : ty = 0
    · simp only [e, beq_self_eq_true, if_true]
      exact putPair_only _ _ _ _ _
    · have e' : (ty == 0) = false := by simpa using e
      simp only [e', e, if_false, Bool.false_eq_true]
      exact putLanes_only _ _ _ _ _
  have hs : u.sp.regs.status = s.sp.regs.status := by
    rw [← hu]
    unfold State.putPair State.putLanes
    split <;> simp
  refine ⟨?_, ?_, ?_⟩
  · have := onlyVectors_trans ho (onlyVectors_wstatus u
      (statusOr u.sp.regs.status (flagsOver (s.selected p) (elemFlags ty f))))
    exact onlyVectors_mono this (by simp)
  · rw [← hu]
    by_cases e : ty = 0
    · simp only [e, beq_self_eq_true, if_true]
      exact putPair_lanes _ _ _ _ _ sub
    · have e' : (ty == 0) = false := by simpa using e
      simp only [e', e, if_false, Bool.false_eq_true]
      exact putLanes_lanes _ _ _ _ _ sub
  · show statusOr u.sp.regs.status _ = _
    rw [hs]
    rfl

/-! ## From an effect to what the statements say -/

/-- An instruction whose effect has a property. -/
theorem does_of {s : State} {i : Instr} {P : State → Prop} (eff : State → State) (e : exec i s = s.issue1 i eff)
    (h : P (eff s)) : s.Does i P := fun hc => ⟨eff s, by rw [e, issue1_clear _ hc], h⟩

/-- An instruction whose effect is elements of class 2. -/
theorem does_int {s : State} {i : Instr} {p : Option Pre} {ty : BitVec 3} {d : RegNo} (x y : Nat → Nat → Int)
    (eff : State → State) (e : exec i s = s.issue1 i eff) (e2 : eff s = s.elems p ty d x) (h : ∀ i k, x i k = y i k) :
    s.DoesInt i p ty d y := by
  have hxy : x = y := funext fun i => funext fun k => h i k
  subst hxy
  exact does_of eff e (by rw [e2]; exact elems_are _ _ _ _ _)

/-- An instruction whose effect is elements of class 3. -/
theorem does_float {s : State} {i : Instr} {p : Option Pre} {ty : BitVec 3} {d : RegNo} (f g : Nat → Nat → Nat × FFlags)
    (eff : State → State) (e : exec i s = s.issue1 i eff) (e2 : eff s = s.fpElems p ty d f) (h : ∀ i k, f i k = g i k) :
    s.DoesFloat i p ty d g := by
  have hfg : f = g := funext fun i => funext fun k => h i k
  subst hfg
  exact fun hc hn => ⟨eff s, by rw [e, issue1_clear _ hc], by rw [e2]; exact fpElems_are _ _ _ _ _ hn⟩

theorem putMask_status (s : State) (m : RegNo) (sel : LaneMask) (z : Bool) (f : Nat → Bool) :
    (s.putMask m sel z f).sp.regs.status = s.sp.regs.status := by
  unfold State.putMask
  simp

/-- An instruction whose effect is a mask register. -/
theorem does_mask {s : State} {i : Instr} {p : Option Pre} {m : RegNo} {f : Nat → Prop} (g : Nat → Bool)
    (eff : State → State) (e : exec i s = s.issue1 i eff)
    (e2 : eff s = s.putMask m (s.selected p) (preOf p).z g) (h : ∀ j, g j = true ↔ f j) : s.DoesMask i p m f :=
  does_of eff e ⟨by rw [e2]; exact putMask_status _ _ _ _ _, g, by rw [e2]; exact putMask_is _ _ _ _ _, h⟩

end Sys2Proof.Laws
end

