-- ==== Sys2Proof/Laws/Memory.lean ====
section
/-!
SUPPORT. Memory: reading after writing, bytes that a write leaves alone, and the canonical form that every memory
operation keeps.
-/

namespace Sys2Proof.Laws

open Sys2Proof Sys2Proof.Machine

/-! ## One byte -/

theorem wfAbove_mono {m : Memory} {lo hi : Nat} (h : Memory.wfAbove m hi = true) (le : lo ≤ hi) :
    Memory.wfAbove m lo = true := by
  cases m with
  | nil => rfl
  | cons c t =>
    obtain ⟨k, b⟩ := c
    simp only [Memory.wfAbove, Bool.and_eq_true, decide_eq_true_eq] at h ⊢
    exact ⟨⟨by omega, h.1.2⟩, h.2⟩

/-- Below a memory's first key everything is unwritten. -/
theorem get_below {m : Memory} {lo a : Nat} (h : Memory.wfAbove m lo = true) (lt : a < lo) :
    Memory.get m a = unwritten := by
  cases m with
  | nil => rfl
  | cons c t =>
    obtain ⟨k, b⟩ := c
    simp only [Memory.wfAbove, Bool.and_eq_true, decide_eq_true_eq] at h
    have : a < k := by omega
    simp only [Memory.get]
    rw [if_neg (by omega), if_pos this]

theorem set_wfAbove {m : Memory} {lo a : Nat} (x : Byte) (h : Memory.wfAbove m lo = true) (le : lo ≤ a) :
    Memory.wfAbove (Memory.set m a x) lo = true := by
  induction m generalizing lo with
  | nil =>
    simp only [Memory.set]
    split <;> simp_all [Memory.wfAbove]
  | cons c t ih =>
    obtain ⟨k, b⟩ := c
    simp only [Memory.wfAbove, Bool.and_eq_true, decide_eq_true_eq] at h
    simp only [Memory.set]
    split
    · simp only [Memory.wfAbove, Bool.and_eq_true, decide_eq_true_eq]
      exact ⟨h.1, ih h.2 (by omega)⟩
    · split
      · split
        · exact wfAbove_mono h.2 (by omega)
        · rename_i e nz
          subst e
          simp only [Memory.wfAbove, Bool.and_eq_true, decide_eq_true_eq]
          exact ⟨⟨h.1.1, by simpa using nz⟩, h.2⟩
      · split
        · simp only [Memory.wfAbove, Bool.and_eq_true, decide_eq_true_eq]
          exact h
        · rename_i nz
          simp only [Memory.wfAbove, Bool.and_eq_true, decide_eq_true_eq]
          exact ⟨⟨le, by simpa using nz⟩, ⟨by omega, h.1.2⟩, h.2⟩

/-- Writing a byte keeps the canonical form. -/
theorem set_wf {m : Memory} (a : Nat) (x : Byte) (h : m.wf = true) : (Memory.set m a x).wf = true :=
  set_wfAbove x h (Nat.zero_le a)

/-- A byte reads as it was written. -/
theorem get_set_same {m : Memory} {lo : Nat} (a : Nat) (x : Byte) (h : Memory.wfAbove m lo = true) :
    Memory.get (Memory.set m a x) a = x := by
  induction m generalizing lo with
  | nil => simp only [Memory.set]; split <;> simp_all [Memory.get]
  | cons c t ih =>
    obtain ⟨k, b⟩ := c
    simp only [Memory.wfAbove, Bool.and_eq_true, decide_eq_true_eq] at h
    simp only [Memory.set]
    split
    · simp only [Memory.get]
      rw [if_neg (by omega), if_neg (by omega)]
      exact ih h.2
    · split
      · split
        · rename_i e z
          rw [get_below h.2 (by omega), z]
        · simp [Memory.get]
      · split
        · rename_i z
          simp only [Memory.get]
          rw [if_neg (by omega), if_pos (by omega), z]
        · simp [Memory.get]

/-- Writing a byte leaves every other byte. -/
theorem get_set_other {m : Memory} {lo : Nat} {a b : Nat} (x : Byte) (h : Memory.wfAbove m lo = true) (ne : b ≠ a) :
    Memory.get (Memory.set m a x) b = Memory.get m b := by
  induction m generalizing lo with
  | nil =>
    simp only [Memory.set]
    split
    · rfl
    · simp only [Memory.get]
      rw [if_neg (fun e => ne e.symm)]
      split <;> rfl
  | cons c t ih =>
    obtain ⟨k, y⟩ := c
    simp only [Memory.wfAbove, Bool.and_eq_true, decide_eq_true_eq] at h
    simp only [Memory.set]
    split
    · simp only [Memory.get]
      rw [ih h.2]
    · split
      · rename_i e
        subst e
        split
        · simp only [Memory.get]
          rw [if_neg (fun e => ne e.symm)]
          split
          · exact get_below h.2 (by omega)
          · rfl
        · have h2 : ¬k = b := fun e => ne e.symm
          simp only [Memory.get, if_neg h2]
      · split
        · rfl
        · rename_i lt ne' _
          simp only [Memory.get]
          rw [if_neg (fun e => ne e.symm)]
          split
          · rw [if_neg (by omega), if_pos (by omega)]
          · rfl

/-! ## Byte strings -/

/-- Writing a byte string keeps the canonical form. -/
theorem put_wf {m : Memory} (a : Nat) (bs : List Byte) (h : m.wf = true) : (Memory.put m a bs).wf = true := by
  induction bs generalizing m a with
  | nil => exact h
  | cons b t ih => exact ih (a + 1) (set_wf a b h)

/-- A byte outside a written string is as before. -/
theorem get_put_other {m : Memory} {a b : Nat} (bs : List Byte) (h : m.wf = true) (out : b < a ∨ a + bs.length ≤ b) :
    Memory.get (Memory.put m a bs) b = Memory.get m b := by
  induction bs generalizing m a with
  | nil => rfl
  | cons x t ih =>
    simp only [List.length_cons] at out
    rw [Memory.put, ih (set_wf a x h) (by omega)]
    exact get_set_other x h (by omega)

/-- A byte of a written string is the string's. -/
theorem get_put_same {m : Memory} (a i : Nat) (bs : List Byte) (h : m.wf = true) (lt : i < bs.length) :
    Memory.get (Memory.put m a bs) (a + i) = bs[i] := by
  induction bs generalizing m a i with
  | nil => cases lt
  | cons x t ih =>
    rw [Memory.put]
    cases i with
    | zero =>
      rw [get_put_other t (set_wf a x h) (by omega)]
      exact get_set_same a x h
    | succ j =>
      have := ih (m := Memory.set m a x) (a + 1) j (set_wf a x h) (by simpa using lt)
      simpa [Nat.add_assoc, Nat.add_comm 1 j] using this

/-- Storing a value keeps the canonical form. -/
theorem store_wf {m : Memory} (a n x : Nat) (h : m.wf = true) : (Memory.store m a n x).wf = true := put_wf a _ h

/-- What is left of a memory when keys below a bound are forgotten, as a cold reset leaves it, is in canonical form. -/
theorem filter_wf {m : Memory} (p : Host.Cell → Bool) (h : m.wf = true) : Memory.wf (m.filter p) = true := by
  suffices H : ∀ (m : Memory) (lo : Nat), Memory.wfAbove m lo = true → Memory.wfAbove (m.filter p) lo = true from H m 0 h
  intro m
  induction m with
  | nil => intro _ _; rfl
  | cons c t ih =>
    intro lo h
    obtain ⟨k, b⟩ := c
    simp only [Memory.wfAbove, Bool.and_eq_true, decide_eq_true_eq] at h
    rw [List.filter_cons]
    split
    · simp only [Memory.wfAbove, Bool.and_eq_true, decide_eq_true_eq]
      exact ⟨h.1, ih _ h.2⟩
    · exact wfAbove_mono (ih _ h.2) (by omega)

/-- Memory after reset is in canonical form. -/
theorem reset_wf : Memory.wf State.reset.mem = true := rfl

/-! ## The operations of the machine that write memory -/

@[simp] theorem setDram_mem (s : State) (d : DramBlock) : (s.setDram d).mem = s.mem := rfl
@[simp] theorem draw_mem (s : State) : s.draw.2.mem = s.mem := rfl
@[simp] theorem logError_mem (s : State) (e : ErrorEntry) : (s.logError e).mem = s.mem := rfl
@[simp] theorem count_mem (s : State) (c : Counter) : (s.count c).mem = s.mem := rfl

theorem useChannel_mem (s : State) (pa : Nat) : (s.useChannel pa).mem = s.mem := rfl

theorem evalMonitors_mem (s : State) (key n : Nat) : (s.evalMonitors key n).mem = s.mem := by
  unfold State.evalMonitors
  split <;> rfl

/-- `rekey` keeps the canonical form. -/
theorem rekey_wf {s : State} (slot : BitVec 10) (block : Nat) (h : Memory.wf s.mem = true) :
    Memory.wf (s.rekey slot block).mem = true := by
  unfold State.rekey
  split
  · exact h
  · dsimp only [setDram_mem]
    split
    · exact put_wf _ _ h
    · exact h

/-- `writeKey` keeps the canonical form. -/
theorem writeKey_wf {s : State} (slot : BitVec 10) (a : Nat) (bs : List Byte) (h : Memory.wf s.mem = true) :
    Memory.wf (s.writeKey slot a bs).mem = true := by
  unfold State.writeKey
  dsimp only
  split
  · exact put_wf _ _ (rekey_wf _ _ h)
  · exact put_wf _ _ h

/-- A block read from DRAM keeps the canonical form, also when its code miscorrects. -/
theorem dramRead_wf {s : State} (block : Nat) (h : Memory.wf s.mem = true) :
    Memory.wf (s.dramRead block).mem = true := by
  unfold State.dramRead
  dsimp only
  generalize bytesLE 512 = bs
  split
  · exact h
  · split
    · simp only [count_mem]; exact h
    · split
      · simp only [logError_mem, count_mem, setDram_mem]; exact h
      · split
        · simp only [logError_mem, count_mem, setDram_mem, draw_mem]; exact h
        · simp only [count_mem, draw_mem]; exact h
        · simp only [draw_mem]; exact put_wf _ _ h

/-- Zeroing a range keeps the canonical form. -/
theorem zeroRange_wf {s : State} (key n : Nat) (h : Memory.wf s.mem = true) :
    Memory.wf (s.zeroRange key n).mem = true := by
  unfold State.zeroRange
  rw [evalMonitors_mem]
  exact filter_wf _ h

end Sys2Proof.Laws
end

