-- ==== Sys2Proof/Laws/Scalar.lean ====
section
/-!
SUPPORT. The integers of class 0 as bit vectors: an operand read at either width, and a result narrowed to it.
-/

namespace Sys2Proof.Laws

open Sys2Proof Sys2Proof.Machine

/-- The signed reading is the bit vector's own. -/
theorem sx_toInt {n : Nat} (x : BitVec n) : sx x.toNat n = x.toInt := by
  unfold sx
  rw [Nat.mod_eq_of_lt x.isLt, BitVec.toInt_eq_toNat_cond]

theorem sx_wrap (n : Nat) (x : Int) : sx (wrapTo n x) n = (BitVec.ofInt n x).toInt := by
  rw [← sx_toInt, BitVec.toNat_ofInt]
  rfl

theorem ofNat_wrap (n : Nat) (x : Int) : BitVec.ofNat n (wrapTo n x) = BitVec.ofInt n x := by
  apply BitVec.eq_of_toNat_eq
  rw [BitVec.toNat_ofNat, BitVec.toNat_ofInt]
  unfold wrapTo
  have h : 0 ≤ x % ((2 ^ n : Nat) : Int) := Int.emod_nonneg _ (by positivity)
  have h2 : x % ((2 ^ n : Nat) : Int) < ((2 ^ n : Nat) : Int) := Int.emod_lt_of_pos _ (by positivity)
  exact Nat.mod_eq_of_lt (by omega)

/-- The narrowing at 64 bits. -/
theorem narrow_false (x : Int) : narrow false x = BitVec.ofInt 64 x := ofNat_wrap 64 x

/-- The narrowing at 32 bits. -/
theorem narrow_true (x : Int) : narrow true x = (BitVec.ofInt 32 x).signExtend 64 := by
  show BitVec.ofInt 64 (sx (wrapTo 32 x) 32) = _
  rw [sx_wrap]
  rfl

theorem ua_false (x : DWord) : ua false x = x.toNat := Nat.mod_eq_of_lt x.isLt
theorem ua_true (x : DWord) : ua true x = (low32 x).toNat := by
  unfold low32
  rw [BitVec.toNat_setWidth]
  rfl
theorem sa_false (x : DWord) : sa false x = x.toInt := sx_toInt x
theorem sa_true (x : DWord) : sa true x = (low32 x).toInt := by
  rw [← sx_toInt, ← ua_true]
  unfold sa sx ua widthOf
  simp

/-- `ws` is the explicit update. -/
theorem ws_withScalar (s : State) (d : RegNo) (x : DWord) : s.ws d x = s.withScalar d x := ws_eq s d x

end Sys2Proof.Laws
end

