-- ==== Sys2Proof/WellFormed.lean ====
section
/-!
DEFINITION. Well-formed instructions: the causes of ILLEGAL_INSTR that an instruction shows by its own fields (R53, R70).
-/

namespace Sys2Proof

/-- An instruction is well formed when none of its fields makes it illegal wherever it stands. -/
def WellFormed (i : Instr) : Prop := Machine.illegalSub i = none

end Sys2Proof
end

