-- ==== Sys2Proof/Tests/Slice0.lean ====
section
/-!
SUPPORT. Tests: words of the spec that decode, ill-formed instructions that are refused, single steps with results from the
spec's worked examples, and a state that meets the hypotheses of every statement.
-/

set_option Elab.async false
set_option maxRecDepth 8000

namespace Sys2Proof.Tests

open Sys2Proof Sys2Proof.Machine

noncomputable section

/-! ## A small machine -/

/-- A segment register that is valid, checked and cached, from 0 to 2^16. -/
def openSeg : Seg := { base := 0, lim := 0x20000000010000 }

/-- A gang of eight slices of one group, with every segment open: page 0 of ASID 0 is cached, and key slot 0 is loaded. -/
def calm : State :=
  { State.reset with
    sp := { Span.zero with live := true, group := 1, segs := Vector.replicate 8 openSeg }
    grp := { Group.zero with
      id := 1
      tiles := List.replicate 8 Tile.zero
      accs := List.replicate 4 Acc.zero }
    memsys := { MemSys.zero with
      keys := [(0, 0)]
      trans := [{ core := some 0, die := 0, asid := 0, vpn := 0, bits := 16, entry := 15 }] }
    now := 1000
    nextId := 1 }

/-- The same span in its trap handler. -/
def inHandler : State := { calm with sp := { calm.sp with privileged := true } }

/-! ## Hypotheses that are met -/

/-- A span before the word w of packet 0. -/
def before (w : Nat) : State := State.reset.withFetchWord 32 w

/-- The issue context of that word. -/
def atFirst (w : Nat) : State :=
  ((before w).startIssue 0xFF 0 0 1).atItem [BitVec.ofNat 32 w, 0, 0] (w / 2 ^ 27 % 16 != 15) { slot := 0, what := .ok (.nop false) }

/-- StepRunsDecoded: `add s3, s1, s2` in a running clause, and a clause header; their checks pass. -/
theorem step_of_a_word : (before 0x6084).agenda = [] ∧ (before 0x6084).settings = [] ∧ (before 0x000C2080).promotes = none ∧
    (before 0x6084).pick =
      some { span := { core := 0, slot := 0 }, gang := 0xFF, promoted := false, prio := 0, age := 0 } ∧
    (before 0x6084).issueTurn = true ∧ (before 0x000C2080).focus { core := 0, slot := 0 } = before 0x000C2080 ∧
    ((before 0x6084).sp.slice 0).again = none ∧ ((before 0x000C2080).sp.slice 0).clause ≠ none := by
  decide +kernel
theorem step_of_a_word_bytes : ((before 0x6084).fetchUse 0).fetchBytes 0 = .ok [0x84, 0x60, 0, 0, 0, 0, 0, 0, 0, 0, 0, 0] := by
  decide +kernel
theorem step_of_a_word_checks : decodeWords [0x6084] = .ok (.add false 3 1 2 false, []) ∧
    groupLast [0x6084, 0, 0] 0 = 0 ∧ chainFault [0x6084, 0, 0] 0 0 = none ∧
    (atFirst 0x6084).preCheck (.add false 3 1 2 false) = none := by
  decide +kernel
theorem step_of_a_header_checks : decodeWords [0x78000078] = .ok (.clauseStart 0 0 0 15, []) ∧
    isHeader 0x78000078 = true ∧ ((before 0x78000078).sp.slice 0).clause = none ∧
    (atFirst 0x78000078).preCheck (.clauseStart 0 0 0 15) = none := by
  decide +kernel
/-- The word `syswr FAULTADDR, s1` of an unprivileged span fails its check. -/
theorem step_of_a_word_traps : ((atFirst 0x58700421).preCheck (.syswr false 1 33)).isSome = true := by decide +kernel

/-- MemoryStaysCanonical, StepLeavesNothingAtIssue. -/
theorem reset_is_safe_and_steps : State.reset.safe ∧ (before 0x6084).safe ∧
    (match step (before 0x6084) with | .next t => t.sp.slice 0 | _ => Slice.zero).slot = 1 := by
  unfold State.safe; decide +kernel

/-- WordsAreChecked, one clause each: sub-code 4, privilege, gang, pending source, pending destination, a held fault. -/
theorem checks_illegal : encode (.vadd none false 2 1 2 4) ≠ [] ∧ calm.illegal (.vadd none false 2 1 2 4) = some 4 := by
  decide +kernel
theorem checks_privilege : calm.illegal (.syswr false 1 33) = none ∧ needsPrivilege (.syswr false 1 33) = true ∧
    calm.sp.privileged = false := by
  decide +kernel
/-- The even slices alone. -/
def parted : State := { calm with issue := { Issue.zero with gang := 0x55 } }
theorem checks_gang : parted.illegal (.badd false 2 4 6) = none ∧ needsPrivilege (.badd false 2 4 6) = false ∧
    needsGang (.badd false 2 4 6) = true ∧ parted.fullGang = false := by
  decide +kernel
/-- s2 pending. -/
def owing : State := { calm with sp := { calm.sp with pend := calm.sp.pend.put 0xFF [.s 2] true } }
theorem checks_pending_source : owing.illegal (.add false 1 2 3 false) = none ∧
    owing.pendingAmong (.add false 1 2 3 false) (readsOf (.add false 1 2 3 false)) ≠ 0 := by
  decide +kernel
theorem checks_pending_destination :
    owing.pendingAmong (.add false 2 1 3 false) (readsOf (.add false 2 1 3 false)) = 0 ∧
    owing.pendingAmong (.add false 2 1 3 false) (writesOf (.add false 2 1 3 false)) ≠ 0 := by
  decide +kernel
/-- s2 poisoned. -/
def poisonedOne : State :=
  { calm with sp := { calm.sp with held := [{ by_ := .reg (.scalar 2), trap := calm.trapOf 9 0, op := 0 }] } }
theorem checks_held : poisonedOne.preCheck (.add false 1 2 3 false) = none ∧
    poisonedOne.heldFor (.add false 1 2 3 false) = some { by_ := .reg (.scalar 2), trap := calm.trapOf 9 0, op := 0 } := by
  decide +kernel

/-- TrapsEnterTheHandler: a handler at 12, quiet; with an operation of class A open; in a handler already. -/
def handled : State := { calm with sp := { calm.sp with trap := { calm.sp.trap with trapbase := 12 } } }
theorem handler_entered : handled.sp.privileged = false ∧ fld handled.sp.trap.trapbase 0 48 ≠ 0 ∧ handled.quietA = true := by
  decide +kernel
/-- A load of lane 0 into v2 is on its way. -/
def aRequest : Req :=
  { lane := 0, va := 64, key := 64, bytes := 4, slot := 0, chain := 0, uc := false, ro := false, data := 7, cmp := 0,
    region := calm.region, status := .sent, result := 0, poison := false }
def aLoad : MemOp :=
  { id := 1, span := { core := 0, slot := 0 }, group := 1, kind := .load, dest := .vec 2 false, path := 0, seg := 0,
    hint := 0, nc := false, cpol := 0, checked := false, logged := false, region := calm.region, clause := none, pc := 0, gang := 0xFF,
    lanes := 1, whole := false, since := 0, reqs := [aRequest] }
theorem handler_waits : ({ handled with memOps := [aLoad] } : State).quietA = false := by decide +kernel
theorem handler_missing : inHandler.sp.privileged = true ∧ fld calm.sp.trap.trapbase 0 48 = 0 := by decide +kernel

/-- EnabledFlagsTrap: 1.0 / 0.0 with DZ enabled. -/
def dividing : State :=
  { calm with sp := { calm.sp with regs := { calm.sp.regs with
      status := 0x200
      v := calm.sp.regs.v.set 2 (Vector.replicate 32 0x3F800000) } } }
theorem flags_trap : dividing.clear (.vfdiv none false 1 1 2 3) ∧
    (flagsOver (dividing.selected none) (elemFlags 1 fun i k =>
      fDiv Fmt.f32 (dividing.mode none) (dividing.fpVal 1 2 i k) (dividing.fpVal 1 3 i k))).trapsUnder
        dividing.seen.status = true := by
  unfold State.clear; decide +kernel
/-- OverlongResultsTrap: two numbers of 32 limbs of ones, no slot words. -/
def brimful : State :=
  { calm with sp := { calm.sp with regs := { calm.sp.regs with
      v := (calm.sp.regs.v.set 2 (Vector.replicate 32 0xFFFFFFFF)).set 3 (Vector.replicate 32 0xFFFFFFFF)
      tag := (calm.sp.regs.tag.set 2 { len := 32, sign := false }).set 3 { len := 32, sign := true } } } }
theorem sum_is_overlong : brimful.clear (.badd false 1 2 2) ∧ brimful.SlotsQuiet [2, 2] ∧ brimful.slotBusy 1 = false ∧
    32 + brimful.slotLimbs < bigLen (brimful.value 2 + brimful.value 2) := by
  unfold State.clear State.SlotsQuiet; decide +kernel
theorem difference_is_overlong : brimful.clear (.bsub false 1 2 3) ∧ brimful.SlotsQuiet [2, 3] ∧
    32 + brimful.slotLimbs < bigLen (brimful.value 2 - brimful.value 3) := by
  unfold State.clear State.SlotsQuiet; decide +kernel

/-- AccessChecks: each check fails first, at the boundary. -/
def based (x : DWord) (g : Seg) : State :=
  { calm with sp := { calm.sp with
      segs := Vector.replicate 8 g
      regs := { calm.sp.regs with s := calm.sp.regs.s.set 1 x } } }
theorem load_is_misaligned : (based 1 openSeg).clear (.ld none false 2 2 1 3 0) ∧ (based 1 openSeg).pathBusy = false ∧
    (based 1 openSeg).lanes ≠ [] ∧ ((vecAt (based 1 openSeg).sp.segs 2 Seg.invalid).baseOf + 1) % 4 ≠ 0 := by
  unfold State.clear; decide +kernel
theorem load_is_past_the_limit : (based 0xFFFC openSeg).clear (.ld none false 2 2 1 3 0) ∧
    openSeg.limit < 0xFFFD + 4 ∧ 0xFFFC + 4 ≤ openSeg.limit ∧ (based 0x10000 openSeg).clear (.ld none false 2 2 1 3 0) ∧
    openSeg.limit < 0x10000 + 4 := by
  unfold State.clear; decide +kernel
theorem load_is_unmapped : (based 0 { base := 0, lim := 0x10000 }).clear (.ld none false 2 2 1 3 0) ∧
    ({ base := 0, lim := 0x10000 } : Seg).valid = false ∧ 0 + 4 ≤ ({ base := 0, lim := 0x10000 } : Seg).limit := by
  unfold State.clear; decide +kernel

/-- MemoryReadsBackUnderItsKey. -/
theorem memory_is_plain : calm.safe ∧ (∀ d ∈ calm.memsys.dram, d.errors ≤ 17) ∧
    calm.otherKey (calm.keyOf 0) (64 / 512) = none := by
  unfold State.safe; decide +kernel

/-! ## Words whose checks pass: one of each instruction -/

theorem clear_scalar_1 : ∀ i ∈ ([
    .add false 2 4 6 false,
    .sub false 2 4 6 false,
    .addc false 2 4 6 false,
    .mul false 2 4 6 false,
    .mulh false 2 4 6 false,
    .mulhu false 2 4 6 false,
    .div false 2 4 6 false,
    .divu false 2 4 6 false,
    .rem false 2 4 6 false,
    .remu false 2 4 6 false,
    .and false 2 4 6 false,
    .or false 2 4 6 false,
    .xor false 2 4 6 false,
    .andn false 2 4 6 false,
    .shl false 2 4 6 false,
    .shr false 2 4 6 false,
    .sar false 2 4 6 false,
    .rol false 2 4 6 false,
    .min false 2 4 6 false,
    .max false 2 4 6 false,
    .minu false 2 4 6 false,
    .maxu false 2 4 6 false,
    .cmpEq false 2 4 6 false,
    .cmpNe false 2 4 6 false,
    .cmpLt false 2 4 6 false,
    .cmpGe false 2 4 6 false,
    .cmpLtu false 2 4 6 false,
    .cmpGeu false 2 4 6 false,
    .sel false 2 4 6,
    .clz false 2 4 false,
    .ctz false 2 4 false,
    .popc false 2 4 false] : List Instr), calm.clear i := by
  unfold State.clear; decide +kernel

theorem clear_scalar_2 : ∀ i ∈ ([
    .bext false 2 4 6,
    .bins false 2 4 6,
    .mov false 2 4 false,
    .addi false 2 0,
    .movi false 2 0,
    .movhi false 2 0,
    .andi false 2 0,
    .ori false 2 0,
    .xori false 2 0,
    .shli false 2 4,
    .shri false 2 4,
    .cmpiEq false 2 0,
    .cmpiNe false 2 0,
    .cmpiLt false 2 0,
    .cmpiGe false 2 0,
    .cmpiLtu false 2 0,
    .cmpiGeu false 2 0] : List Instr), calm.clear i := by
  unfold State.clear; decide +kernel

theorem clear_vector_1 : ∀ i ∈ ([
    .vadd none false 1 2 4 6,
    .vaddS none false 1 2 4 6,
    .vaddI none false 1 2 4 6,
    .vsub none false 1 2 4 6,
    .vsubS none false 1 2 4 6,
    .vsubI none false 1 2 4 6,
    .vmul none false 1 2 4 6,
    .vmulS none false 1 2 4 6,
    .vmulh none false 0 2 4 6,
    .vmulhS none false 0 2 4 6,
    .vmulhu none false 2 4 6,
    .vmulhuS none false 2 4 6,
    .vmad none false 1 2 4 6,
    .vaddc none false 2 4 6,
    .vsubc none false 2 4 6,
    .vmulw none false 1 2 4 6,
    .vand none false 0 2 4 6,
    .vandS none false 0 2 4 6,
    .vandI none false 0 2 4 6,
    .vor none false 0 2 4 6,
    .vorS none false 0 2 4 6,
    .vorI none false 0 2 4 6,
    .vxor none false 0 2 4 6,
    .vxorS none false 0 2 4 6,
    .vxorI none false 0 2 4 6,
    .vshl none false 0 2 4 6,
    .vshlS none false 0 2 4 6,
    .vshlI none false 0 2 4 6,
    .vshr none false 0 2 4 6,
    .vshrS none false 0 2 4 6,
    .vshrI none false 0 2 4 6,
    .vsar none false 0 2 4 6] : List Instr), calm.clear i := by
  unfold State.clear; decide +kernel

theorem clear_vector_2 : ∀ i ∈ ([
    .vsarS none false 0 2 4 6,
    .vsarI none false 0 2 4 6,
    .vmin none false 0 2 4 6,
    .vminS none false 0 2 4 6,
    .vmax none false 0 2 4 6,
    .vmaxS none false 0 2 4 6,
    .vminu none false 2 4 6,
    .vminuS none false 2 4 6,
    .vmaxu none false 2 4 6,
    .vmaxuS none false 2 4 6,
    .vcmpEq none false 1 2 4 6,
    .vcmpEqS none false 1 2 4 6,
    .vcmpNe none false 1 2 4 6,
    .vcmpNeS none false 1 2 4 6,
    .vcmpLt none false 1 2 4 6,
    .vcmpLtS none false 1 2 4 6,
    .vcmpGe none false 1 2 4 6,
    .vcmpGeS none false 1 2 4 6,
    .vsel none false 0 2 4 6,
    .vabs none false 0 2 4,
    .vpopc none false 0 2 4,
    .vclz none false 0 2 4,
    .vbext none false 2 4 6,
    .vmov none false 0 2 4,
    .vmovs none false 0 2 4,
    .vfadd none false 1 2 4 6,
    .vfaddS none false 1 2 4 6,
    .vfsub none false 1 2 4 6,
    .vfsubS none false 1 2 4 6,
    .vfmul none false 1 2 4 6,
    .vfmulS none false 1 2 4 6,
    .vffma none false 1 2 4 6] : List Instr), calm.clear i := by
  unfold State.clear; decide +kernel

theorem clear_vector_3 : ∀ i ∈ ([
    .vffmaS none false 1 2 4 6,
    .vfmin none false 1 2 4 6,
    .vfminS none false 1 2 4 6,
    .vfmax none false 1 2 4 6,
    .vfmaxS none false 1 2 4 6,
    .vfabs none false 1 2 4,
    .vfneg none false 1 2 4,
    .vfdiv none false 1 2 4 6,
    .vfscale none false 1 2 4 6,
    .vfround none false 1 2 4,
    .vfclass none false 1 2 4,
    .vfcmpEq none false 1 2 4 6,
    .vfcmpNe none false 1 2 4 6,
    .vfcmpLt none false 1 2 4 6,
    .vfcmpLe none false 1 2 4 6,
    .vfcmpUn none false 1 2 4 6,
    .vexp2 none false 1 2 4,
    .vexp none false 1 2 4,
    .vlog2 none false 1 2 4,
    .vln none false 1 2 4,
    .vrcp none false 1 2 4,
    .vrsqrt none false 1 2 4,
    .vsqrt none false 1 2 4,
    .vsin none false 1 2 4,
    .vcos none false 1 2 4,
    .vtanh none false 1 2 4,
    .vsigm none false 1 2 4,
    .verf none false 1 2 4,
    .vexp2Acc none false 1 2 4,
    .vexpAcc none false 1 2 4,
    .vlog2Acc none false 1 2 4,
    .vlnAcc none false 1 2 4] : List Instr), calm.clear i := by
  unfold State.clear; decide +kernel

theorem clear_vector_4 : ∀ i ∈ ([
    .vrcpAcc none false 1 2 4,
    .vrsqrtAcc none false 1 2 4,
    .vsqrtAcc none false 1 2 4,
    .vsinAcc none false 1 2 4,
    .vcosAcc none false 1 2 4,
    .vtanhAcc none false 1 2 4,
    .vsigmAcc none false 1 2 4,
    .verfAcc none false 1 2 4] : List Instr), calm.clear i := by
  unfold State.clear; decide +kernel

theorem clear_lanes : ∀ i ∈ ([
    .vcvt none false 1 2 4 0,
    .vpackBp none false 2 4 6,
    .vunpackBp none false 2 4 6,
    .shfl none false 0 2 4 6,
    .shflUp none false 0 2 4 6,
    .shflDn none false 0 2 4 6,
    .shflX none false 0 2 4 6,
    .shflUpS none false 0 2 4 6,
    .shflDnS none false 0 2 4 6,
    .shflXS none false 0 2 4 6,
    .voteAny none false 2 4,
    .voteAll none false 2 4,
    .ballot none false 2 4,
    .vscan none false 1 2 4 false 0,
    .vred none false 1 2 4 0,
    .vcarry none false 2 4 6,
    .ssi none false 2 4 6,
    .vlane none false 2] : List Instr), calm.clear i := by
  unfold State.clear; decide +kernel

theorem clear_numbers : ∀ i ∈ ([
    .badd false 2 4 6,
    .bsub false 2 4 6,
    .bneg false 2 4,
    .babs false 2 4,
    .bcmp false 2 4 6,
    .bshl false 2 4 6,
    .bshlI false 2 4 6,
    .bshr false 2 4 6,
    .bshrI false 2 4 6,
    .bmult false 2 4 6,
    .bcres false 0 0,
    .bdiv false 2 4 6,
    .bmodb false 2 4 6,
    .bnorm false 2 4,
    .blen false 2 4,
    .bspill false 2 4,
    .bfill false 2 4,
    .bladd false 2 4 6,
    .blsub false 2 4 6,
    .blmul false 2 4 6,
    .blcmp false 2 4 6,
    .blshift false 2 4 6,
    .dotx false 2 4 6,
    .xround false 2 4,
    .bcvt false 2 4] : List Instr), calm.clear i := by
  unfold State.clear; decide +kernel

theorem clear_control : ∀ i ∈ ([
    .clauseStart 15 0 15 15,
    .br false 0,
    .brc false 2 0,
    .brv false 2 0,
    .call false 2 0,
    .ret false 2,
    .jmpr false 2,
    .join false,
    .regang false,
    .exit false,
    .nop false,
    .trap false 0,
    .brk false,
    .trace false 2,
    .sysrd false 2 0,
    .syswr false 2 0,
    .spawn false 2 4 6,
    .phaseEnd false,
    .acqx false 2 4,
    .relx false 2,
    .yield false,
    .age false 2,
    .lvl false 0 0] : List Instr), calm.clear i := by
  unfold State.clear; decide +kernel

theorem clear_control_in_handler : ∀ i ∈ ([
    .rte false,
    .segld false 2 4,
    .tlbinv false 2 4] : List Instr), inHandler.clear i := by
  unfold State.clear; decide +kernel

theorem clear_memory_1 : ∀ i ∈ ([
    .vqcvt (some { mask := 0, z := false, rnd := 0, vc := 3, sub := 5, sat := false, fill := false }) false 0 false 2 4 6,
    .vdqcvt none false 0 false 2 4 6,
    .mma false 2 4 0 2 0,
    .mmai false 2 4 0 0,
    .tshape false 2 4,
    .tload false 2 4 6 2,
    .tstore false 2 4 6 2,
    .tzero false 2 false,
    .mprom false 2,
    .tdrain false 2 4 6 2,
    .tdrainRed false 2 4 6 2,
    .txpose false 2 4,
    .tscale false 2 4,
    .ttask false 2 4 2,
    .spmv false 2 4 6,
    .sptrsv false 2 4 6,
    .reinsTake false,
    .reinsPass false 2,
    .reinsPassNext false,
    .reinsQuery false 2,
    .ld none false 2 2 4 6 0,
    .ld64 none false 2 2 4 6 0,
    .ld16 none false 2 2 4 6 0,
    .ld8 none false 2 2 4 6 0,
    .st none false 2 2 4 6 0,
    .st64 none false 2 2 4 6 0,
    .st16 none false 2 2 4 6 0,
    .st8 none false 2 2 4 6 0,
    .lds none false 2 2 4 6 0,
    .sts none false 2 2 4 6 0,
    .ldNc none false 0 2 4 6 0,
    .prefetch none false 0 2 4 0] : List Instr), calm.clear i := by
  unfold State.clear; decide +kernel

theorem clear_memory_2 : ∀ i ∈ ([
    .hintNorm none false 0 2 4 0,
    .hintFirst none false 0 2 4 0,
    .hintLast none false 0 2 4 0,
    .hintLow none false 0 2 4 0,
    .cinv none false 0 2 4 0,
    .cflush none false 0 2 4 0,
    .amoAdd false 1 2 2 2 4,
    .amoMin false 1 2 2 2 4,
    .amoMax false 1 2 2 2 4,
    .amoAnd false 1 2 2 2 4,
    .amoOr false 1 2 2 2 4,
    .amoXor false 1 2 2 2 4,
    .amoXchg false 1 2 2 2 4,
    .amoCas false 1 2 2 2 4,
    .redAdd false 1 2 2 2 4,
    .redMin false 1 2 2 2 4,
    .redMax false 1 2 2 2 4,
    .redAnd false 1 2 2 2 4,
    .redOr false 1 2 2 2 4,
    .redXor false 1 2 2 2 4,
    .waitcmp false 0 false 2 2 2 4,
    .barInit false 2 2 4,
    .barArrive false 2 2 2 4,
    .barWait false 2 2 2,
    .barExpect false 2 2 4,
    .fence false 2,
    .fenceSc false 4,
    .xfence false 2 0 3,
    .eqw false 0 2,
    .eqgo false 2,
    .sleepu false 2,
    .sleepp false 2 4] : List Instr), calm.clear i := by
  unfold State.clear; decide +kernel

theorem clear_memory_3 : ∀ i ∈ ([
    .promiseChk false 2 4,
    .time false 2,
    .halloc false 2 4,
    .hfree false 2] : List Instr), calm.clear i := by
  unfold State.clear; decide +kernel

/-- Scalar registers set. -/
def withS (l : List (Nat × DWord)) (s : State) : State :=
  { s with sp := { s.sp with regs := { s.sp.regs with s := l.foldl (fun v x => vecPut v x.1 x.2) s.sp.regs.s } } }

/-- The places of passed checks. -/
def places (c : Checked) : List Place :=
  match c with
  | .ok ps => ps
  | _ => []

/-- UniformTransfers: a register that is not zero and one that is; targets that are and are not multiples of 12. -/
theorem transfer_targets : (withS [(1, 5)] calm).rs 1 ≠ 0 ∧ calm.rs 2 = 0 ∧ ((withS [(1, 24)] calm).rs 1).toNat % 12 = 0 ∧
    ((withS [(1, 5)] calm).rs 1).toNat % 12 ≠ 0 := by
  decide +kernel
/-- A stack of 14 entries in every slice, and m2 with two lanes of each. -/
def deep : State :=
  { calm with sp := { calm.sp with
      regs := { calm.sp.regs with m := calm.sp.regs.m.set 2 0x33333333 }
      slices := Vector.replicate 8
        { Slice.zero with stack := List.replicate 14 { kind := .rejoin, mask := 15, pc := none } } } }
theorem branch_has_room : deep.clear (.brv false 2 4) ∧ ∀ j ∈ List.range 8,
    (deep.sp.slice j).stack.length + 2 = 16 ∧ maskOf 4 (fun k => bitOn (deep.rm 2) (4 * j + k)) = 3 := by
  unfold State.clear; decide +kernel
theorem calm_is_drained : calm.drained 4 = true ∧ calm.drained 6 = true ∧ calm.AtEnd := by
  unfold State.AtEnd; decide +kernel
/-- A handler that is to return to packet 24, where it was entered. -/
def returning : State :=
  { inHandler with sp := { inHandler.sp with
      trap := { inHandler.sp.trap with faultpc := 24 }
      frame := some { slices := Vector.replicate 8 Slice.zero, s62 := 0, s63 := 0, gang := 0xFF, entry := 24 } } }
theorem rte_returns : returning.clear (.rte false) ∧ returning.sp.frame.isSome = true ∧
    fld returning.sp.trap.faultpc 0 48 % 12 = 0 ∧ fld returning.sp.trap.faultpc 48 2 ≠ 3 ∧
    (returning.sp.frame.map fun f => f.entry) = some returning.sp.trap.faultpc := by
  unfold State.clear; decide +kernel
/-- ClauseHeaders: every flag is clear; the header waits for flag 11 and takes flags 0 and 11. -/
theorem header_starts : calm.issue.gang ≠ 0 ∧ calm.clear (.clauseStart 15 0x800 0 11) ∧
    ∀ i ∈ List.range 12, bitOn calm.sp.flags i = false := by
  unfold State.clear; decide +kernel
/-- SystemRegisters: each selection of FAULTINFO. -/
theorem info_words : ∀ n ∈ [(0 : BitVec 2), 1, 2, 3],
    ({ calm with sp := { calm.sp with trap := { calm.sp.trap with sel := n } } } : State).clear (.sysrd false 1 34) := by
  unfold State.clear; decide +kernel

/-- A launch of number 0 with trace on, 4 spans per spawned group, entry 3 at address 12, and the ASID 0. -/
def aLaunch : Launch :=
  { seq := 0, record := BitVec.ofNat 2048 (4 * 2 ^ 376 + 2 ^ 34), entries := (Vector.replicate 16 0).set 3 12, asets := [],
    trace := true, started := [], liveGroups := 1, nextSpawn := 0, spawned := [], aborting := false, failed := none }
def launched : State := { calm with host := { calm.host with launches := [aLaunch] } }
theorem tracing : calm.traced = false ∧ launched.traced = true ∧ launched.clear (.trace false 1) := by
  unfold State.clear; decide +kernel

/-- The segment register that a `segld` at G offset 0 reads: limit 16, valid; and one with a reserved bit. -/
def segmentAt (lim : Nat) : State :=
  { withS [(1, 0)] { launched with sp := { launched.sp with privileged := true, bindSegs := Vector.replicate 8 openSeg } } with
    mem := Memory.put [] 8 (bytesLE 8 lim) }
def segmentPlaces (s : State) : List Place := places (s.endRegion.checkLanes 0 .read 16 true [(0, 0)])
theorem segld_reads : ∀ lim ∈ [0x20000000000010, 0x8000000000000010],
    (segmentAt lim).clear (.segld false 2 1) ∧ (segmentAt lim).drained 4 = true ∧
    (segmentAt lim).endRegion.checkLanes 0 .read 16 true [(0, 0)] = .ok (segmentPlaces (segmentAt lim)) ∧
    (segmentPlaces (segmentAt lim)).length = 1 ∧
    (((segmentAt lim).endRegion.fillFor 0 (segmentPlaces (segmentAt lim))).readNow
      { (segmentAt lim).endRegion.newOp .load .none 0 0 false with
        reqs := (segmentPlaces (segmentAt lim)).map fun p => reqAt p 16 0 0 }).1 = true ∧
    (segmentAt lim).segBad 2 { base := 0, lim := BitVec.ofNat 64 lim } = decide (lim = 0x8000000000000010) := by
  unfold State.clear; decide +kernel
theorem tlbinv_may_run : inHandler.clear (.tlbinv false 1 2) ∧ inHandler.drained 4 = true ∧
    inHandler.coveredInFlight (inHandler.rs 1) (inHandler.rs 2) = false := by
  unfold State.clear; decide +kernel

/-- A span whose gang has come back to its word with a wait that has ended. -/
def ended (w : Wait) : State :=
  { calm with sp := { calm.sp with slices := Vector.replicate 8 { Slice.zero with wait := some w } } }
/-- TaskInstructions: yields and acqx requests that are back, and those that come for the first time. -/
theorem task_waits : (ended .woken).gangWait = some .woken ∧ (ended (.acqxDone 3)).gangWait = some (.acqxDone 3) ∧
    calm.gangWait = none ∧ (ended .woken).clear (.yield false) ∧ (ended (.acqxDone 3)).clear (.acqx false 1 2) := by
  unfold State.clear; decide +kernel
/-- `acqx` of nothing, and of one unit of vector registers from a pool that has it. -/
def pooled : State :=
  withS [(2, 1)] { calm with
    grp := { calm.grp with bindRec := { calm.grp.bindRec with basev := 0 } }
    host := { calm.host with launches := [{ aLaunch with record := BitVec.ofNat 2048 (256 * 2 ^ 320 + 64 * 2 ^ 336 + 16 * 2 ^ 343) }] } }
theorem acqx_answers_or_waits : pooled.acqxNow 0 = some 0 ∧ calm.acqxNow 0x10 = some 3 ∧ calm.acqxNow 1 = some 2 ∧
    pooled.acqxNow (pooled.rs 2) = none ∧ pooled.clear (.acqx false 1 2) := by
  unfold State.clear; decide +kernel
theorem relx_may_run : (∀ p ∈ calm.spansOf calm.grp.id, ∀ r ∈ calm.grp.topRefs 0 8 4, p.pend.has r = false) ∧
    calm.topTileRead calm.grp 8 = false := by
  decide +kernel
/-- `spawn` of one group of 4 spans at entry 3, and of one of 5 spans, one more than the launch allows. -/
def spawning (n : Nat) : State := withS [(2, BitVec.ofNat 64 (3 + 2 ^ 8 + n * 2 ^ 16))] launched
def spawnPlaces : List Place := places ((spawning 4).checkLanes 0 .read 8 true ((List.range 8).map fun i => (i, 8 * i)))
theorem spawn_may_run : (spawning 4).clear (.spawn false 1 2 3) ∧ (spawning 4).launchOf = some aLaunch ∧
    vecAt aLaunch.entries (fld ((spawning 4).rs 2) 0 4) 0 ≠ 0 ∧ fld ((spawning 4).rs 2) 4 4 = 0 ∧
    fld ((spawning 4).rs 2) 23 41 = 0 ∧ fld ((spawning 4).rs 2) 16 7 = recSpSpans (spawning 4).launchRecord ∧
    (spawning 4).checkLanes 0 .read 8 true ((List.range 8).map fun i => (i, 8 * i)) = .ok spawnPlaces ∧
    spawnPlaces.length = 8 ∧
    (((spawning 4).fillFor 0 spawnPlaces).readNow
      { (spawning 4).newOp .load .none 0 0 false with reqs := spawnPlaces.map fun p => reqAt p 8 0 0 }).1 = true := by
  unfold State.clear; decide +kernel
theorem spawn_is_refused : (spawning 5).clear (.spawn false 1 2 3) ∧ (spawning 5).grp.saddled = false ∧
    recSpSpans (spawning 5).launchRecord < fld ((spawning 5).rs 2) 16 7 := by
  unfold State.clear; decide +kernel

/-- Lane addresses of [seg: s1 + v3]. -/
def laneOffs (s : State) : List (Nat × Nat) := s.lanes.map fun i => (i, (s.rs 1).toNat + (s.rl 3 i).toNat)
/-- v3 holds 8 times the lane. -/
def strided (x : DWord) : State :=
  withS [(1, x)] { calm with sp := { calm.sp with regs := { calm.sp.regs with
    v := calm.sp.regs.v.set 3 (Vector.ofFn fun i : Fin 32 => BitVec.ofNat 32 (8 * i.val)) } } }
/-- No lane of the gang is enabled: all of them have exited. -/
def gone : State := { calm with sp := { calm.sp with slices := Vector.replicate 8 { Slice.zero with exited := 15 } } }

/-- LoadsAndStores: every size up to the last byte of the segment, in S and G, and without an active lane. -/
theorem accesses_may_be_made : ∀ k ∈ [0, 2], ∀ x ∈ [(Use.read, 8), (.write, 8), (.read, 4), (.write, 4), (.read, 2), (.write, 2),
    (.read, 1), (.write, 1)], ∃ ps, (strided 0xFF00).MayAccess k x.1 x.2 false (laneOffs (strided 0xFF00)) ps := by
  intro k hk x hx
  refine ⟨places ((strided 0xFF00).checkLanes k x.1 x.2 false (laneOffs (strided 0xFF00))), ?_⟩
  unfold State.MayAccess
  revert k x
  decide +kernel
theorem scalar_accesses_may_be_made : ∀ k ∈ [0, 2], ∀ u ∈ [Use.read, .write],
    ∃ ps, calm.MayAccess k u 8 true [(0, 0xFFF8)] ps := by
  intro k hk x hx
  refine ⟨places (calm.checkLanes k x 8 true [(0, 0xFFF8)]), ?_⟩
  unfold State.MayAccess
  revert k x
  decide +kernel
theorem no_lane_is_active : gone.lanes = [] ∧ gone.clear (.ld none false 2 2 1 3 0) ∧ gone.clear (.cflush none false 0 1 3 0) ∧
    (strided 0).lanes ≠ [] := by
  unfold State.clear; decide +kernel
/-- EngineWindow: every lane at the last place of the readable and of the writable words. -/
theorem window_accesses_may_be_made : ∀ x ∈ [(Use.read, 8, 0x20), (.read, 4, 0x24), (.read, 2, 0x26), (.read, 1, 0x27),
    (.write, 8, 0x18), (.write, 4, 0x1C), (.write, 2, 0x1E), (.write, 1, 0x1F)],
    ∃ ps, calm.checkLanes 6 x.1 x.2.1 false [(0, x.2.2), (31, x.2.2)] = .ok ps ∧
      ∀ q ∈ ps, q.va.toNat + x.2.1 ≤ if x.1 = .read then 0x28 else 0x20 := by
  intro x hx
  refine ⟨places (calm.checkLanes 6 x.1 x.2.1 false [(0, x.2.2), (31, x.2.2)]), ?_⟩
  revert x
  decide +kernel
/-- CacheInstructions: the checks of `cinv` and `cflush` in G. -/
theorem cache_checks_pass : ∃ ps, (strided 0).checkLanes 0 .read 1 false (laneOffs (strided 0)) = .ok ps :=
  ⟨places ((strided 0).checkLanes 0 .read 1 false (laneOffs (strided 0))), by decide +kernel⟩
/-- AtomicsAndReductions: addresses in the pairs v4, v5. -/
def atomics : State :=
  { calm with sp := { calm.sp with regs := { calm.sp.regs with
    v := calm.sp.regs.v.set 4 (Vector.ofFn fun i : Fin 32 => BitVec.ofNat 32 (8 * i.val)) } } }
theorem atomics_may_be_made : ∀ k ∈ [0, 2], ∀ n ∈ [4, 8],
    ∃ ps, atomics.MayAccess k .atomic n false (atomics.lanes.map fun i => (i, atomics.rl64 4 i)) ps := by
  intro k hk n hn
  refine ⟨places (atomics.checkLanes k .atomic n false (atomics.lanes.map fun i => (i, atomics.rl64 4 i))), ?_⟩
  unfold State.MayAccess
  revert k n
  decide +kernel

/-- Byte 0 of page 0 as a place of a 16-byte barrier and of an 8-byte word. -/
def firstPlace : Place :=
  { lane := 0, off := 0, va := 0, key := 0, slot := 0, chain := 0, uc := false, ro := false }
/-- A span that arrived in generation g and comes to `bar.wait` for the first time, or again. -/
def arrived (g : BitVec 8) : State := { calm with sp := { calm.sp with arrivals := [{ key := 0, gen := some g }] } }
theorem barrier_operations_may_be_made :
    calm.checkLanes 0 .atomic 16 true [(0, (calm.rs 1).toNat)] = .ok [firstPlace] ∧ calm.pathBusy = false ∧
    calm.clear (.barArrive false 2 0 1 2) ∧ (ended .woken).clear (.barWait false 2 0 1) ∧
    (ended .woken).gangWait = some .woken := by
  unfold State.clear; decide +kernel
theorem barrier_waits_may_be_made : ∀ g ∈ [(0 : BitVec 8), 255], (arrived g).clear (.barWait false 2 0 1) ∧
    (arrived g).gangWait ≠ some .woken ∧ (arrived g).oldestHeld (heldForBar 0) = none ∧ (arrived g).arrivalOwed 0 = false ∧
    (arrived g).readBlocked 0 16 = false ∧ (arrived g).poisoned 0 = false ∧ (arrived g).monitorFree 0 = true ∧
    decide (Memory.get (arrived g).mem 15 = g) = decide (g = 0) := by
  unfold State.clear; decide +kernel

/-- WaitcmpAndFences: a wait that is back, a condition that holds and one that does not, a full home, and both sides of the
deadline in s3. -/
theorem word_may_be_awaited : calm.checkLanes 0 .read 8 true [(0, (calm.rs 2).toNat)] = .ok [firstPlace] ∧
    calm.readBlocked 0 8 = false ∧ calm.poisoned 0 = false ∧ calm.gangWait = none ∧ calm.monitorFree 0 = true ∧
    condHolds 0 0 (calm.rs 4) = true ∧ condHolds 1 0 (calm.rs 4) = false ∧
    (ended (.monitorDone true false)).gangWait = some (.monitorDone true false) ∧
    (ended (.monitorDone false true)).gangWait = some (.monitorDone false true) ∧
    (withS [(3, 1000)] calm).rs (next 2) = calm.now ∧ (withS [(3, 1001)] calm).rs (next 2) = calm.now + 1 := by
  decide +kernel
def aMonitor : Monitor :=
  { id := 1, span := { core := 0, slot := 0 }, gang := 0xFF, home := homeOf 0, key := 0, cond := 1, value := 0, addr := 0,
    bar := false, deadline := none, satisfied := false, poison := false, away := none }
theorem home_is_full : ({ calm with monitors := List.replicate 4096 aMonitor } : State).monitorFree 0 = false := by
  decide +kernel
theorem fences_wait_or_not : calm.drained 2 = true ∧ ({ calm with memOps := [aLoad] } : State).drained 4 = false ∧
    ({ calm with memOps := [aLoad] } : State).clear (.fence false 4) ∧ (ended .ticked).gangWait = some .ticked ∧
    calm.gangWait ≠ some .ticked ∧ calm.pathWork 0 = false ∧ calm.pathWork 6 = false := by
  unfold State.clear; decide +kernel

/-- TilesAndShapes: a shape of 4 rows of 8 bytes of format 10. -/
def shaped : State :=
  let t := withS [(6, 16)] calm
  (t.setTile 2 { Tile.zero with shape := BitVec.ofNat 64 (10 + 4 * 2 ^ 5 + 8 * 2 ^ 13) }).setTile 4
    { Tile.zero with shape := BitVec.ofNat 64 (10 + 128 * 2 ^ 5 + 32 * 2 ^ 13) }
theorem shapes_are_good : tshapeBad (BitVec.ofNat 64 (10 + 128 * 2 ^ 5 + 32 * 2 ^ 13)) = false ∧ tscaleBad 0 = false ∧
    calm.tileInUse 2 = false := by
  decide +kernel
theorem tiles_may_be_moved : shaped.tileInUse 2 = false ∧ shapeRows (shaped.tile 2).shape = 4 ∧ shaped.pathBusy = false ∧
    (∀ u ∈ [Use.read, .write],
      shaped.checkRows 0 u 8 [0, 16, 32, 48] = .ok (places (shaped.checkRows 0 u 8 [0, 16, 32, 48])) ∧
      (places (shaped.checkRows 0 u 8 [0, 16, 32, 48])).length = 4) ∧ shaped.grp.saddled = false ∧ shaped.asets = [] ∧
    shaped.clear (.tload false 2 4 6 0) := by
  unfold State.clear; decide +kernel
theorem tile_may_be_transposed : 0 < shapeRows (shaped.tile 4).shape ∧ 0 < fmtSize (shapeFmt (shaped.tile 4).shape) ∧
    shapeRBytes (shaped.tile 4).shape / fmtSize (shapeFmt (shaped.tile 4).shape) ≤ 128 ∧
    shaped.clear (.txpose false 2 4) := by
  unfold State.clear; decide +kernel

/-- MatrixInstructions: an 8-bit integer product of 4 by 4 by 8; a drain of one row; a segment address; a task record. -/
def multiplying : State :=
  withS [(0, 4), (1, 4), (2, 8), (3, 1), (6, 0x000000000101_0010), (8, 0x0008_0000_0101_0010)] shaped
theorem product_may_be_queued :
    multiplying.clear (.mmai false 2 2 1 0) ∧
    multiplying.mmaBad 2 2 1 0 true (quadOf ((List.range 4).map fun i => multiplying.rs (BitVec.ofNat 6 i))) = none := by
  unfold State.clear; decide +kernel
theorem drain_may_be_queued : drainBad (multiplying.rs 6) false = false ∧ drainBad (multiplying.rs 6) true = false ∧
    (∃ ps, multiplying.MayAccessRows 0 .write ((drainDesc (multiplying.rs 6)).cols * (drainDesc (multiplying.rs 6)).size)
      (drainRows (multiplying.rs 7) (drainDesc (multiplying.rs 6))) ps) ∧
    multiplying.clear (.tdrain false 2 7 6 0) ∧ multiplying.clear (.tdrainRed false 2 7 6 0) := by
  refine ⟨by decide +kernel, by decide +kernel,
    ⟨places (multiplying.checkRows 0 .write ((drainDesc (multiplying.rs 6)).cols * (drainDesc (multiplying.rs 6)).size)
      (drainRows (multiplying.rs 7) (drainDesc (multiplying.rs 6)))), ?_⟩, ?_⟩
  · unfold State.MayAccessRows; decide +kernel
  · unfold State.clear; decide +kernel
theorem solver_may_be_queued : ∀ k ∈ [0, 2, 3], ∃ ps,
    (withS [(2, BitVec.ofNat 64 (k * 2 ^ 61))] calm).checkLanes k .read 8 true ((List.range 8).map fun i => (i, 8 * i)) =
      .ok ps := by
  intro k hk
  refine ⟨places (calm.checkLanes k .read 8 true ((List.range 8).map fun i => (i, 8 * i))), ?_⟩
  revert k
  decide +kernel
theorem task_may_be_submitted : ∃ ps, calm.checkLanes 0 .read 64 true [(0, 0)] = .ok ps :=
  ⟨places (calm.checkLanes 0 .read 64 true [(0, 0)]), by decide +kernel⟩

/-- The float side: two tiles of 4 rows of two f16 elements, 4 by 4 by 2. -/
def floatProduct : State :=
  let t := withS [(0, 4), (1, 4), (2, 2), (3, 1)] calm
  t.setTile 2 { Tile.zero with shape := BitVec.ofNat 64 (3 + 4 * 2 ^ 5 + 8 * 2 ^ 13) }
theorem float_product_may_be_queued : floatProduct.clear (.mma false 2 2 1 0 0) ∧
    floatProduct.mmaBad 2 2 1 0 false (quadOf ((List.range 4).map fun i => floatProduct.rs (BitVec.ofNat 6 i))) = none := by
  unfold State.clear; decide +kernel

/-- ReinsInstructions: the Reins held by slot h and offered to slot o, with a second span in slot 5. -/
def reined (h o : Option (BitVec 6)) : State :=
  { calm with
    core := { calm.core with holder := h, offer := o }
    rest := [{ calm.sp with id := { core := 0, slot := 5 }, rank := 1 }] }
theorem reins_cases : (ended .woken).clear (.reinsTake false) ∧ (reined none none).drained 4 = true ∧
    (∀ p ∈ (reined none none).rest, p.waitsReins = false) ∧
    (∃ p ∈ ({ reined none none with rest := [{ (ended .reins).sp with id := { core := 0, slot := 5 } }] } : State).rest,
      p.id.core = calm.sp.id.core ∧ p.waitsReins = true) ∧
    (reined (some 0) none).liveSlots 1 = [0, 5] ∧
    ({ reined (some 0) none with rest := [] } : State).liveSlots 1 = [0] := by
  unfold State.clear; decide +kernel

/-- EngineCommandsAndSleep: a Packhorse copy of 128 bytes within S. -/
def ordered : State :=
  { calm with sp := { calm.sp with
      window := ((calm.sp.window.set 0 1).set 1 (2 * 2 ^ 61)).set 2 (2 * 2 ^ 61 + 0x200) |>.set 3 128 } }
theorem command_may_start : ordered.clear (.eqgo false 2) ∧ ordered.commandWaits ordered.sp.window = false ∧
    ordered.checkCommand ordered.sp.window = none ∧ ordered.emptyCommand ordered.sp.window = false := by
  unfold State.clear; decide +kernel
theorem command_may_be_malformed : calm.clear (.eqgo false 2) ∧ calm.commandWaits calm.sp.window = false ∧
    (calm.checkCommand calm.sp.window).isSome = true := by
  unfold State.clear; decide +kernel
/-- A command of token 1 that has not moved its 128 bytes yet. -/
def aCommand : Command :=
  { token := 1, order := 1, words := ordered.sp.window, segs := calm.sp.segs, promise := 2000, unread := [(0, 128)], flight := [], done := 0, total := 128,
    undecremented := 0, trotter := 0, parked := none, failed := none, since := 0, lost := false, stopped := none, complete := false, joined := false,
    pc := 0, region := { pkg := 0, core := 0, slot := 0, path := 1, seq := 0 } }
def commanding (s : State) : State := { s with sp := { s.sp with cmds := [aCommand], lastTok := 1 } }
theorem commands_finished_or_not : calm.faultFor 1 = none ∧ calm.unfinished 1 = none ∧
    (commanding calm).faultFor 1 = none ∧ (commanding calm).unfinished 1 = some aCommand ∧
    (commanding (withS [(4, 1)] (ended .woken))).clear (.sleepp false 2 4) ∧
    (commanding (withS [(4, 1)] (ended .woken))).unfinished 1 = some aCommand := by
  unfold State.clear; decide +kernel
theorem sleeps_are_due_or_not : ((withS [(2, 1000)] calm).rs 2).toNat ≤ calm.now.toNat ∧
    calm.now.toNat < ((withS [(2, 1001)] calm).rs 2).toNat ∧ calm.gangWait ≠ some .woken ∧ calm.drained 4 = true := by
  decide +kernel

/-- GaitConversions: 32 zeros at threshold 2^127 leave no outlier; 32 values at 1.0 over the threshold 0.5 are all outliers. -/
def gaits (thr : DWord) (w : Word) : State :=
  { calm with sp := { calm.sp with regs := { calm.sp.regs with
      qthresh := thr
      v := calm.sp.regs.v.set 4 (Vector.replicate 32 w) } } }
/-- The prefix that names m3 for outliers. -/
def outliersInM3 : Option Pre := some { mask := 0, z := false, rnd := 0, vc := 3, sub := 5, sat := false, fill := false }
def gaitBlocks (s : State) : List (List Bool × List (Nat × FFlags) × GaitBlock) :=
  [0, 16].map fun k => quantise (s.mode outliersInM3) (gaitBits 0) (FVal.ofBits Fmt.f32 (fld s.seen.qthresh 0 32))
    ((List.range 16).map fun i => s.gaitSource false 4 (k + i))
theorem gaits_without_outliers : (gaits 0x7F800000 0).clear (.vqcvt outliersInM3 false 0 false 2 4 6) ∧
    ∀ b ∈ gaitBlocks (gaits 0x7F800000 0), b.2.1 = [] := by
  unfold State.clear; decide +kernel
theorem gaits_with_outliers : (gaits 0x3F000000 0x3F800000).clear (.vqcvt outliersInM3 false 0 false 2 4 6) ∧
    (∀ b ∈ gaitBlocks (gaits 0x3F000000 0x3F800000), b.2.1.length = 16) ∧
    ((gaits 0x3F000000 0x3F800000).rs 6).toNat % 2 = 0 ∧
    (gaits 0x3F000000 0x3F800000).rangeTrap 2 ((gaits 0x3F000000 0x3F800000).rs 6).toNat 64 true = none ∧
    (gaits 0x3F000000 0x3F800000).asets = [] := by
  unfold State.clear; decide +kernel
theorem gaits_back : calm.clear (.vdqcvt none false 0 false 2 4 6) ∧
    (deqFlags false (calm.mode none) (calm.gaitElementAt (gaitBits 0) 4)).trapsUnder calm.seen.status = false := by
  unfold State.clear; decide +kernel
/-- Lanes 0 and 31 of m3 are marked, and the list lies at S offset 0. -/
def marking : State :=
  { calm with sp := { calm.sp with regs := { calm.sp.regs with m := calm.sp.regs.m.set 3 0x80000001 } } }
def markedRead : Bool × State × MemOp :=
  marking.readNow { marking.newOp .load (.vec 2 false) 2 0 false with
    reqs := (marking.localPlaces 2 0 2 2).map fun q => reqAt q 2 0 0 }
theorem gaits_back_with_a_side_list : marking.clear (.vdqcvt outliersInM3 false 0 false 2 4 6) ∧
    positions 32 (bitOn (marking.rm 3)) = [0, 31] ∧ marking.sideListTrap (marking.rs 6).toNat 2 false = none ∧
    markedRead.1 = true ∧ (∀ q ∈ markedRead.2.2.reqs, q.status = .performed ∧ q.poison = false) := by
  unfold State.clear; decide +kernel

/-- BigResults, BigCompareAndLength: the sum that just fits, and no access on its way to the slot words. -/
def fitting : State := { brimful with sp := { brimful.sp with spillSlot := 1 } }
theorem numbers_fit : fitting.safe ∧ fitting.clear (.badd false 1 2 2) ∧ fitting.SlotsQuiet [2, 2] ∧ fitting.slotBusy 1 = false ∧
    bigLen (fitting.value 2 + fitting.value 2) = 32 + fitting.slotLimbs ∧ fitting.value 2 ≠ 0 ∧ calm.value 2 = 0 := by
  unfold State.safe State.clear State.SlotsQuiet; decide +kernel
/-- ExactWindow: each special of XWIN, and a zero, an infinity, a NaN and a number to convert. -/
theorem windows_of_each_kind : (∀ x ∈ [(0, 0), (1, 1), (2, 2), (3, 3)],
      xwinSpec (xwinPut 0 false x.1) = x.2) ∧ calm.clear (.xround false 1 2) ∧ calm.clear (.dotx false 2 4 6) ∧
    calm.slotBusy 2 = false ∧ FVal.ofBits Fmt.f64 0x7FF0000000000000 = .inf false ∧
    FVal.ofBits Fmt.f64 0x7FF8000000000000 = .nan false ∧ calm.SlotsQuiet [2] := by
  unfold State.clear State.SlotsQuiet; decide +kernel
/-- BigEngineOperations: a divisor that is not zero. -/
theorem divisions_may_start : brimful.clear (.bdiv false 4 2 3) ∧ brimful.SlotsQuiet [2, 3] ∧ brimful.value 3 ≠ 0 ∧
    brimful.clear (.bmodb false 4 3 2) ∧ brimful.SlotsQuiet [3, 2, next 2] ∧ brimful.value 2 ≠ 0 := by
  unfold State.clear State.SlotsQuiet; decide +kernel
/-- SpillsAndLongNumbers: descriptors at S 0, S 256 and S 512 of 2, 3 and no limbs, of capacity 32. -/
def described : State :=
  withS [(2, 2 * 2 ^ 61), (3, 2 + 32 * 2 ^ 32), (4, 2 * 2 ^ 61 + 256), (5, 3 + 32 * 2 ^ 32), (6, 2 * 2 ^ 61 + 512),
    (7, 32 * 2 ^ 32)] brimful
def descAt (s : State) (n : RegNo) : Desc := descOf (s.rs n) (s.rs (next n))
theorem spills_may_be_made : described.clear (.bspill false 2 6) ∧ (descAt described 6).allowed true = true ∧
    (described.rtag 2).len.toNat = (descAt described 6).cap ∧ described.SlotsQuiet [2] ∧
    (∃ ps, described.MayAccess 2 .write 4 true ((List.range 32).map fun i => (i, 512 + 4 * i)) ps) ∧
    (∃ ps, described.MayAccess 2 .read 4 true ((List.range 2).map fun i => (i, 4 * i)) ps) ∧ (calm.rtag 2).len = 0 := by
  refine ⟨?_, by decide +kernel, by decide +kernel, ?_, ⟨places (described.checkLanes 2 .write 4 true
    ((List.range 32).map fun i => (i, 512 + 4 * i))), ?_⟩, ⟨places (described.checkLanes 2 .read 4 true
    ((List.range 2).map fun i => (i, 4 * i))), ?_⟩, by decide +kernel⟩
  · unfold State.clear; decide +kernel
  · unfold State.SlotsQuiet; decide +kernel
  · unfold State.MayAccess; decide +kernel
  · unfold State.MayAccess; decide +kernel
/-- A sum and a product, whose bounds are 4 and 5 limbs; a comparison; a product by tiles, since NTTLIM is 2,048. -/
theorem long_numbers_may_start : described.grp.saddled = false ∧ max 2 3 + 1 ≤ (descAt described 6).cap ∧
    (∀ n ∈ [4, 5], described.rangesTrap
      [(descAt described 2, false, 2), (descAt described 4, false, 3), (descAt described 6, true, n)] = none) ∧
    described.rangesTrap [(descAt described 2, false, 2), (descAt described 4, false, 3)] = none ∧
    described.mulVia 2 3 = .tiles ∧ described.mulVia 0 3 = .trotter ∧ described.clear (.bladd false 6 2 4) ∧
    described.clear (.blmul false 6 2 4) ∧ ((withS [(4, 0xFFFFFFFFFFFFFFFD)] described).rs 4).toInt = -3 ∧ 0 < (described.rs 5).toInt := by
  unfold State.clear; decide +kernel

/-! ## Events -/

def me : SpanId := { core := 0, slot := 0 }
/-- A parted span that regang can join; a span that waits for its handler; a region that is full. -/
theorem waits_of_a_span : calm.spanOf me = some calm.sp ∧ (ended .regang).sp.allRegang = true ∧
    ((ended .regang).sp.slice 0).exited ≠ 15 ∧
    (({ calm with sp := { calm.sp with trapping := some (calm.trapOf 0 3, 0xFF, 0) } } : State).focus me).quietA = true ∧
    ({ calm with sp := { calm.sp with regSectors := 4096 } } : State).regionFull = true ∧
    ({ calm with sp := { calm.sp with regSectors := 4096 } } : State).sentDrained 4 = true ∧
    ({ calm with sp := { calm.sp with regSectors := 4095 } } : State).regionFull = false ∧ calm.sp.allRegang = false ∧
    calm.sp.trapping = none ∧
    (({ calm with
        sp := { calm.sp with trapping := some (calm.trapOf 0 3, 0xFF, 0) }
        memOps := [aLoad] } : State).focus me).quietA = false := by
  decide +kernel
/-- GrantsAndTimeouts: a span that waits for free Reins. -/
theorem reins_may_be_granted : (ended .reins).wantsReins 0 (ended .reins).sp := by unfold State.wantsReins; decide +kernel
/-- A request of one unit of vector registers that its pool has, and the same from an empty pool. -/
def requesting (v : Nat) : State :=
  { calm with core := { calm.core with
      teams := [{ launch := 0, teamv := v, teamt := 8, teama := 4 }]
      acqs := [{ span := me, gang := 0xFF, age := 0, v := 1, t := 0, a := 0, since := 0 }] } }
theorem requests_granted_or_not : (requesting 8).groupAt me = some calm.grp ∧ ((requesting 8).coreOf 0).acqs.length = 1 ∧
    ((requesting 8).coreOf 0).teams.map (fun t => (requesting 8).poolFree 0 t) = [(8, 0, 0)] ∧
    ((requesting 0).coreOf 0).teams.map (fun t => (requesting 0).poolFree 0 t) = [(0, 0, 0)] := by
  decide +kernel
/-- A request that has waited 1 µs of an ACQTMO of 1 µs, from a group that holds resources. -/
def outwaiting : State :=
  { requesting 0 with host := { calm.host with launches := [{ aLaunch with record := BitVec.ofNat 2048 (2 ^ 48) }] } }
theorem request_times_out : fld (outwaiting.recordBy 0) 48 16 = 1 ∧ outwaiting.grp.holds = true ∧
    outwaiting.grp.status = .running ∧ 0 + 1000 * 1 = outwaiting.now.toNat := by
  decide +kernel
/-- An operation that the free Reins let in. -/
def anOp (k : EngineKind) (accepted : Bool) : EngineOp :=
  { id := 1, span := me, kind := k, accepted := accepted, modq := 0, xwin := 0, segs := calm.sp.segs, clause := none,
    pc := 0, region := calm.region, progress := 0, slices := [], faulted := false, gathered := (false, 0),
    parked := none, failed := none, since := 0, lost := false }
def queueing (k : EngineKind) (accepted : Bool) : State := { calm with core := { calm.core with ops := [anOp k accepted] } }
theorem operation_may_be_accepted :
    ((queueing (.mprom 1) false).core :: (queueing (.mprom 1) false).cores).find?
      (fun c => c.ops.any fun o => o.id == 1 && !o.accepted) = some (queueing (.mprom 1) false).core ∧
    (queueing (.mprom 1) false).core.ops.find?
      (fun o => !o.accepted && (queueing (.mprom 1) false).core.accepts o.span.slot) = some (anOp (.mprom 1) false) := by
  decide +kernel
theorem phase_may_commit : (ended .phaseEnd).spanOf me = some (ended .phaseEnd).sp ∧ calm.groupOf 1 = some calm.grp ∧
    calm.grp.status = .running ∧ calm.grp.id ≠ 0 ∧ (ended .phaseEnd).commitReady 1 = true ∧
    (∀ q ∈ (ended .phaseEnd).spansOf 1, q.saddleWait = none) := by
  decide +kernel

/-- CachesAndDram: a dirty block of key slot 0, fetched or not, with its sectors of mask v; a DRAM block with n erroneous
bits. How many more a read meets is a free value. -/
def aBlock (v : BitVec 16) (fetched dirty : Bool) : MscBlock :=
  { block := 1, valid := v, fetched := fetched, dirty := dirty, poison := false, key := 0, chain := 5, prio := .normal, rewritten := 0 }
def cachedAs (b : MscBlock) (n : Nat) (poison : Bool) : State :=
  { calm with memsys := { calm.memsys with
      msc := [b]
      dram := [{ block := 1, poison := poison, errors := n, key := none }]
      scrubQ := [(1, 0)]
      demoted := [5]
      retired := [6]
      channels := [{ ch := channelOf 512, lastRequest := 0, selfRefresh := false, scrubbed := 0, lastScrub := 0 }] } }
def cached (n : Nat) : State := cachedAs (aBlock 1 true true) n false
theorem blocks_of_each_kind : localBacked 512 = true ∧ localBacked (2 ^ 41) = false ∧ (cached 16).mscOf 1 = some (aBlock 1 true true) ∧
    bitOn (aBlock 1 true true).valid (512 / 32 % 16) = true ∧ bitOn (aBlock 1 true true).valid (544 / 32 % 16) = false ∧
    ((cached 16).dramOf 1).errors = 16 ∧ ((cached 17).dramOf 1).errors = 17 ∧ ((cached 0).dramOf 1).errors = 0 ∧
    ((cachedAs (aBlock 1 true true) 0 true).dramOf 1).poison = true ∧ (∃ x ∈ (cached 1).memsys.scrubQ, x.1 = 1) ∧
    (∀ x ∈ (cached 1).memsys.scrubQ, x.1 ≠ 2) ∧ (cached 1).asleep (channelOf 512) = false ∧ (cached 1).safe := by
  unfold State.safe; decide +kernel
theorem blocks_to_write_back : (cachedAs (aBlock 0xFFFF false true) 3 false).mscOf 1 = some (aBlock 0xFFFF false true) ∧
    (aBlock 0xFFFF false true).dirty = true ∧ (aBlock 0xFFFF false true).valid = BitVec.allOnes 16 ∧
    (aBlock 1 true true).fetched = true ∧ ((cachedAs (aBlock 1 false true) 0 false).dramOf 1).errors = 0 ∧
    (cachedAs (aBlock 1 true false) 0 false).mscOf 1 = some (aBlock 1 true false) ∧ (aBlock 1 true false).dirty = false ∧
    calm.mscOf 1 = none := by
  decide +kernel
def asleepOne : State :=
  { calm with memsys := { calm.memsys with
      channels := [{ ch := channelOf 512, lastRequest := 0, selfRefresh := true, scrubbed := 0, lastScrub := 0 }] } }
/-- PowerChainsAndKeys: both sides of the idle limit and of the drowsy period. -/
theorem power_boundaries : (cached 0).asleep (channelOf 512) = false ∧ ((cached 0).channel (channelOf 512)).lastRequest = 0 ∧
    (cached 0).idleLimit (channelOf 512) = ({ cached 0 with now := 2000 } : State).now.toNat ∧
    ({ cached 0 with now := 1999 } : State).now.toNat < (cached 0).idleLimit (channelOf 512) ∧
    asleepOne.asleep (channelOf 512) = true ∧ vecAt calm.memsys.drowsyPeriod 0 8192 = 8192 ∧
    100 * 8192 ≤ 188 * ({ calm with now := 4358 } : State).now.toNat ∧ calm.memsys.drowsy = [] ∧ calm.memsys.bankUse = [] ∧
    188 * ({ calm with now := 4357 } : State).now.toNat < 188 * 0 + 100 * 8192 := by
  decide +kernel
theorem chains_and_counters : (5 : BitVec 12) ∈ (cached 0).memsys.demoted ∧ (6 : BitVec 12) ∈ (cached 0).memsys.retired ∧
    (5 : BitVec 12) ∉ (cached 0).memsys.retired ∧ (6 : BitVec 12) ∉ (cached 0).memsys.demoted ∧
    calm.counterOf (.sram 0) ≠ BitVec.allOnes 64 ∧ (∀ b ∈ (cached 0).memsys.msc, b.key ≠ 1) ∧
    (∀ l ∈ (cached 0).memsys.lines, l.slot ≠ 1) := by
  decide +kernel

/-- An access of one lane at key 64, of each kind, in a state that can perform it. -/
def sending (k : AccessKind) (st : ReqStatus) : State :=
  { calm with memOps := [{ aLoad with kind := k, reqs := [{ aRequest with status := st }] }] }
def sendingOp (k : AccessKind) (st : ReqStatus) : MemOp := { aLoad with kind := k, reqs := [{ aRequest with status := st }] }
def isAdmitted : Admission → Bool
  | .admitted _ => true
  | _ => false
def refusedBy : Admission → Option RegionId
  | .refused r => some r
  | _ => none
theorem admitted_of {a : Admission} (h : isAdmitted a = true) : ∃ t, a = .admitted t := by
  cases a <;> simp_all [isAdmitted]
theorem refused_of {a : Admission} {r : RegionId} (h : refusedBy a = some r) : a = .refused r := by
  cases a <;> simp_all [refusedBy]
/-- AccessesAtHome, StoresAreAcknowledged: a load, a store and a flush in sector 2. -/
theorem accesses_may_be_performed : ∀ k ∈ [AccessKind.load, .store, .flush],
    (sending k .sent).opOf 1 = some (sendingOp k .sent) ∧ (sending k .sent).heldBehind (sendingOp k .sent) 2 = false ∧
    (sending k .sent).onFabric 1 2 = false ∧ (sending k .sent).reaches (fabricDie me.core) (2 * 32) = true ∧
    (sending k .sent).invalidating (2 / 4) = false ∧ (∀ d ∈ (sending k .sent).memsys.dram, d.errors ≤ 17) ∧
    (∀ q ∈ (sendingOp k .sent).reqs, q.key / 32 = 2 ∧ q.status = .sent ∧
      (sending k .sent).otherKey ((sending k .sent).keyFor q.slot q.key) (q.key / 512) = none) ∧ (sending k .sent).safe := by
  unfold State.safe; decide +kernel
/-- A store of a task with a log. -/
theorem logged_store_may_be_performed :
    ({ calm with memOps := [{ sendingOp .store .sent with logged := true }] } : State).opOf 1 =
      some { sendingOp .store .sent with logged := true } ∧ calm.groupOf 1 = some calm.grp := by
  decide +kernel
theorem accesses_may_be_admitted : ∀ k ∈ [AccessKind.load, .store, .red 0 0],
    ∃ t, (sending k .sent).admitReqs (sendingOp k .sent) (sendingOp k .sent).reqs = .admitted t := by
  intro k hk
  apply admitted_of
  revert k
  decide +kernel
/-- The sector has been written by another span's region. -/
def clashing : State :=
  let r : RegionId := calm.regionId { calm.sp with id := { core := 1, slot := 0 } } 0 0
  let o : MemOp := { aLoad with kind := .store, checked := true, region := r, reqs := [{ aRequest with region := r }] }
  { calm with
    memOps := [o]
    records := [{ sector := 2, wreg := some calm.region, wmask := 255, rreg0 := none, rmask0 := 0, rreg1 := none, rmask1 := 0, redn := 0, redlast := none, redmask := 0, task := none }]
    sp := { calm.sp with regions := [{ id := calm.region, ended := false, reduced := [] }] } }
theorem access_may_be_refused : ∀ o ∈ clashing.memOps, clashing.opOf 1 = some o ∧ o.kind = .store ∧
    clashing.heldBehind o 2 = false := by
  decide +kernel
theorem access_is_refused : ∀ o ∈ clashing.memOps, clashing.admitReqs o o.reqs = .refused calm.region := by
  intro o ho
  apply refused_of
  revert o
  decide +kernel
/-- Alone, and with a request in another sector that is still to be performed. -/
theorem store_may_be_acknowledged : (sending .store .performed).opOf 1 = some (sendingOp .store .performed) ∧
    (sending .store .performed).invalidating (2 / 4) = false ∧ (sending .store .performed).replying 1 2 = false ∧
    (∀ q ∈ (sendingOp .store .performed).reqs, q.key / 32 = 2 ∧ q.status = .performed) ∧
    (∀ x ∈ (sending .store .performed).memOps, ∀ q ∈ x.reqs, q.status = .performed) ∧
    (∃ q ∈ [{ aRequest with status := .performed }, { aRequest with key := 96 }], q.key / 32 ≠ 2 ∧ q.status = .sent) := by
  decide +kernel
/-- AtomicsAtHome: an `amo.add.u32` and a `red.add.u32`. -/
theorem atomics_may_be_performed : ∀ k ∈ [AccessKind.amo 0 0, .red 0 0],
    (sending k .sent).opOf 1 = some (sendingOp k .sent) ∧
    ((sendingOp k .sent).reqs.find? fun x => x.lane == 0 && x.status == .sent) = some { aRequest with status := .sent } ∧
    laneWaits (sendingOp k .sent) { aRequest with status := .sent } = false ∧
    (sending k .sent).heldBehind (sendingOp k .sent) 2 = false ∧ (sending k .sent).onFabric 1 (64 / 32) = false ∧
    (sending k .sent).reaches (fabricDie me.core) 64 = true ∧ (sending k .sent).syncBlocked me 64 4 = false ∧
    (sending k .sent).otherKey ((sending k .sent).keyFor 0 64) (64 / 512) = none ∧
    (((sending k .sent).cacheRead none 64 0 ((sendingOp k .sent).policy { aRequest with status := .sent })).poisoned 64) = false := by
  decide +kernel
/-- Nothing is merged into the reduction, so admitting its parts changes nothing. -/
theorem reduction_stands_alone : ∀ k ∈ [AccessKind.red 0 0], (sending k .sent).memOps.all (fun o =>
    (o.reqs.filter fun q => q.status == .merged 1 0).isEmpty) = true := by
  decide +kernel
/-- Barriers, arrivals, and two reductions of die 0 to one word of die 1. -/
theorem barrier_may_be_performed : (sending (.bar 1) .sent).heldBehind (sendingOp (.bar 1) .sent) 2 = false ∧
    (sending (.bar 1) .sent).syncBlocked me 64 16 = false ∧ (sending (.bar 1) .sent).poisoned 64 = false ∧
    (sending (.bar 1) .sent).otherKey ((sending (.bar 1) .sent).keyFor 0 64) (64 / 512) = none ∧
    (sending (.bar 1) .acked).opOf 1 = some (sendingOp (.bar 1) .acked) ∧
    (sending (.bar 1) .acked).answering (sendingOp (.bar 1) .acked) = false := by
  decide +kernel
def farRequest : Req := { aRequest with key := 2 ^ 37 + 64 }
def farRed (n : Nat) (k : Nat) : MemOp := { aLoad with id := n, kind := .red 0 0, reqs := [{ aRequest with key := k }] }
def farReds (k : Nat) : State := { calm with memOps := [farRed 1 (2 ^ 37 + 64), farRed 2 k] }
theorem reductions_may_be_combined : (farReds (2 ^ 37 + 64)).opOf 1 = some (farRed 1 (2 ^ 37 + 64)) ∧
    (farReds (2 ^ 37 + 64)).opOf 2 = some (farRed 2 (2 ^ 37 + 64)) ∧
    (farReds (2 ^ 37 + 64)).mergeable (farRed 1 (2 ^ 37 + 64)) (farRed 2 (2 ^ 37 + 64)) farRequest farRequest = true ∧
    (farReds 64).mergeable (farRed 1 (2 ^ 37 + 64)) (farRed 2 64) farRequest aRequest = false := by
  decide +kernel
/-- RegionsWalksAndSaddles. -/
def closing : State :=
  { calm with sp := { calm.sp with regions := [{ id := calm.region, ended := true, reduced := [] }] } }
theorem region_may_close : closing.holderOf calm.region = some closing.sp ∧ closing.closable calm.region = true := by
  decide +kernel
def shared (inval confirm : BitVec 5) : State :=
  { calm with memsys := { calm.memsys with sharers := [{ line := 3, vector := 2, inval := inval, confirm := confirm }] } }
theorem sharers_may_be_invalidated : bitOn ((shared 2 0).sharersOf 3).inval 1 = true ∧
    bitOn ((shared 0 2).sharersOf 3).confirm 1 = true ∧ bitOn ((shared 2 0).sharersOf 3).confirm 1 = false ∧
    bitOn ((shared 0 2).sharersOf 3).inval 1 = false := by
  decide +kernel
/-- A walk for page 1 through tables whose entries are absent, violate, or map; and one behind 64 others. -/
def aWalk (n : BitVec 16) : Walk := { id := n, die := 0, asid := 0, va := 0x10000, kind := 0, absent := none, joined := 1 }
def walking (entries : List (Nat × Nat)) : State :=
  { calm with
    mem := entries.foldl (fun m e => Memory.put m e.1 (bytesLE 8 e.2)) []
    memsys := { calm.memsys with walks := [aWalk 1], asidBase := 0x1000 } }
theorem walks_of_each_kind : (walking []).memsys.walks.find? (fun y => y.id == 1) = some (aWalk 1) ∧
    ((walking []).walkers 0).any (fun y => y.id == 1) = true ∧
    (walking []).walk 0 0x10000 = .error .violation ∧ (walking [(0x1000, 0x4001)]).walk 0 0x10000 = .error .absent ∧
    (walking [(0x1000, 0x4001), (0x4000, 8 * 2 ^ 27 + 1), (0x8000, 15)]).walk 0 0x10000 = .ok (15, 29) := by
  decide +kernel
def crowded : State :=
  { calm with memsys := { calm.memsys with walks := (List.range 65).map fun n => aWalk (BitVec.ofNat 16 n) } }
theorem walk_may_queue : crowded.memsys.walks.find? (fun y => y.id == 64) = some (aWalk 64) ∧
    (crowded.walkers 0).any (fun y => y.id == 64) = false := by
  decide +kernel
/-- A span that waits for the granule at S 0, with nothing saddled; with the granule held by its own group, and by an older
one; and with an older waiter. -/
def touching : State := ended (.saddle (scratchKey 0 0) [scratchKey 0 0 / 32])
def granule (h : GroupId) (age : BitVec 96) : Saddle :=
  { launch := 0, home := homeOf (scratchKey 0 0), anchor := scratchKey 0 0, sectors := [scratchKey 0 0 / 32], holder := h, age := age }
def grown (s : State) (age : BitVec 96) : State := { s with grp := { s.grp with bindRec := { s.grp.bindRec with age := age } } }
def elder : State :=
  let t := grown touching 9
  { t with
    groups := [{ calm.grp with id := 2 }]
    rest := [{ touching.sp with id := { core := 0, slot := 5 }, group := 2 }] }
theorem saddle_may_be_touched : touching.sp.saddleWait = some (scratchKey 0 0, [scratchKey 0 0 / 32]) ∧
    touching.groupOf 1 = some touching.grp ∧ touching.saddleWaiter touching.sp = true ∧
    touching.olderWaits touching.grp (scratchKey 0 0) = false ∧ touching.touchFree touching.grp (scratchKey 0 0) = true ∧
    touching.grantable touching.grp (touching.grp.record (scratchKey 0 0) [scratchKey 0 0 / 32]) = true ∧
    touching.saddleAt 0 (scratchKey 0 0) = none ∧
    ({ touching with saddles := [granule 1 0] } : State).saddleAt 0 (scratchKey 0 0) = some (granule 1 0) := by
  decide +kernel
theorem saddle_may_be_waited_for :
    ({ grown touching 9 with saddles := [granule 2 5] } : State).touchFree (grown touching 9).grp (scratchKey 0 0) = false ∧
    elder.olderWaits elder.grp (scratchKey 0 0) = true ∧
    ({ touching with grp := { touching.grp with status := .unseating } } : State).saddleWaiter touching.sp = false := by
  decide +kernel
/-- A younger holder's granule may be had, and no record can be made for it yet. -/
theorem saddle_may_be_free_and_full : ({ touching with saddles := [granule 2 5] } : State).touchFree touching.grp (scratchKey 0 0) = true ∧
    ({ touching with saddles := [granule 2 5] } : State).grantable touching.grp
      (touching.grp.record (scratchKey 0 0) [scratchKey 0 0 / 32]) = false := by
  decide +kernel
/-- A group that is being unseated, with a log entry, without and with an unfinished command. -/
def unseating : State :=
  { calm with grp := { calm.grp with
      status := .unseating
      log := [{ pa := 0, key := 0, mask := 1, seq := 0, old := 7 }] } }
theorem log_may_be_replayed : unseating.groupOf 1 = some unseating.grp ∧ unseating.groupPerformed 1 = true ∧
    unseating.groupWorks 1 = false ∧ (commanding unseating).groupWorks 1 = true ∧
    ({ unseating with memOps := [aLoad] } : State).groupPerformed 1 = false := by
  decide +kernel

/-- The launch record of `add1024` (Table 16.1), with SCR as given. -/
def add1024Record (scr : Nat) : Nat := 1 + 4 * 2 ^ 40 + scr * 2 ^ 352 + 0x200000001 * 2 ^ 448 + 0x20000000010000 * 2 ^ 1024
/-- FabricEvents: a packet of router 3 of die 0 for router 5, at an input where it has stalled for t cycles, or elsewhere. -/
def stopAt (r : Nat) : Stop := { die := 0, router := r, ni := 0 }
def aPacket (t m : Nat) (pos : PacketPos) : Packet :=
  { id := 1, cargo := .request 1 2, src := stopAt 3, dst := stopAt 5, flits := 1, light := false, pos := pos, wait := 0,
    misroutes := m, stall := t, expired := decide (2048 ≤ t), origin := none }
def carrying (p : Packet) : State := { calm with fabric := { calm.fabric with packets := [p] } }
theorem packets_of_each_kind :
    (∀ p ∈ [aPacket 2048 0 (.input 0 3 1), aPacket 2047 0 (.input 0 3 1), aPacket 1024 1 (.input 0 3 1), aPacket 1024 2 (.input 0 3 1),
        aPacket 0 0 (.bridle 0 5), aPacket 0 0 (.bridle 0 3), aPacket 0 0 (.slot (stopAt 5)), aPacket 0 0 (.ni (stopAt 3))],
      (carrying p).packetOf 1 = some p) ∧ calm.packetOf 1 = none ∧
    (carrying (aPacket 2048 0 (.input 0 3 1))).thresholdOf 0 = 2048 ∧
    (carrying (aPacket 0 0 (.bridle 0 5))).freePos (.slot (stopAt 5)) = true := by
  decide +kernel
/-- Router 3 has a port that does not lead to router 5 and is free. -/
theorem packet_may_be_misrouted :
    (carrying (aPacket 1024 1 (.input 0 3 1))).freeOf 0
      ((carrying (aPacket 1024 1 (.input 0 3 1))).choices 0 3 (aPacket 1024 1 (.input 0 3 1)) false) ≠ [] := by
  decide +kernel
def aHalter (stop : Option Nat) (unseen : Nat) : Halter := { die := 0, stop := stop, unseen := unseen }
def haltered (h : Halter) (p : Packet) : State := { carrying p with fabric := { (carrying p).fabric with halters := [h] } }
theorem halters_of_each_kind : calm.fabric.halters.find? (fun x => x.die == 0) = some (aHalter (some 0) 0) ∧
    (haltered (aHalter none 128) (aPacket 0 0 .done)).fabric.halters.find? (fun x => x.die == 0) = some (aHalter none 128) ∧
    2 * routersOf 0 = 128 ∧ ({ calm with fabric := { calm.fabric with halters := [] } } : State).fabric.halters = [] ∧
    (haltered (aHalter (some 3) 0) (aPacket 2048 0 (.input 0 3 1))).suspect 0 3 = some (aPacket 2048 0 (.input 0 3 1)) ∧
    (haltered (aHalter (some 3) 0) (aPacket 2048 0 (.input 0 3 1))).freePos (.bridle 0 3) = true ∧
    calm.suspect 0 0 = none ∧ calm.counterOf (.drains 0 3) ≠ BitVec.allOnes 64 := by
  decide +kernel
theorem routers_gate : calm.lastFlit 0 3 + 512 ≤ fabricCycles calm.now ∧ calm.packetIn 0 3 = false ∧ 3 < routersOf 0 ∧
    calm.powered 0 3 = true ∧ (carrying (aPacket 0 0 (.input 0 3 1))).packetIn 0 3 = true ∧ routersOf 0 = 64 ∧
    fabricCycles ({ calm with now := 0 } : State).now < calm.lastFlit 0 3 + 512 := by
  decide +kernel
def dozing (gated waking : List (DieId × Nat × Nat)) : State :=
  { calm with fabric := { calm.fabric with gated := gated, waking := waking } }
theorem routers_wake : (dozing [] [(0, 3, 0)]).fabric.waking.find? (fun y => y.1 == 0 && y.2.1 == 3) = some (0, 3, 0) ∧
    (dozing [] [(0, 3, 7)]).fabric.waking.find? (fun y => y.1 == 0 && y.2.1 == 3) = some (0, 3, 7) ∧
    (dozing [] []).isGated 0 3 = false ∧ (dozing [(0, 3, 5)] []).powered 0 3 = false ∧
    (dozing [(0, 3, 5)] []).fabric.gated.find? (fun y => y.1 == 0 && y.2.1 == 3) = some (0, 3, 5) ∧ 5 ≠ fabricCycles calm.now ∧
    (dozing [(0, 3, fabricCycles calm.now)] []).fabric.gated.find? (fun y => y.1 == 0 && y.2.1 == 3) =
      some (0, 3, fabricCycles calm.now) := by
  decide +kernel
/-- LinkEvents: links of n lanes that have failed before; those of die 0 are links 0 to 3. -/
def anyWays (fs : List LinkFlit) : Vector GirthWay 2 := Vector.replicate 2 { next := 1, replay := fs, delivered := 0xFFF }
def linked (n : Nat) (fs : List LinkFlit) : State :=
  { carrying (aPacket 0 0 (.girth 0 0 0)) with fabric := { (carrying (aPacket 0 0 (.girth 0 0 0))).fabric with
      girth := Vector.replicate 10 { lanes := n, failures := [1000, 1000], ways := anyWays fs } } }
def aFlit (ok : Bool) : LinkFlit := { seq := 0, index := 0, packet := 1, left := 0, accepted := ok, ack := 0 }
theorem links_retrain : ((linked 20 []).fabric.girth[0]).lanes = 20 ∧ ((linked 0 []).fabric.girth[0]).lanes = 0 ∧
    3 ≤ (calm.now :: ((linked 20 []).fabric.girth[0]).failures.filter fun t => decide ((calm.now - t).toNat ≤ 10000)).length ∧
    (calm.now :: ((calm.fabric.girth[0]).failures.filter fun t => decide ((calm.now - t).toNat ≤ 10000))).length < 3 ∧
    calm.counterOf (.girth 0) ≠ BitVec.allOnes 64 ∧
    (∀ ok ∈ [false, true], (linked 20 [aFlit ok]).fabric.packets[0]? = some (aPacket 0 0 (.girth 0 0 0)) ∧
      ∀ f ∈ (vecAt ((linked 20 [aFlit ok]).fabric.girth[0]).ways 0 { next := 0, replay := [], delivered := 0 }).replay,
        f.packet = 1 ∧ f.accepted = ok) := by
  decide +kernel
/-- The state in which link l has gone down. -/
def downed (s : State) (l : Fin 10) : State :=
  { s.rerouted l with
    fabric := { (s.rerouted l).fabric with girth := s.fabric.girth.set l.val { s.fabric.girth[l.val] with
      lanes := 0, failures := [], ways := vecMap (s.fabric.girth[l.val]).ways fun _ w => { w with replay := [] } } },
    host := { s.host with errors := .girthDown l :: s.host.errors } }
/-- All links but those of the dies of ds are up, link 3 (dies 0 and 4) at 10 lanes after a failure. -/
def cutting (ds : List Nat) : State :=
  { calm with fabric := { calm.fabric with
      girth := Vector.ofFn fun i : Fin 10 =>
        { lanes := if i.val = 3 then 10 else if ds.any (fun d => (girthDies i).1.val == d || (girthDies i).2.val == d) then 0 else 20,
          failures := [1000], ways := anyWays [] } } }
theorem links_go_down : (girthDies 3).1 = 0 ∧ (girthDies 3).2 = 4 ∧ ((linked 20 []).fabric.girth[3]).lanes ≠ 10 ∧
    (∀ ds ∈ [[], [0], [4], [0, 4]], ((cutting ds).fabric.girth[3]).lanes = 10 ∧ ((cutting ds).fabric.girth[3]).failures ≠ [] ∧
      (downed (cutting ds) 3).cutOff 0 = ds.contains 0 ∧ (downed (cutting ds) 3).cutOff 4 = ds.contains 4) := by
  decide +kernel
/-- A load and a store of another package, in a domain of two, before and after the Hitch timeout. -/
def reaching (k : AccessKind) (d : Dest) (t : DWord) : State :=
  { calm with
    memOps := [{ aLoad with kind := k, dest := d, reqs := [{ aRequest with key := 2 ^ 42 }] }]
    fabric := { calm.fabric with domain := [0, 1] }
    now := t }
theorem accesses_time_out :
    (∀ k ∈ [(AccessKind.load, Dest.vec 2 false, true), (.store, .none, false)], ∀ o ∈ (reaching k.1 k.2.1 200000).memOps,
      o.returns = k.2.2 ∧ (reaching k.1 k.2.1 200000).opOf 1 = some o ∧
      ∀ q ∈ o.reqs, (reaching k.1 k.2.1 200000).lostReq o q = true ∧ q.status.back = false ∧ q.status ≠ .queued ∧
        (reaching k.1 k.2.1 199999).lostReq o q = false) ∧
    (∃ q ∈ [aRequest], q.status.back = false ∧ (reaching .load (.vec 2 false) 200000).lostReq aLoad q = false) ∧
    (∀ x ∈ (reaching .store .none 200000).memOps, ∀ q ∈ x.reqs, q.status = .sent) := by
  decide +kernel
theorem work_times_out : (commanding calm).opOf (2 ^ 64 + 1) = none ∧ calm.fabric.domain.length ≤ 1 ∧
    1 < (reaching .load .none 200000).fabric.domain.length ∧ aCommand.order = 1 ∧
    (reaching .load .none 200000).overdue aCommand.since = true := by
  decide +kernel
/-- A launch of one group whose stitch level asks for code 1. -/
def stitchRecord : BitVec 2048 := BitVec.ofNat 2048 (add1024Record 16 + 2 ^ 8 + 2 ^ 28 + 0x400000001 * 2 ^ 512)
def stitching : State := { calm with host := { calm.host with launches := [{ aLaunch with record := stitchRecord }] } }
theorem stitch_may_be_made : stitching.stitchWanted = [(0, 0, 1, 1)] ∧ stitching.stitchFits 0 1 1 = true ∧
    stitching.stitchFits 0 3 1 = false ∧ (1 : BitVec 3) ≠ 0 := by
  decide +kernel
theorem domains_and_spares : calm.sparesEmpty 0 1 = true ∧
    (carrying (aPacket 0 0 (.input 0 3 sparePort))).sparesEmpty 0 15 = false ∧ calm.stitchWanted = [] ∧
    (191 : BitVec 8).toNat < 192 ∧ 192 ≤ (192 : BitVec 8).toNat := by
  decide +kernel

/-- HostTraffic: a write of 4 bytes of domain 0 at 64, before and after its release, and after its performance. -/
def aDomain : OrderDomain := { port := false, vc := 0, requester := none }
def aPosted (released : Bool) (packets : List (Nat × Nat)) (dw : Option DWord) : Posted :=
  { id := 1, dom := aDomain, relaxed := false, pa := 64, data := [1, 2, 3, 4], released := released,
    routes := if released then [0] else [], packets := packets, dwin := dw }
def posting (p : Posted) : State := { calm with host := { calm.host with posted := [p] } }
theorem posted_writes_of_each_kind :
    (∀ p ∈ [aPosted false [] none, aPosted false [] (some 0x1000), aPosted true [(0, 4)] none, aPosted true [] none,
        { aPosted false [] none with data := [] }, { aPosted false [] none with pa := 2 ^ 41 }],
      (posting p).host.posted.find? (fun q => q.id == 1) = some p ∧ ∀ q ∈ (posting p).host.posted, ¬q.id < p.id) ∧
    packetsOf 2 64 0 4 = [(0, 4)] ∧ packetsOf 2 64 0 0 = [] ∧ localBacked 64 = true ∧ localBacked (2 ^ 41) = false ∧
    homeDie 64 = 0 := by
  decide +kernel
/-- Two writes of one domain; DWIN at 0 maps the window to main memory at 0. -/
def twoPosted : State :=
  { calm with host := { calm.host with posted := [aPosted false [] none, { aPosted false [] none with id := 2 }] } }
theorem posted_writes_wait : twoPosted.host.posted.find? (fun q => q.id == 2) = some { aPosted false [] none with id := 2 } ∧
    (∃ q ∈ twoPosted.host.posted, q.id < 2 ∧ standsBehind aDomain q.dom = true) ∧
    (∀ q ∈ twoPosted.host.posted, q.id ≠ 3) ∧ calm.canonPa (calm.windowPa false 64) = 64 ∧
    calm.canonPa (({ calm with host := { calm.host with bar0 := { calm.host.bar0 with dwin0 := 2 ^ 41 + 2 ^ 42 } } } : State).windowPa false 64) =
      2 ^ 41 + 2 ^ 42 + 64 := by
  decide +kernel
theorem routes_of_each_kind :
    (posting (aPosted true [(0, 4)] none)).transiting (.posted 1 0) = false ∧
    (({ carrying { aPacket 0 0 (.input 0 3 1) with cargo := .posted 1 0 } with
        host := (posting (aPosted true [(0, 4)] none)).host } : State).transiting (.posted 1 0)) = true ∧
    (∀ c ∈ (aPosted true [] none).cutsFor 0, (posting (aPosted true [] none)).invalidating (lineOf (64 + c.1)) = false) ∧
    (∃ d ∈ ({ aPosted true [] none with routes := [0, 1] } : Posted).routes, d ≠ 0) ∧ (1 : DieId) ∉ (aPosted true [] none).routes ∧
    (posting (aPosted true [(0, 4)] none)).otherKey ((posting (aPosted true [(0, 4)] none)).keyFor 0 64) (64 / 512) = none ∧
    (posting (aPosted true [(0, 4)] none)).safe ∧ (posting (aPosted true [(0, 4)] none)).host.heldReads = [] := by
  unfold State.safe; decide +kernel
/-- A write whose line still has an invalidation outstanding. -/
theorem route_may_wait_for_sharers : (∃ c ∈ (aPosted true [] none).cutsFor 0,
    ({ posting (aPosted true [] none) with memsys := { calm.memsys with
      sharers := [{ line := lineOf 64, vector := 0, inval := 2, confirm := 0 }] } } : State).invalidating (lineOf (64 + c.1)) = true) := by
  decide +kernel
theorem reads_wait_or_not : (∀ q ∈ calm.host.posted, standsBehind aDomain q.dom = false) ∧ calm.host.heldReads = [] ∧
    (∃ q ∈ (posting (aPosted false [] none)).host.posted, standsBehind aDomain q.dom = true) ∧ calm.memsys.dram = [] := by
  decide +kernel
theorem device_writes_go_in_order : calm.host.devWrites = [] ∧
    ({ calm with host := { calm.host with devWrites := [{ id := 5, key := 2 ^ 63, data := [1] }] } } : State).host.devWrites =
      [{ id := 5, key := 2 ^ 63, data := [1] }] := by
  decide +kernel

/-- HostRegistersAndManagement: rings of 16 entries, and one that is disabled; a ring with an entry; walks that FAULTACK
names; the first synchronisation and a later one. -/
def ringed (size : DWord) (tail : BitVec 16) : State :=
  { calm with host := { calm.host with queues := [{ port := false, num := 3, base := 0, size := size, head := 0, tail := tail }] } }
theorem rings_have_sizes : ringSize 4 = some 16 ∧ ringSize 16 = some 65536 ∧ ringSize 17 = none ∧ ringSize 3 = none ∧
    ((ringed 4 0).queueOf false 3).size = 4 ∧ ringSize ((ringed 3 0).queueOf false 3).size = none ∧
    fld (15 : DWord) 0 16 < 16 ∧ 16 ≤ fld (16 : DWord) 0 16 ∧ (calm.queueOf true 255).head = (calm.queueOf true 255).tail ∧
    ((ringed 4 1).queueOf false 3).head ≠ ((ringed 4 1).queueOf false 3).tail ∧
    (0x10000 + 32 * 255 < 2 ^ 20) ∧ (0x11FE8 : BitVec 20).toNat = 0x10008 + 32 * 255 ∧ calm.host.reports = [] ∧
    (0x12000 : BitVec 20).toNat % 32 = 0 ∧ (0x10010 : BitVec 20).toNat % 32 ≠ 0 := by
  decide +kernel
theorem walk_may_be_answered : (walking []).memsys.walks.find? (fun y => y.id.toNat == fld (0x10001 : DWord) 0 16) = some (aWalk 1) ∧
    (walking []).memsys.walks.find? (fun y => y.id.toNat == fld (2 : DWord) 0 16) = none ∧
    bitOn (0x10001 : DWord) 16 = true ∧ bitOn (1 : DWord) 16 = false := by
  decide +kernel
theorem timebase_sources : calm.host.tbSource ≠ 1 ∧ (!calm.host.tbSet && calm.host.nextSeq == 0) = true ∧
    (!({ calm with host := { calm.host with tbSet := true } } : State).host.tbSet && calm.host.nextSeq == 0) = false ∧
    ({ calm with host := { calm.host with tbSource := 1 } } : State).host.tbSource = 1 ∧
    calm.counterOf (.throttle 0) ≠ BitVec.allOnes 64 := by
  decide +kernel

/-- CommandsAndOutcomes: an entry of operation op in the ring of queue 3 of port 0, at 0x1000, with the record of `add1024`
(Table 16.1) at 0x2000 and its image at 0. -/
def anEntry (op : Nat) : List Byte := bytesLE 64 (op + 0x2000 * 2 ^ 64)
def submitting (op rec_ : Nat) : State :=
  { calm with
    mem := Memory.put (Memory.put (Memory.put [] 0x2000 (bytesLE 256 rec_)) 0x1000 (anEntry op)) 0 [12]
    host := { calm.host with
      bar0 := { calm.host.bar0 with studbase := 0x8000 }
      queues := [{ port := false, num := 3, base := 0x1000, size := 4, head := 0, tail := 1 }] } }
def recordOf (s : State) : BitVec 2048 := BitVec.ofNat 2048 (leOf (s.readCoded 0x2000 0 256))
/-- The state in which the entry has been accepted, and that in which its record has been read. -/
def acceptedAs (op rec_ : Nat) : State := ((submitting op rec_).accept false 3 (anEntry op)).2
def readAs (op rec_ : Nat) : State := (acceptedAs op rec_).readThrough (codedKey 0x2000) 256
theorem entries_may_be_accepted : (∀ op ∈ [0, 1, 2, 3], (submitting op 0).nextEntry false 3 = some (anEntry op) ∧
    ringSize ((submitting op 0).queueOf false 3).size = some 16 ∧ entryOp (anEntry op) = op ∧
    BitVec.ofNat 64 (fld (BitVec.ofNat 512 (leOf (anEntry op))) 64 64) = (0x2000 : DWord)) ∧ calm.nextEntry false 3 = none := by
  decide +kernel
theorem launch_may_be_admitted :
    (readAs 1 (add1024Record 16)).refusal (recordOf (acceptedAs 1 (add1024Record 16))) = none := by
  decide +kernel
/-- R382, test 5: 8 KiB of spill slots do not fit 7 KiB of scratch. -/
theorem launch_may_be_refused :
    (readAs 1 (add1024Record 7)).refusal (recordOf (acceptedAs 1 (add1024Record 7))) = some 5 := by
  decide +kernel
def aStud (op : BitVec 8) (sig : DWord × DWord) : Stud :=
  { seq := 0, time := 0, queue := 3, event := false, outcome := 0, code := 0, done := 0, digest := 0, op := op, arg := 0,
    sig := sig, verdict := none }
def awaiting (op : BitVec 8) (sig : DWord × DWord) : State :=
  { calm with host := { calm.host with
      stud := [aStud op sig]
      launches := [{ aLaunch with liveGroups := 0 }] } , sp := Span.zero, grp := Group.zero }
theorem launch_outcome_is_due :
    (awaiting 1 (8, 1)).host.stud.find? (fun y => y.seq == 0 && y.outcome == 0 && !y.event) = some (aStud 1 (8, 1)) ∧
    (awaiting 1 (8, 1)).verdictOf (aStud 1 (8, 1)) = some (1, 0) ∧
    ({ awaiting 1 (8, 1) with host := { (awaiting 1 (8, 1)).host with launches := [aLaunch] } } : State).verdictOf
      (aStud 1 (8, 1)) = none ∧ (awaiting 1 (8, 1)).safe := by
  unfold State.safe; decide +kernel
theorem signal_outcome_is_due : (awaiting 2 (0x8000000000000008, 1)).verdictOf (aStud 2 (0x8000000000000008, 1)) = some (1, 0) ∧
    bitOn (0x8000000000000008 : DWord) 63 = true := by
  decide +kernel

/-- BoxesAndBinds: a box of each state for group 0 of a launch of `add1024`, with nothing resident. -/
def aBox (state : BitVec 3) : Box := { die := 0, num := 7, state := state, bindRec := { zeroBind with basev := 0 } }
def boxed (state : BitVec 3) (maxMs : Nat) : State :=
  { State.reset with host := { State.reset.host with
      boxes := if state = 0 then [] else [aBox state]
      launches := [{ aLaunch with record := BitVec.ofNat 2048 (add1024Record 16 + maxMs * 2 ^ 1728) }] } }
theorem boxes_of_each_state : (boxed 0 0).boxState 0 7 = 0 ∧ (boxed 0 0).groomMay 0 (aBox 1).bindRec = true ∧
    (∀ n ∈ [(3 : BitVec 3), 6], (boxed n 0).boxOf 0 7 = some (aBox n)) ∧ (boxed 1 0).boxOf 0 7 = some (aBox 1) ∧
    (boxed 1 0).canBind (aBox 1).bindRec = true ∧ (boxed 1 0).launchBy 0 = (boxed 1 0).host.launches.head? ∧
    fld ((boxed 1 5).recordBy 0) 1728 32 = 5 ∧ (calm.groupIn 0 0).isSome = true ∧
    (0 : DWord).toNat < calm.grp.bindRec.deadline.toNat ∧ calm.grp.bindRec.deadline.toNat ≤ (BitVec.allOnes 64).toNat := by
  decide +kernel

theorem boxes_that_do_nothing : (boxed 1 0).boxState 0 7 ≠ 0 ∧ calm.groomMay 0 (aBox 1).bindRec = false ∧
    calm.boxOf 0 7 = none ∧ (aBox 1).state.toNat < 3 ∧ (aBox 2).state ≠ 1 ∧ calm.canBind (aBox 1).bindRec = false ∧
    calm.groupIn 0 7 = none := by
  decide +kernel

/-- StopsAndRestores: a group at its deadline, of a launch that goes on or is being aborted; two milliseconds later; asleep. -/
def stopping (aborting : Bool) (t : DWord) (flags : Nat) : State :=
  { calm with
    grp := { calm.grp with bindRec := { calm.grp.bindRec with deadline := 1000, basev := 0 } }
    now := t
    host := { calm.host with launches :=
      [{ aLaunch with record := BitVec.ofNat 2048 (add1024Record 16 + flags * 2 ^ 35), aborting := aborting }] } }
theorem groups_may_stop : ∀ ab ∈ [false, true], (stopping ab 1000 0).groupIn 0 0 = some (stopping ab 1000 0).grp ∧
    (stopping ab 1000 0).stopCause (stopping ab 1000 0).grp = some 0 ∧ (stopping ab 1000 0).stopReady 1 = true := by
  decide +kernel
theorem save_may_be_late : (stopping false 2001000 0).grp.bindRec.deadline.toNat + 2000000 = (stopping false 2001000 0).now.toNat ∧
    (stopping false 2001000 0).grp.status ≠ .unseating ∧ (stopping false 2001000 0).studFull = false := by
  decide +kernel
def sleeping : State :=
  { stopping false 500 1 with sp := { calm.sp with slices := Vector.replicate 8 { Slice.zero with wait := some (.sleep 5000) } } }
theorem group_may_be_swapped_out : bitOn (sleeping.recordBy 0) 35 = true ∧ sleeping.allAsleep 1 = true ∧
    sleeping.stopReady 1 = true ∧ sleeping.grp.status = .running := by
  decide +kernel
theorem groups_that_do_nothing : calm.groupIn 0 7 = none ∧ calm.stopCause calm.grp = none ∧ calm.groupIn 0 0 = some calm.grp ∧
    (stopping false 2000999 0).now.toNat < (stopping false 2000999 0).grp.bindRec.deadline.toNat + 2000000 ∧
    calm.allAsleep 1 = false ∧ ({ stopping false 1000 0 with memOps := [aLoad] } : State).stopReady 1 = false ∧
    calm.contextIn 0 7 = none := by
  decide +kernel
/-- A saved context of one span, on an empty machine. -/
def aContext (cause : BitVec 4) : Context :=
  { die := 0, box := 7, cause := cause, group := { (stopping false 0 0).grp with box := 7, tiles := [], accs := [] },
    spans := [calm.sp], reinsHolder := none, reinsOffer := none, ops := [], slowOps := [], scratch := [1, 2, 3], scale := [],
    badScratch := [], badScale := [], trapWord := 20, quarantine := [], stopTime := 0, swapped := false, complete := true,
    discarded := false }
def saved (cause : BitVec 4) : State := { boxed 0 0 with host := { (boxed 0 0).host with contexts := [aContext cause] } }
theorem contexts_may_be_restored : (saved 0).contextIn 0 7 = some (aContext 0) ∧ (saved 0).boxState 0 7 = 0 ∧
    (saved 0).canRestore (aContext 0) 0 5 = true ∧ ((saved 0).moveOf (aContext 0) 0 5).isSome = true ∧
    (saved 2).contextIn 0 7 = some (aContext 2) ∧ (aContext 2).cause = 2 ∧ (saved 0).spans = [] ∧ (saved 0).safe ∧
    (saved 2).groupOf (aContext 2).group.id = none ∧ (aContext 0).quarantine = [] ∧ (aContext 0).scratch.length ≤ 2 ^ 19 ∧
    (saved 0).canRestore (aContext 0) 0 63 = true ∧ (saved 0).canRestore (aContext 0) 48 5 = false ∧
    ((aContext 0).spans.map fun p => p.id).Nodup ∧
    ∀ p ∈ (aContext 0).spans, p.live = true ∧ p.id.core = (aContext 0).group.bindRec.core := by
  unfold State.safe; decide +kernel

/-- The answers of an engine access that went through: `ok_of` turns them into the statements' hypotheses. -/
def isOk {α : Type} : EngAns α → Bool
  | .ok _ _ => true
  | _ => false
theorem ok_of {α : Type} {a : EngAns α} (h : isOk a = true) : ∃ x t, a = .ok x t := by
  cases a <;> simp_all [isOk]
def stateOf {α : Type} (s : State) : EngAns α → State
  | .ok _ t => t
  | _ => s
def valueOf {α : Type} (x : α) : EngAns α → α
  | .ok y _ => y
  | _ => x

/-- EngineAccesses: four bytes at the end of S, and past it. -/
def anActor : Actor := actorOf calm.sp aCommand
theorem engine_accesses_may_be_made : isOk (calm.engPlace anActor 2 0xFFFC 4 .write) = true ∧
    isOk (calm.engPlace anActor 2 0xFFFC 4 .read) = true ∧ isOk (calm.engWrite1 anActor 2 0xFFFC [1, 2, 3, 4] false) = true ∧
    (vecAt anActor.segs 2 Seg.invalid).limit < 0xFFFD + 4 ∧ calm.otherKey (calm.keyFor 0 (scratchKey 0 0xFFFC)) (scratchKey 0 0xFFFC / 512) = none := by
  decide +kernel
/-- A command of a class and operation with the words 1 to 3. -/
def aCmd (cls op total : Nat) (w1 w2 w3 : DWord) : Command :=
  { aCommand with words := #v[BitVec.ofNat 64 (cls + op * 16), w1, w2, w3], unread := [(0, total)], total := total }
def obeying (c : Command) : State := { calm with sp := { calm.sp with cmds := [c], lastTok := 1 } }
def s200 : DWord := 0x4000000000000200
/-- PackhorseEvents: copies, strided copies with and without overlap, and fills of 128 bytes within S. -/
theorem packhorse_may_move : (∀ x ∈ [(0, (128 : DWord)), (1, 128 + 1 * 2 ^ 24 + 4 * 2 ^ 40 + 4 * 2 ^ 52), (2, 128)],
      (obeying (aCmd 1 x.1 128 0x4000000000000000 s200 x.2)).cmdReady
        (obeying (aCmd 1 x.1 128 0x4000000000000000 s200 x.2)).sp (aCmd 1 x.1 128 0x4000000000000000 s200 x.2) 1 x.1 = true) ∧
    isOk (calm.engRead anActor 2 0 128) = true ∧
    isOk (calm.engWrite anActor 2 0x200 (List.replicate 128 7) false) = true := by
  decide +kernel
/-- Without the command; of another class; done; with data in flight that can land. -/
theorem packhorse_may_rest : calm.cmdOf me 1 = none ∧
    (obeying (aCmd 1 0 128 0 s200 128)).cmdOf me 1 = some ((obeying (aCmd 1 0 128 0 s200 128)).sp, aCmd 1 0 128 0 s200 128) ∧
    (obeying (aCmd 3 0 128 0 s200 128)).cmdReady (obeying (aCmd 3 0 128 0 s200 128)).sp (aCmd 3 0 128 0 s200 128) 1 0 = false ∧
    ({ aCmd 1 0 128 0 s200 128 with done := 128 } : Command).total ≤ 128 ∧
    (∀ r ∈ (aCmd 1 0 128 0 s200 128).unread, r.1 < r.2) ∧ (aCmd 1 2 128 0 s200 128).unread ≠ [] ∧
    isOk (calm.engWrite anActor (cmdDest #v[1, 0, s200, 128] 0).1 (cmdDest #v[1, 0, s200, 128] 0).2 [1, 2, 3, 4] false) = true := by
  decide +kernel
/-- A second row of 8 bytes that begins 4 bytes, in whole sectors 0, after the first: every byte overlaps. -/
theorem strided_rows_may_overlap : stridedOf (8 + 2 * 2 ^ 24) = (8, 2, 0, 0) := by decide +kernel
/-- A scale record at S 0 of one row of 16 blocks, whose E bytes stand at S 0x100 and u bytes at S 0x180. -/
def aScaleRecord : List Byte :=
  bytesLE 8 0x4000000000000100 ++ bytesLE 8 0x4000000000000180 ++ bytesLE 4 16 ++ bytesLE 4 1 ++ bytesLE 8 0
def scaling : State :=
  { obeying (aCmd 1 3 32 0x4000000000000000 s200 (16 * 2 ^ 32)) with mem := Memory.put [] (scratchKey 0 0) aScaleRecord }
def aScale : ScaleRecord := scaleRecordOf aScaleRecord
theorem scale_record_may_be_read : isOk (scaling.engRead anActor 2 0 32) = true ∧
    (valueOf ([], none) (scaling.engRead anActor 2 0 32)).1 = aScaleRecord ∧ aScale.bpr = 16 ∧ aScale.rows = 1 := by
  decide +kernel
theorem scales_may_be_placed : isOk (scaling.scaleBlocks 1 anActor aScale 15) = true ∧ 0 + 16 ≤ 16 * 1 ∧
    segOf aScale.eaddr = 2 ∧ segOf aScale.uaddr = 2 := by
  decide +kernel
/-- TrotterAndCarouselEvents: two elements of 4 bytes with their indices at S 0x200 and their values at S 0x300. -/
def gathering (op : Nat) : Command := aCmd 3 op 2 0x4000000000000000 s200 (2 + 2 * 2 ^ 20 + 0x300 * 2 ^ 25)
theorem trotter_may_move : (∀ op ∈ [0, 1], (obeying (gathering op)).cmdReady (obeying (gathering op)).sp (gathering op) 3 op = true) ∧
    isOk ((obeying (gathering 0)).gatherRead 2 (actorOf calm.sp (gathering 0)) (gathering 0).words 0) = true ∧
    isOk ((obeying (gathering 1)).scatterElems 2 (obeying (gathering 1)).sp (gathering 1) (actorOf calm.sp (gathering 1)) 0) = true ∧
    isOk (calm.engWord anActor 2 0x200 4) = true ∧ (gathering 0).done < (gathering 0).total ∧ openSeg.baseOf % 4 = 0 ∧
    4 ≤ openSeg.limit ∧ isOk (calm.engRead anActor 2 0x300 4) = true ∧
    isOk (calm.engWrite anActor 2 0 [1, 2, 3, 4] false) = true := by
  decide +kernel
/-- A Carousel record at S 0x600 of length 64, modulus 12,289 and a 64th root of unity. -/
def turning (op : Nat) : Command := aCmd 5 op 512 0x4000000000000000 s200 0x4000000000000600
def aTurnRecord : List Byte := bytesLE 8 12289 ++ bytesLE 8 7311 ++ bytesLE 8 6 ++ bytesLE 8 0x4000000000000000
def turned (op : Nat) : State := { obeying (turning op) with mem := Memory.put [] (scratchKey 0 0x600) aTurnRecord }
theorem carousel_may_turn : ∀ op ∈ [0, 1, 2], (turned op).cmdReady (turned op).sp (turning op) 5 op = true ∧
    isOk ((turned op).engRead anActor 2 0x600 32) = true ∧
    carouselBad anActor op (carouselRecordOf (valueOf ([], none) ((turned op).engRead anActor 2 0x600 32)).1) = false ∧
    isOk ((turned op).engRead anActor 2 0 512) = true ∧
    isOk ((turned op).engReach anActor 2 .write (anActor.pieces 2 0x200 512)) = true ∧
    (turned op).overlapsPartly anActor 0x4000000000000000 s200 512 = false ∧
    (turned op).overlapsPartly anActor 0x4000000000000100 s200 512 = true := by
  decide +kernel

/-- CollectiveAndCommandEvents: the single member of a broadcast of 8 bytes in a launch of one span; one that disagrees
with its launch's size. -/
def broadcasting (count : Nat) : State :=
  let c := { aCommand with
    words := #v[BitVec.ofNat 64 (4 + count * 2 ^ 35), 0x4000000000000000, s200, 8], total := 8, joined := true }
  { calm with
    sp := { calm.sp with cmds := [c], lastTok := 1 }
    host := { calm.host with launches := [{ aLaunch with record := BitVec.ofNat 2048 (add1024Record 16) }] } }
def didColl {α : Type} : CollAns α → Bool
  | .ok _ _ => true
  | .stops _ _ => false
theorem collectives_complete_or_fail : ∀ n ∈ [1, 2], ∀ c ∈ (broadcasting n).sp.cmds,
    (broadcasting n).cmdOf me 1 = some ((broadcasting n).sp, c) ∧ cmdClass c.words = 4 ∧ cmdOp c.words = 0 ∧
    (broadcasting n).membersOf (broadcasting n).sp c = [((broadcasting n).sp, c)] ∧
    (broadcasting n).collectiveBad [((broadcasting n).sp, c)] = decide (n = 2) ∧
    didColl ((broadcasting n).collRead 8 [((broadcasting n).sp, c)]) = true ∧
    didColl ((broadcasting n).collReach 8 [((broadcasting n).sp, c)]) = true ∧
    didColl ((broadcasting n).collWrite (List.replicate 8 0) false [((broadcasting n).sp, c)]) = true := by
  decide +kernel
/-- A copy that counts 128 landed bytes into the barrier at S 0x400 whose PEND is n. -/
def counting (n : Nat) : State :=
  { obeying { aCmd 1 0 128 0x4000000000000000 s200 128 with
      words := #v[BitVec.ofNat 64 (1 + 2 ^ 12 + 0x400 * 2 ^ 16 + 2 * 2 ^ 61), 0x4000000000000000, s200, 128]
      done := 128
      undecremented := 128 } with
    mem := Memory.put [] (scratchKey 0 0x400) ({ (Barrier.ofBytes (List.replicate 16 0)) with pend := n } : Barrier).toBytes }
theorem barriers_may_be_decremented : ∀ n ∈ [128, 127], ∀ c ∈ (counting n).sp.cmds,
    isOk ((counting n).cmdBarPlace (actorOf (counting n).sp c) c.words) = true ∧
    ((counting n).barrierAt 0 (scratchKey 0 0x400)).pend = n ∧ (counting n).poisoned (scratchKey 0 0x400) = false := by
  decide +kernel
theorem command_may_be_complete : (∀ h ∈ calm.sp.held, ∀ b, h.by_ ≠ .command 1 b) ∧
    (obeying { aCommand with done := 128 }).cmdOf me 1 =
      some ((obeying { aCommand with done := 128 }).sp, { aCommand with done := 128 }) := by
  constructor
  · intro h hh; cases hh
  · decide +kernel
/-- HayloftAndStarterEvents. -/
def aSlow (k : SlowKind) : SlowOp :=
  { id := 2, span := me, kind := k, xpipe := false, clause := none, pc := 0, segs := calm.sp.segs, region := calm.region,
    ready := true, parked := none, failed := none, since := 0, lost := false }
def slowing (k : SlowKind) : State := { calm with slowOps := [aSlow k] }
theorem hayloft_answers : (slowing (.halloc 2 0x1000)).slowOps.find? (fun y => y.id == 2) = some (aSlow (.halloc 2 0x1000)) ∧
    ((slowing (.halloc 2 0x1000)).hayTake 0 openSeg.limit 0 0x1000).isSome = true ∧
    ((slowing (.halloc 2 0x4001)).hayTake 0 openSeg.limit 0 0x4001) = none := by
  decide +kernel
def aFree : HayFree := { id := 3, span := me, launch := 0, off := 64, va := 64, asid := 0, after := [] }
def freeing (hay : List HayBlock) : State := { calm with hay := hay, hayFrees := [aFree] }
theorem hayloft_frees : (freeing [{ launch := 0, off := 64, len := 64 }]).hayFrees.find? (fun y => y.id == 3) = some aFree ∧
    (∃ b ∈ (freeing [{ launch := 0, off := 64, len := 64 }]).hay, b.launch = 0 ∧ b.off = 64) ∧ (freeing []).hay = [] := by
  decide +kernel
/-- A task record of no rows, in the gate; and one that has run. -/
def anEntryOf (inGate running : Bool) : StarterEntry :=
  { cluster := 0, record := 0, addr := 0, counter := 0, words := some 0xFFFFFFFFFFFFFFFF0000000000000000, owner := me, ownerGroup := 1,
    segs := calm.sp.segs, modq := 0, xexp := 0, inGate := inGate, running := running, complete := false, order := 1,
    issuer := me, pc := 0, region := calm.region, released := true, xout := 0, parked := none, failed := none, since := 0, lost := false, inner := none }
def starting (e : StarterEntry) : State := { calm with starter := [e] }
theorem starter_may_dispatch :
    sortBy gateBefore ((starting (anEntryOf true false)).starter.filter fun y => y.cluster == 0 && y.inGate) =
      [anEntryOf true false] ∧ (starting (anEntryOf true false)).freeEngine 0 (anEntryOf true false) = some 0 := by
  decide +kernel
theorem task_may_complete : (starting (anEntryOf false true)).endingEntry (clusterOf 0) = some (anEntryOf false true) ∧
    isOk ((starting (anEntryOf false true)).taskArrive (anEntryOf false true)
      (taskRecordOf 0xFFFFFFFFFFFFFFFF0000000000000000)) = true := by
  decide +kernel
theorem early_decrements_arrive : ({ starting (anEntryOf false false) with earlyDecs := [(0, 0)] } : State).entryAt 0 0 =
      some (anEntryOf false false) ∧ ({ calm with earlyDecs := [(0, 0)] } : State).entryAt 0 0 = none ∧
    ({ calm with earlyDecs := [(0, 0)] } : State).entriesIn 0 < starterCapacity := by
  decide +kernel
/-- Completions: a load that is back for each destination, and each slow operation. -/
def back (d : Dest) : State := { calm with memOps := [{ aLoad with dest := d, reqs := [{ aRequest with status := .performed }] }] }
theorem loads_may_complete : ∀ d ∈ [Dest.vec 2 false, .vec 2 true, .scalar 2, .tile 2],
    ∀ o ∈ (back d).memOps, (back d).opOf 1 = some o ∧ o.returns = true ∧ (back d).opDone o = true ∧
    ((back d).spanOf o.span).isSome = true ∧ (2 : RegNo).toNat < ((back d).focus o.span).grp.tiles.length := by
  decide +kernel
theorem slow_operations_may_complete : ∀ k ∈ [SlowKind.status 2 7, .pair 2 7 8, .tile 2 0 0],
    (slowing k).opOf 2 = none ∧ (slowing k).slowOps.find? (fun y => y.id == 2) = some (aSlow k) ∧
    ((slowing k).spanOf me).isSome = true ∧ (2 : RegNo).toNat < ((slowing k).focus me).grp.tiles.length := by
  decide +kernel
/-- MatrixCompletions. -/
theorem operations_may_be_served : ∀ k ∈ [EngineKind.mma 2 2 1 0 false [4, 4, 2, 1], .mprom 1, .bmult 1 [2] [3] false, .bcres 2 1,
    .bdiv 2 7 2 false false 1 0 0, .bmodb 2 7, .limbTiles 2, .drain 1 false 2 0 0x01010008 false 0, .spmv 2 0 0, .sptrsv 2 0 0, .task 1],
    ((queueing k true).coreOf 0).serving = some (anOp k true) ∧ ((queueing k true).spanOf me).isSome = true := by
  decide +kernel
theorem results_fit : bigLen (calm.acc 1).resolved ≤ 32 + calm.slotLimbs ∧ bigLen 7 ≤ 32 + calm.slotLimbs ∧
    isOk (calm.performDrain (anOp (.drain 1 false 2 0 0x01010008 false 0) true) 1 false 2 0 0x01010008 false) = true := by
  decide +kernel
theorem tasks_may_run : (starting (anEntryOf false true)).runningEntry 1 = some (anEntryOf false true) ∧
    isOk ((starting (anEntryOf false true)).taskRun (anEntryOf false true)
      (taskRecordOf 0xFFFFFFFFFFFFFFFF0000000000000000) (entryActor (anEntryOf false true) false)) = true := by
  decide +kernel
theorem update_may_be_applied : ∀ k ∈ [AccessKind.update 2], (sending k .sent).opOf 1 = some (sendingOp k .sent) ∧
    (sending k .sent).onFabric 1 (sectorOf 64) = false ∧
    isAdmitted ((sending k .sent).admitReqs (sendingOp k .sent) (sendingOp k .sent).reqs) = true := by
  decide +kernel

/-! ## Cases that the witnesses above do not show -/

/-- BigEngineOperations: a divisor and a modulus that are zero. -/
theorem divisors_may_be_zero : brimful.clear (.bdiv false 4 2 6) ∧ brimful.SlotsQuiet [2, 6] ∧ brimful.value 6 = 0 ∧
    brimful.clear (.bmodb false 4 2 6) ∧ brimful.SlotsQuiet [2, 6, next 6] := by
  unfold State.clear State.SlotsQuiet; decide +kernel
/-- TaskInstructions: `relx` of an accumulator that is pending, and of a tile that an operation still reads. -/
def accOwed : State := withS [(1, 0x10000)] { calm with sp := { calm.sp with pend := calm.sp.pend.put 0xFF [.acc 3] true } }
theorem relx_may_trap : accOwed.clear (.relx false 1) ∧
    (∃ p ∈ accOwed.spansOf accOwed.grp.id, ∃ r ∈ accOwed.grp.topRefs 0 0 1, p.pend.has r = true) ∧
    min accOwed.grp.accs.length (fld (accOwed.rs 1) 16 5) = 1 := by
  unfold State.clear; decide +kernel
/-- ReinsInstructions: the holder is the only span of its group, and has come to its phase end. -/
theorem nobody_may_be_left : ({ reined (some 0) none with sp := (ended .phaseEnd).sp, rest := [] } : State).liveSlots 1 = [] := by
  decide +kernel
/-- DivergenceHeadersAndReturns: no frame, as in a phase that firmware runs privileged. -/
theorem frame_may_be_missing : inHandler.clear (.rte false) ∧ inHandler.sp.frame = none ∧
    fld inHandler.sp.trap.faultpc 0 48 % 12 = 0 := by
  unfold State.clear; decide +kernel
/-- WaitcmpAndFences, BarrierInstructions: a poisoned word; a word that an atomic still owes; a full home. -/
theorem words_may_be_poisoned :
    ({ calm with memsys := { calm.memsys with dram := [{ block := 0, poison := true, errors := 0, key := none }] } } : State).poisoned 0 = true ∧
    (arrived 0).poisoned 0 = false ∧ ({ arrived 0 with monitors := List.replicate 4096 aMonitor } : State).monitorFree 0 = false := by
  decide +kernel
/-- MatrixCompletions: nothing to serve; a parked operation; a quotient with a limb still to come before the last. -/
theorem engines_may_rest : (calm.coreOf 0).serving = none ∧
    ∀ o ∈ [{ anOp (.mprom 1) true with parked := some 1 }],
      (({ calm with core := { calm.core with ops := [o] } } : State).coreOf 0).serving = some o ∧ o.parked ≠ none := by
  decide +kernel
theorem quotients_may_go_on : ∀ k ∈ [EngineKind.bdiv 2 (7 * 2 ^ 32) 2 false true 2 0 0],
    ((queueing k true).coreOf 0).serving = some (anOp k true) ∧ 0 * 2 + 0 = 7 * 2 ^ 32 / 2 ^ (32 * 2) ∧ 1 < 2 - (anOp k true).progress := by
  decide +kernel
/-- One k-step of the integer product of `multiplying`, whose K of 8 needs as many steps as its kc allows. -/
def productOp : EngineOp := anOp (.mma 2 2 1 0 true [4, 4, 8, 1]) true
theorem products_may_go_on : (pairOf (shapeRead (multiplying.tile 2).shape) (shapeRead (multiplying.tile 2).shape)).isSome = true ∧
    (quadOf [4, 4, 8, 1]).k = 8 ∧ multiplying.badScales (multiplying.tile 2) 0 4 0 8 = none := by
  decide +kernel
/-- A tile update whose shares are still in packets, lost, or refused. -/
theorem updates_of_each_kind : (sendingOp (.update 2) .sent).shares ≠ [] ∧ (sendingOp (.update 2) .unreachable).shares = [] ∧
    (∃ q ∈ (sendingOp (.update 2) .queued).reqs, q.status ≠ .unreachable ∧ q.status ≠ .sent) ∧
    (sending (.update 2) .sent).reaches (fabricDie me.core) 64 = true ∧ calm.opOf 1 = none := by
  decide +kernel
theorem update_may_be_refused : refusedBy (clashing.admitReqs
    { aLoad with kind := .update 2, path := 2, checked := true, region := { calm.region with path := 2, seq := 9 } }
    [{ aRequest with region := { calm.region with core := 1 } }]) = some calm.region := by
  decide +kernel
/-- Completions: an operation that is not back, one whose answer is in a packet, one that is parked. -/
theorem completions_may_wait : (sending .load .sent).opDone (sendingOp .load .sent) = false ∧
    ({ carrying { aPacket 0 0 (.input 0 3 1) with cargo := .reply 1 2 } with memOps := (back (.vec 2 false)).memOps } : State).answering
      { aLoad with dest := .vec 2 false } = true ∧ (sendingOp .store .sent).returns = false ∧
    ({ aSlow (.status 2 7) with parked := some 1 } : SlowOp).parked ≠ none ∧ calm.slowOps.find? (fun y => y.id == 2) = none := by
  decide +kernel
/-- TrotterAndCarouselEvents, CollectiveAndCommandEvents: the command is not there; a member that has not come; a command
with a fault still to deliver, one that has not landed, and one without a decrement. -/
theorem commands_that_do_nothing : calm.cmdOf me 1 = none ∧
    (obeying (gathering 0)).cmdReady (obeying (gathering 0)).sp (gathering 0) 3 1 = false ∧
    (obeying (turning 0)).cmdReady (obeying (turning 0)).sp (turning 0) 5 1 = false ∧
    (∀ c ∈ (broadcasting 2).sp.cmds, [((broadcasting 2).sp, c)].length ≠ 3) ∧ aCommand.undecremented = 0 ∧
    (aCommand.complete = false ∧ aCommand.done < aCommand.total) ∧ (counting 128).sp.cmds.all (fun c => c.undecremented == 128) = true := by
  decide +kernel
/-- HayloftAndStarterEvents: no request, no task, no engine, nothing that ends, a full Starter. -/
theorem units_may_rest : calm.slowOps.find? (fun y => y.id == 2) = none ∧ calm.hayFrees.find? (fun y => y.id == 3) = none ∧
    (calm.starter.filter fun y => y.cluster == 0 && y.inGate) = [] ∧ calm.endingEntry (clusterOf 0) = none ∧
    calm.earlyDecs.find? (fun y => y.1 == 0) = none ∧
    ({ freeing [] with memOps := [aLoad] } : State).accessesOf me = [1] := by
  decide +kernel
theorem starter_may_be_full : starterCapacity ≤ ({ calm with
      starter := List.replicate starterCapacity { anEntryOf false false with record := 1 } } : State).entriesIn 0 := by
  decide +kernel

/-! ## Words of the spec decode to what they stand for

Each word is one that the spec prints beside its assembly text; the fields are those of R46, R50 and R55 to R65. -/

/-- The decoder reads this instruction, and nothing after it, from these words. -/
def reads (ws : List Word) (i : Instr) : Bool :=
  match decodeWords ws with
  | .ok (j, []) => decide (j = i)
  | _ => false
theorem test_decode_scalar : reads [0x00002107] (.add false 1 2 3 true) = true ∧
    reads [0x01FA9F80] (.mov false 20 63 false) = true := by decide +kernel
theorem test_decode_immediate : reads [0x0843000A] (.movi false 3 10) = true ∧
    reads [0x0C820002] (.brv false 2 2) = true ∧ reads [0x0D800000] (.join false) = true ∧
    reads [0x0985_0020] (.shli false 5 32) = true ∧ reads [0x0E00_0000] (.exit false) = true := by decide +kernel
theorem test_decode_vector : reads [0x10005146] (.vadd none false 0 5 5 6) = true ∧
    reads [0xF0001600, 0x170C7203]
      (.vaddI (some { mask := 0, z := false, rnd := 0, vc := 0, sub := 5, sat := true, fill := false }) false 3 7 8 3) =
      true := by decide +kernel
theorem test_decode_float : reads [0x18048109] (.vfadd none false 1 8 4 9) = true := by decide +kernel
theorem test_decode_cross_lane :
    reads [0xF2C00C00, 0x2A003040]
      (.vscan (some { mask := 5, z := true, rnd := 0, vc := 0, sub := 3, sat := false, fill := false }) false 0 3 1 false 0) =
      true ∧
    reads [0xF0012D00, 0x284040C1]
      (.shflDn (some { mask := 0, z := false, rnd := 0, vc := 9, sub := 3, sat := false, fill := true }) false 0 4 3 1) =
      true := by decide +kernel
theorem test_decode_big : reads [0x3020A083] (.bsub false 10 2 3) = true ∧ reads [0x30A471E8] (.bshlI false 7 7 40) = true ∧
    reads [0x30E02105] (.bmult false 2 4 5) = true ∧ reads [0x31A000C4] (.bspill false 3 4) = true := by decide +kernel
theorem test_decode_matrix : reads [0x38800802] (.mmai false 0 1 0 2) = true ∧
    reads [0x390A4800] (.tshape false 5 9) = true ∧ reads [0x3D0A4800] (.tscale false 5 9) = true ∧
    reads [0x3B8661A0] (.tdrain false 3 12 13 0) = true ∧ reads [0x3C0661A0] (.tdrainRed false 3 12 13 0) = true ∧
    reads [0x3B060000] (.mprom false 3) = true := by decide +kernel
theorem test_decode_sparse : reads [0x3E285160] (.spmv false 20 10 11) = true ∧
    reads [0x3EA85160] (.sptrsv false 20 10 11) = true ∧ reads [0x3D883000] (.ttask false 4 6 0) = true := by decide +kernel
theorem test_decode_memory : reads [0x4001021E] (.ld none false 0 4 2 7 2) = true ∧
    reads [0xF0101400, 0x4001021E]
      (.ld (some { mask := 0, z := false, rnd := 2, vc := 0, sub := 5, sat := false, fill := false }) false 0 4 2 7 2) =
      true := by decide +kernel
theorem test_decode_atomic : reads [0x48012086] (.amoAdd false 0 2 2 2 6) = true ∧
    reads [0x4A030105] (.waitcmp false 0 false 6 0 4 5) = true := by decide +kernel
theorem test_decode_barrier : reads [0x4B002105] (.barInit false 2 4 5) = true ∧
    reads [0x4B602106] (.barExpect false 2 4 6) = true ∧ reads [0x4B40A100] (.barWait false 1 2 4) = true ∧
    reads [0x4C010000] (.fence false 2) = true := by decide +kernel
theorem test_decode_engine : reads [0x50000500] (.eqw false 0 10) = true ∧ reads [0x50428000] (.eqgo false 20) = true ∧
    reads [0x50800300] (.sleepu false 6) = true ∧ reads [0x50880A2A] (.sleepp false 20 21) = true ∧
    reads [0x50C0A000] (.time false 5) = true ∧ reads [0x51080400] (.hfree false 8) = true := by decide +kernel
theorem test_decode_system : reads [0x5840A002] (.sysrd false 5 1) = true ∧ reads [0x58080000] (.brk false) = true ∧
    reads [0x58100180] (.trace false 3) = true ∧ reads [0x58900106] (.tlbinv false 2 3) = true := by decide +kernel
theorem test_decode_group : reads [0x6000828C] (.spawn false 4 5 6) = true ∧ reads [0x60180480] (.relx false 9) = true ∧
    reads [0x60200000] (.yield false) = true ∧ reads [0x60294000] (.age false 10) = true := by decide +kernel
theorem test_decode_header : reads [0x78000078] (.clauseStart 0 0 0 15) = true ∧
    reads [0x7900_00F8] (.clauseStart 2 0 0 15) = false ∧ reads [0x780000F8] (.clauseStart 0 0 1 15) = true := by
  decide +kernel
/-- A word of an undefined operation, one with a reserved bit, a bare prefix word, and no word at all. -/
theorem test_decode_refuses : (decodeTableWord 32 0x01D00000).isNone = true ∧ (decodeTableWord 32 0x0E400001).isNone = true ∧
    (decodeTableWord 32 0xF0001400).isNone = true ∧ (decodeTableWord 16 0x6084).isNone = true := by decide +kernel

/-! ## Ill-formed instructions are refused

One term for each check on an instruction's own fields, with the sub-code of R70 (Table 2.17) that it raises. -/

def aPre : Pre := { mask := 0, z := false, rnd := 0, vc := 1, sub := 5, sat := false, fill := false }
/-- Illegal codes: types, segments, scopes, paths, drain segments, system registers, sub-operations. -/
theorem test_ill_formed_codes :
    illegalSub (.vadd none false 5 1 2 3) = some 3 ∧ illegalSub (.vmul none false 2 2 4 6) = some 3 ∧
    illegalSub (.vfadd none false 4 2 4 6) = some 3 ∧ illegalSub (.vexp2 none false 0 2 4) = some 3 ∧
    illegalSub (.vcvt none false 1 2 4 1) = some 3 ∧ illegalSub (.vdqcvt none false 3 false 1 2 3) = some 3 ∧
    illegalSub (.shfl none false 1 2 4 6) = some 3 ∧ illegalSub (.vscan none false 0 1 2 false 6) = some 3 ∧
    illegalSub (.vred none false 3 1 2 3) = some 3 ∧ illegalSub (.mma false 1 2 0 7 4) = some 3 ∧
    illegalSub (.tload false 1 2 3 5) = some 3 ∧ illegalSub (.tdrain false 1 2 3 6) = some 3 ∧
    illegalSub (.ttask false 1 2 1) = some 3 ∧ illegalSub (.ldNc none false 2 1 2 3 0) = some 3 ∧
    illegalSub (.prefetch none false 3 1 2 0) = some 3 ∧ illegalSub (.amoAdd false 6 0 0 1 2) = some 3 ∧
    illegalSub (.amoAnd false 4 0 0 2 2) = some 3 ∧ illegalSub (.redAdd false 0 7 0 1 2) = some 3 ∧
    illegalSub (.waitcmp false 7 false 0 0 1 2) = some 3 ∧ illegalSub (.barInit false 4 1 2) = some 3 ∧
    illegalSub (.barArrive false 7 2 1 2) = some 3 ∧ illegalSub (.fence false 7) = some 3 ∧
    illegalSub (.fenceSc false 3) = some 3 ∧ illegalSub (.xfence false 1 2 2) = some 3 ∧
    illegalSub (.xfence false 1 7 2) = some 3 ∧ illegalSub (.sysrd false 1 0xFFF) = some 3 ∧
    illegalSub (.syswr false 1 0xFFF) = some 3 ∧ illegalSub (.segld false 8 1) = some 3 := by
  decide +kernel
/-- Register numbers: odd pairs, mask registers past 15, accumulators past 15, pairs past the last register. -/
theorem test_ill_formed_registers :
    illegalSub (.vadd none false 2 1 2 4) = some 4 ∧ illegalSub (.vadd none false 2 2 3 4) = some 4 ∧
    illegalSub (.vadd none false 2 2 4 5) = some 4 ∧ illegalSub (.vfadd none false 0 1 2 4) = some 4 ∧
    illegalSub (.vffma (some aPre) false 0 2 4 6) = some 4 ∧ illegalSub (.vmulw none false 0 1 2 3) = some 4 ∧
    illegalSub (.vcmpEq none false 0 16 2 3) = some 4 ∧ illegalSub (.brv false 16 0) = some 4 ∧
    illegalSub (.bmult false 16 2 3) = some 4 ∧ illegalSub (.bcres false 1 16) = some 4 ∧
    illegalSub (.bdiv false 63 2 3) = some 4 ∧ illegalSub (.bspill false 1 3) = some 4 ∧
    illegalSub (.bladd false 1 2 4) = some 4 ∧ illegalSub (.dotx false 1 3 4) = some 4 ∧
    illegalSub (.tzero false 16 true) = some 4 ∧ illegalSub (.mprom false 16) = some 4 ∧
    illegalSub (.tdrain false 16 2 3 0) = some 4 ∧ illegalSub (.ld64 none false 0 1 2 3 0) = some 4 ∧
    illegalSub (.amoAdd false 0 0 0 1 3) = some 4 ∧ illegalSub (.amoCas false 0 0 0 63 2) = some 4 ∧
    illegalSub (.waitcmp false 0 true 0 0 63 2) = some 4 ∧ illegalSub (.eqgo false 63) = some 4 ∧
    illegalSub (.halloc false 63 1) = some 4 ∧ illegalSub (.age false 63) = some 4 := by
  decide +kernel
/-- A prefix field that the instruction does not read; header flags; immediates out of range. -/
theorem test_ill_formed_rest :
    illegalSub (.vadd (some { aPre with fill := true }) false 0 1 2 3) = some 5 ∧
    illegalSub (.vqcvt none false 0 false 1 2 3) = some 5 ∧ illegalSub (.clauseStart 0 0 12 15) = some 6 ∧
    illegalSub (.clauseStart 0 0 3 3) = some 6 ∧ illegalSub (.vpackBp none false 1 2 9) = some 9 ∧
    illegalSub (.shflUp none false 0 1 2 32) = some 9 ∧ illegalSub (.lvl false 1 8) = some 9 := by
  decide +kernel
/-- The lowest sub-code of several causes is raised, and these instructions show no cause. -/
theorem test_well_formed : illegalSub (.vadd none false 5 1 2 3) = some 3 ∧ WellFormed (.vadd none false 2 2 4 6) ∧
    WellFormed (.clauseStart 0 0 15 15) ∧ WellFormed (.mma false 1 2 0 6 4) := by
  unfold WellFormed; decide +kernel

/-! ## One step at a time

The expected values are the spec's own worked examples and tables, named in each comment, or follow from them by hand. -/

/-- The registers after one instruction that a gang of eight slices issues. -/
def ran (i : Instr) (s : State) : Regs :=
  match exec i s with
  | .next t => t.sp.regs
  | _ => Regs.zero
/-- Vector registers set, lane 0 first; the lanes left out are zero. -/
def withV (l : List (Nat × List Nat)) (s : State) : State :=
  { s with sp := { s.sp with regs := { s.sp.regs with
      v := l.foldl (fun v x => vecPut v x.1 (Vector.ofFn fun i : Fin 32 => BitVec.ofNat 32 (listAt x.2 i.val 0))) s.sp.regs.v } } }
/-- Numbers in vector registers: their limbs and tag lengths. -/
def withBig (l : List (Nat × List Nat)) (s : State) : State :=
  let t := withV l s
  { t with sp := { t.sp with regs := { t.sp.regs with
      tag := l.foldl (fun v x => vecPut v x.1 { len := BitVec.ofNat 7 x.2.length, sign := false }) t.sp.regs.tag } } }
def withM (n : Nat) (x : LaneMask) (s : State) : State :=
  { s with sp := { s.sp with regs := { s.sp.regs with m := vecPut s.sp.regs.m n x } } }
def lanesOf (r : Regs) (n k : Nat) : List Nat := (List.range k).map fun i => (vecAt (vecAt r.v n (Vector.replicate 32 0)) i 0).toNat
def scalarOf (r : Regs) (n : Nat) : Nat := (vecAt r.s n 0).toNat
def maskAt (r : Regs) (n : Nat) : Nat := (vecAt r.m n 0).toNat
def tagAt (r : Regs) (n : Nat) : Nat × Bool := ((vecAt r.tag n { len := 0, sign := false }).len.toNat, (vecAt r.tag n { len := 0, sign := false }).sign)

/-- Table 8.4, by hand: 32-bit results are sign-extended. -/
theorem test_add_wraps : scalarOf (ran (.add false 3 1 2 true) (withS [(1, 0x7FFFFFFF), (2, 1)] calm)) 3 = 0xFFFFFFFF80000000 ∧
    scalarOf (ran (.add false 1 1 1 false) (withS [(1, 0x8000000000000001)] calm)) 1 = 2 := by decide +kernel
theorem test_sub_order : scalarOf (ran (.sub false 3 1 2 false) (withS [(1, 5), (2, 7)] calm)) 3 = 2 ^ 64 - 2 := by decide +kernel
theorem test_addc_carry : (ran (.addc false 3 1 2 true) (withS [(1, 0xFFFFFFFF), (2, 1)] calm)).status.getLsbD 22 = true ∨
    (ran (.addc false 3 1 2 true) (withS [(1, 0xFFFFFFFF), (2, 1)] calm)).status ≠ calm.sp.regs.status := by decide +kernel
/-- Table 8.4: division by zero and the quotient that does not fit. -/
theorem test_div_corners : scalarOf (ran (.div false 3 1 2 false) (withS [(1, 9)] calm)) 3 = 2 ^ 64 - 1 ∧
    scalarOf (ran (.div false 3 1 2 true) (withS [(1, 0x80000000), (2, -1)] calm)) 3 = 0xFFFFFFFF80000000 := by decide +kernel
theorem test_rem_truncates : scalarOf (ran (.rem false 3 1 2 false) (withS [(1, -7), (2, 2)] calm)) 3 = 2 ^ 64 - 1 ∧
    scalarOf (ran (.remu false 3 1 2 false) (withS [(1, 7)] calm)) 3 = 7 := by decide +kernel
theorem test_mulh_signs : scalarOf (ran (.mulh false 3 1 2 false) (withS [(1, -1), (2, 1)] calm)) 3 = 2 ^ 64 - 1 ∧
    scalarOf (ran (.mulhu false 3 1 2 false) (withS [(1, -1), (2, 1)] calm)) 3 = 0 := by decide +kernel
theorem test_shift_counts_wrap : scalarOf (ran (.shl false 3 1 2 true) (withS [(1, 1), (2, 33)] calm)) 3 = 2 ∧
    scalarOf (ran (.sar false 3 1 2 true) (withS [(1, 0x80000000), (2, 31)] calm)) 3 = 2 ^ 64 - 1 := by decide +kernel
theorem test_bins_and_bext : scalarOf (ran (.bext false 3 1 2 ) (withS [(1, 0xABCD), (2, 0x804)] calm)) 3 = 0xBC ∧
    scalarOf (ran (.bins false 3 1 2) (withS [(1, 0xFF), (2, 0x404)] calm)) 3 = 0xF0 := by decide +kernel
/-- Table 8.5. -/
theorem test_immediates_extend : scalarOf (ran (.movi false 3 0xFFFF) calm) 3 = 2 ^ 64 - 1 ∧
    scalarOf (ran (.ori false 3 0xFFFF) calm) 3 = 0xFFFF ∧
    scalarOf (ran (.movhi false 3 7) (withS [(3, 1)] calm)) 3 = 0x10007 := by decide +kernel
/-- The divergence example of 8.3: lanes 0 to 9 are below 10. -/
theorem test_vlane : lanesOf (ran (.vlane none false 1) calm) 1 4 = [0, 1, 2, 3] := by decide +kernel
theorem test_vcmp_lt : maskAt (ran (.vcmpLtS none false 0 2 1 3) (withS [(3, 10)] (withV [(1, List.range 32)] calm))) 2 = 0x3FF := by
  decide +kernel
/-- The same example: slice 2 holds lanes 8 to 11, of which 8 and 9 are taken. -/
theorem test_brv_splits : (match exec (.brv false 2 2) (withM 2 0x3FF calm) with
    | .next t => (match (t.sp.slice 2).xfer with | some (.go n cm st) => (n.toNat, cm.toNat, st.length) | _ => (0, 0, 0))
    | _ => (0, 0, 0)) = (24, 3, 2) := by decide +kernel
/-- Table 8.10. -/
theorem test_vscan_table : lanesOf (ran
    (.vscan (some { mask := 5, z := true, rnd := 0, vc := 0, sub := 3, sat := false, fill := false }) false 0 3 1 false 0)
    (withM 5 0xFFFFFFF7 (withV [(1, (List.range 32).map (· + 1))] calm))) 3 16 =
      [1, 3, 6, 0, 11, 17, 24, 32, 9, 19, 30, 42, 55, 69, 84, 100] := by decide +kernel
theorem test_shfl_dn_table : lanesOf (ran
    (.shflDn (some { mask := 0, z := false, rnd := 0, vc := 9, sub := 3, sat := false, fill := true }) false 0 4 3 1)
    (withV [(3, [1, 3, 6, 0, 11, 17, 24, 32, 9, 19, 30, 42, 55, 69, 84, 100]), (9, List.replicate 32 0xFFFFFFFF)] calm)) 4 16 =
      [3, 6, 0, 11, 17, 24, 32, 0xFFFFFFFF, 19, 30, 42, 55, 69, 84, 100, 0xFFFFFFFF] := by decide +kernel
/-- R240 and R241, by hand: each 16-bit element saturates on its own. -/
theorem test_vadd_saturates : lanesOf (ran
    (.vaddI (some { mask := 0, z := false, rnd := 0, vc := 0, sub := 5, sat := true, fill := false }) false 3 7 8 3)
    (withV [(8, [0x7FFEFFFF])] calm)) 7 1 = [0x7FFF0002] := by decide +kernel
/-- IEEE 754 by hand: 1.5 + 2.25 = 3.75, and 1 / 3 rounded to nearest even. -/
theorem test_vfadd : lanesOf (ran (.vfadd none false 1 1 2 3) (withV [(2, [0x3FC00000]), (3, [0x40100000])] calm)) 1 1 =
    [0x40700000] := by decide +kernel
theorem test_vfdiv : lanesOf (ran (.vfdiv none false 1 1 2 3) (withV [(2, [0x3F800000]), (3, [0x40400000])] calm)) 1 1 =
    [0x3EAAAAAB] := by decide +kernel
/-- The `bsub` example of 9.2: 2^64 − 1. -/
theorem test_bsub : lanesOf (ran (.bsub false 10 2 3) (withBig [(2, [0, 0, 1]), (3, [1])] calm)) 10 3 = [0xFFFFFFFF, 0xFFFFFFFF, 0] ∧
    tagAt (ran (.bsub false 10 2 3) (withBig [(2, [0, 0, 1]), (3, [1])] calm)) 10 = (2, false) := by decide +kernel
/-- R267, by hand: 2^63 + 3 moved up by four bits crosses a limb. -/
theorem test_bshl : lanesOf (ran (.bshlI false 7 7 4) (withBig [(7, [3, 0x80000000])] calm)) 7 3 = [0x30, 0, 8] ∧
    tagAt (ran (.bshlI false 7 7 4) (withBig [(7, [3, 0x80000000])] calm)) 7 = (3, false) := by decide +kernel

/-- R268: bit length 65 in the low field. -/
theorem test_blen : scalarOf (ran (.blen false 6 3) (withBig [(3, [0, 0, 1])] calm)) 6 = 65 * 2 ^ 32 + 3 := by decide +kernel
/-- The `dotx` and `xround` example of 9.10, its four lanes. -/
theorem test_dotx : (match exec (.dotx false 12 4 6) { withBig [(4, [0, 0, 0, 0]), (5, [0x43400000, 0x3FF00000, 0xC3400000, 0x3FC80000]),
      (6, [0, 0, 0, 0]), (7, [0x3FF00000, 0x3FF00000, 0x3FF00000, 0x3FD00000])] calm with
        sp := { (withBig [(4, [0, 0, 0, 0]), (5, [0x43400000, 0x3FF00000, 0xC3400000, 0x3FC80000]),
          (6, [0, 0, 0, 0]), (7, [0x3FF00000, 0x3FF00000, 0x3FF00000, 0x3FD00000])] calm).sp with
          regs := { (withBig [(4, [0, 0, 0, 0]), (5, [0x43400000, 0x3FF00000, 0xC3400000, 0x3FC80000]),
            (6, [0, 0, 0, 0]), (7, [0x3FF00000, 0x3FF00000, 0x3FF00000, 0x3FD00000])] calm).sp.regs with xwin := 0xFFFC } } } with
    | .next t => (lanesOf t.sp.regs 12 2, tagAt t.sp.regs 12, t.sp.regs.xwin.toNat, scalarOf (ran (.xround false 5 12) t) 5)
    | _ => ([], (0, false), 0, 0)) = ([0x10, 0], (1, false), 0x1FFFC, 0x3FF0000000000000) := by decide +kernel
/-- The address of 3.1: die 1, channel 55, not of the upper stack; and the C base of 5.1. -/
theorem test_home : homeOf 0x2543210A00 = 64 + 55 ∧ hbmChannel 0x2543210A00 = 55 := by decide +kernel
/-- R334, the `waitcmp.serial` example: 8 is past 4, and 0 and 2^64 − 16 are not. -/
theorem test_serial : condHolds 6 0xFFFFFFFFFFFFFFF0 4 = false ∧ condHolds 6 0 4 = false ∧ condHolds 6 8 4 = true := by
  decide +kernel
/-- R421: `trap 1` is taken after its group, with the code in DETAIL. -/
theorem test_trap : (match exec (.trap false 1) calm with
    | .next t => t.issue.after.map fun x => (x.code.toNat, x.detail.toNat)
    | _ => none) = some (21, 1) := by decide +kernel
/-- R413: PENDING_READ of a write enters the handler at 12, with word 0 in s62. -/
theorem test_handler : ((handled.raise (handled.trapOf 3 1)).sp.privileged,
    ((handled.raise (handled.trapOf 3 1)).sp.slice 0).pc.toNat, scalarOf (handled.raise (handled.trapOf 3 1)).sp.regs 62) =
      (true, 12, 0xFFFFFFFF00000103) := by decide +kernel
/-- R237: `exit` ends the current lanes once its packet is done. -/
theorem test_exit : (match exec (.exit false) calm with | .next t => (t.sp.slice 7).xfer | _ => none) = some .exit := by decide +kernel

end

end Sys2Proof.Tests
end

section
/-! # The machine right after reset (O6) -/

namespace Sys2Proof.Laws

open Sys2Proof Sys2Proof.Machine

/-- An element of a vector of equal elements. -/
theorem vecAt_replicate {α : Type} {n i : Nat} (x d : α) (h : i < n) : vecAt (Vector.replicate n x) i d = x := by
  simp [vecAt, Array.getD, h]

/-- Settles O6: every field of the reset state is written out; where the statement speaks of each element of a vector, all
elements are equal. -/
theorem resetValues : Obligations.ResetValues := by
  refine ⟨State.reset, rfl, reset_wf, rfl, rfl, rfl, rfl, rfl, rfl, rfl, rfl, rfl, rfl, rfl, rfl, rfl, fun k hk => ?_, fun k hk => ?_,
    rfl, rfl, rfl, fun d hd => ?_, rfl, rfl, fun d hd => ?_, fun l g hl _ => ?_, rfl, rfl, rfl, rfl, rfl, rfl, rfl, rfl, rfl, rfl,
    fun r hr => ?_⟩
  · exact congrArg Seg.valid (vecAt_replicate Seg.invalid _ hk)
  · exact vecAt_replicate 0 _ hk
  · exact vecAt_replicate 8192 _ hd
  · exact vecAt_replicate 2048 _ hd
  · exact congrArg Girth.lanes (vecAt_replicate _ g hl)
  · exact vecAt_replicate 0 _ hr

end Sys2Proof.Laws

end

section
/-! # After a step no gang is at issue (O3)

The passing of time, as the end of every step, changes nothing of a state but its clock and its fabric. -/

namespace Sys2Proof.Laws

open Sys2Proof Sys2Proof.Machine

/-! ## The passing of time -/

/-- From s to t nothing changes but what the fabric holds and the counters of free values and numbers. -/
def FabricOnly (s t : State) : Prop := t = { s with fabric := t.fabric, fresh := t.fresh, nextId := t.nextId }

theorem FabricOnly.refl (s : State) : FabricOnly s s := rfl

theorem FabricOnly.trans {s t u : State} (h : FabricOnly s t) (k : FabricOnly t u) : FabricOnly s u := by
  unfold FabricOnly at *
  rw [k, h]

theorem FabricOnly.ite {c : Prop} [Decidable c] {s t u : State} (h : FabricOnly s t) (k : FabricOnly s u) :
    FabricOnly s (if c then t else u) := by
  split <;> assumption

theorem FabricOnly.foldl {α : Type} {f : State → α → State} (h : ∀ t x, FabricOnly t (f t x)) (l : List α) (s : State) :
    FabricOnly s (l.foldl f s) :=
  List.foldlRecOn l f (FabricOnly.refl s) fun t ht x _ => ht.trans (h t x)

theorem FabricOnly.mem {s t : State} (h : FabricOnly s t) : t.mem = s.mem := by rw [h]

theorem FabricOnly.issue {s t : State} (h : FabricOnly s t) : t.issue = s.issue := by rw [h]

theorem updPacket_only (s : State) (id : Nat) (f : Packet → Packet) : FabricOnly s (s.updPacket id f) := rfl

theorem dropPacket_only (s : State) (id : Nat) : FabricOnly s (s.dropPacket id) := rfl

theorem noteFlit_only (s : State) (d : DieId) (r : Nat) : FabricOnly s (s.noteFlit d r) := rfl

theorem updWay_only (s : State) (l : Fin 10) (w : Fin 2) (f : GirthWay → GirthWay) : FabricOnly s (s.updWay l w f) := rfl

theorem oneOf_only (n : Nat) (s : State) : FabricOnly s (State.oneOf n s).2 := by
  unfold State.oneOf
  split <;> rfl

theorem wakeSignal_only (s : State) (d : DieId) (r : Nat) : FabricOnly s (s.wakeSignal d r) := by
  unfold State.wakeSignal
  dsimp only
  split
  · exact .ite rfl rfl
  · exact .ite (noteFlit_only s d r) (.refl s)

theorem arrive_only (s : State) (p : Packet) : FabricOnly s (s.arrive p) := rfl

theorem hop_only (s : State) (p : Packet) (d : DieId) (r : Nat) (o : Nat × Nat) (m : Bool) : FabricOnly s (s.hop p d r o m) := rfl

theorem enterGirth_only (s : State) (p : Packet) (l : Fin 10) (w : Fin 2) : FabricOnly s (s.enterGirth p l w) := rfl

theorem leaveGirth_only (s : State) (p : Packet) (l : Fin 10) (w : Fin 2) (seq : BitVec 12) : FabricOnly s (s.leaveGirth p l w seq) := by
  unfold State.leaveGirth
  exact .ite (.refl s) (.ite (.trans (updWay_only s l w _) (dropPacket_only _ _)) (.ite (wakeSignal_only s _ _) rfl))

theorem leaveNi_only (s : State) (p : Packet) (x : Stop) : FabricOnly s (s.leaveNi p x) := by
  unfold State.leaveNi
  exact .ite (updPacket_only s _ _) (.ite (wakeSignal_only s _ _) (.ite rfl (.refl s)))

theorem leaveInput_only (s : State) (p : Packet) (d : DieId) (r : Nat) : FabricOnly s (s.leaveInput p d r) := by
  unfold State.leaveInput
  refine .ite (arrive_only s p) ?_
  split
  · split
    · exact enterGirth_only s p _ _
    · exact .refl s
  · refine .ite (dropPacket_only s _) (.ite (updPacket_only s _ _) ?_)
    dsimp only
    split
    · exact (oneOf_only _ s).trans (hop_only _ p d r _ _)
    · split
      · exact wakeSignal_only s d _
      · exact updPacket_only s _ _

theorem leaveBridle_only (s : State) (p : Packet) (d : DieId) (r : Nat) : FabricOnly s (s.leaveBridle p d r) := by
  unfold State.leaveBridle
  refine .ite (.ite (.refl s) (.ite rfl (.refl s))) ?_
  split
  · split
    · exact .ite rfl (.refl s)
    · exact .refl s
  · exact .ite rfl (.refl s)
  · exact dropPacket_only s _

theorem movePacket_only (s : State) (id : Nat) : FabricOnly s (s.movePacket id) := by
  unfold State.movePacket
  split
  · exact .refl s
  · next p _ =>
    refine .ite (updPacket_only s _ _) ?_
    split
    · exact leaveNi_only s p _
    · exact leaveInput_only s p _ _
    · exact leaveGirth_only s p _ _ _
    · exact .ite (arrive_only s p) (updPacket_only s _ _)
    · exact leaveBridle_only s p _ _
    · exact .ite rfl (.refl s)
    · exact .refl s
    · exact .refl s

theorem inject_only (s : State) : FabricOnly s s.inject := by
  unfold State.inject
  refine .foldl (fun t m => ?_) _ _
  split
  · exact .refl t
  · rfl

theorem fabricCycle_only (s : State) : FabricOnly s s.fabricCycle :=
  .trans (t := State.haltersMove _) rfl (.foldl movePacket_only _ _)

theorem fabricCyclesPass_only (n : Nat) (s : State) : FabricOnly s (State.fabricCyclesPass n s) := by
  induction n generalizing s with
  | zero => exact .refl s
  | succ n ih => exact (fabricCycle_only s).trans (ih _)

theorem fabricTick_only (s : State) (n : Nat) : FabricOnly s (s.fabricTick n) :=
  .trans (t := s.settlePackets) rfl ((inject_only _).trans (fabricCyclesPass_only n _))

/-- The passing of time leaves memory. -/
@[simp] theorem tick_mem (s : State) : s.tick.mem = s.mem := by
  refine (fabricTick_only _ _).mem.trans ?_
  unfold State.timePasses
  dsimp only
  split
  · rfl
  · split <;> rfl

/-- The passing of time leaves the issue context. -/
theorem tick_issue (s : State) : s.tick.issue = s.issue := by
  refine (fabricTick_only _ _).issue.trans ?_
  unfold State.timePasses
  dsimp only
  split
  · rfl
  · split <;> rfl

/-! ## The end of a step -/

/-- An outcome whose next state has been changed comes from a next state. -/
theorem mapNext_next {r : StepResult} {f : State → State} {t : State} (h : mapNext r f = .next t) : ∃ u, r = .next u ∧ t = f u := by
  cases r with
  | next u => cases h; exact ⟨u, rfl, rfl⟩
  | fault e => cases h
  | refused e => cases h

/-- The end of a step with an event leaves no gang at issue. -/
theorem eventEnd_issue (s : State) : s.eventEnd.issue = Issue.zero := tick_issue _

theorem mapNext_eventEnd_issue {r : StepResult} {t : State} (h : mapNext r State.eventEnd = .next t) : t.issue = Issue.zero := by
  obtain ⟨u, -, rfl⟩ := mapNext_next h
  exact eventEnd_issue u

/-- The cycle of a candidate leaves no gang at issue. -/
theorem issueStep_issue {s t : State} {c : Candidate} (h : s.issueStep exec c = .next t) : t.issue = Issue.zero := by
  obtain ⟨u, hu, rfl⟩ := mapNext_next h
  obtain ⟨v, -, rfl⟩ := mapNext_next hu
  exact tick_issue _

theorem advance_issue {s t : State} (h : s.advance exec = .next t) : t.issue = Issue.zero := by
  unfold State.advance at h
  split at h
  · split at h
    · exact mapNext_eventEnd_issue h
    · cases h; exact eventEnd_issue s
  · split at h
    · exact issueStep_issue h
    · split at h
      · exact mapNext_eventEnd_issue h
      · exact issueStep_issue h

/-- Settles O3: whatever a step does, it ends in `State.eventEnd` or in the `State.unissue` of a candidate's cycle, and the
passing of time after it leaves the issue context. -/
theorem stepLeavesNothingAtIssue : Obligations.StepLeavesNothingAtIssue := by
  intro s t h
  unfold step stepWith at h
  split at h
  · dsimp only at h
    split at h
    · exact mapNext_eventEnd_issue h
    · cases h; exact eventEnd_issue _
  · split at h
    · cases h; exact eventEnd_issue _
    · split at h
      · exact mapNext_eventEnd_issue h
      · exact advance_issue h

end Sys2Proof.Laws

end

section
/-! # Host registers and management (O52) -/

namespace Sys2Proof.Laws

open Sys2Proof Sys2Proof.Machine

/-! ## Queues -/

/-- The queue that a lookup finds is the one asked for. -/
theorem queueOf_named (s : State) (port : Bool) (q : BitVec 8) : (s.queueOf port q).port = port ∧ (s.queueOf port q).num = q := by
  unfold State.queueOf
  split
  · next x hx => simpa using List.find?_some hx
  · exact ⟨rfl, rfl⟩

theorem queueOf_putQueue_same (s : State) (x : Queue) : (s.putQueue x).queueOf x.port x.num = x := by
  simp [State.queueOf, State.putQueue]

theorem queueOf_putQueue_other (s : State) (x : Queue) {p : Bool} {k : BitVec 8} (h : (p, k) ≠ (x.port, x.num)) :
    (s.putQueue x).queueOf p k = s.queueOf p k := by
  have hx : ¬(x.port = p ∧ x.num = k) := fun ⟨hp, hk⟩ => h (by rw [hp, hk])
  have hfind : (s.putQueue x).host.queues.find? (fun y => y.port == p && y.num == k) =
      s.host.queues.find? (fun y => y.port == p && y.num == k) := by
    unfold State.putQueue
    rw [List.find?_cons_of_neg (by simpa using hx), List.find?_filter]
    congr 1
    funext y
    by_cases hy : y.port = p ∧ y.num = k
    · obtain ⟨hp, hk⟩ := hy
      subst hp hk
      have hxy : ¬y.port = x.port ∨ ¬y.num = x.num := not_and_or.mp fun ⟨hp, hk⟩ => hx ⟨hp.symm, hk.symm⟩
      simpa using hxy
    · rw [not_and] at hy
      by_cases hp : y.port = p
      · simp [hp, hy hp]
      · simp [hp]
  unfold State.queueOf
  rw [hfind]

/-- One queue is replaced: nothing else of the state changes, and no other queue. -/
theorem putQueue_frame (s : State) {port : Bool} {q : BitVec 8} {x : Queue} (hx : x.port = port ∧ x.num = q) :
    s.putQueue x = { s with host := { s.host with queues := (s.putQueue x).host.queues } } ∧
    (s.putQueue x).queueOf port q = x ∧ ∀ p k, (p, k) ≠ (port, q) → (s.putQueue x).queueOf p k = s.queueOf p k := by
  obtain ⟨rfl, rfl⟩ := hx
  exact ⟨rfl, queueOf_putQueue_same s x, fun p k h => queueOf_putQueue_other s x h⟩

/-! ## The doorbell of a queue (R432) -/

theorem doorbell_of_disabled {s : State} {port : Bool} {q : BitVec 8} (v : DWord) (h : ringSize (s.queueOf port q).size = none) :
    exec (.qtailDoorbell port q v) s = .next s := by
  show execQtailDoorbell port q v s = .next s
  simp only [execQtailDoorbell, h]
  rfl

/-- A doorbell of an enabled ring is taken when its TAIL lies inside the ring. -/
theorem doorbell_of_enabled {s : State} {port : Bool} {q : BitVec 8} {n : Nat} (v : DWord)
    (h : ringSize (s.queueOf port q).size = some n) :
    exec (.qtailDoorbell port q v) s =
      .next (if fld v 0 16 < n then s.putQueue { s.queueOf port q with tail := BitVec.ofNat 16 v.toNat } else s) := by
  have htail : BitVec.ofNat 16 (fld v 0 16) = BitVec.ofNat 16 v.toNat := by
    apply BitVec.eq_of_toNat_eq
    simp [fld]
  show execQtailDoorbell port q v s = _
  simp only [execQtailDoorbell, h, htail]
  rfl

/-! ## Register writes (R432, R435, R438, R443) -/

/-- No report waits: none is placed. -/
theorem placeReports_none {s : State} (h : s.host.reports = []) : s.placeReports [] = s := by
  have hhost : ({ s.host with reports := [] } : HostSide) = s.host := by rw [← h]
  unfold State.placeReports
  rw [hhost]

theorem bar0Write_trbase (s : State) (port : Bool) (v : DWord) :
    exec (.bar0RegisterWrite port 0x400 v) s = .next { s with host := { s.host with bar0 := { s.host.bar0 with trbase := v } } } :=
  rfl

theorem fld_low_five (v : DWord) : fld v 0 5 = v.toNat % 32 := by simp [fld]

theorem bar0Write_trsize (s : State) (port : Bool) (v : DWord) :
    exec (.bar0RegisterWrite port 0x408 v) s =
      .next { s with host := { s.host with bar0 := { s.host.bar0 with trsize := BitVec.ofNat 64 (v.toNat % 32) } } } := by
  rw [← fld_low_five]
  rfl

/-- The queue whose registers stand at an offset of BAR0. -/
theorem queue_at_offset {off : BitVec 20} {q : BitVec 8} {k : Nat} (ho : off.toNat = 0x10000 + k + 32 * q.toNat) (hk : k < 32) :
    BitVec.ofNat 8 ((off.toNat - 0x10000) / 32) = q := by
  apply BitVec.eq_of_toNat_eq
  simp
  omega

/-- A write to a queue's QBASE is ignored unless its ring is empty. -/
theorem bar0Write_qbase {s : State} {port : Bool} {off : BitVec 20} {q : BitVec 8} (v : DWord)
    (ho : off.toNat = 0x10000 + 32 * q.toNat) :
    exec (.bar0RegisterWrite port off v) s =
      .next (if (s.queueOf port q).head = (s.queueOf port q).tail then s.putQueue { s.queueOf port q with base := v } else s) := by
  have hq := queue_at_offset (k := 0) ho (by omega)
  have h1 : off.toNat ≠ 0x400 ∧ off.toNat ≠ 0x408 := by omega
  have h2 : 0x10000 ≤ off.toNat ∧ off.toNat < 0x12000 := by omega
  have h3 : off.toNat % 32 = 0 := by omega
  show execBar0RegisterWrite port off v s = _
  simp [execBar0RegisterWrite, happens, hq, h1, h2, h3]

/-- A write to a queue's QSIZE is ignored unless its ring is empty. -/
theorem bar0Write_qsize {s : State} {port : Bool} {off : BitVec 20} {q : BitVec 8} (v : DWord)
    (ho : off.toNat = 0x10008 + 32 * q.toNat) :
    exec (.bar0RegisterWrite port off v) s =
      .next (if (s.queueOf port q).head = (s.queueOf port q).tail then
        s.putQueue ((s.queueOf port q).resize (BitVec.ofNat 64 (v.toNat % 32))) else s) := by
  have hq := queue_at_offset (k := 8) ho (by omega)
  have h1 : off.toNat ≠ 0x400 ∧ off.toNat ≠ 0x408 := by omega
  have h2 : 0x10000 ≤ off.toNat ∧ off.toNat < 0x12000 := by omega
  have h3 : off.toNat % 32 = 8 := by omega
  show execBar0RegisterWrite port off v s = _
  simp [execBar0RegisterWrite, happens, hq, h1, h2, h3, fld_low_five]

/-- Offsets without a register that a write reaches (Table 15.5). -/
theorem bar0Write_ignored {s : State} {port : Bool} {off : BitVec 20} (v : DWord) (h1 : off.toNat ≠ 0x400) (h2 : off.toNat ≠ 0x408)
    (h3 : off.toNat < 0x10000 ∨ 0x12000 ≤ off.toNat ∨ (off.toNat % 32 ≠ 0 ∧ off.toNat % 32 ≠ 8)) :
    exec (.bar0RegisterWrite port off v) s = .next s := by
  have hq : ∀ r, r = 0 ∨ r = 8 → ¬(0x10000 ≤ off.toNat ∧ off.toNat < 0x12000 ∧ off.toNat % 32 = r) := by omega
  show execBar0RegisterWrite port off v s = _
  simp only [execBar0RegisterWrite, happens, h1, h2, if_false, Bool.and_eq_true, decide_eq_true_eq]
  rw [if_neg fun h => hq 0 (.inl rfl) ⟨h.1.1.1, h.1.1.2, h.2⟩, if_neg fun h => hq 8 (.inr rfl) ⟨h.1.1.1, h.1.1.2, h.2⟩]

theorem resize_of_disabled {size : DWord} (x : Queue) (h : ringSize size = none) : x.resize size = { x with size := size } := by
  simp only [Queue.resize, h]

theorem resize_of_enabled {size : DWord} {n : Nat} (x : Queue) (h : ringSize size = some n) :
    x.resize size = { x with
      size := size, head := BitVec.ofNat 16 (x.head.toNat % n), tail := BitVec.ofNat 16 (x.tail.toNat % n) } := by
  simp only [Queue.resize, h]

theorem resize_queueOf_named (s : State) (port : Bool) (q : BitVec 8) (size : DWord) :
    ((s.queueOf port q).resize size).port = port ∧ ((s.queueOf port q).resize size).num = q := by
  unfold Queue.resize
  split <;> exact queueOf_named s port q

/-! ## Counters, the timebase and cold reset (R437, R439 to R442) -/

theorem counterOf_count_same {s : State} {c : Counter} (h : s.counterOf c ≠ BitVec.allOnes 64) :
    (s.count c).counterOf c = s.counterOf c + 1 := by
  have hc : (s.count c).counterOf c = if s.counterOf c == BitVec.allOnes 64 then s.counterOf c else s.counterOf c + 1 := by
    simp [State.count, State.counterOf]
  rw [hc, if_neg (by simpa using h)]

theorem counterOf_count_other (s : State) {c d : Counter} (h : d ≠ c) : (s.count c).counterOf d = s.counterOf d := by
  have hfind : (s.count c).host.counters.find? (fun p => p.1 = d) = s.host.counters.find? (fun p => p.1 = d) := by
    unfold State.count
    rw [List.find?_cons_of_neg (by simpa using h.symm), List.find?_filter]
    congr 1
    funext p
    by_cases hp : p.1 = d <;> simp [hp, h]
  unfold State.counterOf
  rw [hfind]

theorem tbstatOf_toNat (source : BitVec 2) (offset : BitVec 32) :
    (tbstatOf source offset).toNat = source.toNat + offset.toNat * 2 ^ 32 := by
  have hs := source.isLt
  have ho := offset.isLt
  unfold tbstatOf
  rw [BitVec.toNat_ofNat, Nat.mod_eq_of_lt (by omega)]

theorem bytesLE_length (n x : Nat) : (bytesLE n x).length = n := by
  induction n generalizing x with
  | zero => rfl
  | succ n ih => simp [bytesLE, ih]

/-- Memory without the cells that fail a test of their addresses. -/
theorem get_filter {m : Memory} {lo : Nat} (p : Nat → Bool) (h : Memory.wfAbove m lo = true) (a : Nat) :
    Memory.get (m.filter fun c => p c.1) a = if p a then Memory.get m a else unwritten := by
  induction m generalizing lo with
  | nil => simp [Memory.get]
  | cons c t ih =>
    obtain ⟨k, b⟩ := c
    simp only [Memory.wfAbove, Bool.and_eq_true] at h
    obtain ⟨-, ht⟩ := h
    have hlow : a < k → Memory.get t a = unwritten := fun hlt => get_below ht (by omega)
    have hrest := ih ht
    by_cases hk : k = a
    · subst hk
      by_cases hp : p k <;> simp [Memory.get, hp, hrest]
    · by_cases hp : p k
      · by_cases hlt : a < k <;> simp [Memory.get, hp, hk, hlt, hrest]
      · by_cases hlt : a < k <;> simp [Memory.get, hp, hk, hlt, hrest, hlow]

/-- What a cold reset leaves of memory: the host's own. -/
theorem get_hostCells {m : Memory} (h : m.wf = true) (a : Nat) :
    Memory.get (m.filter fun c => decide (2 ^ 63 ≤ c.1)) a = if a < 2 ^ 63 then unwritten else Memory.get m a := by
  rw [get_filter (fun k => decide (2 ^ 63 ≤ k)) h]
  by_cases ha : a < 2 ^ 63
  · rw [if_pos ha, if_neg (by simpa using ha)]
  · rw [if_neg ha, if_pos (by simpa using ha)]

theorem wideBytes_zero : wideBytes 0 = bytesLE 64 0 := by
  simp only [wideBytes, BitVec.ofNat_eq_ofNat, BitVec.toNat_zero]

theorem wideBytes_length (x : BitVec 512) : (wideBytes x).length = 64 := bytesLE_length 64 _

theorem timebaseSync_answers (s : State) (ptm : Bool) (offset : BitVec 32) (h : ptm = false ∨ s.host.tbSource ≠ 1) :
    exec (.timebaseSync ptm offset) s = .next { s with
      now := if !s.host.tbSet && s.host.nextSeq == 0 then s.now - offset.signExtend 64 else s.now,
      host := { s.host with
        tbSource := if ptm then 2 else 1, tbSet := true,
        slew := if !s.host.tbSet && s.host.nextSeq == 0 then 0 else offset.toInt,
        bar0 := { s.host.bar0 with tbstat := tbstatOf (if ptm then 2 else 1) offset } } } := by
  have hc : ¬(ptm && s.host.tbSource == 1) = true := by
    rcases h with rfl | h
    · simp
    · simpa using fun _ => h
  show execTimebaseSync ptm offset s = _
  unfold execTimebaseSync
  rw [if_neg hc]
  rfl

/-- PTM does nothing while PTP disciplines the timebase. -/
theorem timebaseSync_of_ptp {s : State} (offset : BitVec 32) (h : s.host.tbSource = 1) :
    exec (.timebaseSync true offset) s = .next s := by
  show execTimebaseSync true offset s = _
  unfold execTimebaseSync
  rw [if_pos (by simp [h])]
  rfl

/-! ## Answers to walks (R435) -/

/-- A walk is named by its number. -/
theorem walk_named (v : DWord) (y : Walk) :
    (y.id == (BitVec.ofNat 16 (fld v 0 16) : BitVec 16)) = (y.id.toNat == fld v 0 16) := by
  have hv : fld v 0 16 % 2 ^ 16 = fld v 0 16 := by simp [fld]
  rw [Bool.eq_iff_iff, beq_iff_eq, beq_iff_eq, ← BitVec.toNat_inj, BitVec.toNat_ofNat, hv]

theorem faultack_of_no_walk {s : State} {v : DWord} (h : s.memsys.walks.find? (fun y => y.id.toNat == fld v 0 16) = none) :
    exec (.faultack v) s = .next s := by
  show execFaultack v s = _
  simp only [execFaultack, walk_named, h]
  rfl

/-- What an acknowledgement of the walk w does. -/
theorem faultack_of_walk {s : State} {v : DWord} {w : Walk} {bad : Option DWord}
    (h : s.memsys.walks.find? (fun y => y.id.toNat == fld v 0 16) = some w) (hb : bad = if bitOn v 16 then some w.va else none) :
    ∃ u, exec (.faultack v) s = .next u ∧
      u = { s with
        sp := u.sp, rest := u.rest, core := u.core, cores := u.cores, slowOps := u.slowOps, starter := u.starter,
        memsys := { s.memsys with walks := s.memsys.walks.filter fun y => y.id != w.id } } ∧
      u.sp = { s.sp with
        slices := vecMap s.sp.slices fun _ y => answered w.id (bitOn v 16) y,
        cmds := s.sp.cmds.map fun c => if c.parked = some w.id then { c with parked := none, failed := bad } else c } ∧
      u.rest = (s.rest.map fun p => { p with
        slices := vecMap p.slices fun _ y => answered w.id (bitOn v 16) y,
        cmds := p.cmds.map fun c => if c.parked = some w.id then { c with parked := none, failed := bad } else c }) ∧
      u.core = { s.core with
        ops := s.core.ops.map fun o => if o.parked = some w.id then { o with parked := none, failed := bad } else o } ∧
      u.slowOps = (s.slowOps.map fun o => if o.parked = some w.id then { o with parked := none, failed := bad } else o) ∧
      u.starter = (s.starter.map fun o => if o.parked = some w.id then { o with parked := none, failed := bad } else o) := by
  simp only [← walk_named] at h
  have hw : w.id = BitVec.ofNat 16 (fld v 0 16) := by simpa using List.find?_some h
  rw [← hw] at h
  show ∃ u, execFaultack v s = .next u ∧ _
  simp only [execFaultack, ← hw, h, ← hb, mapIf, beq_iff_eq]
  exact ⟨_, rfl, rfl, rfl, rfl, rfl, rfl, rfl⟩

theorem attestation_body (s : State) (nonce : BitVec 512) :
    ∃ body, s.attestation nonce = body ++ Config.mldsaSign (sha3 body) ∧ body.take 64 = bytesLE 64 nonce.toNat ∧
      (body.drop 64).take 8 = bytesLE 8 s.now.toNat := by
  refine ⟨_, rfl, ?_, ?_⟩
  · rw [List.append_assoc, List.append_assoc, List.append_assoc]
    exact List.take_left' (wideBytes_length nonce)
  · rw [List.append_assoc, List.append_assoc, List.append_assoc, List.drop_left' (wideBytes_length nonce)]
    exact List.take_left' (bytesLE_length 8 _)

/-- Settles O52, register by register and event by event. -/
theorem hostRegistersAndManagement : Obligations.HostRegistersAndManagement := by
  constructor
  · intro s port q v off n x size hx hsize
    subst hx hsize
    refine ⟨doorbell_of_disabled v, fun hn => ⟨fun hv => ?_, fun hv => ?_⟩, ?_, ?_, rfl, bar0Write_trbase s port v,
      bar0Write_trsize s port v, fun ho hx => ?_, fun ho hx => ?_, fun ho hx => ?_, bar0Write_ignored v, faultack_of_no_walk,
      fun w bad => faultack_of_walk⟩
    · rw [doorbell_of_enabled v hn, if_neg (by omega)]
    · exact ⟨_, by rw [doorbell_of_enabled v hn, if_pos hv], putQueue_frame s (queueOf_named s port q)⟩
    · rintro w rfl
      rfl
    · rintro w t rfl rfl
      refine ⟨rfl, fun hr => ?_⟩
      rw [hr]
      exact placeReports_none hr
    · exact ⟨_, by rw [bar0Write_qbase v ho, if_pos hx], putQueue_frame s (queueOf_named s port q)⟩
    · obtain ⟨hframe, hq, hother⟩ := putQueue_frame s
        (x := (s.queueOf port q).resize (BitVec.ofNat 64 (v.toNat % 32))) (resize_queueOf_named s port q _)
      exact ⟨_, by rw [bar0Write_qsize v ho, if_pos hx], hframe, hother, fun hs => hq.trans (resize_of_disabled _ hs),
        fun hs => hq.trans (resize_of_enabled _ hs)⟩
    · rcases ho with ho | ho
      · rw [bar0Write_qbase v ho, if_neg hx]
      · rw [bar0Write_qsize v ho, if_neg hx]
  · intro s nonce image sig ptm first offset island mhz hfirst
    subst hfirst
    refine ⟨rfl, rfl, ⟨_, rfl, rfl, counterOf_count_same, fun c => counterOf_count_other _⟩, fun h => ?_, fun hp hs => ?_, ?_, ?_, ?_⟩
    · refine ⟨_, timebaseSync_answers s ptm offset h, rfl, ?_⟩
      rw [tbstatOf_toNat]
      cases ptm <;> rfl
    · rw [hp]
      exact timebaseSync_of_ptp offset hs
    · refine ⟨_, rfl, rfl, ?_⟩
      rw [tbstatOf_toNat]
      have hf : fld s.host.bar0.tbstat 32 32 < 2 ^ 32 := Nat.mod_lt _ (by decide)
      rw [BitVec.toNat_ofNat, Nat.mod_eq_of_lt hf]
      cases ptm <;> rfl
    · obtain ⟨body, hb, hnonce, hnow⟩ := attestation_body s nonce
      exact ⟨_, rfl, body, by rw [hb], hnonce, hnow⟩
    · refine ⟨_, rfl, rfl, rfl, rfl, rfl, rfl, rfl, rfl, rfl, rfl, rfl, rfl, rfl, rfl, rfl, ?_, rfl, rfl, rfl, rfl, fun hs a => ?_⟩
      · exact (Vector.getElem_set_self _).trans (by rw [wideBytes_zero]; rfl)
      · exact get_hostCells hs a

end Sys2Proof.Laws

end

section
/-! # Outcomes that keep memory in canonical form -/

namespace Sys2Proof.Machine

open Sys2Proof

/-- The states that an engine's access may leave all have memory in canonical form. -/
def EngAns.Keeps {α : Type} (x : EngAns α) : Prop :=
  match x with
  | .ok _ t | .fault _ t | .absent _ _ _ t => Memory.wf t.mem = true
  | .waits _ => True

/-- What a collective's access comes to has memory in canonical form. -/
def CollAns.Keeps {α : Type} (x : CollAns α) : Prop :=
  match x with
  | .ok _ t => Memory.wf t.mem = true
  | .stops _ e => e.Keeps

/-- The outcome is a next state, with memory in canonical form if memory was so before. -/
def State.Keeps (s : State) (r : StepResult) : Prop :=
  ∃ t, r = .next t ∧ (Memory.wf s.mem = true → Memory.wf t.mem = true)

end Sys2Proof.Machine

end

section
/-! # What the operations of the machine do to memory (R6)

Every function of the model from states to states has one rule here, a `simp` lemma in the order of the model's files:
`f_mem` says that f leaves memory, `f_wf` that it keeps memory canonical, `f_keeps` that every state it may answer with has
canonical memory.  What writes memory does so by the operations of `Laws/Memory`.  A rule proved by `(rfl)` is one that `simp`
shall rewrite with, not see through: it is used under the binders of a fold's or a continuation's hypothesis. -/

namespace Sys2Proof.Laws

open Sys2Proof Sys2Proof.Machine

/-! ## Choices and folds -/

@[simp] theorem mem_ite (c : Prop) [Decidable c] (x y : State) :
    (if c then x else y).mem = if c then x.mem else y.mem :=
  apply_ite State.mem c x y

@[simp] theorem snd_ite {α : Type} (c : Prop) [Decidable c] (x y : α × State) :
    (if c then x else y).2.mem = if c then x.2.mem else y.2.mem := by
  split <;> rfl

@[simp] theorem wf_ite (c : Prop) [Decidable c] (x y : List Host.Cell) :
    (Memory.wf (if c then x else y) = true) = ((c → Memory.wf x = true) ∧ (¬ c → Memory.wf y = true)) := by
  split <;> simp_all

@[simp] theorem foldl_mem {α : Type} (f : State → α → State) (h : ∀ t x, (f t x).mem = t.mem) (l : List α) (s : State) :
    (l.foldl f s).mem = s.mem := by
  induction l generalizing s with
  | nil => rfl
  | cons x t ih => rw [List.foldl_cons, ih, h]

@[simp] theorem foldl_wf {α : Type} (f : State → α → State)
    (h : ∀ t x, Memory.wf t.mem = true → Memory.wf (f t x).mem = true) (l : List α) (s : State)
    (hs : Memory.wf s.mem = true) :
    Memory.wf (l.foldl f s).mem = true := by
  induction l generalizing s with
  | nil => exact hs
  | cons x t ih => rw [List.foldl_cons]; exact ih _ (h _ _ hs)

theorem ite_wf {c : Prop} [Decidable c] {x y : State} (hx : Memory.wf x.mem = true) (hy : Memory.wf y.mem = true) :
    Memory.wf (if c then x else y).mem = true := by
  split <;> assumption

/-! ## `Machine/Ops` -/

@[simp] theorem updSpan_mem (s : State) (id : SpanId) (f : Span → Span) : (s.updSpan id f).mem = s.mem := (rfl)

@[simp] theorem mapSpans_mem (s : State) (f : Span → Span) : (s.mapSpans f).mem = s.mem := rfl

@[simp] theorem updGroup_mem (s : State) (g : GroupId) (f : Group → Group) : (s.updGroup g f).mem = s.mem := rfl

@[simp] theorem updCore_mem (s : State) (k : CoreId) (f : Core → Core) : (s.updCore k f).mem = s.mem := by
  simp [State.updCore]

@[simp] theorem focusGroup_mem (s : State) (g : GroupId) : (s.focusGroup g).mem = s.mem := by
  simp [State.focusGroup]

@[simp] theorem focusCore_mem (s : State) (k : CoreId) : (s.focusCore k).mem = s.mem := by
  simp [State.focusCore]

@[simp] theorem focus_mem (s : State) (id : SpanId) : (s.focus id).mem = s.mem := by
  unfold State.focus
  (repeat' split) <;> simp

@[simp] theorem newId_mem (s : State) : (s.newId).2.mem = s.mem := rfl

@[simp] theorem oneOf_mem (n : Nat) (s : State) : (s.oneOf n).2.mem = s.mem := by
  simp [State.oneOf]

@[simp] theorem ws2_mem (s : State) (n : RegNo) (x y : DWord) : (s.ws2 n x y).mem = s.mem := rfl

@[simp] theorem putLanes_mem (s : State) (d : RegNo) (sel : LaneMask) (z : Bool) (f : Nat → Word) :
    (s.putLanes d sel z f).mem = s.mem :=
  rfl

@[simp] theorem putPair_mem (s : State) (d : RegNo) (sel : LaneMask) (z : Bool) (f : Nat → Nat) :
    (s.putPair d sel z f).mem = s.mem :=
  rfl

@[simp] theorem putMask_mem (s : State) (d : RegNo) (sel : LaneMask) (z : Bool) (f : Nat → Bool) :
    (s.putMask d sel z f).mem = s.mem := by
  simp [State.putMask]

@[simp] theorem settle_mem (s : State) : s.settle.mem = s.mem := rfl

@[simp] theorem wakeRetries_mem (s : State) : s.wakeRetries.mem = s.mem := rfl

@[simp] theorem withdraw_mem (s : State) (id : SpanId) : (s.withdraw id).mem = s.mem := by
  simp [State.withdraw]

@[simp] theorem enterHandler_mem (s : State) (t : TrapInfo) (gang : BitVec 8) (resume : DWord) :
    (s.enterHandler t gang resume).mem = s.mem := by
  simp [State.enterHandler]

@[simp] theorem takeTrap_mem (s : State) (t : TrapInfo) (resume : DWord) : (s.takeTrap t resume).mem = s.mem := by
  simp [State.takeTrap]

@[simp] theorem raise_mem (s : State) (t : TrapInfo) : (s.raise t).mem = s.mem := by
  simp [State.raise]

@[simp] theorem dropHeld_mem (s : State) (h : Held) : (s.dropHeld h).mem = s.mem := rfl

@[simp] theorem atWord_mem (s : State) (i : Instr) : (s.atWord i).mem = s.mem := by
  simp [State.atWord]

@[simp] theorem issued_wf (s : State) (i : Instr) (eff : State → State) (hs : Memory.wf s.mem = true)
    (he : Memory.wf (eff s).mem = true) :
    Memory.wf (s.issued i eff).mem = true := by
  unfold State.issued
  split
  · simp [hs]
  · split
    · simp [hs]
    · split
      · simp [hs]
      · exact he

@[simp] theorem withFlags_mem (s : State) (sel : LaneMask) (fl : Nat → FFlags) (eff : State → State)
    (he : (eff s).mem = s.mem) :
    (s.withFlags sel fl eff).mem = s.mem := by
  simp [State.withFlags, he]

/-! ## `Machine/Home` -/

@[simp] theorem setMsc_mem (s : State) (b : MscBlock) : (s.setMsc b).mem = s.mem := rfl

@[simp] theorem setChannel_mem (s : State) (c : ChannelState) : (s.setChannel c).mem = s.mem := rfl

@[simp] theorem readPoisoned_mem (s : State) (block : Nat) : (s.readPoisoned block).mem = s.mem := rfl

@[simp] theorem mscWriteback_wf (s : State) (block : Nat) (hs : Memory.wf s.mem = true) :
    Memory.wf (s.mscWriteback block).mem = true := by
  unfold State.mscWriteback
  split <;> simp [dramRead_wf, useChannel_mem, hs]

@[simp] theorem mscEvict_wf (s : State) (block : Nat) (hs : Memory.wf s.mem = true) :
    Memory.wf (s.mscEvict block).mem = true := by
  simp [State.mscEvict, hs]

@[simp] theorem mscReady_wf (s : State) (block : Nat) (slot : BitVec 10) (p : Policy) (hs : Memory.wf s.mem = true) :
    Memory.wf (s.mscReady block slot p).mem = true := by
  simp only [State.mscReady]
  (repeat' split) <;> simp [hs]

@[simp] theorem mscFill_wf (s : State) (b : MscBlock) (p : Policy) (hs : Memory.wf s.mem = true) :
    Memory.wf (s.mscFill b p).mem = true := by
  simp [dramRead_wf, State.mscFill, hs]

@[simp] theorem mscRead_wf (s : State) (key : Nat) (slot : BitVec 10) (p : Policy) (hs : Memory.wf s.mem = true) :
    Memory.wf (s.mscRead key slot p).mem = true := by
  simp only [State.mscRead]
  (repeat' split) <;> simp [dramRead_wf, useChannel_mem, hs]

@[simp] theorem mscWrite_wf (s : State) (key : Nat) (slot : BitVec 10) (p : Policy) (whole counts : Bool)
    (hs : Memory.wf s.mem = true) :
    Memory.wf (s.mscWrite key slot p whole counts).mem = true := by
  have h1 : Memory.wf (if whole then s else s.mscRead key slot p).mem = true := ite_wf hs (mscRead_wf s key slot p hs)
  unfold State.mscWrite
  generalize (if whole = true then s else s.mscRead key slot p) = s0 at h1 ⊢
  exact ite_wf (mscEvict_wf _ _ (by simp [useChannel_mem, h1])) (by simp [useChannel_mem, h1])

@[simp] theorem drainSector_wf (s : State) (l : Line) (sec : Nat) (hs : Memory.wf s.mem = true) :
    Memory.wf (s.drainSector l sec).mem = true := by
  simp [State.drainSector, hs]

@[simp] theorem drainLine_wf (s : State) (l : Line) (hs : Memory.wf s.mem = true) :
    Memory.wf (s.drainLine l).mem = true :=
  foldl_wf _ (fun t i h => drainSector_wf t l i h) _ s hs

@[simp] theorem evictLine_wf (s : State) (l : Line) (hs : Memory.wf s.mem = true) :
    Memory.wf (s.evictLine l).mem = true := by
  simp [State.evictLine, hs]

@[simp] theorem lineReady_wf (s : State) (line : Nat) (rdc : Option (Fin 4)) (slot : BitVec 10)
    (hs : Memory.wf s.mem = true) :
    Memory.wf (s.lineReady line rdc slot).mem = true := by
  unfold State.lineReady
  split <;> simp [hs]

@[simp] theorem touchLine_wf (s : State) (line : Nat) (rdc : Option (Fin 4)) (slot : BitVec 10) (p : Policy)
    (valid : BitVec 4) (dirty : BitVec 128) (hs : Memory.wf s.mem = true) :
    Memory.wf (s.touchLine line rdc slot p valid dirty).mem = true := by
  simp only [State.touchLine]
  (repeat' split) <;> simp [hs]

@[simp] theorem useBank_mem (s : State) (line : Nat) (rdc : Option (Fin 4)) : (s.useBank line rdc).mem = s.mem := rfl

@[simp] theorem setSharers_mem (s : State) (x : Sharers) : (s.setSharers x).mem = s.mem := rfl

@[simp] theorem share_mem (s : State) (line n : Nat) : (s.share line n).mem = s.mem := rfl

@[simp] theorem readAtHome_wf (s : State) (pa : Nat) (slot : BitVec 10) (p : Policy) (hs : Memory.wf s.mem = true) :
    Memory.wf (s.readAtHome pa slot p).mem = true := by
  simp [State.readAtHome, hs]

@[simp] theorem cacheRead_wf (s : State) (die : Option (Fin 4)) (key : Nat) (slot : BitVec 10) (p : Policy)
    (hs : Memory.wf s.mem = true) :
    Memory.wf (s.cacheRead die key slot p).mem = true := by
  unfold State.cacheRead
  refine ite_wf hs ?_
  dsimp only
  split
  · exact readAtHome_wf s _ slot p hs
  · next d =>
    have h0 := lineReady_wf s (lineOf (s.canonPa key)) (some d) slot hs
    have h1 := touchLine_wf _ (lineOf (s.canonPa key)) (some d) slot p (sectorBit (s.canonPa key / 32 % 4)) 0
      (readAtHome_wf _ (s.canonPa key) slot p h0)
    exact ite_wf (readAtHome_wf s _ slot p hs) (ite_wf (by simp [h0]) (ite_wf (by rw [share_mem, useBank_mem, h1]) h1))

@[simp] theorem cleanRewritten_mem (s : State) (block : Nat) : (s.cleanRewritten block).mem = s.mem := by
  simp [State.cleanRewritten]

@[simp] theorem writeAtHome_wf (s : State) (pa : Nat) (mask : BitVec 32) (slot : BitVec 10) (p : Policy)
    (hs : Memory.wf s.mem = true) :
    Memory.wf (s.writeAtHome pa mask slot p).mem = true := by
  simp only [State.writeAtHome]
  (repeat' split) <;> simp [hs]

@[simp] theorem cacheWrite_wf (s : State) (sec : Nat) (mask : BitVec 32) (slot : BitVec 10) (p : Policy)
    (hs : Memory.wf s.mem = true) :
    Memory.wf (s.cacheWrite sec mask slot p).mem = true := by
  simp [State.cacheWrite, hs]

@[simp] theorem homeRead_wf (s : State) (die : Option (Fin 4)) (key n : Nat) (slot : BitVec 10) (p : Policy)
    (hs : Memory.wf s.mem = true) :
    Memory.wf (s.homeRead die key n slot p).2.2.mem = true := by
  simp [State.homeRead, hs]

@[simp] theorem cleanSector_mem (s : State) (sec : Nat) (mask : BitVec 32) : (s.cleanSector sec mask).mem = s.mem := by
  simp [State.cleanSector]

@[simp] theorem homeSector_wf (s : State) (sec : Nat) (mask : BitVec 32) (bs : List Byte) (slot : BitVec 10) (p : Policy)
    (hs : Memory.wf s.mem = true) :
    Memory.wf (s.homeSector sec mask bs slot p).mem = true := by
  simp [writeKey_wf, State.homeSector, hs]

@[simp] theorem homePut_wf (s : State) (key : Nat) (bs : List Byte) (slot : BitVec 10) (p : Policy)
    (hs : Memory.wf s.mem = true) :
    Memory.wf (s.homePut key bs slot p).mem = true :=
  writeKey_wf _ _ _ (foldl_wf _ (fun t x h => by simp [h]) _ s hs)

@[simp] theorem homeWrite_wf (s : State) (key : Nat) (bs : List Byte) (slot : BitVec 10) (p : Policy)
    (hs : Memory.wf s.mem = true) :
    Memory.wf (s.homeWrite key bs slot p).mem = true := by
  simp [evalMonitors_mem, State.homeWrite, hs]

@[simp] theorem poisonWrite_mem (s : State) (key n : Nat) : (s.poisonWrite key n).mem = s.mem := by
  simp only [State.poisonWrite]
  (repeat' split) <;> simp [evalMonitors_mem]

@[simp] theorem readThrough_wf (s : State) (key n : Nat) (hs : Memory.wf s.mem = true) :
    Memory.wf (s.readThrough key n).mem = true :=
  foldl_wf _ (fun t _ h => cacheRead_wf t none _ 0 _ h) _ s hs

@[simp] theorem logUnreachable_mem (s : State) (key : Nat) : (s.logUnreachable key).mem = s.mem := by
  simp [State.logUnreachable]

@[simp] theorem hostLine_wf (s : State) (pa n : Nat) (hs : Memory.wf s.mem = true) :
    Memory.wf (s.hostLine pa n).2.mem = true := by
  unfold State.hostLine
  dsimp only
  split
  · exact hs
  · simpa using foldl_wf _ (fun t i h => cacheRead_wf t none _ 0 _ h) _ s hs

/-! ## `Machine/Records` -/

@[simp] theorem writeCoded_wf (s : State) (a : DWord) (off : Nat) (bs : List Byte) (hs : Memory.wf s.mem = true) :
    Memory.wf (s.writeCoded a off bs).mem = true := by
  simp [State.writeCoded, hs]

@[simp] theorem placeReports_wf (s : State) (rs : List (BitVec 512)) (hs : Memory.wf s.mem = true) :
    Memory.wf (s.placeReports rs).mem = true := by
  induction rs generalizing s with
  | nil => exact hs
  | cons r t ih =>
    unfold State.placeReports
    dsimp only
    split
    · exact hs
    · split
      · exact hs
      · exact ih _ (writeCoded_wf s _ _ _ hs)

@[simp] theorem report_wf (s : State) (r : BitVec 512) (hs : Memory.wf s.mem = true) :
    Memory.wf (s.report r).mem = true := by
  simp [State.report, hs]

@[simp] theorem trace_wf (s : State) (kind : Nat) (data : Nat) (hs : Memory.wf s.mem = true) :
    Memory.wf (s.trace kind data).mem = true := by
  simp only [State.trace]
  (repeat' split) <;> simp [hs]

/-! ## `Machine/Access` -/

@[simp] theorem keepTrans_mem (s : State) (t : Trans) : (s.keepTrans t).mem = s.mem := rfl

@[simp] theorem readLevels_wf (s : State) (table va : Nat) (levels : List (Nat × Nat × Bool))
    (hs : Memory.wf s.mem = true) :
    Memory.wf (s.readLevels table va levels).mem = true := by
  induction levels generalizing s table with
  | nil => exact hs
  | cons l rest ih =>
    obtain ⟨lo, w, b⟩ := l
    unfold State.readLevels
    dsimp only
    split
    · exact hs
    · split
      · simp [hs]
      · exact ih _ _ (by simp [hs])

@[simp] theorem readTables_wf (s : State) (asid : BitVec 10) (va : Nat) (hs : Memory.wf s.mem = true) :
    Memory.wf (s.readTables asid va).mem = true := by
  simp [State.readTables, hs]

@[simp] theorem fillTrans_wf (s : State) (core : CoreId) (asid : BitVec 10) (va : Nat) (hs : Memory.wf s.mem = true) :
    Memory.wf (s.fillTrans core asid va).mem = true := by
  unfold State.fillTrans
  (repeat' split) <;> simp [hs]

@[simp] theorem startWalk_mem (s : State) (core : CoreId) (asid : BitVec 10) (va : DWord) (kind : BitVec 2) :
    (s.startWalk core asid va kind).mem = s.mem := by
  simp [State.startWalk]

@[simp] theorem fillFor_wf (s : State) (k : Nat) (ps : List Place) (hs : Memory.wf s.mem = true) :
    Memory.wf (s.fillFor k ps).mem = true := by
  unfold State.fillFor
  split
  · exact foldl_wf _ (fun t p h => by simp [h]) _ s hs
  · exact hs

@[simp] theorem joinWalk_mem (s : State) (core : CoreId) (asid : BitVec 10) (va : DWord) (kind : BitVec 2) :
    (s.joinWalk core asid va kind).2.2.mem = s.mem := by
  unfold State.joinWalk
  split <;> rfl

@[simp] theorem park_wf (s : State) (asid : BitVec 10) (va : DWord) (kind : BitVec 2) (hs : Memory.wf s.mem = true) :
    Memory.wf (s.park asid va kind).mem = true := by
  simp [State.park, hs]

@[simp] theorem whenChecked_wf (s : State) (k : Nat) (u : Use) (c : Checked) (go : List Place → State)
    (hs : Memory.wf s.mem = true) (hg : ∀ ps, Memory.wf (go ps).mem = true) :
    Memory.wf (s.whenChecked k u c go).mem = true := by
  unfold State.whenChecked
  split
  · simp [hs]
  · simp [hs]
  · simp [hs]
  · exact hg _

@[simp] theorem withPlaces_wf (s : State) (k : Nat) (u : Use) (size : Nat) (whole : Bool) (ls : List (Nat × Nat))
    (go : List Place → State) (hs : Memory.wf s.mem = true) (hg : ∀ ps, Memory.wf (go ps).mem = true) :
    Memory.wf (s.withPlaces k u size whole ls go).mem = true := by
  unfold State.withPlaces
  exact whenChecked_wf _ _ _ _ _ hs hg

/-! ## `Machine/Regions` -/

@[simp] theorem endRegion_mem (s : State) : s.endRegion.mem = s.mem := rfl

@[simp] theorem endRegionOf_mem (s : State) (id : SpanId) : (s.endRegionOf id).mem = s.mem := by
  unfold State.endRegionOf
  split <;> simp

@[simp] theorem newEngineRegion_mem (s : State) (path : BitVec 3) : (s.newEngineRegion path).2.mem = s.mem := rfl

@[simp] theorem endEngineRegion_mem (s : State) (id : SpanId) (r : RegionId) :
    (s.endEngineRegion id r).mem = s.mem :=
  (rfl)

@[simp] theorem updHolder_mem (s : State) (r : RegionId) (f : Span → Span) : (s.updHolder r f).mem = s.mem := by
  unfold State.updHolder
  split <;> simp

@[simp] theorem setRecord_mem (s : State) (a : AccessRecord) : (s.setRecord a).mem = s.mem := rfl

@[simp] theorem closeRegion_mem (s : State) (r : RegionId) : (s.closeRegion r).mem = s.mem := by
  simp [State.closeRegion]

@[simp] theorem dropTaskRecords_mem (s : State) (g : GroupId) : (s.dropTaskRecords g).mem = s.mem := rfl

@[simp] theorem queueUp_mem (s : State) (w : RoomWait) : (s.queueUp w).mem = s.mem := by
  simp [State.queueUp]

@[simp] theorem queueFor_mem (s : State) (w : Option RoomWait) : (s.queueFor w).mem = s.mem := by
  unfold State.queueFor
  split <;> simp

theorem ite_admitted {c : Prop} [Decidable c] {x y : Admission} {m : Memory} (hx : ∀ t, x = .admitted t → t.mem = m)
    (hy : ∀ t, y = .admitted t → t.mem = m) :
    ∀ t, (if c then x else y) = .admitted t → t.mem = m := by
  split <;> assumption

/-- What is admitted has memory as it was. -/
theorem tryRecord_mem {s : State} {checked : Bool} {g : GroupId} {r : RegionId} {op : Option Nat} {u : Touch}
    {key n : Nat} {logged : Bool} :
    ∀ t, s.tryRecord checked g r op u key n logged = .admitted t → t.mem = s.mem := by
  unfold State.tryRecord
  refine ite_admitted (fun t h => by cases h; rfl) ?_
  dsimp only
  split
  · intro t h; cases h
  · refine ite_admitted (fun t h => by cases h) fun t h => ?_
    split at h <;> cases h
  · exact ite_admitted (fun t h => by cases h) (ite_admitted (fun t h => by cases h; simp) fun t h => by cases h; simp)

/-! ## `Machine/Saddle` -/

@[simp] theorem startUnseat_mem (s : State) (g : GroupId) : (s.startUnseat g).mem = s.mem := rfl

@[simp] theorem saddle_mem (s : State) (r : Saddle) : (s.saddle r).mem = s.mem := rfl

@[simp] theorem waitSaddle_mem (s : State) (r : Saddle) : (s.waitSaddle r).mem = s.mem := rfl

@[simp] theorem touchAll_wf (s : State) (rs : List Saddle) (go : State → State) (hs : Memory.wf s.mem = true)
    (hg : ∀ t, Memory.wf t.mem = true → Memory.wf (go t).mem = true) :
    Memory.wf (s.touchAll rs go).mem = true := by
  induction rs generalizing s with
  | nil => exact hg s hs
  | cons r t ih =>
    unfold State.touchAll
    split
    · exact ih s hs
    · exact ih _ (by simp [hs])
    · simp [hs]
    · simp [hs]

@[simp] theorem withSaddles_wf (s : State) (k : Nat) (u : SaddleUse) (ps : List (Place × Nat)) (go : State → Bool → State)
    (hs : Memory.wf s.mem = true) (hg : ∀ t b, Memory.wf t.mem = true → Memory.wf (go t b).mem = true) :
    Memory.wf (s.withSaddles k u ps go).mem = true := by
  unfold State.withSaddles
  exact ite_wf (hg s _ hs) (ite_wf (by simp [hs]) (ite_wf (by simp [hs]) (touchAll_wf _ _ _ hs fun t ht => hg t _ ht)))

@[simp] theorem logSector_wf (s : State) (g : GroupId) (base : Nat) (slot : BitVec 10) (mask : BitVec 32)
    (old new : List Byte) (hs : Memory.wf s.mem = true) :
    Memory.wf (s.logSector g base slot mask old new).mem = true := by
  unfold State.logSector
  split <;> simp [hs]

@[simp] theorem unlessSaddled_mem (s : State) (go : State → State) (hg : (go s).mem = s.mem) :
    (s.unlessSaddled go).mem = s.mem := by
  unfold State.unlessSaddled
  split
  · simp
  · exact hg

@[simp] theorem unlessSaddled_wf (s : State) (go : State → State) (hs : Memory.wf s.mem = true)
    (hg : Memory.wf (go s).mem = true) :
    Memory.wf (s.unlessSaddled go).mem = true := by
  unfold State.unlessSaddled
  split
  · simp [hs]
  · exact hg

@[simp] theorem replayEntry_wf (s : State) (e : LogEntry) (hs : Memory.wf s.mem = true) :
    Memory.wf (s.replayEntry e).mem = true := by
  simp [State.replayEntry, hs]

@[simp] theorem replayLog_wf (s : State) (es : List LogEntry) (hs : Memory.wf s.mem = true) :
    Memory.wf (s.replayLog es).mem = true :=
  foldl_wf _ (fun t e h => replayEntry_wf t e h) _ s hs

@[simp] theorem giveSaddle_mem (s : State) (id : SpanId) (g : Group) (r : Saddle) :
    (s.giveSaddle id g r).mem = s.mem := by
  simp [State.giveSaddle]

@[simp] theorem serveWaiters_mem (s : State) : s.serveWaiters.mem = s.mem :=
  foldl_mem _ (fun t p => by
    dsimp only
    split
    · split <;> simp
    · rfl) _ s

@[simp] theorem releaseSaddles_mem (s : State) (g : GroupId) : (s.releaseSaddles g).mem = s.mem := by
  simp [State.releaseSaddles]

/-! ## `Machine/Barrier` -/

@[simp] theorem putBarrier_wf (s : State) (slot : BitVec 10) (key : Nat) (b : Barrier) (hs : Memory.wf s.mem = true) :
    Memory.wf (s.putBarrier slot key b).mem = true := by
  simp [State.putBarrier, hs]

@[simp] theorem barrierStep_wf (s : State) (slot : BitVec 10) (key : Nat) (f : Barrier → Barrier)
    (hs : Memory.wf s.mem = true) :
    Memory.wf (s.barrierStep slot key f).mem = true := by
  simp [State.barrierStep, hs]

/-! ## `Machine/Pipeline` -/

@[simp] theorem putOp_mem (s : State) (o : MemOp) : (s.putOp o).mem = s.mem := rfl

@[simp] theorem dispatch_mem (s : State) (o : MemOp) : (s.dispatch o).mem = s.mem := (rfl)

@[simp] theorem send_mem (s : State) (o : MemOp) : (s.send o).mem = s.mem := (rfl)

@[simp] theorem sendQueued_mem (s : State) : s.sendQueued.mem = s.mem := by
  simp [State.sendQueued]

theorem admitReqs_mem {s t : State} {o : MemOp} {qs : List Req} (h : s.admitReqs o qs = .admitted t) : t.mem = s.mem := by
  induction qs generalizing s with
  | nil => cases h; rfl
  | cons q rest ih =>
    unfold State.admitReqs at h
    split at h
    · next u hu => rw [ih h, tryRecord_mem u hu]
    · cases h
    · cases h

@[simp] theorem renewRegion_mem (s : State) (o : MemOp) (sec : Nat) : (s.renewRegion o sec).mem = s.mem := by
  simp [State.renewRegion]

@[simp] theorem waitForRoom_mem (s : State) (o : MemOp) (w : RoomWait) : (s.waitForRoom o w).mem = s.mem := by
  simp [State.waitForRoom]

@[simp] theorem loadSector_wf (s : State) (o : MemOp) (sec : Nat) (hs : Memory.wf s.mem = true) :
    Memory.wf (s.loadSector o sec).mem = true := by
  simp only [State.loadSector]
  (repeat' split) <;> simp [hs]

@[simp] theorem storeSector_wf (s : State) (o : MemOp) (sec : Nat) (hs : Memory.wf s.mem = true) :
    Memory.wf (s.storeSector o sec).mem = true := by
  simp only [State.storeSector]
  (repeat' split) <;> simp [evalMonitors_mem, hs]

@[simp] theorem flushLine_wf (s : State) (key : Nat) (hs : Memory.wf s.mem = true) :
    Memory.wf (s.flushLine key).mem = true := by
  simp only [State.flushLine]
  (repeat' split) <;> simp [hs]

@[simp] theorem accessAtHome_wf (s : State) (id sec : Nat) (hs : Memory.wf s.mem = true) :
    Memory.wf (s.accessAtHome id sec).mem = true := by
  unfold State.accessAtHome
  split
  · exact hs
  · dsimp only
    split
    · exact hs
    · split
      · exact hs
      · exact hs
      · exact hs
      · exact hs
      · simpa using foldl_wf _ (fun t q h => flushLine_wf t _ h) _ s hs
      · split
        · simp [hs]
        · simp [hs]
        · next t ht =>
          have hw : Memory.wf t.mem = true := by rw [admitReqs_mem ht, hs]
          split <;> simp [hw]

@[simp] theorem updateLane_wf (s : State) (o : MemOp) (q : Req) (op t : BitVec 3) (returns : Bool)
    (hs : Memory.wf s.mem = true) :
    Memory.wf (s.updateLane o q op t returns).mem = true := by
  simp [State.updateLane, hs]

@[simp] theorem mapMerged_mem (s : State) (id lane : Nat) (f : ReqStatus) : (s.mapMerged id lane f).mem = s.mem := rfl

@[simp] theorem unmerge_mem (s : State) (id lane : Nat) : (s.unmerge id lane).mem = s.mem := rfl

@[simp] theorem admitMerged_mem (s : State) (id lane : Nat) : (s.admitMerged id lane).mem = s.mem :=
  foldl_mem _ (fun t o => foldl_mem _ (fun u q => by
    split
    · next v hv => exact admitReqs_mem hv
    · rfl) _ t) _ s

@[simp] theorem atomicAtHome_wf (s : State) (id lane : Nat) (hs : Memory.wf s.mem = true) :
    Memory.wf (s.atomicAtHome id lane).mem = true := by
  unfold State.atomicAtHome
  split
  · exact hs
  · split
    · exact hs
    · split
      · exact hs
      · split
        · split <;> simp [hs]
        · split
          · simp [hs]
          · simp [hs]
          · next t ht =>
            have hw : Memory.wf t.mem = true := by rw [admitReqs_mem ht, hs]
            simp [hw]
        · split <;> simp [hs]
        · simp [hs]

@[simp] theorem combineReductions_mem (s : State) (id1 id2 : Nat) : (s.combineReductions id1 id2).mem = s.mem := by
  unfold State.combineReductions
  (repeat' split) <;> simp

@[simp] theorem hold_mem (s : State) (id : SpanId) (hs : List Held) : (s.hold id hs).mem = s.mem := rfl

@[simp] theorem settleMerged_mem (s : State) : s.settleMerged.mem = s.mem := by
  simp [State.settleMerged]

@[simp] theorem acknowledge_mem (s : State) (id sec : Nat) : (s.acknowledge id sec).mem = s.mem := by
  simp only [State.acknowledge]
  (repeat' split) <;> simp

@[simp] theorem writeBack_mem (s : State) (o : MemOp) : (s.writeBack o).mem = s.mem := by
  unfold State.writeBack
  split <;> simp

/-! ## `Machine/Scalar` -/

@[simp] theorem alu_mem (s : State) (d a b : RegNo) (w : Bool) (f : DWord → DWord → Int) :
    (s.alu d a b w f).mem = s.mem :=
  rfl

/-! ## `Machine/Control` -/

@[simp] theorem fetchUse_wf (s : State) (pc : Nat) (hs : Memory.wf s.mem = true) :
    Memory.wf (s.fetchUse pc).mem = true := by
  unfold State.fetchUse
  split
  · exact hs
  · exact foldl_wf _ (fun t x h => by dsimp only; split <;> simp [h]) _ s hs

@[simp] theorem startClause_mem (s : State) (l : BitVec 4) (a b : BitVec 4) : (s.startClause l a b).mem = s.mem := rfl

@[simp] theorem transfer_mem (s : State) (f : Slice → Transfer) : (s.transfer f).mem = s.mem := rfl

@[simp] theorem goTo_mem (s : State) (target : DWord) : (s.goTo target).mem = s.mem := rfl

@[simp] theorem goReg_mem (s : State) (target : DWord) : (s.goReg target).mem = s.mem := by
  simp [State.goReg]

@[simp] theorem afterDrain_mem (s : State) (go : State → State) (hg : (go s.endRegion).mem = s.mem) :
    (s.afterDrain go).mem = s.mem := by
  unfold State.afterDrain
  split
  · exact hg
  · simp

@[simp] theorem afterDrain_wf (s : State) (go : State → State) (hs : Memory.wf s.mem = true)
    (hg : Memory.wf (go s.endRegion).mem = true) :
    Memory.wf (s.afterDrain go).mem = true := by
  unfold State.afterDrain
  split
  · exact hg
  · simp [hs]

@[simp] theorem releaseRegang_mem (s : State) : s.releaseRegang.mem = s.mem := by
  simp [State.releaseRegang]

@[simp] theorem returnFromHandler_mem (s : State) : s.returnFromHandler.mem = s.mem := by
  unfold State.returnFromHandler
  split <;> rfl

@[simp] theorem endPacket_mem (s : State) (gang : BitVec 8) : (s.endPacket gang).mem = s.mem := by
  simp [State.endPacket]

/-! ## `Machine/LoadStore` -/

@[simp] theorem whenPathFree_wf (s : State) (go : State → State) (hs : Memory.wf s.mem = true)
    (hg : Memory.wf (go s).mem = true) :
    Memory.wf (s.whenPathFree go).mem = true := by
  unfold State.whenPathFree
  split
  · simp [hs]
  · exact hg

@[simp] theorem withWindow_wf (s : State) (u : Use) (size : Nat) (whole : Bool) (ls : List (Nat × Nat))
    (go : State → State) (hs : Memory.wf s.mem = true) (hg : Memory.wf (go s).mem = true) :
    Memory.wf (s.withWindow u size whole ls go).mem = true := by
  unfold State.withWindow
  refine withPlaces_wf _ _ _ _ _ _ _ hs fun ps => ?_
  dsimp only
  split
  · simp [hs]
  · exact hg

@[simp] theorem windowLoad_wf (s : State) (size : Nat) (dest : Dest) (whole : Bool) (refs : List Ref)
    (ls : List (Nat × Nat)) (hs : Memory.wf s.mem = true) :
    Memory.wf (s.windowLoad size dest whole refs ls).mem = true := by
  simp [State.windowLoad, hs]

@[simp] theorem loadPlaces_wf (s : State) (k size : Nat) (dest : Dest) (refs : List Ref) (hint : BitVec 2) (nc : Bool)
    (ps : List Place) (hs : Memory.wf s.mem = true) :
    Memory.wf (s.loadPlaces k size dest refs hint nc ps).mem = true := by
  unfold State.loadPlaces
  exact withSaddles_wf _ _ _ _ _ hs fun t _ ht => by simp [ht]

@[simp] theorem vecLoad_wf (s : State) (k : BitVec 3) (size : Nat) (d a b : RegNo) (l : BitVec 2) (hint : BitVec 2)
    (nc : Bool) (hs : Memory.wf s.mem = true) :
    Memory.wf (s.vecLoad k size d a b l hint nc).mem = true := by
  unfold State.vecLoad
  exact ite_wf hs (ite_wf (windowLoad_wf _ _ _ _ _ _ hs) (whenPathFree_wf _ _ hs
    (withPlaces_wf _ _ _ _ _ _ _ hs fun ps => loadPlaces_wf _ _ _ _ _ _ _ _ hs)))

@[simp] theorem storePlaces_wf (s : State) (k size : Nat) (whole : Bool) (hint : BitVec 2) (data : Nat → Nat)
    (ps : List Place) (hs : Memory.wf s.mem = true) :
    Memory.wf (s.storePlaces k size whole hint data ps).mem = true := by
  unfold State.storePlaces
  exact withSaddles_wf _ _ _ _ _ hs fun t _ ht => by simp [ht]

@[simp] theorem windowStore_wf (s : State) (size : Nat) (whole : Bool) (data : Nat → Nat) (ls : List (Nat × Nat))
    (hs : Memory.wf s.mem = true) :
    Memory.wf (s.windowStore size whole data ls).mem = true := by
  simp [State.windowStore, hs]

@[simp] theorem vecStore_wf (s : State) (k : BitVec 3) (size : Nat) (d a b : RegNo) (l : BitVec 2) (hint : BitVec 2)
    (hs : Memory.wf s.mem = true) :
    Memory.wf (s.vecStore k size d a b l hint).mem = true := by
  unfold State.vecStore
  exact ite_wf hs (ite_wf (windowStore_wf _ _ _ _ _ hs) (whenPathFree_wf _ _ hs
    (withPlaces_wf _ _ _ _ _ _ _ hs fun ps => storePlaces_wf _ _ _ _ _ _ _ hs)))

@[simp] theorem prefetchLine_wf (s : State) (k : Nat) (hint : BitVec 2) (p : Place) (hs : Memory.wf s.mem = true) :
    Memory.wf (s.prefetchLine k hint p).mem = true := by
  unfold State.prefetchLine
  exact ite_wf (foldl_wf _ (fun t _ h => cacheRead_wf t _ _ _ _ h) _ s hs)
    (foldl_wf _ (fun t _ h => cacheRead_wf t _ _ _ _ h) _ s hs)

@[simp] theorem setPriority_mem (s : State) (prio : Prio) (p : Place) : (s.setPriority prio p).mem = s.mem := (rfl)

@[simp] theorem hintLines_mem (s : State) (k : Nat) (prio : Prio) (a b : RegNo) (l : BitVec 2) :
    (s.hintLines k prio a b l).mem = s.mem := by
  simp [State.hintLines]

/-! ## `Machine/Atomics` -/

@[simp] theorem withUpdates_wf (s : State) (k : BitVec 3) (t : BitVec 3) (b : RegNo)
    (go : State → Bool → List Place → State) (hs : Memory.wf s.mem = true)
    (hg : ∀ t l ps, Memory.wf t.mem = true → Memory.wf (go t l ps).mem = true) :
    Memory.wf (s.withUpdates k t b go).mem = true := by
  unfold State.withUpdates
  exact withPlaces_wf _ _ _ _ _ _ _ hs fun ps => withSaddles_wf _ _ _ _ _ hs fun u b hu => hg _ _ _ (fillFor_wf _ _ _ hu)

@[simp] theorem amo_wf (s : State) (op t p k : BitVec 3) (d b : RegNo) (hs : Memory.wf s.mem = true) :
    Memory.wf (s.amo op t p k d b).mem = true := by
  unfold State.amo
  split
  · exact hs
  · refine whenPathFree_wf _ _ hs (withUpdates_wf _ _ _ _ _ hs fun v logged ps hv => ?_)
    dsimp only
    split <;> simp [hs, hv]

@[simp] theorem red_wf (s : State) (op t k : BitVec 3) (d b : RegNo) (hs : Memory.wf s.mem = true) :
    Memory.wf (s.red op t k d b).mem = true := by
  unfold State.red
  split
  · exact hs
  · exact whenPathFree_wf _ _ hs (withUpdates_wf _ _ _ _ _ hs fun w logged ps hw => by simp [hw])

@[simp] theorem unlessFar_wf (s : State) (ps : List Place) (go : State → State) (hs : Memory.wf s.mem = true)
    (hg : Memory.wf (go s).mem = true) :
    Memory.wf (s.unlessFar ps go).mem = true := by
  unfold State.unlessFar
  split
  · simp [hs]
  · exact hg

@[simp] theorem withWord_wf (s : State) (k : BitVec 3) (u : Use) (size : Nat) (a : RegNo) (go : State → Place → State)
    (hs : Memory.wf s.mem = true) (hg : ∀ t p, Memory.wf t.mem = true → Memory.wf (go t p).mem = true) :
    Memory.wf (s.withWord k u size a go).mem = true := by
  unfold State.withWord
  refine withPlaces_wf _ _ _ _ _ _ _ hs fun ps => unlessFar_wf _ _ _ hs ?_
  split
  · exact hs
  · exact hg _ _ (fillFor_wf _ _ _ hs)

@[simp] theorem sendBar_mem (s : State) (op : BitVec 3) (k : BitVec 3) (p : Place) (n : DWord) :
    (s.sendBar op k p n).mem = s.mem :=
  rfl

@[simp] theorem barSet_wf (s : State) (op : BitVec 3) (k : BitVec 3) (a b : RegNo) (hs : Memory.wf s.mem = true) :
    Memory.wf (s.barSet op k a b).mem = true :=
  whenPathFree_wf _ _ hs (withWord_wf _ _ _ _ _ _ hs fun u p hu => by simp [hu])

/-! ## `Machine/Submit` -/

@[simp] theorem enterOp_mem (s : State) (kind : EngineKind) (region : RegionId) (refs : List Ref) :
    (s.enterOp kind region refs).mem = s.mem :=
  rfl

@[simp] theorem noteSeq_mem (s : State) (n : BitVec 4) (x : Option SeqShape) : (s.noteSeq n x).mem = s.mem := rfl

@[simp] theorem slow_mem (s : State) (kind : SlowKind) (xpipe : Bool) (region : RegionId) (ready : Bool) (refs : List Ref) :
    (s.slow kind xpipe region ready refs).mem = s.mem :=
  rfl

/-! ## `Machine/Window` -/

@[simp] theorem wxwin_mem (s : State) (x : DWord) : (s.wxwin x).mem = s.mem := rfl

/-! ## `Machine/Big` -/

@[simp] theorem putBig_wf (s : State) (d : RegNo) (x : Int) (hs : Memory.wf s.mem = true) :
    Memory.wf (s.putBig d x).mem = true := by
  simp [State.putBig, hs]

@[simp] theorem putNum_wf (s : State) (d : RegNo) (x : Int) (hs : Memory.wf s.mem = true) :
    Memory.wf (s.putNum d x).mem = true := by
  simp [State.putNum, hs]

@[simp] theorem withSlots_mem (s : State) (srcs : List RegNo) (dst : List RegNo) (go : State → State)
    (hg : (go s).mem = s.mem) :
    (s.withSlots srcs dst go).mem = s.mem := by
  unfold State.withSlots
  dsimp only
  split
  · simp
  · exact hg

@[simp] theorem withSlots_wf (s : State) (srcs : List RegNo) (dst : List RegNo) (go : State → State)
    (hs : Memory.wf s.mem = true) (hg : Memory.wf (go s).mem = true) :
    Memory.wf (s.withSlots srcs dst go).mem = true := by
  unfold State.withSlots
  dsimp only
  split
  · simp [hs]
  · exact hg

@[simp] theorem bigResult_wf (s : State) (d : RegNo) (srcs : List RegNo) (x : State → Int) (hs : Memory.wf s.mem = true) :
    Memory.wf (s.bigResult d srcs x).mem = true := by
  simp [State.bigResult, hs]

@[simp] theorem bigShl_wf (s : State) (d a : RegNo) (n : Nat) (hs : Memory.wf s.mem = true) :
    Memory.wf (s.bigShl d a n).mem = true := by
  simp [State.bigShl, hs]

@[simp] theorem bigShr_wf (s : State) (d a : RegNo) (n : Nat) (hs : Memory.wf s.mem = true) :
    Memory.wf (s.bigShr d a n).mem = true := by
  simp [State.bigShr, hs]

@[simp] theorem bigDivZero_mem (s : State) : s.bigDivZero.mem = s.mem := by
  simp [State.bigDivZero]

@[simp] theorem withLimbs_wf (s : State) (d : Desc) (writes : Bool) (n : Nat) (go : List Place → State)
    (hs : Memory.wf s.mem = true) (hg : ∀ ps, Memory.wf (go ps).mem = true) :
    Memory.wf (s.withLimbs d writes n go).mem = true := by
  unfold State.withLimbs
  split
  · simp [hs]
  · exact withPlaces_wf _ _ _ _ _ _ _ hs hg

@[simp] theorem startLong_mem (s : State) (kind : BitVec 3) (d : RegNo) (a b : DWord × DWord) (alloc : Bool)
    (via : LongVia) (refs : List Ref) :
    (s.startLong kind d a b alloc via refs).mem = s.mem := by
  simp only [State.startLong]
  (repeat' split) <;> simp

@[simp] theorem longOp_mem (s : State) (kind : BitVec 3) (d : RegNo) (a b : DWord × DWord) (srcs : List Desc)
    (bound : Nat) (tooLong : Bool) (via : LongVia) :
    (s.longOp kind d a b srcs bound tooLong via).mem = s.mem := by
  simp only [State.longOp]
  (repeat' split) <;> simp

@[simp] theorem long2_mem (s : State) (kind : BitVec 3) (d a b : RegNo) (bound : Nat → Nat → Nat)
    (tooLong : Nat → Nat → Bool) (via : State → Nat → Nat → LongVia) :
    (s.long2 kind d a b bound tooLong via).mem = s.mem := by
  simp [State.long2]

/-! ## `Machine/Binding` -/

@[simp] theorem updLaunch_mem (s : State) (seq : DWord) (f : Launch → Launch) : (s.updLaunch seq f).mem = s.mem := rfl

@[simp] theorem bagWrite_wf (s : State) (a : Nat) (bs : List Byte) (hs : Memory.wf s.mem = true) :
    Memory.wf (s.bagWrite a bs).mem = true :=
  foldl_wf _ (fun t _ h => homeWrite_wf t _ _ 0 _ h) _ s hs

@[simp] theorem imageRead_wf (s : State) (core : CoreId) (asid : BitVec 10) (va n : Nat) (hs : Memory.wf s.mem = true) :
    Memory.wf (s.imageRead core asid va n).2.mem = true := by
  unfold State.imageRead
  refine List.foldlRecOn (motive := fun r : List Byte × State => Memory.wf r.2.mem = true) _ _ hs fun r hr p _ => ?_
  dsimp only
  split <;> simp [hr]

@[simp] theorem laterData_wf (s : State) (core : CoreId) (seq : DWord) (r : BitVec 2048) (scr xb : Nat)
    (hs : Memory.wf s.mem = true) :
    Memory.wf (s.laterData core seq r scr xb).mem = true := by
  simp [zeroRange_wf, State.laterData, hs]

@[simp] theorem writeInit_wf (s : State) (core : CoreId) (r : BitVec 2048) (scr xb : Nat) (hs : Memory.wf s.mem = true) :
    Memory.wf (s.writeInit core r scr xb).mem = true := by
  unfold State.writeInit
  dsimp only
  refine foldl_wf _ (fun t i h => ?_) _ _ ?_
  · exact homeWrite_wf _ _ _ _ _ (imageRead_wf _ _ _ _ _ (imageRead_wf _ _ _ _ _ h))
  · exact imageRead_wf _ _ _ _ _ (zeroRange_wf _ _ (zeroRange_wf _ _ hs))

@[simp] theorem seat_mem (s : State) (p : Span) : (s.seat p).mem = s.mem := by
  simp [State.seat]

@[simp] theorem bindSpan_wf (s : State) (l : Launch) (b : BindRecord) (gid : GroupId) (scr xb g : Nat) (pos rank : Nat)
    (hs : Memory.wf s.mem = true) :
    Memory.wf (s.bindSpan l b gid scr xb g pos rank).mem = true := by
  unfold State.bindSpan
  refine ite_wf ?_ ?_
  · rw [seat_mem, hs]
  · rw [seat_mem]
    exact foldl_wf _ (fun t x h => ite_wf h (homeWrite_wf _ _ _ _ _ h)) _ s hs

@[simp] theorem bindGroup_wf (s : State) (die : Fin 4) (box : BitVec 12) (b : BindRecord) (hs : Memory.wf s.mem = true) :
    Memory.wf (s.bindGroup die box b).mem = true := by
  unfold State.bindGroup
  split
  · exact hs
  · dsimp only
    refine ite_wf ?_ ?_
    · rw [updLaunch_mem]
      refine foldl_wf _ (fun u i hu => bindSpan_wf u _ _ _ _ _ _ _ _ hu) _ _ ?_
      rw [updCore_mem]
      refine ite_wf (writeInit_wf _ _ _ _ _ ?_) (laterData_wf _ _ _ _ _ _ ?_) <;> rw [updCore_mem] <;> exact hs
    · refine foldl_wf _ (fun u i hu => bindSpan_wf u _ _ _ _ _ _ _ _ hu) _ _ ?_
      rw [updCore_mem]
      refine ite_wf (writeInit_wf _ _ _ _ _ ?_) (laterData_wf _ _ _ _ _ _ ?_) <;> rw [updCore_mem] <;> exact hs

@[simp] theorem liftSpan_mem (s : State) (id : SpanId) : (s.liftSpan id).mem = s.mem := by
  simp [State.liftSpan]

@[simp] theorem removeSpan_mem (s : State) (id : SpanId) : (s.removeSpan id).mem = s.mem := by
  unfold State.removeSpan
  split <;> simp

@[simp] theorem dropGroupBy_mem (s : State) (g : GroupId) (away : State → SpanId → State)
    (ha : ∀ t id, (away t id).mem = t.mem) :
    (s.dropGroupBy g away).mem = s.mem := by
  unfold State.dropGroupBy
  split
  · rfl
  · simp [foldl_mem _ (fun t (p : Span) => ha t p.id)]

@[simp] theorem dropGroup_mem (s : State) (g : GroupId) : (s.dropGroup g).mem = s.mem := by
  simp [State.dropGroup]

@[simp] theorem setBox_mem (s : State) (die : Fin 4) (box : BitVec 12) (st : BitVec 3) :
    (s.setBox die box st).mem = s.mem :=
  rfl

@[simp] theorem groupEnded_mem (s : State) (g : Group) : (s.groupEnded g).mem = s.mem := by
  simp [State.groupEnded]

/-! ## `Machine/Sync` -/

@[simp] theorem deliver_mem (s : State) (h : Held) : (s.deliver h).mem = s.mem := by
  unfold State.deliver
  split <;> simp

@[simp] theorem newMonitor_mem (s : State) (key : Nat) (cond : BitVec 3) (v addr : DWord) (bar : Bool)
    (deadline : Option DWord) :
    (s.newMonitor key cond v addr bar deadline).2.mem = s.mem :=
  rfl

@[simp] theorem waitDone_mem (s : State) (unarm tmo : Bool) : (s.waitDone unarm tmo).mem = s.mem := rfl

@[simp] theorem eccAt_mem (s : State) (p : Place) : (s.eccAt p).mem = s.mem := by
  simp [State.eccAt]

@[simp] theorem wakeMonitor_mem (s : State) (m : Monitor) (tmo : Bool) : (s.wakeMonitor m tmo).mem = s.mem := (rfl)

@[simp] theorem waitBarrier_mem (s : State) (key : Nat) (g : BitVec 8) : (s.waitBarrier key g).mem = s.mem := by
  simp [State.waitBarrier]

@[simp] theorem endBarWait_mem (s : State) (id : SpanId) (key : Nat) : (s.endBarWait id key).mem = s.mem := rfl

/-! ## `Machine/Engine` -/

@[simp] theorem promise_mem (s : State) (w : Vector DWord 4) : (s.promise w).2.2.mem = s.mem := by
  unfold State.promise
  dsimp only
  split
  · rfl
  · rfl
  · rfl
  · split <;> rfl

@[simp] theorem sendCommand_wf (s : State) (d : RegNo) (w : Vector DWord 4) (hs : Memory.wf s.mem = true) :
    Memory.wf (s.sendCommand d w).mem = true := by
  simp [State.sendCommand, hs]

@[simp] theorem sleepUntil_mem (s : State) (t : DWord) (go : State → State) (hg : ∀ t, (go t).mem = t.mem) :
    (s.sleepUntil t go).mem = s.mem := by
  unfold State.sleepUntil
  split
  · exact hg s
  · refine afterDrain_mem _ _ ?_
    split
    · simp [hg]
    · simp

theorem hayTake_mem {s t : State} {launch : DWord} {limit die bytes x y : Nat}
    (h : s.hayTake launch limit die bytes = some (x, y, t)) :
    t.mem = s.mem := by
  unfold State.hayTake at h
  dsimp only at h
  split at h
  · cases h
  · obtain ⟨o, -, ho⟩ := Option.map_eq_some_iff.mp h
    cases ho
    rfl

@[simp] theorem forgetBlock_mem (s : State) (h : HayFree) (n : Nat) : (s.forgetBlock h n).mem = s.mem := rfl

/-! ## `Machine/EngineAccess` -/

@[simp] theorem keeps_ok {α : Type} (x : α) (t : State) : (EngAns.ok x t).Keeps ↔ Memory.wf t.mem = true := Iff.rfl

@[simp] theorem keeps_fault {α : Type} (e : TrapInfo) (t : State) :
    (EngAns.fault e t : EngAns α).Keeps ↔ Memory.wf t.mem = true :=
  Iff.rfl

theorem keeps_bind {α β : Type} {x : EngAns α} {f : α → State → EngAns β} (hx : x.Keeps)
    (hf : ∀ a t, Memory.wf t.mem = true → (f a t).Keeps) :
    (x.bind f).Keeps := by
  cases x with
  | ok a t => exact hf a t hx
  | fault e t => exact hx
  | absent va asid u t => exact hx
  | waits w => trivial

theorem ite_keeps {α : Type} {c : Prop} [Decidable c] {x y : EngAns α} (hx : x.Keeps) (hy : y.Keeps) :
    (if c then x else y).Keeps := by
  split <;> assumption

@[simp] theorem engPlace_keeps (s : State) (a : Actor) (k off n : Nat) (u : Use) (hs : Memory.wf s.mem = true) :
    (s.engPlace a k off n u).Keeps := by
  unfold State.engPlace
  dsimp only
  split
  · exact hs
  · split
    · split
      · simp [hs]
      · split <;> simp [hs]
    · split <;> exact hs
    · exact hs

@[simp] theorem engRead1_keeps (s : State) (a : Actor) (k off n : Nat) (hs : Memory.wf s.mem = true) :
    (s.engRead1 a k off n).Keeps := by
  refine keeps_bind (engPlace_keeps s a k off n .read hs) fun p t ht => ?_
  dsimp only
  split
  · trivial
  · split
    · trivial
    · exact ht
    · next u hu => simp [tryRecord_mem u hu, ht]

@[simp] theorem engWrite1_keeps (s : State) (a : Actor) (k off : Nat) (bs : List Byte) (bad : Bool)
    (hs : Memory.wf s.mem = true) :
    (s.engWrite1 a k off bs bad).Keeps := by
  refine keeps_bind (engPlace_keeps s a k off _ .write hs) fun p t ht => ?_
  dsimp only
  split
  · trivial
  · exact ht
  · next u hu => split <;> simp [tryRecord_mem u hu, ht]

@[simp] theorem engReadPieces_keeps (s : State) (a : Actor) (k : Nat) (ps : List Piece) (hs : Memory.wf s.mem = true) :
    (s.engReadPieces a k ps).Keeps := by
  induction ps generalizing s with
  | nil => exact hs
  | cons p rest ih =>
    exact keeps_bind (engRead1_keeps s a k p.off p.len hs) fun x t ht => keeps_bind (ih t ht) fun y u hu => hu

@[simp] theorem engRead_keeps (s : State) (a : Actor) (k off n : Nat) (hs : Memory.wf s.mem = true) :
    (s.engRead a k off n).Keeps :=
  engReadPieces_keeps s a k _ hs

@[simp] theorem engWritePieces_keeps (s : State) (a : Actor) (k : Nat) (bs : List Byte) (bad : Bool) (ps : List Piece)
    (hs : Memory.wf s.mem = true) :
    (s.engWritePieces a k bs bad ps).Keeps := by
  induction ps generalizing s with
  | nil => exact hs
  | cons p rest ih => exact keeps_bind (engWrite1_keeps s a k p.off _ bad hs) fun _ t ht => ih t ht

@[simp] theorem engWrite_keeps (s : State) (a : Actor) (k off : Nat) (bs : List Byte) (bad : Bool)
    (hs : Memory.wf s.mem = true) :
    (s.engWrite a k off bs bad).Keeps :=
  engWritePieces_keeps s a k bs bad _ hs

@[simp] theorem engWrites_keeps (s : State) (a : Actor) (k : Nat) (ws : List (Nat × List Byte)) (bad : Bool)
    (hs : Memory.wf s.mem = true) :
    (s.engWrites a k ws bad).Keeps := by
  induction ws generalizing s with
  | nil => exact hs
  | cons w rest ih => exact keeps_bind (engWrite_keeps s a k w.1 w.2 bad hs) fun _ t ht => ih t ht

@[simp] theorem engReach_keeps (s : State) (a : Actor) (k : Nat) (u : Use) (ps : List Piece) (hs : Memory.wf s.mem = true) :
    (s.engReach a k u ps).Keeps := by
  induction ps generalizing s with
  | nil => exact hs
  | cons p rest ih => exact keeps_bind (engPlace_keeps s a k p.off p.len u hs) fun _ t ht => ih t ht

@[simp] theorem engWord_keeps (s : State) (a : Actor) (k off n : Nat) (hs : Memory.wf s.mem = true) :
    (s.engWord a k off n).Keeps :=
  keeps_bind (engRead_keeps s a k off n hs) fun _ _ ht => ht

@[simp] theorem engPark_wf (s : State) (a : Actor) (va : DWord) (asid : BitVec 10) (u : Use) (hs : Memory.wf s.mem = true) :
    Memory.wf (s.engPark a va asid u).2.mem = true := by
  simp [State.engPark, hs]

/-! ## `Machine/Tiles` -/

@[simp] theorem setTile_mem (s : State) (n : RegNo) (t : Tile) : (s.setTile n t).mem = s.mem := rfl

@[simp] theorem whenTileFree_wf (s : State) (n : RegNo) (go : State → State) (hs : Memory.wf s.mem = true)
    (hg : Memory.wf (go s).mem = true) :
    Memory.wf (s.whenTileFree n go).mem = true := by
  unfold State.whenTileFree
  split
  · simp [hs]
  · exact hg

@[simp] theorem refuse_mem (s : State) (sub : Nat) : (s.refuse sub).mem = s.mem := by
  simp [State.refuse]

@[simp] theorem setAcc_mem (s : State) (n : BitVec 4) (x : Acc) : (s.setAcc n x).mem = s.mem := rfl

@[simp] theorem withRows_wf (s : State) (k : Nat) (writes : Bool) (use : SaddleUse) (n : Nat) (starts : List Nat)
    (go : State → Bool → List (Place × Piece) → State) (hs : Memory.wf s.mem = true)
    (hg : ∀ t l ps, Memory.wf t.mem = true → Memory.wf (go t l ps).mem = true) :
    Memory.wf (s.withRows k writes use n starts go).mem = true := by
  unfold State.withRows
  exact whenChecked_wf _ _ _ _ _ hs fun ps => withSaddles_wf _ _ _ _ _ hs fun u b hu => hg _ _ _ (fillFor_wf _ _ _ hu)

/-! ## `Machine/Matrix` -/

@[simp] theorem issueMma_mem (s : State) (a b : RegNo) (acc : BitVec 4) (p : BitVec 3) (int : Bool) (q : BitVec 4) :
    (s.issueMma a b acc p int q).mem = s.mem := by
  simp only [State.issueMma]
  (repeat' split) <;> simp

@[simp] theorem issueDrain_wf (s : State) (a b f : RegNo) (k : BitVec 3) (red : Bool) (hs : Memory.wf s.mem = true) :
    Memory.wf (s.issueDrain a b f k red).mem = true := by
  unfold State.issueDrain
  dsimp only
  split
  · simp [hs]
  · exact withRows_wf _ _ _ _ _ _ _ hs fun t logged ps ht => by simp [ht]

/-! ## `Machine/Sparse` -/

@[simp] theorem issueSparse_wf (s : State) (d a b : RegNo) (kind : RegNo → DWord → DWord → EngineKind)
    (hs : Memory.wf s.mem = true) :
    Memory.wf (s.issueSparse d a b kind).mem = true := by
  simp [State.issueSparse, hs]

@[simp] theorem sparseRead_keeps (s : State) (a : Actor) (x : DWord) (off n : Nat) (hs : Memory.wf s.mem = true) :
    (s.sparseRead a x off n).Keeps := by
  unfold State.sparseRead
  split
  · exact hs
  · split
    · exact hs
    · exact engWord_keeps s a _ _ n hs

@[simp] theorem sparseWrite_keeps (s : State) (a : Actor) (x : DWord) (off v : Nat) (bad : Bool)
    (hs : Memory.wf s.mem = true) :
    (s.sparseWrite a x off v bad).Keeps := by
  unfold State.sparseWrite
  split
  · exact hs
  · split
    · exact hs
    · exact engWrite_keeps s a _ _ _ bad hs

@[simp] theorem sparseRow_keeps (n : Nat) (s : State) (a : Actor) (r : SparseRecord) (tri : Bool) (e : Nat) (acc : Nat)
    (bad : Option DWord) (hs : Memory.wf s.mem = true) :
    (s.sparseRow n a r tri e acc bad).Keeps := by
  induction n generalizing s e acc bad with
  | zero => exact hs
  | succ n ih =>
    exact keeps_bind (sparseRead_keeps s a _ _ 4 hs) fun c t ht => ite_keeps (ih t _ _ _ ht) (ite_keeps ht
      (keeps_bind (sparseRead_keeps t a _ _ 8 ht) fun v t1 h1 =>
        keeps_bind (sparseRead_keeps t1 a _ _ 8 h1) fun x t2 h2 => ih t2 _ _ _ h2))

@[simp] theorem sparseStart_keeps (s : State) (a : Actor) (r : SparseRecord) (tri : Bool) (row : Nat)
    (hs : Memory.wf s.mem = true) :
    (s.sparseStart a r tri row).Keeps := by
  unfold State.sparseStart
  split
  · exact sparseRead_keeps s a _ _ 8 hs
  · split
    · exact sparseRead_keeps s a _ _ 8 hs
    · exact hs

@[simp] theorem sparseEnd_keeps (s : State) (a : Actor) (r : SparseRecord) (tri : Bool) (row acc : Nat)
    (hs : Memory.wf s.mem = true) :
    (s.sparseEnd a r tri row acc).Keeps := by
  unfold State.sparseEnd
  split
  · exact keeps_bind (sparseRead_keeps s a _ _ 8 hs) fun d t ht => ht
  · exact hs

@[simp] theorem sparseRows_keeps (n : Nat) (s : State) (a : Actor) (r : SparseRecord) (tri : Bool)
    (slice first width i : Nat) (hs : Memory.wf s.mem = true) :
    (s.sparseRows n a r tri slice first width i).Keeps := by
  induction n generalizing s i with
  | zero => exact hs
  | succ n ih =>
    refine keeps_bind (sparseStart_keeps s a r tri _ hs) fun x t ht =>
      keeps_bind (sparseRow_keeps width t a r tri _ _ _ ht) fun y t1 h1 =>
      keeps_bind (sparseEnd_keeps t1 a r tri _ _ h1) fun z t2 h2 =>
      keeps_bind (sparseWrite_keeps t2 a _ _ _ _ h2) fun _ t3 h3 => ?_
    split
    · exact h3
    · exact ih t3 _ h3

@[simp] theorem sparseSlice_keeps (s : State) (a : Actor) (r : SparseRecord) (tri : Bool) (slice : Nat)
    (hs : Memory.wf s.mem = true) :
    (s.sparseSlice a r tri slice).Keeps := by
  refine keeps_bind (sparseRead_keeps s a _ _ 4 hs) fun x t ht =>
    keeps_bind (sparseRead_keeps t a _ _ 4 ht) fun y t1 h1 => ?_
  split
  · exact h1
  · split
    · exact h1
    · exact sparseRows_keeps _ t1 a r tri slice _ _ _ h1

@[simp] theorem levelBounds_keeps (s : State) (a : Actor) (r : SparseRecord) (lev : Nat) (hs : Memory.wf s.mem = true) :
    (s.levelBounds a r lev).Keeps := by
  refine keeps_bind (sparseRead_keeps s a _ _ 4 hs) fun x t ht =>
    keeps_bind (sparseRead_keeps t a _ _ 4 ht) fun y t1 h1 => ?_
  split <;> exact h1

@[simp] theorem sparseRecord_keeps (s : State) (a : Actor) (x : DWord) (hs : Memory.wf s.mem = true) :
    (s.sparseRecord a x).Keeps := by
  refine keeps_bind (engRead_keeps s a _ _ 64 hs) fun b t ht => ?_
  split <;> exact ht

@[simp] theorem spmvStep_keeps (s : State) (a : Actor) (x sel : DWord) (done : Nat) (hs : Memory.wf s.mem = true) :
    (s.spmvStep a x sel done).Keeps :=
  keeps_bind (sparseRecord_keeps s a x hs) fun r t ht => sparseSlice_keeps t a r false _ ht

@[simp] theorem levelSlices_keeps (s : State) (a : Actor) (x : DWord) (lev : Nat) (hs : Memory.wf s.mem = true) :
    (s.levelSlices a x lev).Keeps :=
  keeps_bind (sparseRecord_keeps s a x hs) fun r t ht => keeps_bind (levelBounds_keeps t a r lev ht) fun _ _ hu => hu

@[simp] theorem triSlice_keeps (s : State) (a : Actor) (x : DWord) (slice : Nat) (hs : Memory.wf s.mem = true) :
    (s.triSlice a x slice).Keeps :=
  keeps_bind (sparseRecord_keeps s a x hs) fun r t ht => sparseSlice_keeps t a r true slice ht

/-! ## `Machine/Coach` -/

@[simp] theorem finishOp_mem (s : State) (o : EngineOp) : (s.finishOp o).mem = s.mem := rfl

@[simp] theorem updOp_mem (s : State) (id : Nat) (f : EngineOp → EngineOp) : (s.updOp id f).mem = s.mem := rfl

@[simp] theorem holdOp_mem (s : State) (o : EngineOp) (t : TrapInfo) : (s.holdOp o t).mem = s.mem := by
  unfold State.holdOp
  split <;> rfl

@[simp] theorem enginePut_wf (s : State) (o : EngineOp) (d : RegNo) (x : Int) (hs : Memory.wf s.mem = true) :
    Memory.wf (s.enginePut o d x).mem = true := by
  simp [State.enginePut, hs]

@[simp] theorem performMma_mem (s : State) (o : EngineOp) (a b : RegNo) (acc : BitVec 4) (p : BitVec 3)
    (quad : List DWord) :
    (s.performMma o a b acc p quad).mem = s.mem := by
  simp only [State.performMma]
  (repeat' split) <;> simp

@[simp] theorem drainPlaces_keeps (s : State) (a : Actor) (k : Nat) (ps : List Piece) (hs : Memory.wf s.mem = true) :
    (s.drainPlaces a k ps).Keeps := by
  induction ps generalizing s with
  | nil => exact hs
  | cons p rest ih =>
    exact keeps_bind (engPlace_keeps s a k p.off p.len .write hs) fun q t ht => keeps_bind (ih t ht) fun qs u hu => hu

@[simp] theorem performDrain_keeps (s : State) (o : EngineOp) (acc : BitVec 4) (red : Bool) (seg : BitVec 3)
    (base x : DWord) (logged : Bool) (hs : Memory.wf s.mem = true) :
    (s.performDrain o acc red seg base x logged).Keeps :=
  keeps_bind (drainPlaces_keeps s _ _ _ hs) fun qs t ht => by simp [ht]

@[simp] theorem performDiv_wf (s : State) (o : EngineOp) (d : RegNo) (a b : Nat) (sa sb : Bool) (limbs q r : Nat)
    (hs : Memory.wf s.mem = true) :
    Memory.wf (s.performDiv o d a b sa sb limbs q r).mem = true := by
  simp [State.performDiv, hs]

@[simp] theorem opAns_wf (s : State) (o : EngineOp) (x : EngAns Unit) (after : State → TrapInfo → State)
    (hs : Memory.wf s.mem = true) (hx : x.Keeps) (ha : ∀ t e, Memory.wf t.mem = true → Memory.wf (after t e).mem = true) :
    Memory.wf (s.opAns o x after).mem = true := by
  unfold State.opAns
  split
  · next t => simpa using hx
  · next e t => rw [finishOp_mem]; exact ha _ _ (by simpa using hx)
  · next va asid u t =>
    have hx : Memory.wf t.mem = true := hx
    simp [hx]
  · simp [hs]

@[simp] theorem sparseEnds_mem (s : State) (o : EngineOp) (d : RegNo) (rows : Nat) :
    (s.sparseEnds o d rows).mem = s.mem :=
  rfl

@[simp] theorem performSpmv_wf (s : State) (o : EngineOp) (d : RegNo) (x sel : DWord) (hs : Memory.wf s.mem = true) :
    Memory.wf (s.performSpmv o d x sel).mem = true := by
  unfold State.performSpmv
  dsimp only
  have hx := spmvStep_keeps s (s.opActor o) x sel o.progress hs
  split
  · simp [hs]
  · split
    · next e t he =>
      have ht : Memory.wf t.mem = true := by rw [he] at hx; exact hx
      split <;> simp [ht]
    · exact opAns_wf s o _ _ hs hx fun t e ht => by simp [ht]

@[simp] theorem enterSlices_mem (s : State) (o : EngineOp) (slices : List Nat) :
    (s.enterSlices o slices).mem = s.mem := by
  simp [State.enterSlices]

@[simp] theorem performTri_wf (s : State) (o : EngineOp) (d : RegNo) (x sel : DWord) (hs : Memory.wf s.mem = true) :
    Memory.wf (s.performTri o d x sel).mem = true := by
  unfold State.performTri
  dsimp only
  have hx := levelSlices_keeps s (s.opActor o) x (fld sel 0 32 + o.progress) hs
  split
  · exact hs
  · split
    · simp [hs]
    · split
      · simp [hs]
      · split
        · next v t he =>
          have ht : Memory.wf t.mem = true := by rw [he] at hx; exact hx
          split
          · simp [ht]
          · split <;> simp [hs, ht]
        · next h t he =>
          have ht : Memory.wf t.mem = true := by rw [he] at hx; exact hx
          simp [ht]
        · next w t he =>
          have ht : Memory.wf t.mem = true := by rw [he] at hx; exact hx
          simp [ht]
        · simp [hs]

@[simp] theorem performOp_wf (s : State) (o : EngineOp) (hs : Memory.wf s.mem = true) :
    Memory.wf (s.performOp o).mem = true := by
  unfold State.performOp
  split <;> simp [hs]

@[simp] theorem applyElem_wf (s : State) (o : MemOp) (kind i : Nat) (hs : Memory.wf s.mem = true) :
    Memory.wf (s.applyElem o kind i).mem = true := by
  unfold State.applyElem
  dsimp only
  split
  · exact hs
  · exact foldl_wf _ (fun t j h => writeKey_wf _ _ _ h) _ s hs

@[simp] theorem settleUpdate_wf (s : State) (before : State) (o : MemOp) (q : Req) (hs : Memory.wf s.mem = true) :
    Memory.wf (s.settleUpdate before o q).mem = true := by
  simp [evalMonitors_mem, State.settleUpdate, hs]

@[simp] theorem applyUpdate_wf (s : State) (o : MemOp) (kind : Nat) (hs : Memory.wf s.mem = true) :
    Memory.wf (s.applyUpdate o kind).mem = true := by
  unfold State.applyUpdate
  have h0 := foldl_wf (fun (t : State) (q : Req) => (t.homeRead none q.key q.bytes q.slot (o.policy q)).2.2)
    (fun t q h => homeRead_wf t none _ _ _ _ h) o.shares s hs
  rw [putOp_mem]
  exact foldl_wf _ (fun t q h => settleUpdate_wf t _ o q h) _ _
    (foldl_wf _ (fun t i h => applyElem_wf t o kind i h) _ _ h0)

/-! ## `Machine/Commands` -/

@[simp] theorem updCmd_mem (s : State) (sp : SpanId) (tok : BitVec 16) (f : Command → Command) :
    (s.updCmd sp tok f).mem = s.mem :=
  rfl

@[simp] theorem cmdBarPlace_keeps (s : State) (a : Actor) (w : Vector DWord 4) (hs : Memory.wf s.mem = true) :
    (s.cmdBarPlace a w).Keeps :=
  engPlace_keeps s a _ _ 16 .atomic hs

@[simp] theorem releaseBar_wf (s : State) (p : Span) (c : Command) (q : Place) (n : Nat) (hs : Memory.wf s.mem = true) :
    Memory.wf (s.releaseBar p c q n).mem = true := by
  simp [State.releaseBar, hs]

@[simp] theorem stopCmd_wf (s : State) (p : Span) (tok : BitVec 16) (t : TrapInfo) (hs : Memory.wf s.mem = true) :
    Memory.wf (s.stopCmd p tok t).mem = true := by
  unfold State.stopCmd
  split
  · exact hs
  · next q c _ =>
    dsimp only
    refine ite_wf ?_ (by simp [hs])
    split
    · next r u he =>
      have hu : (EngAns.ok r u).Keeps :=
        he ▸ cmdBarPlace_keeps _ (actorOf p c) c.words (by rw [endEngineRegion_mem, hold_mem, updCmd_mem, hs])
      rw [updCmd_mem]
      exact releaseBar_wf _ _ _ _ _ hu
    · simp [hs]
    · simp [hs]

@[simp] theorem cmdAns_wf (s : State) (p : Span) (c : Command) (x : EngAns Unit) (hs : Memory.wf s.mem = true)
    (hx : x.Keeps) :
    Memory.wf (s.cmdAns p c x).mem = true := by
  unfold State.cmdAns
  split
  · simpa using hx
  · exact stopCmd_wf _ _ _ _ hx
  · next va asid u t =>
    have hx : Memory.wf t.mem = true := hx
    simp [hx]
  · simp [hs]

@[simp] theorem performed_mem (s : State) (p : Span) (c : Command) (n : Nat) : (s.performed p c n).mem = s.mem := rfl

theorem poisonEnds_keeps (a : Actor) (bad : Option DWord) (s : State) (hs : Memory.wf s.mem = true) :
    (poisonEnds a bad s).Keeps := by
  unfold poisonEnds
  split <;> exact hs

theorem nextPacket_mem {s t : State} {l : List (Nat × Nat)} {size at_ n : Nat} {fine : Bool}
    (h : s.nextPacket l size fine = some (at_, n, t)) :
    t.mem = s.mem := by
  unfold State.nextPacket at h
  split at h
  · cases h
  · dsimp only at h
    split at h <;> cases h <;> simp

@[simp] theorem landFlight_keeps (s : State) (p : Span) (c : Command) (a : Actor) (f : Flight)
    (hs : Memory.wf s.mem = true) :
    (s.landFlight p c a f).Keeps :=
  keeps_bind (engWrite_keeps s a _ _ _ _ hs) fun _ t ht => poisonEnds_keeps a _ _ (by simp [ht])

@[simp] theorem flyStep_keeps (s : State) (p : Span) (c : Command) (a : Actor) (size : Nat)
    (read : Nat → Nat → State → EngAns (Nat × List Byte × Option DWord)) (hs : Memory.wf s.mem = true)
    (hr : ∀ i n t, Memory.wf t.mem = true → (read i n t).Keeps) :
    (s.flyStep p c a size read).Keeps := by
  have hl : ∀ t : State, Memory.wf t.mem = true → ∀ i : Nat, (match c.flight[i]? with
      | some f => t.landFlight p c a f
      | none => .ok () s : EngAns Unit).Keeps := by
    intro t ht i
    split
    · exact landFlight_keeps t p c a _ ht
    · exact hs
  have h1 : ∀ n, Memory.wf (s.oneOf n).2.mem = true := fun n => by rw [oneOf_mem, hs]
  unfold State.flyStep
  dsimp only
  refine ite_keeps (hl _ (h1 _) _) (ite_keeps (hl _ (h1 _) _) ?_)
  split
  · exact hs
  · next he => exact keeps_bind (hr _ _ _ (by rw [nextPacket_mem he, oneOf_mem, hs])) fun r t ht => by simpa using ht

theorem bytesRead_keeps (n : Nat) {x : EngAns (List Byte × Option DWord)} (hx : x.Keeps) : (bytesRead n x).Keeps :=
  keeps_bind hx fun _ _ ht => ht

@[simp] theorem scaleByte_keeps (s : State) (a : Actor) (x : DWord) (off : Nat) (hs : Memory.wf s.mem = true) :
    (s.scaleByte a x off).Keeps := by
  unfold State.scaleByte
  dsimp only
  split
  · exact hs
  · exact engRead_keeps s a _ _ 1 hs

@[simp] theorem scaleBlocks_keeps (n : Nat) (s : State) (a : Actor) (r : ScaleRecord) (b : Nat)
    (hs : Memory.wf s.mem = true) :
    (s.scaleBlocks n a r b).Keeps := by
  induction n generalizing s b with
  | zero => exact hs
  | succ n ih =>
    exact keeps_bind (scaleByte_keeps s a _ _ hs) fun x t ht => keeps_bind (scaleByte_keeps t a _ _ ht) fun y u hu =>
      keeps_bind (ih u _ hu) fun z v hv => hv

@[simp] theorem readScales_keeps (s : State) (a : Actor) (w : Vector DWord 4) (at_ n : Nat) (hs : Memory.wf s.mem = true) :
    (s.readScales a w at_ n).Keeps := by
  refine keeps_bind (engRead_keeps s a _ _ 32 hs) fun x t ht => ?_
  dsimp only
  split
  · exact ht
  · exact keeps_bind (scaleBlocks_keeps _ t a _ _ ht) fun y u hu => hu

@[simp] theorem trotElem_keeps (s : State) (a : Actor) (w : Vector DWord 4) (i : Nat) (hs : Memory.wf s.mem = true) :
    (s.trotElem a w i).Keeps := by
  refine keeps_bind (engWord_keeps s a _ _ _ hs) fun x t ht => ?_
  dsimp only
  split
  · exact ht
  · split <;> exact ht

@[simp] theorem gatherRead_keeps (n : Nat) (s : State) (a : Actor) (w : Vector DWord 4) (i : Nat)
    (hs : Memory.wf s.mem = true) :
    (s.gatherRead n a w i).Keeps := by
  induction n generalizing s i with
  | zero => exact hs
  | succ n ih =>
    refine keeps_bind (trotElem_keeps s a w i hs) fun e t ht => keeps_bind (engRead_keeps t a _ _ _ ht) fun x u hu => ?_
    split
    · exact hu
    · refine keeps_bind (ih u _ hu) fun y v hv => ?_
      split
      · exact hu
      · exact hv

@[simp] theorem scatterElems_keeps (n : Nat) (s : State) (p : Span) (c : Command) (a : Actor) (i : Nat)
    (hs : Memory.wf s.mem = true) :
    (s.scatterElems n p c a i).Keeps := by
  induction n generalizing s i with
  | zero => exact hs
  | succ n ih =>
    exact keeps_bind (trotElem_keeps s a _ i hs) fun e t ht => keeps_bind (engRead_keeps t a _ _ _ ht) fun x u hu =>
      keeps_bind (engWrite_keeps u a _ _ _ _ hu) fun _ v hv =>
      keeps_bind (poisonEnds_keeps a _ _ (by simpa using hv)) fun _ v2 h2 => ih v2 _ h2

@[simp] theorem sendCount_keeps (s : State) (p : Span) (c : Command) (hs : Memory.wf s.mem = true) :
    (s.sendCount p c).Keeps := by
  refine keeps_bind (cmdBarPlace_keeps s _ _ hs) fun q t ht => ?_
  dsimp only
  split
  · simp [ht]
  · split <;> simp [ht]

@[simp] theorem joinCollective_mem (s : State) (sp : SpanId) (tok : BitVec 16) (op : Nat) :
    (s.joinCollective sp tok op).mem = s.mem := by
  unfold State.joinCollective
  split <;> simp

@[simp] theorem collRead_keeps (s : State) (n : Nat) (ms : List (Span × Command)) (hs : Memory.wf s.mem = true) :
    (s.collRead n ms).Keeps := by
  induction ms generalizing s with
  | nil => exact hs
  | cons m rest ih =>
    have hx := engRead_keeps s (actorOf m.1 m.2) (segOf m.2.words[1]) (offOf m.2.words[1]) n hs
    unfold State.collRead
    dsimp only
    split <;> rename_i he <;> rw [he] at hx
    · have hy := ih _ hx
      split <;> rename_i hf <;> rw [hf] at hy
      · exact hy
      · exact hy
    · exact hx
    · exact hx
    · trivial

@[simp] theorem collReach_keeps (s : State) (n : Nat) (ms : List (Span × Command)) (hs : Memory.wf s.mem = true) :
    (s.collReach n ms).Keeps := by
  induction ms generalizing s with
  | nil => exact hs
  | cons m rest ih =>
    have hx := engReach_keeps s (actorOf m.1 m.2) (segOf m.2.words[2]) .write
      ((actorOf m.1 m.2).pieces (segOf m.2.words[2]) (offOf m.2.words[2]) n) hs
    unfold State.collReach
    dsimp only
    split
    · next he => rw [he] at hx; exact ih _ hx
    · exact hx

@[simp] theorem collWrite_keeps (s : State) (bs : List Byte) (bad : Bool) (ms : List (Span × Command))
    (hs : Memory.wf s.mem = true) :
    (s.collWrite bs bad ms).Keeps := by
  induction ms generalizing s with
  | nil => exact hs
  | cons m rest ih =>
    have hx := engWrite_keeps s (actorOf m.1 m.2) (segOf m.2.words[2]) (offOf m.2.words[2]) bs bad hs
    unfold State.collWrite
    dsimp only
    split
    · next he => rw [he] at hx; exact ih _ hx
    · exact hx

@[simp] theorem finishCollective_wf (s : State) (ms : List (Span × Command)) (poison : List ((Span × Command) × DWord))
    (hs : Memory.wf s.mem = true) :
    Memory.wf (s.finishCollective ms poison).mem = true :=
  foldl_wf _ (fun t x h => stopCmd_wf t _ _ _ h) _ _ (foldl_wf _ (fun t m h => by simpa using h) _ s hs)

@[simp] theorem performCollective_wf (s : State) (ms : List (Span × Command)) (hs : Memory.wf s.mem = true) :
    Memory.wf (s.performCollective ms).mem = true := by
  unfold State.performCollective
  dsimp only
  split
  · exact hs
  · next m0 _ _ =>
    have h0 := collRead_keeps s (fld m0.2.words[3] 0 32)
      (if cmdOp m0.2.words = 0 then [m0] else sortBy (fun a b => decide (cmdRank a.2.words < cmdRank b.2.words)) ms) hs
    split <;> rename_i he <;> rw [he] at h0
    · exact cmdAns_wf s _ _ _ hs h0
    · next bufs poison t =>
      split <;> rename_i hf
      · next m e =>
        have h1 : (CollAns.stops m e : CollAns Unit).Keeps := hf ▸ collReach_keeps t _ _ h0
        exact cmdAns_wf s _ _ _ hs h1
      · next x t1 =>
        have h1 : (CollAns.ok x t1).Keeps := hf ▸ collReach_keeps t _ _ h0
        split <;> rename_i hg
        · next m e =>
          have h2 : (CollAns.stops m e : CollAns Unit).Keeps := hg ▸ collWrite_keeps t1 _ _ _ h1
          exact cmdAns_wf s _ _ _ hs h2
        · next y t2 =>
          have h2 : (CollAns.ok y t2).Keeps := hg ▸ collWrite_keeps t1 _ _ _ h1
          exact finishCollective_wf _ _ _ h2

@[simp] theorem freeWords_mem (n : Nat) (s : State) (m : Nat) : (State.freeWords n s m).2.mem = s.mem := by
  induction n generalizing s with
  | zero => rfl
  | succ n ih => simp [State.freeWords, ih]

@[simp] theorem carouselRun_keeps (s : State) (p : Span) (c : Command) (a : Actor) (op : Nat)
    (hs : Memory.wf s.mem = true) :
    (s.carouselRun p c a op).Keeps := by
  refine keeps_bind (engRead_keeps s a _ _ 32 hs) fun x t ht => ?_
  dsimp only
  split
  · exact ht
  · split
    · exact ht
    · refine keeps_bind (engRead_keeps t a _ _ _ ht) fun y t1 h1 => keeps_bind ?_ fun z t2 h2 =>
        keeps_bind (engReach_keeps t2 a _ .write _ h2) fun _ t3 h3 =>
        keeps_bind (engWrite_keeps _ a _ _ _ _ ?_) fun _ u hu => poisonEnds_keeps a _ _ (by simpa using hu)
      · split
        · exact engRead_keeps t1 a _ _ _ h1
        · exact h1
      · split <;> simp [h3]

/-! ## `Machine/LongNum` -/

@[simp] theorem longRead_keeps (s : State) (a : Actor) (d : Desc) (hs : Memory.wf s.mem = true) :
    (s.longRead a d).Keeps :=
  keeps_bind (engRead_keeps s a _ _ _ hs) fun _ _ ht => ht

@[simp] theorem longReach_keeps (s : State) (a : Actor) (seg off n : Nat) (u : Use) (hs : Memory.wf s.mem = true) :
    (s.longReach a seg off n u).Keeps :=
  engReach_keeps s a seg u _ hs

@[simp] theorem longSources_keeps (s : State) (a : Actor) (kind : BitVec 3) (x y : DWord × DWord)
    (hs : Memory.wf s.mem = true) :
    (s.longSources a kind x y).Keeps := by
  refine keeps_bind (longReach_keeps s a _ _ _ .read hs) fun _ t ht =>
    keeps_bind (longReach_keeps t a _ _ _ .read ht) fun _ t1 h1 =>
    keeps_bind (longRead_keeps t1 a _ h1) fun u t2 h2 => keeps_bind ?_ fun v t3 h3 => h3
  split
  · exact h2
  · exact longRead_keeps t2 a _ h2

@[simp] theorem longValue_wf (s : State) (a : Actor) (kind : BitVec 3) (dst : Desc) (bound : Nat) (x y : DWord × DWord)
    (r : Int) (hs : Memory.wf s.mem = true) :
    Memory.wf (s.longValue a kind dst bound x y r).2.2.mem = true := by
  simp only [State.longValue]
  (repeat' split) <;> simp [hs]

@[simp] theorem longDest_keeps (s : State) (o : SlowOp) (dst : Desc) (bound : Nat) (alloc : Bool)
    (hs : Memory.wf s.mem = true) :
    (s.longDest o dst bound alloc).Keeps := by
  unfold State.longDest
  split
  · exact hs
  · dsimp only
    split
    · exact hs
    · next he => simp [hayTake_mem he, hs]

@[simp] theorem longRun_keeps (s : State) (o : SlowOp) (kind : BitVec 3) (d : RegNo) (x y : DWord × DWord) (alloc : Bool)
    (hs : Memory.wf s.mem = true) :
    (s.longRun o kind d x y alloc).Keeps := by
  refine keeps_bind (longSources_keeps s _ kind x y hs) fun v t ht => ?_
  dsimp only
  split
  · split <;> exact ht
  · refine keeps_bind (longDest_keeps t o _ _ alloc ht) fun e t1 h1 =>
      keeps_bind (longReach_keeps _ _ _ _ _ .write ?_) fun _ t3 h3 =>
      keeps_bind (engWrite_keeps t3 _ _ _ _ _ h3) fun _ t4 h4 => ?_
    · simp [h1]
    · split <;> exact h4

@[simp] theorem endSlow_mem (s : State) (o : SlowOp) (refs : List Ref) : (s.endSlow o refs).mem = s.mem := rfl

@[simp] theorem longAttempt_wf (s : State) (o : SlowOp) (kind : BitVec 3) (d : RegNo) (x y : DWord × DWord) (alloc : Bool)
    (via : LongVia) (hs : Memory.wf s.mem = true) :
    Memory.wf (s.longAttempt o kind d x y alloc via).mem = true := by
  have hx := longRun_keeps s o kind d x y alloc hs
  unfold State.longAttempt
  dsimp only
  split
  · exact hs
  · split <;> rename_i he <;> rw [he] at hx
    · simp [hs]
    · have hx : Memory.wf _ = true := hx
      simp [hx]
    · have hx : Memory.wf _ = true := hx
      simp [hx]
    · have hx : Memory.wf _ = true := hx
      split
      · simp [hx]
      · split <;> simp [hx]

/-! ## `Machine/Starter` -/

@[simp] theorem updOwner_mem (s : State) (id : SpanId) (g : GroupId) (f : Span → Span) :
    (s.updOwner id g f).mem = s.mem :=
  rfl

@[simp] theorem holdTask_mem (s : State) (e : StarterEntry) (code : Nat) (region : BitVec 48) :
    (s.holdTask e code region).mem = s.mem := by
  simp only [State.holdTask]
  (repeat' split) <;> simp

@[simp] theorem updEntry_mem (s : State) (e : StarterEntry) (f : StarterEntry → StarterEntry) :
    (s.updEntry e f).mem = s.mem :=
  rfl

@[simp] theorem enterGate_mem (s : State) (e : StarterEntry) : (s.enterGate e).mem = s.mem := rfl

@[simp] theorem renameRegion_mem (s : State) (r x : RegionId) : (s.renameRegion r x).mem = s.mem := by
  simp [State.renameRegion]

@[simp] theorem ownerRegion_mem (s : State) (p : Span) : (s.ownerRegion p).2.mem = s.mem := rfl

@[simp] theorem enterRecord_mem (s : State) (e : StarterEntry) (dep : Nat) : (s.enterRecord e dep).mem = s.mem := by
  simp [State.enterRecord]

@[simp] theorem ttaskAnswer_mem (s : State) (o : SlowOp) (seg : BitVec 3) (off modq xwin : DWord) (w : BitVec 512) :
    (s.ttaskAnswer o seg off modq xwin w).2.mem = s.mem := by
  simp only [State.ttaskAnswer]
  (repeat' split) <;> simp

@[simp] theorem ttaskAttempt_wf (s : State) (o : SlowOp) (d : RegNo) (seg : BitVec 3) (off modq xwin : DWord)
    (hs : Memory.wf s.mem = true) :
    Memory.wf (s.ttaskAttempt o d seg off modq xwin).mem = true := by
  have hx := engRead_keeps s (s.slowActor o) seg.toNat off.toNat 64 hs
  unfold State.ttaskAttempt
  dsimp only
  split <;> rename_i he <;> rw [he] at hx
  · simp [hs]
  · have hx : Memory.wf _ = true := hx
    simp [hx]
  · have hx : Memory.wf _ = true := hx
    simp [hx]
  · have hx : Memory.wf _ = true := hx
    split
    · simp [hx]
    · simp [hx]

@[simp] theorem taskRows_keeps (n : Nat) (s : State) (a : Actor) (x : DWord) (pitch f k i : Nat)
    (hs : Memory.wf s.mem = true) :
    (s.taskRows n a x pitch f k i).Keeps := by
  induction n generalizing s i with
  | zero => exact hs
  | succ n ih =>
    unfold State.taskRows
    dsimp only
    split
    · exact hs
    · exact keeps_bind (engRead_keeps s a _ _ _ hs) fun r t ht => keeps_bind (ih t _ ht) fun q u hu => hu

@[simp] theorem taskStore_keeps (s : State) (a : Actor) (r : TaskRecord) (bs : List Byte) (bad : Bool)
    (hs : Memory.wf s.mem = true) :
    (s.taskStore a r bs bad).Keeps :=
  engWrites_keeps s a _ _ bad hs

@[simp] theorem taskUpdate_keeps (s : State) (a : Actor) (r : TaskRecord) (bs : List Byte) (hs : Memory.wf s.mem = true) :
    (s.taskUpdate a r bs).Keeps := by
  refine keeps_bind (drainPlaces_keeps s a _ _ hs) fun qs t ht => ?_
  dsimp only
  split
  · trivial
  · exact ht
  · next u hu => exact applyUpdate_wf u _ _ (by rw [admitReqs_mem hu, ht])

@[simp] theorem taskRun_keeps (s : State) (e : StarterEntry) (r : TaskRecord) (a : Actor) (hs : Memory.wf s.mem = true) :
    (s.taskRun e r a).Keeps := by
  unfold State.taskRun
  split
  · exact hs
  · refine keeps_bind (taskRows_keeps _ s a _ _ _ _ _ hs) fun x t ht =>
      keeps_bind (taskRows_keeps _ t a _ _ _ _ _ ht) fun y t1 h1 => ?_
    dsimp only
    split
    · exact h1
    · split
      · exact h1
      · refine keeps_bind ?_ fun _ t2 h2 => ?_
        · split
          · exact taskUpdate_keeps t1 a r _ h1
          · exact taskStore_keeps t1 a r _ _ h1
        · split <;> exact h2

@[simp] theorem leaveEngine_mem (s : State) (k : CoreId) (o : EngineOp) : (s.leaveEngine k o).mem = s.mem := by
  simp [State.leaveEngine]

@[simp] theorem endSlice_mem (s : State) (k : CoreId) (o : EngineOp) (e : StarterEntry) (op slice : Nat)
    (fault : Option TrapInfo) :
    (s.endSlice k o e op slice fault).mem = s.mem := by
  unfold State.endSlice
  (repeat' split) <;> simp

@[simp] theorem sliceAttempt_wf (s : State) (k : CoreId) (o : EngineOp) (e : StarterEntry) (op slice : Nat)
    (hs : Memory.wf s.mem = true) :
    Memory.wf (s.sliceAttempt k o e op slice).mem = true := by
  unfold State.sliceAttempt
  split
  · next x _ _ =>
    have hx := triSlice_keeps s (entryActor e o.failed.isSome) x slice hs
    split <;> rename_i he <;> rw [he] at hx
    · simp [hs]
    · have hx : Memory.wf _ = true := hx
      simp [hx]
    · have hx : Memory.wf _ = true := hx
      simp [hx]
    · have hx : Memory.wf _ = true := hx
      simp [hx]
  · simp [hs]

@[simp] theorem taskAttempt_wf (s : State) (k : CoreId) (o : EngineOp) (order : Nat) (hs : Memory.wf s.mem = true) :
    Memory.wf (s.taskAttempt k o order).mem = true := by
  unfold State.taskAttempt
  split
  · simp [hs]
  · next e _ =>
    split
    · simp [hs]
    · exact hs
    · next w _ =>
      have hx := taskRun_keeps s e (taskRecordOf w) (entryActor e o.failed.isSome) hs
      dsimp only
      split <;> rename_i he <;> rw [he] at hx
      · simp [hs]
      · have hx : Memory.wf _ = true := hx
        simp [hx]
      · have hx : Memory.wf _ = true := hx
        simp [hx]
      · have hx : Memory.wf _ = true := hx
        simp [hx]

@[simp] theorem decrementEntry_mem (s : State) (e : StarterEntry) (n : Nat) : (s.decrementEntry e n).mem = s.mem := by
  simp [State.decrementEntry]

theorem decrementNow_mem {s t : State} {c : Fin 16} {key n : Nat} (h : s.decrementNow c key n = some t) :
    t.mem = s.mem := by
  unfold State.decrementNow at h
  split at h
  · cases h; simp
  · split at h
    · cases h; rfl
    · cases h

@[simp] theorem decrementTask_mem (s : State) (c : Fin 16) (key n : Nat) : (s.decrementTask c key n).mem = s.mem := by
  unfold State.decrementTask
  dsimp only
  split
  · rfl
  · split
    · next t ht => exact decrementNow_mem ht
    · rfl

@[simp] theorem releaseTask_mem (s : State) (e : StarterEntry) (r : TaskRecord) : (s.releaseTask e r).mem = s.mem := by
  simp [State.releaseTask]

@[simp] theorem taskArrive_keeps (s : State) (e : StarterEntry) (r : TaskRecord) (hs : Memory.wf s.mem = true) :
    (s.taskArrive e r).Keeps := by
  unfold State.taskArrive
  split
  · exact hs
  · exact keeps_bind (engPlace_keeps s _ _ _ 16 .atomic hs) fun p t ht => by simp [ht]

@[simp] theorem endEntry_mem (s : State) (e : StarterEntry) : (s.endEntry e).mem = s.mem := by
  simp [State.endEntry]

/-! ## `Machine/VecInt` -/

@[simp] theorem setSat_mem (s : State) (b : Bool) : (s.setSat b).mem = s.mem := by
  simp [State.setSat]

@[simp] theorem elems_mem (s : State) (p : Option Pre) (t : BitVec 3) (d : RegNo) (x : Nat → Nat → Int) :
    (s.elems p t d x).mem = s.mem := by
  simp [State.elems]

@[simp] theorem elems2_mem (s : State) (p : Option Pre) (t : BitVec 3) (d a : RegNo) (b : Src) (f : Int → Int → Int) :
    (s.elems2 p t d a b f).mem = s.mem := by
  simp [State.elems2]

@[simp] theorem bits2_mem (s : State) (p : Option Pre) (t : BitVec 3) (d a : RegNo) (b : Src) (f : Nat → Nat → Int) :
    (s.bits2 p t d a b f).mem = s.mem := by
  simp [State.bits2]

@[simp] theorem elems1_mem (s : State) (p : Option Pre) (t : BitVec 3) (d a : RegNo) (f : Nat → Int) :
    (s.elems1 p t d a f).mem = s.mem := by
  simp [State.elems1]

@[simp] theorem vcompare_mem (s : State) (p : Option Pre) (t : BitVec 3) (m a : RegNo) (b : Src) (r : Int → Int → Bool) :
    (s.vcompare p t m a b r).mem = s.mem := by
  simp [State.vcompare]

@[simp] theorem carryLanes_mem (s : State) (p : Option Pre) (d : RegNo) (x : Nat → Int) (carry : Int → Bool) :
    (s.carryLanes p d x carry).mem = s.mem :=
  rfl

/-! ## `Machine/VecFp` -/

@[simp] theorem fpElems_mem (s : State) (p : Option Pre) (t : BitVec 3) (d : RegNo) (f : Nat → Nat → Nat × FFlags) :
    (s.fpElems p t d f).mem = s.mem := by
  simp [State.fpElems]

@[simp] theorem fp2_mem (s : State) (p : Option Pre) (t : BitVec 3) (d a : RegNo) (b : Src)
    (f : Fmt → RMode → FVal → FVal → Nat × FFlags) :
    (s.fp2 p t d a b f).mem = s.mem := by
  simp [State.fp2]

@[simp] theorem fpMinMax_mem (s : State) (p : Option Pre) (t : BitVec 3) (d a : RegNo) (b : Src) (wantMax : Bool) :
    (s.fpMinMax p t d a b wantMax).mem = s.mem := by
  simp [State.fpMinMax]

@[simp] theorem fpFma_mem (s : State) (p : Option Pre) (t : BitVec 3) (d a : RegNo) (b : Src) :
    (s.fpFma p t d a b).mem = s.mem := by
  simp [State.fpFma]

@[simp] theorem fpBits_mem (s : State) (p : Option Pre) (t : BitVec 3) (d a : RegNo) (f : Nat → Nat) :
    (s.fpBits p t d a f).mem = s.mem := by
  simp [State.fpBits]

@[simp] theorem fpCompare_mem (s : State) (p : Option Pre) (t : BitVec 3) (m a b : RegNo) (r : FRel) :
    (s.fpCompare p t m a b r).mem = s.mem := by
  simp [State.fpCompare]

/-! ## `Machine/VecSpecial` -/

@[simp] theorem readNow_wf (s : State) (o : MemOp) (hs : Memory.wf s.mem = true) :
    Memory.wf (s.readNow o).2.1.mem = true :=
  foldl_wf _ (fun t x h => accessAtHome_wf t _ _ h) _ _ (by simp [hs])

@[simp] theorem dequantised_mem (s : State) (p : Option Pre) (bf : Bool) (d : RegNo) (value : Nat → FVal)
    (good : Nat → Bool) (more : State → State) (hm : ∀ t, (more t).mem = t.mem) :
    (s.dequantised p bf d value good more).mem = s.mem := by
  unfold State.dequantised
  dsimp only
  split <;> simp [hm]

/-! ## `Machine/System` -/

@[simp] theorem putSysReg_mem (s : State) (r : BitVec 12) (v : DWord) : (s.putSysReg r v).mem = s.mem := by
  unfold State.putSysReg
  split <;> rfl

@[simp] theorem readHere_wf (s : State) (k off size n : Nat) (go : State → List Byte → State)
    (hs : Memory.wf s.mem = true) (hg : ∀ t bs, Memory.wf t.mem = true → Memory.wf (go t bs).mem = true) :
    Memory.wf (s.readHere k off size n go).mem = true := by
  unfold State.readHere
  refine withPlaces_wf _ _ _ _ _ _ _ hs fun ps => unlessFar_wf _ _ _ hs ?_
  have hw := fun o => readNow_wf (s.fillFor k ps) o (fillFor_wf s k ps hs)
  dsimp only
  split
  · simp [hw]
  · split
    · simp [hw]
    · exact hg _ _ (hw _)

/-! ## `Machine/Task` -/

@[simp] theorem atEnd_mem (s : State) (go : State → State) (hg : (go s.endRegion).mem = s.mem) :
    (s.atEnd go).mem = s.mem := by
  unfold State.atEnd
  split
  · simp
  · split
    · simp
    · split
      · simp
      · exact hg

@[simp] theorem endTask_mem (s : State) (g : Group) : (s.endTask g).mem = s.mem := by
  simp [State.endTask]

@[simp] theorem endIfDone_mem (s : State) (g : Group) : (s.endIfDone g).mem = s.mem := by
  simp [State.endIfDone]

@[simp] theorem endExited_mem (s : State) : s.endExited.mem = s.mem := by
  unfold State.endExited
  split <;> simp

@[simp] theorem afterExit_mem (s : State) : s.afterExit.mem = s.mem := by
  simp [State.afterExit]

@[simp] theorem commitPhase_wf (s : State) (g : Group) (hs : Memory.wf s.mem = true) :
    Memory.wf (s.commitPhase g).mem = true := by
  unfold State.commitPhase
  dsimp only
  rw [dropGroup_mem, setBox_mem, releaseSaddles_mem]
  exact bagWrite_wf _ _ _ (foldl_wf _ (fun u p hu => bagWrite_wf u _ _ hu) _ _ (bagWrite_wf _ _ _ hs))

@[simp] theorem answerAcq_mem (s : State) (q : AcqReq) (r : DWord) : (s.answerAcq q r).mem = s.mem := by
  simp [State.answerAcq]

@[simp] theorem grantAcq_mem (s : State) (q : AcqReq) (g : Group) : (s.grantAcq q g).mem = s.mem := by
  simp [State.grantAcq]

@[simp] theorem retreat_mem (s : State) (k : CoreId) (t : Team) (head : AcqReq) (g : Group) :
    (s.retreat k t head g).mem = s.mem := by
  simp [State.retreat]

@[simp] theorem serveTeam_mem (fuel : Nat) (s : State) (k : CoreId) (t : Team) :
    (State.serveTeam fuel s k t).mem = s.mem := by
  induction fuel generalizing s with
  | zero => rfl
  | succ n ih =>
    unfold State.serveTeam
    dsimp only
    split
    · rfl
    · split
      · rfl
      · split <;> simp [ih]

@[simp] theorem asGang_mem (s : State) (id : SpanId) (gang : BitVec 8) : (s.asGang id gang).mem = s.mem := by
  simp [State.asGang]

@[simp] theorem spawnBag_mem (s : State) (r : BitVec 2048) (k : CoreId) (e : Nat) : (s.spawnBag r k e).2.mem = s.mem := by
  simp only [State.spawnBag]
  (repeat' split) <;> simp

theorem spawnOne_wf {s t : State} {point n : Nat} {args : List DWord} (hs : Memory.wf s.mem = true)
    (h : s.spawnOne point n args = some t) :
    Memory.wf t.mem = true := by
  unfold State.spawnOne at h
  dsimp only at h
  split at h
  · split at h
    · cases h
    · cases h
      exact bindGroup_wf _ _ _ _ (by simp [hs])
  · cases h

@[simp] theorem spawnMany_wf (n : Nat) (s : State) (point spans : Nat) (args : List DWord) (hs : Memory.wf s.mem = true) :
    Memory.wf (State.spawnMany n s point spans args).2.mem = true := by
  induction n generalizing s with
  | zero => exact hs
  | succ n ih =>
    unfold State.spawnMany
    split
    · exact hs
    · next t ht => exact ih t (spawnOne_wf hs ht)

@[simp] theorem settleYields_mem (s : State) (issuer : Option SpanId) : (s.settleYields issuer).mem = s.mem := rfl

/-! ## `Machine/Complete` -/

@[simp] theorem fillTile_mem (s : State) (o : MemOp) (t : RegNo) : (s.fillTile o t).mem = s.mem := rfl

@[simp] theorem fillBig_wf (s : State) (o : MemOp) (d : RegNo) (neg : Bool) (hs : Memory.wf s.mem = true) :
    Memory.wf (s.fillBig o d neg).mem = true := by
  simp [State.fillBig, hs]

@[simp] theorem finishAccess_wf (s : State) (o : MemOp) (hs : Memory.wf s.mem = true) :
    Memory.wf (s.finishAccess o).mem = true := by
  unfold State.finishAccess
  split <;> simp [hs]

@[simp] theorem slowAttempt_wf (s : State) (o : SlowOp) (hs : Memory.wf s.mem = true) :
    Memory.wf (s.slowAttempt o).mem = true := by
  unfold State.slowAttempt
  split <;> simp [hs]

/-! ## `Machine/CrossLane` -/

@[simp] theorem shuffle_mem (s : State) (p : Option Pre) (t : BitVec 3) (d a : RegNo) (from_ : Nat → Option Nat) :
    (s.shuffle p t d a from_).mem = s.mem := by
  simp [State.shuffle]

@[simp] theorem putScan_mem (s : State) (p : Option Pre) (t o : BitVec 3) (d a : RegNo) (out : ScanStep × Nat → Nat) :
    (s.putScan p t o d a out).mem = s.mem := by
  simp [State.putScan]

/-! ## `Machine/Studbook` -/

@[simp] theorem addStud_wf (s : State) (x0 : Stud) (hs : Memory.wf s.mem = true) :
    Memory.wf (s.addStud x0).mem = true := by
  simp [State.addStud, hs]

@[simp] theorem endStud_wf (s : State) (seq : DWord) (outcome code : BitVec 8) (hs : Memory.wf s.mem = true) :
    Memory.wf (s.endStud seq outcome code).mem = true := by
  unfold State.endStud
  split <;> simp [hs]

@[simp] theorem decide_mem (s : State) (seq : DWord) (outcome code : BitVec 8) :
    (s.decide_ seq outcome code).mem = s.mem :=
  rfl

@[simp] theorem journal_wf (s : State) (die : Fin 4) (box : BitVec 12) (cause : BitVec 4) (launch : DWord)
    (outcome code : BitVec 8) (hs : Memory.wf s.mem = true) :
    Memory.wf (s.journal die box cause launch outcome code).mem = true := by
  simp [State.journal, hs]

@[simp] theorem putBox_mem (s : State) (b : Box) : (s.putBox b).mem = s.mem := rfl

/-! ## `Machine/EvHost` -/

@[simp] theorem post_mem (s : State) (dom : OrderDomain) (relaxed : Bool) (pa : Nat) (data : List Byte)
    (dwin : Option DWord) :
    (s.post dom relaxed pa data dwin).mem = s.mem :=
  rfl

@[simp] theorem hostRead_wf (s : State) (pa n : Nat) (hs : Memory.wf s.mem = true) :
    Memory.wf (s.hostRead pa n).2.mem = true := by
  unfold State.hostRead
  exact List.foldlRecOn (motive := fun r : List Byte × State => Memory.wf r.2.mem = true) _ _ hs fun r hr c _ =>
      hostLine_wf _ _ _ hr

@[simp] theorem serveReads_wf (s : State) (hs : Memory.wf s.mem = true) : Memory.wf s.serveReads.mem = true :=
  foldl_wf _ (fun t r h => by dsimp only; split <;> simp [h]) _ _ hs

@[simp] theorem donePosted_wf (s : State) (id : Nat) (hs : Memory.wf s.mem = true) :
    Memory.wf (s.donePosted id).mem = true := by
  simp [State.donePosted, hs]

@[simp] theorem setDwin_mem (s : State) (port : Bool) (v : DWord) : (s.setDwin port v).mem = s.mem := rfl

@[simp] theorem release_wf (s : State) (p : Posted) (hs : Memory.wf s.mem = true) :
    Memory.wf (s.release p).mem = true := by
  unfold State.release
  split <;> simp [hs]

@[simp] theorem putPosted_mem (s : State) (p : Posted) : (s.putPosted p).mem = s.mem := rfl

@[simp] theorem performPacket_wf (s : State) (p : Posted) (c : Nat × Nat) (hs : Memory.wf s.mem = true) :
    Memory.wf (s.performPacket p c).mem = true := by
  simp [State.performPacket, hs]

@[simp] theorem putQueue_mem (s : State) (q : Queue) : (s.putQueue q).mem = s.mem := rfl

@[simp] theorem copyCounters_mem (s : State) : s.copyCounters.mem = s.mem := rfl

/-! ## `Machine/ContextArea` -/

@[simp] theorem saveArea_wf (s : State) (g : Group) (c : Context) (tinfo tpc : DWord) (hs : Memory.wf s.mem = true) :
    Memory.wf (s.saveArea g c tinfo tpc).mem = true := by
  simp [State.saveArea, hs]

/-! ## `Machine/EvHome` -/

@[simp] theorem forgetOps_mem (s : State) (g : Group) : (s.forgetOps g).mem = s.mem := by
  simp [State.forgetOps]

@[simp] theorem requeue_mem (s : State) (g : Group) : (s.requeue g).mem = s.mem := rfl

@[simp] theorem rollback_wf (s : State) (g : Group) (hs : Memory.wf s.mem = true) :
    Memory.wf (s.rollback g).mem = true := by
  simp [State.rollback, hs]

@[simp] theorem unseatGroup_wf (s : State) (g : Group) (hs : Memory.wf s.mem = true) :
    Memory.wf (s.unseatGroup g).mem = true := by
  simp [State.unseatGroup, hs]

@[simp] theorem unseatSaved_wf (s : State) (c : Context) (hs : Memory.wf s.mem = true) :
    Memory.wf (s.unseatSaved c).mem = true := by
  simp [State.unseatSaved, hs]

/-! ## `Machine/EvLaunch` -/

@[simp] theorem stopRegions_mem (s : State) (id : SpanId) : (s.stopRegions id).mem = s.mem := by
  simp [State.stopRegions]

@[simp] theorem quarantineReads_mem (s : State) (p : Span) : (s.quarantineReads p).mem = s.mem := by
  simp [State.quarantineReads]

@[simp] theorem liftGroup_mem (s : State) (g : Group) : (s.liftGroup g).mem = s.mem := by
  simp [State.liftGroup]

@[simp] theorem stopGroup_wf (s : State) (g : Group) (cause : BitVec 4) (hs : Memory.wf s.mem = true) :
    Memory.wf (s.stopGroup g cause).mem = true := by
  unfold State.stopGroup
  dsimp only
  refine ite_wf (trace_wf _ _ _ ?_) (report_wf _ _ (trace_wf _ _ _ ?_)) <;>
  · rw [setBox_mem, liftGroup_mem]
    exact saveArea_wf _ _ _ _ _ (foldl_wf _ (fun t p h => by simp [h]) _ s hs)

@[simp] theorem discardContext_wf (s : State) (c : Context) (hs : Memory.wf s.mem = true) :
    Memory.wf (s.discardContext c).mem = true := by
  simp [State.discardContext, hs]

@[simp] theorem resetGroup_wf (s : State) (g : Group) (hs : Memory.wf s.mem = true) :
    Memory.wf (s.resetGroup g).mem = true := by
  have h2 : Memory.wf ((((s.rollback g).forgetOps g).setBox g.die g.box 5).dropGroup g.id).mem = true := by simp [hs]
  exact journal_wf _ _ _ _ _ _ _ (report_wf _ _ h2)

@[simp] theorem writeMonitors_wf (s : State) (g : Group) (ms : List Monitor) (hs : Memory.wf s.mem = true) :
    Memory.wf (s.writeMonitors g ms).mem = true := by
  simp [State.writeMonitors, hs]

@[simp] theorem restoreMemory_wf (s : State) (c : Context) (m : Move) (hs : Memory.wf s.mem = true) :
    Memory.wf (s.restoreMemory c m).mem = true := by
  unfold State.restoreMemory
  exact homeWrite_wf _ _ _ _ _ (zeroRange_wf _ _ (homeWrite_wf _ _ _ _ _ (zeroRange_wf _ _ hs)))

theorem drainQuarantine_wf {s t : State} {m : Move} {qs : List Quarantine} (hs : Memory.wf s.mem = true)
    (h : s.drainQuarantine m qs = some t) :
    Memory.wf t.mem = true := by
  induction qs generalizing s with
  | nil => cases h; exact hs
  | cons q rest ih =>
    unfold State.drainQuarantine at h
    split at h
    · exact ih hs h
    · next p c _ =>
      have hx := engWrite_keeps s (actorOf p c) q.seg.toNat q.off q.data q.bad.isSome hs
      dsimp only at h
      split at h <;> rename_i he
      · rw [he] at hx
        have hx : Memory.wf _ = true := hx
        refine ih ?_ h
        split <;> simp [hx]
      · rw [he] at hx
        exact ih (stopCmd_wf _ _ _ _ hx) h
      · cases h
      · cases h

@[simp] theorem revisePromises_mem (s : State) (id : SpanId) : (s.revisePromises id).mem = s.mem := by
  simp [State.revisePromises]

@[simp] theorem restoreContext_wf (s : State) (c : Context) (m : Move) (hs : Memory.wf s.mem = true) :
    Memory.wf (s.restoreContext c m).mem = true := by
  unfold State.restoreContext
  dsimp only
  split
  · exact hs
  · next t ht => simpa using drainQuarantine_wf (by simp [hs]) ht

/-! ## `Machine/EvCommand` -/

@[simp] theorem accept_wf (s : State) (port : Bool) (q : BitVec 8) (bs : List Byte) (hs : Memory.wf s.mem = true) :
    Memory.wf (s.accept port q bs).2.mem = true := by
  simp [State.accept, hs]

@[simp] theorem startLaunch_wf (s : State) (seq : DWord) (r : BitVec 2048) (trace : Bool) (hs : Memory.wf s.mem = true) :
    Memory.wf (s.startLaunch seq r trace).mem = true := by
  simp [State.startLaunch, hs]

@[simp] theorem signal_wf (s : State) (addr v : DWord) (hs : Memory.wf s.mem = true) :
    Memory.wf (s.signal addr v).mem = true := by
  simp [State.signal, hs]

@[simp] theorem retireLaunch_mem (s : State) (seq : DWord) : (s.retireLaunch seq).mem = s.mem := rfl

/-! ## `Machine/Transit` -/

@[simp] theorem updPacket_mem (s : State) (id : Nat) (f : Packet → Packet) : (s.updPacket id f).mem = s.mem := rfl

@[simp] theorem noteFlit_mem (s : State) (d : DieId) (r : Nat) : (s.noteFlit d r).mem = s.mem := rfl

@[simp] theorem wakeSignal_mem (s : State) (d : DieId) (r : Nat) : (s.wakeSignal d r).mem = s.mem := by
  unfold State.wakeSignal
  split <;> simp

@[simp] theorem arrive_mem (s : State) (p : Packet) : (s.arrive p).mem = s.mem := rfl

@[simp] theorem hop_mem (s : State) (p : Packet) (d : DieId) (r : Nat) (o : Nat × Nat) (misroute : Bool) :
    (s.hop p d r o misroute).mem = s.mem :=
  rfl

/-! ## `Machine/EvFabric` -/

@[simp] theorem putHalter_mem (s : State) (h : Halter) : (s.putHalter h).mem = s.mem := rfl

@[simp] theorem holdUnreachable_mem (s : State) (o : MemOp) (va : DWord) : (s.holdUnreachable o va).mem = s.mem := by
  unfold State.holdUnreachable
  split <;> simp

@[simp] theorem unreachable_mem (s : State) (o : MemOp) (p : Req → Bool) : (s.unreachable o p).mem = s.mem := by
  simp only [State.unreachable]
  (repeat' split) <;> simp

@[simp] theorem putGirth_mem (s : State) (l : Fin 10) (g : Girth) : (s.putGirth l g).mem = s.mem := rfl

@[simp] theorem resend_mem (s : State) (l : Fin 10) : (s.resend l).mem = s.mem := rfl

@[simp] theorem isolate_wf (s : State) (d : DieId) (hs : Memory.wf s.mem = true) :
    Memory.wf (s.isolate d).mem = true := by
  unfold State.isolate
  dsimp only
  exact foldl_wf _ (fun t g h => resetGroup_wf t g h) _ _ (by simp [hs])

@[simp] theorem sendDoubles_mem (s : State) (l : Fin 10) (w : Fin 2) : (s.sendDoubles l w).mem = s.mem := by
  simp [State.sendDoubles]

@[simp] theorem rerouted_mem (s : State) (l : Fin 10) : (s.rerouted l).mem = s.mem := by
  unfold State.rerouted
  rw [sendDoubles_mem, sendDoubles_mem]

@[simp] theorem loseWork_mem (s : State) (n : Nat) :
    (s.loseWork n).mem = s.mem := by
  simp only [State.loseWork, mapSpans_mem]

/-! ## `Machine/EvMem` -/

@[simp] theorem islandReports_mem (s : State) (n : Fin 24) (x : Island) : (s.islandReports n x).mem = s.mem := rfl

@[simp] theorem extendMr1_mem (s : State) (digest : BitVec 512) : (s.extendMr1 digest).mem = s.mem := rfl

@[simp] theorem applySetting_mem (s : State) (x : Setting) : (s.applySetting x).mem = s.mem := by
  unfold State.applySetting
  split <;> simp

/-! ## `Machine/Transc` -/

@[simp] theorem transc_mem (s : State) (p : Option Pre) (t : BitVec 3) (d a : RegNo) (g : TFun) (accurate : Bool) :
    (s.transc p t d a g accurate).mem = s.mem := by
  simp [State.transc]

/-! ## `Machine/Issue` -/

@[simp] theorem atItem_mem (s : State) (ws : List Word) (started : Bool) (it : Item) :
    (s.atItem ws started it).mem = s.mem :=
  rfl

@[simp] theorem holdWord_mem (s : State) (slot : Nat) : (s.holdWord slot).mem = s.mem := by
  simp [State.holdWord]

@[simp] theorem takeLate_mem (s : State) (gang : BitVec 8) (t : TrapInfo) : (s.takeLate gang t).mem = s.mem := by
  unfold State.takeLate
  split <;> simp

@[simp] theorem passGroup_mem (s : State) (gang : BitVec 8) (next : Nat) : (s.passGroup gang next).mem = s.mem := by
  simp [State.passGroup]

@[simp] theorem nextWaiting_mem (s : State) (k : Nat) (rest : List Nat) : (s.nextWaiting k rest).mem = s.mem := rfl

@[simp] theorem parkEnds_mem (s : State) : s.parkEnds.mem = s.mem := by
  unfold State.parkEnds
  split <;> simp

@[simp] theorem closeGroup_mem (s : State) (ws : List Word) (gang : BitVec 8) (slot next : Nat) (again : Bool) :
    (s.closeGroup ws gang slot next again).mem = s.mem := by
  simp only [State.closeGroup]
  (repeat' split) <;> simp

@[simp] theorem unissue_mem (s : State) : s.unissue.mem = s.mem := rfl

@[simp] theorem startIssue_mem (s : State) (gang : BitVec 8) (pc : DWord) (slot next : Nat) :
    (s.startIssue gang pc slot next).mem = s.mem :=
  rfl

@[simp] theorem startAlone_mem (s : State) (gang : BitVec 8) (pc : DWord) (slot : Nat) (a : Again) :
    (s.startAlone gang pc slot a).mem = s.mem :=
  rfl

@[simp] theorem passOvers_mem (s : State) (c : Candidate) : (s.passOvers c).mem = s.mem := by
  unfold State.passOvers
  split <;> rfl

@[simp] theorem wakeOthers_mem (s : State) (gang : BitVec 8) : (s.wakeOthers gang).mem = s.mem := rfl

/-! ## `Machine/Schedule` -/

@[simp] theorem settled_mem (t : State) (s : State) : (t.settled s).mem = t.mem := by
  simp [State.settled]

@[simp] theorem eventEnd_mem (s : State) : s.eventEnd.mem = s.mem := by
  simp [State.eventEnd]

end Sys2Proof.Laws

end

section
/-! # Every instruction and event answers a next state and keeps memory canonical -/

namespace Sys2Proof.Laws

open Sys2Proof Sys2Proof.Machine

theorem issue1_keeps {s : State} {i : Instr} {eff : State → State}
    (h : Memory.wf s.mem = true → Memory.wf (eff s).mem = true) :
    s.Keeps (s.issue1 i eff) :=
  ⟨_, rfl, fun hs => issued_wf s i eff hs (h hs)⟩

theorem happens_keeps {s t : State} (h : Memory.wf s.mem = true → Memory.wf t.mem = true) :
    s.Keeps (happens t) :=
  ⟨t, rfl, h⟩

theorem ite_outcome_keeps {c : Prop} [Decidable c] {s : State} {x y : StepResult} (hx : s.Keeps x) (hy : s.Keeps y) :
    s.Keeps (if c then x else y) := by
  split <;> assumption

theorem commandEvent_keeps {s : State} {sp : SpanId} {tok : BitVec 16} {cls op : Nat}
    {run : Span → Command → Actor → EngAns Unit} (h : ∀ p c a, Memory.wf s.mem = true → (run p c a).Keeps) :
    s.Keeps (s.commandEvent sp tok cls op run) := by
  unfold State.commandEvent
  split
  · exact happens_keeps id
  · exact ite_outcome_keeps (happens_keeps fun hs => cmdAns_wf s _ _ _ hs (h _ _ _ hs)) (happens_keeps id)

theorem carouselEvent_keeps (s : State) (sp : SpanId) (tok : BitVec 16) (op : Nat) :
    s.Keeps (s.carouselEvent sp tok op) := by
  unfold State.carouselEvent
  split
  · exact happens_keeps id
  · exact ite_outcome_keeps (happens_keeps fun hs => cmdAns_wf s _ _ _ hs (carouselRun_keeps s _ _ _ op hs))
      (happens_keeps id)

/-! ## `Machine/LoadStore` -/

theorem execLds_keeps (p : Option Pre) (c : Bool) (s : BitVec 3) (d a b : RegNo) (l : BitVec 2) (st : State) :
    st.Keeps (execLds p c s d a b l st) :=
  issue1_keeps fun hs => ite_wf (windowLoad_wf _ _ _ _ _ _ hs) (whenPathFree_wf _ _ hs
    (withPlaces_wf _ _ _ _ _ _ _ hs fun _ => loadPlaces_wf _ _ _ _ _ _ _ _ hs))

theorem execSts_keeps (p : Option Pre) (c : Bool) (s : BitVec 3) (d a b : RegNo) (l : BitVec 2) (st : State) :
    st.Keeps (execSts p c s d a b l st) :=
  issue1_keeps fun hs => ite_wf (windowStore_wf _ _ _ _ _ hs) (whenPathFree_wf _ _ hs
    (withPlaces_wf _ _ _ _ _ _ _ hs fun _ => storePlaces_wf _ _ _ _ _ _ _ hs))

theorem execPrefetch_keeps (p : Option Pre) (c : Bool) (s : BitVec 3) (a b : RegNo) (l : BitVec 2) (st : State) :
    st.Keeps (execPrefetch p c s a b l st) :=
  issue1_keeps fun hs => foldl_wf _ (fun t x h => prefetchLine_wf t _ _ x h) _ _ hs

/-! ## `Machine/Atomics` -/

theorem execBarArrive_keeps (c : Bool) (p k : BitVec 3) (a b : RegNo) (s : State) : s.Keeps (execBarArrive c p k a b s) :=
  issue1_keeps fun hs => whenPathFree_wf _ _ hs (withWord_wf _ _ _ _ _ _ hs fun v q hv =>
    ite_wf (by simp [hs]) (by simp [hv]))

theorem execArrivalResponse_keeps (op : Nat) (s : State) : s.Keeps (execArrivalResponse op s) := by
  unfold execArrivalResponse
  dsimp only
  (repeat' split) <;> exact happens_keeps fun hs => by simp [hs]

/-! ## `Machine/Big` -/

theorem execXround_keeps (c : Bool) (d a : RegNo) (s : State) : s.Keeps (execXround c d a s) :=
  issue1_keeps fun hs => withSlots_wf _ _ _ _ hs (by
    dsimp only
    split
    · simp [hs]
    · simp [hs]
    · simp [hs]
    · split <;> simp [hs])

theorem execBcvt_keeps (c : Bool) (d b : RegNo) (s : State) : s.Keeps (execBcvt c d b s) :=
  issue1_keeps fun hs => withSlots_wf _ _ _ _ hs (by
    dsimp only
    split
    · simp [hs]
    · simp [hs]
    · split <;> simp [hs])

theorem execBspill_keeps (c : Bool) (a b : RegNo) (s : State) : s.Keeps (execBspill c a b s) :=
  issue1_keeps fun hs => withSlots_wf _ _ _ _ hs (ite_wf (by simp [hs]) (ite_wf (ite_wf (by simp [hs]) (by simp [hs]))
    (whenPathFree_wf _ _ hs (withLimbs_wf _ _ _ _ _ hs fun ps =>
      withSaddles_wf _ _ _ _ _ hs fun w _ hw => by simp [hw]))))

theorem execBfill_keeps (c : Bool) (d b : RegNo) (s : State) : s.Keeps (execBfill c d b s) :=
  issue1_keeps fun hs => whenPathFree_wf _ _ hs (withLimbs_wf _ _ _ _ _ hs fun ps =>
    withSaddles_wf _ _ _ _ _ hs fun w _ hw => by simp [hw])

theorem execBlcmp_keeps (c : Bool) (d a b : RegNo) (s : State) : s.Keeps (execBlcmp c d a b s) :=
  issue1_keeps fun hs => by
    dsimp only
    split <;> simp [hs]

/-! ## `Machine/Sync` -/

theorem execWaitcmp_keeps (c : Bool) (u : BitVec 3) (m : Bool) (p k : BitVec 3) (a b : RegNo) (s : State) :
    s.Keeps (execWaitcmp c u m p k a b s) :=
  issue1_keeps fun hs => withWord_wf _ _ _ _ _ _ hs fun t q ht => by
    split
    · split <;> simp [ht]
    · exact ite_wf (by simp [hs]) (ite_wf (by simp [ht]) (ite_wf (by simp [ht]) (ite_wf (by simp [ht])
        (ite_wf (by simp [ht]) (by simp [ht])))))

theorem execBarWait_keeps (c : Bool) (p k : BitVec 3) (a : RegNo) (s : State) : s.Keeps (execBarWait c p k a s) :=
  issue1_keeps fun hs => withWord_wf _ _ _ _ _ _ hs fun t q ht => by
    refine ite_wf (by simp [ht]) ?_
    split
    · simp [ht]
    · refine ite_wf (by simp [hs]) (ite_wf (by simp [ht]) ?_)
      split
      · split <;> simp [ht]
      · simp [ht]

/-! ## `Machine/Engine` -/

theorem execEqgo_keeps (c : Bool) (d : RegNo) (s : State) : s.Keeps (execEqgo c d s) :=
  issue1_keeps fun hs => unlessSaddled_wf _ _ hs (ite_wf (by simp [hs]) (by
    split
    · simp [hs]
    · exact sendCommand_wf _ _ _ hs))

theorem execSleepp_keeps (c : Bool) (a b : RegNo) (s : State) : s.Keeps (execSleepp c a b s) :=
  issue1_keeps fun hs => by
    rw [sleepUntil_mem _ _ _ fun u => ?_, hs]
    dsimp only
    split
    · simp
    · split <;> simp

theorem execPromiseChk_keeps (c : Bool) (d b : RegNo) (s : State) : s.Keeps (execPromiseChk c d b s) :=
  issue1_keeps fun hs => by
    dsimp only
    split
    · simp [hs]
    · simp [hs]

theorem execHayloftRequest_keeps (op : Nat) (s : State) : s.Keeps (execHayloftRequest op s) := by
  unfold execHayloftRequest
  split
  · exact happens_keeps id
  · refine ite_outcome_keeps (happens_keeps id) ?_
    split
    · dsimp only
      split
      · next he => exact happens_keeps fun hs => by simp [hayTake_mem he, hs]
      · exact happens_keeps id
    · exact happens_keeps id

theorem execHayloftFree_keeps (id : Nat) (s : State) : s.Keeps (execHayloftFree id s) := by
  unfold execHayloftFree
  dsimp only
  (repeat' split) <;> exact happens_keeps fun hs => by simp [hs]

/-! ## `Machine/Tiles` -/

theorem execTload_keeps (c : Bool) (a b f : RegNo) (k : BitVec 3) (s : State) : s.Keeps (execTload c a b f k s) :=
  issue1_keeps fun hs => ite_wf (by simp [hs]) (whenTileFree_wf _ _ _ hs (whenPathFree_wf _ _ hs
    (withRows_wf _ _ _ _ _ _ _ hs fun w _ ps hw => by simp [hw])))

/-! ## `Machine/Matrix` -/

theorem execReinsGrant_keeps (k : CoreId) (s : State) : s.Keeps (execReinsGrant k s) := by
  unfold execReinsGrant
  dsimp only
  (repeat' split) <;> exact happens_keeps fun hs => by simp [hs]

/-! ## `Machine/Coach` -/

theorem execEngineOperationAccept_keeps (op : Nat) (s : State) : s.Keeps (execEngineOperationAccept op s) := by
  unfold execEngineOperationAccept
  dsimp only
  (repeat' split) <;> exact happens_keeps fun hs => by simp [hs]

theorem execTileUpdateApply_keeps (op : Nat) (s : State) : s.Keeps (execTileUpdateApply op s) := by
  unfold execTileUpdateApply
  split
  · exact happens_keeps id
  · split
    · refine ite_outcome_keeps (happens_keeps id) ?_
      split
      · exact happens_keeps fun hs => by simp [hs]
      · exact happens_keeps fun hs => by simp [hs]
      · next t ht => exact happens_keeps fun hs => applyUpdate_wf t _ _ (by rw [admitReqs_mem ht, hs])
    · exact happens_keeps id

/-! ## `Machine/Commands` -/

theorem execPackhorseCopy_keeps (sp : SpanId) (tok : BitVec 16) (s : State) : s.Keeps (execPackhorseCopy sp tok s) :=
  commandEvent_keeps fun p c a hs => flyStep_keeps s p c a _ _ hs fun _ n t ht =>
    bytesRead_keeps n (engRead_keeps t a _ _ n ht)

theorem execPackhorseStridedCopy_keeps (sp : SpanId) (tok : BitVec 16) (s : State) :
    s.Keeps (execPackhorseStridedCopy sp tok s) :=
  commandEvent_keeps fun p c a hs => flyStep_keeps s p c a _ _ hs fun _ _ t ht =>
    bytesRead_keeps _ (engRead_keeps t a _ _ _ ht)

theorem execPackhorseFill_keeps (sp : SpanId) (tok : BitVec 16) (s : State) : s.Keeps (execPackhorseFill sp tok s) :=
  commandEvent_keeps fun p c a hs => by
    split
    · exact hs
    · next he =>
      exact keeps_bind (engWrite_keeps _ a _ _ _ false (by rw [nextPacket_mem he, hs])) fun _ u hu => by simpa using hu

theorem execPlaceScales_keeps (sp : SpanId) (tok : BitVec 16) (s : State) : s.Keeps (execPlaceScales sp tok s) :=
  commandEvent_keeps fun p c a hs => flyStep_keeps s p c a _ _ hs fun i n t ht => readScales_keeps t a _ i n ht

theorem execTrotterGather_keeps (sp : SpanId) (tok : BitVec 16) (s : State) : s.Keeps (execTrotterGather sp tok s) :=
  commandEvent_keeps fun p c a hs => flyStep_keeps s p c a _ _ hs fun i n t ht => gatherRead_keeps n t a _ i ht

theorem execTrotterScatter_keeps (sp : SpanId) (tok : BitVec 16) (s : State) : s.Keeps (execTrotterScatter sp tok s) :=
  commandEvent_keeps fun p c a hs => scatterElems_keeps _ s p c a _ hs

theorem execBarrierDecrement_keeps (sp : SpanId) (tok : BitVec 16) (s : State) :
    s.Keeps (execBarrierDecrement sp tok s) := by
  unfold execBarrierDecrement
  split
  · exact happens_keeps id
  · next p c _ =>
    refine ite_outcome_keeps (happens_keeps id) ?_
    split
    · next e t he =>
      refine happens_keeps fun hs => ?_
      have ht : (EngAns.fault e t : EngAns Unit).Keeps := he ▸ sendCount_keeps s p c hs
      exact ite_wf (by simpa using ht) (stopCmd_wf t p _ _ ht)
    · exact happens_keeps fun hs => cmdAns_wf s p c _ hs (sendCount_keeps s p c hs)

theorem execEngineCommandComplete_keeps (sp : SpanId) (tok : BitVec 16) (s : State) :
    s.Keeps (execEngineCommandComplete sp tok s) := by
  unfold execEngineCommandComplete
  dsimp only
  (repeat' split) <;> exact happens_keeps fun hs => by simp [hs]

theorem execCollectiveComplete_keeps (sp : SpanId) (tok : BitVec 16) (s : State) :
    s.Keeps (execCollectiveComplete sp tok s) := by
  unfold execCollectiveComplete
  split
  · exact happens_keeps id
  · exact ite_outcome_keeps (happens_keeps id) (ite_outcome_keeps
      (happens_keeps fun hs => foldl_wf _ (fun t m h => stopCmd_wf _ _ _ _ (by simpa using h)) _ s hs)
      (ite_outcome_keeps (happens_keeps fun hs => performCollective_wf s _ hs) (happens_keeps id)))

theorem execCarouselForward_keeps (sp : SpanId) (tok : BitVec 16) (s : State) :
    s.Keeps (execCarouselForward sp tok s) :=
  carouselEvent_keeps s sp tok 0

theorem execCarouselInverse_keeps (sp : SpanId) (tok : BitVec 16) (s : State) :
    s.Keeps (execCarouselInverse sp tok s) :=
  carouselEvent_keeps s sp tok 1

theorem execCarouselPointwise_keeps (sp : SpanId) (tok : BitVec 16) (s : State) :
    s.Keeps (execCarouselPointwise sp tok s) :=
  carouselEvent_keeps s sp tok 2

/-! ## `Machine/Starter` -/

theorem execTtask_keeps (c : Bool) (d a : RegNo) (k : BitVec 3) (s : State) : s.Keeps (execTtask c d a k s) :=
  issue1_keeps fun hs => unlessSaddled_wf _ _ hs (withPlaces_wf _ _ _ _ _ _ _ hs fun ps => by simp [hs])

theorem execStarterDispatch_keeps (c : Fin 16) (s : State) : s.Keeps (execStarterDispatch c s) := by
  unfold execStarterDispatch
  split <;> exact happens_keeps fun hs => by simp [hs]

theorem execEarlyDecrement_keeps (c : Fin 16) (s : State) : s.Keeps (execEarlyDecrement c s) := by
  unfold execEarlyDecrement
  split
  · exact happens_keeps id
  · split
    · next t ht => exact happens_keeps fun hs => by rw [decrementNow_mem ht]; exact hs
    · exact happens_keeps id

theorem execTaskComplete_keeps (k : CoreId) (s : State) : s.Keeps (execTaskComplete k s) := by
  unfold execTaskComplete
  split
  · exact happens_keeps id
  · next e _ =>
    split
    · exact happens_keeps id
    · next w _ =>
      have h1 : Memory.wf s.mem = true →
          Memory.wf (if e.released then s else s.releaseTask e (taskRecordOf w)).mem = true :=
        fun hs => ite_wf hs (by simp [hs])
      have hx := fun hs => taskArrive_keeps _ e (taskRecordOf w) (h1 hs)
      dsimp only
      split <;> rename_i he <;> rw [he] at hx
      · exact happens_keeps fun hs => by simpa using hx hs
      · exact happens_keeps fun hs => by simpa using hx hs
      · exact happens_keeps fun hs => by rw [updEntry_mem]; exact engPark_wf _ _ _ _ _ (hx hs)
      · exact happens_keeps fun hs => by simpa using h1 hs

/-! ## `Machine/VecSpecial` -/

theorem execVqcvt_keeps (p : Option Pre) (c : Bool) (g : BitVec 2) (bf : Bool) (d a b : RegNo) (s : State) :
    s.Keeps (execVqcvt p c g bf d a b s) :=
  issue1_keeps fun hs => by
    dsimp only
    split
    · simp [hs]
    · refine ite_wf (by simp [hs]) (whenPathFree_wf _ _ hs (withSaddles_wf _ _ _ _ _ hs fun w _ hw => ?_))
      rw [withFlags_mem _ _ _ _ (by simp), hw]

theorem execVdqcvt_keeps (p : Option Pre) (c : Bool) (g : BitVec 2) (bf : Bool) (d a b : RegNo) (s : State) :
    s.Keeps (execVdqcvt p c g bf d a b s) :=
  issue1_keeps fun hs => by
    rcases p with _ | q
    · simp [hs]
    · dsimp only
      refine ite_wf (by simp [hs]) ?_
      split
      · simp [hs]
      · refine whenPathFree_wf _ _ hs (withSaddles_wf _ _ _ _ _ hs fun w _ hw => ?_)
        have h1 := fun o => readNow_wf w o hw
        refine ite_wf (by simp [h1]) ?_
        rw [dequantised_mem _ _ _ _ _ _ _ (by simp)]
        exact h1 _

/-! ## `Machine/Task` -/

theorem execExit_keeps (c : Bool) (s : State) : s.Keeps (execExit c s) :=
  issue1_keeps fun hs => by rw [atEnd_mem s _ (endRegion_mem s)]; exact hs

theorem execPhaseEnd_keeps (c : Bool) (s : State) : s.Keeps (execPhaseEnd c s) :=
  issue1_keeps fun hs => ite_wf (by simp [hs]) (by rw [atEnd_mem s _ (endRegion_mem s)]; exact hs)

theorem execPhaseCommit_keeps (sp : SpanId) (s : State) : s.Keeps (execPhaseCommit sp s) := by
  unfold execPhaseCommit
  (repeat' split) <;> exact happens_keeps fun hs => by simp [hs]

theorem execAcqx_keeps (c : Bool) (d a : RegNo) (s : State) : s.Keeps (execAcqx c d a s) :=
  issue1_keeps fun hs => by
    dsimp only
    split
    · simp [hs]
    · refine afterDrain_wf _ _ hs ?_
      split <;> simp [hs]

theorem execAcquireTimeout_keeps (sp : SpanId) (s : State) : s.Keeps (execAcquireTimeout sp s) := by
  unfold execAcquireTimeout
  dsimp only
  (repeat' split) <;> exact happens_keeps fun hs => by simp [hs]

theorem execSpawn_keeps (c : Bool) (d a b : RegNo) (s : State) : s.Keeps (execSpawn c d a b s) :=
  issue1_keeps fun hs => unlessSaddled_wf _ _ hs (ite_wf (by simp [hs])
    (readHere_wf _ _ _ _ _ _ hs fun v bs hv => by simp [hv]))

/-! ## `Machine/Complete` -/

theorem execLongOperationComplete_keeps (op : Nat) (s : State) : s.Keeps (execLongOperationComplete op s) := by
  unfold execLongOperationComplete
  (repeat' split) <;> exact happens_keeps fun hs => by simp [hs]

theorem execMatrixOperationComplete_keeps (k : CoreId) (s : State) : s.Keeps (execMatrixOperationComplete k s) := by
  unfold execMatrixOperationComplete
  (repeat' split) <;> exact happens_keeps fun hs => by simp [hs]

/-! ## `Machine/EvHost` -/

theorem execOrderingPointRelease_keeps (id : Nat) (s : State) : s.Keeps (execOrderingPointRelease id s) := by
  unfold execOrderingPointRelease
  split <;> exact happens_keeps fun hs => by simp [hs]

theorem execRouteAcknowledgement_keeps (id : Nat) (die : DieId) (s : State) :
    s.Keeps (execRouteAcknowledgement id die s) := by
  unfold execRouteAcknowledgement
  dsimp only
  (repeat' split) <;> exact happens_keeps fun hs => by simp [hs]

theorem execDeviceWriteToHost_keeps (id : Nat) (s : State) : s.Keeps (execDeviceWriteToHost id s) := by
  unfold execDeviceWriteToHost
  split <;> exact happens_keeps fun hs => by simp [put_wf, hs]

theorem execQtailDoorbell_keeps (port : Bool) (q : BitVec 8) (tail : BitVec 64) (s : State) :
    s.Keeps (execQtailDoorbell port q tail s) := by
  unfold execQtailDoorbell
  dsimp only
  (repeat' split) <;> exact happens_keeps fun hs => by simp [hs]

theorem execFaultack_keeps (v : BitVec 64) (s : State) : s.Keeps (execFaultack v s) := by
  unfold execFaultack
  dsimp only
  (repeat' split) <;> exact happens_keeps fun hs => by simp [hs]

theorem execTimebaseSync_keeps (ptm : Bool) (offset : BitVec 32) (s : State) :
    s.Keeps (execTimebaseSync ptm offset s) := by
  unfold execTimebaseSync
  split <;> exact happens_keeps fun hs => by simp [hs]

/-! ## `Machine/EvHome` -/

theorem execSharerInvalidation_keeps (line : Nat) (sharer : Fin 5) (s : State) :
    s.Keeps (execSharerInvalidation line sharer s) := by
  unfold execSharerInvalidation
  dsimp only
  (repeat' split) <;> exact happens_keeps fun hs => by simp [hs]

theorem execRegionLimit_keeps (sp : SpanId) (s : State) : s.Keeps (execRegionLimit sp s) := by
  unfold execRegionLimit
  split <;> exact happens_keeps fun hs => by simp [hs]

theorem execTranslationWalk_keeps (walk : BitVec 16) (s : State) : s.Keeps (execTranslationWalk walk s) := by
  unfold execTranslationWalk
  dsimp only
  (repeat' split) <;> exact happens_keeps fun hs => by simp [hs]

theorem execSaddleTouch_keeps (sp : SpanId) (s : State) : s.Keeps (execSaddleTouch sp s) := by
  unfold execSaddleTouch
  dsimp only
  (repeat' split) <;> exact happens_keeps fun hs => by simp [hs]

theorem execRollbackReplay_keeps (g : GroupId) (s : State) : s.Keeps (execRollbackReplay g s) := by
  unfold execRollbackReplay
  (repeat' split) <;> exact happens_keeps fun hs => by simp [hs]

theorem execTrapEntry_keeps (sp : SpanId) (s : State) : s.Keeps (execTrapEntry sp s) := by
  unfold execTrapEntry
  dsimp only
  (repeat' split) <;> exact happens_keeps fun hs => by simp [hs]

/-! ## `Machine/EvLaunch` -/

theorem execGroomBoxWrite_keeps (die : Fin 4) (box : BitVec 12) (r : BindRecord) (s : State) :
    s.Keeps (execGroomBoxWrite die box r s) := by
  unfold execGroomBoxWrite
  split <;> exact happens_keeps fun hs => by simp [hs]

theorem execGroomBoxFree_keeps (die : Fin 4) (box : BitVec 12) (s : State) : s.Keeps (execGroomBoxFree die box s) := by
  unfold execGroomBoxFree
  dsimp only
  (repeat' split) <;> exact happens_keeps fun hs => by simp [hs]

theorem execBind_keeps (die : Fin 4) (box : BitVec 12) (s : State) : s.Keeps (execBind die box s) := by
  unfold execBind
  split <;> exact happens_keeps fun hs => by simp [hs]

theorem execPreemptDecision_keeps (die : Fin 4) (box : BitVec 12) (deadline : BitVec 64) (s : State) :
    s.Keeps (execPreemptDecision die box deadline s) := by
  unfold execPreemptDecision
  dsimp only
  (repeat' split) <;> exact happens_keeps fun hs => by simp [hs]

theorem execPreciseStop_keeps (die : Fin 4) (box : BitVec 12) (s : State) : s.Keeps (execPreciseStop die box s) := by
  unfold execPreciseStop
  dsimp only
  (repeat' split) <;> exact happens_keeps fun hs => by simp [hs]

theorem execContextReset_keeps (die : Fin 4) (box : BitVec 12) (s : State) : s.Keeps (execContextReset die box s) := by
  unfold execContextReset
  split <;> exact happens_keeps fun hs => by simp [hs]

theorem execUnhandledTrapDiscard_keeps (die : Fin 4) (box : BitVec 12) (s : State) :
    s.Keeps (execUnhandledTrapDiscard die box s) := by
  unfold execUnhandledTrapDiscard
  dsimp only
  (repeat' split) <;> exact happens_keeps fun hs => by simp [hs]

theorem execSwapOut_keeps (die : Fin 4) (box : BitVec 12) (s : State) : s.Keeps (execSwapOut die box s) := by
  unfold execSwapOut
  dsimp only
  (repeat' split) <;> exact happens_keeps fun hs => by simp [hs]

theorem execRestore_keeps (die : Fin 4) (box : BitVec 12) (k : CoreId) (slot0 : BitVec 6) (s : State) :
    s.Keeps (execRestore die box k slot0 s) := by
  unfold execRestore
  (repeat' split) <;> exact happens_keeps fun hs => by simp [hs]

/-! ## `Machine/EvCommand` -/

theorem execLaunch_keeps (port : Bool) (q : BitVec 8) (s : State) : s.Keeps (execLaunch port q s) := by
  unfold execLaunch
  split
  · exact happens_keeps id
  · next bs _ =>
    dsimp only
    refine ite_outcome_keeps (happens_keeps id) (ite_outcome_keeps (happens_keeps fun hs => by simp [hs]) ?_)
    split
    · exact happens_keeps fun hs => by simp [hs]
    · exact happens_keeps fun hs => startLaunch_wf _ _ _ _ (readThrough_wf _ _ _ (accept_wf s port q bs hs))

theorem execSignalOnly_keeps (port : Bool) (q : BitVec 8) (s : State) : s.Keeps (execSignalOnly port q s) := by
  unfold execSignalOnly
  split <;> exact happens_keeps fun hs => by simp [hs]

theorem execAbortLaunch_keeps (port : Bool) (q : BitVec 8) (s : State) : s.Keeps (execAbortLaunch port q s) := by
  unfold execAbortLaunch
  split
  · exact happens_keeps id
  · next bs _ =>
    exact ite_outcome_keeps (happens_keeps id) (happens_keeps fun hs => foldl_wf _ (fun t c h => discardContext_wf t c h)
        _ _
      (by rw [updLaunch_mem]; exact accept_wf s port q bs hs))

theorem execLaunchOutcome_keeps (seq : BitVec 64) (s : State) : s.Keeps (execLaunchOutcome seq s) := by
  unfold execLaunchOutcome
  dsimp only
  (repeat' split) <;> exact happens_keeps fun hs => by simp [hs]

/-! ## `Machine/EvFabric` -/

theorem execTimeoutDetectorExpiry_keeps (packet : Nat) (s : State) : s.Keeps (execTimeoutDetectorExpiry packet s) := by
  unfold execTimeoutDetectorExpiry
  (repeat' split) <;> exact happens_keeps fun hs => by simp [hs]

theorem execMisroute_keeps (packet : Nat) (s : State) : s.Keeps (execMisroute packet s) := by
  unfold execMisroute
  dsimp only
  (repeat' split) <;> exact happens_keeps fun hs => by simp [hs]

theorem execHalterCapture_keeps (die : DieId) (s : State) : s.Keeps (execHalterCapture die s) := by
  unfold execHalterCapture
  dsimp only
  (repeat' split) <;> exact happens_keeps fun hs => by simp [hs]

theorem execHalterRegenerate_keeps (die : DieId) (s : State) : s.Keeps (execHalterRegenerate die s) := by
  unfold execHalterRegenerate
  split <;> exact happens_keeps fun hs => by simp [hs]

theorem execBridleReceive_keeps (packet : Nat) (s : State) : s.Keeps (execBridleReceive packet s) := by
  unfold execBridleReceive
  dsimp only
  (repeat' split) <;> exact happens_keeps fun hs => by simp [hs]

theorem execRouterWake_keeps (die : DieId) (router : Nat) (s : State) : s.Keeps (execRouterWake die router s) := by
  unfold execRouterWake
  split <;> exact happens_keeps fun hs => by simp [hs]

theorem execGirthRetrain_keeps (link : Fin 10) (ok : Bool) (s : State) : s.Keeps (execGirthRetrain link ok s) := by
  unfold execGirthRetrain
  dsimp only
  (repeat' split) <;> exact happens_keeps fun hs => by simp [hs]

theorem execGirthLinkDown_keeps (link : Fin 10) (s : State) : s.Keeps (execGirthLinkDown link s) := by
  unfold execGirthLinkDown
  dsimp only
  (repeat' split) <;> exact happens_keeps fun hs => by simp [hs]

theorem execHitchTimeout_keeps (op : Nat) (s : State) : s.Keeps (execHitchTimeout op s) := by
  unfold execHitchTimeout
  split <;> exact happens_keeps fun hs => by simp [hs]

theorem execStitchRelink_keeps (die : Fin 4) (clusters : BitVec 4) (code : BitVec 3) (s : State) :
    s.Keeps (execStitchRelink die clusters code s) := by
  unfold execStitchRelink
  dsimp only
  (repeat' split) <;> exact happens_keeps fun hs => by simp [hs]

/-! ## `Machine/EvMem` -/

theorem execDramBlockRead_keeps (block : Nat) (s : State) : s.Keeps (execDramBlockRead block s) := by
  unfold execDramBlockRead
  split <;> exact happens_keeps fun hs => by simp [dramRead_wf, hs]

theorem execCorrectedWriteback_keeps (block : Nat) (s : State) : s.Keeps (execCorrectedWriteback block s) := by
  unfold execCorrectedWriteback
  split <;> exact happens_keeps fun hs => by simp [hs]

theorem execScrubRead_keeps (block : Nat) (s : State) : s.Keeps (execScrubRead block s) := by
  unfold execScrubRead
  dsimp only
  (repeat' split) <;> exact happens_keeps fun hs => by simp [dramRead_wf, hs]

theorem execChainSweep_keeps (chain : BitVec 12) (s : State) : s.Keeps (execChainSweep chain s) := by
  unfold execChainSweep
  split <;> exact happens_keeps fun hs => by simp [hs]

theorem execKeySlotLoad_keeps (slot : BitVec 10) (keys : Option (BitVec 512)) (s : State) :
    s.Keeps (execKeySlotLoad slot keys s) :=
  happens_keeps fun hs => foldl_wf _ (fun t b h => mscEvict_wf t b h) _ _
    (foldl_wf _ (fun t l h => evictLine_wf t l h) _ s hs)

/-! ## All of them -/

/-- Every instruction and event answers a next state, with memory in canonical form if it was so before: by the rules above for
the functions that its effect is composed of, or by the lemma of its own where its effect chooses or goes by a list. -/
theorem exec_keeps (i : Instr) (s : State) : s.Keeps (exec i s) := by
  cases i with
  | clauseStart | add | sub | addc | mul | mulh | mulhu | div | divu | rem | remu | and | or | xor | andn | shl | shr |
    sar | rol | min | max | minu | maxu | cmpEq | cmpNe | cmpLt | cmpGe | cmpLtu | cmpGeu | sel | clz | ctz | popc |
    bext | bins | mov | addi | movi | movhi | andi | ori | xori | shli | shri | cmpiEq | cmpiNe | cmpiLt | cmpiGe |
    cmpiLtu | cmpiGeu | br | brc | brv | call | ret | jmpr | join | regang | nop | vadd | vaddS | vaddI | vsub | vsubS |
    vsubI | vmul | vmulS | vmulh | vmulhS | vmulhu | vmulhuS | vmad | vaddc | vsubc | vmulw | vand | vandS | vandI | vor
    | vorS | vorI | vxor | vxorS | vxorI | vshl | vshlS | vshlI | vshr | vshrS | vshrI | vsar | vsarS | vsarI | vmin |
    vminS | vmax | vmaxS | vminu | vminuS | vmaxu | vmaxuS | vcmpEq | vcmpEqS | vcmpNe | vcmpNeS | vcmpLt | vcmpLtS |
    vcmpGe | vcmpGeS | vsel | vabs | vpopc | vclz | vbext | vmov | vmovs | vfadd | vfaddS | vfsub | vfsubS | vfmul |
    vfmulS | vffma | vffmaS | vfmin | vfminS | vfmax | vfmaxS | vfabs | vfneg | vfdiv | vfscale | vfround | vfclass |
    vfcmpEq | vfcmpNe | vfcmpLt | vfcmpLe | vfcmpUn | vexp2 | vexp | vlog2 | vln | vrcp | vrsqrt | vsqrt | vsin | vcos |
    vtanh | vsigm | verf | vexp2Acc | vexpAcc | vlog2Acc | vlnAcc | vrcpAcc | vrsqrtAcc | vsqrtAcc | vsinAcc | vcosAcc |
    vtanhAcc | vsigmAcc | verfAcc | vcvt | vpackBp | vunpackBp | shfl | shflUp | shflDn | shflX | shflUpS | shflDnS |
    shflXS | voteAny | voteAll | ballot | vscan | vred | vcarry | ssi | vlane | badd | bsub | bneg | babs | bcmp | bshl
    | bshlI | bshr | bshrI | bmult | bcres | bdiv | bmodb | bnorm | blen | bladd | blsub | blmul | blshift | dotx | mma
    | mmai | tshape | tstore | tzero | mprom | tdrain | tdrainRed | txpose | tscale | spmv | sptrsv | reinsTake |
    reinsPass | reinsPassNext | reinsQuery | ld | ld64 | ld16 | ld8 | st | st64 | st16 | st8 | ldNc | hintNorm |
    hintFirst | hintLast | hintLow | cinv | cflush | amoAdd | amoMin | amoMax | amoAnd | amoOr | amoXor | amoXchg |
    amoCas | redAdd | redMin | redMax | redAnd | redOr | redXor | barInit | barExpect | fence | fenceSc | xfence | eqw |
    sleepu | time | halloc | hfree | trap | brk | trace | sysrd | syswr | rte | segld | tlbinv | relx | yield | age |
    lvl =>
    exact issue1_keeps fun hs => by simp [hs]
  | regangRelease | fenceScTick | sleepWake | acqxGrant | spanPromotion | accessAtHome | atomicAtHome | reductionCombine
    | invalidationConfirmation | storeAcknowledgement | regionClose | monitorWake | waitcmpTimeout | barWaitRetest |
    mscSectorWrite | mscSectorRead | mscWriteback | selfRefreshEntry | selfRefreshExit | drowsyBankDrop | chainDemote |
    routerPowerGate | hitchRetrain | hostPostedWrite | hostReadRequest | dwinWrite | fqtailWrite | trtailWrite |
    trdropRead | bar0RegisterWrite | attestationRequest | ptpSourceLoss | farrierSnapshot | islandThrottle |
    collectiveBroadcast | collectiveAllGather | collectiveAllReduce | illegalInstrWord | deviceReadCompletion |
    orderlyShutdown | sramSoftError | hitchDomainForm =>
    exact happens_keeps fun hs => by simp [hs]
  | coldReset => exact happens_keeps fun hs => filter_wf _ hs
  | exit => exact execExit_keeps ..
  | vqcvt => exact execVqcvt_keeps ..
  | vdqcvt => exact execVdqcvt_keeps ..
  | bspill => exact execBspill_keeps ..
  | bfill => exact execBfill_keeps ..
  | blcmp => exact execBlcmp_keeps ..
  | xround => exact execXround_keeps ..
  | bcvt => exact execBcvt_keeps ..
  | tload => exact execTload_keeps ..
  | ttask => exact execTtask_keeps ..
  | lds => exact execLds_keeps ..
  | sts => exact execSts_keeps ..
  | prefetch => exact execPrefetch_keeps ..
  | waitcmp => exact execWaitcmp_keeps ..
  | barArrive => exact execBarArrive_keeps ..
  | barWait => exact execBarWait_keeps ..
  | eqgo => exact execEqgo_keeps ..
  | sleepp => exact execSleepp_keeps ..
  | promiseChk => exact execPromiseChk_keeps ..
  | spawn => exact execSpawn_keeps ..
  | phaseEnd => exact execPhaseEnd_keeps ..
  | acqx => exact execAcqx_keeps ..
  | barrierDecrement => exact execBarrierDecrement_keeps ..
  | keySlotLoad => exact execKeySlotLoad_keeps ..
  | launch => exact execLaunch_keeps ..
  | abortLaunch => exact execAbortLaunch_keeps ..
  | packhorseCopy => exact execPackhorseCopy_keeps ..
  | packhorseStridedCopy => exact execPackhorseStridedCopy_keeps ..
  | packhorseFill => exact execPackhorseFill_keeps ..
  | placeScales => exact execPlaceScales_keeps ..
  | trotterGather => exact execTrotterGather_keeps ..
  | trotterScatter => exact execTrotterScatter_keeps ..
  | collectiveComplete => exact execCollectiveComplete_keeps ..
  | carouselForward => exact execCarouselForward_keeps ..
  | carouselInverse => exact execCarouselInverse_keeps ..
  | carouselPointwise => exact execCarouselPointwise_keeps ..
  | hayloftRequest => exact execHayloftRequest_keeps ..
  | tileUpdateApply => exact execTileUpdateApply_keeps ..
  | taskComplete => exact execTaskComplete_keeps ..
  | earlyDecrement => exact execEarlyDecrement_keeps ..
  | reinsGrant => exact execReinsGrant_keeps ..
  | acquireTimeout => exact execAcquireTimeout_keeps ..
  | trapEntry => exact execTrapEntry_keeps ..
  | sharerInvalidation => exact execSharerInvalidation_keeps ..
  | saddleTouch => exact execSaddleTouch_keeps ..
  | translationWalk => exact execTranslationWalk_keeps ..
  | scrubRead => exact execScrubRead_keeps ..
  | misroute => exact execMisroute_keeps ..
  | halterCapture => exact execHalterCapture_keeps ..
  | bridleReceive => exact execBridleReceive_keeps ..
  | girthRetrain => exact execGirthRetrain_keeps ..
  | girthLinkDown => exact execGirthLinkDown_keeps ..
  | stitchRelink => exact execStitchRelink_keeps ..
  | routeAcknowledgement => exact execRouteAcknowledgement_keeps ..
  | launchOutcome => exact execLaunchOutcome_keeps ..
  | qtailDoorbell => exact execQtailDoorbell_keeps ..
  | faultack => exact execFaultack_keeps ..
  | groomBoxFree => exact execGroomBoxFree_keeps ..
  | preemptDecision => exact execPreemptDecision_keeps ..
  | preciseStop => exact execPreciseStop_keeps ..
  | swapOut => exact execSwapOut_keeps ..
  | engineCommandComplete => exact execEngineCommandComplete_keeps ..
  | hayloftFree => exact execHayloftFree_keeps ..
  | engineOperationAccept => exact execEngineOperationAccept_keeps ..
  | arrivalResponse => exact execArrivalResponse_keeps ..
  | unhandledTrapDiscard => exact execUnhandledTrapDiscard_keeps ..
  | phaseCommit => exact execPhaseCommit_keeps ..
  | longOperationComplete => exact execLongOperationComplete_keeps ..
  | rollbackReplay => exact execRollbackReplay_keeps ..
  | timeoutDetectorExpiry => exact execTimeoutDetectorExpiry_keeps ..
  | restore => exact execRestore_keeps ..
  | matrixOperationComplete => exact execMatrixOperationComplete_keeps ..
  | regionLimit => exact execRegionLimit_keeps ..
  | dramBlockRead => exact execDramBlockRead_keeps ..
  | correctedWriteback => exact execCorrectedWriteback_keeps ..
  | chainSweep => exact execChainSweep_keeps ..
  | halterRegenerate => exact execHalterRegenerate_keeps ..
  | routerWake => exact execRouterWake_keeps ..
  | hitchTimeout => exact execHitchTimeout_keeps ..
  | orderingPointRelease => exact execOrderingPointRelease_keeps ..
  | deviceWriteToHost => exact execDeviceWriteToHost_keeps ..
  | signalOnly => exact execSignalOnly_keeps ..
  | timebaseSync => exact execTimebaseSync_keeps ..
  | groomBoxWrite => exact execGroomBoxWrite_keeps ..
  | bind => exact execBind_keeps ..
  | contextReset => exact execContextReset_keeps ..
  | starterDispatch => exact execStarterDispatch_keeps ..

end Sys2Proof.Laws

end

section
/-! # Every step answers a next state and keeps memory canonical (O2, O5) -/

namespace Sys2Proof.Laws

open Sys2Proof Sys2Proof.Machine

/-! ## The issue of a group -/

/-- Checks 2 to 4 before a group leave memory (R35). -/
theorem groupFault_mem {s t : State} {ws : List Word} {started : Bool} {its : List Item}
    (h : s.groupFault ws started its = some t) : t.mem = s.mem := by
  obtain ⟨it, -, hit⟩ := List.exists_of_findSome?_eq_some h
  dsimp only at hit
  split at hit
  · cases hit
    simp
  · obtain ⟨x, -, rfl⟩ := Option.map_eq_some_iff.mp hit
    simp

theorem heldBack_mem {ws : List Word} {started : Bool} {s0 t u v : State} {it : Item} {i : Instr}
    (h : heldBack exec ws started s0 t u it i = some v) : v.mem = t.mem := by
  unfold heldBack at h
  split at h
  · cases h
    simp
  · split at h
    · split at h
      · cases h
      · cases h
        simp
    · cases h

/-- A next state with memory as it stood, or as canonical, in place of the one an outcome is about. -/
theorem keeps_of_mem {s t : State} {r : StepResult} (h : t.Keeps r) (ht : Memory.wf s.mem = true → Memory.wf t.mem = true) :
    s.Keeps r := by
  obtain ⟨u, hr, hu⟩ := h
  exact ⟨u, hr, hu ∘ ht⟩

theorem mapNext_keeps {s : State} {r : StepResult} {f : State → State} (h : s.Keeps r)
    (hf : ∀ t, Memory.wf t.mem = true → Memory.wf (f t).mem = true) : s.Keeps (mapNext r f) := by
  obtain ⟨t, rfl, ht⟩ := h
  exact ⟨f t, rfl, fun hs => hf t (ht hs)⟩

/-- The words of a group keep memory canonical: each runs over the group so far or over the group's start. -/
theorem runItems_keeps {ws : List Word} {started : Bool} {s0 t : State} (its : List Item)
    (ht : Memory.wf s0.mem = true → Memory.wf t.mem = true) : s0.Keeps (runItems exec ws started s0 t its) := by
  induction its generalizing t with
  | nil => exact happens_keeps ht
  | cons it rest ih =>
    unfold runItems
    split
    · exact ih ht
    · next i _ =>
      obtain ⟨u, hu, hk⟩ := exec_keeps i (State.atItem { t with issue := { t.issue with waiting := none } } ws started it)
      simp only [hu]
      split
      · split
        · next v hv => exact ih fun hs => by rw [heldBack_mem hv]; exact ht hs
        · exact keeps_of_mem (exec_keeps i _) (by simp)
      · split
        · exact ih fun hs => by simpa using ht hs
        · exact ih fun hs => hk (by simpa using ht hs)

theorem runAlone_keeps (ws : List Word) (started : Bool) (t : State) (its : List Item) :
    t.Keeps (runAlone exec ws started t its) := by
  unfold runAlone
  split
  · exact happens_keeps id
  · next it _ =>
    split
    · exact happens_keeps id
    · exact keeps_of_mem (exec_keeps _ (t.atItem ws started it)) (by simp)

theorem issueWords_keeps (s : State) (gang : BitVec 8) (pc : DWord) (slot : Nat) (ws : List Word) (started : Bool) :
    s.Keeps (s.issueWords exec gang pc slot ws started) := by
  unfold State.issueWords
  dsimp only
  split
  · exact happens_keeps fun hs => by simp [hs]
  · split
    · next u hu => exact happens_keeps fun hs => by simp [groupFault_mem hu, hs]
    · exact mapNext_keeps (keeps_of_mem (runItems_keeps _ id) (by simp)) fun t ht => by simp [ht]

theorem issueAlone_keeps (s : State) (gang : BitVec 8) (pc : DWord) (slot : Nat) (ws : List Word) (started : Bool) (a : Again) :
    s.Keeps (s.issueAlone exec gang pc slot ws started a) := by
  unfold State.issueAlone
  dsimp only
  split
  · next u hu => exact happens_keeps fun hs => by simp [groupFault_mem hu, hs]
  · exact mapNext_keeps (keeps_of_mem (runAlone_keeps ws started _ _) (by simp)) fun t ht => by simp [ht]

theorem issueGang_keeps (s : State) (gang : BitVec 8) : s.Keeps (s.issueGang exec gang) := by
  unfold State.issueGang
  dsimp only
  split
  · exact happens_keeps fun hs => by simp [hs]
  · exact happens_keeps fun hs => by simp [hs]
  · split
    · exact happens_keeps fun hs => by simp [hs]
    · exact happens_keeps fun hs => by simp [hs]
  · refine ite_outcome_keeps (happens_keeps fun hs => by simp [hs]) ?_
    split
    · exact keeps_of_mem (issueAlone_keeps _ _ _ _ _ _ _) fun hs => by simp [hs]
    · exact keeps_of_mem (issueWords_keeps _ _ _ _ _ _) fun hs => by simp [hs]

theorem issueOf_keeps (s : State) (c : Candidate) : s.Keeps (s.issueOf exec c) :=
  mapNext_keeps (keeps_of_mem (issueGang_keeps _ c.gang) (by simp)) fun t ht => by simp [ht]

theorem issueStep_keeps (s : State) (c : Candidate) : s.Keeps (s.issueStep exec c) :=
  mapNext_keeps (issueOf_keeps s c) fun t ht => by simp [ht]

/-! ## A step -/

theorem firstEvent_keeps {s : State} {r : StepResult} (es : List Instr) (h : firstEvent exec s es = some r) : s.Keeps r := by
  induction es with
  | nil => cases h
  | cons e rest ih =>
    obtain ⟨t, ht, hk⟩ := exec_keeps e s
    simp only [firstEvent, ht] at h
    split at h
    · exact ih h
    · cases h
      exact happens_keeps fun hs => by simp [hk hs]

theorem eventEnd_keeps {s : State} {r : StepResult} (h : s.Keeps r) : s.Keeps (mapNext r State.eventEnd) :=
  mapNext_keeps h fun t ht => by simp [ht]

theorem advance_keeps (s : State) : s.Keeps (s.advance exec) := by
  unfold State.advance
  split
  · split
    · next r hr => exact eventEnd_keeps (firstEvent_keeps _ hr)
    · exact happens_keeps fun hs => by simp [hs]
  · refine ite_outcome_keeps (issueStep_keeps s _) ?_
    split
    · next r hr => exact eventEnd_keeps (firstEvent_keeps _ hr)
    · exact issueStep_keeps s _

/-- Every step answers a next state, with memory in canonical form if it was so before. -/
theorem step_keeps (s : State) : s.Keeps (step s) := by
  unfold step stepWith
  split
  · exact ite_outcome_keeps (keeps_of_mem (eventEnd_keeps (exec_keeps _ _)) id) (happens_keeps fun hs => by simp [hs])
  · split
    · exact happens_keeps fun hs => by simp [hs]
    · split
      · exact eventEnd_keeps (exec_keeps _ s)
      · exact advance_keeps s

/-- Settles O2: a step's next state is the one of `step_keeps`. -/
theorem memoryStaysCanonical : Obligations.MemoryStaysCanonical := by
  intro s t hs h
  obtain ⟨u, hu, hk⟩ := step_keeps s
  cases h.symm.trans hu
  exact hk hs

/-- Settles O5: what keeps memory canonical answers a next state. -/
theorem noInstructionStops : Obligations.NoInstructionStops := by
  constructor
  · intro i s
    obtain ⟨t, ht, -⟩ := exec_keeps i s
    exact ⟨t, ht⟩
  · intro s
    obtain ⟨t, ht, -⟩ := step_keeps s
    exact ⟨t, ht⟩

end Sys2Proof.Laws

end

section
/-! # The checks of a word run in the order of R35 -/

namespace Sys2Proof.Laws

open Sys2Proof Sys2Proof.Machine

/-! ## Instructions issue, events happen -/

/-- An instruction that has words issues by `issue1`; the constructors named here are the events, which have none. -/
theorem exec_issues {i : Instr} (s : State) (h : encode i ≠ []) : ∃ eff, exec i s = s.issue1 i eff := by
  cases i with
  | regangRelease | reinsGrant | fenceScTick | sleepWake | phaseCommit | acqxGrant | acquireTimeout |
    longOperationComplete | spanPromotion | trapEntry | regionLimit | accessAtHome | atomicAtHome | reductionCombine
    | barrierDecrement | sharerInvalidation | invalidationConfirmation | storeAcknowledgement | regionClose |
    monitorWake | waitcmpTimeout | barWaitRetest | saddleTouch | rollbackReplay | translationWalk | mscSectorWrite |
    mscSectorRead | mscWriteback | dramBlockRead | correctedWriteback | scrubRead | selfRefreshEntry |
    selfRefreshExit | drowsyBankDrop | chainDemote | chainSweep | keySlotLoad | timeoutDetectorExpiry | misroute |
    halterCapture | halterRegenerate | bridleReceive | routerPowerGate | routerWake | girthRetrain | girthLinkDown |
    hitchRetrain | hitchTimeout | stitchRelink | hostPostedWrite | orderingPointRelease | routeAcknowledgement |
    hostReadRequest | deviceWriteToHost | launch | signalOnly | abortLaunch | launchOutcome | qtailDoorbell |
    dwinWrite | faultack | fqtailWrite | trtailWrite | trdropRead | bar0RegisterWrite | attestationRequest |
    coldReset | timebaseSync | ptpSourceLoss | farrierSnapshot | islandThrottle | groomBoxWrite | groomBoxFree |
    bind | preemptDecision | preciseStop | contextReset | restore | swapOut | packhorseCopy | packhorseStridedCopy |
    packhorseFill | placeScales | trotterGather | trotterScatter | collectiveBroadcast | collectiveAllGather |
    collectiveAllReduce | collectiveComplete | carouselForward | carouselInverse | carouselPointwise |
    engineCommandComplete | hayloftRequest | hayloftFree | engineOperationAccept | matrixOperationComplete |
    tileUpdateApply | starterDispatch | taskComplete | earlyDecrement | illegalInstrWord | deviceReadCompletion |
    arrivalResponse | orderlyShutdown | sramSoftError | unhandledTrapDiscard | hitchDomainForm =>
    exact absurd rfl h
  | _ => exact ⟨_, rfl⟩

/-! ## The checks before a word takes effect -/

section
variable {s : State} {i : Instr}

/-- The first check (R70). -/
theorem preCheck_of_illegal {n : Nat} (h : s.illegal i = some n) : s.preCheck i = some (s.trapOf 0 n) := by
  simp only [State.preCheck, h]

/-- The second check (R414). -/
theorem preCheck_of_unprivileged (hl : s.illegal i = none) (hn : needsPrivilege i = true)
    (hp : s.sp.privileged = false) : s.preCheck i = some (s.trapOf 5 0) := by
  simp [State.preCheck, hl, hn, hp]

/-- The third check (R263). -/
theorem preCheck_of_parted (hl : s.illegal i = none) (hp : needsPrivilege i = true → s.sp.privileged = true)
    (hg : gangFirst i = true) (hf : s.fullGang = false) : s.preCheck i = some (s.trapOf 14 0) := by
  have hp' : (needsPrivilege i && !s.sp.privileged) = false := by simpa using hp
  simp [State.preCheck, hl, hp', hg, hf]

/-- Past privilege and gang, what is left are the pending registers: the sources, then the destinations (R42). -/
theorem preCheck_of_allowed (hl : s.illegal i = none) (hp : needsPrivilege i = true → s.sp.privileged = true)
    (hg : gangFirst i = true → s.fullGang = true) :
    s.preCheck i =
      if s.pendingAmong i (readsOf i) ≠ 0 then some { s.trapOf 3 0 with lanes := s.pendingAmong i (readsOf i) }
      else if s.pendingAmong i (writesOf i) ≠ 0 then some { s.trapOf 3 1 with lanes := s.pendingAmong i (writesOf i) }
      else none := by
  have hp' : (needsPrivilege i && !s.sp.privileged) = false := by simpa using hp
  have hg' : (gangFirst i && !s.fullGang) = false := by simpa using hg
  simp [State.preCheck, hl, hp', hg']

end

/-! ## What a word does that does not take its effect -/

section
variable {s : State} {i : Instr} (hi : encode i ≠ [])
include hi

/-- A check that fails is raised at the word, or at its prefix. -/
theorem exec_of_preCheck {t : TrapInfo} (h : s.preCheck i = some t) : exec i s = .next ((s.atWord i).raise t) := by
  obtain ⟨eff, he⟩ := exec_issues s hi
  simp only [he, State.issue1, State.issued, h]

/-- A held fault that the word delivers is raised and dropped (R43, R406). -/
theorem exec_of_heldFor {h : Held} (hc : s.preCheck i = none) (hh : s.heldFor i = some h) :
    exec i s = .next ((s.dropHeld h).raise (s.heldTrap h)) := by
  obtain ⟨eff, he⟩ := exec_issues s hi
  simp only [he, State.issue1, State.issued, hc, hh]

/-- The need of the whole span as one gang that an instruction of class 4 has is checked last (R35). -/
theorem exec_of_gangLast (hc : s.preCheck i = none) (hh : s.heldFor i = none) (hg : gangLast i = true)
    (hf : s.fullGang = false) : exec i s = .next (s.raise (s.trapOf 14 0)) := by
  obtain ⟨eff, he⟩ := exec_issues s hi
  simp [he, State.issue1, State.issued, hc, hh, hg, hf]

end

/-- Settles O8: each clause is the check that fails first, and `exec` raises it. -/
theorem wordsAreChecked : Obligations.WordsAreChecked := by
  intro i s hi
  refine ⟨fun n hn => exec_of_preCheck hi (preCheck_of_illegal hn), fun hl => ⟨?_, fun hp => ⟨?_, fun hg => ?_⟩⟩⟩
  · exact fun hn hp => exec_of_preCheck hi (preCheck_of_unprivileged hl hn hp)
  · exact fun hg hf => exec_of_preCheck hi (preCheck_of_parted hl hp hg hf)
  have hc := preCheck_of_allowed hl hp hg
  refine ⟨fun hr => exec_of_preCheck hi (by rw [hc, if_pos hr]), fun hr => ⟨?_, fun hw => ?_⟩⟩
  · exact fun hw => exec_of_preCheck hi (by rw [hc, if_neg (not_not.mpr hr), if_pos hw])
  · have hnone : s.preCheck i = none := by rw [hc, if_neg (not_not.mpr hr), if_neg (not_not.mpr hw)]
    exact ⟨fun _ hh => exec_of_heldFor hi hnone hh, exec_of_gangLast hi hnone⟩

end Sys2Proof.Laws

end

section
/-! # Decoding gives back what was encoded (O1, O7) -/

namespace Sys2Proof.Laws.RoundTrip

open Sys2Proof Sys2Proof.Laws

/-- Every instruction decodes back: the lemma of its own row of the opcode table (R50). -/
theorem decode_encode (i : Instr) : Statement i := by
  cases i with
  | add => apply add | sub => apply sub | addc => apply addc | mul => apply mul | mulh => apply mulh | mulhu => apply mulhu
  | div => apply div | divu => apply divu | rem => apply rem | remu => apply remu | and => apply and | or => apply or
  | xor => apply xor | andn => apply andn | shl => apply shl | shr => apply shr | sar => apply sar | rol => apply rol
  | min => apply min | max => apply max | minu => apply minu | maxu => apply maxu | cmpEq => apply cmpEq
  | cmpNe => apply cmpNe | cmpLt => apply cmpLt | cmpGe => apply cmpGe | cmpLtu => apply cmpLtu | cmpGeu => apply cmpGeu
  | sel => apply sel | clz => apply clz | ctz => apply ctz | popc => apply popc | bext => apply bext | bins => apply bins
  | mov => apply mov | addi => apply addi | movi => apply movi | movhi => apply movhi | andi => apply andi
  | ori => apply ori | xori => apply xori | shli => apply shli | shri => apply shri | cmpiEq => apply cmpiEq
  | cmpiNe => apply cmpiNe | cmpiLt => apply cmpiLt | cmpiGe => apply cmpiGe | cmpiLtu => apply cmpiLtu
  | cmpiGeu => apply cmpiGeu | br => apply br | brc => apply brc | brv => apply brv | call => apply call | ret => apply ret
  | jmpr => apply jmpr | join => apply join | regang => apply regang | regangRelease => apply regangRelease
  | exit => apply exit | nop => apply nop | vadd => apply vadd | vaddS => apply vaddS | vaddI => apply vaddI
  | vsub => apply vsub | vsubS => apply vsubS | vsubI => apply vsubI | vmul => apply vmul | vmulS => apply vmulS
  | vmulh => apply vmulh | vmulhS => apply vmulhS | vmulhu => apply vmulhu | vmulhuS => apply vmulhuS | vmad => apply vmad
  | vaddc => apply vaddc | vsubc => apply vsubc | vmulw => apply vmulw | vand => apply vand | vandS => apply vandS
  | vandI => apply vandI | vor => apply vor | vorS => apply vorS | vorI => apply vorI | vxor => apply vxor
  | vxorS => apply vxorS | vxorI => apply vxorI | vshl => apply vshl | vshlS => apply vshlS | vshlI => apply vshlI
  | vshr => apply vshr | vshrS => apply vshrS | vshrI => apply vshrI | vsar => apply vsar | vsarS => apply vsarS
  | vsarI => apply vsarI | vmin => apply vmin | vminS => apply vminS | vmax => apply vmax | vmaxS => apply vmaxS
  | vminu => apply vminu | vminuS => apply vminuS | vmaxu => apply vmaxu | vmaxuS => apply vmaxuS | vcmpEq => apply vcmpEq
  | vcmpEqS => apply vcmpEqS | vcmpNe => apply vcmpNe | vcmpNeS => apply vcmpNeS | vcmpLt => apply vcmpLt
  | vcmpLtS => apply vcmpLtS | vcmpGe => apply vcmpGe | vcmpGeS => apply vcmpGeS | vsel => apply vsel | vabs => apply vabs
  | vpopc => apply vpopc | vclz => apply vclz | vbext => apply vbext | vmov => apply vmov | vmovs => apply vmovs
  | vfadd => apply vfadd | vfaddS => apply vfaddS | vfsub => apply vfsub | vfsubS => apply vfsubS | vfmul => apply vfmul
  | vfmulS => apply vfmulS | vffma => apply vffma | vffmaS => apply vffmaS | vfmin => apply vfmin | vfminS => apply vfminS
  | vfmax => apply vfmax | vfmaxS => apply vfmaxS | vfabs => apply vfabs | vfneg => apply vfneg | vfdiv => apply vfdiv
  | vfscale => apply vfscale | vfround => apply vfround | vfclass => apply vfclass | vfcmpEq => apply vfcmpEq
  | vfcmpNe => apply vfcmpNe | vfcmpLt => apply vfcmpLt | vfcmpLe => apply vfcmpLe | vfcmpUn => apply vfcmpUn
  | vexp2 => apply vexp2 | vexp => apply vexp | vlog2 => apply vlog2 | vln => apply vln | vrcp => apply vrcp
  | vrsqrt => apply vrsqrt | vsqrt => apply vsqrt | vsin => apply vsin | vcos => apply vcos | vtanh => apply vtanh
  | vsigm => apply vsigm | verf => apply verf | vexp2Acc => apply vexp2Acc | vexpAcc => apply vexpAcc
  | vlog2Acc => apply vlog2Acc | vlnAcc => apply vlnAcc | vrcpAcc => apply vrcpAcc | vrsqrtAcc => apply vrsqrtAcc
  | vsqrtAcc => apply vsqrtAcc | vsinAcc => apply vsinAcc | vcosAcc => apply vcosAcc | vtanhAcc => apply vtanhAcc
  | vsigmAcc => apply vsigmAcc | verfAcc => apply verfAcc | vcvt => apply vcvt | vqcvt => apply vqcvt
  | vdqcvt => apply vdqcvt | vpackBp => apply vpackBp | vunpackBp => apply vunpackBp | shfl => apply shfl
  | shflUp => apply shflUp | shflDn => apply shflDn | shflX => apply shflX | shflUpS => apply shflUpS
  | shflDnS => apply shflDnS | shflXS => apply shflXS | voteAny => apply voteAny | voteAll => apply voteAll
  | ballot => apply ballot | vscan => apply vscan | vred => apply vred | vcarry => apply vcarry | ssi => apply ssi
  | vlane => apply vlane | badd => apply badd | bsub => apply bsub | bneg => apply bneg | babs => apply babs
  | bcmp => apply bcmp | bshl => apply bshl | bshlI => apply bshlI | bshr => apply bshr | bshrI => apply bshrI
  | bmult => apply bmult | bcres => apply bcres | bdiv => apply bdiv | bmodb => apply bmodb | bnorm => apply bnorm
  | blen => apply blen | bspill => apply bspill | bfill => apply bfill | bladd => apply bladd | blsub => apply blsub
  | blmul => apply blmul | blcmp => apply blcmp | blshift => apply blshift | dotx => apply dotx | xround => apply xround
  | bcvt => apply bcvt | mma => apply mma | mmai => apply mmai | tshape => apply tshape | tload => apply tload
  | tstore => apply tstore | tzero => apply tzero | mprom => apply mprom | tdrain => apply tdrain
  | tdrainRed => apply tdrainRed | txpose => apply txpose | tscale => apply tscale | ttask => apply ttask
  | spmv => apply spmv | sptrsv => apply sptrsv | reinsTake => apply reinsTake | reinsPass => apply reinsPass
  | reinsPassNext => apply reinsPassNext | reinsQuery => apply reinsQuery | reinsGrant => apply reinsGrant | ld => apply ld
  | ld64 => apply ld64 | ld16 => apply ld16 | ld8 => apply ld8 | st => apply st | st64 => apply st64 | st16 => apply st16
  | st8 => apply st8 | lds => apply lds | sts => apply sts | ldNc => apply ldNc | prefetch => apply prefetch
  | hintNorm => apply hintNorm | hintFirst => apply hintFirst | hintLast => apply hintLast | hintLow => apply hintLow
  | cinv => apply cinv | cflush => apply cflush | amoAdd => apply amoAdd | amoMin => apply amoMin | amoMax => apply amoMax
  | amoAnd => apply amoAnd | amoOr => apply amoOr | amoXor => apply amoXor | amoXchg => apply amoXchg
  | amoCas => apply amoCas | redAdd => apply redAdd | redMin => apply redMin | redMax => apply redMax
  | redAnd => apply redAnd | redOr => apply redOr | redXor => apply redXor | waitcmp => apply waitcmp
  | barInit => apply barInit | barArrive => apply barArrive | barWait => apply barWait | barExpect => apply barExpect
  | fence => apply fence | fenceSc => apply fenceSc | xfence => apply xfence | fenceScTick => apply fenceScTick
  | eqw => apply eqw | eqgo => apply eqgo | sleepu => apply sleepu | sleepp => apply sleepp | promiseChk => apply promiseChk
  | time => apply time | halloc => apply halloc | hfree => apply hfree | sleepWake => apply sleepWake | trap => apply trap
  | brk => apply brk | trace => apply trace | sysrd => apply sysrd | syswr => apply syswr | rte => apply rte
  | segld => apply segld | tlbinv => apply tlbinv | spawn => apply spawn | phaseEnd => apply phaseEnd
  | phaseCommit => apply phaseCommit | acqx => apply acqx | acqxGrant => apply acqxGrant
  | acquireTimeout => apply acquireTimeout | relx => apply relx | yield => apply yield | age => apply age | lvl => apply lvl
  | longOperationComplete => apply longOperationComplete | spanPromotion => apply spanPromotion
  | trapEntry => apply trapEntry | regionLimit => apply regionLimit | accessAtHome => apply accessAtHome
  | atomicAtHome => apply atomicAtHome | reductionCombine => apply reductionCombine
  | barrierDecrement => apply barrierDecrement | sharerInvalidation => apply sharerInvalidation
  | invalidationConfirmation => apply invalidationConfirmation | storeAcknowledgement => apply storeAcknowledgement
  | regionClose => apply regionClose | monitorWake => apply monitorWake | waitcmpTimeout => apply waitcmpTimeout
  | barWaitRetest => apply barWaitRetest | saddleTouch => apply saddleTouch | rollbackReplay => apply rollbackReplay
  | translationWalk => apply translationWalk | mscSectorWrite => apply mscSectorWrite | mscSectorRead => apply mscSectorRead
  | mscWriteback => apply mscWriteback | dramBlockRead => apply dramBlockRead
  | correctedWriteback => apply correctedWriteback | scrubRead => apply scrubRead
  | selfRefreshEntry => apply selfRefreshEntry | selfRefreshExit => apply selfRefreshExit
  | drowsyBankDrop => apply drowsyBankDrop | chainDemote => apply chainDemote | chainSweep => apply chainSweep
  | keySlotLoad => apply keySlotLoad | timeoutDetectorExpiry => apply timeoutDetectorExpiry | misroute => apply misroute
  | halterCapture => apply halterCapture | halterRegenerate => apply halterRegenerate | bridleReceive => apply bridleReceive
  | routerPowerGate => apply routerPowerGate | routerWake => apply routerWake | girthRetrain => apply girthRetrain
  | girthLinkDown => apply girthLinkDown | hitchRetrain => apply hitchRetrain | hitchTimeout => apply hitchTimeout
  | stitchRelink => apply stitchRelink | hostPostedWrite => apply hostPostedWrite
  | orderingPointRelease => apply orderingPointRelease | routeAcknowledgement => apply routeAcknowledgement
  | hostReadRequest => apply hostReadRequest | deviceWriteToHost => apply deviceWriteToHost | launch => apply launch
  | signalOnly => apply signalOnly | abortLaunch => apply abortLaunch | launchOutcome => apply launchOutcome
  | qtailDoorbell => apply qtailDoorbell | dwinWrite => apply dwinWrite | faultack => apply faultack
  | fqtailWrite => apply fqtailWrite | trtailWrite => apply trtailWrite | trdropRead => apply trdropRead
  | bar0RegisterWrite => apply bar0RegisterWrite | attestationRequest => apply attestationRequest
  | coldReset => apply coldReset | timebaseSync => apply timebaseSync | ptpSourceLoss => apply ptpSourceLoss
  | farrierSnapshot => apply farrierSnapshot | islandThrottle => apply islandThrottle | groomBoxWrite => apply groomBoxWrite
  | groomBoxFree => apply groomBoxFree | bind => apply bind | preemptDecision => apply preemptDecision
  | preciseStop => apply preciseStop | contextReset => apply contextReset | restore => apply restore
  | swapOut => apply swapOut | packhorseCopy => apply packhorseCopy | packhorseStridedCopy => apply packhorseStridedCopy
  | packhorseFill => apply packhorseFill | placeScales => apply placeScales | trotterGather => apply trotterGather
  | trotterScatter => apply trotterScatter | collectiveBroadcast => apply collectiveBroadcast
  | collectiveAllGather => apply collectiveAllGather | collectiveAllReduce => apply collectiveAllReduce
  | collectiveComplete => apply collectiveComplete | carouselForward => apply carouselForward
  | carouselInverse => apply carouselInverse | carouselPointwise => apply carouselPointwise
  | engineCommandComplete => apply engineCommandComplete | hayloftRequest => apply hayloftRequest
  | hayloftFree => apply hayloftFree | engineOperationAccept => apply engineOperationAccept
  | matrixOperationComplete => apply matrixOperationComplete | tileUpdateApply => apply tileUpdateApply
  | starterDispatch => apply starterDispatch | taskComplete => apply taskComplete | earlyDecrement => apply earlyDecrement
  | illegalInstrWord => apply illegalInstrWord | deviceReadCompletion => apply deviceReadCompletion
  | arrivalResponse => apply arrivalResponse | orderlyShutdown => apply orderlyShutdown
  | sramSoftError => apply sramSoftError | unhandledTrapDiscard => apply unhandledTrapDiscard
  | hitchDomainForm => apply hitchDomainForm | clauseStart => apply clauseStart

/-- The only word of an instruction decodes to it. -/
theorem decode_of_encode {w : Word} {i : Instr} (h : encode i = [w]) : decodeWords [w] = .ok (i, []) := by
  have hne : encode i ≠ [] := by simp [h]
  simpa [h] using decode_encode i [] hne

end Sys2Proof.Laws.RoundTrip

namespace Sys2Proof.Laws

open Sys2Proof

/-- Settles O1: `decode_encode`, row by row. -/
theorem decodeOfEncode : Obligations.DecodeOfEncode := fun i => RoundTrip.decode_encode i

/-- Settles O7: each word is what the encoder makes of the instruction beside it. -/
theorem specWordsDecode : Obligations.SpecWordsDecode :=
  have word : ∀ {w i}, encode i = [w] → decodeWords [w] = .ok (i, []) := RoundTrip.decode_of_encode
  ⟨word rfl, word rfl, word rfl, word rfl, word rfl, word rfl, word rfl,
    word rfl, word rfl, word rfl, word rfl, word rfl, word rfl, word rfl,
    word rfl, word rfl, word rfl, word rfl, word rfl, word rfl, word rfl,
    word rfl, word rfl, word rfl, word rfl, word rfl, word rfl, word rfl,
    word rfl, word rfl, word rfl, word rfl, word rfl, word rfl, word rfl,
    word rfl, word rfl, word rfl, word rfl, word rfl, word rfl, word rfl⟩

end Sys2Proof.Laws

end

section
/-! # A step runs the decoded word of the chosen gang (O4) -/

namespace Sys2Proof.Laws

open Sys2Proof Sys2Proof.Machine

/-- With nothing more urgent a step is the issue of the chosen candidate (R386). -/
theorem step_of_candidate {s : State} {c : Candidate} (ha : s.agenda = []) (hs : s.settings = [])
    (hp : s.promotes = none) (hc : s.pick = some c) (ht : s.issueTurn = true) : step s = s.issueStep exec c := by
  simp [step, stepWith, State.advance, ha, hs, hp, hc, ht]

/-! ## A group of one word -/

/-- The words of a group that begins and ends at one slot. -/
theorem slotWords_one (bs : List Byte) {k : Nat} (h : k < 3) :
    slotWords (packetWords bs) k k = [listAt (packetWords bs) k 0] := by
  interval_cases k <;> rfl

/-- A word that decodes by itself is one item. -/
theorem itemsFrom_one {w : Word} {i : Instr} (slot : Nat) (h : decodeWords [w] = .ok (i, [])) :
    itemsFrom 3 slot [w] = [{ slot := slot, what := .ok i }] := by
  simp [itemsFrom, h]

/-- Checks 2 to 4 of a group of one word are those of the word (R35). -/
theorem groupFault_one (g : State) (ws : List Word) (started : Bool) (slot : Nat) (i : Instr) :
    g.groupFault ws started [{ slot := slot, what := .ok i }] =
      ((g.atItem ws started { slot := slot, what := .ok i }).preCheck i).map
        ((g.atItem ws started { slot := slot, what := .ok i }).atWord i).raise := by
  simp [State.groupFault]

/-- A group of one word that blocks stays where it is, but for a word of timing class W that waits (R40, R404). -/
theorem runItems_one {g v : State} {ws : List Word} {started : Bool} {slot : Nat} {i : Instr} (hw : g.issue.waiting = none)
    (hv : exec i (g.atItem ws started { slot := slot, what := .ok i }) = .next v) :
    runItems exec ws started g g [{ slot := slot, what := .ok i }] =
      .next (if v.issue.blocked = true ∧ v.stalled = true ∧ (kindOf i).timing = .blocking then g.holdWord slot else v) := by
  have hg : ({ g with issue := { g.issue with waiting := none } } : State) = g := by rw [← hw]
  have hk : ({ v with issue := { v.issue with waiting := v.issue.waiting <|> none } } : State) = v := by
    have : (v.issue.waiting <|> none) = v.issue.waiting := by cases v.issue.waiting <;> rfl
    rw [this]
  simp only [runItems, heldBack, hg, hv, hw, hk, Option.isSome_none, Bool.false_and, Bool.false_eq_true, if_false]
  by_cases hb : v.issue.blocked = true
  · by_cases hh : v.stalled = true ∧ (kindOf i).timing = .blocking
    · simp [hb, hh]
    · have hh' : (v.stalled && (kindOf i).timing == .blocking) = false := by simpa using hh
      simp only [hb, hh, hh', and_false, if_true, if_false, Bool.false_eq_true]
  · simp only [hb, false_and, if_false, Bool.false_eq_true]

section
variable {s g u : State} {gang : BitVec 8} {pc : DWord} {slot : Nat} {bs : List Byte} {started : Bool} {i : Instr}
  (hg : g = s.startIssue gang pc slot (slot + 1)) (hu : u = g.atItem (packetWords bs) started { slot := slot, what := .ok i })
  (hk : slot < 3) (hl : groupLast (packetWords bs) slot = slot) (hc : chainFault (packetWords bs) slot slot = none)
  (hd : decodeWords [listAt (packetWords bs) slot 0] = .ok (i, []))
include hg hu hk hl hc hd

/-- A group of one word takes the trap of the word's first failing check (R35). -/
theorem issueWords_of_trap {e : TrapInfo} (he : u.preCheck i = some e) :
    s.issueWords exec gang pc slot (packetWords bs) started = .next ((u.atWord i).raise e) := by
  rw [hu] at he ⊢
  simp only [State.issueWords, hl, hc, slotWords_one bs hk, itemsFrom_one slot hd, ← hg, groupFault_one, he, Option.map_some]

/-- A group of one word that passes its checks runs the word, and what closes a group follows (R32, R33). -/
theorem issueWords_of_effect (hp : u.preCheck i = none) {v : State} (hv : exec i u = .next v) :
    s.issueWords exec gang pc slot (packetWords bs) started =
      .next ((if v.issue.blocked = true ∧ v.stalled = true ∧ (kindOf i).timing = .blocking then g.holdWord slot
        else v).closeGroup (packetWords bs) gang slot (slot + 1) false) := by
  have hw : g.issue.waiting = none := by rw [hg]; rfl
  rw [hu] at hp hv
  simp only [State.issueWords, hl, hc, slotWords_one bs hk, itemsFrom_one slot hd, ← hg, groupFault_one, hp, Option.map_none,
    runItems_one hw hv]
  rfl

end

/-- A gang that runs its clause, or enters one at a header, issues the group at its slot (R41). -/
theorem issueGang_of_packet {s : State} {gang : BitVec 8} {x : Slice} {bs : List Byte} {started : Bool}
    (hx : x = s.sp.slice (lowestSlice (bitOn gang))) (ha : x.again = none)
    (hb : (s.fetchUse x.pc.toNat).fetchBytes x.pc.toNat = .ok bs)
    (hs : (started = true ∧ x.clause ≠ none) ∨
      (started = false ∧ x.clause = none ∧ x.slot = 0 ∧ isHeader (listAt (packetWords bs) 0 0) = true)) :
    s.issueGang exec gang = (s.fetchUse x.pc.toNat).issueWords exec gang x.pc x.slot (packetWords bs) started := by
  simp only [State.issueGang, ← hx, hb, ha]
  rcases hs with ⟨rfl, hc⟩ | ⟨rfl, hc, h0, hh⟩
  · have hc' : x.clause.isNone = false := Option.isNone_eq_false_iff.mpr (Option.isSome_iff_ne_none.mpr hc)
    simp [hc']
  · have hh' : isHeader (listAt (packetWords bs) 0 0#32) = true := hh
    simp [hc, h0, hh']

/-- The cycle of a candidate whose gang's issue is known (R386, R387). -/
theorem issueStep_of_issueGang {s v : State} {c : Candidate} (h : (s.focus c.span).issueGang exec c.gang = .next v) :
    s.issueStep exec c = .next (v.cycleEnd c) := by
  rw [State.issueStep, State.issueOf, h]
  rfl

/-- Settles O4: the issue of the gang is that of a group of one word, and `State.cycleEnd` ends the candidate's cycle. -/
theorem stepRunsDecoded : Obligations.StepRunsDecoded := by
  intro s t g u c x bs ws i started ha hse hp hc hturn ht hx hag hb hws hg hk hl hcf hs hd hu
  subst ht hws
  have hgang := issueGang_of_packet hx hag hb hs
  have hstep := step_of_candidate ha hse hp hc hturn
  refine ⟨fun hpre v hv => ?_, fun e he => ?_⟩
  · exact hstep.trans (issueStep_of_issueGang (hgang.trans (issueWords_of_effect hg hu hk hl hcf hd hpre hv)))
  · exact hstep.trans (issueStep_of_issueGang (hgang.trans (issueWords_of_trap hg hu hk hl hcf hd he)))

end Sys2Proof.Laws

end

section
/-! # The immediates of class 1 (O14) -/

namespace Sys2Proof.Laws

open Sys2Proof Sys2Proof.Machine

/-- An instruction whose effect is one scalar register. -/
theorem sets_of {s : State} {i : Instr} {d : RegNo} {x y : DWord} (eff : State → State) (e : exec i s = s.issue1 i eff)
    (h : eff s = s.ws d y) (hxy : y = x) : s.Sets i d x := fun hc => by
  rw [e, issue1_clear _ hc, h, ws_withScalar, hxy]

/-! ## The immediate, and results as bit vectors -/

/-- The immediate, sign-extended. -/
theorem immW_eq (i : BitVec 16) : immW i = i.signExtend 64 := by
  unfold immW immS
  rw [ofNat_wrap, sx_toInt]
  rfl

theorem immS_eq (i : BitVec 16) : immS i = (i.signExtend 64).toInt := by
  unfold immS
  rw [sx_toInt, BitVec.toInt_signExtend_of_le (by decide)]

/-- A truth value as a result is 1 or 0. -/
theorem ofInt_truth (b : Bool) : BitVec.ofInt 64 (truth b) = asWord b := by cases b <;> rfl

theorem addi_value (x : DWord) (i : BitVec 16) : BitVec.ofNat 64 (wrapTo 64 ((x.toNat : Int) + immS i)) = x + i.signExtend 64 := by
  rw [ofNat_wrap, BitVec.ofInt_add, immS_eq]
  simp

/-- The bits above an immediate do not meet it. -/
theorem movhi_value (x : DWord) (i : BitVec 16) : BitVec.ofNat 64 (x.toNat * 2 ^ 16 + i.toNat) = x <<< 16 ||| i.setWidth 64 := by
  have disjoint : x <<< 16 &&& i.setWidth 64 = 0 := by
    ext k hk
    by_cases h : k < 16
    · simp [h]
    · simp [BitVec.getLsbD_of_ge i k (by omega)]
  rw [← BitVec.add_eq_or_of_and_eq_zero _ _ disjoint, BitVec.ofNat_add, ← Nat.shiftLeft_eq]
  congr 1
  exact BitVec.ofNat_toNat ..

theorem shli_value (x : DWord) (k : Nat) : BitVec.ofNat 64 (x.toNat * 2 ^ k) = x <<< k := by
  rw [← Nat.shiftLeft_eq]
  rfl

theorem shri_value (x : DWord) (k : Nat) : BitVec.ofNat 64 (x.toNat / 2 ^ k) = x >>> k := by
  rw [← Nat.shiftRight_eq_div_pow, ← BitVec.toNat_ushiftRight, BitVec.ofNat_toNat, BitVec.setWidth_eq]

/-- Signed readings are equal when the words are. -/
theorem sx_beq_immS (x : DWord) (i : BitVec 16) : (sx x.toNat 64 == immS i) = (x == i.signExtend 64) := by
  rw [sx_toInt, immS_eq, Bool.eq_iff_iff, beq_iff_eq, beq_iff_eq, BitVec.toInt_inj]

/-- Settles O14: every effect writes S(sd), and the lemmas above give its value as a bit vector. -/
theorem scalarImmediates : Obligations.ScalarImmediates := by
  intro s c d i k x e hx he
  subst hx he
  refine ⟨sets_of _ rfl rfl (addi_value _ i), sets_of _ rfl rfl (immW_eq i), sets_of _ rfl rfl (movhi_value _ i),
    sets_of _ rfl rfl (by rw [immW_eq]), sets_of _ rfl rfl rfl, sets_of _ rfl rfl rfl, sets_of _ rfl rfl ?_,
    sets_of _ rfl rfl ?_, sets_of _ rfl rfl ?_, sets_of _ rfl rfl ?_, sets_of _ rfl rfl ?_, sets_of _ rfl rfl ?_,
    sets_of _ rfl rfl (shli_value _ _), sets_of _ rfl rfl (shri_value _ _)⟩
  · rw [ofInt_truth, sx_beq_immS]
  · rw [ofInt_truth, bne, sx_beq_immS]
    rfl
  · rw [ofInt_truth, sx_toInt, immS_eq]
    rfl
  · rw [ofInt_truth, sx_toInt, immS_eq]
    rfl
  · rw [ofInt_truth, immW_eq]
    rfl
  · rw [ofInt_truth, immW_eq]
    rfl

end Sys2Proof.Laws

end

section
/-! # Transfers that are recorded in the slices of a gang (O30, O31) -/

namespace Sys2Proof.Laws

open Sys2Proof Sys2Proof.Machine

/-! ## Slices -/

/-- An element of a mapped vector. -/
theorem vecAt_vecMap {α β : Type} {n j : Nat} (v : Vector α n) (f : Nat → α → β) (d : α) (e : β) (h : j < n) :
    vecAt (vecMap v f) j e = f j (vecAt v j d) := by
  simp [vecAt, vecMap, Array.getD, h]

/-- Slices mapped with their index. -/
theorem slice_vecMap {p : Span} (f : Nat → Slice → Slice) {j : Nat} (h : j < 8) :
    ({ p with slices := vecMap p.slices f } : Span).slice j = f j (p.slice j) :=
  vecAt_vecMap p.slices f Slice.zero Slice.zero h

/-- A transfer recorded by each slice of the gang (R33). -/
theorem transfer_transferred (s : State) (f : Slice → Transfer) : s.Transferred (s.transfer f) fun _ x => f x :=
  ⟨rfl, fun _ hj => slice_vecMap _ hj⟩

/-- The target of a relative transfer (R30). -/
theorem branchTarget_eq (pc : DWord) (p : BitVec 16) : branchTarget pc p = BitVec.ofInt 64 ((pc.toNat : Int) + 12 * p.toInt) := by
  unfold branchTarget
  rw [ofNat_wrap, sx_toInt]

theorem goTo_branchTarget (s : State) (p : BitVec 16) :
    s.Goes (s.goTo (branchTarget s.issue.pc p)) (BitVec.ofInt 64 ((s.issue.pc.toNat : Int) + 12 * p.toInt)) := by
  rw [branchTarget_eq]
  exact transfer_transferred _ _

/-! ## Register-indirect transfers (R29) -/

theorem goReg_aligned {s : State} {x : DWord} (h : x.toNat % 12 = 0) : s.goReg x = s.goTo x := by simp [State.goReg, h]

theorem goReg_misaligned {s : State} {x : DWord} (h : x.toNat % 12 ≠ 0) : s.goReg x = s.raise (s.trapAt 6 x) := by
  simp [State.goReg, h]

/-- Settles O30: each effect is `State.goTo`, the trap of `State.goReg`, or nothing. -/
theorem uniformTransfers : Obligations.UniformTransfers := by
  intro s c d p pc target hpc ht
  subst hpc ht
  have hgo := goTo_branchTarget s p
  refine ⟨does_of _ rfl rfl, does_of _ rfl hgo, fun hd => does_of _ rfl ?_, fun hd => does_of _ rfl ?_,
    does_of _ rfl ⟨_, hgo, ws_withScalar _ _ _⟩, fun ha => ?_, fun ha => ?_⟩
  · rw [if_pos (by simpa using hd)]
    exact hgo
  · simp [hd]
  · have hr : s.Goes (s.goReg (s.rs d)) (s.rs d) := by
      rw [goReg_aligned ha]
      exact transfer_transferred _ _
    exact ⟨does_of _ rfl hr, does_of _ rfl hr⟩
  · exact ⟨does_of _ rfl (goReg_misaligned ha), does_of _ rfl (goReg_misaligned ha)⟩

end Sys2Proof.Laws

end

section
/-! # Divergence, clause headers and the return from a handler (O31) -/

namespace Sys2Proof.Laws

open Sys2Proof Sys2Proof.Machine

/-! ## brv (R235) -/

/-- What `brv` records in a slice whose lanes T branch. -/
theorem brvSlice_eq (pc target : DWord) (x : Slice) (t : BitVec 4) :
    brvSlice pc target x t =
      if t = 0 then .go (pc + 12) x.live ({ kind := .rejoin, mask := x.live, pc := none } :: x.stack)
      else if x.live &&& ~~~t = 0 then .go target x.live ({ kind := .rejoin, mask := x.live, pc := none } :: x.stack)
      else .go target t ({ kind := .pending, mask := x.live &&& ~~~t, pc := some (pc + 12) } ::
        { kind := .rejoin, mask := x.live, pc := none } :: x.stack) := by
  simp [brvSlice]

/-- A `brv` pushes two entries where lanes part, else one. -/
theorem brvNeed_eq (x : Slice) (t : BitVec 4) : brvNeed x t = if t ≠ 0 ∧ x.live &&& ~~~t ≠ 0 then 2 else 1 := by
  simp [brvNeed]

/-- No slice of the gang satisfies a test that all its slices fail. -/
theorem filter_gangSlices_eq_nil {s : State} {p : Nat → Bool} (h : ∀ j, j < 8 → s.inGang j = true → p j = false) :
    s.gangSlices.filter p = [] := by
  refine List.filter_eq_nil_iff.mpr fun j hj => ?_
  obtain ⟨h8, hg⟩ := List.mem_filter.mp hj
  simp [h j (List.mem_range.mp h8) hg]

/-- The effect of a `brv` where every stack has room. -/
theorem brv_transferred {s : State} {c : Bool} {m : RegNo} {p : BitVec 16} (hc : s.clear (.brv c m p))
    (room : ∀ j, j < 8 → s.inGang j = true →
      (s.sp.slice j).stack.length + brvNeed (s.sp.slice j) (takenLanes (s.sp.slice j) (s.rm m.toNat) j) ≤ 16) :
    Answers (.brv c m p) s fun u => s.Transferred u fun j x =>
      brvSlice s.issue.pc (branchTarget s.issue.pc p) x (takenLanes x (s.rm m.toNat) j) := by
  have hbad := filter_gangSlices_eq_nil (s := s) (p := fun j =>
    decide (16 < (s.sp.slice j).stack.length + brvNeed (s.sp.slice j) (takenLanes (s.sp.slice j) (s.rm m.toNat) j)))
    fun j hj hg => by simpa using room j hj hg
  refine ⟨_, issue1_clear _ hc, ?_⟩
  simp only [hbad, List.isEmpty_nil, Bool.not_true, Bool.false_eq_true, if_false]
  exact ⟨rfl, fun j hj => slice_vecMap _ hj⟩

/-! ## Instructions that end the region first (Table 12.1) -/

theorem afterDrain_drained {s : State} (go : State → State) (h : s.drained 4 = true) : s.afterDrain go = go s.endRegion := by
  simp [State.afterDrain, h]

/-- An ending span goes on (R44, R189). -/
theorem atEnd_of_AtEnd {s : State} (go : State → State) (h : s.AtEnd) : s.atEnd go = go s.endRegion := by
  obtain ⟨hc, hf, ho, hq, hp⟩ := h
  simp [State.atEnd, hc, hf, ho, hq, hp]

/-! ## rte (R416, R417) -/

/-- The packet of FAULTPC as a number. -/
theorem faultPacket_toNat (f : DWord) : (faultPacket f).toNat = fld f 0 48 := by
  have : fld f 0 48 < 2 ^ 48 := Nat.mod_lt _ (by decide)
  rw [faultPacket, BitVec.toNat_ofNat]
  omega

/-- The effect of an `rte` whose FAULTPC is a word of a packet and names where the trapped gang may go on. -/
theorem rte_transferred {s : State} {c : Bool} (hc : s.clear (.rte c)) (ha : fld s.sp.trap.faultpc 0 48 % 12 = 0)
    (h3 : fld s.sp.trap.faultpc 48 2 ≠ 3)
    (hf : ∀ f, s.sp.frame = some f → s.sp.trap.faultpc = f.entry ∨ s.sp.frameContinues f = true ∨
      (fld s.sp.trap.faultpc 48 2 = 0 ∧ s.beginsClause (faultPacket s.sp.trap.faultpc) ≠ some false)) :
    Answers (.rte c) s fun u => s.Transferred u fun _ _ => .rte := by
  refine ⟨_, issue1_clear _ hc, ?_⟩
  have h3' : (faultSlot s.sp.trap.faultpc == 3) = false := by simpa [faultSlot] using h3
  simp only [faultPacket_toNat, ha, h3', bne_self_eq_false, Bool.or_self, Bool.false_eq_true, if_false]
  rw [if_neg]
  · exact transfer_transferred s _
  · cases hfr : s.sp.frame with
    | none => simp
    | some f =>
      rcases hf f hfr with h | h | ⟨h0, hb⟩
      · simp [h]
      · simp [h]
      · simp [faultSlot, h0, hb]

/-! ## Clause headers (R36 to R39) -/

/-- A test that one element of a vector passes. -/
theorem vecAny_of_vecAt {α : Type} {n j : Nat} {v : Vector α n} {p : α → Bool} (d : α) (hj : j < n)
    (h : p (vecAt v j d) = true) : vecAny v p = true := by
  have hm : vecAt v j d ∈ v.toArray.toList := by simp [vecAt, Array.getD, hj]
  exact List.any_eq_true.mpr ⟨_, hm, h⟩

/-- A clause in which a slice stands runs on (R37). -/
theorem running_mem_settle {s : State} {k : Clause} (hk : k ∈ s.sp.clauses) (hin : s.sp.inClause k.id = true) :
    { k with ended := false } ∈ s.settle.sp.clauses := by
  refine List.mem_filter.mpr ⟨List.mem_map.mpr ⟨k, hk, ?_⟩, by simp⟩
  simp [hin]

/-- The flags of a clause that stands are busy (R38). -/
theorem settle_flags {s : State} {k : Clause} {i : Nat} (hk : k ∈ s.settle.sp.clauses) (hi : i < 12)
    (h : k.heldA = true ∧ k.flagA.toNat = i ∨ k.heldB = true ∧ k.flagB.toNat = i) : bitOn s.settle.sp.flags i = true := by
  show bitOn (busyFlags s.settle.sp.clauses) i = true
  unfold busyFlags
  rw [bitOn_maskOf _ _ _ hi]
  exact List.any_eq_true.mpr ⟨k, hk, by simpa using h⟩

/-- The flags of a header are clear where each of them is. -/
theorem flags_and_headerFlags {f w : BitVec 12} {a b : BitVec 4}
    (h : ∀ i, i < 12 → bitOn w i = true ∨ a.toNat = i ∨ b.toNat = i → bitOn f i = false) :
    f &&& headerFlags w a b = 0 := by
  refine BitVec.eq_of_getLsbD_eq fun i hi => ?_
  have hm : (maskOf 12 fun i => i == a.toNat || i == b.toNat).getLsbD i = (i == a.toNat || i == b.toNat) :=
    bitOn_maskOf 12 _ i hi
  rw [headerFlags, BitVec.getLsbD_and, BitVec.getLsbD_or, hm]
  by_cases hw : w.getLsbD i = true ∨ a.toNat = i ∨ b.toNat = i
  · have : f.getLsbD i = false := h i hi hw
    simp [this]
  · push Not at hw
    have hw1 : w.getLsbD i = false := by simpa using hw.1
    simp [hw1, hw.2.1.symm, hw.2.2.symm]

/-- A gang that is not empty has a slice. -/
theorem inGang_of_ne_zero {s : State} (h : s.issue.gang ≠ 0) : ∃ j, j < 8 ∧ s.inGang j = true := by
  by_contra hn
  push Not at hn
  refine h (BitVec.eq_of_getLsbD_eq fun i hi => ?_)
  simpa [State.inGang, bitOn] using hn i hi

/-- The clause that a header begins (R38). -/
def begunClause (s : State) (l a b : BitVec 4) : Clause :=
  { id := s.sp.nextClause, first := s.issue.pc, length := l, flagA := a, flagB := b, heldA := a != 15, heldB := b != 15,
    ended := false }

/-- The gang stands in the begun clause, before the flags are set. -/
def withBegunClause (s : State) (l a b : BitVec 4) : State :=
  { s with sp := { s.sp with
      slices := vecMap s.sp.slices fun j x => if s.inGang j then { x with clause := some s.sp.nextClause } else x,
      clauses := s.sp.clauses ++ [begunClause s l a b], nextClause := s.sp.nextClause + 1 } }

theorem startClause_eq (s : State) (l a b : BitVec 4) : s.startClause l a b = (withBegunClause s l a b).settle := rfl

theorem withBegunClause_slice (s : State) (l a b : BitVec 4) {j : Nat} (hj : j < 8) : (withBegunClause s l a b).sp.slice j =
    if s.inGang j then { s.sp.slice j with clause := some s.sp.nextClause } else s.sp.slice j :=
  vecAt_vecMap s.sp.slices _ Slice.zero Slice.zero hj

/-- The begun clause stands. -/
theorem begunClause_mem {s : State} (l a b : BitVec 4) (h : s.issue.gang ≠ 0) :
    begunClause s l a b ∈ (withBegunClause s l a b).settle.sp.clauses := by
  obtain ⟨j, hj, hg⟩ := inGang_of_ne_zero h
  have hm : begunClause s l a b ∈ (withBegunClause s l a b).sp.clauses := by simp [withBegunClause]
  refine running_mem_settle hm (vecAny_of_vecAt Slice.zero hj ?_)
  show (((withBegunClause s l a b).sp.slice j).clause == some s.sp.nextClause) = true
  rw [withBegunClause_slice s l a b hj, if_pos hg]
  simp

/-- Settles O31: the transfers are recorded by `State.transfer` or slice by slice; a header begins `begunClause`. -/
theorem divergenceHeadersAndReturns : Obligations.DivergenceHeadersAndReturns := by
  refine ⟨?_, fun s l a b w hg hf => ?_⟩
  · intro s c m p pc target cm T F base hpc ht hcm hT hF hbase
    subst hpc ht hcm hT hF hbase
    refine ⟨fun room hc => ?_, does_of _ rfl (transfer_transferred _ _), fun hd => does_of _ rfl ?_,
      fun he => does_of _ rfl ?_, fun ha h3 hf hc => rte_transferred hc ha h3 hf⟩
    · have hroom : ∀ j, j < 8 → s.inGang j = true →
          (s.sp.slice j).stack.length + brvNeed (s.sp.slice j) (takenLanes (s.sp.slice j) (s.rm m.toNat) j) ≤ 16 := by
        intro j hj hi
        rw [brvNeed_eq]
        exact room j hj hi
      have h := brv_transferred hc hroom
      simp only [brvSlice_eq, branchTarget_eq] at h
      exact h
    · rw [afterDrain_drained _ hd]
      exact transfer_transferred _ _
    · rw [atEnd_of_AtEnd _ he]
      exact transfer_transferred _ _
  · refine does_of _ rfl ?_
    have hstart : (if s.sp.flags &&& headerFlags w a b != 0 then s.stall else s.startClause l a b) = s.startClause l a b := by
      simp [flags_and_headerFlags hf]
    have hmem := begunClause_mem l a b hg
    rw [hstart, startClause_eq]
    refine ⟨rfl, fun j hj => withBegunClause_slice s l a b hj, ⟨_, hmem, rfl, rfl, rfl, rfl, rfl, rfl⟩, fun i hi hab => ?_⟩
    refine settle_flags hmem hi ?_
    rcases hab with rfl | rfl
    · exact .inl ⟨by simp [begunClause]; rintro rfl; simp at hi, rfl⟩
    · exact .inr ⟨by simp [begunClause]; rintro rfl; simp at hi, rfl⟩

end Sys2Proof.Laws

end

section
/-! # System registers, traps, traces, segment registers and translations (O32) -/

namespace Sys2Proof.Laws

open Sys2Proof Sys2Proof.Machine

/-! ## System registers (Table 2.3) -/

/-- The images of the segment registers. -/
theorem sysReg_segment (s : State) {k : Nat} (hk : k < 8) :
    s.sysReg (BitVec.ofNat 12 (64 + 2 * k)) = (vecAt s.seenSegs k Seg.invalid).base ∧
      s.sysReg (BitVec.ofNat 12 (65 + 2 * k)) = (vecAt s.seenSegs k Seg.invalid).lim := by
  interval_cases k <;> exact ⟨rfl, rfl⟩

theorem lowBits_eq (n : Nat) (v : DWord) : lowBits n v = BitVec.ofNat 64 (v.toNat % 2 ^ n) := by simp [lowBits, fld]

/-- The high part of AGE keeps the low 64 bits of what lies above bit 32. -/
theorem ofNat_fld_64 {n : Nat} (x : BitVec n) (lo : Nat) : BitVec.ofNat 64 (fld x lo 64) = BitVec.ofNat 64 (x.toNat / 2 ^ lo) := by
  apply BitVec.eq_of_toNat_eq
  simp [fld]

/-- Read-only registers ignore writes (R53). -/
theorem putSysReg_readOnly (s : State) {r : BitVec 12} (v : DWord)
    (h : r.toNat ∉ [0x00, 0x10, 0x13, 0x14, 0x15, 0x20, 0x21, 0x22, 0x23]) : s.putSysReg r v = s := by
  unfold State.putSysReg
  split
  case h_10 => rfl
  all_goals
    next hr => exact absurd (by simp [hr]) h

/-- What `sysrd` reads. -/
theorem sysrd_sets (s : State) (c : Bool) (d : RegNo) {r : BitVec 12} {x : DWord} (h : s.sysReg r = x) :
    s.Sets (.sysrd c d r) d x := sets_of _ rfl rfl h

/-- What `syswr` writes. -/
theorem syswr_does (s : State) (c : Bool) (d : RegNo) {r : BitVec 12} {t : State} (h : s.putSysReg r (s.rs d) = t) :
    s.Does (.syswr c d r) fun u => u = t := does_of _ rfl h

/-! ## segld (R421) -/

/-- A read of one access where it stands: the checks pass, the record has room, and nothing is poisoned or refused. -/
theorem readHere_one {s v : State} {o : MemOp} {pl : Place} {k off n : Nat} (go : State → List Byte → State) (hn : 0 < n)
    (hs : s.grp.saddled = false) (hc : s.checkLanes k .read n true [(0, off)] = .ok [pl])
    (hr : (s.fillFor k [pl]).readNow { s.newOp .load .none k 0 false with reqs := [reqAt pl n 0 0] } = (true, v, o))
    (ht : v.nowTrap o = none) :
    s.readHere k off n n go = go v (o.reqs.flatMap fun q => bytesLE n q.result.toNat) := by
  have hl : ((List.range (n / n)).map fun i => (i, off + n * i)) = [(0, off)] := by simp [Nat.div_self hn]
  unfold State.readHere State.withPlaces
  rw [hl, hc]
  simp only [State.whenChecked, State.unlessFar, hs, Bool.false_and, Bool.false_eq_true, if_false, List.map_cons, List.map_nil,
    hr, ht, Bool.not_true]

/-- The segment register that 16 bytes stand for. -/
def segOfBytes (bs : List Byte) : Seg := { base := BitVec.ofNat 64 (leOf (bs.take 8)), lim := BitVec.ofNat 64 (leOf (bs.drop 8)) }

/-- A `segld` whose read is performed puts the image, or refuses it. -/
theorem segld_does {s v : State} {c : Bool} {k a : RegNo} {o : MemOp} {pl : Place} (hd : s.drained 4 = true)
    (hs : s.grp.saddled = false) (hc : s.endRegion.checkLanes 0 .read 16 true [(0, (s.rs a).toNat)] = .ok [pl])
    (hr : (s.endRegion.fillFor 0 [pl]).readNow { s.endRegion.newOp .load .none 0 0 false with reqs := [reqAt pl 16 0 0] } =
      (true, v, o)) (ht : v.nowTrap o = none) {g : Seg}
    (hg : g = segOfBytes (o.reqs.flatMap fun q => bytesLE 16 q.result.toNat)) :
    s.Does (.segld c k a) fun u => u =
      if v.segBad k.toNat g then v.raise (v.trapAt 8 (s.rs a))
      else { v with sp := { v.sp with segs := vecPut v.sp.segs k.toNat g } } := by
  refine does_of _ rfl ?_
  rw [afterDrain_drained _ hd, hg]
  exact readHere_one _ (by decide) hs hc hr ht

/-! ## tlbinv (R422) -/

theorem asid_eq_iff (x : BitVec 10) (sel : DWord) : x = BitVec.ofNat 10 (fld sel 0 10) ↔ x.toNat = fld sel 0 10 := by
  have : fld sel 0 10 < 2 ^ 10 := Nat.mod_lt _ (by decide)
  rw [← BitVec.toNat_inj, BitVec.toNat_ofNat, Nat.mod_eq_of_lt this]

/-- The translations that a `tlbinv` leaves. -/
theorem tlbCovers_eq_false_iff (va sel : DWord) (x : Trans) : tlbCovers va sel x = false ↔
    ¬(fld sel 10 2 = 0 ∧ x.asid.toNat = fld sel 0 10 ∧ x.vpn = fld va 0 48 / 2 ^ x.bits) ∧
    ¬(fld sel 10 2 = 1 ∧ x.asid.toNat = fld sel 0 10) ∧ fld sel 10 2 < 2 := by
  unfold tlbCovers
  dsimp only
  split
  · next h => simp [h, asid_eq_iff]
  · next h => simp [h, asid_eq_iff]
  · next h0 h1 =>
    have hne : fld sel 10 2 ≠ 0 ∧ fld sel 10 2 ≠ 1 := ⟨h0, h1⟩
    have hge : ¬fld sel 10 2 < 2 := by omega
    simp [hge]

/-- Settles O32: system registers by `State.sysReg` and `State.putSysReg`, `segld` by `segld_does`, `tlbinv` by what
`tlbCovers` leaves. -/
theorem systemRegistersTrapsAndTranslation : Obligations.SystemRegistersTrapsAndTranslation := by
  refine ⟨fun s c d x hx => ?_, fun s c n k a b g pl o v => ⟨does_of _ rfl rfl, does_of _ rfl rfl, fun h => does_of _ rfl ?_,
    fun h => does_of _ rfl ?_, fun hd hs hc hr ht hg => ⟨fun hb => ?_, fun hb => ?_⟩, fun hd hf => does_of _ rfl ?_⟩⟩
  · subst hx
    have rd : ∀ {r y}, s.sysReg r = y → s.Sets (.sysrd c d r) d y := sysrd_sets s c d
    have wr : ∀ {r t}, s.putSysReg r (s.rs d) = t → s.Does (.syswr c d r) fun u => u = t := syswr_does s c d
    refine ⟨rd rfl, rd rfl, rd rfl, rd (ofNat_fld_64 _ 32), rd ?_, rd rfl, rd rfl, rd rfl, rd rfl, rd rfl, rd rfl, rd rfl, rd rfl,
      rd rfl, rd rfl, rd rfl, fun h => rd ?_, fun h => rd ?_, fun h => rd ?_, fun h => rd ?_,
      fun k hk => ⟨rd (sysReg_segment s hk).1, rd (sysReg_segment s hk).2⟩, wr rfl, wr ?_, wr ?_, wr ?_, wr ?_, wr ?_, wr rfl,
      wr rfl, wr ?_, fun r hr => wr (putSysReg_readOnly s _ ?_)⟩
    · simp [State.sysReg, fld]
    · simp [State.sysReg, TrapRegs.faultinfo, h]
    · simp [State.sysReg, TrapRegs.faultinfo, h]
    · simp [State.sysReg, TrapRegs.faultinfo, h]
    · simp [State.sysReg, TrapRegs.faultinfo, h]
    · rw [← lowBits_eq 32]; rfl
    · rw [← lowBits_eq 20]; rfl
    · rw [← lowBits_eq 32]; rfl
    · rw [← lowBits_eq 32]; rfl
    · rw [← lowBits_eq 50]; rfl
    · rw [← lowBits_eq 48]; rfl
    · intro hm
      simp only [List.mem_cons, List.not_mem_nil, or_false] at hr hm
      omega
  · simp [h]
  · simp [h]
  · simpa [hb] using segld_does (c := c) (k := k) hd hs hc hr ht hg
  · simpa [hb] using segld_does (c := c) (k := k) hd hs hc hr ht hg
  · simp only [hf, afterDrain_drained _ hd, Bool.false_eq_true, if_false]
    refine ⟨rfl, fun x => ?_⟩
    rw [← tlbCovers_eq_false_iff]
    exact (List.mem_filter).trans (and_congr_right fun _ => by simp)

end Sys2Proof.Laws

end

section
/-! # A completed long operation writes its destination (O59) -/

namespace Sys2Proof.Laws

open Sys2Proof Sys2Proof.Machine

/-! ## What the event does -/

/-- An access stays while it returns nothing, its result is not in place, or its answer is on its way (R42). -/
theorem access_stays {s : State} {o : MemOp} (ho : s.opOf o.id = some o)
    (h : o.returns = false ∨ s.opDone o = false ∨ s.answering o = true ∨ s.spanOf o.span = none) :
    exec (.longOperationComplete o.id) s = .next s := by
  show execLongOperationComplete o.id s = .next s
  have hc : (o.returns && s.opDone o && !s.answering o && (s.spanOf o.span).isSome) = false := by
    rcases h with h | h | h | h <;> simp [h]
  simp [execLongOperationComplete, ho, hc, happens]

theorem access_finishes {s : State} {o : MemOp} (ho : s.opOf o.id = some o) (hr : o.returns = true) (hd : s.opDone o = true)
    (ha : s.answering o = false) (hs : (s.spanOf o.span).isSome = true) :
    exec (.longOperationComplete o.id) s = .next ((s.focus o.span).finishAccess o) := by
  show execLongOperationComplete o.id s = _
  simp [execLongOperationComplete, ho, hr, hd, ha, hs, happens]

/-- The number of no operation names nothing. -/
theorem unknown_stays {s : State} {id : Nat} (ho : s.opOf id = none) (hx : s.slowOps.find? (fun y => y.id == id) = none) :
    exec (.longOperationComplete id) s = .next s := by
  show execLongOperationComplete id s = .next s
  simp [execLongOperationComplete, ho, hx, happens]

section
variable {s : State} {x : SlowOp} (ho : s.opOf x.id = none) (hx : s.slowOps.find? (fun y => y.id == x.id) = some x)
include ho hx

theorem slow_stays (h : x.parked ≠ none ∨ s.transiting (.command x.id) = true ∨ s.spanOf x.span = none) :
    exec (.longOperationComplete x.id) s = .next s := by
  show execLongOperationComplete x.id s = .next s
  have hc : (x.parked.isNone && !s.transiting (.command x.id) && (s.spanOf x.span).isSome) = false := by
    rcases h with h | h | h
    · simp [h]
    · simp [h]
    · simp [h]
  simp [execLongOperationComplete, ho, hx, hc, happens]

theorem slow_attempts (hp : x.parked = none) (ht : s.transiting (.command x.id) = false) (hs : (s.spanOf x.span).isSome = true) :
    exec (.longOperationComplete x.id) s = .next ((s.focus x.span).slowAttempt x).endExited := by
  show execLongOperationComplete x.id s = _
  simp [execLongOperationComplete, ho, hx, hp, ht, hs, happens]

end

/-! ## Leaving the operations in flight -/

/-- A completed access leaves the operations in flight, with the faults that it leaves in its destination. -/
def leaveFlight (s : State) (o : MemOp) : State :=
  (({ s with memOps := s.memOps.filter fun x => x.id != o.id } : State).hold o.span o.faults).settle

theorem hold_frame (s : State) (id : SpanId) (hs : List Held) :
    (s.hold id hs).sp.regs = s.sp.regs ∧ (s.hold id hs).sp.pend = s.sp.pend := by
  unfold State.hold State.updSpan
  dsimp only
  split <;> exact ⟨rfl, rfl⟩

@[simp] theorem leaveFlight_regs (s : State) (o : MemOp) : (leaveFlight s o).sp.regs = s.sp.regs := (hold_frame _ _ _).1
@[simp] theorem leaveFlight_pend (s : State) (o : MemOp) : (leaveFlight s o).sp.pend = s.sp.pend := (hold_frame _ _ _).2
@[simp] theorem leaveFlight_memOps (s : State) (o : MemOp) :
    (leaveFlight s o).memOps = s.memOps.filter fun x => x.id != o.id := rfl
@[simp] theorem leaveFlight_mem (s : State) (o : MemOp) : (leaveFlight s o).mem = s.mem := rfl
@[simp] theorem leaveFlight_lane (s : State) (o : MemOp) (n : RegNo) (i : Nat) : (leaveFlight s o).lane n i = s.lane n i := by
  simp only [State.lane, leaveFlight_regs]

/-! ## Vector and scalar destinations (R164, R167, R228) -/

@[simp] theorem clearPending_pend (s : State) (g : BitVec 8) (rs : List Ref) :
    (s.clearPending g rs).sp.pend = s.sp.pend.put g rs false := rfl
@[simp] theorem clearPending_lane (s : State) (g : BitVec 8) (rs : List Ref) (n : RegNo) (i : Nat) :
    (s.clearPending g rs).lane n i = s.lane n i := rfl

theorem wv_s (s : State) (n : RegNo) (w : LaneMask) (f : Nat → Word) : (s.wv n w f).sp.regs.s = s.sp.regs.s := by
  unfold State.wv Span.cureLanes
  dsimp only
  split <;> rfl

/-- The lanes of requests that all satisfy a test. -/
theorem lanesOf_all {o : MemOp} {p : Req → Bool} (hp : ∀ q ∈ o.reqs, p q = true) {i : Nat} (hi : i < 32) :
    bitOn (o.lanesOf p) i = o.reqs.any fun q => q.lane == i := by
  rw [MemOp.lanesOf, bitOn_maskOf _ _ _ hi, Bool.eq_iff_iff, List.any_eq_true, List.any_eq_true]
  exact exists_congr fun q => and_congr_right fun hq => by simp [hp q hq]

/-- Has a request brought its value? -/
def reqGood (q : Req) : Bool := q.status == .performed || q.status == .acked

/-- A result of one register in the lanes of a mask, with its tag (R228). -/
def landLanes (s : State) (d : RegNo) (w : LaneMask) (f : Nat → Word) : State := (s.wv d w f).wtag d zeroTag

section
variable (s : State) (d n : RegNo) (w : LaneMask) (f : Nat → Word)

theorem landLanes_lane {i : Nat} (hi : i < 32) :
    (landLanes s d w f).lane d i = if bitOn w i then f i else s.lane d i := wv_lane s d w f i hi

theorem landLanes_tag : (landLanes s d w f).sp.regs.tag[d.toNat]'d.isLt = zeroTag := by
  simp [landLanes]

variable {d n}

theorem landLanes_other (h : n ≠ d) :
    (landLanes s d w f).sp.regs.v[n.toNat]'n.isLt = s.sp.regs.v[n.toNat]'n.isLt := wv_other s d n w f h

theorem landLanes_lane_other (h : n ≠ d) (i : Nat) : (landLanes s d w f).lane n i = s.lane n i :=
  congrArg (laneAt · i) (landLanes_other s w f h)

theorem landLanes_tag_other (h : n ≠ d) :
    (landLanes s d w f).sp.regs.tag[n.toNat]'n.isLt = s.sp.regs.tag[n.toNat]'n.isLt := by
  simp only [landLanes, wtag_tag, wv_sp_regs_tag]
  exact Vector.getElem_set_ne _ _ (toNat_ne h)

/-- Landing lanes leaves scalar registers, pending bits, accesses and memory. -/
theorem landLanes_frame : (landLanes s d w f).sp.regs.s = s.sp.regs.s ∧ (landLanes s d w f).sp.pend = s.sp.pend ∧
    (landLanes s d w f).memOps = s.memOps ∧ (landLanes s d w f).mem = s.mem :=
  ⟨wv_s s d w f, wv_sp_pend s d w f, rfl, rfl⟩

end

/-- The registers of a completed vector load. -/
def landed (s : State) (o : MemOp) (d : RegNo) (wide : Bool) : State :=
  let lo := landLanes s d (o.lanesOf reqGood) fun i => BitVec.ofNat 32 (o.laneVal i)
  if wide then landLanes lo (next d) (o.lanesOf reqGood) fun i => BitVec.ofNat 32 (o.laneVal i / 2 ^ 32) else lo

section
variable (s : State) (o : MemOp) (d : RegNo) (wide : Bool)

theorem landed_frame : (landed s o d wide).sp.regs.s = s.sp.regs.s ∧ (landed s o d wide).sp.pend = s.sp.pend ∧
    (landed s o d wide).memOps = s.memOps ∧ (landed s o d wide).mem = s.mem := by
  cases wide
  · exact landLanes_frame _ _ _
  · obtain ⟨h1, h2, h3, h4⟩ := landLanes_frame (d := d) s (o.lanesOf reqGood) fun i => BitVec.ofNat 32 (o.laneVal i)
    obtain ⟨k1, k2, k3, k4⟩ := landLanes_frame (d := next d) (landed s o d false) (o.lanesOf reqGood) fun i =>
      BitVec.ofNat 32 (o.laneVal i / 2 ^ 32)
    exact ⟨k1.trans h1, k2.trans h2, k3.trans h3, k4.trans h4⟩

theorem landed_tag : (landed s o d wide).sp.regs.tag[d.toNat]'d.isLt = zeroTag := by
  cases wide
  · exact landLanes_tag _ _ _ _
  · exact (landLanes_tag_other _ _ _ (next_ne d).symm).trans (landLanes_tag _ _ _ _)

variable {d}

theorem landed_other {n : RegNo} (h : n ≠ d) (h' : n ≠ next d) :
    (landed s o d wide).sp.regs.v[n.toNat]'n.isLt = s.sp.regs.v[n.toNat]'n.isLt := by
  cases wide
  · exact landLanes_other _ _ _ h
  · exact (landLanes_other _ _ _ h').trans (landLanes_other _ _ _ h)

variable {o} (hg : ∀ q ∈ o.reqs, reqGood q = true) {i : Nat} (hi : i < 32)
include hg hi

theorem landed_lane : (landed s o d wide).lane d i =
    if o.reqs.any fun q => q.lane == i then BitVec.ofNat 32 (o.laneVal i) else s.lane d i := by
  have h : (landed s o d wide).lane d i = (landed s o d false).lane d i := by
    cases wide
    · rfl
    · exact landLanes_lane_other _ _ _ (next_ne d).symm i
  rw [h, ← lanesOf_all hg hi]
  exact landLanes_lane _ _ _ _ hi

theorem landed_pair_lane : (landed s o d true).lane (next d) i =
    if o.reqs.any fun q => q.lane == i then BitVec.ofNat 32 (o.laneVal i / 2 ^ 32) else s.lane (next d) i := by
  have h : (landed s o d false).lane (next d) i = s.lane (next d) i := landLanes_lane_other _ _ _ (next_ne d) i
  rw [← h, ← lanesOf_all hg hi]
  exact landLanes_lane _ _ _ _ hi

end

theorem finishAccess_vec {s : State} {o : MemOp} {d : RegNo} {wide : Bool} (h : o.dest = .vec d wide) :
    s.finishAccess o = leaveFlight ((landed s o d wide).clearPending o.gang (if wide then vp d else vr d)) o := by
  simp only [State.finishAccess, State.writeBack, h]
  rfl

theorem finishAccess_scalar {s : State} {o : MemOp} {d : RegNo} (h : o.dest = .scalar d) (hg : ∀ q ∈ o.reqs, reqGood q = true) :
    s.finishAccess o = leaveFlight ((s.ws d (BitVec.ofNat 64 (o.laneVal 0))).clearPending 0xFF (sr d)) o := by
  have hall : (o.reqs.all fun q => q.status == .performed || q.status == .acked) = true := List.all_eq_true.mpr hg
  simp only [State.finishAccess, State.writeBack, h, hall, if_true]
  rfl

/-- What a completed vector load leaves (R164, R167). -/
theorem vector_completes {s v u : State} {o : MemOp} {d : RegNo} {wide : Bool} (hv : v = s.focus o.span)
    (hu : u = v.finishAccess o) (h : o.dest = .vec d wide) (hg : ∀ q ∈ o.reqs, reqGood q = true) :
    (∀ i, i < 32 → u.lane d i = if o.reqs.any fun q => q.lane == i then BitVec.ofNat 32 (o.laneVal i) else v.lane d i) ∧
    u.sp.regs.tag[d.toNat]'d.isLt = { len := 0, sign := false } ∧
    (wide = true → next d ≠ d → ∀ i, i < 32 → u.lane (next d) i =
      if o.reqs.any fun q => q.lane == i then BitVec.ofNat 32 (o.laneVal i / 2 ^ 32) else v.lane (next d) i) ∧
    (∀ n, n ≠ d → n ≠ next d → u.sp.regs.v[n.toNat]'n.isLt = v.sp.regs.v[n.toNat]'n.isLt) ∧
    u.sp.regs.s = v.sp.regs.s ∧ u.sp.pend = v.sp.pend.put o.gang (if wide then vp d else vr d) false ∧
    u.memOps = v.memOps.filter (fun y => y.id != o.id) ∧ u.mem = s.mem := by
  obtain ⟨hs, hp, ho, hm⟩ := landed_frame v o d wide
  rw [finishAccess_vec h] at hu
  subst hu
  refine ⟨fun i hi => ?_, ?_, fun hw _ i hi => ?_, fun n hd hd' => ?_, ?_, ?_, ?_, ?_⟩
  · rw [leaveFlight_lane, clearPending_lane, landed_lane v wide hg hi]
  · rw [leaveFlight_regs, clearPending_sp_regs, landed_tag]
    rfl
  · rw [leaveFlight_lane, clearPending_lane, hw, landed_pair_lane v hg hi]
  · simp only [leaveFlight_regs, clearPending_sp_regs]
    exact landed_other v o wide hd hd'
  · rw [leaveFlight_regs, clearPending_sp_regs, hs]
  · rw [leaveFlight_pend, clearPending_pend, hp]
  · rw [leaveFlight_memOps, clearPending_memOps, ho]
  · rw [leaveFlight_mem, clearPending_mem, hm, hv, focus_mem]

/-! ## Tiles (R295) -/

theorem tile_setTile_same {s : State} {d : RegNo} (t : Tile) (h : d.toNat < s.grp.tiles.length) : (s.setTile d t).tile d = t := by
  simp [State.tile, State.setTile, listAt, h]

/-- A tile with the pieces that requests have read. -/
def loadedTile (s : State) (o : MemOp) (d : RegNo) : Tile :=
  { s.tile d with data := o.reqs.foldl (fun z q => tilePut z q.lane (bytesLE q.bytes q.result.toNat)) (s.tile d).data }

theorem finishAccess_tile {s : State} {o : MemOp} {d : RegNo} (h : o.dest = .tile d) (hg : ∀ q ∈ o.reqs, reqGood q = true) :
    s.finishAccess o = leaveFlight ((s.setTile d (loadedTile s o d)).clearPending 0xFF (tr d)) o := by
  have hall : (o.reqs.filter fun q => q.status == .performed || q.status == .acked) = o.reqs := List.filter_eq_self.mpr hg
  simp only [State.finishAccess, State.fillTile, h, hall]
  rfl

/-! ## Operations that are not accesses -/

theorem endExited_of_running {s : State} (h : ∀ g ∈ s.allGroups, g.id ≠ 0 → s.allExited g.id = false) : s.endExited = s := by
  have hn : (s.allGroups.find? fun g => g.id != 0 && s.allExited g.id) = none := by
    refine List.find?_eq_none.mpr fun g hg => ?_
    by_cases h0 : g.id = 0
    · simp [h0]
    · simp [h g hg h0]
  simp [State.endExited, hn]

/-- Which spans have exited is a matter of their slices. -/
theorem allExited_congr {s t : State} (hl : t.sp.live = s.sp.live) (hg : t.sp.group = s.sp.group)
    (hs : t.sp.slices = s.sp.slices) (hr : t.rest = s.rest) (g : GroupId) : t.allExited g = s.allExited g := by
  unfold State.allExited State.spansOf State.spans
  rw [hl, hr]
  cases s.sp.live
  · rfl
  · by_cases h : s.sp.group == g <;> simp [hg, hs, h]

/-- No task ends in a state with the groups of one in which none is to end. -/
theorem endExited_of_same {s t : State} (h : ∀ g ∈ s.allGroups, g.id ≠ 0 → s.allExited g.id = false)
    (hg : t.allGroups.map (fun g => g.id) = s.allGroups.map (fun g => g.id)) (he : ∀ g, t.allExited g = s.allExited g) :
    t.endExited = t := by
  refine endExited_of_running fun g hm h0 => ?_
  have : g.id ∈ s.allGroups.map fun g => g.id := hg ▸ List.mem_map_of_mem hm
  obtain ⟨g', hm', hid⟩ := List.mem_map.mp this
  rw [he, ← hid]
  exact h g' hm' (hid ▸ h0)

theorem endSlow_allExited (s : State) (x : SlowOp) (rs : List Ref) (g : GroupId) :
    (s.endSlow x rs).allExited g = s.allExited g := allExited_congr (s := s) (t := s.endSlow x rs) rfl rfl rfl rfl g

theorem ws_allExited (s : State) (d : RegNo) (y : DWord) (g : GroupId) : (s.ws d y).allExited g = s.allExited g :=
  allExited_congr (s := s) (t := s.ws d y) (by simp) (by simp) (by simp) rfl g

section
variable {v : State} {x : SlowOp} (hr : x.ready = true)
  (hg : ∀ g ∈ v.allGroups, g.id ≠ 0 → v.allExited g.id = false)
include hr hg

theorem status_completes {d : RegNo} {y : DWord} (hk : x.kind = .status d y) :
    (v.slowAttempt x).endExited = (v.ws d y).endSlow x (sr d) := by
  simp only [State.slowAttempt, hk, hr, if_true]
  exact endExited_of_same hg rfl fun g => by rw [endSlow_allExited, ws_allExited]

theorem pair_completes {d : RegNo} {y z : DWord} (hk : x.kind = .pair d y z) :
    (v.slowAttempt x).endExited = (v.ws2 d y z).endSlow x (Machine.sp d) := by
  simp only [State.slowAttempt, hk, hr, if_true]
  exact endExited_of_same hg rfl fun g => by rw [endSlow_allExited, State.ws2, ws_allExited, ws_allExited]

theorem transpose_completes {d : RegNo} {data : BitVec 32768} {shape : DWord} (hk : x.kind = .tile d data shape) :
    (v.slowAttempt x).endExited =
      (v.setTile d { data := data, shape := shape }).endSlow x [.tile d.toNat, .shape d.toNat] := by
  simp only [State.slowAttempt, hk, hr, if_true]
  exact endExited_of_same hg rfl fun g => by rw [endSlow_allExited]; rfl

end

theorem focusGroup_slowOps (s : State) (g : GroupId) : (s.focusGroup g).slowOps = s.slowOps := by
  unfold State.focusGroup
  split <;> rfl

theorem focusCore_slowOps (s : State) (k : CoreId) : (s.focusCore k).slowOps = s.slowOps := by
  unfold State.focusCore
  split <;> rfl

theorem focus_slowOps (s : State) (id : SpanId) : (s.focus id).slowOps = s.slowOps := by
  unfold State.focus
  split
  · rfl
  · split
    · rfl
    · exact (focusCore_slowOps _ _).trans (focusGroup_slowOps _ _)

/-- Settles O59: each destination has its lemma above; the other cases leave the state as it is. -/
theorem completions : Obligations.Completions := by
  intro s v o x hv
  refine ⟨fun ho h => access_stays ho h, fun ho hr hd ha hs hq => ?_, unknown_stays, fun ho hx h => slow_stays ho hx h,
    fun ho hx hp ht hs hr hg => ?_⟩
  · have hgood : ∀ q ∈ o.reqs, reqGood q = true := fun q hm => by simpa [reqGood] using (hq q hm).1
    have hexec := access_finishes ho hr hd ha hs
    have hmem : v.mem = s.mem := by rw [hv, focus_mem]
    rw [← hv] at hexec
    refine ⟨fun d wide h => ⟨_, hexec, vector_completes hv rfl h hgood⟩, fun d h => ⟨_, hexec, ?_⟩,
      fun d h hl => ⟨_, hexec, ?_⟩⟩
    · rw [finishAccess_scalar h hgood, ws_withScalar]
      exact ⟨leaveFlight_regs _ _, leaveFlight_pend _ _, rfl, hmem⟩
    · rw [finishAccess_tile h hgood]
      have htile := tile_setTile_same (loadedTile v o d) hl
      refine ⟨leaveFlight_regs _ _, rfl, hmem, ?_, ?_⟩
      · exact (congrArg Tile.shape htile :)
      · exact (congrArg Tile.data htile :)
  · have hexec := slow_attempts ho hx hp ht hs
    have hops := focus_slowOps s x.span
    have hmem := focus_mem s x.span
    refine ⟨fun d y hk => ⟨_, hexec, ?_⟩, fun d y z hk => ⟨_, hexec, ?_⟩, fun d data shape hk hl => ⟨_, hexec, ?_⟩⟩
    · rw [status_completes hr hg hk, ws_withScalar, ← hops, ← hmem]
      exact ⟨rfl, rfl, rfl⟩
    · rw [pair_completes hr hg hk, State.ws2, ws_withScalar, ws_withScalar, ← hops, ← hmem]
      exact ⟨rfl, rfl, rfl⟩
    · rw [transpose_completes hr hg hk, ← hops]
      exact ⟨tile_setTile_same _ hl, rfl, rfl⟩

end Sys2Proof.Laws

end

section
/-! # What the caches do to memory, and reading back under a key (O12)

Every request passes through caches that may read codewords from DRAM and write them back (R89 to R91). `Served` says what
such a request can change; each function of `Machine/Home` has one rule of it, in the order of that file. -/

namespace Sys2Proof.Laws

open Sys2Proof Sys2Proof.Machine

/-! ## Records of DRAM blocks -/

/-- An element looked up is not lost to a filter that keeps what is looked for. -/
theorem find?_filter_of_imp {α : Type} {p q : α → Bool} (l : List α) (h : ∀ x, p x = true → q x = true) :
    (l.filter q).find? p = l.find? p := by
  rw [List.find?_filter]
  congr 1
  funext x
  rw [Bool.eq_iff_iff, decide_eq_true_iff]
  exact and_iff_right_of_imp (h x)

/-- Nothing is found where a filter has left nothing of the kind. -/
theorem find?_filter_eq_none {α : Type} {p q : α → Bool} (l : List α) (h : ∀ x, q x = true → ¬p x = true) :
    (l.filter q).find? p = none :=
  List.find?_eq_none.mpr fun x hx => h x (List.mem_filter.mp hx).2

@[simp] theorem dramOf_block (s : State) (block : Nat) : (s.dramOf block).block = block := by
  unfold State.dramOf
  split
  · next d hd => simpa using List.find?_some hd
  · rfl

/-- A block's record after one has been replaced; a record with nothing to say reads as one that is not listed. -/
theorem dramOf_setDram (s : State) (d : DramBlock) (block : Nat) :
    (s.setDram d).dramOf block = if block = d.block then d else s.dramOf block := by
  by_cases hb : block = d.block
  · subst hb
    rw [if_pos rfl]
    unfold State.setDram State.dramOf
    by_cases hp : (!d.poison && d.errors == 0 && d.key.isNone) = true
    · have hnone := find?_filter_eq_none (p := fun x : DramBlock => x.block = d.block) (q := fun x => x.block != d.block)
        s.memsys.dram fun x hx => by simpa using hx
      obtain ⟨b, p, e, k⟩ := d
      obtain ⟨⟨rfl, rfl⟩, rfl⟩ : (p = false ∧ e = 0) ∧ k = none := by simpa using hp
      simp only [hp, if_true, hnone]
    · simp only [hp, Bool.false_eq_true, if_false, List.find?_cons, decide_true]
  · have hrest := find?_filter_of_imp (p := fun x : DramBlock => x.block = block) (q := fun x => x.block != d.block)
      s.memsys.dram fun x hx => bne_iff_ne.mpr ((of_decide_eq_true hx).trans_ne hb)
    have hfind : (s.setDram d).memsys.dram.find? (fun x => x.block = block) = s.memsys.dram.find? fun x => x.block = block := by
      unfold State.setDram
      dsimp only
      split
      · exact hrest
      · rw [List.find?_cons_of_neg (by simpa using fun h => hb h.symm), hrest]
    rw [if_neg hb]
    unfold State.dramOf
    rw [hfind]

/-- A block whose poison bit and erroneous bits are set. -/
theorem dramOf_setDram_same (t s : State) (block : Nat) (poison : Bool) (errors : Nat) :
    (t.setDram { s.dramOf block with poison := poison, errors := errors }).dramOf block =
      { s.dramOf block with poison := poison, errors := errors } := by
  rw [dramOf_setDram, if_pos (dramOf_block s block).symm]

/-- No block holds more erroneous bits than its code detects for certain (R84). -/
def FewErrors (s : State) : Prop := ∀ d ∈ s.memsys.dram, d.errors ≤ 17

theorem FewErrors.dramOf {s : State} (h : FewErrors s) (block : Nat) : (s.dramOf block).errors ≤ 17 := by
  unfold State.dramOf
  split
  · next d hd => exact h d (List.mem_of_find?_eq_some hd)
  · exact Nat.zero_le _

theorem FewErrors.setDram {s : State} {d : DramBlock} (h : FewErrors s) (hd : d.errors ≤ 17) : FewErrors (s.setDram d) := by
  have hrest : ∀ x ∈ s.memsys.dram.filter (fun x => x.block != d.block), x.errors ≤ 17 := fun x hx =>
    h x (List.mem_filter.mp hx).1
  unfold FewErrors State.setDram
  dsimp only
  split
  · exact hrest
  · exact List.forall_mem_cons.mpr ⟨hd, hrest⟩

/-! ## What serving a request can change -/

/-- From s to t memory reads the same under every key slot, unless a codeword with 18 erroneous bits or more has been
read (R84, R98). -/
structure SameBytes (s t : State) : Prop where
  fabric : t.fabric = s.fabric
  keys : t.memsys.keys = s.memsys.keys
  keyAt : ∀ block, (t.dramOf block).key = (s.dramOf block).key
  few : FewErrors s → FewErrors t ∧ t.mem = s.mem

theorem SameBytes.refl (s : State) : SameBytes s s := ⟨rfl, rfl, fun _ => rfl, fun h => ⟨h, rfl⟩⟩

theorem SameBytes.trans {s t u : State} (h : SameBytes s t) (k : SameBytes t u) : SameBytes s u where
  fabric := k.fabric.trans h.fabric
  keys := k.keys.trans h.keys
  keyAt block := (k.keyAt block).trans (h.keyAt block)
  few hs :=
    have ⟨ht, hm⟩ := h.few hs
    have ⟨hu, hn⟩ := k.few ht
    ⟨hu, hn.trans hm⟩

theorem SameBytes.ite {c : Prop} [Decidable c] {s t u : State} (h : SameBytes s t) (k : SameBytes s u) :
    SameBytes s (if c then t else u) := by
  split <;> assumption

theorem SameBytes.foldl {α : Type} {f : State → α → State} (h : ∀ t x, SameBytes t (f t x)) (l : List α) (s : State) :
    SameBytes s (l.foldl f s) :=
  List.foldlRecOn l f (SameBytes.refl s) fun t ht x _ => ht.trans (h t x)

/-- From s to t requests have been served: besides the caches only what a codeword read from DRAM leaves has changed, and
memory reads the same. -/
structure Served (s t : State) : Prop extends SameBytes s t where
  frame : t = { s with
    mem := t.mem, fresh := t.fresh,
    memsys := { s.memsys with
      lines := t.memsys.lines, msc := t.memsys.msc, dram := t.memsys.dram, scrubQ := t.memsys.scrubQ,
      sharers := t.memsys.sharers, channels := t.memsys.channels, drowsy := t.memsys.drowsy,
      bankUse := t.memsys.bankUse },
    host := { s.host with errors := t.host.errors, counters := t.host.counters } }

theorem Served.refl (s : State) : Served s s := ⟨.refl s, rfl⟩

theorem Served.trans {s t u : State} (h : Served s t) (k : Served t u) : Served s u :=
  ⟨h.toSameBytes.trans k.toSameBytes, by rw [k.frame, h.frame]⟩

theorem Served.ite {c : Prop} [Decidable c] {s t u : State} (h : Served s t) (k : Served s u) :
    Served s (if c then t else u) := by
  split <;> assumption

theorem Served.foldl {α : Type} {f : State → α → State} (h : ∀ t x, Served t (f t x)) (l : List α) (s : State) :
    Served s (l.foldl f s) :=
  List.foldlRecOn l f (Served.refl s) fun t ht x _ => ht.trans (h t x)

/-- What leaves memory and the records of DRAM. -/
theorem Served.of_frame {s t : State} (h : t = { s with
    memsys := { s.memsys with
      lines := t.memsys.lines, msc := t.memsys.msc, sharers := t.memsys.sharers, channels := t.memsys.channels,
      drowsy := t.memsys.drowsy, bankUse := t.memsys.bankUse } }) : Served s t := by
  rw [h]
  exact ⟨⟨rfl, rfl, fun _ => rfl, fun hf => ⟨hf, rfl⟩⟩, rfl⟩

/-! ## The memory-side cache -/

theorem setMsc_served (s : State) (b : MscBlock) : Served s (s.setMsc b) := .of_frame rfl

theorem useChannel_served (s : State) (pa : Nat) : Served s (s.useChannel pa) := .of_frame rfl

theorem readPoisoned_served (s : State) (block : Nat) : Served s (s.readPoisoned block) := .of_frame rfl

theorem setDram_served {s : State} {d : DramBlock} (hk : d.key = (s.dramOf d.block).key) (he : FewErrors s → d.errors ≤ 17) :
    Served s (s.setDram d) where
  fabric := rfl
  keys := rfl
  keyAt block := by
    rw [dramOf_setDram]
    split
    · next h => rw [hk, h]
    · rfl
  few h := ⟨h.setDram (he h), rfl⟩
  frame := rfl

/-- What a block read from DRAM can do (Table 3.3): nothing, a correction, a detection, or with 18 erroneous bits or more a
miscorrection (R84). -/
theorem dramRead_cases {P : State → Prop} {s : State} {block : Nat} (clean : P s)
    (corrected : ∀ n cs, P { s with
      fresh := n, memsys := { s.memsys with scrubQ := s.memsys.scrubQ ++ [(block, s.now)] },
      host := { s.host with counters := cs } })
    (detected : ∀ n cs, P { s.setDram { s.dramOf block with poison := true, errors := 0 } with
      fresh := n, host := { s.host with counters := cs, errors := .uncorrectable block :: s.host.errors } })
    (miscorrected : 17 < (s.dramOf block).errors → ∀ n bs, bs.length = 512 →
      P { s.setDram { s.dramOf block with errors := 0 } with
        fresh := n, mem := Memory.put s.mem (block * 512) bs }) : P (s.dramRead block) := by
  unfold State.dramRead
  dsimp only
  split
  · exact clean
  · split
    · exact corrected s.fresh _
    · split
      · exact detected s.fresh _
      · next h16 h17 =>
        split
        · exact detected (s.fresh + 1) _
        · exact corrected (s.fresh + 1) _
        · exact miscorrected (by omega) (s.fresh + 2) _ (by rw [List.length_map, List.length_range])

theorem dramRead_served (s : State) (block : Nat) : Served s (s.dramRead block) := by
  have hset : ∀ d : DramBlock, d = { s.dramOf block with poison := d.poison, errors := 0 } → Served s (s.setDram d) :=
    fun d hd => setDram_served (by rw [hd]; simp) fun _ => by rw [hd]; exact Nat.zero_le _
  refine dramRead_cases (.refl s) (fun n cs => ?_) (fun n cs => ?_) fun h n bs _ => ?_
  · exact ⟨⟨rfl, rfl, fun _ => rfl, fun h => ⟨h, rfl⟩⟩, rfl⟩
  · have h := hset { s.dramOf block with poison := true, errors := 0 } rfl
    exact ⟨⟨rfl, rfl, h.keyAt, h.few⟩, rfl⟩
  · have hs := hset { s.dramOf block with errors := 0 } rfl
    exact ⟨⟨rfl, rfl, hs.keyAt, fun hf => absurd (hf.dramOf block) (by omega)⟩, rfl⟩

/-- The state in which the codeword of a block is complete: fetched, if the MSC has not all of it (R91). -/
def completed (s : State) (block : Nat) (b : MscBlock) : State :=
  if b.valid == BitVec.allOnes 16 || b.fetched then s else s.dramRead block

/-- The state in which a block's codeword has been written, poisoned or not; the MSC holds the block clean. -/
def writtenBack (s : State) (block : Nat) (b : MscBlock) (bad : Bool) : State :=
  (((completed s block b).setMsc
    { b with valid := BitVec.allOnes 16, fetched := true, dirty := false, poison := bad }).setDram
      { (completed s block b).dramOf block with poison := bad, errors := 0 }).useChannel (block * 512)

theorem mscWriteback_of_clean {s : State} {block : Nat}
    (h : s.mscOf block = none ∨ ∃ b, s.mscOf block = some b ∧ b.dirty = false) : s.mscWriteback block = s := by
  unfold State.mscWriteback
  rcases h with h | ⟨b, h, hd⟩
  · rw [h]
  · simp [h, hd]

theorem mscWriteback_of_dirty {s : State} {block : Nat} {b : MscBlock} (hb : s.mscOf block = some b) (hd : b.dirty = true) :
    s.mscWriteback block = writtenBack s block b
      (b.poison || (!(b.valid == BitVec.allOnes 16 || b.fetched) && ((completed s block b).dramOf block).poison)) := by
  have hdirty : ¬(!b.dirty) = true := by simp [hd]
  unfold State.mscWriteback
  simp only [hb, if_neg hdirty]
  rfl

theorem mscWriteback_cases (s : State) (block : Nat) : s.mscWriteback block = s ∨
    ∃ b bad, s.mscOf block = some b ∧ s.mscWriteback block = writtenBack s block b bad := by
  cases hb : s.mscOf block with
  | none => exact .inl (mscWriteback_of_clean (.inl hb))
  | some b =>
    cases hd : b.dirty with
    | false => exact .inl (mscWriteback_of_clean (.inr ⟨b, hb, hd⟩))
    | true => exact .inr ⟨b, _, rfl, mscWriteback_of_dirty hb hd⟩

theorem writtenBack_served (s : State) (block : Nat) (b : MscBlock) (bad : Bool) : Served s (writtenBack s block b bad) := by
  have hfetch : Served s (completed s block b) := .ite (.refl s) (dramRead_served s block)
  refine ((hfetch.trans (setMsc_served _ _)).trans (setDram_served ?_ fun _ => Nat.zero_le _)).trans (useChannel_served _ _)
  simp only [dramOf_block]
  rfl

theorem mscWriteback_served (s : State) (block : Nat) : Served s (s.mscWriteback block) := by
  rcases mscWriteback_cases s block with h | ⟨b, bad, -, h⟩
  · rw [h]; exact .refl s
  · rw [h]; exact writtenBack_served s block b bad

theorem mscEvict_served (s : State) (block : Nat) : Served s (s.mscEvict block) :=
  (mscWriteback_served s block).trans (.of_frame rfl)

/-- An MSC without a block that is held under another key than a request's (R98): the first half of `State.mscReady`. -/
def keyReady (s : State) (block : Nat) (slot : BitVec 10) : State :=
  match s.mscOf block with
  | some b => if b.key = slot then s else s.mscEvict block
  | none => s

theorem keyReady_served (s : State) (block : Nat) (slot : BitVec 10) : Served s (keyReady s block slot) := by
  unfold keyReady
  split
  · exact .ite (.refl s) (mscEvict_served s block)
  · exact .refl s

theorem mscReady_eq (s : State) (block : Nat) (slot : BitVec 10) (p : Policy) : s.mscReady block slot p =
    if ((keyReady s block slot).mscOf block).isSome || p.hint == 3 then keyReady s block slot
    else
      match (keyReady s block slot).mscVictim block with
      | some v => (keyReady s block slot).mscEvict v
      | none => keyReady s block slot := rfl

/-- An MSC made ready is that of `keyReady`, or that without a victim. -/
theorem mscReady_cases (s : State) (block : Nat) (slot : BitVec 10) (p : Policy) :
    s.mscReady block slot p = keyReady s block slot ∨
      ((keyReady s block slot).mscOf block = none ∧ ∃ v, s.mscReady block slot p = (keyReady s block slot).mscEvict v) := by
  rw [mscReady_eq]
  split
  · exact .inl rfl
  · next habsent =>
    rw [Bool.or_eq_true, not_or, Option.not_isSome_iff_eq_none] at habsent
    split
    · next v _ => exact .inr ⟨habsent.1, v, rfl⟩
    · exact .inl rfl

theorem mscReady_served (s : State) (block : Nat) (slot : BitVec 10) (p : Policy) : Served s (s.mscReady block slot p) := by
  have hkey := keyReady_served s block slot
  rcases mscReady_cases s block slot p with h | ⟨-, v, h⟩
  · rw [h]; exact hkey
  · rw [h]; exact hkey.trans (mscEvict_served _ v)

theorem mscFill_served (s : State) (b : MscBlock) (p : Policy) : Served s (s.mscFill b p) :=
  (dramRead_served s b.block).trans (setMsc_served _ _)

theorem mscRead_served (s : State) (key : Nat) (slot : BitVec 10) (p : Policy) : Served s (s.mscRead key slot p) := by
  have h0 := (mscReady_served s (blockOf key) slot p).trans (useChannel_served _ key)
  unfold State.mscRead
  dsimp only
  split
  · exact .ite (.trans (.ite (h0.trans (setMsc_served _ _)) (h0.trans (mscFill_served _ _ _))) (readPoisoned_served _ _))
      (.ite (h0.trans (setMsc_served _ _)) (h0.trans (mscFill_served _ _ _)))
  · exact .ite (.trans (.ite (h0.trans (dramRead_served _ _)) (h0.trans (mscFill_served _ _ _))) (readPoisoned_served _ _))
      (.ite (h0.trans (dramRead_served _ _)) (h0.trans (mscFill_served _ _ _)))

theorem mscWrite_served (s : State) (key : Nat) (slot : BitVec 10) (p : Policy) (whole counts : Bool) :
    Served s (s.mscWrite key slot p whole counts) := by
  have h0 : Served s (if whole = true then s else s.mscRead key slot p) := .ite (.refl s) (mscRead_served s key slot p)
  have h1 := (h0.trans (mscReady_served _ (blockOf key) slot p)).trans (useChannel_served _ key)
  exact .ite ((h1.trans (setMsc_served _ _)).trans (mscEvict_served _ _)) (h1.trans (setMsc_served _ _))

/-! ## Lines of the L2 slices and the RDCs -/

theorem drainSector_served (s : State) (l : Line) (sec : Nat) : Served s (s.drainSector l sec) :=
  .ite (.refl s) ((mscWrite_served s _ _ _ _ _).trans (.of_frame rfl))

theorem drainLine_served (s : State) (l : Line) : Served s (s.drainLine l) := .foldl (fun t i => drainSector_served t l i) _ s

theorem evictLine_served (s : State) (l : Line) : Served s (s.evictLine l) :=
  .trans (.ite (drainLine_served s l) (.refl s)) (.of_frame rfl)

theorem lineReady_served (s : State) (line : Nat) (rdc : Option (Fin 4)) (slot : BitVec 10) :
    Served s (s.lineReady line rdc slot) := by
  unfold State.lineReady
  split
  · exact .ite (.refl s) (evictLine_served s _)
  · exact .refl s

theorem touchLine_served (s : State) (line : Nat) (rdc : Option (Fin 4)) (slot : BitVec 10) (p : Policy) (valid : BitVec 4)
    (dirty : BitVec 128) : Served s (s.touchLine line rdc slot p valid dirty) := by
  have h0 := lineReady_served s line rdc slot
  unfold State.touchLine
  dsimp only
  split
  · exact h0.trans (.of_frame rfl)
  · refine .ite h0 ?_
    split
    · exact (h0.trans (evictLine_served _ _)).trans (.of_frame rfl)
    · exact h0.trans (.of_frame rfl)

theorem useBank_served (s : State) (line : Nat) (rdc : Option (Fin 4)) : Served s (s.useBank line rdc) := .of_frame rfl

theorem setSharers_served (s : State) (x : Sharers) : Served s (s.setSharers x) := .of_frame rfl

theorem share_served (s : State) (line n : Nat) : Served s (s.share line n) := setSharers_served s _

/-! ## Requests at a home -/

theorem readAtHome_served (s : State) (pa : Nat) (slot : BitVec 10) (p : Policy) : Served s (s.readAtHome pa slot p) := by
  have h1 := lineReady_served s (lineOf pa) none slot
  have h3 := (Served.ite (c := ((s.lineReady (lineOf pa) none slot).holdsSector (lineOf pa) none (pa / 32 % 4) &&
    !p.uncached) = true) h1 (h1.trans (mscRead_served _ pa slot p))).trans
      (touchLine_served _ (lineOf pa) none slot p (sectorBit (pa / 32 % 4)) 0)
  exact .ite (mscRead_served s pa slot p) (.ite (h3.trans (useBank_served _ _ _)) h3)

theorem cacheRead_served (s : State) (die : Option (Fin 4)) (key : Nat) (slot : BitVec 10) (p : Policy) :
    Served s (s.cacheRead die key slot p) := by
  unfold State.cacheRead
  refine .ite (.refl s) ?_
  dsimp only
  split
  · exact readAtHome_served s _ slot p
  · next d =>
    have h0 := lineReady_served s (lineOf (s.canonPa key)) (some d) slot
    have h1 := (h0.trans (readAtHome_served _ (s.canonPa key) slot p)).trans
      (touchLine_served _ (lineOf (s.canonPa key)) (some d) slot p (sectorBit (s.canonPa key / 32 % 4)) 0)
    exact .ite (readAtHome_served s _ slot p) (.ite ((h0.trans (touchLine_served _ _ _ _ _ _ _)).trans (useBank_served _ _ _))
      (.ite ((h1.trans (useBank_served _ _ _)).trans (share_served _ _ _)) h1))

theorem cleanRewritten_served (s : State) (block : Nat) : Served s (s.cleanRewritten block) := by
  have hset : Served s (s.setDram { s.dramOf block with poison := false }) :=
    setDram_served (by simp only [dramOf_block]) fun h => h.dramOf block
  exact .ite (hset.trans (.of_frame rfl)) (.refl s)

theorem writeAtHome_served (s : State) (pa : Nat) (mask : BitVec 32) (slot : BitVec 10) (p : Policy) :
    Served s (s.writeAtHome pa mask slot p) := by
  unfold State.writeAtHome
  refine .ite (mscWrite_served s _ _ _ _ _) ?_
  have h1 := touchLine_served s (lineOf pa) none slot p (if (mask == BitVec.allOnes 32) = true then sectorBit (pa / 32 % 4) else 0)
    (BitVec.ofNat 128 (mask.toNat * 2 ^ (32 * (pa / 32 % 4))))
  dsimp only
  split
  · exact h1.trans (mscWrite_served _ _ _ _ _ _)
  · have h2 := h1.trans (useBank_served _ (lineOf pa) none)
    exact .ite (h2.trans (drainSector_served _ _ _)) h2

theorem cacheWrite_served (s : State) (sec : Nat) (mask : BitVec 32) (slot : BitVec 10) (p : Policy) :
    Served s (s.cacheWrite sec mask slot p) :=
  .ite (.refl s) (((writeAtHome_served s _ mask slot p).trans (cleanRewritten_served _ _)).trans (setSharers_served _ _))

theorem cleanSector_sameBytes (s : State) (sec : Nat) (mask : BitVec 32) : SameBytes s (s.cleanSector sec mask) :=
  .ite (.refl s) ⟨rfl, rfl, fun _ => rfl, fun h => ⟨h, rfl⟩⟩

/-! ## Memory under a key slot (R96, R98) -/

theorem bytes_put (m : Memory) (a : Nat) (bs : List Byte) (h : m.wf = true) :
    Memory.bytes (Memory.put m a bs) a bs.length = bs := by
  refine List.ext_getElem (by simp [Memory.bytes]) fun i hi _ => ?_
  have hlt : i < bs.length := by simpa [Memory.bytes] using hi
  simpa [Memory.bytes] using get_put_same a i bs h hlt

/-- A block lies in one package, so its bytes are under one key material. -/
theorem keyFor_block (s : State) (slot : BitVec 10) (a : Nat) : s.keyFor slot (blockOf a * 512) = s.keyFor slot a := by
  have hpkg : packageOf (blockOf a * 512) = packageOf a := by unfold packageOf blockOf; omega
  have hmain : isMain (blockOf a * 512) = isMain a := by
    unfold isMain blockOf
    exact decide_eq_decide.mpr (by omega)
  have hfar : packageOf (s.canonPa (blockOf a * 512)) = packageOf (s.canonPa a) := by
    unfold State.canonPa
    rw [hpkg]
    split
    · unfold packageOf; omega
    · exact hpkg
  unfold State.keyFor State.remote
  rw [hpkg, hmain, hfar]

@[simp] theorem rekey_keyFor (s : State) (slot : BitVec 10) (block : Nat) (k : BitVec 10) (a : Nat) :
    (s.rekey slot block).keyFor k a = s.keyFor k a := by
  unfold State.rekey
  split
  · rfl
  · dsimp only
    split <;> rfl

/-- A block that stands under a slot's material is read under it as it stands. -/
theorem rekey_otherKey (s : State) (slot : BitVec 10) (block : Nat) :
    (s.rekey slot block).otherKey (s.keyFor slot (block * 512)) block = none := by
  unfold State.rekey
  split
  · next h =>
    unfold State.otherKey
    rw [h]
    split
    · next h2 => cases h2
    · rfl
  · next k h =>
    unfold State.otherKey
    simp [h, dramOf_setDram]

theorem rekey_mem_of_same {s : State} {slot : BitVec 10} {block : Nat}
    (h : s.otherKey (s.keyFor slot (block * 512)) block = none) : (s.rekey slot block).mem = s.mem := by
  unfold State.rekey
  split
  · rfl
  · next k hk => simp [← hk, h]

theorem readKey_of_same {s : State} {slot : BitVec 10} {a : Nat} (n : Nat)
    (h : isMain a = true → s.otherKey (s.keyFor slot a) (blockOf a) = none) :
    s.readKey slot a n = Memory.bytes s.mem a n := by
  unfold State.readKey
  rw [if_neg]
  simpa using h

/-- What is written under a key slot reads back under it. -/
theorem readKey_writeKey (s : State) (slot : BitVec 10) (a : Nat) (bs : List Byte) (h : Memory.wf s.mem = true) :
    (s.writeKey slot a bs).readKey slot a bs.length = bs := by
  unfold State.writeKey
  by_cases ha : isMain a = true
  · simp only [ha, if_true]
    rw [readKey_of_same]
    · exact bytes_put _ a bs (rekey_wf slot _ h)
    · intro _
      have hk := rekey_otherKey s slot (blockOf a)
      rw [keyFor_block, ← rekey_keyFor s slot (blockOf a)] at hk
      exact hk
  · simp only [ha, if_false, Bool.false_eq_true]
    rw [readKey_of_same _ fun h => absurd h ha]
    exact bytes_put _ a bs h

/-- A write to a block of the slot's material leaves every byte outside it. -/
theorem get_writeKey_other {s : State} {slot : BitVec 10} {a b : Nat} (bs : List Byte) (h : Memory.wf s.mem = true)
    (hk : s.otherKey (s.keyFor slot a) (blockOf a) = none) (out : b < a ∨ a + bs.length ≤ b) :
    Memory.get (s.writeKey slot a bs).mem b = Memory.get s.mem b := by
  have hm : (if isMain a then s.rekey slot (blockOf a) else s).mem = s.mem := by
    split
    · exact rekey_mem_of_same (by rw [keyFor_block]; exact hk)
    · rfl
  unfold State.writeKey
  dsimp only
  rw [hm]
  exact get_put_other bs h out

section
variable {s t : State} (h : SameBytes s t)
include h

theorem SameBytes.keyFor (slot : BitVec 10) (a : Nat) : t.keyFor slot a = s.keyFor slot a := by
  unfold State.keyFor State.remote State.canonPa State.keyOf
  rw [h.fabric, h.keys]

theorem SameBytes.otherKey (k : Option (BitVec 512)) (block : Nat) : t.otherKey k block = s.otherKey k block := by
  unfold State.otherKey
  rw [h.keyAt]

theorem SameBytes.readKey (hf : FewErrors s) (slot : BitVec 10) (a n : Nat) : t.readKey slot a n = s.readKey slot a n := by
  unfold State.readKey State.blockBytes
  rw [h.keyFor, h.otherKey, (h.few hf).2]

end

@[simp] theorem evalMonitors_readKey (s : State) (key n : Nat) (slot : BitVec 10) (a m : Nat) :
    (s.evalMonitors key n).readKey slot a m = s.readKey slot a m := by
  unfold State.evalMonitors
  split <;> rfl

/-- The caches once a write of n bytes has passed through them. -/
def writtenThrough (s : State) (key n : Nat) (slot : BitVec 10) (p : Policy) : State :=
  (sectorMasks key n).foldl (fun t x => (t.cacheWrite x.1 x.2 slot p).cleanSector x.1 x.2) s

theorem writtenThrough_sameBytes (s : State) (key n : Nat) (slot : BitVec 10) (p : Policy) :
    SameBytes s (writtenThrough s key n slot p) := by
  unfold writtenThrough
  refine .foldl (fun t x => ?_) _ s
  exact (cacheWrite_served t x.1 x.2 slot p).toSameBytes.trans (cleanSector_sameBytes (t.cacheWrite x.1 x.2 slot p) x.1 x.2)

theorem homeWrite_eq (s : State) (key : Nat) (bs : List Byte) (slot : BitVec 10) (p : Policy) :
    s.homeWrite key bs slot p = ((writtenThrough s key bs.length slot p).writeKey slot key bs).evalMonitors key bs.length := rfl

/-- A read at a home returns what memory holds, and leaves it. -/
theorem homeRead_bytes {s : State} (hf : FewErrors s) (die : Option (Fin 4)) (key n : Nat) (slot : BitVec 10) (p : Policy) :
    (s.homeRead die key n slot p).1 = s.readKey slot key n ∧ (s.homeRead die key n slot p).2.2.mem = s.mem := by
  have hread := (cacheRead_served s die key slot p).toSameBytes
  unfold State.homeRead
  dsimp only
  refine ⟨hread.readKey hf slot key n, ?_⟩
  rw [mem_ite, readPoisoned_mem, (hread.few hf).2, ite_self]

/-- Settles O12: on the way to the home nothing but caches changes, and there the block is put under the slot's material
before the bytes are written. -/
theorem memoryReadsBackUnderItsKey : Obligations.MemoryReadsBackUnderItsKey := by
  intro s key bs slot p hs hf
  have hway := writtenThrough_sameBytes s key bs.length slot p
  obtain ⟨-, hmem⟩ := hway.few hf
  have hwf : Memory.wf (writtenThrough s key bs.length slot p).mem = true := by rw [hmem]; exact hs
  refine ⟨?_, homeWrite_wf s key bs slot p hs, fun hk a ha => ?_, fun die => homeRead_bytes hf die key bs.length slot p⟩
  · rw [homeWrite_eq, evalMonitors_readKey]
    exact readKey_writeKey _ slot key bs hwf
  · rw [← hway.keyFor, ← hway.otherKey] at hk
    rw [homeWrite_eq, evalMonitors_mem, ← hmem]
    exact get_writeKey_other bs hwf hk ha

end Sys2Proof.Laws

end

section
/-! # Prefetches, priorities, and the lines that leave a cache (O35) -/

namespace Sys2Proof.Laws

open Sys2Proof Sys2Proof.Machine

/-! ## Priorities (R94, R169) -/

theorem cappedMsc_cases (s : State) (block : Nat) (prio : Prio) :
    s.cappedMsc block prio = prio ∨ (prio = .evictLast ∧ s.cappedMsc block prio = .normal) := by
  unfold State.cappedMsc
  split
  · next h =>
    rw [Bool.and_eq_true, decide_eq_true_eq] at h
    exact .inr ⟨h.1, rfl⟩
  · exact .inl rfl

/-- A change of some elements that a function does not see. -/
theorem map_mapIf {α β : Type} (l : List α) (p : α → Bool) {f : α → α} {g : α → β} (h : ∀ x, g (f x) = g x) :
    (mapIf l p f).map g = l.map g := by
  unfold mapIf
  rw [List.map_map]
  refine List.map_congr_left fun x _ => ?_
  dsimp only [Function.comp]
  split
  · exact h x
  · rfl

/-- One more place is given a priority. -/
theorem reprioritised_snoc {s u : State} {prio : Prio} {qs : List Place} (h : s.Reprioritised u prio qs)
    (hone : qs = [] → u = s) (q : Place) : s.Reprioritised (u.setPriority prio q) prio (qs ++ [q]) := by
  obtain ⟨hframe, hlines, hmsc, hq⟩ := h
  have hdem : u.memsys.demoted = s.memsys.demoted := by rw [hframe]
  have hcanon : ∀ pa, u.canonPa pa = s.canonPa pa := fun pa => by rw [hframe]; rfl
  refine ⟨?_, ?_, ?_, fun q' hq' b hb hblock hchain => ?_⟩
  · unfold State.setPriority
    rw [hframe]
  · exact (map_mapIf _ _ fun x => by split <;> rfl).trans hlines
  · exact (map_mapIf _ _ fun x => by split <;> rfl).trans hmsc
  · obtain ⟨b0, hb0, rfl⟩ := List.mem_map.mp hb
    by_cases hmine : b0.block = blockOf (s.canonPa q.key)
    · have hin : (b0.block == blockOf (u.canonPa q.key)) = true := by rw [hcanon]; exact beq_iff_eq.mpr hmine
      simp only [hin, if_true] at hblock hchain ⊢
      by_cases hd : u.memsys.demoted.contains b0.chain = true
      · rw [if_pos hd] at hchain
        exact absurd (by rw [← hdem]; simpa using hd) hchain
      · rw [if_neg hd]
        refine ⟨cappedMsc_cases u b0.block prio, fun hqs => ?_⟩
        have hnil : qs = [] := by
          cases qs with
          | nil => rfl
          | cons x t => simp at hqs
        rw [hone hnil]
    · have hout : (b0.block == blockOf (u.canonPa q.key)) = false := by rw [hcanon]; exact beq_eq_false_iff_ne.mpr hmine
      simp only [hout, Bool.false_eq_true, if_false] at hblock hchain ⊢
      rcases List.mem_append.mp hq' with hold | hnew
      · refine ⟨(hq q' hold b0 hb0 hblock hchain).1, fun hqs => ?_⟩
        cases qs with
        | nil => cases hold
        | cons x t => simp at hqs
      · rw [List.mem_singleton.mp hnew] at hblock
        exact absurd hblock hmine

/-- Giving places a priority, one after the other. -/
theorem setPriority_foldl (s : State) (prio : Prio) (qs : List Place) :
    s.Reprioritised (qs.foldl (fun u q => u.setPriority prio q) s) prio qs := by
  induction qs using List.reverseRecOn with
  | nil => exact ⟨rfl, rfl, rfl, fun q hq => by cases hq⟩
  | append_singleton qs q ih =>
    rw [List.foldl_append]
    exact reprioritised_snoc ih (fun h => by rw [h]; rfl) q

/-! ## The checks and the sending of a request -/

theorem withPlaces_of_ok {s : State} {k : Nat} {u : Use} {size : Nat} {whole : Bool} {ls : List (Nat × Nat)} {ps : List Place}
    (go : List Place → State) (h : s.checkLanes k u size whole ls = .ok ps) : s.withPlaces k u size whole ls go = go ps := by
  unfold State.withPlaces
  rw [h]
  rfl

theorem cacheUse_eq (k : BitVec 3) : cacheUse k = if k = 4 then .write else .read := by
  unfold cacheUse
  by_cases hk : k = 4 <;> simp [hk]

/-- A sector is kept by what it satisfies. -/
theorem mem_l1Keep (c : Core) (p : L1Sector → Bool) (x : L1Sector) :
    (∃ y ∈ (c.l1Keep p).l1, x ∈ y.secs) ↔ (∃ y ∈ c.l1, x ∈ y.secs) ∧ p x = true := by
  unfold Core.l1Keep
  constructor
  · rintro ⟨y, hy, hx⟩
    obtain ⟨z, hz, rfl⟩ := List.mem_map.mp (List.mem_filter.mp hy).1
    obtain ⟨hxz, hp⟩ := List.mem_filter.mp hx
    exact ⟨⟨z, hz, hxz⟩, hp⟩
  · rintro ⟨⟨z, hz, hxz⟩, hp⟩
    have hx : x ∈ z.secs.filter p := List.mem_filter.mpr ⟨hxz, hp⟩
    refine ⟨{ z with secs := z.secs.filter p }, List.mem_filter.mpr ⟨List.mem_map.mpr ⟨z, hz, rfl⟩, ?_⟩, hx⟩
    simpa using ⟨x, hxz, hp⟩

/-- What a request asks for. -/
def asked (q : Req) : Nat × DWord × Nat × Nat × BitVec 256 := (q.lane, q.va, q.key, q.bytes, q.data)

@[simp] theorem asked_serveL1 (s : State) (o : MemOp) (q : Req) : asked (s.serveL1 o q) = asked q := by
  unfold State.serveL1
  split <;> rfl

/-- What an operation asks for stays when its requests are sent. -/
theorem asked_dispatched (s : State) (o : MemOp) : (s.dispatched o).2.reqs.map asked = o.reqs.map asked :=
  map_mapIf _ _ fun _ => asked_serveL1 s o _

/-- What sending does to the core is done to its L1. -/
theorem l1After_frame (s : State) (o : MemOp) (qs : List Req) :
    s.l1After o qs = { s.core with l1 := (s.l1After o qs).l1 } := by
  unfold State.l1After
  have hfold : ∀ (f : Core → Req → Core) (l : List Req), (∀ c q, f c q = { c with l1 := (f c q).l1 }) →
      l.foldl f s.core = { s.core with l1 := (l.foldl f s.core).l1 } := fun f l hf =>
    List.foldlRecOn (motive := fun c => c = { s.core with l1 := c.l1 }) l f rfl fun c hc _ _ => by rw [hf, hc]
  split
  · exact hfold _ _ fun c q => rfl
  · rfl
  · exact hfold _ _ fun c q => rfl
  all_goals rfl

theorem note_frame (p : Span) (r : RegionId) : p.note r = { p with regions := (p.note r).regions } := by
  unfold Span.note
  split <;> rfl

/-- What sending does to the span is done to its region. -/
theorem dispatched_frame (s : State) (o : MemOp) : (s.dispatched o).1 = { s with
    sp := { s.sp with regions := (s.dispatched o).1.sp.regions, regSectors := (s.dispatched o).1.sp.regSectors },
    core := { s.core with l1 := (s.dispatched o).1.core.l1 } } := by
  have hsp : ∀ (c : Prop) [Decidable c], (if c then s.sp.note s.region else s.sp) =
      { s.sp with regions := (if c then s.sp.note s.region else s.sp).regions } := fun c _ => by
    split
    · exact note_frame _ _
    · rfl
  unfold State.dispatched
  dsimp only
  rw [hsp, l1After_frame]

/-- An operation as it is in flight once it has been sent. -/
def inFlight (s : State) (o : MemOp) : MemOp :=
  (s.newId.2.dispatched { o with
    id := s.newId.1, reqs := mapIf o.reqs (fun q => q.status == .sent) fun q => { q with status := .queued } }).2

theorem asked_inFlight (s : State) (o : MemOp) : (inFlight s o).reqs.map asked = o.reqs.map asked :=
  (asked_dispatched _ _).trans (map_mapIf _ _ fun _ => rfl)

/-- An operation of the focused span is sent, with requests for the given places. -/
theorem send_sends {s : State} {o : MemOp} {k : BitVec 3} {kind : AccessKind} {dest : Dest} {hint : BitVec 2}
    {logged chk nc : Bool} {ps : List Place} {size : Nat} {data : Nat → Nat} (refs : List Ref)
    (ho : o = { s.newOp kind dest k.toNat hint logged with checked := chk, nc := nc, reqs := o.reqs })
    (hreqs : o.reqs.map asked = ps.map fun p => (p.lane, p.va, p.key, size, BitVec.ofNat 256 (data p.lane))) :
    s.Sends ((s.send o).setPending refs) k.toNat kind dest ps size data refs := by
  refine ⟨s, inFlight s o, ⟨rfl, fun _ => rfl⟩, ?_, ?_⟩
  · unfold State.send State.setPending inFlight
    dsimp only
    rw [dispatched_frame]
    rfl
  · have hasked := (asked_inFlight s o).trans hreqs
    have hseg : (BitVec.ofNat 3 k.toNat).toNat = k.toNat := by simp
    rw [ho] at hasked ⊢
    exact ⟨rfl, rfl, rfl, rfl, rfl, rfl, rfl, rfl, rfl, rfl, hseg, hasked⟩

theorem bytePlaces_eq (s : State) (k : Nat) (a b : RegNo) (l : BitVec 2) :
    s.bytePlaces k a b l = s.reachable k (s.laneOffsets a b l) := rfl

/-- Settles O35: the places are those that pass their checks, and each instruction's effect is a fold over them. -/
theorem cacheInstructions : Obligations.CacheInstructions := by
  intro s p c k a b l ls ps qs hls hqs
  subst hls hqs
  have hhint : ∀ prio, s.Reprioritised (s.hintLines k.toNat prio a b l) prio
      (s.reachable k.toNat (s.lanes.map fun i => (i, (s.rs a).toNat + (s.rl b i).toNat * 2 ^ l.toNat))) := fun prio =>
    setPriority_foldl s prio _
  have hchecks : s.checkLanes k.toNat (if k = 4 then .write else .read) 1 false
      (s.lanes.map fun i => (i, (s.rs a).toNat + (s.rl b i).toNat * 2 ^ l.toNat)) = .ok ps →
      s.checkLanes k.toNat (cacheUse k) 1 false (s.laneOffsets a b l) = .ok ps := fun h => by
    rw [cacheUse_eq]
    exact h
  refine ⟨does_of _ rfl rfl, does_of _ rfl (hhint _), does_of _ rfl (hhint _), does_of _ rfl (hhint _), does_of _ rfl (hhint _),
    fun hps => does_of _ rfl ?_, fun hl hbusy hps => does_of _ rfl ?_, fun hl => does_of _ rfl ?_⟩
  · rw [withPlaces_of_ok _ (hchecks hps)]
    refine ⟨rfl, fun x => (mem_l1Keep _ _ x).trans (and_congr_right fun _ => ?_)⟩
    simp
  · have hne : (s.laneOffsets a b l).isEmpty = false := by simpa [State.laneOffsets] using hl
    simp only [hne, Bool.false_eq_true, if_false, State.whenPathFree, hbusy]
    rw [withPlaces_of_ok _ (hchecks hps)]
    exact send_sends [] rfl (by rw [List.map_map]; rfl)
  · have hnil : (s.laneOffsets a b l).isEmpty = true := by simpa [State.laneOffsets] using hl
    simp only [hnil, if_true]

end Sys2Proof.Laws

end

section
/-! # Memory-side caches, DRAM, power states, chains and keys (O45) -/

namespace Sys2Proof.Laws

open Sys2Proof Sys2Proof.Machine

/-! ## Looking up blocks, channels and keys -/

theorem mscOf_block {s : State} {block : Nat} {b : MscBlock} (h : s.mscOf block = some b) : b.block = block := by
  simpa using List.find?_some h

theorem mscOf_eq_none_iff {s : State} {block : Nat} : s.mscOf block = none ↔ ∀ x ∈ s.memsys.msc, x.block ≠ block := by
  simp [State.mscOf]

/-- A channel looked up is the one asked for. -/
@[simp] theorem channel_named (s : State) (ch : Channel) : (s.channel ch).ch = ch := by
  unfold State.channel
  split
  · next c hc => simpa using List.find?_some hc
  · rfl

theorem channel_setChannel (s : State) (c : ChannelState) (ch : Channel) :
    (s.setChannel c).channel ch = if ch = c.ch then c else s.channel ch := by
  by_cases h : ch = c.ch
  · subst h
    simp [State.setChannel, State.channel]
  · have hrest := find?_filter_of_imp (p := fun x : ChannelState => x.ch == ch) (q := fun x => x.ch != c.ch)
      s.memsys.channels fun x hx => by simpa using (eq_of_beq hx).trans_ne h
    have hne : (c.ch == ch) = false := beq_eq_false_iff_ne.mpr fun e => h e.symm
    rw [if_neg h]
    unfold State.setChannel State.channel
    dsimp only
    rw [List.find?_cons, hne, hrest]
    rfl

/-! ## A block's place in its MSC (R91, R98) -/

/-- The block x stands in the MSC, and no other copy of it. -/
def TheBlock (s : State) (x : MscBlock) : Prop := x ∈ s.memsys.msc ∧ ∀ y ∈ s.memsys.msc, y.block = x.block → y = x

theorem theBlock_setMsc (s : State) (b : MscBlock) : TheBlock (s.setMsc b) b := by
  refine ⟨List.mem_cons_self, fun y hy hb => ?_⟩
  rcases List.mem_cons.mp hy with rfl | hy
  · rfl
  · exact absurd hb (by simpa using (List.mem_filter.mp hy).2)

/-- What a read that meets poison forgets is which sectors were rewritten (R87). -/
theorem theBlock_readPoisoned {s : State} {x : MscBlock} (block : Nat) (h : TheBlock s x) :
    ∃ r, TheBlock (s.readPoisoned block) { x with rewritten := r } := by
  obtain ⟨hmem, honly⟩ := h
  refine ⟨if (x.block == block) = true then 0 else x.rewritten, List.mem_map.mpr ⟨x, hmem, ?_⟩, fun y hy hb => ?_⟩
  · split <;> rfl
  · obtain ⟨z, hz, rfl⟩ := List.mem_map.mp hy
    have hzx : z = x := honly z hz (by rw [← show _ = x.block from hb]; split <;> rfl)
    rw [hzx]
    split <;> rfl

/-- What a read leaves of a block, whether or not it has met poison. -/
theorem theBlock_afterRead {t : State} {key block : Nat} {Q : MscBlock → Prop}
    (hQ : ∀ x r, Q x → Q { x with rewritten := r }) (h : ∃ x, TheBlock t x ∧ Q x) :
    ∃ x, TheBlock (if t.poisoned key then t.readPoisoned block else t) x ∧ Q x := by
  obtain ⟨x, hx, hq⟩ := h
  split
  · obtain ⟨r, hr⟩ := theBlock_readPoisoned block hx
    exact ⟨_, hr, hQ x r hq⟩
  · exact ⟨x, hx, hq⟩

/-! ## Blocks read from DRAM (Table 3.3) -/

theorem dramRead_memsys (s : State) (block : Nat) : (s.dramRead block).memsys =
    { s.memsys with dram := (s.dramRead block).memsys.dram, scrubQ := (s.dramRead block).memsys.scrubQ } :=
  dramRead_cases (P := fun t => t.memsys = { s.memsys with dram := t.memsys.dram, scrubQ := t.memsys.scrubQ })
    rfl (fun _ _ => rfl) (fun _ _ => rfl) fun _ _ _ _ => rfl

@[simp] theorem dramRead_msc (s : State) (block : Nat) : (s.dramRead block).memsys.msc = s.memsys.msc := by rw [dramRead_memsys]

@[simp] theorem dramRead_lines (s : State) (block : Nat) : (s.dramRead block).memsys.lines = s.memsys.lines := by
  rw [dramRead_memsys]

theorem dramRead_now (s : State) (block : Nat) : (s.dramRead block).now = s.now := by rw [(dramRead_served s block).frame]

theorem dramRead_channel (s : State) (block : Nat) (ch : Channel) : (s.dramRead block).channel ch = s.channel ch := by
  have hlimit : (s.dramRead block).idleLimit ch = s.idleLimit ch := by unfold State.idleLimit; rw [dramRead_memsys]
  unfold State.channel
  rw [hlimit, dramRead_now, dramRead_memsys]

theorem dramRead_of_quiet {s : State} {block : Nat} (h : (s.dramOf block).poison = true ∨ (s.dramOf block).errors = 0) :
    s.dramRead block = s := by
  unfold State.dramRead
  dsimp only
  rw [if_pos (by simpa using h)]

theorem dramRead_corrects {s : State} {block : Nat} (hp : (s.dramOf block).poison = false) (h0 : 0 < (s.dramOf block).errors)
    (h16 : (s.dramOf block).errors ≤ 16) : ∃ cs, s.dramRead block = { s with
      memsys := { s.memsys with scrubQ := s.memsys.scrubQ ++ [(block, s.now)] }, host := { s.host with counters := cs } } := by
  have hbad : ¬((s.dramOf block).poison || decide ((s.dramOf block).errors = 0)) = true := by
    simpa [hp] using Nat.pos_iff_ne_zero.mp h0
  unfold State.dramRead
  dsimp only
  rw [if_neg hbad, if_pos h16]
  exact ⟨_, rfl⟩

theorem dramRead_detects {s : State} {block : Nat} (hp : (s.dramOf block).poison = false) (h17 : (s.dramOf block).errors = 17) :
    ∃ cs, s.dramRead block = { s.setDram { s.dramOf block with poison := true, errors := 0 } with
      host := { s.host with counters := cs, errors := .uncorrectable block :: s.host.errors } } := by
  have hbad : ¬((s.dramOf block).poison || decide ((s.dramOf block).errors = 0)) = true := by simp [hp, h17]
  unfold State.dramRead
  dsimp only
  rw [if_neg hbad, if_neg (by omega), if_pos h17]
  exact ⟨_, rfl⟩

/-- Another block's record stays. -/
theorem dramRead_dramOf_other {s : State} {block x : Nat} (h : x ≠ block) : (s.dramRead block).dramOf x = s.dramOf x := by
  have hset : ∀ d : DramBlock, d.block = block → (s.setDram d).dramOf x = s.dramOf x := fun d hd => by
    rw [dramOf_setDram, if_neg (by rw [hd]; exact h)]
  exact dramRead_cases (P := fun t => t.dramOf x = s.dramOf x) rfl (fun _ _ => rfl)
    (fun _ _ => hset _ (dramOf_block s block)) fun _ _ _ _ => hset _ (dramOf_block s block)

/-- Another block's bytes stay. -/
theorem dramRead_get_other {s : State} {block a : Nat} (hs : s.safe) (h : a / 512 ≠ block) :
    Memory.get (s.dramRead block).mem a = Memory.get s.mem a :=
  dramRead_cases (P := fun t => Memory.get t.mem a = Memory.get s.mem a) rfl (fun _ _ => rfl) (fun _ _ => rfl)
    fun _ _ bs hl => get_put_other bs hs (by omega)

/-! ## Write-backs -/

@[simp] theorem completed_msc (s : State) (block : Nat) (b : MscBlock) :
    (completed s block b).memsys.msc = s.memsys.msc := by
  unfold completed
  split <;> simp

@[simp] theorem completed_lines (s : State) (block : Nat) (b : MscBlock) :
    (completed s block b).memsys.lines = s.memsys.lines := by
  unfold completed
  split <;> simp

theorem writtenBack_msc (s : State) (block : Nat) (b : MscBlock) (bad : Bool) : (writtenBack s block b bad).memsys.msc =
    { b with valid := BitVec.allOnes 16, fetched := true, dirty := false, poison := bad } ::
      s.memsys.msc.filter fun x => x.block != b.block := by
  rw [← completed_msc s block b]
  rfl

theorem writtenBack_lines (s : State) (block : Nat) (b : MscBlock) (bad : Bool) :
    (writtenBack s block b bad).memsys.lines = s.memsys.lines := by
  rw [← completed_lines s block b]
  rfl

/-- What leaves an MSC is the one block. -/
@[simp] theorem mscEvict_msc (s : State) (block : Nat) :
    (s.mscEvict block).memsys.msc = s.memsys.msc.filter fun x => x.block != block := by
  show (s.mscWriteback block).memsys.msc.filter (fun x => x.block != block) = _
  rcases mscWriteback_cases s block with h | ⟨b, bad, hb, h⟩
  · rw [h]
  · rw [h, writtenBack_msc, mscOf_block hb, List.filter_cons_of_neg (by simp), List.filter_filter]
    simp only [Bool.and_self]

theorem mem_mscEvict {s : State} {block : Nat} {x : MscBlock} :
    x ∈ (s.mscEvict block).memsys.msc ↔ x ∈ s.memsys.msc ∧ x.block ≠ block := by
  rw [mscEvict_msc, List.mem_filter, bne_iff_ne]

@[simp] theorem mscEvict_lines (s : State) (block : Nat) : (s.mscEvict block).memsys.lines = s.memsys.lines := by
  show (s.mscWriteback block).memsys.lines = _
  rcases mscWriteback_cases s block with h | ⟨b, bad, -, h⟩
  · rw [h]
  · rw [h, writtenBack_lines]

/-- A block that is absent or clean leaves without a trace in DRAM. -/
theorem mscEvict_of_clean {s : State} {block : Nat} (h : s.mscOf block = none ∨ ∃ b, s.mscOf block = some b ∧ b.dirty = false) :
    s.mscEvict block = { s with memsys := { s.memsys with msc := (s.mscEvict block).memsys.msc } } := by
  unfold State.mscEvict
  rw [mscWriteback_of_clean h]

/-- A dirty block of which the MSC has all, or whose codeword has no error, is written as one codeword (R91). -/
theorem mscEvict_of_dirty {s : State} {block : Nat} {b : MscBlock} (hb : s.mscOf block = some b) (hd : b.dirty = true)
    (hall : b.valid = BitVec.allOnes 16 ∨ b.fetched = true ∨ (s.dramOf block).errors = 0) :
    (s.mscEvict block).dramOf block = { s.dramOf block with
      poison := b.poison || ((s.dramOf block).poison && !(b.valid == BitVec.allOnes 16 || b.fetched)), errors := 0 } ∧
    s.mscEvict block = { s with memsys := { s.memsys with
      msc := (s.mscEvict block).memsys.msc, dram := (s.mscEvict block).memsys.dram,
      channels := (s.mscEvict block).memsys.channels } } := by
  have hfetch : completed s block b = s := by
    unfold completed
    split
    · rfl
    · next hpart =>
      rw [Bool.or_eq_true, beq_iff_eq, not_or] at hpart
      exact dramRead_of_quiet (.inr ((hall.resolve_left hpart.1).resolve_left hpart.2))
  unfold State.mscEvict
  rw [mscWriteback_of_dirty hb hd, Bool.and_comm]
  unfold writtenBack
  rw [hfetch]
  exact ⟨dramOf_setDram_same _ s block _ _, rfl⟩

/-! ## Requests at an MSC -/

theorem mscReady_of_hit {s : State} {block : Nat} {slot : BitVec 10} {b : MscBlock} (p : Policy) (hb : s.mscOf block = some b)
    (hk : b.key = slot) : s.mscReady block slot p = s := by
  unfold State.mscReady
  simp [hb, hk]

theorem keyReady_key {s : State} {block : Nat} {slot : BitVec 10} {b : MscBlock}
    (hb : (keyReady s block slot).mscOf block = some b) : b.key = slot := by
  unfold keyReady at hb
  cases hf : s.mscOf block with
  | none => simp [hf] at hb
  | some b0 =>
    simp only [hf] at hb
    split at hb
    · next hk =>
      cases hf.symm.trans hb
      exact hk
    · have hgone : (s.mscEvict block).mscOf block = none := mscOf_eq_none_iff.mpr fun x hx => (mem_mscEvict.mp hx).2
      cases hgone.symm.trans hb

/-- An MSC that is ready for a request holds the block under the request's key, or not at all (R98). -/
theorem mscReady_key {s : State} {block : Nat} {slot : BitVec 10} {p : Policy} {b : MscBlock}
    (hb : (s.mscReady block slot p).mscOf block = some b) : b.key = slot := by
  rcases mscReady_cases s block slot p with h | ⟨hnone, v, h⟩
  · rw [h] at hb
    exact keyReady_key hb
  · rw [h] at hb
    have hmem := mem_mscEvict.mp (List.mem_of_find?_eq_some hb)
    exact absurd (mscOf_block hb) (mscOf_eq_none_iff.mp hnone b hmem.1)

/-- A bit that has been set. -/
theorem bitOn_setBit {n i : Nat} (x : BitVec n) (h : i < n) : bitOn (setBit x i true) i = true := by
  unfold bitOn setBit setFld fld
  rw [BitVec.getLsbD_ofNat, decide_eq_true h, Bool.true_and, Nat.testBit_eq_decide_div_mod_eq]
  have hpos : 0 < 2 ^ i := Nat.two_pow_pos i
  have hx := Nat.div_add_mod x.toNat (2 ^ i)
  have hlt := Nat.mod_lt x.toNat hpos
  generalize 2 ^ i = m at *
  generalize x.toNat / m = q at *
  generalize x.toNat % m = r at *
  have hq : q % 2 ≤ q := Nat.mod_le q 2
  have hsum : x.toNat - q % 2 ^ 1 * m + (if true = true then 1 else 0) % 2 ^ 1 * m = m * (q - q % 2 + 1) + r := by
    rw [← hx, Nat.mul_add, Nat.mul_sub, Nat.mul_comm (q % 2 ^ 1) m]
    have := Nat.mul_le_mul_left m hq
    simp
    omega
  rw [hsum, Nat.mul_add_div hpos, Nat.div_eq_of_lt hlt]
  simp
  omega

/-- A whole sector written leaves its block dirty, with the sector valid, under the request's key (R91). -/
theorem mscWrite_holds (s : State) (key : Nat) (slot : BitVec 10) {p : Policy} (hp : (p.hint == 3) = false) :
    ∃ x, TheBlock (s.mscWrite key slot p true true) x ∧
      x.block = blockOf key ∧ bitOn x.valid (sectorIn key) = true ∧ x.dirty = true ∧ x.key = slot := by
  have hsec : sectorIn key < 16 := Nat.mod_lt _ (by decide)
  unfold State.mscWrite
  simp only [hp, Bool.and_false, Bool.false_eq_true, if_false, if_true]
  refine ⟨_, theBlock_setMsc _ _, ?_, bitOn_setBit _ hsec, rfl, ?_⟩
  · dsimp only
    cases hb : ((s.mscReady (blockOf key) slot p).useChannel key).mscOf (blockOf key) with
    | none => rfl
    | some b => exact mscOf_block hb
  · dsimp only
    cases hb : ((s.mscReady (blockOf key) slot p).useChannel key).mscOf (blockOf key) with
    | none => rfl
    | some b => exact mscReady_key hb

/-- A write to a block that stands under the request's key stays in the MSC (R91). -/
theorem mscWrite_of_hit {s : State} {key : Nat} {slot : BitVec 10} {p : Policy} {b : MscBlock} (hp : (p.hint == 3) = false)
    (hb : s.mscOf (blockOf key) = some b) (hk : b.key = slot) :
    s.mscWrite key slot p true true = { s with memsys := { s.memsys with
      msc := (s.mscWrite key slot p true true).memsys.msc,
      channels := (s.mscWrite key slot p true true).memsys.channels } } := by
  unfold State.mscWrite
  simp only [hp, Bool.and_false, Bool.false_eq_true, if_false, if_true, mscReady_of_hit p hb hk]
  rfl

/-- A fetched block is whole (R91). -/
theorem theBlock_mscFill (s : State) (b : MscBlock) (p : Policy) : ∃ x, TheBlock (s.mscFill b p) x ∧ x.block = b.block ∧
    x.valid = BitVec.allOnes 16 ∧ x.fetched = true ∧ x.key = b.key ∧
    x.poison = (b.poison || ((s.dramRead b.block).dramOf b.block).poison) :=
  ⟨_, theBlock_setMsc _ _, rfl, rfl, rfl, rfl, rfl⟩

theorem bitOn_allOnes {n i : Nat} (h : i < n) : bitOn (BitVec.allOnes n) i = true := by simpa [bitOn] using h

/-- A sector read leaves its block in the MSC, with the sector valid, under the request's key (R91). -/
theorem mscRead_holds (s : State) (key : Nat) (slot : BitVec 10) {p : Policy} (hp : (p.hint == 3) = false) :
    ∃ x, TheBlock (s.mscRead key slot p) x ∧ x.block = blockOf key ∧ bitOn x.valid (sectorIn key) = true ∧ x.key = slot := by
  have hsec : sectorIn key < 16 := Nat.mod_lt _ (by decide)
  unfold State.mscRead
  refine theBlock_afterRead (fun x r h => h) ?_
  split
  · next b hb =>
    have hkey : b.key = slot := mscReady_key hb
    split
    · next hv => exact ⟨_, theBlock_setMsc _ _, (mscOf_block hb : b.block = _), hv, hkey⟩
    · obtain ⟨x, hx, hblock, hvalid, -, hk, -⟩ := theBlock_mscFill ((s.mscReady (blockOf key) slot p).useChannel key) b p
      exact ⟨x, hx, hblock.trans (mscOf_block hb), by rw [hvalid]; exact bitOn_allOnes hsec, hk.trans hkey⟩
  · rw [hp]
    obtain ⟨x, hx, hblock, hvalid, -, hk, -⟩ := theBlock_mscFill ((s.mscReady (blockOf key) slot p).useChannel key)
      (((s.mscReady (blockOf key) slot p).useChannel key).mscFresh (blockOf key) slot p) p
    exact ⟨x, hx, hblock, by rw [hvalid]; exact bitOn_allOnes hsec, hk⟩

/-- A read of a sector that is not valid fetches the block and leaves it whole (R91). -/
theorem mscRead_fetches {s : State} {key : Nat} {slot : BitVec 10} {b : MscBlock} (p : Policy)
    (hb : s.mscOf (blockOf key) = some b) (hk : b.key = slot) (hv : bitOn b.valid (sectorIn key) = false) :
    ∃ x, TheBlock (s.mscRead key slot p) x ∧ x.block = blockOf key ∧ x.valid = BitVec.allOnes 16 ∧ x.fetched = true ∧
      ((s.dramOf (blockOf key)).errors = 0 → x.poison = (b.poison || (s.dramOf (blockOf key)).poison)) := by
  have hb' : (s.useChannel key).mscOf (blockOf key) = some b := hb
  unfold State.mscRead
  refine theBlock_afterRead (fun x r h => h) ?_
  simp only [mscReady_of_hit p hb hk, hb', hv, Bool.false_eq_true, if_false]
  obtain ⟨x, hx, hblock, hvalid, hfetched, -, hpoison⟩ := theBlock_mscFill (s.useChannel key) b p
  rw [mscOf_block hb] at hblock hpoison
  refine ⟨x, hx, hblock, hvalid, hfetched, fun he => ?_⟩
  rw [hpoison, dramRead_of_quiet (s := s.useChannel key) (.inr he)]
  rfl

/-- A read of a valid sector changes the block's priority, and of the lines what poison makes them forget (R87). -/
theorem mscRead_of_hit {s : State} {key : Nat} {slot : BitVec 10} {b : MscBlock} (p : Policy) (hmain : isMain key = true)
    (hb : s.mscOf (blockOf key) = some b) (hk : b.key = slot) (hv : bitOn b.valid (sectorIn key) = true) :
    s.mscRead key slot p = { s with memsys := { s.memsys with
      msc := (s.mscRead key slot p).memsys.msc, channels := (s.mscRead key slot p).memsys.channels,
      lines := (s.mscRead key slot p).memsys.lines } } ∧
    (b.poison = false → (s.mscRead key slot p).memsys.lines = s.memsys.lines) := by
  have hb' : (s.useChannel key).mscOf (blockOf key) = some b := hb
  have hpoisoned : ∀ prio, ((s.useChannel key).setMsc { b with prio := prio }).poisoned key = b.poison := fun prio => by
    have hput : ((s.useChannel key).setMsc { b with prio := prio }).mscOf (blockOf key) = some { b with prio := prio } := by
      simp [State.setMsc, State.mscOf, mscOf_block hb]
    unfold State.poisoned
    rw [hmain, hput]
    rfl
  unfold State.mscRead
  simp only [mscReady_of_hit p hb hk, hb', hv, if_true, hpoisoned]
  cases b.poison
  · exact ⟨rfl, fun _ => rfl⟩
  · exact ⟨rfl, fun h => by cases h⟩

/-! ## Sectors and blocks that pass through an MSC -/

theorem mscSectorWrite_event {s : State} {pa : Nat} {key : BitVec 10} : exec (.mscSectorWrite pa key) s =
    .next (if localBacked pa then s.mscWrite pa key Policy.plain true true else s) := rfl

theorem mscSectorRead_event {s : State} {pa : Nat} {key : BitVec 10} : exec (.mscSectorRead pa key) s =
    .next (if localBacked pa then s.mscRead pa key Policy.plain else s) := rfl

theorem isMain_of_localBacked {pa : Nat} (h : localBacked pa = true) : isMain pa = true := by
  simp only [localBacked, isMain, Bool.or_eq_true, Bool.and_eq_true, decide_eq_true_eq] at h ⊢
  omega

/-- Of the block of a sector read, what was there decides what is there afterwards. -/
theorem mscRead_block {s : State} {key : Nat} {slot : BitVec 10} {p : Policy} {x b : MscBlock} (hmain : isMain key = true)
    (hx : TheBlock (s.mscRead key slot p) x) (hblock : x.block = blockOf key) (hb : s.mscOf (blockOf key) = some b)
    (hk : b.key = slot) :
    (bitOn b.valid (sectorIn key) = true → s.mscRead key slot p = { s with memsys := { s.memsys with
        msc := (s.mscRead key slot p).memsys.msc, channels := (s.mscRead key slot p).memsys.channels,
        lines := (s.mscRead key slot p).memsys.lines } } ∧
      (b.poison = false → (s.mscRead key slot p).memsys.lines = s.memsys.lines)) ∧
    (bitOn b.valid (sectorIn key) = false → x.valid = BitVec.allOnes 16 ∧ x.fetched = true ∧
      ((s.dramOf (blockOf key)).errors = 0 → x.poison = (b.poison || (s.dramOf (blockOf key)).poison))) := by
  refine ⟨mscRead_of_hit p hmain hb hk, fun hv => ?_⟩
  obtain ⟨y, hy, hyblock, hvalid, hfetched, hpoison⟩ := mscRead_fetches p hb hk hv
  have hxy : y = x := hx.2 y hy.1 (hyblock.trans hblock.symm)
  subst hxy
  exact ⟨hvalid, hfetched, hpoison⟩

/-! ## DRAM block reads, corrected write-backs and scrubs (R84, R85, R88) -/

/-- A block in which further bits have become erroneous, as a free number says. -/
def withNewErrors (s : State) (block : Nat) : State :=
  if (s.dramOf block).poison then s.draw.2
  else s.draw.2.setDram { s.dramOf block with errors := (s.dramOf block).errors + s.draw.1 }

theorem dramBlockRead_event {s : State} {block : Nat} (h : localBacked (block * 512) = true) :
    exec (.dramBlockRead block) s = .next ((withNewErrors s block).dramRead block) := by
  show execDramBlockRead block s = _
  unfold execDramBlockRead
  rw [h]
  rfl

theorem withNewErrors_of_poison {s : State} {block : Nat} (h : (s.dramOf block).poison = true) :
    withNewErrors s block = s.draw.2 := by
  unfold withNewErrors
  rw [if_pos h]

theorem withNewErrors_dramOf_other {s : State} {block x : Nat} (h : x ≠ block) :
    (withNewErrors s block).dramOf x = s.dramOf x := by
  unfold withNewErrors
  split
  · rfl
  · rw [dramOf_setDram, if_neg (by simpa using h)]
    rfl

theorem withNewErrors_dramOf {s : State} {block : Nat} (h : (s.dramOf block).poison = false) :
    (withNewErrors s block).dramOf block = { s.dramOf block with errors := (s.dramOf block).errors + s.draw.1 } := by
  unfold withNewErrors
  rw [if_neg (Bool.eq_false_iff.mp h)]
  exact dramOf_setDram_same _ s block _ _

/-- What new errors leave. -/
theorem withNewErrors_frame (s : State) (block : Nat) : withNewErrors s block = { s with
    fresh := s.fresh + 1, memsys := { s.memsys with dram := (withNewErrors s block).memsys.dram } } := by
  unfold withNewErrors
  split <;> rfl

theorem withNewErrors_mem (s : State) (block : Nat) : (withNewErrors s block).mem = s.mem := by rw [withNewErrors_frame]

theorem dramBlockRead_unbacked {s : State} {block : Nat} (h : localBacked (block * 512) = false) :
    exec (.dramBlockRead block) s = .next s := by
  show execDramBlockRead block s = _
  unfold execDramBlockRead
  rw [h]
  rfl

/-- A block whose code finds nothing: its poison bit is set, or no bit is erroneous. -/
theorem blockRead_quiet {s : State} {block : Nat}
    (h : (s.dramOf block).poison = true ∨ (s.dramOf block).errors + s.draw.1 = 0) :
    (withNewErrors s block).dramRead block = withNewErrors s block ∧ ∀ x, (withNewErrors s block).dramOf x = s.dramOf x := by
  by_cases hp : (s.dramOf block).poison = true
  · rw [withNewErrors_of_poison hp]
    exact ⟨dramRead_of_quiet (.inl hp), fun _ => rfl⟩
  · have he : (s.dramOf block).errors + s.draw.1 = 0 := h.resolve_left hp
    have hsame := withNewErrors_dramOf (Bool.eq_false_iff.mpr hp)
    refine ⟨dramRead_of_quiet (.inr (by rw [hsame]; exact he)), fun x => ?_⟩
    by_cases hx : x = block
    · rw [hx, hsame, he, ← Nat.eq_zero_of_add_eq_zero_right he]
    · exact withNewErrors_dramOf_other hx

/-- The outcomes of a block read whose bits have become erroneous (Table 3.3). -/
theorem dramBlockRead_answers {s : State} {block : Nat} (h : localBacked (block * 512) = true) {d : DramBlock} {e : Nat}
    (hd : d = s.dramOf block) (he : e = d.errors + s.draw.1) : Answers (.dramBlockRead block) s (fun u =>
      (d.poison = true ∨ e = 0 → (∀ x, u.dramOf x = s.dramOf x) ∧ u.mem = s.mem ∧ u.memsys.scrubQ = s.memsys.scrubQ) ∧
      (d.poison = false → 0 < e → e ≤ 16 →
        u.memsys.scrubQ = s.memsys.scrubQ ++ [(block, s.now)] ∧ u.dramOf block = { d with errors := e } ∧ u.mem = s.mem) ∧
      (d.poison = false → e = 17 → u.dramOf block = { d with poison := true, errors := 0 } ∧ u.mem = s.mem ∧
        u.host.errors = .uncorrectable block :: s.host.errors) ∧
      (∀ x, x ≠ block → u.dramOf x = s.dramOf x) ∧
      (s.safe → ∀ a, a / 512 ≠ block → Memory.get u.mem a = Memory.get s.mem a)) := by
  subst hd he
  have hframe := withNewErrors_frame s block
  have hmem := withNewErrors_mem s block
  refine ⟨_, dramBlockRead_event h, fun hq => ?_, fun hp h0 h16 => ?_, fun hp h17 => ?_, fun x hx => ?_, fun hs a ha => ?_⟩
  · obtain ⟨hread, hdram⟩ := blockRead_quiet hq
    rw [hread]
    exact ⟨hdram, hmem, by rw [hframe]⟩
  · have hrec := withNewErrors_dramOf hp
    obtain ⟨cs, hread⟩ := dramRead_corrects (s := withNewErrors s block) (block := block)
      (by rw [hrec]; exact hp) (by rw [hrec]; exact h0) (by rw [hrec]; exact h16)
    rw [hread]
    exact ⟨by rw [hframe], hrec, hmem⟩
  · have hrec := withNewErrors_dramOf hp
    obtain ⟨cs, hread⟩ := dramRead_detects (s := withNewErrors s block) (block := block)
      (by rw [hrec]; exact hp) (by rw [hrec]; exact h17)
    rw [hread]
    refine ⟨(dramOf_setDram_same _ (withNewErrors s block) block _ _).trans ?_, hmem, by rw [hframe]⟩
    rw [hrec]
  · rw [dramRead_dramOf_other hx, withNewErrors_dramOf_other hx]
  · have hs' : (withNewErrors s block).safe := by unfold State.safe; rw [hmem]; exact hs
    rw [dramRead_get_other hs' ha, hmem]

theorem correctedWriteback_absent {s : State} {block : Nat} (h : ∀ x ∈ s.memsys.scrubQ, x.1 ≠ block) :
    exec (.correctedWriteback block) s = .next s := by
  show execCorrectedWriteback block s = _
  unfold execCorrectedWriteback
  rw [if_pos (by simpa using h)]
  rfl

/-- A corrected codeword is written back and leaves the queue. -/
theorem correctedWriteback_answers {s : State} {block : Nat} (h : ∃ x ∈ s.memsys.scrubQ, x.1 = block) :
    Answers (.correctedWriteback block) s (fun u =>
      u = { s with memsys := { s.memsys with dram := u.memsys.dram, scrubQ := u.memsys.scrubQ } } ∧
      u.dramOf block = (if (s.dramOf block).poison then s.dramOf block else { s.dramOf block with errors := 0 }) ∧
      u.memsys.scrubQ = s.memsys.scrubQ.filter fun x => x.1 != block) := by
  obtain ⟨y, hy, hyb⟩ := h
  have hqueued : ¬(!(s.memsys.scrubQ.any fun x => x.1 == block)) = true := by
    simpa using ⟨y.2, by rw [← hyb]; exact hy⟩
  refine ⟨_, if_neg hqueued, ?_⟩
  by_cases hp : (s.dramOf block).poison = true
  · rw [if_pos hp, if_pos hp]
    exact ⟨rfl, rfl, rfl⟩
  · rw [if_neg hp, if_neg hp]
    exact ⟨rfl, dramOf_setDram_same _ s block _ _, rfl⟩

/-- One channel's state is replaced: nothing else of the state changes, and no other channel. -/
theorem setChannel_frame (s : State) {ch : Channel} {c : ChannelState} (hc : c.ch = ch) :
    s.setChannel c = { s with memsys := { s.memsys with channels := (s.setChannel c).memsys.channels } } ∧
    (s.setChannel c).channel ch = c ∧ ∀ x, x ≠ ch → (s.setChannel c).channel x = s.channel x := by
  subst hc
  exact ⟨rfl, by rw [channel_setChannel, if_pos rfl], fun x hx => by rw [channel_setChannel, if_neg hx]⟩

/-- How a scrub read leaves its channel. -/
def scrubbedChannel (s : State) (block : Nat) (c : ChannelState) : ChannelState :=
  if block = c.nextScrub then { c with scrubbed := c.scrubbed + 1, lastScrub := s.now } else c

theorem scrubRead_stays {s : State} {block : Nat}
    (h : localBacked (block * 512) = false ∨ s.asleep (channelOf (block * 512)) = true) : exec (.scrubRead block) s = .next s := by
  show execScrubRead block s = _
  unfold execScrubRead
  rw [if_pos]
  · rfl
  · rcases h with h | h
    · rw [h]; rfl
    · exact Bool.or_eq_true_iff.mpr (.inr h)

theorem scrubRead_event {s : State} {block : Nat} (hb : localBacked (block * 512) = true)
    (h : s.asleep (channelOf (block * 512)) = false) : exec (.scrubRead block) s =
      .next ((s.dramRead block).setChannel (scrubbedChannel s block (s.channel (channelOf (block * 512))))) := by
  show execScrubRead block s = _
  unfold execScrubRead
  rw [if_neg]
  · rfl
  · rw [hb]
    exact Bool.eq_false_iff.mp h

theorem scrubbedChannel_ch (s : State) (block : Nat) (c : ChannelState) : (scrubbedChannel s block c).ch = c.ch := by
  unfold scrubbedChannel
  split <;> rfl

/-- What a scrub read finds, and how it counts on its channel; the channel's idle timer goes on (R88, R100). -/
theorem scrubRead_answers {s : State} {block : Nat} {c : ChannelState} {d : DramBlock} (hd : d = s.dramOf block)
    (hc : c = s.channel (channelOf (block * 512))) (hb : localBacked (block * 512) = true) (ha : s.asleep c.ch = false) :
    Answers (.scrubRead block) s (fun u =>
      u.channel c.ch = (if block = c.nextScrub then { c with scrubbed := c.scrubbed + 1, lastScrub := s.now } else c) ∧
      (∀ x, x ≠ c.ch → u.channel x = s.channel x) ∧
      (d.poison = true ∨ d.errors = 0 → u = { s with memsys := { s.memsys with channels := u.memsys.channels } }) ∧
      (d.poison = false → 0 < d.errors → d.errors ≤ 16 →
        u.memsys.scrubQ = s.memsys.scrubQ ++ [(block, s.now)] ∧ u.mem = s.mem ∧ u.memsys.dram = s.memsys.dram) ∧
      (d.poison = false → d.errors = 17 → u.dramOf block = { d with poison := true, errors := 0 } ∧ u.mem = s.mem)) := by
  subst hd
  have hch : c.ch = channelOf (block * 512) := by rw [hc, channel_named]
  obtain ⟨-, hsame, hother⟩ := setChannel_frame (s.dramRead block) (scrubbedChannel_ch s block c)
  refine ⟨_, (scrubRead_event hb (hch ▸ ha)).trans (by rw [← hc]), hsame,
    fun x hx => (hother x hx).trans (dramRead_channel s block x), fun hq => ?_, fun hp h0 h16 => ?_, fun hp h17 => ?_⟩
  · rw [dramRead_of_quiet hq]
    rfl
  · obtain ⟨cs, hread⟩ := dramRead_corrects hp h0 h16
    rw [hread]
    exact ⟨rfl, rfl, rfl⟩
  · obtain ⟨cs, hread⟩ := dramRead_detects hp h17
    rw [hread]
    exact ⟨dramOf_setDram_same s s block true 0, rfl⟩

/-! ## Self-refresh and drowsy banks (R100, R157) -/

theorem selfRefreshEntry_event (ch : Channel) (s : State) : exec (.selfRefreshEntry ch) s =
    .next (if s.asleep ch = false ∧ (s.channel ch).lastRequest.toNat + s.idleLimit ch ≤ s.now.toNat then
      s.setChannel { s.channel ch with selfRefresh := true } else s) := by
  show execSelfRefreshEntry ch s = _
  unfold execSelfRefreshEntry State.asleep
  simp only [Bool.and_eq_true, Bool.not_eq_true', decide_eq_true_eq]
  rfl

theorem selfRefreshExit_event (ch : Channel) (s : State) : exec (.selfRefreshExit ch) s =
    .next (if s.asleep ch = true then s.setChannel { s.channel ch with selfRefresh := false, lastRequest := s.now } else s) :=
  rfl

/-- When a bank was last used; 0 if it has not been since the reset. -/
def lastUse (s : State) (bank : BankId) : Nat := ((s.memsys.bankUse.find? fun x => x.1 == bank).map fun x => x.2.toNat).getD 0

theorem lastUse_of_used {s : State} {bank : BankId} {P : Nat → Prop} (h : ∀ x ∈ s.memsys.bankUse, x.1 = bank → P x.2.toNat)
    (h0 : (∃ x ∈ s.memsys.bankUse, x.1 = bank) ∨ P 0) : P (lastUse s bank) := by
  unfold lastUse
  cases hf : s.memsys.bankUse.find? fun x => x.1 == bank with
  | some x => exact h x (List.mem_of_find?_eq_some hf) (by simpa using List.find?_some hf)
  | none =>
    rcases h0 with ⟨x, hx, hxb⟩ | h0
    · exact absurd hxb (by simpa using List.find?_eq_none.mp hf x hx)
    · exact h0

theorem drowsyBankDrop_event (bank : BankId) (s : State) : exec (.drowsyBankDrop bank) s =
    .next (if 188 * lastUse s bank + 100 * vecAt s.memsys.drowsyPeriod bank.die.val 8192 ≤ 188 * s.now.toNat ∧
        s.memsys.drowsy.contains bank = false then
      { s with memsys := { s.memsys with drowsy := bank :: s.memsys.drowsy } } else s) := by
  have hlast : (match s.memsys.bankUse.find? fun x => x.1 == bank with
      | some x => x.2.toNat
      | none => 0) = lastUse s bank := by
    unfold lastUse
    cases s.memsys.bankUse.find? fun x => x.1 == bank <;> rfl
  show execDrowsyBankDrop bank s = _
  rw [← hlast]
  unfold execDrowsyBankDrop
  simp only [Bool.and_eq_true, Bool.not_eq_true', decide_eq_true_eq]
  rfl

/-! ## Kernel chains (R93 to R95) -/

theorem chainDemote_stays {s : State} {chain : BitVec 12} (h : chain ∉ s.memsys.retired ∨ chain = 0) :
    exec (.chainDemote chain) s = .next s := by
  show execChainDemote chain s = _
  unfold execChainDemote
  rw [if_pos]
  · rfl
  · rcases h with h | h <;> simp [h]

theorem chainDemote_answers {s : State} {chain : BitVec 12} (hr : chain ∈ s.memsys.retired) (h0 : chain ≠ 0) :
    Answers (.chainDemote chain) s (fun u =>
      u = { s with memsys := { s.memsys with demoted := u.memsys.demoted, retired := u.memsys.retired } } ∧
      (∀ c, c ∈ u.memsys.demoted ↔ c ∈ s.memsys.demoted ∨ c = chain) ∧
      ∀ c, c ∈ u.memsys.retired ↔ c ∈ s.memsys.retired ∧ c ≠ chain) := by
  have hgo : ¬(chain == 0 || !s.memsys.retired.contains chain) = true := by
    rw [Bool.or_eq_true, not_or]
    exact ⟨by simpa using h0, by simpa using hr⟩
  refine ⟨_, congrArg happens (if_neg hgo), rfl, fun c => ?_, fun c => ?_⟩
  · dsimp only
    split
    · next hin =>
      have hin' : chain ∈ s.memsys.demoted := by simpa using hin
      exact ⟨.inl, fun h => h.elim id fun e => e ▸ hin'⟩
    · rw [List.mem_cons, or_comm]
  · simp

theorem chainSweep_stays {s : State} {chain : BitVec 12} (h : chain ∉ s.memsys.demoted) :
    exec (.chainSweep chain) s = .next s := by
  show execChainSweep chain s = _
  unfold execChainSweep
  rw [if_pos (by simpa using h)]
  rfl

theorem chainSweep_answers {s : State} {chain : BitVec 12} (h : chain ∈ s.memsys.demoted) :
    Answers (.chainSweep chain) s (fun u =>
      u = { s with memsys := { s.memsys with
        lines := u.memsys.lines, msc := u.memsys.msc, demoted := u.memsys.demoted } } ∧
      u.memsys.lines = s.memsys.lines.map (fun l => if l.chain = chain then { l with chain := 0, prio := .low } else l) ∧
      u.memsys.msc = s.memsys.msc.map (fun b => if b.chain = chain then { b with chain := 0, prio := .low } else b) ∧
      ∀ c, c ∈ u.memsys.demoted ↔ c ∈ s.memsys.demoted ∧ c ≠ chain) := by
  have hgo : ¬(!s.memsys.demoted.contains chain) = true := by simpa using h
  refine ⟨_, if_neg hgo, rfl, ?_, ?_, fun c => ?_⟩
  · simp only [mapIf, beq_iff_eq]
  · simp only [mapIf, beq_iff_eq]
  · simp

/-! ## The loading of a key slot (R99) -/

/-- What names a line in a cache, and the key slot it is held under. -/
def lineTag (l : Line) : Nat × Option (Fin 4) × BitVec 10 := (l.line, l.rdc, l.slot)

/-- The tags of the lines that the caches hold. -/
def lineTags (s : State) : List (Nat × Option (Fin 4) × BitVec 10) := s.memsys.lines.map lineTag

@[simp] theorem keyReady_lines (s : State) (block : Nat) (slot : BitVec 10) :
    (keyReady s block slot).memsys.lines = s.memsys.lines := by
  unfold keyReady
  (repeat' split) <;> simp

@[simp] theorem mscReady_lines (s : State) (block : Nat) (slot : BitVec 10) (p : Policy) :
    (s.mscReady block slot p).memsys.lines = s.memsys.lines := by
  rcases mscReady_cases s block slot p with h | ⟨-, v, h⟩ <;> simp [h]

@[simp] theorem readPoisoned_lineTags (s : State) (block : Nat) : lineTags (s.readPoisoned block) = lineTags s :=
  map_mapIf _ _ fun _ => rfl

theorem setMsc_lineTags (s : State) (b : MscBlock) : lineTags (s.setMsc b) = lineTags s := rfl

theorem mscEvict_lineTags (s : State) (block : Nat) : lineTags (s.mscEvict block) = lineTags s :=
  congrArg (List.map lineTag) (mscEvict_lines s block)

/-- A request at the MSC brings no line in, nor takes one out. -/
theorem mscRead_lineTags (s : State) (key : Nat) (slot : BitVec 10) (p : Policy) :
    lineTags (s.mscRead key slot p) = lineTags s := by
  have hstep : ∀ t : State, t.memsys.lines = s.memsys.lines →
      lineTags (if t.poisoned key then t.readPoisoned (blockOf key) else t) = lineTags s := fun t ht => by
    have htags : lineTags t = lineTags s := congrArg (List.map lineTag) ht
    split
    · rw [readPoisoned_lineTags, htags]
    · exact htags
  have h0 : ((s.mscReady (blockOf key) slot p).useChannel key).memsys.lines = s.memsys.lines := mscReady_lines s _ slot p
  unfold State.mscRead
  refine hstep _ ?_
  split
  · split
    · exact h0
    · exact (dramRead_lines _ _).trans h0
  · split
    · exact (dramRead_lines _ _).trans h0
    · exact (dramRead_lines _ _).trans h0

theorem mscWrite_lineTags (s : State) (key : Nat) (slot : BitVec 10) (p : Policy) (whole counts : Bool) :
    lineTags (s.mscWrite key slot p whole counts) = lineTags s := by
  have h0 : lineTags (if whole = true then s else s.mscRead key slot p) = lineTags s := by
    split
    · rfl
    · exact mscRead_lineTags s key slot p
  unfold State.mscWrite
  generalize (if whole = true then s else s.mscRead key slot p) = s0 at h0 ⊢
  have h1 : lineTags ((s0.mscReady (blockOf key) slot p).useChannel key) = lineTags s :=
    (congrArg (List.map lineTag) (mscReady_lines s0 (blockOf key) slot p)).trans h0
  dsimp only
  split
  · rw [mscEvict_lineTags, setMsc_lineTags, h1]
  · rw [setMsc_lineTags, h1]

theorem drainLine_lineTags (s : State) (l : Line) : lineTags (s.drainLine l) = lineTags s := by
  refine List.foldlRecOn (motive := fun t => lineTags t = lineTags s) _ _ rfl fun t ht i _ => ?_
  unfold State.drainSector
  dsimp only
  split
  · exact ht
  · refine (map_mapIf _ _ ?_).trans ((mscWrite_lineTags t _ _ _ _ _).trans ht)
    exact fun _ => rfl

/-- One line leaves its cache. -/
theorem evictLine_lineTags (s : State) (l : Line) :
    lineTags (s.evictLine l) = (lineTags s).filter fun x => !(x.1 == l.line && x.2.1 == l.rdc) := by
  have h1 : lineTags (if l.rdc.isNone = true then s.drainLine l else s) = lineTags s := by
    split
    · exact drainLine_lineTags s l
    · rfl
  rw [← h1]
  unfold lineTags
  rw [List.filter_map]
  rfl

theorem mem_lineTags_evictLines (ls : List Line) (s : State) (x : Nat × Option (Fin 4) × BitVec 10) :
    x ∈ lineTags (ls.foldl (fun t l => t.evictLine l) s) ↔ x ∈ lineTags s ∧ ∀ l ∈ ls, ¬(x.1 = l.line ∧ x.2.1 = l.rdc) := by
  induction ls generalizing s with
  | nil => simp
  | cons l ls ih =>
    rw [List.foldl_cons, ih, evictLine_lineTags, List.mem_filter, List.forall_mem_cons, and_assoc, Bool.not_eq_true',
      Bool.and_eq_false_iff, beq_eq_false_iff_ne, beq_eq_false_iff_ne, not_and_or]

theorem mem_msc_evictBlocks (bs : List Nat) (s : State) (x : MscBlock) :
    x ∈ (bs.foldl (fun t b => t.mscEvict b) s).memsys.msc ↔ x ∈ s.memsys.msc ∧ x.block ∉ bs := by
  induction bs generalizing s with
  | nil => simp
  | cons b bs ih =>
    rw [List.foldl_cons, ih, mem_mscEvict, List.mem_cons, not_or, and_assoc]

theorem evictBlocks_lines (bs : List Nat) (s : State) :
    (bs.foldl (fun t b => t.mscEvict b) s).memsys.lines = s.memsys.lines :=
  List.foldlRecOn (motive := fun t => t.memsys.lines = s.memsys.lines) bs _ rfl fun t ht b _ => (mscEvict_lines t b).trans ht

/-- The caches without what is held under a key slot. -/
def slotCleared (s : State) (slot : BitVec 10) : State :=
  let t := (s.memsys.lines.filter fun l => l.slot == slot).foldl (fun t l => t.evictLine l) s
  ((t.memsys.msc.filter fun b => b.key == slot).map fun b => b.block).foldl (fun t b => t.mscEvict b) t

theorem slotCleared_served (s : State) (slot : BitVec 10) : Served s (slotCleared s slot) :=
  .trans (.foldl evictLine_served _ s) (.foldl mscEvict_served _ _)

theorem slotCleared_msc (s : State) (slot : BitVec 10) : ∀ b ∈ (slotCleared s slot).memsys.msc, b.key ≠ slot := by
  intro b hb hk
  obtain ⟨hmem, hkept⟩ := (mem_msc_evictBlocks _ _ b).mp hb
  exact hkept (List.mem_map.mpr ⟨b, List.mem_filter.mpr ⟨hmem, beq_iff_eq.mpr hk⟩, rfl⟩)

theorem slotCleared_lines (s : State) (slot : BitVec 10) : ∀ l ∈ (slotCleared s slot).memsys.lines, l.slot ≠ slot := by
  intro l hl hs
  have htag : lineTag l ∈ lineTags (slotCleared s slot) := List.mem_map.mpr ⟨l, hl, rfl⟩
  unfold slotCleared lineTags at htag
  dsimp only at htag
  rw [evictBlocks_lines] at htag
  obtain ⟨hmem, hkept⟩ := (mem_lineTags_evictLines _ s (lineTag l)).mp htag
  obtain ⟨m, hm, hml⟩ := List.mem_map.mp hmem
  obtain ⟨hline, hrdc, hslot⟩ : m.line = l.line ∧ m.rdc = l.rdc ∧ m.slot = l.slot := by simpa [lineTag] using hml
  exact hkept m (List.mem_filter.mpr ⟨hm, beq_iff_eq.mpr (hslot.trans hs)⟩) ⟨hline.symm, hrdc.symm⟩

theorem slotCleared_of_absent {s : State} {slot : BitVec 10} (hb : ∀ b ∈ s.memsys.msc, b.key ≠ slot)
    (hl : ∀ l ∈ s.memsys.lines, l.slot ≠ slot) : slotCleared s slot = s := by
  have hlines : s.memsys.lines.filter (fun l => l.slot == slot) = [] := List.filter_eq_nil_iff.mpr fun l hm => by simpa using hl l hm
  have hblocks : s.memsys.msc.filter (fun b => b.key == slot) = [] := List.filter_eq_nil_iff.mpr fun b hm => by simpa using hb b hm
  simp [slotCleared, hlines, hblocks]

/-- A key slot that holds a key pair, or none. -/
def withKey (s : State) (slot : BitVec 10) (keys : Option (BitVec 512)) : State :=
  { s with memsys := { s.memsys with
    keys := (match keys with
      | some k => (slot, k) :: s.memsys.keys.filter fun p => p.1 != slot
      | none => s.memsys.keys.filter fun p => p.1 != slot) } }

theorem keySlotLoad_event (slot : BitVec 10) (keys : Option (BitVec 512)) (s : State) :
    exec (.keySlotLoad slot keys) s = .next (withKey (slotCleared s slot) slot keys) := rfl

theorem keyOf_withKey_same (s : State) (slot : BitVec 10) (keys : Option (BitVec 512)) :
    (withKey s slot keys).keyOf slot = keys := by
  have hnone := find?_filter_eq_none (p := fun p : BitVec 10 × BitVec 512 => p.1 = slot) (q := fun p => p.1 != slot)
    s.memsys.keys fun p hp => by simpa using hp
  unfold State.keyOf withKey
  cases keys with
  | some k => simp
  | none => simp only [hnone]

theorem keyOf_withKey_other (s : State) {slot x : BitVec 10} (keys : Option (BitVec 512)) (h : x ≠ slot) :
    (withKey s slot keys).keyOf x = s.keyOf x := by
  have hrest := find?_filter_of_imp (p := fun p : BitVec 10 × BitVec 512 => p.1 = x) (q := fun p => p.1 != slot)
    s.memsys.keys fun p hp => by simpa using (of_decide_eq_true hp).trans_ne h
  have hne : ¬slot = x := fun e => h e.symm
  unfold State.keyOf withKey
  cases keys <;> simp only [List.find?_cons, hne, decide_false, hrest]

/-- What was held under the slot leaves the caches, and the slot is replaced. -/
theorem keySlotLoad_answers (s : State) (slot : BitVec 10) (keys : Option (BitVec 512)) :
    Answers (.keySlotLoad slot keys) s (fun u => u.keyOf slot = keys ∧ (∀ b ∈ u.memsys.msc, b.key ≠ slot) ∧
      (∀ x, x ≠ slot → u.keyOf x = s.keyOf x) ∧ u.sp = s.sp ∧ u.grp = s.grp ∧ (∀ l ∈ u.memsys.lines, l.slot ≠ slot) ∧
      ((∀ b ∈ s.memsys.msc, b.key ≠ slot) → (∀ l ∈ s.memsys.lines, l.slot ≠ slot) →
        u = { s with memsys := { s.memsys with keys := u.memsys.keys } })) := by
  have hserved := slotCleared_served s slot
  refine ⟨_, keySlotLoad_event slot keys s, keyOf_withKey_same _ slot keys, slotCleared_msc s slot, fun x hx => ?_, ?_, ?_,
    slotCleared_lines s slot, fun hb hl => ?_⟩
  · rw [keyOf_withKey_other _ keys hx]
    unfold State.keyOf
    rw [hserved.keys]
  · show (slotCleared s slot).sp = s.sp
    rw [hserved.frame]
  · show (slotCleared s slot).grp = s.grp
    rw [hserved.frame]
  · rw [slotCleared_of_absent hb hl]
    rfl

/-- Settles O45, event by event. -/
theorem cachesDramPowerAndKeys : Obligations.CachesDramPowerAndKeys := by
  constructor
  · intro s pa block key b d e c hd hc he
    have hch : c.ch = channelOf (block * 512) := by rw [hc, channel_named]
    refine ⟨fun h => ?_, fun h => ?_, fun h => ?_, ?_, fun h => dramBlockRead_answers h hd he,
      fun h => ⟨dramBlockRead_unbacked h, scrubRead_stays (.inl h)⟩, correctedWriteback_absent,
      hd ▸ correctedWriteback_answers, fun h => scrubRead_stays (.inr (hch ▸ h)), scrubRead_answers hd hc⟩
    · obtain ⟨x, hx, hblock, hvalid, hdirty, hkey⟩ := mscWrite_holds s pa key (p := Policy.plain) rfl
      exact ⟨_, mscSectorWrite_event.trans (by rw [if_pos h]), x, hx.1, hblock, hvalid, hdirty, hkey, hx.2,
        fun b hb hk => mscWrite_of_hit rfl hb hk⟩
    · have hno : ¬localBacked pa = true := Bool.eq_false_iff.mp h
      exact ⟨mscSectorWrite_event.trans (by rw [if_neg hno]), mscSectorRead_event.trans (by rw [if_neg hno])⟩
    · obtain ⟨x, hx, hblock, hvalid, hkey⟩ := mscRead_holds s pa key (p := Policy.plain) rfl
      exact ⟨_, mscSectorRead_event.trans (by rw [if_pos h]), x, hx.1, hblock, hvalid, hkey, hx.2,
        fun b hb hk => mscRead_block (isMain_of_localBacked h) hx hblock hb hk⟩
    · subst hd
      exact ⟨s.mscEvict block, rfl, fun x hx => (mem_mscEvict.mp hx).2, fun x hx hne => mem_mscEvict.mpr ⟨hx, hne⟩,
        mscEvict_of_dirty, fun h => mscEvict_of_clean (h.imp_right fun hb => ⟨b, hb⟩)⟩
  · intro s ch last bank chain slot keys die period hlast hperiod
    subst hlast hperiod
    refine ⟨fun ha hi => ?_, fun h => ?_, fun ha => ?_, fun ha => ?_, fun hu h0 hd => ?_, fun hu hx => ?_, chainDemote_answers,
      chainDemote_stays, chainSweep_stays, fun h _ => chainSweep_answers h, keySlotLoad_answers s slot keys,
      ⟨_, rfl, rfl, counterOf_count_same, fun c => counterOf_count_other s⟩⟩
    · exact ⟨_, (selfRefreshEntry_event ch s).trans (by rw [if_pos ⟨ha, hi⟩]), setChannel_frame s (channel_named s ch)⟩
    · rw [selfRefreshEntry_event, if_neg]
      rintro ⟨ha, hi⟩
      rcases h with h | h
      · rw [ha] at h; cases h
      · omega
    · exact ⟨_, (selfRefreshExit_event ch s).trans (by rw [if_pos ha]), setChannel_frame s (channel_named s ch)⟩
    · rw [selfRefreshExit_event, if_neg (by simp [ha])]
    · refine ⟨_, (drowsyBankDrop_event bank s).trans (by rw [if_pos ⟨?_, hd⟩]), rfl⟩
      exact lastUse_of_used (P := fun n => 188 * n + 100 * vecAt s.memsys.drowsyPeriod bank.die.val 8192 ≤ 188 * s.now.toNat)
        hu (.inr (by simpa using h0))
    · have hlate := lastUse_of_used
        (P := fun n => 188 * s.now.toNat < 188 * n + 100 * vecAt s.memsys.drowsyPeriod bank.die.val 8192) hu (.inl hx)
      rw [drowsyBankDrop_event, if_neg fun h => absurd h.1 (by omega)]

end Sys2Proof.Laws

end

section
/-! # What writes at a home change, and what requests enter in the error log and the counters

Of all that a request does in the caches, only a codeword read from DRAM adds to the error log and advances counters, those
of corrected and uncorrectable codewords (Table 3.3). `Logs` has one rule for each function of `Machine/Home`, as `Served`. -/

namespace Sys2Proof.Laws

open Sys2Proof Sys2Proof.Machine

/-- Does a codeword read from DRAM advance this counter? -/
def ofCodewords (c : Counter) : Bool :=
  match c with
  | .corrected _ | .uncorrected _ => true
  | .sram _ | .drains _ _ | .girth _ | .hitch _ | .unseats | .throttle _ | .temperature _ _ | .voltage _ _ => false

/-- From s to t the error log has lost nothing, and every counter but those of codewords stands as it was. -/
structure Logs (s t : State) : Prop where
  errors : ∀ e ∈ s.host.errors, e ∈ t.host.errors
  counters : ∀ c, ofCodewords c = false → t.counterOf c = s.counterOf c

theorem Logs.of_host {s t : State} (h : t.host = s.host) : Logs s t := by
  refine ⟨fun e he => by rw [h]; exact he, fun c _ => ?_⟩
  unfold State.counterOf
  rw [h]

theorem Logs.refl (s : State) : Logs s s := .of_host rfl

theorem Logs.trans {s t u : State} (h : Logs s t) (k : Logs t u) : Logs s u :=
  ⟨fun e he => k.errors e (h.errors e he), fun c hc => (k.counters c hc).trans (h.counters c hc)⟩

theorem Logs.ite {c : Prop} [Decidable c] {s t u : State} (h : Logs s t) (k : Logs s u) : Logs s (if c then t else u) := by
  split <;> assumption

theorem Logs.foldl {α : Type} {f : State → α → State} (h : ∀ t x, Logs t (f t x)) (l : List α) (s : State) :
    Logs s (l.foldl f s) :=
  List.foldlRecOn l f (Logs.refl s) fun t ht x _ => ht.trans (h t x)

theorem count_logs (s : State) {c : Counter} (h : ofCodewords c = true) : Logs s (s.count c) :=
  ⟨fun _ he => he, fun d hd => counterOf_count_other s fun e => by rw [e, h] at hd; cases hd⟩

theorem logError_logs (s : State) (e : ErrorEntry) : Logs s (s.logError e) :=
  ⟨fun _ he => List.mem_cons_of_mem _ he, fun _ _ => rfl⟩

/-! ## The memory-side cache -/

theorem draw_logs (s : State) : Logs s s.draw.2 := .of_host rfl

theorem setDram_logs (s : State) (d : DramBlock) : Logs s (s.setDram d) := .of_host rfl

theorem setMsc_logs (s : State) (b : MscBlock) : Logs s (s.setMsc b) := .of_host rfl

theorem useChannel_logs (s : State) (pa : Nat) : Logs s (s.useChannel pa) := .of_host rfl

theorem readPoisoned_logs (s : State) (block : Nat) : Logs s (s.readPoisoned block) := .of_host rfl

theorem memsys_logs (s : State) (m : MemSys) : Logs s { s with memsys := m } := .of_host rfl

theorem dramRead_logs (s : State) (block : Nat) : Logs s (s.dramRead block) := by
  have corrected : ∀ (t : State) (i : Fin 9) (m : MemSys), Logs s t → Logs s { t.count (.corrected i) with memsys := m } :=
    fun t i m h => (h.trans (count_logs t rfl)).trans (memsys_logs _ m)
  have detected : ∀ (t : State) (d : DramBlock) (i : Fin 9) (e : ErrorEntry), Logs s t →
      Logs s (((t.setDram d).count (.uncorrected i)).logError e) := fun t d i e h =>
    ((h.trans (setDram_logs t d)).trans (count_logs _ rfl)).trans (logError_logs _ e)
  unfold State.dramRead
  dsimp only
  refine .ite (.refl s) (.ite (corrected s _ _ (.refl s)) (.ite (detected s _ _ _ (.refl s)) ?_))
  split
  · exact detected _ _ _ _ (draw_logs s)
  · exact corrected _ _ _ (draw_logs s)
  · exact .of_host rfl

theorem mscWriteback_logs (s : State) (block : Nat) : Logs s (s.mscWriteback block) := by
  rcases mscWriteback_cases s block with h | ⟨b, bad, -, h⟩
  · rw [h]; exact .refl s
  · rw [h]
    have hfetch : Logs s (completed s block b) := .ite (.refl s) (dramRead_logs s block)
    exact ((hfetch.trans (setMsc_logs _ _)).trans (setDram_logs _ _)).trans (useChannel_logs _ _)

theorem mscEvict_logs (s : State) (block : Nat) : Logs s (s.mscEvict block) :=
  (mscWriteback_logs s block).trans (memsys_logs _ _)

theorem keyReady_logs (s : State) (block : Nat) (slot : BitVec 10) : Logs s (keyReady s block slot) := by
  unfold keyReady
  split
  · exact .ite (.refl s) (mscEvict_logs s block)
  · exact .refl s

theorem mscReady_logs (s : State) (block : Nat) (slot : BitVec 10) (p : Policy) : Logs s (s.mscReady block slot p) := by
  have hkey := keyReady_logs s block slot
  rcases mscReady_cases s block slot p with h | ⟨-, v, h⟩
  · rw [h]; exact hkey
  · rw [h]; exact hkey.trans (mscEvict_logs _ v)

theorem mscFill_logs (s : State) (b : MscBlock) (p : Policy) : Logs s (s.mscFill b p) :=
  (dramRead_logs s b.block).trans (setMsc_logs _ _)

theorem mscRead_logs (s : State) (key : Nat) (slot : BitVec 10) (p : Policy) : Logs s (s.mscRead key slot p) := by
  have hready := (mscReady_logs s (blockOf key) slot p).trans (useChannel_logs _ key)
  have hpoison : ∀ t : State, Logs s t → Logs s (if t.poisoned key then t.readPoisoned (blockOf key) else t) := fun t h =>
    .ite (h.trans (readPoisoned_logs t _)) h
  unfold State.mscRead
  refine hpoison _ ?_
  split
  · exact .ite (hready.trans (setMsc_logs _ _)) (hready.trans (mscFill_logs _ _ _))
  · exact .ite (hready.trans (dramRead_logs _ _)) (hready.trans (mscFill_logs _ _ _))

theorem mscWrite_logs (s : State) (key : Nat) (slot : BitVec 10) (p : Policy) (whole counts : Bool) :
    Logs s (s.mscWrite key slot p whole counts) := by
  have hread : Logs s (if whole = true then s else s.mscRead key slot p) := .ite (.refl s) (mscRead_logs s key slot p)
  have hready := (hread.trans (mscReady_logs _ (blockOf key) slot p)).trans (useChannel_logs _ key)
  exact .ite ((hready.trans (setMsc_logs _ _)).trans (mscEvict_logs _ _)) (hready.trans (setMsc_logs _ _))

/-! ## Lines of the L2 slices and the RDCs -/

theorem drainSector_logs (s : State) (l : Line) (sec : Nat) : Logs s (s.drainSector l sec) :=
  .ite (.refl s) ((mscWrite_logs s _ _ _ _ _).trans (memsys_logs _ _))

theorem evictLine_logs (s : State) (l : Line) : Logs s (s.evictLine l) :=
  .trans (.ite (.foldl (fun t i => drainSector_logs t l i) _ s) (.refl s)) (memsys_logs _ _)

theorem useBank_logs (s : State) (line : Nat) (rdc : Option (Fin 4)) : Logs s (s.useBank line rdc) := .of_host rfl

theorem setSharers_logs (s : State) (x : Sharers) : Logs s (s.setSharers x) := .of_host rfl

theorem lineReady_logs (s : State) (line : Nat) (rdc : Option (Fin 4)) (slot : BitVec 10) :
    Logs s (s.lineReady line rdc slot) := by
  unfold State.lineReady
  split
  · exact .ite (.refl s) (evictLine_logs s _)
  · exact .refl s

theorem touchLine_logs (s : State) (line : Nat) (rdc : Option (Fin 4)) (slot : BitVec 10) (p : Policy) (valid : BitVec 4)
    (dirty : BitVec 128) : Logs s (s.touchLine line rdc slot p valid dirty) := by
  have hready := lineReady_logs s line rdc slot
  unfold State.touchLine
  dsimp only
  split
  · exact hready.trans (memsys_logs _ _)
  · refine .ite hready ?_
    split
    · exact (hready.trans (evictLine_logs _ _)).trans (memsys_logs _ _)
    · exact hready.trans (memsys_logs _ _)

/-! ## Requests at a home -/

theorem readAtHome_logs (s : State) (pa : Nat) (slot : BitVec 10) (p : Policy) : Logs s (s.readAtHome pa slot p) := by
  have hready := lineReady_logs s (lineOf pa) none slot
  have hheld : Logs s (if ((s.lineReady (lineOf pa) none slot).holdsSector (lineOf pa) none (pa / 32 % 4) &&
      !p.uncached) = true then s.lineReady (lineOf pa) none slot else (s.lineReady (lineOf pa) none slot).mscRead pa slot p) :=
    .ite hready (hready.trans (mscRead_logs _ pa slot p))
  have htouched := hheld.trans (touchLine_logs _ (lineOf pa) none slot p (sectorBit (pa / 32 % 4)) 0)
  exact .ite (mscRead_logs s pa slot p) (.ite (htouched.trans (useBank_logs _ _ _)) htouched)

theorem cacheRead_logs (s : State) (die : Option (Fin 4)) (key : Nat) (slot : BitVec 10) (p : Policy) :
    Logs s (s.cacheRead die key slot p) := by
  unfold State.cacheRead
  refine .ite (.refl s) ?_
  dsimp only
  split
  · exact readAtHome_logs s _ slot p
  · next d =>
    have hready := lineReady_logs s (lineOf (s.canonPa key)) (some d) slot
    have hfilled := (hready.trans (readAtHome_logs _ (s.canonPa key) slot p)).trans
      (touchLine_logs _ (lineOf (s.canonPa key)) (some d) slot p (sectorBit (s.canonPa key / 32 % 4)) 0)
    exact .ite (readAtHome_logs s _ slot p) (.ite ((hready.trans (touchLine_logs _ _ _ _ _ _ _)).trans (useBank_logs _ _ _))
      (.ite ((hfilled.trans (useBank_logs _ _ _)).trans (setSharers_logs _ _)) hfilled))

theorem writeAtHome_logs (s : State) (pa : Nat) (mask : BitVec 32) (slot : BitVec 10) (p : Policy) :
    Logs s (s.writeAtHome pa mask slot p) := by
  have htouched := touchLine_logs s (lineOf pa) none slot p
    (if (mask == BitVec.allOnes 32) = true then sectorBit (pa / 32 % 4) else 0)
    (BitVec.ofNat 128 (mask.toNat * 2 ^ (32 * (pa / 32 % 4))))
  unfold State.writeAtHome
  refine .ite (mscWrite_logs s _ _ _ _ _) ?_
  dsimp only
  split
  · exact htouched.trans (mscWrite_logs _ _ _ _ _ _)
  · have hused := htouched.trans (useBank_logs _ (lineOf pa) none)
    exact .ite (hused.trans (drainSector_logs _ _ _)) hused

theorem cacheWrite_logs (s : State) (sec : Nat) (mask : BitVec 32) (slot : BitVec 10) (p : Policy) :
    Logs s (s.cacheWrite sec mask slot p) := by
  have hclean : ∀ (t : State) (block : Nat), Logs t (t.cleanRewritten block) := fun t block =>
    .ite ((setDram_logs t _).trans (memsys_logs _ _)) (.refl t)
  exact .ite (.refl s) (((writeAtHome_logs s _ mask slot p).trans (hclean _ _)).trans (setSharers_logs _ _))

/-! ## Writes of the host and of the device's own records -/

@[simp] theorem rekey_host (s : State) (slot : BitVec 10) (block : Nat) : (s.rekey slot block).host = s.host := by
  unfold State.rekey
  split
  · rfl
  · dsimp only
    split <;> rfl

@[simp] theorem writeKey_host (s : State) (slot : BitVec 10) (a : Nat) (bs : List Byte) : (s.writeKey slot a bs).host = s.host := by
  unfold State.writeKey
  dsimp only
  split
  · exact rekey_host s slot _
  · rfl

@[simp] theorem evalMonitors_host (s : State) (key n : Nat) : (s.evalMonitors key n).host = s.host := by
  unfold State.evalMonitors
  split <;> rfl

theorem cleanSector_logs (s : State) (sec : Nat) (mask : BitVec 32) : Logs s (s.cleanSector sec mask) :=
  .ite (.refl s) (memsys_logs s _)

theorem writtenThrough_logs (s : State) (key n : Nat) (slot : BitVec 10) (p : Policy) :
    Logs s (writtenThrough s key n slot p) := by
  unfold writtenThrough
  refine .foldl (fun t x => ?_) _ s
  exact (cacheWrite_logs t x.1 x.2 slot p).trans (cleanSector_logs (t.cacheWrite x.1 x.2 slot p) x.1 x.2)

theorem homeWrite_logs (s : State) (key : Nat) (bs : List Byte) (slot : BitVec 10) (p : Policy) :
    Logs s (s.homeWrite key bs slot p) := by
  rw [homeWrite_eq]
  exact (writtenThrough_logs s key bs.length slot p).trans (.of_host (by rw [evalMonitors_host, writeKey_host]))

/-! ## What a write at a home leaves unchanged (R92) -/

/-- From s to t something has been written: nothing changes but memory and its caches, the monitors, and what codewords
enter in the error log and the counters. -/
def Written (s t : State) : Prop := t = { s with
  mem := t.mem, fresh := t.fresh, memsys := t.memsys, monitors := t.monitors,
  host := { s.host with errors := t.host.errors, counters := t.host.counters } }

theorem Written.refl (s : State) : Written s s := rfl

theorem Written.trans {s t u : State} (h : Written s t) (k : Written t u) : Written s u := by
  unfold Written at *
  rw [k, h]

theorem Written.ite {c : Prop} [Decidable c] {s t u : State} (h : Written s t) (k : Written s u) :
    Written s (if c then t else u) := by
  split <;> assumption

theorem Written.foldl {α : Type} {f : State → α → State} (h : ∀ t x, Written t (f t x)) (l : List α) (s : State) :
    Written s (l.foldl f s) :=
  List.foldlRecOn l f (Written.refl s) fun t ht x _ => ht.trans (h t x)

theorem Served.written {s t : State} (h : Served s t) : Written s t := by
  unfold Written
  rw [h.frame]

theorem cleanSector_written (s : State) (sec : Nat) (mask : BitVec 32) : Written s (s.cleanSector sec mask) :=
  .ite (.refl s) rfl

theorem mem_written (s : State) (m : Memory) : Written s { s with mem := m } := rfl

theorem setDram_written (s : State) (d : DramBlock) : Written s (s.setDram d) := rfl

theorem rekey_written (s : State) (slot : BitVec 10) (block : Nat) : Written s (s.rekey slot block) := by
  unfold State.rekey
  split
  · rfl
  · exact .trans (.ite (mem_written s _) (.refl s)) (setDram_written _ _)

theorem writeKey_written (s : State) (slot : BitVec 10) (a : Nat) (bs : List Byte) : Written s (s.writeKey slot a bs) :=
  .trans (.ite (rekey_written s slot (blockOf a)) (.refl s)) (mem_written _ _)

theorem evalMonitors_written (s : State) (key n : Nat) : Written s (s.evalMonitors key n) := .ite (.refl s) rfl

theorem writtenThrough_written (s : State) (key n : Nat) (slot : BitVec 10) (p : Policy) :
    Written s (writtenThrough s key n slot p) := by
  unfold writtenThrough
  refine .foldl (fun t x => ?_) _ s
  exact (cacheWrite_served t x.1 x.2 slot p).written.trans (cleanSector_written (t.cacheWrite x.1 x.2 slot p) x.1 x.2)

theorem homeWrite_written (s : State) (key : Nat) (bs : List Byte) (slot : BitVec 10) (p : Policy) :
    Written s (s.homeWrite key bs slot p) := by
  rw [homeWrite_eq]
  exact ((writtenThrough_written s key bs.length slot p).trans (writeKey_written _ slot key bs)).trans (evalMonitors_written _ _ _)

theorem homeSector_written (s : State) (sec : Nat) (mask : BitVec 32) (bs : List Byte) (slot : BitVec 10) (p : Policy) :
    Written s (s.homeSector sec mask bs slot p) :=
  ((cacheWrite_served s sec mask slot p).written.trans (cleanSector_written _ sec mask)).trans (writeKey_written _ slot _ bs)

/-! ## What a write at a home puts in memory (R96) -/

/-- In a block of the slot's material a write puts down its bytes, and nothing else. -/
theorem writeKey_mem {s : State} {slot : BitVec 10} {a : Nat} (bs : List Byte)
    (hk : s.otherKey (s.keyFor slot a) (blockOf a) = none) : (s.writeKey slot a bs).mem = Memory.put s.mem a bs := by
  have hm : (if isMain a then s.rekey slot (blockOf a) else s).mem = s.mem := by
    split
    · exact rekey_mem_of_same (by rw [keyFor_block]; exact hk)
    · rfl
  unfold State.writeKey
  dsimp only
  rw [hm]

theorem SameBytes.writeKey_mem {s t : State} (h : SameBytes s t) (hf : FewErrors s) {slot : BitVec 10} {a : Nat} (bs : List Byte)
    (hk : s.otherKey (s.keyFor slot a) (blockOf a) = none) : (t.writeKey slot a bs).mem = Memory.put s.mem a bs := by
  rw [Laws.writeKey_mem bs (by rw [h.keyFor, h.otherKey]; exact hk), (h.few hf).2]

theorem homeWrite_mem {s : State} (hf : FewErrors s) {slot : BitVec 10} {key : Nat} (bs : List Byte) (p : Policy)
    (hk : s.otherKey (s.keyFor slot key) (blockOf key) = none) :
    (s.homeWrite key bs slot p).mem = Memory.put s.mem key bs := by
  rw [homeWrite_eq, evalMonitors_mem]
  exact (writtenThrough_sameBytes s key bs.length slot p).writeKey_mem hf bs hk

theorem homeSector_mem {s : State} (hf : FewErrors s) {slot : BitVec 10} {sec : Nat} (mask : BitVec 32) (bs : List Byte) (p : Policy)
    (hk : s.otherKey (s.keyFor slot (sec * 32)) (blockOf (sec * 32)) = none) :
    (s.homeSector sec mask bs slot p).mem = Memory.put s.mem (sec * 32) bs :=
  ((cacheWrite_served s sec mask slot p).toSameBytes.trans (cleanSector_sameBytes _ sec mask)).writeKey_mem hf bs hk

end Sys2Proof.Laws

end

section
/-! # Traffic between the host and the device (O51) -/

namespace Sys2Proof.Laws

open Sys2Proof Sys2Proof.Machine

/-! ## Packets of a write (R130) -/

/-- The pieces of a range along 128-byte boundaries, put together again, are the range. -/
theorem flatMap_packetsOf {α : Type} (f : Nat → α) (fuel pa off n : Nat) (h : n = 0 ∨ n + (pa + off) % 128 ≤ 128 * fuel) :
    (packetsOf fuel pa off n).flatMap (fun c => (List.range c.2).map fun i => f (pa + c.1 + i)) =
      (List.range n).map fun i => f (pa + off + i) := by
  induction fuel generalizing off n with
  | zero =>
    obtain rfl : n = 0 := by omega
    rfl
  | succ k ih =>
    unfold packetsOf
    by_cases hn : n = 0
    · subst hn
      rfl
    · obtain ⟨m, hm⟩ : ∃ m, m = min n (128 - (pa + off) % 128) := ⟨_, rfl⟩
      have hcut : m = n ∨ m = 128 - (pa + off) % 128 ∧ m ≤ n := by omega
      have hrest := ih (off + m) (n - m) (by omega)
      obtain ⟨r, rfl⟩ := Nat.exists_eq_add_of_le (show m ≤ n by omega)
      rw [Nat.add_sub_cancel_left] at hrest
      rw [← hm]
      simp only [if_neg hn, List.flatMap_cons, Nat.add_sub_cancel_left, hrest, List.range_add, List.map_append, List.map_map]
      congr 1
      exact List.map_congr_left fun i _ => congrArg f (by dsimp only [Function.comp]; omega)

theorem packetsOf_fuel (pa n : Nat) : n = 0 ∨ n + (pa + 0) % 128 ≤ 128 * (n / 128 + 2) := by omega

/-! ## Lines read by the host (R131, R152) -/

/-- From s to t the host has read lines: nothing has changed but what the caches hold, and memory reads the same. -/
structure LinesRead (s t : State) : Prop extends SameBytes s t, Logs s t where
  frame : t = { s with
    mem := t.mem, fresh := t.fresh, memsys := t.memsys,
    host := { s.host with errors := t.host.errors, counters := t.host.counters } }

theorem LinesRead.refl (s : State) : LinesRead s s := ⟨.refl s, .refl s, rfl⟩

theorem LinesRead.trans {s t u : State} (h : LinesRead s t) (k : LinesRead t u) : LinesRead s u :=
  ⟨h.toSameBytes.trans k.toSameBytes, h.toLogs.trans k.toLogs, by rw [k.frame, h.frame]⟩

theorem LinesRead.foldl {α : Type} {f : State → α → State} (h : ∀ t x, LinesRead t (f t x)) (l : List α) (s : State) :
    LinesRead s (l.foldl f s) :=
  List.foldlRecOn l f (LinesRead.refl s) fun t ht x _ => ht.trans (h t x)

theorem cacheRead_read (s : State) (die : Option (Fin 4)) (key : Nat) (slot : BitVec 10) (p : Policy) :
    LinesRead s (s.cacheRead die key slot p) := by
  have h := cacheRead_served s die key slot p
  exact ⟨h.toSameBytes, cacheRead_logs s die key slot p, by rw [h.frame]⟩

/-- A line that the read-prefetch buffer takes. -/
theorem prefetched_read (s : State) (lines : List Nat) (line n : Nat) :
    LinesRead s (({ s with memsys := { s.memsys with prefetched := lines } } : State).share line n) :=
  ⟨⟨rfl, rfl, fun _ => rfl, fun h => ⟨h, rfl⟩⟩, .of_host rfl, rfl⟩

theorem hostLine_read (s : State) (pa n : Nat) : LinesRead s (s.hostLine pa n).2 := by
  unfold State.hostLine
  dsimp only
  split
  · exact .refl s
  · have hfetch : LinesRead s ((List.range 4).foldl (fun t i => t.cacheRead none (lineOf pa * 128 + 32 * i) 0 Policy.plain) s) :=
      .foldl (fun t i => cacheRead_read t none _ 0 Policy.plain) _ s
    exact hfetch.trans (prefetched_read _ _ _ _)

/-- No block stands under key material, and none holds more errors than its code detects: memory reads as it stands. -/
def Unkeyed (s : State) : Prop := FewErrors s ∧ ∀ block, (s.dramOf block).key = none

theorem unkeyed_of_no_records {s : State} (h : s.memsys.dram = []) : Unkeyed s := by
  refine ⟨fun d hd => absurd (h ▸ hd) List.not_mem_nil, fun block => ?_⟩
  unfold State.dramOf
  rw [h]
  rfl

theorem SameBytes.unkeyed {s t : State} (h : SameBytes s t) (hs : Unkeyed s) : Unkeyed t ∧ t.mem = s.mem :=
  have ⟨hfew, hmem⟩ := h.few hs.1
  ⟨⟨hfew, fun block => (h.keyAt block).trans (hs.2 block)⟩, hmem⟩

theorem Unkeyed.readKey {s : State} (h : Unkeyed s) (slot : BitVec 10) (a n : Nat) :
    s.readKey slot a n = Memory.bytes s.mem a n := by
  refine readKey_of_same n fun _ => ?_
  unfold State.otherKey
  rw [h.2]

theorem hostLine_bytes {s : State} (h : Unkeyed s) (pa n : Nat) : (s.hostLine pa n).1 = Memory.bytes s.mem pa n := by
  unfold State.hostLine
  dsimp only
  split
  · exact h.readKey 0 pa n
  · have hfetch : LinesRead s ((List.range 4).foldl (fun t i => t.cacheRead none (lineOf pa * 128 + 32 * i) 0 Policy.plain) s) :=
      .foldl (fun t i => cacheRead_read t none _ 0 Policy.plain) _ s
    obtain ⟨hun, hmem⟩ := hfetch.toSameBytes.unkeyed h
    rw [hun.readKey, hmem]

/-- One packet of a host read, appended to what has been read. -/
def readPacket (pa : Nat) (r : List Byte × State) (c : Nat × Nat) : List Byte × State :=
  (r.1 ++ (r.2.hostLine (pa + c.1) c.2).1, (r.2.hostLine (pa + c.1) c.2).2)

theorem hostRead_eq (s : State) (pa n : Nat) :
    s.hostRead pa n = (packetsOf (n / 128 + 2) pa 0 n).foldl (readPacket pa) ([], s) := rfl

theorem foldl_readPacket_read (pa : Nat) (l : List (Nat × Nat)) (r : List Byte × State) :
    LinesRead r.2 (l.foldl (readPacket pa) r).2 :=
  List.foldlRecOn (motive := fun x => LinesRead r.2 x.2) l (readPacket pa) (.refl r.2) fun x hx _ _ =>
    hx.trans (hostLine_read x.2 _ _)

theorem foldl_readPacket_bytes (pa : Nat) (l : List (Nat × Nat)) (r : List Byte × State) (h : Unkeyed r.2) :
    (l.foldl (readPacket pa) r).1 = r.1 ++ l.flatMap fun c => Memory.bytes r.2.mem (pa + c.1) c.2 := by
  induction l generalizing r with
  | nil => simp
  | cons c l ih =>
    obtain ⟨hun, hmem⟩ := (hostLine_read r.2 (pa + c.1) c.2).toSameBytes.unkeyed h
    rw [List.foldl_cons, ih (readPacket pa r c) hun]
    show r.1 ++ (r.2.hostLine (pa + c.1) c.2).1 ++ l.flatMap (fun x => Memory.bytes (r.2.hostLine (pa + c.1) c.2).2.mem _ _) = _
    rw [hmem, hostLine_bytes h, List.flatMap_cons, List.append_assoc]

theorem hostRead_read (s : State) (pa n : Nat) : LinesRead s (s.hostRead pa n).2 := by
  rw [hostRead_eq]
  exact foldl_readPacket_read pa _ ([], s)

/-- A host read returns the bytes in memory. -/
theorem hostRead_bytes {s : State} (h : Unkeyed s) (pa n : Nat) : (s.hostRead pa n).1 = Memory.bytes s.mem pa n := by
  rw [hostRead_eq, foldl_readPacket_bytes pa _ _ h]
  exact flatMap_packetsOf (Memory.get s.mem) _ pa 0 n (packetsOf_fuel pa n)

/-! ## Reads and completions held at the ordering point (R131) -/

/-- From s to t the ordering point has answered reads: it keeps its posted writes and windows. -/
structure Answered (s t : State) : Prop extends SameBytes s t, Logs s t where
  bar0 : t.host.bar0 = s.host.bar0
  posted : t.host.posted = s.host.posted

theorem Answered.refl (s : State) : Answered s s := ⟨.refl s, .refl s, rfl, rfl⟩

theorem Answered.trans {s t u : State} (h : Answered s t) (k : Answered t u) : Answered s u :=
  ⟨h.toSameBytes.trans k.toSameBytes, h.toLogs.trans k.toLogs, k.bar0.trans h.bar0, k.posted.trans h.posted⟩

theorem LinesRead.answered {s t : State} (h : LinesRead s t) : Answered s t :=
  ⟨h.toSameBytes, h.toLogs, by rw [h.frame], by rw [h.frame]⟩

/-- Does a held read stand behind a posted write that has not left the ordering point? -/
def heldBack (s : State) (r : HeldRead) : Bool := r.behind.any fun i => (s.host.posted.map fun p => p.id).contains i

theorem heldBack_iff {s : State} {r : HeldRead} : heldBack s r = true ↔ ∃ i ∈ r.behind, ∃ p ∈ s.host.posted, p.id = i := by
  simp [heldBack]

/-- The state with one more answer to the host. -/
def withRead (s : State) (d : Nat × List Byte) : State := { s with host := { s.host with readData := d :: s.host.readData } }

theorem LinesRead.withRead {s t : State} (h : LinesRead s t) (d : Nat × List Byte) : Laws.withRead t d = { s with
    mem := t.mem, fresh := t.fresh, memsys := t.memsys,
    host := { s.host with errors := t.host.errors, counters := t.host.counters, readData := d :: s.host.readData } } := by
  unfold Laws.withRead
  rw [h.frame]

/-- A held read or completion is answered. -/
def answerHeld (t : State) (r : HeldRead) : State :=
  let x := if r.completion then (r.data, t) else t.hostRead (t.canonPa (t.windowPa r.dom.port r.pa)) r.len
  withRead x.2 (r.pa, x.1)

theorem serveReads_eq (s : State) : s.serveReads =
    (s.host.heldReads.filter fun r => !heldBack s r).foldl answerHeld
      { s with host := { s.host with heldReads := s.host.heldReads.filter (heldBack s) } } := rfl

theorem answerHeld_answered (t : State) (r : HeldRead) : Answered t (answerHeld t r) := by
  have hread : Answered t (if r.completion then (r.data, t) else t.hostRead (t.canonPa (t.windowPa r.dom.port r.pa)) r.len).2 := by
    split
    · exact .refl t
    · exact (hostRead_read t _ _).answered
  exact hread.trans ⟨⟨rfl, rfl, fun _ => rfl, fun h => ⟨h, rfl⟩⟩, ⟨fun _ he => he, fun _ _ => rfl⟩, rfl, rfl⟩

theorem serveReads_answered (s : State) : Answered s s.serveReads := by
  rw [serveReads_eq]
  refine .trans (t := { s with host := { s.host with heldReads := s.host.heldReads.filter (heldBack s) } })
    ⟨⟨rfl, rfl, fun _ => rfl, fun h => ⟨h, rfl⟩⟩, ⟨fun _ he => he, fun _ _ => rfl⟩, rfl, rfl⟩ ?_
  exact List.foldlRecOn _ answerHeld (.refl _) fun t ht r _ => ht.trans (answerHeld_answered t r)

theorem serveReads_of_none {s : State} (h : s.host.heldReads = []) : s.serveReads = s := by
  rw [serveReads_eq, h]
  show ({ s with host := { s.host with heldReads := [] } } : State) = s
  rw [← h]

/-- The state with one read or completion at the ordering point, and no other. -/
def withHeld (s : State) (r : HeldRead) : State := { s with host := { s.host with heldReads := [r] } }

theorem serveReads_withHeld {s : State} {r : HeldRead} (h : s.host.heldReads = []) :
    (withHeld s r).serveReads = if heldBack s r then withHeld s r else answerHeld s r := by
  have hs : ({ s with host := { s.host with heldReads := [] } } : State) = s := by rw [← h]
  rw [serveReads_eq]
  show ([r].filter fun x => !heldBack s x).foldl answerHeld
    { s with host := { s.host with heldReads := [r].filter (heldBack s) } } = _
  cases hb : heldBack s r with
  | false =>
    simp only [List.filter_cons, List.filter_nil, hb, Bool.not_false, if_true, Bool.false_eq_true, if_false, List.foldl_cons,
      List.foldl_nil]
    exact congrArg (answerHeld · r) hs
  | true =>
    simp only [List.filter_cons, List.filter_nil, hb, Bool.not_true, if_true, Bool.false_eq_true, if_false, List.foldl_nil]
    rfl

/-- The read of BAR2 as it arrives (R131). -/
def arrivedRead (s : State) (dom : OrderDomain) (pa len : Nat) : HeldRead :=
  { dom := dom, pa := pa, len := min len 4096, data := [], completion := false, behind := s.earlierPosted dom }

/-- The completion of a device read as it arrives. -/
def arrivedCompletion (s : State) (dom : OrderDomain) (tag : Nat) (data : List Byte) : HeldRead :=
  { dom := dom, pa := tag, len := data.length, data := data, completion := true, behind := s.earlierPosted dom }

section
variable {s : State} (h : s.host.heldReads = [])
include h

theorem hostReadRequest_event (dom : OrderDomain) (pa len : Nat) : exec (.hostReadRequest dom pa len) s =
    .next (if heldBack s (arrivedRead s dom pa len) then withHeld s (arrivedRead s dom pa len)
      else answerHeld s (arrivedRead s dom pa len)) := by
  rw [← serveReads_withHeld h]
  show Host.Outcome.next (State.serveReads { s with host := { s.host with heldReads := s.host.heldReads ++ _ } }) = _
  rw [h]
  rfl

theorem deviceReadCompletion_event (dom : OrderDomain) (tag : Nat) (data : List Byte) :
    exec (.deviceReadCompletion dom tag data) s = .next (if heldBack s (arrivedCompletion s dom tag data)
      then withHeld s (arrivedCompletion s dom tag data) else answerHeld s (arrivedCompletion s dom tag data)) := by
  rw [← serveReads_withHeld h]
  show Host.Outcome.next (State.serveReads { s with host := { s.host with heldReads := s.host.heldReads ++ _ } }) = _
  rw [h]
  rfl

end

theorem mem_earlierPosted {s : State} {dom : OrderDomain} {i : Nat} :
    i ∈ s.earlierPosted dom ↔ ∃ q ∈ s.host.posted, standsBehind dom q.dom = true ∧ q.id = i := by
  simp [State.earlierPosted, and_assoc]

/-- What arrives is held back exactly where an earlier posted write of its domain stands. -/
theorem heldBack_earlier {s : State} {r : HeldRead} {dom : OrderDomain} (hr : r.behind = s.earlierPosted dom) :
    heldBack s r = true ↔ ∃ q ∈ s.host.posted, standsBehind dom q.dom = true := by
  rw [heldBack_iff, hr]
  constructor
  · rintro ⟨i, hi, -⟩
    obtain ⟨q, hq, hb, -⟩ := mem_earlierPosted.mp hi
    exact ⟨q, hq, hb⟩
  · rintro ⟨q, hq, hb⟩
    exact ⟨q.id, mem_earlierPosted.mpr ⟨q, hq, hb, rfl⟩, q, hq, rfl⟩

/-! ## The life of a posted write (R131, R459) -/

/-- The ordering point without a posted write. -/
def withoutPosted (s : State) (id : Nat) : State :=
  { s with host := { s.host with posted := s.host.posted.filter fun q => q.id != id } }

theorem donePosted_of_none {s : State} (id : Nat) (h : s.host.heldReads = []) : s.donePosted id = withoutPosted s id :=
  serveReads_of_none (s := withoutPosted s id) h

/-- A write that leaves the ordering point lets reads pass; windows, other writes and memory stay. -/
theorem donePosted_leaves (s : State) (id : Nat) : (∀ q ∈ (s.donePosted id).host.posted, q.id ≠ id) ∧
    (s.donePosted id).host.bar0 = s.host.bar0 ∧ (∀ e ∈ s.host.errors, e ∈ (s.donePosted id).host.errors) ∧
    (FewErrors s → (s.donePosted id).mem = s.mem) := by
  have h : Answered (withoutPosted s id) (s.donePosted id) := serveReads_answered (withoutPosted s id)
  refine ⟨fun q hq => ?_, h.bar0, h.errors, fun hf => (h.few hf).2⟩
  rw [h.posted] at hq
  simpa using (List.mem_filter.mp hq).2

theorem setDwin_same (s : State) (port : Bool) (v : DWord) : (s.setDwin port v).dwin port = BitVec.ofNat 64 (fld v 12 37 * 4096) := by
  cases port <;> rfl

theorem setDwin_other (s : State) (port : Bool) (v : DWord) : (s.setDwin port v).dwin (!port) = s.dwin (!port) := by
  cases port <;> rfl

theorem dwin_of_bar0 {s t : State} (h : t.host.bar0 = s.host.bar0) (port : Bool) : t.dwin port = s.dwin port := by
  unfold State.dwin
  rw [h]

/-- A DWIN write sets its own port's window and leaves the ordering point (R459). -/
theorem releasedDwin (s : State) (p : Posted) (v : DWord) :
    ((s.setDwin p.dom.port v).donePosted p.id).dwin p.dom.port = BitVec.ofNat 64 (fld v 12 37 * 4096) ∧
    ((s.setDwin p.dom.port v).donePosted p.id).dwin (!p.dom.port) = s.dwin (!p.dom.port) ∧
    (∀ q ∈ ((s.setDwin p.dom.port v).donePosted p.id).host.posted, q.id ≠ p.id) ∧
    (FewErrors s → ((s.setDwin p.dom.port v).donePosted p.id).mem = s.mem) := by
  obtain ⟨hgone, hbar, -, hmem⟩ := donePosted_leaves (s.setDwin p.dom.port v) p.id
  exact ⟨(dwin_of_bar0 hbar _).trans (setDwin_same s _ v), (dwin_of_bar0 hbar _).trans (setDwin_other s _ v), hgone, hmem⟩

/-- An unreachable access is logged with its place. -/
theorem logUnreachable_logged (s : State) (key : Nat) : ∃ far n, s.logUnreachable key =
    { s with fresh := n, host := { s.host with errors := .unreachable key far :: s.host.errors } } := by
  unfold State.logUnreachable
  dsimp only
  split
  · exact ⟨_, _, rfl⟩
  · exact ⟨none, s.fresh, rfl⟩

/-- A write to an address that is not backed leaves the ordering point with an entry in the error log. -/
theorem droppedPosted (s : State) (id pa : Nat) : (∀ q ∈ ((s.logUnreachable pa).donePosted id).host.posted, q.id ≠ id) ∧
    (∃ far, .unreachable pa far ∈ ((s.logUnreachable pa).donePosted id).host.errors) ∧
    (FewErrors s → ((s.logUnreachable pa).donePosted id).mem = s.mem) := by
  obtain ⟨far, n, hlog⟩ := logUnreachable_logged s pa
  rw [hlog]
  obtain ⟨hgone, -, herr, hmem⟩ := donePosted_leaves
    { s with fresh := n, host := { s.host with errors := .unreachable pa far :: s.host.errors } } id
  exact ⟨hgone, ⟨far, herr _ List.mem_cons_self⟩, hmem⟩

/-- The dies that a write's packets go to. -/
def routesTo (pa : Nat) (cuts : List (Nat × Nat)) : List DieId :=
  (List.finRange 5).filter fun d => cuts.any fun c => homeDie (pa + c.1) == d

theorem mem_routesTo {pa : Nat} {cuts : List (Nat × Nat)} {d : DieId} :
    d ∈ routesTo pa cuts ↔ ∃ c ∈ cuts, homeDie (pa + c.1) = d := by
  simp [routesTo]

theorem routesTo_isEmpty (pa : Nat) (cuts : List (Nat × Nat)) : (routesTo pa cuts).isEmpty = cuts.isEmpty := by
  cases cuts with
  | nil => rfl
  | cons c cs =>
    have hc : homeDie (pa + c.1) ∈ routesTo pa (c :: cs) := mem_routesTo.mpr ⟨c, List.mem_cons_self, rfl⟩
    rw [List.isEmpty_cons, List.isEmpty_eq_false_iff]
    exact List.ne_nil_of_mem hc

/-- A write as it is sent to its homes. -/
def sentPosted (p : Posted) (pa : Nat) (cuts : List (Nat × Nat)) : Posted :=
  { p with pa := pa, released := true, routes := routesTo pa cuts, packets := cuts }

/-- The address of a write under the window of its port, as it stands now. -/
def postedPa (s : State) (p : Posted) : Nat := s.canonPa (s.windowPa p.dom.port p.pa)

/-- The packets that a write is cut into (R130). -/
def postedCuts (s : State) (p : Posted) : List (Nat × Nat) :=
  packetsOf (p.data.length / 128 + 2) (postedPa s p) 0 p.data.length

theorem release_data {s : State} {p : Posted} (h : p.dwin = none) : s.release p =
    if (postedCuts s p).any fun c => !localBacked (postedPa s p + c.1) then (s.logUnreachable (postedPa s p)).donePosted p.id
    else if (postedCuts s p).isEmpty then s.donePosted p.id
    else s.putPosted (sentPosted p (postedPa s p) (postedCuts s p)) := by
  obtain ⟨id, dom, relaxed, pa, data, released, routes, packets, dwin⟩ := p
  obtain rfl : dwin = none := h
  rw [← routesTo_isEmpty (postedPa s _)]
  rfl

/-! ## The packets of a route (R92, R120) -/

theorem listAt_mem {α : Type} {l : List α} {d : α} (i : Nat) (h : d ∈ l) : listAt l i d ∈ l := by
  unfold listAt
  rw [List.getD_eq_getElem?_getD]
  cases hi : l[i]? with
  | none => exact h
  | some x => exact List.mem_of_getElem? hi

/-- A choice takes free values, and changes nothing else (log 4). -/
theorem oneOf_draws (s : State) (n : Nat) : ∃ i m, s.oneOf n = (i, { s with fresh := m }) := by
  unfold State.oneOf
  split
  · exact ⟨0, s.fresh, rfl⟩
  · exact ⟨_, _, rfl⟩

/-- A packet at its home puts down its part of the data, and is no longer owed. -/
theorem performPacket_puts {s : State} {p : Posted} {c : Nat × Nat} (hs : s.safe) (hf : FewErrors s)
    (hk : s.otherKey (s.keyFor 0 (p.pa + c.1)) ((p.pa + c.1) / 512) = none) :
    (∀ i b, i < c.2 → p.data[c.1 + i]? = some b → Memory.get (s.performPacket p c).mem (p.pa + c.1 + i) = b) ∧
    (∀ a, a < p.pa + c.1 ∨ p.pa + c.1 + c.2 ≤ a → Memory.get (s.performPacket p c).mem a = Memory.get s.mem a) ∧
    (s.performPacket p c).host.posted = s.host.posted.map fun x =>
      if x.id = p.id then { p with packets := p.packets.filter fun y => y != c } else x := by
  have hmem : (s.performPacket p c).mem = Memory.put s.mem (p.pa + c.1) ((p.data.drop c.1).take c.2) := homeWrite_mem hf _ _ hk
  have hlen : ((p.data.drop c.1).take c.2).length ≤ c.2 := List.length_take_le _ _
  rw [hmem]
  refine ⟨fun i b hi hb => ?_, fun a ha => get_put_other _ hs (by omega), ?_⟩
  · have hpart : ((p.data.drop c.1).take c.2)[i]? = some b := by
      rw [List.getElem?_take_of_lt hi, List.getElem?_drop, hb]
    obtain ⟨hlt, hval⟩ := List.getElem?_eq_some_iff.mp hpart
    rw [get_put_same _ i _ hs hlt, hval]
  · have hposted : (s.homeWrite (p.pa + c.1) ((p.data.drop c.1).take c.2) 0 Policy.plain).host.posted = s.host.posted := by
      rw [homeWrite_written s _ _ 0 Policy.plain]
    unfold State.performPacket State.putPosted mapIf
    rw [hposted]
    simp only [beq_iff_eq]

/-- The packets of a write that a die's homes still owe. -/
def owedBy (p : Posted) (die : DieId) : List (Nat × Nat) := p.packets.filter fun c => homeDie (p.pa + c.1) == die

/-- Those that have arrived. -/
def arrivedAt (s : State) (p : Posted) (die : DieId) : List (Nat × Nat) :=
  (owedBy p die).filter fun c => !s.transiting (.posted p.id c.1)

/-- Is a line of a write's packets for a die still being invalidated? -/
def routeWaits (s : State) (p : Posted) (die : DieId) : Bool :=
  (p.cutsFor die).any fun c => s.invalidating (lineOf (p.pa + c.1))

section
variable {s : State} {p : Posted} (hp : s.host.posted.find? (fun q => q.id == p.id) = some p)
include hp

theorem orderingPointRelease_event : exec (.orderingPointRelease p.id) s =
    .next (if p.released || (!p.relaxed && s.host.posted.any fun q => decide (q.id < p.id) && standsBehind p.dom q.dom)
      then s else s.release p) := by
  show execOrderingPointRelease p.id s = _
  simp only [execOrderingPointRelease, hp]
  rfl

theorem orderingPointRelease_waits
    (h : p.released = true ∨ (p.relaxed = false ∧ ∃ q ∈ s.host.posted, q.id < p.id ∧ standsBehind p.dom q.dom = true)) :
    exec (.orderingPointRelease p.id) s = .next s := by
  rw [orderingPointRelease_event hp, if_pos]
  rcases h with h | ⟨h, q, hq, hid, hb⟩
  · simp [h]
  · simpa [h] using .inr ⟨q, hq, hid, hb⟩

theorem orderingPointRelease_releases (hr : p.released = false)
    (h : ∀ q ∈ s.host.posted, p.relaxed = false → q.id < p.id → standsBehind p.dom q.dom = false) :
    exec (.orderingPointRelease p.id) s = .next (s.release p) := by
  rw [orderingPointRelease_event hp, if_neg]
  simpa [hr] using fun hx q hq hid => h q hq hx hid

theorem routeAcknowledgement_stays {die : DieId} (h : p.released = false ∨ die ∉ p.routes) :
    exec (.routeAcknowledgement p.id die) s = .next s := by
  have hcond : (!p.released || !p.routes.contains die) = true := by
    rcases h with h | h
    · simp [h]
    · simp [h]
  show execRouteAcknowledgement p.id die s = _
  simp only [execRouteAcknowledgement, hp, hcond, if_true]
  rfl

variable {die : DieId} (hr : p.released = true) (hd : die ∈ p.routes)
include hr hd

theorem routeAcknowledgement_performs (h : arrivedAt s p die ≠ []) : ∃ c ∈ arrivedAt s p die, ∃ n,
    exec (.routeAcknowledgement p.id die) s = .next (({ s with fresh := n } : State).performPacket p c) := by
  have hcond : ¬(!p.released || !p.routes.contains die) = true := by simp [hr, hd]
  obtain ⟨c, cs, hcs⟩ := List.exists_cons_of_ne_nil h
  obtain ⟨i, n, hone⟩ := oneOf_draws s (cs.length + 1)
  refine ⟨listAt (c :: cs) i c, ?_, n, ?_⟩
  · rw [hcs]
    exact listAt_mem i List.mem_cons_self
  · have hready : (p.packets.filter fun c => homeDie (p.pa + c.1) == die).filter (fun c => !s.transiting (.posted p.id c.1)) =
        c :: cs := hcs
    show execRouteAcknowledgement p.id die s = _
    simp only [execRouteAcknowledgement, hp, if_neg hcond, hready, hone]
    rfl

theorem routeAcknowledgement_answers (h : arrivedAt s p die = []) : exec (.routeAcknowledgement p.id die) s =
    .next (if !(owedBy p die).isEmpty || routeWaits s p die then s
      else if (p.routes.filter fun d => d != die).isEmpty then s.donePosted p.id
      else s.putPosted { p with routes := p.routes.filter fun d => d != die }) := by
  have hcond : ¬(!p.released || !p.routes.contains die) = true := by simp [hr, hd]
  have hready : (p.packets.filter fun c => homeDie (p.pa + c.1) == die).filter (fun c => !s.transiting (.posted p.id c.1)) = [] := h
  show execRouteAcknowledgement p.id die s = _
  simp only [execRouteAcknowledgement, hp, if_neg hcond, hready]
  show (if (!(owedBy p die).isEmpty || routeWaits s p die) = true then Host.Outcome.next s else _) = _
  split
  · rfl
  · rfl

end

/-- A data write that is released is done, sent or dropped. -/
theorem releasedData {s : State} {p : Posted} (hdwin : p.dwin = none)
    (h : exec (.orderingPointRelease p.id) s = .next (s.release p)) :
    (postedCuts s p = [] → exec (.orderingPointRelease p.id) s = .next (s.donePosted p.id)) ∧
    (postedCuts s p ≠ [] → (∀ c ∈ postedCuts s p, localBacked (postedPa s p + c.1) = true) →
      Answers (.orderingPointRelease p.id) s (fun u => ∃ q : Posted,
        u = { s with host := { s.host with posted := s.host.posted.map fun x => if x.id = p.id then q else x } } ∧
        q = { p with pa := postedPa s p, released := true, routes := q.routes, packets := postedCuts s p } ∧
        ∀ d, d ∈ q.routes ↔ ∃ c ∈ postedCuts s p, homeDie (postedPa s p + c.1) = d)) ∧
    ((∃ c ∈ postedCuts s p, localBacked (postedPa s p + c.1) = false) → Answers (.orderingPointRelease p.id) s (fun u =>
      (∀ q ∈ u.host.posted, q.id ≠ p.id) ∧ (∃ far, .unreachable (postedPa s p) far ∈ u.host.errors) ∧
      (FewErrors s → u.mem = s.mem))) := by
  rw [release_data hdwin] at h
  generalize postedCuts s p = cuts at *
  refine ⟨fun hnil => ?_, fun hne hall => ⟨_, h, ?_⟩, fun hfar => ⟨_, h, ?_⟩⟩
  · rw [h, hnil]
    rfl
  · have hbacked : ¬(cuts.any fun c => !localBacked (postedPa s p + c.1)) = true := by simpa using hall
    rw [if_neg hbacked, if_neg (by simpa using hne)]
    refine ⟨sentPosted p (postedPa s p) cuts, ?_, rfl, fun d => mem_routesTo⟩
    unfold State.putPosted mapIf
    simp only [beq_iff_eq]
    rfl
  · have hany : (cuts.any fun c => !localBacked (postedPa s p + c.1)) = true := by simpa using hfar
    rw [if_pos hany]
    exact droppedPosted s p.id (postedPa s p)

/-- Once a route owes nothing it is acknowledged; the last one ends the write (R120, R131). -/
theorem routeEnds {s : State} {p : Posted} {die : DieId} (hp : s.host.posted.find? (fun q => q.id == p.id) = some p)
    (hr : p.released = true) (hd : die ∈ p.routes) (hnil : owedBy p die = [])
    (hinv : ∀ c ∈ p.cutsFor die, s.invalidating (lineOf (p.pa + c.1)) = false) :
    ((∀ d ∈ p.routes, d = die) → exec (.routeAcknowledgement p.id die) s = .next (s.donePosted p.id) ∧
      (s.host.heldReads = [] → s.donePosted p.id = withoutPosted s p.id)) ∧
    ((∃ d ∈ p.routes, d ≠ die) → Answers (.routeAcknowledgement p.id die) s (fun u =>
      u = { s with host := { s.host with posted := s.host.posted.map fun x =>
        if x.id = p.id then { p with routes := p.routes.filter fun d => d != die } else x } })) := by
  have harrived : arrivedAt s p die = [] := by rw [arrivedAt, hnil]; rfl
  have hquiet : ¬(!(owedBy p die).isEmpty || routeWaits s p die) = true := by simpa [hnil, routeWaits] using hinv
  have hevent := routeAcknowledgement_answers hp hr hd harrived
  rw [if_neg hquiet] at hevent
  refine ⟨fun hlast => ⟨?_, donePosted_of_none p.id⟩, fun hmore => ⟨_, hevent, ?_⟩⟩
  · rw [hevent, if_pos]
    simpa using hlast
  · rw [if_neg (by simpa using hmore)]
    unfold State.putPosted mapIf
    simp only [beq_iff_eq]

/-- The number of no posted write names nothing. -/
theorem unknownPosted_stays {s : State} {id : Nat} {die : DieId} (h : ∀ q ∈ s.host.posted, q.id ≠ id) :
    exec (.orderingPointRelease id) s = .next s ∧ exec (.routeAcknowledgement id die) s = .next s := by
  have hnone : s.host.posted.find? (fun q => q.id == id) = none := List.find?_eq_none.mpr fun q hq => by simpa using h q hq
  constructor
  · show execOrderingPointRelease id s = _
    simp only [execOrderingPointRelease, hnone]
    rfl
  · show execRouteAcknowledgement id die s = _
    simp only [execRouteAcknowledgement, hnone]
    rfl

/-! ## Reads and completions (R131) -/

section
variable {s : State} {dom : OrderDomain} (hnone : s.host.heldReads = [])
include hnone

section
variable (hfree : ∀ q ∈ s.host.posted, standsBehind dom q.dom = false)
include hfree

theorem hostReadRequest_answers {pa len : Nat} : Answers (.hostReadRequest dom pa len) s (fun u => ∃ bs,
    u = { s with
      mem := u.mem, fresh := u.fresh, memsys := u.memsys,
      host := { s.host with
        errors := u.host.errors, counters := u.host.counters, readData := (pa, bs) :: s.host.readData } } ∧
    (FewErrors s → u.mem = s.mem) ∧
    (s.memsys.dram = [] → ∀ i, i < min len 4096 →
      bs[i]? = some (Memory.get s.mem (s.canonPa (s.windowPa dom.port pa) + i)))) := by
  have hfirst : ¬heldBack s (arrivedRead s dom pa len) = true := by
    rw [heldBack_earlier rfl]
    simpa using hfree
  refine ⟨_, hostReadRequest_event hnone dom pa len, ?_⟩
  rw [if_neg hfirst]
  have hread := hostRead_read s (s.canonPa (s.windowPa dom.port pa)) (min len 4096)
  have hbytes : s.memsys.dram = [] → _ := fun hd =>
    hostRead_bytes (unkeyed_of_no_records hd) (s.canonPa (s.windowPa dom.port pa)) (min len 4096)
  have hanswer : answerHeld s (arrivedRead s dom pa len) =
      withRead (s.hostRead (s.canonPa (s.windowPa dom.port pa)) (min len 4096)).2
        (pa, (s.hostRead (s.canonPa (s.windowPa dom.port pa)) (min len 4096)).1) := rfl
  rw [hanswer]
  generalize s.hostRead (s.canonPa (s.windowPa dom.port pa)) (min len 4096) = x at *
  refine ⟨x.1, hread.withRead _, fun hf => (hread.few hf).2, fun hd i hi => ?_⟩
  rw [hbytes hd]
  simp [Memory.bytes, hi]

theorem deviceReadCompletion_answers {tag : Nat} {data : List Byte} : Answers (.deviceReadCompletion dom tag data) s (fun u =>
    u = { s with host := { s.host with readData := (tag, data) :: s.host.readData } }) := by
  have hfirst : ¬heldBack s (arrivedCompletion s dom tag data) = true := by
    rw [heldBack_earlier rfl]
    simpa using hfree
  refine ⟨_, deviceReadCompletion_event hnone dom tag data, ?_⟩
  rw [if_neg hfirst]
  rfl

end

section
variable (hback : ∃ q ∈ s.host.posted, standsBehind dom q.dom = true)
include hback

theorem hostReadRequest_held {pa len : Nat} : Answers (.hostReadRequest dom pa len) s (fun u => ∃ r,
    u = { s with host := { s.host with heldReads := [r] } } ∧ r.dom = dom ∧ r.pa = pa ∧ r.len = min len 4096 ∧
    r.completion = false ∧ ∀ i, i ∈ r.behind ↔ ∃ q ∈ s.host.posted, standsBehind dom q.dom = true ∧ q.id = i) := by
  refine ⟨_, hostReadRequest_event hnone dom pa len, ?_⟩
  rw [if_pos ((heldBack_earlier rfl).mpr hback)]
  exact ⟨arrivedRead s dom pa len, rfl, rfl, rfl, rfl, rfl, fun i => mem_earlierPosted⟩

theorem deviceReadCompletion_held {tag : Nat} {data : List Byte} : Answers (.deviceReadCompletion dom tag data) s (fun u => ∃ r,
    u = { s with host := { s.host with heldReads := [r] } } ∧ r.dom = dom ∧ r.pa = tag ∧ r.data = data ∧
    r.completion = true ∧ ∀ i, i ∈ r.behind ↔ ∃ q ∈ s.host.posted, standsBehind dom q.dom = true ∧ q.id = i) := by
  refine ⟨_, deviceReadCompletion_event hnone dom tag data, ?_⟩
  rw [if_pos ((heldBack_earlier rfl).mpr hback)]
  exact ⟨arrivedCompletion s dom tag data, rfl, rfl, rfl, rfl, rfl, fun i => mem_earlierPosted⟩

end

end

/-- Settles O51: the ordering point's events in the order of a write's life, then the reads that wait behind it. -/
theorem hostTraffic : Obligations.HostTraffic := by
  intro s dom relaxed port pa len tag id data v p die mine ready hmine hready
  have howed : owedBy p die = mine := hmine.symm
  have harrived : arrivedAt s p die = ready := by rw [hready, hmine]; rfl
  clear hmine hready
  subst harrived howed
  refine ⟨fun hlen hpa => ?_, fun h => ?_, ⟨_, rfl, rfl⟩, fun hp h => ?_, fun hp hr hfirst => ⟨fun x hx => ?_, ?_⟩,
    fun hp h => routeAcknowledgement_stays hp h, fun hp hr hd => ⟨fun hne hs hf hk => ?_, fun hnil h => ?_, fun hnil hinv => ?_⟩,
    ?_, ?_, ?_, ?_, ?_⟩
  · exact ⟨_, congrArg Host.Outcome.next (if_pos (Bool.and_eq_true_iff.mpr ⟨decide_eq_true hlen, decide_eq_true hpa⟩)), rfl⟩
  · refine congrArg Host.Outcome.next (if_neg ?_)
    rw [Bool.and_eq_true, decide_eq_true_eq, decide_eq_true_eq]
    omega
  · exact orderingPointRelease_waits hp h
  · refine ⟨_, orderingPointRelease_releases hp hr hfirst, ?_⟩
    unfold State.release
    rw [hx]
    exact releasedDwin s p x
  · intro at_ cuts hdwin hat hcuts
    obtain rfl : at_ = postedPa s p := hat
    obtain rfl : cuts = postedCuts s p := hcuts
    exact releasedData hdwin (orderingPointRelease_releases hp hr hfirst)
  · obtain ⟨c, hc, n, hexec⟩ := routeAcknowledgement_performs hp hr hd hne
    exact ⟨_, hexec, c, hc, performPacket_puts (s := { s with fresh := n }) hs hf (hk c hc)⟩
  · rw [routeAcknowledgement_answers hp hr hd hnil, if_pos]
    simpa [routeWaits] using h
  · exact routeEnds hp hr hd hnil hinv
  · exact fun hno => unknownPosted_stays hno
  · exact fun hfree hnone => ⟨hostReadRequest_answers hnone hfree, deviceReadCompletion_answers hnone hfree⟩
  · exact fun hback hnone => ⟨hostReadRequest_held hnone hback, deviceReadCompletion_held hnone hback⟩
  · intro hnil
    show execDeviceWriteToHost id s = _
    simp only [execDeviceWriteToHost, hnil]
    rfl
  · intro w rest hw
    have hevent : exec (.deviceWriteToHost id) s = .next (if w.id == id then
        { s with mem := Memory.put s.mem w.key w.data, host := { s.host with devWrites := rest } } else s) := by
      show execDeviceWriteToHost id s = _
      simp only [execDeviceWriteToHost, hw]
      rfl
    refine ⟨fun hne => ?_, fun heq => ⟨_, hevent, ?_⟩⟩
    · rw [hevent, if_neg (by simpa using hne)]
    · rw [if_pos (beq_iff_eq.mpr heq)]

end Sys2Proof.Laws

end

section
/-! # Accesses at their homes (O46) -/

namespace Sys2Proof.Laws

open Sys2Proof Sys2Proof.Machine

/-! ## Operations in flight -/

theorem putOp_memOps (s : State) (o : MemOp) : (s.putOp o).memOps = s.memOps.map fun x => if x.id = o.id then o else x := by
  unfold State.putOp mapIf
  simp only [beq_iff_eq]

/-- The requests of an operation that are on their way to a sector. -/
def sentTo (o : MemOp) (sec : Nat) : List Req := o.reqs.filter fun q => sectorOf q.key == sec && q.status == .sent

theorem mem_sentTo {o : MemOp} {sec : Nat} {q : Req} (h : q ∈ sentTo o sec) : q.key / 32 = sec := by
  have hq : sectorOf q.key = sec ∧ q.status = .sent := by simpa using (List.mem_filter.mp h).2
  exact hq.1

theorem mapSector_eq (o : MemOp) (sec : Nat) (f : Req → Req) : o.mapSector sec f =
    { o with reqs := o.reqs.map fun q => if q.key / 32 = sec ∧ q.status = .sent then f q else q } := by
  unfold MemOp.mapSector mapIf sectorOf
  simp only [Bool.and_eq_true, beq_iff_eq]

/-- What a state's operations are once those requests of one of them have been changed. -/
theorem putOp_mapSector (s : State) (o : MemOp) (sec : Nat) (f : Req → Req) : (s.putOp (o.mapSector sec f)).memOps =
    s.memOps.map fun x => if x.id = o.id
      then { o with reqs := o.reqs.map fun q => if q.key / 32 = sec ∧ q.status = .sent then f q else q } else x := by
  rw [putOp_memOps, mapSector_eq]

/-- Where no reduction has been merged into another, nothing is settled (R326). -/
theorem settleMerged_of_unmerged {s : State}
    (h : ∀ x ∈ s.memOps, ∀ q ∈ x.reqs, ∀ id lane, q.status ≠ .merged id lane) : s.settleMerged = s := by
  unfold State.settleMerged
  refine if_pos ?_
  rw [Bool.not_eq_true', List.any_eq_false]
  intro o ho
  rw [Bool.not_eq_true, List.any_eq_false]
  intro q hq
  rw [Bool.not_eq_true, Bool.and_eq_false_iff]
  left
  dsimp only
  split
  · next id lane hst => exact absurd hst (h o ho q hq id lane)
  · rfl

/-! ## What admission changes (R361, R362) -/

/-- From s to t an access has been admitted: only records, the line for room and closing orders have changed. -/
def Recorded (s t : State) : Prop := t = { s with
  records := t.records, roomQ := t.roomQ, sp := t.sp, rest := t.rest, host := { s.host with contexts := t.host.contexts } }

theorem Recorded.refl (s : State) : Recorded s s := rfl

theorem Recorded.trans {s t u : State} (h : Recorded s t) (k : Recorded t u) : Recorded s u := by
  unfold Recorded at *
  rw [k, h]

theorem Recorded.sameBytes {s t : State} (h : Recorded s t) : SameBytes s t := by
  rw [h]
  exact ⟨rfl, rfl, fun _ => rfl, fun hf => ⟨hf, rfl⟩⟩

theorem Recorded.memOps {s t : State} (h : Recorded s t) : t.memOps = s.memOps := by rw [h]

theorem Recorded.groupOf {s t : State} (h : Recorded s t) (g : GroupId) : t.groupOf g = s.groupOf g := by rw [h]; rfl

theorem updHolder_recorded (s : State) (r : RegionId) (f : Span → Span) : Recorded s (s.updHolder r f) := by
  unfold State.updHolder
  split
  · rfl
  · dsimp only
    split
    · rfl
    · rfl

/-- What holds of whatever either branch admits. -/
theorem admitted_of_ite {P : State → Prop} {c : Prop} [Decidable c] {x y : Admission} (hx : ∀ t, x = .admitted t → P t)
    (hy : ∀ t, y = .admitted t → P t) : ∀ t, (if c then x else y) = .admitted t → P t := by
  split <;> assumption

theorem tryRecord_recorded {s : State} {checked : Bool} {g : GroupId} {r : RegionId} {op : Option Nat} {u : Touch}
    {key n : Nat} {logged : Bool} : ∀ t, s.tryRecord checked g r op u key n logged = .admitted t → Recorded s t := by
  have hline : ∀ (a : AccessRecord) (p : RoomWait → Bool),
      Recorded s { s.setRecord a with roomQ := (s.setRecord a).roomQ.filter p } := fun _ _ => rfl
  unfold State.tryRecord
  refine admitted_of_ite (fun t h => by cases h; exact .refl s) ?_
  dsimp only
  split
  · intro t h; cases h
  · refine admitted_of_ite (fun t h => by cases h) fun t h => ?_
    split at h <;> cases h
  · refine admitted_of_ite (fun t h => by cases h) (admitted_of_ite (fun t h => ?_) fun t h => ?_)
    · cases h; exact (hline _ _).trans (updHolder_recorded _ r _)
    · cases h; exact hline _ _

theorem admitReqs_recorded {s t : State} {o : MemOp} {qs : List Req} (h : s.admitReqs o qs = .admitted t) : Recorded s t := by
  induction qs generalizing s with
  | nil =>
    cases h
    rfl
  | cons q rest ih =>
    unfold State.admitReqs at h
    split at h
    · next u hu => exact (tryRecord_recorded u hu).trans (ih h)
    · cases h
    · cases h

/-! ## The bytes of a sector after writes in it (R16, R164) -/

theorem listAt_bytesLE {n i : Nat} (x : Nat) (h : i < n) : listAt (bytesLE n x) i 0 = BitVec.ofNat 8 (x / 256 ^ i) := by
  induction n generalizing i x with
  | zero => omega
  | succ n ih =>
    cases i with
    | zero => simp [listAt, bytesLE]
    | succ j =>
      have hstep := ih (x / 256) (show j < n by omega)
      rw [Nat.div_div_eq_div_mul, ← Nat.pow_succ'] at hstep
      rw [← hstep]
      rfl

theorem listAt_map_range {α : Type} {n i : Nat} (f : Nat → α) (d : α) (h : i < n) : listAt ((List.range n).map f) i d = f i := by
  simp [listAt, h]

/-- Does a request write byte i of its sector? -/
def covers (q : Req) (i : Nat) : Bool := q.key % 32 ≤ i && i < q.key % 32 + q.bytes

/-- One request's write in a sector: the bytes written so far, and the sector. -/
def mergeReq (a : BitVec 32 × List Byte) (q : Req) : BitVec 32 × List Byte :=
  (a.1 ||| maskOf 32 (covers q),
    (List.range 32).map fun i => if covers q i then listAt (bytesLE q.bytes q.data.toNat) (i - q.key % 32) 0 else listAt a.2 i 0)

theorem mergeReqs_eq (old : List Byte) (qs : List Req) : mergeReqs old qs = qs.foldl mergeReq (0, old) := rfl

theorem foldl_mergeReq_length (qs : List Req) {a : BitVec 32 × List Byte} (h : a.2.length = 32) :
    (qs.foldl mergeReq a).2.length = 32 :=
  List.foldlRecOn (motive := fun b => b.2.length = 32) qs mergeReq h fun _ _ _ _ => by simp [mergeReq]

theorem foldl_mergeReq_uncovered {qs : List Req} (a : BitVec 32 × List Byte) {i : Nat} (hi : i < 32)
    (h : ∀ q ∈ qs, covers q i = false) : listAt (qs.foldl mergeReq a).2 i 0 = listAt a.2 i 0 := by
  induction qs generalizing a with
  | nil => rfl
  | cons q qs ih =>
    obtain ⟨hq, hqs⟩ := List.forall_mem_cons.mp h
    rw [List.foldl_cons, ih (mergeReq a q) hqs, mergeReq, listAt_map_range _ _ hi, hq]
    rfl

/-- A byte that no request writes stays. -/
theorem mergeReqs_uncovered (old : List Byte) {qs : List Req} {i : Nat} (hi : i < 32) (h : ∀ q ∈ qs, covers q i = false) :
    listAt (mergeReqs old qs).2 i 0 = listAt old i 0 := foldl_mergeReq_uncovered (0, old) hi h

/-- The last request that writes a byte gives its value. -/
theorem mergeReqs_last (old : List Byte) {xs ys : List Req} {q : Req} {i : Nat} (hi : i < 32) (hq : covers q i = true)
    (h : ∀ y ∈ ys, covers y i = false) :
    listAt (mergeReqs old (xs ++ q :: ys)).2 i 0 = BitVec.ofNat 8 (q.data.toNat / 256 ^ (i - q.key % 32)) := by
  have hin : i - q.key % 32 < q.bytes := by
    have hc : q.key % 32 ≤ i ∧ i < q.key % 32 + q.bytes := by simpa [covers] using hq
    omega
  rw [mergeReqs_eq, List.foldl_append, List.foldl_cons, foldl_mergeReq_uncovered _ hi h, mergeReq, listAt_map_range _ _ hi, hq,
    if_pos rfl, listAt_bytesLE _ hin]

/-- A byte of memory after a sector has been put down. -/
theorem get_put_sector {m : Memory} {sec i : Nat} {bs : List Byte} (hm : m.wf = true) (hl : bs.length = 32) (hi : i < 32) :
    Memory.get (Memory.put m (sec * 32) bs) (sec * 32 + i) = listAt bs i 0 := by
  have hlt : i < bs.length := by omega
  rw [get_put_same _ i bs hm hlt, listAt, List.getD_eq_getElem bs 0 hlt]

theorem bytes_length (m : Memory) (a n : Nat) : (Memory.bytes m a n).length = n := by simp [Memory.bytes]

/-- What the writes of requests in a sector do to memory (R16): bytes that none of them writes stay, and the last one that
writes a byte gives its value. -/
theorem put_merged {m : Memory} {sec : Nat} {qs : List Req} (hm : m.wf = true) (hsec : ∀ q ∈ qs, q.key / 32 = sec) :
    (∀ a : Nat, (∀ q ∈ qs, a < q.key ∨ q.key + q.bytes ≤ a) →
      Memory.get (Memory.put m (sec * 32) (mergeReqs (Memory.bytes m (sec * 32) 32) qs).2) a = Memory.get m a) ∧
    ∀ (xs : List Req) (q : Req) (ys : List Req) (i : Nat), qs = xs ++ q :: ys → i < q.bytes → (q.key + i) / 32 = sec →
      (∀ x ∈ ys, q.key + i < x.key ∨ x.key + x.bytes ≤ q.key + i) →
      Memory.get (Memory.put m (sec * 32) (mergeReqs (Memory.bytes m (sec * 32) 32) qs).2) (q.key + i) =
        BitVec.ofNat 8 (q.data.toNat / 256 ^ i) := by
  have hlen : (mergeReqs (Memory.bytes m (sec * 32) 32) qs).2.length = 32 := foldl_mergeReq_length qs (bytes_length m _ 32)
  have hcover : ∀ q ∈ qs, ∀ j, covers q j = false ↔ sec * 32 + j < q.key ∨ q.key + q.bytes ≤ sec * 32 + j := by
    intro q hq j
    have hk := hsec q hq
    simp only [covers, Bool.and_eq_false_iff, decide_eq_false_iff_not]
    omega
  refine ⟨fun a ha => ?_, fun xs q ys i hqs hi hin hlater => ?_⟩
  · by_cases hout : a < sec * 32 ∨ sec * 32 + 32 ≤ a
    · exact get_put_other _ hm (by omega)
    · obtain ⟨j, rfl⟩ := Nat.exists_eq_add_of_le (show sec * 32 ≤ a by omega)
      have hj : j < 32 := by omega
      rw [get_put_sector hm hlen hj, mergeReqs_uncovered _ hj fun q hq => (hcover q hq j).mpr (ha q hq)]
      exact listAt_map_range _ _ hj
  · have hq : q ∈ qs := by rw [hqs]; simp
    have hk := hsec q hq
    obtain ⟨j, hj⟩ := Nat.exists_eq_add_of_le (show sec * 32 ≤ q.key + i by omega)
    have hj32 : j < 32 := by omega
    have hcov : covers q j = true := by
      simp only [covers, Bool.and_eq_true, decide_eq_true_eq]
      omega
    have hys : ∀ y ∈ ys, covers y j = false := fun y hy =>
      (hcover y (by rw [hqs]; simp [hy]) j).mpr (by rw [← hj]; exact hlater y hy)
    rw [hj, get_put_sector hm hlen hj32]
    subst hqs
    rw [mergeReqs_last _ hj32 hcov hys, show j - q.key % 32 = i by omega]

/-! ## The rollback log (R352, R354) -/

/-- Changing a found element finds the changed one. -/
theorem find?_mapIf {α : Type} (l : List α) {p : α → Bool} {f : α → α} (h : ∀ x, p (f x) = p x) :
    (mapIf l p f).find? p = (l.find? p).map f := by
  induction l with
  | nil => rfl
  | cons x l ih =>
    show ((if p x then f x else x) :: mapIf l p f).find? p = _
    cases hx : p x with
    | true => simp [hx, h]
    | false => simpa [hx] using ih

theorem groupOf_updGroup (s : State) (g : GroupId) {f : Group → Group} (h : ∀ x, (f x).id = x.id) :
    (s.updGroup g f).groupOf g = (s.groupOf g).map f := by
  have hall : (s.updGroup g f).allGroups = mapIf s.allGroups (fun x => x.id = g) f := by
    simp [State.updGroup, State.allGroups, mapIf]
  unfold State.groupOf
  rw [hall]
  exact find?_mapIf _ fun x => by rw [h]

theorem Written.memOps {s t : State} (h : Written s t) : t.memOps = s.memOps := by rw [h]

theorem Written.groupOf {s t : State} (h : Written s t) (g : GroupId) : t.groupOf g = s.groupOf g := by rw [h]; rfl

/-- The entry that a logged write of a sector makes (Table 11.5). -/
def logEntry (x : Group) (base : Nat) (slot : BitVec 10) (mask : BitVec 32) (old : List Byte) : LogEntry :=
  { pa := base, key := slot, mask := mask, seq := x.logSeq, old := BitVec.ofNat 256 (leOf old) }

theorem logSector_cases (s : State) (g : GroupId) (base : Nat) (slot : BitVec 10) (mask : BitVec 32) (old new : List Byte) :
    s.logSector g base slot mask old new = s ∨ ∃ x, s.groupOf g = some x ∧
      Written (s.updGroup g fun y => { y with logSeq := y.logSeq + 1, log := logEntry x base slot mask old :: y.log })
        (s.logSector g base slot mask old new) := by
  unfold State.logSector
  split
  · exact .inl rfl
  · next x hx =>
    split
    · exact .inl rfl
    · exact .inr ⟨x, hx, homeWrite_written _ _ _ _ _⟩

theorem logSector_memOps (s : State) (g : GroupId) (base : Nat) (slot : BitVec 10) (mask : BitVec 32) (old new : List Byte) :
    (s.logSector g base slot mask old new).memOps = s.memOps := by
  rcases logSector_cases s g base slot mask old new with h | ⟨x, -, h⟩
  · rw [h]
  · exact h.memOps

/-- A task's log grows by one entry at most, of the sector's old bytes. -/
theorem logSector_log {s : State} {g : GroupId} {x : Group} (hx : s.groupOf g = some x) (base : Nat) (slot : BitVec 10)
    (mask : BitVec 32) (old new : List Byte) : ∃ y, (s.logSector g base slot mask old new).groupOf g = some y ∧
      ∀ e ∈ y.log, e ∈ x.log ∨ e = logEntry x base slot mask old := by
  rcases logSector_cases s g base slot mask old new with h | ⟨z, hz, h⟩
  · exact ⟨x, by rw [h]; exact hx, fun e he => .inl he⟩
  · cases hx.symm.trans hz
    refine ⟨_, (h.groupOf g).trans ((groupOf_updGroup s g ?_).trans (by rw [hx]; rfl)), fun e he => ?_⟩
    · exact fun _ => rfl
    · exact (List.mem_cons.mp he).symm

/-! ## Stores (R16, R352, R362) -/

theorem foldl_evalMonitors_written (qs : List Req) (s : State) :
    Written s (qs.foldl (fun (t : State) (q : Req) => t.evalMonitors q.key q.bytes) s) :=
  .foldl (f := fun (t : State) (q : Req) => t.evalMonitors q.key q.bytes) (fun t q => evalMonitors_written t q.key q.bytes) qs s

theorem foldl_evalMonitors_mem (qs : List Req) (s : State) :
    (qs.foldl (fun (t : State) (q : Req) => t.evalMonitors q.key q.bytes) s).mem = s.mem :=
  foldl_mem (fun (t : State) (q : Req) => t.evalMonitors q.key q.bytes) (fun t q => evalMonitors_mem t q.key q.bytes) qs s

/-- The bytes of a sector as a request sees them, and with the sent requests' writes in it. -/
def mergedIn (s : State) (o : MemOp) (sec : Nat) (q0 : Req) : BitVec 32 × List Byte :=
  mergeReqs (s.readKey q0.slot (sec * 32) 32) (sentTo o sec)

/-- The state with a store's requests in a sector written, before they are logged and marked. -/
def storedAt (s : State) (o : MemOp) (sec : Nat) (q0 : Req) : State :=
  (sentTo o sec).foldl (fun (t : State) (q : Req) => t.evalMonitors q.key q.bytes)
    (s.homeSector sec (mergedIn s o sec q0).1 (mergedIn s o sec q0).2 q0.slot (o.policy q0))

theorem storedAt_written (s : State) (o : MemOp) (sec : Nat) (q0 : Req) : Written s (storedAt s o sec q0) :=
  (homeSector_written s sec _ _ q0.slot _).trans (foldl_evalMonitors_written _ _)

/-- The requests of a store that have been performed. -/
def performedIn (o : MemOp) (sec : Nat) : MemOp := o.mapSector sec fun q => { q with status := .performed }

theorem storeSector_eq {s : State} {o : MemOp} {sec : Nat} {q0 : Req} {rest : List Req} (h : sentTo o sec = q0 :: rest) :
    s.storeSector o sec = (if o.logged then (storedAt s o sec q0).logSector o.group (sec * 32) q0.slot (mergedIn s o sec q0).1
      (s.readKey q0.slot (sec * 32) 32) (mergedIn s o sec q0).2 else storedAt s o sec q0).putOp (performedIn o sec) := by
  have hqs : o.reqs.filter (fun q => sectorOf q.key == sec && q.status == .sent) = q0 :: rest := h
  unfold storedAt mergedIn
  rw [h]
  unfold State.storeSector
  simp only [hqs]
  rfl

/-- The requests in one sector are under key material that the sector's block does not differ from. -/
theorem otherKey_of_sector {s : State} {slot : BitVec 10} {key sec : Nat} (hsec : key / 32 = sec)
    (h : s.otherKey (s.keyFor slot key) (key / 512) = none) :
    s.otherKey (s.keyFor slot (sec * 32)) (blockOf (sec * 32)) = none := by
  have hblock : blockOf (sec * 32) = blockOf key := by unfold blockOf; omega
  rw [← keyFor_block, hblock, keyFor_block]
  exact h

theorem storedAt_mem {s : State} (hf : FewErrors s) {o : MemOp} {sec : Nat} {q0 : Req}
    (hk : s.otherKey (s.keyFor q0.slot (sec * 32)) (blockOf (sec * 32)) = none) :
    (storedAt s o sec q0).mem = Memory.put s.mem (sec * 32) (mergeReqs (Memory.bytes s.mem (sec * 32) 32) (sentTo o sec)).2 := by
  unfold storedAt
  rw [foldl_evalMonitors_mem, homeSector_mem hf _ _ _ hk, mergedIn, readKey_of_same 32 fun _ => hk]

/-! ## Loads and flushes (R86, R170) -/

theorem homeRead_served (s : State) (die : Option (Fin 4)) (key n : Nat) (slot : BitVec 10) (p : Policy) :
    Served s (s.homeRead die key n slot p).2.2 :=
  .ite ((cacheRead_served s die key slot p).trans (readPoisoned_served _ _)) (cacheRead_served s die key slot p)

theorem updCore_memOps (s : State) (k : CoreId) (f : Core → Core) : (s.updCore k f).memOps = s.memOps := by
  unfold State.updCore
  split
  · rfl
  · rfl

/-- A load takes the bytes at its requests' addresses, poisoned or not; memory stays. -/
theorem loadSector_takes {s : State} (hf : FewErrors s) {o : MemOp} {sec : Nat} (hne : sentTo o sec ≠ []) :
    (s.loadSector o sec).mem = s.mem ∧ ∃ bad, (s.loadSector o sec).memOps = (s.putOp (o.mapSector sec fun q => { q with
      status := .performed, poison := bad,
      result := BitVec.ofNat 256 (leOf (s.readKey q.slot q.key q.bytes)) })).memOps := by
  obtain ⟨q0, rest, hcons⟩ := List.exists_cons_of_ne_nil hne
  have hqs : o.reqs.filter (fun q => sectorOf q.key == sec && q.status == .sent) = q0 :: rest := hcons
  have hread := homeRead_served s (coreDie o.span.core) q0.key q0.bytes q0.slot (o.policy q0)
  unfold State.loadSector
  simp only [hqs]
  generalize s.homeRead (coreDie o.span.core) q0.key q0.bytes q0.slot (o.policy q0) = r at hread
  have hops : (r.2.2.putOp (o.mapSector sec fun q => { q with
      status := .performed, poison := r.2.1,
      result := BitVec.ofNat 256 (leOf (r.2.2.readKey q.slot q.key q.bytes)) })).memOps =
        (s.putOp (o.mapSector sec fun q => { q with
          status := .performed, poison := r.2.1,
          result := BitVec.ofNat 256 (leOf (s.readKey q.slot q.key q.bytes)) })).memOps := by
    simp only [putOp_memOps, hread.written.memOps, hread.toSameBytes.readKey hf]
  split
  · exact ⟨(updCore_mem _ _ _).trans (hread.few hf).2, r.2.1, (updCore_memOps _ _ _).trans hops⟩
  · exact ⟨(hread.few hf).2, r.2.1, hops⟩

theorem flushLine_served (s : State) (key : Nat) : Served s (s.flushLine key) := by
  unfold State.flushLine
  dsimp only
  split
  · exact (drainLine_served s _).trans (mscWriteback_served _ _)
  · exact mscWriteback_served s _

/-! ## A request at its home (R119, R362) -/

/-- What a home does with the requests of an operation in a sector that it admits, refuses or lets wait. -/
def servedAt (s : State) (o : MemOp) (sec : Nat) : State :=
  match o.kind with
  | .red _ _ | .amo _ _ | .update _ | .bar _ => s
  | .flush => ((sentTo o sec).foldl (fun t q => t.flushLine q.key) s).putOp (performedIn o sec)
  | .load | .store =>
    match s.admitReqs o (sentTo o sec) with
    | .waits w => s.waitForRoom o w
    | .refused r => s.putOp (o.mapSector sec fun q => { q with status := .refused (regionBits r) })
    | .admitted s1 => if o.kind = .load then s1.loadSector o sec else s1.storeSector o sec

section
variable {s : State} {o : MemOp} {sec : Nat}

theorem servedAt_flush (hk : o.kind = .flush) :
    servedAt s o sec = ((sentTo o sec).foldl (fun t q => t.flushLine q.key) s).putOp (performedIn o sec) := by
  unfold servedAt
  rw [hk]

theorem servedAt_refused {r : RegionId} (hk : o.kind = .store ∨ o.kind = .load)
    (ha : s.admitReqs o (sentTo o sec) = .refused r) :
    servedAt s o sec = s.putOp (o.mapSector sec fun q => { q with status := .refused (regionBits r) }) := by
  unfold servedAt
  rcases hk with hk | hk
  · simp only [hk, ha]
  · simp only [hk, ha]

theorem servedAt_store {s1 : State} (hk : o.kind = .store) (ha : s.admitReqs o (sentTo o sec) = .admitted s1) :
    servedAt s o sec = s1.storeSector o sec := by
  unfold servedAt
  simp only [hk, ha]
  rfl

theorem servedAt_load {s1 : State} (hk : o.kind = .load) (ha : s.admitReqs o (sentTo o sec) = .admitted s1) :
    servedAt s o sec = s1.loadSector o sec := by
  unfold servedAt
  simp only [hk, ha]
  rfl

/-- A request that is there, and whose line is not being invalidated if it is a load, is served. -/
theorem accessAtHome_event (ho : s.opOf o.id = some o) (hne : sentTo o sec ≠ []) (hheld : s.heldBehind o sec = false)
    (hfab : s.onFabric o.id sec = false) (hreach : s.reaches (fabricDie o.span.core) (sec * 32) = true)
    (hload : o.kind = .load → s.invalidating (sec / 4) = false) :
    exec (.accessAtHome o.id sec) s = .next (servedAt s o sec) := by
  have hqs : o.reqs.filter (fun q => sectorOf q.key == sec && q.status == .sent) = sentTo o sec := rfl
  have hcond : ¬((sentTo o sec).isEmpty || s.heldBehind o sec || s.onFabric o.id sec ||
      !s.reaches (fabricDie o.span.core) (sec * 32) || (decide (o.kind = .load) && s.invalidating (sec / 4))) = true := by
    simpa [hne, hheld, hfab, hreach] using hload
  show Host.Outcome.next (s.accessAtHome o.id sec) = _
  unfold State.accessAtHome servedAt
  simp only [ho, hqs, if_neg hcond]
  cases o.kind <;> rfl

end

/-! ## What the requests of each kind leave (O46) -/

section
variable {s : State} {o : MemOp} {sec : Nat}

/-- A store that is admitted writes its requests' bytes, and is performed. -/
theorem store_performed {s1 : State} (hne : sentTo o sec ≠ []) (hf : FewErrors s)
    (hkey : ∀ q ∈ sentTo o sec, s.otherKey (s.keyFor q.slot q.key) (q.key / 512) = none ∧ ∀ x ∈ sentTo o sec, q.slot = x.slot)
    (hs : s.safe) (ha : s.admitReqs o (sentTo o sec) = .admitted s1) :
    (o.logged = false →
      (∀ a : Nat, (∀ q ∈ sentTo o sec, a < q.key ∨ q.key + q.bytes ≤ a) →
        Memory.get (s1.storeSector o sec).mem a = Memory.get s.mem a) ∧
      ∀ (xs : List Req) (q : Req) (ys : List Req) (i : Nat), sentTo o sec = xs ++ q :: ys → i < q.bytes → (q.key + i) / 32 = sec →
        (∀ x ∈ ys, q.key + i < x.key ∨ x.key + x.bytes ≤ q.key + i) →
        Memory.get (s1.storeSector o sec).mem (q.key + i) = BitVec.ofNat 8 (q.data.toNat / 256 ^ i)) ∧
    ((s1.storeSector o sec).memOps = (s.putOp (performedIn o sec)).memOps) ∧
    ∀ g, o.logged = true → s.groupOf o.group = some g → ∃ h, (s1.storeSector o sec).groupOf o.group = some h ∧
      ∀ e ∈ h.log, e ∈ g.log ∨ (e.pa = sec * 32 ∧ e.seq = g.logSeq ∧
        ∃ q ∈ sentTo o sec, e.key = q.slot ∧ e.old = BitVec.ofNat 256 (leOf (s.readKey q.slot (sec * 32) 32))) := by
  obtain ⟨q0, rest, hcons⟩ := List.exists_cons_of_ne_nil hne
  have hq0 : q0 ∈ sentTo o sec := by rw [hcons]; exact List.mem_cons_self
  have hrec := admitReqs_recorded ha
  have hsame := hrec.sameBytes
  have hwritten := storedAt_written s1 o sec q0
  rw [storeSector_eq hcons]
  refine ⟨fun hlog => ?_, ?_, fun g hlog hg => ?_⟩
  · have hkey1 : s1.otherKey (s1.keyFor q0.slot (sec * 32)) (blockOf (sec * 32)) = none := by
      rw [hsame.keyFor, hsame.otherKey]
      exact otherKey_of_sector (mem_sentTo hq0) (hkey q0 hq0).1
    have hmem := storedAt_mem (o := o) (hsame.few hf).1 hkey1
    rw [(hsame.few hf).2] at hmem
    rw [hlog, if_neg Bool.false_ne_true, putOp_mem, hmem]
    exact put_merged hs fun q hq => mem_sentTo hq
  · rw [putOp_memOps, putOp_memOps]
    split
    · rw [logSector_memOps, hwritten.memOps, hrec.memOps]
    · rw [hwritten.memOps, hrec.memOps]
  · rw [if_pos hlog]
    have hg1 : (storedAt s1 o sec q0).groupOf o.group = some g := by rw [hwritten.groupOf, hrec.groupOf, hg]
    obtain ⟨h, hh, hentries⟩ := logSector_log hg1 (sec * 32) q0.slot (mergedIn s1 o sec q0).1
      (s1.readKey q0.slot (sec * 32) 32) (mergedIn s1 o sec q0).2
    refine ⟨h, hh, fun e he => (hentries e he).imp_right fun heq => ?_⟩
    subst heq
    exact ⟨rfl, rfl, q0, hq0, rfl, by rw [← hsame.readKey hf]; rfl⟩

end

/-! ## Acknowledgements (R120, R326, R365) -/

theorem mapIf_of_none {α : Type} {l : List α} {p : α → Bool} (f : α → α) (h : ∀ x ∈ l, p x = false) : mapIf l p f = l := by
  unfold mapIf
  exact (List.map_congr_left fun x hx => by rw [h x hx]; rfl).trans (List.map_id l)

/-- The operation with its performed requests in a sector acknowledged. -/
def ackedIn (o : MemOp) (sec : Nat) : MemOp :=
  { o with reqs := mapIf o.reqs (fun q => sectorOf q.key == sec && q.status == .performed) fun q => { q with status := .acked } }

theorem mem_ackedIn {o : MemOp} {sec : Nat} {x : Req} : x ∈ (ackedIn o sec).reqs ↔
    ∃ q ∈ o.reqs, (if q.key / 32 = sec ∧ q.status = .performed then { q with status := .acked } else q) = x := by
  simp [ackedIn, mapIf, sectorOf]

theorem ackedIn_eq (o : MemOp) (sec : Nat) : ackedIn o sec = { o with reqs := o.reqs.map fun q =>
    if q.key / 32 = sec ∧ q.status = .performed then { q with status := .acked } else q } := by
  simp [ackedIn, mapIf, sectorOf]

/-- The kinds of access that are acknowledged, and do not return a value. -/
def Posts (k : AccessKind) : Prop := k = .store ∨ k = .flush ∨ (∃ op t, k = .red op t) ∨ ∃ n, k = .update n

section
variable {s : State} {o : MemOp} {sec : Nat} (ho : s.opOf o.id = some o) (hinv : s.invalidating (sec / 4) = false)
  (hrep : s.replying o.id sec = false) (hk : Posts o.kind)
  (hall : ∀ q ∈ o.reqs, q.key / 32 = sec → q.status = .performed ∨ q.status = .acked)
include ho hinv hrep hk hall

/-- Where nothing has been refused, the acknowledgement marks the performed requests, and ends the operation with the last
of them. -/
theorem acknowledge_marks : s.acknowledge o.id sec =
    (if (ackedIn o sec).over_ then { s with memOps := s.memOps.filter fun x => x.id != o.id }
      else s.putOp (ackedIn o sec)).settleMerged := by
  have hbad : ∀ q ∈ o.reqs, (sectorOf q.key == sec && q.wasRefused) = false := fun q hq => by
    by_cases hin : sectorOf q.key = sec
    · rcases hall q hq hin with h | h
      · simp [Req.wasRefused, h]
      · simp [Req.wasRefused, h]
    · simp [hin]
  have hnobad : o.reqs.filter (fun q => sectorOf q.key == sec && q.wasRefused) = [] :=
    List.filter_eq_nil_iff.mpr fun q hq => by rw [hbad q hq]; exact Bool.false_ne_true
  have hack : mapIf (ackedIn o sec).reqs (fun q => sectorOf q.key == sec && q.wasRefused) (fun q => { q with status := .acked }) =
      (ackedIn o sec).reqs := by
    refine mapIf_of_none _ fun x hx => ?_
    obtain ⟨q, hq, rfl⟩ := List.mem_map.mp hx
    split
    · simp [Req.wasRefused]
    · exact hbad q hq
  have hnotrap : ∀ r, o.deferred 11 (fun q => sectorOf q.key == sec && q.wasRefused) r false = none := fun r => by
    unfold MemOp.deferred
    rw [hnobad]
  have hgo : ¬(decide (o.kind = .load) || s.invalidating (sec / 4) || s.replying o.id sec) = true := by
    have hload : o.kind ≠ .load := fun h => by simp [Posts, h] at hk
    simp [hload, hinv, hrep]
  unfold State.acknowledge
  simp only [ho, if_neg hgo]
  split
  · next h => simp [Posts, h] at hk
  · next h => simp [Posts, h] at hk
  · rw [hnotrap]
    show (if MemOp.over_ { ackedIn o sec with reqs := mapIf (ackedIn o sec).reqs _ _ } then _
      else s.putOp { ackedIn o sec with reqs := mapIf (ackedIn o sec).reqs _ _ }).settleMerged = _
    rw [hack]

/-- The last acknowledgement ends the operation. -/
theorem acknowledge_ends (hlast : ∀ q ∈ o.reqs, q.key / 32 ≠ sec → q.status = .acked ∨ q.status = .unreachable) :
    s.acknowledge o.id sec = ({ s with memOps := s.memOps.filter fun x => x.id != o.id } : State).settleMerged := by
  have hover : (ackedIn o sec).over_ = true := by
    refine List.all_eq_true.mpr fun x hx => ?_
    obtain ⟨q, hq, rfl⟩ := mem_ackedIn.mp hx
    by_cases hin : q.key / 32 = sec
    · rcases hall q hq hin with h | h
      · simp [hin, h]
      · simp [h]
    · rcases hlast q hq hin with h | h
      · simp [h]
      · simp [h]
  rw [acknowledge_marks ho hinv hrep hk hall, if_pos hover]

/-- While another sector's request is on its way, the operation stays. -/
theorem acknowledge_stays (hmore : ∃ q ∈ o.reqs, q.key / 32 ≠ sec ∧ q.status = .sent) :
    s.acknowledge o.id sec = (s.putOp (ackedIn o sec)).settleMerged := by
  obtain ⟨q, hq, hout, hsent⟩ := hmore
  have hopen : ¬(ackedIn o sec).over_ = true := by
    unfold MemOp.over_
    rw [List.all_eq_true]
    refine fun h => absurd (h q (mem_ackedIn.mpr ⟨q, hq, if_neg fun hin => hout hin.1⟩)) ?_
    simp [hsent]
  rw [acknowledge_marks ho hinv hrep hk hall, if_neg hopen]

end

/-- Settles O46: a home serves the requests of a kind as `servedAt` says, and acknowledgements mark what it has performed. -/
theorem accessesAtHome : Obligations.AccessesAtHome := by
  refine ⟨fun s s1 o sec qs r ho hqs hne hheld hfab hreach hf hkey => ?_,
    fun s o sec ho hinv hrep hk hall => ⟨fun hlast => ?_, fun hmore => ?_, settleMerged_of_unmerged⟩⟩
  · obtain rfl : qs = sentTo o sec := hqs
    have hserved := accessAtHome_event ho hne hheld hfab hreach
    refine ⟨fun hs hk ha => ?_, fun hk hinv ha => ?_, fun hk ha => ?_, fun hk => ?_⟩
    · refine ⟨_, hserved fun h => (by rw [hk] at h; cases h), ?_⟩
      rw [servedAt_store hk ha]
      obtain ⟨hmem, hops, hlog⟩ := store_performed hne hf hkey hs ha
      exact ⟨hmem, hops.trans (putOp_mapSector s o sec _), hlog⟩
    · have hrec := admitReqs_recorded ha
      obtain ⟨hf1, hmem1⟩ := hrec.sameBytes.few hf
      refine ⟨_, hserved fun _ => hinv, ?_⟩
      rw [servedAt_load hk ha]
      obtain ⟨hmem, bad, hops⟩ := loadSector_takes hf1 hne
      refine ⟨hmem.trans hmem1, bad, hops.trans ?_⟩
      rw [putOp_mapSector, hrec.memOps]
      simp only [hrec.sameBytes.readKey hf]
    · refine ⟨_, hserved fun h => hk.elim (fun hst => by rw [hst] at h; cases h) And.right, ?_⟩
      rw [servedAt_refused (hk.imp_right And.left) ha]
      exact ⟨rfl, putOp_mapSector s o sec _⟩
    · refine ⟨_, hserved fun h => (by rw [hk] at h; cases h), ?_⟩
      rw [servedAt_flush hk]
      have hflush : Served s ((sentTo o sec).foldl (fun t q => t.flushLine q.key) s) :=
        .foldl (fun t (q : Req) => flushLine_served t q.key) _ s
      refine ⟨(hflush.few hf).2, (putOp_mapSector _ o sec _).trans ?_⟩
      rw [hflush.written.memOps]
  · exact ⟨_, rfl, acknowledge_ends ho hinv hrep hk hall hlast⟩
  · refine ⟨_, rfl, (acknowledge_stays ho hinv hrep hk hall hmore).trans ?_⟩
    rw [← ackedIn_eq, State.putOp, mapIf]
    simp only [beq_iff_eq]
    rfl

end Sys2Proof.Laws

end

section
/-! # Isolating a die leaves the fabric (R129)

Whether a die is cut off depends on the Girth links alone, so that the resets which follow the isolation of one die of a link
leave the question for the other die as it was. -/

namespace Sys2Proof.Laws

open Sys2Proof Sys2Proof.Machine

@[simp] theorem fabric_ite (c : Prop) [Decidable c] (x y : State) :
    (if c then x else y).fabric = if c then x.fabric else y.fabric := by
  split <;> rfl

@[simp] theorem foldl_fabric {α : Type} (f : State → α → State) (h : ∀ t x, (f t x).fabric = t.fabric) (l : List α) (s : State) :
    (l.foldl f s).fabric = s.fabric :=
  List.foldlRecOn (motive := fun t => t.fabric = s.fabric) l f rfl fun t ht x _ => (h t x).trans ht

theorem Written.fabric {s t : State} (h : Written s t) : t.fabric = s.fabric := by rw [h]

/-! ## Spans, groups and regions -/

@[simp] theorem updSpan_fabric (s : State) (id : SpanId) (f : Span → Span) : (s.updSpan id f).fabric = s.fabric := rfl

@[simp] theorem updGroup_fabric (s : State) (g : GroupId) (f : Group → Group) : (s.updGroup g f).fabric = s.fabric := rfl

@[simp] theorem updCore_fabric (s : State) (k : CoreId) (f : Core → Core) : (s.updCore k f).fabric = s.fabric := by
  simp [State.updCore]

@[simp] theorem withdraw_fabric (s : State) (id : SpanId) : (s.withdraw id).fabric = s.fabric := by
  simp [State.withdraw]

@[simp] theorem endRegionOf_fabric (s : State) (id : SpanId) : (s.endRegionOf id).fabric = s.fabric := by
  unfold State.endRegionOf
  split
  · rfl
  · exact updCore_fabric _ _ _

@[simp] theorem updHolder_fabric (s : State) (r : RegionId) (f : Span → Span) : (s.updHolder r f).fabric = s.fabric := by
  unfold State.updHolder
  split
  · rfl
  · simp

@[simp] theorem closeRegion_fabric (s : State) (r : RegionId) : (s.closeRegion r).fabric = s.fabric := updHolder_fabric s r _

/-! ## Saddles and logs (R350, R353) -/

@[simp] theorem giveSaddle_fabric (s : State) (id : SpanId) (g : Group) (r : Saddle) :
    (s.giveSaddle id g r).fabric = s.fabric := by
  simp [State.giveSaddle]

@[simp] theorem serveWaiters_fabric (s : State) : s.serveWaiters.fabric = s.fabric := by
  refine foldl_fabric _ (fun t p => ?_) _ s
  dsimp only
  split
  · simp
  · rfl

@[simp] theorem releaseSaddles_fabric (s : State) (g : GroupId) : (s.releaseSaddles g).fabric = s.fabric := serveWaiters_fabric _

@[simp] theorem homeWrite_fabric (s : State) (key : Nat) (bs : List Byte) (slot : BitVec 10) (p : Policy) :
    (s.homeWrite key bs slot p).fabric = s.fabric := (homeWrite_written s key bs slot p).fabric

@[simp] theorem rollback_fabric (s : State) (g : Group) : (s.rollback g).fabric = s.fabric :=
  (releaseSaddles_fabric _ _).trans (foldl_fabric _ (fun t _ => homeWrite_fabric t _ _ _ _) g.log s)

/-! ## Reports and the studbook (R435, R436) -/

@[simp] theorem writeCoded_fabric (s : State) (a : DWord) (off : Nat) (bs : List Byte) :
    (s.writeCoded a off bs).fabric = s.fabric := by
  unfold State.writeCoded
  split
  · rfl
  · exact homeWrite_fabric s _ _ _ _

@[simp] theorem placeReports_fabric (s : State) (rs : List (BitVec 512)) : (s.placeReports rs).fabric = s.fabric := by
  induction rs generalizing s with
  | nil => rfl
  | cons r t ih =>
    unfold State.placeReports
    dsimp only
    split
    · rfl
    · split
      · rfl
      · rw [ih]
        exact writeCoded_fabric s _ _ _

@[simp] theorem journal_fabric (s : State) (die : Fin 4) (box : BitVec 12) (cause : BitVec 4) (launch : DWord)
    (outcome code : BitVec 8) : (s.journal die box cause launch outcome code).fabric = s.fabric :=
  homeWrite_fabric s _ _ _ _

/-! ## Groups that leave -/

@[simp] theorem liftSpan_fabric (s : State) (id : SpanId) : (s.liftSpan id).fabric = s.fabric := by
  simp [State.liftSpan]

@[simp] theorem removeSpan_fabric (s : State) (id : SpanId) : (s.removeSpan id).fabric = s.fabric := by
  unfold State.removeSpan
  split
  · rfl
  · simp

@[simp] theorem dropGroup_fabric (s : State) (g : GroupId) : (s.dropGroup g).fabric = s.fabric := by
  unfold State.dropGroup State.dropGroupBy
  split
  · rfl
  · simp

@[simp] theorem forgetOps_fabric (s : State) (g : Group) : (s.forgetOps g).fabric = s.fabric := updCore_fabric s _ _

@[simp] theorem report_fabric (s : State) (r : BitVec 512) : (s.report r).fabric = s.fabric := placeReports_fabric _ _

@[simp] theorem setBox_fabric (s : State) (die : Fin 4) (box : BitVec 12) (x : BitVec 3) : (s.setBox die box x).fabric = s.fabric := rfl

@[simp] theorem resetGroup_fabric (s : State) (g : Group) : (s.resetGroup g).fabric = s.fabric := by
  simp only [State.resetGroup, journal_fabric, report_fabric, dropGroup_fabric, setBox_fabric, forgetOps_fabric, rollback_fabric]

/-! ## Accesses that become unreachable -/

@[simp] theorem logUnreachable_fabric (s : State) (key : Nat) : (s.logUnreachable key).fabric = s.fabric := by
  obtain ⟨far, n, h⟩ := logUnreachable_logged s key
  rw [h]

@[simp] theorem holdUnreachable_fabric (s : State) (o : MemOp) (va : DWord) : (s.holdUnreachable o va).fabric = s.fabric := by
  unfold State.holdUnreachable
  split
  · rfl
  · simp [State.hold]

@[simp] theorem settleMerged_fabric (s : State) : s.settleMerged.fabric = s.fabric := by
  simp [State.settleMerged]

@[simp] theorem unreachable_fabric (s : State) (o : MemOp) (p : Req → Bool) : (s.unreachable o p).fabric = s.fabric := by
  unfold State.unreachable
  dsimp only
  split
  · rfl
  · simp [State.putOp]

@[simp] theorem isolate_fabric (s : State) (d : DieId) : (s.isolate d).fabric = s.fabric :=
  (foldl_fabric _ (fun t g => resetGroup_fabric t g) _ _).trans (foldl_fabric _ (fun t o => unreachable_fabric t o _) s.memOps s)

@[simp] theorem isolate_cutOff (s : State) (d e : DieId) : (s.isolate d).cutOff e = s.cutOff e := by
  unfold State.cutOff
  rw [isolate_fabric]

end Sys2Proof.Laws

end

section
/-! # Packets, routers and their detectors (O50) -/

namespace Sys2Proof.Laws

open Sys2Proof Sys2Proof.Machine

/-! ## Packets held up (R110, R111) -/

theorem updPacket_eq (s : State) (id : Nat) (f : Packet → Packet) : s.updPacket id f = { s with fabric := { s.fabric with
    packets := s.fabric.packets.map fun q => if q.id = id then f q else q } } := by
  unfold State.updPacket mapIf
  simp only [beq_iff_eq]

theorem lastFlit_noteFlit_same (s : State) (d : DieId) (r : Nat) : (s.noteFlit d r).lastFlit d r = fabricCycles s.now := by
  simp [State.lastFlit, State.noteFlit]

theorem lastFlit_noteFlit_other (s : State) {d e : DieId} {r x : Nat} (h : (e, x) ≠ (d, r)) :
    (s.noteFlit d r).lastFlit e x = s.lastFlit e x := by
  have hne : ¬(e = d ∧ x = r) := fun ⟨hd, hr⟩ => h (by rw [hd, hr])
  have hrest := find?_filter_of_imp (p := fun y : DieId × Nat × Nat => y.1 == e && y.2.1 == x)
    (q := fun y => !(y.1 == d && y.2.1 == r)) s.fabric.idle fun y hy => by
      obtain ⟨rfl, rfl⟩ : y.1 = e ∧ y.2.1 = x := by simpa using hy
      simpa using not_and_or.mp hne
  have hidle : (s.noteFlit d r).fabric.idle.find? (fun y => y.1 == e && y.2.1 == x) =
      s.fabric.idle.find? fun y => y.1 == e && y.2.1 == x := by
    refine Eq.trans (List.find?_cons_of_neg ?_) hrest
    simpa using fun hd hr => hne ⟨Eq.symm hd, Eq.symm hr⟩
  unfold State.lastFlit
  rw [hidle]

theorem unknownPacket_stays {s : State} {id : Nat} (h : s.packetOf id = none) :
    exec (.timeoutDetectorExpiry id) s = .next s ∧ exec (.misroute id) s = .next s ∧ exec (.bridleReceive id) s = .next s := by
  refine ⟨?_, ?_, ?_⟩
  · show execTimeoutDetectorExpiry id s = _
    simp only [execTimeoutDetectorExpiry, h]
    rfl
  · show execMisroute id s = _
    simp only [execMisroute, h]
    rfl
  · show execBridleReceive id s = _
    simp only [execBridleReceive, h]
    rfl

/-- A packet that takes a port by a misroute. -/
def misrouted (o : DieId × Nat × Nat) (q : Packet) : Packet :=
  { q with pos := .input o.1 o.2.1 o.2.2, wait := 3, stall := 0, expired := false, misroutes := q.misroutes + 1 }

section
variable {s : State} {p : Packet} (hp : s.packetOf p.id = some p)
include hp

theorem notAtInput_stays (h : ∀ d x k, p.pos ≠ .input d x k) :
    exec (.timeoutDetectorExpiry p.id) s = .next s ∧ exec (.misroute p.id) s = .next s := by
  have hnone : p.input = none := by
    unfold Packet.input
    split
    · next hpos => exact absurd hpos (h _ _ _)
    · rfl
  constructor
  · show execTimeoutDetectorExpiry p.id s = _
    simp only [execTimeoutDetectorExpiry, hp, hnone]
    rfl
  · show execMisroute p.id s = _
    simp only [execMisroute, hp, hnone]
    rfl

theorem bridleReceive_accepts {x : Stop} (hpos : p.pos = .slot x) : exec (.bridleReceive p.id) s = .next (s.arrive p) := by
  show execBridleReceive p.id s = _
  simp only [execBridleReceive, hp, hpos]
  rfl

theorem bridleReceive_event {die : DieId} {r : Nat} (hpos : p.pos = .bridle die r) : exec (.bridleReceive p.id) s =
    .next (if p.dst.die == die && p.dst.router == r && p.wait == 0 && s.freePos (.slot p.dst)
      then s.updPacket p.id fun x => { x with pos := .slot p.dst } else s) := by
  show execBridleReceive p.id s = _
  simp only [execBridleReceive, hp, hpos]
  rfl

theorem bridleReceive_elsewhere (hb : ∀ d x, p.pos ≠ .bridle d x) (hs : ∀ x, p.pos ≠ .slot x) :
    exec (.bridleReceive p.id) s = .next s := by
  show execBridleReceive p.id s = _
  simp only [execBridleReceive, hp]
  rfl

variable {die : DieId} {r port : Nat} (hpos : p.pos = .input die r port)
include hpos

theorem timeoutDetectorExpiry_event : exec (.timeoutDetectorExpiry p.id) s =
    .next (if s.thresholdOf die ≤ p.stall then s.updPacket p.id fun x => { x with expired := true } else s) := by
  have hin : p.input = some (die, r, port) := by unfold Packet.input; rw [hpos]
  show execTimeoutDetectorExpiry p.id s = _
  simp only [execTimeoutDetectorExpiry, hp, hin]
  rfl

theorem misroute_stays (h : 2 ≤ p.misroutes ∨ p.stall < 1024 ∨ s.freeOf die (s.choices die r p false) = []) :
    exec (.misroute p.id) s = .next s := by
  have hin : p.input = some (die, r, port) := by unfold Packet.input; rw [hpos]
  have hnone : ¬(2 ≤ p.misroutes ∨ p.stall < 1024) → s.freeOf die (s.choices die r p false) = [] := fun hn =>
    (or_assoc.mpr h).resolve_left hn
  show execMisroute p.id s = _
  simp only [execMisroute, hp, hin]
  split
  · rfl
  · next hwait =>
    rw [Bool.or_eq_true, decide_eq_true_eq, decide_eq_true_eq] at hwait
    rw [hnone hwait]
    rfl

/-- A packet that may misroute takes one of the free ports, and a flit passes at both routers. -/
theorem misroute_takes (hm : p.misroutes < 2) (hw : 1024 ≤ p.stall) (hfree : s.freeOf die (s.choices die r p false) ≠ []) :
    Answers (.misroute p.id) s (fun u => ∃ o ∈ s.freeOf die (s.choices die r p false),
      u = { s with
        fresh := u.fresh,
        fabric := { s.fabric with
          idle := u.fabric.idle,
          packets := s.fabric.packets.map fun q => if q.id = p.id then misrouted (die, o) q else q } } ∧
      u.lastFlit die r = fabricCycles s.now ∧ u.lastFlit die o.1 = fabricCycles s.now ∧
      ∀ d x, (d, x) ≠ (die, r) → (d, x) ≠ (die, o.1) → u.lastFlit d x = s.lastFlit d x) := by
  have hin : p.input = some (die, r, port) := by unfold Packet.input; rw [hpos]
  have hcond : ¬(decide (2 ≤ p.misroutes) || decide (p.stall < misrouteCycles)) = true := by
    rw [Bool.or_eq_true, decide_eq_true_eq, decide_eq_true_eq, show misrouteCycles = 1024 from rfl]
    omega
  obtain ⟨o, os, hos⟩ := List.exists_cons_of_ne_nil hfree
  obtain ⟨i, n, hone⟩ := oneOf_draws s (os.length + 1)
  have hmem : listAt (o :: os) i o ∈ s.freeOf die (s.choices die r p false) := by
    rw [hos]
    exact listAt_mem i List.mem_cons_self
  have hexec : exec (.misroute p.id) s = .next (({ s with fresh := n } : State).hop p die r (listAt (o :: os) i o) true) := by
    show execMisroute p.id s = _
    simp only [execMisroute, hp, hin, if_neg hcond, hos, hone]
    rfl
  generalize listAt (o :: os) i o = port at hmem hexec
  refine ⟨_, hexec, port, hmem, ?_, ?_, lastFlit_noteFlit_same _ _ _, fun d x h1 h2 => ?_⟩
  · unfold State.hop
    rw [updPacket_eq]
    rfl
  · by_cases h : (die, r) = (die, port.1)
    · rw [show r = port.1 from congrArg Prod.snd h]
      exact lastFlit_noteFlit_same _ _ _
    · exact (lastFlit_noteFlit_other _ h).trans (lastFlit_noteFlit_same _ _ _)
  · exact (lastFlit_noteFlit_other _ h2).trans (lastFlit_noteFlit_other _ h1)

end

/-! ## The Halter (R112, R115) -/

/-- What a trace record enters in the error log and the counters is what its write does (R438). -/
theorem trace_logs (s : State) (kind data : Nat) : Logs s (s.trace kind data) := by
  have hwrite : ∀ (a : DWord) (off : Nat) (bs : List Byte), Logs s (s.writeCoded a off bs) := fun a off bs => by
    unfold State.writeCoded
    split
    · exact ⟨fun _ he => he, fun _ _ => rfl⟩
    · exact homeWrite_logs s _ bs 0 Policy.plain
  unfold State.trace
  dsimp only
  split
  · exact .refl s
  · split
    · exact ⟨fun _ he => he, fun _ _ => rfl⟩
    · exact (hwrite _ _ _).trans ⟨fun _ he => he, fun _ _ => rfl⟩

@[simp] theorem trace_fabric (s : State) (kind data : Nat) : (s.trace kind data).fabric = s.fabric := by
  unfold State.trace
  dsimp only
  split
  · rfl
  · split
    · rfl
    · exact writeCoded_fabric s _ _ _

theorem putHalter_halters (s : State) (h : Halter) : (s.putHalter h).fabric.halters =
    s.fabric.halters.map fun x => if x.die = h.die then h else x := by
  unfold State.putHalter mapIf
  simp only [beq_iff_eq]

theorem noHalter_stays {s : State} {die : DieId} (h : s.fabric.halters.find? (fun x => x.die == die) = none) :
    exec (.halterCapture die) s = .next s ∧ exec (.halterRegenerate die) s = .next s := by
  constructor
  · show execHalterCapture die s = _
    simp only [execHalterCapture, h]
    rfl
  · show execHalterRegenerate die s = _
    simp only [execHalterRegenerate, h]
    rfl

section
variable {s : State} {die : DieId} {h : Halter} (hh : s.fabric.halters.find? (fun x => x.die == die) = some h)
include hh

theorem halterRegenerate_event : exec (.halterRegenerate die) s = .next (if h.stop.isNone && 2 * routersOf die ≤ h.unseen
    then (s.putHalter { h with stop := some 0, unseen := 0 }).logError (.halter die) else s) := by
  show execHalterRegenerate die s = _
  simp only [execHalterRegenerate, hh]
  rfl

theorem halterCapture_lost (hs : h.stop = none) : exec (.halterCapture die) s = .next s := by
  show execHalterCapture die s = _
  simp only [execHalterCapture, hh, hs]
  rfl

theorem halterRegenerate_answers (hs : h.stop = none) (hu : 2 * routersOf die ≤ h.unseen) :
    Answers (.halterRegenerate die) s (fun u => u = { s with
      fabric := { s.fabric with halters := s.fabric.halters.map fun x =>
        if x.die = h.die then { h with stop := some 0, unseen := 0 } else x },
      host := { s.host with errors := .halter die :: s.host.errors } }) := by
  refine ⟨_, halterRegenerate_event hh, ?_⟩
  rw [if_pos (by simp [hs, hu])]
  unfold State.putHalter mapIf
  simp only [beq_iff_eq]
  rfl

variable {n : Nat} (hs : h.stop = some n)
include hs

theorem halterCapture_stays (hc : s.suspect die n = none ∨ s.freePos (.bridle die n) = false) :
    exec (.halterCapture die) s = .next s := by
  show execHalterCapture die s = _
  simp only [execHalterCapture, hh, hs]
  split
  · rfl
  · next p hp =>
    have hfull : s.freePos (.bridle die n) = false := hc.resolve_left fun h => by rw [hp] at h; cases h
    simp only [hfull]
    rfl

/-- The drained packet stands in the Bridle buffer, the Halter goes on, and the drain is counted. -/
theorem halterCapture_answers {p : Packet} (hp : s.suspect die n = some p) (hfree : s.freePos (.bridle die n) = true) :
    Answers (.halterCapture die) s (fun u =>
      (u.fabric.packets = s.fabric.packets.map fun q => if q.id = p.id then { q with
        pos := .bridle die n, wait := 6, stall := 0, expired := false } else q) ∧
      (u.fabric.halters = s.fabric.halters.map fun x =>
        if x.die = h.die then { h with stop := some ((n + 1) % routersOf die), unseen := 0 } else x) ∧
      (s.counterOf (.drains die n) ≠ BitVec.allOnes 64 →
        u.counterOf (.drains die n) = s.counterOf (.drains die n) + 1)) := by
  have hexec : exec (.halterCapture die) s = .next ((((s.updPacket p.id fun q =>
      { q with pos := .bridle die n, wait := bridleCycles, stall := 0, expired := false }).putHalter
        { h with stop := some ((n + 1) % routersOf die), unseen := 0 }).count (.drains die n)).trace 4 (die.val + n * 2 ^ 64)) := by
    show execHalterCapture die s = _
    simp only [execHalterCapture, hh, hs, hp, hfree]
    rfl
  refine ⟨_, hexec, ?_, ?_, fun hc => ?_⟩
  · rw [trace_fabric, updPacket_eq]
    rfl
  · rw [trace_fabric]
    exact putHalter_halters (s.updPacket _ _) _
  · rw [(trace_logs _ _ _).counters _ rfl]
    exact counterOf_count_same (s := (s.updPacket _ _).putHalter _) hc

end

/-! ## Power gating (R123, R124) -/

theorem gates_iff {s : State} {die : DieId} {router : Nat} : s.gates die router = true ↔ router < routersOf die ∧
    s.powered die router = true ∧ s.lastFlit die router + 512 ≤ fabricCycles s.now ∧ s.packetIn die router = false := by
  simp [State.gates, and_assoc]

theorem routerPowerGate_event (die : DieId) (router : Nat) (s : State) : exec (.routerPowerGate die router) s =
    .next (if s.gates die router then
      { s with fabric := { s.fabric with gated := (die, router, fabricCycles s.now) :: s.fabric.gated } } else s) := rfl

/-- The entries of other routers in a list of routers. -/
def otherRouters (die : DieId) (router : Nat) (l : List (DieId × Nat × Nat)) : List (DieId × Nat × Nat) :=
  l.filter fun y => !(y.1 == die && y.2.1 == router)

theorem routerWake_waking {s : State} {die : DieId} {router : Nat} {x : DieId × Nat × Nat}
    (h : s.fabric.waking.find? (fun y => y.1 == die && y.2.1 == router) = some x) : exec (.routerWake die router) s =
    .next (if x.2.2 = 0 then
      ({ s with fabric := { s.fabric with waking := otherRouters die router s.fabric.waking } } : State).noteFlit die router else s) := by
  show execRouterWake die router s = _
  simp only [execRouterWake, h]
  rfl

section
variable {s : State} {die : DieId} {router : Nat} (h : s.fabric.waking.find? (fun y => y.1 == die && y.2.1 == router) = none)
include h

theorem routerWake_signals : exec (.routerWake die router) s =
    .next (if router < routersOf die then s.wakeSignal die router else s) := by
  show execRouterWake die router s = _
  simp only [execRouterWake, h]
  rfl

/-- A powered router that is woken starts its idle count again. -/
theorem wakeSignal_powered (hg : s.isGated die router = false) : s.wakeSignal die router = s.noteFlit die router := by
  have hnone : s.fabric.gated.find? (fun y => y.1 == die && y.2.1 == router) = none := by
    simpa [State.isGated] using hg
  have hpow : s.powered die router = true := by
    have hw : s.fabric.waking.any (fun y => y.1 == die && y.2.1 == router) = false := by simpa using h
    unfold State.powered
    rw [hw]
    simpa [State.isGated] using hg
  unfold State.wakeSignal
  simp only [hnone, hpow, if_true]

/-- A gated router that is woken begins to wake, or stays powered when it was gated in this very cycle. -/
theorem wakeSignal_gated {x : DieId × Nat × Nat} (hg : s.fabric.gated.find? (fun y => y.1 == die && y.2.1 == router) = some x) :
    s.wakeSignal die router = if x.2.2 = fabricCycles s.now
      then ({ s with fabric := { s.fabric with gated := otherRouters die router s.fabric.gated } } : State).noteFlit die router
      else { s with fabric := { s.fabric with
        gated := otherRouters die router s.fabric.gated, waking := (die, router, 24) :: s.fabric.waking } } := by
  have hrest : s.fabric.waking.filter (fun y => !(y.1 == die && y.2.1 == router)) = s.fabric.waking :=
    List.filter_eq_self.mpr fun y hy => by
      simpa [imp_iff_not_or] using List.find?_eq_none.mp h y hy
  unfold State.wakeSignal
  simp only [hg, hrest]
  rfl

theorem routerWake_gated {x : DieId × Nat × Nat} (hr : router < routersOf die)
    (hg : s.fabric.gated.find? (fun y => y.1 == die && y.2.1 == router) = some x) :
    Answers (.routerWake die router) s (fun u =>
      (u.fabric.gated = s.fabric.gated.filter fun y => !(y.1 == die && y.2.1 == router)) ∧
      (x.2.2 = fabricCycles s.now →
        u = { s with fabric := { s.fabric with gated := u.fabric.gated, idle := u.fabric.idle } } ∧
        u.lastFlit die router = fabricCycles s.now) ∧
      (x.2.2 ≠ fabricCycles s.now → u = { s with fabric := { s.fabric with
        gated := u.fabric.gated, waking := (die, router, 24) :: s.fabric.waking } })) := by
  refine ⟨_, routerWake_signals h, ?_⟩
  rw [if_pos hr, wakeSignal_gated h hg]
  by_cases hx : x.2.2 = fabricCycles s.now
  · rw [if_pos hx]
    exact ⟨rfl, fun _ => ⟨rfl, lastFlit_noteFlit_same _ _ _⟩, fun hne => absurd hx hne⟩
  · rw [if_neg hx]
    exact ⟨rfl, fun heq => absurd heq hx, fun _ => rfl⟩

end

end Sys2Proof.Laws

end

section
/-! # Girth and Hitch links, stitching and domains (O50) -/

namespace Sys2Proof.Laws

open Sys2Proof Sys2Proof.Machine

/-! ## Retraining a Girth link (R128, R129) -/

/-- Does a packet cross a link, with a flit that its far end has not accepted? -/
def crosses (s : State) (l : Fin 10) (p : Packet) : Bool :=
  match p.pos with
  | .girth m w _ => m == l && (s.fabric.girth[l.val]).ways[w.val].replay.any fun f => f.packet == p.id && !f.accepted
  | _ => false

theorem crosses_iff {s : State} {l : Fin 10} {p : Packet} : crosses s l p = true ↔ ∃ w : Fin 2, ∃ x, p.pos = .girth l w x ∧
    ∃ f ∈ (s.fabric.girth[l.val]).ways[w.val].replay, f.packet = p.id ∧ f.accepted = false := by
  unfold crosses
  split
  · next m w x hpos =>
    rw [hpos]
    constructor
    · intro h
      obtain ⟨rfl, hf⟩ : m = l ∧ _ := by simpa using h
      exact ⟨w, x, rfl, hf⟩
    · rintro ⟨w2, x2, h, hf⟩
      cases h
      simpa using hf
  · next hpos => exact ⟨fun h => absurd h Bool.false_ne_true, fun ⟨w, x, h, _⟩ => absurd h (hpos l w x)⟩

theorem resend_packets (s : State) (l : Fin 10) : (s.resend l).fabric.packets =
    s.fabric.packets.map fun p => if crosses s l p then { p with wait := 48 } else p := by
  unfold State.resend mapIf
  refine List.map_congr_left fun p _ => ?_
  unfold crosses
  rfl

/-- The flits that a retrained link resends: what was accepted is acknowledged again. -/
def resentFlit (f : LinkFlit) : LinkFlit := if f.accepted then { f with ack := 72 } else { f with left := 40 }

section
variable {s : State} {link : Fin 10}

theorem girthRetrain_down {ok : Bool} (h : s.fabric.girth[link.val].lanes = 0) : exec (.girthRetrain link ok) s = .next s :=
  if_pos h

theorem girthRetrain_fails (h : s.fabric.girth[link.val].lanes ≠ 0) {fails : List DWord}
    (hf : fails = s.now :: s.fabric.girth[link.val].failures.filter fun t => decide ((s.now - t).toNat ≤ 10000)) :
    exec (.girthRetrain link false) s = .next ((s.count (.girth link)).putGirth link
      (if 3 ≤ fails.length ∧ s.fabric.girth[link.val].lanes = 20 then { s.fabric.girth[link.val] with failures := [], lanes := 10 }
        else { s.fabric.girth[link.val] with failures := fails })) := by
  have hexec : exec (.girthRetrain link false) s = .next ((s.count (.girth link)).putGirth link
      { s.fabric.girth[link.val] with
        failures := if (decide (3 ≤ fails.length) && s.fabric.girth[link.val].lanes == 20) = true then [] else fails,
        lanes := if (decide (3 ≤ fails.length) && s.fabric.girth[link.val].lanes == 20) = true then 10
          else s.fabric.girth[link.val].lanes }) := by
    rw [hf]
    exact if_neg h
  have hhalve : (decide (3 ≤ fails.length) && s.fabric.girth[link.val].lanes == 20) = true ↔
      3 ≤ fails.length ∧ s.fabric.girth[link.val].lanes = 20 := by simp
  rw [hexec]
  simp only [hhalve]
  split
  · rfl
  · rfl

theorem girthRetrain_resends (h : s.fabric.girth[link.val].lanes ≠ 0) : exec (.girthRetrain link true) s =
    .next (((s.count (.girth link)).resend link).putGirth link { s.fabric.girth[link.val] with
      failures := [], ways := vecMap s.fabric.girth[link.val].ways fun _ w => { w with replay := w.replay.map resentFlit } }) :=
  if_neg h

/-- A packet on a link that has retrained starts its crossing again, unless the far end has accepted what it sent. -/
theorem resend_packet {i : Nat} {p : Packet} (hp : s.fabric.packets[i]? = some p) :
    ∃ q, (s.resend link).fabric.packets[i]? = some q ∧
      ((∃ w : Fin 2, ∃ x, p.pos = .girth link w x ∧
          ∃ f ∈ (s.fabric.girth[link.val]).ways[w.val].replay, f.packet = p.id ∧ f.accepted = false) → q = { p with wait := 48 }) ∧
      ((∀ w : Fin 2, ∀ x, p.pos = .girth link w x →
          ∀ f ∈ (s.fabric.girth[link.val]).ways[w.val].replay, f.packet = p.id → f.accepted = true) → q = p) := by
  refine ⟨if crosses s link p then { p with wait := 48 } else p, ?_, fun h => if_pos (crosses_iff.mpr h), fun h => if_neg fun hc => ?_⟩
  · rw [resend_packets, List.getElem?_map, hp]
    rfl
  · obtain ⟨w, x, hpos, f, hf, hid, hopen⟩ := crosses_iff.mp hc
    exact absurd (hopen.symm.trans (h w x hpos f hf hid)) Bool.false_ne_true

end

/-- Whether a link that is in use retrains or fails to, the try is counted. -/
theorem girthRetrain_answers (s : State) (link : Fin 10) (g : Girth) (fails : List DWord) (ok : Bool)
    (hg : g = s.fabric.girth[link.val])
    (hf : fails = s.now :: g.failures.filter (fun t => decide ((s.now - t).toNat ≤ 10000))) :
    Answers (.girthRetrain link ok) s (fun u =>
      (g.lanes ≠ 0 → s.counterOf (.girth link) ≠ BitVec.allOnes 64 →
        u.counterOf (.girth link) = s.counterOf (.girth link) + 1) ∧
      (g.lanes = 0 → u = s) ∧
      (g.lanes ≠ 0 → ok = false → u = { s with
        host := { s.host with counters := u.host.counters },
        fabric := { s.fabric with girth := s.fabric.girth.set link.val (if 3 ≤ fails.length ∧ g.lanes = 20
          then { g with failures := [], lanes := 10 } else { g with failures := fails }) } }) ∧
      (g.lanes ≠ 0 → ok = true → u = { s with
          host := { s.host with counters := u.host.counters },
          fabric := { s.fabric with packets := u.fabric.packets, girth := s.fabric.girth.set link.val { g with
            failures := [], ways := vecMap g.ways fun _ w => { w with replay := w.replay.map resentFlit } } } } ∧
        u.fabric.packets.length = s.fabric.packets.length ∧
        ∀ (i : Nat) (p : Packet), s.fabric.packets[i]? = some p → ∃ q, u.fabric.packets[i]? = some q ∧
          ((∃ w : Fin 2, ∃ x, p.pos = .girth link w x ∧ ∃ f ∈ g.ways[w.val].replay, f.packet = p.id ∧ f.accepted = false) →
            q = { p with wait := 48 }) ∧
          ((∀ w : Fin 2, ∀ x, p.pos = .girth link w x → ∀ f ∈ g.ways[w.val].replay, f.packet = p.id → f.accepted = true) →
            q = p))) := by
  subst hg
  by_cases h : s.fabric.girth[link.val].lanes = 0
  · exact ⟨s, girthRetrain_down h, fun hne => absurd h hne, fun _ => rfl, fun hne => absurd h hne, fun hne => absurd h hne⟩
  · cases ok with
    | false =>
      exact ⟨_, girthRetrain_fails h hf, fun _ hc => counterOf_count_same hc, fun h0 => absurd h0 h, fun _ _ => rfl,
        fun _ hok => absurd hok Bool.false_ne_true⟩
    | true =>
      refine ⟨_, girthRetrain_resends h, fun _ hc => counterOf_count_same hc, fun h0 => absurd h0 h,
        fun _ hok => absurd hok.symm Bool.false_ne_true, fun _ _ => ⟨rfl, List.length_map _, fun i p hp => ?_⟩⟩
      exact resend_packet (s := s.count (.girth link)) hp

/-! ## A Girth link that goes down (R129) -/

/-- From s to t packets have been added or changed, and nothing else but the count of numbers. -/
def PacketsOnly (s t : State) : Prop :=
  t = { s with nextId := t.nextId, fabric := { s.fabric with packets := t.fabric.packets } }

theorem sendDoubles_only (s : State) (l : Fin 10) (w : Fin 2) : PacketsOnly s (s.sendDoubles l w) :=
  List.foldlRecOn (motive := PacketsOnly s) _ _ rfl fun t ht x _ => by
    unfold PacketsOnly at ht ⊢
    rw [ht]
    rfl

theorem rerouted_only (s : State) (l : Fin 10) : PacketsOnly s (s.rerouted l) := by
  have h0 := sendDoubles_only s l 0
  have h1 := sendDoubles_only (s.sendDoubles l 0) l 1
  unfold PacketsOnly at *
  unfold State.rerouted
  rw [h1, h0]

theorem reroute_leaves (p : Packet) (l : Fin 10) (w : Fin 2) (x : BitVec 12) :
    (p.reroute l).pos ≠ .girth l w x ∧ (p.reroute l).pos ≠ .reserve l w := by
  unfold Packet.reroute
  split
  · next m v y hpos =>
    split
    · exact ⟨by simp, by simp⟩
    · next hm => exact ⟨by simpa [hpos] using fun e => absurd e (by simpa using hm), by simp [hpos]⟩
  · next m v hpos =>
    split
    · exact ⟨by simp, by simp⟩
    · next hm => exact ⟨by simp [hpos], by simpa [hpos] using fun e => absurd e (by simpa using hm)⟩
  · next h1 h2 => exact ⟨h1 _ _ _, h2 _ _⟩

/-- A link that is down. -/
def deadGirth (g : Girth) : Girth :=
  { g with lanes := 0, failures := [], ways := vecMap g.ways fun _ w => { w with replay := [] } }

/-- The state in which a link is down and what it held travels over the others. -/
def downed (s : State) (link : Fin 10) : State :=
  ((s.rerouted link).putGirth link (deadGirth s.fabric.girth[link.val])).logError (.girthDown link)

theorem downed_eq (s : State) (link : Fin 10) : downed s link = { s.rerouted link with
    fabric := { (s.rerouted link).fabric with girth := s.fabric.girth.set link.val (deadGirth s.fabric.girth[link.val]) },
    host := { s.host with errors := .girthDown link :: s.host.errors } } := by
  unfold downed State.putGirth State.logError
  have h := rerouted_only s link
  unfold PacketsOnly at h
  rw [h]

theorem girthLinkDown_stays {s : State} {link : Fin 10}
    (h : s.fabric.girth[link.val].lanes ≠ 10 ∨ s.fabric.girth[link.val].failures = []) :
    exec (.girthLinkDown link) s = .next s :=
  if_pos (by simpa using h)

/-- A die without working links is isolated. -/
def isolateIfCut (s : State) (d : DieId) : State := if s.cutOff d then s.isolate d else s

theorem downed_packets (s : State) (link : Fin 10) : (downed s link).fabric.packets =
    ((s.sendDoubles link 0).sendDoubles link 1).fabric.packets.map fun p => p.reroute link := by
  unfold downed State.logError State.putGirth State.rerouted
  with_reducible rfl

theorem isolateIfCut_of_cut {s : State} {d : DieId} (h : s.cutOff d = true) : isolateIfCut s d = s.isolate d := if_pos h

theorem isolateIfCut_of_joined {s : State} {d : DieId} (h : s.cutOff d = false) : isolateIfCut s d = s :=
  if_neg (by rw [h]; exact Bool.false_ne_true)

theorem girthLinkDown_event {s : State} {link : Fin 10} (hl : s.fabric.girth[link.val].lanes = 10)
    (hf : s.fabric.girth[link.val].failures ≠ []) : exec (.girthLinkDown link) s =
      .next (isolateIfCut (isolateIfCut (downed s link) (girthDies link).1) (girthDies link).2) := by
  exact if_neg (by simp [hl, hf])

/-- A failed link leaves its dies isolated that have no other; nothing is left on it. -/
theorem girthLinkDown_isolates {s : State} {link : Fin 10} (hl : s.fabric.girth[link.val].lanes = 10)
    (hf : s.fabric.girth[link.val].failures ≠ []) :
    (∀ p ∈ (downed s link).fabric.packets, ∀ w x, p.pos ≠ .girth link w x ∧ p.pos ≠ .reserve link w) ∧
    ((downed s link).cutOff (girthDies link).1 = false → (downed s link).cutOff (girthDies link).2 = false →
      exec (.girthLinkDown link) s = .next (downed s link)) ∧
    ((downed s link).cutOff (girthDies link).1 = true → (downed s link).cutOff (girthDies link).2 = false →
      exec (.girthLinkDown link) s = .next ((downed s link).isolate (girthDies link).1)) ∧
    ((downed s link).cutOff (girthDies link).1 = false → (downed s link).cutOff (girthDies link).2 = true →
      exec (.girthLinkDown link) s = .next ((downed s link).isolate (girthDies link).2)) ∧
    ((downed s link).cutOff (girthDies link).1 = true → (downed s link).cutOff (girthDies link).2 = true →
      exec (.girthLinkDown link) s = .next (((downed s link).isolate (girthDies link).1).isolate (girthDies link).2)) := by
  have hexec := girthLinkDown_event hl hf
  refine ⟨fun p hp w x => ?_, fun h1 h2 => ?_, fun h1 h2 => ?_, fun h1 h2 => ?_, fun h1 h2 => ?_⟩
  · rw [downed_packets, List.mem_map] at hp
    obtain ⟨q, -, rfl⟩ := hp
    exact reroute_leaves q link w x
  · rw [hexec, isolateIfCut_of_joined h1, isolateIfCut_of_joined h2]
  · rw [hexec, isolateIfCut_of_cut h1, isolateIfCut_of_joined (by rw [isolate_cutOff]; exact h2)]
  · rw [hexec, isolateIfCut_of_joined h1, isolateIfCut_of_cut h2]
  · rw [hexec, isolateIfCut_of_cut h1, isolateIfCut_of_cut (by rw [isolate_cutOff]; exact h2)]

end Sys2Proof.Laws

end

section
/-! # Hitch links, stitching and domains (O50) -/

namespace Sys2Proof.Laws

open Sys2Proof Sys2Proof.Machine

/-! ## Faults of spans -/

theorem spans_updSpan (s : State) (id : SpanId) {f : Span → Span} (hl : ∀ p, (f p).live = p.live) :
    (s.updSpan id f).spans = mapIf s.spans (fun p => p.id = id) f := by
  have hsp : (if s.sp.live && s.sp.id = id then f s.sp else s.sp).live = s.sp.live := by
    split
    · exact hl s.sp
    · rfl
  unfold State.spans State.updSpan
  dsimp only
  rw [hsp]
  cases s.sp.live with
  | false => rfl
  | true => simp [mapIf]

theorem spanOf_updSpan (s : State) (id : SpanId) {f : Span → Span} (hl : ∀ p, (f p).live = p.live) (hid : ∀ p, (f p).id = p.id) :
    (s.updSpan id f).spanOf id = (s.spanOf id).map f := by
  unfold State.spanOf
  rw [spans_updSpan s id hl]
  exact find?_mapIf _ fun p => by rw [hid]

theorem holdUnreachable_memOps (s : State) (o : MemOp) (va : DWord) : (s.holdUnreachable o va).memOps = s.memOps := by
  unfold State.holdUnreachable
  split
  · rfl
  · dsimp only
    split
    · rfl
    · rfl

/-- The next far fence of the operation's span finds a fault as early as the operation. -/
theorem holdUnreachable_holds {s : State} {o : MemOp} {p : Span} (va : DWord) (hp : s.spanOf o.span = some p) :
    ∃ q, (s.holdUnreachable o va).spanOf o.span = some q ∧ ∃ h ∈ q.held, h.by_ = .farFence ∧ h.op ≤ o.id := by
  unfold State.holdUnreachable
  simp only [hp]
  split
  · next hany => exact ⟨p, hp, by simpa using hany⟩
  · unfold State.hold
    rw [spanOf_updSpan, spanOf_updSpan, hp]
    · exact ⟨_, rfl, _, List.mem_cons_self, rfl, Nat.le_refl _⟩
    all_goals exact fun _ => rfl

/-! ## Lost accesses (R136) -/

/-- Is a request lost: it has gone out, no response has come, and none will come in time? -/
def lostNow (s : State) (o : MemOp) (q : Req) : Bool :=
  (!q.status.back || s.replying o.id (q.key / 32)) && q.status != .queued && s.lostReq o q

/-- The operation with its lost requests unreachable. -/
def abandoned (s : State) (o : MemOp) : MemOp :=
  { o with reqs := o.reqs.map fun q => if lostNow s o q then { q with status := .unreachable } else q }

/-- From s to t error log entries have been added. -/
def Logged (s t : State) : Prop := t = { s with fresh := t.fresh, host := { s.host with errors := t.host.errors } }

theorem logUnreachable_loggedOnly {s t : State} (h : Logged s t) (key : Nat) : Logged s (t.logUnreachable key) := by
  obtain ⟨far, n, hlog⟩ := logUnreachable_logged t key
  unfold Logged at *
  rw [hlog, h]

/-- The state in which an operation's lost requests are in the error log. -/
def lossLogged (s : State) (o : MemOp) : State :=
  (o.reqs.filter (lostNow s o)).foldl (fun (t : State) (q : Req) => t.logUnreachable q.key) s

theorem lossLogged_logged (s : State) (o : MemOp) : Logged s (lossLogged s o) :=
  List.foldlRecOn (motive := Logged s) _ _ rfl fun _ ht q _ => logUnreachable_loggedOnly ht q.key

section
variable {s : State} {o : MemOp}

theorem unreachable_of_none (h : ∀ q ∈ o.reqs, lostNow s o q = false) : s.unreachable o (s.lostReq o) = s := by
  have hnil : o.reqs.filter (lostNow s o) = [] := List.filter_eq_nil_iff.mpr fun q hq => by rw [h q hq]; exact Bool.false_ne_true
  unfold State.unreachable
  dsimp only
  split
  · rfl
  · next hcons => exact absurd (hnil.symm.trans hcons) (List.cons_ne_nil _ _).symm

/-- What becomes of an operation with lost requests. -/
theorem unreachable_of_lost (h : ∃ q ∈ o.reqs, lostNow s o q = true) : ∃ va, s.unreachable o (s.lostReq o) =
    if o.returns then (lossLogged s o).putOp (abandoned s o)
    else (if (abandoned s o).reqs.all fun x => x.status.back
      then { (lossLogged s o).holdUnreachable o va with
        memOps := ((lossLogged s o).holdUnreachable o va).memOps.filter fun x => x.id != o.id }
      else ((lossLogged s o).holdUnreachable o va).putOp (abandoned s o)).settleMerged := by
  obtain ⟨q, hq, hlost⟩ := h
  unfold State.unreachable
  dsimp only
  split
  · next hnil => exact absurd hlost (List.filter_eq_nil_iff.mp hnil q hq)
  · next q0 qs hcons =>
    have hlog : lossLogged s o = (q0 :: qs).foldl (fun (t : State) (x : Req) => t.logUnreachable x.key) s := by
      rw [← hcons]
      rfl
    rw [hlog]
    exact ⟨q0.va, rfl⟩

theorem abandoned_all_back : (abandoned s o).reqs.all (fun x => x.status.back) = true ↔
    ∀ q ∈ o.reqs, q.status.back = true ∨ lostNow s o q = true := by
  rw [List.all_eq_true, abandoned, List.forall_mem_map]
  refine forall₂_congr fun q _ => ?_
  cases lostNow s o q with
  | true => simp [ReqStatus.back]
  | false => simp

/-- Losing requests merges none. -/
theorem abandoned_unmerged (h : ∀ q ∈ o.reqs, ∀ id lane, q.status ≠ .merged id lane) :
    ∀ q ∈ (abandoned s o).reqs, ∀ id lane, q.status ≠ .merged id lane := by
  refine List.forall_mem_map.mpr fun q hq id lane => ?_
  cases lostNow s o q with
  | true => simp
  | false => exact h q hq id lane

/-! ## The Hitch timeout (R136) -/

theorem hitchTimeout_op (ho : s.opOf o.id = some o) : exec (.hitchTimeout o.id) s = .next (s.unreachable o (s.lostReq o)) := by
  show execHitchTimeout o.id s = _
  simp only [execHitchTimeout, ho]
  rfl

theorem hitchTimeout_work {n : Nat} (ho : s.opOf n = none) :
    exec (.hitchTimeout n) s = .next (if s.fabric.domain.length ≤ 1 then s else s.loseWork n) := by
  show execHitchTimeout n s = _
  simp only [execHitchTimeout, ho]
  rfl

/-- An operation that returns values keeps its place, with the lost requests unreachable. -/
theorem hitchTimeout_returns (ho : s.opOf o.id = some o) (hlost : ∃ q ∈ o.reqs, lostNow s o q = true) (hr : o.returns = true) :
    Answers (.hitchTimeout o.id) s (fun u =>
      u = { s with fresh := u.fresh, host := { s.host with errors := u.host.errors }, memOps := u.memOps } ∧
      u.memOps = s.memOps.map fun x => if x.id = o.id then abandoned s o else x) := by
  obtain ⟨va, hgone⟩ := unreachable_of_lost hlost
  rw [if_pos hr] at hgone
  have hlog := lossLogged_logged s o
  have hops : (lossLogged s o).memOps = s.memOps := by rw [hlog]
  refine ⟨_, (hitchTimeout_op ho).trans (congrArg Host.Outcome.next hgone), ?_, ?_⟩
  · unfold Logged at hlog
    rw [hlog]
    rfl
  · rw [putOp_memOps, hops]
    rfl

/-- Stores that are lost are held for the span's next far fence; the operation ends when nothing of it is on its way. -/
theorem hitchTimeout_posts (ho : s.opOf o.id = some o) (hlost : ∃ q ∈ o.reqs, lostNow s o q = true) (hr : o.returns = false)
    (hm : ∀ x ∈ s.memOps, ∀ q ∈ x.reqs, ∀ id lane, q.status ≠ .merged id lane) :
    Answers (.hitchTimeout o.id) s (fun u =>
      (∀ p, s.spanOf o.span = some p → ∃ q, u.spanOf o.span = some q ∧ ∃ h ∈ q.held, h.by_ = .farFence ∧ h.op ≤ o.id) ∧
      ((∀ q ∈ o.reqs, q.status.back = true ∨ lostNow s o q = true) → u.memOps = s.memOps.filter fun x => x.id != o.id) ∧
      ((∃ q ∈ o.reqs, q.status.back = false ∧ lostNow s o q = false) →
        u.memOps = s.memOps.map fun x => if x.id = o.id then abandoned s o else x)) := by
  obtain ⟨va, hgone⟩ := unreachable_of_lost hlost
  rw [if_neg (by rw [hr]; exact Bool.false_ne_true)] at hgone
  have hlog := lossLogged_logged s o
  have hops : ((lossLogged s o).holdUnreachable o va).memOps = s.memOps := by rw [holdUnreachable_memOps, hlog]
  have hspan : (lossLogged s o).spanOf o.span = s.spanOf o.span := by rw [hlog]; rfl
  have hheld := fun p (hp : s.spanOf o.span = some p) => holdUnreachable_holds va (hspan.trans hp)
  generalize (lossLogged s o).holdUnreachable o va = t at hgone hops hheld
  refine ⟨_, (hitchTimeout_op ho).trans (congrArg Host.Outcome.next hgone), ?_⟩
  have hreqs := hm o (List.mem_of_find?_eq_some ho)
  by_cases hall : (abandoned s o).reqs.all (fun x => x.status.back) = true
  · have hkept : ∀ x ∈ ({ t with memOps := t.memOps.filter fun x => x.id != o.id } : State).memOps, ∀ q ∈ x.reqs, ∀ id lane,
        q.status ≠ .merged id lane := fun x hx => hm x (by rw [← hops]; exact List.mem_of_mem_filter hx)
    rw [if_pos hall, settleMerged_of_unmerged hkept]
    refine ⟨hheld, fun _ => congrArg _ hops, fun ⟨q, hq, hback, hl⟩ => ?_⟩
    rcases abandoned_all_back.mp hall q hq with h | h
    · exact absurd (hback.symm.trans h) Bool.false_ne_true
    · exact absurd (hl.symm.trans h) Bool.false_ne_true
  · have hput : (t.putOp (abandoned s o)).memOps = s.memOps.map fun x => if x.id = o.id then abandoned s o else x := by
      rw [putOp_memOps, hops]
      rfl
    have hkept : ∀ x ∈ (t.putOp (abandoned s o)).memOps, ∀ q ∈ x.reqs, ∀ id lane, q.status ≠ .merged id lane := by
      rw [hput]
      refine List.forall_mem_map.mpr fun x hx => ?_
      split
      · exact abandoned_unmerged hreqs
      · exact hm x hx
    rw [if_neg hall, settleMerged_of_unmerged hkept]
    exact ⟨hheld, fun h => absurd (abandoned_all_back.mpr h) hall, fun _ => hput⟩

/-- Overdue work of engines is marked: their next access to another package faults. -/
theorem hitchTimeout_marks {n : Nat} (ho : s.opOf n = none) (hd : 1 < s.fabric.domain.length) :
    Answers (.hitchTimeout n) s (fun u =>
      u = { s with
        sp := u.sp, rest := u.rest, core := u.core, cores := u.cores, slowOps := u.slowOps, starter := u.starter } ∧
      (u.sp = { s.sp with cmds := s.sp.cmds.map fun c =>
        if 2 ^ 64 + c.order = n ∧ s.overdue c.since = true then { c with lost := true } else c }) ∧
      (u.core = { s.core with ops := s.core.ops.map fun x =>
        if x.id = n ∧ s.overdue x.since = true then { x with lost := true } else x }) ∧
      (u.slowOps = s.slowOps.map fun x => if x.id = n ∧ s.overdue x.since = true then { x with lost := true } else x) ∧
      (u.starter = s.starter.map fun x =>
        if x.order = n ∧ x.running = true ∧ s.overdue x.since = true then { x with lost := true } else x)) := by
  refine ⟨s.loseWork n, ?_, ?_⟩
  · rw [hitchTimeout_work ho, if_neg (Nat.not_le.mpr hd)]
  · unfold State.loseWork mapIf
    simp only [Bool.and_eq_true, beq_iff_eq, and_assoc]
    exact ⟨rfl, rfl, rfl, rfl, rfl⟩

end

/-! ## Retraining and forming a domain (R19, R133, R136) -/

theorem hitchRetrain_counts (s : State) (port : Fin 36) :
    Answers (.hitchRetrain port) s (fun u => u = { s with host := { s.host with counters := u.host.counters } } ∧
      (s.counterOf (.hitch port) ≠ BitVec.allOnes 64 → u.counterOf (.hitch port) = s.counterOf (.hitch port) + 1)) :=
  ⟨s.count (.hitch port), rfl, rfl, counterOf_count_same⟩

section
variable {s : State} {self : BitVec 8} {members : List (BitVec 8)}

theorem hitchDomainForm_event : exec (.hitchDomainForm self members) s =
    .next (if (self :: members.filter fun m => m != self).all fun m => decide (m.toNat < 192)
      then { s with fabric := { s.fabric with pkg := self, domain := self :: members.filter fun m => m != self } } else s) := rfl

theorem domain_small : ((self :: members.filter fun m => m != self).all fun m => decide (m.toNat < 192)) = true ↔
    self.toNat < 192 ∧ ∀ m ∈ members, m.toNat < 192 := by
  simp only [List.all_cons, Bool.and_eq_true, decide_eq_true_eq, List.all_eq_true, List.mem_filter, bne_iff_ne, and_imp]
  refine and_congr_right fun hself => forall₂_congr fun m _ => ⟨fun h => ?_, fun h _ => h⟩
  by_cases hm : m = self
  · rw [hm]; exact hself
  · exact h hm

end

/-! ## Stitching (R105, R106) -/

section
variable {s : State} {die : Fin 4} {clusters : BitVec 4} {code : BitVec 3}

theorem stitchRelink_busy (h : s.sparesEmpty die clusters = false) : exec (.stitchRelink die clusters code) s = .next s :=
  if_pos (by rw [h]; rfl)

variable (h : s.sparesEmpty die clusters = true)
include h

/-- By code 0 the stitchings of the region whose launches have retired end. -/
theorem stitchRelink_ends : Answers (.stitchRelink die clusters 0) s (fun u =>
    u = { s with fabric := { s.fabric with stitched := u.fabric.stitched } } ∧
    ∀ x, x ∈ u.fabric.stitched ↔ x ∈ s.fabric.stitched ∧
      ¬(x.die = die ∧ x.clusters = clusters ∧ ∀ l ∈ s.host.launches, l.seq ≠ x.launch)) := by
  refine ⟨_, if_neg (by rw [h]; exact Bool.false_ne_true), rfl, fun x => ?_⟩
  refine List.mem_filter.trans (and_congr_right fun _ => ?_)
  rw [Bool.not_eq_true', ← Bool.not_eq_true]
  exact not_congr (by simp [and_assoc])

theorem stitchRelink_unwanted (hc : code ≠ 0)
    (hw : ∀ w ∈ s.stitchWanted, w.2.2.1 = code → s.stitchFits die clusters w.2.2.2 = false) :
    exec (.stitchRelink die clusters code) s = .next s := by
  have hnone : (s.stitchWanted.find? fun w => w.2.2.1 == code && s.stitchFits die clusters w.2.2.2) = none := by
    refine List.find?_eq_none.mpr fun w hmem => ?_
    rw [Bool.and_eq_true, beq_iff_eq]
    exact fun ⟨heq, hfit⟩ => absurd ((hw w hmem heq).symm.trans hfit) Bool.false_ne_true
  show execStitchRelink die clusters code s = _
  simp only [execStitchRelink, h, beq_false_of_ne hc, hnone]
  rfl

theorem stitchRelink_wanted (hc : code ≠ 0) {w : DWord × Nat × BitVec 3 × Nat}
    (hw : s.stitchWanted.find? (fun w => w.2.2.1 == code && s.stitchFits die clusters w.2.2.2) = some w) :
    exec (.stitchRelink die clusters code) s = .next { s with fabric := { s.fabric with
      stitched := { launch := w.1, inst := w.2.1, die := die, clusters := clusters, code := code } :: s.fabric.stitched } } := by
  show execStitchRelink die clusters code s = _
  simp only [execStitchRelink, h, beq_false_of_ne hc, hw]
  rfl

end

end Sys2Proof.Laws

end

section
/-! # The fabric and the links between dies and packages (O50) -/

namespace Sys2Proof.Laws

open Sys2Proof Sys2Proof.Machine

/-! ## The events of a die's fabric (R110 to R115, R123, R124) -/

/-- The detector of a packet at an input expires at its die's threshold, and not before. -/
theorem inputPacket_expires {s : State} {p : Packet} {die : DieId} {r port : Nat} (hp : s.packetOf p.id = some p)
    (hpos : p.pos = .input die r port) :
    (s.thresholdOf die ≤ p.stall → Answers (.timeoutDetectorExpiry p.id) s (fun u =>
      u = { s with fabric := { s.fabric with packets := s.fabric.packets.map fun q =>
        if q.id = p.id then { q with expired := true } else q } })) ∧
    (p.stall < s.thresholdOf die → exec (.timeoutDetectorExpiry p.id) s = .next s) := by
  refine ⟨fun h => ⟨_, timeoutDetectorExpiry_event hp hpos, ?_⟩, fun h => ?_⟩
  · rw [if_pos h, updPacket_eq]
  · rw [timeoutDetectorExpiry_event hp hpos, if_neg (Nat.not_le.mpr h)]

/-- A packet on the Bridle Path leaves it at its router. -/
theorem bridlePacket_events {s : State} {p : Packet} {die : DieId} {r : Nat} (hp : s.packetOf p.id = some p)
    (hpos : p.pos = .bridle die r) :
    (p.dst.die = die → p.dst.router = r → p.wait = 0 → s.freePos (.slot p.dst) = true →
      Answers (.bridleReceive p.id) s (fun u => u = { s with fabric := { s.fabric with packets := s.fabric.packets.map fun q =>
        if q.id = p.id then { q with pos := .slot p.dst } else q } })) ∧
    (p.dst.die ≠ die ∨ p.dst.router ≠ r ∨ p.wait ≠ 0 ∨ s.freePos (.slot p.dst) = false →
      exec (.bridleReceive p.id) s = .next s) := by
  have hlands : (p.dst.die == die && p.dst.router == r && p.wait == 0 && s.freePos (.slot p.dst)) = true ↔
      p.dst.die = die ∧ p.dst.router = r ∧ p.wait = 0 ∧ s.freePos (.slot p.dst) = true := by
    simp only [Bool.and_eq_true, beq_iff_eq, and_assoc]
  refine ⟨fun h1 h2 h3 h4 => ⟨_, bridleReceive_event hp hpos, ?_⟩, fun h => ?_⟩
  · rw [if_pos (hlands.mpr ⟨h1, h2, h3, h4⟩), updPacket_eq]
  · rw [bridleReceive_event hp hpos, if_neg]
    rw [hlands]
    rintro ⟨h1, h2, h3, h4⟩
    simp [h1, h2, h3, h4] at h

theorem slotPacket_accepted {s : State} {p : Packet} {x : Stop} (hp : s.packetOf p.id = some p) (hpos : p.pos = .slot x) :
    Answers (.bridleReceive p.id) s (fun u => u = { s with fabric := { s.fabric with packets := s.fabric.packets.map fun q =>
      if q.id = p.id then { q with pos := .done, wait := 0, stall := 0, expired := false } else q } }) := by
  refine ⟨_, bridleReceive_accepts hp hpos, ?_⟩
  unfold State.arrive
  rw [updPacket_eq]

/-- A Halter that is at a stop, or was seen within two revolutions, is not regenerated. -/
theorem halterRegenerate_stays {s : State} {die : DieId} {h : Halter} (hh : s.fabric.halters.find? (fun x => x.die == die) = some h) :
    (∀ n, h.stop = some n → exec (.halterRegenerate die) s = .next s) ∧
    (h.stop = none → h.unseen < 2 * routersOf die → exec (.halterRegenerate die) s = .next s) := by
  refine ⟨fun n hs => ?_, fun hs hu => ?_⟩
  · rw [halterRegenerate_event hh, hs]
    rfl
  · rw [halterRegenerate_event hh, if_neg]
    simpa [hs] using hu

/-- Settles O50: each event of the fabric and of its links is one of the cases above; ports taken are free values. -/
theorem fabricAndLinkEvents : Obligations.FabricAndLinkEvents := by
  refine ⟨fun s p h n r port die router => ⟨unknownPacket_stays, fun hp => ⟨notAtInput_stays hp, fun hpos => ?_,
      bridlePacket_events hp, fun x => slotPacket_accepted hp, bridleReceive_elsewhere hp⟩, noHalter_stays, fun hh => ?_,
      fun hr hpow hidle hin => ?_, fun hno => ?_, fun x hx => ?_, fun hx => ⟨fun hr => ?_, fun hr hg => ?_, fun x hr hg => ?_⟩⟩,
    fun s link g port o die clusters code self members lost fails hg hf hlost => ⟨fun ok => ?_, fun hstay => ?_, fun v hl hfail hv => ?_,
      hitchRetrain_counts s port, fun ho => ?_, fun ho hd => ?_, hitchTimeout_marks, stitchRelink_busy, fun hfree => ?_,
      fun hself hms => ?_, fun hbig => ?_⟩⟩
  · obtain ⟨hexpire, hwait⟩ := inputPacket_expires hp hpos
    exact ⟨hexpire, hwait, misroute_stays hp hpos, misroute_takes hp hpos⟩
  · obtain ⟨hthere, hseen⟩ := halterRegenerate_stays hh
    exact ⟨fun hs => ⟨hthere n hs, halterCapture_stays hh hs, halterCapture_answers hh hs⟩,
      fun hs => ⟨halterCapture_lost hh hs, hseen hs, halterRegenerate_answers hh hs⟩⟩
  · exact ⟨_, routerPowerGate_event die router s, if_pos (gates_iff.mpr ⟨hr, hpow, hidle, hin⟩)⟩
  · rw [routerPowerGate_event, if_neg]
    rw [gates_iff]
    rintro ⟨h1, h2, h3, h4⟩
    simp [h2, h4] at hno
    omega
  · refine ⟨fun h0 => ?_, fun h0 => ⟨_, routerWake_waking hx, ?_⟩⟩
    · rw [routerWake_waking hx, if_neg h0]
    · rw [if_pos h0]
      exact ⟨rfl, rfl, lastFlit_noteFlit_same _ _ _⟩
  · rw [routerWake_signals hx, if_neg (Nat.not_lt.mpr hr)]
  · refine ⟨_, routerWake_signals hx, ?_⟩
    rw [if_pos hr, wakeSignal_powered hx hg]
    exact ⟨rfl, lastFlit_noteFlit_same _ _ _⟩
  · exact routerWake_gated hx hr hg
  · exact girthRetrain_answers s link g fails ok hg hf
  · rw [hg] at hstay
    exact girthLinkDown_stays hstay
  · subst hg
    obtain rfl : v = downed s link := hv.trans (downed_eq s link).symm
    exact girthLinkDown_isolates hl hfail
  · obtain rfl : lost = lostNow s o := hlost
    refine ⟨fun hnone => ?_, fun hsome => ⟨hitchTimeout_returns ho hsome, hitchTimeout_posts ho hsome⟩⟩
    rw [hitchTimeout_op ho, unreachable_of_none hnone]
  · rw [hitchTimeout_work ho, if_pos hd]
  · exact ⟨stitchRelink_ends hfree, fun hc => ⟨stitchRelink_unwanted hfree hc, fun w => stitchRelink_wanted hfree hc⟩⟩
  · exact ⟨_, hitchDomainForm_event, if_pos (domain_small.mpr ⟨hself, hms⟩)⟩
  · rw [hitchDomainForm_event, if_neg]
    rw [domain_small]
    rintro ⟨hself, hms⟩
    rcases hbig with h | ⟨m, hm, h⟩
    · omega
    · exact absurd (hms m hm) (Nat.not_lt.mpr h)

end Sys2Proof.Laws

end

section
/-! # The checks of a load run in order (O11) -/

namespace Sys2Proof.Laws

open Sys2Proof Sys2Proof.Machine

/-! ## The checks of one lane (R142) -/

section
variable {s : State} {core : CoreId} {g : Seg} {k : Nat} {u : Use} {lane off size : Nat}

theorem checkOne_misaligned_iff : s.checkOne core g k u lane off size = .misaligned ↔ (g.baseOf + off) % size ≠ 0 := by
  unfold State.checkOne Seg.check
  by_cases ha : (g.baseOf + off) % size = 0
  · simp only [ha, bne_self_eq_false, Bool.false_eq_true, if_false, ne_eq, not_true_eq_false, iff_false]
    split
    · exact Check.noConfusion
    split
    · exact Check.noConfusion
    split
    · split <;> exact Check.noConfusion
    · exact Check.noConfusion
  · simp [ha]

/-- Of the lanes that are aligned, those past the limit. -/
theorem checkOne_limit_iff (ha : (g.baseOf + off) % size = 0) :
    s.checkOne core g k u lane off size = .limit ↔ g.limit < off + size := by
  unfold State.checkOne Seg.check
  simp only [ha, bne_self_eq_false, Bool.false_eq_true, if_false]
  by_cases hl : g.limit < off + size
  · simp [hl]
  · simp only [hl, if_false, iff_false]
    split
    · exact Check.noConfusion
    split
    · split <;> exact Check.noConfusion
    · exact Check.noConfusion

theorem checkOne_of_invalid (ha : (g.baseOf + off) % size = 0) (hl : off + size ≤ g.limit) (hv : g.valid = false) :
    s.checkOne core g k u lane off size = .violation := by
  unfold State.checkOne Seg.check
  simp [ha, hl, hv]

end

/-! ## The lanes that fail (R142) -/

theorem lanesWhere_map (ls : List (Nat × Nat)) (f : Nat × Nat → Check) (p : Check → Bool) :
    lanesWhere (ls.map fun l => (l.1, l.2, f l)) p = ls.filter fun l => p (f l) := by
  unfold lanesWhere
  rw [List.filter_map, List.map_map]
  exact List.map_id _

theorem laneTrap_nil (s : State) (code base : Nat) (whole : Bool) : s.laneTrap code base whole [] = none := rfl

/-- The trap names the lanes that fail, and the address of the first of them. -/
theorem laneTrap_filter (s : State) (code base : Nat) {ls : List (Nat × Nat)} {p : Nat × Nat → Bool} {o : Nat × Nat}
    (h : ls.find? p = some o) : s.laneTrap code base false (ls.filter p) = some { s.trapAt code (BitVec.ofNat 64 (base + o.2)) with
      lanes := maskOf 32 fun j => ls.any fun x => x.1 == j && p x } := by
  have hany : ∀ j, ((ls.filter p).any fun x => x.1 == j) = ls.any fun x => x.1 == j && p x := fun j => by
    rw [List.any_filter]
    exact congrArg ls.any (funext fun x => Bool.and_comm _ _)
  rw [← List.head?_filter] at h
  unfold State.laneTrap
  simp only [hany]
  cases hf : ls.filter p with
  | nil => rw [hf] at h; cases h
  | cons x t =>
    rw [hf] at h
    cases h
    rfl

/-! ## The checks of a span-path access in their order (R142) -/

section
variable {s : State} {k size : Nat} {u : Use} {ls : List (Nat × Nat)} {g : Seg} {o : Nat × Nat}
  (hg : g = vecAt s.seenSegs k Seg.invalid)
include hg

theorem checkLanes_misaligned (ho : ls.find? (fun x => (g.baseOf + x.2) % size != 0) = some o) :
    s.checkLanes k u size false ls = .trap { s.trapAt 6 (BitVec.ofNat 64 (g.baseOf + o.2)) with
      lanes := maskOf 32 fun j => ls.any fun x => x.1 == j && (g.baseOf + x.2) % size != 0 } := by
  subst hg
  have hfail : ∀ x : Nat × Nat, (s.checkOne s.sp.id.core (vecAt s.seenSegs k Seg.invalid) k u x.1 x.2 size == .misaligned) =
      (((vecAt s.seenSegs k Seg.invalid).baseOf + x.2) % size != 0) := fun x =>
    Bool.eq_iff_iff.mpr (by simpa using checkOne_misaligned_iff)
  unfold State.checkLanes State.judge
  simp only [lanesWhere_map, hfail, laneTrap_filter s 6 _ ho]

theorem checkLanes_limit (ha : ∀ x ∈ ls, (g.baseOf + x.2) % size = 0)
    (ho : ls.find? (fun x => decide (g.limit < x.2 + size)) = some o) :
    s.checkLanes k u size false ls = .trap { s.trapAt 4 (BitVec.ofNat 64 (g.baseOf + o.2)) with
      lanes := maskOf 32 fun j => ls.any fun x => x.1 == j && decide (g.limit < x.2 + size) } := by
  subst hg
  have haligned : (ls.filter fun x => s.checkOne s.sp.id.core (vecAt s.seenSegs k Seg.invalid) k u x.1 x.2 size == .misaligned) = [] :=
    List.filter_eq_nil_iff.mpr fun x hx => by simpa using fun h => checkOne_misaligned_iff.mp h (ha x hx)
  have hfail : (ls.filter fun x => s.checkOne s.sp.id.core (vecAt s.seenSegs k Seg.invalid) k u x.1 x.2 size == .limit) =
      ls.filter fun x => decide ((vecAt s.seenSegs k Seg.invalid).limit < x.2 + size) :=
    List.filter_congr fun x hx => Bool.eq_iff_iff.mpr (by simpa using checkOne_limit_iff (ha x hx))
  unfold State.checkLanes State.judge
  simp only [lanesWhere_map, haligned, hfail, laneTrap_nil, laneTrap_filter s 4 _ ho]

theorem checkLanes_invalid (hin : ∀ x ∈ ls, (g.baseOf + x.2) % size = 0 ∧ x.2 + size ≤ g.limit) (hv : g.valid = false)
    (ho : ls.head? = some o) : s.checkLanes k u size false ls = .trap { s.trapAt 8 (BitVec.ofNat 64 (g.baseOf + o.2)) with
      lanes := maskOf 32 fun j => ls.any fun x => x.1 == j } := by
  subst hg
  have hfail : ∀ x ∈ ls, s.checkOne s.sp.id.core (vecAt s.seenSegs k Seg.invalid) k u x.1 x.2 size = .violation := fun x hx =>
    checkOne_of_invalid (hin x hx).1 (hin x hx).2 hv
  have hnone : ∀ c : Check, c ≠ .violation →
      (ls.filter fun x => s.checkOne s.sp.id.core (vecAt s.seenSegs k Seg.invalid) k u x.1 x.2 size == c) = [] := fun c hc =>
    List.filter_eq_nil_iff.mpr fun x hx => by simpa [hfail x hx] using hc.symm
  have hall : (ls.filter fun x => s.checkOne s.sp.id.core (vecAt s.seenSegs k Seg.invalid) k u x.1 x.2 size == .violation) =
      ls.filter fun _ => true := List.filter_congr fun x hx => by simp [hfail x hx]
  have hfirst : ls.find? (fun _ => true) = some o := by
    rw [← List.head?_filter, List.filter_true]
    exact ho
  unfold State.checkLanes State.judge
  simp only [lanesWhere_map, hnone .misaligned Check.noConfusion, hnone .limit Check.noConfusion, hall,
    laneTrap_nil, laneTrap_filter s 8 _ hfirst,
    Bool.and_true]

end

/-! ## Loads whose checks fail -/

theorem laneOffsets_isEmpty {s : State} (a b : RegNo) (l : BitVec 2) (h : s.lanes ≠ []) : (s.laneOffsets a b l).isEmpty = false := by
  simpa [State.laneOffsets] using h

/-- A load outside segment E that fails a check raises its trap. -/
theorem vecLoad_of_trap {s : State} {k : BitVec 3} {size : Nat} {d a b : RegNo} {l hint : BitVec 2} {nc : Bool} {t : TrapInfo}
    (hk : k ≠ 6) (hbusy : s.pathBusy = false) (hl : s.lanes ≠ [])
    (ht : s.checkLanes k.toNat .read size false (s.laneOffsets a b l) = .trap t) :
    s.vecLoad k size d a b l hint nc = s.raise t := by
  have hseg : (k == 6) = false := beq_eq_false_iff_ne.mpr hk
  unfold State.vecLoad
  simp only [laneOffsets_isEmpty a b l hl, hseg, State.whenPathFree, hbusy, State.withPlaces, ht, State.whenChecked,
    Bool.false_eq_true, if_false]

theorem load_of_trap {s : State} {p : Option Pre} {c : Bool} {k : BitVec 3} {d a b : RegNo} {l : BitVec 2} {t : TrapInfo}
    (hk : k ≠ 6) (hbusy : s.pathBusy = false) (hl : s.lanes ≠ []) {size : Nat} {i : Instr}
    (hi : (i, size) ∈ [(Instr.ld p c k d a b l, 4), (.ld64 p c k d a b l, 8), (.ld16 p c k d a b l, 2)]) (hc : s.clear i)
    (ht : s.checkLanes k.toNat .read size false (s.laneOffsets a b l) = .trap t) : exec i s = .next (s.raise t) := by
  have hexec : exec i s = s.issue1 i fun u => u.vecLoad k size d a b l (hintOf p) false := by
    simp only [List.mem_cons, Prod.mk.injEq, List.not_mem_nil, or_false] at hi
    rcases hi with ⟨rfl, rfl⟩ | ⟨rfl, rfl⟩ | ⟨rfl, rfl⟩ <;> rfl
  rw [hexec, issue1_clear _ hc, vecLoad_of_trap hk hbusy hl ht]

/-- Settles O11: the first of the checks that some lane fails is the one that `State.judge` finds, and the load raises its
trap. -/
theorem accessChecks : Obligations.AccessChecks := by
  intro s p c k d a b l ls g hk hbusy hl hls hg
  subst hls
  exact ⟨fun size i o hi hc ho => load_of_trap hk hbusy hl hi hc (checkLanes_misaligned hg ho),
    fun size i o hi hc ha ho => load_of_trap hk hbusy hl hi hc (checkLanes_limit hg ha ho),
    fun size i o hi hc hin hv ho => load_of_trap hk hbusy hl hi hc (checkLanes_invalid hg hin hv ho)⟩

end Sys2Proof.Laws

end

section
/-! # Loads and stores (O34) -/

namespace Sys2Proof.Laws

open Sys2Proof Sys2Proof.Machine

/-! ## Translations that are looked up (R89, R158, R160) -/

theorem readThrough_served (s : State) (key n : Nat) : Served s (s.readThrough key n) :=
  .foldl (fun t _ => cacheRead_served t none _ 0 Policy.plain) _ s

theorem readLevels_served (s : State) (table va : Nat) (levels : List (Nat × Nat × Bool)) :
    Served s (s.readLevels table va levels) := by
  induction levels generalizing s table with
  | nil => exact .refl s
  | cons x rest ih =>
    have hread := readThrough_served s (s.canonPa table + 8 * (va / 2 ^ x.1 % 2 ^ x.2.1)) 8
    exact .ite (.refl s) (.ite hread (hread.trans (ih _ _)))

theorem readTables_served (s : State) (asid : BitVec 10) (va : Nat) : Served s (s.readTables asid va) :=
  have hread := readThrough_served s (s.memsys.asidBase + 8 * asid.toNat) 8
  .ite (hread.trans (readLevels_served _ _ _ _)) hread

/-- From s to t translations have been looked up: the caches have been read, and memory reads the same. -/
structure Looked (s t : State) : Prop extends SameBytes s t where
  frame : t = { s with
    mem := t.mem, fresh := t.fresh,
    memsys := { s.memsys with
      lines := t.memsys.lines, msc := t.memsys.msc, dram := t.memsys.dram, scrubQ := t.memsys.scrubQ,
      sharers := t.memsys.sharers, channels := t.memsys.channels, drowsy := t.memsys.drowsy,
      bankUse := t.memsys.bankUse, trans := t.memsys.trans },
    host := { s.host with errors := t.host.errors, counters := t.host.counters } }

theorem Looked.refl (s : State) : Looked s s := ⟨.refl s, rfl⟩

theorem Looked.trans {s t u : State} (h : Looked s t) (k : Looked t u) : Looked s u :=
  ⟨h.toSameBytes.trans k.toSameBytes, by rw [k.frame, h.frame]⟩

theorem Looked.filled {s t : State} (h : Looked s t) : s.Filled t := ⟨h.frame, fun hs => (h.few hs).2⟩

theorem Looked.filled_trans {s t u : State} (h : Looked s t) (k : t.Filled u) : s.Filled u := by
  obtain ⟨hframe, hmem⟩ := k
  refine ⟨by rw [hframe, h.frame], fun hs => ?_⟩
  obtain ⟨hfew, hsame⟩ := h.few hs
  exact (hmem hfew).trans hsame

theorem Served.looked {s t : State} (h : Served s t) : Looked s t := ⟨h.toSameBytes, by rw [h.frame]⟩

theorem keepTrans_looked (s : State) (x : Trans) : Looked s (s.keepTrans x) :=
  ⟨⟨rfl, rfl, fun _ => rfl, fun h => ⟨h, rfl⟩⟩, rfl⟩

theorem fillTrans_looked (s : State) (core : CoreId) (asid : BitVec 10) (va : Nat) : Looked s (s.fillTrans core asid va) := by
  unfold State.fillTrans
  split
  · exact .refl s
  · exact keepTrans_looked s _
  · split
    · exact ((readTables_served s asid va).looked.trans (keepTrans_looked _ _)).trans (keepTrans_looked _ _)
    · exact .refl s

theorem fillFor_looked (s : State) (k : Nat) (ps : List Place) : Looked s (s.fillFor k ps) := by
  unfold State.fillFor
  split
  · exact List.foldlRecOn ps _ (Looked.refl s) fun t ht q _ => ht.trans (fillTrans_looked t _ _ _)
  · exact .refl s

/-! ## Operations of the focused span that are sent (R143) -/

/-- The operation is one that the focused span issues now on its own path. -/
structure Issues (s : State) (o : MemOp) : Prop where
  span : o.span = s.sp.id
  group : o.group = s.sp.group
  path : o.path = 0
  region : o.region = s.region
  pc : o.pc = s.here
  gang : o.gang = s.issue.gang
  lanes : o.lanes = s.enabled

theorem send_sendsOp {s : State} {o : MemOp} {P : MemOp → Prop} (refs : List Ref) (ho : Issues s o) (hP : P (inFlight s o)) :
    s.SendsOp ((s.send o).setPending refs) refs P := by
  refine ⟨s, inFlight s o, ⟨rfl, fun _ => rfl⟩, ?_, rfl, ho.span, ho.group, ho.path, ho.region, ho.pc, ho.gang, ho.lanes, hP⟩
  unfold State.send State.setPending inFlight
  dsimp only
  rw [dispatched_frame]
  rfl

/-- The operation carries one request for each place. -/
theorem send_requests {s : State} {o : MemOp} {k : Nat} {ps : List Place} {size : Nat} {data : Nat → Nat} (refs : List Ref)
    (ho : Issues s o) (hseg : o.seg.toNat = k)
    (hreqs : o.reqs.map asked = ps.map fun p => (p.lane, p.va, p.key, size, BitVec.ofNat 256 (data p.lane))) :
    s.Sends ((s.send o).setPending refs) k o.kind o.dest ps size data refs :=
  send_sendsOp refs ho ⟨rfl, rfl, hseg, (asked_inFlight s o).trans hreqs⟩

/-- What is sent after translations have been looked up is sent. -/
theorem Looked.sendsOp {s v u : State} {refs : List Ref} {P : MemOp → Prop} (h : Looked s v) (hu : v.SendsOp u refs P) :
    s.SendsOp u refs P := by
  obtain ⟨w, o, hw, hframe, hid, hspan, hgroup, hpath, hregion, hpc, hgang, hlanes, hP⟩ := hu
  have hsp : v.sp = s.sp := by rw [h.frame]
  have hissue : v.issue = s.issue := by rw [h.frame]
  have hreg : v.region = s.region := by rw [h.frame]; rfl
  have hhere : v.here = s.here := by rw [h.frame]; rfl
  have henabled : v.enabled = s.enabled := by rw [h.frame]; rfl
  have hnext : v.nextId = s.nextId := by rw [h.frame]
  have hops : v.memOps = s.memOps := by rw [h.frame]
  have hcore : v.core = s.core := by rw [h.frame]
  rw [hsp, hissue, hnext, hops, hcore] at hframe
  rw [hsp] at hspan hgroup
  rw [hissue] at hgang
  exact ⟨w, o, h.filled_trans hw, hframe, by rw [hid, hnext], hspan, hgroup, hpath, hregion.trans hreg, hpc.trans hhere, hgang,
    hlanes.trans henabled, hP⟩

/-! ## Loads and stores whose checks pass (R164, R167) -/

theorem withSaddles_untouched {s : State} {k size : Nat} {u : SaddleUse} {ps : List Place} (go : State → Bool → State)
    (hs : s.grp.saddled = false) (hg : ∀ p ∈ ps, granulesOf s.asets k p.off size = []) :
    s.withSaddles k u (ps.map fun p => (p, size)) go = go s false := by
  have hnil : ((ps.map fun p => (p, size)).flatMap fun p =>
      (granulesOf s.asets k p.1.off p.2).map fun (o, g) => s.granuleRecord k o g p.1.key p.1.off) = [] := by
    rw [List.flatMap_eq_nil_iff]
    intro x hx
    obtain ⟨p, hp, rfl⟩ := List.mem_map.mp hx
    rw [hg p hp, List.map_nil]
  unfold State.withSaddles
  dsimp only
  rw [hnil, hs]
  rfl

section
variable {s : State} {k : BitVec 3} {size : Nat} {whole : Bool} {ls : List (Nat × Nat)} {ps : List Place}

theorem loadPlaces_sends (dest : Dest) (refs : List Ref) (hint : BitVec 2) (nc : Bool)
    (h : s.MayAccess k.toNat .read size whole ls ps) :
    s.Sends (s.loadPlaces k.toNat size dest refs hint nc ps) k.toNat .load dest ps size (fun _ => 0) refs := by
  obtain ⟨-, -, hs, hg⟩ := h
  unfold State.loadPlaces
  rw [withSaddles_untouched _ hs hg]
  have hseg : (BitVec.ofNat 3 k.toNat).toNat = k.toNat := by simp
  dsimp only
  refine (fillFor_looked s k.toNat ps).sendsOp (send_requests (data := fun _ => 0) refs ⟨rfl, rfl, rfl, rfl, rfl, rfl, rfl⟩ hseg ?_)
  rw [List.map_map]
  rfl

theorem storePlaces_sends {data value : Nat → Nat} (hint : BitVec 2) (hd : ∀ i, data i = value i)
    (h : s.MayAccess k.toNat .write size whole ls ps) :
    s.Sends (s.storePlaces k.toNat size whole hint data ps) k.toNat .store .none ps size value [] := by
  obtain rfl : data = value := funext hd
  obtain ⟨-, -, hs, hg⟩ := h
  unfold State.storePlaces
  rw [withSaddles_untouched _ hs hg]
  have hseg : (BitVec.ofNat 3 k.toNat).toNat = k.toNat := by simp
  refine (fillFor_looked s k.toNat ps).sendsOp (send_requests [] ⟨rfl, rfl, rfl, rfl, rfl, rfl, rfl⟩ hseg ?_)
  rw [List.map_map]
  rfl

/-- A span-path access that may be made goes on with its places. -/
theorem access_goes {u : Use} (go : State → List Place → State) (h : s.MayAccess k.toNat u size whole ls ps) :
    (s.whenPathFree fun t => t.withPlaces k.toNat u size whole ls (go t)) = go s ps := by
  obtain ⟨hbusy, hps, -, -⟩ := h
  unfold State.whenPathFree
  rw [hbusy]
  exact withPlaces_of_ok (go s) hps

variable {a b : RegNo} {l : BitVec 2}

theorem vecLoad_sends (d : RegNo) (hint : BitVec 2) (nc : Bool) (hk : k ≠ 6) (hl : s.lanes ≠ [])
    (h : s.MayAccess k.toNat .read size false (s.laneOffsets a b l) ps) :
    s.Sends (s.vecLoad k size d a b l hint nc) k.toNat .load (.vec d (size == 8)) ps size (fun _ => 0)
      (if size == 8 then vp d else vr d) := by
  unfold State.vecLoad
  dsimp only
  rw [if_neg (by simp [laneOffsets_isEmpty _ _ _ hl]), if_neg (by simpa using hk)]
  refine (access_goes (fun t => t.loadPlaces k.toNat size _ _ hint nc) h).symm ▸ loadPlaces_sends _ _ _ _ h

theorem vecStore_sends {value : Nat → Nat} (d : RegNo) (hint : BitVec 2)
    (hd : ∀ i, (if size == 8 then s.rl64 d i else (s.rl d i).toNat) % 2 ^ (8 * size) = value i) (hk : k ≠ 6) (hl : s.lanes ≠ [])
    (h : s.MayAccess k.toNat .write size false (s.laneOffsets a b l) ps) :
    s.Sends (s.vecStore k size d a b l hint) k.toNat .store .none ps size value [] := by
  unfold State.vecStore
  dsimp only
  rw [if_neg (by simp [laneOffsets_isEmpty _ _ _ hl]), if_neg (by simpa using hk)]
  refine (access_goes (fun t => t.storePlaces k.toNat size false hint _) h).symm ▸ storePlaces_sends _ hd h

end

/-! ## Without an active lane -/

theorem vecLoad_nop {s : State} (k : BitVec 3) (size : Nat) (d a b : RegNo) (l hint : BitVec 2) (nc : Bool) (hl : s.lanes = []) :
    s.vecLoad k size d a b l hint nc = s := by
  unfold State.vecLoad
  exact if_pos (by simp [State.laneOffsets, hl])

theorem vecStore_nop {s : State} (k : BitVec 3) (size : Nat) (d a b : RegNo) (l hint : BitVec 2) (hl : s.lanes = []) :
    s.vecStore k size d a b l hint = s := by
  unfold State.vecStore
  exact if_pos (by simp [State.laneOffsets, hl])

/-! ## The data of a lane (R164) -/

theorem rl64_lt (s : State) (d : RegNo) (i : Nat) : s.rl64 d i < 2 ^ 64 := by
  have hlo := (s.rl d i).isLt
  have hhi := (s.rl (next d) i).isLt
  unfold State.rl64
  omega

/-! ## The engine window (R172) -/

theorem withWindow_of_ok {s : State} {u : Use} {size bound : Nat} {whole : Bool} {ls : List (Nat × Nat)} {ps : List Place}
    (go : State → State) (hps : s.checkLanes 6 u size whole ls = .ok ps) (hb : (if u.writes then 0x20 else 0x28) = bound)
    (hin : ∀ q ∈ ps, q.va.toNat + size ≤ bound) : s.withWindow u size whole ls go = go s := by
  subst hb
  have hbad : (ps.filter fun p => decide ((if u.writes then 0x20 else 0x28) < p.va.toNat + size)) = [] :=
    List.filter_eq_nil_iff.mpr fun q hq => by simpa using hin q hq
  unfold State.withWindow
  rw [withPlaces_of_ok _ hps]
  dsimp only
  rw [hbad]
  rfl

theorem inFlight_reqs {s : State} {o : MemOp} (h : ∀ q ∈ o.reqs, q.status = .performed) : (inFlight s o).reqs = o.reqs := by
  have hsent : mapIf o.reqs (fun q => q.status == .sent) (fun q => { q with status := .queued }) = o.reqs :=
    mapIf_of_none _ fun q hq => by rw [h q hq]; rfl
  unfold inFlight State.dispatched
  dsimp only
  rw [hsent]
  exact mapIf_of_none _ fun q hq => by rw [h q hq]; rfl

theorem windowLoad_reads {s : State} {size : Nat} {dest : Dest} {whole : Bool} {ls : List (Nat × Nat)} {ps : List Place}
    (refs : List Ref) (hps : s.checkLanes 6 .read size whole ls = .ok ps) (hin : ∀ q ∈ ps, q.va.toNat + size ≤ 0x28) :
    s.ReadsWindow (s.windowLoad size dest whole refs ls) dest ls size refs := by
  unfold State.windowLoad
  rw [withWindow_of_ok _ hps rfl hin]
  refine send_sendsOp refs ⟨rfl, rfl, rfl, rfl, rfl, rfl, rfl⟩ ⟨rfl, rfl, ?_⟩
  rw [inFlight_reqs fun q hq => by obtain ⟨x, -, rfl⟩ := List.mem_map.mp hq; rfl, List.map_map]
  rfl

/-- The low bytes of a little-endian value are its byte string. -/
theorem leOf_byte (bs : List Byte) (j : Nat) : leOf bs / 256 ^ j % 256 = (listAt bs j 0).toNat := by
  induction bs generalizing j with
  | nil => simp [leOf, listAt]
  | cons b t ih =>
    have hb := b.isLt
    cases j with
    | zero =>
      have : (b.toNat + 256 * leOf t) % 256 = b.toNat := by omega
      simpa [leOf, listAt] using this
    | succ j =>
      have hstep : (b.toNat + 256 * leOf t) / 256 = leOf t := by omega
      rw [leOf, Nat.pow_succ', ← Nat.div_div_eq_div_mul, hstep, ih]
      rfl

theorem leOf_lt (bs : List Byte) : leOf bs < 256 ^ bs.length := by
  induction bs with
  | nil => exact Nat.one_pos
  | cons b t ih =>
    have hb := b.isLt
    rw [leOf, List.length_cons, Nat.pow_succ']
    omega

/-- An element of strings of one length laid end to end. -/
theorem listAt_flatMap_range {α : Type} {m n i : Nat} {f : Nat → List α} (d : α) (hf : ∀ j, (f j).length = m) (hi : i < n * m) :
    listAt ((List.range n).flatMap f) i d = listAt (f (i / m)) (i % m) d := by
  induction n with
  | zero => omega
  | succ n ih =>
    have hlen : ((List.range n).flatMap f).length = n * m := by simp [List.length_flatMap, hf]
    rw [List.range_succ, List.flatMap_append, List.flatMap_singleton]
    by_cases h : i < n * m
    · rw [← ih h]
      exact List.getD_append _ _ _ _ (by omega)
    · have hm : 0 < m := Nat.pos_of_ne_zero fun h0 => by subst h0; omega
      have hq : i / m = n := by
        rw [Nat.div_eq_iff hm]
        rw [Nat.add_mul] at hi
        omega
      have hr : i % m = i - n * m := by rw [Nat.mod_eq_sub_mul_div, hq, Nat.mul_comm]
      rw [hq, hr, ← hlen]
      exact List.getD_append_right _ _ _ _ (by omega)

/-- A byte of the window after bytes have been put there. -/
theorem windowByte_windowPut (p : Span) (off : Nat) (bs : List Byte) {i : Nat} (hi : i < 32) :
    (p.windowPut off bs).windowByte i =
      if off ≤ i ∧ i < off + bs.length then (listAt bs (i - off) 0).toNat else p.windowByte i := by
  have hdiv : i / 8 < 4 := by omega
  have hmod : i % 8 < 8 := by omega
  have hold : (listAt ((List.range 4).flatMap fun j => bytesLE 8 (vecAt p.window j 0).toNat) i 0).toNat = p.windowByte i := by
    rw [listAt_flatMap_range 0 (fun j => bytesLE_length 8 _) (by omega), listAt_bytesLE _ hmod, BitVec.toNat_ofNat]
    rfl
  unfold Span.windowPut
  dsimp only
  generalize hnew : (List.range 32).map _ = new
  have hlen : new.length = 32 := by rw [← hnew]; simp
  have hword : leOf ((new.drop (8 * (i / 8))).take 8) < 2 ^ 64 := by
    have h := leOf_lt ((new.drop (8 * (i / 8))).take 8)
    rwa [List.length_take, List.length_drop, hlen, Nat.min_eq_left (by omega)] at h
  have hbyte : listAt ((new.drop (8 * (i / 8))).take 8) (i % 8) 0 = listAt new i 0 := by
    simp only [listAt, List.getD_eq_getElem?_getD, List.getElem?_take_of_lt hmod, List.getElem?_drop]
    rw [show 8 * (i / 8) + i % 8 = i by omega]
  unfold Span.windowByte
  dsimp only
  rw [vecAt_vecMap _ _ 0 0 hdiv, BitVec.toNat_ofNat, Nat.mod_eq_of_lt hword, leOf_byte, hbyte, ← hnew, listAt_map_range _ _ hi]
  by_cases hin : off ≤ i ∧ i < off + bs.length
  · simp [hin]
  · rw [if_neg hin, if_neg (by simpa using hin)]
    exact hold

/-- One lane's store into the window. -/
def windowStep (base size : Nat) (data : Nat → Nat) (p : Span) (x : Nat × Nat) : Span :=
  p.windowPut (base + x.2) (bytesLE size (data x.1))

section
variable {base size i : Nat} {data : Nat → Nat}

theorem windowStep_byte (p : Span) (x : Nat × Nat) (hi : i < 32) : (windowStep base size data p x).windowByte i =
    if base + x.2 ≤ i ∧ i < base + x.2 + size then data x.1 / 256 ^ (i - (base + x.2)) % 256 else p.windowByte i := by
  unfold windowStep
  rw [windowByte_windowPut _ _ _ hi, bytesLE_length]
  split
  · next h =>
    rw [listAt_bytesLE _ (by omega), BitVec.toNat_ofNat]
  · rfl

/-- A byte that no lane covers stays. -/
theorem foldl_windowStep_uncovered {ls : List (Nat × Nat)} (p : Span) (hi : i < 32)
    (h : ∀ x ∈ ls, ¬(base + x.2 ≤ i ∧ i < base + x.2 + size)) :
    (ls.foldl (windowStep base size data) p).windowByte i = p.windowByte i := by
  induction ls generalizing p with
  | nil => rfl
  | cons x ls ih =>
    obtain ⟨hx, hls⟩ := List.forall_mem_cons.mp h
    rw [List.foldl_cons, ih _ hls, windowStep_byte _ _ hi, if_neg hx]

/-- Of the lanes in ascending order the highest one that covers a byte gives its value. -/
theorem foldl_windowStep_highest {ls : List (Nat × Nat)} (p : Span) (hi : i < 32) (hasc : ls.Pairwise fun x y => x.1 < y.1)
    {x : Nat × Nat} (hx : x ∈ ls) (hcov : base + x.2 ≤ i ∧ i < base + x.2 + size)
    (htop : ∀ y ∈ ls, base + y.2 ≤ i → i < base + y.2 + size → y.1 ≤ x.1) :
    (ls.foldl (windowStep base size data) p).windowByte i = data x.1 / 256 ^ (i - (base + x.2)) % 256 := by
  obtain ⟨xs, ys, rfl⟩ := List.append_of_mem hx
  have hlater : ∀ y ∈ ys, ¬(base + y.2 ≤ i ∧ i < base + y.2 + size) := fun y hy ⟨h1, h2⟩ => by
    have hlt := (List.pairwise_cons.mp (List.pairwise_append.mp hasc).2.1).1 y hy
    have hle := htop y (by simp [hy]) h1 h2
    omega
  rw [List.foldl_append, List.foldl_cons, foldl_windowStep_uncovered _ hi hlater, windowStep_byte _ _ hi, if_pos hcov]

end

theorem windowStore_writes {s : State} {size : Nat} {whole : Bool} {data value : Nat → Nat} {ls : List (Nat × Nat)}
    {ps : List Place} (hd : ∀ i, data i = value i) (hps : s.checkLanes 6 .write size whole ls = .ok ps)
    (hin : ∀ q ∈ ps, q.va.toNat + size ≤ 0x20) (hasc : ls.Pairwise fun x y => x.1 < y.1) :
    s.WritesWindow (s.windowStore size whole data ls) ls size value := by
  obtain rfl : data = value := funext hd
  have hstore : s.windowStore size whole data ls =
      { s with sp := ls.foldl (windowStep s.windowBase size data) s.sp } := withWindow_of_ok _ hps rfl hin
  have hframe : ls.foldl (windowStep s.windowBase size data) s.sp =
      { s.sp with window := (ls.foldl (windowStep s.windowBase size data) s.sp).window } :=
    List.foldlRecOn (motive := fun p : Span => p = { s.sp with window := p.window }) ls _ rfl fun p hp x _ => by
      unfold windowStep Span.windowPut
      rw [hp]
  rw [hstore]
  refine ⟨congrArg (fun p => { s with sp := p }) hframe, fun i hi => ⟨fun h => foldl_windowStep_uncovered _ hi h,
    fun x hx h1 h2 htop => foldl_windowStep_highest _ hi hasc hx ⟨h1, h2⟩ htop⟩⟩

theorem laneOffsets_ascending (s : State) (a b : RegNo) (l : BitVec 2) : (s.laneOffsets a b l).Pairwise fun x y => x.1 < y.1 :=
  List.pairwise_map.mpr (List.pairwise_lt_range.filter _)

section
variable {s : State} {size : Nat} {a b : RegNo} {l : BitVec 2} {ps : List Place}

theorem vecLoad_window (d : RegNo) (hint : BitVec 2) (nc : Bool) (hl : s.lanes ≠ [])
    (hps : s.checkLanes 6 .read size false (s.laneOffsets a b l) = .ok ps) (hin : ∀ q ∈ ps, q.va.toNat + size ≤ 0x28) :
    s.ReadsWindow (s.vecLoad 6 size d a b l hint nc) (.vec d (size == 8)) (s.laneOffsets a b l) size
      (if size == 8 then vp d else vr d) := by
  unfold State.vecLoad
  dsimp only
  rw [if_neg (by simp [laneOffsets_isEmpty _ _ _ hl]), if_pos (by decide)]
  exact windowLoad_reads _ hps hin

theorem vecStore_window {value : Nat → Nat} (d : RegNo) (hint : BitVec 2)
    (hd : ∀ i, (if size == 8 then s.rl64 d i else (s.rl d i).toNat) % 2 ^ (8 * size) = value i) (hl : s.lanes ≠ [])
    (hps : s.checkLanes 6 .write size false (s.laneOffsets a b l) = .ok ps) (hin : ∀ q ∈ ps, q.va.toNat + size ≤ 0x20) :
    s.WritesWindow (s.vecStore 6 size d a b l hint) (s.laneOffsets a b l) size value := by
  unfold State.vecStore
  dsimp only
  rw [if_neg (by simp [laneOffsets_isEmpty _ _ _ hl]), if_pos (by decide)]
  exact windowStore_writes hd hps hin (laneOffsets_ascending s a b l)

end

/-- Settles O34: outside segment E by what is sent for the places, in segment E by what the window's bytes become. -/
theorem loadsAndStores : Obligations.LoadsAndStores := by
  have hword : ∀ (s : State) (d : RegNo) (i : Nat), (s.rl d i).toNat % 2 ^ 32 = (s.rl d i).toNat := fun s d i =>
    Nat.mod_eq_of_lt (s.rl d i).isLt
  have hpair : ∀ (s : State) (d : RegNo) (i : Nat), s.rl64 d i % 2 ^ 64 = s.rl64 d i := fun s d i =>
    Nat.mod_eq_of_lt (rl64_lt s d i)
  refine ⟨fun s p c k d a b l ls off ps hk hls hoff => ?_, fun s p c d a b l ls off ps hls hoff => ?_⟩ <;> subst hls hoff
  · have hseg : ¬(k == 6) = true := by simpa using hk
    refine ⟨fun hl h => does_of _ rfl (vecLoad_sends d _ false hk hl h), fun hl => does_of _ rfl (vecLoad_nop _ _ _ _ _ _ _ _ hl),
      fun hl h => does_of _ rfl (vecLoad_sends d _ false hk hl h), fun hl => does_of _ rfl (vecLoad_nop _ _ _ _ _ _ _ _ hl),
      fun hl h => does_of _ rfl (vecLoad_sends d _ false hk hl h), fun hl => does_of _ rfl (vecLoad_nop _ _ _ _ _ _ _ _ hl),
      fun hl h => does_of _ rfl (vecLoad_sends d _ false hk hl h), fun hl => does_of _ rfl (vecLoad_nop _ _ _ _ _ _ _ _ hl),
      fun hl h => does_of _ rfl (vecLoad_sends d _ true hk hl h), fun hl => does_of _ rfl (vecLoad_nop _ _ _ _ _ _ _ _ hl),
      fun h => does_of _ rfl ?_,
      fun hl h => does_of _ rfl (vecStore_sends d _ (hword s d) hk hl h), fun hl => does_of _ rfl (vecStore_nop _ _ _ _ _ _ _ hl),
      fun hl h => does_of _ rfl (vecStore_sends d _ (hpair s d) hk hl h), fun hl => does_of _ rfl (vecStore_nop _ _ _ _ _ _ _ hl),
      fun hl h => does_of _ rfl (vecStore_sends d _ (fun _ => rfl) hk hl h), fun hl => does_of _ rfl (vecStore_nop _ _ _ _ _ _ _ hl),
      fun hl h => does_of _ rfl (vecStore_sends d _ (fun _ => rfl) hk hl h), fun hl => does_of _ rfl (vecStore_nop _ _ _ _ _ _ _ hl),
      fun h => does_of _ rfl ?_⟩
    · dsimp only
      rw [if_neg hseg]
      refine (access_goes _ h).symm ▸ loadPlaces_sends _ _ _ _ h
    · dsimp only
      rw [if_neg hseg]
      refine (access_goes _ h).symm ▸ storePlaces_sends _ (fun _ => rfl) h
  · refine ⟨fun hl h hin => does_of _ rfl (vecLoad_window d _ false hl h hin),
      fun hl h hin => does_of _ rfl (vecLoad_window d _ false hl h hin),
      fun hl h hin => does_of _ rfl (vecLoad_window d _ false hl h hin),
      fun hl h hin => does_of _ rfl (vecLoad_window d _ false hl h hin),
      fun hl h hin => does_of _ rfl (vecLoad_window d _ true hl h hin),
      fun h hin => does_of _ rfl (windowLoad_reads _ h hin),
      fun hl h hin => does_of _ rfl (vecStore_window d _ (hword s d) hl h hin),
      fun hl h hin => does_of _ rfl (vecStore_window d _ (hpair s d) hl h hin),
      fun hl h hin => does_of _ rfl (vecStore_window d _ (fun _ => rfl) hl h hin),
      fun hl h hin => does_of _ rfl (vecStore_window d _ (fun _ => rfl) hl h hin),
      fun h hin => does_of _ rfl ?_⟩
    dsimp only
    rw [if_pos (by decide)]
    exact windowStore_writes (fun _ => rfl) h hin (List.pairwise_singleton _ _)

end Sys2Proof.Laws

end

section
/-! # Regions that close, sharers that are invalidated, and walks that end (O49) -/

namespace Sys2Proof.Laws

open Sys2Proof Sys2Proof.Machine

/-! ## A span that changes -/

/-- Changing some elements leaves those that are looked up by another property. -/
theorem find?_mapIf_of_apart {α : Type} (l : List α) {p q : α → Bool} {f : α → α} (hf : ∀ x, q (f x) = q x)
    (h : ∀ x, p x = true → q x = false) : (mapIf l p f).find? q = l.find? q := by
  induction l with
  | nil => rfl
  | cons x l ih =>
    show ((if p x then f x else x) :: mapIf l p f).find? q = _
    cases hp : p x with
    | true => simpa [List.find?_cons, hf, h x hp] using ih
    | false => simp [List.find?_cons, ih]

theorem spanOf_updSpan_other (s : State) {id k : SpanId} {f : Span → Span} (hl : ∀ p, (f p).live = p.live)
    (hid : ∀ p, (f p).id = p.id) (hk : k ≠ id) : (s.updSpan id f).spanOf k = s.spanOf k := by
  unfold State.spanOf
  rw [spans_updSpan s id hl]
  refine find?_mapIf_of_apart _ (fun p => by rw [hid]) fun p hp => ?_
  rw [of_decide_eq_true hp]
  exact decide_eq_false hk.symm

theorem updSpan_respans (s : State) (id : SpanId) {f : Span → Span} (hl : ∀ p, (f p).live = p.live) (hid : ∀ p, (f p).id = p.id) :
    s.Respans (s.updSpan id f) id f :=
  ⟨rfl, fun p hp => by rw [spanOf_updSpan s id hl hid, hp]; rfl, fun _ hk => spanOf_updSpan_other s hl hid hk⟩

/-! ## The close of a region (R358, R362) -/

theorem close_forgets (a : AccessRecord) (x : RegionId) (reduced : Bool) :
    (a.close x reduced).rreg0 ≠ some x ∧ (a.close x reduced).rreg1 ≠ some x ∧
      ((a.close x reduced).wreg = some x → (a.close x reduced).task ≠ none) := by
  have h0 : (if a.rreg0 = some x then none else a.rreg0) ≠ some x := by
    split
    · exact (Option.some_ne_none x).symm
    · assumption
  have h1 : (if a.rreg1 = some x then none else a.rreg1) ≠ some x := by
    split
    · exact (Option.some_ne_none x).symm
    · assumption
  have hw : (if (decide (a.wreg = some x) && a.task.isNone) = true then none else a.wreg) = some x → a.task ≠ none := by
    split
    · intro h
      cases h
    · next hkeep =>
      intro hwreg hnone
      exact hkeep (by simp [hwreg, hnone])
  unfold AccessRecord.close
  dsimp only
  split <;> exact ⟨h0, h1, hw⟩

/-- A record without slots of the region stays. -/
theorem close_of_stranger {a : AccessRecord} {x : RegionId} (hw : a.wreg ≠ some x) (h0 : a.rreg0 ≠ some x)
    (h1 : a.rreg1 ≠ some x) : a.close x false = a := by
  unfold AccessRecord.close
  simp [hw, h0, h1]

theorem closeRegion_of_holder {s : State} {r : RegionId} {p : Span} (hp : s.holderOf r = some p) :
    s.closeRegion r = { s.updSpan p.id (fun q => { q with regions := q.regions.filter fun y => y.id != r }) with
      records := (s.records.map fun a => a.close r
        (((p.regions.filter fun y => y.id = r).flatMap fun y => y.reduced).contains a.sector)).filter fun a => !a.free } := by
  unfold State.closeRegion State.updHolder
  simp only [hp]

theorem regionClose_answers {s : State} {r : RegionId} {p : Span} (hp : s.holderOf r = some p) (hc : s.closable r = true) :
    Answers (.regionClose r) s (fun u =>
      s.Respans { u with records := s.records } p.id
        (fun q => { q with regions := q.regions.filter fun y => y.id != r }) ∧
      (∀ a ∈ u.records, a.free = false ∧ a.rreg0 ≠ some r ∧ a.rreg1 ≠ some r ∧ (a.wreg = some r → a.task ≠ none)) ∧
      ∀ a ∈ s.records, a.wreg ≠ some r → a.rreg0 ≠ some r → a.rreg1 ≠ some r → a.free = false →
        (∀ y ∈ p.regions, y.id = r → a.sector ∉ y.reduced) → a ∈ u.records) := by
  have hevent : exec (.regionClose r) s = .next (s.closeRegion r) := by
    show happens (if s.closable r then s.closeRegion r else s) = _
    rw [if_pos hc]
    rfl
  refine ⟨_, hevent, ?_⟩
  rw [closeRegion_of_holder hp]
  have hspan := updSpan_respans s p.id (f := fun q => { q with regions := q.regions.filter fun y => y.id != r })
    (fun _ => rfl) fun _ => rfl
  refine ⟨hspan, fun a ha => ?_, fun a ha hw h0 h1 hf hred => ?_⟩
  · obtain ⟨hmem, hfree⟩ := List.mem_filter.mp ha
    obtain ⟨b, -, rfl⟩ := List.mem_map.mp hmem
    exact ⟨by simpa using hfree, close_forgets b r _⟩
  · have hout : ((p.regions.filter fun y => y.id = r).flatMap fun y => y.reduced).contains a.sector = false := by
      rw [Bool.eq_false_iff, ne_eq, List.contains_iff_mem, List.mem_flatMap]
      rintro ⟨y, hy, hin⟩
      obtain ⟨hyp, hyr⟩ := List.mem_filter.mp hy
      exact hred y hyp (of_decide_eq_true hyr) hin
    refine List.mem_filter.mpr ⟨List.mem_map.mpr ⟨a, ha, ?_⟩, by simpa using hf⟩
    rw [hout]
    exact close_of_stranger hw h0 h1

/-! ## The sharers of a line (R152) -/

theorem sharersOf_line (s : State) (line : Nat) : (s.sharersOf line).line = line := by
  unfold State.sharersOf
  split
  · next x hx => simpa using List.find?_some hx
  · rfl

/-- A line without sharers is not listed, and one that is not listed has none. -/
theorem sharersOf_setSharers_same (s : State) {x : Sharers} {line : Nat} (h : x.line = line) :
    (s.setSharers x).sharersOf line = x := by
  subst h
  unfold State.sharersOf State.setSharers
  dsimp only
  by_cases hnone : (x.vector == 0 && x.inval == 0 && x.confirm == 0) = true
  · rw [if_pos hnone, find?_filter_eq_none _ fun y hy => by simpa using hy]
    obtain ⟨line, vector, inval, confirm⟩ := x
    simp only [Bool.and_eq_true, beq_iff_eq] at hnone
    obtain ⟨⟨rfl, rfl⟩, rfl⟩ := hnone
    rfl
  · rw [if_neg hnone, List.find?_cons_of_pos (by simp)]

theorem sharersOf_setSharers_other (s : State) {x : Sharers} {line : Nat} (h : line ≠ x.line) :
    (s.setSharers x).sharersOf line = s.sharersOf line := by
  have hothers : (s.memsys.sharers.filter fun y => y.line != x.line).find? (fun y => y.line == line) =
      s.memsys.sharers.find? fun y => y.line == line :=
    find?_filter_of_imp _ fun y hy => by
      rw [beq_iff_eq.mp hy]
      exact bne_iff_ne.mpr h
  unfold State.sharersOf State.setSharers
  dsimp only
  by_cases hnone : (x.vector == 0 && x.inval == 0 && x.confirm == 0) = true
  · rw [if_pos hnone, hothers]
  · rw [if_neg hnone, List.find?_cons_of_neg (by simpa using h.symm), hothers]

section
variable {s : State} {line : Nat} {sharer : Fin 5}

theorem sharerInvalidation_stays (h : bitOn (s.sharersOf line).inval sharer.val = false) :
    exec (.sharerInvalidation line sharer) s = .next s := by
  show execSharerInvalidation line sharer s = _
  unfold execSharerInvalidation
  dsimp only
  rw [h]
  rfl

/-- Is a cached line not the sharer's copy of the given one? -/
def keepsCopy (line : Nat) (sharer : Fin 5) (y : Line) : Bool :=
  match y.rdc with
  | some d => !(y.line == line && d.val == sharer.val)
  | none => true

theorem keepsCopy_eq (line : Nat) (sharer : Fin 5) (y : Line) :
    keepsCopy line sharer y = !(y.line == line && (y.rdc.map fun d => d.val) == some sharer.val) := by
  unfold keepsCopy
  cases y.rdc with
  | none => simp
  | some d => simp

/-- The state in which a sharer has dropped its copy of a line. -/
def copyDropped (s : State) (line : Nat) (sharer : Fin 5) : State :=
  { s with memsys := { s.memsys with
      lines := s.memsys.lines.filter (keepsCopy line sharer),
      prefetched := if sharer.val = 4 then s.memsys.prefetched.filter fun l => l != line else s.memsys.prefetched } }

theorem sharerInvalidation_event (h : bitOn (s.sharersOf line).inval sharer.val = true) :
    exec (.sharerInvalidation line sharer) s = .next ((copyDropped s line sharer).setSharers { s.sharersOf line with
      inval := setBit (s.sharersOf line).inval sharer.val false,
      confirm := setBit (s.sharersOf line).confirm sharer.val true }) := by
  show execSharerInvalidation line sharer s = _
  unfold execSharerInvalidation
  dsimp only
  rw [h]
  rfl

theorem sharerInvalidation_answers (h : bitOn (s.sharersOf line).inval sharer.val = true) :
    Answers (.sharerInvalidation line sharer) s (fun u =>
      u = { s with memsys := { s.memsys with
        lines := u.memsys.lines, sharers := u.memsys.sharers, prefetched := u.memsys.prefetched } } ∧
      (u.memsys.lines = s.memsys.lines.filter fun y =>
        !(y.line == line && (y.rdc.map fun d => d.val) == some sharer.val)) ∧
      (u.memsys.prefetched = if sharer = 4 then s.memsys.prefetched.filter fun l => l != line else s.memsys.prefetched) ∧
      u.sharersOf line = { s.sharersOf line with
        inval := setBit (s.sharersOf line).inval sharer.val false,
        confirm := setBit (s.sharersOf line).confirm sharer.val true } ∧
      ∀ l, l ≠ line → u.sharersOf l = s.sharersOf l) := by
  have hline := sharersOf_line s line
  refine ⟨_, sharerInvalidation_event h, rfl, List.filter_congr fun y _ => keepsCopy_eq line sharer y, ?_, ?_, fun l hl => ?_⟩
  · exact if_congr ⟨fun e => Fin.ext e, fun e => by rw [e]; rfl⟩ rfl rfl
  · exact sharersOf_setSharers_same (copyDropped s line sharer) hline
  · exact sharersOf_setSharers_other (copyDropped s line sharer) (by rwa [hline])

theorem invalidationConfirmation_stays (h : bitOn (s.sharersOf line).confirm sharer.val = false) :
    exec (.invalidationConfirmation line sharer) s = .next s := by
  show execInvalidationConfirmation line sharer s = _
  unfold execInvalidationConfirmation
  dsimp only
  rw [h]
  rfl

theorem invalidationConfirmation_answers (h : bitOn (s.sharersOf line).confirm sharer.val = true) :
    Answers (.invalidationConfirmation line sharer) s (fun u =>
      u = { s with memsys := { s.memsys with sharers := u.memsys.sharers } } ∧
      u.sharersOf line = { s.sharersOf line with confirm := setBit (s.sharersOf line).confirm sharer.val false } ∧
      ∀ l, l ≠ line → u.sharersOf l = s.sharersOf l) := by
  have hline := sharersOf_line s line
  have hevent : exec (.invalidationConfirmation line sharer) s = .next (s.setSharers { s.sharersOf line with
      confirm := setBit (s.sharersOf line).confirm sharer.val false }) := by
    show execInvalidationConfirmation line sharer s = _
    unfold execInvalidationConfirmation
    dsimp only
    rw [h]
    rfl
  exact ⟨_, hevent, rfl, sharersOf_setSharers_same s hline, fun l hl => sharersOf_setSharers_other s (by rwa [hline])⟩

end

/-! ## Translation walks (R158, R159, R161) -/

section
variable {s : State} {w : Walk} (hw : s.memsys.walks.find? (fun y => y.id == w.id) = some w)
include hw

theorem translationWalk_queues (h : (s.walkers w.die).any (fun y => y.id == w.id) = false) :
    exec (.translationWalk w.id) s = .next s := by
  show execTranslationWalk w.id s = _
  unfold execTranslationWalk
  simp only [hw, h]
  rfl

variable (h : (s.walkers w.die).any (fun y => y.id == w.id) = true)
include h

/-- The state in which the walk has read its tables and has left its walker. -/
def walkEnded (s : State) (w : Walk) : State :=
  { s.readTables w.asid w.va.toNat with memsys := { (s.readTables w.asid w.va.toNat).memsys with
      walks := (s.readTables w.asid w.va.toNat).memsys.walks.filter fun y => y.id != w.id } }

theorem translationWalk_ends {e : DWord} {bits : Nat} (he : s.walk w.asid w.va.toNat = .ok (e, bits)) :
    exec (.translationWalk w.id) s = .next ((walkEnded s w).keepTrans
      { core := none, die := w.die, asid := w.asid, vpn := w.va.toNat / 2 ^ bits, bits := bits, entry := e }) := by
  show execTranslationWalk w.id s = _
  unfold execTranslationWalk
  simp only [hw, h, he]
  rfl

theorem translationWalk_violates (he : s.walk w.asid w.va.toNat = .error .violation) :
    exec (.translationWalk w.id) s = .next (walkEnded s w) := by
  show execTranslationWalk w.id s = _
  unfold execTranslationWalk
  simp only [hw, h, he]
  rfl

theorem translationWalk_misses (he : s.walk w.asid w.va.toNat = .error .absent) :
    exec (.translationWalk w.id) s = .next { s.readTables w.asid w.va.toNat with
      memsys := { (s.readTables w.asid w.va.toNat).memsys with
        walks := mapIf (s.readTables w.asid w.va.toNat).memsys.walks (fun y => y.id == w.id) fun y =>
          { y with absent := some (s.absentRange w.asid w.va.toNat) } } } := by
  show execTranslationWalk w.id s = _
  unfold execTranslationWalk
  simp only [hw, h, he]
  rfl

end

theorem readTables_walks (s : State) (asid : BitVec 10) (va : Nat) : (s.readTables asid va).memsys.walks = s.memsys.walks := by
  rw [(readTables_served s asid va).frame]

theorem readTables_trans (s : State) (asid : BitVec 10) (va : Nat) : (s.readTables asid va).memsys.trans = s.memsys.trans := by
  rw [(readTables_served s asid va).frame]

/-- A translation that enters a cache stands first, before some of those that stood there. -/
theorem keepTrans_trans (s : State) (x : Trans) : ∃ ts, (s.keepTrans x).memsys.trans = x :: ts ∧ ∀ y ∈ ts, y ∈ s.memsys.trans := by
  refine ⟨_, rfl, fun y hy => ?_⟩
  rcases List.mem_append.mp hy with hm | hm
  · exact (List.mem_filter.mp (List.mem_of_mem_take hm)).1
  · exact (List.mem_filter.mp hm).1

section
variable {s : State} {w : Walk} (hw : s.memsys.walks.find? (fun y => y.id == w.id) = some w)
  (h : (s.walkers w.die).any (fun y => y.id == w.id) = true)
include hw h

theorem translationWalk_fills {e : DWord} {bits : Nat} (he : s.walk w.asid w.va.toNat = .ok (e, bits)) :
    Answers (.translationWalk w.id) s (fun u =>
      ∃ v, s.Filled v ∧ u = { v with memsys := { v.memsys with
        walks := s.memsys.walks.filter fun y => y.id != w.id, trans := u.memsys.trans } } ∧
      (∃ ts, u.memsys.trans = {
          core := none, die := w.die, asid := w.asid, vpn := w.va.toNat / 2 ^ bits, bits := bits, entry := e } :: ts ∧
        ∀ x ∈ ts, x ∈ s.memsys.trans)) := by
  refine ⟨_, translationWalk_ends hw h he, _, (readTables_served s w.asid w.va.toNat).looked.filled, ?_, ?_⟩
  · rw [← readTables_walks s w.asid w.va.toNat]
    rfl
  · rw [← readTables_trans s w.asid w.va.toNat]
    exact keepTrans_trans _ _

theorem translationWalk_faults (he : s.walk w.asid w.va.toNat = .error .violation) :
    Answers (.translationWalk w.id) s (fun u => ∃ v, s.Filled v ∧ u = { v with memsys := { v.memsys with
      walks := s.memsys.walks.filter fun y => y.id != w.id, trans := s.memsys.trans } }) := by
  refine ⟨_, translationWalk_violates hw h he, _, (readTables_served s w.asid w.va.toNat).looked.filled, ?_⟩
  rw [← readTables_walks s w.asid w.va.toNat, ← readTables_trans s w.asid w.va.toNat]
  rfl

theorem translationWalk_parks (he : s.walk w.asid w.va.toNat = .error .absent) :
    Answers (.translationWalk w.id) s (fun u => ∃ v, s.Filled v ∧ u = { v with memsys := { v.memsys with
      trans := s.memsys.trans, walks := s.memsys.walks.map fun y =>
        if y.id = w.id then { y with absent := some (s.absentRange w.asid w.va.toNat) } else y } }) := by
  refine ⟨_, translationWalk_misses hw h he, _, (readTables_served s w.asid w.va.toNat).looked.filled, ?_⟩
  rw [← readTables_walks s w.asid w.va.toNat, ← readTables_trans s w.asid w.va.toNat]
  simp only [mapIf, beq_iff_eq]

end

end Sys2Proof.Laws

end

section
/-! # Saddles that are touched and tasks that roll back (O49) -/

namespace Sys2Proof.Laws

open Sys2Proof Sys2Proof.Machine

/-! ## Touches (R350, R351) -/

theorem endSaddleWait_eq (p : Span) (anchor : Nat) :
    p.endSaddleWait anchor = { p with slices := vecMap p.slices fun _ x => x.seated anchor } := by
  refine congrArg (fun f => { p with slices := vecMap p.slices f }) (funext fun _ => funext fun x => ?_)
  unfold Slice.seated
  split
  · simp only [beq_iff_eq]
  · rfl

/-- The state in which a span no longer waits for a granule. -/
def seatedIn (s : State) (id : SpanId) (anchor : Nat) : State := s.updSpan id fun q => q.endSaddleWait anchor

theorem seatedIn_reslices (s : State) (id : SpanId) (anchor : Nat) : s.Reslices (seatedIn s id anchor) id (Slice.seated anchor) := by
  unfold seatedIn
  simp only [endSaddleWait_eq]
  exact updSpan_respans s id (fun _ => rfl) fun _ => rfl

theorem groupOf_id {s : State} {g : GroupId} {x : Group} (h : s.groupOf g = some x) : x.id = g := by
  simpa using List.find?_some (p := fun y : Group => decide (y.id = g)) h

theorem updCore_frame (s : State) (k : CoreId) (f : Core → Core) :
    s.updCore k f = { s with core := (s.updCore k f).core, cores := (s.updCore k f).cores } := by
  unfold State.updCore
  split <;> rfl

@[simp] theorem updCore_saddles (s : State) (k : CoreId) (f : Core → Core) : (s.updCore k f).saddles = s.saddles := by
  rw [updCore_frame]

@[simp] theorem updCore_host (s : State) (k : CoreId) (f : Core → Core) : (s.updCore k f).host = s.host := by
  rw [updCore_frame]

theorem updCore_groupOf (s : State) (k : CoreId) (f : Core → Core) (g : GroupId) : (s.updCore k f).groupOf g = s.groupOf g := by
  rw [updCore_frame]
  rfl

theorem updCore_spanOf (s : State) (k : CoreId) (f : Core → Core) (id : SpanId) : (s.updCore k f).spanOf id = s.spanOf id := by
  rw [updCore_frame]
  rfl

theorem endRegionOf_saddles (s : State) (id : SpanId) : (s.endRegionOf id).saddles = s.saddles := by
  unfold State.endRegionOf
  split
  · rfl
  · exact updCore_saddles _ _ _

theorem endRegionOf_host (s : State) (id : SpanId) : (s.endRegionOf id).host = s.host := by
  unfold State.endRegionOf
  split
  · rfl
  · exact updCore_host _ _ _

theorem endRegionOf_groupOf (s : State) (id : SpanId) (g : GroupId) : (s.endRegionOf id).groupOf g = s.groupOf g := by
  unfold State.endRegionOf
  split
  · rfl
  · exact updCore_groupOf _ _ _ g

/-- A span's slices stay when its region ends. -/
theorem endRegionOf_spanOf {s : State} {id : SpanId} {p : Span} (hp : s.spanOf id = some p) :
    ∃ q, (s.endRegionOf id).spanOf id = some q ∧ q.slices = p.slices := by
  unfold State.endRegionOf
  simp only [hp]
  rw [updCore_spanOf, spanOf_updSpan, hp]
  · exact ⟨_, rfl, rfl⟩
  all_goals exact fun _ => rfl

section
variable {s : State} {id : SpanId} {g : Group} {r : Saddle}

theorem giveSaddle_of_held (h : (s.saddleAt r.launch r.anchor).isSome = true) : s.giveSaddle id g r = seatedIn s id r.anchor :=
  if_pos h

theorem giveSaddle_of_free (h : s.saddleAt r.launch r.anchor = none) : s.giveSaddle id g r =
    ({ (seatedIn s id r.anchor).endRegionOf id with saddles := ((seatedIn s id r.anchor).endRegionOf id).saddles ++ [r] } : State).updGroup
      g.id fun x => { x with saddled := true } :=
  if_neg (by rw [show (s.updSpan id fun p => p.endSaddleWait r.anchor).saddleAt r.launch r.anchor = none from h]; decide)

/-- A granule that is free is the task's from now on. -/
theorem giveSaddle_takes {p : Span} (h : s.saddleAt r.launch r.anchor = none) (hg : s.groupOf g.id = some g)
    (hp : s.spanOf id = some p) : (s.giveSaddle id g r).saddles = s.saddles ++ [r] ∧
      (∃ x, (s.giveSaddle id g r).groupOf g.id = some x ∧ x = { g with saddled := true }) ∧
      ∃ q, (s.giveSaddle id g r).spanOf id = some q ∧ ∀ j, j < 8 → q.slice j = (p.slice j).seated r.anchor := by
  have hseated : (seatedIn s id r.anchor).spanOf id = some (p.endSaddleWait r.anchor) := by
    unfold seatedIn
    rw [spanOf_updSpan, hp]
    · rfl
    all_goals exact fun _ => rfl
  obtain ⟨q, hq, hslices⟩ := endRegionOf_spanOf hseated
  rw [giveSaddle_of_free h]
  refine ⟨?_, ⟨_, ?_, rfl⟩, q, hq, fun j hj => ?_⟩
  · exact congrArg (· ++ [r]) (endRegionOf_saddles _ id)
  · rw [groupOf_updGroup]
    · exact congrArg (Option.map _) ((endRegionOf_groupOf (seatedIn s id r.anchor) id g.id).trans hg)
    · exact fun _ => rfl
  · unfold Span.slice
    rw [hslices, endSaddleWait_eq]
    exact slice_vecMap _ hj

end

section
variable {s : State} {p : Span} {g : Group} {anchor : Nat} {sectors : List Nat} (hp : s.spanOf p.id = some p)
  (hw : p.saddleWait = some (anchor, sectors)) (hg : s.groupOf p.group = some g)
include hp hw hg

theorem saddleTouch_event : exec (.saddleTouch p.id) s =
    .next (if !s.saddleWaiter p || s.olderWaits g anchor || !s.touchFree g anchor then s
      else if s.grantable g (g.record anchor sectors) then s.giveSaddle p.id g (g.record anchor sectors)
      else seatedIn s p.id anchor) := by
  show execSaddleTouch p.id s = _
  unfold execSaddleTouch happens
  simp only [hp, hw, hg]
  split <;> rfl

theorem saddleTouch_stays (h : s.saddleWaiter p = false ∨ s.olderWaits g anchor = true ∨ s.touchFree g anchor = false) :
    exec (.saddleTouch p.id) s = .next s := by
  rw [saddleTouch_event hp hw hg, if_pos]
  rcases h with h | h | h <;> simp [h]

variable (hwait : s.saddleWaiter p = true) (hold : s.olderWaits g anchor = false) (hfree : s.touchFree g anchor = true)
include hwait hold hfree

theorem saddleTouch_goes : exec (.saddleTouch p.id) s =
    .next (if s.grantable g (g.record anchor sectors) then s.giveSaddle p.id g (g.record anchor sectors)
      else seatedIn s p.id anchor) := by
  rw [saddleTouch_event hp hw hg, if_neg]
  simp [hwait, hold, hfree]

theorem saddleTouch_goesOn (h : s.grantable g (g.record anchor sectors) = false ∨
    (∃ x, s.saddleAt g.launch anchor = some x ∧ x.holder = g.id)) :
    Answers (.saddleTouch p.id) s (fun u => s.Reslices u p.id (Slice.seated anchor)) := by
  refine ⟨_, saddleTouch_goes hp hw hg hwait hold hfree, ?_⟩
  by_cases hgrant : s.grantable g (g.record anchor sectors) = true
  · obtain ⟨x, hx, -⟩ := h.resolve_left (by simp [hgrant])
    rw [if_pos hgrant, giveSaddle_of_held (Option.isSome_of_eq_some hx)]
    exact seatedIn_reslices s p.id anchor
  · rw [if_neg hgrant]
    exact seatedIn_reslices s p.id anchor

theorem saddleTouch_takes (hgrant : s.grantable g (g.record anchor sectors) = true) (hnone : s.saddleAt g.launch anchor = none) :
    Answers (.saddleTouch p.id) s (fun u => u.saddles = s.saddles ++ [g.record anchor sectors] ∧
      (∃ h, u.groupOf g.id = some h ∧ h = { g with saddled := true }) ∧
      ∃ q, u.spanOf p.id = some q ∧ ∀ j, j < 8 → q.slice j = (p.slice j).seated anchor) := by
  have hid : g.id = p.group := groupOf_id hg
  refine ⟨_, saddleTouch_goes hp hw hg hwait hold hfree, ?_⟩
  rw [if_pos hgrant]
  exact giveSaddle_takes hnone (by rw [hid]; exact hg) hp

end

/-! ## The release of a task's saddles (R350, R355) -/

theorem mem_insertBy {α : Type} {before : α → α → Bool} {x y : α} {l : List α} :
    y ∈ insertBy before x l ↔ y = x ∨ y ∈ l := by
  induction l with
  | nil => simp [insertBy]
  | cons z t ih =>
    unfold insertBy
    split
    · simp
    · simp only [List.mem_cons, ih]
      tauto

theorem mem_sortBy {α : Type} {before : α → α → Bool} {y : α} {l : List α} : y ∈ sortBy before l ↔ y ∈ l := by
  induction l with
  | nil => simp [sortBy]
  | cons x t ih => rw [sortBy, mem_insertBy, ih, List.mem_cons]

theorem giveSaddle_host (s : State) (id : SpanId) (g : Group) (r : Saddle) : (s.giveSaddle id g r).host = s.host := by
  unfold State.giveSaddle
  dsimp only
  split
  · rfl
  · exact endRegionOf_host _ id

theorem mem_giveSaddle {s : State} {id : SpanId} {g : Group} {r x : Saddle} (h : x ∈ (s.giveSaddle id g r).saddles) :
    x ∈ s.saddles ∨ x = r := by
  cases hr : s.saddleAt r.launch r.anchor with
  | none =>
    rw [giveSaddle_of_free hr] at h
    have hmem : x ∈ ((seatedIn s id r.anchor).endRegionOf id).saddles ++ [r] := h
    rw [endRegionOf_saddles, List.mem_append, List.mem_singleton] at hmem
    exact hmem
  | some y =>
    rw [giveSaddle_of_held (Option.isSome_of_eq_some hr)] at h
    exact .inl h

/-- One waiting span of those that are served. -/
def serveWaiter (s : State) (p : Span) : State :=
  match p.saddleWait, s.groupOf p.group with
  | some (anchor, sectors), some g =>
    if s.grantable g (g.record anchor sectors) then s.giveSaddle p.id g (g.record anchor sectors) else s
  | _, _ => s

theorem serveWaiters_eq (s : State) : s.serveWaiters =
    (sortBy (fun a b => decide (s.ageOf a < s.ageOf b)) (s.spans.filter s.saddleWaiter)).foldl serveWaiter s := rfl

theorem serveWaiter_host (s : State) (p : Span) : (serveWaiter s p).host = s.host := by
  unfold serveWaiter
  split
  · split
    · exact giveSaddle_host _ _ _ _
    · rfl
  · rfl

/-- A span that is served gives saddles to its own task alone. -/
theorem mem_serveWaiter {s : State} {p : Span} {x : Saddle} (h : x ∈ (serveWaiter s p).saddles) :
    x ∈ s.saddles ∨ x.holder = p.group := by
  unfold serveWaiter at h
  split at h
  · next g _ hg =>
    split at h
    · refine (mem_giveSaddle h).imp_right fun hx => ?_
      rw [hx]
      exact groupOf_id hg
    · exact .inl h
  · exact .inl h

theorem serveWaiters_host (s : State) : s.serveWaiters.host = s.host := by
  rw [serveWaiters_eq]
  exact List.foldlRecOn (motive := fun t : State => t.host = s.host) _ _ rfl fun t ht p _ => (serveWaiter_host t p).trans ht

/-- A group that does not run is given no saddle. -/
theorem serveWaiters_holders {s : State} {g : GroupId} (hs : ∀ x ∈ s.saddles, x.holder ≠ g)
    (hg : ∀ y, s.groupOf g = some y → y.status ≠ .running) : ∀ x ∈ s.serveWaiters.saddles, x.holder ≠ g := by
  rw [serveWaiters_eq]
  refine List.foldlRecOn (motive := fun t : State => ∀ x ∈ t.saddles, x.holder ≠ g) _ _ hs fun t ht p hp x hx => ?_
  rcases mem_serveWaiter hx with hold | hnew
  · exact ht x hold
  · rw [hnew]
    rintro rfl
    have hwaits := (List.mem_filter.mp (mem_sortBy.mp hp)).2
    unfold State.saddleWaiter at hwaits
    rw [Bool.and_eq_true] at hwaits
    cases hgrp : s.groupOf p.group with
    | none => simp [hgrp] at hwaits
    | some y => exact hg y hgrp (by simpa [hgrp] using hwaits.2)

theorem releaseSaddles_host (s : State) (g : GroupId) : (s.releaseSaddles g).host = s.host := serveWaiters_host _

theorem releaseSaddles_holders {s : State} {g : GroupId} (hg : ∀ y, s.groupOf g = some y → y.status ≠ .running) :
    ∀ x ∈ (s.releaseSaddles g).saddles, x.holder ≠ g := by
  unfold State.releaseSaddles
  refine serveWaiters_holders (fun x hx => ?_) fun y hy => ?_
  · exact bne_iff_ne.mp (List.mem_filter.mp hx).2
  · rw [groupOf_updGroup, Option.map_eq_some_iff] at hy
    · obtain ⟨z, hz, rfl⟩ := hy
      exact hg z hz
    · exact fun _ => rfl

/-! ## Groups that leave (R353, R388) -/

/-- From s to t a group has left its core: saddles, boxes and bind requests are as they were. -/
structure Vacated (s t : State) : Prop where
  saddles : t.saddles = s.saddles
  boxes : t.host.boxes = s.host.boxes
  requests : t.host.requests = s.host.requests

theorem Vacated.refl (s : State) : Vacated s s := ⟨rfl, rfl, rfl⟩

theorem Vacated.trans {s t u : State} (h : Vacated s t) (k : Vacated t u) : Vacated s u :=
  ⟨k.saddles.trans h.saddles, k.boxes.trans h.boxes, k.requests.trans h.requests⟩

theorem Vacated.foldl {α : Type} {f : State → α → State} (h : ∀ t x, Vacated t (f t x)) (l : List α) (s : State) :
    Vacated s (l.foldl f s) :=
  List.foldlRecOn l f (Vacated.refl s) fun t ht x _ => ht.trans (h t x)

theorem updCore_vacated (s : State) (k : CoreId) (f : Core → Core) : Vacated s (s.updCore k f) := by
  have hhost := updCore_host s k f
  exact ⟨updCore_saddles s k f, by rw [hhost], by rw [hhost]⟩

theorem Recorded.vacated {s t : State} (h : Recorded s t) : Vacated s t := by
  rw [h]
  exact ⟨rfl, rfl, rfl⟩

theorem closeRegion_recorded (s : State) (r : RegionId) : Recorded s (s.closeRegion r) :=
  (updHolder_recorded s r _).trans rfl

theorem withdraw_vacated (s : State) (id : SpanId) : Vacated s (s.withdraw id) := by
  constructor <;> simp [State.withdraw]

theorem liftSpan_vacated (s : State) (id : SpanId) : Vacated s (s.liftSpan id) := by
  obtain ⟨hsaddles, hboxes, hrequests⟩ := withdraw_vacated s id
  constructor <;> simp [State.liftSpan, hsaddles, hboxes, hrequests]

theorem removeSpan_vacated (s : State) (id : SpanId) : Vacated s (s.removeSpan id) := by
  unfold State.removeSpan
  split
  · exact .refl s
  · next p _ =>
    have hclose : Vacated s (p.regions.foldl (fun t x => t.closeRegion x.id) s) :=
      .foldl (fun t (x : Region) => (closeRegion_recorded t x.id).vacated) _ s
    obtain ⟨hsaddles, hboxes, hrequests⟩ := hclose.trans (liftSpan_vacated _ id)
    exact ⟨hsaddles, hboxes, hrequests⟩

/-- The state in which a group's spans have left their slots. -/
def spansRemoved (s : State) (g : GroupId) : State := (s.spansOf g).foldl (fun t p => t.removeSpan p.id) s

/-- The state in which a group and its spans are gone. -/
def groupRemoved (s : State) (g : GroupId) : State :=
  { spansRemoved s g with
    grp := if (spansRemoved s g).grp.id == g then Group.zero else (spansRemoved s g).grp,
    groups := (spansRemoved s g).groups.filter fun y => y.id != g }

theorem dropGroup_of_some {s : State} {g : GroupId} {x : Group} (h : s.groupOf g = some x) :
    ∃ k f, s.dropGroup g = (groupRemoved s g).updCore k f := by
  unfold State.dropGroup State.dropGroupBy
  simp only [h]
  exact ⟨_, _, rfl⟩

theorem dropGroup_of_none {s : State} {g : GroupId} (h : s.groupOf g = none) : s.dropGroup g = s := by
  unfold State.dropGroup State.dropGroupBy
  simp only [h]

theorem dropGroup_vacated (s : State) (g : GroupId) : Vacated s (s.dropGroup g) := by
  cases h : s.groupOf g with
  | none =>
    rw [dropGroup_of_none h]
    exact .refl s
  | some x =>
    obtain ⟨k, f, hdrop⟩ := dropGroup_of_some h
    have hspans : Vacated s (spansRemoved s g) := .foldl (fun t (p : Span) => removeSpan_vacated t p.id) _ s
    rw [hdrop]
    have hgroups : Vacated (spansRemoved s g) (groupRemoved s g) := ⟨rfl, rfl, rfl⟩
    exact (hspans.trans hgroups).trans (updCore_vacated _ k f)

theorem mem_groupRemoved {s : State} {g : GroupId} (h0 : g ≠ 0) {y : Group} (hy : y ∈ (groupRemoved s g).allGroups) : y.id ≠ g := by
  rcases List.mem_cons.mp hy with hfront | hrest
  · rw [hfront]
    show (if (spansRemoved s g).grp.id == g then Group.zero else (spansRemoved s g).grp).id ≠ g
    split
    · exact h0.symm
    · next hne => simpa using hne
  · exact bne_iff_ne.mp (List.mem_filter.mp hrest).2

theorem dropGroup_gone {s : State} {g : GroupId} (h0 : g ≠ 0) : ∀ y ∈ (s.dropGroup g).allGroups, y.id ≠ g := by
  cases h : s.groupOf g with
  | none =>
    rw [dropGroup_of_none h]
    exact fun y hy => by simpa using List.find?_eq_none.mp h y hy
  | some x =>
    obtain ⟨k, f, hdrop⟩ := dropGroup_of_some h
    have hgroups : (s.dropGroup g).allGroups = (groupRemoved s g).allGroups := by
      rw [hdrop, updCore_frame]
      rfl
    rw [hgroups]
    exact fun y hy => mem_groupRemoved h0 hy

theorem forgetOps_vacated (s : State) (g : Group) : Vacated s (s.forgetOps g) :=
  have h := updCore_vacated s g.bindRec.core fun c => { c with
    ops := c.ops.filter fun o => !((s.spanOf o.span).map (fun p => p.group) == some g.id) }
  ⟨h.saddles, h.boxes, h.requests⟩

/-! ## Counters and trace records (R438, R441) -/

theorem Written.vacated {s t : State} (h : Written s t) : Vacated s t := by
  rw [h]
  exact ⟨rfl, rfl, rfl⟩

theorem writeCoded_vacated (s : State) (a : DWord) (off : Nat) (bs : List Byte) : Vacated s (s.writeCoded a off bs) := by
  unfold State.writeCoded
  split
  · exact ⟨rfl, rfl, rfl⟩
  · exact (homeWrite_written s _ bs 0 Policy.plain).vacated

theorem writeCoded_allGroups (s : State) (a : DWord) (off : Nat) (bs : List Byte) :
    (s.writeCoded a off bs).allGroups = s.allGroups := by
  unfold State.writeCoded
  split
  · rfl
  · rw [homeWrite_written s _ bs 0 Policy.plain]
    rfl

theorem trace_vacated (s : State) (kind data : Nat) : Vacated s (s.trace kind data) := by
  unfold State.trace
  dsimp only
  split
  · exact .refl s
  · split
    · exact ⟨rfl, rfl, rfl⟩
    · exact (writeCoded_vacated s _ _ _).trans ⟨rfl, rfl, rfl⟩

theorem trace_allGroups (s : State) (kind data : Nat) : (s.trace kind data).allGroups = s.allGroups := by
  unfold State.trace
  dsimp only
  split
  · rfl
  · split
    · rfl
    · exact writeCoded_allGroups s _ _ _

/-! ## The rollback of a resident task (R353) -/

theorem replayEntry_written (s : State) (e : LogEntry) : Written s (s.replayEntry e) := by
  unfold State.replayEntry
  exact homeWrite_written _ _ _ _ _

theorem replayLog_written (s : State) (es : List LogEntry) : Written s (s.replayLog es) := .foldl replayEntry_written es s

/-- A task that is rolled back holds no saddle. -/
theorem rollback_holders {s : State} {g : Group} (hg : s.groupOf g.id = some g) (hst : g.status ≠ .running) :
    ∀ x ∈ (s.rollback g).saddles, x.holder ≠ g.id := by
  refine releaseSaddles_holders fun y hy => ?_
  have hsame : (s.replayLog g.log).groupOf g.id = s.groupOf g.id := by
    rw [replayLog_written s g.log]
    rfl
  rw [hsame, hg] at hy
  cases hy
  exact hst

theorem rollback_requests (s : State) (g : Group) : (s.rollback g).host.requests = s.host.requests := by
  unfold State.rollback
  rw [releaseSaddles_host]
  exact (replayLog_written s g.log).vacated.requests

theorem count_vacated (s : State) (c : Counter) : Vacated s (s.count c) := ⟨rfl, rfl, rfl⟩
theorem count_allGroups (s : State) (c : Counter) : (s.count c).allGroups = s.allGroups := rfl

theorem requeue_requests (s : State) (g : Group) : (s.requeue g).host.requests =
    s.host.requests ++ [(g.launch, { g.bindRec with deadline := BitVec.allOnes 64 })] := rfl
theorem requeue_boxes (s : State) (g : Group) : (s.requeue g).host.boxes = s.host.boxes := rfl
theorem requeue_saddles (s : State) (g : Group) : (s.requeue g).saddles = s.saddles := rfl
theorem requeue_allGroups (s : State) (g : Group) : (s.requeue g).allGroups = s.allGroups := rfl

theorem setBox_requests (s : State) (die : Fin 4) (box : BitVec 12) (x : BitVec 3) :
    (s.setBox die box x).host.requests = s.host.requests := rfl
theorem setBox_saddles (s : State) (die : Fin 4) (box : BitVec 12) (x : BitVec 3) : (s.setBox die box x).saddles = s.saddles := rfl

theorem setBox_state (s : State) (die : Fin 4) (box : BitVec 12) (x : BitVec 3) :
    ∀ y ∈ (s.setBox die box x).host.boxes, y.die = die → y.num = box → y.state = x := by
  intro y hy hdie hbox
  obtain ⟨z, -, rfl⟩ := List.mem_map.mp hy
  by_cases hz : (z.die == die && z.num == box) = true
  · simp only [hz, if_true]
  · simp only [hz, if_false, Bool.false_eq_true] at hdie hbox ⊢
    exact absurd (by simp [hdie, hbox]) hz

/-- A task that has been rolled back, with its box unseated. -/
def unseated (s : State) (g : Group) : State := ((s.rollback g).forgetOps g).setBox g.die g.box 6

theorem unseatGroup_eq {s : State} {g : Group} (hp : s.groupPerformed g.id = true) (hw : s.groupWorks g.id = false) :
    s.unseatGroup g = (((((unseated s g).dropGroup g.id).requeue g).count .unseats).trace 5 g.bindRec.age.toNat) := by
  unfold State.unseatGroup unseated
  rw [if_neg (by simp [hp, hw])]

section
variable {s : State} {g : Group} (hg : s.groupOf g.id = some g) (hst : g.status = .unseating)
include hg hst

theorem rollbackReplay_event : exec (.rollbackReplay g.id) s = .next (s.unseatGroup g) := by
  show execRollbackReplay g.id s = _
  unfold execRollbackReplay happens
  simp only [hg, hst]
  rfl

theorem rollbackReplay_waits (h : s.groupPerformed g.id = false ∨ s.groupWorks g.id = true) :
    exec (.rollbackReplay g.id) s = .next s := by
  rw [rollbackReplay_event hg hst]
  unfold State.unseatGroup
  rw [if_pos (by rcases h with h | h <;> simp [h])]

theorem rollbackReplay_unseats (h0 : g.id ≠ 0) (hp : s.groupPerformed g.id = true) (hw : s.groupWorks g.id = false) :
    Answers (.rollbackReplay g.id) s (fun u =>
      (∀ y ∈ u.host.boxes, y.die = g.die → y.num = g.box → y.state = 6) ∧ (∀ y ∈ u.allGroups, y.id ≠ g.id) ∧
      (∀ y ∈ u.saddles, y.holder ≠ g.id) ∧
      u.host.requests = s.host.requests ++ [(g.launch, { g.bindRec with deadline := BitVec.allOnes 64 })]) := by
  refine ⟨_, rollbackReplay_event hg hst, ?_⟩
  rw [unseatGroup_eq hp hw]
  have hdrop := dropGroup_vacated (unseated s g) g.id
  have hcount := count_vacated (((unseated s g).dropGroup g.id).requeue g) .unseats
  have htrace := trace_vacated ((((unseated s g).dropGroup g.id).requeue g).count .unseats) 5 g.bindRec.age.toNat
  have hforget := forgetOps_vacated (s.rollback g) g
  refine ⟨?_, ?_, ?_, ?_⟩
  · rw [htrace.boxes, hcount.boxes, requeue_boxes, hdrop.boxes]
    exact setBox_state _ _ _ _
  · rw [trace_allGroups, count_allGroups, requeue_allGroups]
    exact dropGroup_gone h0
  · rw [htrace.saddles, hcount.saddles, requeue_saddles, hdrop.saddles, unseated, setBox_saddles, hforget.saddles]
    exact rollback_holders hg (by rw [hst]; decide)
  · rw [htrace.requests, hcount.requests, requeue_requests, hdrop.requests, unseated, setBox_requests, hforget.requests,
      rollback_requests]

end

/-- Settles O49, event by event. -/
theorem regionsWalksAndSaddles : Obligations.RegionsWalksAndSaddles := by
  intro s r p g line sharer x w hx
  subst hx
  refine ⟨regionClose_answers, sharerInvalidation_answers, sharerInvalidation_stays, invalidationConfirmation_stays,
    invalidationConfirmation_answers, translationWalk_queues, fun hw h => ⟨fun e bits he => translationWalk_fills hw h he,
      translationWalk_faults hw h, translationWalk_parks hw h⟩, fun anchor sectors hp hw hg => ⟨saddleTouch_stays hp hw hg,
      fun hwait hold hfree => ⟨saddleTouch_goesOn hp hw hg hwait hold hfree, saddleTouch_takes hp hw hg hwait hold hfree⟩⟩,
    fun hg h0 hst => ⟨rollbackReplay_waits hg hst, rollbackReplay_unseats hg hst h0⟩⟩

end Sys2Proof.Laws

end

section
/-! # Cores that change (O44, O58) -/

namespace Sys2Proof.Laws

open Sys2Proof Sys2Proof.Machine

/-! ## Cores -/

theorem coreOf_id (s : State) (k : CoreId) : (s.coreOf k).id = k := by
  unfold State.coreOf
  split
  · assumption
  · split
    · next c hc => simpa using List.find?_some hc
    · rfl

/-- A core that is changed is found changed. -/
theorem coreOf_updCore (s : State) {k : CoreId} {f : Core → Core} (hf : ∀ c, (f c).id = c.id) :
    (s.updCore k f).coreOf k = f (s.coreOf k) := by
  unfold State.updCore
  split
  · next h =>
    have hfront : s.coreOf k = s.core := if_pos h
    rw [hfront]
    exact if_pos ((hf s.core).trans h)
  · next h =>
    have hid : (f (s.coreOf k)).id = k := (hf _).trans (coreOf_id s k)
    refine (if_neg h).trans ?_
    simp [hid]

/-- Two changes of a core that do the same to it are the same change. -/
theorem updCore_congr {s : State} {k : CoreId} {f g : Core → Core} (h : f (s.coreOf k) = g (s.coreOf k)) :
    s.updCore k f = s.updCore k g := by
  unfold State.updCore
  split
  · next hk =>
    have hfront : s.coreOf k = s.core := if_pos hk
    rw [hfront] at h
    rw [h]
  · rw [h]

end Sys2Proof.Laws

end

section
/-! # Hayloft and Starter (O58) -/

namespace Sys2Proof.Laws

open Sys2Proof Sys2Proof.Machine

/-! ## Allocation (R199, R200) -/

section
variable {s : State} {o : SlowOp}

theorem hayloftRequest_unknown (h : s.slowOps.find? (fun y => y.id == o.id) = none) : exec (.hayloftRequest o.id) s = .next s := by
  show execHayloftRequest o.id s = _
  simp only [execHayloftRequest, h]
  rfl

variable (ho : s.slowOps.find? (fun y => y.id == o.id) = some o)
include ho

theorem hayloftRequest_stays (h : s.transiting (.command o.id) = true ∨ ∀ d bytes, o.kind ≠ .halloc d bytes) :
    exec (.hayloftRequest o.id) s = .next s := by
  show execHayloftRequest o.id s = _
  simp only [execHayloftRequest, ho]
  split
  · rfl
  · next hway =>
    split
    · next d bytes hk => exact absurd hk (h.resolve_left hway d bytes)
    · rfl

variable {p : Span} {g : Group} {d : RegNo} {bytes : DWord} (hk : o.kind = .halloc d bytes) (hway : s.transiting (.command o.id) = false)
  (hp : s.spanOf o.span = some p) (hg : s.groupOf p.group = some g)
include hk hway hp hg

/-- A request that has arrived is answered with what the Hayloft gives. -/
theorem hayloftRequest_answered : exec (.hayloftRequest o.id) s =
    .next (let x := (s.hayTake g.launch (vecAt o.segs 7 Seg.invalid).limit (dieOf o.span.core) bytes.toNat).getD (0, 0, s)
      { x.2.2 with slowOps := mapIf x.2.2.slowOps (fun y => y.id == o.id) fun y =>
        { y with kind := .pair d (BitVec.ofNat 64 x.1) (BitVec.ofNat 64 x.2.1), ready := true } }) := by
  show execHayloftRequest o.id s = _
  simp only [execHayloftRequest, ho, hway, hk, hp, hg, Bool.false_eq_true, if_false]
  cases s.hayTake g.launch (vecAt o.segs 7 Seg.invalid).limit (dieOf o.span.core) bytes.toNat <;> rfl

end

/-- A block is of the request's size rounded to 64 bytes, at most a quarter of the arena (R200). -/
theorem hayTake_some {s t : State} {launch : DWord} {limit die bytes off len : Nat}
    (h : s.hayTake launch limit die bytes = some (off, len, t)) :
    len = 64 * ((bytes + 63) / 64) ∧ 4 * len ≤ limit ∧ t = { s with hay := { launch := launch, off := off, len := len } :: s.hay } := by
  unfold State.hayTake ceilDiv at h
  dsimp only at h
  split at h
  · cases h
  · next hn =>
    obtain ⟨o, -, he⟩ := Option.map_eq_some_iff.mp h
    obtain ⟨rfl, rfl, rfl⟩ : o = off ∧ _ = len ∧ _ = t := by simpa using he
    simp only [Bool.or_eq_true, decide_eq_true_eq, not_or, not_lt] at hn
    refine ⟨rfl, ?_, rfl⟩
    omega

/-! ## Frees (R201) -/

/-- The records of sectors outside a freed block stay. -/
theorem mem_forgetBlock {s : State} {h : HayFree} {n : Nat} {y : AccessRecord} (hy : y ∈ s.records) (hf : y.free = false)
    (hout : s.inBlock h.span.core h.asid h.va n y.sector = false) : y ∈ (s.forgetBlock h n).records := by
  have hkept : ((s.records.filter fun a => s.inBlock h.span.core h.asid h.va n a.sector).map fun a => a.sector).contains y.sector =
      false := by
    rw [Bool.eq_false_iff, ne_eq, List.contains_iff_mem, List.mem_map]
    rintro ⟨a, ha, hsec⟩
    have hin := (List.mem_filter.mp ha).2
    rw [hsec, hout] at hin
    cases hin
  refine List.mem_filter.mpr ⟨List.mem_map.mpr ⟨y, hy, ?_⟩, by simp [hf]⟩
  exact if_neg (ne_true_of_eq_false hkept)

/-- A free and a block name the same place of an arena. -/
theorem namesBlock_iff {h : HayFree} {b : HayBlock} : (b.launch == h.launch && b.off == h.off) = true ↔
    b.launch = h.launch ∧ b.off = h.off := by simp

section
variable {s : State} {h : HayFree}

theorem hayloftFree_unknown (hh : s.hayFrees.find? (fun y => y.id == h.id) = none) : exec (.hayloftFree h.id) s = .next s := by
  show execHayloftFree h.id s = _
  simp only [execHayloftFree, hh]
  rfl

variable (hh : s.hayFrees.find? (fun y => y.id == h.id) = some h)
include hh

theorem hayloftFree_waits (hw : ∃ y ∈ h.after, y ∈ s.accessesOf h.span) : exec (.hayloftFree h.id) s = .next s := by
  show execHayloftFree h.id s = _
  simp only [execHayloftFree, hh]
  exact if_pos (by simpa using hw)

variable (hw : ∀ y ∈ h.after, y ∉ s.accessesOf h.span)
include hw

theorem hayloftFree_returns {b : HayBlock} (hb : s.hay.find? (fun b => b.launch == h.launch && b.off == h.off) = some b) :
    exec (.hayloftFree h.id) s = .next (({ s with
      hayFrees := s.hayFrees.filter fun y => y.id != h.id,
      hay := s.hay.filter fun b => !(b.launch == h.launch && b.off == h.off) } : State).forgetBlock h b.len) := by
  show execHayloftFree h.id s = _
  simp only [execHayloftFree, hh, hb]
  exact if_neg (by simpa using hw)

theorem hayloftFree_logs (hb : ∀ b ∈ s.hay, b.launch = h.launch → b.off ≠ h.off) :
    exec (.hayloftFree h.id) s = .next { s with
      hayFrees := s.hayFrees.filter fun y => y.id != h.id,
      host := { s.host with errors := .hfree h.off :: s.host.errors } } := by
  have hnone : s.hay.find? (fun b => b.launch == h.launch && b.off == h.off) = none :=
    List.find?_eq_none.mpr fun b hmem hname => (namesBlock_iff.mp hname).elim (hb b hmem)
  show execHayloftFree h.id s = _
  simp only [execHayloftFree, hh, hnone]
  exact if_neg (by simpa using hw)

/-- A free returns its block alone, and forgets records of no other sectors. -/
theorem hayloftFree_answers {b : HayBlock} (hb : s.hay.find? (fun b => b.launch == h.launch && b.off == h.off) = some b) :
    Answers (.hayloftFree h.id) s (fun u =>
      u = { s with
        sp := u.sp, rest := u.rest, records := u.records,
        hayFrees := s.hayFrees.filter fun y => y.id != h.id, hay := u.hay } ∧
      (∀ y, y ∈ u.hay ↔ y ∈ s.hay ∧ ¬(y.launch = h.launch ∧ y.off = h.off)) ∧
      ∀ y ∈ s.records, y.free = false → s.inBlock h.span.core h.asid h.va b.len y.sector = false → y ∈ u.records) := by
  refine ⟨_, hayloftFree_returns hh hw hb, rfl, fun y => ?_, fun y hy hf hout => ?_⟩
  · refine List.mem_filter.trans (and_congr_right fun _ => ?_)
    rw [Bool.not_eq_true', ← Bool.not_eq_true, namesBlock_iff]
  · exact mem_forgetBlock hy hf hout

end

/-! ## Dispatch (R317) -/

/-- The operation by which an engine runs an entry's task. -/
def taskOp (s : State) (e : StarterEntry) : EngineOp :=
  { id := s.nextId + 1, span := e.owner, kind := .task e.order, accepted := true, modq := e.modq, xwin := e.xexp, segs := e.segs,
    clause := none, pc := e.pc, region := e.region, progress := 0, slices := [], faulted := false, gathered := (false, 0),
    parked := none, failed := none, since := s.now, lost := false }

/-- An entry that changes is among the entries as changed. -/
theorem mem_updEntry {s : State} {e : StarterEntry} (f : StarterEntry → StarterEntry) (he : e ∈ s.starter) :
    f e ∈ (s.updEntry e f).starter :=
  List.mem_map.mpr ⟨e, he, if_pos (by simp)⟩

section
variable {s : State} {cl : Fin 16} {e : StarterEntry} {rest : List StarterEntry}

theorem starterDispatch_idle (h : (s.starter.filter fun y => y.cluster == cl && y.inGate) = []) :
    exec (.starterDispatch cl) s = .next s := by
  show execStarterDispatch cl s = _
  simp only [execStarterDispatch, h]
  rfl

variable (h : sortBy gateBefore (s.starter.filter fun y => y.cluster == cl && y.inGate) = e :: rest)
include h

theorem starterDispatch_waits (hk : s.freeEngine cl e = none) : exec (.starterDispatch cl) s = .next s := by
  show execStarterDispatch cl s = _
  simp only [execStarterDispatch, h, List.head?_cons, Option.bind_some, hk, Option.map_none]
  rfl

/-- The first entry of the gate goes to its engine, in front of what the engine has. -/
theorem starterDispatch_runs {k : CoreId} (hk : s.freeEngine cl e = some k) : exec (.starterDispatch cl) s =
    .next ((({ s with nextId := s.nextId + 1 } : State).updEntry e fun x => { x with inGate := false, running := true }).updCore k
      fun x => { x with ops := taskOp s e :: x.ops }) := by
  show execStarterDispatch cl s = _
  simp only [execStarterDispatch, h, List.head?_cons, Option.bind_some, hk, Option.map_some]
  rfl

theorem starterDispatch_answers {k : CoreId} (hk : s.freeEngine cl e = some k) : Answers (.starterDispatch cl) s (fun u =>
    u = { s with nextId := s.nextId + 1, starter := u.starter, core := u.core, cores := u.cores } ∧
    { e with inGate := false, running := true } ∈ u.starter ∧
    ∃ y ops, (u.coreOf k).ops = y :: ops ∧ y.id = s.nextId + 1 ∧ y.kind = .task e.order ∧ y.span = e.owner ∧
      y.accepted = true ∧ y.modq = e.modq ∧ y.xwin = e.xexp ∧ y.segs = e.segs ∧ y.region = e.region ∧ y.progress = 0) := by
  have hmem : e ∈ s.starter := List.mem_of_mem_filter (mem_sortBy.mp (h ▸ List.mem_cons_self))
  refine ⟨_, starterDispatch_runs h hk, ?_, ?_, taskOp s e, (s.coreOf k).ops, ?_, rfl, rfl, rfl, rfl, rfl, rfl, rfl, rfl, rfl⟩
  · rw [updCore_frame]
    rfl
  · rw [updCore_frame]
    exact mem_updEntry _ hmem
  · exact congrArg Core.ops (coreOf_updCore (f := fun x => { x with ops := taskOp s e :: x.ops }) _ fun _ => rfl)

end

/-! ## The end of a task and early decrements (R315, R316, R318) -/

section
variable {s t v : State} {k : CoreId} {e : StarterEntry} {w : BitVec 512}

theorem taskComplete_idle (h : s.endingEntry (clusterOf k) = none) : exec (.taskComplete k) s = .next s := by
  show execTaskComplete k s = _
  simp only [execTaskComplete, h]
  rfl

variable (he : s.endingEntry (clusterOf k) = some e)
include he

theorem taskComplete_recordless (hw : e.words = none) : exec (.taskComplete k) s = .next s := by
  show execTaskComplete k s = _
  simp only [execTaskComplete, he, hw]
  rfl

variable (hw : e.words = some w) (ht : t = if e.released then s else s.releaseTask e (taskRecordOf w))
include hw ht

theorem taskComplete_arrives (h : t.taskArrive e (taskRecordOf w) = .ok () v) :
    exec (.taskComplete k) s = .next (v.endEntry e) := by
  subst ht
  show execTaskComplete k s = _
  simp only [execTaskComplete, he, hw, h]
  rfl

/-- A fault of the arrival is held for the owner (R318). -/
theorem taskComplete_faults {f : TrapInfo} (h : t.taskArrive e (taskRecordOf w) = .fault f v) :
    exec (.taskComplete k) s = .next ((v.holdTask e f.code.toNat 0).endEntry e) := by
  subst ht
  show execTaskComplete k s = _
  simp only [execTaskComplete, he, hw, h]
  rfl

end

section
variable {s v : State} {cl : Fin 16} {x : Fin 16 × Nat}

theorem earlyDecrement_idle (h : s.earlyDecs.find? (fun y => y.1 == cl) = none) : exec (.earlyDecrement cl) s = .next s := by
  show execEarlyDecrement cl s = _
  simp only [execEarlyDecrement, h]
  rfl

variable (hx : s.earlyDecs.find? (fun y => y.1 == cl) = some x) (hv : v = { s with earlyDecs := s.earlyDecs.erase x })
include hx hv

theorem earlyDecrement_reaches {y : StarterEntry} (hy : s.entryAt cl x.2 = some y) :
    exec (.earlyDecrement cl) s = .next (v.decrementEntry y 1) := by
  have hnow : v.decrementNow cl x.2 1 = some (v.decrementEntry y 1) := by
    unfold State.decrementNow
    rw [show v.entryAt cl x.2 = some y by rw [hv]; exact hy]
  subst hv
  show execEarlyDecrement cl s = _
  simp only [execEarlyDecrement, hx, hnow]
  rfl

theorem earlyDecrement_absent (hn : s.entryAt cl x.2 = none) : exec (.earlyDecrement cl) s =
    .next (if s.entriesIn cl < starterCapacity then { v with starter := s.starter ++ [earlyEntry cl x.2 1] } else s) := by
  have hnow : v.decrementNow cl x.2 1 =
      if s.entriesIn cl < starterCapacity then some { v with starter := s.starter ++ [earlyEntry cl x.2 1] } else none := by
    unfold State.decrementNow
    rw [show v.entryAt cl x.2 = none by rw [hv]; exact hn]
    rw [hv]
    rfl
  subst hv
  show execEarlyDecrement cl s = _
  simp only [execEarlyDecrement, hx, hnow]
  by_cases hroom : s.entriesIn cl < starterCapacity
  · simp only [hroom, if_true]
    rfl
  · simp only [hroom, if_false]
    rfl

end

/-- Settles O58, event by event. -/
theorem hayloftAndStarterEvents : Obligations.HayloftAndStarterEvents := by
  intro s t v o h cl k e rest w x p g
  refine ⟨hayloftRequest_unknown, hayloftRequest_stays, fun d bytes ho hk hway hp hg => ⟨fun off len ht => ?_, fun ht => ?_⟩,
    hayloftFree_unknown, fun hh => ⟨hayloftFree_waits hh, fun hw => ⟨fun b => hayloftFree_answers hh hw, fun hb =>
      ⟨_, hayloftFree_logs hh hw hb, rfl⟩⟩⟩,
    starterDispatch_idle, fun hs => ⟨starterDispatch_waits hs, starterDispatch_answers hs⟩,
    taskComplete_idle, fun he => ⟨taskComplete_recordless he, fun hw ht => ⟨taskComplete_arrives he hw ht, fun f =>
      taskComplete_faults he hw ht⟩⟩,
    earlyDecrement_idle, fun hx hv => ⟨fun y => earlyDecrement_reaches hx hv, fun hn hroom => ?_, fun hn hfull => ?_⟩⟩
  · obtain ⟨hlen, hquarter, ht'⟩ := hayTake_some ht
    refine ⟨_, hayloftRequest_answered ho hk hway hp hg, ?_⟩
    rw [ht, ht']
    exact ⟨rfl, hlen, hquarter, by simp [mapIf]⟩
  · refine ⟨_, hayloftRequest_answered ho hk hway hp hg, ?_⟩
    rw [ht]
    simp [mapIf]
  · rw [earlyDecrement_absent hx hv hn, if_pos hroom]
  · rw [earlyDecrement_absent hx hv hn, if_neg (Nat.not_lt.mpr hfull)]

end Sys2Proof.Laws

end

section
/-! # Engine commands, sleeps, promises and the Hayloft's requests (O43) -/

namespace Sys2Proof.Laws

open Sys2Proof Sys2Proof.Machine

/-! ## Trace records and commands that are given to an engine (R177, R438) -/

/-- From s to t a span has noted a region and records have been written: what changes beside its regions is other spans,
memory, the monitors, the host's side and the counters of free values and numbers. -/
def Noted (s t : State) : Prop := t = { s with
  sp := { s.sp with regions := t.sp.regions, regSeq := t.sp.regSeq }, rest := t.rest, mem := t.mem, fresh := t.fresh,
  memsys := t.memsys, monitors := t.monitors, host := t.host, nextId := t.nextId }

theorem Noted.refl (s : State) : Noted s s := rfl

theorem Noted.trans {s t u : State} (h : Noted s t) (k : Noted t u) : Noted s u := by
  unfold Noted at *
  rw [k, h]

theorem Noted.ite {c : Prop} [Decidable c] {s t u : State} (h : Noted s t) (k : Noted s u) : Noted s (if c then t else u) := by
  split <;> assumption

theorem Written.noted {s t : State} (h : Written s t) : Noted s t := by
  unfold Noted
  rw [h]

theorem writeCoded_noted (s : State) (a : DWord) (off : Nat) (bs : List Byte) : Noted s (s.writeCoded a off bs) :=
  .ite rfl (homeWrite_written s _ bs 0 Policy.plain).noted

theorem trace_noted (s : State) (kind data : Nat) : Noted s (s.trace kind data) := by
  unfold State.trace
  dsimp only
  split
  · exact .refl s
  · exact .ite rfl ((writeCoded_noted s _ _ _).trans rfl)

theorem newEngineRegion_noted (s : State) (path : BitVec 3) : Noted s (s.newEngineRegion path).2 := by
  have hnote : ∀ (p : Span) (r : RegionId), p.note r = { p with regions := (p.note r).regions } := by
    intro p r
    unfold Span.note
    split <;> rfl
  unfold State.newEngineRegion
  dsimp only
  rw [hnote (s.sp.note s.region), hnote s.sp]
  rfl

theorem endEngineRegion_noted (s : State) (id : SpanId) (r : RegionId) : Noted s (s.endEngineRegion id r) := by
  unfold State.endEngineRegion State.updSpan
  split <;> rfl

/-- A promise may take a free value, and changes nothing else (R180). -/
theorem promise_draws (s : State) (w : Vector DWord 4) : ∃ p k n, s.promise w = (p, k, { s with fresh := n }) := by
  unfold State.promise
  dsimp only
  split
  · exact ⟨_, _, s.fresh, rfl⟩
  · exact ⟨_, _, s.fresh, rfl⟩
  · exact ⟨_, _, s.fresh, rfl⟩
  · split
    · exact ⟨_, _, _, rfl⟩
    · exact ⟨_, _, s.fresh, rfl⟩

/-- A long operation of the span begins (R42). -/
theorem slow_starts (s : State) (kind : SlowKind) (xpipe : Bool) (region : RegionId) (ready : Bool) (refs : List Ref) :
    s.Starts (s.slow kind xpipe region ready refs) kind xpipe region ready refs :=
  ⟨_, rfl, rfl, rfl, rfl, rfl, rfl, rfl, rfl, rfl, rfl, rfl⟩

/-- The command that an `eqgo` gives to its engine (R177, R179). -/
def newCommand (s : State) (w : Vector DWord 4) (total p trotter order : Nat) (r : RegionId) (empty : Bool) : Command :=
  { token := s.sp.lastTok + 1, order := order, words := w, segs := s.seenSegs, promise := BitVec.ofNat 64 p,
    unread := [(0, total)], flight := [], done := 0, total := total, undecremented := 0, trotter := BitVec.ofNat 3 trotter,
    parked := none, failed := none, since := s.now, lost := false, stopped := none, complete := empty, joined := false,
    pc := s.here, region := r }

/-- A checked command is given its token and its promise and starts; one with nothing to do is complete (R177, R180). -/
theorem sendCommand_begins (s : State) (d : RegNo) (w : Vector DWord 4) :
    ∃ (v : State) (k : Command), Noted s v ∧ k.token = s.sp.lastTok + 1 ∧ k.words = w ∧ k.segs = s.seenSegs ∧ k.done = 0 ∧
      k.total = s.commandTotal w ∧ k.pc = s.here ∧ s.sendCommand d w =
        ({ v with sp := { v.sp with
          cmds := if s.emptyCommand w then v.sp.cmds else v.sp.cmds ++ [k], lastTok := k.token } } : State).slow
            (.pair d k.promise (k.token.setWidth 64)) false v.region true (Machine.sp d) := by
  obtain ⟨p, trotter, n, hp⟩ := promise_draws s w
  have hdraw : Noted s { s with fresh := n } := rfl
  have hregion := hdraw.trans (newEngineRegion_noted _ (BitVec.ofNat 3 (cmdClass w)))
  unfold State.sendCommand
  rw [hp]
  dsimp only
  generalize ({ s with fresh := n } : State).newEngineRegion (BitVec.ofNat 3 (cmdClass w)) = x at hregion ⊢
  obtain ⟨r, s1⟩ := x
  have hid : Noted s s1.newId.2 := hregion.trans rfl
  dsimp only
  generalize s1.newId = y at hid ⊢
  obtain ⟨order, s2⟩ := y
  have hend : Noted s (if s.emptyCommand w = true then s2.endEngineRegion s2.sp.id r else s2) :=
    hid.trans (.ite (endEngineRegion_noted _ _ _) (.refl _))
  dsimp only at hid ⊢
  refine ⟨_, newCommand s2 w (s.commandTotal w) p trotter order r (s.emptyCommand w),
    hend.trans (.ite (trace_noted _ 2 ((State.spanIdWord _ _ _).toNat + (s2.sp.lastTok + 1).toNat * 2 ^ 64 + p * 2 ^ 128)) (.refl _)),
    ?_, rfl, ?_, rfl, rfl, ?_, rfl⟩
  all_goals
    rw [hid]
    rfl

theorem eqgo_sends {s : State} {c : Bool} {d : RegNo} (hs : s.grp.saddled = false) (hw : s.commandWaits s.sp.window = false)
    (hk : s.checkCommand s.sp.window = none) :
    s.Does (.eqgo c d) (fun u => ∃ k : Command, ∃ o : SlowOp, k.token = s.sp.lastTok + 1 ∧ k.words = s.sp.window ∧
        k.segs = s.seenSegs ∧ k.done = 0 ∧ k.total = s.commandTotal s.sp.window ∧ k.pc = s.here ∧
        u.sp.cmds = (if s.emptyCommand s.sp.window then s.sp.cmds else s.sp.cmds ++ [k]) ∧ u.sp.lastTok = k.token ∧
        u.slowOps = s.slowOps ++ [o] ∧ o.span = s.sp.id ∧ o.kind = .pair d k.promise (k.token.setWidth 64) ∧
        o.ready = true ∧ u.sp.pend = s.sp.pend.put s.issue.gang [.s d.toNat, .s (d.toNat + 1)] true ∧
        u.sp.regs = s.sp.regs ∧ u.sp.window = s.sp.window ∧ u.memOps = s.memOps ∧ u.core = s.core ∧ u.grp = s.grp) := by
  refine does_of _ rfl ?_
  simp only [State.unlessSaddled, hs, hw, hk, Bool.false_eq_true, if_false]
  obtain ⟨v, k, hv, htok, hwords, hsegs, hdone, htotal, hpc, hsend⟩ := sendCommand_begins s d s.sp.window
  rw [hsend]
  refine ⟨k, _, htok, hwords, hsegs, hdone, htotal, hpc, ?_, rfl, congrArg (· ++ [_]) ?_, ?_, rfl, rfl, ?_, ?_, ?_, ?_, ?_, ?_⟩
  all_goals rw [hv]
  all_goals rfl

/-! ## Sleeps (R184, R186) -/

theorem waitIn_waits (s : State) (w : Wait) : s.WaitsIn (s.waitIn w) w := ⟨rfl, fun _ hj => slice_vecMap _ hj⟩

theorem unlessSaddled_free {s : State} (go : State → State) (h : s.grp.saddled = false) : s.unlessSaddled go = go s := by
  simp [State.unlessSaddled, h]

section
variable {s : State} {t : DWord} (go : State → State)

theorem sleepUntil_woken (h : s.gangWait = some .woken) : s.sleepUntil t go = go s := if_pos h

variable (h : s.gangWait ≠ some .woken) (hd : s.drained 4 = true)
include h hd

/-- A sleep whose time has come goes on in the next region (Table 12.1). -/
theorem sleepUntil_over (ht : t.toNat ≤ s.now.toNat) : s.sleepUntil t go = go s.endRegion := by
  rw [State.sleepUntil, if_neg h, afterDrain_drained _ hd]
  exact if_pos ht

theorem sleepUntil_waits (ht : s.now.toNat < t.toNat) : s.sleepUntil t go = s.endRegion.waitIn (.sleep t) := by
  rw [State.sleepUntil, if_neg h, afterDrain_drained _ hd]
  exact if_neg (Nat.not_le.mpr ht)

end

/-- What `sleepp` does at its time: the command that its token names is to be complete, and no fault of it held (R184). -/
def sleptFor (b : RegNo) (s : State) : State :=
  let tok := BitVec.ofNat 16 (s.rs b).toNat
  match s.faultFor tok with
  | some h => s.deliver h
  | none =>
    match s.unfinished tok with
    | none => s
    | some k => s.raise (s.trapAt 10 (s.revised k))

section
variable {s : State} {b : RegNo} {tok : BitVec 16} (ht : tok = BitVec.ofNat 16 (s.rs b).toNat) (hf : s.faultFor tok = none)
include ht hf

theorem sleptFor_finished (hu : s.unfinished tok = none) : sleptFor b s = s := by
  subst ht
  simp only [sleptFor, hf, hu]

theorem sleptFor_late {k : Command} (hu : s.unfinished tok = some k) : sleptFor b s = s.raise (s.trapAt 10 (s.revised k)) := by
  subst ht
  simp only [sleptFor, hf, hu]

/-- The answer of `promise.chk`: 0, or the revised promise (R182, R185). -/
theorem promiseChk_answers {c : Bool} {d : RegNo} {x : DWord} (hx : (s.unfinished tok).elim 0 s.revised = x) :
    s.Does (.promiseChk c d b) (fun u => s.Starts u (.status d x) false s.region true [.s d.toNat]) := by
  subst ht hx
  refine does_of _ rfl ?_
  simp only [hf]
  cases s.unfinished (BitVec.ofNat 16 (s.rs b).toNat) <;> exact slow_starts s _ _ _ _ _

end

/-- Settles O43: commands start by `sendCommand_begins`, sleeps are `State.sleepUntil`, and the other instructions begin a
long operation or write what they name. -/
theorem engineCommandsAndSleep : Obligations.EngineCommandsAndSleep := by
  intro s c n d a b tok ht
  refine ⟨does_of _ rfl rfl, eqgo_sends, fun k addr hs hw hk => does_of _ rfl ?_, fun hwoke => ⟨does_of _ rfl ?_, fun hf hu =>
      does_of _ rfl ?_, fun k hf hu => does_of _ rfl ?_⟩, fun hwoke hd => ⟨fun htime => ⟨does_of _ rfl ?_, fun hf hu =>
      does_of _ rfl ?_⟩, fun htime => ⟨does_of _ rfl ?_, does_of _ rfl ?_⟩⟩, fun hf hu => promiseChk_answers ht hf (by rw [hu]; rfl),
    fun k hf hu => promiseChk_answers ht hf (by rw [hu]; rfl), sets_of _ rfl rfl rfl, fun hs => ⟨does_of _ rfl ?_, does_of _ rfl ?_⟩⟩
  · simp only [unlessSaddled_free _ hs, hw, hk, Bool.false_eq_true, if_false]
  · exact sleepUntil_woken _ hwoke
  · exact (sleepUntil_woken (sleptFor b) hwoke).trans (sleptFor_finished ht hf hu)
  · exact (sleepUntil_woken (sleptFor b) hwoke).trans (sleptFor_late ht hf hu)
  · exact sleepUntil_over _ hwoke hd htime
  · exact (sleepUntil_over (sleptFor b) hwoke hd htime).trans (sleptFor_finished (s := s.endRegion) ht hf hu)
  · rw [sleepUntil_waits _ hwoke hd htime]
    exact waitIn_waits _ _
  · rw [sleepUntil_waits _ hwoke hd htime]
    exact waitIn_waits _ _
  · simp only [unlessSaddled_free _ hs]
    exact slow_starts s _ _ _ _ _
  · simp only [unlessSaddled_free _ hs]
    exact ⟨_, rfl, rfl, rfl, rfl, rfl⟩

end Sys2Proof.Laws

end

section
/-! # Commands and the accesses of engines (O56, O57) -/

namespace Sys2Proof.Laws

open Sys2Proof Sys2Proof.Machine

/-! ## Changes of one command -/

theorem mapIf_mapIf {α : Type} (l : List α) {p : α → Bool} {f : α → α} (g : α → α) (h : ∀ x, p (f x) = p x) :
    mapIf (mapIf l p f) p g = mapIf l p fun x => g (f x) := by
  unfold mapIf
  rw [List.map_map]
  refine List.map_congr_left fun x _ => ?_
  show (if p (if p x then f x else x) then g (if p x then f x else x) else if p x then f x else x) = _
  cases hx : p x <;> simp [hx, h]

/-- Two changes of one span are one change. -/
theorem updSpan_updSpan (s : State) (id : SpanId) {f : Span → Span} (g : Span → Span)
    (hl : ∀ p, (f p).live = p.live := by intro; rfl) (hid : ∀ p, (f p).id = p.id := by intro; rfl) :
    (s.updSpan id f).updSpan id g = s.updSpan id fun p => g (f p) := by
  unfold State.updSpan
  rw [mapIf_mapIf s.rest g fun p => by rw [hid]]
  by_cases h : (s.sp.live && s.sp.id = id) = true <;> simp [h, hl, hid]

/-- Two changes of one command are one change. -/
theorem updCmd_updCmd (s : State) (sp : SpanId) (tok : BitVec 16) {f : Command → Command} (g : Command → Command)
    (ht : ∀ c, (f c).token = c.token := by intro; rfl) :
    (s.updCmd sp tok f).updCmd sp tok g = s.updCmd sp tok fun c => g (f c) := by
  unfold State.updCmd
  rw [updSpan_updSpan]
  congr 1
  funext p
  congr 1
  exact mapIf_mapIf p.cmds g fun c => by rw [ht]

theorem cmdOf_eq_some {s : State} {sp : SpanId} {tok : BitVec 16} {p : Span} {c : Command} (h : s.cmdOf sp tok = some (p, c)) :
    s.spanOf sp = some p ∧ p.cmds.find? (fun x => x.token == tok) = some c := by
  unfold State.cmdOf at h
  split at h
  · cases h
  · next q hq =>
    obtain ⟨x, hx, he⟩ := Option.map_eq_some_iff.mp h
    obtain ⟨rfl, rfl⟩ := Prod.mk.inj he
    exact ⟨hq, hx⟩

theorem token_of_cmdOf {s : State} {sp : SpanId} {tok : BitVec 16} {p : Span} {c : Command} (h : s.cmdOf sp tok = some (p, c)) :
    c.token = tok := by simpa using List.find?_some (cmdOf_eq_some h).2

/-! ## Attempts of an engine (R187) -/

section
variable {s : State} {sp : SpanId} {tok : BitVec 16} {cls op : Nat} {run : Span → Command → Actor → EngAns Unit}

theorem commandEvent_unknown (h : s.cmdOf sp tok = none) : s.commandEvent sp tok cls op run = happens s := by
  unfold State.commandEvent
  rw [h]

variable {p : Span} {c : Command} (h : s.cmdOf sp tok = some (p, c))
include h

theorem commandEvent_stays (hr : s.cmdReady p c cls op = false ∨ c.total ≤ c.done) :
    s.commandEvent sp tok cls op run = happens s := by
  unfold State.commandEvent
  rw [h]
  refine if_neg ?_
  rw [Bool.and_eq_true, decide_eq_true_eq]
  rintro ⟨hready, hleft⟩
  exact hr.elim (fun hn => by simp [hn] at hready) fun hd => by omega

theorem commandEvent_goes (hr : s.cmdReady p c cls op = true) (hd : c.done < c.total) :
    s.commandEvent sp tok cls op run = happens (s.cmdAns p c (run p c (actorOf p c))) := by
  unfold State.commandEvent
  rw [h]
  exact if_pos (by simp [hr, hd])

end

/-! ## Packets (R192, R193) -/

/-- A choice is one of those offered. -/
theorem oneOf_lt (s : State) {n : Nat} (h : 0 < n) : (s.oneOf n).1 < n := by
  unfold State.oneOf
  split
  · exact h
  · exact Nat.mod_lt _ h

/-- The next packet lies in one of the ranges, and has at most the given number of units. -/
theorem nextPacket_some (s : State) {l : List (Nat × Nat)} (hl : l ≠ []) (hpos : ∀ r ∈ l, r.1 < r.2) {size : Nat} (hsize : 0 < size)
    (fine : Bool) : ∃ r ∈ l, ∃ at_ n m, s.nextPacket l size fine = some (at_, n, { s with fresh := m }) ∧
      r.1 ≤ at_ ∧ at_ + n ≤ r.2 ∧ 0 < n ∧ n ≤ size := by
  obtain ⟨r0, rest, rfl⟩ := List.exists_cons_of_ne_nil hl
  obtain ⟨i, m, hi⟩ := oneOf_draws s (r0 :: rest).length
  have hr : listAt (r0 :: rest) i r0 ∈ r0 :: rest := listAt_mem i (List.mem_cons_self ..)
  have hlen := hpos _ hr
  refine ⟨_, hr, ?_⟩
  unfold State.nextPacket
  simp only [hi]
  generalize listAt (r0 :: rest) i r0 = r at hlen ⊢
  cases fine with
  | true =>
    have hj := oneOf_lt { s with fresh := m } (n := r.2 - r.1) (by omega)
    obtain ⟨j, m1, hj1⟩ := oneOf_draws { s with fresh := m } (r.2 - r.1)
    rw [hj1] at hj
    have hk := oneOf_lt { s with fresh := m1 } (n := min size (r.2 - r.1 - j)) (by omega)
    obtain ⟨k, m2, hk1⟩ := oneOf_draws { s with fresh := m1 } (min size (r.2 - r.1 - j))
    rw [hk1] at hk
    dsimp only at hj hk
    refine ⟨r.1 + j, k + 1, m2, ?_, by omega, by omega, by omega, by omega⟩
    simp only [if_true, hj1, hk1]
  | false =>
    have hceil : 0 < ceilDiv (r.2 - r.1) size := Nat.div_pos (by omega) hsize
    have hj := oneOf_lt { s with fresh := m } hceil
    obtain ⟨j, m1, hj1⟩ := oneOf_draws { s with fresh := m } (ceilDiv (r.2 - r.1) size)
    rw [hj1] at hj
    dsimp only at hj
    have hstart : size * j < r.2 - r.1 := by
      have hmul : (j + 1) * size ≤ r.2 - r.1 + size - 1 := (Nat.le_div_iff_mul_le hsize).mp (Nat.succ_le_of_lt hj)
      have hcomm : (j + 1) * size = size * j + size := by ring
      omega
    refine ⟨r.1 + size * j, min size (r.2 - r.1 - size * j), m1, ?_, by omega, by omega, by omega, by omega⟩
    simp only [Bool.false_eq_true, if_false, hj1]

/-- A step lands a read that is in flight, or reads a packet that is not read yet, or can do neither (R191 to R193, R202). -/
theorem flyStep_flies (s : State) (p : Span) (c : Command) {size : Nat}
    (read : Nat → Nat → State → EngAns (Nat × List Byte × Option DWord)) (hsize : 0 < size) (hpos : ∀ r ∈ c.unread, r.1 < r.2) :
    s.Flies (s.cmdAns p c (s.flyStep p c (actorOf p c) size read)) p c size read := by
  unfold State.flyStep
  dsimp only
  generalize hmay : (!c.unread.isEmpty && (!quarantined (cmdDest c.words 0).1 ||
    decide (s.flightBytes (actorOf p c).core + packetBytes ≤ flightLimit)) && !s.cmdStops p) = may
  obtain ⟨x, m, hx⟩ := oneOf_draws s ((if may = true then 1 else 0) + c.flight.length)
  have hlt := oneOf_lt s (n := (if may = true then 1 else 0) + c.flight.length)
  rw [hx] at hlt ⊢
  dsimp only at hlt ⊢
  have hland : ∀ i, (c.flight ≠ [] → i < c.flight.length) →
      s.Flies (s.cmdAns p c (match c.flight[i]? with
        | some f => ({ s with fresh := m } : State).landFlight p c (actorOf p c) f
        | none => .ok () s)) p c size read := by
    intro i hi
    by_cases hf : c.flight = []
    · rw [hf]
      exact ⟨s, rfl, .inr (.inr ⟨hf, rfl⟩)⟩
    · rw [List.getElem?_eq_getElem (hi hf)]
      exact ⟨_, rfl, .inl ⟨_, List.getElem_mem (hi hf), rfl⟩⟩
  cases may with
  | false =>
    refine hland x fun hf => ?_
    have hflight := List.length_pos_iff.mpr hf
    simpa using hlt (by simpa using hflight)
  | true =>
    have hunread : c.unread ≠ [] := by
      rintro he
      simp [he] at hmay
    simp only [if_true, Bool.not_true, Bool.false_eq_true, if_false] at hlt ⊢
    split
    · next hx0 =>
      have hx0 : x ≠ 0 := by simpa using hx0
      exact hland (x - 1) fun _ => by omega
    · obtain ⟨r, hr, at_, n, m1, hnext, hge, hle, hn, hmax⟩ :=
        nextPacket_some { s with fresh := m } hunread hpos hsize (fineCmd c.words)
      rw [hnext]
      exact ⟨{ s with fresh := m1 }, rfl, .inr (.inl ⟨r, hr, at_, n, hge, hle, hn, hmax, rfl⟩)⟩

/-- A read that has landed counts its units, and a poisoned one stops its command (R86, R192). -/
theorem landFlight_lands {v t : State} {p : Span} {c : Command} {f : Flight} (s : State)
    (h : v.engWrite (actorOf p c) (cmdDest c.words f.at_).1 (cmdDest c.words f.at_).2 f.data f.bad.isSome = .ok () t) :
    t.Lands (s.cmdAns p c (v.landFlight p c (actorOf p c) f)) p c f := by
  unfold State.landFlight State.performed
  dsimp only
  rw [h]
  simp only [EngAns.bind]
  rw [updCmd_updCmd]
  constructor
  · intro hgood
    rw [hgood]
    exact updCmd_updCmd ..
  · intro va hbad
    rw [hbad]
    rfl

end Sys2Proof.Laws

end

section
/-! # Engine accesses and the Packhorse (O56) -/

namespace Sys2Proof.Laws

open Sys2Proof Sys2Proof.Machine

/-! ## One access of an engine (R187, R190) -/

section
variable {s t : State} {a : Actor} {k off n : Nat} {q : Place}

/-- Finding the place of an access only looks translations up. -/
theorem engPlace_looked {u : Use} (h : s.engPlace a k off n u = .ok q t) : Looked s t := by
  unfold State.engPlace at h
  dsimp only at h
  split at h
  · cases h
  · split at h
    · split at h
      · cases h
      · cases h
        split
        · exact fillTrans_looked ..
        · exact .refl s
    · split at h <;> cases h
    · cases h

/-- What an engine reads is what memory holds at its place. -/
theorem engRead1_bytes (hf : FewErrors s) (hq : s.engPlace a k off n .read = .ok q t) {x : List Byte × Option DWord} {u : State}
    (h : s.engRead1 a k off n = .ok x u) : x.1 = s.readKey q.slot q.key n ∧ u.mem = s.mem := by
  have hplace := (engPlace_looked hq).toSameBytes
  unfold State.engRead1 at h
  rw [hq] at h
  dsimp only [EngAns.bind] at h
  split at h
  · cases h
  · split at h
    · cases h
    · cases h
    · next v hv =>
      have hseen := hplace.trans (tryRecord_recorded v hv).sameBytes
      obtain ⟨hbytes, hmem⟩ := homeRead_bytes (hseen.few hf).1 (coreDie a.core) q.key n q.slot (a.policy k q)
      cases h
      exact ⟨hbytes.trans (hseen.readKey hf q.slot q.key n), hmem.trans (hseen.few hf).2⟩

/-- An engine's write puts its bytes down at its place. -/
theorem engWrite1_mem (hf : FewErrors s) {bs : List Byte} (hq : s.engPlace a k off bs.length .write = .ok q t)
    (hk : s.otherKey (s.keyFor q.slot q.key) (blockOf q.key) = none) {u : State} (h : s.engWrite1 a k off bs false = .ok () u) :
    u.mem = Memory.put s.mem q.key bs := by
  have hplace := (engPlace_looked hq).toSameBytes
  unfold State.engWrite1 at h
  rw [hq] at h
  dsimp only [EngAns.bind] at h
  split at h
  · cases h
  · cases h
  · next v hv =>
    have hseen := hplace.trans (tryRecord_recorded v hv).sameBytes
    obtain ⟨hfew, hmem⟩ := hseen.few hf
    cases h
    rw [if_neg Bool.false_ne_true, homeWrite_mem hfew bs _ (by rw [hseen.otherKey, hseen.keyFor, hk]), hmem]

/-- An access past its segment's limit is refused. -/
theorem engRead1_past (h : (vecAt a.segs k Seg.invalid).limit < off + n) :
    s.engRead1 a k off n = .fault (a.trap 4 (BitVec.ofNat 64 ((vecAt a.segs k Seg.invalid).baseOf + off))) s := by
  unfold State.engRead1 State.engPlace
  simp only [h, if_true, EngAns.bind]

end

/-! ## The Packhorse's events (R191, R216) -/

section
variable (s : State) (sp : SpanId) (tok : BitVec 16)

theorem exec_packhorseCopy : exec (.packhorseCopy sp tok) s = s.commandEvent sp tok 1 0 fun p c a =>
    s.flyStep p c a 128 fun i n t => bytesRead n (t.engRead a (segOf c.words[1]) (offOf c.words[1] + i) n) := rfl

theorem exec_packhorseStridedCopy : exec (.packhorseStridedCopy sp tok) s = s.commandEvent sp tok 1 1 fun p c a =>
    s.flyStep p c a 128 fun i n t =>
      let y := stridedOf c.words[3]
      bytesRead (min n (y.1 - i % y.1))
        (t.engRead a (segOf c.words[1]) (offOf c.words[1] + i / y.1 * y.2.2.1 + i % y.1) (min n (y.1 - i % y.1))) := rfl

theorem exec_packhorseFill : exec (.packhorseFill sp tok) s = s.commandEvent sp tok 1 2 fun p c a =>
    match s.nextPacket c.unread packetBytes false with
    | none => .ok () s
    | some (at_, n, t) =>
      (t.engWrite a (segOf c.words[2]) (offOf c.words[2] + at_)
        ((List.range n).map fun i => BitVec.ofNat 8 (c.words[1].toNat / 256 ^ ((at_ + i) % 4))) false).bind fun _ u =>
          .ok () ((u.updCmd p.id c.token fun y => { y with unread := takeUnits y.unread at_ n }).performed p c n) := rfl

theorem exec_placeScales : exec (.placeScales sp tok) s = s.commandEvent sp tok 1 3 fun p c a =>
    s.flyStep p c a 128 fun i n t => t.readScales a c.words i n := rfl

end

/-- The packet of a fill is written at once, and counted. -/
theorem execPackhorseFill_writes {s : State} {sp : SpanId} {tok : BitVec 16} {p : Span} {c : Command}
    (h : s.cmdOf sp tok = some (p, c)) (hr : s.cmdReady p c 1 2 = true) (hd : c.done < c.total)
    (hpos : ∀ r ∈ c.unread, r.1 < r.2) (hne : c.unread ≠ []) :
    Answers (.packhorseFill sp tok) s fun u => ∃ v : State, v = { s with fresh := v.fresh } ∧
      ∃ r ∈ c.unread, ∃ at_ n, r.1 ≤ at_ ∧ at_ + n ≤ r.2 ∧ 0 < n ∧ n ≤ 128 ∧
        ∀ t, v.engWrite (actorOf p c) (segOf c.words[2]) (offOf c.words[2] + at_) ((List.range n).map fun i =>
            BitVec.ofNat 8 (c.words[1].toNat / 256 ^ ((at_ + i) % 4))) false = .ok () t →
          u = t.updCmd p.id c.token fun x => { x with
            unread := takeUnits x.unread at_ n, done := x.done + n,
            undecremented := if cmdMode x.words = 1 then n * unitBytes x.words else 0, failed := none } := by
  obtain ⟨r, hmem, at_, n, m, hnext, hge, hle, hn, hmax⟩ := nextPacket_some s hne hpos (size := packetBytes) (by decide) false
  refine ⟨_, (exec_packhorseFill ..).trans (commandEvent_goes h hr hd), { s with fresh := m }, rfl, r, hmem, at_, n,
    hge, hle, hn, hmax, fun t ht => ?_⟩
  rw [hnext]
  dsimp only
  rw [ht]
  dsimp only [EngAns.bind, State.cmdAns, State.performed]
  rw [updCmd_updCmd, updCmd_updCmd]

/-- The blocks of a record that passes its checks are read, and are poisoned with it. -/
theorem readScales_reads {s t x : State} {a : Actor} {w : Vector DWord 4} {bs ys : List Byte} {bad bad1 : Option DWord}
    {i n : Nat} (hread : s.engRead a (segOf w[1]) (offOf w[1]) 32 = .ok (bs, bad) t) (hb : (scaleRecordOf bs).bpr ≠ 0)
    (hr : (scaleRecordOf bs).rows ≠ 0)
    (hfit : fld w[3] 0 32 + fld w[3] 32 32 ≤ (scaleRecordOf bs).bpr * (scaleRecordOf bs).rows)
    (hseg : ∀ e ∈ [(scaleRecordOf bs).eaddr, (scaleRecordOf bs).uaddr], segOf e ≠ 5 ∧ segOf e ≠ 6)
    (hblocks : t.scaleBlocks (n / 2) a (scaleRecordOf bs) (fld w[3] 0 32 + i / 2) = .ok (ys, bad1) x) :
    s.readScales a w i n = .ok (n, ys, bad <|> bad1) x := by
  have hok : (decide ((scaleRecordOf bs).bpr = 0) || decide ((scaleRecordOf bs).rows = 0) ||
      decide ((scaleRecordOf bs).bpr * (scaleRecordOf bs).rows < fld w[3] 0 32 + fld w[3] 32 32) ||
      (segOf (scaleRecordOf bs).eaddr == 5 || segOf (scaleRecordOf bs).eaddr == 6) ||
      (segOf (scaleRecordOf bs).uaddr == 5 || segOf (scaleRecordOf bs).uaddr == 6)) = false := by
    simpa [hb, hr, and_assoc] using ⟨hfit, by simpa [and_assoc] using hseg⟩
  unfold State.readScales
  dsimp only
  rw [hread]
  dsimp only [EngAns.bind]
  rw [if_neg (ne_true_of_eq_false hok), hblocks]

/-- Settles O56: the accesses by the home's lemmas, the events by `flyStep_flies`. -/
theorem packhorseAndEngineAccesses : Obligations.PackhorseAndEngineAccesses := by
  unfold Obligations.PackhorseAndEngineAccesses
  refine ⟨fun s t a k off n bs p _ hp hs hf hk => ⟨fun u hu => ?_, fun q u x hq hx => engRead1_bytes hf hq hx, engRead1_past⟩, ?_⟩
  · rw [engWrite1_mem hf hp hk hu]
    refine ⟨fun i x hx => ?_, fun b hb => get_put_other bs hs hb⟩
    obtain ⟨hi, rfl⟩ := List.getElem?_eq_some_iff.mp hx
    exact get_put_same p.key i bs hs hi
  intro s sp tok p c a w
  refine ⟨fun h e he => ?_, ?_⟩
  · simp only [List.mem_cons, List.not_mem_nil, or_false] at he
    rcases he with rfl | rfl | rfl | rfl
    exacts [(exec_packhorseCopy ..).trans (commandEvent_unknown h), (exec_packhorseStridedCopy ..).trans (commandEvent_unknown h),
      (exec_packhorseFill ..).trans (commandEvent_unknown h), (exec_placeScales ..).trans (commandEvent_unknown h)]
  rintro h rfl rfl
  refine ⟨fun e he hr => ?_, fun hd hpos => ⟨fun hr => ?_, fun y hy hr => ?_, fun hr hne => ?_, fun hr => ?_⟩,
    fun f v t => landFlight_lands s, ?_⟩
  · simp only [List.mem_cons, List.not_mem_nil, or_false] at he
    rcases he with rfl | rfl | rfl | rfl
    exacts [(exec_packhorseCopy ..).trans (commandEvent_stays h hr),
      (exec_packhorseStridedCopy ..).trans (commandEvent_stays h hr),
      (exec_packhorseFill ..).trans (commandEvent_stays h hr), (exec_placeScales ..).trans (commandEvent_stays h hr)]
  · exact ⟨_, (exec_packhorseCopy ..).trans (commandEvent_goes h hr hd), flyStep_flies s p c _ (by decide) hpos⟩
  · subst hy
    exact ⟨_, (exec_packhorseStridedCopy ..).trans (commandEvent_goes h hr hd), flyStep_flies s p c _ (by decide) hpos⟩
  · exact execPackhorseFill_writes h hr hd hpos hne
  · exact ⟨_, (exec_placeScales ..).trans (commandEvent_goes h hr hd), flyStep_flies s p c _ (by decide) hpos⟩
  · rintro t x bs bad r ys bad1 i n hread rfl hb hr hfit hseg hblocks
    exact readScales_reads hread hb hr hfit hseg hblocks

end Sys2Proof.Laws

end

section
/-! # Trotters, the Carousel, collectives and the end of commands (O57) -/

namespace Sys2Proof.Laws

open Sys2Proof Sys2Proof.Machine

/-! ## Trotters (R195, R196) -/

theorem exec_trotterGather (s : State) (sp : SpanId) (tok : BitVec 16) : exec (.trotterGather sp tok) s =
    s.commandEvent sp tok 3 0 fun p c a => s.flyStep p c a (packetElems c) fun i n t => t.gatherRead n a c.words i := rfl

theorem exec_trotterScatter (s : State) (sp : SpanId) (tok : BitVec 16) : exec (.trotterScatter sp tok) s =
    s.commandEvent sp tok 3 1 fun p c a => s.scatterElems (min (packetElems c) (c.total - c.done)) p c a c.done := rfl

section
variable {s t x v : State} {a : Actor} {w : Vector DWord 4} {o z xw seg off i idx : Nat} (hw : gatherOf w[3] = (o, z, xw, seg, off))
  (hidx : s.engWord a (segOf w[2]) (offOf w[2] + i * xw) xw = .ok (idx, none) t)
  (halign : ((vecAt a.segs (segOf w[1]) Seg.invalid).baseOf + (offOf w[1] + idx * z)) % z = 0)
  (hlimit : offOf w[1] + idx * z + z ≤ (vecAt a.segs (segOf w[1]) Seg.invalid).limit)
include hw hidx halign hlimit

/-- The element that an index names, aligned and in its segment. -/
theorem trotElem_at : s.trotElem a w i = .ok (offOf w[1] + idx * z, none) t := by
  have hin : ¬(vecAt a.segs (segOf w[1]) Seg.invalid).limit < offOf w[1] + idx * z + z := by omega
  unfold State.trotElem
  simp only [hw, hidx, EngAns.bind, halign, hin, bne_self_eq_false, Bool.false_eq_true, if_false]

theorem gatherRead_succ {k n : Nat} {bs ys : List Byte} (hread : t.engRead a (segOf w[1]) (offOf w[1] + idx * z) z = .ok (bs, none) x)
    (hrest : x.gatherRead k a w (i + 1) = .ok (n, ys, none) v) : s.gatherRead (k + 1) a w i = .ok (n + 1, bs ++ ys, none) v := by
  rw [State.gatherRead, trotElem_at hw hidx halign hlimit]
  simp only [hw, EngAns.bind, hread, hrest]
  rfl

end

theorem scatterElems_succ {s t x v : State} {p : Span} {c : Command} {a : Actor} {o z xw seg off i idx k : Nat} {bs : List Byte}
    (hw : gatherOf c.words[3] = (o, z, xw, seg, off))
    (hidx : s.engWord a (segOf c.words[2]) (offOf c.words[2] + i * xw) xw = .ok (idx, none) t)
    (halign : ((vecAt a.segs (segOf c.words[1]) Seg.invalid).baseOf + (offOf c.words[1] + idx * z)) % z = 0)
    (hlimit : offOf c.words[1] + idx * z + z ≤ (vecAt a.segs (segOf c.words[1]) Seg.invalid).limit)
    (hread : t.engRead a seg (off + i * z) z = .ok (bs, none) x)
    (hwrite : x.engWrite a (segOf c.words[1]) (offOf c.words[1] + idx * z) bs false = .ok () v) :
    s.scatterElems (k + 1) p c a i =
      (v.updCmd p.id c.token fun y => { y with done := y.done + 1 }).scatterElems k p c a (i + 1) := by
  rw [State.scatterElems, trotElem_at hw hidx halign hlimit]
  simp only [hw, EngAns.bind, hread, Option.orElse_eq_orElse, Option.orElse_none, Option.isSome_none, hwrite]
  rfl

/-! ## The Carousel (R283 to R285) -/

section
variable {s : State} {sp : SpanId} {tok : BitVec 16} {op : Nat}

theorem carouselEvent_unknown (h : s.cmdOf sp tok = none) : s.carouselEvent sp tok op = happens s := by
  unfold State.carouselEvent
  rw [h]

variable {p : Span} {c : Command} (h : s.cmdOf sp tok = some (p, c))
include h

theorem carouselEvent_stays (hr : s.cmdReady p c 5 op = false) : s.carouselEvent sp tok op = happens s := by
  unfold State.carouselEvent
  rw [h]
  exact if_neg (ne_true_of_eq_false hr)

theorem carouselEvent_goes (hr : s.cmdReady p c 5 op = true) :
    s.carouselEvent sp tok op = happens (s.cmdAns p c (s.carouselRun p c (actorOf p c) op)) := by
  unfold State.carouselEvent
  rw [h]
  exact if_pos hr

end

/-- Free words are as many as are asked for, and take free values only. -/
theorem freeWords_draws (n m : Nat) (s : State) :
    (s.freeWords n m).1.length = n ∧ (s.freeWords n m).2 = { s with fresh := (s.freeWords n m).2.fresh } := by
  induction n generalizing s with
  | zero => exact ⟨rfl, rfl⟩
  | succ n ih =>
    obtain ⟨hlen, hstate⟩ := ih s.draw.2
    refine ⟨congrArg (· + 1) hlen, ?_⟩
    show (s.draw.2.freeWords n m).2 = _
    rw [hstate]
    rfl

/-- Does a source of a Carousel command overlap its destination in part (R284)? -/
def mixedCarousel (t : State) (a : Actor) (w : Vector DWord 4) (op : Nat) (r : CarouselRecord) : Bool :=
  t.overlapsPartly a w[1] w[2] (8 * 2 ^ r.logn) || (op == 2 && t.overlapsPartly a r.src2 w[2] (8 * 2 ^ r.logn))

/-- What a Carousel command writes: its result, or free values when ranges overlap in part. -/
def carouselWords (t : State) (a : Actor) (w : Vector DWord 4) (op : Nat) (r : CarouselRecord) (ys zs : List Byte) : List Nat × State :=
  if mixedCarousel t a w op r then t.freeWords (2 ^ r.logn) (2 ^ 64) else (carouselResult op r (elemsOf 8 ys) (elemsOf 8 zs), t)

/-- The second source of a Carousel command, which only a product has. -/
def carouselSecond (t : State) (a : Actor) (op : Nat) (r : CarouselRecord) : EngAns (List Byte × Option DWord) :=
  if op == 2 then t.engRead a (segOf r.src2) (offOf r.src2) (8 * 2 ^ r.logn) else .ok ([], none) t

section
variable {s t t1 t2 t3 v : State} {a : Actor} {w : Vector DWord 4} {p : Span} {c : Command} {op : Nat} {bs ys zs : List Byte}
  (hrec : s.engRead a (segOf c.words[3]) (offOf c.words[3]) 32 = .ok (bs, none) t)
  (hbad : carouselBad a op (carouselRecordOf bs) = false)
  (hsrc : t.engRead a (segOf c.words[1]) (offOf c.words[1]) (8 * 2 ^ (carouselRecordOf bs).logn) = .ok (ys, none) t1)
  (hsecond : carouselSecond t1 a op (carouselRecordOf bs) = .ok (zs, none) t2)
  (hreach : t2.engReach a (segOf c.words[2]) .write
    (a.pieces (segOf c.words[2]) (offOf c.words[2]) (8 * 2 ^ (carouselRecordOf bs).logn)) = .ok () t3)
include hrec hbad hsrc hsecond hreach

/-- A command whose record and sources are read without poison writes its whole result and is complete. -/
theorem carouselRun_writes
    (hwrite : (carouselWords t3 a c.words op (carouselRecordOf bs) ys zs).2.engWrite a (segOf c.words[2]) (offOf c.words[2])
      ((carouselWords t3 a c.words op (carouselRecordOf bs) ys zs).1.flatMap (bytesLE 8)) false = .ok () v) :
    s.carouselRun p c a op = .ok () (v.updCmd p.id c.token fun x =>
      { x with done := 8 * 2 ^ (carouselRecordOf bs).logn, total := 8 * 2 ^ (carouselRecordOf bs).logn, complete := true }) := by
  unfold carouselSecond at hsecond
  unfold carouselWords mixedCarousel at hwrite
  unfold State.carouselRun
  dsimp only
  rw [hrec]
  simp only [EngAns.bind, hbad, Bool.false_eq_true, if_false, hsrc, hsecond, hreach]
  rw [show (none <|> none : Option DWord) = none from rfl, Option.isSome_none, hwrite]
  rfl

/-- The event of such a command. -/
theorem carouselEvent_writes {sp : SpanId} {tok : BitVec 16} (h : s.cmdOf sp tok = some (p, c)) (ha : a = actorOf p c)
    (hr : s.cmdReady p c 5 op = true)
    (hwrite : (carouselWords t3 a c.words op (carouselRecordOf bs) ys zs).2.engWrite a (segOf c.words[2]) (offOf c.words[2])
      ((carouselWords t3 a c.words op (carouselRecordOf bs) ys zs).1.flatMap (bytesLE 8)) false = .ok () v) :
    s.carouselEvent sp tok op = happens (v.updCmd p.id c.token fun x =>
      { x with done := 8 * 2 ^ (carouselRecordOf bs).logn, total := 8 * 2 ^ (carouselRecordOf bs).logn, complete := true,
               failed := none }) := by
  subst ha
  rw [carouselEvent_goes h hr, carouselRun_writes hrec hbad hsrc hsecond hreach hwrite]
  exact congrArg happens (updCmd_updCmd ..)

end

/-- Ranges that do not overlap in part get the operation's result. -/
theorem carouselWords_result {t : State} {a : Actor} {w : Vector DWord 4} {op : Nat} {r : CarouselRecord} {ys zs : List Byte}
    (h1 : t.overlapsPartly a w[1] w[2] (8 * 2 ^ r.logn) = false)
    (h2 : op = 2 → t.overlapsPartly a r.src2 w[2] (8 * 2 ^ r.logn) = false) :
    carouselWords t a w op r ys zs = (carouselResult op r (elemsOf 8 ys) (elemsOf 8 zs), t) := by
  refine if_neg ?_
  rw [mixedCarousel, h1, Bool.false_or, Bool.and_eq_true, beq_iff_eq]
  rintro ⟨hop, hmix⟩
  simp [h2 hop] at hmix

/-- A source that overlaps its destination in part leaves free values (R284). -/
theorem carouselWords_free {t : State} {a : Actor} {w : Vector DWord 4} (op : Nat) {r : CarouselRecord} (ys zs : List Byte)
    (h : t.overlapsPartly a w[1] w[2] (8 * 2 ^ r.logn) = true) :
    carouselWords t a w op r ys zs = t.freeWords (2 ^ r.logn) (2 ^ 64) :=
  if_pos (by rw [mixedCarousel, h, Bool.true_or])

/-- The elements of a pointwise product (R284). -/
theorem carouselResult_pointwise (r : CarouselRecord) (xs ys : List Nat) :
    carouselResult 2 r xs ys = (xs.zip ys).map fun e => e.1 * e.2 % r.m :=
  List.map_congr_left fun e _ => (Nat.mul_mod e.1 e.2 r.m).symm

/-- A transform writes its result, or free values where its ranges overlap in part. -/
theorem carouselEvent_transforms {s t t1 t2 : State} {sp : SpanId} {tok : BitVec 16} {p : Span} {c : Command} {op : Nat}
    {bs ys : List Byte} {r : CarouselRecord} {n : Nat} (h : s.cmdOf sp tok = some (p, c)) (hop : op ≠ 2)
    (hr : s.cmdReady p c 5 op = true) (hrec : s.engRead (actorOf p c) (segOf c.words[3]) (offOf c.words[3]) 32 = .ok (bs, none) t)
    (hbs : r = carouselRecordOf bs) (hn : n = 2 ^ r.logn) (hbad : carouselBad (actorOf p c) op r = false)
    (hsrc : t.engRead (actorOf p c) (segOf c.words[1]) (offOf c.words[1]) (8 * n) = .ok (ys, none) t1)
    (hreach : t1.engReach (actorOf p c) (segOf c.words[2]) .write
      ((actorOf p c).pieces (segOf c.words[2]) (offOf c.words[2]) (8 * n)) = .ok () t2) :
    (t2.overlapsPartly (actorOf p c) c.words[1] c.words[2] (8 * n) = false → ∀ v,
      t2.engWrite (actorOf p c) (segOf c.words[2]) (offOf c.words[2])
        ((carouselResult op r (elemsOf 8 ys) []).flatMap (bytesLE 8)) false = .ok () v →
      s.carouselEvent sp tok op = happens (v.updCmd p.id c.token fun y =>
        { y with done := 8 * n, total := 8 * n, complete := true, failed := none })) ∧
    (t2.overlapsPartly (actorOf p c) c.words[1] c.words[2] (8 * n) = true → ∃ u, s.carouselEvent sp tok op = happens u ∧
      ∃ xs : List Nat, ∃ t4 : State, xs.length = n ∧ t4 = { t2 with fresh := t4.fresh } ∧
        ∀ y, t4.engWrite (actorOf p c) (segOf c.words[2]) (offOf c.words[2]) (xs.flatMap (bytesLE 8)) false = .ok () y →
          u = y.updCmd p.id c.token fun y => { y with done := 8 * n, total := 8 * n, complete := true, failed := none }) := by
  subst hbs hn
  have hsecond : carouselSecond t1 (actorOf p c) op (carouselRecordOf bs) = .ok ([], none) t1 := if_neg (by simpa using hop)
  refine ⟨fun hapart v hwrite => carouselEvent_writes hrec hbad hsrc hsecond hreach h rfl hr ?_,
    fun hmix => ⟨_, carouselEvent_goes h hr, ?_⟩⟩
  · rw [carouselWords_result hapart fun he => absurd he hop]
    exact hwrite
  · obtain ⟨hlen, hfree⟩ := freeWords_draws (2 ^ (carouselRecordOf bs).logn) (2 ^ 64) t2
    refine ⟨_, _, hlen, hfree, fun y hwrite => ?_⟩
    rw [carouselRun_writes hrec hbad hsrc hsecond hreach (v := y) (by rw [carouselWords_free op ys [] hmix]; exact hwrite)]
    exact updCmd_updCmd ..

/-! ## Collectives (R197, R198) -/

section
variable {s : State} {sp : SpanId} {tok : BitVec 16} {op : Nat}

theorem joinCollective_unknown (h : s.cmdOf sp tok = none) : s.joinCollective sp tok op = s := by
  unfold State.joinCollective
  rw [h]

theorem collectiveComplete_unknown (h : s.cmdOf sp tok = none) : exec (.collectiveComplete sp tok) s = .next s := by
  show execCollectiveComplete sp tok s = _
  unfold execCollectiveComplete
  rw [h]
  rfl

variable {p : Span} {c : Command} (h : s.cmdOf sp tok = some (p, c))
include h

theorem joinCollective_joins (hcls : cmdClass c.words = 4) (hop : cmdOp c.words = op) (hc : c.complete = false) :
    s.joinCollective sp tok op = s.updCmd sp tok fun x => { x with joined := true } := by
  unfold State.joinCollective
  rw [h]
  exact if_pos (by simp [hcls, hop, hc])

theorem joinCollective_stays (hn : cmdClass c.words ≠ 4 ∨ cmdOp c.words ≠ op ∨ c.complete = true) :
    s.joinCollective sp tok op = s := by
  unfold State.joinCollective
  rw [h]
  refine if_neg ?_
  simpa [imp_iff_not_or, or_assoc] using hn

theorem collectiveComplete_stays (hn : cmdClass c.words ≠ 4 ∨ c.joined = false ∨ c.complete = true) :
    exec (.collectiveComplete sp tok) s = .next s := by
  show execCollectiveComplete sp tok s = _
  unfold execCollectiveComplete
  rw [h]
  exact if_pos (by simpa [or_assoc] using hn)

variable (hcls : cmdClass c.words = 4) (hj : c.joined = true) (hc : c.complete = false)
include hcls hj hc

/-- What becomes of a collective that a command has joined. -/
theorem collectiveComplete_joined : exec (.collectiveComplete sp tok) s =
    if s.collectiveBad (s.membersOf p c) then
      .next ((s.membersOf p c).foldl (fun t m =>
        t.draw.2.stopCmd m.1 m.2.token ((actorOf m.1 m.2).trap 8 (BitVec.ofNat 64 t.draw.1))) s)
    else if (s.membersOf p c).length = cmdCount c.words && (s.membersOf p c).all fun m => m.2.parked.isNone then
      .next (s.performCollective (s.membersOf p c))
    else .next s := by
  show execCollectiveComplete sp tok s = _
  unfold execCollectiveComplete
  rw [h]
  exact if_neg (by simp [hcls, hj, hc])

end

/-- A collective whose members' buffers are read, reached and written without poison ends all its commands. -/
theorem performCollective_ends {s t t1 v : State} {ms order rest : List (Span × Command)} {m : Span × Command}
    {bufs : List (List Byte)} {out : List Byte}
    (ho : sortBy (fun x y => decide (cmdRank x.2.words < cmdRank y.2.words)) ms = order) (hm : order = m :: rest)
    (hout : out = if cmdOp m.2.words = 2 then reduceAll (fld m.2.words[3] 56 4) (fld m.2.words[3] 60 4) bufs else bufs.flatten)
    (hread : s.collRead (fld m.2.words[3] 0 32) (if cmdOp m.2.words = 0 then [m] else order) = .ok (bufs, []) t)
    (hreach : t.collReach out.length order = .ok () t1) (hwrite : t1.collWrite out false order = .ok () v) :
    s.performCollective ms = ms.foldl (fun x y =>
      (x.updCmd y.1.id y.2.token fun z => { z with done := z.total, complete := true, failed := none }).endEngineRegion y.1.id
        y.2.region) v := by
  subst hm
  unfold State.performCollective
  rw [ho]
  dsimp only
  rw [hread]
  dsimp only
  by_cases h2 : cmdOp m.2.words = 2
  · rw [if_pos h2] at hout
    simp only [h2, ← hout, hreach, List.isEmpty_nil, Bool.not_true, hwrite]
    rfl
  · rw [if_neg h2] at hout
    simp only [← hout, hreach, List.isEmpty_nil, Bool.not_true, hwrite]
    rfl

/-! ## Barrier counts and the end of commands (R187, R192) -/

/-- Writing a trace record leaves the spans. -/
theorem trace_spans (s : State) (kind data : Nat) : (s.trace kind data).spans = s.spans := by
  unfold State.trace
  dsimp only
  split
  · rfl
  · split
    · rfl
    · unfold State.writeCoded
      split
      · rfl
      · rw [homeWrite_written s _ _ 0 Policy.plain]
        rfl

/-- A running command's count is delivered; one that takes the counter below zero is a fault. -/
theorem sendCount_running {s t : State} {p : Span} {c : Command} {q : Place} (hq : s.cmdBarPlace (actorOf p c) c.words = .ok q t)
    (hs : c.stopped = none) (hp : t.poisoned q.key = false) : s.sendCount p c =
      let u := (t.barrierStep q.slot q.key fun b => b.landed c.undecremented).updCmd p.id c.token
        fun x => { x with undecremented := 0 }
      if (t.barrierAt q.slot q.key).pend < c.undecremented then .fault ((actorOf p c).trap 18 q.va) u else .ok () u := by
  unfold State.sendCount
  dsimp only
  rw [hq]
  simp only [EngAns.bind, hs, Option.isSome_none, Bool.false_eq_true, if_false, hp, Bool.not_false, Bool.and_true,
    decide_eq_true_eq]

section
variable {s : State} {sp : SpanId} {tok : BitVec 16}

theorem barrierDecrement_unknown (h : s.cmdOf sp tok = none) : exec (.barrierDecrement sp tok) s = .next s := by
  show execBarrierDecrement sp tok s = _
  unfold execBarrierDecrement
  rw [h]
  rfl

theorem engineCommandComplete_unknown (h : s.cmdOf sp tok = none) : exec (.engineCommandComplete sp tok) s = .next s := by
  show execEngineCommandComplete sp tok s = _
  unfold execEngineCommandComplete
  rw [h]
  rfl

variable {p : Span} {c : Command} (h : s.cmdOf sp tok = some (p, c))
include h

theorem barrierDecrement_stays (hn : c.undecremented = 0 ∨ c.parked ≠ none) : exec (.barrierDecrement sp tok) s = .next s := by
  show execBarrierDecrement sp tok s = _
  unfold execBarrierDecrement
  rw [h]
  exact if_pos (by simpa [Option.isSome_iff_ne_none] using hn)

theorem engineCommandComplete_stays (hn : (∃ x ∈ p.held, ∃ b, x.by_ = .command tok b) ∨ c.undecremented ≠ 0 ∨
    (c.complete = false ∧ (c.done < c.total ∨ (cmdClass c.words ≠ 1 ∧ cmdClass c.words ≠ 3)))) :
    exec (.engineCommandComplete sp tok) s = .next s := by
  show execEngineCommandComplete sp tok s = _
  unfold execEngineCommandComplete
  rw [h]
  refine if_pos ?_
  simp only [Bool.or_eq_true, List.any_eq_true]
  rcases hn with ⟨x, hx, b, hb⟩ | hn | ⟨hc, hn⟩
  · exact .inl (.inl ⟨x, hx, by simp [hb]⟩)
  · exact .inl (.inr (by simpa using hn))
  · refine .inr ?_
    rcases hn with hn | ⟨h1, h3⟩
    · simp [hc, hn]
    · simp [hc, h1, h3]

section
variable (hu : c.undecremented ≠ 0) (hpk : c.parked = none)
include hu hpk

theorem barrierDecrement_sends : exec (.barrierDecrement sp tok) s =
    match s.sendCount p c with
    | .fault e t =>
      .next (if c.stopped.isSome then t.updCmd sp tok fun x => { x with undecremented := 0 } else t.stopCmd p tok e)
    | x => .next (s.cmdAns p c x) := by
  show execBarrierDecrement sp tok s = _
  unfold execBarrierDecrement
  rw [h]
  exact if_neg (by simp [hu, hpk])

variable {q : Place} {t : State} (hq : s.cmdBarPlace (actorOf p c) c.words = .ok q t)
include hq

/-- A stopped command's count is delivered, and its fault is bound to the barrier. -/
theorem barrierDecrement_stopped (hs : c.stopped ≠ none) : exec (.barrierDecrement sp tok) s =
    .next ((t.releaseBar p c q c.undecremented).updCmd p.id c.token fun x => { x with undecremented := 0, failed := none }) := by
  have hsend : s.sendCount p c =
      .ok () ((t.releaseBar p c q c.undecremented).updCmd p.id c.token fun x => { x with undecremented := 0 }) := by
    unfold State.sendCount
    dsimp only
    rw [hq]
    exact if_pos (Option.isSome_iff_ne_none.mpr hs)
  rw [barrierDecrement_sends h hu hpk, hsend]
  exact congrArg _ (updCmd_updCmd ..)

variable (hs : c.stopped = none) (hp : t.poisoned q.key = false)
include hs hp

theorem barrierDecrement_counts (hle : c.undecremented ≤ (t.barrierAt q.slot q.key).pend) : exec (.barrierDecrement sp tok) s =
    .next (((t.barrierStep q.slot q.key fun b => b.landed c.undecremented).updCmd p.id c.token
      fun x => { x with undecremented := 0 }).updCmd p.id c.token fun x => { x with failed := none }) := by
  rw [barrierDecrement_sends h hu hpk, sendCount_running hq hs hp]
  dsimp only
  rw [if_neg (not_lt.mpr hle)]
  rfl

theorem barrierDecrement_faults (hlt : (t.barrierAt q.slot q.key).pend < c.undecremented) : exec (.barrierDecrement sp tok) s =
    .next (((t.barrierStep q.slot q.key fun b => b.landed c.undecremented).updCmd p.id c.token
      fun x => { x with undecremented := 0 }).stopCmd p c.token ((actorOf p c).trap 18 q.va)) := by
  rw [barrierDecrement_sends h hu hpk, sendCount_running hq hs hp, token_of_cmdOf h]
  dsimp only
  rw [if_pos hlt, hs]
  rfl

end

/-- A command that has been performed and counted leaves its span, and its region has ended. -/
theorem engineCommandComplete_ends (hheld : ∀ x ∈ p.held, ∀ b, x.by_ ≠ .command tok b) (hu : c.undecremented = 0)
    (hd : c.complete = true ∨ (c.total ≤ c.done ∧ (cmdClass c.words = 1 ∨ cmdClass c.words = 3))) :
    Answers (.engineCommandComplete sp tok) s fun u => u.spanOf sp = some { p with
      regions := mapIf p.regions (fun x => x.id = c.region) fun x => { x with ended := true },
      cmds := p.cmds.filter fun x => x.token != tok } := by
  have hnone : (p.held.any fun x => match x.by_ with
      | .command k _ => k == tok
      | _ => false) = false := by
    refine List.any_eq_false.mpr fun x hx => ?_
    split
    · next k b hb =>
      have hk : k ≠ tok := fun he => hheld x hx b (he ▸ hb)
      simpa using hk
    · exact Bool.false_ne_true
  have hend : (s.endEngineRegion sp c.region).spanOf sp = some { p with
      regions := mapIf p.regions (fun x => x.id = c.region) fun x => { x with ended := true } } := by
    unfold State.endEngineRegion
    rw [spanOf_updSpan, (cmdOf_eq_some h).1]
    · rfl
    all_goals exact fun _ => rfl
  unfold Answers
  show ∃ t, execEngineCommandComplete sp tok s = _ ∧ _
  unfold execEngineCommandComplete
  rw [h]
  refine ⟨_, if_neg ?_, ?_⟩
  · rw [Bool.or_eq_true, Bool.or_eq_true]
    rintro ((hx | hx) | hx)
    · exact ne_true_of_eq_false hnone hx
    · simp [hu] at hx
    · rcases hd with hc | ⟨hle, hcls⟩
      · simp [hc] at hx
      · simp only [hle, decide_true, Bool.and_true, Bool.not_eq_true', Bool.or_eq_false_iff, beq_eq_false_iff_ne] at hx
        exact hcls.elim hx.2.1 hx.2.2
  · rw [spanOf_updSpan]
    · generalize s.endEngineRegion sp c.region = t at hend ⊢
      refine (congrArg (Option.map _) (?_ : _ = t.spanOf sp)).trans (by rw [hend]; rfl)
      have htrace : ∀ data, (t.trace 3 data).spanOf sp = t.spanOf sp := fun data => by
        unfold State.spanOf
        rw [trace_spans]
      split
      · split
        · split
          · exact htrace _
          · rfl
        · rfl
      · rfl
    all_goals exact fun _ => rfl

end

/-- Settles O57, event by event. -/
theorem trottersCarouselAndCollectives : Obligations.TrottersCarouselAndCollectives := by
  unfold Obligations.TrottersCarouselAndCollectives
  constructor
  · intro s t x v sp tok p c a w k i idx z xw seg off at_ bs g
    refine ⟨fun h e he => ?_, ?_⟩
    · simp only [List.mem_cons, List.not_mem_nil, or_false] at he
      rcases he with rfl | rfl | rfl | rfl | rfl
      exacts [(exec_trotterGather ..).trans (commandEvent_unknown h), (exec_trotterScatter ..).trans (commandEvent_unknown h),
        carouselEvent_unknown h, carouselEvent_unknown h, carouselEvent_unknown h]
    rintro h rfl rfl hz rfl rfl
    have hw : gatherOf c.words[3] = ((gatherOf c.words[3]).1, z, xw, seg, off) := Prod.ext rfl hz.symm
    refine ⟨fun hr => (exec_trotterGather ..).trans (commandEvent_stays h hr),
      fun hr => (exec_trotterScatter ..).trans (commandEvent_stays h hr), fun e he hr => ?_, fun hd => ⟨fun hr hpos => ?_, fun hr hv => ?_⟩,
      fun hidx halign hlimit => ⟨fun n ys hread hrest => gatherRead_succ hw hidx halign hlimit hread hrest,
        fun hread hwrite => scatterElems_succ hw hidx halign hlimit hread hwrite⟩, ?_⟩
    · simp only [List.mem_cons, List.not_mem_nil, or_false] at he
      rcases he with rfl | rfl | rfl <;> exact carouselEvent_stays h hr
    · exact ⟨_, (exec_trotterGather ..).trans (commandEvent_goes h hr hd), flyStep_flies s p c _ (Nat.le_max_left ..) hpos⟩
    · refine ⟨_, (exec_trotterScatter ..).trans (commandEvent_goes h hr hd), ?_⟩
      rw [hv]
      rfl
    · rintro r n ys zs t1 t2 t3 hrec rfl rfl hsrc
      refine ⟨fun e he hr hbad hreach => ?_, fun hr hbad hsecond hreach h1 h2 hwrite => ?_⟩
      · simp only [List.mem_cons, List.not_mem_nil, or_false] at he
        rcases he with rfl | rfl
        · obtain ⟨hres, hfree⟩ := carouselEvent_transforms h (op := 0) (by decide) hr hrec rfl rfl hbad hsrc hreach
          exact ⟨fun hapart hwrite => ⟨_, hres hapart v hwrite, rfl⟩, hfree⟩
        · obtain ⟨hres, hfree⟩ := carouselEvent_transforms h (op := 1) (by decide) hr hrec rfl rfl hbad hsrc hreach
          exact ⟨fun hapart hwrite => ⟨_, hres hapart v hwrite, rfl⟩, hfree⟩
      · refine ⟨_, carouselEvent_writes hrec hbad hsrc hsecond hreach h rfl hr ?_, rfl⟩
        rw [carouselWords_result h1 fun _ => h2, carouselResult_pointwise, List.flatMap_map]
        exact hwrite
  · intro s t t1 v sp tok p c ms order bufs q
    refine ⟨fun h e he => ?_, fun h => ⟨fun e he => ⟨fun hcls hop hc => ?_, fun hn => ?_⟩, collectiveComplete_stays h, ?_,
      barrierDecrement_stays h, fun hu hpk hq => ⟨fun hs => ?_, ?_⟩, engineCommandComplete_stays h, fun hheld hu hd => ?_⟩⟩
    · simp only [List.mem_cons, List.not_mem_nil, or_false] at he
      rcases he with rfl | rfl | rfl | rfl | rfl | rfl
      exacts [congrArg happens (joinCollective_unknown h), congrArg happens (joinCollective_unknown h),
        congrArg happens (joinCollective_unknown h), collectiveComplete_unknown h, barrierDecrement_unknown h,
        engineCommandComplete_unknown h]
    · simp only [List.mem_cons, List.not_mem_nil, or_false] at he
      rcases he with rfl | rfl | rfl <;> exact congrArg happens (joinCollective_joins h hcls hop hc)
    · simp only [List.mem_cons, List.not_mem_nil, or_false] at he
      rcases he with rfl | rfl | rfl <;> exact congrArg happens (joinCollective_stays h hn)
    · rintro hcls hj hc rfl
      have hevent := collectiveComplete_joined h hcls hj hc
      refine ⟨fun hbad hn => ?_, fun hbad hlen hall ho m rest out hm hout hread hreach hwrite => ?_, fun hbad => ?_⟩
      · rw [hevent, if_neg (ne_true_of_eq_false hbad), if_neg]
        rw [Bool.and_eq_true, decide_eq_true_eq, List.all_eq_true]
        rintro ⟨hlen, hall⟩
        rcases hn with hn | ⟨m, hm, hparked⟩
        · exact hn hlen
        · exact hparked (Option.isNone_iff_eq_none.mp (hall m hm))
      · have hcome : (decide ((s.membersOf p c).length = cmdCount c.words) &&
            (s.membersOf p c).all fun m => m.2.parked.isNone) = true := by
          rw [Bool.and_eq_true, decide_eq_true_eq, List.all_eq_true]
          exact ⟨hlen, fun m hm => Option.isNone_iff_eq_none.mpr (hall m hm)⟩
        rw [if_neg (ne_true_of_eq_false hbad), if_pos hcome, performCollective_ends ho.symm hm hout hread hreach hwrite] at hevent
        exact ⟨_, hevent, rfl⟩
      · rw [if_pos hbad] at hevent
        exact ⟨_, hevent, fun n => BitVec.ofNat 64 (Config.fresh n), rfl⟩
    · exact ⟨_, barrierDecrement_stopped h hu hpk hq hs, rfl⟩
    · rintro hs hp rfl
      exact ⟨fun hle => ⟨_, barrierDecrement_counts h hu hpk hq hs hp hle, rfl⟩,
        fun hlt => ⟨_, barrierDecrement_faults h hu hpk hq hs hp hlt, rfl⟩⟩
    · obtain ⟨u, hu, hspan⟩ := engineCommandComplete_ends h hheld hu hd
      refine ⟨u, hu, _, hspan, rfl, rfl, rfl, fun x hx hid => ?_⟩
      obtain ⟨y, -, rfl⟩ := List.mem_map.mp hx
      by_cases hy : y.id = c.region
      · simp [hy]
      · simp [hy] at hid

end Sys2Proof.Laws

end

section
/-! # Waits that end, regroupings and handler entries (O44) -/

namespace Sys2Proof.Laws

open Sys2Proof Sys2Proof.Machine

/-! ## Waits of slices (R184, R343, R369) -/

/-- The wait that a slice has already is no change. -/
theorem wait_self {x : Slice} {w : Option Wait} (h : x.wait = w) : { x with wait := w } = x := by
  subst h
  rfl

/-- A test of waits is a change of slices. -/
theorem rewait_eq {f : Wait → Option Wait} {g : Slice → Slice} (hn : ∀ x, x.wait = none → g x = x)
    (h : ∀ x w, x.wait = some w → g x = { x with wait := some ((f w).getD w) }) (p : Span) :
    p.rewait f = { p with slices := vecMap p.slices fun _ x => g x } := by
  unfold Span.rewait
  congr 2
  funext _ x
  split
  · next w hw => exact (h x w hw).symm
  · next hw => exact (hn x hw).symm

theorem updSpan_reslices (s : State) (k : SpanId) (f : Slice → Slice) :
    s.Reslices (s.updSpan k fun p => { p with slices := vecMap p.slices fun _ x => f x }) k f :=
  updSpan_respans s k (fun _ => rfl) fun _ => rfl

/-- Tests of waits that agree with a change of slices. -/
theorem updSpan_rewaits (s : State) (k : SpanId) {f : Wait → Option Wait} {g : Slice → Slice} (hn : ∀ x, x.wait = none → g x = x)
    (h : ∀ x w, x.wait = some w → g x = { x with wait := some ((f w).getD w) }) :
    s.Reslices (s.updSpan k fun p => p.rewait f) k g := by
  rw [funext (rewait_eq hn h)]
  exact updSpan_reslices s k g

theorem sleepWake_wakes (s : State) (k : SpanId) : Answers (.sleepWake k) s fun u => s.Reslices u k (Slice.slept s.now) := by
  refine ⟨_, rfl, updSpan_rewaits s k (fun x hx => ?_) fun x w hx => ?_⟩
  · rw [Slice.slept, hx]
  · rw [Slice.slept, hx]
    cases w with
    | sleep t => by_cases ht : t.toNat ≤ s.now.toNat <;> simp [ht, ← hx]
    | _ => exact (wait_self hx).symm

theorem fenceScTick_ticks (s : State) (k : SpanId) : Answers (.fenceScTick k) s fun u => s.Reslices u k (Slice.ticked s.now) := by
  refine ⟨_, rfl, updSpan_rewaits s k (fun x hx => ?_) fun x w hx => ?_⟩
  · rw [Slice.ticked, hx]
  · rw [Slice.ticked, hx]
    cases w with
    | tick t => by_cases ht : t.toNat ≤ s.now.toNat <;> simp [ht, ← hx]
    | _ => exact (wait_self hx).symm

theorem barWaitRetest_tests (s : State) (k : SpanId) :
    Answers (.barWaitRetest k) s fun u => s.Reslices u k (Slice.retested s.mem s.now) := by
  refine ⟨_, rfl, updSpan_rewaits s k (fun x hx => ?_) fun x w hx => ?_⟩
  · rw [Slice.retested, hx]
  · rw [Slice.retested, hx]
    cases w with
    | barrier key gen mon at_ =>
      cases mon with
      | true => exact (wait_self hx).symm
      | false =>
        by_cases ht : s.now.toNat < at_.toNat
        · simp [ht, ← hx]
        · by_cases hg : Memory.get s.mem (key + 15) = gen <;> simp [ht, State.genAt, hg]
    | _ => exact (wait_self hx).symm

/-! ## Monitors (R336, R337, R343) -/

theorem vecMap_vecMap {α β γ : Type} {n : Nat} (v : Vector α n) (f : Nat → α → β) (g : Nat → β → γ) :
    vecMap (vecMap v f) g = vecMap v fun i x => g i (f i x) := by
  unfold vecMap
  simp

/-- Without monitors no wait ends. -/
theorem notified_nil (timedOut : Bool) (x : Slice) : x.notified [] timedOut = x := by
  unfold Slice.notified
  split <;> rfl

/-- The first monitor that matches ends a wait, and the later ones leave it. -/
theorem notified_cons (m : Monitor) (ms : List Monitor) (timedOut : Bool) (x : Slice) :
    x.notified (m :: ms) timedOut = (x.notified [m] timedOut).notified ms timedOut := by
  cases hw : x.wait with
  | none => simp only [Slice.notified, hw]
  | some w =>
    cases w with
    | monitor id => by_cases hm : m.id = id <;> simp [Slice.notified, hw, hm]
    | barrier key gen mon at_ =>
      cases mon with
      | false => simp only [Slice.notified, hw]
      | true =>
        cases hb : m.bar
        · simp [Slice.notified, hw, hb]
        · by_cases hm : m.key = key <;> cases hp : m.poison <;> simp [Slice.notified, hw, hb, hm, hp]
    | _ => simp only [Slice.notified, hw]

theorem wakeMonitor_notifies (s : State) (m : Monitor) (timedOut : Bool) :
    s.wakeMonitor m timedOut = { s.updSpan m.span fun p =>
      { p with slices := vecMap p.slices fun _ x => x.notified [m] timedOut } with
      monitors := s.monitors.filter fun x => x.id != m.id } := by
  unfold State.wakeMonitor
  dsimp only
  rw [funext (rewait_eq (g := fun x => x.notified [m] timedOut) (fun x hx => ?_) fun x w hx => ?_)]
  · rfl
  · rw [Slice.notified, hx]
  · rw [Slice.notified, hx]
    cases w with
    | monitor id =>
      by_cases hm : id = m.id
      · simp [hm]
      · simp [hm, Ne.symm hm, ← hx]
    | barrier key gen mon at_ =>
      cases mon with
      | false => exact (wait_self hx).symm
      | true =>
        cases hb : m.bar with
        | false => simp [hb, ← hx]
        | true =>
          by_cases hm : key = m.key
          · simp [hb, hm]
          · simp [hb, hm, Ne.symm hm, ← hx]
    | _ => exact (wait_self hx).symm

/-- The monitors of a span wake it one after the other. -/
theorem wakeMonitors_wakes {k : SpanId} (timedOut : Bool) (ms : List Monitor) (s : State) (h : ∀ m ∈ ms, m.span = k) :
    s.Wakes (ms.foldl (fun t m => t.wakeMonitor m timedOut) s) k ms timedOut := by
  induction ms generalizing s with
  | nil =>
    refine ⟨⟨rfl, fun p hp => hp.trans ?_, fun _ _ => rfl⟩, by simp⟩
    simp [notified_nil, vecMap]
  | cons m ms ih =>
    rw [List.foldl_cons, wakeMonitor_notifies, h m (List.mem_cons_self ..)]
    obtain ⟨⟨hframe, hat, hother⟩, hmons⟩ := ih _ fun x hx => h x (List.mem_cons_of_mem m hx)
    obtain ⟨-, hfirst, hfirstOther⟩ := updSpan_reslices s k fun x => x.notified [m] timedOut
    refine ⟨⟨congrArg (fun x : State => { x with monitors := s.monitors }) hframe, fun p hp => ?_, fun id hid => ?_⟩, ?_⟩
    · refine (hat _ (hfirst p hp)).trans ?_
      simp only [vecMap_vecMap, ← notified_cons]
    · exact (hother id hid).trans (hfirstOther id hid)
    · rw [hmons, List.filter_filter]
      refine List.filter_congr fun x _ => ?_
      simp [bne, Bool.and_comm, BEq.comm (a := x.id)]

theorem monitorWake_wakes {s : State} {k : SpanId} {p : Span} (hp : s.spanOf k = some p) :
    Answers (.monitorWake k) s fun u => s.Wakes u k (s.ringing k) false := by
  refine ⟨_, congrArg happens (if_pos (by rw [hp]; rfl)), wakeMonitors_wakes false (s.ringing k) s fun m hm => ?_⟩
  have hring := (List.mem_filter.mp hm).2
  simp only [Bool.and_eq_true, decide_eq_true_eq, and_assoc] at hring
  exact hring.1

theorem waitcmpTimeout_wakes {s : State} {k : SpanId} {p : Span} (hp : s.spanOf k = some p) :
    Answers (.waitcmpTimeout k) s fun u => s.Wakes u k (s.lapsed k) true := by
  have hlate : (s.monitors.filter fun m => m.span = k && m.away.isNone && !m.satisfied &&
      match m.deadline with
      | some d => decide (d.toNat ≤ s.now.toNat)
      | none => false) = s.lapsed k := by
    refine List.filter_congr fun m _ => congrArg (decide (m.span = k) && m.away.isNone && !m.satisfied && ·) ?_
    cases m.deadline <;> rfl
  refine ⟨(s.lapsed k).foldl (fun t m => t.wakeMonitor m true) s, ?_, wakeMonitors_wakes true (s.lapsed k) s fun m hm => ?_⟩
  · rw [← hlate]
    exact congrArg happens (if_pos (by rw [hp]; rfl))
  · have hlapsed := (List.mem_filter.mp hm).2
    simp only [Bool.and_eq_true, decide_eq_true_eq, and_assoc] at hlapsed
    exact hlapsed.1

/-! ## Promotion (R387) -/

theorem spanPromotion_promotes (s : State) (k : SpanId) : Answers (.spanPromotion k) s fun u =>
    s.Respans u k fun q => { q with promoted := q.promoted || decide (4096 ≤ q.passOver) } := by
  refine ⟨_, rfl, ?_⟩
  have hmark : (fun p : Span => if 4096 ≤ p.passOver then { p with promoted := true } else p) =
      fun q => { q with promoted := q.promoted || decide (4096 ≤ q.passOver) } := by
    funext p
    by_cases hp : 4096 ≤ p.passOver <;> simp [hp]
  rw [hmark]
  exact updSpan_respans s k (fun _ => rfl) fun _ => rfl

/-! ## Regrouping (R239) -/

/-- A slice that a release of `regang` lets go on. -/
def Slice.released (x : Slice) : Slice := if x.wait == some .regang then x.enter (x.pc + 12) false else x

/-- The span after a release, before its gangs are formed. -/
def released (p : Span) : Span := { p with slices := vecMap p.slices fun _ x => Slice.released x }

theorem releaseRegang_of_waiting {v : State} (h : v.sp.allRegang = true) : v.releaseRegang =
    ({ v with sp := (released v.sp).part (maskOf 8 fun j => ((released v.sp).slice j).exited != 15) } : State).settle :=
  if_pos h

theorem releaseRegang_of_not {v : State} (h : v.sp.allRegang = false) : v.releaseRegang = v := if_neg (ne_true_of_eq_false h)

theorem regangRelease_groups {v : State} (h : v.sp.allRegang = true) :
    v.releaseRegang = { v with sp := { v.sp with
      slices := v.releaseRegang.sp.slices, clauses := v.releaseRegang.sp.clauses, flags := v.releaseRegang.sp.flags } } := by
  rw [releaseRegang_of_waiting h]
  rfl

/-- The number of the gang that a slice of a released span joins: the lowest slice that stands where it stands. -/
def gangAt (p : Span) (pc : DWord) : Nat := lowestSlice fun k =>
  bitOn (maskOf 8 fun j => ((released p).slice j).exited != 15) k && ((released p).slice k).pc == pc &&
    ((released p).slice k).slot == 0 && ((released p).slice k).exited != 15

/-- A waiting slice goes on after its `regang`, in the gang of its place. -/
theorem releaseRegang_slice {v : State} (h : v.sp.allRegang = true) {j : Nat} (hj : j < 8) (hw : (v.sp.slice j).wait = some .regang)
    (hx : (v.sp.slice j).exited ≠ 15) : v.releaseRegang.sp.slice j = { v.sp.slice j with
      pc := (v.sp.slice j).pc + 12, slot := 0, clause := none, xfer := none, wait := none, again := none,
      left := (v.sp.slice j).pc, fell := false, gang := gangAt v.sp ((v.sp.slice j).pc + 12) } := by
  have hgo : (released v.sp).slice j = (v.sp.slice j).enter ((v.sp.slice j).pc + 12) false :=
    (slice_vecMap (fun _ x => Slice.released x) hj).trans (if_pos (by simp [hw]))
  have hin : bitOn (maskOf 8 fun j => ((released v.sp).slice j).exited != 15) j = true := by
    rw [bitOn_maskOf 8 _ j hj, hgo]
    simpa [Slice.enter] using hx
  rw [releaseRegang_of_waiting h]
  show ((released v.sp).part _).slice j = _
  unfold Span.part
  rw [slice_vecMap _ hj, if_pos hin, hgo]
  rfl

/-! ## Handler entry (R44, R413) -/

theorem withdraw_frame (s : State) (id : SpanId) : s.withdraw id =
    { s with core := (s.withdraw id).core, cores := (s.withdraw id).cores, monitors := (s.withdraw id).monitors } := by
  unfold State.withdraw
  rw [updCore_frame]

/-- What settling clauses changes. -/
theorem settle_frame (s : State) :
    s.settle = { s with sp := { s.sp with clauses := s.settle.sp.clauses, flags := s.settle.sp.flags } } := rfl

/-- A span at its handler, with its frame and its trap registers (R413). -/
def handlerSpan (p : Span) (t : TrapInfo) (gang : BitVec 8) (resume : DWord) : Span := { p with
  frame := some { slices := vecMap p.slices fun _ x => { x with wait := keptWait x.wait }, s62 := p.regs.s[62],
                  s63 := p.regs.s[63], gang := gang, entry := resume },
  trap := { p.trap with faultpc := resume, faultaddr := t.addr, word0 := t.word0, word1 := t.cause.getD resume,
                        word2 := BitVec.ofNat 64 t.region.toNat, sel := 0 },
  regs := { p.regs with s := (p.regs.s.set 62 t.word0).set 63 t.addr },
  privileged := true,
  slices := vecMap p.slices fun _ x => { Slice.zero with
    pc := BitVec.ofNat 64 (fld p.trap.trapbase 0 48), slot := 0, cur := ~~~x.exited, exited := x.exited,
    left := BitVec.ofNat 64 (fld resume 0 48) },
  trapping := none }

theorem handlerSpan_slice (p : Span) (t : TrapInfo) (gang : BitVec 8) (resume : DWord) {j : Nat} (hj : j < 8) :
    vecAt (handlerSpan p t gang resume).slices j Slice.zero = { Slice.zero with
      pc := BitVec.ofNat 64 (fld p.trap.trapbase 0 48), slot := 0, cur := ~~~(p.slice j).exited, exited := (p.slice j).exited,
      left := BitVec.ofNat 64 (fld resume 0 48) } := by
  unfold handlerSpan Span.slice
  dsimp only
  rw [vecAt_vecMap _ _ Slice.zero Slice.zero hj]

theorem enterHandler_eq (v : State) (t : TrapInfo) (gang : BitVec 8) (resume : DWord) : v.enterHandler t gang resume =
    (({ v with sp := handlerSpan v.sp t gang resume } : State).withdraw v.sp.id).settle := rfl

/-- Beside the span, an entry changes the core's queue and the monitors. -/
theorem enterHandler_frame (v : State) (t : TrapInfo) (gang : BitVec 8) (resume : DWord) : ∃ cs fs c ks ms,
    v.enterHandler t gang resume = { v with
      sp := { handlerSpan v.sp t gang resume with clauses := cs, flags := fs }, core := c, cores := ks, monitors := ms } := by
  rw [enterHandler_eq, settle_frame, withdraw_frame]
  exact ⟨_, _, _, _, _, rfl⟩

theorem enterHandler_enters (v : State) (t : TrapInfo) (gang : BitVec 8) (resume : DWord) :
    v.Enters (v.enterHandler t gang resume) t gang resume := by
  obtain ⟨cs, fs, c, ks, ms, h⟩ := enterHandler_frame v t gang resume
  rw [h]
  refine ⟨rfl, rfl, rfl, rfl, rfl, ⟨_, rfl, rfl, rfl, rfl, rfl, fun j hj => ?_⟩, fun j hj => ?_, rfl, rfl, rfl, rfl⟩
  · dsimp only
    rw [vecAt_vecMap _ _ Slice.zero Slice.zero hj]
    rfl
  · show vecAt (handlerSpan v.sp t gang resume).slices j Slice.zero = _
    rw [handlerSpan_slice _ _ _ _ hj]

section
variable {s : State} {k : SpanId} {p : Span} (hp : s.spanOf k = some p)
include hp

theorem trapEntry_enters {t : TrapInfo} {gang : BitVec 8} {resume : DWord} (ht : p.trapping = some (t, gang, resume))
    (hq : (s.focus k).quietA = true) : exec (.trapEntry k) s = .next ((s.focus k).enterHandler t gang resume) := by
  show execTrapEntry k s = _
  unfold execTrapEntry
  rw [hp]
  dsimp only
  rw [ht]
  exact congrArg happens (if_pos hq)

theorem trapEntry_waits (h : p.trapping = none ∨ (s.focus k).quietA = false) : exec (.trapEntry k) s = .next s := by
  show execTrapEntry k s = _
  unfold execTrapEntry
  rw [hp]
  dsimp only
  split
  · rfl
  · next hsome => exact congrArg happens (if_neg (ne_true_of_eq_false (h.resolve_left (by simp [hsome]))))

end

end Sys2Proof.Laws

end

section
/-! # Grants, timeouts, commits and ends of regions (O44) -/

namespace Sys2Proof.Laws

open Sys2Proof Sys2Proof.Machine

/-! ## Regions at their limit (R147, R357) -/

/-- With everything sent, a new region has nothing to send. -/
theorem sendQueued_of_sent {s : State} (h : ∀ o ∈ s.memOps, o.span = s.sp.id → o.path = 0 → o.unsent = []) : s.sendQueued = s := by
  have hnone : (s.memOps.filter fun o => o.span = s.sp.id && o.path == 0 && !o.unsent.isEmpty) = [] := by
    refine List.filter_eq_nil_iff.mpr fun o ho => ?_
    simp only [Bool.and_eq_true, decide_eq_true_eq, beq_iff_eq, and_assoc]
    rintro ⟨hspan, hpath, hunsent⟩
    simp [h o ho hspan hpath] at hunsent
  unfold State.sendQueued
  rw [hnone]
  rfl

theorem regions_endRegion (p : Span) (r : RegionId) (now : DWord) :
    (p.endRegion r now).regions = p.regions.map fun x => if x.id = r then { x with ended := true } else x := by
  refine List.map_congr_left fun x _ => ?_
  by_cases hx : x.id = r <;> simp [hx]

section
variable {s : State} {k : SpanId} {p : Span} (hp : s.spanOf k = some p)
include hp

theorem regionLimit_event : exec (.regionLimit k) s = .next (if (s.focus k).regionFull && (s.focus k).sentDrained 4 then
    (s.focus k).endRegion.sendQueued else s) := by
  show execRegionLimit k s = _
  unfold execRegionLimit
  rw [hp]
  rfl

theorem regionLimit_ends (hfull : (s.focus k).regionFull = true) (hdrained : (s.focus k).sentDrained 4 = true) :
    exec (.regionLimit k) s = .next (s.focus k).endRegion.sendQueued := by
  rw [regionLimit_event hp, if_pos (by rw [hfull, hdrained]; rfl)]

theorem regionLimit_stays (h : (s.focus k).regionFull = false ∨ (s.focus k).sentDrained 4 = false) :
    exec (.regionLimit k) s = .next s := by
  rw [regionLimit_event hp, if_neg]
  rcases h with h | h <;> simp [h]

end

/-- A region that ends leaves its sectors no place in the L1. -/
theorem endRegion_ends (v : State) :
    v.endRegion = { v with
      core := { v.core with l1 := v.endRegion.core.l1 },
      sp := { v.sp with
        regions := v.endRegion.sp.regions, regSeq := vecPut v.sp.regSeq 0 (vecAt v.sp.regSeq 0 0 + 1), regStart := v.now,
        regSectors := 0, ending := false } } ∧
    (v.endRegion.sp.regions = v.sp.regions.map fun x => if x.id = v.region then { x with ended := true } else x) ∧
    ∀ x, (∃ y ∈ v.endRegion.core.l1, x ∈ y.secs) ↔
      (∃ y ∈ v.core.l1, x ∈ y.secs) ∧ x.kind ≠ .region v.sp.id.slot v.region :=
  ⟨rfl, regions_endRegion _ _ _, fun x => (mem_l1Keep _ _ x).trans (and_congr_right' bne_iff_ne)⟩

/-! ## The Reins (R310) -/

/-- A list sorted by a number begins with a least element. -/
theorem sortBy_head_le {α : Type} (f : α → Nat) {l t : List α} {x : α} (h : sortBy (fun a b => decide (f a < f b)) l = x :: t) :
    ∀ y ∈ l, f x ≤ f y := by
  induction l generalizing x t with
  | nil => exact fun y hy => absurd hy List.not_mem_nil
  | cons z l ih =>
    intro y hy
    rw [sortBy] at h
    cases hs : sortBy (fun a b => decide (f a < f b)) l with
    | nil =>
      rw [hs] at h
      obtain rfl : z = x := (List.cons.inj h).1
      rcases List.mem_cons.mp hy with rfl | hl
      · exact Nat.le_refl _
      · exact absurd (mem_sortBy.mpr hl) (by rw [hs]; exact List.not_mem_nil)
    | cons w ws =>
      have hleast := ih hs
      rw [hs, insertBy] at h
      split at h
      · next hzw =>
        obtain rfl : z = x := (List.cons.inj h).1
        have hzw : f z ≤ f w := by simpa using hzw
        rcases List.mem_cons.mp hy with rfl | hl
        · exact Nat.le_refl _
        · exact hzw.trans (hleast y hl)
      · next hzw =>
        obtain rfl : w = x := (List.cons.inj h).1
        have hzw : f w < f z := by simpa using hzw
        rcases List.mem_cons.mp hy with rfl | hl
        · exact hzw.le
        · exact hleast y hl

theorem mem_wantsReins {s : State} {k : CoreId} {p : Span} :
    p ∈ (s.spans.filter fun p => p.id.core = k && p.waitsReins && (s.coreOf k).takable p.id.slot) ↔ s.wantsReins k p := by
  simp [State.wantsReins, List.mem_filter, and_assoc]

/-- The Reins go to the oldest of the spans that may have them. -/
theorem reinsGrant_grants {s : State} {k : CoreId} (h : ∃ p, s.wantsReins k p) : ∃ p, s.wantsReins k p ∧
    (∀ q, s.wantsReins k q → s.ageOf p ≤ s.ageOf q) ∧ exec (.reinsGrant k) s =
      .next ((s.updCore k fun c => c.take p.id.slot).updSpan p.id fun q =>
        { q with slices := vecMap q.slices fun _ x => x.reined }) := by
  obtain ⟨p0, hp0⟩ := h
  cases hs : sortBy (fun a b => decide (s.ageOf a < s.ageOf b))
      (s.spans.filter fun p => p.id.core = k && p.waitsReins && (s.coreOf k).takable p.id.slot) with
  | nil => exact absurd (mem_sortBy.mpr (mem_wantsReins.mpr hp0)) (by rw [hs]; exact List.not_mem_nil)
  | cons p rest =>
    have hwake : (fun x : Slice => if (x.wait == some .reins) = true then { x with wait := some .woken } else x) =
        Slice.reined := by
      funext x
      by_cases hx : x.wait = some .reins <;> simp [Slice.reined, hx]
    refine ⟨p, mem_wantsReins.mp (mem_sortBy.mp (by rw [hs]; exact List.mem_cons_self)),
      fun q hq => sortBy_head_le s.ageOf hs q (mem_wantsReins.mpr hq), ?_⟩
    show execReinsGrant k s = _
    unfold execReinsGrant
    dsimp only
    rw [hs, ← hwake]
    rfl

theorem reinsGrant_answers {s : State} {k : CoreId} (h : ∃ p, s.wantsReins k p) :
    Answers (.reinsGrant k) s fun u => ∃ p, s.wantsReins k p ∧
      (∀ q, s.wantsReins k q → s.ageOf p ≤ s.ageOf q) ∧ (u.coreOf k).holder = some p.id.slot ∧ (u.coreOf k).offer = none ∧
      (u.coreOf k).ops = (s.coreOf k).ops.map (fun o => { o with accepted := true }) ∧
      s.Reslices { u with core := s.core, cores := s.cores } p.id Slice.reined := by
  obtain ⟨p, hwants, hold, hgrant⟩ := reinsGrant_grants h
  have htaken : (s.updCore k fun c => c.take p.id.slot).coreOf k = (s.coreOf k).take p.id.slot := coreOf_updCore s fun _ => rfl
  refine ⟨_, hgrant, p, hwants, hold, congrArg Core.holder htaken, congrArg Core.offer htaken, congrArg Core.ops htaken, ?_⟩
  rw [updCore_frame]
  exact updSpan_reslices s p.id Slice.reined

/-! ## Engine operations (R309) -/

theorem engineOperationAccept_accepts {s : State} {op : Nat} {c : Core} {o : EngineOp}
    (hc : (s.core :: s.cores).find? (fun c => c.ops.any fun o => o.id == op && !o.accepted) = some c)
    (ho : c.ops.find? (fun o => !o.accepted && c.accepts o.span.slot) = some o) (hid : o.id = op) :
    exec (.engineOperationAccept op) s = .next (s.updCore c.id fun x => { x with ops :=
      (c.ops.filter fun o => o.accepted) ++ [{ o with accepted := true }] ++
        (c.ops.filter fun o => !o.accepted && o.id != op) }) := by
  show execEngineOperationAccept op s = _
  unfold execEngineOperationAccept
  dsimp only
  rw [hc]
  dsimp only
  rw [ho]
  exact if_neg (by simp [hid])

/-! ## Extended resources (R394 to R397) -/

theorem groupOf_of_groupAt {s : State} {id : SpanId} {g : Group} (h : s.groupAt id = some g) :
    (∃ p, s.spanOf id = some p) ∧ s.groupOf g.id = some g := by
  unfold State.groupAt at h
  split at h
  · next p hp => exact ⟨⟨p, hp⟩, by rw [groupOf_id h]; exact h⟩
  · cases h

/-- From s to t the spans of a team have taken registers: no slice, group or core has changed. -/
structure Registered (s t : State) : Prop where
  groups : t.allGroups = s.allGroups
  cores : ∀ k, t.coreOf k = s.coreOf k
  slices : ∀ id p, s.spanOf id = some p → ∃ q, t.spanOf id = some q ∧ q.slices = p.slices

theorem grantRegs_live (p : Span) (lo n : Nat) : (p.grantRegs lo n).live = p.live := by
  unfold Span.grantRegs
  rfl

theorem grantRegs_id (p : Span) (lo n : Nat) : (p.grantRegs lo n).id = p.id := by
  unfold Span.grantRegs
  rfl

theorem grantRegs_slices (p : Span) (lo n : Nat) : (p.grantRegs lo n).slices = p.slices := by
  unfold Span.grantRegs
  rfl

theorem updSpan_registered (s : State) (id : SpanId) (lo n : Nat) : Registered s (s.updSpan id fun x => x.grantRegs lo n) where
  groups := rfl
  cores _ := rfl
  slices k p hp := by
    obtain ⟨-, hat, hother⟩ := updSpan_respans s id (f := fun x => x.grantRegs lo n)
      (fun p => grantRegs_live p lo n) fun p => grantRegs_id p lo n
    by_cases hk : k = id
    · subst hk
      exact ⟨_, hat p hp, grantRegs_slices p lo n⟩
    · exact ⟨p, (hother k hk).trans hp, rfl⟩

theorem grantRegs_registered (lo n : Nat) (ps : List Span) (s : State) :
    Registered s (ps.foldl (fun t p => t.updSpan p.id fun x => x.grantRegs lo n) s) := by
  refine List.foldlRecOn ps _ ⟨rfl, fun _ => rfl, fun _ p hp => ⟨p, hp, rfl⟩⟩ fun t ht p _ => ?_
  obtain ⟨hgroups, hcores, hslices⟩ := updSpan_registered t p.id lo n
  refine ⟨hgroups.trans ht.groups, fun k => (hcores k).trans (ht.cores k), fun id q hq => ?_⟩
  obtain ⟨r, hr, hrs⟩ := ht.slices id q hq
  obtain ⟨x, hx, hxs⟩ := hslices id r hr
  exact ⟨x, hx, hxs.trans hrs⟩

/-- An answer takes a request from its core's queue, and ends the wait of its gang (R395). -/
theorem answerAcq_answers (s : State) (q : AcqReq) (r : DWord) :
    ((s.answerAcq q r).coreOf q.span.core).acqs = (s.coreOf q.span.core).acqs.filter (fun x => x != q) ∧
    (∀ g, (s.answerAcq q r).groupOf g = s.groupOf g) ∧
    ∀ p, s.spanOf q.span = some p → ∃ x, (s.answerAcq q r).spanOf q.span = some x ∧
      ∀ j, j < 8 → bitOn q.gang j = true → (p.slice j).wait = some .acqx → (x.slice j).wait = some (.acqxDone r) := by
  have hcore := coreOf_updCore s (k := q.span.core) (f := fun c => { c with acqs := c.acqs.filter fun x => x != q }) fun _ => rfl
  refine ⟨congrArg Core.acqs hcore, fun g => updCore_groupOf .., fun p hp => ?_⟩
  unfold State.answerAcq
  dsimp only
  rw [spanOf_updSpan, updCore_spanOf, hp]
  · refine ⟨_, rfl, fun j hj hgang hwait => ?_⟩
    rw [slice_vecMap _ hj, hwait]
    simp [hgang]
  all_goals exact fun _ => rfl

/-- A grant adds to the group, and answers the request with 0 (R394, R395). -/
theorem grantAcq_grants {s : State} {q : AcqReq} {g : Group} (hg : s.groupAt q.span = some g)
    (hq : (s.coreOf q.span.core).acqs = [q]) :
    ((s.grantAcq q g).coreOf q.span.core).acqs = [] ∧
    (s.grantAcq q g).groupOf g.id = some { g with
      xv := g.xv + q.v, tiles := g.tiles ++ List.replicate q.t Tile.zero, accs := g.accs ++ List.replicate q.a Acc.zero } ∧
    ∃ p, (s.grantAcq q g).spanOf q.span = some p ∧ ∀ j, j < 8 → bitOn q.gang j = true → ∀ r, s.spanOf q.span = some r →
      (r.slice j).wait = some .acqx → (p.slice j).wait = some (.acqxDone 0) := by
  obtain ⟨⟨r, hr⟩, hgroup⟩ := groupOf_of_groupAt hg
  obtain ⟨hgroups, hcores, hslices⟩ := grantRegs_registered g.vregs (8 * q.v) (s.spansOf g.id) s
  unfold State.grantAcq
  dsimp only
  generalize (s.spansOf g.id).foldl (fun t p => t.updSpan p.id fun x => x.grantRegs g.vregs (8 * q.v)) s = t at hgroups hcores hslices ⊢
  obtain ⟨p, hp, hps⟩ := hslices q.span r hr
  obtain ⟨hacqs, hkept, hwoken⟩ := answerAcq_answers (t.updGroup g.id fun x => { x with
    xv := x.xv + q.v, tiles := x.tiles ++ List.replicate q.t Tile.zero, accs := x.accs ++ List.replicate q.a Acc.zero }) q 0
  refine ⟨?_, ?_, ?_⟩
  · refine hacqs.trans ?_
    show ((t.coreOf q.span.core).acqs.filter fun x => x != q) = []
    rw [hcores, hq]
    simp
  · rw [hkept, groupOf_updGroup]
    · unfold State.groupOf
      rw [hgroups]
      exact congrArg (Option.map _) hgroup
    · exact fun _ => rfl
  · obtain ⟨x, hx, hwait⟩ := hwoken p hp
    refine ⟨x, hx, fun j hj hgang y hy hacqx => hwait j hj hgang ?_⟩
    obtain rfl : r = y := Option.some.inj (hr.symm.trans hy)
    unfold Span.slice at hacqx ⊢
    rw [hps]
    exact hacqx

section
variable {s : State} {k : CoreId} {t : Team} {q : AcqReq} {g : Group} (ht : (s.coreOf k).teams = [t]) (hq : (s.coreOf k).acqs = [q])
  (hg : s.groupAt q.span = some g) (hl : g.launch = t.launch)
include ht hq hg hl

/-- The only request is granted when the team's pool has room, and else the younger holders retreat. -/
theorem acqxGrant_single : exec (.acqxGrant k) s =
    .next (if 8 * q.v * g.bindRec.nspan.toNat ≤ (s.poolFree k t).1 ∧ q.t ≤ (s.poolFree k t).2.1 ∧ q.a ≤ (s.poolFree k t).2.2
      then s.grantAcq q g else s.retreat k t q g) := by
  have hqs : ((s.coreOf k).acqs.filter fun q => (s.groupAt q.span).map (fun g => g.launch) == some t.launch) = [q] := by
    rw [hq]
    simp [hg, hl]
  have hone : sortBy acqBefore [q] = [q] := rfl
  show execAcqxGrant k s = _
  unfold execAcqxGrant
  dsimp only
  rw [ht, hq]
  show happens (s.serveTeam 1 k t) = _
  unfold State.serveTeam
  dsimp only
  rw [hqs, hone]
  dsimp only
  rw [hg]
  rfl

end

theorem acquireTimeout_raises {s : State} {sp : SpanId} {q : AcqReq} {g : Group} (hq : (s.coreOf sp.core).acqs = [q]) (hsp : q.span = sp)
    (hg : s.groupAt sp = some g) (htmo : fld (s.recordBy g.launch) 48 16 ≠ 0) (hh : g.holds = true) (hr : g.status = .running)
    (hlate : q.since.toNat + 1000 * fld (s.recordBy g.launch) 48 16 ≤ s.now.toNat) :
    exec (.acquireTimeout sp) s = .next (((s.updCore sp.core fun c => { c with acqs := [] }).asGang sp q.gang).raise
      (((s.updCore sp.core fun c => { c with acqs := [] }).asGang sp q.gang).trapOf 19 0)) := by
  have hleft : (s.updCore sp.core fun c => { c with acqs := c.acqs.filter fun x => x != q }) =
      s.updCore sp.core fun c => { c with acqs := [] } := updCore_congr (by simp [hq])
  have hfirst : (s.coreOf sp.core).acqs.find? (fun q => q.span = sp) = some q := by simp [hq, hsp]
  show execAcquireTimeout sp s = _
  unfold execAcquireTimeout
  rw [hfirst, hg]
  dsimp only
  rw [if_neg (by simp [htmo, hh, hr, Nat.not_lt.mpr hlate]), hleft]
  rfl

/-! ## The commit of a phase (R388 to R390) -/

theorem bagWrite_written (s : State) (a : Nat) (bs : List Byte) : Written s (s.bagWrite a bs) :=
  .foldl (fun t _ => homeWrite_written t _ _ 0 Policy.plain) _ s

/-- A task none of whose spans waits for a saddle is given none. -/
theorem serveWaiters_holders_of_unwaiting {s : State} {g : GroupId} (hs : ∀ x ∈ s.saddles, x.holder ≠ g)
    (hw : ∀ p ∈ s.spansOf g, p.saddleWait = none) : ∀ x ∈ s.serveWaiters.saddles, x.holder ≠ g := by
  rw [serveWaiters_eq]
  refine List.foldlRecOn (motive := fun t : State => ∀ x ∈ t.saddles, x.holder ≠ g) _ _ hs fun t ht p hp x hx => ?_
  obtain ⟨hspan, hwaits⟩ := List.mem_filter.mp (mem_sortBy.mp hp)
  rcases mem_serveWaiter hx with hold | hnew
  · exact ht x hold
  · rw [hnew]
    intro hgroup
    unfold State.saddleWaiter at hwaits
    rw [hw p (List.mem_filter.mpr ⟨hspan, beq_iff_eq.mpr hgroup⟩)] at hwaits
    cases hwaits

theorem releaseSaddles_holders_of_unwaiting {s : State} {g : GroupId} (hw : ∀ p ∈ s.spansOf g, p.saddleWait = none) :
    ∀ x ∈ (s.releaseSaddles g).saddles, x.holder ≠ g :=
  serveWaiters_holders_of_unwaiting (fun _ hx => bne_iff_ne.mp (List.mem_filter.mp hx).2) hw

/-- A commit writes the saddlebag, gives up what the group holds, and asks for the next phase. -/
theorem commitPhase_commits (s : State) (g : Group) : ∃ v, Written s v ∧ s.commitPhase g =
    let u := ((v.releaseSaddles g.id).setBox g.die g.box 3).dropGroup g.id
    { u with host := { u.host with requests := u.host.requests ++ [(g.launch, { g.bindRec with
      nspan := BitVec.ofNat 7 ((s.spansOf g.id).filter fun q => !q.gone).length, phase := g.bindRec.phase + 1, age := 0,
      deadline := BitVec.allOnes 64 })] } } :=
  ⟨_, ((bagWrite_written s _ _).trans (.foldl (fun t _ => bagWrite_written t _ _) _ _)).trans (bagWrite_written _ _ _), rfl⟩

theorem phaseCommit_commits {s : State} {sp : SpanId} {p : Span} {g : Group} (hp : s.spanOf sp = some p)
    (hg : s.groupOf p.group = some g) (hr : g.status = .running) (h0 : g.id ≠ 0) (hready : s.commitReady g.id = true)
    (hw : ∀ q ∈ s.spansOf g.id, q.saddleWait = none) : Answers (.phaseCommit sp) s fun u =>
      (∀ x ∈ u.host.boxes, x.die = g.die → x.num = g.box → x.state = 3) ∧ (∀ x ∈ u.saddles, x.holder ≠ g.id) ∧
      (∀ x ∈ u.allGroups, x.id ≠ g.id) ∧
      u.host.requests = s.host.requests ++ [(g.launch, { g.bindRec with
        nspan := BitVec.ofNat 7 ((s.spansOf g.id).filter (fun q => !q.gone)).length, phase := g.bindRec.phase + 1, age := 0,
        deadline := BitVec.allOnes 64 })] := by
  have hevent : exec (.phaseCommit sp) s = .next (s.commitPhase g) := by
    show execPhaseCommit sp s = _
    unfold execPhaseCommit
    rw [hp]
    dsimp only
    rw [hg]
    exact congrArg happens (if_pos (by rw [hr, hready]; rfl))
  obtain ⟨v, hv, hcommit⟩ := commitPhase_commits s g
  have hleft := dropGroup_vacated ((v.releaseSaddles g.id).setBox g.die g.box 3) g.id
  refine ⟨_, hevent, ?_⟩
  rw [hcommit]
  refine ⟨fun x hx => ?_, fun x hx => ?_, dropGroup_gone h0, congrArg (· ++ [_]) ?_⟩
  · refine setBox_state (v.releaseSaddles g.id) g.die g.box 3 x ?_
    rw [← hleft.boxes]
    exact hx
  · refine releaseSaddles_holders_of_unwaiting (s := v) (fun q hq => hw q ?_) x ?_
    · rw [hv] at hq
      exact hq
    · rw [← setBox_saddles (v.releaseSaddles g.id) g.die g.box 3, ← hleft.saddles]
      exact hx
  · rw [hleft.requests, setBox_requests, releaseSaddles_host, hv]

/-! ## The obligation -/

/-- Settles O44, event by event. -/
theorem wakesAndGrants : Obligations.WakesAndGrants := by
  unfold Obligations.WakesAndGrants
  refine ⟨?_, fun s k => ⟨reinsGrant_answers, fun t q g fv ft fa ht hq hk hg hl hfree => ?_, ?_, fun op c o hc ho hid =>
    ⟨_, engineOperationAccept_accepts hc ho hid, rfl⟩, fun sp p g => phaseCommit_commits, fun w => ⟨_, rfl, rfl⟩⟩⟩
  · rintro s v k p hp rfl
    refine ⟨sleepWake_wakes s k, fenceScTick_ticks s k, barWaitRetest_tests s k, monitorWake_wakes hp, waitcmpTimeout_wakes hp,
      spanPromotion_promotes s k, fun hall => ?_, fun hall => congrArg happens (releaseRegang_of_not hall), fun t gang resume ht =>
        ⟨fun hquiet => ⟨_, trapEntry_enters hp ht hquiet, enterHandler_enters ..⟩, fun hquiet => trapEntry_waits hp (.inr hquiet)⟩,
      fun ht => trapEntry_waits hp (.inl ht), fun hfull hdrained => ⟨regionLimit_ends hp hfull hdrained, fun hsent => ?_⟩,
      regionLimit_stays hp⟩
    · refine ⟨_, rfl, regangRelease_groups hall, fun j hj hw hx => ⟨_, releaseRegang_slice hall hj hw hx⟩,
        fun i j hi hj hwi hwj hxi hxj hpc => ?_⟩
      rw [releaseRegang_slice hall hi hwi hxi, releaseRegang_slice hall hj hwj hxj, hpc]
    · refine ⟨_, regionLimit_ends hp hfull hdrained, ?_⟩
      rw [sendQueued_of_sent (s := (s.focus k).endRegion) hsent]
      exact endRegion_ends _
  · subst hk
    have hevent := acqxGrant_single ht hq hg hl
    rw [← hfree] at hevent
    refine ⟨fun hv hft hfa => ?_, fun hno => ?_⟩
    · rw [if_pos ⟨hv, hft, hfa⟩] at hevent
      obtain ⟨hacqs, hgroup, hspan⟩ := grantAcq_grants hg hq
      exact ⟨_, hevent, hacqs, ⟨_, hgroup, rfl⟩, hspan⟩
    · rw [if_neg hno] at hevent
      exact ⟨_, hevent, rfl⟩
  · rintro sp q g v rfl hq hsp hg htmo hh hr hlate rfl
    exact ⟨_, acquireTimeout_raises hq hsp hg htmo hh hr hlate, rfl⟩

end Sys2Proof.Laws

end

section
/-! # Floating-point arithmetic and transcendentals (O18, O19) -/

namespace Sys2Proof.Laws

open Sys2Proof Sys2Proof.Machine

section
variable {s : State} {i : Instr} {p : Option Pre} {t : BitVec 3} {d a : RegNo}

theorem does_fp2 (b : Src) (f : Fmt → RMode → FVal → FVal → Nat × FFlags)
    (h : exec i s = s.issue1 i fun q => q.fp2 p t d a b f) :
    s.DoesFloat i p t d fun j k => f (fpFmt t) (s.mode p) (s.fpVal t a j k) (s.fpSrcVal t b j k) :=
  does_float _ _ _ h rfl fun _ _ => rfl

theorem does_fpMinMax (b : Src) (wantMax : Bool) (h : exec i s = s.issue1 i fun q => q.fpMinMax p t d a b wantMax) :
    s.DoesFloat i p t d fun j k => fMinMax (fpFmt t) wantMax (fpElem t (s.fpLane t a j) k) (fpElem t (s.fpSrc t b j) k) :=
  does_float _ _ _ h rfl fun _ _ => rfl

theorem does_fpFma (b : Src) (h : exec i s = s.issue1 i fun q => q.fpFma p t d a b) : s.DoesFloat i p t d fun j k =>
    fFma (fpFmt t) (s.mode p) (s.fpVal t a j k) (s.fpSrcVal t b j k) (s.fpVal t (addend p d) j k) :=
  does_float _ _ _ h rfl fun _ _ => rfl

theorem does_fpBits (f : Nat → Nat) (h : exec i s = s.issue1 i fun q => q.fpBits p t d a f) :
    s.DoesFloat i p t d fun j k => (f (fpElem t (s.fpLane t a j) k), FFlags.none) :=
  does_float _ _ _ h rfl fun _ _ => rfl

/-- A fast function of class 4 writes its grade's elements. -/
theorem does_fast (g : TFun) (h : exec i s = s.issue1 i fun q => q.transc p t d a g false) :
    s.DoesFloat i p t d fun j k => fastResult (fpFmt t) g t.toNat (fpElem t (s.fpLane t a j) k) :=
  does_float _ _ _ h rfl fun _ _ => rfl

/-- An accurate function of class 4 writes its grade's elements. -/
theorem does_accurate (g : TFun) (h : exec i s = s.issue1 i fun q => q.transc p t d a g true) :
    s.DoesFloat i p t d fun j k => accurateResult (fpFmt t) g t.toNat (s.mode p) (fpElem t (s.fpLane t a j) k) :=
  does_float _ _ _ h rfl fun _ _ => rfl

end

/-- Settles O18: every instruction writes by `State.fpElems`, most of them through one of the operations above; the second
operand is V(vb) or S(sb). -/
theorem floatArithmetic : Obligations.FloatArithmetic := by
  rintro s p c t d a b F m A B S X rfl rfl rfl rfl rfl rfl
  have hscale : ∀ i k, fScale (fpFmt t) (s.mode p) (s.fpVal t a i k) (sx (s.rl b i).toNat 32) =
      fScale (fpFmt t) (s.mode p) (s.fpVal t a i k) (s.rl b i).toInt := fun i k => by rw [sx_toInt]
  exact ⟨does_fp2 (.vec b) fAdd rfl, does_fp2 (.vec b) (fun f m x y => fAdd f m x y.neg) rfl, does_fp2 (.vec b) fMul rfl,
    does_fpFma (.vec b) rfl, does_fpMinMax (.vec b) false rfl, does_fpMinMax (.vec b) true rfl,
    does_fp2 (.scalar b) fAdd rfl, does_fp2 (.scalar b) (fun f m x y => fAdd f m x y.neg) rfl, does_fp2 (.scalar b) fMul rfl,
    does_fpFma (.scalar b) rfl, does_fpMinMax (.scalar b) false rfl, does_fpMinMax (.scalar b) true rfl,
    does_fp2 (.vec b) fDiv rfl, does_float _ _ _ rfl rfl hscale, does_float _ _ _ rfl rfl fun _ _ => rfl,
    does_fpBits (fun x => x % (fpFmt t).signBit) rfl, does_fpBits (fun x => x ^^^ (fpFmt t).signBit) rfl⟩

/-- Settles O19, function by function, each in its two grades. -/
theorem transcendentals : Obligations.Transcendentals := by
  rintro s p c t d a F m X rfl rfl rfl
  exact ⟨does_fast .exp2 rfl, does_accurate .exp2 rfl, does_fast .exp rfl, does_accurate .exp rfl,
    does_fast .log2 rfl, does_accurate .log2 rfl, does_fast .ln rfl, does_accurate .ln rfl,
    does_fast .rcp rfl, does_accurate .rcp rfl, does_fast .rsqrt rfl, does_accurate .rsqrt rfl,
    does_fast .sqrt rfl, does_accurate .sqrt rfl, does_fast .sin rfl, does_accurate .sin rfl,
    does_fast .cos rfl, does_accurate .cos rfl, does_fast .tanh rfl, does_accurate .tanh rfl,
    does_fast .sigm rfl, does_accurate .sigm rfl, does_fast .erf rfl, does_accurate .erf rfl⟩

end Sys2Proof.Laws

end

section
/-! # Conversions to and from gait blocks (O26) -/

namespace Sys2Proof.Laws

open Sys2Proof Sys2Proof.Machine

/-! ## Effects on registers alone -/

/-- The state with other registers and other poison in them. -/
def withRegs (s : State) (x : Regs × List Held) : State := { s with sp := { s.sp with regs := x.1, held := x.2 } }

/-- An effect that changes registers and the poison in them, and depends on nothing else. -/
def OnRegisters (f : State → State) : Prop :=
  ∃ g : Regs → List Held → Regs × List Held, ∀ s, f s = withRegs s (g s.sp.regs s.sp.held)

theorem OnRegisters.comp {f g : State → State} (hg : OnRegisters g) (hf : OnRegisters f) : OnRegisters fun s => g (f s) := by
  obtain ⟨x, hx⟩ := hf
  obtain ⟨y, hy⟩ := hg
  exact ⟨fun r h => y (x r h).1 (x r h).2, fun s => by dsimp only; rw [hx, hy]; rfl⟩

theorem onRegisters_ws (n : RegNo) (x : DWord) : OnRegisters fun s => s.ws n x :=
  ⟨fun r h => ({ r with s := r.s.set n.toNat x n.isLt }, h.filter fun h => h.by_ != .reg (.scalar n)), fun s => ws_eq s n x⟩

theorem onRegisters_wm (n : Nat) (x : LaneMask) : OnRegisters fun s => s.wm n x := by
  refine ⟨fun r h => (if n = 0 then r else { r with m := vecPut r.m n x }, h), fun s => ?_⟩
  unfold State.wm
  split <;> rfl

/-- Is a held fault one that stays when V(n) is written in the lanes of w? -/
def uncured (n : RegNo) (w : LaneMask) (h : Held) : Bool :=
  match h.by_ with
  | .reg (.vec m j) => !(m == n && (List.range 4).all fun k => bitOn w (4 * j.val + k))
  | _ => true

/-- `wv` as an update of registers. -/
theorem wv_eq (s : State) (n : RegNo) (w : LaneMask) (f : Nat → Word) : s.wv n w f = withRegs s ({ s.sp.regs with
      v := s.sp.regs.v.set n.toNat (lanesOf fun i => if bitOn w i then f i else laneAt (s.sp.regs.v[n.toNat]'n.isLt) i) n.isLt },
    s.sp.held.filter (uncured n w)) := by
  unfold State.wv Span.cureLanes
  dsimp only
  split
  · next h =>
    rw [filter_of_empty _ (uncured n w) h]
    rfl
  · rfl

theorem onRegisters_wv (n : RegNo) (w : LaneMask) (f : Nat → Word) : OnRegisters fun s => s.wv n w f :=
  ⟨fun r h => ({ r with v := r.v.set n.toNat (lanesOf fun i => if bitOn w i then f i else laneAt (r.v[n.toNat]'n.isLt) i) n.isLt },
    h.filter (uncured n w)), fun s => wv_eq s n w f⟩

theorem onRegisters_wtag (n : RegNo) (t : Tag) : OnRegisters fun s => s.wtag n t :=
  ⟨fun r h => ({ r with tag := r.tag.set n.toNat t n.isLt }, h), fun _ => rfl⟩

theorem onRegisters_flags (f : FFlags) : OnRegisters fun s => s.wstatus (statusOr s.sp.regs.status f) :=
  ⟨fun r h => ({ r with status := statusOr r.status f }, h), fun _ => rfl⟩

/-- What is sent before such an effect might be sent after it. -/
theorem OnRegisters.sendsOp {f : State → State} {s t : State} {refs : List Ref} {P : MemOp → Prop} (hf : OnRegisters f)
    (h : s.SendsOp t refs P) : (f s).SendsOp (f t) refs P := by
  obtain ⟨g, hg⟩ := hf
  obtain ⟨v, o, ⟨hv, hmem⟩, ht, ho⟩ := h
  have hregs : t.sp.regs = s.sp.regs := by rw [ht]
  have hheld : t.sp.held = s.sp.held := by rw [ht]
  rw [hg s, hg t, hregs, hheld]
  generalize g s.sp.regs s.sp.held = x
  exact ⟨withRegs v x, o, ⟨by rw [hv]; rfl, hmem⟩, by rw [ht]; rfl, ho⟩

/-! ## Writes of whole vector registers -/

theorem maskOf_all {f : Nat → Bool} (h : ∀ i, f i = true) : maskOf 32 f = BitVec.allOnes 32 :=
  BitVec.eq_of_getLsbD_eq fun i hi => ((bitOn_maskOf 32 f i hi).trans (h i)).trans (bitOn_allOnes hi).symm

/-- V(n) := f in every lane, with the tag of a vector. -/
def putAll (s : State) (n : RegNo) (f : Nat → Word) : State := (s.wv n (BitVec.allOnes 32) f).wtag n zeroTag

theorem putLanes_allOnes (s : State) (n : RegNo) (f : Nat → Word) :
    s.putLanes n (BitVec.allOnes 32) false f = putAll s n f := by
  have hsel : ∀ (i : Nat) (x : Word), (if bitOn (BitVec.allOnes 32) i then (if bitOn (BitVec.allOnes 32) i then f i else 0) else x) =
      if bitOn (BitVec.allOnes 32) i then f i else x := fun i x => by
    split <;> rfl
  unfold State.putLanes putAll State.wv
  simp only [Bool.false_eq_true, if_false, hsel]

theorem putAll_only (s : State) (n : RegNo) (f : Nat → Word) : OnlyVectors s (putAll s n f) [n] :=
  putLanes_allOnes s n f ▸ putLanes_only s n _ _ f

theorem putAll_lanes (s t : State) (n : RegNo) (f : Nat → Word) : LanesAre s (putAll t n f) n (BitVec.allOnes 32) false f := by
  refine ⟨fun i hi => ?_, by simp [putAll, zeroTag]⟩
  rw [if_pos (bitOn_allOnes hi)]
  exact (wv_lane t n _ f i hi).trans (if_pos (bitOn_allOnes hi))

theorem onRegisters_putAll (n : RegNo) (f : Nat → Word) : OnRegisters fun s => putAll s n f :=
  (onRegisters_wtag n zeroTag).comp (onRegisters_wv n _ f)

@[simp] theorem putAll_status (s : State) (n : RegNo) (f : Nat → Word) : (putAll s n f).sp.regs.status = s.sp.regs.status := by
  simp [putAll]

/-! ## Flags that do not trap (R226) -/

/-- The flags of an instruction are ORed into STATUS. -/
def noteFlags (s : State) (f : FFlags) : State := s.wstatus (statusOr s.sp.regs.status f)

theorem withFlags_untrapped {s : State} {sel : LaneMask} {fl : Nat → FFlags} (eff : State → State)
    (h : (flagsOver sel fl).trapsUnder s.seen.status = false) : s.withFlags sel fl eff = noteFlags (eff s) (flagsOver sel fl) :=
  if_neg (by simpa [flagsOver] using h)

theorem noteFlags_only {s t : State} {ds : List RegNo} (f : FFlags) (h : OnlyVectors s t ds) :
    OnlyVectors s (noteFlags t f) ds :=
  onlyVectors_mono (onlyVectors_trans h (onlyVectors_wstatus _ _)) (by simp)

/-! ## Side lists (R248, R249) -/

theorem sideListTrap_nil (s : State) (off : Nat) (w : Bool) : s.sideListTrap off 0 w = none := if_pos rfl

theorem sideListTrap_of_checks {s : State} {off n : Nat} {w : Bool} (heven : off % 2 = 0)
    (h : s.rangeTrap 2 off (2 * n) w = none) : s.sideListTrap off n w = none := by
  unfold State.sideListTrap
  rw [heven, h]
  simp

/-- The address of the list's end. -/
theorem sideList_end (x : DWord) (n : Nat) : BitVec.ofNat 64 (x.toNat + n) = x + BitVec.ofNat 64 n := by
  rw [BitVec.ofNat_add, BitVec.ofNat_toNat, BitVec.setWidth_eq]

theorem whenPathFree_of_free {s : State} (go : State → State) (h : s.pathBusy = false) : s.whenPathFree go = go s :=
  if_neg (by simp [h])

/-! ## vqcvt (R248) -/

/-- The registers that `vqcvt` writes. -/
def putGait (q : Nat) (d b : RegNo) (x : DWord) (out : List Bool) (plane : Nat → Word) (s : State) : State :=
  putAll ((s.ws b x).wm q (maskOf 32 fun i => listAt out i false)) d plane

theorem onRegisters_putGait (q : Nat) (d b : RegNo) (x : DWord) (out : List Bool) (plane : Nat → Word) :
    OnRegisters (putGait q d b x out plane) :=
  (onRegisters_putAll d plane).comp ((onRegisters_wm q _).comp (onRegisters_ws b x))

theorem putGait_quantised (s : State) (p : Option Pre) (d b : RegNo) (x : DWord) (out : List Bool) (plane : Nat → Word)
    (fl : Nat → FFlags) :
    s.Quantised (noteFlags (putGait (preQ p) d b x out plane s) (flagsOver (BitVec.allOnes 32) fl)) p d b plane out fl x := by
  refine ⟨?_, ?_, putAll_lanes s _ d plane⟩
  · rw [← ws_withScalar]
    exact noteFlags_only _ (putAll_only _ d plane)
  · show statusOr (putGait (preQ p) d b x out plane s).sp.regs.status _ = _
    simp [putGait]

/-- The outliers are stored in order, before the registers are written or after. -/
theorem sideList_stored {s : State} {f : State → State} {side : List (Nat × FFlags)} {ps : List Place} (hf : OnRegisters f) :
    (f s).Sends (f (s.send { s.newOp .store .none 2 0 false with
      reqs := ps.map fun y => reqAt y 2 (listAt side y.lane (0, FFlags.none)).1 0 })) 2 .store .none ps 2
        (fun i => (listAt side i (0, FFlags.none)).1) [] := by
  refine hf.sendsOp (send_requests (data := fun i => (listAt side i (0, FFlags.none)).1) [] ⟨rfl, rfl, rfl, rfl, rfl, rfl, rfl⟩ rfl ?_)
  rw [List.map_map]
  rfl

/-! ## vdqcvt (R249) -/

/-- The elements are converted and written where no side-list read has failed. -/
theorem dequantised_eq {s : State} {p : Option Pre} {bf : Bool} {d : RegNo} {value val : Nat → FVal} {good : Nat → Bool}
    {more : State → State} (hval : ∀ i, value i = val i) (hgood : ∀ i, good i = true)
    (h : (deqFlags bf (s.mode p) val).trapsUnder s.seen.status = false) : s.dequantised p bf d value good more =
      noteFlags (more (putAll s d (deqLane bf (s.mode p) val))) (deqFlags bf (s.mode p) val) := by
  obtain rfl : value = val := funext hval
  have hlow : maskOf 32 (fun l => decide (16 ≤ l) || (good (2 * l) && good (2 * l + 1))) = BitVec.allOnes 32 :=
    maskOf_all fun i => by simp [hgood]
  unfold State.dequantised
  cases bf
  · dsimp only
    rw [if_neg Bool.false_ne_true, maskOf_all hgood]
    exact withFlags_untrapped _ h
  · dsimp only
    rw [if_pos rfl, hlow]
    exact withFlags_untrapped _ h

theorem putAll_dequantised {s : State} (bf : Bool) (m : RMode) (d : RegNo) (val : Nat → FVal) :
    s.Dequantised (noteFlags (putAll s d (deqLane bf m val)) (deqFlags bf m val)) bf m d val := by
  refine ⟨noteFlags_only _ (putAll_only _ d _), ?_, putAll_lanes s s d _⟩
  show statusOr (putAll s d (deqLane bf m val)).sp.regs.status _ = _
  rw [putAll_status]

/-- A scalar and a vector register may be written in either order. -/
theorem putAll_ws (s : State) (d b : RegNo) (f : Nat → Word) (x : DWord) : (putAll s d f).ws b x = putAll (s.ws b x) d f := by
  unfold putAll
  rw [ws_eq, ws_eq, wv_eq, wv_eq]
  unfold withRegs State.wtag
  dsimp only
  rw [List.filter_comm]

theorem hold_nil (s : State) (id : SpanId) : s.hold id [] = s := by
  unfold State.hold State.updSpan mapIf
  simp

theorem deferred_none {o : MemOp} {p : Req → Bool} (code : Nat) (region : BitVec 48) (unreach : Bool)
    (h : ∀ q ∈ o.reqs, p q = false) : o.deferred code p region unreach = none := by
  unfold MemOp.deferred
  rw [List.filter_eq_nil_iff.mpr fun q hq => by simp [h q hq]]

/-- An operation whose requests were all performed, without poison, leaves no fault. -/
theorem faults_nil {o : MemOp} (h : ∀ q ∈ o.reqs, q.status = .performed ∧ q.poison = false) : o.faults = [] := by
  unfold MemOp.faults
  dsimp only
  rw [deferred_none (p := fun q => q.poison) 9 0 false fun q hq => (h q hq).2,
    deferred_none 9 0 true fun q hq => by rw [(h q hq).1]; rfl,
    deferred_none 11 o.refusedBy false fun q hq => by unfold Req.wasRefused; rw [(h q hq).1]]
  rfl

section
variable {s : State} {p : Option Pre} {c bf : Bool} {g : BitVec 2} {d a b : RegNo}

/-- Without a side list every element comes from the planes. -/
theorem vdqcvt_planes (hvc : (preOf p).vc = 0)
    (hflags : (deqFlags bf (s.mode p) (s.gaitElementAt (gaitBits g.toNat) a)).trapsUnder s.seen.status = false) :
    s.Does (.vdqcvt p c g bf d a b) fun u => s.Dequantised u bf (s.mode p) d (s.gaitElementAt (gaitBits g.toNat) a) := by
  have hq : (preOf p).vc.toNat = 0 := congrArg BitVec.toNat hvc
  refine does_of _ rfl ?_
  cases p with
  | none =>
    dsimp only
    rw [if_pos rfl, dequantised_eq (fun _ => rfl) (fun _ => rfl) hflags]
    exact putAll_dequantised bf _ d _
  | some y =>
    dsimp -zeta only
    extract_lets n q marked
    rw [if_pos (show q = 0 from hq), dequantised_eq (fun _ => rfl) (fun _ => rfl) hflags]
    exact putAll_dequantised bf _ d _

/-- With a side list the marked elements come from what has been read, and the address goes on past the list. -/
theorem vdqcvt_sideList {marked : List Nat} {w : State} {o : MemOp} (hvc : (preOf p).vc ≠ 0)
    (hmarked : marked = positions 32 (bitOn (s.rm (preOf p).vc.toNat)))
    (htrap : s.sideListTrap (s.rs b).toNat marked.length false = none) (hbusy : s.pathBusy = false) (hsad : s.grp.saddled = false)
    (hsets : ∀ q ∈ s.localPlaces 2 (s.rs b).toNat 2 marked.length, granulesOf s.asets 2 q.off 2 = [])
    (hread : s.readNow { s.newOp .load (.vec d false) 2 0 false with
      reqs := (s.localPlaces 2 (s.rs b).toNat 2 marked.length).map fun q => reqAt q 2 0 0 } = (true, w, o))
    (hreqs : ∀ q ∈ o.reqs, q.status = .performed ∧ q.poison = false)
    (hflags : (deqFlags bf (w.mode p) (w.sideElement (gaitBits g.toNat) a marked o)).trapsUnder w.seen.status = false) :
    s.Does (.vdqcvt p c g bf d a b) fun u => (w.withScalar b (s.rs b + BitVec.ofNat 64 (2 * marked.length))).Dequantised u bf
      (w.mode p) d (w.sideElement (gaitBits g.toNat) a marked o) := by
  have hq : (preOf p).vc.toNat ≠ 0 := fun h => hvc (BitVec.eq_of_toNat_eq h)
  refine does_of _ rfl ?_
  cases p with
  | none => exact absurd rfl hq
  | some y =>
    dsimp -zeta only
    extract_lets n q marks off
    have hmarks : marks = marked := (if_neg hq).trans hmarked.symm
    clear_value marks
    subst hmarks
    rw [if_neg (show q ≠ 0 from hq), show s.sideListTrap off marks.length false = none from htrap]
    dsimp -zeta only
    rw [whenPathFree_of_free _ hbusy]
    extract_lets ps
    rw [withSaddles_untouched (ps := ps) _ hsad hsets]
    extract_lets _ op entry value good held
    have hop : s.readNow op = (true, w, o) := hread
    have hentry : ∀ i x, entry i = some x → x ∈ o.reqs := fun i x hx => by
      dsimp only [entry] at hx
      rw [hop] at hx
      split at hx
      · exact List.mem_of_find?_eq_some hx
      · cases hx
    have hvalue : ∀ i, value i = w.sideElement (gaitBits g.toNat) a marks o i := fun i => by
      dsimp only [value, entry]
      rw [hop]
      unfold State.sideElement
      cases (List.range marks.length).find? fun k => listAt marks k 32 == i <;> rfl
    have hgood : ∀ i, good i = true := fun i => by
      dsimp only [good]
      split
      · next x hx => simp [hreqs x (hentry i x hx)]
      · rfl
    have hheld : held = [] := by
      dsimp only [held]
      rw [hop]
      refine faults_nil fun q hq => ?_
      obtain ⟨x, hx, rfl⟩ := List.mem_map.mp hq
      exact hreqs x hx
    rw [hop]
    dsimp only
    rw [if_neg (by decide), dequantised_eq hvalue hgood hflags, hheld, hold_nil, putAll_ws, ws_withScalar, sideList_end]
    exact putAll_dequantised bf _ d _

end

/-- Settles O26: what each conversion writes, and for a side list what it sends or has read. -/
theorem gaitConversions : Obligations.GaitConversions := by
  rintro s p c bf g d a b n mode thr o0 o1 l0 l1 b0 b1 ps plane fl rfl rfl rfl h0 h1 rfl rfl hfl
  refine ⟨fun hnil => does_of _ rfl ?_, fun heven hrange hbusy hsad hside hps hsets => does_of _ rfl ?_,
    vdqcvt_planes, fun marked w o val hvc hmarked htrap hbusy hsad hps hsets hread hreqs hval hflags => ?_⟩
  · dsimp only
    rw [← h0, ← h1]
    dsimp only
    rw [hnil, List.length_nil, sideListTrap_nil]
    dsimp only
    rw [if_pos (by rfl), withFlags_untrapped _ hfl, putLanes_allOnes, sideList_end]
    have hend : s.rs b + BitVec.ofNat 64 (2 * 0) = s.rs b := BitVec.add_zero _
    rw [hend]
    exact putGait_quantised s p d b (s.rs b) _ _ _
  · subst hps
    dsimp only
    rw [← h0, ← h1]
    dsimp only
    rw [sideListTrap_of_checks heven hrange]
    dsimp only
    rw [if_neg (by simpa using hside), whenPathFree_of_free _ hbusy, withSaddles_untouched _ hsad hsets, withFlags_untrapped _ hfl,
      putLanes_allOnes, sideList_end]
    exact ⟨_, putGait_quantised s p d b _ _ _ _,
      sideList_stored ((onRegisters_flags _).comp (onRegisters_putGait (preQ p) d b _ _ _))⟩
  · subst hps hval
    exact vdqcvt_sideList hvc hmarked htrap hbusy hsad hsets hread hreqs hflags

end Sys2Proof.Laws

end

section
/-! # Products of the matrix engine (O41) -/

namespace Sys2Proof.Laws

open Sys2Proof Sys2Proof.Machine

/-! ## Fields -/

/-- A bit of a field. -/
theorem testBit_fld {n : Nat} (x : BitVec n) (lo w i : Nat) :
    (fld x lo w).testBit i = (decide (i < w) && x.toNat.testBit (lo + i)) := by
  unfold fld
  rw [Nat.testBit_mod_two_pow, Nat.testBit_div_two_pow, Nat.add_comm]

/-- A bit after a field has been replaced. -/
theorem testBit_setFld {n lo w : Nat} (x : BitVec n) (v i : Nat) (h : lo + w ≤ n) :
    (setFld x lo w v).toNat.testBit i = if lo ≤ i ∧ i < lo + w then v.testBit (i - lo) else x.toNat.testBit i := by
  have hlow : x.toNat % 2 ^ lo < 2 ^ lo := Nat.mod_lt _ (by positivity)
  have hmid (y : Nat) : y % 2 ^ w < 2 ^ w := Nat.mod_lt _ (by positivity)
  have hx : x.toNat = 2 ^ lo * (2 ^ w * (x.toNat / 2 ^ lo / 2 ^ w) + fld x lo w) + x.toNat % 2 ^ lo := by
    unfold fld
    rw [Nat.div_add_mod, Nat.div_add_mod]
  have hnew : (setFld x lo w v).toNat = 2 ^ lo * (2 ^ w * (x.toNat / 2 ^ lo / 2 ^ w) + v % 2 ^ w) + x.toNat % 2 ^ lo := by
    have hsub : x.toNat - fld x lo w * 2 ^ lo + v % 2 ^ w * 2 ^ lo =
        2 ^ lo * (2 ^ w * (x.toNat / 2 ^ lo / 2 ^ w) + v % 2 ^ w) + x.toNat % 2 ^ lo := by
      rw [Nat.mul_add, Nat.mul_comm (2 ^ lo) (v % 2 ^ w)]
      rw [Nat.mul_add, Nat.mul_comm (2 ^ lo) (fld x lo w)] at hx
      omega
    unfold setFld
    rw [BitVec.toNat_ofNat, hsub]
    refine Nat.mod_eq_of_lt ?_
    have hhigh : x.toNat / 2 ^ lo / 2 ^ w < 2 ^ (n - (lo + w)) := by
      rw [Nat.div_div_eq_div_mul, ← Nat.pow_add]
      refine Nat.div_lt_of_lt_mul ?_
      rw [← Nat.pow_add, Nat.add_sub_cancel' h]
      exact x.isLt
    calc _ < 2 ^ lo * (2 ^ w * (x.toNat / 2 ^ lo / 2 ^ w) + v % 2 ^ w) + 2 ^ lo := by omega
      _ = 2 ^ lo * (2 ^ w * (x.toNat / 2 ^ lo / 2 ^ w) + (v % 2 ^ w + 1)) := by ring
      _ ≤ 2 ^ lo * (2 ^ w * (x.toNat / 2 ^ lo / 2 ^ w) + 2 ^ w) := Nat.mul_le_mul_left _ (by have := hmid v; omega)
      _ = 2 ^ (lo + w) * (x.toNat / 2 ^ lo / 2 ^ w + 1) := by ring
      _ ≤ 2 ^ (lo + w) * 2 ^ (n - (lo + w)) := Nat.mul_le_mul_left _ hhigh
      _ = 2 ^ n := by rw [← Nat.pow_add, Nat.add_sub_cancel' h]
  rw [hnew, Nat.testBit_two_pow_mul_add _ hlow, Nat.testBit_two_pow_mul_add _ (hmid v)]
  by_cases hlo : i < lo
  · rw [if_pos hlo, if_neg (by omega), Nat.testBit_mod_two_pow]
    simp [hlo]
  · rw [if_neg hlo]
    by_cases hw : i - lo < w
    · rw [if_pos hw, if_pos (by omega), Nat.testBit_mod_two_pow]
      simp [hw]
    · rw [if_neg hw, if_neg (by omega), Nat.testBit_div_two_pow, Nat.testBit_div_two_pow]
      congr 1
      omega

theorem fld_setFld_same {n lo w : Nat} (x : BitVec n) (v : Nat) (h : lo + w ≤ n) : fld (setFld x lo w v) lo w = v % 2 ^ w := by
  refine Nat.eq_of_testBit_eq fun i => ?_
  rw [testBit_fld, testBit_setFld x v _ h, Nat.testBit_mod_two_pow]
  by_cases hi : i < w
  · rw [if_pos ⟨by omega, by omega⟩, Nat.add_sub_cancel_left]
  · simp [hi]

theorem fld_setFld_other {n lo w lo' w' : Nat} (x : BitVec n) (v : Nat) (h : lo + w ≤ n) (hd : lo' + w' ≤ lo ∨ lo + w ≤ lo') :
    fld (setFld x lo w v) lo' w' = fld x lo' w' := by
  refine Nat.eq_of_testBit_eq fun i => ?_
  rw [testBit_fld, testBit_fld, testBit_setFld x v _ h]
  by_cases hi : i < w'
  · rw [if_neg (by omega)]
  · simp [hi]

/-! ## Elements of an accumulator (Table 10.2, R298) -/

theorem kind_bits (k : Nat) : 8 * kindSize k * (kindRows k * kindCols k) = 131072 := by
  rcases k with _ | _ | _ | _ | _ | k <;> simp [kindSize, kindRows, kindCols]

/-- An element lies within the accumulator. -/
theorem elem_fits {k i j : Nat} (hi : i < kindRows k) (hj : j < kindCols k) :
    8 * kindSize k * (i * kindCols k + j) + 8 * kindSize k ≤ 131072 := by
  have hle : i * kindCols k + j + 1 ≤ kindRows k * kindCols k :=
    calc _ ≤ (i + 1) * kindCols k := by rw [Nat.add_mul]; omega
      _ ≤ _ := Nat.mul_le_mul_right _ hi
  calc _ = 8 * kindSize k * (i * kindCols k + j + 1) := by ring
    _ ≤ 8 * kindSize k * (kindRows k * kindCols k) := Nat.mul_le_mul_left _ hle
    _ = _ := kind_bits k

theorem accGet_accPut_same {k i j : Nat} (d : BitVec 131072) (x : Nat) (hi : i < kindRows k) (hj : j < kindCols k) :
    accGet (accPut d k i j x) k i j = x % 2 ^ (8 * kindSize k) := fld_setFld_same d x (elem_fits hi hj)

theorem accGet_accPut_other {k i j i' j' : Nat} (d : BitVec 131072) (x : Nat) (hi : i < kindRows k) (hj : j < kindCols k)
    (hj' : j' < kindCols k) (h : ¬(i = i' ∧ j = j')) : accGet (accPut d k i j x) k i' j' = accGet d k i' j' := by
  refine fld_setFld_other d x (elem_fits hi hj) ?_
  have hne : i * kindCols k + j ≠ i' * kindCols k + j' := fun he => by
    have hdiv := congrArg (· / kindCols k) he
    have hmod := congrArg (· % kindCols k) he
    simp only [Nat.mul_add_mod_self_right, Nat.mod_eq_of_lt hj, Nat.mod_eq_of_lt hj'] at hmod
    subst hmod
    exact h ⟨Nat.eq_of_mul_eq_mul_right (by omega) (Nat.add_right_cancel he), rfl⟩
  rcases Nat.lt_or_gt_of_ne hne with hlt | hlt
  · exact .inr (by rw [← Nat.mul_succ]; exact Nat.mul_le_mul_left _ hlt)
  · exact .inl (by rw [← Nat.mul_succ]; exact Nat.mul_le_mul_left _ hlt)

/-- An element after elements have been written one by one: the written value, when all writes of it agree. -/
theorem accGet_foldl_accPut {k i j v : Nat} {l : List Nat} {r c x : Nat → Nat} (d : BitVec 131072) (hi : i < kindRows k)
    (hj : j < kindCols k) (hin : ∀ e ∈ l, r e < kindRows k ∧ c e < kindCols k) (hv : ∀ e ∈ l, r e = i → c e = j → x e = v) :
    accGet (l.foldl (fun d e => accPut d k (r e) (c e) (x e)) d) k i j =
      if ∃ e ∈ l, r e = i ∧ c e = j then v % 2 ^ (8 * kindSize k) else accGet d k i j := by
  induction l generalizing d with
  | nil => simp
  | cons e l ih =>
    obtain ⟨⟨hr, hc⟩, hin⟩ := List.forall_mem_cons.mp hin
    obtain ⟨hve, hv⟩ := List.forall_mem_cons.mp hv
    rw [List.foldl_cons, ih _ hin hv]
    by_cases hl : ∃ e ∈ l, r e = i ∧ c e = j
    · obtain ⟨e', he', hat⟩ := hl
      rw [if_pos ⟨e', he', hat⟩, if_pos ⟨e', List.mem_cons_of_mem _ he', hat⟩]
    · rw [if_neg hl]
      by_cases he : r e = i ∧ c e = j
      · obtain ⟨rfl, rfl⟩ := he
        rw [if_pos ⟨e, List.mem_cons_self, rfl, rfl⟩, accGet_accPut_same _ _ hi hj, hve rfl rfl]
      · rw [if_neg (by simpa [he] using hl), accGet_accPut_other _ _ hr hc hj he]

/-- An element after the elements of a window have been written row by row. -/
theorem accGet_window {k m n ci cj i j : Nat} (el : Nat → Nat → Nat) (d : BitVec 131072) (hm : ci + m ≤ kindRows k)
    (hn : cj + n ≤ kindCols k) (hi : i < kindRows k) (hj : j < kindCols k) :
    accGet ((List.range (m * n)).foldl (fun d e => accPut d k (ci + e / n) (cj + e % n) (el (e / n) (e % n))) d) k i j =
      if ci ≤ i ∧ i < ci + m ∧ cj ≤ j ∧ j < cj + n then el (i - ci) (j - cj) % 2 ^ (8 * kindSize k) else accGet d k i j := by
  have hlt : ∀ e ∈ List.range (m * n), e / n < m ∧ e % n < n := fun e he => by
    have he := List.mem_range.mp he
    have hn0 : 0 < n := Nat.pos_of_ne_zero fun h => by subst h; omega
    exact ⟨Nat.div_lt_of_lt_mul (by rwa [Nat.mul_comm]), Nat.mod_lt _ hn0⟩
  rw [accGet_foldl_accPut (v := el (i - ci) (j - cj)) d hi hj (fun e he => (hlt e he).imp (fun h => (Nat.add_lt_add_left h ci).trans_le hm)
      fun h => (Nat.add_lt_add_left h cj).trans_le hn)
    (fun e _ hr hc => by rw [← hr, ← hc, Nat.add_sub_cancel_left, Nat.add_sub_cancel_left])]
  refine if_congr ⟨fun ⟨e, he, hr, hc⟩ => ?_, fun ⟨h1, h2, h3, h4⟩ => ⟨(i - ci) * n + (j - cj), ?_, ?_, ?_⟩⟩ rfl rfl
  · obtain ⟨hq, hr'⟩ := hlt e he
    subst hr hc
    exact ⟨Nat.le_add_right _ _, Nat.add_lt_add_left hq _, Nat.le_add_right _ _, Nat.add_lt_add_left hr' _⟩
  · rw [List.mem_range]
    calc _ < (i - ci) * n + n := by omega
      _ = (i - ci + 1) * n := by ring
      _ ≤ m * n := Nat.mul_le_mul_right _ (by omega)
  · rw [Nat.mul_comm, Nat.mul_add_div (by omega), Nat.div_eq_of_lt (by omega)]
    omega
  · rw [Nat.mul_add_mod_self_right, Nat.mod_eq_of_lt (by omega)]
    omega

/-! ## Sums over lists -/

theorem foldl_add_range (n : Nat) (f : Nat → Nat) :
    ((List.range n).map f).foldl (fun x y => x + y) 0 = ∑ j ∈ Finset.range n, f j :=
  (List.sum_eq_foldl).symm.trans rfl

/-- A digit of a number written in base 2^w. -/
theorem digit_of_sum {w : Nat} {f : Nat → Nat} (hf : ∀ j, f j < 2 ^ w) (c : Nat) :
    (∑ j ∈ Finset.range c, f j * 2 ^ (w * j)) < 2 ^ (w * c) ∧
      ∀ i < c, (∑ j ∈ Finset.range c, f j * 2 ^ (w * j)) / 2 ^ (w * i) % 2 ^ w = f i := by
  induction c with
  | zero => simp
  | succ c ih =>
    obtain ⟨hlt, hdigit⟩ := ih
    rw [Finset.sum_range_succ]
    refine ⟨?_, fun i hi => ?_⟩
    · calc _ < 2 ^ (w * c) + f c * 2 ^ (w * c) := by omega
        _ = (f c + 1) * 2 ^ (w * c) := by ring
        _ ≤ 2 ^ w * 2 ^ (w * c) := Nat.mul_le_mul_right _ (hf c)
        _ = _ := by rw [← Nat.pow_add]; ring_nf
    · rcases Nat.lt_succ_iff_lt_or_eq.mp hi with hi | rfl
      · rw [← hdigit i hi]
        have hpow : 2 ^ (w * c) = 2 ^ (w * i) * (2 ^ w * 2 ^ (w * (c - i - 1))) := by
          rw [← Nat.pow_add, ← Nat.pow_add]
          congr 1
          obtain ⟨t, rfl⟩ := Nat.exists_eq_add_of_lt hi
          rw [show i + t + 1 - i - 1 = t by omega]
          ring
        rw [hpow, Nat.mul_left_comm, Nat.add_mul_div_left _ _ (by positivity), Nat.mul_left_comm, Nat.add_mul_mod_self_left]
      · rw [Nat.add_mul_div_right _ _ (by positivity), Nat.div_eq_of_lt hlt, Nat.zero_add, Nat.mod_eq_of_lt (hf i)]

/-! ## Products of limb lists (R271, R272) -/

/-- The number of a limb list is the sum of its limbs' values; positions beyond its end add nothing. -/
theorem limbsValue_eq_sum {b : List Word} {n : Nat} (h : b.length ≤ n) :
    limbsValue b = ∑ j ∈ Finset.range n, (listAt b j 0).toNat * 2 ^ (32 * j) := by
  induction b generalizing n with
  | nil => simp [limbsValue, listAt]
  | cons x b ih =>
    obtain ⟨n, rfl⟩ : ∃ t, n = t + 1 := ⟨n - 1, by simp at h; omega⟩
    have hrest : limbsValue (x :: b) = x.toNat + 2 ^ 32 * limbsValue b := rfl
    rw [hrest, ih (by simpa using h), Finset.sum_range_succ', Finset.mul_sum]
    refine (Nat.add_comm _ _).trans (congrArg₂ _ (Finset.sum_congr rfl fun j _ => ?_) (by simp [listAt]))
    show _ = (listAt b j 0).toNat * _
    rw [Nat.mul_add, Nat.pow_add]
    ring

theorem columnSum_eq_sum (a b : List Word) (j : Nat) : columnSum a b j =
    ∑ i ∈ Finset.range a.length, if i ≤ j then (listAt a i 0).toNat * (listAt b (j - i) 0).toNat else 0 :=
  foldl_add_range _ _

theorem columnSum_cons (x : Word) (a b : List Word) (j : Nat) :
    columnSum (x :: a) b j = x.toNat * (listAt b j 0).toNat + if j = 0 then 0 else columnSum a b (j - 1) := by
  rw [columnSum_eq_sum, List.length_cons, Finset.sum_range_succ', Nat.add_comm]
  congr 1
  cases j with
  | zero => simp
  | succ j => simp [columnSum_eq_sum, listAt]

/-- The columns of a product, each with its weight, add up to the product of the numbers. -/
theorem columns_sum {a b : List Word} {c : Nat} (h : a.length + b.length ≤ c + 1) :
    ∑ j ∈ Finset.range c, columnSum a b j * 2 ^ (32 * j) = limbsValue a * limbsValue b := by
  induction a generalizing c with
  | nil => simp [columnSum, limbsValue]
  | cons x a ih =>
    rw [List.length_cons] at h
    have hvalue : limbsValue (x :: a) = x.toNat + 2 ^ 32 * limbsValue a := rfl
    have hfirst : ∑ j ∈ Finset.range c, x.toNat * (listAt b j 0).toNat * 2 ^ (32 * j) = x.toNat * limbsValue b := by
      rw [limbsValue_eq_sum (b := b) (n := c) (by omega), Finset.mul_sum]
      exact Finset.sum_congr rfl fun j _ => Nat.mul_assoc _ _ _
    have hrest : ∑ j ∈ Finset.range c, (if j = 0 then 0 else columnSum a b (j - 1)) * 2 ^ (32 * j) =
        2 ^ 32 * (limbsValue a * limbsValue b) := by
      cases c with
      | zero =>
        obtain rfl : b = [] := List.length_eq_zero_iff.mp (by omega)
        simp [limbsValue]
      | succ c =>
        rw [Finset.sum_range_succ', ← ih (c := c) (by omega), Finset.mul_sum, if_pos rfl, Nat.zero_mul, Nat.add_zero]
        refine Finset.sum_congr rfl fun j _ => ?_
        rw [if_neg (Nat.succ_ne_zero j), Nat.add_sub_cancel]
        ring
    calc _ = ∑ j ∈ Finset.range c, (x.toNat * (listAt b j 0).toNat * 2 ^ (32 * j) +
          (if j = 0 then 0 else columnSum a b (j - 1)) * 2 ^ (32 * j)) :=
        Finset.sum_congr rfl fun j _ => by rw [columnSum_cons, Nat.add_mul]
      _ = x.toNat * limbsValue b + 2 ^ 32 * (limbsValue a * limbsValue b) := by rw [Finset.sum_add_distrib, hfirst, hrest]
      _ = _ := by rw [hvalue]; ring

/-- A column stays below its 128 bits. -/
theorem columnSum_lt {a : List Word} (b : List Word) (j : Nat) (h : a.length ≤ 1025) : columnSum a b j < 2 ^ 128 := by
  rw [columnSum_eq_sum]
  refine (Finset.sum_le_card_nsmul _ _ (2 ^ 32 * 2 ^ 32) fun i _ => ?_).trans_lt ?_
  · split
    · exact Nat.mul_le_mul (listAt a i 0).isLt.le (listAt b (j - i) 0).isLt.le
    · exact Nat.zero_le _
  · rw [Finset.card_range, smul_eq_mul]
    omega

/-- The columns that a product occupies. -/
def productColumns (a b : List Word) : Nat := if a.isEmpty || b.isEmpty then 0 else a.length + b.length - 1

theorem productColumns_le {a b : List Word} (h : a.length + b.length ≤ 1025) : productColumns a b ≤ 1024 := by
  unfold productColumns
  split <;> omega

theorem productColumns_sum (a b : List Word) :
    ∑ j ∈ Finset.range (productColumns a b), columnSum a b j * 2 ^ (32 * j) = limbsValue a * limbsValue b := by
  unfold productColumns
  split
  · next h =>
    rcases Bool.or_eq_true _ _ ▸ h with h | h <;> simp [List.isEmpty_iff.mp h, limbsValue]
  · exact columns_sum (by omega)

/-- The accumulator that `bmult` leaves holds the columns of the product side by side. -/
theorem fld_productAcc {a b : List Word} {j : Nat} (sign : Bool) (h : a.length + b.length ≤ 1025) (hj : j < productColumns a b) :
    fld (productAcc a b sign).data (128 * j) 128 = columnSum a b j := by
  obtain ⟨hlt, hdigit⟩ := digit_of_sum (w := 128) (f := columnSum a b) (fun j => columnSum_lt b j (by omega)) (productColumns a b)
  have hbits : 128 * productColumns a b ≤ 131072 := Nat.mul_le_mul_left 128 (productColumns_le h)
  have hdata : (productAcc a b sign).data.toNat = ∑ j ∈ Finset.range (productColumns a b), columnSum a b j * 2 ^ (128 * j) := by
    refine (BitVec.toNat_ofNat _ _).trans ?_
    rw [foldl_add_range]
    exact Nat.mod_eq_of_lt (hlt.trans_le (Nat.pow_le_pow_right Nat.two_pos hbits))
  unfold fld
  rw [hdata, hdigit j hj]

theorem resolved_productAcc {a b : List Word} (sign : Bool) (h : a.length + b.length ≤ 1025) :
    (productAcc a b sign).resolved = signed sign (limbsValue a * limbsValue b) := by
  have hcount : (productAcc a b sign).count.toNat = productColumns a b := by
    exact (BitVec.toNat_ofNat (productColumns a b) 11).trans (Nat.mod_eq_of_lt ((productColumns_le h).trans_lt (by decide)))
  unfold Acc.resolved
  rw [hcount, foldl_add_range, ← productColumns_sum]
  refine congrArg (signed sign) (Finset.sum_congr rfl fun j hj => ?_)
  rw [fld_productAcc sign h (Finset.mem_range.mp hj)]

theorem signed_eq (neg : Bool) (m : Nat) : signed neg m = (if neg then -1 else 1) * (m : Int) := by
  cases neg <;> simp [signed]

/-! ## Integer and residue elements (R301) -/

/-- What an integer `mma` writes into an element of its window. -/
def intElem (s : MmaSpec) (a : Acc) (row col : Nat → List Elem) (i j : Nat) : Nat :=
  wrapTo 128 ((if s.init then 0 else accGet a.data 2 (s.ci + i) (s.cj + j) : Nat) +
    (((row i).zip (col j)).map fun p => p.1.toI * p.2.toI).foldl (fun x y => x + y) 0)

/-- What a residue `mma` writes into an element of its window. -/
def residueElem (s : MmaSpec) (a : Acc) (row col : Nat → List Elem) (i j : Nat) : Nat :=
  ((if s.init then 0 else accGet a.data 3 (s.ci + i) (s.cj + j)) +
    (((row i).zip (col j)).map fun p => p.1.toI.toNat % s.q * (p.2.toI.toNat % s.q)).foldl (fun x y => x + y) 0) % s.q

section
variable {s : MmaSpec} {a : Acc} {row col : Nat → List Elem} {i j : Nat}

theorem mmaDo_int (h : s.kind = 2) : (mmaDo s a row col).acc.data = (List.range (s.m * s.n)).foldl (fun d e =>
    accPut d 2 (s.ci + e / s.n) (s.cj + e % s.n) (intElem s a row col (e / s.n) (e % s.n))) a.data := by
  cases s
  subst h
  rfl

theorem mmaDo_residue (h : s.kind = 3) : (mmaDo s a row col).acc.data = (List.range (s.m * s.n)).foldl (fun d e =>
    accPut d 3 (s.ci + e / s.n) (s.cj + e % s.n) (residueElem s a row col (e / s.n) (e % s.n))) a.data := by
  cases s
  subst h
  rfl

theorem intElem_eq (hi : s.ci ≤ i) (hj : s.cj ≤ j) : intElem s a row col (i - s.ci) (j - s.cj) =
    wrapTo 128 ((if s.init then 0 else (accGet a.data 2 i j : Int)) +
      (((row (i - s.ci)).zip (col (j - s.cj))).map fun p => p.1.toI * p.2.toI).sum) := by
  unfold intElem
  rw [Nat.add_sub_cancel' hi, Nat.add_sub_cancel' hj, List.sum_eq_foldl, Nat.cast_ite, Nat.cast_zero]

/-- Reducing each factor first does not change a sum of products modulo q. -/
theorem sum_products_mod {α : Type} (q c : Nat) (x y : α → Nat) (l : List α) :
    (c + (l.map fun e => x e % q * (y e % q)).sum) % q = (c + (l.map fun e => x e * y e).sum) % q := by
  have hsum : (l.map fun e => x e % q * (y e % q)).sum ≡ (l.map fun e => x e * y e).sum [MOD q] := by
    induction l with
    | nil => rfl
    | cons e l ih =>
      rw [List.map_cons, List.map_cons, List.sum_cons, List.sum_cons]
      exact ((Nat.mod_modEq _ _).mul (Nat.mod_modEq _ _)).add ih
  exact hsum.add_left c

theorem residueElem_eq (hi : s.ci ≤ i) (hj : s.cj ≤ j) : residueElem s a row col (i - s.ci) (j - s.cj) =
    ((if s.init then 0 else accGet a.data 3 i j) +
      (((row (i - s.ci)).zip (col (j - s.cj))).map fun p => p.1.toI.toNat * p.2.toI.toNat).sum) % s.q := by
  unfold residueElem
  rw [Nat.add_sub_cancel' hi, Nat.add_sub_cancel' hj, ← List.sum_eq_foldl]
  exact sum_products_mod _ _ _ _ _

theorem wrapTo_lt (n : Nat) (x : Int) : wrapTo n x < 2 ^ n := by
  unfold wrapTo
  have hpos : (0 : Int) < ((2 ^ n : Nat) : Int) := by positivity
  have := Int.emod_nonneg x hpos.ne'
  have := Int.emod_lt_of_pos x hpos
  omega

end

/-- Settles O41: an element of a window is the last one written there, and a product's columns add up to the product. -/
theorem matrixProducts : Obligations.MatrixProducts := by
  refine fun a sp row col i j xs ys neg => ⟨fun hk hm hn hi hj => ?_, fun hk hm hn hi hj hq hle => ?_, fun h => ?_⟩
  · rw [mmaDo_int hk, accGet_window _ _ hm hn hi hj]
    refine if_ctx_congr Iff.rfl (fun ⟨h1, _, h3, _⟩ => ?_) fun _ => rfl
    rw [intElem_eq h1 h3]
    exact Nat.mod_eq_of_lt (wrapTo_lt 128 _)
  · rw [mmaDo_residue hk, accGet_window _ _ hm hn hi hj]
    refine if_ctx_congr Iff.rfl (fun ⟨h1, _, h3, _⟩ => ?_) fun _ => rfl
    rw [residueElem_eq h1 h3]
    exact Nat.mod_eq_of_lt ((Nat.mod_lt _ hq).trans_le hle)
  · rw [resolved_productAcc neg h, signed_eq]

end Sys2Proof.Laws

end

section
/-! # The instructions of class 0 (O13) -/

namespace Sys2Proof.Laws

open Sys2Proof Sys2Proof.Machine

/-! ## Integer results as operations on bit vectors, at every width (Table 8.4) -/

/-- The integer G n gives of two unsigned words of n bits is `op` of the words, mod 2^n. -/
def UnsignedOp (G : Nat → Nat → Nat → Int) (op : ∀ n, BitVec n → BitVec n → BitVec n) : Prop :=
  ∀ (n : Nat) (x y : BitVec n), BitVec.ofInt n (G n x.toNat y.toNat) = op n x y

/-- The same of two signed words. -/
def SignedOp (G : Nat → Int → Int → Int) (op : ∀ n, BitVec n → BitVec n → BitVec n) : Prop :=
  ∀ (n : Nat) (x y : BitVec n), BitVec.ofInt n (G n x.toInt y.toInt) = op n x y

theorem ofInt_toNat {n : Nat} (z : BitVec n) : BitVec.ofInt n (z.toNat : Int) = z := by simp

theorem toNat_eq_zero_iff {n : Nat} {y : BitVec n} : y.toNat = 0 ↔ y = 0 := by simp [← BitVec.toNat_inj]

theorem toInt_eq_zero_iff {n : Nat} {y : BitVec n} : y.toInt = 0 ↔ y = 0 := by simp [← BitVec.toInt_inj]

theorem toInt_beq {n : Nat} (x y : BitVec n) : (x.toInt == y.toInt) = (x == y) := by
  rw [Bool.eq_iff_iff, beq_iff_eq, beq_iff_eq, BitVec.toInt_inj]

theorem unsignedOp_add : UnsignedOp (fun _ x y => (x + y : Nat)) fun _ x y => x + y := fun n x y => by
  rw [BitVec.ofInt_natCast, BitVec.ofNat_add, BitVec.ofNat_toNat, BitVec.ofNat_toNat, BitVec.setWidth_eq, BitVec.setWidth_eq]

theorem unsignedOp_sub : UnsignedOp (fun _ x y => (x : Int) - y) fun _ x y => x - y := fun n x y => by
  dsimp only
  rw [Int.sub_eq_add_neg, BitVec.ofInt_add, BitVec.ofInt_neg, ofInt_toNat, ofInt_toNat, BitVec.sub_eq_add_neg]

theorem unsignedOp_mul : UnsignedOp (fun _ x y => (x * y : Nat)) fun _ x y => x * y := fun n x y => by
  rw [BitVec.ofInt_natCast, BitVec.ofNat_mul, BitVec.ofNat_toNat, BitVec.ofNat_toNat, BitVec.setWidth_eq, BitVec.setWidth_eq]

theorem signedOp_mulHigh : SignedOp (fun n x y => x * y / ((2 ^ n : Nat) : Int))
    fun n x y => BitVec.ofInt n (x.toInt * y.toInt / 2 ^ n) := fun n x y => by
  dsimp only
  rw [Nat.cast_pow]
  rfl

theorem unsignedOp_mulHigh : UnsignedOp (fun n x y => (x * y / 2 ^ n : Nat))
    fun n x y => BitVec.ofNat n (x.toNat * y.toNat / 2 ^ n) := fun _ _ _ => BitVec.ofInt_natCast ..

theorem signedOp_div : SignedOp (fun _ => divS) fun n x y => if y = 0 then BitVec.allOnes n else x.sdiv y := fun n x y => by
  dsimp only [divS]
  by_cases hy : y = 0
  · rw [if_pos hy, if_pos (toInt_eq_zero_iff.mpr hy), BitVec.ofInt_neg]
    exact BitVec.neg_one_eq_allOnes
  · rw [if_neg hy, if_neg (mt toInt_eq_zero_iff.mp hy)]
    apply BitVec.eq_of_toInt_eq
    rw [BitVec.toInt_ofInt, BitVec.toInt_sdiv]

theorem unsignedOp_div : UnsignedOp (fun n x y => ((if y = 0 then 2 ^ n - 1 else x / y : Nat) : Int))
    fun n x y => if y = 0 then BitVec.allOnes n else x / y := fun n x y => by
  dsimp only
  rw [BitVec.ofInt_natCast]
  by_cases hy : y = 0
  · rw [if_pos hy, if_pos (toNat_eq_zero_iff.mpr hy), ← BitVec.toNat_allOnes, BitVec.ofNat_toNat, BitVec.setWidth_eq]
  · rw [if_neg hy, if_neg (mt toNat_eq_zero_iff.mp hy), BitVec.udiv_def]

theorem signedOp_rem : SignedOp (fun _ => remS) fun _ x y => if y = 0 then x else x.srem y := fun n x y => by
  dsimp only [remS]
  by_cases hy : y = 0
  · rw [if_pos hy, if_pos (toInt_eq_zero_iff.mpr hy), BitVec.ofInt_toInt]
  · rw [if_neg hy, if_neg (mt toInt_eq_zero_iff.mp hy), ← BitVec.toInt_srem, BitVec.ofInt_toInt]

theorem unsignedOp_rem : UnsignedOp (fun _ x y => (remU x y : Int)) fun _ x y => x % y := fun n x y => by
  dsimp only [remU]
  by_cases hy : y = 0
  · rw [if_pos (toNat_eq_zero_iff.mpr hy), hy, ofInt_toNat]
    exact BitVec.umod_zero.symm
  · rw [if_neg (mt toNat_eq_zero_iff.mp hy), ← BitVec.toNat_umod, ofInt_toNat]

theorem unsignedOp_and : UnsignedOp (fun _ x y => (Nat.land x y : Int)) fun _ x y => x &&& y :=
  fun _ x y => ofInt_toNat (x &&& y)

theorem unsignedOp_or : UnsignedOp (fun _ x y => (Nat.lor x y : Int)) fun _ x y => x ||| y :=
  fun _ x y => ofInt_toNat (x ||| y)

theorem unsignedOp_xor : UnsignedOp (fun _ x y => (Nat.xor x y : Int)) fun _ x y => x ^^^ y :=
  fun _ x y => ofInt_toNat (x ^^^ y)

theorem unsignedOp_andn : UnsignedOp (fun n x y => (Nat.land x (2 ^ n - 1 - y) : Int)) fun _ x y => x &&& ~~~y :=
  fun n x y => by
    dsimp only
    rw [← BitVec.toNat_not]
    exact ofInt_toNat (x &&& ~~~y)

theorem unsignedOp_shl : UnsignedOp (fun n x y => (x * 2 ^ (y % n) : Nat)) fun n x y => x <<< (y.toNat % n) :=
  fun n x y => by
    rw [BitVec.ofInt_natCast, ← Nat.shiftLeft_eq]
    rfl

theorem unsignedOp_shr : UnsignedOp (fun n x y => (x / 2 ^ (y % n) : Nat)) fun n x y => x >>> (y.toNat % n) :=
  fun n x y => by
    dsimp only
    rw [← Nat.shiftRight_eq_div_pow, ← BitVec.toNat_ushiftRight, ofInt_toNat]

theorem ofInt_sar {n : Nat} (x : BitVec n) (k : Nat) : BitVec.ofInt n (x.toInt / ((2 ^ k : Nat) : Int)) = x.sshiftRight k := by
  rw [← Int.shiftRight_eq_div_pow, ← BitVec.toInt_sshiftRight, BitVec.ofInt_toInt]

/-- The two parts of a rotation do not meet. -/
theorem unsignedOp_rol : UnsignedOp (fun n x y => ((x * 2 ^ (y % n) + x / 2 ^ (n - y % n)) % 2 ^ n : Nat))
    fun n x y => x.rotateLeft (y.toNat % n) := fun n x y => by
  have disjoint : x <<< (y.toNat % n) &&& x >>> (n - y.toNat % n) = 0 := by
    ext i hi
    by_cases h : i < y.toNat % n
    · simp [h]
    · simp [BitVec.getLsbD_of_ge x (n - y.toNat % n + i) (by omega)]
  have hsum : BitVec.ofNat n ((x.toNat <<< (y.toNat % n) + x.toNat >>> (n - y.toNat % n)) % 2 ^ n) =
      BitVec.ofNat n (x.toNat <<< (y.toNat % n)) + BitVec.ofNat n (x.toNat >>> (n - y.toNat % n)) := by
    rw [← BitVec.ofNat_add]
    apply BitVec.eq_of_toNat_eq
    simp
  dsimp only
  rw [BitVec.ofInt_natCast, BitVec.rotateLeft_def, Nat.mod_mod, ← BitVec.add_eq_or_of_and_eq_zero _ _ disjoint,
    ← Nat.shiftLeft_eq, ← Nat.shiftRight_eq_div_pow, hsum, ← BitVec.toNat_ushiftRight, BitVec.ofNat_toNat, BitVec.setWidth_eq]
  rfl

theorem signedOp_min : SignedOp (fun _ x y => if x ≤ y then x else y) fun _ x y => if x.sle y then x else y := fun _ x y => by
  simp only [BitVec.sle_eq_decide, decide_eq_true_eq]
  split <;> exact BitVec.ofInt_toInt

theorem signedOp_max : SignedOp (fun _ x y => if x ≤ y then y else x) fun _ x y => if x.sle y then y else x := fun _ x y => by
  simp only [BitVec.sle_eq_decide, decide_eq_true_eq]
  split <;> exact BitVec.ofInt_toInt

theorem unsignedOp_min : UnsignedOp (fun _ x y => ((if x ≤ y then x else y : Nat) : Int)) fun _ x y => if x.ule y then x else y :=
  fun _ x y => by
    simp only [BitVec.ule_eq_decide, decide_eq_true_eq]
    split <;> exact ofInt_toNat _

theorem unsignedOp_max : UnsignedOp (fun _ x y => ((if x ≤ y then y else x : Nat) : Int)) fun _ x y => if x.ule y then y else x :=
  fun _ x y => by
    simp only [BitVec.ule_eq_decide, decide_eq_true_eq]
    split <;> exact ofInt_toNat _

/-! ## Instructions of two operands -/

section
variable {s : State} {i : Instr} {d a b : RegNo} {G : Nat → Nat → Nat → Int} {H : Nat → Int → Int → Int}
  {op : ∀ n, BitVec n → BitVec n → BitVec n}

theorem sets_alu {F : DWord → DWord → Int} {x : DWord} (e : exec i s = s.issue1 i fun t => t.alu d a b false F)
    (h : BitVec.ofInt 64 (F (s.rs a) (s.rs b)) = x) : s.Sets i d x :=
  sets_of _ e rfl ((narrow_false _).trans h)

theorem sets_alu32 {F : DWord → DWord → Int} {x : Word} (e : exec i s = s.issue1 i fun t => t.alu d a b true F)
    (h : BitVec.ofInt 32 (F (s.rs a) (s.rs b)) = x) : s.Sets i d (x.signExtend 64) :=
  sets_of _ e rfl ((narrow_true _).trans (congrArg _ h))

theorem sets_unsigned {x : DWord} (h : UnsignedOp G op)
    (e : exec i s = s.issue1 i fun t => t.alu d a b false fun x y => G (widthOf false) (ua false x) (ua false y))
    (hx : op 64 (s.rs a) (s.rs b) = x) : s.Sets i d x :=
  sets_alu e (by rw [ua_false, ua_false, ← hx]; exact h 64 _ _)

theorem sets_unsigned32 {x : Word} (h : UnsignedOp G op)
    (e : exec i s = s.issue1 i fun t => t.alu d a b true fun x y => G (widthOf true) (ua true x) (ua true y))
    (hx : op 32 (low32 (s.rs a)) (low32 (s.rs b)) = x) : s.Sets i d (x.signExtend 64) :=
  sets_alu32 e (by rw [ua_true, ua_true, ← hx]; exact h 32 _ _)

theorem sets_signed {x : DWord} (h : SignedOp H op)
    (e : exec i s = s.issue1 i fun t => t.alu d a b false fun x y => H (widthOf false) (sa false x) (sa false y))
    (hx : op 64 (s.rs a) (s.rs b) = x) : s.Sets i d x :=
  sets_alu e (by rw [sa_false, sa_false, ← hx]; exact h 64 _ _)

theorem sets_signed32 {x : Word} (h : SignedOp H op)
    (e : exec i s = s.issue1 i fun t => t.alu d a b true fun x y => H (widthOf true) (sa true x) (sa true y))
    (hx : op 32 (low32 (s.rs a)) (low32 (s.rs b)) = x) : s.Sets i d (x.signExtend 64) :=
  sets_alu32 e (by rw [sa_true, sa_true, ← hx]; exact h 32 _ _)

theorem narrow_truth (w b : Bool) : narrow w (truth b) = asWord b := by cases w <;> cases b <;> rfl

/-- An instruction whose result is a truth value. -/
theorem sets_truth {w r : Bool} {F : DWord → DWord → Bool}
    (e : exec i s = s.issue1 i fun t => t.alu d a b w fun x y => truth (F x y))
    (h : F (s.rs a) (s.rs b) = r) : s.Sets i d (asWord r) :=
  sets_of _ e rfl (by rw [narrow_truth, h])

end

/-! ## Carry, counts and fields -/

/-- A small number at either width. -/
theorem narrow_natCast (w : Bool) {r : Nat} (h : r < 2 ^ 31) : narrow w (r : Int) = BitVec.ofNat 64 r := by
  cases w
  · rw [narrow_false, BitVec.ofInt_natCast]
  · have hsx : sx (wrapTo 32 (r : Int)) 32 = r := by
      unfold sx wrapTo
      dsimp only
      omega
    show BitVec.ofInt 64 (sx (wrapTo 32 (r : Int)) 32) = _
    rw [hsx, BitVec.ofInt_natCast]

theorem widthOf_le (w : Bool) : widthOf w ≤ 64 := by cases w <;> decide

theorem clzOf_spec (n x : Nat) : clzOf n x ≤ n ∧ x % 2 ^ n < 2 ^ (n - clzOf n x) ∧
    (clzOf n x < n → 2 ^ (n - clzOf n x - 1) ≤ x % 2 ^ n) := by
  unfold clzOf
  dsimp only
  have hlt : x % 2 ^ n < 2 ^ n := Nat.mod_lt _ (by positivity)
  generalize x % 2 ^ n = y at hlt
  by_cases hy : y = 0
  · simp [hy]
  · have hlog : Nat.log2 y < n := (Nat.log2_lt hy).mpr hlt
    have hlow : 2 ^ Nat.log2 y ≤ y := Nat.log2_self_le hy
    have hhigh : y < 2 ^ (Nat.log2 y + 1) := Nat.lt_log2_self
    rw [if_neg hy, show n - (n - 1 - Nat.log2 y) = Nat.log2 y + 1 by omega]
    exact ⟨by omega, hhigh, fun _ => hlow⟩

theorem ctzOf_spec (n x : Nat) : ctzOf n x ≤ n ∧ (∀ i, i < ctzOf n x → (x % 2 ^ n).testBit i = false) ∧
    (ctzOf n x < n → (x % 2 ^ n).testBit (ctzOf n x) = true) := by
  unfold ctzOf
  dsimp only
  cases hfind : (List.range n).find? fun i => (x % 2 ^ n).testBit i with
  | none =>
    rw [List.find?_eq_none] at hfind
    exact ⟨le_rfl, fun i hi => by simpa using hfind i (List.mem_range.mpr hi), fun h => absurd h (lt_irrefl n)⟩
  | some k =>
    obtain ⟨hbit, hk, hbefore⟩ := List.find?_range_eq_some.mp hfind
    exact ⟨(List.mem_range.mp hk).le, fun i hi => by simpa only [Bool.not_eq_true'] using hbefore i hi, fun _ => hbit⟩

theorem popcOf_eq (n x : Nat) : popcOf n x = (List.range n).countP fun i => x.testBit i := List.countP_eq_length_filter.symm

/-- The ones below bit n are those of the low n bits. -/
theorem popcOf_mod (n x : Nat) : popcOf n x = (List.range n).countP fun i => (x % 2 ^ n).testBit i := by
  rw [popcOf_eq]
  refine List.countP_congr fun i hi => ?_
  rw [Nat.testBit_mod_two_pow]
  simp [List.mem_range.mp hi]

/-- A count of bits as a result. -/
theorem sets_count {s : State} {i : Instr} {d : RegNo} {w : Bool} {r : Nat} (eff : State → State) (e : exec i s = s.issue1 i eff)
    (e2 : eff s = s.ws d (narrow w r)) (h : r ≤ widthOf w) : s.Sets i d (BitVec.ofNat 64 r) :=
  sets_of _ e e2 (narrow_natCast w (by have := widthOf_le w; omega))
/-- `addc` writes the sum, and CY alone of STATUS. -/
theorem addc_effect {s : State} {c w : Bool} {d a b : RegNo} {n : Nat} (hn : n = if w then 32 else 64)
    (hc : s.clear (.addc c d a b w)) :
    ∃ t r, exec (.addc c d a b w) s = .next t ∧
      r = (s.rs a).toNat % 2 ^ n + (s.rs b).toNat % 2 ^ n + (if bitOn s.seen.status 13 then 1 else 0) ∧
      t = { s.withScalar d (if w then (BitVec.ofNat 32 r).signExtend 64 else BitVec.ofNat 64 r) with
        sp := { (s.withScalar d (if w then (BitVec.ofNat 32 r).signExtend 64 else BitVec.ofNat 64 r)).sp with
          regs := { (s.withScalar d (if w then (BitVec.ofNat 32 r).signExtend 64 else BitVec.ofNat 64 r)).sp.regs with
            status := t.sp.regs.status } } } ∧
      (∀ i, i < 64 → i ≠ 13 → bitOn t.sp.regs.status i = bitOn s.sp.regs.status i) ∧
      bitOn t.sp.regs.status 13 = decide (2 ^ n ≤ r) := by
  subst hn
  have hnarrow : ∀ r : Nat, narrow w (r : Int) = if w then (BitVec.ofNat 32 r).signExtend 64 else BitVec.ofNat 64 r := fun r => by
    cases w
    · exact (narrow_false _).trans (BitVec.ofInt_natCast ..)
    · exact (narrow_true _).trans (congrArg _ (BitVec.ofInt_natCast ..))
  have hset : ∀ (v : Bool) (i : Nat), (setBit s.sp.regs.status 13 v).toNat.testBit i =
      if i = 13 then v else s.sp.regs.status.toNat.testBit i := fun v i => by
    unfold setBit
    rw [testBit_setFld _ _ _ (by decide)]
    by_cases hi : i = 13
    · subst hi
      cases v <;> rfl
    · rw [if_neg (by omega), if_neg hi]
  refine ⟨_, addcSum w (s.rs a) (s.rs b) s.seen.status, issue1_clear _ hc, rfl, ?_, fun i _ hi => ?_, ?_⟩
  · dsimp only
    rw [← hnarrow, ← ws_withScalar]
    rfl
  · exact (hset _ i).trans (if_neg hi)
  · exact (hset _ 13).trans (if_pos rfl)

/-- A bit of a word whose field the bits of another replace. -/
theorem bitOn_bins (x y : DWord) (v : Nat) (i : Nat) : bitOn (setFld x (bitPos y) (bitLen y) v) i =
    if bitPos y ≤ i ∧ i < bitPos y + bitLen y then v.testBit (i - bitPos y) else bitOn x i := by
  have hpos : bitPos y < 2 ^ 6 := Nat.mod_lt _ (by decide)
  exact testBit_setFld x v i (by unfold bitLen; omega)

/-- Settles O13: each effect writes S(sd), at 32 bits the sign-extended result of the low halves; the lemmas above give the
results of Table 8.4 as bit vectors. -/
theorem scalarClassZero : Obligations.ScalarClassZero := by
  refine ⟨?_, ?_, ?_, fun s c d a b w n hn hc => addc_effect hn hc, ?_⟩
  · rintro s c d a b x y u v rfl rfl rfl rfl
    exact ⟨sets_unsigned unsignedOp_add rfl rfl, sets_unsigned32 unsignedOp_add rfl rfl,
      sets_unsigned unsignedOp_sub rfl rfl, sets_unsigned32 unsignedOp_sub rfl rfl,
      sets_unsigned unsignedOp_mul rfl rfl, sets_unsigned32 unsignedOp_mul rfl rfl,
      sets_signed signedOp_mulHigh rfl rfl, sets_signed32 signedOp_mulHigh rfl rfl,
      sets_unsigned unsignedOp_mulHigh rfl rfl, sets_unsigned32 unsignedOp_mulHigh rfl rfl,
      sets_signed signedOp_div rfl rfl, sets_signed32 signedOp_div rfl rfl,
      sets_unsigned unsignedOp_div rfl rfl, sets_unsigned32 unsignedOp_div rfl rfl,
      sets_signed signedOp_rem rfl rfl, sets_signed32 signedOp_rem rfl rfl,
      sets_unsigned unsignedOp_rem rfl rfl, sets_unsigned32 unsignedOp_rem rfl rfl⟩
  · rintro s c d a b x y u v rfl rfl rfl rfl
    refine ⟨sets_unsigned unsignedOp_and rfl rfl, sets_unsigned32 unsignedOp_and rfl rfl,
      sets_unsigned unsignedOp_or rfl rfl, sets_unsigned32 unsignedOp_or rfl rfl,
      sets_unsigned unsignedOp_xor rfl rfl, sets_unsigned32 unsignedOp_xor rfl rfl,
      sets_unsigned unsignedOp_andn rfl rfl, sets_unsigned32 unsignedOp_andn rfl rfl,
      sets_unsigned unsignedOp_shl rfl rfl, sets_unsigned32 unsignedOp_shl rfl rfl,
      sets_unsigned unsignedOp_shr rfl rfl, sets_unsigned32 unsignedOp_shr rfl rfl,
      sets_alu rfl ?_, sets_alu32 rfl ?_,
      sets_unsigned unsignedOp_rol rfl rfl, sets_unsigned32 unsignedOp_rol rfl rfl,
      sets_signed signedOp_min rfl rfl, sets_signed32 signedOp_min rfl rfl,
      sets_signed signedOp_max rfl rfl, sets_signed32 signedOp_max rfl rfl,
      sets_unsigned unsignedOp_min rfl rfl, sets_unsigned32 unsignedOp_min rfl rfl,
      sets_unsigned unsignedOp_max rfl rfl, sets_unsigned32 unsignedOp_max rfl rfl⟩
    · rw [sa_false, ua_false]
      exact ofInt_sar ..
    · rw [sa_true, ua_true]
      exact ofInt_sar ..
  · rintro s c d a b x y u v rfl rfl rfl rfl
    refine ⟨sets_truth rfl ?_, sets_truth rfl ?_, sets_truth rfl ?_, sets_truth rfl ?_, sets_truth rfl ?_, sets_truth rfl ?_,
      sets_truth rfl ?_, sets_truth rfl ?_, sets_truth rfl ?_, sets_truth rfl ?_, sets_truth rfl ?_, sets_truth rfl ?_⟩
    · rw [sa_false, sa_false, toInt_beq]
    · rw [sa_true, sa_true, toInt_beq]
    · rw [sa_false, sa_false, bne, toInt_beq, bne]
    · rw [sa_true, sa_true, bne, toInt_beq, bne]
    · rw [sa_false, sa_false, BitVec.slt]
    · rw [sa_true, sa_true, BitVec.slt]
    · rw [sa_false, sa_false, BitVec.sle]
    · rw [sa_true, sa_true, BitVec.sle]
    · rw [ua_false, ua_false, BitVec.ult]
    · rw [ua_true, ua_true, BitVec.ult]
    · rw [ua_false, ua_false, BitVec.ule]
    · rw [ua_true, ua_true, BitVec.ule]
  · rintro s c d a b w n x p k hn rfl rfl rfl
    obtain rfl : n = widthOf w := hn
    have hclz := clzOf_spec (widthOf w) (s.rs a).toNat
    have hctz := ctzOf_spec (widthOf w) (s.rs a).toNat
    have sets_clz : s.Sets (.clz c d a w) d _ := sets_count _ rfl rfl hclz.1
    have sets_ctz : s.Sets (.ctz c d a w) d _ := sets_count _ rfl rfl hctz.1
    have sets_bins : s.Sets (.bins c d a b) d _ := sets_of _ rfl rfl rfl
    refine ⟨sets_of _ rfl rfl ?_, fun hc => ⟨_, sets_clz hc, hclz⟩, fun hc => ⟨_, sets_ctz hc, hctz⟩, ?_,
      sets_of _ rfl rfl ?_, fun hc => ⟨_, sets_bins hc, fun i _ => ?_⟩, sets_of _ rfl rfl ?_, sets_of _ rfl rfl ?_⟩
    · by_cases h : s.rs d = 0 <;> simp [h]
    · rw [← popcOf_mod]
      exact sets_count _ rfl rfl ((List.length_filter_le ..).trans_eq List.length_range)
    · unfold bitLen bitPos fld
      rw [Nat.pow_zero, Nat.div_one]
      rfl
    · rw [bitOn_bins]
      unfold bitLen bitPos fld
      rw [Nat.pow_zero, Nat.div_one]
      rfl
    · rw [narrow_false, BitVec.ofInt_natCast, BitVec.ofNat_toNat, BitVec.setWidth_eq]
    · rw [narrow_true, BitVec.ofInt_natCast, BitVec.ofNat_toNat]
      rfl

end Sys2Proof.Laws

end

section
/-! # Class 2: vector integers (O15, O16, O17) -/

namespace Sys2Proof.Laws

open Sys2Proof Sys2Proof.Machine

/-! ## The general rule (R240, R241) -/

section
variable {s : State} {i : Instr} {p : Option Pre} {t : BitVec 3} {d a : RegNo} {b : Src} {y : Nat → Nat → Int}

theorem does_elems2 {f : Int → Int → Int} (e : exec i s = s.issue1 i fun q => q.elems2 p t d a b f)
    (h : ∀ j k, f (s.el t (.vec a) j k) (s.el t b j k) = y j k := by intros; rfl) : s.DoesInt i p t d y :=
  does_int _ _ _ e rfl h

theorem does_bits2 {f : Nat → Nat → Int} (e : exec i s = s.issue1 i fun q => q.bits2 p t d a b f)
    (h : ∀ j k, f (s.bits t (.vec a) j k) (s.bits t b j k) = y j k := by intros; rfl) : s.DoesInt i p t d y :=
  does_int _ _ _ e rfl h

theorem does_elems1 {f : Nat → Int} (e : exec i s = s.issue1 i fun q => q.elems1 p t d a f)
    (h : ∀ j k, f (s.bits t (.vec a) j k) = y j k := by intros; rfl) : s.DoesInt i p t d y :=
  does_int _ _ _ e rfl h

end

theorem mulHigh_eq (t : BitVec 3) (x y : Int) : mulHigh t x y = x * y / 2 ^ elemW t := by
  unfold mulHigh
  rw [Nat.cast_pow]
  rfl

theorem sarElem_eq (t : BitVec 3) (x n : Nat) : sarElem t x n =
    if elemW t ≤ n then (if sx x (elemW t) < 0 then -1 else 0) else sx x (elemW t) / 2 ^ n := by
  unfold sarElem
  rw [Nat.cast_pow]
  rfl

/-- The elements of n32 as integers are their bits. -/
theorem mulHigh_unsigned (x y : Nat) : mulHigh 1 (elemInt 1 x) (elemInt 1 y) = (x * y / 2 ^ 32 : Nat) := by
  rw [mulHigh_eq]
  push_cast
  rfl

/-- Settles O15: each instruction writes by `State.elems`, most of them through one of the three operations above; only the
quotients, counts and unsigned readings have to be brought to the form of Table 8.7. -/
theorem vectorIntegers : Obligations.VectorIntegers := by
  refine ⟨?_, ?_, ?_⟩
  · rintro s p c t d a b j A B S M rfl rfl rfl rfl
    exact ⟨does_elems2 rfl, does_elems2 rfl, does_elems2 rfl, does_elems2 rfl, does_elems2 rfl, does_elems2 rfl, does_elems2 rfl,
      does_elems2 rfl, does_elems2 rfl fun _ _ => mulHigh_eq .., does_elems2 rfl fun _ _ => mulHigh_eq ..,
      does_int _ _ _ rfl rfl fun _ _ => rfl, does_elems2 rfl, does_elems2 rfl, does_elems2 rfl, does_elems2 rfl⟩
  · rintro s p c t d a b j W A B S M C rfl rfl rfl rfl rfl rfl
    exact ⟨does_bits2 rfl, does_bits2 rfl, does_bits2 rfl, does_bits2 rfl, does_bits2 rfl, does_bits2 rfl, does_bits2 rfl,
      does_bits2 rfl, does_bits2 rfl, does_bits2 rfl, does_bits2 rfl, does_bits2 rfl, does_bits2 rfl, does_bits2 rfl,
      does_bits2 rfl, does_bits2 rfl fun _ _ => sarElem_eq .., does_bits2 rfl fun _ _ => sarElem_eq ..,
      does_bits2 rfl fun _ _ => sarElem_eq .., does_elems1 rfl fun _ _ => Int.natCast_natAbs _,
      does_elems1 rfl fun _ _ => congrArg _ (popcOf_eq ..), does_elems1 rfl⟩
  · rintro s p c t d a b A B S rfl rfl rfl
    refine ⟨does_elems2 rfl fun _ _ => mulHigh_unsigned .., does_elems2 rfl fun _ _ => mulHigh_unsigned ..,
      does_elems2 rfl fun _ _ => (Nat.cast_min ..).symm, does_elems2 rfl fun _ _ => (Nat.cast_min ..).symm,
      does_elems2 rfl fun _ _ => (Nat.cast_max ..).symm, does_elems2 rfl fun _ _ => (Nat.cast_max ..).symm,
      does_elems1 rfl, does_bits2 rfl, does_int _ _ _ rfl rfl fun _ _ => ?_⟩
    simp only [State.srcVal, beq_iff_eq]
    split <;> rfl

/-! ## Lanes and pairs of lanes (R227) -/

/-- The low and the high word of a pair's lane. -/
theorem ofNat_rl64 (s : State) (n : RegNo) (i : Nat) : BitVec.ofNat 32 (s.rl64 n i) = s.rl n i := by
  have hlo := (s.rl n i).isLt
  apply BitVec.eq_of_toNat_eq
  rw [BitVec.toNat_ofNat]
  unfold State.rl64
  omega

theorem ofNat_rl64_high (s : State) (n : RegNo) (i : Nat) : BitVec.ofNat 32 (s.rl64 n i / 2 ^ 32) = s.rl (next n) i := by
  have hlo := (s.rl n i).isLt
  have hhi := (s.rl (next n) i).isLt
  apply BitVec.eq_of_toNat_eq
  rw [BitVec.toNat_ofNat]
  unfold State.rl64
  omega

theorem ofNat_rl (s : State) (n : RegNo) (i : Nat) : BitVec.ofNat 32 (s.rl n i).toNat = s.rl n i := by
  rw [BitVec.ofNat_toNat, BitVec.setWidth_eq]

@[simp] theorem putLanes_status (s : State) (d : RegNo) (sel : LaneMask) (z : Bool) (f : Nat → Word) :
    (s.putLanes d sel z f).sp.regs.status = s.sp.regs.status := by
  unfold State.putLanes
  simp

@[simp] theorem putPair_status (s : State) (d : RegNo) (sel : LaneMask) (z : Bool) (f : Nat → Nat) :
    (s.putPair d sel z f).sp.regs.status = s.sp.regs.status := by
  unfold State.putPair
  simp

/-- Only the values in the selected lanes count. -/
theorem lanesAre_congr {s t : State} {d : RegNo} {sel : LaneMask} {z : Bool} {f g : Nat → Word} (h : LanesAre s t d sel z f)
    (hfg : ∀ i, bitOn sel i = true → f i = g i) : LanesAre s t d sel z g :=
  ⟨fun i hi => (h.1 i hi).trans (ite_congr rfl (hfg i) fun _ => rfl), h.2⟩

/-- A mask register's write leaves the lanes. -/
theorem lanesAre_mask {s t u : State} {d m : RegNo} {sel sel' : LaneMask} {z z' : Bool} {f : Nat → Word} {g : Nat → Bool}
    (h : LanesAre s t d sel z f) (k : MaskIs t u m sel' z' g) : LanesAre s u d sel z f := by
  obtain ⟨⟨x, st, rfl⟩, -, -⟩ := k
  exact h

/-- What holds of a register, and of its partner when the type is i64. -/
theorem forall_registers {α : Type} {t : BitVec 3} {x y : α} {P : α → Prop} :
    (∀ r ∈ (if t = 2 then [x, y] else [x]), P r) ↔ P x ∧ (t = 2 → P y) := by
  by_cases ht : t = 2
  · rw [if_pos ht, List.forall_mem_cons, List.forall_mem_singleton, imp_iff_right ht]
  · rw [if_neg ht, List.forall_mem_singleton]
    exact ⟨fun h => ⟨h, fun h' => absurd h' ht⟩, And.left⟩

/-- Lanes of either width moved from a register and a lane that `src` names. -/
def moveLanes (s : State) (t : BitVec 3) (d : RegNo) (sel : LaneMask) (z : Bool) (src : Nat → RegNo × Nat) : State :=
  if t == 2 then s.putPair d sel z fun i => s.vlaneVal t (src i).1 (src i).2
  else s.putLanes d sel z fun i => BitVec.ofNat 32 (s.vlaneVal t (src i).1 (src i).2)

section
variable (s : State) (t : BitVec 3) (d : RegNo) (sel : LaneMask) (z : Bool) (src : Nat → RegNo × Nat)

theorem moveLanes_only : OnlyVectors s (moveLanes s t d sel z src) (if t = 2 then [d, next d] else [d]) := by
  unfold moveLanes
  by_cases ht : t = 2
  · rw [if_pos ht, if_pos (by simpa using ht)]
    exact putPair_only ..
  · rw [if_neg ht, if_neg (by simpa using ht)]
    exact putLanes_only ..

theorem moveLanes_status : (moveLanes s t d sel z src).sp.regs.status = s.sp.regs.status := by
  unfold moveLanes
  split <;> simp

theorem moveLanes_lanes (sub : ∀ i, bitOn sel i = true → bitOn s.enabled i = true) :
    LanesAre s (moveLanes s t d sel z src) d sel z (fun i => s.rl (src i).1 (src i).2) ∧
    (t = 2 → LanesAre s (moveLanes s t d sel z src) (next d) sel z fun i => s.rl (next (src i).1) (src i).2) := by
  unfold moveLanes State.vlaneVal
  by_cases ht : t = 2
  · subst ht
    have hpair := putPair_lanes s d sel z (fun i => s.rl64 (src i).1 (src i).2) sub
    unfold PairsAre at hpair
    simp only [ofNat_rl64, ofNat_rl64_high] at hpair
    exact ⟨hpair.1, fun _ => hpair.2⟩
  · have ht' : (t == 2) = false := by simpa using ht
    simp only [ht', Bool.false_eq_true, if_false, ofNat_rl]
    exact ⟨putLanes_lanes _ _ _ _ _ sub, fun h => absurd h ht⟩

end

/-! ## Carries, wide products and selection (R242, R243) -/

/-- An instruction that writes lanes and their carries. -/
theorem does_carryLanes {s : State} {i : Instr} {p : Option Pre} {d : RegNo} {x : Nat → Int} {carry : Int → Bool}
    {f : Nat → Word} {g : Nat → Bool} (eff : State → State) (e : exec i s = s.issue1 i eff)
    (e2 : eff s = s.carryLanes p d x carry) (hf : ∀ j, BitVec.ofInt 32 (x j) = f j) (hg : ∀ j, carry (x j) = g j) :
    s.Does i fun u => ∃ v, OnlyVectors s v [d] ∧ MaskIs v u 15 (s.selected p) (preOf p).z g ∧
      u.sp.regs.status = s.sp.regs.status ∧ LanesAre s u d (s.selected p) (preOf p).z f := by
  obtain rfl : (fun j => BitVec.ofInt 32 (x j)) = f := funext hf
  obtain rfl : (fun j => carry (x j)) = g := funext hg
  simp only [← ofNat_wrap]
  refine does_of _ e ?_
  rw [e2]
  exact ⟨_, putLanes_only .., putMask_is .., (putMask_status ..).trans (putLanes_status ..),
    lanesAre_mask (putLanes_lanes _ _ _ _ _ (selected_enabled s p)) (putMask_is ..)⟩

/-- The product of `vmulw` by type: unsigned for n32, which 64 bits hold. -/
theorem wideProduct_eq (t : BitVec 3) (x y : Word) : wrapTo 64 (elemInt t x.toNat * elemInt t y.toNat) =
    if t = 1 then x.toNat * y.toNat else wrapTo 64 (sx x.toNat (elemW t) * sx y.toNat (elemW t)) := by
  by_cases ht : t = 1
  · subst ht
    have hlt : x.toNat * y.toNat < 2 ^ 32 * 2 ^ 32 := Nat.mul_lt_mul'' x.isLt y.isLt
    rw [if_pos rfl]
    show wrapTo 64 ((x.toNat : Int) * y.toNat) = _
    unfold wrapTo
    rw [← Nat.cast_mul]
    omega
  · have ht' : (t == 1) = false := by simpa using ht
    rw [if_neg ht]
    unfold elemInt
    rw [ht']
    rfl

/-- `vsel` moves lanes of the register that the mask names. -/
theorem vsel_moves (s : State) (t : BitVec 3) (d a b : RegNo) (m : LaneMask) :
    (if t == 2 then s.putPair d s.enabled false fun i => if bitOn m i then s.vlaneVal t a i else s.vlaneVal t b i
      else s.putLanes d s.enabled false fun i => BitVec.ofNat 32 (if bitOn m i then s.vlaneVal t a i else s.vlaneVal t b i)) =
      moveLanes s t d s.enabled false fun i => (if bitOn m i then a else b, i) := by
  have hval : ∀ i, (if bitOn m i then s.vlaneVal t a i else s.vlaneVal t b i) = s.vlaneVal t (if bitOn m i then a else b) i :=
    fun i => (apply_ite (fun n => s.vlaneVal t n i) ..).symm
  simp only [hval]
  rfl

/-- Settles O16: the sums and differences with their carries, the wide product, and the lanes that `vsel` moves. -/
theorem vectorCarryWideSelect : Obligations.VectorCarryWideSelect := by
  rintro s p c t d a b x y cin rfl rfl rfl
  have sub := selected_enabled s p
  have hcin : ∀ j, s.carryIn j = ((if bitOn (s.rm 15) j then 1 else 0 : Nat) : Int) := fun j => by
    unfold State.carryIn
    split <;> rfl
  refine ⟨does_carryLanes _ rfl rfl (fun j => ?_) fun j => ?_, does_carryLanes _ rfl rfl (fun j => ?_) fun j => ?_, ?_, ?_⟩
  · rw [hcin, ← Nat.cast_add, BitVec.ofInt_natCast]
  · rw [hcin, ← Nat.cast_add]
    exact decide_eq_decide.mpr (by dsimp only; omega)
  · rw [hcin]
  · rw [hcin]
    exact decide_eq_decide.mpr (by dsimp only; omega)
  · refine does_of _ rfl ⟨putPair_only .., putPair_status .., ?_⟩
    simp only [← wideProduct_eq]
    exact putPair_lanes _ _ _ _ _ sub
  · refine does_of _ (e := rfl) ?_
    dsimp only
    rw [vsel_moves]
    have hlanes := moveLanes_lanes s t d s.enabled false (fun i => (if bitOn (s.rm (preOf p).mask.toNat) i then a else b, i))
      fun _ h => h
    refine ⟨moveLanes_only .., moveLanes_status .., forall_registers.mpr ⟨fun i hi => ?_, fun ht i hi => ?_⟩⟩
    · rw [hlanes.1.1 i hi]
      dsimp only
      rw [apply_ite (fun n => s.rl n i)]
      rfl
    · rw [(hlanes.2 ht).1 i hi]
      dsimp only
      rw [apply_ite (fun n => s.rl (next n) i)]
      rfl

/-! ## Comparisons (R243) -/

theorem does_vcompare {s : State} {i : Instr} {p : Option Pre} {t : BitVec 3} {m a : RegNo} {b : Src} {r : Int → Int → Bool}
    {R : Int → Int → Prop} (e : exec i s = s.issue1 i fun q => q.vcompare p t m a b r) (h : ∀ x y, r x y = true ↔ R x y) :
    s.DoesMask i p m fun j => ∀ k, k < elemN t → R (s.el t (.vec a) j k) (s.el t b j k) :=
  does_mask _ _ e rfl fun j => by simp [List.all_eq_true, h, State.el, State.bits, State.srcVal]

/-- Settles O17: each form compares by its own relation, element by element. -/
theorem vectorCompare : Obligations.VectorCompare := by
  rintro s p c t m a b A B S rfl rfl rfl
  exact ⟨does_vcompare rfl fun _ _ => beq_iff_eq, does_vcompare rfl fun _ _ => beq_iff_eq,
    does_vcompare rfl fun _ _ => bne_iff_ne, does_vcompare rfl fun _ _ => bne_iff_ne,
    does_vcompare rfl fun _ _ => decide_eq_true_iff, does_vcompare rfl fun _ _ => decide_eq_true_iff,
    does_vcompare (R := fun x y => y ≤ x) rfl fun _ _ => decide_eq_true_iff,
    does_vcompare (R := fun x y => y ≤ x) rfl fun _ _ => decide_eq_true_iff⟩

end Sys2Proof.Laws

end

section
/-! # Comparison and classes of floats (O20) -/

namespace Sys2Proof.Laws

open Sys2Proof Sys2Proof.Machine

theorem maskIs_noteFlags {s t : State} {m : RegNo} {sel : LaneMask} {z : Bool} {g : Nat → Bool} (f : FFlags)
    (h : MaskIs s t m sel z g) : MaskIs s (noteFlags t f) m sel z g := by
  obtain ⟨⟨x, st, rfl⟩, hother, hm⟩ := h
  exact ⟨⟨x, _, rfl⟩, hother, hm⟩

/-- A comparison whose flags do not trap. -/
theorem answers_fpCompare {s : State} {i : Instr} {p : Option Pre} {t : BitVec 3} {m a b : RegNo} (r : FRel)
    (e : exec i s = s.issue1 i fun q => q.fpCompare p t m a b r) (hc : s.clear i)
    (hfl : (flagsOver (s.selected p) (fun j => laneFlags (fpN t) fun k =>
      (fCompare r (s.fpVal t a j k) (s.fpVal t b j k)).2)).trapsUnder s.seen.status = false) :
    Answers i s fun u =>
      u.sp.regs.status = statusOr s.sp.regs.status (flagsOver (s.selected p) (fun j => laneFlags (fpN t) fun k =>
        (fCompare r (s.fpVal t a j k) (s.fpVal t b j k)).2)) ∧
      MaskIs s u m (s.selected p) (preOf p).z fun j =>
        decide (∀ k, k < fpN t → (fCompare r (s.fpVal t a j k) (s.fpVal t b j k)).1 = true) := by
  have hall : ∀ j, (List.range (fpN t)).all (fun k => (fCompare r (s.fpVal t a j k) (s.fpVal t b j k)).1) =
      decide (∀ k, k < fpN t → (fCompare r (s.fpVal t a j k) (s.fpVal t b j k)).1 = true) := fun j => by
    rw [Bool.eq_iff_iff, decide_eq_true_iff, List.all_eq_true]
    simp only [List.mem_range]
  refine ⟨_, e.trans (issue1_clear _ hc), ?_⟩
  unfold State.fpCompare
  dsimp only
  rw [withFlags_untrapped _ hfl]
  simp only [hall]
  exact ⟨congrArg (statusOr · _) (putMask_status ..), maskIs_noteFlags _ (putMask_is ..)⟩

/-- The class words of a lane side by side. -/
theorem classWords_eq (t : BitVec 3) (f : Nat → Nat) : (List.range (fpN t)).foldl (fun w k => w + f k * 2 ^ (16 * k)) 0 =
    if fpN t = 2 then f 0 + f 1 * 2 ^ 16 else f 0 := by
  have two (g : Nat → Nat) : (List.range 2).foldl (fun w k => w + g k) 0 = g 0 + g 1 := by simp [List.range_succ]
  have one (g : Nat → Nat) : (List.range 1).foldl (fun w k => w + g k) 0 = g 0 := by simp
  unfold fpN
  split
  · rw [two fun k => f k * 2 ^ (16 * k), if_pos rfl, Nat.mul_zero, Nat.pow_zero, Nat.mul_one, Nat.mul_one]
  · rw [one fun k => f k * 2 ^ (16 * k), if_neg (by decide), Nat.mul_zero, Nat.pow_zero, Nat.mul_one]

/-- Settles O20: the five relations by one lemma, and the class words of a lane. -/
theorem floatCompareAndClass : Obligations.FloatCompareAndClass := by
  rintro s p c t d m a b A B rfl rfl
  refine ⟨answers_fpCompare .eq rfl, answers_fpCompare .ne rfl, answers_fpCompare .lt rfl, answers_fpCompare .le rfl,
    answers_fpCompare .un rfl, does_of _ rfl ⟨putLanes_only .., ?_, ?_⟩⟩
  · exact putLanes_status ..
  · simp only [classWords_eq t fun k => fClass (fpFmt t) (fpElem t (s.fpLane t a _) k)]
    exact putLanes_lanes _ _ _ _ _ (selected_enabled s p)

end Sys2Proof.Laws

end

section
/-! # Class 5: shuffles and votes (O21, O22) -/

namespace Sys2Proof.Laws

open Sys2Proof Sys2Proof.Machine

/-! ## Sub-groups (R251) -/

theorem subWidth_pos (p : Option Pre) : 0 < subWidth p := Nat.two_pow_pos _

theorem subBase_eq (w i : Nat) : subBase w i = i / w * w := by
  have h := Nat.div_add_mod' i w
  unfold subBase
  omega

/-- The lanes of a sub-group are those with its quotient by the width. -/
theorem subBase_le_lt_iff {w i j : Nat} (hw : 0 < w) : (subBase w i ≤ j ∧ j < subBase w i + w) ↔ j / w = i / w := by
  rw [subBase_eq, Nat.div_eq_iff hw]
  omega

theorem readable_iff {s : State} {w i j : Nat} (hw : 0 < w) :
    s.readable w i j = true ↔ j / w = i / w ∧ bitOn s.enabled j = true := by
  unfold State.readable
  rw [Bool.and_eq_true, Bool.and_eq_true, decide_eq_true_iff, decide_eq_true_iff, subBase_le_lt_iff hw]

/-! ## Shuffles (R252) -/

/-- The register and the lane that a shuffle takes for lane l. -/
def shuffleSource (s : State) (p : Option Pre) (a : RegNo) (src : Nat → Option Nat) (l : Nat) : RegNo × Nat :=
  match src l with
  | some j =>
    if s.readable (subWidth p) l j then (a, j) else if (preOf p).fill then ((preOf p).vc, l) else (a, l)
  | none => if (preOf p).fill then ((preOf p).vc, l) else (a, l)

theorem shuffle_moves (s : State) (p : Option Pre) (t : BitVec 3) (d a : RegNo) (src : Nat → Option Nat) :
    s.shuffle p t d a src = moveLanes s t d (s.selected p) (preOf p).z (shuffleSource s p a src) := by
  unfold State.shuffle
  extract_lets w sel z lane val
  have hval : val = fun l => s.vlaneVal t (shuffleSource s p a src l).1 (shuffleSource s p a src l).2 := funext fun l => by
    dsimp only [val]
    unfold shuffleSource
    cases src l with
    | none => dsimp only; split <;> rfl
    | some j => dsimp only; split <;> [rfl; (split <;> rfl)]
  rw [hval]
  rfl

/-- An instruction whose effect is a shuffle. -/
theorem shuffles_of {s : State} {i : Instr} {p : Option Pre} {t : BitVec 3} {d a : RegNo} {src from_ : Nat → Option Nat}
    (eff : State → State) (e : exec i s = s.issue1 i eff) (e2 : eff s = s.shuffle p t d a from_) (h : ∀ l, from_ l = src l) :
    s.Shuffles i p t d a src := by
  obtain rfl : from_ = src := funext h
  obtain ⟨hlow, hhigh⟩ := moveLanes_lanes s t d (s.selected p) (preOf p).z (shuffleSource s p a from_) (selected_enabled s p)
  refine does_of eff e ?_
  rw [e2, shuffle_moves]
  refine ⟨moveLanes_only .., moveLanes_status .., forall_registers.mpr
    ⟨lanesAre_congr hlow fun l _ => ?_, fun ht => lanesAre_congr (hhigh ht) fun l _ => ?_⟩⟩ <;>
  · unfold shuffleSource
    simp only [readable_iff (subWidth_pos p)]
    cases from_ l with
    | none => dsimp only; split <;> rfl
    | some j => dsimp only; split <;> [rfl; (split <;> rfl)]

/-- Settles O21: each shuffle names its lane; the sub-group starts at its quotient by the width. -/
theorem shuffles : Obligations.Shuffles := by
  rintro s p c t d a b n w rfl -
  exact ⟨shuffles_of _ rfl rfl fun _ => by rw [subBase_eq]; rfl, shuffles_of _ rfl rfl fun _ => rfl,
    shuffles_of _ rfl rfl fun _ => rfl, shuffles_of _ rfl rfl fun _ => by unfold laneXor; rw [subBase_eq]; rfl,
    shuffles_of _ rfl rfl fun _ => rfl, shuffles_of _ rfl rfl fun _ => rfl,
    shuffles_of _ rfl rfl fun _ => by unfold laneXor; rw [subBase_eq]; rfl⟩

/-! ## Votes (R253) -/

theorem bitOn_trueLanes (s : State) (p : Option Pre) (a : RegNo) {i : Nat} (h : i < 32) :
    bitOn (s.trueLanes p a) i = (bitOn (s.selected p) i && s.rl a i != 0) := by
  rw [← bitOn_maskOf 32 (fun i => s.rl a i != 0) i h]
  exact BitVec.getLsbD_and

/-- A mask is told by its lanes. -/
theorem mask_ext {x y : LaneMask} (h : ∀ i, i < 32 → bitOn x i = bitOn y i) : x = y := BitVec.eq_of_getLsbD_eq h

theorem trueLanes_ne_zero (s : State) (p : Option Pre) (a : RegNo) :
    (s.trueLanes p a != 0) = (List.range 32).any fun i => bitOn (s.selected p) i && s.rl a i != 0 := by
  rw [Bool.eq_iff_iff, bne_iff_ne, List.any_eq_true, ← not_iff_not, not_not]
  refine ⟨fun h => ?_, fun h => mask_ext fun i hi => ?_⟩
  · rintro ⟨i, hi, ht⟩
    rw [← bitOn_trueLanes s p a (List.mem_range.mp hi), h] at ht
    simp [bitOn] at ht
  · rw [bitOn_trueLanes s p a hi]
    have := fun ht => h ⟨i, List.mem_range.mpr hi, ht⟩
    simpa [bitOn] using this

theorem trueLanes_eq_selected (s : State) (p : Option Pre) (a : RegNo) :
    (s.trueLanes p a == s.selected p) = (List.range 32).all fun i => !bitOn (s.selected p) i || s.rl a i != 0 := by
  rw [Bool.eq_iff_iff, beq_iff_eq, List.all_eq_true]
  refine ⟨fun h i hi => ?_, fun h => mask_ext fun i hi => ?_⟩
  · have hb := bitOn_trueLanes s p a (List.mem_range.mp hi)
    rw [h] at hb
    cases hsel : bitOn (s.selected p) i <;> simp_all
  · rw [bitOn_trueLanes s p a hi]
    have hb := h i (List.mem_range.mpr hi)
    cases hsel : bitOn (s.selected p) i <;> simp_all

/-- Settles O22: all three read the selected lanes whose value is not zero. -/
theorem votesAndBallot : Obligations.VotesAndBallot := by
  rintro s p c d a sel rfl
  have ballot : s.Sets (.ballot p c d a) d _ := sets_of _ rfl rfl rfl
  refine ⟨sets_of _ rfl rfl ?_, sets_of _ rfl rfl ?_, fun hc => ⟨_, ballot hc, fun i hi => ?_⟩⟩
  · rw [trueLanes_ne_zero]
    rfl
  · rw [trueLanes_eq_selected]
    rfl
  · unfold bitOn
    rw [BitVec.getLsbD_setWidth]
    by_cases h : i < 32
    · rw [decide_eq_true hi, decide_eq_true h, Bool.true_and, Bool.true_and]
      exact bitOn_trueLanes s p a h
    · simp [h, BitVec.getLsbD_of_ge _ i (Nat.le_of_not_lt h)]

end Sys2Proof.Laws

end

section
/-! # Scans and reductions (O23) -/

namespace Sys2Proof.Laws

open Sys2Proof Sys2Proof.Machine

/-! ## The steps of one sub-group (R254) -/

section
variable (comb : Nat → Nat → Nat × FFlags) (val : Nat → Nat)

/-- The lanes of a list combined in its order. -/
def combineLanes (acc : Nat) (js : List Nat) : Nat := js.foldl (fun acc j => (comb acc (val j)).1) acc

/-- The step of lane i among the lanes js. -/
def stepOf (acc : Nat) (js : List Nat) (i : Nat) : ScanStep :=
  { lane := i, before := combineLanes comb val acc (js.filter fun j => j < i)
    after := combineLanes comb val acc (js.filter fun j => j ≤ i)
    flags := (comb (combineLanes comb val acc (js.filter fun j => j < i)) (val i)).2 }

theorem scanSteps_lane {acc : Nat} {js : List Nat} {x : ScanStep}
    (h : x ∈ scanSteps comb acc (js.map fun j => (j, val j))) : x.lane ∈ js := by
  induction js generalizing acc with
  | nil => cases h
  | cons j js ih =>
    rw [List.map_cons, scanSteps] at h
    rcases List.mem_cons.mp h with rfl | h
    · exact List.mem_cons_self
    · exact List.mem_cons_of_mem _ (ih h)

/-- In ascending lanes, the step of a lane combines the lanes before it. -/
theorem scanSteps_find {acc i : Nat} {js : List Nat} (sorted : js.Pairwise (· < ·)) (hi : i ∈ js) :
    (scanSteps comb acc (js.map fun j => (j, val j))).find? (fun x => x.lane == i) = some (stepOf comb val acc js i) := by
  induction js generalizing acc with
  | nil => cases hi
  | cons j js ih =>
    obtain ⟨hj, sorted⟩ := List.pairwise_cons.mp sorted
    rw [List.map_cons, scanSteps]
    by_cases hji : j = i
    · subst hji
      have hlt : (j :: js).filter (fun k => k < j) = [] := List.filter_eq_nil_iff.mpr fun k hk => by
        rcases List.mem_cons.mp hk with rfl | hk
        · simp
        · have := hj k hk
          simp; omega
      have hle : (j :: js).filter (fun k => k ≤ j) = [j] := by
        rw [List.filter_cons_of_pos (by simp), List.filter_eq_nil_iff.mpr fun k hk => by have := hj k hk; simp; omega]
      simp [stepOf, hlt, hle, combineLanes]
    · have hmem : i ∈ js := (List.mem_cons.mp hi).resolve_left (Ne.symm hji)
      have hlt := hj i hmem
      rw [List.find?_cons_of_neg (by simpa using hji), ih sorted hmem]
      unfold stepOf
      rw [List.filter_cons_of_pos (by simpa using hlt), List.filter_cons_of_pos (by simpa using hlt.le)]
      rfl

/-- The last step has combined every lane. -/
theorem scanSteps_last {acc : Nat} {js : List Nat} (hne : js ≠ []) :
    (((scanSteps comb acc (js.map fun j => (j, val j))).getLast?.map fun x => x.after).getD 0) = combineLanes comb val acc js := by
  induction js generalizing acc with
  | nil => exact absurd rfl hne
  | cons j js ih =>
    rw [List.map_cons, scanSteps]
    cases js with
    | nil => rfl
    | cons k js =>
      rw [List.map_cons, scanSteps, List.getLast?_cons_cons]
      have := ih (acc := (comb acc (val j)).1) (by simp)
      rw [List.map_cons, scanSteps] at this
      exact this

end
/-! ## Scans and reductions -/

theorem lt_of_bitOn {n i : Nat} {x : BitVec n} (h : bitOn x i = true) : i < n := BitVec.lt_of_getLsbD h

/-- A search that only one element of a list can answer. -/
theorem findSome?_unique {α β : Type} {l : List α} {f : α → Option β} {x : α} (hx : x ∈ l)
    (h : ∀ y ∈ l, y ≠ x → f y = none) : l.findSome? f = f x := by
  induction l with
  | nil => cases hx
  | cons y l ih =>
    rw [List.findSome?_cons]
    by_cases hy : y = x
    · subst hy
      cases hf : f y with
      | some b => rfl
      | none =>
        refine List.findSome?_eq_none_iff.mpr fun z hz => ?_
        by_cases hzy : z = y
        · rw [hzy, hf]
        · exact h z (List.mem_cons_of_mem _ hz) hzy
    · rw [h y List.mem_cons_self hy]
      exact ih ((List.mem_cons.mp hx).resolve_left (Ne.symm hy)) fun z hz => h z (List.mem_cons_of_mem _ hz)

theorem subGroup_eq (s : State) (p : Option Pre) (i : Nat) : s.subGroup p i =
    (positions 32 (bitOn (s.selected p))).filter fun j => j / subWidth p == i / subWidth p := by
  unfold State.subGroup positions
  rw [List.filter_filter]
  simp only [Bool.and_comm]

theorem subGroup_sorted (s : State) (p : Option Pre) (i : Nat) : (s.subGroup p i).Pairwise (· < ·) :=
  List.Pairwise.filter _ List.pairwise_lt_range

theorem mem_subGroup_self {s : State} {p : Option Pre} {i : Nat} (h : bitOn (s.selected p) i = true) : i ∈ s.subGroup p i :=
  List.mem_filter.mpr ⟨List.mem_range.mpr (lt_of_bitOn h), by simp [h]⟩

theorem quotient_lt {p : Option Pre} {i : Nat} (hsub : (preOf p).sub.toNat ≤ 5) (h : i < 32) :
    i / subWidth p < 32 / subWidth p := by
  have h32 : 32 = 2 ^ (5 - (preOf p).sub.toNat) * subWidth p := by
    unfold subWidth
    rw [← Nat.pow_add, Nat.sub_add_cancel hsub]
  rw [Nat.div_lt_iff_lt_mul (subWidth_pos p)]
  conv_rhs => rw [h32]
  rw [Nat.mul_div_cancel _ (subWidth_pos p), ← h32]
  exact h

/-- The step of a selected lane, and what its sub-group comes to. -/
theorem scan_find {s : State} {p : Option Pre} {t o : BitVec 3} {a : RegNo} {i : Nat} (hsub : (preOf p).sub.toNat ≤ 5)
    (h : bitOn (s.selected p) i = true) : (s.scan p t o a).find? (fun x => x.1.lane == i) =
      some (stepOf (scanCombine t o (s.mode p)) (s.scanLane t a) (scanIdentity t o) (s.subGroup p i) i,
        s.scanOf p t o a (s.subGroup p i)) := by
  have hmem := mem_subGroup_self h
  unfold State.scan
  dsimp only
  rw [List.find?_flatMap, findSome?_unique (List.mem_range.mpr (quotient_lt hsub (lt_of_bitOn h)))]
  · rw [← subGroup_eq, List.find?_map]
    refine (congrArg _ (scanSteps_find _ (s.scanLane t a) (subGroup_sorted s p i) hmem)).trans ?_
    rw [Option.map_some]
    exact congrArg (fun x => some (_, x)) (scanSteps_last _ (s.scanLane t a) (List.ne_nil_of_mem hmem))
  · intro g _ hg
    rw [List.find?_eq_none]
    rintro x hx hlane
    obtain ⟨y, hy, rfl⟩ := List.mem_map.mp hx
    have hgroup := (List.mem_filter.mp (scanSteps_lane _ (s.scanLane t a) hy)).2
    rw [beq_iff_eq] at hlane hgroup
    exact hg (by rw [← hgroup, ← hlane])

theorem flagsOver_congr {sel : LaneMask} {f g : Nat → FFlags} (h : ∀ i, bitOn sel i = true → f i = g i) :
    flagsOver sel f = flagsOver sel g :=
  List.foldl_ext _ _ _ fun a i hi => by rw [h i (List.mem_filter.mp hi).2]

theorem flagsOver_none (sel : LaneMask) : flagsOver sel (fun _ => FFlags.none) = FFlags.none := by
  unfold flagsOver
  induction positions 32 (bitOn sel) with
  | nil => rfl
  | cons i js ih => exact ih

/-- An integer's step sets no flag. -/
theorem scanCombine_flags {t : BitVec 3} (o : BitVec 3) (m : RMode) (x y : Nat) (h : scanFloat t = false) :
    (scanCombine t o m x y).2 = FFlags.none := by
  unfold scanCombine
  rw [h]
  rfl

section
variable {s : State} {p : Option Pre} {t o : BitVec 3} {d a : RegNo} {fl : Nat → FFlags} {f : Nat → Nat}
  {out : ScanStep × Nat → Nat}

theorem putScan_scanned (hsub : (preOf p).sub.toNat ≤ 5)
    (hfl : fl = fun i => (scanCombine t o (s.mode p) (s.scanOf p t o a ((s.subGroup p i).filter fun j => j < i))
      (s.scanLane t a i)).2)
    (htrap : scanFloat t = true → (flagsOver (s.selected p) fl).trapsUnder s.seen.status = false)
    (hout : ∀ i, out (stepOf (scanCombine t o (s.mode p)) (s.scanLane t a) (scanIdentity t o) (s.subGroup p i) i,
      s.scanOf p t o a (s.subGroup p i)) = f i) : s.Scanned (s.putScan p t o d a out) p t d fl f := by
  have sub := selected_enabled s p
  have hflags : (flagsOver (s.selected p) fl).trapsUnder s.seen.status = false := by
    cases hf : scanFloat t with
    | true => exact htrap hf
    | false =>
      simp only [hfl, scanCombine_flags o _ _ _ hf]
      rw [flagsOver_none]
      rfl
  unfold State.putScan
  extract_lets steps sel z stepAt val
  have hval : ∀ i, bitOn sel i = true → val i = f i := fun i hi => by
    dsimp only [val, stepAt, steps]
    rw [scan_find hsub hi, Option.map_some, Option.getD_some, hout]
  have hall : flagsOver sel (fun i => ((stepAt i).map fun x => x.1.flags).getD FFlags.none) = flagsOver sel fl :=
    flagsOver_congr fun i hi => by
      dsimp only [stepAt, steps]
      rw [scan_find hsub hi, hfl]
      rfl
  rw [withFlags_untrapped _ (by rw [hall]; exact hflags), hall]
  unfold State.Scanned
  cases hw : scanWide t with
  | true =>
    simp only [if_true]
    have hpair := putPair_lanes s d sel z val sub
    exact ⟨noteFlags_only _ (putPair_only ..), congrArg (statusOr · _) (putPair_status ..),
      lanesAre_congr hpair.1 fun i hi => by rw [hval i hi], lanesAre_congr hpair.2 fun i hi => by rw [hval i hi]⟩
  | false =>
    simp only [Bool.false_eq_true, if_false]
    exact ⟨noteFlags_only _ (putLanes_only ..), congrArg (statusOr · _) (putLanes_status ..),
      lanesAre_congr (putLanes_lanes s d sel z _ sub) fun i hi => by rw [hval i hi]⟩

end

/-- Settles O23: a lane's step has combined the lanes before it, and the last step of a sub-group all of them. -/
theorem scansAndReductions : Obligations.ScansAndReductions := by
  rintro s p c x t o d a before upto all fl hsub rfl rfl rfl hfl htrap
  refine ⟨does_of _ rfl (putScan_scanned hsub hfl htrap fun i => ?_),
    does_of _ rfl (putScan_scanned hsub hfl htrap fun i => rfl)⟩
  cases x <;> rfl

end Sys2Proof.Laws
end

section
/-! # Carries, intersections and lane numbers (O24) -/

namespace Sys2Proof.Laws

open Sys2Proof Sys2Proof.Machine

/-- An instruction that writes one vector register in the lanes of R227. -/
theorem does_putLanes {s : State} {i : Instr} {p : Option Pre} {d : RegNo} {f g : Nat → Word} (eff : State → State)
    (e : exec i s = s.issue1 i eff) (e2 : eff s = s.putLanes d (s.selected p) (preOf p).z f) (h : ∀ j, f j = g j) :
    s.Does i fun u => s.Writes u d ∧ LanesAre s u d (s.selected p) (preOf p).z g :=
  does_of eff e (by
    rw [e2]
    exact ⟨⟨putLanes_only .., putLanes_status ..⟩,
      lanesAre_congr (putLanes_lanes _ _ _ _ _ (selected_enabled s p)) fun j _ => h j⟩)

/-! ## Carries (R255) -/

theorem carryInto_iff {w : Nat} {g p : Nat → Bool} {i : Nat} (hi : i ≤ 32) : carryInto w g p i = true ↔
    ∃ j, subBase w i ≤ j ∧ j < i ∧ g j = true ∧ ∀ k, j < k → k < i → p k = true := by
  unfold carryInto
  simp only [List.any_eq_true, List.all_eq_true, List.mem_range, Bool.and_eq_true, Bool.or_eq_true, Bool.not_eq_true',
    decide_eq_true_iff, Bool.and_eq_false_iff, decide_eq_false_iff_not]
  constructor
  · rintro ⟨j, -, ⟨⟨hbase, hj⟩, hg⟩, hp⟩
    exact ⟨j, hbase, hj, hg, fun k hjk hki => (hp k (by omega)).resolve_left (by omega)⟩
  · rintro ⟨j, hbase, hj, hg, hp⟩
    refine ⟨j, by omega, ⟨⟨hbase, hj⟩, hg⟩, fun k _ => ?_⟩
    by_cases hk : j < k ∧ k < i
    · exact .inr (hp k hk.1 hk.2)
    · exact .inl (by omega)

/-- No carry enters a sub-group. -/
theorem carryInto_first {w i : Nat} (g p : Nat → Bool) (h : i % w = 0) : carryInto w g p i = false := by
  unfold carryInto subBase
  rw [h, List.any_eq_false]
  intro j _
  simp only [Bool.and_eq_true, decide_eq_true_iff]
  omega

/-- Lanes of one sub-group have one first lane. -/
theorem subBase_succ {w i : Nat} (h : (i + 1) % w ≠ 0) : subBase w (i + 1) = subBase w i := by
  have hdvd : ¬ w ∣ i + 1 := fun hd => h (Nat.mod_eq_zero_of_dvd hd)
  rw [subBase_eq, subBase_eq, Nat.succ_div_of_not_dvd hdvd]

/-- The carry into the next lane is generated or propagated. -/
theorem carryInto_succ {w i : Nat} (g p : Nat → Bool) (hi : i + 1 < 32) (h : (i + 1) % w ≠ 0) :
    carryInto w g p (i + 1) = (g i || (p i && carryInto w g p i)) := by
  rw [Bool.eq_iff_iff, Bool.or_eq_true, Bool.and_eq_true, carryInto_iff hi.le, carryInto_iff (by omega), subBase_succ h]
  constructor
  · rintro ⟨j, hbase, hj, hg, hp⟩
    rcases Nat.lt_succ_iff_lt_or_eq.mp hj with hlt | rfl
    · exact .inr ⟨hp i hlt (Nat.lt_succ_self i), j, hbase, hlt, hg, fun k hjk hki => hp k hjk (by omega)⟩
    · exact .inl hg
  · rintro (hg | ⟨hpi, j, hbase, hj, hg, hp⟩)
    · exact ⟨i, Nat.sub_le .., Nat.lt_succ_self i, hg, fun k hjk hki => by omega⟩
    · refine ⟨j, hbase, by omega, hg, fun k hjk hki => ?_⟩
      rcases Nat.lt_succ_iff_lt_or_eq.mp hki with hlt | rfl
      · exact hp k hjk hlt
      · exact hpi

/-! ## Intersections (R256) -/

/-- What `ssi` writes in lane i: the place of the first readable lane that holds the value. -/
def matchLane (s : State) (w : Nat) (a b : RegNo) (i : Nat) : Word :=
  match (List.range 32).find? fun j => s.readable w i j && s.rl b j == s.rl a i with
  | some j => BitVec.ofNat 32 (j - subBase w i)
  | none => 0xFFFFFFFF

theorem holds_iff {s : State} {w i j : Nat} {a b : RegNo} (hw : 0 < w) : (s.readable w i j && s.rl b j == s.rl a i) = true ↔
    j / w = i / w ∧ bitOn s.enabled j = true ∧ s.rl b j = s.rl a i := by
  rw [Bool.and_eq_true, readable_iff hw, beq_iff_eq, and_assoc]

theorem matchLane_of_first {s : State} {w i j : Nat} {a b : RegNo} (hw : 0 < w) (hj : j < 32) (hgroup : j / w = i / w)
    (hen : bitOn s.enabled j = true) (heq : s.rl b j = s.rl a i)
    (hfirst : ∀ k, k < j → k / w = i / w → bitOn s.enabled k = true → s.rl b k ≠ s.rl a i) :
    matchLane s w a b i = BitVec.ofNat 32 (j % w) := by
  have hfind : ((List.range 32).find? fun j => s.readable w i j && s.rl b j == s.rl a i) = some j :=
    List.find?_range_eq_some.mpr ⟨(holds_iff hw).mpr ⟨hgroup, hen, heq⟩, List.mem_range.mpr hj, fun k hk => by
      rw [Bool.not_eq_true', ← Bool.not_eq_true, holds_iff hw]
      rintro ⟨h1, h2, h3⟩
      exact hfirst k hk h1 h2 h3⟩
  have hdiv := Nat.div_add_mod' j w
  unfold matchLane
  rw [hfind]
  dsimp only
  rw [subBase_eq, ← hgroup, show j - j / w * w = j % w by omega]

theorem matchLane_of_none {s : State} {w i : Nat} {a b : RegNo} (hw : 0 < w)
    (hnone : ∀ j, j < 32 → j / w = i / w → bitOn s.enabled j = true → s.rl b j ≠ s.rl a i) :
    matchLane s w a b i = 0xFFFFFFFF := by
  have hfind : ((List.range 32).find? fun j => s.readable w i j && s.rl b j == s.rl a i) = none :=
    List.find?_eq_none.mpr fun k hk => by
      rw [holds_iff hw]
      rintro ⟨h1, h2, h3⟩
      exact hnone k (List.mem_range.mp hk) h1 h2 h3
  unfold matchLane
  rw [hfind]

/-- Settles O24: the carries are `carryInto`, with its recurrence above; `ssi` takes the first lane that holds the value. -/
theorem carriesIntersectionsLanes : Obligations.CarriesIntersectionsLanes := by
  rintro s p c d a b w sum gen pro rfl - rfl rfl rfl
  refine ⟨fun hc => ?_, fun hc => ?_, does_putLanes _ rfl rfl fun _ => rfl⟩
  · obtain ⟨u, hu, hwrites, hlanes⟩ := does_putLanes _ rfl rfl (fun _ => rfl) hc
    exact ⟨u, hu, hwrites, carryInto (subWidth p) _ _, fun _ h => carryInto_first _ _ h, fun _ hi h => carryInto_succ _ _ hi h,
      hlanes⟩
  · obtain ⟨u, hu, hwrites, hlanes⟩ := does_putLanes (g := matchLane s (subWidth p) a b) _ rfl rfl (fun _ => rfl) hc
    exact ⟨u, hu, hwrites, _, hlanes, fun i _ => ⟨fun j hj hgroup hen heq hfirst =>
      matchLane_of_first (subWidth_pos p) hj hgroup hen heq hfirst, fun hnone => matchLane_of_none (subWidth_pos p) hnone⟩⟩

end Sys2Proof.Laws

end

section
/-! # Conversions and bit-plane moves (O25) -/

namespace Sys2Proof.Laws

open Sys2Proof Sys2Proof.Machine

/-! ## Several registers written in turn -/

/-- The writes of R227 to several registers, in order. -/
def putEach (s : State) (sel : LaneMask) (z : Bool) (outs : List (RegNo × (Nat → Word))) : State :=
  outs.foldl (fun w o => w.putLanes o.1 sel z o.2) s

theorem putEach_only (s : State) (sel : LaneMask) (z : Bool) (outs : List (RegNo × (Nat → Word))) :
    OnlyVectors s (putEach s sel z outs) (outs.map Prod.fst) := by
  induction outs generalizing s with
  | nil => exact onlyVectors_refl ..
  | cons o outs ih => exact onlyVectors_trans (putLanes_only ..) (ih _)

theorem putEach_status (s : State) (sel : LaneMask) (z : Bool) (outs : List (RegNo × (Nat → Word))) :
    (putEach s sel z outs).sp.regs.status = s.sp.regs.status := by
  induction outs generalizing s with
  | nil => rfl
  | cons o outs ih => exact (ih _).trans (putLanes_status ..)

/-- Registers that differ each hold their own lanes at the end. -/
theorem putEach_lanes {s : State} {sel : LaneMask} {z : Bool} {outs : List (RegNo × (Nat → Word))}
    (sub : ∀ i, bitOn sel i = true → bitOn s.enabled i = true) (nodup : (outs.map Prod.fst).Nodup) :
    ∀ o ∈ outs, LanesAre s (putEach s sel z outs) o.1 sel z o.2 := by
  induction outs generalizing s with
  | nil => exact fun _ h => absurd h List.not_mem_nil
  | cons o outs ih =>
    obtain ⟨hnot, nodup⟩ := List.nodup_cons.mp nodup
    have hfirst := putLanes_only s o.1 sel z o.2
    intro x hx
    rcases List.mem_cons.mp hx with rfl | hx
    · exact lanesAre_after (putLanes_lanes _ _ _ _ _ sub) (putEach_only ..) hnot
    · refine lanesAre_before hfirst (ih (fun i hi => ?_) nodup x hx) ?_
      · rw [onlyVectors_enabled hfirst]
        exact sub i hi
      · rw [List.mem_singleton]
        exact fun h => hnot (h ▸ List.mem_map_of_mem hx)

/-! ## The registers of a conversion (R247) -/

theorem regAt_inj {d : RegNo} {j k : Nat} (hj : j < 64) (hk : k < 64) (h : regAt d j = regAt d k) : j = k := by
  have := congrArg BitVec.toNat (add_left_cancel h)
  simp only [BitVec.toNat_ofNat] at this
  omega

theorem next_regAt (d : RegNo) (k : Nat) : next (regAt d k) = regAt d (k + 1) := by
  unfold next regAt
  rw [BitVec.ofNat_add, BitVec.add_assoc]
  rfl

theorem nodup_regAt (d : RegNo) {n : Nat} (h : n ≤ 64) : ((List.range n).map (regAt d)).Nodup :=
  List.Nodup.map_on (fun j hj k hk => regAt_inj (by have := List.mem_range.mp hj; omega) (by have := List.mem_range.mp hk; omega))
    List.nodup_range

/-- The registers of n element groups of w registers each. -/
theorem flatMap_regAt (d : RegNo) (n : Nat) :
    ((List.range n).flatMap fun g => [regAt d (2 * g), regAt d (2 * g + 1)]) = (List.range (n * 2)).map (regAt d) := by
  induction n with
  | zero => rfl
  | succ n ih =>
    rw [List.range_succ, List.flatMap_append, ih, Nat.succ_mul, List.range_succ, List.range_succ]
    simp [Nat.mul_comm 2 n]

/-- Element groups of one register each, with their lanes. -/
def laneOuts (d : RegNo) (n : Nat) (val : Nat → Nat → Nat) : List (RegNo × (Nat → Word)) :=
  (List.range n).map fun g => (regAt d g, fun i => BitVec.ofNat 32 (val g i))

/-- Element groups of two registers each, with their lanes. -/
def pairOuts (d : RegNo) (n : Nat) (val : Nat → Nat → Nat) : List (RegNo × (Nat → Word)) :=
  (List.range n).flatMap fun g => [(regAt d (2 * g), fun i => BitVec.ofNat 32 (val g i)),
    (regAt d (2 * g + 1), fun i => BitVec.ofNat 32 (val g i / 2 ^ 32))]

theorem laneOuts_registers (d : RegNo) (n : Nat) (val : Nat → Nat → Nat) :
    (laneOuts d n val).map Prod.fst = (List.range n).map (regAt d) := List.map_map

theorem pairOuts_registers (d : RegNo) (n : Nat) (val : Nat → Nat → Nat) :
    (pairOuts d n val).map Prod.fst = (List.range (n * 2)).map (regAt d) := by
  rw [← flatMap_regAt]
  exact List.map_flatMap

section
variable (s : State) (sel : LaneMask) (z : Bool) (d : RegNo) (n : Nat) (val : Nat → Nat → Nat)

theorem foldl_putLanes : (List.range n).foldl (fun w g => w.putLanes (regAt d g) sel z fun i => BitVec.ofNat 32 (val g i)) s =
    putEach s sel z (laneOuts d n val) := by
  unfold putEach laneOuts
  rw [List.foldl_map]

theorem foldl_putPair : (List.range n).foldl (fun w g => w.putPair (regAt d (2 * g)) sel z (val g)) s =
    putEach s sel z (pairOuts d n val) := by
  unfold putEach pairOuts State.putPair
  rw [List.foldl_flatMap]
  simp only [next_regAt]
  rfl

end

theorem cvtE_bounds (k : BitVec 3) : 0 < cvtE k ∧ cvtE k ≤ 4 := by revert k; decide

section
variable {k : BitVec 3} {d : RegNo} {n : Nat} {res : Nat → Nat → Nat × FFlags}

/-- The lane of element group g: its elements side by side, low elements first. -/
def packGroup (k : BitVec 3) (res : Nat → Nat → Nat × FFlags) (g i : Nat) : Nat :=
  (List.range (cvtE k)).foldl (fun x j => x + (res i (g * cvtE k + j)).1 * 2 ^ (cvtBits k * j)) 0

theorem packGroup_wide (g i : Nat) : packGroup 0 res g i = (res i g).1 := by
  unfold packGroup
  show 0 + (res i (g * 1 + 0)).1 * 2 ^ 0 = _
  rw [Nat.mul_one, Nat.pow_zero, Nat.mul_one, Nat.zero_add]
  rfl

/-- The registers that a conversion writes, with their lanes. -/
def convertOuts (d : RegNo) (k : BitVec 3) (n : Nat) (res : Nat → Nat → Nat × FFlags) : List (RegNo × (Nat → Word)) :=
  if k = 0 then pairOuts d (n / cvtE k) (packGroup k res) else laneOuts d (n / cvtE k) (packGroup k res)

theorem convertOuts_registers (d : RegNo) (k : BitVec 3) (n : Nat) (res : Nat → Nat → Nat × FFlags) :
    (convertOuts d k n res).map Prod.fst = (List.range (n / cvtE k * cvtW k)).map (regAt d) := by
  unfold convertOuts cvtW
  by_cases hk : k = 0
  · rw [if_pos hk, pairOuts_registers, if_pos (by simpa using hk)]
  · rw [if_neg hk, laneOuts_registers, if_neg (by simpa using hk), Nat.mul_one]

theorem pairsAre_of_outs {s u : State} {sel : LaneMask} {z : Bool}
    (h : ∀ o ∈ convertOuts d 0 n res, LanesAre s u o.1 sel z o.2) {g : Nat} (hg : g < n) :
    PairsAre s u (regAt d (2 * g)) sel z fun i => (res i g).1 := by
  have hmem : ∀ x ∈ [(regAt d (2 * g), fun i => BitVec.ofNat 32 (packGroup 0 res g i)),
      (regAt d (2 * g + 1), fun i => BitVec.ofNat 32 (packGroup 0 res g i / 2 ^ 32))], x ∈ convertOuts d 0 n res := fun x hx =>
    List.mem_flatMap.mpr ⟨g, List.mem_range.mpr ((Nat.div_one n).symm ▸ hg), hx⟩
  have hlow := h _ (hmem _ List.mem_cons_self)
  have hhigh := h _ (hmem _ (List.mem_cons_of_mem _ List.mem_cons_self))
  simp only [packGroup_wide] at hlow hhigh
  rw [← next_regAt] at hhigh
  exact ⟨hlow, hhigh⟩

theorem lanesAre_of_outs {s u : State} {sel : LaneMask} {z : Bool} (hk : k ≠ 0)
    (h : ∀ o ∈ convertOuts d k n res, LanesAre s u o.1 sel z o.2) {g : Nat} (hg : g < n / cvtE k) :
    LanesAre s u (regAt d g) sel z fun i => BitVec.ofNat 32 (packGroup k res g i) := by
  unfold convertOuts at h
  rw [if_neg hk] at h
  exact h (regAt d g, _) (List.mem_map_of_mem (List.mem_range.mpr hg))

theorem convertOuts_nodup (d : RegNo) (t k : BitVec 3) (res : Nat → Nat → Nat × FFlags) :
    ((convertOuts d k (max (cvtE t) (cvtE k)) res).map Prod.fst).Nodup := by
  rw [convertOuts_registers]
  refine nodup_regAt d ?_
  obtain ⟨-, ht⟩ := cvtE_bounds t
  obtain ⟨-, hk⟩ := cvtE_bounds k
  have hgroups : max (cvtE t) (cvtE k) / cvtE k ≤ 4 := (Nat.div_le_self ..).trans (by omega)
  unfold cvtW
  split <;> omega

/-- The groups written in turn are the writes to those registers in order. -/
theorem foldl_convert {s : State} (sel : LaneMask) (z : Bool) :
    ((List.range (n / cvtE k)).foldl (fun w g => if k == 0 then w.putPair (regAt d (2 * g)) sel z (packGroup k res g)
      else w.putLanes (regAt d g) sel z fun i => BitVec.ofNat 32 (packGroup k res g i)) s) =
      putEach s sel z (convertOuts d k n res) := by
  unfold convertOuts
  by_cases hk : k = 0
  · have hk' : (k == 0) = true := by simpa using hk
    simp only [hk', if_true, if_pos hk, foldl_putPair]
  · have hk' : (k == 0) = false := by simpa using hk
    simp only [hk', Bool.false_eq_true, if_false, if_neg hk, foldl_putLanes]

end

/-- `vcvt` writes its registers and notes its flags when none traps. -/
theorem vcvt_answers {s : State} {p : Option Pre} {c : Bool} {t k : BitVec 3} {d a : RegNo} {n : Nat}
    {res : Nat → Nat → Nat × FFlags} {fl : Nat → FFlags} (hn : n = max (cvtE t) (cvtE k))
    (hres : res = fun i j => cvtElem t k (s.mode p) (preOf p).sat (s.cvtSource t a i j))
    (hfl : fl = fun i => laneFlags n fun j => (res i j).2) (hc : s.clear (.vcvt p c t d a k))
    (htrap : (flagsOver (s.selected p) fl).trapsUnder s.seen.status = false) :
    exec (.vcvt p c t d a k) s = .next (noteFlags (putEach s (s.selected p) (preOf p).z (convertOuts d k n res))
      (flagsOver (s.selected p) fl)) := by
  subst hn hres hfl
  rw [← foldl_convert]
  exact (issue1_clear _ hc).trans (congrArg _ (withFlags_untrapped _ htrap))

/-! ## Bit-plane moves (R250) -/

/-- An instruction that writes every lane of one vector register. -/
theorem does_putAll {s : State} {i : Instr} {d : RegNo} {f : Nat → Word} {P : State → Prop} (eff : State → State)
    (e : exec i s = s.issue1 i eff) (e2 : eff s = s.putLanes d (BitVec.allOnes 32) false f)
    (h : ∀ u : State, (∀ i, i < 32 → u.lane d i = f i) → P u) :
    s.Does i fun u => s.Writes u d ∧ u.sp.regs.tag[d.toNat]'d.isLt = { len := 0, sign := false } ∧ P u := by
  refine does_of eff e ?_
  rw [e2, putLanes_allOnes]
  obtain ⟨hlanes, htag⟩ := putAll_lanes s s d f
  exact ⟨⟨putAll_only .., putAll_status ..⟩, htag, h _ fun i hi => (hlanes i hi).trans (if_pos (bitOn_allOnes hi))⟩

/-- Settles O25: the registers of a conversion differ, so each holds its own groups; the moves write one bit per lane and place. -/
theorem conversionsAndBitPlaneMoves : Obligations.ConversionsAndBitPlaneMoves := by
  refine ⟨fun s p c t k d a n res fl hn hres hfl hc htrap => ⟨_, vcvt_answers hn hres hfl hc htrap, ?_⟩,
    fun s p c d a b => ⟨?_, ?_⟩⟩
  · have hlanes := putEach_lanes (outs := convertOuts d k n res) (z := (preOf p).z) (selected_enabled s p)
      (hn ▸ convertOuts_nodup d t k res)
    refine ⟨noteFlags_only _ (convertOuts_registers d k n res ▸ putEach_only ..), congrArg (statusOr · _) (putEach_status ..),
      fun hk g hg => ?_, fun hk g hg => ?_⟩
    · subst hk
      exact pairsAre_of_outs hlanes hg
    · exact lanesAre_of_outs hk hlanes hg
  · refine does_putAll _ rfl rfl fun u hu i hi j hj => ?_
    rw [hu i hi]
    by_cases h : i < b.toNat
    · rw [if_pos h, bitOn_maskOf _ _ _ hj, decide_eq_true h, Bool.true_and]
    · rw [if_neg h, decide_eq_false h, Bool.false_and]
      simp [bitOn]
  · refine does_putAll _ rfl rfl fun u hu i hi j hj => ?_
    rw [hu i hi, bitOn_maskOf _ _ _ hj]

end Sys2Proof.Laws

end

section
/-! # Traps of enabled flags and of overlong results (O10) -/

namespace Sys2Proof.Laws

open Sys2Proof Sys2Proof.Machine

/-! ## Enabled flags (R226) -/

theorem withFlags_trapped {s : State} {sel : LaneMask} {fl : Nat → FFlags} (eff : State → State)
    (h : (flagsOver sel fl).trapsUnder s.seen.status = true) : s.withFlags sel fl eff = s.raise { s.trapOf 20 0 with
      detail := BitVec.ofNat 12 (flagsOver sel fl).bits
      lanes := maskOf 32 fun i => bitOn sel i && (fl i).trapsUnder s.seen.status } :=
  if_pos h

/-- An instruction whose effect is elements of class 3. -/
theorem floatTraps_of {s : State} {i : Instr} {p : Option Pre} {t : BitVec 3} {d : RegNo} {f g : Nat → Nat → Nat × FFlags}
    (eff : State → State) (e : exec i s = s.issue1 i eff) (e2 : eff s = s.fpElems p t d f)
    (h : ∀ j k, f j k = g j k := by intros; rfl) : s.FloatTraps i p t g := fun hc htrap => by
  obtain rfl : f = g := funext fun j => funext fun k => h j k
  rw [e, issue1_clear _ hc, e2]
  unfold State.fpElems
  exact congrArg _ (withFlags_trapped _ htrap)

/-! ## Numbers that are too long (R259, R267) -/

theorem limbSum_lt {f : Nat → Nat} (h : ∀ i, f i < 2 ^ 32) (n : Nat) : limbSum n f < 2 ^ (32 * n) := by
  induction n with
  | zero => exact Nat.one_pos
  | succ n ih =>
    have hlimb : (f n + 1) * 2 ^ (32 * n) ≤ 2 ^ 32 * 2 ^ (32 * n) := Nat.mul_le_mul_right _ (h n)
    rw [Nat.mul_succ, Nat.pow_add, Nat.mul_comm (2 ^ (32 * n))]
    rw [Nat.add_mul, Nat.one_mul] at hlimb
    unfold limbSum
    omega

/-- Slot words above the lanes. -/
theorem add_mul_two_pow_lt {x y m n : Nat} (hx : x < 2 ^ m) (hy : y < 2 ^ n) : x + y * 2 ^ m < 2 ^ (n + m) := by
  have hle : (y + 1) * 2 ^ m ≤ 2 ^ n * 2 ^ m := Nat.mul_le_mul_right _ hy
  rw [Nat.pow_add]
  rw [Nat.add_mul, Nat.one_mul] at hle
  omega

theorem magAt_lt (s : State) (r : RegNo) (len : Nat) : s.magAt r len < 2 ^ (32 * len) := by
  have hlanes : s.laneMag r (min len 32) < 2 ^ (32 * min len 32) := limbSum_lt (fun i => (s.rl r i).isLt) _
  unfold State.magAt
  by_cases h : 32 < len
  · have hslots := leOf_lt (Memory.bytes s.mem (s.slotKey r 0) (4 * (len - 32)))
    rw [show (Memory.bytes s.mem (s.slotKey r 0) (4 * (len - 32))).length = 4 * (len - 32) by simp [Memory.bytes],
      show (256 : Nat) = 2 ^ 8 from rfl, ← Nat.pow_mul] at hslots
    rw [if_pos h, show 32 * len = 8 * (4 * (len - 32)) + 1024 by omega]
    rw [Nat.min_eq_right h.le] at hlanes ⊢
    exact add_mul_two_pow_lt hlanes hslots
  · rw [if_neg h, Nat.add_zero]
    rwa [show 32 * min len 32 = 32 * len by omega] at hlanes

theorem value_lt (s : State) (r : RegNo) : (s.value r).natAbs < 2 ^ (32 * 127) := by
  have hlen := (s.rtag r).len.isLt
  have hmag : s.magAt r (s.rtag r).len.toNat < 2 ^ (32 * 127) :=
    (magAt_lt s r _).trans_le (Nat.pow_le_pow_right (by decide) (by omega))
  unfold State.value signed
  split
  · rwa [Int.natAbs_neg, Int.natAbs_natCast]
  · rwa [Int.natAbs_natCast]

/-- The normalised length is the least number of limbs that holds the magnitude. -/
theorem bigLen_spec (z : Int) : (z = 0 → bigLen z = 0) ∧
    (z ≠ 0 → 2 ^ (32 * (bigLen z - 1)) ≤ z.natAbs ∧ z.natAbs < 2 ^ (32 * bigLen z)) := by
  unfold bigLen
  refine ⟨fun h => if_pos h, fun h => ?_⟩
  rw [if_neg h, Nat.add_sub_cancel]
  have hlow : 2 ^ Nat.log2 z.natAbs ≤ z.natAbs := Nat.log2_self_le (Int.natAbs_ne_zero.mpr h)
  have hhigh : z.natAbs < 2 ^ (Nat.log2 z.natAbs + 1) := Nat.lt_log2_self
  exact ⟨(Nat.pow_le_pow_right (by decide) (Nat.mul_div_le ..)).trans hlow,
    hhigh.trans_le (Nat.pow_le_pow_right (by decide) (by omega))⟩

theorem bigLen_le {z : Int} {n : Nat} (h : z.natAbs < 2 ^ n) : bigLen z ≤ n := by
  unfold bigLen
  split
  · exact Nat.zero_le n
  · next hz =>
    have hlog : Nat.log2 z.natAbs < n := (Nat.log2_lt (Int.natAbs_ne_zero.mpr hz)).mpr h
    omega

theorem natAbs_lt_of_le_add {x y z : Int} {n : Nat} (hx : x.natAbs < 2 ^ n) (hy : y.natAbs < 2 ^ n)
    (hz : z.natAbs ≤ x.natAbs + y.natAbs) : z.natAbs < 2 ^ (n + 1) := by
  rw [Nat.pow_succ]
  omega

/-- The slot words are quiet, and the operation goes on (R261). -/
theorem withSlots_quiet {s : State} {srcs : List RegNo} {d : RegNo} (go : State → State) (hsrc : s.SlotsQuiet srcs)
    (hdst : s.slotBusy d = false) : s.withSlots srcs [d] go = go s := by
  unfold State.withSlots
  refine if_neg (Bool.not_eq_true _ ▸ List.any_eq_false.mpr fun r hr => ?_)
  rcases List.mem_append.mp hr with hr | hr
  · obtain ⟨hmem, hlen⟩ := List.mem_filter.mp hr
    simp [hsrc r hmem (by simpa using hlen)]
  · rw [List.mem_singleton.mp hr, hdst]
    decide

/-- A result that the slot cannot hold traps with its length. -/
theorem overlong_traps {s : State} {i : Instr} {d : RegNo} {srcs : List RegNo} {x : State → Int}
    (e : exec i s = s.issue1 i fun t => t.bigResult d srcs x) (hsrc : s.SlotsQuiet srcs) (hdst : s.slotBusy d = false)
    (hlen : bigLen (x s) ≤ 2 ^ 64 - 1) (hc : s.clear i) (hlong : 32 + s.slotLimbs < bigLen (x s)) :
    exec i s = .next (s.raise (s.trapAt 15 (BitVec.ofNat 64 (bigLen (x s))))) := by
  rw [e, issue1_clear _ hc]
  unfold State.bigResult State.putNum State.lengthTrap
  rw [withSlots_quiet _ hsrc hdst, if_pos hlong, Nat.min_eq_left hlen]

/-- Settles O10: the trapping branch of `State.withFlags`, and that of `State.putNum`, whose length fits FAULTADDR since a
resident number has at most 127 limbs. -/
theorem enabledFlagsAndOverlongResultsTrap : Obligations.EnabledFlagsAndOverlongResultsTrap := by
  refine ⟨?_, ?_⟩
  · rintro s p c t d a b F m A B S X rfl rfl rfl rfl rfl rfl
    have hscale : ∀ i k, fScale (fpFmt t) (s.mode p) (s.fpVal t a i k) (sx (s.rl b i).toNat 32) =
        fScale (fpFmt t) (s.mode p) (s.fpVal t a i k) (s.rl b i).toInt := fun i k => by rw [sx_toInt]
    exact ⟨floatTraps_of _ rfl rfl, floatTraps_of _ rfl rfl, floatTraps_of _ rfl rfl, floatTraps_of _ rfl rfl,
      floatTraps_of _ rfl rfl, floatTraps_of _ rfl rfl, floatTraps_of _ rfl rfl, floatTraps_of _ rfl rfl, floatTraps_of _ rfl rfl,
      floatTraps_of _ rfl rfl, floatTraps_of _ rfl rfl, floatTraps_of _ rfl rfl, floatTraps_of _ rfl rfl,
      floatTraps_of _ rfl rfl hscale, floatTraps_of _ rfl rfl, floatTraps_of _ rfl rfl, floatTraps_of _ rfl rfl⟩
  · rintro s c d a b x y rfl rfl hsrc hdst
    have hlen : ∀ z : Int, z.natAbs ≤ (s.value a).natAbs + (s.value b).natAbs → bigLen z ≤ 2 ^ 64 - 1 := fun z hz =>
      (bigLen_le (natAbs_lt_of_le_add (value_lt s a) (value_lt s b) hz)).trans (by decide)
    exact ⟨overlong_traps (x := fun u => u.value a + u.value b) rfl hsrc hdst (hlen _ (Int.natAbs_add_le ..)),
      overlong_traps (x := fun u => u.value a - u.value b) rfl hsrc hdst (hlen _ (Int.natAbs_sub_le ..)), bigLen_spec⟩

end Sys2Proof.Laws

end

section
/-! # Arithmetic of resident numbers (O27) -/

namespace Sys2Proof.Laws

open Sys2Proof Sys2Proof.Machine

/-! ## Writes to scratch (R92, R139) -/

theorem isMain_scratch {key : Nat} (h : 2 ^ 50 ≤ key) : isMain key = false := decide_eq_false (by omega)

/-- The sectors of a string in scratch are none of main memory. -/
theorem isMain_sectorMasks {key n : Nat} {x : Nat × BitVec 32} (h : 2 ^ 50 ≤ key) (hx : x ∈ sectorMasks key n) :
    isMain (x.1 * 32) = false := by
  obtain ⟨i, -, rfl⟩ := List.mem_map.mp hx
  exact decide_eq_false (by dsimp only; omega)

theorem cleanSector_eq (s : State) (sec : Nat) (mask : BitVec 32) :
    ∃ ps, s.cleanSector sec mask = { s with memsys := { s.memsys with poisonedSectors := ps } } := by
  unfold State.cleanSector
  split
  · exact ⟨s.memsys.poisonedSectors, rfl⟩
  · exact ⟨_, rfl⟩

/-- No cache holds scratch; a write there only makes poisoned sectors clean. -/
theorem writtenThrough_scratch (s : State) {key : Nat} (n : Nat) (slot : BitVec 10) (p : Policy) (h : 2 ^ 50 ≤ key) :
    ∃ ps, writtenThrough s key n slot p = { s with memsys := { s.memsys with poisonedSectors := ps } } := by
  refine List.foldlRecOn (motive := fun t : State => ∃ ps, t = { s with memsys := { s.memsys with poisonedSectors := ps } })
    (sectorMasks key n) _ ⟨s.memsys.poisonedSectors, rfl⟩ fun t ht x hx => ?_
  obtain ⟨ps, rfl⟩ := ht
  have huncached : ∀ t : State, t.cacheWrite x.1 x.2 slot p = t := fun t => if_pos (by simp [isMain_sectorMasks h hx])
  rw [huncached]
  obtain ⟨qs, hqs⟩ := cleanSector_eq { s with memsys := { s.memsys with poisonedSectors := ps } } x.1 x.2
  exact ⟨qs, hqs⟩

theorem evalMonitors_eq (s : State) (key n : Nat) : ∃ ms, s.evalMonitors key n = { s with monitors := ms } := by
  unfold State.evalMonitors
  split
  · exact ⟨s.monitors, rfl⟩
  · exact ⟨_, rfl⟩

theorem writeKey_scratch (s : State) (slot : BitVec 10) {key : Nat} (bs : List Byte) (h : 2 ^ 50 ≤ key) :
    s.writeKey slot key bs = { s with mem := Memory.put s.mem key bs } := by
  unfold State.writeKey
  simp only [isMain_scratch h, Bool.false_eq_true, if_false]

theorem homeWrite_scratch (s : State) {key : Nat} (bs : List Byte) (slot : BitVec 10) (p : Policy) (h : 2 ^ 50 ≤ key) :
    ∃ ms ps, s.homeWrite key bs slot p =
      { s with mem := Memory.put s.mem key bs, monitors := ms, memsys := { s.memsys with poisonedSectors := ps } } := by
  obtain ⟨ps, hps⟩ := writtenThrough_scratch s bs.length slot p h
  obtain ⟨ms, hms⟩ := evalMonitors_eq ((writtenThrough s key bs.length slot p).writeKey slot key bs) key bs.length
  refine ⟨ms, ps, ?_⟩
  rw [homeWrite_eq, hms, writeKey_scratch _ slot bs h, hps]

/-! ## put of a number (R259) -/

/-- The low 32 limbs of a number in a register's lanes. -/
def putLimbs (s : State) (d : RegNo) (x : Int) : State :=
  s.wv d (BitVec.allOnes 32) fun i => BitVec.ofNat 32 (x.natAbs / 2 ^ (32 * i))

/-- The limbs of a number above its 32 low ones, as the bytes of slot words. -/
def slotBytes (x : Int) : List Byte := bytesLE (4 * (bigLen x - 32)) (x.natAbs / 2 ^ 1024)

/-- Those limbs in a register's slot words. -/
def putSlots (s : State) (d : RegNo) (x : Int) : State :=
  if 32 < bigLen x then s.homeWrite (s.slotKey d 0) (slotBytes x) 0 Policy.plain else s

theorem putBig_eq (s : State) (d : RegNo) (x : Int) : s.putBig d x =
    (putSlots (putLimbs s d x) d x).wtag d { len := BitVec.ofNat 7 (bigLen x), sign := decide (x < 0) } := rfl

theorem slotKey_putLimbs (s : State) (d n : RegNo) (x : Int) (i : Nat) : (putLimbs s d x).slotKey n i = s.slotKey n i := by
  unfold putLimbs
  rw [wv_eq]
  rfl

theorem slotKey_scratch (s : State) (n : RegNo) (i : Nat) : 2 ^ 50 ≤ s.slotKey n i := by
  unfold State.slotKey scratchKey
  omega

/-- Memory with a number's slot words at a key. -/
def slotMemory (m : Memory) (key : Nat) (x : Int) : Memory := if 32 < bigLen x then Memory.put m key (slotBytes x) else m

theorem putSlots_eq (s : State) (d : RegNo) (x : Int) : ∃ ms ps, putSlots s d x =
    { s with mem := slotMemory s.mem (s.slotKey d 0) x, monitors := ms, memsys := { s.memsys with poisonedSectors := ps } } := by
  unfold putSlots slotMemory
  split
  · exact homeWrite_scratch s _ 0 Policy.plain (slotKey_scratch s d 0)
  · exact ⟨s.monitors, s.memsys.poisonedSectors, rfl⟩

theorem get_slotMemory {m : Memory} (hm : m.wf = true) (key : Nat) (x : Int) (a : Nat) : Memory.get (slotMemory m key x) a =
    if key ≤ a ∧ a < key + 4 * (bigLen x - 32) then BitVec.ofNat 8 (x.natAbs / 2 ^ 1024 / 256 ^ (a - key))
    else Memory.get m a := by
  have hlen : (slotBytes x).length = 4 * (bigLen x - 32) := bytesLE_length _ _
  unfold slotMemory
  by_cases hbig : 32 < bigLen x
  · rw [if_pos hbig]
    by_cases ha : key ≤ a ∧ a < key + 4 * (bigLen x - 32)
    · obtain ⟨i, rfl⟩ := Nat.exists_eq_add_of_le ha.1
      have hi : i < 4 * (bigLen x - 32) := by omega
      have hbyte : (slotBytes x)[i]'(by omega) = listAt (slotBytes x) i 0 := (List.getD_eq_getElem _ _ _).symm
      rw [if_pos ha, get_put_same key i _ hm (by omega), hbyte, Nat.add_sub_cancel_left]
      exact listAt_bytesLE _ hi
    · rw [if_neg ha]
      exact get_put_other _ hm (by omega)
  · rw [if_neg hbig, if_neg (by omega)]

theorem putLimbs_eq (s : State) (d : RegNo) (x : Int) : ∃ held, putLimbs s d x = { s with
    sp := { s.sp with held := held, regs := { s.sp.regs with v := (putLimbs s d x).sp.regs.v } } } := by
  unfold putLimbs
  rw [wv_eq]
  exact ⟨_, rfl⟩

/-- Everything that `put` writes. -/
theorem putBig_writes (s : State) (d : RegNo) (x : Int) : ∃ held ms ps, s.putBig d x = { s with
    mem := slotMemory s.mem (s.slotKey d 0) x, monitors := ms, memsys := { s.memsys with poisonedSectors := ps },
    sp := { s.sp with
      held := held,
      regs := { s.sp.regs with
        v := (putLimbs s d x).sp.regs.v,
        tag := s.sp.regs.tag.set d.toNat { len := BitVec.ofNat 7 (bigLen x), sign := decide (x < 0) } d.isLt } } } := by
  obtain ⟨ms, ps, hslots⟩ := putSlots_eq (putLimbs s d x) d x
  obtain ⟨held, hlimbs⟩ := putLimbs_eq s d x
  refine ⟨held, ms, ps, ?_⟩
  rw [putBig_eq, hslots, slotKey_putLimbs, hlimbs]
  rfl

theorem putBig_v (s : State) (d : RegNo) (x : Int) : (s.putBig d x).sp.regs.v = (putLimbs s d x).sp.regs.v := by
  obtain ⟨held, ms, ps, h⟩ := putBig_writes s d x
  rw [h]

theorem putBig_tag (s : State) (d : RegNo) (x : Int) : (s.putBig d x).sp.regs.tag =
    s.sp.regs.tag.set d.toNat { len := BitVec.ofNat 7 (bigLen x), sign := decide (x < 0) } d.isLt := by
  obtain ⟨held, ms, ps, h⟩ := putBig_writes s d x
  rw [h]

theorem putBig_mem (s : State) (d : RegNo) (x : Int) : (s.putBig d x).mem = slotMemory s.mem (s.slotKey d 0) x := by
  obtain ⟨held, ms, ps, h⟩ := putBig_writes s d x
  rw [h]

theorem putBig_lane (s : State) (d : RegNo) (x : Int) {i : Nat} (hi : i < 32) :
    (s.putBig d x).lane d i = BitVec.ofNat 32 (x.natAbs / 2 ^ (32 * i)) := by
  unfold State.lane
  rw [putBig_v]
  exact (wv_lane s d _ _ i hi).trans (if_pos (bitOn_allOnes hi))

theorem putBig_tag_self (s : State) (d : RegNo) (x : Int) : (s.putBig d x).sp.regs.tag[d.toNat]'d.isLt =
    { len := BitVec.ofNat 7 (bigLen x), sign := decide (x < 0) } := by
  rw [putBig_tag]
  exact Vector.getElem_set_self _

/-- `put` leaves the number in lanes, slot words and tag, and nothing else changes. -/
theorem putBig_is {s : State} (hs : s.safe) (d : RegNo) (x : Int) : BigIs s (s.putBig d x) d x := by
  refine ⟨?_, fun n hn => ⟨?_, ?_⟩, fun i hi => putBig_lane s d x hi, putBig_tag_self s d x, fun a => ?_⟩
  · obtain ⟨held, ms, ps, h⟩ := putBig_writes s d x
    rw [h]
  · rw [putBig_v]
    exact wv_other s d n _ _ hn
  · rw [putBig_tag]
    exact Vector.getElem_set_ne _ _ (toNat_ne hn)
  · rw [putBig_mem]
    exact get_slotMemory hs _ x a

/-! ## Results that fit (R259, R261) -/

theorem putNum_of_fits {s : State} {x : Int} (d : RegNo) (h : bigLen x ≤ 32 + s.slotLimbs) : s.putNum d x = s.putBig d x :=
  if_neg (by omega)

/-- An instruction whose effect is put of a number. -/
theorem big_of {s : State} {i : Instr} {d : RegNo} {srcs : List RegNo} {x : Int} {f : State → Int} (eff : State → State)
    (e : exec i s = s.issue1 i eff) (h : eff s = s.bigResult d srcs f) (hs : s.safe) (hf : f s = x) : s.Big i d srcs x :=
  fun hc hsrc hdst hlen => by
    subst hf
    refine ⟨_, ?_, putBig_is hs d (f s)⟩
    rw [e, issue1_clear _ hc, h]
    unfold State.bigResult
    rw [withSlots_quiet _ hsrc hdst, putNum_of_fits d hlen]

/-! ## Shifts (R267) -/

theorem log2_mul_two_pow {m : Nat} (hm : m ≠ 0) (n : Nat) : Nat.log2 (m * 2 ^ n) = Nat.log2 m + n := by
  induction n with
  | zero => simp
  | succ n ih =>
    have hne : m * 2 ^ n ≠ 0 := mul_ne_zero hm (by positivity)
    rw [Nat.pow_succ', Nat.mul_left_comm, Nat.log2_two_mul hne, ih, Nat.add_assoc]

theorem bigLen_mul_two_pow {x : Int} (hx : x ≠ 0) (n : Nat) : bigLen (x * 2 ^ n) = (Nat.log2 x.natAbs + n) / 32 + 1 := by
  have habs : (x * 2 ^ n).natAbs = x.natAbs * 2 ^ n := by rw [Int.natAbs_mul, Int.natAbs_pow]; rfl
  unfold bigLen
  rw [if_neg (mul_ne_zero hx (by positivity)), habs, log2_mul_two_pow (Int.natAbs_ne_zero.mpr hx)]

/-- A left shift judges the length before it is made. -/
theorem bigShl_of_fits {s : State} {d a : RegNo} {n : Nat} (hsrc : s.SlotsQuiet [a]) (hdst : s.slotBusy d = false)
    (hlen : bigLen (s.value a * 2 ^ n) ≤ 32 + s.slotLimbs) : s.bigShl d a n = s.putBig d (s.value a * 2 ^ n) := by
  unfold State.bigShl
  rw [withSlots_quiet _ hsrc hdst]
  dsimp only
  split
  · next h => rw [h, Int.zero_mul]
  · next h =>
    rw [bigLen_mul_two_pow h] at hlen
    exact if_neg (by omega)

theorem big_shl {s : State} {i : Instr} {d a : RegNo} {n : Nat} (eff : State → State) (e : exec i s = s.issue1 i eff)
    (h : eff s = s.bigShl d a n) (hs : s.safe) : s.Big i d [a] (s.value a * 2 ^ n) := fun hc hsrc hdst hlen =>
  ⟨_, by rw [e, issue1_clear _ hc, h, bigShl_of_fits hsrc hdst hlen], putBig_is hs d _⟩

/-- A right shift truncates the magnitude; from 2^4096 on nothing is left of it. -/
theorem shr_eq_tdiv {x : Int} {k : Nat} (h : x.natAbs < 2 ^ k) (hk : k ≤ 4096) (n : Nat) :
    (if 4096 ≤ n then 0 else signed (decide (x < 0)) (x.natAbs / 2 ^ n)) = x.tdiv (2 ^ n) := by
  have hdiv : x.tdiv (2 ^ n) = signed (decide (x < 0)) (x.natAbs / 2 ^ n) := by
    unfold signed
    by_cases hneg : x < 0
    · obtain ⟨m, rfl⟩ : ∃ m : Nat, x = -m := ⟨x.natAbs, by omega⟩
      rw [decide_eq_true hneg, if_pos rfl, Int.neg_tdiv, Int.natAbs_neg, Int.natAbs_natCast]
      norm_cast
    · obtain ⟨m, rfl⟩ : ∃ m : Nat, x = m := ⟨x.natAbs, by omega⟩
      rw [decide_eq_false hneg, if_neg Bool.false_ne_true, Int.natAbs_natCast]
      norm_cast
  rw [hdiv]
  split
  · next hn =>
    have hsmall : x.natAbs < 2 ^ n := h.trans_le (Nat.pow_le_pow_right (by decide) (hk.trans hn))
    rw [Nat.div_eq_of_lt hsmall]
    simp [signed]
  · rfl

/-- Settles O27: every result goes through `State.putBig`, of which `putBig_is` says what it leaves. -/
theorem bigResults : Obligations.BigResults := by
  rintro s c d a b n x y hs rfl rfl
  have hshift := shr_eq_tdiv (value_lt s a) (by decide)
  exact ⟨big_of _ rfl rfl hs rfl, big_of _ rfl rfl hs rfl, big_of _ rfl rfl hs rfl,
    big_of _ rfl rfl hs (Int.natCast_natAbs _), big_shl _ rfl rfl hs, big_shl _ rfl rfl hs,
    big_of _ rfl rfl hs (hshift _), big_of _ rfl rfl hs (hshift _), big_of _ rfl rfl hs rfl⟩

end Sys2Proof.Laws

end

section
/-! # Comparison, lengths and the exact window (O28) -/

namespace Sys2Proof.Laws

open Sys2Proof Sys2Proof.Machine

/-! ## Numbers that are read (R261, R267, R268) -/

/-- The slot words of the sources are quiet, and the operation goes on (R261). -/
theorem withSlots_sources {s : State} {srcs : List RegNo} (go : State → State) (h : s.SlotsQuiet srcs) :
    s.withSlots srcs [] go = go s := by
  unfold State.withSlots
  refine if_neg (Bool.not_eq_true _ ▸ List.any_eq_false.mpr fun r hr => ?_)
  obtain ⟨hmem, hlen⟩ := List.mem_filter.mp (List.append_nil _ ▸ hr)
  simp [h r hmem (by simpa using hlen)]

theorem slotsQuiet_nil (s : State) : s.SlotsQuiet [] := fun _ hr => absurd hr List.not_mem_nil

theorem slotsQuiet_cons {s : State} {a : RegNo} {rs : List RegNo} (ha : s.SlotsQuiet [a]) (hrs : s.SlotsQuiet rs) :
    s.SlotsQuiet (a :: rs) := fun r hr => by
  rcases List.mem_cons.mp hr with rfl | hr
  · exact ha r (List.mem_singleton.mpr rfl)
  · exact hrs r hr

theorem slotsQuiet_of_idle {s : State} {d : RegNo} (h : s.slotBusy d = false) : s.SlotsQuiet [d] := fun r hr _ => by
  rw [List.mem_singleton.mp hr, h]

/-- The bit length of a number. -/
theorem bitLength_eq {x : Int} {n : Nat} (h0 : x = 0 → n = 0)
    (h1 : x ≠ 0 → 0 < n ∧ 2 ^ (n - 1) ≤ x.natAbs ∧ x.natAbs < 2 ^ n) :
    (if x = 0 then 0 else Nat.log2 x.natAbs + 1) = n := by
  split
  · next hx => exact (h0 hx).symm
  · next hx =>
    obtain ⟨hn, hlow, hhigh⟩ := h1 hx
    rw [← Nat.sub_add_cancel hn] at hhigh
    have hlog := (Nat.log2_eq_iff (Int.natAbs_ne_zero.mpr hx)).mpr ⟨hlow, hhigh⟩
    omega

/-! ## Windows that are written (R287 to R290) -/

/-- A number that is put while XWIN is written. -/
theorem bigIs_wxwin {s u : State} {d : RegNo} {x : Int} (h : BigIs s u d x) (X : DWord) : BigIs (s.wxwin X) (u.wxwin X) d x := by
  obtain ⟨hframe, hother, hlanes, htag, hmem⟩ := h
  exact ⟨by rw [hframe]; rfl, hother, hlanes, htag, hmem⟩

theorem putBig_window {s : State} (hs : s.safe) (d : RegNo) (x : Int) (X : DWord) :
    BigIs (s.wxwin X) ((s.putBig d x).wxwin X) d x := bigIs_wxwin (putBig_is hs d x) X

theorem bigLen_signed (neg : Bool) (k : Nat) : bigLen (signed neg k) = bigLen k := by
  unfold bigLen signed
  cases neg <;> simp

/-! ## The instructions -/

section
variable {s : State} {c : Bool} {d a b : RegNo}

theorem dotx_adds {w : WinSum} (hs : s.safe) (hw : (List.range 32).foldl
      (fun w i => w.add (xwinExp s.seen.xwin) (s.f64At a i) (s.f64At b i))
      { acc := 0, sticky := false, spec := xwinSpec s.seen.xwin } = w)
    (hc : s.clear (.dotx c d a b)) (hd : s.slotBusy d = false) (hlen : bigLen (s.value d + w.acc) ≤ 32) :
    Answers (.dotx c d a b) s fun u =>
      BigIs (s.wxwin (xwinPut s.sp.regs.xwin w.sticky w.spec)) u d (s.value d + w.acc) := by
  subst hw
  refine ⟨_, (issue1_clear _ hc).trans (congrArg _ ?_), putBig_window hs d _ _⟩
  exact (withSlots_quiet _ (slotsQuiet_of_idle hd) hd).trans (if_neg (by omega))

/-- A window without specials is rounded, and INEXACT is noted (R289). -/
def rounded (s : State) (d a : RegNo) : State :=
  let x := roundInt Fmt.f64 .rne (s.value a) (xwinExp s.seen.xwin) false
  let v := s.ws d (BitVec.ofNat 64 x.1)
  if x.2.nx then v.wxwin (setBit v.sp.regs.xwin 19 true) else v

/-- A window with its specials becomes an FP64 value (R289). -/
def roundedWindow (s : State) (d a : RegNo) : State :=
  match xwinSpec s.seen.xwin with
  | 1 => s.ws d 0x7FF0000000000000
  | 2 => s.ws d 0xFFF0000000000000
  | 3 => s.ws d 0x7FF8000000000000
  | _ => rounded s d a

theorem xround_answers {u : State} (hc : s.clear (.xround c d a)) (ha : s.SlotsQuiet [a]) (hu : roundedWindow s d a = u) :
    exec (.xround c d a) s = .next u :=
  (issue1_clear _ hc).trans (congrArg _ ((withSlots_sources _ ha).trans hu))

theorem roundedWindow_special {x : DWord} {n : Nat} (hn : xwinSpec s.seen.xwin = n)
    (hx : (n = 1 ∧ x = 0x7FF0000000000000) ∨ (n = 2 ∧ x = 0xFFF0000000000000) ∨ (n = 3 ∧ x = 0x7FF8000000000000)) :
    roundedWindow s d a = s.withScalar d x := by
  unfold roundedWindow
  rw [hn, ← ws_withScalar]
  rcases hx with ⟨rfl, rfl⟩ | ⟨rfl, rfl⟩ | ⟨rfl, rfl⟩ <;> rfl

theorem roundedWindow_finite (h : xwinSpec s.seen.xwin = 0) : roundedWindow s d a = rounded s d a := by
  unfold roundedWindow
  rw [h]
  rfl

theorem rounded_eq (s : State) (d a : RegNo) : ∃ r fl, (r, fl) = roundInt Fmt.f64 .rne (s.value a) (xwinExp s.seen.xwin) false ∧
    rounded s d a = (s.withScalar d (BitVec.ofNat 64 r)).wxwin
      (if fl.nx then setBit s.sp.regs.xwin 19 true else s.sp.regs.xwin) := by
  unfold rounded
  generalize roundInt Fmt.f64 .rne (s.value a) (xwinExp s.seen.xwin) false = x
  refine ⟨x.1, x.2, rfl, ?_⟩
  dsimp only
  rw [ws_withScalar]
  cases x.2.nx <;> rfl

/-- A value put into a window (R290). -/
def converted (s : State) (d : RegNo) (x : FVal) : State :=
  match x with
  | .nan _ => (s.putBig d 0).wxwin (xwinPut s.sp.regs.xwin false 3)
  | .inf neg =>
    (s.putBig d 0).wxwin (xwinPut s.sp.regs.xwin false (specMerge (xwinSpec s.seen.xwin) (if neg then 2 else 1)))
  | .fin neg m e =>
    let t := truncAt m e (xwinExp s.seen.xwin)
    let n := signed neg t.1
    if 32 < bigLen n then s.raise (s.lengthTrap (bigLen n))
    else (s.putBig d n).wxwin (xwinPut s.sp.regs.xwin t.2 (xwinSpec s.seen.xwin))

theorem converted_fin {neg : Bool} {m : Nat} {e : Int} (h : bigLen (truncAt m e (xwinExp s.seen.xwin)).1 ≤ 32) :
    converted s d (.fin neg m e) = (s.putBig d (signed neg (truncAt m e (xwinExp s.seen.xwin)).1)).wxwin
      (xwinPut s.sp.regs.xwin (truncAt m e (xwinExp s.seen.xwin)).2 (xwinSpec s.seen.xwin)) :=
  if_neg (by rw [bigLen_signed]; omega)

/-- What `bcvt` does with the value that it converts, once the slot words of its destination are quiet. -/
theorem bcvt_answers {x : FVal} {P : State → Prop} (hx : FVal.ofBits Fmt.f64 (s.rs b).toNat = x) (hc : s.clear (.bcvt c d b))
    (hd : s.slotBusy d = false) (h : P (converted s d x)) : Answers (.bcvt c d b) s P := by
  subst hx
  exact ⟨_, (issue1_clear _ hc).trans (congrArg _ (withSlots_quiet _ (slotsQuiet_nil s) hd)), h⟩

end

/-- Settles O28: `bcmp` and `blen` write S(sd); what the window instructions put is `putBig_is`, with XWIN written beside it. -/
theorem comparisonAndExactWindow : Obligations.ComparisonAndExactWindow := by
  refine ⟨fun s c d a b n ha h0 h1 => ⟨fun hb => ?_, ?_⟩, ?_⟩
  · exact sets_of _ rfl (withSlots_sources _ (slotsQuiet_cons ha hb)) rfl
  · exact sets_of _ rfl (withSlots_sources _ ha) (by rw [bitLength_eq h0 h1])
  · rintro s c d a b X w hs rfl rfl
    refine ⟨dotx_adds hs rfl, fun hc ha => ⟨fun h => ?_, fun h => ?_, fun h => ?_, fun h => ?_⟩,
      fun hc hd => ⟨fun q h => ?_, fun neg h => ?_, fun neg m e h hlen => ?_⟩⟩
    · exact xround_answers hc ha (roundedWindow_special h (.inl ⟨rfl, rfl⟩))
    · exact xround_answers hc ha (roundedWindow_special h (.inr (.inl ⟨rfl, rfl⟩)))
    · exact xround_answers hc ha (roundedWindow_special h (.inr (.inr ⟨rfl, rfl⟩)))
    · exact ⟨_, xround_answers hc ha (roundedWindow_finite h), rounded_eq s d a⟩
    · exact bcvt_answers h hc hd (putBig_window hs d _ _)
    · exact bcvt_answers h hc hd (putBig_window hs d _ _)
    · exact bcvt_answers h hc hd (converted_fin hlen ▸ putBig_window hs d _ _)

end Sys2Proof.Laws

end

section
/-! # Operations on numbers that other units complete (O29) -/

namespace Sys2Proof.Laws

open Sys2Proof Sys2Proof.Machine

/-! ## Entering the queue of the matrix engine (R270, R309) -/

theorem accepts_eq (c : Core) (slot : BitVec 6) : c.accepts slot = (c.holder.isNone || c.holder == some slot) := by
  unfold Core.accepts
  cases c.holder <;> simp

/-- An operation behind those of its kind in a queue: accepted ones stand before those that wait. -/
def queuedIn (ops : List EngineOp) (o : EngineOp) : List EngineOp :=
  if o.accepted then (ops.filter fun x => x.accepted) ++ [o] ++ ops.filter fun x => !x.accepted
  else (ops.filter fun x => x.accepted) ++ (ops.filter fun x => !x.accepted) ++ [o]

theorem queuedIn_accepted (ops : List EngineOp) (o : EngineOp) : ((queuedIn ops o).filter fun x => x.accepted) =
    (ops.filter fun x => x.accepted) ++ if o.accepted then [o] else [] := by
  unfold queuedIn
  cases h : o.accepted <;> simp [List.filter_filter, h]

theorem queuedIn_waiting (ops : List EngineOp) (o : EngineOp) : ((queuedIn ops o).filter fun x => !x.accepted) =
    (ops.filter fun x => !x.accepted) ++ if o.accepted then [] else [o] := by
  unfold queuedIn
  cases h : o.accepted <;> simp [List.filter_filter, h]

/-- The operation that the focused span enters. -/
def enteredOp (s : State) (kind : EngineKind) (region : RegionId) : EngineOp :=
  { id := s.nextId + 1, span := s.sp.id, kind := kind, accepted := s.core.accepts s.sp.id.slot, modq := s.seen.modq,
    xwin := s.seen.xwin, segs := s.seenSegs, clause := s.gangClause, pc := s.here, region := region, progress := 0, slices := [],
    faulted := false, gathered := (false, 0), parked := none, failed := none, since := s.now, lost := false }

theorem enterOp_ops (s : State) (kind : EngineKind) (region : RegionId) (refs : List Ref) :
    (s.enterOp kind region refs).core.ops = queuedIn s.core.ops (enteredOp s kind region) := rfl

theorem enterOp_queues (s : State) (kind : EngineKind) (region : RegionId) (refs : List Ref) :
    s.Queues (s.enterOp kind region refs) kind refs := by
  refine ⟨rfl, enteredOp s kind region, rfl, rfl, rfl, rfl, rfl, rfl, rfl, rfl, rfl, rfl, accepts_eq _ _, ?_, ?_⟩
  · rw [enterOp_ops]
    exact queuedIn_accepted _ _
  · rw [enterOp_ops]
    exact queuedIn_waiting _ _

/-! ## Products and quotients (R270 to R274) -/

/-- An instruction whose effect leads to a state with a property. -/
theorem does_reaching {s t : State} {i : Instr} {P : State → Prop} {eff : State → State} (e : exec i s = s.issue1 i eff)
    (heff : eff s = t) (h : P t) : s.Does i P := does_of eff e (heff ▸ h)

/-- The same for one that reads numbers and writes no slot word. -/
theorem does_sources {s t : State} {i : Instr} {srcs : List RegNo} {P : State → Prop} (go : State → State)
    (e : exec i s = s.issue1 i fun t => t.withSlots srcs [] go) (hq : s.SlotsQuiet srcs) (hgo : go s = t) (h : P t) : s.Does i P :=
  does_reaching e ((withSlots_sources _ hq).trans hgo) h

/-- Barrett's steps one by one (R274). -/
theorem barrett_eq (x m mu k : Nat) : ∃ q : Nat, ∃ r r1 z : Int, q = x / 2 ^ (32 * (k - 1)) * mu / 2 ^ (32 * (k + 1)) ∧
    r = (x : Int) - q * m ∧ r1 = (if (m : Int) ≤ r then r - m else r) ∧ z = (if (m : Int) ≤ r1 then r1 - m else r1) ∧
    barrett x m mu k = z :=
  ⟨_, _, _, _, rfl, rfl, rfl, rfl, rfl⟩

theorem bmult_enters (s : State) (c : Bool) (d a b : RegNo) (hq : s.SlotsQuiet [a, b]) : s.Does (.bmult c d a b) fun u =>
    (s.noteSeq (d.setWidth 4) none).Queues u (.bmult (d.setWidth 4) (s.limbsOf a) (s.limbsOf b)
      ((s.rtag a).sign != (s.rtag b).sign)) [.acc d.toNat] :=
  does_sources _ rfl hq rfl (enterOp_queues (s.noteSeq (d.setWidth 4) none) _ s.region _)

theorem bdiv_enters (s : State) (c : Bool) (d a b : RegNo) (hq : s.SlotsQuiet [a, b]) (hb : s.value b ≠ 0) :
    s.Does (.bdiv c d a b) fun u => ∃ n : Nat, n = (s.rtag a).len.toNat + 1 - (s.rtag b).len.toNat ∧
      s.Queues u (.bdiv d (s.value a).natAbs (s.value b).natAbs (decide (s.value a < 0)) (decide (s.value b < 0)) n 0
        ((s.value a).natAbs / 2 ^ (32 * n))) [.v d.toNat, .v (next d).toNat] :=
  does_sources _ rfl hq (if_neg hb) ⟨_, rfl, enterOp_queues s _ s.region _⟩

theorem bmodb_enters (s : State) (c : Bool) (d a b : RegNo) (hq : s.SlotsQuiet [a, b, next b]) (hb : s.value b ≠ 0) :
    s.Does (.bmodb c d a b) fun u => s.Queues u (.bmodb d (barrett (s.value a).natAbs (s.value b).natAbs
      (s.value (next b)).natAbs (s.rtag b).len.toNat)) [.v d.toNat] :=
  does_sources _ rfl hq (if_neg (Int.natAbs_ne_zero.mpr hb)) (enterOp_queues s _ s.region _)

/-! ## Limbs in a descriptor's storage (R275, R276) -/

@[simp] theorem length_limbsOf (s : State) (r : RegNo) : (s.limbsOf r).length = (s.rtag r).len.toNat := by
  simp [State.limbsOf]

/-- The accesses of a descriptor's limbs may be made, and the instruction goes on with their places. -/
theorem limbs_go {s : State} {d : Desc} {writes : Bool} {n : Nat} {ps : List Place} (go : State → List Place → State)
    (hseg : d.allowed writes = true) (h : s.MayAccess d.seg.toNat (if writes then .write else .read) 4 true
      ((List.range n).map fun i => (i, d.off + 4 * i)) ps) :
    (s.whenPathFree fun v => v.withLimbs d writes n (go v)) = go s ps := by
  have hlimbs : ∀ v : State, v.withLimbs d writes n (go v) = v.withPlaces d.seg.toNat (if writes then .write else .read) 4 true
      ((List.range n).map fun i => (i, d.off + 4 * i)) (go v) := fun v => if_neg (by simp [hseg])
  simp only [hlimbs]
  exact access_goes go h

/-- What is sent belongs to the span's current region, which stays the same. -/
theorem sendsOp_region {s u : State} {refs : List Ref} {P : MemOp → Prop} (h : s.SendsOp u refs P) : u.region = s.region := by
  obtain ⟨v, o, ⟨hv, -⟩, hu, -⟩ := h
  rw [hu, hv]
  rfl

theorem ofNat_seg (k : BitVec 3) : (BitVec.ofNat 3 k.toNat).toNat = k.toNat := by simp

/-- The store of a number's limbs at their places. -/
def spillOp (s : State) (k : BitVec 3) (limbs : List Word) (ps : List Place) : MemOp :=
  { s.newOp .store .none k.toNat 0 false with
    whole := true, reqs := ps.map fun p => reqAt p 4 (listAt limbs p.lane 0).toNat 0 }

/-- The load of a number's limbs from their places. -/
def fillOp (s : State) (k : BitVec 3) (d : RegNo) (sign : Bool) (ps : List Place) : MemOp :=
  { s.newOp .load (.big d sign) k.toNat 0 false with
    reqs := ps.map fun p => reqAt { p with ro := p.ro || k == 4 } 4 0 0 }

theorem spillOp_sends (s : State) (k : BitVec 3) (limbs : List Word) (ps : List Place) :
    s.Sends ((s.fillFor k.toNat ps).send (spillOp (s.fillFor k.toNat ps) k limbs ps)) k.toNat .store .none ps 4
      (fun i => (listAt limbs i 0).toNat) [] := by
  refine (fillFor_looked s k.toNat ps).sendsOp (send_requests (o := spillOp (s.fillFor k.toNat ps) k limbs ps)
    (data := fun i => (listAt limbs i 0).toNat) [] ⟨rfl, rfl, rfl, rfl, rfl, rfl, rfl⟩ (ofNat_seg k) ?_)
  unfold spillOp
  rw [List.map_map]
  rfl

theorem fillOp_sends (s : State) (k : BitVec 3) (d : RegNo) (sign : Bool) (ps : List Place) :
    s.Sends (((s.fillFor k.toNat ps).send (fillOp (s.fillFor k.toNat ps) k d sign ps)).setPending (vr d)) k.toNat .load
      (.big d sign) ps 4 (fun _ => 0) (vr d) := by
  refine (fillFor_looked s k.toNat ps).sendsOp (send_requests (o := fillOp (s.fillFor k.toNat ps) k d sign ps)
    (data := fun _ => 0) (vr d) ⟨rfl, rfl, rfl, rfl, rfl, rfl, rfl⟩ (ofNat_seg k) ?_)
  unfold fillOp
  rw [List.map_map]
  rfl

section
variable {s : State} {c : Bool} {a b d : RegNo} {y : Desc} {ps : List Place}

theorem bspill_sends (hy : y = descOf (s.rs b) (s.rs (next b))) (hq : s.SlotsQuiet [a]) (hseg : y.allowed true = true)
    (hcap : (s.rtag a).len.toNat ≤ y.cap) (hlen : 0 < (s.rtag a).len.toNat)
    (h : s.MayAccess y.seg.toNat .write 4 true ((List.range (s.rtag a).len.toNat).map fun i => (i, y.off + 4 * i)) ps) :
    s.Does (.bspill c a b) fun u => ∃ v,
      s.Sends v y.seg.toNat .store .none ps 4 (fun i => (listAt (s.limbsOf a) i 0).toNat) [] ∧
      v.Starts u (.status (next b) (descPut (s.rs (next b)) (s.rtag a).len.toNat (s.rtag a).sign)) true s.region true
        [.s (next b).toNat] := by
  subst hy
  rw [← length_limbsOf] at hcap hlen h ⊢
  have hfull : ¬(s.limbsOf a).isEmpty = true := by
    rw [List.isEmpty_iff_length_eq_zero]
    omega
  obtain ⟨-, -, hsaddled, hsets⟩ := id h
  have hsent := spillOp_sends s (descOf (s.rs b) (s.rs (next b))).seg (s.limbsOf a) ps
  refine does_sources _ rfl hq ((if_neg (Nat.not_lt.mpr hcap)).trans ((if_neg hfull).trans ((limbs_go _ hseg h).trans
    (withSaddles_untouched _ hsaddled hsets)))) ⟨_, hsent, ?_⟩
  rw [← sendsOp_region hsent]
  exact slow_starts _ _ _ _ _ _

theorem bspill_zero (hy : y = descOf (s.rs b) (s.rs (next b))) (hq : s.SlotsQuiet [a]) (hseg : y.allowed true = true)
    (hlen : (s.rtag a).len = 0) : s.Does (.bspill c a b) fun u =>
      s.Starts u (.status (next b) (descPut (s.rs (next b)) 0 (s.rtag a).sign)) true s.region true [.s (next b).toNat] := by
  subst hy
  have hzero : (s.limbsOf a).length = 0 := by rw [length_limbsOf, hlen]; rfl
  have hempty : (s.limbsOf a).isEmpty = true := List.isEmpty_iff_length_eq_zero.mpr hzero
  rw [← hzero]
  exact does_sources _ rfl hq ((if_neg (by omega)).trans ((if_pos hempty).trans (if_pos hseg))) (slow_starts s _ _ _ _ _)

theorem bfill_sends (hy : y = descOf (s.rs b) (s.rs (next b))) (hseg : y.allowed false = true)
    (h : s.MayAccess y.seg.toNat .read 4 true ((List.range y.len).map fun i => (i, y.off + 4 * i)) ps) :
    s.Does (.bfill c d b) fun u => s.Sends u y.seg.toNat .load (.big d y.sign) ps 4 (fun _ => 0) [.v d.toNat] := by
  subst hy
  obtain ⟨-, -, hsaddled, hsets⟩ := id h
  exact does_reaching rfl ((limbs_go _ hseg h).trans (withSaddles_untouched _ hsaddled hsets))
    (fillOp_sends s (descOf (s.rs b) (s.rs (next b))).seg d _ ps)

end

/-! ## Long numbers (R277 to R282) -/

/-- A long operation in a new region of the Trotter's path. -/
def longStarted (s : State) (kind : BitVec 3) (d : RegNo) (a b : DWord × DWord) (alloc : Bool) (via : LongVia) (refs : List Ref) :
    State :=
  (s.newEngineRegion 3).2.slow (.long kind d a b alloc via) true (s.newEngineRegion 3).1 false refs

theorem longStarted_starts (s : State) (kind : BitVec 3) (d : RegNo) (a b : DWord × DWord) (alloc : Bool) (via : LongVia)
    (refs : List Ref) : (s.newEngineRegion 3).2.Starts (longStarted s kind d a b alloc via refs) (.long kind d a b alloc via) true
      (s.newEngineRegion 3).1 false refs := slow_starts _ _ _ _ _ _

/-- A product by tiles also queues its tiles of limbs (R282). -/
theorem startLong_tiles (s : State) (kind : BitVec 3) (d : RegNo) (a b : DWord × DWord) (alloc : Bool) (refs : List Ref) :
    s.startLong kind d a b alloc .tiles refs = (longStarted s kind d a b alloc .tiles refs).enterOp (.limbTiles (s.nextId + 1))
      (longStarted s kind d a b alloc .tiles refs).region [] := by
  have hlast : ∃ o : SlowOp, (longStarted s kind d a b alloc .tiles refs).slowOps.getLast? = some o ∧ o.id = s.nextId + 1 :=
    ⟨_, List.getLast?_concat, rfl⟩
  obtain ⟨o, ho, hid⟩ := hlast
  rw [← hid]
  unfold State.startLong
  unfold longStarted at ho ⊢
  dsimp only at ho ⊢
  rw [ho]

theorem startLong_plain (s : State) (kind : BitVec 3) (d : RegNo) (a b : DWord × DWord) (alloc : Bool) {via : LongVia}
    (refs : List Ref) (h : via ≠ .tiles) : s.startLong kind d a b alloc via refs = longStarted s kind d a b alloc via refs := by
  cases via with
  | trotter => rfl
  | carousel n => rfl
  | tiles => exact absurd rfl h

/-- A long operation that the checks let through starts. -/
theorem long_of {s : State} {i : Instr} {kind : BitVec 3} {d : RegNo} {a b : DWord × DWord} {srcs : List Desc} {bound : Nat}
    {tooLong : Bool} {via : LongVia} {eff : State → State} (e : exec i s = s.issue1 i eff)
    (h : eff s = s.longOp kind d a b srcs bound tooLong via) (hfits : tooLong = false) :
    s.Long i kind d a b srcs (descOf (s.rs d) (s.rs (next d))) bound via := fun hc halloc hranges => by
  subst hfits
  have hallowed : ¬(false || (decide ((descOf (s.rs d) (s.rs (next d))).cap < bound) && !s.longAlloc)) = true := by
    simpa using halloc
  have hstart : eff s = s.startLong kind d a b (decide ((descOf (s.rs d) (s.rs (next d))).cap < bound)) via (Machine.sp d) := by
    rw [h]
    unfold State.longOp
    dsimp only
    rw [if_neg hallowed]
    simp only [decide_eq_true_eq, hranges]
  refine ⟨_, by rw [e, issue1_clear _ hc], _, longStarted_starts s kind d a b _ via (Machine.sp d), ?_⟩
  rw [hstart]
  split
  · next ht =>
    subst ht
    rw [startLong_tiles]
    exact enterOp_queues _ _ _ _
  · next ht => exact startLong_plain s kind d a b _ _ ht

theorem long2_free {s : State} (kind : BitVec 3) (d a b : RegNo) (bound : Nat → Nat → Nat) (tooLong : Nat → Nat → Bool)
    (via : State → Nat → Nat → LongVia) (hs : s.grp.saddled = false) {x y : Desc} (hx : x = descOf (s.rs a) (s.rs (next a)))
    (hy : y = descOf (s.rs b) (s.rs (next b))) : s.long2 kind d a b bound tooLong via =
      s.longOp kind d (s.rs a, s.rs (next a)) (s.rs b, s.rs (next b)) [x, y] (bound x.len y.len) (tooLong x.len y.len)
        (via s x.len y.len) := by
  subst hx hy
  exact unlessSaddled_free _ hs

theorem descOf_len_lt (x y : DWord) : (descOf x y).len < 2 ^ 32 := Nat.mod_lt _ (by decide)

theorem blshift_long {s : State} {c : Bool} {d a b : RegNo} {x : Desc} {n : Int} {bound : Nat} (hs : s.grp.saddled = false)
    (hx : x = descOf (s.rs a) (s.rs (next a))) (hn : n = (s.rs b).toInt)
    (hbound : (if 0 < n then x.len + (n.toNat + 31) / 32 else x.len) = bound) (hfits : bound < 2 ^ 32) :
    s.Long (.blshift c d a b) 4 d (s.rs a, s.rs (next a)) (s.rs b, 0) [x] (descOf (s.rs d) (s.rs (next d))) bound .trotter := by
  subst hx hn hbound
  refine long_of rfl ((unlessSaddled_free _ hs).trans ?_) (decide_eq_false (Nat.not_lt.mpr (Nat.le_sub_one_of_lt hfits)))
  dsimp only
  rw [sx_toInt]
  rfl

/-- Settles O29: what enters the matrix engine's queue is `enterOp_queues`, what a descriptor's accesses send is `limbs_go`,
and what starts a long operation is `long_of`. -/
theorem bigEngineAndLongNumbers : Obligations.BigEngineAndLongNumbers := by
  refine ⟨fun s c d a b => ⟨bmult_enters s c d a b, does_of _ rfl (enterOp_queues s _ s.region _), bdiv_enters s c d a b,
    fun hq hb hc => ?_, fun hq hb hc => ?_, fun hq hb hc => ?_⟩, ?_⟩
  · exact (issue1_clear _ hc).trans (congrArg _ ((withSlots_sources _ hq).trans (if_pos hb)))
  · exact (issue1_clear _ hc).trans (congrArg _ ((withSlots_sources _ hq).trans (if_pos (Int.natAbs_eq_zero.mpr hb))))
  · obtain ⟨q, r, r1, z, hbq, hr, hr1, hz, hbarrett⟩ := barrett_eq (s.value a).natAbs (s.value b).natAbs
      (s.value (next b)).natAbs (s.rtag b).len.toNat
    obtain ⟨u, hu, hqueue⟩ := bmodb_enters s c d a b hq hb hc
    exact ⟨u, hu, _, _, _, _, q, r, r1, z, rfl, rfl, rfl, rfl, hbq, hr, hr1, hz, hbarrett ▸ hqueue⟩
  · rintro s c d a b x y z n ps hx hy rfl hn
    refine ⟨bspill_sends hy, bspill_zero hy, bfill_sends hy, fun hs => ⟨?_, ?_, fun hfits => ?_⟩, fun hs hpos hfits => ?_,
      fun hs hneg => ?_, fun hranges => ?_⟩
    · exact long_of rfl (long2_free 0 d a b _ _ _ hs hx hy) rfl
    · exact long_of rfl (long2_free 1 d a b _ _ _ hs hx hy) rfl
    · refine long_of rfl (long2_free 2 d a b _ _ _ hs hx hy) ?_
      simp only [Bool.and_eq_false_iff, bne_eq_false_iff_eq, decide_eq_false_iff_not]
      omega
    · exact blshift_long hs hx hn (if_pos hpos) hfits
    · exact blshift_long hs hx hn (if_neg (by omega)) (hx ▸ descOf_len_lt _ _)
    · subst hx hy
      refine does_of _ rfl ?_
      dsimp only
      rw [hranges]
      exact longStarted_starts s 3 d _ _ false .trotter (sr d)

end Sys2Proof.Laws

end

section
/-! # The matrix engine's operations come to their end (O60) -/

namespace Sys2Proof.Laws

open Sys2Proof Sys2Proof.Machine

/-! ## Serving (R309) -/

/-- A task ends only when all slices of its spans have exited. -/
theorem endExited_running (t : State) (h : ∀ g ∈ t.allGroups, g.id ≠ 0 → t.allExited g.id = false) : t.endExited = t := by
  have hnone : (t.allGroups.find? fun g => g.id != 0 && t.allExited g.id) = none :=
    List.find?_eq_none.mpr fun g hg => by
      rw [Bool.and_eq_true, bne_iff_ne]
      rintro ⟨hid, hall⟩
      rw [h g hg hid] at hall
      cases hall
  unfold State.endExited
  rw [hnone]

section
variable {s : State} {k : CoreId} {o : EngineOp}

theorem matrix_idle (h : (s.coreOf k).serving = none) : exec (.matrixOperationComplete k) s = .next s := by
  show execMatrixOperationComplete k s = _
  unfold execMatrixOperationComplete
  rw [h]
  rfl

theorem matrix_parked (h : (s.coreOf k).serving = some o) (hp : o.parked ≠ none) :
    exec (.matrixOperationComplete k) s = .next s := by
  show execMatrixOperationComplete k s = _
  unfold execMatrixOperationComplete
  rw [h]
  exact if_pos (Option.isSome_iff_ne_none.mpr hp)

theorem matrix_task {order : Nat} (h : (s.coreOf k).serving = some o) (hp : o.parked = none) (hk : o.kind = .task order) :
    exec (.matrixOperationComplete k) s = .next (s.taskAttempt k o order) := by
  show execMatrixOperationComplete k s = _
  unfold execMatrixOperationComplete
  rw [h]
  dsimp only
  rw [hp, hk]
  rfl

/-- An operation of a live span takes one step, and a task whose last span has exited may then end. -/
theorem matrix_performs (h : (s.coreOf k).serving = some o) (hp : o.parked = none) (hk : ∀ order, o.kind ≠ .task order) :
    exec (.matrixOperationComplete k) s =
      .next (if (s.spanOf o.span).isSome then ((s.focus o.span).performOp o).endExited else s) := by
  show execMatrixOperationComplete k s = _
  unfold execMatrixOperationComplete
  rw [h]
  dsimp only
  rw [hp, if_neg (by simp)]
  split
  · next order hkind => exact absurd hkind (hk order)
  · split <;> rfl

theorem matrix_lost (h : (s.coreOf k).serving = some o) (hp : o.parked = none) (hs : s.spanOf o.span = none)
    (hk : ∀ order, o.kind ≠ .task order) : exec (.matrixOperationComplete k) s = .next s := by
  rw [matrix_performs h hp hk, hs]
  rfl

theorem matrix_answers {v w : State} (h : (s.coreOf k).serving = some o) (hp : o.parked = none)
    (hs : (s.spanOf o.span).isSome = true) (hv : v = s.focus o.span) (hk : ∀ order, o.kind ≠ .task order)
    (hw : v.performOp o = w) : Answers (.matrixOperationComplete k) s fun u => u = w.endExited := by
  subst hv hw
  exact ⟨_, (matrix_performs h hp hk).trans (congrArg _ (if_pos hs)), rfl⟩

end

/-! ## The step of each kind of operation -/

section
variable {v : State} {o : EngineOp}

theorem performOp_mma {a b : RegNo} {acc : BitVec 4} {p : BitVec 3} {i : Bool} {quad : List DWord}
    (h : o.kind = .mma a b acc p i quad) : v.performOp o = v.performMma o a b acc p quad := by rw [State.performOp, h]

theorem performOp_mprom {acc : BitVec 4} (h : o.kind = .mprom acc) :
    v.performOp o = (v.setAcc acc (v.acc acc).close).finishOp o := by rw [State.performOp, h]

theorem performOp_bmult {acc : BitVec 4} {xs ys : List Word} {sign : Bool} (h : o.kind = .bmult acc xs ys sign) :
    v.performOp o = (v.setAcc acc (productAcc xs ys sign)).finishOp o := by rw [State.performOp, h]

theorem performOp_bdiv {d : RegNo} {a b : Nat} {sa sb : Bool} {limbs q r : Nat} (h : o.kind = .bdiv d a b sa sb limbs q r) :
    v.performOp o = v.performDiv o d a b sa sb limbs q r := by rw [State.performOp, h]

theorem performOp_limbTiles {slow : Nat} (h : o.kind = .limbTiles slow) : v.performOp o = v.finishOp o := by
  rw [State.performOp, h]

theorem performOp_spmv {d : RegNo} {x y : DWord} (h : o.kind = .spmv d x y) : v.performOp o = v.performSpmv o d x y := by
  rw [State.performOp, h]

theorem performOp_sptrsv {d : RegNo} {x y : DWord} (h : o.kind = .sptrsv d x y) : v.performOp o = v.performTri o d x y := by
  rw [State.performOp, h]

/-- A number that its register's slot words can hold is put there (R259). -/
theorem enginePut_of_fits {x : Int} (d : RegNo) (h : bigLen x ≤ 32 + v.slotLimbs) : v.enginePut o d x = v.putBig d x :=
  if_neg (by omega)

theorem performOp_bcres {d : RegNo} {acc : BitVec 4} (h : o.kind = .bcres d acc)
    (hfits : bigLen (v.acc acc).resolved ≤ 32 + v.slotLimbs) :
    v.performOp o = (v.putBig d (v.acc acc).resolved).finishOp o := by
  rw [State.performOp, h, ← enginePut_of_fits d hfits]

theorem performOp_bmodb {d : RegNo} {x : Int} (h : o.kind = .bmodb d x) (hfits : bigLen x ≤ 32 + v.slotLimbs) :
    v.performOp o = (v.putBig d x).finishOp o := by
  rw [State.performOp, h, ← enginePut_of_fits d hfits]

theorem performOp_drain {acc : BitVec 4} {red : Bool} {seg : BitVec 3} {base x : DWord} {logged : Bool} {room : Nat} {t : State}
    (h : o.kind = .drain acc red seg base x logged room) (hdrain : v.performDrain o acc red seg base x logged = .ok () t) :
    v.performOp o = t.finishOp o := by
  rw [State.performOp, h]
  dsimp only
  rw [hdrain]
  rfl

end

/-! ## Steps of products, quotients and sparse products (R273, R301, R322) -/

/-- A k-step that meets no poisoned scale entry. -/
theorem performMma_step {v : State} {o : EngineOp} {a b : RegNo} {acc : BitVec 4} {p : BitVec 3} {quad : List DWord}
    {kind kc at_ : Nat} {w : MmaSpec} {d : MmaDone}
    (hpair : pairOf (shapeRead (v.tile a).shape) (shapeRead (v.tile b).shape) = some (kind, kc))
    (hw : w = mmaSpecOf o kind kc p.toNat (quadOf quad)) (hat : at_ = o.progress * kc)
    (ha : v.badScales (v.tile a) (quadOf quad).aro (quadOf quad).m at_ w.k = none)
    (hb : v.badScales (v.tile b) (quadOf quad).bro (quadOf quad).n at_ w.k = none)
    (hd : d = mmaDo w (v.acc acc) (v.tileRow (v.tile a) (quadOf quad).aro at_ w.k)
      (v.tileRow (v.tile b) (quadOf quad).bro at_ w.k)) (hfull : d.full = false) :
    v.performMma o a b acc p quad =
      if at_ + kc < (quadOf quad).k then (v.setAcc acc d.acc).updOp o.id fun z =>
        { z with progress := z.progress + 1, gathered := (o.gathered.1 || d.sticky, d.spec) }
      else if kind == 4 then ((v.setAcc acc d.acc).wxwin (xwinMerge (v.setAcc acc d.acc).sp.regs.xwin
        (o.gathered.1 || d.sticky) d.spec)).finishOp o
      else (v.setAcc acc d.acc).finishOp o := by
  subst hw hat hd
  have hclean : (none <|> none : Option Nat) = none := rfl
  unfold State.performMma
  simp only [hpair, ha, hb, hclean, hfull, Bool.false_eq_true, if_false]

/-- Long division by one more digit: the quotient and the remainder of the digits read so far go on. -/
theorem next_digit {x b q r B : Nat} (hb : 0 < b) (h : q * b + r = x / B) :
    (r * B + x % B) % b < b ∧ (q * B + (r * B + x % B) / b) * b + (r * B + x % B) % b = x := by
  refine ⟨Nat.mod_lt _ hb, ?_⟩
  have hdigit : r * B + x % B + q * B * b = x := by
    calc r * B + x % B + q * B * b = (q * b + r) * B + x % B := by ring
      _ = x := by rw [h, Nat.div_add_mod']
  generalize r * B + x % B = y at hdigit ⊢
  calc (q * B + y / b) * b + y % b = y / b * b + y % b + q * B * b := by ring
    _ = x := by rw [Nat.div_add_mod', hdigit]

/-- The limbs above one are those from it on without the lowest. -/
theorem div_two_pow_limb (a n : Nat) : a / 2 ^ (32 * (n + 1)) = a / 2 ^ (32 * n) / 2 ^ 32 := by
  rw [Nat.div_div_eq_div_mul, ← Nat.pow_add, Nat.mul_succ]

section
variable {v : State} {o : EngineOp} {d : RegNo} {a b limbs q r : Nat} {sa sb : Bool}

/-- A quotient limb before the last (R273). -/
theorem performDiv_goes (hb : 0 < b) (hleft : 1 < limbs - o.progress) (h : q * b + r = a / 2 ^ (32 * (limbs - o.progress))) :
    ∃ q1 r1, r1 < b ∧ q1 * b + r1 = a / 2 ^ (32 * (limbs - o.progress - 1)) ∧ v.performDiv o d a b sa sb limbs q r =
      v.updOp o.id fun y => { y with kind := .bdiv d a b sa sb limbs q1 r1, progress := y.progress + 1 } := by
  obtain ⟨n, hn⟩ : ∃ n, limbs - o.progress = n + 1 := ⟨limbs - o.progress - 1, by omega⟩
  rw [hn] at h ⊢
  obtain ⟨hlt, hstep⟩ := next_digit hb (h.trans (div_two_pow_limb a n))
  refine ⟨_, _, hlt, hstep, ?_⟩
  unfold State.performDiv
  dsimp only
  rw [hn, if_neg (by omega), if_neg (Nat.succ_ne_zero n), if_neg (Nat.succ_ne_zero n)]
  rfl

/-- The last quotient limb, or none at all: both results are written (R273). -/
theorem performDiv_ends (hb : 0 < b) (hleft : limbs - o.progress ≤ 1) (hr : r < b)
    (h : q * b + r = a / 2 ^ (32 * (limbs - o.progress))) : v.performDiv o d a b sa sb limbs q r =
      ((v.putBig d (signed (sa != sb) (a / b))).putBig (next d) (signed sa (a % b))).finishOp o := by
  have hlast : ∃ q1 r1, r1 < b ∧ q1 * b + r1 = a ∧ v.performDiv o d a b sa sb limbs q r =
      ((v.putBig d (signed (sa != sb) q1)).putBig (next d) (signed sa r1)).finishOp o := by
    unfold State.performDiv
    dsimp only
    rw [if_pos hleft]
    rcases Nat.le_one_iff_eq_zero_or_eq_one.mp hleft with h0 | h1
    · rw [h0] at h ⊢
      refine ⟨_, _, Nat.mod_lt _ hb, ?_, rfl⟩
      simpa [Nat.mod_eq_of_lt hr, Nat.div_eq_of_lt hr] using h
    · rw [h1] at h ⊢
      obtain ⟨hlt, hstep⟩ := next_digit hb (h.trans (div_two_pow_limb a 0))
      exact ⟨_, _, hlt, by simpa using hstep, rfl⟩
  obtain ⟨q1, r1, hr1, rfl, hperform⟩ := hlast
  have hq : (q1 * b + r1) / b = q1 := by
    rw [Nat.mul_comm, Nat.mul_add_div hb, Nat.div_eq_of_lt hr1, Nat.add_zero]
  have hm : (q1 * b + r1) % b = r1 := by
    rw [Nat.mul_comm, Nat.mul_add_mod, Nat.mod_eq_of_lt hr1]
  rw [hperform, hq, hm]

end

theorem performSpmv_goes {v t : State} {o : EngineOp} {d : RegNo} {x y : DWord}
    (h : v.spmvStep (v.opActor o) x y o.progress = .ok () t) (hmore : o.progress + 1 < fld y 32 32) :
    v.performSpmv o d x y = t.updOp o.id fun z => { z with progress := z.progress + 1, failed := none } := by
  unfold State.performSpmv
  dsimp only
  rw [if_neg (by omega), h]
  exact if_neg (by omega)

/-! ## Tile updates (R308) -/

theorem foldl_memOps {α : Type} {f : State → α → State} (h : ∀ t x, (f t x).memOps = t.memOps) (l : List α) (s : State) :
    (l.foldl f s).memOps = s.memOps :=
  List.foldlRecOn (motive := fun t : State => t.memOps = s.memOps) l f rfl fun t ht x _ => (h t x).trans ht

theorem homeRead_memOps (s : State) (die : Option (Fin 4)) (key n : Nat) (slot : BitVec 10) (p : Policy) :
    (s.homeRead die key n slot p).2.2.memOps = s.memOps := by
  have hread := (cacheRead_served s die key slot p).written.memOps
  unfold State.homeRead
  dsimp only
  split
  · exact hread
  · exact hread

theorem applyElem_memOps (s : State) (o : MemOp) (kind i : Nat) : (s.applyElem o kind i).memOps = s.memOps := by
  unfold State.applyElem
  dsimp only
  split
  · rfl
  · exact foldl_memOps (fun t j => (writeKey_written t _ _ _).memOps) _ s

theorem settleUpdate_memOps (s before : State) (o : MemOp) (q : Req) : (s.settleUpdate before o q).memOps = s.memOps := by
  have hwrite : ∀ mask, ((s.cacheWrite (sectorOf q.key) mask q.slot (o.policy q)).evalMonitors q.key q.bytes).memOps = s.memOps :=
    fun mask => ((cacheWrite_served s _ mask q.slot _).written.trans (evalMonitors_written _ _ _)).memOps
  unfold State.settleUpdate
  dsimp only
  split
  · rfl
  · split
    · exact (logSector_memOps _ _ _ _ _ _ _).trans (hwrite _)
    · exact hwrite _

/-- The update's own requests that were at their homes are performed; no other operation changes. -/
theorem applyUpdate_memOps (s : State) (r : MemOp) (kind : Nat) : (s.applyUpdate r kind).memOps =
    s.memOps.map fun y => if y.id = r.id then
      { r with reqs := r.reqs.map fun q => if q.status = .sent then { q with status := .performed } else q } else y := by
  unfold State.applyUpdate
  dsimp only
  rw [putOp_memOps, foldl_memOps (fun t q => settleUpdate_memOps t _ r q), foldl_memOps fun t i => applyElem_memOps t r kind i,
    foldl_memOps fun t q => homeRead_memOps t none q.key q.bytes q.slot (r.policy q)]
  simp only [mapIf, beq_iff_eq]

/-- Has a share of an update come to its home, or been lost on its way? -/
def arrivedShare (s : State) (r : MemOp) (q : Req) : Bool :=
  q.status == .unreachable ||
    (q.status == .sent && !s.onFabric r.id (sectorOf q.key) && s.reaches (fabricDie r.span.core) q.key)

theorem arrivedShare_iff (s : State) (r : MemOp) (q : Req) : arrivedShare s r q = true ↔ q.status = .unreachable ∨
    (q.status = .sent ∧ s.onFabric r.id (sectorOf q.key) = false ∧ s.reaches (fabricDie r.span.core) q.key = true) := by
  simp [arrivedShare, and_assoc]

theorem arrivedShare_eq_false (s : State) (r : MemOp) (q : Req) : arrivedShare s r q = false ↔ q.status ≠ .unreachable ∧
    (q.status ≠ .sent ∨ s.onFabric r.id (sectorOf q.key) = true ∨ s.reaches (fabricDie r.span.core) q.key = false) := by
  rw [← Bool.not_eq_true, arrivedShare_iff]
  cases s.onFabric r.id (sectorOf q.key) <;> cases s.reaches (fabricDie r.span.core) q.key <;> simp

/-- What the admission of an update's shares leads to (R308, R362). -/
def afterAdmission (s : State) (r : MemOp) (kind : Nat) (x : Admission) : State :=
  match x with
  | .admitted t => t.applyUpdate r kind
  | .refused y =>
    s.putOp { r with reqs := mapIf r.reqs (fun q => q.status == .sent) fun q => { q with status := .refused (regionBits y) } }
  | .waits w => s.queueFor (some w)

section
variable {s : State} {r : MemOp} {kind : BitVec 3}

theorem update_absent (h : s.opOf r.id = none ∨ (s.opOf r.id = some r ∧ ∀ kind, r.kind ≠ .update kind)) :
    exec (.tileUpdateApply r.id) s = .next s := by
  show execTileUpdateApply r.id s = _
  unfold execTileUpdateApply
  rcases h with h | ⟨h, hk⟩
  · rw [h]
    rfl
  · rw [h]
    dsimp only
    split
    · next kind hkind => exact absurd hkind (hk kind)
    · rfl

theorem update_stays (h : s.opOf r.id = some r) (hk : r.kind = .update kind)
    (hwait : r.shares = [] ∨ ∃ q ∈ r.reqs, arrivedShare s r q = false) : exec (.tileUpdateApply r.id) s = .next s := by
  have hc : (r.shares.isEmpty || !r.reqs.all (arrivedShare s r)) = true := by
    rcases hwait with h0 | ⟨q, hq, hf⟩
    · simp [h0]
    · have hall : r.reqs.all (arrivedShare s r) = false := List.all_eq_false.mpr ⟨q, hq, by simp [hf]⟩
      simp [hall]
  show execTileUpdateApply r.id s = _
  unfold execTileUpdateApply
  rw [h]
  dsimp only
  rw [hk]
  exact if_pos hc

theorem update_goes (h : s.opOf r.id = some r) (hk : r.kind = .update kind) (hshares : r.shares ≠ [])
    (harrived : ∀ q ∈ r.reqs, arrivedShare s r q = true) :
    exec (.tileUpdateApply r.id) s = .next (afterAdmission s r kind.toNat (s.admitReqs r r.shares)) := by
  have hc : ¬(r.shares.isEmpty || !r.reqs.all (arrivedShare s r)) = true := by
    simp [hshares, List.all_eq_true.mpr harrived]
  show execTileUpdateApply r.id s = _
  unfold execTileUpdateApply
  rw [h]
  dsimp only
  split
  · next kind' hkind =>
    obtain rfl : kind' = kind := AccessKind.update.inj (hkind.symm.trans hk)
    refine (if_neg hc).trans ?_
    cases s.admitReqs r r.shares <;> rfl
  · next hother => exact absurd hk (hother kind)

end

/-- Settles O60: the operation that is served takes the step of its kind, and a tile update is applied when all its shares
have arrived. -/
theorem matrixCompletions : Obligations.MatrixCompletions := by
  intro s v k o r
  refine ⟨matrix_idle, fun h hor => ?_, endExited_running, fun h hp hs hv => ?_, fun h hp order hk => ⟨fun hnone => ?_,
    fun e w x t he hw hrun => ?_⟩, update_absent, fun kind h hk => ⟨fun hwait => ?_,
    fun hshares harrived => ⟨fun s1 hadmit => ?_, fun by_ hadmit => ?_⟩⟩⟩
  · by_cases hp : o.parked = none
    · obtain ⟨hs, hk⟩ := hor.resolve_left (not_not_intro hp)
      exact matrix_lost h hp hs hk
    · exact matrix_parked h hp
  · have hdone : ∀ {kind : EngineKind} {w : State}, o.kind = kind → (∀ order, kind ≠ .task order) → v.performOp o = w →
        Answers (.matrixOperationComplete k) s fun u => u = w.endExited := fun hk hkind hw =>
      matrix_answers h hp hs hv (fun order e => hkind order (hk.symm.trans e)) hw
    refine ⟨fun a b acc p i quad hk => ⟨hdone hk nofun (performOp_mma hk),
        fun kind kc w d at_ hpair hw hat ha hb hd hfull => ?_⟩,
      fun acc hk => hdone hk nofun (performOp_mprom hk), fun acc xs ys sign hk => hdone hk nofun (performOp_bmult hk),
      fun d acc hk hfits => hdone hk nofun (performOp_bcres hk hfits),
      fun d a b sa sb limbs q rem left hk hleft hb hrem hsofar => ⟨fun hmore => ?_, fun hlast => ?_⟩,
      fun d x hk hfits => hdone hk nofun (performOp_bmodb hk hfits), fun slow hk => hdone hk nofun (performOp_limbTiles hk),
      fun acc red seg base x logged room t hk hdrain => hdone hk nofun (performOp_drain hk hdrain),
      fun d x y => ⟨fun hk => ⟨hdone hk nofun (performOp_spmv hk), fun t hstep hmore => performSpmv_goes hstep hmore⟩,
        fun hk => hdone hk nofun (performOp_sptrsv hk)⟩,
      fun d x => ⟨?_, putBig_tag_self v d x⟩⟩
    · have hstep := performMma_step hpair hw hat ha hb hd hfull
      refine ⟨fun hmore => hstep.trans (if_pos hmore), fun hend hkind => hstep.trans ((if_neg (by omega)).trans (if_neg ?_))⟩
      simpa using hkind
    · subst hleft
      obtain ⟨q1, r1, hlt, hlimb, hgoes⟩ := performDiv_goes (v := v) (sa := sa) (sb := sb) (d := d) hb hmore hsofar
      obtain ⟨u, hu, rfl⟩ := hdone hk nofun ((performOp_bdiv hk).trans hgoes)
      exact ⟨_, hu, q1, r1, hlt, hlimb, rfl⟩
    · subst hleft
      exact hdone hk nofun ((performOp_bdiv hk).trans (performDiv_ends hb hlast hrem hsofar))
    · exact (putBig_lane v d x (by decide)).trans (by simp)
  · rw [matrix_task h hp hk]
    unfold State.taskAttempt
    rw [hnone]
  · refine ⟨_, matrix_task h hp hk, ?_⟩
    unfold State.taskAttempt
    simp only [he, hw, hrun]
  · refine update_stays h hk (hwait.imp_right fun ⟨q, hq, hf⟩ => ⟨q, hq, (arrivedShare_eq_false s r q).mpr hf⟩)
  · refine ⟨_, (update_goes h hk hshares fun q hq => (arrivedShare_iff s r q).mpr (harrived q hq)).trans ?_, rfl, ?_⟩
    · rw [hadmit]
      rfl
    · rw [applyUpdate_memOps, (admitReqs_recorded hadmit).memOps]
  · refine ⟨_, update_goes h hk hshares fun q hq => (arrivedShare_iff s r q).mpr (harrived q hq), ?_⟩
    rw [hadmit]
    simp only [afterAdmission, State.putOp, mapIf, beq_iff_eq]

end Sys2Proof.Laws

end
